-- ==== Sys2Proof/Word.lean ====
section
/-!
DEFINITION. The word types of the FX-128 and the sizes of its address spaces.
-/
namespace Sys2Proof

abbrev Byte := BitVec 8
/-- A lane value, a bundle word. -/
abbrev Word := BitVec 32
/-- A general register, a queue entry, a table entry. -/
abbrev DWord := BitVec 64
/-- The 64 lanes of a vector (R9). -/
abbrev Lanes := Vector (BitVec 32) 64

end Sys2Proof
end

