-- ==== Sys2Proof/Config.lean ====
section
/-!
DEFINITION. What an implementation fixes and the manual leaves open: free values. None of these constants has a body, so no proof
can see a value of it (log 6). The argument of a wait or of a sample is the counter `fresh` of the state.
-/
namespace Sys2Proof.Config

/-- Cycles that the fabric takes beyond the least trip of R444 and R458 (misses, walks, traffic), for the n-th message.
DESIGN CHOICE (log 6). -/
opaque fabricWait : Nat → Nat
/-- Cycles from a command's start until a copy, transform or merge unit hands out its n-th row, tile or line (R313, R349). -/
opaque engineWait : Nat → Nat
/-- Memory errors met at the n-th fill of a line: 1 a corrected one, 2 an uncorrectable one (R449). DESIGN CHOICE (log 6, 40). -/
opaque memoryError : Nat → Fin 3
/-- Detail of an FP_OVERFLOW record of a transform unit, to which R209 gives no opcode. DESIGN CHOICE (log 6). -/
opaque transformDetail : BitVec 48
/-- Cycles the usher takes for its n-th decision (R419). -/
opaque usherWait : Nat → Nat
/-- Cycles the newel controller takes for a mailbox command (R477). -/
opaque newelWait : Nat → Nat
/-- Bytes of the undo journal that n lines and m load values take (R44). -/
opaque journalBytes : Nat → Nat → Nat
/-- The n-th sample of a sensor: temperatures, power, voltage (R479). DESIGN CHOICE (log 6). -/
opaque sensor : Nat → BitVec 16
/-- The way a full set evicts at the n-th eviction: hall, atrium, caches and MTLB name no replacement rule (R446, R453). -/
opaque victim : Nat → Nat
/-- Whether the bytes of a line compress below 128 bytes: the manual names no encoding (R457). DESIGN CHOICE (log 6). -/
opaque compresses : List (BitVec 8) → Bool
/-- Silicon revision of IDENT (R469). -/
opaque revision : BitVec 16
/-- The module's own peer number (R469). -/
opaque ownPeer : BitVec 4
/-- Device serial number (R483). -/
opaque serial : BitVec 128
/-- Modulus and public exponent of the key whose digest is fused into the controller (R482). -/
opaque signingModulus : Nat
opaque signingExponent : Nat
/-- Whether the newel controller raises its alert vector for the n-th record of the log: the manual names no occasion (R472).
DESIGN CHOICE (log 6). -/
opaque newelAlert : Nat → Bool
/-- ECDSA P-384 signature of the first 128 report bytes under the device key, for the n-th report (R483). -/
opaque attestSignature : Nat → List (BitVec 8) → BitVec 768
/-- The eight bytes of a log record that hold its kind code and its unit, from the kind's place in R480 and the unit's number.
DESIGN CHOICE (log 6, 32). -/
opaque logHead : Nat → Nat → BitVec 64
/-- Microseconds since manufacture at CYCLE 0 (R480). -/
opaque manufactureTime : Nat

end Sys2Proof.Config
end

