-- ==== Sys2Proof/Syntax.lean ====
section
/-!
DEFINITION. The instruction set as syntax: one constructor of `Instr` for each row of the table of operations and events.
Operand kinds (R83), modifiers and the payloads of events stand before it.
-/
namespace Sys2Proof

/-- A general register g0..g63 (R169). -/
abbrev Reg := Fin 64
/-- A predicate register p0..p7 (R169). -/
abbrev PReg := Fin 8
/-- A global core number 0..127 (R9). -/
abbrev CoreId := Fin 128
/-- A lane group 0..23 of a core (R12). -/
abbrev GroupId := Fin 24
/-- A command queue 0..63 (R413). -/
abbrev QueueId := Fin 64

/-- The predicate of a slot word: register and inversion (R61). -/
structure Qual where
  p : PReg
  neg : Bool
  deriving DecidableEq, Repr

/-- The order field of the atomic format (R66). -/
inductive Order where
  | rlx | acq | rel | ar
  deriving DecidableEq, Repr

/-- The scope field of the atomic format (R66): die, team, package, system. -/
inductive Scope where
  | d | t | p | s
  deriving DecidableEq, Repr

/-- Direction of a matrix-register vector (R83, R257). -/
inductive Dir where
  | h | v | d | a
  deriving DecidableEq, Repr

/-- An operand of a group table entry (R83). -/
inductive Operand where
  /-- register m, direction, index -/
  | mat (m : Fin 4) (dir : Dir) (i : Fin 64)
  /-- port q0..q15 -/
  | port (n : Fin 16)
  /-- circular-buffer handle cb0..cb15 -/
  | cb (n : Fin 16)
  /-- group scalar s0..s15 -/
  | scalar (n : Fin 16)
  | zero
  | lane
  /-- the broadcast immediate of the V slot -/
  | imm
  | grp
  | ones
  /-- own stair latch, as destination -/
  | lat
  /-- stair latch of group (g - 1) mod 24 -/
  | latL
  /-- stair latch of group (g + 1) mod 24 -/
  | latR
  deriving DecidableEq, Repr

/-- Element formats of the M-form fmt field (R86). -/
inductive Fmt where
  | fp32 | bf16 | fp16 | int32 | int16 | int8 | uint16 | uint8 | npf
  deriving DecidableEq, Repr

/-- The fields every V-form entry carries: class, mod, lane predicate, rot bit (R81). -/
structure VHead where
  cls : Fin 8
  mod : BitVec 4
  vp : Fin 8
  rot : Bool
  deriving DecidableEq, Repr

/-- The fields every M-form entry carries: class, lane predicate, rot bit (R82). -/
structure MHead where
  cls : Fin 8
  vp : Fin 8
  rot : Bool
  deriving DecidableEq, Repr

/-- Destination codes of `bpopq` (R217). -/
inductive PopDst where
  | bl (n : Fin 4)
  | gm (n : Fin 8)
  | sp
  /-- rot of every group of mask register m -/
  | rot (m : Fin 8)
  /-- scalar n of every group of mask register m -/
  | scalar (n : Fin 16) (m : Fin 8)
  | discard
  deriving DecidableEq, Repr

/-- Source codes of `bpushq` (R217). -/
inductive PushSrc where
  | bl (n : Fin 4)
  | gm (n : Fin 8)
  | sp
  /-- scalar n of group g -/
  | scalar (n : Fin 16) (g : GroupId)
  | imm (v : BitVec 14)
  deriving DecidableEq, Repr

/-- What a peer asks of this module (R475). -/
inductive PeerOp where
  | read (n : Nat)
  | write (bytes : List (BitVec 8))
  /-- atomic or reduction opcode 15..28 of the G slot map (R68) with its operand and the compare value of `acas` -/
  | atomic (op : Nat) (v c : BitVec 64)
  deriving DecidableEq, Repr

/-- A request arriving from a peer: the peer's own tag, its number, the physical address, the operation (R475). -/
structure PeerReq where
  peer : Fin 16
  tag : Nat
  pa : Nat
  op : PeerOp
  deriving DecidableEq, Repr

/-- The operations and events of the FX-128: control-slot words, broadcast-slot words, group table entries, and the
events of engines, fabrics, usher, host port and newel controller. -/
inductive Instr where
  /-- R59: A control header with mask 0 issues fold + 1 empty bundles in which no slot acts. -/
  | emptyBundle (landing : Bool) (fold : BitVec 8)
  /-- R76: A broadcast header with mask 0 applies its wait mask and issues fold + 1 empty broadcast bundles. -/
  | emptyBroadcastBundle (fold : BitVec 8) (wait : BitVec 16)
  /-- R176: Writes g[dst] := g[a] + g[b] modulo 2^64. -/
  | add (q : Qual) (d a b : Reg)
  /-- R176: Writes g[dst] := g[a] − g[b]. -/
  | sub (q : Qual) (d a b : Reg)
  /-- R176: Writes the bitwise AND of two registers. -/
  | and (q : Qual) (d a b : Reg)
  /-- R176: Writes the bitwise OR of two registers. -/
  | or (q : Qual) (d a b : Reg)
  /-- R176: Writes the bitwise XOR of two registers. -/
  | xor (q : Qual) (d a b : Reg)
  /-- R176: Writes a AND NOT b. -/
  | andn (q : Qual) (d a b : Reg)
  /-- R176: Writes the signed minimum. -/
  | min (q : Qual) (d a b : Reg)
  /-- R176: Writes the signed maximum. -/
  | max (q : Qual) (d a b : Reg)
  /-- R176: Writes the unsigned minimum. -/
  | minu (q : Qual) (d a b : Reg)
  /-- R176: Writes the unsigned maximum. -/
  | maxu (q : Qual) (d a b : Reg)
  /-- R176: Shifts left by b[5:0]. -/
  | sll (q : Qual) (d a b : Reg)
  /-- R176: Shifts right logically by b[5:0]. -/
  | srl (q : Qual) (d a b : Reg)
  /-- R176: Shifts right arithmetically by b[5:0]. -/
  | sra (q : Qual) (d a b : Reg)
  /-- R176: Rotates left by b[5:0]. -/
  | rol (q : Qual) (d a b : Reg)
  /-- R176: Writes the low 64 bits of the product. -/
  | mul (q : Qual) (d a b : Reg)
  /-- R176: Writes the high 64 bits of the signed product. -/
  | mulh (q : Qual) (d a b : Reg)
  /-- R176: Writes the high 64 bits of the unsigned product. -/
  | mulhu (q : Qual) (d a b : Reg)
  /-- R177: Signed division truncating toward zero, never trapping. -/
  | div (q : Qual) (d a b : Reg)
  /-- R177: Unsigned division, never trapping. -/
  | divu (q : Qual) (d a b : Reg)
  /-- R177: Signed remainder. -/
  | rem (q : Qual) (d a b : Reg)
  /-- R177: Unsigned remainder. -/
  | remu (q : Qual) (d a b : Reg)
  /-- R178: Sets a predicate to a = b. -/
  | cmpeq (q : Qual) (pd : PReg) (a b : Reg)
  /-- R178: Sets a predicate to a ≠ b. -/
  | cmpne (q : Qual) (pd : PReg) (a b : Reg)
  /-- R178: Sets a predicate to signed a < b. -/
  | cmplt (q : Qual) (pd : PReg) (a b : Reg)
  /-- R178: Sets a predicate to unsigned a < b. -/
  | cmpltu (q : Qual) (pd : PReg) (a b : Reg)
  /-- R178: Sets a predicate to signed a ≤ b. -/
  | cmple (q : Qual) (pd : PReg) (a b : Reg)
  /-- R178: Sets a predicate to unsigned a ≤ b. -/
  | cmpleu (q : Qual) (pd : PReg) (a b : Reg)
  /-- R179: Selects a or b by a predicate. -/
  | sel (q : Qual) (d : Reg) (pc : PReg) (a b : Reg)
  /-- R179: Counts leading zero bits. -/
  | clz (q : Qual) (d a : Reg)
  /-- R179: Counts trailing zero bits. -/
  | ctz (q : Qual) (d a : Reg)
  /-- R179: Counts one bits. -/
  | popc (q : Qual) (d a : Reg)
  /-- R179: Sign-extends from 8, 16 or 32 bits. -/
  | sext (q : Qual) (d a : Reg) (fn : BitVec 4)
  /-- R179: Zero-extends from 8, 16 or 32 bits. -/
  | zext (q : Qual) (d a : Reg) (fn : BitVec 4)
  /-- R180: Adds a sign-extended 12-bit immediate. -/
  | addi (p : Fin 4) (d a : Reg) (imm : BitVec 12)
  /-- R180: ANDs with a sign-extended immediate. -/
  | andi (p : Fin 4) (d a : Reg) (imm : BitVec 12)
  /-- R180: ORs with a sign-extended immediate. -/
  | ori (p : Fin 4) (d a : Reg) (imm : BitVec 12)
  /-- R180: XORs with a sign-extended immediate. -/
  | xori (p : Fin 4) (d a : Reg) (imm : BitVec 12)
  /-- R180: Shifts left by an immediate. -/
  | slli (p : Fin 4) (d a : Reg) (sh : BitVec 6)
  /-- R180: Shifts right logically by an immediate. -/
  | srli (p : Fin 4) (d a : Reg) (sh : BitVec 6)
  /-- R180: Shifts right arithmetically by an immediate. -/
  | srai (p : Fin 4) (d a : Reg) (sh : BitVec 6)
  /-- R180: Sets a predicate by comparing a register with an immediate under a condition. -/
  | cmpi (p : Fin 4) (cond : BitVec 3) (pd : PReg) (a : Reg) (imm : BitVec 12)
  /-- R181: Loads a sign-extended upper immediate. -/
  | lui (d : Reg) (imm : BitVec 20)
  /-- R181: Adds an upper immediate to the bundle address. -/
  | addpc (d : Reg) (imm : BitVec 20)
  /-- R182: Scalar FP32 addition. -/
  | faddS (q : Qual) (d a b : Reg)
  /-- R182: Scalar FP32 subtraction. -/
  | fsubS (q : Qual) (d a b : Reg)
  /-- R182: Scalar FP32 multiplication. -/
  | fmulS (q : Qual) (d a b : Reg)
  /-- R182: Scalar FP32 minimum. -/
  | fminS (q : Qual) (d a b : Reg)
  /-- R182: Scalar FP32 maximum. -/
  | fmaxS (q : Qual) (d a b : Reg)
  /-- R183: Scalar conversion selected by fn. -/
  | fcvtS (q : Qual) (d a : Reg) (fn : BitVec 4)
  /-- R178: Sets a predicate by an IEEE FP32 comparison. -/
  | fcmpS (q : Qual) (pd : PReg) (a b : Reg) (fn : BitVec 4)
  /-- R178: Combines two predicates by a truth table. -/
  | plog (q : Qual) (pd pa pb : PReg) (tt : BitVec 4)
  /-- R184: Loads a sign-extended byte from GLB. -/
  | ldb (q : Qual) (r base : Reg) (off : BitVec 10)
  /-- R184: Loads a zero-extended byte from GLB. -/
  | ldbu (q : Qual) (r base : Reg) (off : BitVec 10)
  /-- R184: Loads a sign-extended halfword. -/
  | ldh (q : Qual) (r base : Reg) (off : BitVec 10)
  /-- R184: Loads a zero-extended halfword. -/
  | ldhu (q : Qual) (r base : Reg) (off : BitVec 10)
  /-- R184: Loads a sign-extended word. -/
  | ldw (q : Qual) (r base : Reg) (off : BitVec 10)
  /-- R184: Loads a zero-extended word. -/
  | ldwu (q : Qual) (r base : Reg) (off : BitVec 10)
  /-- R184: Loads a doubleword. -/
  | ldd (q : Qual) (r base : Reg) (off : BitVec 10)
  /-- R184: Posts a byte store to GLB, held in the interval. -/
  | stb (q : Qual) (r base : Reg) (off : BitVec 10)
  /-- R184: Posts a halfword store. -/
  | sth (q : Qual) (r base : Reg) (off : BitVec 10)
  /-- R184: Posts a word store. -/
  | stw (q : Qual) (r base : Reg) (off : BitVec 10)
  /-- R184: Posts a doubleword store. -/
  | std (q : Qual) (r base : Reg) (off : BitVec 10)
  /-- R185: Prefetches a line into the scalar data cache. -/
  | pfg (q : Qual) (base : Reg) (off : BitVec 10)
  /-- R150: Releases held effects and retires when earlier G-slot accesses are performed at the scope. -/
  | drain (q : Qual) (sc : Scope)
  /-- R187: Invalidates a line in the scalar data cache. -/
  | purgeDc (q : Qual) (base : Reg) (off : BitVec 10)
  /-- R187: Invalidates a line in both instruction caches. -/
  | purgeIc (q : Qual) (base : Reg) (off : BitVec 10)
  /-- R454: Removes a page translation everywhere after writing back its lines. -/
  | purgeTlb (q : Qual) (base : Reg) (off : BitVec 10)
  /-- R353: Atomic add at the home engine. -/
  | aadd (q : Qual) (d base src : Reg) (ord : Order) (sc : Scope)
  /-- R353: Atomic AND. -/
  | aand (q : Qual) (d base src : Reg) (ord : Order) (sc : Scope)
  /-- R353: Atomic OR. -/
  | aor (q : Qual) (d base src : Reg) (ord : Order) (sc : Scope)
  /-- R353: Atomic XOR. -/
  | axor (q : Qual) (d base src : Reg) (ord : Order) (sc : Scope)
  /-- R353: Atomic signed minimum. -/
  | amin (q : Qual) (d base src : Reg) (ord : Order) (sc : Scope)
  /-- R353: Atomic signed maximum. -/
  | amax (q : Qual) (d base src : Reg) (ord : Order) (sc : Scope)
  /-- R353: Atomic unsigned minimum. -/
  | aminu (q : Qual) (d base src : Reg) (ord : Order) (sc : Scope)
  /-- R353: Atomic unsigned maximum. -/
  | amaxu (q : Qual) (d base src : Reg) (ord : Order) (sc : Scope)
  /-- R353: Atomic exchange. -/
  | axchg (q : Qual) (d base src : Reg) (ord : Order) (sc : Scope)
  /-- R353: Atomic compare-and-swap. -/
  | acas (q : Qual) (d base src : Reg) (ord : Order) (sc : Scope)
  /-- R353: Atomic FP32 add. -/
  | afadd (q : Qual) (d base src : Reg) (ord : Order) (sc : Scope)
  /-- R356: Contributes to a reduction record by addition. -/
  | radd (q : Qual) (d base src : Reg) (ord : Order) (sc : Scope)
  /-- R356: Contributes to a reduction record by signed maximum. -/
  | rmax (q : Qual) (d base src : Reg) (ord : Order) (sc : Scope)
  /-- R356: Contributes to a reduction record by signed minimum. -/
  | rmin (q : Qual) (d base src : Reg) (ord : Order) (sc : Scope)
  /-- R361: Initialises a phaser record, advancing its generation and abandoning waiters. -/
  | phinit (q : Qual) (d base src : Reg) (ord : Order) (sc : Scope)
  /-- R361: Registers the member in a phaser. -/
  | phreg (q : Qual) (d base src : Reg) (ord : Order) (sc : Scope)
  /-- R361: Removes the member from a phaser. -/
  | phdrop (q : Qual) (d base : Reg) (ord : Order) (sc : Scope)
  /-- R361: Signals arrival in the current phase. -/
  | pharr (q : Qual) (d base : Reg) (ord : Order) (sc : Scope)
  /-- R363: Waits for a phase to pass, pre-emptibly. -/
  | phwait (q : Qual) (d base src : Reg) (ord : Order) (sc : Scope)
  /-- R361: Arrives and waits for the phase it arrived in. -/
  | pharw (q : Qual) (d base : Reg) (ord : Order) (sc : Scope)
  /-- R361: Reads phaser counts and phase without change. -/
  | phq (q : Qual) (d base : Reg) (ord : Order) (sc : Scope)
  /-- R466: Migrates a page to a new frame and returns a result word. -/
  | migr (q : Qual) (d base src : Reg) (ord : Order)
  /-- R189: Loads a byte from the gallery. -/
  | lyb (q : Qual) (r base : Reg) (off : BitVec 10)
  /-- R189: Loads a halfword from the gallery. -/
  | lyh (q : Qual) (r base : Reg) (off : BitVec 10)
  /-- R189: Loads a word from the gallery. -/
  | lyw (q : Qual) (r base : Reg) (off : BitVec 10)
  /-- R189: Loads a doubleword from the gallery. -/
  | lyd (q : Qual) (r base : Reg) (off : BitVec 10)
  /-- R189: Stores a byte to the gallery. -/
  | syb (q : Qual) (r base : Reg) (off : BitVec 10)
  /-- R189: Stores a halfword to the gallery. -/
  | syh (q : Qual) (r base : Reg) (off : BitVec 10)
  /-- R189: Stores a word to the gallery. -/
  | syw (q : Qual) (r base : Reg) (off : BitVec 10)
  /-- R189: Stores a doubleword to the gallery. -/
  | syd (q : Qual) (r base : Reg) (off : BitVec 10)
  /-- R190: Writes a group scalar of a lane group. -/
  | sgw (q : Qual) (r base : Reg) (off : BitVec 10)
  /-- R223: Writes a table entry into the back banks of masked groups, with class checks and refusal. -/
  | twrite (q : Qual) (a b : Reg) (i : BitVec 10)
  /-- R224: Invalidates the whole back bank, its class map and refused bit. -/
  | tclr (q : Qual)
  /-- R234: Configures a port of masked groups from a gallery descriptor. -/
  | qcfg (q : Qual) (a b : Reg) (n : Fin 16)
  /-- R255: Configures the spill stack of masked groups from a descriptor. -/
  | qcfgStk (q : Qual) (a b : Reg)
  /-- R241: Configures a circular-buffer handle from a descriptor. -/
  | cbcfg (q : Qual) (a : Reg) (n : Fin 16)
  /-- R302: Writes all eight shadow nest words from a gallery descriptor. -/
  | mxtab (q : Qual) (a b : Reg)
  /-- R191: Branches to a PC-relative target. -/
  | br (q : Qual) (off : BitVec 22)
  /-- R191: Branches and links g1. -/
  | call (q : Qual) (off : BitVec 22)
  /-- R192: Transfers to a register address. -/
  | jr (q : Qual) (a : Reg)
  /-- R192: Transfers to a register address and links. -/
  | jalr (q : Qual) (a b : Reg)
  /-- R193: Opens a hardware loop on a counter. -/
  | loop (lc : Fin 4) (count : Reg) (last : BitVec 18)
  /-- R195: Sets a step-set slot of a counter. -/
  | lpstep (q : Qual) (lc slot : Fin 4) (a b : Reg)
  /-- R196: Waits until a named token is idle. -/
  | waitk (q : Qual) (n : Fin 16)
  /-- R196: Waits until every token of a register mask is idle. -/
  | waitkMask (q : Qual) (a : Reg)
  /-- R196: Waits until a named flag is set. -/
  | waitf (q : Qual) (n : Fin 16)
  /-- R196: Waits until every flag of a register mask is set. -/
  | waitfMask (q : Qual) (a : Reg)
  /-- R197: Sets a named flag at retire, as a release. -/
  | setf (q : Qual) (n : Fin 16)
  /-- R197: Sets the flags of a register mask. -/
  | setfMask (q : Qual) (a : Reg)
  /-- R197: Clears a named flag. -/
  | clrf (q : Qual) (n : Fin 16)
  /-- R197: Clears the flags of a register mask. -/
  | clrfMask (q : Qual) (a : Reg)
  /-- R198: Starts the broadcast sequencer, optionally at a new address. -/
  | bstart (q : Qual) (a : Reg)
  /-- R198: Stops the broadcast sequencer after this cycle. -/
  | bstop (q : Qual)
  /-- R199: Appends a register to ctq. -/
  | pushq (q : Qual) (a : Reg)
  /-- R199: Removes the oldest btq entry into a register. -/
  | popq (q : Qual) (a : Reg)
  /-- R203: Reads a system register. -/
  | mfsr (q : Qual) (a : Reg) (sr : BitVec 12)
  /-- R203: Writes a system register subject to access rights. -/
  | mtsr (q : Qual) (a : Reg) (sr : BitVec 12)
  /-- R200: Raises SYSCALL with the immediate. -/
  | trap (q : Qual) (n : BitVec 10)
  /-- R201: Returns from handler mode, replaying a parked access and restarting the broadcast stream as flagged. -/
  | eret (q : Qual)
  /-- R200: Raises BREAK with the immediate. -/
  | brk (q : Qual) (n : BitVec 10)
  /-- R202: Removes the oldest statistics record into two registers. -/
  | stqrd (q : Qual) (a b : Reg)
  /-- R397: Preloads and locks lines and arrives at the team flight barrier. -/
  | flbar (q : Qual) (a : Reg) (n : BitVec 9)
  /-- R408: Ends the flight phase on its core and writes the phase status word. -/
  | flend (q : Qual) (a : Reg)
  /-- R302: Writes one shadow nest word of masked groups. -/
  | mxcfg (q : Qual) (a b : Reg) (w : Fin 8)
  /-- R303: Loads the shadow stationary stores of masked groups from WB. -/
  | mxlds (q : Qual) (a b : Reg) (tok : Fin 16) (kw : Fin 4) (ph : Bool)
  /-- R304: Requests a swap of active and shadow stores. -/
  | mxswap (q : Qual) (a : Reg)
  /-- R305: Starts the loop nest in masked groups. -/
  | mxgo (q : Qual) (a : Reg) (tok : Fin 16) (split : BitVec 6)
  /-- R302: Writes mode and pin of shadow word 0. -/
  | mxmode (q : Qual) (a : Reg) (mode : Fin 4) (pin : Bool)
  /-- R306: Reads a tile status word of one group. -/
  | mxrd (q : Qual) (a b : Reg) (sel : Fin 4)
  /-- R307: Requests a stop of masked nests. -/
  | mxstop (q : Qual) (a : Reg)
  /-- R336: Moves a register into a transform operand port. -/
  | tmov (q : Qual) (a : Reg) (u : Fin 4) (port : Fin 5)
  /-- R336: Moves a port or result port value into an operand port. -/
  | tmovPort (q : Qual) (su : Fin 4) (src : Option (Fin 5)) (u : Fin 4) (port : Fin 5)
  /-- R341: Converts floating-point rows into NPF tile rows. -/
  | cvtSplit (q : Qual) (a : Reg) (tok : Option (Fin 16))
  /-- R342: Converts NPF tile rows into floating-point rows. -/
  | cvtJoin (q : Qual) (a : Reg) (tok : Option (Fin 16))
  /-- R345: Packs activation tiles into compressed buffer slots. -/
  | cmpPack (q : Qual) (a : Reg) (tok : Option (Fin 16))
  /-- R343: Transposes 64×64 matrices of 32-bit elements. -/
  | xposeW32 (q : Qual) (a : Reg) (tok : Option (Fin 16))
  /-- R343: Transposes 64×64 matrices of 16-bit elements. -/
  | xposeW16 (q : Qual) (a : Reg) (tok : Option (Fin 16))
  /-- R348: Writes im2col rows into the pinned region. -/
  | layoutIm2col (q : Qual) (a : Reg) (tok : Option (Fin 16))
  /-- R344: Declares a compressed activation buffer entry. -/
  | tcfg (q : Qual) (a : Reg) (e : Fin 8)
  /-- R347: Declares the pinned hall region. -/
  | tcfgPinned (q : Qual) (a : Reg)
  /-- R340: Reads a transform unit's status. -/
  | tstat (q : Qual) (a : Reg) (u : Fin 4)
  /-- R320: Starts a block copy on the slot's copy unit. -/
  | cp (q : Qual) (a b : Reg) (cd : Fin 16) (tok : Option (Fin 16))
  /-- R321: Starts a tile-prefix copy under the header protocol. -/
  | cpt (q : Qual) (a b : Reg) (cd : Fin 16) (tok : Option (Fin 16))
  /-- R323: Starts a copy of table entries into back banks. -/
  | cptab (q : Qual) (a b : Reg) (cd : Fin 16) (tok : Option (Fin 16))
  /-- R315: Loads a shape descriptor register. -/
  | cpcfg (q : Qual) (a : Reg) (cd : Fin 16)
  /-- R331: Reads a copy unit's status. -/
  | cpstat (q : Qual) (a : Reg) (u : Fin 2)
  /-- R330: Cancels the incomplete command of a copy unit. -/
  | cpcan (q : Qual) (u : Fin 2)
  /-- R402: Sends a gallery vector through a flight port. -/
  | xmit (q : Qual) (a : Reg) (port : Fin 4)
  /-- R402: Takes the present vector at a port into the gallery. -/
  | xsel (q : Qual) (a : Reg) (port : Fin 4)
  /-- R402: Forwards the present vector from one port to another. -/
  | xfwd (q : Qual) (pi po : Fin 4)
  /-- R402: Discards any vector present at a port. -/
  | xidle (q : Qual) (port : Fin 4)
  /-- R371: Starts a child task on a named ENDED team core. -/
  | spawn (q : Qual) (a b : Reg) (blk : BitVec 10)
  /-- R373: Posts a range of work to the team range queue. -/
  | spawnr (q : Qual) (a : Reg) (blk : BitVec 10)
  /-- R380: Declares a view table entry over a region. -/
  | vdecl (q : Qual) (a b : Reg) (vt op : Fin 8) (gal : Bool)
  /-- R381: Invalidates a declared view entry after its copies complete. -/
  | vdrop (q : Qual) (vt : Fin 8)
  /-- R390: Closes the join period and waits for children's merges. -/
  | join (q : Qual)
  /-- R391: Ends the task, stopping the broadcast stream and merging views. -/
  | endt (q : Qual)
  /-- R377: Claims the next grain of the task's piece. -/
  | rnext (q : Qual) (a : Reg)
  /-- R392: Reads the task's own identity word. -/
  | tinfoSelf (q : Qual) (a : Reg)
  /-- R392: Queries the task state of a team core. -/
  | tinfoState (q : Qual) (a b : Reg)
  /-- R392: Queries the range queue occupancy and freeze. -/
  | tinfoQueue (q : Qual) (a : Reg)
  /-- R392: Reads the task's merge progress word. -/
  | tinfoMerge (q : Qual) (a : Reg)
  /-- R30: A V slot broadcasts a table index to participating groups, which run their front-bank entry. -/
  | ix (index : Fin 1024) (gm sp : Fin 8) (imm : BitVec 16)
  /-- R219: Opens a broadcast loop with an immediate count. -/
  | bloop (bl : Fin 4) (rt : Bool) (cnt : BitVec 13) (last : BitVec 10)
  /-- R219: Opens a broadcast loop with its count popped from ctq. -/
  | bloopCtq (bl : Fin 4) (rt : Bool) (last : BitVec 10)
  /-- R221: Conditional broadcast branch. -/
  | bbr (cnd : BitVec 4) (off : BitVec 22)
  /-- R216: Sets a flag as a release once earlier entries' writes are performed. -/
  | bsetf (n : Fin 16)
  /-- R216: Clears a flag at issue. -/
  | bclrf (n : Fin 16)
  /-- R216: Holds the bundle until a flag is set. -/
  | bwaitf (n : Fin 16)
  /-- R217: Pops ctq into a broadcast register or group scalars. -/
  | bpopq (dst : PopDst)
  /-- R217: Pushes a broadcast value onto btq. -/
  | bpushq (src : PushSrc)
  /-- R218: Writes stage predicates under a mask. -/
  | bsetsp (wmask value : BitVec 7)
  /-- R218: Sets rot in masked groups. -/
  | brot (gm : Fin 8) (e : BitVec 6)
  /-- R218: Adds to rot in masked groups modulo 64. -/
  | brotA (gm : Fin 8) (e : BitVec 6)
  /-- R227: In cycle FLIPAT exchanges front and back banks of all groups, or raises FLIP_LATE or FLIP_REFUSED. -/
  | flip
  /-- R222: Halts the broadcast sequencer. -/
  | bhalt
  /-- R222: Halts the broadcast sequencer and sets a flag as a release. -/
  | bhaltFlag (n : Fin 16)
  /-- R221: Conditional broadcast call pushing the return stack. -/
  | bcall (cnd : BitVec 4) (off : BitVec 22)
  /-- R221: Returns from a broadcast call. -/
  | bret
  /-- R87: Table entry with no effect on group state. -/
  | nop (e : VHead)
  /-- R266: Vector floating-point addition. -/
  | fadd (e : VHead) (d a b : Operand)
  /-- R266: Vector floating-point subtraction. -/
  | fsub (e : VHead) (d a b : Operand)
  /-- R266: Vector floating-point multiplication. -/
  | fmul (e : VHead) (d a b : Operand)
  /-- R266: Vector fused multiply-add. -/
  | fma (e : VHead) (d a b c : Operand)
  /-- R266: Vector fused multiply-subtract. -/
  | fms (e : VHead) (d a b c : Operand)
  /-- R266: Vector fused negated multiply-add. -/
  | fnma (e : VHead) (d a b c : Operand)
  /-- R266: Vector floating-point minimum. -/
  | fmin (e : VHead) (d a b : Operand)
  /-- R266: Vector floating-point maximum. -/
  | fmax (e : VHead) (d a b : Operand)
  /-- R266: Vector absolute value. -/
  | fabs (e : VHead) (d a : Operand)
  /-- R266: Vector negation. -/
  | fneg (e : VHead) (d a : Operand)
  /-- R267: Correctly rounded reciprocal. -/
  | frcp (e : VHead) (d a : Operand)
  /-- R267: Correctly rounded reciprocal square root. -/
  | frsq (e : VHead) (d a : Operand)
  /-- R267: Correctly rounded square root. -/
  | fsqrt (e : VHead) (d a : Operand)
  /-- R267: Correctly rounded 2^x. -/
  | fexp2 (e : VHead) (d a : Operand)
  /-- R267: Correctly rounded log2. -/
  | flog2 (e : VHead) (d a : Operand)
  /-- R267: Correctly rounded sigmoid. -/
  | fsig (e : VHead) (d a : Operand)
  /-- R268: Writes a lane predicate from a vector FP comparison. -/
  | fcmp (e : VHead) (pd : Fin 8) (a b : Operand)
  /-- R269: Rounds elements to integral values. -/
  | fround (e : VHead) (d a : Operand)
  /-- R270: Vector conversion selected by mod. -/
  | fcvt (e : VHead) (d a b : Operand)
  /-- R271: Adds a scaled raw partial to an FP32 accumulator. -/
  | scacc (e : VHead) (d a b c : Operand)
  /-- R272: Requantises to an 8-bit range. -/
  | qnt (e : VHead) (d a b c : Operand)
  /-- R273: Pairwise-tree FP sum of lanes. -/
  | fsum (e : VHead) (d a : Operand)
  /-- R273: Tree maximum of lanes. -/
  | fmaxr (e : VHead) (d a : Operand)
  /-- R274: Inclusive FP scan in fixed doubling steps. -/
  | fscan (e : VHead) (d a : Operand)
  /-- R276: Vector integer addition, wrapping or saturating. -/
  | iadd (e : VHead) (d a b : Operand)
  /-- R276: Vector integer subtraction. -/
  | isub (e : VHead) (d a b : Operand)
  /-- R276: Vector integer multiplication. -/
  | imul (e : VHead) (d a b : Operand)
  /-- R276: Vector integer multiply-add. -/
  | imad (e : VHead) (d a b c : Operand)
  /-- R276: Vector signed minimum. -/
  | imin (e : VHead) (d a b : Operand)
  /-- R276: Vector signed maximum. -/
  | imax (e : VHead) (d a b : Operand)
  /-- R276: Vector unsigned minimum. -/
  | iminu (e : VHead) (d a b : Operand)
  /-- R276: Vector unsigned maximum. -/
  | imaxu (e : VHead) (d a b : Operand)
  /-- R276: Vector integer absolute value. -/
  | iabs (e : VHead) (d a : Operand)
  /-- R276: Vector shift left. -/
  | vecSll (e : VHead) (d a b : Operand)
  /-- R276: Vector logical shift right. -/
  | vecSrl (e : VHead) (d a b : Operand)
  /-- R276: Vector arithmetic shift right. -/
  | vecSra (e : VHead) (d a b : Operand)
  /-- R276: Vector AND. -/
  | vecAnd (e : VHead) (d a b : Operand)
  /-- R276: Vector OR. -/
  | vecOr (e : VHead) (d a b : Operand)
  /-- R276: Vector XOR. -/
  | vecXor (e : VHead) (d a b : Operand)
  /-- R276: Vector AND NOT. -/
  | vecAndn (e : VHead) (d a b : Operand)
  /-- R276: Vector NOT. -/
  | not (e : VHead) (d a : Operand)
  /-- R276: Vector population count. -/
  | vecPopc (e : VHead) (d a : Operand)
  /-- R276: Vector leading-zero count. -/
  | vecClz (e : VHead) (d a : Operand)
  /-- R277: Writes a lane predicate from an integer comparison. -/
  | icmp (e : VHead) (pd : Fin 8) (a b : Operand)
  /-- R278: Four-way byte dot product accumulate. -/
  | dot8 (e : VHead) (d a b c : Operand)
  /-- R273: Integer sum of lanes modulo 2^32. -/
  | isum (e : VHead) (d a : Operand)
  /-- R274: Inclusive integer scan. -/
  | iscan (e : VHead) (d a : Operand)
  /-- R279: Moves a vector. -/
  | mov (e : VHead) (d a : Operand)
  /-- R279: Selects lanes by the lane predicate. -/
  | vsel (e : VHead) (d a b : Operand)
  /-- R279: Permutes lanes by an index vector. -/
  | perm (e : VHead) (d a b : Operand)
  /-- R279: Broadcasts one lane to all lanes. -/
  | bcast (e : VHead) (d a b : Operand)
  /-- R279: ANDs two lane predicates. -/
  | vpand (e : VHead) (pd pa pb : Fin 8)
  /-- R279: ORs two lane predicates. -/
  | vpor (e : VHead) (pd pa pb : Fin 8)
  /-- R279: XORs two lane predicates. -/
  | vpxor (e : VHead) (pd pa pb : Fin 8)
  /-- R279: Inverts a lane predicate. -/
  | vpnot (e : VHead) (pd pa : Fin 8)
  /-- R279: Counts the set bits of a lane predicate. -/
  | vpcount (e : VHead) (d : Operand) (pa : Fin 8)
  /-- R279: Moves one lane to a group scalar. -/
  | tos (e : VHead) (d a b : Operand)
  /-- R247: Loads a vector from WB. -/
  | ldW (e : MHead) (data addr : Operand) (imm : BitVec 16) (fmt : Fmt)
  /-- R247: Loads a vector from AB. -/
  | ldA (e : MHead) (data addr : Operand) (imm : BitVec 16) (fmt : Fmt)
  /-- R247: Loads a vector from the group's ACC slice. -/
  | ldC (e : MHead) (data addr : Operand) (imm : BitVec 16) (fmt : Fmt)
  /-- R247: Loads a vector from the gallery. -/
  | ldY (e : MHead) (data addr : Operand) (imm : BitVec 16) (fmt : Fmt)
  /-- R248: Stores a vector to WB. -/
  | stW (e : MHead) (data addr : Operand) (imm : BitVec 16) (fmt : Fmt)
  /-- R248: Stores a vector to AB. -/
  | stA (e : MHead) (data addr : Operand) (imm : BitVec 16) (fmt : Fmt)
  /-- R248: Stores a vector to the ACC slice. -/
  | stC (e : MHead) (data addr : Operand) (imm : BitVec 16) (fmt : Fmt)
  /-- R248: Stores a vector to the gallery. -/
  | stY (e : MHead) (data addr : Operand) (imm : BitVec 16) (fmt : Fmt)
  /-- R249: Reads an NPF row prefix from WB. -/
  | pldW (e : MHead) (data addr : Operand) (imm : BitVec 16) (k : BitVec 4) (rne : Bool) (fmt : Fmt)
  /-- R249: Reads an NPF row prefix from AB. -/
  | pldA (e : MHead) (data addr : Operand) (imm : BitVec 16) (k : BitVec 4) (rne : Bool) (fmt : Fmt)
  /-- R249: Reads an NPF row prefix from the gallery. -/
  | pldY (e : MHead) (data addr : Operand) (imm : BitVec 16) (k : BitVec 4) (rne : Bool) (fmt : Fmt)
  /-- R250: Writes an NPF row to WB. -/
  | pstW (e : MHead) (data addr : Operand) (imm : BitVec 16) (k : BitVec 4) (rne : Bool) (fmt : Fmt)
  /-- R250: Writes an NPF row to AB. -/
  | pstA (e : MHead) (data addr : Operand) (imm : BitVec 16) (k : BitVec 4) (rne : Bool) (fmt : Fmt)
  /-- R250: Writes an NPF row to the gallery. -/
  | pstY (e : MHead) (data addr : Operand) (imm : BitVec 16) (k : BitVec 4) (rne : Bool) (fmt : Fmt)
  /-- R252: Adds a vector into a master-weight block by plane addition. -/
  | pupdAdd (e : MHead) (data addr : Operand) (imm : BitVec 16) (k : BitVec 4) (rne : Bool)
  /-- R252: Adds a scaled vector into a master-weight block. -/
  | pupdAxpy (e : MHead) (data addr : Operand) (imm : BitVec 16) (k : BitVec 4) (rne : Bool)
  /-- R254: Updates momentum and adds it into a master-weight block. -/
  | pupdMom (e : MHead) (data addr : Operand) (imm : BitVec 16) (k : BitVec 4) (rne : Bool)
  /-- R255: Pushes matrix vectors onto the spill stack. -/
  | pushm (e : MHead) (data : Operand) (imm : BitVec 6)
  /-- R255: Pops matrix vectors from the spill stack. -/
  | popm (e : MHead) (data : Operand) (imm : BitVec 6)
  /-- R243: Advances circular-buffer pointers. -/
  | cbadv (e : MHead) (data addr : Operand) (imm : BitVec 16)
  /-- R239: Resets a port's position. -/
  | qrst (e : MHead) (data addr : Operand)
  /-- R239: Moves a port's position by a step. -/
  | qadv (e : MHead) (data addr : Operand) (imm : BitVec 16)
  /-- R309: Starts the group's nest from a table entry. -/
  | mxgoG (e : VHead) (split : BitVec 6) (tv : Bool) (tok : Fin 16)
  /-- R309: Loads the group's shadow store from a table entry. -/
  | mxldsG (e : VHead) (sn : Fin 16) (ph : Bool) (kw : Fin 4) (tv : Bool) (tok : Fin 16)
  /-- R310: Writes tile status or exponents to a vector. -/
  | mxqG (e : VHead) (d : Operand)
  /-- R32: An issued entry writes its destination at the end of cycle t + L − 1. -/
  | entryWriteback (c : CoreId)
  /-- R253: A pupd writes one of its block lines in its scheduled cycle. -/
  | npfLineWrite (c : CoreId)
  /-- R34: A landing bundle retires: LANDCNT reset, checkpoint, parked faults delivered, pre-emption stop. -/
  | landing (c : CoreId)
  /-- R53: An engine reports a fault, which the hazard unit parks in the fault table. -/
  | engineFaultReport (c : CoreId)
  /-- R37: The usher sends a stop request to a core. -/
  | stopRequest (c : CoreId)
  /-- R38: A core stops for pre-emption, its engines stop or complete, and it reports stopped. -/
  | coreStop (c : CoreId)
  /-- R45: An uncorrectable error in recorded state triggers rollback or a team fault. -/
  | uncorrectableError (c : CoreId)
  /-- R481: A core marked for retirement is retired at the next team boundary. -/
  | coreRetire (c : CoreId)
  /-- R216: A released flag or btq entry becomes set or poppable once earlier entries' writes are performed. -/
  | flagRelease (c : CoreId)
  /-- R236: A read port's fetch path fetches a walk position and delivers it four cycles later. -/
  | portFetch (c : CoreId) (g : GroupId) (port : Fin 8)
  /-- R242: A group stages a filled circular-buffer slot. -/
  | cbStage (c : CoreId) (g : GroupId) (n : Fin 16)
  /-- R251: A bundle held by a rewriting NPF header is retried 64 cycles later, timing out after 256 retries. -/
  | planeRetry (c : CoreId)
  /-- R282: A nest pass streams an activation row and forms raw partials. -/
  | matrixPass (c : CoreId) (g : GroupId)
  /-- R299: A compare-mode pass ranks a streamed token's keys and writes selection words. -/
  | comparePass (c : CoreId) (g : GroupId)
  /-- R283: A pass writes or adds its ACC row; the last pass completes the nest. -/
  | passAccWrite (c : CoreId) (g : GroupId)
  /-- R290: At a level boundary the tile stops, waits for tokens or swaps before the next pass. -/
  | levelBoundary (c : CoreId) (g : GroupId)
  /-- R284: A stationary shadow load completes and any waiting swap is made. -/
  | shadowLoadDone (c : CoreId) (g : GroupId)
  /-- R145: A command's reads, local writes and released GLB writes are done and its token becomes idle. -/
  | tokenIdle (c : CoreId) (tok : Fin 16)
  /-- R316: A copy unit reads and hands out one row of its command. -/
  | copyRowMove (c : CoreId) (u : Fin 2)
  /-- R321: A tile-aware copy rereads a tile 64 cycles after a failed header check. -/
  | cptTileRetry (c : CoreId) (u : Fin 2)
  /-- R323: A cptab writes one table entry per cycle with class checks. -/
  | cptabEntryWrite (c : CoreId) (u : Fin 2)
  /-- R324: A copy's ring row is performed and the ring pointer advances. -/
  | ringAdvance (c : CoreId) (u : Fin 2)
  /-- R326: A copy reaches its idle point and sends its arrival or range post. -/
  | copyComplete (c : CoreId) (u : Fin 2)
  /-- R329: A GLB row faults in translation or permission and the copy ends. -/
  | copyFault (c : CoreId) (u : Fin 2)
  /-- R338: A transform operation completes and sets its result port. -/
  | transformComplete (c : CoreId) (u : Fin 4)
  /-- R338: A transform operation faults on a GLB byte and ends. -/
  | transformFault (c : CoreId) (u : Fin 4)
  /-- R350: The home synchronisation engine performs an atomic on its line and answers. -/
  | atomicPerform (id : Nat)
  /-- R356: The engine combines a contribution into a reduction record. -/
  | reductionPerform (id : Nat)
  /-- R361: The engine performs a phaser instruction on a record. -/
  | phaserPerform (id : Nat)
  /-- R365: A copy arrival increments carr and makes the phase check. -/
  | copyArrival (id : Nat)
  /-- R363: A polling wait reissues its query after its interval, returning SPURIOUS at 65 536 cycles. -/
  | phaserPoll (c : CoreId)
  /-- R464: An acknowledgement reaches the core and is recorded with its sequence tag. -/
  | acknowledgementArrival (id : Nat)
  /-- R151: A returning value arrives and is written to its destination register. -/
  | answerReturn (id : Nat)
  /-- R375: An ENDED core takes a range piece or leaf from the queue. -/
  | rangeTake (c : CoreId)
  /-- R385: Once sources and target are ready, the merge unit pushes the task's views into its target. -/
  | mergePush (c : CoreId)
  /-- R386: An ADD.NPF merge rereads a target tile 64 cycles after a failed header check. -/
  | mergeTileRetry (c : CoreId)
  /-- R388: A merge faults on a region line, parking the task in MERGE_FAULTED. -/
  | mergeTranslationFault (c : CoreId)
  /-- R370: Every core ENDED with an empty range queue ends the team. -/
  | teamEnd (t : Nat)
  /-- R397: The last team core arrives at the flight barrier, fixing the start cycle. -/
  | flightBarrierComplete (t : Nat)
  /-- R397: At cycle S every core's flbar retires and its phase begins. -/
  | flightPhaseStart (t : Nat)
  /-- R395: A flight vector becomes present at a facing port D cycles after sending. -/
  | vectorArrival (c : CoreId) (port : Fin 4)
  /-- R407: Sixteen cycles after a break, cores still in the phase raise FLIGHT_SLIP reason 5. -/
  | flightBreakSignal (t : Nat)
  /-- R471: A host write of a queue tail register sets the tail and makes the usher examine the queue. -/
  | tailRegisterWrite (q : QueueId) (value : BitVec 32)
  /-- R416: The usher processes a LAUNCH entry, creating a job of PENDING teams. -/
  | launch (q : QueueId)
  /-- R417: The usher processes a WAIT entry once its event word reaches the value. -/
  | wait (q : QueueId)
  /-- R417: The usher retests a head WAIT entry at intervals of at most 1 600 cycles. -/
  | waitRetest (q : QueueId)
  /-- R417: The usher writes an event word for a SIGNAL entry. -/
  | signal (q : QueueId)
  /-- R417: The usher tests a word and skips entries on a COND entry. -/
  | cond (q : QueueId)
  /-- R418: The usher decrements a counter and jumps head back for a LOOP entry. -/
  | loopNode (q : QueueId)
  /-- R417: The usher moves head by a case offset chosen by a word. -/
  | switch (q : QueueId)
  /-- R438: The usher validates, relocates and loads a CXO object and writes its status. -/
  | load (q : QueueId)
  /-- R421: The usher places a PENDING or SAVED team and starts or restores it. -/
  | teamPlace (t : Nat)
  /-- R422: A resident team's quantum ends. -/
  | quantumExpiry (t : Nat)
  /-- R426: Once all cores have stopped, the usher writes the team save area and the team is SAVED. -/
  | teamSave (t : Nat)
  /-- R416: A job's teams have ended and effects are performed; the completion event is written. -/
  | jobComplete (j : Nat)
  /-- R430: A team fault stops the job's cores, saves teams FAULTED and freezes the queue. -/
  | teamFault (t : Nat)
  /-- R420: An age period passes and a waiting queue's effective priority rises. -/
  | ageing (q : QueueId)
  /-- R487: A write of the usher block's first doubleword commits the staged block. -/
  | usherConfigCommit (off : Fin 8) (bytes : List (BitVec 8))
  /-- R487: A write of the fabric block's first doubleword commits the staged block. -/
  | fabricConfigCommit (off : Fin 8) (bytes : List (BitVec 8))
  /-- R469: A host write to a BAR0 register without behaviour of its own, including staging writes, WINCTL and the route table. -/
  | registerWrite (off : Nat) (bytes : List (BitVec 8))
  /-- R469: Writing 1 to MODCTL bit 0 resets the module. -/
  | moduleReset
  /-- R470: A host read through the BAR2 window reaches GLB. -/
  | windowRead (off n : Nat)
  /-- R470: A host write through the BAR2 window reaches GLB. -/
  | windowWrite (off : Nat) (bytes : List (BitVec 8))
  /-- R479: Mailbox command that writes the sensor block. -/
  | sensors
  /-- R478: Mailbox command that writes persistent log records. -/
  | log
  /-- R478: Mailbox command that sets the power cap. -/
  | cap
  /-- R482: Mailbox command that writes and verifies a firmware image. -/
  | update
  /-- R483: Mailbox command that writes a signed attestation report. -/
  | attest
  /-- R478: Mailbox command that writes per-core rollback counts. -/
  | errcnt
  /-- R478: Mailbox command that clears a core's retirement at next reset. -/
  | unretire
  /-- R477: A mailbox command completes, writing status and sending its vector. -/
  | mailboxCompletion
  /-- R473: A host-memory read without completion in 50 ms parks PROTECTION. -/
  | hostReadTimeout (id : Nat)
  /-- R475: A request arriving from a peer is served or answered with an error. -/
  | peerRequest (r : PeerReq)
  /-- R476: A flit failing its CRC is retried, the link going down after 16 failures. -/
  | flitRetry (link : Fin 16)
  /-- R479: The sensor block is refreshed every 100 µs. -/
  | sensorRefresh
  /-- R484: Every 100 µs module power and temperatures are checked and throttling stages applied. -/
  | powerBudgetCheck
  /-- R484: Loss of coolant flow logs THERMAL and resets the module. -/
  | coolantLoss
  /-- R480: Once a minute corrected errors per stack are logged. -/
  | eccSummary
  /-- R446: A hall slice fills a missed line, after a way frees, through translation. -/
  | lineFill (id : Nat)
  /-- R452: A memory controller walks the page tables for a miss. -/
  | pageWalk (id : Nat)
  /-- R458: A concourse packet arrives at its destination slice. -/
  | packetArrival (id : Nat)
  /-- R459: Every 4 cycles each router reports its regional count. -/
  | regionalCount (die : Fin 8)
  /-- R459: A packet waiting 32 cycles moves to the escape channel. -/
  | escape (id : Nat)
  /-- R461: A router idle for rsleep cycles powers down. -/
  | routerSleep (die : Fin 8)
  /-- R461: A woken router accepts packets 64 cycles after the wake signal. -/
  | routerWake (die : Fin 8)
  /-- R462: A 1 600-cycle budget period starts and per-class counts reset. -/
  | trafficPeriod
  /-- R457: A hot compressed line untouched for 4 096 cycles is recompressed. -/
  | hotLineRecompress (line : Nat)
  /-- R60: A fetched header is not a valid bundle header for its stream (wrong kind, reserved bits, fold with slots), and the bundle is cancelled with ILLEGAL_BUNDLE. -/
  | illegalBundle (c : CoreId) (bcast : Bool)
  /-- R75: A slot word carries an opcode reserved in its slot or its mode, and decode raises ILLEGAL_OP. -/
  | reservedOpcode (c : CoreId) (bcast : Bool) (slot : Fin 16)
  /-- R57: An instruction fetch of either stream fails translation or execute permission, and the fault is raised precisely at the bundle being fetched, bypassing the fault table. -/
  | fetchFault (c : CoreId) (bcast : Bool)
  /-- R444: A hall slice accepts a core's request at that core's port in its cycle slot, then places it, serves it or forwards it into the concourse. -/
  | bankPortRequest (c : CoreId) (slice : Fin 16)
  /-- R473: A PCIe completion for a device read of host memory arrives at the host port, returning data or an error that parks PROTECTION. -/
  | hostCompletion (id : Nat) (data : Option (List (BitVec 8)))
  /-- R475: A response to this module's request arrives over a Photur link, delivering data or an error response that makes the requester park PROTECTION. -/
  | peerResponse (id : Nat) (data : Option (List (BitVec 8)))
  /-- R476: A Photur link completes training and its PHSTAT state becomes up or degraded. -/
  | linkUp (link : Fin 16) (degraded : Bool)
  /-- R480: Supply power is lost, and the persistent log keeps each record whole or absent. -/
  | powerLoss
  /-- R37: CYCLE passes an armed FLIPAT on a team with a deferred stop, and a core still standing in a pre-emptible wait stops at that wait. -/
  | flipatReached (t : Nat)
  /-- R478: A mailbox write with a nonzero cmd that names no command completes with status 2 and sends its vector. -/
  | badCommand
  deriving DecidableEq, Repr

/-- The group table entries (R91) as a type of their own: the same constructors as in `Instr`. -/
inductive Entry where
  | nop (e : VHead)
  | fadd (e : VHead) (d a b : Operand)
  | fsub (e : VHead) (d a b : Operand)
  | fmul (e : VHead) (d a b : Operand)
  | fma (e : VHead) (d a b c : Operand)
  | fms (e : VHead) (d a b c : Operand)
  | fnma (e : VHead) (d a b c : Operand)
  | fmin (e : VHead) (d a b : Operand)
  | fmax (e : VHead) (d a b : Operand)
  | fabs (e : VHead) (d a : Operand)
  | fneg (e : VHead) (d a : Operand)
  | frcp (e : VHead) (d a : Operand)
  | frsq (e : VHead) (d a : Operand)
  | fsqrt (e : VHead) (d a : Operand)
  | fexp2 (e : VHead) (d a : Operand)
  | flog2 (e : VHead) (d a : Operand)
  | fsig (e : VHead) (d a : Operand)
  | fcmp (e : VHead) (pd : Fin 8) (a b : Operand)
  | fround (e : VHead) (d a : Operand)
  | fcvt (e : VHead) (d a b : Operand)
  | scacc (e : VHead) (d a b c : Operand)
  | qnt (e : VHead) (d a b c : Operand)
  | fsum (e : VHead) (d a : Operand)
  | fmaxr (e : VHead) (d a : Operand)
  | fscan (e : VHead) (d a : Operand)
  | iadd (e : VHead) (d a b : Operand)
  | isub (e : VHead) (d a b : Operand)
  | imul (e : VHead) (d a b : Operand)
  | imad (e : VHead) (d a b c : Operand)
  | imin (e : VHead) (d a b : Operand)
  | imax (e : VHead) (d a b : Operand)
  | iminu (e : VHead) (d a b : Operand)
  | imaxu (e : VHead) (d a b : Operand)
  | iabs (e : VHead) (d a : Operand)
  | vecSll (e : VHead) (d a b : Operand)
  | vecSrl (e : VHead) (d a b : Operand)
  | vecSra (e : VHead) (d a b : Operand)
  | vecAnd (e : VHead) (d a b : Operand)
  | vecOr (e : VHead) (d a b : Operand)
  | vecXor (e : VHead) (d a b : Operand)
  | vecAndn (e : VHead) (d a b : Operand)
  | not (e : VHead) (d a : Operand)
  | vecPopc (e : VHead) (d a : Operand)
  | vecClz (e : VHead) (d a : Operand)
  | icmp (e : VHead) (pd : Fin 8) (a b : Operand)
  | dot8 (e : VHead) (d a b c : Operand)
  | isum (e : VHead) (d a : Operand)
  | iscan (e : VHead) (d a : Operand)
  | mov (e : VHead) (d a : Operand)
  | vsel (e : VHead) (d a b : Operand)
  | perm (e : VHead) (d a b : Operand)
  | bcast (e : VHead) (d a b : Operand)
  | vpand (e : VHead) (pd pa pb : Fin 8)
  | vpor (e : VHead) (pd pa pb : Fin 8)
  | vpxor (e : VHead) (pd pa pb : Fin 8)
  | vpnot (e : VHead) (pd pa : Fin 8)
  | vpcount (e : VHead) (d : Operand) (pa : Fin 8)
  | tos (e : VHead) (d a b : Operand)
  | ldW (e : MHead) (data addr : Operand) (imm : BitVec 16) (fmt : Fmt)
  | ldA (e : MHead) (data addr : Operand) (imm : BitVec 16) (fmt : Fmt)
  | ldC (e : MHead) (data addr : Operand) (imm : BitVec 16) (fmt : Fmt)
  | ldY (e : MHead) (data addr : Operand) (imm : BitVec 16) (fmt : Fmt)
  | stW (e : MHead) (data addr : Operand) (imm : BitVec 16) (fmt : Fmt)
  | stA (e : MHead) (data addr : Operand) (imm : BitVec 16) (fmt : Fmt)
  | stC (e : MHead) (data addr : Operand) (imm : BitVec 16) (fmt : Fmt)
  | stY (e : MHead) (data addr : Operand) (imm : BitVec 16) (fmt : Fmt)
  | pldW (e : MHead) (data addr : Operand) (imm : BitVec 16) (k : BitVec 4) (rne : Bool) (fmt : Fmt)
  | pldA (e : MHead) (data addr : Operand) (imm : BitVec 16) (k : BitVec 4) (rne : Bool) (fmt : Fmt)
  | pldY (e : MHead) (data addr : Operand) (imm : BitVec 16) (k : BitVec 4) (rne : Bool) (fmt : Fmt)
  | pstW (e : MHead) (data addr : Operand) (imm : BitVec 16) (k : BitVec 4) (rne : Bool) (fmt : Fmt)
  | pstA (e : MHead) (data addr : Operand) (imm : BitVec 16) (k : BitVec 4) (rne : Bool) (fmt : Fmt)
  | pstY (e : MHead) (data addr : Operand) (imm : BitVec 16) (k : BitVec 4) (rne : Bool) (fmt : Fmt)
  | pupdAdd (e : MHead) (data addr : Operand) (imm : BitVec 16) (k : BitVec 4) (rne : Bool)
  | pupdAxpy (e : MHead) (data addr : Operand) (imm : BitVec 16) (k : BitVec 4) (rne : Bool)
  | pupdMom (e : MHead) (data addr : Operand) (imm : BitVec 16) (k : BitVec 4) (rne : Bool)
  | pushm (e : MHead) (data : Operand) (imm : BitVec 6)
  | popm (e : MHead) (data : Operand) (imm : BitVec 6)
  | cbadv (e : MHead) (data addr : Operand) (imm : BitVec 16)
  | qrst (e : MHead) (data addr : Operand)
  | qadv (e : MHead) (data addr : Operand) (imm : BitVec 16)
  | mxgoG (e : VHead) (split : BitVec 6) (tv : Bool) (tok : Fin 16)
  | mxldsG (e : VHead) (sn : Fin 16) (ph : Bool) (kw : Fin 4) (tv : Bool) (tok : Fin 16)
  | mxqG (e : VHead) (d : Operand)
  deriving DecidableEq, Repr

/-- The events of the machine as a type of their own: the same constructors as in `Instr`. -/
inductive Event where
  | entryWriteback (c : CoreId)
  | npfLineWrite (c : CoreId)
  | landing (c : CoreId)
  | engineFaultReport (c : CoreId)
  | stopRequest (c : CoreId)
  | coreStop (c : CoreId)
  | uncorrectableError (c : CoreId)
  | coreRetire (c : CoreId)
  | flagRelease (c : CoreId)
  | portFetch (c : CoreId) (g : GroupId) (port : Fin 8)
  | cbStage (c : CoreId) (g : GroupId) (n : Fin 16)
  | planeRetry (c : CoreId)
  | matrixPass (c : CoreId) (g : GroupId)
  | comparePass (c : CoreId) (g : GroupId)
  | passAccWrite (c : CoreId) (g : GroupId)
  | levelBoundary (c : CoreId) (g : GroupId)
  | shadowLoadDone (c : CoreId) (g : GroupId)
  | tokenIdle (c : CoreId) (tok : Fin 16)
  | copyRowMove (c : CoreId) (u : Fin 2)
  | cptTileRetry (c : CoreId) (u : Fin 2)
  | cptabEntryWrite (c : CoreId) (u : Fin 2)
  | ringAdvance (c : CoreId) (u : Fin 2)
  | copyComplete (c : CoreId) (u : Fin 2)
  | copyFault (c : CoreId) (u : Fin 2)
  | transformComplete (c : CoreId) (u : Fin 4)
  | transformFault (c : CoreId) (u : Fin 4)
  | atomicPerform (id : Nat)
  | reductionPerform (id : Nat)
  | phaserPerform (id : Nat)
  | copyArrival (id : Nat)
  | phaserPoll (c : CoreId)
  | acknowledgementArrival (id : Nat)
  | answerReturn (id : Nat)
  | rangeTake (c : CoreId)
  | mergePush (c : CoreId)
  | mergeTileRetry (c : CoreId)
  | mergeTranslationFault (c : CoreId)
  | teamEnd (t : Nat)
  | flightBarrierComplete (t : Nat)
  | flightPhaseStart (t : Nat)
  | vectorArrival (c : CoreId) (port : Fin 4)
  | flightBreakSignal (t : Nat)
  | tailRegisterWrite (q : QueueId) (value : BitVec 32)
  | launch (q : QueueId)
  | wait (q : QueueId)
  | waitRetest (q : QueueId)
  | signal (q : QueueId)
  | cond (q : QueueId)
  | loopNode (q : QueueId)
  | switch (q : QueueId)
  | load (q : QueueId)
  | teamPlace (t : Nat)
  | quantumExpiry (t : Nat)
  | teamSave (t : Nat)
  | jobComplete (j : Nat)
  | teamFault (t : Nat)
  | ageing (q : QueueId)
  | usherConfigCommit (off : Fin 8) (bytes : List (BitVec 8))
  | fabricConfigCommit (off : Fin 8) (bytes : List (BitVec 8))
  | registerWrite (off : Nat) (bytes : List (BitVec 8))
  | moduleReset
  | windowRead (off n : Nat)
  | windowWrite (off : Nat) (bytes : List (BitVec 8))
  | sensors
  | log
  | cap
  | update
  | attest
  | errcnt
  | unretire
  | mailboxCompletion
  | hostReadTimeout (id : Nat)
  | peerRequest (r : PeerReq)
  | flitRetry (link : Fin 16)
  | sensorRefresh
  | powerBudgetCheck
  | coolantLoss
  | eccSummary
  | lineFill (id : Nat)
  | pageWalk (id : Nat)
  | packetArrival (id : Nat)
  | regionalCount (die : Fin 8)
  | escape (id : Nat)
  | routerSleep (die : Fin 8)
  | routerWake (die : Fin 8)
  | trafficPeriod
  | hotLineRecompress (line : Nat)
  | illegalBundle (c : CoreId) (bcast : Bool)
  | reservedOpcode (c : CoreId) (bcast : Bool) (slot : Fin 16)
  | fetchFault (c : CoreId) (bcast : Bool)
  | bankPortRequest (c : CoreId) (slice : Fin 16)
  | hostCompletion (id : Nat) (data : Option (List (BitVec 8)))
  | peerResponse (id : Nat) (data : Option (List (BitVec 8)))
  | linkUp (link : Fin 16) (degraded : Bool)
  | powerLoss
  | flipatReached (t : Nat)
  | badCommand
  deriving DecidableEq, Repr

/-- The instruction an entry is. Only statements use it: the runtime has no tag for the last constructors of `Instr`, so this
function has no code (the machine runs entries and events through `Entry` and `Event`). -/
noncomputable def Entry.toInstr : Entry → Instr
  | .nop e => .nop e
  | .fadd e d a b => .fadd e d a b
  | .fsub e d a b => .fsub e d a b
  | .fmul e d a b => .fmul e d a b
  | .fma e d a b c => .fma e d a b c
  | .fms e d a b c => .fms e d a b c
  | .fnma e d a b c => .fnma e d a b c
  | .fmin e d a b => .fmin e d a b
  | .fmax e d a b => .fmax e d a b
  | .fabs e d a => .fabs e d a
  | .fneg e d a => .fneg e d a
  | .frcp e d a => .frcp e d a
  | .frsq e d a => .frsq e d a
  | .fsqrt e d a => .fsqrt e d a
  | .fexp2 e d a => .fexp2 e d a
  | .flog2 e d a => .flog2 e d a
  | .fsig e d a => .fsig e d a
  | .fcmp e pd a b => .fcmp e pd a b
  | .fround e d a => .fround e d a
  | .fcvt e d a b => .fcvt e d a b
  | .scacc e d a b c => .scacc e d a b c
  | .qnt e d a b c => .qnt e d a b c
  | .fsum e d a => .fsum e d a
  | .fmaxr e d a => .fmaxr e d a
  | .fscan e d a => .fscan e d a
  | .iadd e d a b => .iadd e d a b
  | .isub e d a b => .isub e d a b
  | .imul e d a b => .imul e d a b
  | .imad e d a b c => .imad e d a b c
  | .imin e d a b => .imin e d a b
  | .imax e d a b => .imax e d a b
  | .iminu e d a b => .iminu e d a b
  | .imaxu e d a b => .imaxu e d a b
  | .iabs e d a => .iabs e d a
  | .vecSll e d a b => .vecSll e d a b
  | .vecSrl e d a b => .vecSrl e d a b
  | .vecSra e d a b => .vecSra e d a b
  | .vecAnd e d a b => .vecAnd e d a b
  | .vecOr e d a b => .vecOr e d a b
  | .vecXor e d a b => .vecXor e d a b
  | .vecAndn e d a b => .vecAndn e d a b
  | .not e d a => .not e d a
  | .vecPopc e d a => .vecPopc e d a
  | .vecClz e d a => .vecClz e d a
  | .icmp e pd a b => .icmp e pd a b
  | .dot8 e d a b c => .dot8 e d a b c
  | .isum e d a => .isum e d a
  | .iscan e d a => .iscan e d a
  | .mov e d a => .mov e d a
  | .vsel e d a b => .vsel e d a b
  | .perm e d a b => .perm e d a b
  | .bcast e d a b => .bcast e d a b
  | .vpand e pd pa pb => .vpand e pd pa pb
  | .vpor e pd pa pb => .vpor e pd pa pb
  | .vpxor e pd pa pb => .vpxor e pd pa pb
  | .vpnot e pd pa => .vpnot e pd pa
  | .vpcount e d pa => .vpcount e d pa
  | .tos e d a b => .tos e d a b
  | .ldW e data addr imm fmt => .ldW e data addr imm fmt
  | .ldA e data addr imm fmt => .ldA e data addr imm fmt
  | .ldC e data addr imm fmt => .ldC e data addr imm fmt
  | .ldY e data addr imm fmt => .ldY e data addr imm fmt
  | .stW e data addr imm fmt => .stW e data addr imm fmt
  | .stA e data addr imm fmt => .stA e data addr imm fmt
  | .stC e data addr imm fmt => .stC e data addr imm fmt
  | .stY e data addr imm fmt => .stY e data addr imm fmt
  | .pldW e data addr imm k rne fmt => .pldW e data addr imm k rne fmt
  | .pldA e data addr imm k rne fmt => .pldA e data addr imm k rne fmt
  | .pldY e data addr imm k rne fmt => .pldY e data addr imm k rne fmt
  | .pstW e data addr imm k rne fmt => .pstW e data addr imm k rne fmt
  | .pstA e data addr imm k rne fmt => .pstA e data addr imm k rne fmt
  | .pstY e data addr imm k rne fmt => .pstY e data addr imm k rne fmt
  | .pupdAdd e data addr imm k rne => .pupdAdd e data addr imm k rne
  | .pupdAxpy e data addr imm k rne => .pupdAxpy e data addr imm k rne
  | .pupdMom e data addr imm k rne => .pupdMom e data addr imm k rne
  | .pushm e data imm => .pushm e data imm
  | .popm e data imm => .popm e data imm
  | .cbadv e data addr imm => .cbadv e data addr imm
  | .qrst e data addr => .qrst e data addr
  | .qadv e data addr imm => .qadv e data addr imm
  | .mxgoG e split tv tok => .mxgoG e split tv tok
  | .mxldsG e sn ph kw tv tok => .mxldsG e sn ph kw tv tok
  | .mxqG e d => .mxqG e d

/-- The instruction an event is (used by statements only, as `Entry.toInstr`). -/
noncomputable def Event.toInstr : Event → Instr
  | .entryWriteback c => .entryWriteback c
  | .npfLineWrite c => .npfLineWrite c
  | .landing c => .landing c
  | .engineFaultReport c => .engineFaultReport c
  | .stopRequest c => .stopRequest c
  | .coreStop c => .coreStop c
  | .uncorrectableError c => .uncorrectableError c
  | .coreRetire c => .coreRetire c
  | .flagRelease c => .flagRelease c
  | .portFetch c g port => .portFetch c g port
  | .cbStage c g n => .cbStage c g n
  | .planeRetry c => .planeRetry c
  | .matrixPass c g => .matrixPass c g
  | .comparePass c g => .comparePass c g
  | .passAccWrite c g => .passAccWrite c g
  | .levelBoundary c g => .levelBoundary c g
  | .shadowLoadDone c g => .shadowLoadDone c g
  | .tokenIdle c tok => .tokenIdle c tok
  | .copyRowMove c u => .copyRowMove c u
  | .cptTileRetry c u => .cptTileRetry c u
  | .cptabEntryWrite c u => .cptabEntryWrite c u
  | .ringAdvance c u => .ringAdvance c u
  | .copyComplete c u => .copyComplete c u
  | .copyFault c u => .copyFault c u
  | .transformComplete c u => .transformComplete c u
  | .transformFault c u => .transformFault c u
  | .atomicPerform id => .atomicPerform id
  | .reductionPerform id => .reductionPerform id
  | .phaserPerform id => .phaserPerform id
  | .copyArrival id => .copyArrival id
  | .phaserPoll c => .phaserPoll c
  | .acknowledgementArrival id => .acknowledgementArrival id
  | .answerReturn id => .answerReturn id
  | .rangeTake c => .rangeTake c
  | .mergePush c => .mergePush c
  | .mergeTileRetry c => .mergeTileRetry c
  | .mergeTranslationFault c => .mergeTranslationFault c
  | .teamEnd t => .teamEnd t
  | .flightBarrierComplete t => .flightBarrierComplete t
  | .flightPhaseStart t => .flightPhaseStart t
  | .vectorArrival c port => .vectorArrival c port
  | .flightBreakSignal t => .flightBreakSignal t
  | .tailRegisterWrite q value => .tailRegisterWrite q value
  | .launch q => .launch q
  | .wait q => .wait q
  | .waitRetest q => .waitRetest q
  | .signal q => .signal q
  | .cond q => .cond q
  | .loopNode q => .loopNode q
  | .switch q => .switch q
  | .load q => .load q
  | .teamPlace t => .teamPlace t
  | .quantumExpiry t => .quantumExpiry t
  | .teamSave t => .teamSave t
  | .jobComplete j => .jobComplete j
  | .teamFault t => .teamFault t
  | .ageing q => .ageing q
  | .usherConfigCommit off bytes => .usherConfigCommit off bytes
  | .fabricConfigCommit off bytes => .fabricConfigCommit off bytes
  | .registerWrite off bytes => .registerWrite off bytes
  | .moduleReset => .moduleReset
  | .windowRead off n => .windowRead off n
  | .windowWrite off bytes => .windowWrite off bytes
  | .sensors => .sensors
  | .log => .log
  | .cap => .cap
  | .update => .update
  | .attest => .attest
  | .errcnt => .errcnt
  | .unretire => .unretire
  | .mailboxCompletion => .mailboxCompletion
  | .hostReadTimeout id => .hostReadTimeout id
  | .peerRequest r => .peerRequest r
  | .flitRetry link => .flitRetry link
  | .sensorRefresh => .sensorRefresh
  | .powerBudgetCheck => .powerBudgetCheck
  | .coolantLoss => .coolantLoss
  | .eccSummary => .eccSummary
  | .lineFill id => .lineFill id
  | .pageWalk id => .pageWalk id
  | .packetArrival id => .packetArrival id
  | .regionalCount die => .regionalCount die
  | .escape id => .escape id
  | .routerSleep die => .routerSleep die
  | .routerWake die => .routerWake die
  | .trafficPeriod => .trafficPeriod
  | .hotLineRecompress line => .hotLineRecompress line
  | .illegalBundle c bcast => .illegalBundle c bcast
  | .reservedOpcode c bcast slot => .reservedOpcode c bcast slot
  | .fetchFault c bcast => .fetchFault c bcast
  | .bankPortRequest c slice => .bankPortRequest c slice
  | .hostCompletion id data => .hostCompletion id data
  | .peerResponse id data => .peerResponse id data
  | .linkUp link degraded => .linkUp link degraded
  | .powerLoss => .powerLoss
  | .flipatReached t => .flipatReached t
  | .badCommand => .badCommand

end Sys2Proof
end

