-- ==== Sys2Proof/Decode.lean ====
section
/-!
DEFINITION. Decoding of bundle headers, slot words and group table entries (R55-R91), and the encoder written from the same tables.
Every decoder is total: it answers the instruction, or the name of the check that refuses the word (R60, R79, R89).
-/
namespace Sys2Proof

/-- Why a header or slot word is not an instruction (R60). -/
inductive DecodeError where
  /-- checks 1 and 2 of R60: kind, reserved bits, fold beside a nonzero mask -/
  | illegalBundle
  /-- check 4: opcode reserved in its slot or in the current mode (R75) -/
  | reservedOpcode
  /-- check 5: a field that must be 0, or a code that the instruction does not accept -/
  | reservedField
  deriving DecidableEq, Repr

/-- The slots of both bundle kinds (R59, R76). -/
inductive Slot where
  | a | g | l | x | m | c0 | c1 | k | v0 | v1 | q
  deriving DecidableEq, Repr

/-! Field access -/

def fin1 (x : BitVec 1) : Fin 2 := x.toFin
def fin2 (x : BitVec 2) : Fin 4 := x.toFin
def fin3 (x : BitVec 3) : Fin 8 := x.toFin
def fin4 (x : BitVec 4) : Fin 16 := x.toFin
def fin6 (x : BitVec 6) : Fin 64 := x.toFin
def fin10 (x : BitVec 10) : Fin 1024 := x.toFin
def b1 (x : Fin 2) : BitVec 1 := BitVec.ofFin x
def b2 (x : Fin 4) : BitVec 2 := BitVec.ofFin x
def b3 (x : Fin 8) : BitVec 3 := BitVec.ofFin x
def b4 (x : Fin 16) : BitVec 4 := BitVec.ofFin x
def b6 (x : Fin 64) : BitVec 6 := BitVec.ofFin x
def b10 (x : Fin 1024) : BitVec 10 := BitVec.ofFin x

/-- The 3-bit predicate number in a 6-bit register field (R178). -/
def regOfP (p : PReg) : Reg := ⟨p.val, Nat.lt_trans p.isLt (by decide)⟩

def qual (w : BitVec 32) : Qual := ⟨fin3 (w.extractLsb' 23 3), w.getLsbD 22⟩
/-- Register field [21:16]. -/
def rD (w : BitVec 32) : Reg := fin6 (w.extractLsb' 16 6)
/-- Register field [15:10]. -/
def rA (w : BitVec 32) : Reg := fin6 (w.extractLsb' 10 6)
/-- Register field [9:4]. -/
def rB (w : BitVec 32) : Reg := fin6 (w.extractLsb' 4 6)
/-- Predicate number [18:16]. -/
def pD (w : BitVec 32) : PReg := fin3 (w.extractLsb' 16 3)
/-- Destination [25:20] of the A-imm formats. -/
def iD (w : BitVec 32) : Reg := fin6 (w.extractLsb' 20 6)
/-- Source [19:14] of the A-imm12 format. -/
def iA (w : BitVec 32) : Reg := fin6 (w.extractLsb' 14 6)
/-- Bits [21:0]. -/
def low22 (w : BitVec 32) : BitVec 22 := w.extractLsb' 0 22

def orderOf (b : BitVec 2) : Order :=
  if b = 0#2 then .rlx else if b = 1#2 then .acq else if b = 2#2 then .rel else .ar
def orderBits : Order → BitVec 2
  | .rlx => 0 | .acq => 1 | .rel => 2 | .ar => 3
def scopeOf (b : BitVec 2) : Scope :=
  if b = 0#2 then .d else if b = 1#2 then .t else if b = 2#2 then .p else .s
def scopeBits : Scope → BitVec 2
  | .d => 0 | .t => 1 | .p => 2 | .s => 3

/-- The pair tv and token: a token number without tv is no legal field. -/
def tokOk (t : BitVec 5) : Bool := t.getLsbD 4 || t.extractLsb' 0 4 == 0#4
def tokOf (t : BitVec 5) : Option (Fin 16) := if t.getLsbD 4 then some (fin4 (t.extractLsb' 0 4)) else none
def tokBits : Option (Fin 16) → BitVec 5
  | some t => 1#1 ++ b4 t
  | none => 0

/-! Word builders, one per format of R64 and R78 -/

/-- Opcode, predicate and the 22 low bits: A-reg, mem, atomic, branch and reg formats. -/
def wq (op : BitVec 6) (q : Qual) (low : BitVec 22) : BitVec 32 :=
  op ++ b3 q.p ++ BitVec.ofBool q.neg ++ low
def low3 (d a b : Reg) (fn : BitVec 4) : BitVec 22 := b6 d ++ b6 a ++ b6 b ++ fn
def low2 (a b : Reg) (imm : BitVec 10) : BitVec 22 := b6 a ++ b6 b ++ imm
/-- A-imm12 format. -/
def wi (op : BitVec 6) (d a : Reg) (imm : BitVec 12) (p : Fin 4) : BitVec 32 :=
  op ++ b6 d ++ b6 a ++ imm ++ b2 p
/-- A-imm20 format. -/
def w20 (op : BitVec 6) (d : Reg) (imm : BitVec 20) : BitVec 32 := op ++ b6 d ++ imm
/-- Q-gen format. -/
def wgen (op a b : BitVec 6) (imm : BitVec 14) : BitVec 32 := op ++ a ++ b ++ imm

/-! Slot words (R67-R73) -/

/-- A slot words (R67, R175-R183). -/
def decodeA (w : BitVec 32) : Except DecodeError Instr :=
  match (w.extractLsb' 26 6).toNat with
  | 1 => if low22 w &&& 0xF#22 = 0x0#22 then .ok (.add (qual w) (rD w) (rA w) (rB w))
    else .error .reservedField
  | 2 => if low22 w &&& 0xF#22 = 0x0#22 then .ok (.sub (qual w) (rD w) (rA w) (rB w))
    else .error .reservedField
  | 3 => if low22 w &&& 0xF#22 = 0x0#22 then .ok (.and (qual w) (rD w) (rA w) (rB w))
    else .error .reservedField
  | 4 => if low22 w &&& 0xF#22 = 0x0#22 then .ok (.or (qual w) (rD w) (rA w) (rB w))
    else .error .reservedField
  | 5 => if low22 w &&& 0xF#22 = 0x0#22 then .ok (.xor (qual w) (rD w) (rA w) (rB w))
    else .error .reservedField
  | 6 => if low22 w &&& 0xF#22 = 0x0#22 then .ok (.andn (qual w) (rD w) (rA w) (rB w))
    else .error .reservedField
  | 7 => if low22 w &&& 0xF#22 = 0x0#22 then .ok (.min (qual w) (rD w) (rA w) (rB w))
    else .error .reservedField
  | 8 => if low22 w &&& 0xF#22 = 0x0#22 then .ok (.max (qual w) (rD w) (rA w) (rB w))
    else .error .reservedField
  | 9 => if low22 w &&& 0xF#22 = 0x0#22 then .ok (.minu (qual w) (rD w) (rA w) (rB w))
    else .error .reservedField
  | 10 => if low22 w &&& 0xF#22 = 0x0#22 then .ok (.maxu (qual w) (rD w) (rA w) (rB w))
    else .error .reservedField
  | 11 => if low22 w &&& 0xF#22 = 0x0#22 then .ok (.sll (qual w) (rD w) (rA w) (rB w))
    else .error .reservedField
  | 12 => if low22 w &&& 0xF#22 = 0x0#22 then .ok (.srl (qual w) (rD w) (rA w) (rB w))
    else .error .reservedField
  | 13 => if low22 w &&& 0xF#22 = 0x0#22 then .ok (.sra (qual w) (rD w) (rA w) (rB w))
    else .error .reservedField
  | 14 => if low22 w &&& 0xF#22 = 0x0#22 then .ok (.rol (qual w) (rD w) (rA w) (rB w))
    else .error .reservedField
  | 15 => if low22 w &&& 0xF#22 = 0x0#22 then .ok (.mul (qual w) (rD w) (rA w) (rB w))
    else .error .reservedField
  | 16 => if low22 w &&& 0xF#22 = 0x0#22 then .ok (.mulh (qual w) (rD w) (rA w) (rB w))
    else .error .reservedField
  | 17 => if low22 w &&& 0xF#22 = 0x0#22 then .ok (.mulhu (qual w) (rD w) (rA w) (rB w))
    else .error .reservedField
  | 18 => if low22 w &&& 0xF#22 = 0x0#22 then .ok (.div (qual w) (rD w) (rA w) (rB w))
    else .error .reservedField
  | 19 => if low22 w &&& 0xF#22 = 0x0#22 then .ok (.divu (qual w) (rD w) (rA w) (rB w))
    else .error .reservedField
  | 20 => if low22 w &&& 0xF#22 = 0x0#22 then .ok (.rem (qual w) (rD w) (rA w) (rB w))
    else .error .reservedField
  | 21 => if low22 w &&& 0xF#22 = 0x0#22 then .ok (.remu (qual w) (rD w) (rA w) (rB w))
    else .error .reservedField
  | 22 => if low22 w &&& 0x38000F#22 = 0x0#22 then .ok (.cmpeq (qual w) (pD w) (rA w) (rB w))
    else .error .reservedField
  | 23 => if low22 w &&& 0x38000F#22 = 0x0#22 then .ok (.cmpne (qual w) (pD w) (rA w) (rB w))
    else .error .reservedField
  | 24 => if low22 w &&& 0x38000F#22 = 0x0#22 then .ok (.cmplt (qual w) (pD w) (rA w) (rB w))
    else .error .reservedField
  | 25 => if low22 w &&& 0x38000F#22 = 0x0#22 then .ok (.cmpltu (qual w) (pD w) (rA w) (rB w))
    else .error .reservedField
  | 26 => if low22 w &&& 0x38000F#22 = 0x0#22 then .ok (.cmple (qual w) (pD w) (rA w) (rB w))
    else .error .reservedField
  | 27 => if low22 w &&& 0x38000F#22 = 0x0#22 then .ok (.cmpleu (qual w) (pD w) (rA w) (rB w))
    else .error .reservedField
  | 28 => if low22 w &&& 0x8#22 = 0x0#22 then .ok (.sel (qual w) (rD w) (fin3 (w.extractLsb' 0 3)) (rA w) (rB w))
    else .error .reservedField
  | 29 => if low22 w &&& 0x3FF#22 = 0x0#22 then .ok (.clz (qual w) (rD w) (rA w))
    else .error .reservedField
  | 30 => if low22 w &&& 0x3FF#22 = 0x0#22 then .ok (.ctz (qual w) (rD w) (rA w))
    else .error .reservedField
  | 31 => if low22 w &&& 0x3FF#22 = 0x0#22 then .ok (.popc (qual w) (rD w) (rA w))
    else .error .reservedField
  | 32 => if low22 w &&& 0x3F0#22 = 0x0#22 ∧ w.extractLsb' 0 4 ≤ 2#4 then .ok (.sext (qual w) (rD w) (rA w) (w.extractLsb' 0 4))
    else .error .reservedField
  | 33 => if low22 w &&& 0x3F0#22 = 0x0#22 ∧ w.extractLsb' 0 4 ≤ 2#4 then .ok (.zext (qual w) (rD w) (rA w) (w.extractLsb' 0 4))
    else .error .reservedField
  | 34 => .ok (.addi (fin2 (w.extractLsb' 0 2)) (iD w) (iA w) (w.extractLsb' 2 12))
  | 35 => .ok (.andi (fin2 (w.extractLsb' 0 2)) (iD w) (iA w) (w.extractLsb' 2 12))
  | 36 => .ok (.ori (fin2 (w.extractLsb' 0 2)) (iD w) (iA w) (w.extractLsb' 2 12))
  | 37 => .ok (.xori (fin2 (w.extractLsb' 0 2)) (iD w) (iA w) (w.extractLsb' 2 12))
  | 38 => if low22 w &&& 0x3F00#22 = 0x0#22 then .ok (.slli (fin2 (w.extractLsb' 0 2)) (iD w) (iA w) (w.extractLsb' 2 6))
    else .error .reservedField
  | 39 => if low22 w &&& 0x3F00#22 = 0x0#22 then .ok (.srli (fin2 (w.extractLsb' 0 2)) (iD w) (iA w) (w.extractLsb' 2 6))
    else .error .reservedField
  | 40 => if low22 w &&& 0x3F00#22 = 0x0#22 then .ok (.srai (fin2 (w.extractLsb' 0 2)) (iD w) (iA w) (w.extractLsb' 2 6))
    else .error .reservedField
  | 41 => .ok (.cmpi (fin2 (w.extractLsb' 0 2)) (w.extractLsb' 23 3) (fin3 (w.extractLsb' 20 3)) (iA w) (w.extractLsb' 2 12))
  | 42 => .ok (.lui (iD w) (w.extractLsb' 0 20))
  | 43 => .ok (.addpc (iD w) (w.extractLsb' 0 20))
  | 44 => if low22 w &&& 0xF#22 = 0x0#22 then .ok (.faddS (qual w) (rD w) (rA w) (rB w))
    else .error .reservedField
  | 45 => if low22 w &&& 0xF#22 = 0x0#22 then .ok (.fsubS (qual w) (rD w) (rA w) (rB w))
    else .error .reservedField
  | 46 => if low22 w &&& 0xF#22 = 0x0#22 then .ok (.fmulS (qual w) (rD w) (rA w) (rB w))
    else .error .reservedField
  | 47 => if low22 w &&& 0xF#22 = 0x0#22 then .ok (.fminS (qual w) (rD w) (rA w) (rB w))
    else .error .reservedField
  | 48 => if low22 w &&& 0xF#22 = 0x0#22 then .ok (.fmaxS (qual w) (rD w) (rA w) (rB w))
    else .error .reservedField
  | 49 => if low22 w &&& 0x3F0#22 = 0x0#22 ∧ w.extractLsb' 0 4 ≤ 8#4 then .ok (.fcvtS (qual w) (rD w) (rA w) (w.extractLsb' 0 4))
    else .error .reservedField
  | 50 => if low22 w &&& 0x380000#22 = 0x0#22 ∧ w.extractLsb' 0 4 ≤ 3#4 then .ok (.fcmpS (qual w) (pD w) (rA w) (rB w) (w.extractLsb' 0 4))
    else .error .reservedField
  | 51 => if low22 w &&& 0x38E380#22 = 0x0#22 then .ok (.plog (qual w) (pD w) (fin3 (w.extractLsb' 10 3)) (fin3 (w.extractLsb' 4 3)) (w.extractLsb' 0 4))
    else .error .reservedField
  | _ => .error .reservedOpcode

/-- G slot words (R68, R184-R188, R351, R465). -/
def decodeG (w : BitVec 32) : Except DecodeError Instr :=
  match (w.extractLsb' 26 6).toNat with
  | 1 => .ok (.ldb (qual w) (rD w) (rA w) (w.extractLsb' 0 10))
  | 2 => .ok (.ldbu (qual w) (rD w) (rA w) (w.extractLsb' 0 10))
  | 3 => .ok (.ldh (qual w) (rD w) (rA w) (w.extractLsb' 0 10))
  | 4 => .ok (.ldhu (qual w) (rD w) (rA w) (w.extractLsb' 0 10))
  | 5 => .ok (.ldw (qual w) (rD w) (rA w) (w.extractLsb' 0 10))
  | 6 => .ok (.ldwu (qual w) (rD w) (rA w) (w.extractLsb' 0 10))
  | 7 => .ok (.ldd (qual w) (rD w) (rA w) (w.extractLsb' 0 10))
  | 8 => .ok (.stb (qual w) (rD w) (rA w) (w.extractLsb' 0 10))
  | 9 => .ok (.sth (qual w) (rD w) (rA w) (w.extractLsb' 0 10))
  | 10 => .ok (.stw (qual w) (rD w) (rA w) (w.extractLsb' 0 10))
  | 11 => .ok (.std (qual w) (rD w) (rA w) (w.extractLsb' 0 10))
  | 12 => if low22 w &&& 0x3F0000#22 = 0x0#22 then .ok (.pfg (qual w) (rA w) (w.extractLsb' 0 10))
    else .error .reservedField
  | 13 => if low22 w &&& 0x3FFFFC#22 = 0x0#22 then .ok (.drain (qual w) (scopeOf (w.extractLsb' 0 2)))
    else .error .reservedField
  | 14 => if low22 w &&& 0x3F0000#22 = 0x0#22 then .ok (.purgeDc (qual w) (rA w) (w.extractLsb' 0 10))
    else if low22 w &&& 0x3F0000#22 = 0x10000#22 then .ok (.purgeIc (qual w) (rA w) (w.extractLsb' 0 10))
    else if low22 w &&& 0x3F0000#22 = 0x20000#22 then .ok (.purgeTlb (qual w) (rA w) (w.extractLsb' 0 10))
    else .error .reservedField
  | 15 => .ok (.aadd (qual w) (rD w) (rA w) (rB w) (orderOf (w.extractLsb' 2 2)) (scopeOf (w.extractLsb' 0 2)))
  | 16 => .ok (.aand (qual w) (rD w) (rA w) (rB w) (orderOf (w.extractLsb' 2 2)) (scopeOf (w.extractLsb' 0 2)))
  | 17 => .ok (.aor (qual w) (rD w) (rA w) (rB w) (orderOf (w.extractLsb' 2 2)) (scopeOf (w.extractLsb' 0 2)))
  | 18 => .ok (.axor (qual w) (rD w) (rA w) (rB w) (orderOf (w.extractLsb' 2 2)) (scopeOf (w.extractLsb' 0 2)))
  | 19 => .ok (.amin (qual w) (rD w) (rA w) (rB w) (orderOf (w.extractLsb' 2 2)) (scopeOf (w.extractLsb' 0 2)))
  | 20 => .ok (.amax (qual w) (rD w) (rA w) (rB w) (orderOf (w.extractLsb' 2 2)) (scopeOf (w.extractLsb' 0 2)))
  | 21 => .ok (.aminu (qual w) (rD w) (rA w) (rB w) (orderOf (w.extractLsb' 2 2)) (scopeOf (w.extractLsb' 0 2)))
  | 22 => .ok (.amaxu (qual w) (rD w) (rA w) (rB w) (orderOf (w.extractLsb' 2 2)) (scopeOf (w.extractLsb' 0 2)))
  | 23 => .ok (.axchg (qual w) (rD w) (rA w) (rB w) (orderOf (w.extractLsb' 2 2)) (scopeOf (w.extractLsb' 0 2)))
  | 24 => .ok (.acas (qual w) (rD w) (rA w) (rB w) (orderOf (w.extractLsb' 2 2)) (scopeOf (w.extractLsb' 0 2)))
  | 25 => .ok (.afadd (qual w) (rD w) (rA w) (rB w) (orderOf (w.extractLsb' 2 2)) (scopeOf (w.extractLsb' 0 2)))
  | 26 => .ok (.radd (qual w) (rD w) (rA w) (rB w) (orderOf (w.extractLsb' 2 2)) (scopeOf (w.extractLsb' 0 2)))
  | 27 => .ok (.rmax (qual w) (rD w) (rA w) (rB w) (orderOf (w.extractLsb' 2 2)) (scopeOf (w.extractLsb' 0 2)))
  | 28 => .ok (.rmin (qual w) (rD w) (rA w) (rB w) (orderOf (w.extractLsb' 2 2)) (scopeOf (w.extractLsb' 0 2)))
  | 29 => if (w.extractLsb' 2 2 = 0#2 ∨ w.extractLsb' 2 2 = 2#2) ∧ (w.extractLsb' 0 2 = 1#2 ∨ w.extractLsb' 0 2 = 2#2) then .ok (.phinit (qual w) (rD w) (rA w) (rB w) (orderOf (w.extractLsb' 2 2)) (scopeOf (w.extractLsb' 0 2)))
    else .error .reservedField
  | 30 => if (w.extractLsb' 2 2 = 0#2 ∨ w.extractLsb' 2 2 = 2#2) ∧ (w.extractLsb' 0 2 = 1#2 ∨ w.extractLsb' 0 2 = 2#2) then .ok (.phreg (qual w) (rD w) (rA w) (rB w) (orderOf (w.extractLsb' 2 2)) (scopeOf (w.extractLsb' 0 2)))
    else .error .reservedField
  | 31 => if low22 w &&& 0x3F0#22 = 0x0#22 ∧ (w.extractLsb' 2 2 = 0#2 ∨ w.extractLsb' 2 2 = 2#2) ∧ (w.extractLsb' 0 2 = 1#2 ∨ w.extractLsb' 0 2 = 2#2) then .ok (.phdrop (qual w) (rD w) (rA w) (orderOf (w.extractLsb' 2 2)) (scopeOf (w.extractLsb' 0 2)))
    else .error .reservedField
  | 32 => if low22 w &&& 0x3F0#22 = 0x0#22 ∧ (w.extractLsb' 2 2 = 0#2 ∨ w.extractLsb' 2 2 = 2#2) ∧ (w.extractLsb' 0 2 = 1#2 ∨ w.extractLsb' 0 2 = 2#2) then .ok (.pharr (qual w) (rD w) (rA w) (orderOf (w.extractLsb' 2 2)) (scopeOf (w.extractLsb' 0 2)))
    else .error .reservedField
  | 33 => if (w.extractLsb' 2 2 = 0#2 ∨ w.extractLsb' 2 2 = 1#2) ∧ (w.extractLsb' 0 2 = 1#2 ∨ w.extractLsb' 0 2 = 2#2) then .ok (.phwait (qual w) (rD w) (rA w) (rB w) (orderOf (w.extractLsb' 2 2)) (scopeOf (w.extractLsb' 0 2)))
    else .error .reservedField
  | 34 => if low22 w &&& 0x3F0#22 = 0x0#22 ∧ (w.extractLsb' 0 2 = 1#2 ∨ w.extractLsb' 0 2 = 2#2) then .ok (.pharw (qual w) (rD w) (rA w) (orderOf (w.extractLsb' 2 2)) (scopeOf (w.extractLsb' 0 2)))
    else .error .reservedField
  | 35 => if low22 w &&& 0x3F0#22 = 0x0#22 ∧ (w.extractLsb' 2 2 = 0#2 ∨ w.extractLsb' 2 2 = 1#2) ∧ (w.extractLsb' 0 2 = 1#2 ∨ w.extractLsb' 0 2 = 2#2) then .ok (.phq (qual w) (rD w) (rA w) (orderOf (w.extractLsb' 2 2)) (scopeOf (w.extractLsb' 0 2)))
    else .error .reservedField
  | 36 => if low22 w &&& 0x3#22 = 0x2#22 then .ok (.migr (qual w) (rD w) (rA w) (rB w) (orderOf (w.extractLsb' 2 2)))
    else .error .reservedField
  | _ => .error .reservedOpcode

/-- L slot words (R69). -/
def decodeL (w : BitVec 32) : Except DecodeError Instr :=
  match (w.extractLsb' 26 6).toNat with
  | 1 => .ok (.lyb (qual w) (rD w) (rA w) (w.extractLsb' 0 10))
  | 2 => .ok (.lyh (qual w) (rD w) (rA w) (w.extractLsb' 0 10))
  | 3 => .ok (.lyw (qual w) (rD w) (rA w) (w.extractLsb' 0 10))
  | 4 => .ok (.lyd (qual w) (rD w) (rA w) (w.extractLsb' 0 10))
  | 5 => .ok (.syb (qual w) (rD w) (rA w) (w.extractLsb' 0 10))
  | 6 => .ok (.syh (qual w) (rD w) (rA w) (w.extractLsb' 0 10))
  | 7 => .ok (.syw (qual w) (rD w) (rA w) (w.extractLsb' 0 10))
  | 8 => .ok (.syd (qual w) (rD w) (rA w) (w.extractLsb' 0 10))
  | 9 => .ok (.sgw (qual w) (rD w) (rA w) (w.extractLsb' 0 10))
  | 10 => .ok (.twrite (qual w) (rD w) (rA w) (w.extractLsb' 0 10))
  | 11 => if low22 w &&& 0x3FFFFF#22 = 0x0#22 then .ok (.tclr (qual w))
    else .error .reservedField
  | 12 => if low22 w &&& 0x3F0#22 = 0x0#22 then .ok (.qcfg (qual w) (rD w) (rA w) (fin4 (w.extractLsb' 0 4)))
    else if low22 w &&& 0x3FF#22 = 0x10#22 then .ok (.qcfgStk (qual w) (rD w) (rA w))
    else .error .reservedField
  | 13 => if low22 w &&& 0xFFF0#22 = 0x0#22 then .ok (.cbcfg (qual w) (rD w) (fin4 (w.extractLsb' 0 4)))
    else .error .reservedField
  | 14 => if low22 w &&& 0x3FF#22 = 0x0#22 then .ok (.mxtab (qual w) (rD w) (rA w))
    else .error .reservedField
  | _ => .error .reservedOpcode

/-- X slot words (R70). -/
def decodeX (w : BitVec 32) : Except DecodeError Instr :=
  match (w.extractLsb' 26 6).toNat with
  | 1 => .ok (.br (qual w) (w.extractLsb' 0 22))
  | 2 => .ok (.call (qual w) (w.extractLsb' 0 22))
  | 3 => if low22 w &&& 0xFFFF#22 = 0x0#22 then .ok (.jr (qual w) (rD w))
    else .error .reservedField
  | 4 => if low22 w &&& 0x3FF#22 = 0x0#22 then .ok (.jalr (qual w) (rD w) (rA w))
    else .error .reservedField
  | 5 => if w.extractLsb' 0 18 ≠ 0#18 then .ok (.loop (fin2 (w.extractLsb' 24 2)) (fin6 (w.extractLsb' 18 6)) (w.extractLsb' 0 18))
    else .error .reservedField
  | 6 => if low22 w &&& 0x3F#22 = 0x0#22 then .ok (.lpstep (qual w) (fin2 (w.extractLsb' 8 2)) (fin2 (w.extractLsb' 6 2)) (rD w) (rA w))
    else .error .reservedField
  | 7 => if low22 w &&& 0x3FFFF0#22 = 0x0#22 then .ok (.waitk (qual w) (fin4 (w.extractLsb' 0 4)))
    else if low22 w &&& 0xFFFF#22 = 0x200#22 then .ok (.waitkMask (qual w) (rD w))
    else .error .reservedField
  | 8 => if low22 w &&& 0x3FFFF0#22 = 0x0#22 then .ok (.waitf (qual w) (fin4 (w.extractLsb' 0 4)))
    else if low22 w &&& 0xFFFF#22 = 0x200#22 then .ok (.waitfMask (qual w) (rD w))
    else .error .reservedField
  | 9 => if low22 w &&& 0x3FFFF0#22 = 0x0#22 then .ok (.setf (qual w) (fin4 (w.extractLsb' 0 4)))
    else if low22 w &&& 0xFFFF#22 = 0x200#22 then .ok (.setfMask (qual w) (rD w))
    else .error .reservedField
  | 10 => if low22 w &&& 0x3FFFF0#22 = 0x0#22 then .ok (.clrf (qual w) (fin4 (w.extractLsb' 0 4)))
    else if low22 w &&& 0xFFFF#22 = 0x200#22 then .ok (.clrfMask (qual w) (rD w))
    else .error .reservedField
  | 11 => if low22 w &&& 0xFFFF#22 = 0x0#22 then .ok (.bstart (qual w) (rD w))
    else .error .reservedField
  | 12 => if low22 w &&& 0x3FFFFF#22 = 0x0#22 then .ok (.bstop (qual w))
    else .error .reservedField
  | 13 => if low22 w &&& 0xFFFF#22 = 0x0#22 then .ok (.pushq (qual w) (rD w))
    else .error .reservedField
  | 14 => if low22 w &&& 0xFFFF#22 = 0x0#22 then .ok (.popq (qual w) (rD w))
    else .error .reservedField
  | 15 => if low22 w &&& 0xF#22 = 0x0#22 then .ok (.mfsr (qual w) (rD w) (w.extractLsb' 4 12))
    else .error .reservedField
  | 16 => if low22 w &&& 0xF#22 = 0x0#22 then .ok (.mtsr (qual w) (rD w) (w.extractLsb' 4 12))
    else .error .reservedField
  | 17 => if low22 w &&& 0x3FFC00#22 = 0x0#22 then .ok (.trap (qual w) (w.extractLsb' 0 10))
    else .error .reservedField
  | 18 => if low22 w &&& 0x3FFFFF#22 = 0x0#22 then .ok (.eret (qual w))
    else .error .reservedField
  | 19 => if low22 w &&& 0x3FFC00#22 = 0x0#22 then .ok (.brk (qual w) (w.extractLsb' 0 10))
    else .error .reservedField
  | 20 => if low22 w &&& 0x3FF#22 = 0x0#22 then .ok (.stqrd (qual w) (rD w) (rA w))
    else .error .reservedField
  | 21 => if low22 w &&& 0xFE00#22 = 0x0#22 ∧ w.extractLsb' 0 9 ≤ 256#9 then .ok (.flbar (qual w) (rD w) (w.extractLsb' 0 9))
    else .error .reservedField
  | 22 => if low22 w &&& 0xFFFF#22 = 0x0#22 then .ok (.flend (qual w) (rD w))
    else .error .reservedField
  | _ => .error .reservedOpcode

/-- `tmov` and the trigger moves (R335, R336). -/
def decodeTmov (w : BitVec 32) : Except DecodeError Instr :=
  let q := qual w
  let a := rD w
  let su := fin2 (w.extractLsb' 20 2)
  let sp := (w.extractLsb' 16 4).toNat
  let u := fin2 (w.extractLsb' 14 2)
  let port := w.extractLsb' 10 4
  let t := w.extractLsb' 4 5
  if w.extractLsb' 0 4 ≠ 0#4 then .error .reservedField
  else if h : port.toNat < 5 then
    if t ≠ 0#5 then .error .reservedField
    else if w.getLsbD 9 then
      if hs : sp < 5 then .ok (.tmovPort q su (some ⟨sp, hs⟩) u ⟨port.toNat, h⟩)
      else if sp = 8 then .ok (.tmovPort q su none u ⟨port.toNat, h⟩)
      else .error .reservedField
    else .ok (.tmov q a u ⟨port.toNat, h⟩)
  else if w.getLsbD 9 ∨ tokOk t = false then .error .reservedField
  else match u.val, port.toNat with
    | 0, 12 => .ok (.cvtSplit q a (tokOf t))
    | 0, 13 => .ok (.cvtJoin q a (tokOf t))
    | 1, 12 => .ok (.cmpPack q a (tokOf t))
    | 2, 12 => .ok (.xposeW32 q a (tokOf t))
    | 2, 13 => .ok (.xposeW16 q a (tokOf t))
    | 3, 12 => .ok (.layoutIm2col q a (tokOf t))
    | _, _ => .error .reservedField

/-- M slot words (R71, R301, R336-R340). -/
def decodeM (w : BitVec 32) : Except DecodeError Instr :=
  match (w.extractLsb' 26 6).toNat with
  | 1 => if low22 w &&& 0x3F8#22 = 0x0#22 then .ok (.mxcfg (qual w) (rD w) (rA w) (fin3 (w.extractLsb' 0 3)))
    else .error .reservedField
  | 2 => if low22 w &&& 0x380#22 = 0x0#22 then .ok (.mxlds (qual w) (rD w) (rA w) (fin4 (w.extractLsb' 0 4)) (fin2 (w.extractLsb' 4 2)) (w.getLsbD 6))
    else .error .reservedField
  | 3 => if low22 w &&& 0xFFFF#22 = 0x0#22 then .ok (.mxswap (qual w) (rD w))
    else .error .reservedField
  | 4 => if low22 w &&& 0xFC00#22 = 0x0#22 then .ok (.mxgo (qual w) (rD w) (fin4 (w.extractLsb' 0 4)) (w.extractLsb' 4 6))
    else .error .reservedField
  | 5 => if low22 w &&& 0xFFF8#22 = 0x0#22 then .ok (.mxmode (qual w) (rD w) (fin2 (w.extractLsb' 0 2)) (w.getLsbD 2))
    else .error .reservedField
  | 6 => if low22 w &&& 0x3FC#22 = 0x0#22 then .ok (.mxrd (qual w) (rD w) (rA w) (fin2 (w.extractLsb' 0 2)))
    else .error .reservedField
  | 7 => if low22 w &&& 0xFFFF#22 = 0x0#22 then .ok (.mxstop (qual w) (rD w))
    else .error .reservedField
  | 8 => decodeTmov w
  | 9 => if low22 w &&& 0xFFF8#22 = 0x0#22 then .ok (.tcfg (qual w) (rD w) (fin3 (w.extractLsb' 0 3)))
    else if low22 w &&& 0xFFFF#22 = 0x8#22 then .ok (.tcfgPinned (qual w) (rD w))
    else .error .reservedField
  | 10 => if low22 w &&& 0xFFFC#22 = 0x0#22 then .ok (.tstat (qual w) (rD w) (fin2 (w.extractLsb' 0 2)))
    else .error .reservedField
  | _ => .error .reservedOpcode

/-- C slot words outside flight phases: ops 1 to 6 as R333 lays them out, every field that it marks 0 checked, any other op reserved (R72, R333). -/
def decodeC (w : BitVec 32) : Except DecodeError Instr :=
  match (w.extractLsb' 26 6).toNat with
  | 1 => if low22 w &&& 0x200#22 = 0x0#22 ∧ tokOk (w.extractLsb' 4 5) then .ok (.cp (qual w) (rD w) (rA w) (fin4 (w.extractLsb' 0 4)) (tokOf (w.extractLsb' 4 5)))
    else .error .reservedField
  | 2 => if low22 w &&& 0x200#22 = 0x0#22 ∧ tokOk (w.extractLsb' 4 5) then .ok (.cpt (qual w) (rD w) (rA w) (fin4 (w.extractLsb' 0 4)) (tokOf (w.extractLsb' 4 5)))
    else .error .reservedField
  | 3 => if low22 w &&& 0x200#22 = 0x0#22 ∧ tokOk (w.extractLsb' 4 5) then .ok (.cptab (qual w) (rD w) (rA w) (fin4 (w.extractLsb' 0 4)) (tokOf (w.extractLsb' 4 5)))
    else .error .reservedField
  | 4 => if low22 w &&& 0xFFF0#22 = 0x0#22 then .ok (.cpcfg (qual w) (rD w) (fin4 (w.extractLsb' 0 4)))
    else .error .reservedField
  | 5 => if low22 w &&& 0xFFFE#22 = 0x0#22 then .ok (.cpstat (qual w) (rD w) (fin1 (w.extractLsb' 0 1)))
    else .error .reservedField
  | 6 => if low22 w &&& 0x3FFFFE#22 = 0x0#22 then .ok (.cpcan (qual w) (fin1 (w.extractLsb' 0 1)))
    else .error .reservedField
  | _ => .error .reservedOpcode

/-- C slot words inside flight phases (R72, R402). -/
def decodeF (w : BitVec 32) : Except DecodeError Instr :=
  match (w.extractLsb' 26 6).toNat with
  | 7 => if low22 w &&& 0xFFFC#22 = 0x0#22 then .ok (.xmit (qual w) (rD w) (fin2 (w.extractLsb' 0 2)))
    else .error .reservedField
  | 8 => if low22 w &&& 0xFFFC#22 = 0x0#22 then .ok (.xsel (qual w) (rD w) (fin2 (w.extractLsb' 0 2)))
    else .error .reservedField
  | 9 => if low22 w &&& 0x3FFFF0#22 = 0x0#22 then .ok (.xfwd (qual w) (fin2 (w.extractLsb' 0 2)) (fin2 (w.extractLsb' 2 2)))
    else .error .reservedField
  | 10 => if low22 w &&& 0x3FFFFC#22 = 0x0#22 then .ok (.xidle (qual w) (fin2 (w.extractLsb' 0 2)))
    else .error .reservedField
  | _ => .error .reservedOpcode

/-- K slot words (R73, R393). -/
def decodeK (w : BitVec 32) : Except DecodeError Instr :=
  match (w.extractLsb' 26 6).toNat with
  | 1 => .ok (.spawn (qual w) (rD w) (rA w) (w.extractLsb' 0 10))
  | 2 => if low22 w &&& 0xFC00#22 = 0x0#22 then .ok (.spawnr (qual w) (rD w) (w.extractLsb' 0 10))
    else .error .reservedField
  | 3 => if low22 w &&& 0x380#22 = 0x0#22 then .ok (.vdecl (qual w) (rD w) (rA w) (fin3 (w.extractLsb' 0 3)) (fin3 (w.extractLsb' 3 3)) (w.getLsbD 6))
    else .error .reservedField
  | 4 => if low22 w &&& 0x3FFFF8#22 = 0x0#22 then .ok (.vdrop (qual w) (fin3 (w.extractLsb' 0 3)))
    else .error .reservedField
  | 5 => if low22 w &&& 0x3FFFFF#22 = 0x0#22 then .ok (.join (qual w))
    else .error .reservedField
  | 6 => if low22 w &&& 0x3FFFFF#22 = 0x0#22 then .ok (.endt (qual w))
    else .error .reservedField
  | 7 => if low22 w &&& 0xFFFF#22 = 0x0#22 then .ok (.rnext (qual w) (rD w))
    else .error .reservedField
  | 8 => if low22 w &&& 0xFFFF#22 = 0x0#22 then .ok (.tinfoSelf (qual w) (rD w))
    else if low22 w &&& 0x3FF#22 = 0x1#22 then .ok (.tinfoState (qual w) (rD w) (rA w))
    else if low22 w &&& 0xFFFF#22 = 0x2#22 then .ok (.tinfoQueue (qual w) (rD w))
    else if low22 w &&& 0xFFFF#22 = 0x3#22 then .ok (.tinfoMerge (qual w) (rD w))
    else .error .reservedField
  | _ => .error .reservedOpcode

/-- Destination codes of `bpopq` (R217); b names the mask register for codes 0x11 and 0x20-0x2F and is else 0. -/
def popDstOf (a b : BitVec 6) : Option PopDst :=
  if a.extractLsb' 4 2 = 2#2 ∨ a = 0x11#6 then
    if b.extractLsb' 3 3 ≠ 0#3 then none
    else if a = 0x11#6 then some (.rot (fin3 (b.extractLsb' 0 3)))
    else some (.scalar (fin4 (a.extractLsb' 0 4)) (fin3 (b.extractLsb' 0 3)))
  else if b ≠ 0#6 then none
  else if a.extractLsb' 2 4 = 0#4 then some (.bl (fin2 (a.extractLsb' 0 2)))
  else if a.extractLsb' 3 3 = 1#3 then some (.gm (fin3 (a.extractLsb' 0 3)))
  else if a = 0x10#6 then some .sp
  else if a = 0x3F#6 then some .discard
  else none

def popDstBits : PopDst → BitVec 6 × BitVec 6
  | .bl n => (0#4 ++ b2 n, 0)
  | .gm n => (1#3 ++ b3 n, 0)
  | .sp => (0x10, 0)
  | .rot m => (0x11, 0#3 ++ b3 m)
  | .scalar n m => (2#2 ++ b4 n, 0#3 ++ b3 m)
  | .discard => (0x3F, 0)

/-- Source codes of `bpushq` (R217). -/
def pushSrcOf (a : BitVec 6) (imm : BitVec 14) : Option PushSrc :=
  if a.extractLsb' 4 2 = 2#2 then
    if h : imm.toNat < 24 then some (.scalar (fin4 (a.extractLsb' 0 4)) ⟨imm.toNat, h⟩) else none
  else if a = 0x3E#6 then some (.imm imm)
  else if imm ≠ 0#14 then none
  else if a.extractLsb' 2 4 = 0#4 then some (.bl (fin2 (a.extractLsb' 0 2)))
  else if a.extractLsb' 3 3 = 1#3 then some (.gm (fin3 (a.extractLsb' 0 3)))
  else if a = 0x10#6 then some .sp
  else none

def pushSrcBits : PushSrc → BitVec 6 × BitVec 14
  | .bl n => (0#4 ++ b2 n, 0)
  | .gm n => (1#3 ++ b3 n, 0)
  | .sp => (0x10, 0)
  | .scalar n g => (2#2 ++ b4 n, BitVec.ofNat 14 g.val)
  | .imm v => (0x3E, v)

/-- Q slot words (R74, R78, R215). -/
def decodeQ (w : BitVec 32) : Except DecodeError Instr :=
  let a := w.extractLsb' 20 6
  let b := w.extractLsb' 14 6
  let imm := w.extractLsb' 0 14
  let flagOk := a.extractLsb' 4 2 = 0#2 ∧ b = 0#6
  let n := fin4 (w.extractLsb' 20 4)
  match (w.extractLsb' 26 6).toNat with
  | 1 =>
    if w.extractLsb' 0 10 = 0#10 then .error .reservedField
    else if w.extractLsb' 10 13 = 0#13 then
      .ok (.bloopCtq (fin2 (w.extractLsb' 24 2)) (w.getLsbD 23) (w.extractLsb' 0 10))
    else .ok (.bloop (fin2 (w.extractLsb' 24 2)) (w.getLsbD 23) (w.extractLsb' 10 13) (w.extractLsb' 0 10))
  | 2 => if w.extractLsb' 22 4 = 8#4 then .error .reservedField else .ok (.bbr (w.extractLsb' 22 4) (w.extractLsb' 0 22))
  | 3 => if flagOk ∧ imm = 0#14 then .ok (.bsetf n) else .error .reservedField
  | 4 => if flagOk ∧ imm = 0#14 then .ok (.bclrf n) else .error .reservedField
  | 5 => if flagOk ∧ imm = 0#14 then .ok (.bwaitf n) else .error .reservedField
  | 6 => if imm ≠ 0#14 then .error .reservedField else
    match popDstOf a b with
    | some d => .ok (.bpopq d)
    | none => .error .reservedField
  | 7 => if b ≠ 0#6 then .error .reservedField else
    match pushSrcOf a imm with
    | some d => .ok (.bpushq d)
    | none => .error .reservedField
  | 8 => if a = 0#6 ∧ b = 0#6 then .ok (.bsetsp (w.extractLsb' 7 7) (w.extractLsb' 0 7)) else .error .reservedField
  | 9 => if a.extractLsb' 3 3 ≠ 0#3 ∨ b ≠ 0#6 ∨ w.extractLsb' 7 7 ≠ 0#7 then .error .reservedField
    else if w.getLsbD 6 then .ok (.brotA (fin3 (w.extractLsb' 20 3)) (w.extractLsb' 0 6))
    else .ok (.brot (fin3 (w.extractLsb' 20 3)) (w.extractLsb' 0 6))
  | 10 => if w.extractLsb' 0 26 = 0#26 then .ok .flip else .error .reservedField
  | 11 => if w.extractLsb' 0 26 = 0#26 then .ok .bhalt
    else if flagOk ∧ imm = 1#14 then .ok (.bhaltFlag n) else .error .reservedField
  | 12 => if w.extractLsb' 22 4 = 8#4 then .error .reservedField else .ok (.bcall (w.extractLsb' 22 4) (w.extractLsb' 0 22))
  | 13 => if w.extractLsb' 0 26 = 0#26 then .ok .bret else .error .reservedField
  | _ => .error .reservedOpcode

/-- A V slot word (R77): every value is legal. -/
def decodeV (w : BitVec 32) : Instr :=
  .ix (fin10 (w.extractLsb' 22 10)) (fin3 (w.extractLsb' 19 3)) (fin3 (w.extractLsb' 16 3)) (w.extractLsb' 0 16)

/-- The word of a slot. C0 and C1 take the opcodes of R72 by whether the core is in a flight phase. DESIGN CHOICE (log 19). -/
def decodeSlot (flight : Bool) : Slot → BitVec 32 → Except DecodeError Instr
  | .a, w => decodeA w
  | .g, w => decodeG w
  | .l, w => decodeL w
  | .x, w => decodeX w
  | .m, w => decodeM w
  | .c0, w => if flight then decodeF w else decodeC w
  | .c1, w => if flight then decodeF w else decodeC w
  | .k, w => decodeK w
  | .v0, w => .ok (decodeV w)
  | .v1, w => .ok (decodeV w)
  | .q, w => decodeQ w

/-! Headers (R58, R76) -/

/-- A control header: the present slots, the landing bit, the fold count. -/
structure CtlHeader where
  mask : BitVec 8
  landing : Bool
  fold : BitVec 8
  deriving DecidableEq, Repr

/-- A broadcast header: the present slots, the fold count, the wait mask. -/
structure BcastHeader where
  mask : BitVec 3
  fold : BitVec 8
  wait : BitVec 16
  deriving DecidableEq, Repr

def decodeCtlHeader (w : BitVec 32) : Except DecodeError CtlHeader :=
  if w.extractLsb' 28 4 ≠ 1#4 then .error .illegalBundle
  else if w.extractLsb' 0 11 ≠ 0#11 then .error .illegalBundle
  else if w.extractLsb' 20 8 ≠ 0#8 ∧ w.extractLsb' 11 8 ≠ 0#8 then .error .illegalBundle
  else .ok ⟨w.extractLsb' 20 8, w.getLsbD 19, w.extractLsb' 11 8⟩

def decodeBcastHeader (w : BitVec 32) : Except DecodeError BcastHeader :=
  if w.extractLsb' 28 4 ≠ 2#4 then .error .illegalBundle
  else if w.getLsbD 24 then .error .illegalBundle
  else if w.extractLsb' 25 3 ≠ 0#3 ∧ w.extractLsb' 16 8 ≠ 0#8 then .error .illegalBundle
  else .ok ⟨w.extractLsb' 25 3, w.extractLsb' 16 8, w.extractLsb' 0 16⟩

/-- The slots whose mask bit is set, in the order of R59. -/
def CtlHeader.slots (h : CtlHeader) : List Slot :=
  ([(7, Slot.a), (6, .g), (5, .l), (4, .x), (3, .m), (2, .c0), (1, .c1), (0, .k)].filter
    fun (b, _) => h.mask.getLsbD b).map (·.2)

/-- The slots of a broadcast bundle in the order of R76. -/
def BcastHeader.slots (h : BcastHeader) : List Slot :=
  ([(2, Slot.v0), (1, .v1), (0, .q)].filter fun (b, _) => h.mask.getLsbD b).map (·.2)

/-- Length in bytes of the bundle whose header is w, or none for an ILLEGAL_BUNDLE header (R58, R76, R193). -/
def ctlLength (w : BitVec 32) : Option Nat :=
  match decodeCtlHeader w with
  | .ok h => some (4 + 4 * h.slots.length)
  | .error _ => none
def bcastLength (w : BitVec 32) : Option Nat :=
  match decodeBcastHeader w with
  | .ok h => some (4 + 4 * h.slots.length)
  | .error _ => none

/-- A header without slots is an instruction of its own (rows EMPTY_BUNDLE and EMPTY_BROADCAST_BUNDLE). -/
def decodeEmpty (w : BitVec 32) : Except DecodeError Instr :=
  match decodeCtlHeader w with
  | .ok h => if h.mask = 0#8 then .ok (.emptyBundle h.landing h.fold) else .error .illegalBundle
  | .error _ =>
    match decodeBcastHeader w with
    | .ok h => if h.mask = 0#3 then .ok (.emptyBroadcastBundle h.fold h.wait) else .error .illegalBundle
    | .error e => .error e

/-! Destinations that can conflict (R62) -/

/-- What two slots of one control bundle may not both name as a destination (R62). -/
inductive Resource where
  | g (r : Reg) | p (r : PReg) | flag (n : Fin 16) | lc (n : Fin 4) | tok (n : Fin 16)
  | cd (n : Fin 16) | cb (n : Fin 16) | vt (n : Fin 8) | sr (n : BitVec 12)
  deriving DecidableEq, Repr

def gDest (r : Reg) : List Resource := if r.val = 0 then [] else [.g r]
def pDest (r : PReg) : List Resource := if r.val = 0 then [] else [.p r]

/-- The destinations a slot word names, from its opcode and fields alone; an undefined opcode names none (R60, R62). -/
def slotDests (flight : Bool) (sl : Slot) (w : BitVec 32) : List Resource :=
  let op := (w.extractLsb' 26 6).toNat
  match sl with
  | .a =>
    if (22 ≤ op ∧ op ≤ 27) ∨ op = 50 ∨ op = 51 then pDest (pD w)
    else if op = 41 then pDest (fin3 (w.extractLsb' 20 3))
    else if 34 ≤ op ∧ op ≤ 43 then gDest (iD w)
    else if 1 ≤ op ∧ op ≤ 49 then gDest (rD w)
    else []
  | .g => if (1 ≤ op ∧ op ≤ 7) ∨ (15 ≤ op ∧ op ≤ 36) then gDest (rD w) else []
  | .l => if 1 ≤ op ∧ op ≤ 4 then gDest (rD w) else if op = 13 then [.cb (fin4 (w.extractLsb' 0 4))] else []
  | .x =>
    if op = 2 then gDest 1
    else if op = 4 then gDest (rA w)
    else if op = 5 then [.lc (fin2 (w.extractLsb' 24 2))]
    else if op = 6 then [.lc (fin2 (w.extractLsb' 8 2))]
    else if (op = 9 ∨ op = 10) ∧ w.extractLsb' 4 6 = 0#6 then [.flag (fin4 (w.extractLsb' 0 4))]
    else if op = 14 ∨ op = 15 ∨ op = 21 ∨ op = 22 then gDest (rD w)
    else if op = 16 then [.sr (w.extractLsb' 4 12)]
    else if op = 20 then gDest (rD w) ++ gDest (rA w)
    else []
  | .m =>
    if op = 2 ∨ op = 4 then [.tok (fin4 (w.extractLsb' 0 4))]
    else if op = 6 ∨ op = 10 then gDest (rD w)
    else if op = 8 ∧ w.getLsbD 8 then [.tok (fin4 (w.extractLsb' 4 4))]
    else []
  | .c0 | .c1 =>
    if flight then []
    else if 1 ≤ op ∧ op ≤ 3 ∧ w.getLsbD 8 then [.tok (fin4 (w.extractLsb' 4 4))]
    else if op = 4 then [.cd (fin4 (w.extractLsb' 0 4))]
    else if op = 5 then gDest (rD w)
    else []
  | .k =>
    if op = 3 ∨ op = 4 then [.vt (fin3 (w.extractLsb' 0 3))]
    else if op = 7 ∨ op = 8 then gDest (rD w)
    else []
  | _ => []

/-- Some destination is named by two slots of the list (R60 check 3). DESIGN CHOICE (log 19). -/
def slotConflict : List (List Resource) → Bool
  | [] => false
  | d :: ds => d.any (fun r => ds.any (·.contains r)) || slotConflict ds

/-! Group table entries (R81-R91) -/

/-- Operand field of R83. -/
def operandOf (x : BitVec 11) : Option Operand :=
  if x.getLsbD 10 = false then
    some (.mat (fin2 (x.extractLsb' 8 2)) (dirOf (x.extractLsb' 6 2)) (fin6 (x.extractLsb' 0 6)))
  else
    let n := fin4 (x.extractLsb' 0 4)
    match (x.extractLsb' 4 7).toNat with
    | 0x40 => some (.port n)
    | 0x48 => some (.cb n)
    | 0x50 => some (.scalar n)
    | _ => match x.toNat with
      | 0x580 => some .zero
      | 0x581 => some .lane
      | 0x582 => some .imm
      | 0x583 => some .grp
      | 0x584 => some .ones
      | 0x585 => some .lat
      | 0x600 => some .latL
      | 0x680 => some .latR
      | _ => none
where
  dirOf (d : BitVec 2) : Dir := if d = 0#2 then .h else if d = 1#2 then .v else if d = 2#2 then .d else .a

def dirBits : Dir → BitVec 2
  | .h => 0 | .v => 1 | .d => 2 | .a => 3

def operandBits : Operand → BitVec 11
  | .mat m d i => 0#1 ++ b2 m ++ dirBits d ++ b6 i
  | .port n => 0x40#7 ++ b4 n
  | .cb n => 0x48#7 ++ b4 n
  | .scalar n => 0x50#7 ++ b4 n
  | .zero => 0x580
  | .lane => 0x581
  | .imm => 0x582
  | .grp => 0x583
  | .ones => 0x584
  | .lat => 0x585
  | .latL => 0x600
  | .latR => 0x680

/-- Uses as a source that R84 does not refuse. -/
def Operand.sourceOk : Operand → Bool
  | .port n => n.val < 8
  | .lat => false
  | _ => true

/-- Uses as a destination that R84 does not refuse; a group scalar is accepted only where the opcode allows it. -/
def Operand.destOk (scalarOk : Bool) : Operand → Bool
  | .mat _ _ _ => true
  | .port n => 8 ≤ n.val
  | .cb _ => true
  | .scalar _ => scalarOk
  | .zero => true
  | .lat => true
  | _ => false

def srcOf (x : BitVec 11) : Option Operand :=
  match operandOf x with
  | some o => if o.sourceOk then some o else none
  | none => none

def dstOf (scalarOk : Bool) (x : BitVec 11) : Option Operand :=
  match operandOf x with
  | some o => if o.destOk scalarOk then some o else none
  | none => none

/-- A predicate field (R261). -/
def vpOf (x : BitVec 11) : Option (Fin 8) :=
  if x.extractLsb' 3 8 = 0#8 then some (fin3 (x.extractLsb' 0 3)) else none

def fmtOf (f : BitVec 4) : Option Fmt :=
  match f.toNat with
  | 0 => some .fp32 | 1 => some .bf16 | 2 => some .fp16 | 3 => some .int32 | 4 => some .int16
  | 5 => some .int8 | 6 => some .uint16 | 7 => some .uint8 | 8 => some .npf
  | _ => none

def fmtBits : Fmt → BitVec 4
  | .fp32 => 0 | .bf16 => 1 | .fp16 => 2 | .int32 => 3 | .int16 => 4 | .int8 => 5 | .uint16 => 6 | .uint8 => 7 | .npf => 8

/-- The formats of a plain load or store: 0..7, or 0 and 3 in ACC (R244). -/
def Fmt.plain (acc : Bool) : Fmt → Bool
  | .npf => false
  | .fp32 | .int32 => true
  | _ => !acc
/-- The formats of `pld` and `pst` (R244). -/
def Fmt.pair : Fmt → Bool
  | .fp32 | .int32 => true
  | _ => false

/-- mod values of the floating-point opcodes: an element type below 3, and [6:5] free or 0 (R265, R268, R269). -/
def fpModOk (cond : Bool) (m : BitVec 4) : Bool :=
  m.extractLsb' 2 2 ≠ 3#2 && (cond || m.extractLsb' 0 2 == 0#2)

/-- The five fields of an entry as the decoders of the forms take them. -/
structure EntryFields where
  head : VHead
  d : BitVec 11
  a : BitVec 11
  b : BitVec 11
  c : BitVec 11

def formDABC (mk : VHead → Operand → Operand → Operand → Operand → Entry) (modOk : Bool) (f : EntryFields) : Option Entry :=
  match dstOf false f.d, srcOf f.a, srcOf f.b, srcOf f.c with
  | some d, some a, some b, some c => if modOk then some (mk f.head d a b c) else none
  | _, _, _, _ => none
def formDAB (mk : VHead → Operand → Operand → Operand → Entry) (scalarOk modOk : Bool) (f : EntryFields) : Option Entry :=
  match dstOf scalarOk f.d, srcOf f.a, srcOf f.b with
  | some d, some a, some b => if modOk then some (mk f.head d a b) else none
  | _, _, _ => none
def formDA (mk : VHead → Operand → Operand → Entry) (scalarOk modOk : Bool) (f : EntryFields) : Option Entry :=
  match dstOf scalarOk f.d, srcOf f.a with
  | some d, some a => if modOk then some (mk f.head d a) else none
  | _, _ => none
def formPAB (mk : VHead → Fin 8 → Operand → Operand → Entry) (modOk : Bool) (f : EntryFields) : Option Entry :=
  match vpOf f.d, srcOf f.a, srcOf f.b with
  | some d, some a, some b => if modOk then some (mk f.head d a b) else none
  | _, _, _ => none
def formPPP (mk : VHead → Fin 8 → Fin 8 → Fin 8 → Entry) (f : EntryFields) : Option Entry :=
  match vpOf f.d, vpOf f.a, vpOf f.b with
  | some d, some a, some b => if f.head.mod = 0#4 then some (mk f.head d a b) else none
  | _, _, _ => none

/-- Fields of an M-form entry (R82). -/
structure MemFields where
  head : MHead
  data : BitVec 11
  addr : BitVec 11
  imm : BitVec 16
  k : BitVec 4
  round : BitVec 2
  fmt : BitVec 4

def formLd (mk : MHead → Operand → Operand → BitVec 16 → Fmt → Entry) (acc load : Bool) (f : MemFields) : Option Entry :=
  match (if load then dstOf true f.data else srcOf f.data), srcOf f.addr, fmtOf f.fmt with
  | some d, some a, some t =>
    if f.k = 0#4 ∧ f.round = 0#2 ∧ t.plain acc then some (mk f.head d a f.imm t) else none
  | _, _, _ => none
def formPld (mk : MHead → Operand → Operand → BitVec 16 → BitVec 4 → Bool → Fmt → Entry) (load : Bool) (f : MemFields) : Option Entry :=
  match (if load then dstOf false f.data else srcOf f.data), srcOf f.addr, fmtOf f.fmt with
  | some d, some a, some t =>
    if 1#4 ≤ f.k ∧ f.k ≤ 12#4 ∧ f.round.getLsbD 1 = false ∧ t.pair then
      some (mk f.head d a f.imm f.k (f.round.getLsbD 0) t) else none
  | _, _, _ => none
def formPupd (mk : MHead → Operand → Operand → BitVec 16 → BitVec 4 → Bool → Entry) (dest : Bool) (f : MemFields) : Option Entry :=
  match srcOf f.data, srcOf f.addr with
  | some d, some a =>
    if 1#4 ≤ f.k ∧ f.k ≤ 12#4 ∧ f.round.getLsbD 1 = false ∧ f.fmt = 8#4 ∧ (!dest || d.destOk false) then
      some (mk f.head d a f.imm f.k (f.round.getLsbD 0)) else none
  | _, _ => none
def memPlain (f : MemFields) : Bool := f.k = 0#4 ∧ f.round = 0#2 ∧ f.fmt = 0#4

/-- The V-form and matrix opcodes (R91, R308); none where R89 refuses the entry with code 2. -/
def entryV (op : Nat) (f : EntryFields) : Option Entry :=
  let m := f.head.mod
  let fp := fpModOk false m
  let z := m == 0#4
  match op with
  | 0x00 => if z then some (.nop f.head) else none
  | 0x01 => formDAB .fadd false fp f
  | 0x02 => formDAB .fsub false fp f
  | 0x03 => formDAB .fmul false fp f
  | 0x04 => formDABC .fma fp f
  | 0x05 => formDABC .fms fp f
  | 0x06 => formDABC .fnma fp f
  | 0x07 => formDAB .fmin false fp f
  | 0x08 => formDAB .fmax false fp f
  | 0x09 => formDA .fabs false fp f
  | 0x0A => formDA .fneg false fp f
  | 0x0B => formDA .frcp false fp f
  | 0x0C => formDA .frsq false fp f
  | 0x0D => formDA .fsqrt false fp f
  | 0x0E => formDA .fexp2 false fp f
  | 0x0F => formDA .flog2 false fp f
  | 0x10 => formDA .fsig false fp f
  | 0x11 => formPAB .fcmp (fpModOk true m) f
  | 0x12 => formDA .fround false (fpModOk true m) f
  | 0x13 =>
    if m = 7#4 ∨ m = 0xB#4 ∨ 0xC#4 ≤ m then none
    else if m = 4#4 ∨ m = 8#4 then formDAB .fcvt false true f
    else formDA (fun h d a => .fcvt h d a (.mat 0 .h 0)) false true f
  | 0x14 => formDABC .scacc z f
  | 0x15 => formDABC .qnt (m ≤ 3#4) f
  | 0x16 => formDA .fsum true fp f
  | 0x17 => formDA .fmaxr true fp f
  | 0x18 => formDA .fscan false fp f
  | 0x30 => formDAB .iadd false (m ≤ 2#4) f
  | 0x31 => formDAB .isub false (m ≤ 2#4) f
  | 0x32 => formDAB .imul false (m ≤ 3#4) f
  | 0x33 => formDABC .imad (m ≤ 1#4) f
  | 0x34 => formDAB .imin false z f
  | 0x35 => formDAB .imax false z f
  | 0x36 => formDAB .iminu false z f
  | 0x37 => formDAB .imaxu false z f
  | 0x38 => formDA .iabs false (m ≤ 1#4) f
  | 0x39 => formDAB .vecSll false z f
  | 0x3A => formDAB .vecSrl false z f
  | 0x3B => formDAB .vecSra false z f
  | 0x3C => formDAB .vecAnd false z f
  | 0x3D => formDAB .vecOr false z f
  | 0x3E => formDAB .vecXor false z f
  | 0x3F => formDAB .vecAndn false z f
  | 0x40 => formDA .not false z f
  | 0x41 => formDA .vecPopc false z f
  | 0x42 => formDA .vecClz false z f
  | 0x43 => formPAB .icmp (m ≤ 7#4) f
  | 0x44 => formDABC .dot8 (m ≤ 7#4) f
  | 0x45 => formDA .isum true z f
  | 0x46 => formDA .iscan false z f
  | 0x60 => formDA .mov false z f
  | 0x61 => formDAB .vsel false z f
  | 0x62 => formDAB .perm false z f
  | 0x63 => formDAB .bcast false z f
  | 0x64 => formPPP .vpand  f
  | 0x65 => formPPP .vpor  f
  | 0x66 => formPPP .vpxor  f
  | 0x67 => match vpOf f.d, vpOf f.a with
    | some d, some a => if z then some (.vpnot f.head d a) else none
    | _, _ => none
  | 0x68 => match dstOf true f.d, vpOf f.a with
    | some d, some a => if z then some (.vpcount f.head d a) else none
    | _, _ => none
  | 0x69 => formDAB .tos true z f
  | 0xC0 => if z then some (.mxgoG f.head (f.d.extractLsb' 5 6) (f.d.getLsbD 4) (fin4 (f.d.extractLsb' 0 4))) else none
  | 0xC1 => match operandOf f.a with
    | some (.scalar n) =>
      if z ∧ f.d.extractLsb' 8 3 = 0#3 then
        some (.mxldsG f.head n (f.d.getLsbD 7) (fin2 (f.d.extractLsb' 5 2)) (f.d.getLsbD 4) (fin4 (f.d.extractLsb' 0 4)))
      else none
    | _ => none
  | 0xC2 => match dstOf false f.d with
    | some d => if m ≤ 2#4 then some (.mxqG f.head d) else none
    | none => none
  | _ => none

/-- The M-form opcodes (R244). -/
def entryM (op : Nat) (f : MemFields) : Option Entry :=
  match op with
  | 0x80 => formLd .ldW false true f
  | 0x81 => formLd .ldA false true f
  | 0x82 => formLd .ldC true true f
  | 0x83 => formLd .ldY false true f
  | 0x84 => formLd .stW false false f
  | 0x85 => formLd .stA false false f
  | 0x86 => formLd .stC true false f
  | 0x87 => formLd .stY false false f
  | 0x88 => formPld .pldW true f
  | 0x89 => formPld .pldA true f
  | 0x8A => formPld .pldY true f
  | 0x8B => formPld .pstW false f
  | 0x8C => formPld .pstA false f
  | 0x8D => formPld .pstY false f
  | 0x8E => formPupd .pupdAdd false f
  | 0x8F => formPupd .pupdAxpy false f
  | 0x90 => formPupd .pupdMom true f
  | 0x91 => match srcOf f.data with
    | some d => if memPlain f then some (.pushm f.head d (f.imm.extractLsb' 0 6)) else none
    | none => none
  | 0x92 => match dstOf false f.data with
    | some d => if memPlain f then some (.popm f.head d (f.imm.extractLsb' 0 6)) else none
    | none => none
  | 0x93 => match dstOf false f.data, srcOf f.addr with
    | some d, some a => if memPlain f then some (.cbadv f.head d a f.imm) else none
    | _, _ => none
  | 0x94 => match dstOf false f.data, srcOf f.addr with
    | some d, some a => if memPlain f then some (.qrst f.head d a) else none
    | _, _ => none
  | 0x95 => match dstOf false f.data, srcOf f.addr with
    | some d, some a => if memPlain f then some (.qadv f.head d a f.imm) else none
    | _, _ => none
  | _ => none

/-- The inherent class of a table opcode (R91); none for a reserved code. -/
def inherentClass (op : Nat) : Option Nat :=
  if op = 0x00 then some 0
  else if op = 0x01 ∨ op = 0x02 ∨ op = 0x07 ∨ op = 0x08 then some 1
  else if 0x03 ≤ op ∧ op ≤ 0x06 then some 2
  else if op = 0x09 ∨ op = 0x0A then some 0
  else if 0x0B ≤ op ∧ op ≤ 0x10 then some 3
  else if 0x11 ≤ op ∧ op ≤ 0x13 then some 1
  else if op = 0x14 ∨ op = 0x15 then some 2
  else if 0x16 ≤ op ∧ op ≤ 0x18 then some 3
  else if op = 0x30 ∨ op = 0x31 then some 0
  else if op = 0x32 ∨ op = 0x33 then some 1
  else if 0x34 ≤ op ∧ op ≤ 0x43 then some 0
  else if op = 0x44 then some 2
  else if op = 0x45 ∨ op = 0x46 then some 3
  else if op = 0x60 ∨ op = 0x61 then some 0
  else if op = 0x62 ∨ op = 0x63 then some 1
  else if 0x64 ≤ op ∧ op ≤ 0x67 then some 0
  else if op = 0x68 ∨ op = 0x69 then some 1
  else if op = 0x82 ∨ op = 0x86 then some 2
  else if op = 0x80 ∨ op = 0x81 ∨ op = 0x84 ∨ op = 0x85 then some 3
  else if 0x80 ≤ op ∧ op ≤ 0x92 then some 4
  else if 0x93 ≤ op ∧ op ≤ 0x95 then some 0
  else if op = 0xC0 ∨ op = 0xC1 then some 0
  else if op = 0xC2 then some 1
  else none

/-- Operand fields of an entry as bits (R81, R82). -/
def entryOp (x : BitVec 64) : Nat := (x.extractLsb' 56 8).toNat
def entryClass (x : BitVec 64) : Fin 8 := fin3 (x.extractLsb' 53 3)
def entryFields (x : BitVec 64) : EntryFields :=
  ⟨⟨entryClass x, x.extractLsb' 5 4, fin3 (x.extractLsb' 2 3), x.getLsbD 1⟩,
    x.extractLsb' 42 11, x.extractLsb' 31 11, x.extractLsb' 20 11, x.extractLsb' 9 11⟩
def memFields (x : BitVec 64) : MemFields :=
  ⟨⟨entryClass x, fin3 (x.extractLsb' 2 3), x.getLsbD 1⟩,
    x.extractLsb' 42 11, x.extractLsb' 31 11, x.extractLsb' 15 16, x.extractLsb' 11 4, x.extractLsb' 9 2, x.extractLsb' 5 4⟩

/-- A valid entry: its instruction, or the lowest code of R89 among 1..4 that refuses it (code 5 needs the class map).
DESIGN CHOICE (log 19). -/
def decodeEntry (x : BitVec 64) : Except Nat Entry :=
  let op := entryOp x
  match inherentClass op with
  | none => .error 1
  | some c =>
    match (if 0x80 ≤ op ∧ op ≤ 0xBF then entryM op (memFields x) else entryV op (entryFields x)) with
    | none => .error 2
    | some i =>
      if op ≠ 0 ∧ (entryClass x).val = 7 then .error 3
      else if (entryClass x).val < c then .error 4
      else .ok i

/-! The encoder -/

def entryWordV (op : BitVec 8) (h : VHead) (d a b c : BitVec 11) : BitVec 64 :=
  op ++ b3 h.cls ++ d ++ a ++ b ++ c ++ h.mod ++ b3 h.vp ++ BitVec.ofBool h.rot ++ 1#1
def entryWordM (op : BitVec 8) (h : MHead) (data addr : BitVec 11) (imm : BitVec 16) (k : BitVec 4) (rnd : Bool) (fmt : BitVec 4) : BitVec 64 :=
  op ++ b3 h.cls ++ data ++ addr ++ imm ++ k ++ 0#1 ++ BitVec.ofBool rnd ++ fmt ++ b3 h.vp ++ BitVec.ofBool h.rot ++ 1#1
def vpBits (p : Fin 8) : BitVec 11 := 0#8 ++ b3 p

/-- What an instruction is encoded as: a header or slot word, a table entry, or nothing (an event). -/
inductive Code where
  | header (w : BitVec 32)
  | slot (flight : Bool) (sl : Slot) (w : BitVec 32)
  | entry (x : BitVec 64)
  | event
  deriving DecidableEq, Repr

/-- The encoding of an instruction, from the tables of R58-R91 (well-formed instructions; an event has no words). -/
def encode : Instr → Code
  | .emptyBundle l f => .header (1#4 ++ 0#8 ++ BitVec.ofBool l ++ f ++ 0#11)
  | .emptyBroadcastBundle f w => .header (0x20#8 ++ f ++ w)
  | .add q d a b => .slot false .a (wq 1 q (low3 d a b 0))
  | .sub q d a b => .slot false .a (wq 2 q (low3 d a b 0))
  | .and q d a b => .slot false .a (wq 3 q (low3 d a b 0))
  | .or q d a b => .slot false .a (wq 4 q (low3 d a b 0))
  | .xor q d a b => .slot false .a (wq 5 q (low3 d a b 0))
  | .andn q d a b => .slot false .a (wq 6 q (low3 d a b 0))
  | .min q d a b => .slot false .a (wq 7 q (low3 d a b 0))
  | .max q d a b => .slot false .a (wq 8 q (low3 d a b 0))
  | .minu q d a b => .slot false .a (wq 9 q (low3 d a b 0))
  | .maxu q d a b => .slot false .a (wq 10 q (low3 d a b 0))
  | .sll q d a b => .slot false .a (wq 11 q (low3 d a b 0))
  | .srl q d a b => .slot false .a (wq 12 q (low3 d a b 0))
  | .sra q d a b => .slot false .a (wq 13 q (low3 d a b 0))
  | .rol q d a b => .slot false .a (wq 14 q (low3 d a b 0))
  | .mul q d a b => .slot false .a (wq 15 q (low3 d a b 0))
  | .mulh q d a b => .slot false .a (wq 16 q (low3 d a b 0))
  | .mulhu q d a b => .slot false .a (wq 17 q (low3 d a b 0))
  | .div q d a b => .slot false .a (wq 18 q (low3 d a b 0))
  | .divu q d a b => .slot false .a (wq 19 q (low3 d a b 0))
  | .rem q d a b => .slot false .a (wq 20 q (low3 d a b 0))
  | .remu q d a b => .slot false .a (wq 21 q (low3 d a b 0))
  | .cmpeq q pd a b => .slot false .a (wq 22 q (low3 (regOfP pd) a b 0))
  | .cmpne q pd a b => .slot false .a (wq 23 q (low3 (regOfP pd) a b 0))
  | .cmplt q pd a b => .slot false .a (wq 24 q (low3 (regOfP pd) a b 0))
  | .cmpltu q pd a b => .slot false .a (wq 25 q (low3 (regOfP pd) a b 0))
  | .cmple q pd a b => .slot false .a (wq 26 q (low3 (regOfP pd) a b 0))
  | .cmpleu q pd a b => .slot false .a (wq 27 q (low3 (regOfP pd) a b 0))
  | .sel q d pc a b => .slot false .a (wq 28 q (low3 d a b (0#1 ++ b3 pc)))
  | .clz q d a => .slot false .a (wq 29 q (low3 d a 0 0))
  | .ctz q d a => .slot false .a (wq 30 q (low3 d a 0 0))
  | .popc q d a => .slot false .a (wq 31 q (low3 d a 0 0))
  | .sext q d a fn => .slot false .a (wq 32 q (low3 d a 0 fn))
  | .zext q d a fn => .slot false .a (wq 33 q (low3 d a 0 fn))
  | .addi p d a imm => .slot false .a (wi 34 d a imm p)
  | .andi p d a imm => .slot false .a (wi 35 d a imm p)
  | .ori p d a imm => .slot false .a (wi 36 d a imm p)
  | .xori p d a imm => .slot false .a (wi 37 d a imm p)
  | .slli p d a sh => .slot false .a (wi 38 d a (0#6 ++ sh) p)
  | .srli p d a sh => .slot false .a (wi 39 d a (0#6 ++ sh) p)
  | .srai p d a sh => .slot false .a (wi 40 d a (0#6 ++ sh) p)
  | .cmpi p cond pd a imm => .slot false .a (wi 41 (fin6 (cond ++ b3 pd)) a imm p)
  | .lui d imm => .slot false .a (w20 42 d imm)
  | .addpc d imm => .slot false .a (w20 43 d imm)
  | .faddS q d a b => .slot false .a (wq 44 q (low3 d a b 0))
  | .fsubS q d a b => .slot false .a (wq 45 q (low3 d a b 0))
  | .fmulS q d a b => .slot false .a (wq 46 q (low3 d a b 0))
  | .fminS q d a b => .slot false .a (wq 47 q (low3 d a b 0))
  | .fmaxS q d a b => .slot false .a (wq 48 q (low3 d a b 0))
  | .fcvtS q d a fn => .slot false .a (wq 49 q (low3 d a 0 fn))
  | .fcmpS q pd a b fn => .slot false .a (wq 50 q (low3 (regOfP pd) a b fn))
  | .plog q pd pa pb tt => .slot false .a (wq 51 q (low3 (regOfP pd) (regOfP pa) (regOfP pb) tt))
  | .ldb q r base off => .slot false .g (wq 1 q (low2 r base off))
  | .ldbu q r base off => .slot false .g (wq 2 q (low2 r base off))
  | .ldh q r base off => .slot false .g (wq 3 q (low2 r base off))
  | .ldhu q r base off => .slot false .g (wq 4 q (low2 r base off))
  | .ldw q r base off => .slot false .g (wq 5 q (low2 r base off))
  | .ldwu q r base off => .slot false .g (wq 6 q (low2 r base off))
  | .ldd q r base off => .slot false .g (wq 7 q (low2 r base off))
  | .stb q r base off => .slot false .g (wq 8 q (low2 r base off))
  | .sth q r base off => .slot false .g (wq 9 q (low2 r base off))
  | .stw q r base off => .slot false .g (wq 10 q (low2 r base off))
  | .std q r base off => .slot false .g (wq 11 q (low2 r base off))
  | .pfg q base off => .slot false .g (wq 12 q (low2 0 base off))
  | .drain q sc => .slot false .g (wq 13 q (low2 0 0 (0#8 ++ scopeBits sc)))
  | .purgeDc q base off => .slot false .g (wq 14 q (low2 0 base off))
  | .purgeIc q base off => .slot false .g (wq 14 q (low2 1 base off))
  | .purgeTlb q base off => .slot false .g (wq 14 q (low2 2 base off))
  | .aadd q d base src ord sc => .slot false .g (wq 15 q (low3 d base src (orderBits ord ++ scopeBits sc)))
  | .aand q d base src ord sc => .slot false .g (wq 16 q (low3 d base src (orderBits ord ++ scopeBits sc)))
  | .aor q d base src ord sc => .slot false .g (wq 17 q (low3 d base src (orderBits ord ++ scopeBits sc)))
  | .axor q d base src ord sc => .slot false .g (wq 18 q (low3 d base src (orderBits ord ++ scopeBits sc)))
  | .amin q d base src ord sc => .slot false .g (wq 19 q (low3 d base src (orderBits ord ++ scopeBits sc)))
  | .amax q d base src ord sc => .slot false .g (wq 20 q (low3 d base src (orderBits ord ++ scopeBits sc)))
  | .aminu q d base src ord sc => .slot false .g (wq 21 q (low3 d base src (orderBits ord ++ scopeBits sc)))
  | .amaxu q d base src ord sc => .slot false .g (wq 22 q (low3 d base src (orderBits ord ++ scopeBits sc)))
  | .axchg q d base src ord sc => .slot false .g (wq 23 q (low3 d base src (orderBits ord ++ scopeBits sc)))
  | .acas q d base src ord sc => .slot false .g (wq 24 q (low3 d base src (orderBits ord ++ scopeBits sc)))
  | .afadd q d base src ord sc => .slot false .g (wq 25 q (low3 d base src (orderBits ord ++ scopeBits sc)))
  | .radd q d base src ord sc => .slot false .g (wq 26 q (low3 d base src (orderBits ord ++ scopeBits sc)))
  | .rmax q d base src ord sc => .slot false .g (wq 27 q (low3 d base src (orderBits ord ++ scopeBits sc)))
  | .rmin q d base src ord sc => .slot false .g (wq 28 q (low3 d base src (orderBits ord ++ scopeBits sc)))
  | .phinit q d base src ord sc => .slot false .g (wq 29 q (low3 d base src (orderBits ord ++ scopeBits sc)))
  | .phreg q d base src ord sc => .slot false .g (wq 30 q (low3 d base src (orderBits ord ++ scopeBits sc)))
  | .phdrop q d base ord sc => .slot false .g (wq 31 q (low3 d base 0 (orderBits ord ++ scopeBits sc)))
  | .pharr q d base ord sc => .slot false .g (wq 32 q (low3 d base 0 (orderBits ord ++ scopeBits sc)))
  | .phwait q d base src ord sc => .slot false .g (wq 33 q (low3 d base src (orderBits ord ++ scopeBits sc)))
  | .pharw q d base ord sc => .slot false .g (wq 34 q (low3 d base 0 (orderBits ord ++ scopeBits sc)))
  | .phq q d base ord sc => .slot false .g (wq 35 q (low3 d base 0 (orderBits ord ++ scopeBits sc)))
  | .migr q d base src ord => .slot false .g (wq 36 q (low3 d base src (orderBits ord ++ 2#2)))
  | .lyb q r base off => .slot false .l (wq 1 q (low2 r base off))
  | .lyh q r base off => .slot false .l (wq 2 q (low2 r base off))
  | .lyw q r base off => .slot false .l (wq 3 q (low2 r base off))
  | .lyd q r base off => .slot false .l (wq 4 q (low2 r base off))
  | .syb q r base off => .slot false .l (wq 5 q (low2 r base off))
  | .syh q r base off => .slot false .l (wq 6 q (low2 r base off))
  | .syw q r base off => .slot false .l (wq 7 q (low2 r base off))
  | .syd q r base off => .slot false .l (wq 8 q (low2 r base off))
  | .sgw q r base off => .slot false .l (wq 9 q (low2 r base off))
  | .twrite q a b i => .slot false .l (wq 10 q (low2 a b i))
  | .tclr q => .slot false .l (wq 11 q 0)
  | .qcfg q a b n => .slot false .l (wq 12 q (low2 a b (0#6 ++ b4 n)))
  | .qcfgStk q a b => .slot false .l (wq 12 q (low2 a b 0x10))
  | .cbcfg q a n => .slot false .l (wq 13 q (low2 a 0 (0#6 ++ b4 n)))
  | .mxtab q a b => .slot false .l (wq 14 q (low2 a b 0))
  | .br q off => .slot false .x (wq 1 q off)
  | .call q off => .slot false .x (wq 2 q off)
  | .jr q a => .slot false .x (wq 3 q (low2 a 0 0))
  | .jalr q a b => .slot false .x (wq 4 q (low2 a b 0))
  | .loop lc count last => .slot false .x (5#6 ++ b2 lc ++ b6 count ++ last)
  | .lpstep q lc slot a b => .slot false .x (wq 6 q (low2 a b (b2 lc ++ b2 slot ++ 0#6)))
  | .waitk q n => .slot false .x (wq 7 q (low2 0 0 (0#6 ++ b4 n)))
  | .waitkMask q a => .slot false .x (wq 7 q (low2 a 0 512))
  | .waitf q n => .slot false .x (wq 8 q (low2 0 0 (0#6 ++ b4 n)))
  | .waitfMask q a => .slot false .x (wq 8 q (low2 a 0 512))
  | .setf q n => .slot false .x (wq 9 q (low2 0 0 (0#6 ++ b4 n)))
  | .setfMask q a => .slot false .x (wq 9 q (low2 a 0 512))
  | .clrf q n => .slot false .x (wq 10 q (low2 0 0 (0#6 ++ b4 n)))
  | .clrfMask q a => .slot false .x (wq 10 q (low2 a 0 512))
  | .bstart q a => .slot false .x (wq 11 q (low2 a 0 0))
  | .bstop q => .slot false .x (wq 12 q 0)
  | .pushq q a => .slot false .x (wq 13 q (low2 a 0 0))
  | .popq q a => .slot false .x (wq 14 q (low2 a 0 0))
  | .mfsr q a sr => .slot false .x (wq 15 q (b6 a ++ sr ++ 0#4))
  | .mtsr q a sr => .slot false .x (wq 16 q (b6 a ++ sr ++ 0#4))
  | .trap q n => .slot false .x (wq 17 q (low2 0 0 n))
  | .eret q => .slot false .x (wq 18 q 0)
  | .brk q n => .slot false .x (wq 19 q (low2 0 0 n))
  | .stqrd q a b => .slot false .x (wq 20 q (low2 a b 0))
  | .flbar q a n => .slot false .x (wq 21 q (low2 a 0 (0#1 ++ n)))
  | .flend q a => .slot false .x (wq 22 q (low2 a 0 0))
  | .mxcfg q a b w => .slot false .m (wq 1 q (low2 a b (0#7 ++ b3 w)))
  | .mxlds q a b tok kw ph => .slot false .m (wq 2 q (low2 a b (0#3 ++ BitVec.ofBool ph ++ b2 kw ++ b4 tok)))
  | .mxswap q a => .slot false .m (wq 3 q (low2 a 0 0))
  | .mxgo q a tok split => .slot false .m (wq 4 q (low2 a 0 (split ++ b4 tok)))
  | .mxmode q a mode pin => .slot false .m (wq 5 q (low2 a 0 (0#7 ++ BitVec.ofBool pin ++ b2 mode)))
  | .mxrd q a b sel => .slot false .m (wq 6 q (low2 a b (0#8 ++ b2 sel)))
  | .mxstop q a => .slot false .m (wq 7 q (low2 a 0 0))
  | .tmov q a u port => .slot false .m (wq 8 q (low2 a (fin6 (b2 u ++ BitVec.ofNat 4 port.val)) 0))
  | .tmovPort q su src u port => .slot false .m (wq 8 q (low2 (fin6 (b2 su ++ (match src with | some p => BitVec.ofNat 4 p.val | none => 8#4))) (fin6 (b2 u ++ BitVec.ofNat 4 port.val)) 0x200))
  | .cvtSplit q a tok => .slot false .m (wq 8 q (low2 a 12 (0#1 ++ tokBits tok ++ 0#4)))
  | .cvtJoin q a tok => .slot false .m (wq 8 q (low2 a 13 (0#1 ++ tokBits tok ++ 0#4)))
  | .cmpPack q a tok => .slot false .m (wq 8 q (low2 a 28 (0#1 ++ tokBits tok ++ 0#4)))
  | .xposeW32 q a tok => .slot false .m (wq 8 q (low2 a 44 (0#1 ++ tokBits tok ++ 0#4)))
  | .xposeW16 q a tok => .slot false .m (wq 8 q (low2 a 45 (0#1 ++ tokBits tok ++ 0#4)))
  | .layoutIm2col q a tok => .slot false .m (wq 8 q (low2 a 60 (0#1 ++ tokBits tok ++ 0#4)))
  | .tcfg q a e => .slot false .m (wq 9 q (low2 a 0 (0#7 ++ b3 e)))
  | .tcfgPinned q a => .slot false .m (wq 9 q (low2 a 0 8))
  | .tstat q a u => .slot false .m (wq 10 q (low2 a 0 (0#8 ++ b2 u)))
  | .cp q a b cd tok => .slot false .c0 (wq 1 q (low2 a b (0#1 ++ tokBits tok ++ b4 cd)))
  | .cpt q a b cd tok => .slot false .c0 (wq 2 q (low2 a b (0#1 ++ tokBits tok ++ b4 cd)))
  | .cptab q a b cd tok => .slot false .c0 (wq 3 q (low2 a b (0#1 ++ tokBits tok ++ b4 cd)))
  | .cpcfg q a cd => .slot false .c0 (wq 4 q (low2 a 0 (0#6 ++ b4 cd)))
  | .cpstat q a u => .slot false .c0 (wq 5 q (low2 a 0 (0#9 ++ b1 u)))
  | .cpcan q u => .slot false .c0 (wq 6 q (low2 0 0 (0#9 ++ b1 u)))
  | .xmit q a port => .slot true .c0 (wq 7 q (low2 a 0 (0#8 ++ b2 port)))
  | .xsel q a port => .slot true .c0 (wq 8 q (low2 a 0 (0#8 ++ b2 port)))
  | .xfwd q pi po => .slot true .c0 (wq 9 q (low2 0 0 (0#6 ++ b2 po ++ b2 pi)))
  | .xidle q port => .slot true .c0 (wq 10 q (low2 0 0 (0#8 ++ b2 port)))
  | .spawn q a b blk => .slot false .k (wq 1 q (low2 a b blk))
  | .spawnr q a blk => .slot false .k (wq 2 q (low2 a 0 blk))
  | .vdecl q a b vt op gal => .slot false .k (wq 3 q (low2 a b (0#3 ++ BitVec.ofBool gal ++ b3 op ++ b3 vt)))
  | .vdrop q vt => .slot false .k (wq 4 q (low2 0 0 (0#7 ++ b3 vt)))
  | .join q => .slot false .k (wq 5 q 0)
  | .endt q => .slot false .k (wq 6 q 0)
  | .rnext q a => .slot false .k (wq 7 q (low2 a 0 0))
  | .tinfoSelf q a => .slot false .k (wq 8 q (low2 a 0 0))
  | .tinfoState q a b => .slot false .k (wq 8 q (low2 a b 1))
  | .tinfoQueue q a => .slot false .k (wq 8 q (low2 a 0 2))
  | .tinfoMerge q a => .slot false .k (wq 8 q (low2 a 0 3))
  | .ix index gm sp imm => .slot false .v0 (b10 index ++ b3 gm ++ b3 sp ++ imm)
  | .bloop bl rt cnt last => .slot false .q (1#6 ++ b2 bl ++ BitVec.ofBool rt ++ cnt ++ last)
  | .bloopCtq bl rt last => .slot false .q (1#6 ++ b2 bl ++ BitVec.ofBool rt ++ 0#13 ++ last)
  | .bbr cnd off => .slot false .q (2#6 ++ cnd ++ off)
  | .bcall cnd off => .slot false .q (12#6 ++ cnd ++ off)
  | .bsetf n => .slot false .q (wgen 3 (0#2 ++ b4 n) 0 0)
  | .bclrf n => .slot false .q (wgen 4 (0#2 ++ b4 n) 0 0)
  | .bwaitf n => .slot false .q (wgen 5 (0#2 ++ b4 n) 0 0)
  | .bhaltFlag n => .slot false .q (wgen 11 (0#2 ++ b4 n) 0 1)
  | .bpopq dst => .slot false .q (wgen 6 (popDstBits dst).1 (popDstBits dst).2 0)
  | .bpushq src => .slot false .q (wgen 7 (pushSrcBits src).1 0 (pushSrcBits src).2)
  | .bsetsp wmask value => .slot false .q (wgen 8 0 0 (wmask ++ value))
  | .brot gm e => .slot false .q (wgen 9 (0#3 ++ b3 gm) 0 (0#8 ++ e))
  | .brotA gm e => .slot false .q (wgen 9 (0#3 ++ b3 gm) 0 (1#8 ++ e))
  | .flip => .slot false .q (wgen 10 0 0 0)
  | .bhalt => .slot false .q (wgen 11 0 0 0)
  | .bret => .slot false .q (wgen 13 0 0 0)
  | .nop e => .entry (entryWordV 0 e 0 0 0 0)
  | .fadd e d a b => .entry (entryWordV 1 e (operandBits d) (operandBits a) (operandBits b) 0)
  | .fsub e d a b => .entry (entryWordV 2 e (operandBits d) (operandBits a) (operandBits b) 0)
  | .fmul e d a b => .entry (entryWordV 3 e (operandBits d) (operandBits a) (operandBits b) 0)
  | .fma e d a b c => .entry (entryWordV 4 e (operandBits d) (operandBits a) (operandBits b) (operandBits c))
  | .fms e d a b c => .entry (entryWordV 5 e (operandBits d) (operandBits a) (operandBits b) (operandBits c))
  | .fnma e d a b c => .entry (entryWordV 6 e (operandBits d) (operandBits a) (operandBits b) (operandBits c))
  | .fmin e d a b => .entry (entryWordV 7 e (operandBits d) (operandBits a) (operandBits b) 0)
  | .fmax e d a b => .entry (entryWordV 8 e (operandBits d) (operandBits a) (operandBits b) 0)
  | .fabs e d a => .entry (entryWordV 9 e (operandBits d) (operandBits a) 0 0)
  | .fneg e d a => .entry (entryWordV 10 e (operandBits d) (operandBits a) 0 0)
  | .frcp e d a => .entry (entryWordV 11 e (operandBits d) (operandBits a) 0 0)
  | .frsq e d a => .entry (entryWordV 12 e (operandBits d) (operandBits a) 0 0)
  | .fsqrt e d a => .entry (entryWordV 13 e (operandBits d) (operandBits a) 0 0)
  | .fexp2 e d a => .entry (entryWordV 14 e (operandBits d) (operandBits a) 0 0)
  | .flog2 e d a => .entry (entryWordV 15 e (operandBits d) (operandBits a) 0 0)
  | .fsig e d a => .entry (entryWordV 16 e (operandBits d) (operandBits a) 0 0)
  | .fcmp e pd a b => .entry (entryWordV 17 e (vpBits pd) (operandBits a) (operandBits b) 0)
  | .fround e d a => .entry (entryWordV 18 e (operandBits d) (operandBits a) 0 0)
  | .scacc e d a b c => .entry (entryWordV 20 e (operandBits d) (operandBits a) (operandBits b) (operandBits c))
  | .qnt e d a b c => .entry (entryWordV 21 e (operandBits d) (operandBits a) (operandBits b) (operandBits c))
  | .fsum e d a => .entry (entryWordV 22 e (operandBits d) (operandBits a) 0 0)
  | .fmaxr e d a => .entry (entryWordV 23 e (operandBits d) (operandBits a) 0 0)
  | .fscan e d a => .entry (entryWordV 24 e (operandBits d) (operandBits a) 0 0)
  | .iadd e d a b => .entry (entryWordV 48 e (operandBits d) (operandBits a) (operandBits b) 0)
  | .isub e d a b => .entry (entryWordV 49 e (operandBits d) (operandBits a) (operandBits b) 0)
  | .imul e d a b => .entry (entryWordV 50 e (operandBits d) (operandBits a) (operandBits b) 0)
  | .imad e d a b c => .entry (entryWordV 51 e (operandBits d) (operandBits a) (operandBits b) (operandBits c))
  | .imin e d a b => .entry (entryWordV 52 e (operandBits d) (operandBits a) (operandBits b) 0)
  | .imax e d a b => .entry (entryWordV 53 e (operandBits d) (operandBits a) (operandBits b) 0)
  | .iminu e d a b => .entry (entryWordV 54 e (operandBits d) (operandBits a) (operandBits b) 0)
  | .imaxu e d a b => .entry (entryWordV 55 e (operandBits d) (operandBits a) (operandBits b) 0)
  | .iabs e d a => .entry (entryWordV 56 e (operandBits d) (operandBits a) 0 0)
  | .vecSll e d a b => .entry (entryWordV 57 e (operandBits d) (operandBits a) (operandBits b) 0)
  | .vecSrl e d a b => .entry (entryWordV 58 e (operandBits d) (operandBits a) (operandBits b) 0)
  | .vecSra e d a b => .entry (entryWordV 59 e (operandBits d) (operandBits a) (operandBits b) 0)
  | .vecAnd e d a b => .entry (entryWordV 60 e (operandBits d) (operandBits a) (operandBits b) 0)
  | .vecOr e d a b => .entry (entryWordV 61 e (operandBits d) (operandBits a) (operandBits b) 0)
  | .vecXor e d a b => .entry (entryWordV 62 e (operandBits d) (operandBits a) (operandBits b) 0)
  | .vecAndn e d a b => .entry (entryWordV 63 e (operandBits d) (operandBits a) (operandBits b) 0)
  | .not e d a => .entry (entryWordV 64 e (operandBits d) (operandBits a) 0 0)
  | .vecPopc e d a => .entry (entryWordV 65 e (operandBits d) (operandBits a) 0 0)
  | .vecClz e d a => .entry (entryWordV 66 e (operandBits d) (operandBits a) 0 0)
  | .icmp e pd a b => .entry (entryWordV 67 e (vpBits pd) (operandBits a) (operandBits b) 0)
  | .dot8 e d a b c => .entry (entryWordV 68 e (operandBits d) (operandBits a) (operandBits b) (operandBits c))
  | .isum e d a => .entry (entryWordV 69 e (operandBits d) (operandBits a) 0 0)
  | .iscan e d a => .entry (entryWordV 70 e (operandBits d) (operandBits a) 0 0)
  | .mov e d a => .entry (entryWordV 96 e (operandBits d) (operandBits a) 0 0)
  | .vsel e d a b => .entry (entryWordV 97 e (operandBits d) (operandBits a) (operandBits b) 0)
  | .perm e d a b => .entry (entryWordV 98 e (operandBits d) (operandBits a) (operandBits b) 0)
  | .bcast e d a b => .entry (entryWordV 99 e (operandBits d) (operandBits a) (operandBits b) 0)
  | .vpand e pd pa pb => .entry (entryWordV 100 e (vpBits pd) (vpBits pa) (vpBits pb) 0)
  | .vpor e pd pa pb => .entry (entryWordV 101 e (vpBits pd) (vpBits pa) (vpBits pb) 0)
  | .vpxor e pd pa pb => .entry (entryWordV 102 e (vpBits pd) (vpBits pa) (vpBits pb) 0)
  | .tos e d a b => .entry (entryWordV 105 e (operandBits d) (operandBits a) (operandBits b) 0)
  | .ldW e data addr imm fmt => .entry (entryWordM 128 e (operandBits data) (operandBits addr) imm 0 false (fmtBits fmt))
  | .ldA e data addr imm fmt => .entry (entryWordM 129 e (operandBits data) (operandBits addr) imm 0 false (fmtBits fmt))
  | .ldC e data addr imm fmt => .entry (entryWordM 130 e (operandBits data) (operandBits addr) imm 0 false (fmtBits fmt))
  | .ldY e data addr imm fmt => .entry (entryWordM 131 e (operandBits data) (operandBits addr) imm 0 false (fmtBits fmt))
  | .stW e data addr imm fmt => .entry (entryWordM 132 e (operandBits data) (operandBits addr) imm 0 false (fmtBits fmt))
  | .stA e data addr imm fmt => .entry (entryWordM 133 e (operandBits data) (operandBits addr) imm 0 false (fmtBits fmt))
  | .stC e data addr imm fmt => .entry (entryWordM 134 e (operandBits data) (operandBits addr) imm 0 false (fmtBits fmt))
  | .stY e data addr imm fmt => .entry (entryWordM 135 e (operandBits data) (operandBits addr) imm 0 false (fmtBits fmt))
  | .pldW e data addr imm k rne fmt => .entry (entryWordM 136 e (operandBits data) (operandBits addr) imm k rne (fmtBits fmt))
  | .pldA e data addr imm k rne fmt => .entry (entryWordM 137 e (operandBits data) (operandBits addr) imm k rne (fmtBits fmt))
  | .pldY e data addr imm k rne fmt => .entry (entryWordM 138 e (operandBits data) (operandBits addr) imm k rne (fmtBits fmt))
  | .pstW e data addr imm k rne fmt => .entry (entryWordM 139 e (operandBits data) (operandBits addr) imm k rne (fmtBits fmt))
  | .pstA e data addr imm k rne fmt => .entry (entryWordM 140 e (operandBits data) (operandBits addr) imm k rne (fmtBits fmt))
  | .pstY e data addr imm k rne fmt => .entry (entryWordM 141 e (operandBits data) (operandBits addr) imm k rne (fmtBits fmt))
  | .pupdAdd e data addr imm k rne => .entry (entryWordM 142 e (operandBits data) (operandBits addr) imm k rne 8)
  | .pupdAxpy e data addr imm k rne => .entry (entryWordM 143 e (operandBits data) (operandBits addr) imm k rne 8)
  | .pupdMom e data addr imm k rne => .entry (entryWordM 144 e (operandBits data) (operandBits addr) imm k rne 8)
  | .fcvt e d a b => .entry (entryWordV 0x13 e (operandBits d) (operandBits a) (operandBits b) 0)
  | .vpnot e pd pa => .entry (entryWordV 0x67 e (vpBits pd) (vpBits pa) 0 0)
  | .vpcount e d pa => .entry (entryWordV 0x68 e (operandBits d) (vpBits pa) 0 0)
  | .mxgoG e split tv tok => .entry (entryWordV 0xC0 e (split ++ BitVec.ofBool tv ++ b4 tok) 0 0 0)
  | .mxldsG e sn ph kw tv tok => .entry (entryWordV 0xC1 e (0#3 ++ BitVec.ofBool ph ++ b2 kw ++ BitVec.ofBool tv ++ b4 tok) (operandBits (.scalar sn)) 0 0)
  | .mxqG e d => .entry (entryWordV 0xC2 e (operandBits d) 0 0 0)
  | .pushm e data imm => .entry (entryWordM 0x91 e (operandBits data) 0 (0#10 ++ imm) 0 false 0)
  | .popm e data imm => .entry (entryWordM 0x92 e (operandBits data) 0 (0#10 ++ imm) 0 false 0)
  | .cbadv e data addr imm => .entry (entryWordM 0x93 e (operandBits data) (operandBits addr) imm 0 false 0)
  | .qrst e data addr => .entry (entryWordM 0x94 e (operandBits data) (operandBits addr) 0 0 false 0)
  | .qadv e data addr imm => .entry (entryWordM 0x95 e (operandBits data) (operandBits addr) imm 0 false 0)
  | .entryWriteback _ => .event
  | .npfLineWrite _ => .event
  | .landing _ => .event
  | .engineFaultReport _ => .event
  | .stopRequest _ => .event
  | .coreStop _ => .event
  | .uncorrectableError _ => .event
  | .coreRetire _ => .event
  | .flagRelease _ => .event
  | .portFetch _ _ _ => .event
  | .cbStage _ _ _ => .event
  | .planeRetry _ => .event
  | .matrixPass _ _ => .event
  | .comparePass _ _ => .event
  | .passAccWrite _ _ => .event
  | .levelBoundary _ _ => .event
  | .shadowLoadDone _ _ => .event
  | .tokenIdle _ _ => .event
  | .copyRowMove _ _ => .event
  | .cptTileRetry _ _ => .event
  | .cptabEntryWrite _ _ => .event
  | .ringAdvance _ _ => .event
  | .copyComplete _ _ => .event
  | .copyFault _ _ => .event
  | .transformComplete _ _ => .event
  | .transformFault _ _ => .event
  | .atomicPerform _ => .event
  | .reductionPerform _ => .event
  | .phaserPerform _ => .event
  | .copyArrival _ => .event
  | .phaserPoll _ => .event
  | .acknowledgementArrival _ => .event
  | .answerReturn _ => .event
  | .rangeTake _ => .event
  | .mergePush _ => .event
  | .mergeTileRetry _ => .event
  | .mergeTranslationFault _ => .event
  | .teamEnd _ => .event
  | .flightBarrierComplete _ => .event
  | .flightPhaseStart _ => .event
  | .vectorArrival _ _ => .event
  | .flightBreakSignal _ => .event
  | .tailRegisterWrite _ _ => .event
  | .launch _ => .event
  | .wait _ => .event
  | .waitRetest _ => .event
  | .signal _ => .event
  | .cond _ => .event
  | .loopNode _ => .event
  | .switch _ => .event
  | .load _ => .event
  | .teamPlace _ => .event
  | .quantumExpiry _ => .event
  | .teamSave _ => .event
  | .jobComplete _ => .event
  | .teamFault _ => .event
  | .ageing _ => .event
  | .usherConfigCommit _ _ => .event
  | .fabricConfigCommit _ _ => .event
  | .registerWrite _ _ => .event
  | .moduleReset => .event
  | .windowRead _ _ => .event
  | .windowWrite _ _ => .event
  | .sensors => .event
  | .log => .event
  | .cap => .event
  | .update => .event
  | .attest => .event
  | .errcnt => .event
  | .unretire => .event
  | .mailboxCompletion => .event
  | .hostReadTimeout _ => .event
  | .peerRequest _ => .event
  | .flitRetry _ => .event
  | .sensorRefresh => .event
  | .powerBudgetCheck => .event
  | .coolantLoss => .event
  | .eccSummary => .event
  | .lineFill _ => .event
  | .pageWalk _ => .event
  | .packetArrival _ => .event
  | .regionalCount _ => .event
  | .escape _ => .event
  | .routerSleep _ => .event
  | .routerWake _ => .event
  | .trafficPeriod => .event
  | .hotLineRecompress _ => .event
  | .illegalBundle _ _ => .event
  | .reservedOpcode _ _ _ => .event
  | .fetchFault _ _ => .event
  | .bankPortRequest _ _ => .event
  | .hostCompletion _ _ => .event
  | .peerResponse _ _ => .event
  | .linkUp _ _ => .event
  | .powerLoss => .event
  | .flipatReached _ => .event
  | .badCommand => .event

/-- Decoding of an encoding back into the instruction: the decoder of the place the code stands in. -/
noncomputable def decode : Code → Option Instr
  | .header w => (decodeEmpty w).toOption
  | .slot f sl w => (decodeSlot f sl w).toOption
  | .entry x => if x.getLsbD 0 then (decodeEntry x).toOption.map Entry.toInstr else none
  | .event => none

/-! The host's table interface -/

/-- One decoder per place in which a 32-bit word can stand. DESIGN CHOICE (log 2). -/
def tableDecoders : List (BitVec 32 → Option Instr) :=
  [fun w => (decodeEmpty w).toOption, fun w => (decodeA w).toOption, fun w => (decodeG w).toOption, fun w => (decodeL w).toOption,
   fun w => (decodeX w).toOption, fun w => (decodeM w).toOption, fun w => (decodeC w).toOption, fun w => (decodeF w).toOption,
   fun w => (decodeK w).toOption, fun w => (decodeQ w).toOption]

/-- The first row of the list that x matches and whose decoder reads x. DESIGN CHOICE (log 2). -/
def readRows (x : BitVec 32) : List (BitVec 32 × BitVec 32 × Nat) → Option Instr
  | [] => none
  | (mask, pat, k) :: rs =>
    if x &&& mask = pat then
      match (tableDecoders[k]?).bind (· x) with
      | some i => some i
      | none => readRows x rs
    else readRows x rs

/-- Mask, match and decoder (an index of `tableDecoders`) of the table's rows with words: headers first, then the rows with the
most fixed bits, and among equals in the table's order (log 2). DESIGN CHOICE (log 2). -/
def tableRowsA : List (BitVec 32 × BitVec 32 × Nat) :=
  [(0xFFF007FF#32, 0x10000000#32, 0),
   (0xFF000000#32, 0x20000000#32, 0),
   (0xFFFFFFFF#32, 0x28000000#32, 9),
   (0xFFFFFFFF#32, 0x2C000000#32, 9),
   (0xFFFFFFFF#32, 0x34000000#32, 9),
   (0xFC3FFFFF#32, 0x2C000000#32, 3),
   (0xFC3FFFFF#32, 0x30000000#32, 4),
   (0xFC3FFFFF#32, 0x48000000#32, 4),
   (0xFC3FFFFF#32, 0x14000000#32, 8),
   (0xFC3FFFFF#32, 0x18000000#32, 8),
   (0xFF0FFFFF#32, 0x0C000000#32, 9),
   (0xFF0FFFFF#32, 0x10000000#32, 9),
   (0xFF0FFFFF#32, 0x14000000#32, 9),
   (0xFF0FFFFF#32, 0x2C000001#32, 9),
   (0xFC3FFFFE#32, 0x18000000#32, 6),
   (0xFC3FFFFC#32, 0x34000000#32, 2),
   (0xFC3FFFFC#32, 0x28000000#32, 7),
   (0xFC3FFFF8#32, 0x10000000#32, 8),
   (0xFC3FFFF0#32, 0x1C000000#32, 4),
   (0xFC3FFFF0#32, 0x20000000#32, 4),
   (0xFC3FFFF0#32, 0x24000000#32, 4),
   (0xFC3FFFF0#32, 0x28000000#32, 4),
   (0xFC3FFFF0#32, 0x24000000#32, 7),
   (0xFF8FFFC0#32, 0x24000000#32, 9),
   (0xFF8FFFC0#32, 0x24000040#32, 9),
   (0xFC00FFFF#32, 0x0C000000#32, 4),
   (0xFC00FFFF#32, 0x1C000200#32, 4),
   (0xFC00FFFF#32, 0x20000200#32, 4),
   (0xFC00FFFF#32, 0x24000200#32, 4),
   (0xFC00FFFF#32, 0x28000200#32, 4),
   (0xFC00FFFF#32, 0x2C000000#32, 4),
   (0xFC00FFFF#32, 0x34000000#32, 4),
   (0xFC00FFFF#32, 0x38000000#32, 4),
   (0xFC00FFFF#32, 0x58000000#32, 4),
   (0xFC00FFFF#32, 0x0C000000#32, 5),
   (0xFC00FFFF#32, 0x1C000000#32, 5),
   (0xFC00FFFF#32, 0x24000008#32, 5),
   (0xFC00FFFF#32, 0x1C000000#32, 8),
   (0xFC00FFFF#32, 0x20000000#32, 8),
   (0xFC00FFFF#32, 0x20000002#32, 8),
   (0xFC00FFFF#32, 0x20000003#32, 8),
   (0xFC00FFFE#32, 0x14000000#32, 6),
   (0xFC00FFFC#32, 0x28000000#32, 5),
   (0xFC00FFFC#32, 0x1C000000#32, 7),
   (0xFC00FFFC#32, 0x20000000#32, 7),
   (0xFC003FFF#32, 0x18000000#32, 9),
   (0xFC00FFF8#32, 0x14000000#32, 5),
   (0xFC00FFF8#32, 0x24000000#32, 5),
   (0xFC7FFC00#32, 0x04000000#32, 9),
   (0xFC00FFF0#32, 0x34000000#32, 3)]
/-- DESIGN CHOICE (log 2). -/
def tableRowsB : List (BitVec 32 × BitVec 32 × Nat) :=
  [(0xFC3FFC00#32, 0x44000000#32, 4),
   (0xFC3FFC00#32, 0x4C000000#32, 4),
   (0xFC00FFF0#32, 0x10000000#32, 6),
   (0xFFFFC000#32, 0x20000000#32, 9),
   (0xFC00FE0F#32, 0x20003000#32, 5),
   (0xFC00FE0F#32, 0x20003400#32, 5),
   (0xFC00FE0F#32, 0x20007000#32, 5),
   (0xFC00FE0F#32, 0x2000B000#32, 5),
   (0xFC00FE0F#32, 0x2000B400#32, 5),
   (0xFC00FE0F#32, 0x2000F000#32, 5),
   (0xFC0003FF#32, 0x74000000#32, 1),
   (0xFC0003FF#32, 0x78000000#32, 1),
   (0xFC0003FF#32, 0x7C000000#32, 1),
   (0xFC0003FF#32, 0x30000010#32, 3),
   (0xFC0003FF#32, 0x38000000#32, 3),
   (0xFC0003FF#32, 0x10000000#32, 4),
   (0xFC0003FF#32, 0x50000000#32, 4),
   (0xFC0003FF#32, 0x20000000#32, 5),
   (0xFC0003FF#32, 0x20000200#32, 5),
   (0xFC0003FF#32, 0x20000001#32, 8),
   (0xFC38E380#32, 0xCC000000#32, 1),
   (0xFC0003FC#32, 0x18000000#32, 5),
   (0xFC38000F#32, 0x58000000#32, 1),
   (0xFC38000F#32, 0x5C000000#32, 1),
   (0xFC38000F#32, 0x60000000#32, 1),
   (0xFC38000F#32, 0x64000000#32, 1),
   (0xFC38000F#32, 0x68000000#32, 1),
   (0xFC38000F#32, 0x6C000000#32, 1),
   (0xFC00FE00#32, 0x54000000#32, 4),
   (0xFC0003F8#32, 0x04000000#32, 5),
   (0xFC0003F0#32, 0x80000000#32, 1),
   (0xFC0003F0#32, 0x84000000#32, 1),
   (0xFC003F00#32, 0x98000000#32, 1),
   (0xFC003F00#32, 0x9C000000#32, 1),
   (0xFC003F00#32, 0xA0000000#32, 1),
   (0xFC0003F0#32, 0xC4000000#32, 1),
   (0xFC3F0000#32, 0x30000000#32, 2),
   (0xFC3F0000#32, 0x38000000#32, 2),
   (0xFC3F0000#32, 0x38010000#32, 2),
   (0xFC3F0000#32, 0x38020000#32, 2),
   (0xFC0003F0#32, 0x7C000000#32, 2),
   (0xFC0003F0#32, 0x80000000#32, 2),
   (0xFC0003F0#32, 0x88000000#32, 2),
   (0xFC0003F0#32, 0x8C000000#32, 2),
   (0xFC0003F0#32, 0x30000000#32, 3),
   (0xFC00003F#32, 0x18000000#32, 4),
   (0xFC00FC00#32, 0x10000000#32, 5),
   (0xFC00FC00#32, 0x08000000#32, 8),
   (0xFC0FC000#32, 0x1C000000#32, 9),
   (0xFC00000F#32, 0x04000000#32, 1)]
/-- DESIGN CHOICE (log 2). -/
def tableRowsC : List (BitVec 32 × BitVec 32 × Nat) :=
  [(0xFC00000F#32, 0x08000000#32, 1),
   (0xFC00000F#32, 0x0C000000#32, 1),
   (0xFC00000F#32, 0x10000000#32, 1),
   (0xFC00000F#32, 0x14000000#32, 1),
   (0xFC00000F#32, 0x18000000#32, 1),
   (0xFC00000F#32, 0x1C000000#32, 1),
   (0xFC00000F#32, 0x20000000#32, 1),
   (0xFC00000F#32, 0x24000000#32, 1),
   (0xFC00000F#32, 0x28000000#32, 1),
   (0xFC00000F#32, 0x2C000000#32, 1),
   (0xFC00000F#32, 0x30000000#32, 1),
   (0xFC00000F#32, 0x34000000#32, 1),
   (0xFC00000F#32, 0x38000000#32, 1),
   (0xFC00000F#32, 0x3C000000#32, 1),
   (0xFC00000F#32, 0x40000000#32, 1),
   (0xFC00000F#32, 0x44000000#32, 1),
   (0xFC00000F#32, 0x48000000#32, 1),
   (0xFC00000F#32, 0x4C000000#32, 1),
   (0xFC00000F#32, 0x50000000#32, 1),
   (0xFC00000F#32, 0x54000000#32, 1),
   (0xFC00000F#32, 0xB0000000#32, 1),
   (0xFC00000F#32, 0xB4000000#32, 1),
   (0xFC00000F#32, 0xB8000000#32, 1),
   (0xFC00000F#32, 0xBC000000#32, 1),
   (0xFC00000F#32, 0xC0000000#32, 1),
   (0xFC00000F#32, 0x3C000000#32, 4),
   (0xFC00000F#32, 0x40000000#32, 4),
   (0xFC380000#32, 0xC8000000#32, 1),
   (0xFC000380#32, 0x08000000#32, 5),
   (0xFC000380#32, 0x0C000000#32, 8),
   (0xFC000003#32, 0x90000002#32, 2),
   (0xFC000008#32, 0x70000000#32, 1),
   (0xFC000200#32, 0x04000000#32, 6),
   (0xFC000200#32, 0x08000000#32, 6),
   (0xFC000200#32, 0x0C000000#32, 6),
   (0xFC000000#32, 0x88000000#32, 1),
   (0xFC000000#32, 0x8C000000#32, 1),
   (0xFC000000#32, 0x90000000#32, 1),
   (0xFC000000#32, 0x94000000#32, 1),
   (0xFC000000#32, 0xA4000000#32, 1),
   (0xFC000000#32, 0xA8000000#32, 1),
   (0xFC000000#32, 0xAC000000#32, 1),
   (0xFC000000#32, 0x04000000#32, 2),
   (0xFC000000#32, 0x08000000#32, 2),
   (0xFC000000#32, 0x0C000000#32, 2),
   (0xFC000000#32, 0x10000000#32, 2),
   (0xFC000000#32, 0x14000000#32, 2),
   (0xFC000000#32, 0x18000000#32, 2),
   (0xFC000000#32, 0x1C000000#32, 2),
   (0xFC000000#32, 0x20000000#32, 2)]
/-- DESIGN CHOICE (log 2). -/
def tableRowsD : List (BitVec 32 × BitVec 32 × Nat) :=
  [(0xFC000000#32, 0x24000000#32, 2),
   (0xFC000000#32, 0x28000000#32, 2),
   (0xFC000000#32, 0x2C000000#32, 2),
   (0xFC000000#32, 0x3C000000#32, 2),
   (0xFC000000#32, 0x40000000#32, 2),
   (0xFC000000#32, 0x44000000#32, 2),
   (0xFC000000#32, 0x48000000#32, 2),
   (0xFC000000#32, 0x4C000000#32, 2),
   (0xFC000000#32, 0x50000000#32, 2),
   (0xFC000000#32, 0x54000000#32, 2),
   (0xFC000000#32, 0x58000000#32, 2),
   (0xFC000000#32, 0x5C000000#32, 2),
   (0xFC000000#32, 0x60000000#32, 2),
   (0xFC000000#32, 0x64000000#32, 2),
   (0xFC000000#32, 0x68000000#32, 2),
   (0xFC000000#32, 0x6C000000#32, 2),
   (0xFC000000#32, 0x70000000#32, 2),
   (0xFC000000#32, 0x74000000#32, 2),
   (0xFC000000#32, 0x78000000#32, 2),
   (0xFC000000#32, 0x84000000#32, 2),
   (0xFC000000#32, 0x04000000#32, 3),
   (0xFC000000#32, 0x08000000#32, 3),
   (0xFC000000#32, 0x0C000000#32, 3),
   (0xFC000000#32, 0x10000000#32, 3),
   (0xFC000000#32, 0x14000000#32, 3),
   (0xFC000000#32, 0x18000000#32, 3),
   (0xFC000000#32, 0x1C000000#32, 3),
   (0xFC000000#32, 0x20000000#32, 3),
   (0xFC000000#32, 0x24000000#32, 3),
   (0xFC000000#32, 0x28000000#32, 3),
   (0xFC000000#32, 0x04000000#32, 4),
   (0xFC000000#32, 0x08000000#32, 4),
   (0xFC000000#32, 0x14000000#32, 4),
   (0xFC000000#32, 0x04000000#32, 8),
   (0xFC000000#32, 0x04000000#32, 9),
   (0xFC000000#32, 0x08000000#32, 9),
   (0xFC000000#32, 0x30000000#32, 9)]

/-- The instruction of a word of the table. One word stands for rows of several slots; the order of `tableRows` chooses (log 2).
DESIGN CHOICE (log 2). -/
def decodeTableWord (nbits w : Nat) : Option Instr :=
  if 0 < nbits ∧ nbits ≤ 32 ∧ w < 2 ^ 32 then
    readRows (BitVec.ofNat 32 w) (tableRowsA ++ tableRowsB ++ tableRowsC ++ tableRowsD)
  else none

end Sys2Proof
end

