-- ==== Sys2Proof/Machine/State.lean ====
section
/-!
DEFINITION. The state of the package as plain data: every piece of state the spec names, and the few fields of the model's own
(turn, cur, pre, fresh, inputs, waiting messages). Reset values follow the register maps; the others are named in log 3 and log 4.
-/
namespace Sys2Proof.Machine

/-- Why a step stops. -/
inductive Fault where
  /-- Raised by `step` once power is lost (R480): the module does nothing more. Safe: no later state is claimed. -/
  | noPower
  deriving DecidableEq, Repr

/-- Why an instruction has no meaning. -/
inductive Refusal where
  /-- Raised by `exec` for an instruction whose meaning is not written. Safe: nothing is claimed of it. -/
  | notModelled (mnemonic : String)
  deriving DecidableEq, Repr

/-- A virtual address (R132). -/
abbrev VA := BitVec 56
/-- Values kept by number: strictly rising keys, and no entry equal to what an unlisted key reads as. -/
abbrev Sparse (α : Type) := List (Nat × α)

/-- Trap causes of R49. -/
inductive Cause where
  | illegalBundle | slotConflict | illegalOp | misaligned | translation | protection | spawnBusy | landingOverdue
  | tableRefused | flipRefused | flipLate | tokenMisuse | planeRewriteTimeout | mergeFault | phaserState
  | participantRange | flightSlip | stackBounds | journalOverflow | syscall | brk | machineCheck
  deriving DecidableEq, Repr

/-- The local spaces and the others of R129. -/
inductive Space where
  | wb | ab | acc | gal | glb | tbl
  deriving DecidableEq, Repr

/-- A cause with what it names: aux of TCAUSE, TADDR, the slot (15 for the whole bundle) and the lane group (31 for none). -/
structure TrapInfo where
  cause : Cause
  aux : BitVec 10 := 0
  taddr : BitVec 64 := 0
  slot : Fin 16 := 15
  group : Fin 32 := 31
  /-- delivered as a parked cause is (R352, R388) -/
  parked : Bool := false
  /-- the access of a returning operation, which a replay performs again (R352) -/
  replay : Option Nat := none
  deriving DecidableEq, Repr

/-- Why a bundle does not issue or retire in this cycle. -/
inductive Hold where
  /-- a pre-emptible wait of R36 or R398 -/
  | wait
  /-- any other stall -/
  | stall
  deriving DecidableEq, Repr

/-- An entry of the fault table (R54), with the issue order that R53 delivers by. -/
structure Parked where
  cause : Cause
  engine : Fin 16
  tok : Option (Fin 16)
  baddr : VA
  addr : VA
  aux : BitVec 10 := 0
  issued : Nat
  /-- the G-slot access that faulted, which a replay performs again (R188) -/
  access : Option Nat := none
  /-- due since a landing or an implicit checkpoint, and not yet delivered (R53) -/
  due : Bool := false
  deriving DecidableEq, Repr

/-- An active hardware loop of the control stream (R193). -/
structure LoopEntry where
  lc : Fin 4
  start : VA
  stop : VA
  deriving DecidableEq, Repr

/-- An active broadcast loop (R219). -/
structure BLoopEntry where
  bl : Fin 4
  rt : Bool
  start : VA
  stop : VA
  deriving DecidableEq, Repr

/-- A slot of a step set: a register and its stride (R195). -/
abbrev StepSet := Vector (Option (Reg × BitVec 64)) 4

/-- The task states of R26; `none` stands for a core that holds no task and was given none. -/
inductive TaskState where
  | running | waiting | merging | mergeFaulted | ended
  deriving DecidableEq, Repr

/-- System registers that hold a value of their own (R172); LANDMAX, ASN and the like are kept at their widths. -/
structure SysRegs where
  teamId : BitVec 64 := 0
  taskId : BitVec 64 := 0
  teamCores : BitVec 64 := 0
  asn : BitVec 12 := 0
  landMax : BitVec 16 := 65535
  landCnt : BitVec 16 := 0
  flipAt : BitVec 64 := 0
  arm : BitVec 2 := 0
  tvec : BitVec 64 := 0
  tcause : BitVec 18 := 0
  taddr : BitVec 56 := 0
  tbaddr : BitVec 56 := 0
  /-- bits of TSTAT but the handler bit -/
  tstat : BitVec 16 := 0
  tret : BitVec 56 := 0
  stqDrop : BitVec 32 := 0
  deriving DecidableEq, Repr

/-- A statistics record (R208). -/
abbrev StatRec := BitVec 128

/-- The source of a write record and its position in it (R130): kind 0 control bundle, 1 broadcast bundle, 2 and 3 engine commands. -/
structure Src where
  kind : Fin 4
  n : Nat
  pos : Nat
  deriving DecidableEq, Repr
/-- A write record of the write signature (R46, R130). -/
structure WriteRec where
  src : Src
  space : BitVec 8
  off : BitVec 64
  mask : BitVec 8
  data : BitVec 64
  deriving DecidableEq, Repr

/-! Lane groups -/

/-- A port descriptor in use (R233). -/
structure PortCfg where
  space : Space
  base : Nat
  fmt : Fmt
  address : Bool
  stop : Bool
  planes : Nat
  k : Nat
  rne : Bool
  counts : Vector Nat 4
  strides : Vector Int 4
  deriving DecidableEq, Repr

/-- A vector a read port has fetched; `rewrite` marks an NPF row whose header showed E = 0xFF (R236). -/
structure Fetched where
  pos : Nat
  vec : Lanes
  rewrite : Bool
  deriving DecidableEq, Repr

/-- A port q0..q15 (R233-R239): configuration, position, the vectors fetched ahead in walk order, the positions to fetch with the
cycle of each fetch, and the cycle from which a pop finds its vector delivered. -/
structure Port where
  cfg : Option PortCfg := none
  pos : Nat := 0
  fetched : List Fetched := []
  toFetch : List (Nat × Nat) := []
  readyAt : Nat := 0
  deriving DecidableEq, Repr

/-- A circular-buffer vector a group has staged (R242): ring pointer value, bytes converted, first cycle it is available. -/
structure Staged where
  cb : Fin 16
  ptr : Nat
  vec : Lanes
  avail : Nat
  deriving DecidableEq, Repr

/-- A write of a lane group that waits for its class latency (R32): what is written at the end of cycle `due`. Writes of one cycle
are ordered by `issue` (0 `sgw`, 1 `bpopq`, issue cycle + 2 of an entry), then V slot, then group (R80, R138, R217). -/
inductive GWrite where
  /-- lanes of a matrix vector under a lane mask -/
  | mat (m : Fin 4) (dir : Dir) (i : Fin 64) (v : Lanes) (mask : BitVec 64)
  | scalar (n : Fin 16) (v : BitVec 32)
  | lat (v : Lanes) (mask : BitVec 64)
  | vp (n : Fin 8) (v mask : BitVec 64)
  /-- bytes of a local space: (offset, byte) pairs in lane order -/
  | bytes (sp : Space) (bs : List (Nat × BitVec 8))
  /-- one line of an optimiser update (R253) -/
  | npf (sp : Space) (bs : List (Nat × BitVec 8))
  /-- `qrst` (none) or `qadv` of a port at the end of the issue cycle (R239) -/
  | seek (n : Fin 16) (step : Option Int)
  /-- `cbadv`: prod or cons of a handle moves at the end of the issue cycle (R243) -/
  | move (prod : Bool) (n : Fin 16) (amount : Nat)
  /-- a statistics record posted when the entry writes its result (R264) -/
  | post (r : StatRec)
  deriving DecidableEq, Repr

structure Pending where
  due : Nat
  issue : Nat
  v1 : Bool
  group : GroupId
  w : GWrite
  src : Src
  deriving DecidableEq, Repr

/-- A loop nest of the matrix tile (R281, R286): eight words. -/
abbrev Nest := Vector (BitVec 64) 8

/-- One stationary store: 64 rows of 64 elements of four 2-bit digits, plane slot 0 highest; exponents; planes minus 1 (R281). -/
structure Stationary where
  cells : Vector (Vector (BitVec 8) 64) 64 := Vector.replicate 64 (Vector.replicate 64 0)
  ew : Vector (BitVec 8) 64 := Vector.replicate 64 0
  kw : Fin 4 := 0
  deriving DecidableEq, Repr

/-- A pass that streams (R283): its first cycle, exponent of the header, presence map of a compressed slot, plane rows read so far. -/
structure Stream where
  start : Nat
  e : Nat
  map : Nat
  rows : List (List (BitVec 8))
  deriving DecidableEq, Repr
/-- Where a nest stands. -/
inductive NestPhase where
  /-- the next pass starts in this cycle -/
  | start (at_ : Nat)
  | stream (st : Stream)
  /-- the boundary before the next pass: its steps are pending, waits of the first `waited` levels are over -/
  | boundary (waited : Nat)
  /-- no further pass: busy until the last row is written -/
  | drain
  /-- stopped for pre-emption; the boundary steps stay pending -/
  | stopped (waited : Nat)
  deriving DecidableEq, Repr
/-- A running or stopped nest (R289-R297). -/
structure NestRun where
  nest : Nest
  split : BitVec 6
  command : Nat
  /-- number of the pass that streams or comes next -/
  pass : Nat := 0
  phase : NestPhase
  /-- `mxstop` has been requested -/
  stopReq : Bool := false
  /-- started by an entry -/
  entry : Bool
  baddr : VA
  /-- issue cycle, V slot and source of the start, which order and record its writes -/
  issued : Nat
  v1 : Bool
  src : Src
  /-- INT_SAT has been posted for this nest -/
  satPosted : Bool := false
  deriving DecidableEq, Repr

/-- A row still to be written to ACC (R283): the end of which cycle, its offset in the core, the row, add mode, compare mode's capacity. -/
structure PassWrite where
  due : Nat
  off : Nat
  add : Bool
  cap : Option Nat
  row : List Int
  deriving DecidableEq, Repr

/-- A shadow load in progress (R284): issue cycle, tile base, planes, phase, lines read so far. -/
structure ShadowLoad where
  issued : Nat
  command : Nat
  base : Nat
  kw : Fin 4
  ph : Bool
  lines : List (List (BitVec 8))
  deriving DecidableEq, Repr

/-- A matrix tile (R281). -/
structure Tile where
  active : Stationary := {}
  shadow : Stationary := {}
  load : Option ShadowLoad := none
  swapPending : Bool := false
  /-- the pending swap was asked of an idle tile whose shadow store was loading, so that it is made as the load completes (R285, R304) -/
  swapAtLoad : Bool := false
  /-- cycle at whose end the last such swap was made: a boundary's own swap of that cycle is the same exchange (R285) -/
  swappedAt : Option Nat := none
  activeNest : Nest := (Vector.replicate 8 0x1000000000000).set 0 0 |>.set 7 0
  shadowNest : Nest := (Vector.replicate 8 0x1000000000000).set 0 0 |>.set 7 0
  run : Option NestRun := none
  passes : BitVec 32 := 0
  writes : List PassWrite := []
  deriving DecidableEq, Repr

/-- A lane group (R12). -/
structure Group where
  mat : Sparse (BitVec 32) := []
  /-- vp0 holds all ones and is never written -/
  vp : Vector (BitVec 64) 8 := (Vector.replicate 8 0).set 0 (BitVec.allOnes 64)
  scal : Vector (BitVec 32) 16 := Vector.replicate 16 0
  rot : Fin 64 := 0
  latch : Lanes := Vector.replicate 64 0
  ports : Vector Port 16 := Vector.replicate 16 {}
  gsp : BitVec 32 := 0
  gbase : BitVec 32 := 0
  glimit : BitVec 32 := 0
  staged : List Staged := []
  tile : Tile := {}
  deriving DecidableEq, Repr

/-! Engines of a core -/

/-- A circular-buffer handle (R240). -/
structure CbCfg where
  base : Nat
  n : Nat
  fmt : Fmt
  slotSize : Nat
  groupStride : Nat
  deriving DecidableEq, Repr
structure Cb where
  cfg : Option CbCfg := none
  prod : Nat := 0
  cons : Nat := 0
  deriving DecidableEq, Repr

/-- A bank of group tables with its class map and refused bit (R12, R88, R223): entries by 1024 * group + index. -/
structure Bank where
  entries : Sparse (BitVec 64) := []
  classes : Sparse (Fin 8) := []
  refused : Bool := false
  deriving DecidableEq, Repr

/-- A write of the back bank that `twrite` or `tclr` performs at the end of its cycle (R223, R224, R227). -/
inductive TableOp where
  | store (groups : List GroupId) (idx : Fin 1024) (entry : BitVec 64) (src : Src)
  | clear
  deriving DecidableEq, Repr

/-- A byte range of a space, as a footprint names it (R141): [lo, hi). GLB ranges are virtual. -/
structure Range where
  space : Space
  /-- lane group for ACC slices and TBL is folded into the offset (R13, R129) -/
  lo : Int
  hi : Int
  deriving DecidableEq, Repr

/-- An incomplete engine command in the hazard unit (R142), with the token it keeps busy and the cb handles it names. -/
structure Command where
  id : Nat
  engine : Fin 16
  tok : Option (Fin 16)
  baddr : VA
  reads : List Range
  writes : List Range
  cbs : List (Fin 16) := []
  /-- still running on its engine -/
  running : Bool := true
  /-- its destination may hold held GLB effects (R43) -/
  glbDest : Bool := false
  /-- number in issue order (R53) -/
  issued : Nat := 0
  src : Src
  deriving DecidableEq, Repr

/-- A view table register (R379) with its touched lines. -/
structure ViewEntry where
  valid : Bool := false
  held : Bool := false
  gal : Bool := false
  op : Fin 8 := 0
  planes : BitVec 4 := 0
  linesM1 : BitVec 14 := 0
  home : BitVec 21 := 0
  base : VA := 0
  touched : List Nat := []
  /-- counts declarations, so that `vdrop` knows the copies issued under the present one (R381) -/
  serial : Nat := 0
  deriving DecidableEq, Repr

/-- What a copy unit captures at issue, and how far it has come (R312, R331, R332). Kind 1 is `cp`, 2 `cpt`, 3 `cptab`. -/
structure CopyCmd where
  id : Nat
  kind : Fin 4
  d : BitVec 512
  a : BitVec 64
  b : BitVec 64
  views : Vector ViewEntry 8
  tok : Option (Fin 16)
  baddr : VA
  issued : Nat
  src : Src
  /-- next row or tile, and the first byte of it not yet handed out -/
  row : Nat := 0
  off : Nat := 0
  /-- the bytes of the row once they are read -/
  buf : Option (List (BitVec 8)) := none
  /-- cycle of the next move, and failed attempts at a tile -/
  nextAt : Nat
  attempts : Nat := 0
  /-- `cpcan` has named it -/
  cancel : Bool := false
  /-- the fault met at a global row, whether a write met it, and the row and byte of one met at issue -/
  fault : Option (Cause × VA) := none
  faultDst : Bool := false
  faultAt : Option (Nat × Nat) := none
  deriving DecidableEq, Repr
/-- A copy unit: its command, and its last one with how it ended (R331). -/
structure CopyUnit where
  cmd : Option CopyCmd := none
  last : Option CopyCmd := none
  faulted : Bool := false
  cancelled : Bool := false
  /-- a ring row is performed in this cycle: of a destination or of a source ring (R324) -/
  advance : Option (Bool × Fin 16) := none
  deriving DecidableEq, Repr
/-- A copy that is handed out and owes its arrival or post (R326). -/
structure CopySignal where
  unit : Fin 2
  cmd : CopyCmd
  /-- the arrival is made -/
  arrived : Bool := false
  deriving DecidableEq, Repr

/-- A declared compressed activation buffer (R344): base, slots, planes, plane lines that a slot stores. -/
structure CBuf where
  base : Nat
  n : Nat
  p : Nat
  m : Nat
  /-- ratio ceiling code -/
  r : Nat
  deriving DecidableEq, Repr

/-- An operation of a transform unit with what it captured (R337). Kinds as in R340. -/
structure TransformOp where
  id : Nat
  kind : Fin 8
  inp : BitVec 64
  out : BitVec 64
  cnt : Nat
  arg : BitVec 64
  aux : BitVec 64
  /-- the buffer that a pack fills -/
  buf : Option CBuf
  tok : Option (Fin 16)
  baddr : VA
  issued : Nat
  src : Src
  /-- rows, tiles or matrices written, and tiles truncated -/
  done : Nat := 0
  truncated : Nat := 0
  nextAt : Nat
  /-- failed attempts at a row -/
  attempts : Nat := 0
  /-- the row of LAYOUT that has been read, and the first byte of it not yet handed out -/
  row : Option (List (BitVec 8)) := none
  off : Nat := 0
  fault : Option (Cause × VA) := none
  deriving DecidableEq, Repr
/-- A transform unit: operand ports, result port, operation, the last one and whether a fault ended it (R334, R340). -/
structure TransformUnit where
  ports : Vector (BitVec 64) 5 := Vector.replicate 5 0
  res : BitVec 64 := 0
  op : Option TransformOp := none
  last : Option TransformOp := none
  faulted : Bool := false
  deriving DecidableEq, Repr

/-! The memory fabric -/

/-- Atomics of R353. -/
inductive AtomicOp where
  | add | and | or | xor | min | max | minu | maxu | xchg | cas | fadd
  deriving DecidableEq, Repr
/-- Reductions of R356. -/
inductive ReduceOp where
  | add | max | min
  deriving DecidableEq, Repr
/-- Phaser instructions of R361. -/
inductive PhaserOp where
  | init | reg | drop | arr | wait | arw | q
  deriving DecidableEq, Repr

/-- Who makes an access: an engine of a core through its bank ports, the usher and the host port from base die 0, the newel controller, or a
request that leaves the package. -/
inductive AwayFor where
  | request (id : Nat)
  | copy (c : CoreId) (u : Fin 2)
  | transform (c : CoreId) (u : Fin 4)
  | merge (c : CoreId)
  /-- the merge unit of core c on core d: in the home of a view, or in the gallery -/
  | sibling (c d : CoreId) (vt : Option (Fin 8))
  | usher (q : Nat)
  | newel
  | host
  deriving DecidableEq, Repr

/-- What a request does at its place. -/
inductive ReqOp where
  /-- n bytes for register r; the core's own bytes laid over them (R42); the journal entry of the load (R44) -/
  | load (n : Nat) (signed : Bool) (r : Reg) (own : List (Nat × BitVec 8)) (entry : Nat)
  | store (bytes : List (BitVec 8))
  | copyWrite (bytes : List (BitVec 8))
  /-- register 0 for a posted form -/
  | atomic (op : AtomicOp) (v c : BitVec 64) (r : Reg)
  /-- with ARM[1] and TEAM_CORES of the issuing core -/
  | reduce (op : ReduceOp) (v : BitVec 64) (armed : Bool) (cores : Nat) (r : Reg)
  /-- with TEAM_ID[15:0] and the team-relative index of the issuing core -/
  | phaser (op : PhaserOp) (v : BitVec 64) (team : BitVec 16) (member : Nat) (r : Reg)
  | arrive (team : BitVec 16)
  | fetch (bcast : Bool)
  | prefetch
  /-- n bytes of a line read, or written where bytes are given, for an engine, the usher or the host port; `round` tells reads of one place apart -/
  | access (who : AwayFor) (round n : Nat) (bytes : Option (List (BitVec 8)))
  /-- the atomic decrement of a LOOP counter for a queue (R418): the word, and one less where it is not 0 -/
  | decrement (who : AwayFor)
  /-- a request that has come from a peer (R475) -/
  | peer (q : PeerReq)
  /-- a line that a slice or a controller sends to another die, a write-back or a line of a migration, by its traffic class -/
  | carry (cl : Fin 8)
  | purgeTlb
  | migrate (frame : Nat) (r : Reg)
  deriving DecidableEq, Repr

/-- A translation of a page (R451). -/
structure Trans where
  frame : Nat
  size : Nat
  w : Bool
  x : Bool
  stream : Bool
  phaser : Bool
  comp : Bool
  deriving DecidableEq, Repr

/-- Where a request stands. -/
inductive Stage where
  /-- waits for a free request or for the accesses that its order field names (R151, R444) -/
  | queued
  /-- at its bank port -/
  | port
  /-- in the concourse, to the home slice and back -/
  | packet
  | packetBack
  /-- a miss at the memory controller -/
  | walk
  /-- a walker's read of a table on another die, and its answer (R453) -/
  | walkOut
  | walkBack
  /-- translated: on its way to the die of its frame, the line on its way back, and waiting for a way -/
  | fillOut
  | fillBack
  | fill
  /-- at the synchronisation engine -/
  | engine
  /-- holds a waiter record (R363): gen and phase awaited -/
  | waiter (gen : BitVec 16) (phase : BitVec 32)
  /-- a page migration or a purge under way at the controller -/
  | working
  /-- in the concourse from the home slice to the host port or a Photur port, sent from there, and on its way back -/
  | packetOut
  | away
  | packetIn
  /-- the answer at the forwarding slice -/
  | back
  deriving DecidableEq, Repr

/-- A request of a core (R444), numbered in issue order. -/
structure Request where
  id : Nat
  core : CoreId
  baddr : VA
  /-- number in issue order (R53) -/
  issued : Nat
  asn : BitVec 12
  va : VA
  op : ReqOp
  order : Order := .rlx
  scope : Scope := .p
  /-- a G-slot access, for which a drain waits -/
  gslot : Bool := true
  /-- engine code and token that a parked fault of it carries (R54) -/
  engine : Fin 16 := 0
  tok : Option (Fin 16) := none
  command : Option Nat := none
  stage : Stage := .queued
  due : Nat := 0
  /-- cycle in which the slice accepted it -/
  accepted : Nat := 0
  trans : Option Trans := none
  fault : Option Cause := none
  data : List (BitVec 8) := []
  value : BitVec 64 := 0
  tag : BitVec 48 := 0
  /-- records of `afadd`: FP_INVALID, FP_OVERFLOW -/
  notes : List Nat := []
  /-- cycle at whose end the forwarding slice's acknowledgement reaches the core (R135) -/
  dieAck : Option Nat := none
  /-- what a polling wait awaits (R363), and whether the answer says that the core asks again -/
  awaiting : Option (BitVec 16 × BitVec 32) := none
  again : Bool := false
  /-- its place in the order in which slices accept requests: at the forwarding slice, then at the home slice (R136, R148, R460) -/
  place : Nat := 0
  /-- at a port to the host or to a peer: the die of the port, and the bytes to be written there -/
  exit_ : Fin 8 := 0
  out : Option (List (BitVec 8)) := none
  /-- dies of the tables that its walk still has to read, but for those of its controller's own die -/
  trail : Option (List (Fin 8)) := none
  /-- in the concourse: the router that it is at and the last one, cycle of sending, cycle from which it could go on, in the escape channel -/
  at_ : Fin 8 := 0
  last : Fin 8 := 0
  sentAt : Nat := 0
  since : Nat := 0
  escaped : Bool := false
  deriving DecidableEq, Repr

/-- Directory state of a line (R455). DESIGN CHOICE (log 11). -/
inductive Directory where
  | invalid
  | shared (cs : List CoreId)
  | exclusive (c : CoreId)
  | modified (c : CoreId)
  deriving DecidableEq, Repr

/-- A resident line of a hall slice (R446): virtual tag, its physical line, permissions at the fill, tag count (R463).
DESIGN CHOICE (log 11). -/
structure HallLine where
  asn : BitVec 12
  line : Nat
  pline : Nat
  w : Bool
  x : Bool
  stream : Bool
  comp : Bool
  tag : BitVec 48
  dir : Directory := .invalid
  hot : Bool := false
  /-- written since it was filled; pinned beyond the 8 ways of its set, and held for the slice in the atrium (R456) -/
  dirty : Bool := false
  beyond : Bool := false
  /-- cycle of the last access, and of the last placement -/
  touched : Nat := 0
  placed : Option Nat := none
  deriving DecidableEq, Repr

/-- A line that the atrium holds without a hall slice: its alias and tag count (R447, R448, R463). DESIGN CHOICE (log 11). -/
structure AtriumLine where
  asn : BitVec 12
  line : Nat
  pline : Nat
  tag : BitVec 48
  deriving DecidableEq, Repr

/-- An MTLB entry of a memory controller (R453). -/
structure TlbEntry where
  controller : Fin 16
  asn : BitVec 12
  base : Nat
  trans : Trans
  deriving DecidableEq, Repr

/-- The memory controllers' block (R441), with its staged bytes (R487). -/
structure FabricConfig where
  atbase : Nat := 0
  budget : Vector Nat 8 := Vector.replicate 8 0xFFFF
  rsleep : Nat := 4096
  xlat : Bool := false
  staged : BitVec 512 := 0xFFFFFFFFFFFFFFFFFFFFFFFFFFFFFFFF#512 <<< 320 ||| 4096#512 <<< 304
  deriving DecidableEq, Repr

/-- A concourse router (R459, R461). -/
structure Router where
  up : Bool := true
  /-- first cycle without a packet -/
  idleFrom : Nat := 0
  wakeAt : Option Nat := none
  stayUp : Nat := 0
  /-- the regional counts it last reported to its neighbours, and when -/
  counts : Vector Nat 8 := Vector.replicate 8 0
  reported : Option Nat := none
  deriving DecidableEq, Repr

/-- An access to host or peer memory that has been sent (R473, R475): a write where `bytes` is given. -/
structure Away where
  id : Nat
  who : AwayFor
  pa : Nat
  n : Nat
  bytes : Option (List (BitVec 8))
  sentAt : Nat
  /-- the completion, with its data or an error -/
  answer : Option (Option (List (BitVec 8))) := none
  deriving DecidableEq, Repr

/-- An access of an engine, of the usher or of the host port to one line (R20, R444), with what came of it: its bytes, or a cause. -/
structure Access where
  /-- number of its request -/
  id : Nat
  who : AwayFor
  asn : BitVec 12
  va : VA
  n : Nat
  bytes : Option (List (BitVec 8))
  round : Nat
  answer : Option (List (BitVec 8) × Option Cause) := none
  deriving DecidableEq, Repr

/-- A page migration (R466). -/
structure Migration where
  request : Nat
  asn : BitVec 12
  page : Nat
  old : Nat
  new : Nat
  size : Nat
  /-- lines copied so far, and lines written after their copy -/
  copied : Nat := 0
  dirty : List Nat := []
  /-- every line is copied: new accesses to the page are held (R466) -/
  switching : Bool := false
  deriving DecidableEq, Repr

/-! Flight phases (R394-R411) -/

/-- The phase status word (R411). -/
structure FlightStatus where
  lost : Nat := 0
  cycle : BitVec 32 := 0
  port : Fin 4 := 0
  reason : Fin 16 := 0
  valid : Bool := false
  deriving DecidableEq, Repr
/-- A vector on a wire: the core and port at which it becomes present, and when (R395). -/
structure Wire where
  core : CoreId
  port : Fin 4
  at_ : Nat
  data : List (BitVec 8)
  deriving DecidableEq, Repr

/-! A core -/

/-- A write to a local space performed at the end of a cycle by a unit other than a lane group, ranked as R138 orders them:
0 and 1 copy units, 2 transform units, 3 merge unit, 4 L slot, 5 flight controller. -/
structure LocalWrite where
  rank : Nat
  space : Space
  off : Nat
  bytes : List (BitVec 8)
  src : Src
  /-- view lines that the write touches (R383): entry and line -/
  touch : List (Fin 8 × Nat) := []
  /-- made by the merge unit of another core, whose signature records it (R130, R385) -/
  foreign : Bool := false
  deriving DecidableEq, Repr

/-- What end-of-cycle control does to flags (R63, R197, R216). -/
structure FlagOp where
  flag : Fin 16
  set : Bool
  /-- end of which cycle -/
  due : Nat
  deriving DecidableEq, Repr

/-- A value the core waits for (R170): the register that receives it and the access that brings it. -/
structure Awaited where
  access : Nat
  reg : Reg
  deriving DecidableEq, Repr

/-- An entry of btq: its value and the cycle at whose end it becomes poppable (R140, R217). -/
structure BtqEntry where
  value : BitVec 64
  due : Nat
  deriving DecidableEq, Repr

/-- A fault of the whole team that the core reports (R47, R49, R52): the cause with what it names, and TCAUSE and TBADDR of the
trap being handled for a double trap. -/
structure TeamFault where
  cause : Cause
  engine : Fin 16 := 15
  taddr : BitVec 64 := 0
  baddr : VA := 0
  handled : Option (BitVec 18 × VA) := none
  deriving DecidableEq, Repr

/-- A wait that polls (R363): its register, the record, ASN and bundle, what it awaits, when it asks again and its interval. -/
structure Poll where
  request : Request
  /-- none while a query is out -/
  at_ : Option Nat
  interval : Nat
  deriving DecidableEq, Repr

/-- What a bundle that stands has set going: its address, whether it stands in a pre-emptible wait, the request whose answer it waits for
(R352), and the number that requests made after its drain start from (R150). -/
structure Asked where
  hdr : VA
  wait : Bool := false
  request : Option Nat := none
  drain : Option Nat := none
  /-- tokens that its commands take once it acts: busy for the other stream from its issue -/
  tokens : BitVec 16 := 0
  deriving DecidableEq, Repr

/-! Tasks (R368-R391) -/

/-- An entry of a team range queue (R373). -/
structure RangeEntry where
  lo : Nat
  hi : Nat
  grain : Nat
  fixed : Bool
  entry : VA
  args : Vector (BitVec 64) 6
  views : Vector ViewEntry 8
  child : Nat
  poster : Option Nat
  /-- the next leaf of a FIXED range -/
  leaf : Nat := 0
  deriving DecidableEq, Repr
/-- The piece of a range task (R376, R377) with the entry it comes from. -/
structure Piece where
  cursor : Nat
  hi : Nat
  entry : RangeEntry
  deriving DecidableEq, Repr
/-- The merge progress word (R387). -/
structure Progress where
  line : Nat := 0
  done : Nat := 0
  buf : Bool := false
  region : Bool := false
  vt : Nat := 0
  deriving DecidableEq, Repr
/-- What a core's task and view engine holds beside the view table. -/
structure Task where
  /-- none where the core holds no task -/
  state : Option TaskState := none
  /-- the team in the usher's list, and the team-relative index -/
  team : Option Nat := none
  index : Fin 128 := 0
  /-- its place in the merge tree (R384) -/
  node : Option Nat := none
  childIndex : Fin 256 := 255
  /-- children of the present join period, and whether its `join` has issued (R368) -/
  children : Nat := 0
  closed : Bool := false
  piece : Option Piece := none
  template : Option (BitVec 512) := none
  /-- merge unit: progress word, buffer, attempts at the tile, next try, fault met (R386-R388) -/
  progress : Progress := {}
  /-- lines of the tile still to be written or written, in order -/
  buffer : List (Nat × List (BitVec 8)) := []
  attempts : Nat := 0
  tryAt : Nat := 0
  fault : Option (Cause × VA) := none
  /-- cycle from which it may issue; cycle in which it ended -/
  startAt : Nat := 0
  endedAt : Nat := 0
  /-- address and count of the `endt` bundle -/
  endtAt : VA := 0
  endtSrc : Src := ⟨0, 0, 7⟩
  /-- a stop request is pending, deferred up to a cycle (R37); the core issues nothing more; it has reported stopped (R38) -/
  stopReq : Bool := false
  stopAfter : Nat := 0
  /-- cycle of that request (R398) -/
  stopSince : Nat := 0
  halted : Bool := false
  stopped : Bool := false
  /-- arrived at the flight barrier (R397) -/
  arrived : Bool := false
  /-- the core whose issued bundle will start its next task (R6, R371) -/
  reserved : Option CoreId := none
  deriving DecidableEq, Repr
/-- A task in the merge tree of its team (R384). -/
structure Node where
  id : Nat
  team : Nat
  /-- team-relative index of its core -/
  index : Fin 128
  /-- the spawning or posting task; none for an initial task -/
  parent : Option Nat
  child : Nat := 255
  /-- leaf and number of leaves of a FIXED range -/
  leaf : Option (Nat × Nat) := none
  /-- the piece from which a lazy piece was split -/
  splitFrom : Option Nat := none
  lo : Nat := 0
  /-- `endt` has issued; the Push is complete -/
  ended : Bool := false
  merged : Bool := false
  deriving DecidableEq, Repr

/-- An `eret` that has issued and retires when the returning operations that it performs again have answered (R188, R201). -/
structure Busy where
  hdr : VA
  next : VA
  awaits : List Nat
  landing : Bool
  deriving DecidableEq, Repr

/-- The state of one core that R41 records or the journal restores. -/
structure Body where
  -- control sequencer (R169)
  g : Vector (BitVec 64) 64 := Vector.replicate 64 0
  p : Vector Bool 8 := (Vector.replicate 8 false).set 0 true
  lc : Vector (BitVec 64) 4 := Vector.replicate 4 0
  loops : List LoopEntry := []
  steps : Vector StepSet 4 := Vector.replicate 4 (Vector.replicate 4 none)
  pc : VA := 0
  handler : Bool := false
  sys : SysRegs := {}
  /-- first cycle in which each register can be read (R170) -/
  gReady : Vector Nat 64 := Vector.replicate 64 0
  pReady : Vector Nat 8 := Vector.replicate 8 0
  awaited : List Awaited := []
  /-- global effects held in the interval (R42), in issue order -/
  held : List Request := []
  /-- G-slot accesses whose faults are parked, and the one a handler may replay (R188) -/
  kept : List Request := []
  replaying : Option Nat := none
  /-- answers that a waiting bundle has not taken yet: request, value, fault -/
  answers : List (Nat × BitVec 64 × Option Cause) := []
  poll : Option Poll := none
  /-- a drain, purge or wait of the bundle next to issue that is under way -/
  asked : Option Asked := none
  /-- a bundle that has issued and not retired -/
  busy : Option Busy := none
  /-- a bracketed bundle has issued or waits, so that no effect is held (R43) -/
  bracket : Bool := false
  /-- in a flight phase (R397), and the status word of the last one -/
  inPhase : Bool := false
  flight : FlightStatus := {}
  /-- fetches that failed: broadcast?, address of the word, cause (R57) -/
  fetchFaults : List (Bool × Nat × Cause) := []
  -- queues, flags, tokens (R28)
  flags : Vector Bool 16 := Vector.replicate 16 false
  flagOps : List FlagOp := []
  ctq : List (BitVec 64) := []
  btq : List BtqEntry := []
  -- statistics queue (R207) and fault table (R53)
  stq : List StatRec := []
  /-- records posted in this cycle, ranked as R207 orders them: 0 slots, engine codes, 16 and above lane groups -/
  posts : List (Nat × StatRec) := []
  faults : List Parked := []
  -- broadcast sequencer (R210)
  bpc : VA := 0
  bpcUnset : Bool := true
  bl : Vector (BitVec 32) 4 := Vector.replicate 4 0
  sp : Vector Bool 8 := (Vector.replicate 8 false).set 0 true
  gm : Vector (BitVec 24) 8 := (Vector.replicate 8 0).set 0 0xFFFFFF
  bloops : List BLoopEntry := []
  brets : List VA := []
  brun : Bool := false
  /-- `bhalt` has issued in this cycle, at whose end running clears (R222) -/
  bhalting : Bool := false
  /-- folded empty broadcast bundles still to issue -/
  bfold : Nat := 0
  /-- cycle before which the broadcast sequencer issues nothing (two-cycle bundles R33, `bstart` R198) -/
  bnext : Nat := 0
  /-- cycle of the next retry of a bundle that found E = 0xFF (R251) -/
  bretryAt : Option Nat := none
  /-- retries of the held bundle so far, and the groups, under V1?, and header offsets concerned (R251) -/
  bretries : Nat := 0
  bheld : List (GroupId × Bool × Space × Nat) := []
  /-- V1 entries of a two-cycle bundle, which run in the next cycle: group, entry word, immediate, rot (R33) -/
  bsecond : List (GroupId × BitVec 64 × BitVec 16 × Fin 64) := []
  /-- what they find as it stood before the bundle (R239, R243): the handles, and ports that its V0 entries set; and the cycle before which
  they do not run -/
  bsecondCbs : Vector Cb 16 := Vector.replicate 16 {}
  bsecondPorts : List (GroupId × Fin 16 × Port) := []
  bsecondFrom : Nat := 0
  /-- address of that bundle -/
  bsecondAt : VA := 0
  /-- cause of a broadcast bundle waiting to be taken by the control sequencer (R29) -/
  btrap : Option TrapInfo := none
  front : Bank := {}
  back : Bank := {}
  /-- writes of the back bank at the end of this cycle (R88, R223, R227) -/
  tableOps : List TableOp := []
  groups : Vector Group 24 := Vector.replicate 24 {}
  pend : List Pending := []
  cbs : Vector Cb 16 := Vector.replicate 16 {}
  -- local spaces (R13)
  wb : Sparse (BitVec 8) := []
  ab : Sparse (BitVec 8) := []
  acc : Sparse (BitVec 8) := []
  gal : Sparse (BitVec 8) := []
  locals : List LocalWrite := []
  -- copy descriptors (R314) and view tables (R379)
  cds : Vector (Option (BitVec 512)) 16 := Vector.replicate 16 none
  vts : Vector ViewEntry 8 := Vector.replicate 8 {}
  copies : Vector CopyUnit 2 := Vector.replicate 2 {}
  signals : List CopySignal := []
  transforms : Vector TransformUnit 4 := Vector.replicate 4 {}
  -- hazard unit (R142)
  commands : List Command := []
  nextCommand : Nat := 0
  /-- faults that engines have made and the table has not taken yet (R53) -/
  reports : List Parked := []
  /-- bundles issued in the interval (R46) and its write records (R130) -/
  ctlCount : Nat := 0
  bcastCount : Nat := 0
  writes : List WriteRec := []
  /-- how many of these were made before or in the flight phase that the interval holds, and the lines of stationary stores and nest
  registers that the interval has written (R44, R297, R401) -/
  journalFrom : Nat := 0
  tileLines : List (GroupId × Nat) := []
  /-- compressed buffers (R344) and the pinned region (R347) -/
  cbufs : Vector (Option CBuf) 8 := Vector.replicate 8 none
  pinned : Option (Nat × Nat) := none
  /-- engines stop at their next stopping point (R38) -/
  stopping : Bool := false
  /-- folded empty control bundles still to issue, and whether their header is a landing -/
  fold : Nat := 0
  foldLanding : Bool := false
  /-- the flight phase was broken on another core 16 cycles ago (R407) -/
  breakDue : Bool := false
  /-- a broadcast bundle with a bracketed wait mask stands (R43) -/
  bbracket : Bool := false
  /-- the broadcast wait mask that has made a parked fault due (R53) -/
  bfault : Option (BitVec 16) := none
  /-- the team has no handler (R425) -/
  noHandler : Bool := false
  /-- the core is stopped by a fault of its team -/
  teamFault : Option TeamFault := none
  deriving DecidableEq, Repr

/-- A rerun of the interval (R45, R46): the first one, or the second with what the first one gave. -/
inductive Rerun where
  | first
  | second (count : Nat) (signature : BitVec 64)
  deriving DecidableEq, Repr

structure Core where
  b : Body := {}
  task : Task := {}
  /-- the core as its broadcast bundle left it when matrix entries of that bundle wait for the control stream (log 5) -/
  snap : Option Body := none
  /-- that bundle holds a flip that has taken effect at the start of this cycle (R227) -/
  snapFlip : Bool := false
  /-- the core as a bundle found it that has issued and waits for an answer or a drain, with its issue cycle (R7, R29) -/
  issued : Option (Nat × Body) := none
  /-- ranges that copies of the interval have posted, and how many of them the run under way has come to (R45, R326) -/
  posted : Nat := 0
  postNext : Nat := 0
  /-- lines of the control instruction cache that a flight phase locks (R397) -/
  locked : List Nat := []
  /-- the state at the interval's start (R41), its cycle, and the number of its first request -/
  chk : Body := {}
  chkAt : Nat := 0
  chkId : Nat := 0
  /-- answers of the interval to accesses of earlier ones -/
  arrived : List Request := []
  rerun : Option Rerun := none
  /-- its rolled-back errors, in cycles since power-up (R48, R481) -/
  errors : List Nat := []
  /-- marked for retirement (R48, R481), after a disagreement of reruns (R46), and retired -/
  retiring : Bool := false
  disagreed : Bool := false
  retired : Bool := false
  /-- instruction cache lines by line number of the virtual address, with the bytes as fetched (R57): control, broadcast -/
  icache : Sparse (List (BitVec 8)) := []
  bicache : Sparse (List (BitVec 8)) := []
  /-- values that loads and reads of CYCLE returned in the interval, and local lines journalled (R44) -/
  journal : List (Option (BitVec 64)) := []
  /-- number of the next read that the journal serves (R45) -/
  journalNext : Nat := 0
  /-- global rows that each copy unit and LAYOUT read in the interval, and the next one that the journal serves -/
  copyLog : Vector (List (List (BitVec 8))) 3 := Vector.replicate 3 []
  copyNext : Vector Nat 3 := Vector.replicate 3 0
  /-- acknowledgements received, and the last 256 (R464) -/
  ackCount : BitVec 64 := 0
  acks : Sparse (BitVec 128) := []
  deriving DecidableEq, Repr

/-! The usher (16) -/

/-- A buffer extent that a kernel declares (R429, R435). -/
structure Extent where
  space : Space
  off : Nat
  len : Nat
  deriving DecidableEq, Repr
/-- A kernel as the load record gives it (R440, R435). -/
structure Kernel where
  centry : VA
  bentry : Option VA
  handler : Option VA
  stride : Nat
  landMax : BitVec 16
  cores : Nat
  rect : Option (Nat × Nat)
  origin : Option (Nat × Nat)
  extents : List Extent
  got : BitVec 64
  /-- front table image: address and entries -/
  image : VA
  imageLen : Nat
  deriving DecidableEq, Repr
inductive TeamState where
  | pending | resident | stopping | saved | ended | faulted
  deriving DecidableEq, Repr
/-- A team (R416, R421-R425). -/
structure Team where
  id : Nat
  job : Nat
  /-- job-relative index -/
  t : Nat
  state : TeamState := .pending
  teamId : BitVec 32
  queue : QueueId
  asn : BitVec 12
  kernel : Kernel
  args : Vector (BitVec 64) 8
  stack : Nat
  ssize : Nat
  save : BitVec 64
  /-- cores in team order while it holds cores, and the origin of its rectangle -/
  cores : List CoreId := []
  origin : Option (Nat × Nat) := none
  /-- hop delays between neighbouring indices at the first placement (R421) -/
  hops : Option (List Nat) := none
  nextTask : BitVec 32
  ranges : List RangeEntry := []
  frozen : Bool := false
  /-- cycles from which it is resident, or waits for cores -/
  residentAt : Nat := 0
  waitsFrom : Nat := 0
  quantumOver : Bool := false
  /-- cycle of the stop requests; FLIPAT - S (R39) -/
  stopAt : Nat := 0
  /-- its job has faulted: it is stopped and saved FAULTED -/
  faulting : Bool := false
  /-- FLIPAT - S of R39, or 0 -/
  flipLeft : BitVec 64 := 0
  /-- the cores as they were saved, by team index (log 20) -/
  kept : List Core := []
  /-- its save area has been written -/
  inArea : Bool := false
  /-- at its end: the cores it held, and the number of the next request -/
  lastCores : List CoreId := []
  endId : Nat := 0
  /-- start cycle of the flight phase, once the barrier is complete (R397) -/
  start : Option Nat := none
  /-- cycle of the first break of the phase (R407) -/
  broken : Option Nat := none
  deriving DecidableEq, Repr
/-- A job (R416). -/
structure Job where
  id : Nat
  queue : QueueId
  tag : BitVec 16
  entry : List (BitVec 8)
  index : BitVec 32
  event : BitVec 64
  evalue : BitVec 64
  /-- since when it waits -/
  created : Nat
  asn : BitVec 12
  /-- a team of it has faulted: the team, the core and its fault; none once it is recorded -/
  faulted : Bool := false
  fault : Option (Nat × CoreId × TeamFault) := none
  deriving DecidableEq, Repr
/-- The usher's block (R412) with its staged bytes (R487), and what it keeps of the queues. -/
structure Usher where
  qtbase : BitVec 64 := 0
  quantum : Nat := 2000
  age : Nat := 100
  enable : Bool := false
  staged : BitVec 512
  /-- queue last served at each level (R419) -/
  served : Vector (Fin 64) 4 := Vector.replicate 4 63
  /-- continuously ready since, and ageing levels gained (R420) -/
  readySince : Vector (Option Nat) 64 := Vector.replicate 64 none
  aged : Vector Nat 64 := Vector.replicate 64 0
  tag : BitVec 16 := 0
  jobs : List Job := []
  teams : List Team := []
  /-- each queue's descriptor as last examined; 0, a disabled one, where it cannot be read (R486) -/
  desc : Vector (BitVec 512) 64 := Vector.replicate 64 0
  /-- examined since the last decision (R419) -/
  examined : Vector Bool 64 := Vector.replicate 64 false
  /-- the next test of a head WAIT entry (R417) -/
  retest : Vector (Option Nat) 64 := Vector.replicate 64 none
  /-- a jump has placed head beyond tail (R418) -/
  ahead : Vector Bool 64 := Vector.replicate 64 false
  /-- cycle before which it does nothing further to teams -/
  actAt : Nat := 0
  /-- cycle before which it takes no further decision, and the queue whose entry it is processing -/
  busyUntil : Nat := 0
  serving : Option QueueId := none
  /-- the level at which it has taken that entry (R419) -/
  level : Nat := 0
  deriving DecidableEq, Repr

/-! The newel controller (R477-R484) -/

/-- Kinds of log records (R480). -/
inductive LogKind where
  | rollback | retire | eccSummary | uncorrectable | linkDown | throttle | thermal | winFault | usherFault | update
  deriving DecidableEq, Repr
/-- A record of the persistent log: when (in cycles since power-up), kind, unit, detail (R480). DESIGN CHOICE (log 32). -/
structure LogRecord where
  at_ : Nat
  kind : LogKind
  unit : Nat
  detail : BitVec 384
  deriving DecidableEq, Repr

/-- What the outside world does: an event, a read of a register by the host (R469), or the failure of a flit of the number given at a link's check
(R476). -/
inductive Input where
  | event (e : Event)
  | registerRead (off n : Nat)
  | flitError (link : Fin 16) (flit : Nat)
  deriving DecidableEq, Repr
/-- The host port and the links (R469-R476). -/
structure HostPort where
  winctl : BitVec 64 := 0
  routes : Vector (BitVec 64) 16 := Vector.replicate 16 0
  /-- the vector table, each vector masked after reset, and the pending array (log 30) -/
  table : Vector (BitVec 128) 256 := Vector.replicate 256 (1#128 <<< 96)
  pending : BitVec 256 := 0
  /-- messages sent, oldest first: vector, address, data -/
  messages : List (Fin 256 × BitVec 64 × BitVec 32) := []
  mailbox : BitVec 512 := 0
  /-- PHSTAT states of the links; on each the flits that have failed and how often each has been retried (R476); the link that each forwarding slice
  keeps for a peer (R474) -/
  links : Vector (Fin 4) 16 := Vector.replicate 16 1
  retries : Vector (List (Nat × Nat)) 16 := Vector.replicate 16 []
  /-- the flit that each link has under way -/
  flit : Vector Nat 16 := Vector.replicate 16 0
  used : List (Fin 128 × Fin 16 × Fin 16) := []
  /-- completions given to the host, oldest first; none for Unsupported Request -/
  replies : List (Option (List (BitVec 8))) := []
  /-- answers given to peers, oldest first: peer, tag, data or an error -/
  answers : List (Fin 16 × Nat × Option (List (BitVec 8))) := []
  /-- window accesses, tail writes and reads received behind one that waits, in order, each with WINCTL as it was received (R160, R470) -/
  queue : List (BitVec 64 × Input) := []
  /-- WINCTL of the one that goes on now -/
  window : Option (BitVec 64) := none
  deriving DecidableEq, Repr

/-- Stages of throttling (R484): above the cap; teams stopped. -/
structure Power where
  cap : Nat := 2800
  throttled : Bool := false
  /-- since when the average is above the cap plus 10 % -/
  above : Option Nat := none
  stopped : Bool := false
  deriving DecidableEq, Repr
/-- The newel controller (R477-R483). -/
structure Newel where
  power : Power := {}
  /-- the sensor block: 16 + 16 + 3 values (R479) -/
  sensors : Vector (BitVec 16) 35 := Vector.replicate 35 0
  /-- the mailbox as it started the command under way -/
  cmd : BitVec 512 := 0
  /-- cycle in which that command completes, its status, and whether its effect is made -/
  doneAt : Option Nat := none
  status : BitVec 8 := 0
  acted : Bool := false
  /-- what the command still has to write into host memory -/
  out : Option (Nat × List (BitVec 8)) := none
  /-- version of the active firmware, a verified image awaiting reset, and the anti-rollback counter -/
  version : BitVec 64 := 0
  next : Option (BitVec 64) := none
  counter : BitVec 64 := 0
  /-- images in the active and in the inactive firmware slot (R482, R483) -/
  active : List (BitVec 8) := []
  inactive : List (BitVec 8) := []
  /-- records of the log for which an alert has been raised or not (R472) -/
  alerted : Nat := 0
  /-- cores whose retirement the next module reset clears -/
  unretire : List CoreId := []
  /-- corrected errors of each stack since the last record (R449) -/
  corrected : Vector Nat 16 := Vector.replicate 16 0
  deriving DecidableEq, Repr

/-- Whose turn it is in the cycle (log 5). -/
inductive Turn where
  | arrivals
  | brs (c : CoreId)
  | engines
  | ctl (c : CoreId)
  | fabric
  | late (c : CoreId)
  | close
  deriving DecidableEq, Repr

/-- What a bundle sets going although it does not retire. -/
inductive Ask where
  /-- an instruction line that must be fetched -/
  | line (a : VA)
  /-- the same, where the lines named are locked as they arrive (R397) -/
  | preload (lines : List Nat) (a : VA)
  /-- an implicit checkpoint (R42) -/
  | checkpoint
  /-- the interval ends and the wait for earlier accesses begins (R43, R150) -/
  | drain
  /-- a request whose answer the bundle waits for; it ends the interval where the bundle is bracketed -/
  | request (r : Request) (bracketed : Bool)
  /-- `join` closes the period (R390) -/
  | join
  /-- the merge of the task's views begins or resumes (R391, R388) -/
  | merge
  /-- arrival at the flight barrier, with the lines named locked (R397) -/
  | arrive (lines : List Nat)
  deriving DecidableEq, Repr

/-- The bundle being run: the core and stream, the bundle's address and length, the slot and lane group whose instruction runs,
and what its slots have asked for so far. -/
structure Cur where
  core : CoreId := 0
  bcast : Bool := false
  hdr : VA := 0
  len : Nat := 4
  slot : Slot := .a
  group : GroupId := 0
  imm : BitVec 16 := 0
  /-- rot of the lane group before the bundle (R213) -/
  rot : Fin 64 := 0
  /-- lane groups whose entry found E = 0xFF, whether under V1, with space and offset of the header (R251) -/
  rewrites : List (GroupId × Bool × Space × Nat) := []
  /-- last cycle in which a V1 entry of this two-cycle bundle will write (R33, R216) -/
  tail : Nat := 0
  /-- pointer advances of the bundle so far: V1?, producer?, handle, amount (R243) -/
  advances : List (Bool × Bool × Fin 16 × Nat) := []
  /-- the broadcast bundle takes two cycles (R33) -/
  two : Bool := false
  /-- its second cycle: what its V1 entries find was judged at issue -/
  second : Bool := false
  /-- target of a taken transfer -/
  target : Option VA := none
  /-- causes of flight instructions with their rank (R404), a missing vector, and the ports named -/
  flight : List (Nat × TrapInfo) := []
  missing : Option (Fin 4) := none
  taken : List (Fin 4) := []
  /-- what it sets going once nothing else holds it and no slot has a cause, and how it stands meanwhile -/
  ask : Option (Hold × Ask) := none
  /-- returning operations that `eret` performs again and waits for (R188, R201) -/
  awaits : List Nat := []
  hold : Option Hold := none
  trap : Option TrapInfo := none
  deriving DecidableEq, Repr

structure State where
  cycle : Nat := 0
  /-- cycles between power-up and the last module reset, from which CYCLE counts (log 34) -/
  epoch : Nat := 0
  /-- supply power is there (R480) -/
  powered : Bool := true
  /-- what the outside world does, with its cycle, in order (log 7) -/
  inputs : List (Nat × Input) := []
  turn : Turn := .arrivals
  cur : Cur := {}
  /-- the core as it stood before the bundle (R7) -/
  pre : Body := {}
  /-- number of the next free value (log 6) -/
  fresh : Nat := 0
  cores : Vector Core 128 := Vector.replicate 128 {}
  mem : List Host.Cell := []
  -- the memory fabric
  nextId : Nat := 0
  requests : List Request := []
  /-- responses that reached a core from a slice in this cycle (R444) -/
  delivered : List (CoreId × Fin 16) := []
  hall : List HallLine := []
  atrium : List AtriumLine := []
  mtlb : List TlbEntry := []
  fabcfg : FabricConfig := {}
  /-- poisoned physical lines (R449) -/
  poison : List Nat := []
  routers : Vector Router 8 := Vector.replicate 8 {}
  /-- packets that each base die has sent in this period, by class, and the period's number (R462) -/
  sent : Vector (Vector Nat 8) 8 := Vector.replicate 8 (Vector.replicate 8 0)
  period : Nat := 0
  aways : List Away := []
  accesses : List Access := []
  /-- number of the next request that a slice accepts -/
  places : Nat := 0
  migrations : List Migration := []
  /-- vectors on the wires of the flight fabric, and the merge trees of the teams -/
  wires : List Wire := []
  /-- records of the persistent log, oldest first, and how many it has ever held (R480) -/
  log : List LogRecord := []
  logCount : Nat := 0
  nodes : List Node := []
  host : HostPort := {}
  newel : Newel := {}
  usher : Usher := { staged := 2000#512 <<< 416 ||| 100#512 <<< 400 }
  deriving DecidableEq, Repr

/-- The machine after reset (R12, R172, R210, R25; log 3 for values the spec does not state). DESIGN CHOICE (log 3). -/
def State.reset : State := {}

end Sys2Proof.Machine
end

