-- ==== Sys2Proof/Machine/Bits.lean ====
section
/-!
DEFINITION. Byte order (R2), sparse stores in their one canonical form, and small bit helpers that the units share.
-/
namespace Sys2Proof.Machine

/-! Little-endian bytes (R2) -/

/-- The n low bytes of v, lowest first. -/
def bytesLE : Nat → Nat → List (BitVec 8)
  | 0, _ => []
  | n + 1, v => BitVec.ofNat 8 v :: bytesLE n (v / 256)
/-- The value of bytes, lowest first. -/
def natLE : List (BitVec 8) → Nat
  | [] => 0
  | b :: bs => b.toNat + 256 * natLE bs

/-! Sparse stores: an unlisted key reads as a default, strictly rising keys, no entry equal to the default -/

/-- DESIGN CHOICE (log 4). -/
def lookup {α : Type} : Sparse α → Nat → Option α
  | [], _ => none
  | (k, v) :: m, a => if k = a then some v else lookup m a
/-- Every entry of the key removed. -/
def eraseKey {α : Type} : Sparse α → Nat → Sparse α
  | [], _ => []
  | (k, v) :: m, a => if k = a then eraseKey m a else (k, v) :: eraseKey m a
/-- The entry put before the first greater key. -/
def insertKey {α : Type} : Sparse α → Nat → α → Sparse α
  | [], a, x => [(a, x)]
  | (k, v) :: m, a, x => if a < k then (a, x) :: (k, v) :: m else (k, v) :: insertKey m a x
/-- What key a reads as. DESIGN CHOICE (log 4). -/
def sget {α : Type} (d : α) (m : Sparse α) (a : Nat) : α := (lookup m a).getD d
/-- Key a written: writing the default removes the entry. -/
def sset {α : Type} [DecidableEq α] (d : α) (m : Sparse α) (a : Nat) (x : α) : Sparse α :=
  if x = d then eraseKey m a else insertKey (eraseKey m a) a x
/-- The canonical form: keys strictly rising from `low`, no entry equal to the default. -/
def canonFrom {α : Type} [DecidableEq α] (d : α) : Nat → Sparse α → Bool
  | _, [] => true
  | low, (k, v) :: m => decide (low ≤ k) && decide (v ≠ d) && canonFrom d (k + 1) m
def canon {α : Type} [DecidableEq α] (d : α) (m : Sparse α) : Bool := canonFrom d 0 m

/-- n bytes from offset a. DESIGN CHOICE (log 4). -/
def readBytes (m : Sparse (BitVec 8)) (a : Nat) : Nat → List (BitVec 8)
  | 0 => []
  | n + 1 => sget 0 m a :: readBytes m (a + 1) n
/-- Bytes written from offset a upward. -/
def writeBytes (m : Sparse (BitVec 8)) (a : Nat) : List (BitVec 8) → Sparse (BitVec 8)
  | [] => m
  | b :: bs => writeBytes (sset 0 m a b) (a + 1) bs
/-- Single bytes written in list order. -/
def writeCells (m : Sparse (BitVec 8)) : List (Nat × BitVec 8) → Sparse (BitVec 8)
  | [] => m
  | (a, b) :: bs => writeCells (sset 0 m a b) bs

/-! Vectors without loops the kernel cannot run -/

def Vec.map {α β : Type} {n : Nat} (f : α → β) (v : Vector α n) : Vector β n := ⟨⟨v.toList.map f⟩, by simp⟩
def Vec.ofFn {α : Type} {n : Nat} (f : Fin n → α) : Vector α n := ⟨⟨(List.finRange n).map f⟩, by simp⟩
def Vec.modify {α : Type} {n : Nat} (v : Vector α n) (i : Fin n) (f : α → α) : Vector α n := v.set i (f v[i])

/-- Bits counted from the least significant. -/
def popCount {w : Nat} (x : BitVec w) : Nat := ((List.range w).filter fun i => x.getLsbD i).length
/-- Leading zero bits. -/
def leadingZeros {w : Nat} (x : BitVec w) : Nat := w - (if x = 0 then 0 else Nat.log2 x.toNat + 1)
def trailingFrom {w : Nat} (x : BitVec w) : Nat → Nat → Nat
  | 0, i => i
  | n + 1, i => if x.getLsbD i then i else trailingFrom x n (i + 1)
/-- Trailing zero bits. -/
def trailingZeros {w : Nat} (x : BitVec w) : Nat := trailingFrom x w 0

/-- An integer as n bits (R5: the low n bits of its two's complement). -/
def bits64 (z : Int) : BitVec 64 := BitVec.ofInt 64 z

/-! Codes -/

/-- R49. -/
def Cause.code : Cause → BitVec 8
  | .illegalBundle => 0x01 | .slotConflict => 0x02 | .illegalOp => 0x03 | .misaligned => 0x04 | .translation => 0x05
  | .protection => 0x06 | .spawnBusy => 0x07 | .landingOverdue => 0x08 | .tableRefused => 0x09 | .flipRefused => 0x0A
  | .flipLate => 0x0B | .tokenMisuse => 0x0C | .planeRewriteTimeout => 0x0D | .mergeFault => 0x0E | .phaserState => 0x0F
  | .participantRange => 0x10 | .flightSlip => 0x11 | .stackBounds => 0x12 | .journalOverflow => 0x13 | .syscall => 0x14
  | .brk => 0x15 | .machineCheck => 0x16

/-- R129. -/
def Space.code : Space → BitVec 4
  | .wb => 1 | .ab => 2 | .acc => 3 | .gal => 4 | .glb => 5 | .tbl => 6
def Space.ofCode (c : Nat) : Option Space :=
  match c with
  | 1 => some .wb | 2 => some .ab | 3 => some .acc | 4 => some .gal | 5 => some .glb | 6 => some .tbl
  | _ => none
/-- Bytes of a space as a copy sees it (R13); TBL counts entries. -/
def Space.size : Space → Nat
  | .wb => 0x600000 | .ab => 0x400000 | .acc => 0x300000 | .gal => 0x200000 | .glb => 2 ^ 56 | .tbl => 24576

/-- Slot codes of TSTAT (R174). -/
def slotCode : Slot → Fin 16
  | .a => 0 | .g => 1 | .l => 2 | .x => 3 | .m => 4 | .c0 => 5 | .c1 => 6 | .k => 7 | .v0 => 8 | .v1 => 9 | .q => 10

end Sys2Proof.Machine
end

