-- ==== Sys2Proof/Machine/Flags.lean ====
section
/-!
DEFINITION. Conditions and integer functions: the compares of R178, R180 and R277, the integer operations of R176, R177 and R276.
The machine keeps no condition flags; a compare writes a predicate.
-/
namespace Sys2Proof.Machine

/-- Conditions of `cmpi` (R180) and `icmp` (R277): 0 eq, 1 ne, 2 lt, 3 ltu, 4 le, 5 leu, 6 gt, 7 gtu. -/
def intCond {w : Nat} (c : BitVec 3) (a b : BitVec w) : Bool :=
  match c.toNat with
  | 0 => a == b
  | 1 => a != b
  | 2 => a.slt b
  | 3 => a.ult b
  | 4 => a.sle b
  | 5 => a.ule b
  | 6 => b.slt a
  | _ => b.ult a

/-- `plog`: bit 2 * pa + pb of the truth table (R178). -/
def truthTable (tt : BitVec 4) (a b : Bool) : Bool := tt.getLsbD ((if a then 2 else 0) + (if b then 1 else 0))

/-- R177: division never traps. -/
def divS (a b : BitVec 64) : BitVec 64 := if b = 0 then BitVec.allOnes 64 else a.sdiv b
def divU (a b : BitVec 64) : BitVec 64 := if b = 0 then BitVec.allOnes 64 else a.udiv b
def remS (a b : BitVec 64) : BitVec 64 := if b = 0 then a else a.srem b
def remU (a b : BitVec 64) : BitVec 64 := if b = 0 then a else a.umod b
/-- Bits [127:64] of the exact product. -/
def mulHighS (a b : BitVec 64) : BitVec 64 := BitVec.ofInt 64 (a.toInt * b.toInt / 2 ^ 64)
def mulHighU (a b : BitVec 64) : BitVec 64 := BitVec.ofNat 64 (a.toNat * b.toNat / 2 ^ 64)
def minS {w : Nat} (a b : BitVec w) : BitVec w := if a.slt b then a else b
def maxS {w : Nat} (a b : BitVec w) : BitVec w := if a.slt b then b else a
def minU {w : Nat} (a b : BitVec w) : BitVec w := if a.ult b then a else b
def maxU {w : Nat} (a b : BitVec w) : BitVec w := if a.ult b then b else a
/-- Shifts by the low bits of b (R176, R276). -/
def shl {w : Nat} (a : BitVec w) (n : Nat) : BitVec w := a <<< n
def shr {w : Nat} (a : BitVec w) (n : Nat) : BitVec w := a >>> n
def sar {w : Nat} (a : BitVec w) (n : Nat) : BitVec w := a.sshiftRight n
/-- The low 6 bits of a shift operand. -/
def low6 (b : BitVec 64) : Nat := (b.extractLsb' 0 6).toNat
/-- A narrow field as 64 bits: codes 0, 1, 2 for 8, 16, 32 bits (R179). -/
def extend (signed : Bool) (fn : BitVec 4) (a : BitVec 64) : BitVec 64 :=
  match fn.toNat with
  | 0 => if signed then (a.extractLsb' 0 8).signExtend 64 else (a.extractLsb' 0 8).zeroExtend 64
  | 1 => if signed then (a.extractLsb' 0 16).signExtend 64 else (a.extractLsb' 0 16).zeroExtend 64
  | _ => if signed then (a.extractLsb' 0 32).signExtend 64 else (a.extractLsb' 0 32).zeroExtend 64

end Sys2Proof.Machine
end

