-- ==== Sys2Proof/Machine/Ops.lean ====
section
/-!
DEFINITION. The named operations on the state: registers, predicates, flags, queues, local spaces, traps. Every meaning reads and
writes the state through them.
-/
namespace Sys2Proof.Machine

/-- What a meaning answers: here always a next state. -/
abbrev Result := Host.Outcome State Fault Refusal

/-! Cores -/

def State.body (s : State) (c : CoreId) : Body := s.cores[c].b
def State.modBody (s : State) (c : CoreId) (f : Body → Body) : State :=
  { s with cores := Vec.modify s.cores c fun k => { k with b := f k.b } }
/-- The core whose bundle is being run. -/
def State.me (s : State) : Body := s.body s.cur.core
def State.modMe (s : State) (f : Body → Body) : State := s.modBody s.cur.core f
def State.modGroup (s : State) (g : GroupId) (f : Group → Group) : State :=
  s.modMe fun b => { b with groups := Vec.modify b.groups g f }

/-! Registers of the control sequencer (R169). Reads see the state before the bundle (R7). -/

/-- g[r]; g0 reads 0. -/
def State.rg (s : State) (r : Reg) : BitVec 64 := if r.val = 0 then 0 else s.pre.g[r]
/-- p[r]; p0 reads true. -/
def State.rp (s : State) (r : PReg) : Bool := if r.val = 0 then true else s.pre.p[r]
/-- A slot acts when its predicate, inverted if neg, is true (R61). -/
def State.acts (s : State) (q : Qual) : Bool := s.rp q.p != q.neg
/-- Predicate of an A-imm12 word: p0..p3, never inverted. -/
def State.actsP (s : State) (p : Fin 4) : Bool := s.rp ⟨p.val, Nat.lt_trans p.isLt (by decide)⟩

/-- DEDUCED (log 10). -/
def Body.setG (b : Body) (r : Reg) (v : BitVec 64) (ready : Nat) : Body :=
  if r.val = 0 then b else { b with g := b.g.set r v, gReady := b.gReady.set r ready, awaited := b.awaited.filter (·.reg != r) }
/-- g[r] := v, readable `lat` cycles after issue (R170); writes to g0 are discarded. -/
def State.wg (s : State) (r : Reg) (v : BitVec 64) (lat : Nat := 1) : State :=
  s.modMe fun b => b.setG r v (s.cycle + lat)
/-- p[r] := v; writes to p0 are discarded. -/
def State.wp (s : State) (r : PReg) (v : Bool) (lat : Nat := 1) : State :=
  if r.val = 0 then s
  else s.modMe fun b => { b with p := b.p.set r v, pReady := b.pReady.set r (s.cycle + lat) }

/-! Traps, holds and transfers of the bundle being run -/

/-- trap(CAUSE): the first cause of the bundle stays (R6, R50). Entries report their lane group; ILLEGAL_BUNDLE names the whole bundle (R174). -/
def State.raise (s : State) (cause : Cause) (taddr : BitVec 64 := 0) (aux : BitVec 10 := 0) : State :=
  match s.cur.trap with
  | some _ => s
  | none =>
    let g : Fin 32 := match s.cur.slot with
      | .v0 | .v1 => ⟨s.cur.group.val, Nat.lt_trans s.cur.group.isLt (by decide)⟩
      | _ => 31
    { s with cur := { s.cur with trap := some { cause, aux, taddr, slot := if cause = .illegalBundle then 15 else slotCode s.cur.slot, group := g } } }
/-- The bundle does not issue in this cycle; a stall prevails over a pre-emptible wait. -/
def State.holdFor (s : State) (h : Hold) : State :=
  match s.cur.hold with
  | some .stall => s
  | _ => { s with cur := { s.cur with hold := some h } }
/-- Of two things that a bundle sets going the one that comes first: a returning operation is sent when drains, joins and merges are over, so
that every cause of the bundle is found before (R6). -/
def Ask.first (x y : Hold × Ask) : Hold × Ask :=
  match x.2, y.2 with
  | .request .., .drain | .request .., .join | .request .., .merge => y
  | _, _ => x
/-- The bundle sets something going and stands meanwhile. It is done only where no slot holds the bundle and none has a cause (R6). -/
def State.askFor (s : State) (h : Hold) (a : Ask) : State :=
  { s with cur := { s.cur with ask := some (match s.cur.ask with
    | some x => Ask.first x (h, a)
    | none => (h, a)) } }
/-- A taken transfer (R56). -/
def State.goto (s : State) (t : VA) : State := { s with cur := { s.cur with target := some t } }
/-- A free value: the counter advances. DESIGN CHOICE (log 6). -/
def State.nextFree (s : State) : Nat × State := (s.fresh, { s with fresh := s.fresh + 1 })

/-! Local spaces -/

def Body.space (b : Body) : Space → Sparse (BitVec 8)
  | .wb => b.wb
  | .ab => b.ab
  | .acc => b.acc
  | .gal => b.gal
  | .glb => []
  | .tbl => []
def Body.setSpace (b : Body) (sp : Space) (m : Sparse (BitVec 8)) : Body :=
  match sp with
  | .wb => { b with wb := m }
  | .ab => { b with ab := m }
  | .acc => { b with acc := m }
  | .gal => { b with gal := m }
  | .glb => b
  | .tbl => b
/-- n bytes of a local space from offset a. DESIGN CHOICE (log 4). -/
def Body.read (b : Body) (sp : Space) (a n : Nat) : List (BitVec 8) := readBytes (b.space sp) a n
def Body.write (b : Body) (sp : Space) (a : Nat) (bs : List (BitVec 8)) : Body := b.setSpace sp (writeBytes (b.space sp) a bs)
/-- Position of a slot in the order of R130. -/
def slotPos (sl : Slot) (g : GroupId) : Nat :=
  match sl with
  | .a => 0 | .g => 1 | .l => 2 | .x => 3 | .m => 4 | .c0 => 5 | .c1 => 6 | .k => 7
  | .v0 => 8 + g.val | .v1 => 32 + g.val | .q => 56 + g.val
/-- The source of the writes of the instruction under way; `engine` for a command it starts. -/
def State.src (s : State) (engine : Bool := false) : Src :=
  let n := if s.cur.bcast then s.pre.bcastCount else s.pre.ctlCount
  ⟨(if s.cur.bcast then 1 else 0) + (if engine then 2 else 0), n, slotPos s.cur.slot s.cur.group⟩
/-- A write performed at the end of this cycle, ranked by R138. -/
def State.later (s : State) (rank : Nat) (sp : Space) (off : Nat) (bs : List (BitVec 8)) : State :=
  s.modMe fun b => { b with locals := b.locals ++ [⟨rank, sp, off, bs, s.src, [], false⟩] }

/-! Write records (R46, R130) -/

/-- The record of one aligned unit of 8 bytes. -/
def unitRecord (src : Src) (space : BitVec 8) (cells : List (Nat × BitVec 8)) (u : Nat) : WriteRec :=
  let mine := cells.filter fun c => c.1 / 8 == u
  ⟨src, space, BitVec.ofNat 64 (8 * u),
    mine.foldl (fun (m : BitVec 8) (c : Nat × BitVec 8) => m ||| (1#8 <<< (c.1 % 8))) 0#8,
    mine.foldl (fun (d : BitVec 64) (c : Nat × BitVec 8) =>
      (d &&& ~~~(0xFF#64 <<< (8 * (c.1 % 8)))) ||| ((BitVec.setWidth 64 c.2) <<< (8 * (c.1 % 8)))) 0#64⟩
/-- The records of a write of single bytes: one for each aligned unit that it reaches. -/
def byteRecords (src : Src) (space : BitVec 8) (cells : List (Nat × BitVec 8)) : List WriteRec :=
  ((cells.map (·.1 / 8)).eraseDups).map (unitRecord src space cells)
/-- The record of a register unit of n bytes. -/
def registerRecord (src : Src) (unit n : Nat) (v : BitVec 64) : WriteRec := ⟨src, 0, BitVec.ofNat 64 unit, BitVec.ofNat 8 (2 ^ n - 1), v⟩
def Body.logWrites (b : Body) (rs : List WriteRec) : Body := { b with writes := b.writes ++ rs }
/-- [a, a + n) lies inside the space (R14, R133). -/
def inSpace (sp : Space) (a n : Nat) : Bool := decide (a + n ≤ sp.size)

/-! Statistics queue (R207, R208) -/

/-- A record: kind, stream, group (31 for none), lane, space, bundle address, detail. -/
def statRecord (kind : BitVec 8) (stream : Bool) (group : BitVec 5) (lane : BitVec 6) (space : BitVec 4) (baddr : VA)
    (detail : BitVec 48) : StatRec :=
  kind ++ BitVec.ofBool stream ++ group ++ lane ++ space ++ 0#2 ++ baddr.extractLsb' 2 54 ++ detail
/-- Posts a record; a full queue drops it and counts the drop (R207). -/
def Body.post (b : Body) (r : StatRec) : Body :=
  if b.stq.length < 256 then { b with stq := b.stq ++ [r] }
  else if b.sys.stqDrop = BitVec.allOnes 32 then b
  else { b with sys := { b.sys with stqDrop := b.sys.stqDrop + 1 } }
/-- A record posted in this cycle; it enters the queue at the end of the cycle, in the order of R207. -/
def Body.postAt (b : Body) (rank : Nat) (r : StatRec) : Body := { b with posts := b.posts ++ [(rank, r)] }
def State.post (s : State) (r : StatRec) : State := s.modMe (·.postAt 0 r)

/-! Flags and queues (R140, R197, R199) -/

/-- Flag n set or cleared at the end of cycle `due` (R63). -/
def State.flagAt (s : State) (n : Fin 16) (set : Bool) (due : Nat) : State :=
  s.modMe fun b => { b with flagOps := b.flagOps ++ [⟨n, set, due⟩] }
/-- The end of the first cycle by which every write of the entries of this bundle and of earlier ones is performed (R140, R216). -/
def State.releaseAt (s : State) : Nat := s.me.pend.foldl (fun m w => max m w.due) (max s.cycle s.cur.tail)

/-! Instruction memory (R55-R57) -/

/-- The word at an address in the instruction cache of a stream, if its line is present. -/
def Core.cachedWord (k : Core) (bcast : Bool) (a : VA) : Option (BitVec 32) :=
  (lookup (if bcast then k.bicache else k.icache) (a.toNat / 128)).map fun line =>
    BitVec.ofNat 32 (natLE ((line.drop (a.toNat % 128)).take 4))
/-- The words from an address upward, or the address of the first one that is not in the cache. -/
def Core.cachedWords (k : Core) (bcast : Bool) (a : VA) : Nat → Except VA (List (BitVec 32))
  | 0 => .ok []
  | n + 1 =>
    match k.cachedWord bcast a with
    | none => .error a
    | some w =>
      match k.cachedWords bcast (a + 4) n with
      | .ok ws => .ok (w :: ws)
      | .error e => .error e
/-- The bundle is held until the line of an instruction word has come; that comes before anything else it asks for. -/
def State.wantLine (s : State) (a : VA) : State :=
  let s := s.holdFor .stall
  { s with cur := { s.cur with ask := some (.stall, .line a) } }

/-! Taking a trap and returning from one (R51, R204, R201) -/

/-- TSTAT of a trap: replay, bres, stream, parked, slot, group, reserved, handler (R174). -/
def tstatWord (replay bres stream parked : Bool) (slot : Fin 16) (group : Fin 32) : BitVec 16 :=
  BitVec.ofBool replay ++ BitVec.ofBool bres ++ BitVec.ofBool stream ++ BitVec.ofBool parked ++ BitVec.ofFin (w := 4) slot ++
    BitVec.ofFin (w := 5) group ++ 0#3
/-- Taking a trap: TCAUSE, TADDR, TBADDR, TRET, TSTAT, handler mode, the control stream at TVEC. In handler mode it is a double trap,
which stops the core and faults the team (R52); so does any trap of a team without a handler (R425). DEDUCED (log 42). -/
def Body.takeTrap (b : Body) (t : TrapInfo) (baddr tret : VA) (replay bres stream parked : Bool) : Body :=
  if b.handler ∨ b.noHandler then
    { b with teamFault := some ⟨t.cause, 15, t.taddr, baddr, if b.handler then some (b.sys.tcause, b.sys.tbaddr) else none⟩ }
  else
    { b with
      handler := true
      pc := b.sys.tvec.extractLsb' 0 56
      fold := 0
      sys := { b.sys with
        tcause := t.aux ++ t.cause.code
        taddr := t.taddr.extractLsb' 0 56
        tbaddr := baddr
        tret := tret &&& ~~~3#56
        tstat := tstatWord replay bres stream parked t.slot t.group } }

/-! The undo journal of returned values (R44, R45) -/

/-- The journal entry of the next read, with the value it holds in a rerun; a flight phase records nothing (R401). -/
def Core.journalRead (k : Core) : Nat × Option (BitVec 64) × Core :=
  let e := k.journalNext
  if k.b.inPhase then (k.journal.length, none, k) else (e, (k.journal.getD e none), { k with
    journalNext := e + 1, journal := if e < k.journal.length then k.journal else k.journal ++ [none] })
def Core.journalSet (k : Core) (e : Nat) (v : BitVec 64) : Core := { k with journal := k.journal.set e (some v) }
/-- A value that is known at once: in a rerun the journalled one, else v, which the journal records. -/
def State.journalled (s : State) (v : BitVec 64) : BitVec 64 × State :=
  let r := s.cores[s.cur.core].journalRead
  match r.2.1 with
  | some x => (x, { s with cores := s.cores.set s.cur.core r.2.2 })
  | none => (v, { s with cores := s.cores.set s.cur.core (r.2.2.journalSet r.1 v) })
/-- Returned values that the interval has journalled, in units of 8 bytes. -/
def Core.journalValues (k : Core) : Nat :=
  k.journal.length + (k.copyLog.toList.map fun rows => (rows.map fun r => (r.length + 7) / 8).sum).sum
/-- The local line that a write record reaches: of WB, AB, ACC or GAL, of a group table, or of the matrix registers (R44); none for GLB and
for registers that a checkpoint records, but that the write of `sgw` is journalled (R190). -/
def WriteRec.line (w : WriteRec) : Option (Nat × Nat) :=
  match w.space.toNat with
  | 0 => if w.off.toNat < 0x60000 ∨ (w.src.kind = 0 ∧ w.src.pos = 2) then some (0, w.off.toNat / 32) else none
  | 5 => none
  | 6 => some (6, w.off.toNat / 16)
  | n => some (n, w.off.toNat / 128)
/-- Local lines that the interval has written, with those of stationary stores and nest registers (R44, R297); a flight phase journals
nothing (R401). DEDUCED (log 37). -/
def Body.journalLines (b : Body) : Nat :=
  if b.inPhase then 0
  else (((b.writes.drop b.journalFrom).filterMap (·.line)).eraseDups).length + b.tileLines.length
/-- A tile writes lines of its stores or nest registers, numbered as in its save area (R297). -/
def Body.journalTile (b : Body) (g : GroupId) (lines : List Nat) : Body :=
  if b.inPhase then b
  else { b with tileLines := (b.tileLines ++ lines.map fun l => (g, l)).eraseDups }

/-- Bytes of the undo journal in use: none where nothing is journalled (R44, R172); what the records take is free (log 6). DEDUCED (log 37). -/
def journalUse (lines values : Nat) : Nat := if lines = 0 ∧ values = 0 then 0 else Config.journalBytes lines values

/-- Cycles in which a copy, transform or merge unit hands out n lines (R313, R484). DEDUCED (log 35). -/
def State.lineCycles (s : State) (n : Nat) : Nat := if s.newel.power.throttled then 2 * n else n

end Sys2Proof.Machine
end

