-- ==== Sys2Proof/Machine/XSlot.lean ====
section
/-!
DEFINITION. The X slot (R191-R203): transfers, hardware loops, flags and queues, system registers, traps, the statistics queue.
`eret`, `flbar` and `flend` stand with the units they act on.
-/
namespace Sys2Proof.Machine

/-- H + 4 * sext(off22, 22) (R191). -/
def branchTarget (h : VA) (off : BitVec 22) : VA := h + off.signExtend 56 * 4
/-- The address of the next bundle. -/
def State.nextBundle (s : State) : VA := s.cur.hdr + BitVec.ofNat 56 s.cur.len
def execBr (q : Qual) (off : BitVec 22) (s : State) : Result :=
  .next (if s.acts q then s.goto (branchTarget s.cur.hdr off) else s)
def execCall (q : Qual) (off : BitVec 22) (s : State) : Result :=
  .next (if s.acts q then (s.goto (branchTarget s.cur.hdr off)).wg 1 (s.nextBundle.zeroExtend 64) else s)

/-- A register-indirect transfer: MISALIGNED, then PROTECTION, else `k` at the target (R56, R192). -/
def jumpTo (t : BitVec 64) (k : State → State) (s : State) : State :=
  if t.extractLsb' 0 2 ≠ 0#2 then s.raise .misaligned t
  else if t.extractLsb' 56 8 ≠ 0#8 then s.raise .protection t
  else k (s.goto (t.extractLsb' 0 56))
def execJr (q : Qual) (a : Reg) (s : State) : Result := .next (if s.acts q then jumpTo (s.rg a) id s else s)
def execJalr (q : Qual) (a b : Reg) (s : State) : Result :=
  .next (if s.acts q then jumpTo (s.rg a) (fun s => s.wg b (s.nextBundle.zeroExtend 64)) s else s)

/-! Hardware loops (R193-R195) -/

/-- The stack without the entry of lc and every entry above it. -/
def dropLoop (lc : Fin 4) (l : List LoopEntry) : List LoopEntry :=
  if l.any (·.lc == lc) then (l.dropWhile (·.lc != lc)).drop 1 else l
def Body.clearSteps (b : Body) (lc : Fin 4) : Body := { b with steps := b.steps.set lc (Vector.replicate 4 none) }
def execLoop (lc : Fin 4) (count : Reg) (last : BitVec 18) (s : State) : Result :=
  .next (if s.pre.handler then s.raise .illegalOp
  else
    let e : VA := s.cur.hdr + last.zeroExtend 56 * 4
    let n := s.rg count
    if n = 0 then
      match s.cores[s.cur.core].cachedWord false e with
      | none => s.wantLine e
      | some h =>
        match ctlLength h with
        | none => s.raise .illegalBundle
        | some len => (s.modMe fun b =>
            { b.clearSteps lc with loops := dropLoop lc b.loops, lc := b.lc.set lc 0 }).goto (e + BitVec.ofNat 56 len)
    else s.modMe fun b => { b with loops := ⟨lc, s.nextBundle, e⟩ :: dropLoop lc b.loops, lc := b.lc.set lc n })
def execLpstep (q : Qual) (lc slot : Fin 4) (a b : Reg) (s : State) : Result :=
  .next (if s.acts q then
    if s.pre.handler then s.raise .illegalOp
    else s.modMe fun m => { m with steps := m.steps.set lc ((m.steps[lc]).set slot (if a.val = 0 then none else some (a, s.rg b))) }
  else s)

/-- The steps of a completed pass (R194). -/
def Body.stepLoop (b : Body) (lc : Fin 4) (ready : Nat) : Body :=
  (b.steps[lc]).toList.foldl (fun b st => match st with
    | some (r, v) => b.setG r ((if r.val = 0 then 0 else b.g[r]) + v) ready
    | none => b) b
/-- Loop-end processing at the address of the retiring bundle: the body's new state and the next bundle; n bounds the nesting. -/
def Body.loopEnd (b : Body) (here next : VA) (ready : Nat) : Nat → Body × VA
  | 0 => (b, next)
  | n + 1 =>
    match b.loops with
    | [] => (b, next)
    | top :: rest =>
      if top.stop ≠ here then (b, next)
      else
        let b := b.stepLoop top.lc ready
        if 1#64 < b.lc[top.lc] then ({ b with lc := b.lc.set top.lc (b.lc[top.lc] - 1) }, top.start)
        else Body.loopEnd { (b.clearSteps top.lc) with lc := b.lc.set top.lc 0, loops := rest } here next ready n

/-! Waits, flags, queues (R196-R199) -/

/-- The tokens or flags of a mask, in rising order. -/
def maskMembers (m : BitVec 16) : List (Fin 16) := (List.finRange 16).filter fun i => m.getLsbD i
def oneBit (n : Fin 16) : BitVec 16 := 1#16 <<< n.val
/-- A token is busy while an incomplete command carries it (R145). -/
def Body.tokenBusy (b : Body) (n : Fin 16) : Bool := b.commands.any fun c => c.tok == some n
/-- `waitf`: holds as a pre-emptible wait until every named flag is set. -/
def waitFlags (m : BitVec 16) (s : State) : State :=
  if (maskMembers m).all (fun n => s.pre.flags[n]) then s else s.holdFor .wait
def execWaitf (q : Qual) (n : Fin 16) (s : State) : Result := .next (if s.acts q then waitFlags (oneBit n) s else s)
def execWaitfMask (q : Qual) (a : Reg) (s : State) : Result :=
  .next (if s.acts q then waitFlags ((s.rg a).extractLsb' 0 16) s else s)
/-- `waitk`: holds as a pre-emptible wait until every named token is idle. -/
def waitTokens (m : BitVec 16) (s : State) : State :=
  if (maskMembers m).any (fun n => s.pre.tokenBusy n) then s.holdFor .wait else s
def execWaitk (q : Qual) (n : Fin 16) (s : State) : Result := .next (if s.acts q then waitTokens (oneBit n) s else s)
def execWaitkMask (q : Qual) (a : Reg) (s : State) : Result :=
  .next (if s.acts q then waitTokens ((s.rg a).extractLsb' 0 16) s else s)
/-- Every named flag set or cleared when the bundle retires: at the end of the cycle (R63, R197). -/
def changeFlags (set : Bool) (m : BitVec 16) (s : State) : State :=
  (maskMembers m).foldl (fun s n => s.flagAt n set s.cycle) s
def execSetf (q : Qual) (n : Fin 16) (s : State) : Result := .next (if s.acts q then changeFlags true (oneBit n) s else s)
def execSetfMask (q : Qual) (a : Reg) (s : State) : Result :=
  .next (if s.acts q then changeFlags true ((s.rg a).extractLsb' 0 16) s else s)
def execClrf (q : Qual) (n : Fin 16) (s : State) : Result := .next (if s.acts q then changeFlags false (oneBit n) s else s)
def execClrfMask (q : Qual) (a : Reg) (s : State) : Result :=
  .next (if s.acts q then changeFlags false ((s.rg a).extractLsb' 0 16) s else s)

/-- The broadcast sequencer runs: its first bundle issues in the next cycle, or when the fetches it waits for are delivered (R198, R256). -/
def Body.startBroadcast (b : Body) (now : Nat) : Body := { b with brun := true, bnext := max b.bnext (now + 1) }
/-- R198: a = 0 resumes at the broadcast counter; otherwise the counter is set first. The first bundle issues in the next cycle. -/
def execBstart (q : Qual) (a : Reg) (s : State) : Result :=
  .next (if s.acts q then
    if s.pre.brun then s
    else if a.val = 0 then
      if s.pre.bpcUnset then s.raise .illegalOp
      else s.modMe (·.startBroadcast s.cycle)
    else if (s.rg a).extractLsb' 0 2 ≠ 0#2 then s.raise .misaligned (s.rg a)
    else s.modMe fun b => { b.startBroadcast s.cycle with bpc := (s.rg a).extractLsb' 0 56, bpcUnset := false, bfold := 0, bretries := 0 }
  else s)
/-- No broadcast bundle issues after this cycle; the counter keeps the address of the bundle next to issue. -/
def Body.stopBroadcast (b : Body) : Body := { b with brun := false, bretryAt := none, bretries := 0, bheld := [] }
def execBstop (q : Qual) (s : State) : Result := .next (if s.acts q then s.modMe Body.stopBroadcast else s)
def execPushq (q : Qual) (a : Reg) (s : State) : Result :=
  .next (if s.acts q then
    if 64 ≤ s.pre.ctq.length then s.holdFor .stall
    else s.modMe fun b => { b with ctq := b.ctq ++ [s.rg a] }
  else s)
/-- The oldest btq entry, once it is poppable (R140). -/
def execPopq (q : Qual) (a : Reg) (s : State) : Result :=
  .next (if s.acts q then
    match s.pre.btq with
    | e :: _ => if e.due < s.cycle then (s.modMe fun b => { b with btq := b.btq.drop 1 }).wg a e.value else s.holdFor .wait
    | [] => s.holdFor .wait
  else s)

/-! System registers (R171, R172, R203) -/

inductive SrAccess where
  | r | rh | rw
  deriving DecidableEq, Repr
/-- The map of R172: access, or none for a number it does not list. -/
def srAccess (n : BitVec 12) : Option SrAccess :=
  match n.toNat with
  | 0x000 | 0x001 | 0x002 | 0x003 | 0x004 | 0x005 | 0x009 | 0x018 | 0x019 => some .r
  | 0x008 | 0x010 | 0x011 | 0x012 | 0x013 | 0x014 | 0x015 | 0x01A | 0x020 | 0x021 | 0x022 | 0x023 => some .rh
  | 0x00A | 0x00B => some .rw
  | _ => none
/-- The value of a system register other than CYCLE. -/
def State.readSr (s : State) (n : BitVec 12) : BitVec 64 :=
  let y := s.pre.sys
  let k := s.cores[s.cur.core]
  match n.toNat with
  | 0x001 => BitVec.ofNat 64 s.cur.core.val
  | 0x002 => y.teamId
  | 0x003 => y.taskId
  | 0x004 => y.teamCores
  | 0x005 => y.asn.zeroExtend 64
  | 0x008 => y.landMax.zeroExtend 64
  | 0x009 => y.landCnt.zeroExtend 64
  | 0x00A => y.flipAt
  | 0x00B => y.arm.zeroExtend 64
  | 0x010 => y.tvec
  | 0x011 => y.tcause.zeroExtend 64
  | 0x012 => y.taddr.zeroExtend 64
  | 0x013 => y.tbaddr.zeroExtend 64
  | 0x014 => (y.tstat &&& 0xFFF8#16 ||| (BitVec.ofBool s.pre.handler).zeroExtend 16).zeroExtend 64
  | 0x015 => y.tret.zeroExtend 64
  | 0x018 => BitVec.ofNat 64 (min 262144 (journalUse s.pre.journalLines k.journalValues))
  | 0x019 => BitVec.ofNat 64 s.pre.stq.length
  | 0x01A => y.stqDrop.zeroExtend 64
  | 0x020 => s.pre.lc[0]
  | 0x021 => s.pre.lc[1]
  | 0x022 => s.pre.lc[2]
  | 0x023 => s.pre.lc[3]
  | _ => 0
/-- LANDMAX keeps bits [15:0], and 65 535 for 0 (R35, R206). -/
def landMaxOf (v : BitVec 64) : BitVec 16 := if v.extractLsb' 0 16 = 0#16 then 65535 else v.extractLsb' 0 16
/-- A write of a system register; bits outside its contents are ignored. -/
def Body.writeSr (b : Body) (n : BitVec 12) (v : BitVec 64) : Body :=
  let y := b.sys
  match n.toNat with
  | 0x008 => { b with sys := { y with landMax := landMaxOf v } }
  | 0x00A => { b with sys := { y with flipAt := v } }
  | 0x00B => { b with sys := { y with arm := v.extractLsb' 0 2 } }
  | 0x010 => { b with sys := { y with tvec := v &&& ~~~3#64 } }
  | 0x011 => { b with sys := { y with tcause := v.extractLsb' 0 18 } }
  | 0x012 => { b with sys := { y with taddr := v.extractLsb' 0 56 } }
  | 0x013 => { b with sys := { y with tbaddr := v.extractLsb' 0 56 } }
  | 0x014 => { b with sys := { y with tstat := v.extractLsb' 0 16 &&& 0xFFF8#16 } }
  | 0x015 => { b with sys := { y with tret := v.extractLsb' 0 56 &&& ~~~3#56 } }
  | 0x01A => { b with sys := { y with stqDrop := v.extractLsb' 0 32 } }
  | 0x020 => { b with lc := b.lc.set 0 v }
  | 0x021 => { b with lc := b.lc.set 1 v }
  | 0x022 => { b with lc := b.lc.set 2 v }
  | 0x023 => { b with lc := b.lc.set 3 v }
  | _ => b
/-- The cycle in which the bundle has issued: this one, but for a bundle that waits for an answer or a drain (R7, R29). -/
def State.issueCycle (s : State) : Nat := ((s.cores[s.cur.core].issued).map (·.1)).getD s.cycle
def execMfsr (q : Qual) (a : Reg) (sr : BitVec 12) (s : State) : Result :=
  .next (if s.acts q then
    match srAccess sr with
    | none => s.raise .illegalOp
    | some _ =>
      if sr = 0x000#12 then
        let r := s.journalled (BitVec.ofNat 64 s.issueCycle)
        r.2.wg a r.1
      else s.wg a (s.readSr sr)
  else s)
/-- The access kept for a replay is discarded; a load leaves 0 in its destination (R188). DEDUCED (log 42). -/
def Body.discardReplay (b : Body) (now : Nat) : Body :=
  match b.replaying with
  | none => b
  | some id =>
    let c := { b with kept := b.kept.filter (·.id != id), replaying := none }
    match c.awaited.find? (·.access == id) with
    | some w => c.setG w.reg 0 (now + 1)
    | none => c
/-- A write of TSTAT that clears replay discards the kept access (R188). -/
def State.writeSr (s : State) (n : BitVec 12) (v : BitVec 64) : State :=
  let s := s.modMe (·.writeSr n v)
  if n = 0x014#12 ∧ v.getLsbD 15 = false then s.modMe (·.discardReplay s.cycle) else s
def execMtsr (q : Qual) (a : Reg) (sr : BitVec 12) (s : State) : Result :=
  .next (if s.acts q then
    match srAccess sr with
    | none => s.raise .illegalOp
    | some .r => s.raise .protection
    | some .rh => if s.pre.handler then s.writeSr sr (s.rg a) else s.raise .protection
    | some .rw => s.writeSr sr (s.rg a)
  else s)

/-! Traps and the statistics queue (R200, R202) -/

def execTrap (q : Qual) (n : BitVec 10) (s : State) : Result := .next (if s.acts q then s.raise .syscall 0 n else s)
def execBrk (q : Qual) (n : BitVec 10) (s : State) : Result := .next (if s.acts q then s.raise .brk 0 n else s)
def execStqrd (q : Qual) (a b : Reg) (s : State) : Result :=
  .next (if s.acts q then
    if a = b ∧ a.val ≠ 0 then s.raise .illegalOp
    else match s.pre.stq with
      | r :: _ => ((s.modMe fun m => { m with stq := m.stq.drop 1 }).wg a (r.extractLsb' 0 64)).wg b (r.extractLsb' 64 64)
      | [] => (s.wg a 0).wg b 0
  else s)

end Sys2Proof.Machine
end

