-- ==== Sys2Proof/Machine/Engines.lean ====
section
/-!
DEFINITION. What the engines of a core share: the hazard unit (R141-R143), tokens (R145), and the reports that become parked
faults (R53, R54).
-/
namespace Sys2Proof.Machine

/-! Footprints (R141) -/

def Range.overlaps (x y : Range) : Bool := x.space == y.space && decide (x.lo < y.hi) && decide (y.lo < x.hi)
/-- A write range of one meets a range of the other. -/
def rangesConflict (r1 w1 r2 w2 : List Range) : Bool :=
  w1.any (fun w => (r2 ++ w2).any w.overlaps) || w2.any (fun w => r1.any w.overlaps)
/-- Global writes of the command are held or not yet acknowledged (R145). -/
def State.unacked (s : State) (c : CoreId) (id : Nat) : Bool :=
  (s.body c).held.any (fun r => r.command == some id) || s.requests.any fun r => r.core == c && r.command == some id
/-- The command is not complete: a transform operation is once every write of it is handed out (R338), another one once every write is
performed (R145). -/
def State.incomplete (s : State) (x : Command) : Bool := x.running || (x.engine != 4 && s.unacked s.cur.core x.id)
/-- No earlier incomplete command conflicts, and the unit has room (R142). Commands of the bundle itself count for the room only. -/
def State.hazardFree (s : State) (reads writes : List Range) : Bool :=
  decide ((s.me.commands.filter s.incomplete).length < 64) &&
    !s.pre.commands.any fun c => s.incomplete c && rangesConflict c.reads c.writes reads writes

/-! Commands -/

/-- The number of the instruction under way in issue order: cycle, stream, slot (R53). -/
def State.issueNo (s : State) : Nat := 128 * s.cycle + slotPos s.cur.slot s.cur.group
/-- A command recorded as incomplete; answers its number. -/
def State.addCommand (s : State) (engine : Fin 16) (tok : Option (Fin 16)) (reads writes : List Range)
    (cbs : List (Fin 16) := []) (glbDest running : Bool := false) : Nat × State :=
  let id := s.me.nextCommand
  (id, s.modMe fun b => { b with
    nextCommand := id + 1
    commands := b.commands ++ [⟨id, engine, tok, s.cur.hdr, reads, writes, cbs, running, glbDest, s.issueNo, s.src true⟩] })
def Body.command (b : Body) (id : Nat) : Option Command := b.commands.find? (·.id == id)
def Body.modCommand (b : Body) (id : Nat) (f : Command → Command) : Body :=
  { b with commands := b.commands.map fun c => if c.id = id then f c else c }
/-- The engine has finished the command. -/
def Body.endCommand (b : Body) (id : Nat) : Body := b.modCommand id fun c => { c with running := false }
/-- A command is complete, and its faults have reached the table (R145). -/
def State.commandIdle (s : State) (c : CoreId) (x : Command) : Bool :=
  !x.running && !s.unacked c x.id && !(s.body c).reports.any fun r => r.tok == x.tok
def execTokenIdle (c : CoreId) (tok : Fin 16) (s : State) : Result :=
  .next (s.modBody c fun b => { b with commands := b.commands.filter fun x => !(x.tok == some tok && s.commandIdle c x) })
/-- Complete commands without a token leave the unit. -/
def State.dropFinished (s : State) (c : CoreId) : State :=
  s.modBody c fun b => { b with commands := b.commands.filter fun x => x.tok.isSome || !s.commandIdle c x }

/-! Faults of engines -/

/-- A fault of a command, on its way to the table. -/
def Body.report (b : Body) (c : Command) (cause : Cause) (addr : Int) (aux : BitVec 10 := 0) : Body :=
  { b with reports := b.reports ++ [⟨cause, c.engine, c.tok, c.baddr, BitVec.ofInt 56 addr, aux, c.issued, none, false⟩] }
/-- The fault table has room for a further fault: an engine without it stops at its faulting point and holds the fault (R53). -/
def Body.canPark (b : Body) : Bool := decide (b.faults.length + b.reports.length < 64)
/-- A fault stands with its engine, since the table is full (R53). -/
def Body.holdsFault (b : Body) (engine : Fin 16) : Bool := decide (64 ≤ b.faults.length) && b.reports.any (·.engine == engine)
/-- The oldest report enters the table while it has room (R53). -/
def Body.parkNext (b : Body) : Body :=
  match b.reports with
  | [] => b
  | r :: rest => if b.faults.length < 64 then { b with faults := b.faults ++ [r], reports := rest } else b
def execEngineFaultReport (c : CoreId) (s : State) : Result := .next (s.modBody c Body.parkNext)

end Sys2Proof.Machine
end

