-- ==== Sys2Proof/Machine/Memory.lean ====
section
/-!
DEFINITION. Global memory as its slices see it (R442-R457): physical regions, homes, translation, resident lines with the remap
filter, the directory, sequence tags, migrations, the way to peers.
-/
namespace Sys2Proof.Machine

/-! Physical addresses (R442) -/

/-- What a physical address names. -/
inductive Region where
  | hbm
  | phaser (engine : Fin 8)
  | status
  | peer (dev : Fin 16)
  | host
  | reserved
  deriving DecidableEq, Repr
def phaserBase : Nat := 0xA000000000
def statusBase : Nat := 0xB000000000
def regionOf (pa : Nat) : Region :=
  if pa < 0x9000000000 then .hbm
  else if phaserBase ≤ pa ∧ pa < phaserBase + 0x2000000 then .phaser (Fin.ofNat 8 ((pa - phaserBase) / 0x400000))
  else if statusBase ≤ pa ∧ pa < statusBase + 0x100000 then .status
  else if 0x4000000000000 ≤ pa ∧ pa < 0x8000000000000 then .peer (Fin.ofNat 16 (pa / 2 ^ 46))
  else if 0x8000000000000 ≤ pa ∧ pa < 2 ^ 52 then .host
  else .reserved
/-- Memory is in its one form: addresses strictly rising, no byte 0 listed. DESIGN CHOICE (log 4). -/
def Memory.wf (m : List Host.Cell) : Bool := canon 0 m
/-- The n bytes at a physical address; unwritten bytes read 0 (log 4). DESIGN CHOICE (log 4). -/
def State.physRead (s : State) (pa n : Nat) : List (BitVec 8) := readBytes s.mem pa n
/-- Bytes written; a write of a whole line clears its poison (R449). DESIGN CHOICE (log 4, 40). -/
def State.physWrite (s : State) (pa : Nat) (bs : List (BitVec 8)) : State :=
  { s with
    mem := writeBytes s.mem pa bs
    poison := s.poison.filter fun l => !(decide (pa ≤ 128 * l) && decide (128 * l + 128 ≤ pa + bs.length)) }

/-- Pieces of [v, v + n) that lie in one line each. -/
def linePieces (v n : Nat) : List (Nat × Nat) :=
  if n = 0 then []
  else (List.range ((v + n - 1) / 128 - v / 128 + 1)).map fun i =>
    let lo := max v (128 * (v / 128 + i)); (lo, min (v + n) (128 * (v / 128 + i + 1)) - lo)
/-- Lines of a physical range. -/
def physLines (pa n : Nat) : List Nat := (linePieces pa n).map (·.1 / 128)

/-! Homes (R443) -/

def foldHome (v : VA) : Fin 128 :=
  let l : BitVec 49 := v.extractLsb' 7 49
  Fin.ofNat 128 ((l.extractLsb' 0 7 ^^^ l.extractLsb' 7 7 ^^^ l.extractLsb' 14 7 ^^^ l.extractLsb' 21 7 ^^^ l.extractLsb' 28 7 ^^^
    l.extractLsb' 35 7 ^^^ l.extractLsb' 42 7).toNat)
/-- An address of the sync window, the top 32 MiB. -/
def inSyncWindow (v : VA) : Bool := v.extractLsb' 25 31 == BitVec.allOnes 31
def homeDie (v : VA) : Fin 8 :=
  if inSyncWindow v then Fin.ofNat 8 (v.extractLsb' 22 3).toNat else Fin.ofNat 8 ((foldHome v).val / 16)
def homeSlice (v : VA) : Fin 16 :=
  if inSyncWindow v then Fin.ofNat 16 (v.extractLsb' 7 4).toNat else Fin.ofNat 16 ((foldHome v).val % 16)
def dieOf (c : CoreId) : Fin 8 := Fin.ofNat 8 (c.val / 16)
def lineOf (v : VA) : Nat := v.toNat / 128

/-! Translation (R450-R453) -/

/-- Lowest index bit and index width of each level; bytes of a leaf there. -/
def walkLevels : List (Nat × Nat × Nat) := [(45, 11, 0), (34, 11, 2 ^ 34), (30, 4, 2 ^ 30), (21, 9, 2 ^ 21), (16, 5, 2 ^ 16)]
/-- addr of an entry. -/
def entryAddr (e : Nat) : Nat := e % 2 ^ 52 / 128 * 128
/-- A leaf that maps a page, or the cause it gives (R452). -/
def leafTrans (v : VA) (e size : Nat) : Except Cause Trans :=
  let frame := entryAddr e
  let t : Trans := ⟨frame, size, e.testBit 2, e.testBit 3, e.testBit 4, e.testBit 5, e.testBit 6⟩
  if size = 0 ∨ frame % size ≠ 0 then .error .translation
  else if regionOf frame = .reserved ∨ regionOf (frame + size - 1) = .reserved then .error .protection
  else if t.phaser ∧ ¬ (size = 2 ^ 16 ∧ inSyncWindow v ∧ t.comp = false ∧
      regionOf frame = .phaser (Fin.ofNat 8 (v.extractLsb' 22 3).toNat)) then .error .protection
  else .ok t
/-- The walk from a table through the levels left. DESIGN CHOICE (log 11). -/
def State.walkFrom (s : State) (v : VA) (table : Nat) : List (Nat × Nat × Nat) → Except Cause Trans
  | [] => .error .translation
  | (lo, bits, leaf) :: rest =>
    let e := natLE (s.physRead (table + 8 * (v.toNat / 2 ^ lo % 2 ^ bits)) 8)
    if table % (8 * 2 ^ bits) ≠ 0 ∨ e.testBit 0 = false ∨ 2 ^ 52 ≤ e then .error .translation
    else if e.testBit 1 then leafTrans v e leaf
    else if e / 4 % 32 ≠ 0 then .error .translation
    else s.walkFrom v (entryAddr e) rest
/-- The walk of a virtual address under an ASN. -/
def State.walk (s : State) (asn : BitVec 12) (v : VA) : Except Cause Trans :=
  if s.fabcfg.xlat = false then .error .translation
  else
    let e := natLE (s.physRead (s.fabcfg.atbase / 2 ^ 15 * 2 ^ 15 + 8 * asn.toNat) 8)
    if e.testBit 0 then s.walkFrom v (entryAddr e) walkLevels else .error .translation
/-- Addresses of the entries that a walk reads from a table on. -/
def State.tablesFrom (s : State) (v : VA) (table : Nat) : List (Nat × Nat × Nat) → List Nat
  | [] => []
  | (lo, bits, _) :: rest =>
    let at_ := table + 8 * (v.toNat / 2 ^ lo % 2 ^ bits)
    let e := natLE (s.physRead at_ 8)
    at_ :: if e.testBit 0 = false ∨ e.testBit 1 then [] else s.tablesFrom v (entryAddr e) rest
/-- Addresses of the entries that the walk of a virtual address reads. -/
def State.walkReads (s : State) (asn : BitVec 12) (v : VA) : List Nat :=
  if s.fabcfg.xlat = false then []
  else
    let at_ := s.fabcfg.atbase / 2 ^ 15 * 2 ^ 15 + 8 * asn.toNat
    let e := natLE (s.physRead at_ 8)
    at_ :: if e.testBit 0 then s.tablesFrom v (entryAddr e) walkLevels else []
/-- The physical address of the entry of a level that maps an address, with its page size. -/
def State.leafFrom (s : State) (v : VA) (table : Nat) : List (Nat × Nat × Nat) → Option (Nat × Nat)
  | [] => none
  | (lo, bits, leaf) :: rest =>
    let at_ := table + 8 * (v.toNat / 2 ^ lo % 2 ^ bits)
    let e := natLE (s.physRead at_ 8)
    if e.testBit 0 = false then none
    else if e.testBit 1 then some (at_, leaf)
    else s.leafFrom v (entryAddr e) rest
def State.leafEntry (s : State) (asn : BitVec 12) (v : VA) : Option (Nat × Nat) :=
  s.leafFrom v (entryAddr (natLE (s.physRead (s.fabcfg.atbase / 2 ^ 15 * 2 ^ 15 + 8 * asn.toNat) 8))) walkLevels
/-- The controller of a line (R453). -/
def controllerOf (v : VA) : Fin 16 := Fin.ofNat 16 (2 * (homeDie v).val + (homeSlice v).val % 2)
def TlbEntry.covers (e : TlbEntry) (asn : BitVec 12) (v : VA) : Bool :=
  e.asn == asn && decide (e.base ≤ v.toNat ∧ v.toNat < e.base + e.trans.size)
/-- The translation held by the line's controller, or a walk, which fills it; a full buffer drops an entry of any age. -/
def State.translate (s : State) (asn : BitVec 12) (v : VA) : Except Cause Trans × State :=
  let k := controllerOf v
  match s.mtlb.find? fun e => e.controller == k && e.covers asn v with
  | some e => (if s.fabcfg.xlat then .ok e.trans else .error .translation, s)
  | none =>
    match s.walk asn v with
    | .error c => (.error c, s)
    | .ok t =>
      let mine := s.mtlb.filter (·.controller == k)
      let victim := mine[Config.victim s.fresh % 16384]?
      let keep := if mine.length < 16384 then s.mtlb else s.mtlb.filter fun e => some e != victim
      (.ok t, { s with mtlb := keep ++ [⟨k, asn, v.toNat / t.size * t.size, t⟩], fresh := s.fresh + 1 })
def Trans.pa (t : Trans) (v : VA) : Nat := t.frame + v.toNat % t.size
/-- Permission of an access (R452). -/
def Trans.permits (t : Trans) (write fetch : Bool) : Bool := (!write || t.w) && (!fetch || t.x)

/-! Resident lines (R446-R448, R455, R463) -/

def State.hallLine (s : State) (asn : BitVec 12) (v : VA) : Option HallLine :=
  s.hall.find? fun h => h.asn == asn && h.line == lineOf v
def State.modHall (s : State) (asn : BitVec 12) (v : VA) (f : HallLine → HallLine) : State :=
  { s with hall := s.hall.map fun h => if h.asn == asn && h.line == lineOf v then f h else h }
/-- A core holds an effect on the line (R42). -/
def State.provisional (s : State) (h : HallLine) : Bool :=
  s.cores.toList.any fun k => k.b.held.any fun r => r.asn == h.asn && lineOf r.va == h.line
/-- The line lies in a declared pinned region (R456). -/
def State.pinnedLine (s : State) (asn : BitVec 12) (line : Nat) : Bool :=
  s.cores.toList.any fun k => match k.b.pinned with
    | some (base, len) => k.b.sys.asn == asn && decide (base ≤ 128 * line ∧ 128 * line < base + len)
    | none => false
/-- An operation waits at an engine for the line. -/
def State.pendingAt (s : State) (h : HallLine) : Bool :=
  s.requests.any fun r => r.stage == .engine && r.asn == h.asn && lineOf r.va == h.line
/-- The ways of a set: same home slice and set index L[17:7] (R446). -/
def sameSet (a b : Nat) : Bool :=
  let v (l : Nat) : VA := BitVec.ofNat 56 (128 * l)
  a / 128 % 2048 == b / 128 % 2048 && homeDie (v a) == homeDie (v b) && homeSlice (v a) == homeSlice (v b)
/-- Lines that a fill of the line's set may replace. -/
def State.evictable (s : State) (line : Nat) : List HallLine :=
  s.hall.filter fun h => sameSet h.line line && !s.provisional h && !s.pendingAt h && !s.pinnedLine h.asn h.line
/-- Lines of declared regions in the set of a line (R456). -/
def State.pinnedInSet (s : State) (line : Nat) : List (BitVec 12 × Nat) :=
  (s.cores.toList.flatMap fun k => match k.b.pinned with
    | some (base, len) => ((List.range (len / 128)).map (base / 128 + ·)).filterMap fun l => if sameSet l line then some (k.b.sys.asn, l) else none
    | none => []).eraseDups
/-- Ways of the set that pinned lines hold; they use at most 8 (R456). -/
def State.pinnedWays (s : State) (line : Nat) : Nat := (s.hall.filter fun h => sameSet h.line line && !h.beyond && s.pinnedLine h.asn h.line).length
/-- A pinned line for which its set has no way is held for its slice in the atrium (R456). -/
def State.goesBeyond (s : State) (asn : BitVec 12) (line : Nat) : Bool := s.pinnedLine asn line && decide (8 ≤ s.pinnedWays line)
/-- A way of the set is free for a line: one kept for a pinned line that has left the slice serves that line alone (R454, R456). -/
def State.wayFree (s : State) (asn : BitVec 12) (line : Nat) : Bool :=
  let used := (s.hall.filter fun h => sameSet h.line line && !h.beyond).length
  let kept := if s.pinnedLine asn line then 0 else min 8 (s.pinnedInSet line).length - s.pinnedWays line
  s.goesBeyond asn line || decide (used + kept < 16)
/-- An operation at an engine, or a pending effect, keeps the other alias of a physical line where it is (R446, R448). -/
def State.aliasHeld (s : State) (asn : BitVec 12) (line pline : Nat) : Bool :=
  s.hall.any fun h => h.pline == pline && !(h.asn == asn && h.line == line) && s.pendingAt h
def State.canFill (s : State) (asn : BitVec 12) (line : Nat) : Bool := s.wayFree asn line || !(s.evictable line).isEmpty
/-- The base die whose stacks hold a physical line (R442). -/
def stackDie (pline : Nat) : Nat := 128 * pline / 0x1200000000
/-- The die that holds the bytes of a physical line: its alias's home slice, or the atrium and the stacks of its frame (R452, R475). -/
def State.holderOf (s : State) (pline : Nat) : Fin 8 :=
  match s.hall.find? (·.pline == pline) with
  | some h => homeDie (BitVec.ofNat 56 (128 * h.line))
  | none => Fin.ofNat 8 (stackDie pline)
/-- Lines that an atrium part of 2 GiB holds (R1, R17). -/
def atriumLines : Nat := 2 ^ 24
/-- Lines in the atrium part of a die: those that hall slices hold, and the others (R447). -/
def State.atriumUse (s : State) (d : Nat) : Nat :=
  (s.hall.filter fun h => stackDie h.pline == d).length + (s.atrium.filter fun a => stackDie a.pline == d).length
/-- The tag of a write placed now on the line (R148, R463); a line that is not resident counts from CYCLE. DESIGN CHOICE (log 36). -/
def State.placeTag (s : State) (asn : BitVec 12) (v : VA) : BitVec 48 × State :=
  match s.hallLine asn v with
  | some h =>
    (h.tag + 1, s.modHall asn v fun h =>
      { h with tag := h.tag + 1, dir := .invalid, dirty := true, touched := s.cycle, placed := some s.cycle })
  | none => (BitVec.ofNat 48 s.cycle + 1, s)
/-- A write placed on a physical line takes its place at the alias that is resident (R448, R475). -/
def State.placePhysical (s : State) (pa : Nat) : State :=
  match s.hall.find? fun h => h.pline == pa / 128 with
  | some h => (s.placeTag h.asn (BitVec.ofNat 56 (128 * h.line))).2
  | none => s
/-- One access per line and cycle is placed (R463). -/
def State.placedNow (s : State) (asn : BitVec 12) (v : VA) : Bool :=
  match s.hallLine asn v with
  | some h => h.placed == some s.cycle
  | none => false
/-- The lines a core's scalar data cache holds. -/
def Directory.holds (d : Directory) (c : CoreId) : Bool :=
  match d with
  | .invalid => false
  | .shared cs => cs.contains c
  | .exclusive o | .modified o => o == c
def Directory.remove (d : Directory) (c : CoreId) : Directory :=
  match d with
  | .shared cs => if (cs.filter (· != c)).isEmpty then .invalid else .shared (cs.filter (· != c))
  | .exclusive o | .modified o => if o = c then .invalid else d
  | .invalid => .invalid
/-- A core takes the line: a store in M, a load in S or E. A full cache of 512 lines drops one of any age (R170, R455). -/
def Directory.take (d : Directory) (c : CoreId) (store : Bool) : Directory :=
  if store then .modified c
  else match d with
    | .invalid => .exclusive c
    | .shared cs => .shared (if cs.contains c then cs else cs ++ [c])
    | .exclusive o => if o = c then d else .shared [o, c]
    | .modified o => if o = c then d else .shared [o, c]
/-- A prefetch takes the line shared (R185). -/
def Directory.share (d : Directory) (c : CoreId) : Directory :=
  match d with
  | .invalid => .shared [c]
  | _ => if d.holds c then d else d.take c false
/-- The line enters the core's scalar data cache in the state that `f` gives. -/
def State.cacheLine (s : State) (c : CoreId) (asn : BitVec 12) (v : VA) (f : Directory → Directory) : State :=
  let mine := s.hall.filter (·.dir.holds c)
  let s := if mine.length < 512 then s else
    match mine[Config.victim s.fresh % mine.length]? with
    | some x => { s with hall := s.hall.map (fun h => if h = x then { h with dir := h.dir.remove c } else h), fresh := s.fresh + 1 }
    | none => s
  s.modHall asn v fun h => if h.stream then h else { h with dir := f h.dir, touched := s.cycle }
/-- The scalar data cache of a core holds the line. DESIGN CHOICE (log 11). -/
def State.cached (s : State) (c : CoreId) (asn : BitVec 12) (v : VA) : Bool :=
  match s.hallLine asn v with
  | some h => h.dir.holds c
  | none => false

/-! Migration (R466) -/

/-- Writes of n bytes make their lines of a page that is being copied dirty. -/
def State.noteMigration (s : State) (pa n : Nat) : State :=
  { s with migrations := s.migrations.map fun m =>
      let lines := ((physLines pa n).filter fun l => decide (m.old ≤ 128 * l ∧ 128 * l < m.old + m.size)).map (· - m.old / 128)
      { m with dirty := m.dirty ++ lines.filter fun x => decide (x < m.copied) && !m.dirty.contains x } }
/-- A write placed at a physical address. -/
def State.placeWrite (s : State) (pa : Nat) (bs : List (BitVec 8)) : State := (s.noteMigration pa bs.length).physWrite pa bs

/-- The page that holds an address: the one that its walk or an MTLB entry names, else 64 KiB. -/
def State.pageOf (s : State) (asn : BitVec 12) (v : VA) : Nat × Nat :=
  let sizes := (s.mtlb.filter (·.covers asn v)).map (·.trans.size) ++ (match s.walk asn v with | .ok t => [t.size] | .error _ => [])
  let size := sizes.foldl max (2 ^ 16)
  (v.toNat / size * size, size)
def Migration.inPage (m : Migration) (asn : BitVec 12) (page size : Nat) : Bool :=
  m.asn == asn && decide (m.page < page + size ∧ page < m.page + m.size)
/-- A migration uses some byte of a frame. -/
def Migration.inFrame (m : Migration) (f size : Nat) : Bool :=
  decide (m.old < f + size ∧ f < m.old + m.size) || decide (m.new < f + size ∧ f < m.new + m.size)
/-- One line copied between frames, with its poison. -/
def State.copyLine (s : State) (m : Migration) (x : Nat) : State :=
  let t := s.physWrite (m.new + 128 * x) (s.physRead (m.old + 128 * x) 128)
  if s.poison.contains (m.old / 128 + x) then { t with poison := (m.new / 128 + x) :: t.poison } else t

/-! Status space, and memory beyond the package -/

/-- The bytes of acknowledgement record space (R464). -/
def State.statusRead (s : State) (off : Nat) : BitVec 64 :=
  let k := s.cores[off / 0x2000 % 128]
  let o := off % 0x2000
  if o < 8 then k.ackCount
  else if o < 0x1000 then 0
  else (sget 0 k.acks ((o - 0x1000) / 16 % 256)).extractLsb' (8 * (o % 16) / 64 * 64) 64
/-- The lowest link of a peer's route that is up or degraded (R474). -/
def HostPort.linkFor (h : HostPort) (p : Fin 16) : Option (Fin 16) :=
  (List.finRange 16).find? fun l => (h.routes[p]).getLsbD l.val && decide (2 ≤ (h.links[l]).val)
/-- The link on which a forwarding slice, of its number among 128, sends to a peer: the one that it keeps, or the lowest of the route, which it
then keeps (R474). -/
def State.viaPeer (s : State) (slice : Fin 128) (p : Fin 16) : Option (Fin 16 × State) :=
  if p.val = Config.ownPeer.toNat then none
  else match s.host.used.find? fun u => u.1 == slice && u.2.1 == p with
    | some u => some (u.2.2, s)
    | none => (s.host.linkFor p).map fun l => (l, { s with host := { s.host with used := s.host.used ++ [(slice, p, l)] } })

end Sys2Proof.Machine
end

