-- ==== Sys2Proof/Machine/Float.lean ====
section
/-!
DEFINITION. Floating-point formats, exact arithmetic and the one rounding of each operation (R101-R106, R265-R270).
A finite value is kept exactly as (sign, magnitude, power of two); every operation computes exactly and rounds once.
-/
namespace Sys2Proof.Machine

/-- A floating-point format: exponent bits and fraction bits (R101); the bias is 2^(eb-1) - 1. -/
structure FpFormat where
  eb : Nat
  mb : Nat
  deriving DecidableEq, Repr

def fp32 : FpFormat := ⟨8, 23⟩
def bf16 : FpFormat := ⟨8, 7⟩
def fp16 : FpFormat := ⟨5, 10⟩

namespace FpFormat
def bias (f : FpFormat) : Int := 2 ^ (f.eb - 1) - 1
def expOnes (f : FpFormat) : Nat := 2 ^ f.eb - 1
/-- Bits of a sign. -/
def signBit (f : FpFormat) (neg : Bool) : Nat := if neg then 2 ^ (f.eb + f.mb) else 0
def inf (f : FpFormat) (neg : Bool) : Nat := f.signBit neg + f.expOnes * 2 ^ f.mb
/-- The canonical NaN (R101). -/
def nan (f : FpFormat) : Nat := f.expOnes * 2 ^ f.mb + 2 ^ (f.mb - 1)
end FpFormat

/-- A value of any format, or an exact intermediate: a finite value is (-1)^neg * m * 2^e. -/
inductive FpVal where
  | nan
  | inf (neg : Bool)
  | fin (neg : Bool) (m : Nat) (e : Int)
  deriving DecidableEq, Repr

namespace FpVal
def isNan : FpVal → Bool
  | nan => true
  | _ => false
def isZero : FpVal → Bool
  | fin _ m _ => m == 0
  | _ => false
def isFin : FpVal → Bool
  | fin _ _ _ => true
  | _ => false
def sign : FpVal → Bool
  | nan => false
  | inf s => s
  | fin s _ _ => s
def negate : FpVal → FpVal
  | nan => nan
  | inf s => inf (!s)
  | fin s m e => fin (!s) m e
/-- The signed magnitude at power e0, for e0 at or below the value's own power. -/
def scaled (neg : Bool) (m : Nat) (e e0 : Int) : Int :=
  (if neg then -(m : Int) else (m : Int)) * 2 ^ (e - e0).toNat
def ofInt (z : Int) : FpVal := fin (decide (z < 0)) z.natAbs 0
/-- The exact product; 0 times infinity is a NaN. -/
def mul : FpVal → FpVal → FpVal
  | nan, _ => nan
  | _, nan => nan
  | inf s, inf t => inf (s ^^ t)
  | inf s, fin t m _ => if m = 0 then nan else inf (s ^^ t)
  | fin s m _, inf t => if m = 0 then nan else inf (s ^^ t)
  | fin s m e, fin t n k => fin (s ^^ t) (m * n) (e + k)
/-- The exact sum; a zero sum is negative only when both operands are negative zeros (R102). -/
def add : FpVal → FpVal → FpVal
  | nan, _ => nan
  | _, nan => nan
  | inf s, inf t => if s = t then inf s else nan
  | inf s, fin _ _ _ => inf s
  | fin _ _ _, inf t => inf t
  | fin s m e, fin t n k =>
    let e0 := min e k
    let z := scaled s m e e0 + scaled t n k e0
    if z = 0 then fin (s && t && m == 0 && n == 0) 0 e0 else fin (decide (z < 0)) z.natAbs e0
/-- IEEE order of two values that are no NaN: less than. -/
def lt : FpVal → FpVal → Bool
  | nan, _ => false
  | _, nan => false
  | inf s, inf t => s && !t
  | inf s, fin _ _ _ => s
  | fin _ _ _, inf t => !t
  | fin s m e, fin t n k => let e0 := min e k; decide (scaled s m e e0 < scaled t n k e0)
def eq : FpVal → FpVal → Bool
  | nan, _ => false
  | _, nan => false
  | inf s, inf t => s == t
  | inf _, fin _ _ _ => false
  | fin _ _ _, inf _ => false
  | fin s m e, fin t n k => let e0 := min e k; decide (scaled s m e e0 = scaled t n k e0)
end FpVal

/-- The value of an encoding (R101); every NaN reads alike (R102). -/
def fpDecode (f : FpFormat) (x : Nat) : FpVal :=
  let neg := x / 2 ^ (f.eb + f.mb) % 2 == 1
  let ex := x / 2 ^ f.mb % 2 ^ f.eb
  let fr := x % 2 ^ f.mb
  if ex = f.expOnes then (if fr = 0 then .inf neg else .nan)
  else if ex = 0 then .fin neg fr (1 - f.bias - f.mb)
  else .fin neg (2 ^ f.mb + fr) (ex - f.bias - f.mb)

/-- m / 2^s rounded to the nearest integer, ties to even. -/
def shiftRne (m s : Nat) : Nat :=
  if s = 0 then m
  else
    let q := m / 2 ^ s
    let r := m % 2 ^ s
    let half := 2 ^ (s - 1)
    if half < r ∨ (r = half ∧ q % 2 = 1) then q + 1 else q

/-- (-1)^neg * m * 2^e rounded to nearest even in the format; the flag says that a finite value became an infinity (R102). -/
def fpRound (f : FpFormat) (neg : Bool) (m : Nat) (e : Int) : Nat × Bool :=
  if m = 0 then (f.signBit neg, false)
  else
    let emin : Int := 1 - f.bias
    let top : Int := e + Nat.log2 m
    let q : Int := max top emin - f.mb
    let mant := if q ≤ e then m * 2 ^ (e - q).toNat else shiftRne m (q - e).toNat
    let (mant, q) := if 2 ^ (f.mb + 1) ≤ mant then (mant / 2, q + 1) else (mant, q)
    if mant < 2 ^ f.mb then (f.signBit neg + mant, false)
    else
      let ex := (q + f.mb + f.bias).toNat
      if f.expOnes ≤ ex then (f.inf neg, true)
      else (f.signBit neg + ex * 2 ^ f.mb + (mant - 2 ^ f.mb), false)

/-- A rounded result and the records it posts (R103). -/
structure FpRes where
  bits : Nat
  invalid : Bool := false
  overflow : Bool := false
  divzero : Bool := false
  deriving DecidableEq, Repr

/-- Encodes an exact value. -/
def fpEncode (f : FpFormat) : FpVal → FpRes
  | .nan => { bits := f.nan }
  | .inf s => { bits := f.inf s }
  | .fin s m e => let r := fpRound f s m e; { bits := r.1, overflow := r.2 }

/-- Encodes the exact result of an operation on the operands: a NaN from operands none of which is a NaN is invalid (R103). -/
def fpResult (f : FpFormat) (ops : List FpVal) (v : FpVal) : FpRes :=
  { fpEncode f v with invalid := v.isNan && !ops.any (·.isNan) }

def fpAdd (f : FpFormat) (a b : Nat) : FpRes :=
  let x := fpDecode f a; let y := fpDecode f b
  fpResult f [x, y] (x.add y)
def fpSub (f : FpFormat) (a b : Nat) : FpRes :=
  let x := fpDecode f a; let y := fpDecode f b
  fpResult f [x, y] (x.add y.negate)
def fpMul (f : FpFormat) (a b : Nat) : FpRes :=
  let x := fpDecode f a; let y := fpDecode f b
  fpResult f [x, y] (x.mul y)
/-- (-1)^np * a * b + (-1)^nc * c, rounded once: `fma`, `fms`, `fnma` (R266). -/
def fpFma (f : FpFormat) (np nc : Bool) (a b c : Nat) : FpRes :=
  let x := fpDecode f a; let y := fpDecode f b; let z := fpDecode f c
  let p := x.mul y
  fpResult f [x, y, z] ((if np then p.negate else p).add (if nc then z.negate else z))
/-- Lesser or greater value: -0 lies below +0, a NaN yields the other operand, two NaNs the canonical NaN (R182, R266). -/
def fpMinMax (f : FpFormat) (greater : Bool) (a b : Nat) : Nat :=
  let x := fpDecode f a; let y := fpDecode f b
  if x.isNan then (if y.isNan then f.nan else b)
  else if y.isNan then a
  else
    let less := x.lt y || (x.isZero && y.isZero && x.sign && !y.sign)
    if greater then (if less then b else a) else (if less then a else b)
/-- Conditions of `fcmp.s` and `fcmp`: 0 eq, 1 lt, 2 le, 3 un (R178, R268). -/
def fpCompare (f : FpFormat) (cond : Nat) (a b : Nat) : Bool :=
  let x := fpDecode f a; let y := fpDecode f b
  if x.isNan || y.isNan then cond == 3
  else match cond with
    | 0 => x.eq y
    | 1 => x.lt y
    | 2 => x.lt y || x.eq y
    | _ => false

/-- The exact value rounded to the nearest integer, ties to even (R106). -/
def fpToInt (neg : Bool) (m : Nat) (e : Int) : Int :=
  let r : Nat := if 0 ≤ e then m * 2 ^ e.toNat else shiftRne m (-e).toNat
  if neg then -(r : Int) else r

/-- sat(x, lo, hi) of R5. -/
def sat (x lo hi : Int) : Int := if x < lo then lo else if hi < x then hi else x

/-- A conversion to an integer range: the value, whether it saturated, whether it was a NaN (R106). -/
def fpToIntSat (v : FpVal) (lo hi : Int) : Int × Bool × Bool :=
  match v with
  | .nan => (0, false, true)
  | .inf s => (if s then lo else hi, true, false)
  | .fin s m e => let r := fpToInt s m e; (sat r lo hi, decide (r < lo ∨ hi < r), false)

/-- An integer as a value of the format (R106). -/
def intToFp (f : FpFormat) (z : Int) : FpRes := fpEncode f (.ofInt z)

/-- A value of one format in another (R106); a finite value that overflows sets the flag. -/
def fpConvert (from_ into : FpFormat) (a : Nat) : FpRes := fpEncode into (fpDecode from_ a)

/-- Floor of the square root by bits, from bit n down. -/
def isqrtBits : Nat → Nat → Nat → Nat
  | 0, x, r => if (r + 1) * (r + 1) ≤ x then r + 1 else r
  | n + 1, x, r => isqrtBits n x (if (r + 2 ^ (n + 1)) * (r + 2 ^ (n + 1)) ≤ x then r + 2 ^ (n + 1) else r)
def isqrt (x : Nat) : Nat := isqrtBits (Nat.log2 x / 2 + 1) x 0

/-- num / den * 2^e with a sticky bit below 2^k quotient bits. -/
def fpRatio (f : FpFormat) (neg : Bool) (num den : Nat) (e : Int) : Nat × Bool :=
  let k := Nat.log2 den + 64
  let q := num * 2 ^ k / den
  let r := num * 2 ^ k % den
  fpRound f neg (2 * q + (if r = 0 then 0 else 1)) (e - k - 1)

/-- `frcp`, special operands as R267 lists them. -/
def fpRcp (f : FpFormat) (a : Nat) : FpRes :=
  match fpDecode f a with
  | .nan => { bits := f.nan }
  | .inf s => { bits := f.signBit s }
  | .fin s 0 _ => { bits := f.inf s, divzero := true }
  | .fin s m e => let r := fpRatio f s 1 m (-e); { bits := r.1, overflow := r.2 }
/-- `fsqrt`. -/
def fpSqrt (f : FpFormat) (a : Nat) : FpRes :=
  match fpDecode f a with
  | .nan => { bits := f.nan }
  | .inf s => if s then { bits := f.nan, invalid := true } else { bits := f.inf false }
  | .fin s 0 _ => { bits := f.signBit s }
  | .fin true _ _ => { bits := f.nan, invalid := true }
  | .fin false m e =>
    let k : Nat := if (e - 80) % 2 = 0 then 80 else 81
    let x := m * 2 ^ k
    let q := isqrt x
    let r := fpRound f false (2 * q + (if q * q = x then 0 else 1)) ((e - k) / 2 - 1)
    { bits := r.1, overflow := r.2 }
/-- `frsq`. -/
def fpRsq (f : FpFormat) (a : Nat) : FpRes :=
  match fpDecode f a with
  | .nan => { bits := f.nan }
  | .inf s => if s then { bits := f.nan, invalid := true } else { bits := f.signBit false }
  | .fin s 0 _ => { bits := f.inf s, divzero := true }
  | .fin true _ _ => { bits := f.nan, invalid := true }
  | .fin false m e =>
    -- 1 / sqrt(m * 2^e) = sqrt(2^k / m) * 2^((-e - k) / 2)
    let k0 := 2 * Nat.log2 m + 100
    let k : Nat := if (e + k0) % 2 = 0 then k0 else k0 + 1
    let q := isqrt (2 ^ k / m)
    let r := fpRound f false (2 * q + (if q * q * m = 2 ^ k then 0 else 1)) ((-e - k) / 2 - 1)
    { bits := r.1, overflow := r.2 }

/-! Transcendental functions: a fixed-point interval around the exact value, narrowed until both ends round alike (R267).
Fixed-point numbers have p fraction bits; every series below is a lower bound whose error is under 2^12 units. -/

/-- The terms t, t*x2/.., of 2*atanh(z): sum of z^(2i+1) / (2i+1), n terms from index i. -/
def atanhSum (p : Nat) (z2 : Nat) : Nat → Nat → Nat → Nat
  | 0, _, _ => 0
  | n + 1, t, i => t / (2 * i + 1) + atanhSum p z2 n (t * z2 / 2 ^ p) (i + 1)
/-- 2 * atanh(num / den) for a ratio of at most 1/3: the natural logarithm of (den + num) / (den - num). -/
def logRatio (p num den : Nat) : Nat :=
  let z := num * 2 ^ p / den
  2 * atanhSum p (z * z / 2 ^ p) (p / 3 + 4) z 0
def ln2Fix (p : Nat) : Nat := logRatio p 1 3
/-- e^r for fixed-point r below 1, n terms of the series from index i with the running term t. -/
def expSum (p : Nat) (r : Nat) : Nat → Nat → Nat → Nat
  | 0, _, _ => 0
  | n + 1, t, i => t + expSum p r n (t * r / 2 ^ p / (i + 1)) (i + 1)
def expFix (p r : Nat) : Nat := expSum p r (p / 3 + 8) (2 ^ p) 0

/-- Rounds the value whose lower bound is lo and whose upper bound is hi, both times 2^e, at the precision that `eval` first
decides; `eval p` answers (lo, hi, e). -/
def roundInterval (f : FpFormat) (neg : Bool) (eval : Nat → Nat × Nat × Int) : Nat → Nat → Nat × Bool
  | 0, p => let (lo, _, e) := eval p; fpRound f neg lo e
  | n + 1, p =>
    let (lo, hi, e) := eval p
    if fpRound f neg lo e = fpRound f neg hi e then fpRound f neg lo e
    else roundInterval f neg eval n (2 * p)

/-- 2^A for a dyadic A that is no integer: integer part by shifting, fraction by the series. -/
def exp2Eval (neg : Bool) (m : Nat) (e : Int) (p : Nat) : Nat × Nat × Int :=
  -- A at p fraction bits, exact when e >= -p and below one unit off otherwise
  let mag : Nat := if 0 ≤ e + p then m * 2 ^ (e + p).toNat else m / 2 ^ (-(e + p)).toNat
  let a : Int := if neg then -(mag : Int) - (if 0 ≤ e + p then 0 else 1) else mag
  let n : Int := a / (2 ^ p : Nat)
  let frac := (a % (2 ^ p : Nat)).toNat
  let v := expFix p (frac * ln2Fix p / 2 ^ p)
  (v - 1, v + 2 ^ 12, n - p)
/-- `fexp2`. -/
def fpExp2 (f : FpFormat) (a : Nat) : FpRes :=
  match fpDecode f a with
  | .nan => { bits := f.nan }
  | .inf s => if s then { bits := f.signBit false } else { bits := f.inf false }
  | .fin s m e =>
    if m = 0 then let r := fpRound f false 1 0; { bits := r.1 }
    else
      let top : Int := e + Nat.log2 m
      if 9 ≤ top then (if s then { bits := f.signBit false } else { bits := f.inf false, overflow := true })
      else if 0 ≤ e ∨ m % 2 ^ (-e).toNat = 0 then
        let z : Int := if 0 ≤ e then (m * 2 ^ e.toNat : Nat) else (m / 2 ^ (-e).toNat : Nat)
        let r := fpRound f false 1 (if s then -z else z)
        { bits := r.1, overflow := r.2 }
      else
        let r := roundInterval f false (exp2Eval s m e) 3 320
        { bits := r.1, overflow := r.2 }

/-- log2 of m * 2^e, m no power of two: integer part k and the logarithm of the mantissa M in 1..2. -/
def log2Eval (m : Nat) (e : Int) (p : Nat) : Int × Int × Int :=
  let w := Nat.log2 m
  let k : Int := e + w
  -- ln M = 2 * atanh((m - 2^w) / (m + 2^w))
  let l := logRatio p (m - 2 ^ w) (m + 2 ^ w)
  let n2 := ln2Fix p
  let lo : Int := k * (2 ^ p : Nat) + (l * 2 ^ p / (n2 + 2 ^ 12) : Nat)
  let hi : Int := k * (2 ^ p : Nat) + ((l + 2 ^ 12) * 2 ^ p / n2 + 1 : Nat)
  (lo, hi, -(p : Int))
/-- `flog2`. -/
def fpLog2 (f : FpFormat) (a : Nat) : FpRes :=
  match fpDecode f a with
  | .nan => { bits := f.nan }
  | .inf s => if s then { bits := f.nan, invalid := true } else { bits := f.inf false }
  | .fin _ 0 _ => { bits := f.inf true, divzero := true }
  | .fin true _ _ => { bits := f.nan, invalid := true }
  | .fin false m e =>
    if m = 2 ^ Nat.log2 m then
      let k : Int := e + Nat.log2 m
      { bits := (fpRound f (decide (k < 0)) k.natAbs 0).1 }
    else
      let neg := decide (e + Nat.log2 m < 0)
      let ev (p : Nat) : Nat × Nat × Int :=
        let (lo, hi, q) := log2Eval m e p
        if neg then (hi.natAbs, lo.natAbs, q) else (lo.toNat, hi.toNat, q)
      { bits := (roundInterval f neg ev 3 320).1 }

/-- 1 / (1 + e^-A) for finite A, m nonzero. -/
def sigEval (neg : Bool) (m : Nat) (e : Int) (p : Nat) : Nat × Nat × Int :=
  let z : Nat := if 0 ≤ e + p then m * 2 ^ (e + p).toNat else m / 2 ^ (-(e + p)).toNat
  let n2 := ln2Fix p
  let n := z / (n2 + 2 ^ 12)
  let r := z - n * n2
  -- x = e^|A| = 2^n * e^r within a relative error far below 2^(20 - p)
  let x := expFix p r * 2 ^ n
  let d := expFix p r * 2 ^ n / 2 ^ (p - 40) + 2 ^ n * 2 ^ 20 + 1
  let one := 2 ^ p
  -- neg: 1 / (1 + x); else x / (1 + x)
  if neg then (2 ^ (2 * p) / (one + x + d), 2 ^ (2 * p) / (one + (x - d)) + 1, -(p : Int))
  else ((x - d) * 2 ^ p / (one + (x - d)), (x + d) * 2 ^ p / (one + x + d) + 1, -(p : Int))
/-- `fsig`. -/
def fpSig (f : FpFormat) (a : Nat) : FpRes :=
  match fpDecode f a with
  | .nan => { bits := f.nan }
  | .inf s => if s then { bits := f.signBit false } else { bits := (fpRound f false 1 0).1 }
  | .fin s m e =>
    if m = 0 then { bits := (fpRound f false 1 (-1)).1 }
    else if 8 ≤ e + Nat.log2 m then (if s then { bits := f.signBit false } else { bits := (fpRound f false 1 0).1 })
    else { bits := (roundInterval f false (sigEval s m e) 3 640).1 }

/-- `fround`: 0 nearest even, 1 towards zero, 2 towards minus infinity, 3 towards plus infinity; the sign of A is kept (R269). -/
def fpRoundInt (f : FpFormat) (dir : Nat) (a : Nat) : Nat :=
  match fpDecode f a with
  | .nan => f.nan
  | .inf _ => a
  | .fin s m e =>
    if 0 ≤ e then a
    else
      let k := (-e).toNat
      let q := m / 2 ^ k
      let up := if m % 2 ^ k = 0 then q else q + 1
      let v := match dir with
        | 0 => shiftRne m k
        | 1 => q
        | 2 => if s then up else q
        | _ => if s then q else up
      (fpRound f s v 0).1

end Sys2Proof.Machine
end

