-- ==== Sys2Proof/Machine/Scalar.lean ====
section
/-!
DEFINITION. The A slot (R175-R183): 64-bit integer arithmetic, compares and predicates, immediates, scalar floating point.
-/
namespace Sys2Proof.Machine

/-- g[d] := f(g[a], g[b]), readable after `lat` cycles (R170, R176). -/
def aluRR (f : BitVec 64 → BitVec 64 → BitVec 64) (lat : Nat) (q : Qual) (d a b : Reg) (s : State) : State :=
  if s.acts q then s.wg d (f (s.rg a) (s.rg b)) lat else s
/-- p[pd] := f(g[a], g[b]) (R178). -/
def cmpRR (f : BitVec 64 → BitVec 64 → Bool) (q : Qual) (pd : PReg) (a b : Reg) (s : State) : State :=
  if s.acts q then s.wp pd (f (s.rg a) (s.rg b)) else s
/-- g[d] := f(g[a]) (R179). -/
def aluR (f : BitVec 64 → BitVec 64) (q : Qual) (d a : Reg) (s : State) : State :=
  if s.acts q then s.wg d (f (s.rg a)) else s
/-- g[d] := f(g[a]) under a predicate p0..p3 (R180). -/
def aluI (f : BitVec 64 → BitVec 64) (p : Fin 4) (d a : Reg) (s : State) : State :=
  if s.actsP p then s.wg d (f (s.rg a)) else s

def execAdd (q : Qual) (d a b : Reg) (s : State) : Result := .next (aluRR (· + ·) 1 q d a b s)
def execSub (q : Qual) (d a b : Reg) (s : State) : Result := .next (aluRR (· - ·) 1 q d a b s)
def execAnd (q : Qual) (d a b : Reg) (s : State) : Result := .next (aluRR (· &&& ·) 1 q d a b s)
def execOr (q : Qual) (d a b : Reg) (s : State) : Result := .next (aluRR (· ||| ·) 1 q d a b s)
def execXor (q : Qual) (d a b : Reg) (s : State) : Result := .next (aluRR (· ^^^ ·) 1 q d a b s)
def execAndn (q : Qual) (d a b : Reg) (s : State) : Result := .next (aluRR (fun x y => x &&& ~~~y) 1 q d a b s)
def execMin (q : Qual) (d a b : Reg) (s : State) : Result := .next (aluRR minS 1 q d a b s)
def execMax (q : Qual) (d a b : Reg) (s : State) : Result := .next (aluRR maxS 1 q d a b s)
def execMinu (q : Qual) (d a b : Reg) (s : State) : Result := .next (aluRR minU 1 q d a b s)
def execMaxu (q : Qual) (d a b : Reg) (s : State) : Result := .next (aluRR maxU 1 q d a b s)
def execSll (q : Qual) (d a b : Reg) (s : State) : Result := .next (aluRR (fun x y => shl x (low6 y)) 1 q d a b s)
def execSrl (q : Qual) (d a b : Reg) (s : State) : Result := .next (aluRR (fun x y => shr x (low6 y)) 1 q d a b s)
def execSra (q : Qual) (d a b : Reg) (s : State) : Result := .next (aluRR (fun x y => sar x (low6 y)) 1 q d a b s)
def execRol (q : Qual) (d a b : Reg) (s : State) : Result := .next (aluRR (fun x y => x.rotateLeft (low6 y)) 1 q d a b s)
def execMul (q : Qual) (d a b : Reg) (s : State) : Result := .next (aluRR (· * ·) 3 q d a b s)
def execMulh (q : Qual) (d a b : Reg) (s : State) : Result := .next (aluRR mulHighS 3 q d a b s)
def execMulhu (q : Qual) (d a b : Reg) (s : State) : Result := .next (aluRR mulHighU 3 q d a b s)
def execDiv (q : Qual) (d a b : Reg) (s : State) : Result := .next (aluRR divS 34 q d a b s)
def execDivu (q : Qual) (d a b : Reg) (s : State) : Result := .next (aluRR divU 34 q d a b s)
def execRem (q : Qual) (d a b : Reg) (s : State) : Result := .next (aluRR remS 34 q d a b s)
def execRemu (q : Qual) (d a b : Reg) (s : State) : Result := .next (aluRR remU 34 q d a b s)

def execCmpeq (q : Qual) (pd : PReg) (a b : Reg) (s : State) : Result := .next (cmpRR (intCond 0) q pd a b s)
def execCmpne (q : Qual) (pd : PReg) (a b : Reg) (s : State) : Result := .next (cmpRR (intCond 1) q pd a b s)
def execCmplt (q : Qual) (pd : PReg) (a b : Reg) (s : State) : Result := .next (cmpRR (intCond 2) q pd a b s)
def execCmpltu (q : Qual) (pd : PReg) (a b : Reg) (s : State) : Result := .next (cmpRR (intCond 3) q pd a b s)
def execCmple (q : Qual) (pd : PReg) (a b : Reg) (s : State) : Result := .next (cmpRR (intCond 4) q pd a b s)
def execCmpleu (q : Qual) (pd : PReg) (a b : Reg) (s : State) : Result := .next (cmpRR (intCond 5) q pd a b s)

/-- R179. -/
def execSel (q : Qual) (d : Reg) (pc : PReg) (a b : Reg) (s : State) : Result :=
  .next (aluRR (fun x y => if s.rp pc then x else y) 1 q d a b s)
def execClz (q : Qual) (d a : Reg) (s : State) : Result := .next (aluR (fun x => BitVec.ofNat 64 (leadingZeros x)) q d a s)
def execCtz (q : Qual) (d a : Reg) (s : State) : Result := .next (aluR (fun x => BitVec.ofNat 64 (trailingZeros x)) q d a s)
def execPopc (q : Qual) (d a : Reg) (s : State) : Result := .next (aluR (fun x => BitVec.ofNat 64 (popCount x)) q d a s)
def execSext (q : Qual) (d a : Reg) (fn : BitVec 4) (s : State) : Result := .next (aluR (extend true fn) q d a s)
def execZext (q : Qual) (d a : Reg) (fn : BitVec 4) (s : State) : Result := .next (aluR (extend false fn) q d a s)

/-- R180: I := sext(imm12, 12). -/
def execAddi (p : Fin 4) (d a : Reg) (imm : BitVec 12) (s : State) : Result := .next (aluI (· + imm.signExtend 64) p d a s)
def execAndi (p : Fin 4) (d a : Reg) (imm : BitVec 12) (s : State) : Result := .next (aluI (· &&& imm.signExtend 64) p d a s)
def execOri (p : Fin 4) (d a : Reg) (imm : BitVec 12) (s : State) : Result := .next (aluI (· ||| imm.signExtend 64) p d a s)
def execXori (p : Fin 4) (d a : Reg) (imm : BitVec 12) (s : State) : Result := .next (aluI (· ^^^ imm.signExtend 64) p d a s)
def execSlli (p : Fin 4) (d a : Reg) (sh : BitVec 6) (s : State) : Result := .next (aluI (shl · sh.toNat) p d a s)
def execSrli (p : Fin 4) (d a : Reg) (sh : BitVec 6) (s : State) : Result := .next (aluI (shr · sh.toNat) p d a s)
def execSrai (p : Fin 4) (d a : Reg) (sh : BitVec 6) (s : State) : Result := .next (aluI (sar · sh.toNat) p d a s)
def execCmpi (p : Fin 4) (cond : BitVec 3) (pd : PReg) (a : Reg) (imm : BitVec 12) (s : State) : Result :=
  .next (if s.actsP p then s.wp pd (intCond cond (s.rg a) (imm.signExtend 64)) else s)

/-- sext of imm20 followed by twelve zero bits (R181). -/
def upper (imm : BitVec 20) : BitVec 64 := (imm ++ 0#12 : BitVec 32).signExtend 64
def execLui (d : Reg) (imm : BitVec 20) (s : State) : Result := .next (s.wg d (upper imm))
/-- H is the address of the bundle's header. -/
def execAddpc (d : Reg) (imm : BitVec 20) (s : State) : Result := .next (s.wg d (s.cur.hdr.zeroExtend 64 + upper imm))

/-! Scalar floating point (R182, R183): FP32 in bits [31:0], result zero-extended, 4 cycles, records of the A slot -/

/-- The records of a scalar operation: stream 0, group 31, detail the A opcode (R182, R209). -/
def scalarRecords (op : BitVec 8) (invalid overflow divzero intSat : Bool) (s : State) : State :=
  let put (on : Bool) (kind : BitVec 8) (s : State) : State :=
    if on then s.post (statRecord kind false 31 0 0 s.cur.hdr (op.zeroExtend 48)) else s
  put intSat 4 (put divzero 3 (put overflow 2 (put invalid 1 s)))
def fpScalar (op : BitVec 8) (f : Nat → Nat → FpRes) (q : Qual) (d a b : Reg) (s : State) : State :=
  if s.acts q then
    let r := f ((s.rg a).extractLsb' 0 32).toNat ((s.rg b).extractLsb' 0 32).toNat
    scalarRecords op r.invalid r.overflow r.divzero false (s.wg d (BitVec.ofNat 64 r.bits) 4)
  else s
def execFaddS (q : Qual) (d a b : Reg) (s : State) : Result := .next (fpScalar 44 (fpAdd fp32) q d a b s)
def execFsubS (q : Qual) (d a b : Reg) (s : State) : Result := .next (fpScalar 45 (fpSub fp32) q d a b s)
def execFmulS (q : Qual) (d a b : Reg) (s : State) : Result := .next (fpScalar 46 (fpMul fp32) q d a b s)
def execFminS (q : Qual) (d a b : Reg) (s : State) : Result :=
  .next (fpScalar 47 (fun x y => { bits := fpMinMax fp32 false x y }) q d a b s)
def execFmaxS (q : Qual) (d a b : Reg) (s : State) : Result :=
  .next (fpScalar 48 (fun x y => { bits := fpMinMax fp32 true x y }) q d a b s)

/-- A conversion's 64-bit result with its records: invalid, overflow, saturated (R183, R106). -/
def scalarConvert (fn : BitVec 4) (x : BitVec 64) : BitVec 64 × Bool × Bool × Bool :=
  let w := (x.extractLsb' 0 32).toNat
  let h := (x.extractLsb' 0 16).toNat
  let fp (r : FpRes) : BitVec 64 × Bool × Bool × Bool := (BitVec.ofNat 64 r.bits, r.invalid, r.overflow, false)
  match fn.toNat with
  | 0 => let r := fpToIntSat (fpDecode fp32 w) (-(2 ^ 31)) (2 ^ 31 - 1); (bits64 r.1, r.2.2, false, r.2.1)
  | 1 => let r := fpToIntSat (fpDecode fp32 w) 0 (2 ^ 32 - 1); (bits64 r.1, r.2.2, false, r.2.1)
  | 2 => fp (intToFp fp32 (x.extractLsb' 0 32).toInt)
  | 3 => fp (intToFp fp32 w)
  | 4 => fp (intToFp fp32 x.toInt)
  | 5 => fp (fpConvert fp32 bf16 w)
  | 6 => fp (fpConvert bf16 fp32 h)
  | 7 => fp (fpConvert fp32 fp16 w)
  | _ => fp (fpConvert fp16 fp32 h)
def execFcvtS (q : Qual) (d a : Reg) (fn : BitVec 4) (s : State) : Result :=
  .next (if s.acts q then
    let r := scalarConvert fn (s.rg a)
    scalarRecords 49 r.2.1 r.2.2.1 false r.2.2.2 (s.wg d r.1 4)
  else s)
def execFcmpS (q : Qual) (pd : PReg) (a b : Reg) (fn : BitVec 4) (s : State) : Result :=
  .next (if s.acts q then
    s.wp pd (fpCompare fp32 fn.toNat ((s.rg a).extractLsb' 0 32).toNat ((s.rg b).extractLsb' 0 32).toNat) 4
  else s)
def execPlog (q : Qual) (pd pa pb : PReg) (tt : BitVec 4) (s : State) : Result :=
  .next (if s.acts q then s.wp pd (truthTable tt (s.rp pa) (s.rp pb)) else s)

end Sys2Proof.Machine
end

