-- ==== Sys2Proof/Machine/Views.lean ====
section
/-!
DEFINITION. Held views (R379, R382, R383): which accesses go to a view home, what an untouched line reads as, and the writes to local
spaces that wait for the end of the cycle.
-/
namespace Sys2Proof.Machine

/-- Byte x of the identity of a merge operator (R382). -/
def identityByte (op : Fin 8) (x : Nat) : BitVec 8 :=
  let w : BitVec 32 := match op.val with
    | 0 => 0x80000000
    | 3 => 0xFF800000
    | 4 => 0x7F800000
    | _ => 0
  w.extractLsb' (8 * (x % 4)) 8
/-- Bytes of an entry's region. -/
def ViewEntry.size (e : ViewEntry) : Nat := 128 * (e.linesM1.toNat + 1)
/-- The held entry whose region contains the n bytes at an address, with the offset in it. -/
def findHeld (vts : Vector ViewEntry 8) (gal : Bool) (a n : Nat) : Option (Fin 8 × Nat) :=
  ((List.finRange 8).find? fun i =>
    let e := vts[i]
    e.valid && e.held && e.gal == gal && decide (e.base.toNat ≤ a ∧ a + n ≤ e.base.toNat + e.size)).map fun i =>
      (i, a - vts[i].base.toNat)
/-- The n bytes at region offset x as the task sees them. -/
def Body.readHeld (b : Body) (e : ViewEntry) (x n : Nat) : List (BitVec 8) :=
  (List.range n).map fun i =>
    if e.touched.contains ((x + i) / 128) then sget 0 b.gal (e.home.toNat + x + i) else identityByte e.op (x + i)
/-- The lines that n bytes at region offset x reach. -/
def linesOf (x n : Nat) : List Nat := if n = 0 then [] else (List.range ((x + n - 1) / 128 - x / 128 + 1)).map (· + x / 128)
/-- An untouched line filled with the identity bytes in the home, and marked. -/
def Body.touchLine (b : Body) (t : Fin 8 × Nat) : Body :=
  let e := b.vts[t.1]
  if e.touched.contains t.2 then b
  else
    let fill := (List.range 128).map (identityByte e.op ·)
    { (b.write .gal (e.home.toNat + 128 * t.2) fill) with vts := b.vts.set t.1 { e with touched := t.2 :: e.touched } }
/-- The write records of a local write (R130). -/
def LocalWrite.records (w : LocalWrite) : List WriteRec :=
  byteRecords w.src (w.space.code.zeroExtend 8) (w.bytes.zipIdx.map fun (x, i) => (w.off + i, x))
/-- A local write performed at the end of its cycle. -/
def Body.performLocal (b : Body) (w : LocalWrite) : Body :=
  ((w.touch.foldl Body.touchLine b).write w.space w.off w.bytes).logWrites (if w.foreign then [] else w.records)
/-- A write to the home of a held entry. -/
def heldWrite (vts : Vector ViewEntry 8) (rank : Nat) (src : Src) (i : Fin 8) (x : Nat) (bs : List (BitVec 8)) : LocalWrite :=
  ⟨rank, .gal, vts[i].home.toNat + x, bs, src, (linesOf x bs.length).map fun l => (i, l), false⟩
def State.laterWrite (s : State) (w : LocalWrite) : State := s.modMe fun b => { b with locals := b.locals ++ [w] }

/-- n gallery bytes at A, as an instruction of the task reads them. -/
def Body.readGal (b : Body) (a n : Nat) : List (BitVec 8) :=
  match findHeld b.vts true a n with
  | some (i, x) => b.readHeld b.vts[i] x n
  | none => b.read .gal a n
/-- Gallery bytes written at the end of the cycle. -/
def State.writeGal (s : State) (rank a : Nat) (bs : List (BitVec 8)) : State :=
  match findHeld s.pre.vts true a bs.length with
  | some (i, x) => s.laterWrite (heldWrite s.pre.vts rank s.src i x bs)
  | none => s.later rank .gal a bs

end Sys2Proof.Machine
end

