-- ==== Sys2Proof/Machine/Fabric.lean ====
section
/-!
DEFINITION. Requests of cores on their way (R136, R443-R463): bank ports, concourse, misses, places at the home slice, answers. Trip
times are the least times of R444 and R458 plus a wait that the spec leaves free.
-/
namespace Sys2Proof.Machine

/-! Requests -/

def State.request? (s : State) (id : Nat) : Option Request := s.requests.find? (·.id == id)
def State.putRequest (s : State) (r : Request) : State := { s with requests := s.requests.map fun x => if x.id = r.id then r else x }
def State.dropRequest (s : State) (id : Nat) : State := { s with requests := s.requests.filter (·.id != id) }
/-- A free wait (log 6). DESIGN CHOICE (log 6). -/
def State.wait (s : State) : Nat × State := (Config.fabricWait s.fresh, { s with fresh := s.fresh + 1 })
/-- Writes global memory. -/
def Request.writes (r : Request) : Bool :=
  match r.op with
  | .access (.sibling ..) .. => false
  | .store _ | .copyWrite _ | .atomic .. | .reduce .. | .decrement _ => true
  | .access _ _ _ bytes => bytes.isSome
  | _ => false
def Request.fetches (r : Request) : Bool :=
  match r.op with
  | .fetch _ => true
  | _ => false
/-- Answered by a value; the others are acknowledged. -/
def Request.returns (r : Request) : Bool :=
  match r.op with
  | .load .. | .phaser .. | .fetch _ | .prefetch | .purgeTlb | .migrate .. | .decrement _ | .peer _ => true
  | .access _ _ _ bytes => bytes.isNone
  | .atomic _ _ _ d | .reduce _ _ _ _ d => d.val ≠ 0
  | .store _ | .copyWrite _ | .arrive _ | .carry _ => false
/-- Made by no core: by the usher or the host port on base die 0, or by a peer (R18, R475). -/
def Request.outer (r : Request) : Bool :=
  match r.op with
  | .access (.usher _) .. | .access .host .. | .decrement _ | .peer _ | .carry _ => true
  | _ => false
/-- A request of the core. -/
def Request.from (r : Request) (c : CoreId) : Bool := r.core == c && !r.outer
/-- The die it comes from; for a peer that of its link. -/
def Request.die (r : Request) : Fin 8 := if r.outer then r.exit_ else dieOf r.core
/-- Traffic class of R462; the table names none for the usher, which shares that of the host port beside it. DESIGN CHOICE (log 45). -/
def Request.trafficClass (r : Request) : Fin 8 :=
  match r.op with
  | .copyWrite _ | .arrive _ => 1
  | .access (.copy ..) .. | .access (.transform ..) .. => 1
  | .access (.merge _) .. | .access (.sibling ..) .. => 2
  | .access .. | .decrement _ => 3
  | .peer _ => 4
  | .migrate .. => 5
  | .carry cl => cl
  | .atomic .. | .reduce .. | .phaser .. => 7
  | _ => 0
def Request.sameLine (a b : Request) : Bool := a.asn == b.asn && lineOf a.va == lineOf b.va

/-! Sending: order fields and free requests (R151, R444) -/

/-- Requests of a core that are at a port or beyond. -/
def State.outstanding (s : State) (c : CoreId) : Nat := (s.requests.filter fun r => r.from c && r.stage != .queued).length
/-- On its way between the home slice and the host or a peer. -/
def Request.abroad (r : Request) : Bool := r.stage == .packetOut || r.stage == .away || r.stage == .packetIn
/-- The access names host or peer memory. -/
def State.leaves (s : State) (r : Request) : Bool :=
  r.abroad || (match (s.translate r.asn r.va).1 with
    | .ok t => (match regionOf (t.pa r.va) with
      | .host | .peer _ => true
      | _ => false)
    | .error _ => false)
/-- An access is performed at a scope (R135, R150); narrower scopes do not cover host and peer memory (R159). -/
def State.performedAt (s : State) (r : Request) (sc : Scope) : Bool :=
  (sc == .d && (match r.op, r.dieAck with
    | .store _, some t => decide (t < s.cycle)
    | _, _ => false)) ||
  (sc != .s && s.leaves r)
/-- Earlier G-slot accesses of a core, not yet performed at a scope. -/
def State.unperformed (s : State) (c : CoreId) (before : Nat) (sc : Scope) : List Request :=
  s.requests.filter fun r => r.from c && r.gslot && decide (r.id < before) && !s.performedAt r sc
def State.mayS (s : State) (r : Request) : Bool :=
  decide (s.outstanding r.core < 4096) &&
  ((r.order == .rlx || r.order == .acq) || (s.unperformed r.core r.id r.scope).isEmpty) &&
  !s.requests.any fun x => x.from r.core && x.stage == .queued && decide (x.id < r.id) && x.sameLine r
/-- Waiting requests of a core that may be sent are at their ports two cycles later. -/
def State.sendReady (s : State) (c : CoreId) : State :=
  (s.requests.filter fun r => r.from c && r.stage == .queued).foldl (fun s r =>
    if s.mayS r then s.putRequest { r with stage := .port, due := s.cycle + 2 } else s) s
/-- A new request of the core whose instruction is under way. -/
def State.newRequest (s : State) (r : Request) : Nat × State :=
  (s.nextId, { s with nextId := s.nextId + 1, requests := s.requests ++ [{ r with id := s.nextId }] })

/-! The concourse (R458-R462) -/

/-- Dies next on a minimal way: the hop that changes the column, then the one that changes the row. -/
def productive (a b : Fin 8) : List (Fin 8) :=
  (if a.val % 4 < b.val % 4 then [a + 1] else if b.val % 4 < a.val % 4 then [a - 1] else []) ++
    (if a.val / 4 < b.val / 4 then [a + 4] else if b.val / 4 < a.val / 4 then [a - 4] else [])
/-- The count that router n last reported to its neighbour d; a router that is down reports the largest (R459, R461). -/
def State.reportOf (s : State) (d n : Fin 8) : Nat := if s.routers[n].up then s.routers[n].counts[d] else 2 ^ 32
/-- A packet in the concourse. -/
def Request.inConcourse (r : Request) : Bool :=
  r.stage == .packet || r.stage == .packetBack || r.stage == .packetOut || r.stage == .packetIn || r.stage == .walkOut || r.stage == .walkBack ||
    r.stage == .fillOut || r.stage == .fillBack
/-- The class that a packet is counted in as it stands: beyond the home slice Photur links and the host port have their own, and so have walks,
and the fills and write-backs between dies (R462). -/
def Request.packetClass (r : Request) : Fin 8 :=
  match r.stage with
  | .packetOut | .packetIn => if r.trans.any fun t => regionOf (t.pa r.va) == .host then 3 else 4
  | .walkOut | .walkBack => 5
  | .fillOut | .fillBack => 6
  | _ => r.trafficClass
/-- The slice, controller, port or unit of a die that a packet is sent from: slices 0..15, controllers 16 and 17, usher 18, host port 19, Photur
ports 20. -/
def Request.source (r : Request) : Nat :=
  match r.stage, r.op with
  | .packetIn, _ => if r.packetClass = 3 then 19 else 20
  | .walkOut, _ | .walkBack, _ | .fillOut, _ | .fillBack, _ => 16 + (controllerOf r.va).val % 2
  | .packet, .peer _ => 20
  | .packet, .access .host .. => 19
  | .packet, .access (.usher _) .. | .packet, .decrement _ => 18
  | .packet, .carry _ => 16 + (controllerOf r.va).val % 2
  | _, _ => (homeSlice r.va).val
/-- The router that a packet goes to next: of two productive ones the one that reports less, on a tie the hop that changes the column; in the
escape channel always that one (R459). -/
def State.nextHop (s : State) (r : Request) : Option (Fin 8) :=
  match productive r.at_ r.last with
  | [x, y] => some (if r.escaped = false ∧ s.reportOf r.at_ y < s.reportOf r.at_ x then y else x)
  | [x] => some x
  | _ => none
/-- The packet is at a router, or waits for it. -/
def State.usesRouter (s : State) (r : Request) (d : Fin 8) : Bool := r.inConcourse && (r.at_ == d || s.nextHop r == some d)
/-- A wake signal: the router accepts packets 64 cycles later (R461). -/
def State.wakeRouter (s : State) (d : Fin 8) : State :=
  { s with routers := Vec.modify s.routers d fun r => if r.up then r else { r with wakeAt := some (r.wakeAt.getD (s.cycle + 64)) } }
/-- The packet comes to a router at which it could go on from a cycle on, and waits there a free number of cycles. DESIGN CHOICE (log 36). -/
def State.enterRouter (s : State) (r : Request) (d : Fin 8) (from_ : Nat) : State :=
  let w := s.wait
  w.2.putRequest { r with at_ := d, since := from_, due := from_ + w.1 }
/-- Cycles that a class over its budget waits for, while a packet of another class waits to be sent from the same slice or unit (R462).
DESIGN CHOICE (log 36). -/
def State.budgetWait (s : State) (d : Fin 8) (r : Request) : Nat :=
  let limit := s.fabcfg.budget[r.packetClass]
  if limit ≠ 0xFFFF ∧ limit ≤ s.sent[d][r.packetClass] ∧
      s.requests.any (fun x => x.packetClass != r.packetClass && x.inConcourse && x.at_ == d && x.source == r.source && decide (s.cycle < x.sentAt)) then
    1600 - s.cycle % 1600
  else 0
/-- The request as a packet from die a to die b, sent in the next cycle at the earliest; without a hop it takes 8 cycles (R458). -/
def State.sendPacket (s : State) (r : Request) (a b : Fin 8) (stage : Stage) (counted : Bool) : State :=
  let r := { r with stage }
  let sentAt := s.cycle + 1 + s.budgetWait a r
  let s := { s with sent := if counted then Vec.modify s.sent a (fun v => Vec.modify v r.packetClass (· + 1)) else s.sent }
  s.enterRouter { r with sentAt, last := b, escaped := false } a (sentAt + 8)
/-- A packet has left a router and those that it could have gone to. -/
def State.leaveRouter (s : State) (r : Request) : State :=
  { s with routers := (r.at_ :: productive r.at_ r.last).foldl (fun rs d => Vec.modify rs d fun x => { x with idleFrom := s.cycle }) s.routers }
/-- A packet that nothing keeps waiting goes on to the next router, 8 cycles away; it wakes the one that it needs where that is down (R458, R459,
R461). -/
def State.hop (s : State) (r : Request) : State :=
  if s.routers[r.at_].up = false then s.wakeRouter r.at_
  else match s.nextHop r with
    | none => s
    | some n => if s.routers[n].up then (s.leaveRouter r).enterRouter r n (s.cycle + 8) else s.wakeRouter n
/-- The packet could leave its router in this cycle, or needs one that is down. -/
def State.hops (s : State) (r : Request) : Bool :=
  r.inConcourse && decide (r.due ≤ s.cycle) && (r.at_ != r.last || !s.routers[r.at_].up)
/-- Every packet that can goes on. DESIGN CHOICE (log 36). -/
def State.hopTurn (s : State) : State := (s.requests.filter s.hops).foldl State.hop s
/-- A packet has waited at a router for 32 cycles (R459). -/
def State.escapes (s : State) (r : Request) : Bool := r.inConcourse && !r.escaped && r.at_ != r.last && decide (r.since + 32 ≤ s.cycle)
/-- It moves to the escape channel, where it waits for buffers anew. DESIGN CHOICE (log 36). -/
def execEscape (id : Nat) (s : State) : Result :=
  .next (match s.request? id with
    | some r => if s.escapes r then s.enterRouter { r with escaped := true } r.at_ s.cycle else s
    | none => s)
/-- Packet buffers of a router in use. -/
def State.occupied (s : State) (d : Fin 8) : Nat := (s.requests.filter fun r => r.inConcourse && r.at_ == d && decide (r.sentAt ≤ s.cycle)).length
def neighbours (d : Fin 8) : List (Fin 8) := (List.finRange 8).filter fun n => (productive d n) == [n]
/-- The count that a router sends a neighbour: its own buffers and those of its neighbour on the other side, to which a packet from there goes on
(R459). DESIGN CHOICE (log 36). -/
def State.regionalCount (s : State) (d n : Fin 8) : Nat :=
  s.occupied d + match (neighbours d).find? fun x => (x.val : Int) - d.val == (d.val : Int) - n.val with
    | some x => s.occupied x
    | none => 0
def execRegionalCount (die : Fin 8) (s : State) : Result :=
  .next (if s.cycle % 4 = 0 then { s with
      routers := Vec.modify s.routers die fun r => { r with
        counts := Vec.ofFn fun n => if (neighbours die).contains n then s.regionalCount die n else 0, reported := some s.cycle } }
    else s)
/-- rsleep cycles have passed without a packet, but for one that has come in this cycle (R461). -/
def State.routerIdle (s : State) (d : Fin 8) : Bool :=
  let r := s.routers[d]
  d != 0 && r.up && s.fabcfg.rsleep != 0 && decide (r.idleFrom + s.fabcfg.rsleep ≤ s.cycle) && decide (r.stayUp ≤ s.cycle) &&
    s.requests.all fun x => !s.usesRouter x d || decide (s.cycle ≤ x.since)
/-- The router powers down; where a packet has come to wake it in the same cycle, it stays up for 256 cycles (R461). -/
def execRouterSleep (die : Fin 8) (s : State) : Result :=
  .next (if s.routerIdle die then { s with
      routers := Vec.modify s.routers die fun r =>
        if s.requests.any fun x => s.usesRouter x die then { r with stayUp := s.cycle + 256 } else { r with up := false, idleFrom := s.cycle, wakeAt := none } }
    else s)
def execRouterWake (die : Fin 8) (s : State) : Result :=
  .next (match s.routers[die].wakeAt with
    | some t => if t ≤ s.cycle then { s with
        routers := Vec.modify s.routers die fun r => { r with up := true, wakeAt := none, idleFrom := s.cycle } } else s
    | none => s)
def execTrafficPeriod (s : State) : Result :=
  .next (if s.cycle % 1600 = 0 then
    { s with sent := Vector.replicate 8 (Vector.replicate 8 0), period := s.cycle / 1600 } else s)

/-! Lines that enter and leave hall slices and the atrium (R446-R448, R454, R456, R463) -/

/-- A line goes to another die as a packet of a class. -/
def State.carryLine (s : State) (cl : Fin 8) (asn : BitVec 12) (line : Nat) (a b : Fin 8) : State :=
  if a = b then s
  else
    let r : Request := { id := s.nextId, core := 0, baddr := 0, issued := 0, asn, va := BitVec.ofNat 56 (128 * line), op := .carry cl, gslot := false }
    State.sendPacket { s with nextId := s.nextId + 1, requests := s.requests ++ [r] } r a b .packet true
/-- A dirty line is written back to the atrium of its frame's die (R446). -/
def State.writeBack (s : State) (h : HallLine) : State :=
  if h.dirty then s.carryLine 6 h.asn h.line (homeDie (BitVec.ofNat 56 (128 * h.line))) (Fin.ofNat 8 (stackDie h.pline)) else s
/-- A line leaves its slice; its tag count goes to the atrium. DESIGN CHOICE (log 11). -/
def State.evict (s : State) (h : HallLine) : State :=
  let s := s.writeBack h
  { s with
    hall := s.hall.filter (· != h)
    atrium := ⟨h.asn, h.line, h.pline, h.tag⟩ :: s.atrium.filter (·.pline != h.pline) }
/-- The one alias of a physical line gives way to a new one (R448). -/
def State.dropAliases (s : State) (asn : BitVec 12) (line pline : Nat) : State :=
  let other (a : BitVec 12) (l p : Nat) : Bool := p == pline && !(a == asn && l == line)
  let s := (s.hall.filter fun h => other h.asn h.line h.pline).foldl State.writeBack s
  { s with
    hall := s.hall.filter fun h => !other h.asn h.line h.pline
    atrium := s.atrium.filter fun h => !other h.asn h.line h.pline }
/-- Room for one line more in an atrium part: where it is full a line leaves it, recalled from its slice first; never one that is provisional,
pinned or waited for there (R447). DESIGN CHOICE (log 11). -/
def State.atriumRoom (s : State) (d : Nat) : State :=
  if s.atriumUse d < atriumLines then s
  else
    let mine := (s.atrium.filter fun a => stackDie a.pline == d).map (·.pline) ++
      ((s.hall.filter fun h => stackDie h.pline == d && !s.provisional h && !s.pendingAt h && !s.pinnedLine h.asn h.line).map (·.pline))
    match mine[Config.victim s.fresh % mine.length]? with
    | some p =>
      let s := (s.hall.filter (·.pline == p)).foldl State.writeBack s
      { s with hall := s.hall.filter (·.pline != p), atrium := s.atrium.filter (·.pline != p), fresh := s.fresh + 1 }
    | none => s
/-- A line filled: the count of its alias, or CYCLE where none is found (R463). -/
def State.fillLine (s : State) (asn : BitVec 12) (v : VA) (t : Trans) : State :=
  let line := lineOf v
  let pline := t.pa v / 128
  let s := s.dropAliases asn line pline
  let s := if s.atrium.any (·.pline == pline) then s else s.atriumRoom (stackDie pline)
  let s := if s.wayFree asn line then s else
    match (s.evictable line)[Config.victim s.fresh % (s.evictable line).length]? with
    | some h => { (s.evict h) with fresh := s.fresh + 1 }
    | none => s
  let tag := match s.atrium.find? fun a => a.asn == asn && a.line == line && a.pline == pline with
    | some a => a.tag
    | none => BitVec.ofNat 48 s.cycle
  { s with
    hall := s.hall ++ [{
      asn, line, pline, w := t.w, x := t.x, stream := t.stream, comp := t.comp, tag, beyond := s.goesBeyond asn line, touched := s.cycle }]
    atrium := s.atrium.filter (·.pline != pline) }
/-- Errors that memory shows as a line of it is read: a corrected one is counted, an uncorrectable one poisons the line (R449).
DESIGN CHOICE (log 40). -/
def State.memoryErrors (s : State) (pline : Nat) : State :=
  let stack := pline * 128 / 0x900000000
  let e := Config.memoryError s.fresh
  let s := { s with fresh := s.fresh + 1 }
  if e = 1 then { s with newel := { s.newel with corrected := if h : stack < 16 then s.newel.corrected.set stack (s.newel.corrected[stack] + 1) else s.newel.corrected } }
  else if e = 2 ∧ s.poison.contains pline = false then { s with poison := pline :: s.poison }
  else s
/-- The lines of a page leave the hall slices and its translations the MTLBs; a fill under way is translated anew (R454). -/
def State.purgePage (s : State) (asn : BitVec 12) (page size : Nat) : State :=
  let inPage (l : Nat) : Bool := decide (page ≤ 128 * l ∧ 128 * l < page + size)
  let s := (s.hall.filter fun h => h.asn == asn && inPage h.line).foldl State.evict s
  { s with
    mtlb := s.mtlb.filter fun e => !(e.asn == asn && decide (e.base < page + size) && decide (page < e.base + e.trans.size))
    requests := s.requests.map fun x =>
      if x.asn = asn ∧ inPage (lineOf x.va) ∧ (x.stage = .fill ∨ x.stage = .fillOut ∨ x.stage = .fillBack) then { x with trans := none } else x }
/-- The lines of a declared region are made resident, as far as they can be translated; those of the region before it become ordinary lines
(R456). DESIGN CHOICE (log 11). -/
def State.pinRegion (s : State) (asn : BitVec 12) (base len : Nat) : State :=
  let s := (s.hall.filter fun h => h.beyond && !s.pinnedLine h.asn h.line).foldl State.evict s
  (List.range (len / 128)).foldl (fun s i =>
    let v : VA := BitVec.ofNat 56 (base + 128 * i)
    if (s.hallLine asn v).isSome then s
    else match s.translate asn v with
      | (.ok t, s) =>
        if regionOf (t.pa v) = .hbm ∧ t.phaser = false ∧ s.canFill asn (lineOf v) ∧ s.aliasHeld asn (lineOf v) (t.pa v / 128) = false then (s.fillLine asn v t).memoryErrors (t.pa v / 128)
        else s
      | (.error _, s) => s) s

/-! At the home slice -/

/-- The die that serves a request: that of its home slice; for a peer's that of the resident alias, else the frame's (R475); that of the core whose
local memory a merge unit reaches (R385). -/
def State.servedAt (s : State) (r : Request) : Fin 8 :=
  match r.op with
  | .peer q => s.holderOf (q.pa / 128)
  | .access (.sibling _ d _) .. => dieOf d
  | _ => homeDie r.va
/-- The answer leaves: through the core's own slice, or back over the concourse. -/
def State.answer (s : State) (r : Request) : State :=
  if r.outer then s.sendPacket r (s.servedAt r) r.die .packetBack r.returns
  else if s.servedAt r = dieOf r.core then
    s.putRequest { r with stage := .back, due := if r.accepted = s.cycle then s.cycle + 8 else max (r.accepted + 8) (s.cycle + 1) }
  else s.sendPacket r (s.servedAt r) (dieOf r.core) .packetBack r.returns
def State.refuse (s : State) (r : Request) (c : Cause) : State := s.answer { r with fault := some c }
/-- Reads and then writes its place. -/
def Request.combines (r : Request) : Bool :=
  match r.op with
  | .atomic .. | .reduce .. | .decrement _ => true
  | _ => false
/-- At the home slice of its line or at the controller, and not placed yet. -/
def Request.missing (r : Request) : Bool :=
  r.stage == .walk || r.stage == .walkOut || r.stage == .walkBack || r.stage == .fillOut || r.stage == .fillBack || r.stage == .fill
/-- A request waits: one to the line that has arrived at its home slice before is not placed yet, or its page is being switched (R148, R149, R154,
R466). -/
def State.blocked (s : State) (r : Request) : Bool :=
  (s.requests.any fun x => decide (x.place < r.place) && x.sameLine r && (x.missing || x.stage == .engine)) ||
    s.migrations.any fun m => m.switching && m.inPage r.asn (128 * lineOf r.va) 128
/-- The physical address of the operand. -/
def Request.pa (r : Request) : Nat :=
  match r.trans with
  | some t => if r.fetches then t.pa r.va / 128 * 128 else t.pa r.va
  | none => 0
/-- An engine's read of a line of host memory has not been followed by its write, so that nothing else is placed there (R354). -/
def State.combining (s : State) (id pa : Nat) : Bool :=
  s.requests.any fun x => x.id != id && x.abroad && x.combines && x.pa / 128 == pa / 128
/-- An earlier access to the line is on its way to the port and not placed, so that no engine may read there yet (R354). -/
def State.exiting (s : State) (r : Request) : Bool :=
  s.requests.any fun x => x.id != r.id && (x.stage == .packetOut || x.stage == .away) && x.pa / 128 == r.pa / 128
/-- A line that the core may cache after this access, in the state that `f` gives. DESIGN CHOICE (log 11). -/
def State.cacheFor (s : State) (r : Request) (t : Trans) (f : Directory → Directory) : State :=
  if t.stream then s else s.cacheLine r.core r.asn r.va f
def Request.size (r : Request) : Nat :=
  match r.op with
  | .load n .. => n
  | .store bs | .copyWrite bs => bs.length
  | .access _ _ n _ => n
  | .atomic .fadd .. => 4
  | .atomic .. | .decrement _ => 8
  | .reduce .. => 32
  | .phaser .. | .arrive _ => 64
  | .fetch _ | .prefetch | .purgeTlb | .migrate .. | .peer _ | .carry _ => 128
/-- Host and peer memory: the home slice forwards the access over the concourse to the port that leaves the package (R18, R447, R474). -/
def State.sendAway (s : State) (r : Request) (exit_ : Fin 8) (bytes : Option (List (BitVec 8))) : State :=
  s.sendPacket { r with exit_, out := bytes } (homeDie r.va) exit_ .packetOut true
/-- At the port it leaves the module (R473). -/
def State.exit (s : State) (r : Request) : State :=
  { s.putRequest { r with stage := .away } with
    aways := s.aways ++ [⟨s.nextId, .request r.id, r.pa, r.size, r.out, s.cycle, none⟩], nextId := s.nextId + 1 }
/-- What came of it goes back to the home slice. -/
def State.comeBack (s : State) (r : Request) : State :=
  s.sendPacket r r.exit_ (homeDie r.va) .packetIn (r.out.isNone)
/-- The access at a physical address of HBM (R350, R449, R455). -/
def State.serveHbm (s : State) (r : Request) (t : Trans) (pa : Nat) : State :=
  let s := s.modHall r.asn r.va fun h => { h with touched := s.cycle }
  let place (bs : List (BitVec 8)) (store : Bool) : State :=
    if s.placedNow r.asn r.va then s.putRequest { r with stage := .walk, due := s.cycle + 1 }
    else
      let p := s.placeTag r.asn r.va
      let s := p.2.placeWrite pa bs
      ((if store then s.cacheFor r t (·.take r.core true) else s).answer { r with tag := p.1 })
  match r.op with
  | .load n .. =>
    if s.poison.contains (pa / 128) then s.refuse r .machineCheck
    else (s.cacheFor r t (·.take r.core false)).answer { r with data := s.physRead pa n }
  | .fetch _ => if s.poison.contains (pa / 128) then s.refuse r .machineCheck else s.answer { r with data := s.physRead pa 128 }
  | .prefetch => (s.cacheFor r t (·.share r.core)).answer r
  | .access _ _ n none =>
    if s.poison.contains (pa / 128) then s.refuse r .machineCheck
    else s.answer { r with data := s.physRead pa n }
  | .access _ _ _ (some bs) => place bs false
  | .store bs => place bs true
  | .copyWrite bs => place bs false
  | .atomic .. | .reduce .. | .decrement _ =>
    -- a line that does not compress is held expanded and is not hot (R457)
    (s.modHall r.asn r.va fun h => { h with hot := t.comp && Config.compresses (s.physRead (pa / 128 * 128) 128) }).putRequest
      { r with stage := .engine, due := s.cycle, trans := some t }
  | .phaser .. | .arrive _ => s.refuse r .protection
  | .purgeTlb | .migrate .. | .peer _ | .carry _ => s.answer r
/-- Another access to the line has taken its place in this cycle on its way out of the package (R463). -/
def State.placedAway (s : State) (r : Request) : Bool :=
  s.requests.any fun x => x.id != r.id && x.sameLine r && x.abroad && x.tag == BitVec.ofNat 48 s.cycle + 1
/-- An access to host or peer memory through the port on a die takes its place in the line's order; one to a line that an engine combines waits
for it, and an engine's read waits for those before it (R354, R463). -/
def State.serveAway (s : State) (r : Request) (t : Trans) (exit_ : Fin 8) : State :=
  let r := { r with trans := some t, tag := BitVec.ofNat 48 s.cycle + 1 }
  match r.op with
  | .phaser .. | .arrive _ => s.refuse r .protection
  | .prefetch => s.answer r
  | _ =>
    if s.combining r.id r.pa ∨ s.placedAway r ∨ (r.combines ∧ s.exiting r) then s.putRequest { r with stage := .walk, due := s.cycle + 1 }
    else s.sendAway r exit_ (match r.op with
      | .store bs | .copyWrite bs => some bs
      | .access _ _ _ bytes => bytes
      | _ => none)
/-- The access at any physical address (R358, R442, R447, R464). -/
def State.serve (s : State) (r : Request) (t : Trans) : State :=
  let pa := if r.fetches then t.pa r.va / 128 * 128 else t.pa r.va
  match regionOf pa with
  | .hbm => if t.phaser then s.refuse r .protection else s.serveHbm r t pa
  | .phaser _ =>
    match r.op with
    | .load n .. => s.answer { r with data := s.physRead pa n }
    | .fetch _ => s.answer { r with data := s.physRead pa 128 }
    | .access _ _ n none => s.answer { r with data := s.physRead pa n }
    | .prefetch => s.answer r
    | .phaser .. | .arrive _ =>
      if t.phaser then s.putRequest { r with stage := .engine, due := s.cycle, trans := some t } else s.refuse r .protection
    | _ => s.refuse r .protection
  | .status =>
    match r.op with
    | .load 8 .. => s.answer { r with data := bytesLE 8 (s.statusRead (pa - statusBase)).toNat }
    | .prefetch => s.answer r
    | _ => s.refuse r .protection
  | .peer p =>
    match s.viaPeer (Fin.ofNat 128 (16 * (homeDie r.va).val + (homeSlice r.va).val)) p with
    | some (l, s) => s.serveAway r t (Fin.ofNat 8 (l.val / 2))
    | none => s.refuse r .protection
  | .host => s.serveAway r t 0
  | .reserved => s.refuse r .protection
/-- A hit with the permission it needs (R446). -/
def State.hitFor (s : State) (r : Request) : Option Trans :=
  match s.hallLine r.asn r.va with
  | some h => if (!r.writes || h.w) && (!r.fetches || h.x) then some ⟨128 * h.pline, 128, h.w, h.x, h.stream, false, h.comp⟩ else none
  | none => none
/-- A read or a write of a merge unit in the local memory of another core: of a view through its home, of the gallery at an offset (R385); the
write is recorded by the core whose merge unit makes it (R130). -/
def State.serveSibling (s : State) (r : Request) (c d : CoreId) (vt : Option (Fin 8)) (n : Nat) (bytes : Option (List (BitVec 8))) : State :=
  let b := s.cores[d].b
  let off := r.va.toNat
  match bytes with
  | none => s.answer { r with data := match vt with
      | some i => b.readHeld b.vts[i] off n
      | none => b.read .gal off n }
  | some bs =>
    let src := s.cores[c].task.endtSrc
    let w : LocalWrite := match vt with
      | some i => heldWrite b.vts 3 src i off bs
      | none => { rank := 3, space := .gal, off, bytes := bs, src }
    let s := s.modBody d fun b => { b with locals := b.locals ++ [{ w with foreign := true }] }
    (s.modBody c (·.logWrites w.records)).answer r
/-- A request arrives at its home slice and takes its place behind those that have (R148, R154): served on a hit; a miss goes to the
controller. Purges and migrations are the controller's. -/
def State.atHome (s : State) (r : Request) : State :=
  let r := { r with place := s.places }
  let s := { s with places := s.places + 1 }
  match r.op with
  | .peer _ => s.putRequest { r with stage := .working, due := s.cycle }
  | .carry _ => s.dropRequest r.id
  | .access (.sibling c d vt) _ n bytes => s.serveSibling r c d vt n bytes
  | .purgeTlb | .migrate .. =>
    let w := s.wait
    w.2.putRequest { r with stage := .working, due := s.cycle + 1 + w.1 }
  | _ =>
    match s.hitFor r, s.blocked r with
    | some t, false => s.serve r t
    | _, _ =>
      let w := s.wait
      w.2.putRequest { r with stage := .walk, due := s.cycle + 1 + w.1 }

/-! Bank ports (R444, R445) -/

def Request.atSlice (r : Request) (c : CoreId) (sl : Fin 16) : Bool := r.from c && homeSlice r.va == sl
/-- The request that the slice accepts next from the core's port in this cycle. -/
def State.portNext (s : State) (c : CoreId) (sl : Fin 16) : Option Request :=
  if s.cycle % 16 ≠ c.val % 16 then none
  else if 2 ≤ (s.requests.filter fun r => r.atSlice c sl && r.accepted == s.cycle && r.stage != .queued && r.stage != .port).length then none
  else s.requests.find? fun r => r.atSlice c sl && r.stage == .port && decide (r.due ≤ s.cycle)
/-- Of two requests that write a byte, the one accepted later. -/
def Request.later (a : Option Request) (r : Request) : Option Request :=
  match a with
  | some x => if x.place < r.place then some r else some x
  | none => some r
/-- The byte of an address as the writes that a forwarding slice holds leave it: known where the last of them is a store. -/
def heldByte (held : List Request) (a : Nat) : Option (BitVec 8) :=
  match (held.filter fun x => x.writes && decide (x.va.toNat ≤ a ∧ a < x.va.toNat + x.size)).foldl Request.later none with
  | some x => match x.op with
    | .store bs => bs[a - x.va.toNat]?
    | _ => none
  | none => none
/-- The bytes of a load that stores of its die give, which the forwarding slice holds and has not forwarded (R136). -/
def State.heldForward (s : State) (r : Request) (n : Nat) : Option (List (BitVec 8)) :=
  let held := s.requests.filter fun x => x.stage == .packet && x.die == r.die && x.sameLine r && decide (s.cycle < x.sentAt)
  (List.range n).mapM fun i => heldByte held (r.va.toNat + i)
/-- A request accepted by the slice of its own die: placed or served there, or forwarded. -/
def State.accept (s : State) (r : Request) : State :=
  let home := s.servedAt r
  if home = dieOf r.core then s.atHome { r with accepted := s.cycle }
  else
    let r := { r with accepted := s.cycle, dieAck := some (s.cycle + 10), place := s.places }
    let s := { s with places := s.places + 1 }
    let forward : State := s.sendPacket r (dieOf r.core) home .packet true
    match r.op with
    | .load n .. =>
      match s.heldForward r n with
      | some bs => s.putRequest { r with stage := .back, due := s.cycle + 8, data := bs }
      | none => forward
    | _ => forward
/-- DESIGN CHOICE (log 36). -/
def execBankPortRequest (c : CoreId) (slice : Fin 16) (s : State) : Result :=
  .next (match s.portNext c slice with
    | some r => s.accept r
    | none => s)
/-- An earlier packet of the same forwarding slice to the same home slice has not been accepted (R460); beyond the home slice an earlier packet to
the line has not reached the port (R148). -/
def State.outOfTurn (s : State) (r : Request) : Bool :=
  match r.stage with
  | .packet => !r.outer && s.requests.any fun x => x.stage == .packet && !x.outer && dieOf x.core == dieOf r.core && s.servedAt x == s.servedAt r &&
      homeSlice x.va == homeSlice r.va && decide (x.place < r.place)
  | .packetOut => s.requests.any fun x => x.stage == .packetOut && x.pa / 128 == r.pa / 128 && decide (x.place < r.place)
  | _ => false
/-- The packet is at its last router and goes to its slice, controller or port in this cycle. -/
def State.packetReady (s : State) (r : Request) : Bool :=
  decide (r.due ≤ s.cycle) && r.inConcourse && r.at_ == r.last && s.routers[r.at_].up && !s.outOfTurn r

/-! Misses (R446, R452, R453) -/

/-- The controller's buffer names the translation. -/
def State.covered (s : State) (r : Request) : Bool := s.mtlb.any fun e => e.controller == controllerOf r.va && e.covers r.asn r.va
/-- One of the 64 walkers of the controller serves the request: fewer than 64 earlier ones need a walk there (R453). -/
def State.walkerFree (s : State) (r : Request) : Bool :=
  decide ((s.requests.filter fun x => (x.stage == .walk || x.stage == .walkOut || x.stage == .walkBack) && controllerOf x.va == controllerOf r.va &&
    decide (x.place < r.place) && !s.covered x).length < 64)
/-- Throttled controllers accept requests in half of the cycles (R484). DEDUCED (log 35). -/
def State.controllerAccepts (s : State) : Bool := !(s.newel.power.throttled && s.cycle % 2 == 1)
def State.walkReady (s : State) (r : Request) : Bool :=
  r.stage == .walk && decide (r.due ≤ s.cycle) && !s.blocked r &&
    ((s.hitFor r).isSome || (s.controllerAccepts && (s.covered r || s.walkerFree r)))
/-- A request whose translation is there goes to the frame: to the stacks of another die over the concourse (R453). -/
def State.fetchFrame (s : State) (r : Request) (t : Trans) : State :=
  let home := homeDie r.va
  let frame : Fin 8 := Fin.ofNat 8 (stackDie (t.pa r.va / 128))
  let r := { r with trans := some t }
  if frame = home then
    let w := s.wait
    w.2.putRequest { r with stage := .fill, due := s.cycle + 1 + w.1 }
  else s.sendPacket r home frame .fillOut true
/-- A walk that ends without a translation ends a migration of the page too (R467). -/
def State.walkFault (s : State) (r : Request) (c : Cause) : State :=
  let (ended, others) := s.migrations.partition fun m => c == .translation && !m.switching && m.inPage r.asn (128 * lineOf r.va) 128
  let s := ended.foldl (fun s m => match s.request? m.request with
    | some x => s.refuse x .translation
    | none => s) { s with migrations := others }
  s.refuse r c
/-- A request whose tables have been read. DESIGN CHOICE (log 11). -/
def State.translated (s : State) (r : Request) : State :=
  let r := { r with trail := none }
  match s.translate r.asn r.va with
  | (.error c, s) => s.walkFault r c
  | (.ok t, s) =>
    if t.permits r.writes r.fetches = false then s.refuse r .protection
    else if regionOf (t.pa r.va) = .hbm then
      if (s.hallLine r.asn r.va).isSome then (s.modHall r.asn r.va fun h => { h with w := t.w, x := t.x }).serve r t
      else s.fetchFrame r t
    else s.serve r t
/-- A request at the controller: its walk reads tables on other dies over the concourse, one after the other. -/
def State.walkRequest (s : State) (r : Request) : State :=
  match s.hitFor r with
  | some t => s.serve { r with trail := none } t
  | none =>
    if s.covered r then s.translated r
    else match r.trail.getD (((s.walkReads r.asn r.va).map fun a => s.holderOf (a / 128)).filter (· != homeDie r.va)) with
      | [] => s.translated r
      | d :: ds => s.sendPacket { r with trail := some (d :: ds) } (homeDie r.va) d .walkOut true
/-- A packet between dies for a walk or a fill has arrived: at the other die it is answered, at the controller it goes on. -/
def State.controllerArrival (s : State) (r : Request) : State :=
  match r.stage with
  | .walkOut => s.sendPacket r r.at_ (homeDie r.va) .walkBack true
  | .fillOut => s.sendPacket r r.at_ (homeDie r.va) .fillBack true
  | .walkBack => s.putRequest { r with stage := .walk, due := s.cycle, trail := r.trail.map (·.drop 1) }
  | _ => s.putRequest { r with stage := .fill, due := s.cycle }
/-- An engine still has an operation to perform on a line of the page. -/
def State.engineBusy (s : State) (asn : BitVec 12) (page size : Nat) : Bool :=
  s.requests.any fun x => x.stage == .engine && x.asn == asn && decide (page ≤ x.va.toNat ∧ x.va.toNat < page + size)
/-- The purge of a translation (R454) waits for migrations of the page and for operations at engines, then acts at every slice and controller. -/
def State.purgeRequest (s : State) (r : Request) : State :=
  let p := s.pageOf r.asn r.va
  if s.migrations.any (·.inPage r.asn p.1 p.2) ∨ s.engineBusy r.asn p.1 p.2 then s else (s.purgePage r.asn p.1 p.2).answer r
def State.dropMigration (s : State) (id : Nat) : State := { s with migrations := s.migrations.filter (·.request != id) }
/-- result and count of `migr`. -/
def migrWord (result count : Nat) : BitVec 64 := BitVec.ofNat 64 (result * 2 ^ 56 + count % 2 ^ 32)
/-- A migration begins, or answers at once (R466). -/
def State.beginMigration (s : State) (r : Request) (frame : Nat) : State :=
  match s.translate r.asn r.va with
  | (.error c, s) => s.refuse r c
  | (.ok t, s) =>
    let page := r.va.toNat / t.size * t.size
    let done (code : Nat) : State := s.answer { r with value := migrWord code 0 }
    if 2 ^ 21 < t.size then done 3
    else if frame % t.size ≠ 0 then done 4
    else if t.phaser ∨ (List.range (t.size / 128)).any (fun x => s.pinnedLine r.asn (page / 128 + x)) then done 2
    else if s.migrations.any (fun m => m.inPage r.asn page t.size || m.inFrame t.frame t.size || m.inFrame frame t.size) then done 1
    else if frame = t.frame then done 0
    else { s with migrations := s.migrations ++ [{ request := r.id, asn := r.asn, page, old := t.frame, new := frame, size := t.size }] }
/-- An access under way that holds the old translation of the page. -/
def State.pageBusy (s : State) (m : Migration) : Bool :=
  s.requests.any fun x => x.trans.isSome && (x.stage == .fill || x.stage == .fillOut || x.stage == .fillBack || x.stage == .engine) && x.asn == m.asn &&
    decide (m.page ≤ x.va.toNat ∧ x.va.toNat < m.page + m.size)
def State.modMigration (s : State) (id : Nat) (f : Migration → Migration) : State :=
  { s with migrations := s.migrations.map fun x => if x.request = id then f x else x }
/-- A write of the line of a physical address has been placed in this cycle (R463). -/
def State.physPlaced (s : State) (pa : Nat) : Bool := s.hall.any fun h => h.pline == pa / 128 && h.placed == some s.cycle
/-- One line copied between frames, over the concourse where they lie on different dies. -/
def State.migrateLine (s : State) (m : Migration) (x : Nat) : State :=
  (s.carryLine 5 m.asn (m.page / 128 + x) (Fin.ofNat 8 (stackDie (m.old / 128))) (Fin.ofNat 8 (stackDie (m.new / 128)))).copyLine m x
/-- One line copied; after the last the switch: new accesses are held, and once those under way have ended the entry is written in its line's order,
the page is purged, and the lines written meanwhile are copied again (R466). -/
def State.stepMigration (s : State) (r : Request) (m : Migration) : State :=
  if m.copied < m.size / 128 then
    let s := s.migrateLine m m.copied
    s.modMigration m.request fun x => { x with copied := m.copied + 1, switching := m.copied + 1 == m.size / 128 }
  else if s.pageBusy m then s
  else
    match s.leafEntry m.asn r.va with
    | none => (s.dropMigration r.id).refuse r .translation
    | some (at_, _) =>
      if s.physPlaced at_ then s
      else
        let e := natLE (s.physRead at_ 8)
        let s := m.dirty.foldl (fun s x => s.migrateLine m x) s
        let s := ((s.dropMigration r.id).placePhysical at_).placeWrite at_ (bytesLE 8 (e - entryAddr e + m.new))
        (s.purgePage m.asn m.page m.size).answer { r with value := migrWord 0 m.dirty.length }
/-- Purges and migrations at the controller. -/
def State.workRequest (s : State) (r : Request) : State :=
  match r.op with
  | .purgeTlb => s.purgeRequest r
  | .migrate frame _ =>
    match s.migrations.find? (·.request == r.id) with
    | some m => s.stepMigration r m
    | none => s.beginMigration r frame
  | _ => s
def State.workReady (s : State) (r : Request) : Bool := r.stage == .working && decide (r.due ≤ s.cycle)
def execPageWalk (id : Nat) (s : State) : Result :=
  .next (match s.request? id with
    | some r => if s.walkReady r then s.walkRequest r else if s.workReady r then s.workRequest r else s
    | none => s)
/-- A way is free, or the line is there; an operation at an engine keeps the line's other alias where it is. One that a purge has met goes back to
the controller. -/
def State.fillReady (s : State) (r : Request) : Bool :=
  r.stage == .fill && decide (r.due ≤ s.cycle) && (match r.trans with
    | some t => (s.canFill r.asn (lineOf r.va) && !s.aliasHeld r.asn (lineOf r.va) (t.pa r.va / 128)) || (s.hallLine r.asn r.va).isSome
    | none => true)
/-- DESIGN CHOICE (log 40). -/
def execLineFill (id : Nat) (s : State) : Result :=
  .next (match s.request? id with
    | some r =>
      if s.fillReady r = false then s
      else match r.trans with
        | some t => (if (s.hallLine r.asn r.va).isSome then s else (s.fillLine r.asn r.va t).memoryErrors (t.pa r.va / 128)).serve { r with stage := .walk } t
        | none => s.putRequest { r with stage := .walk, due := s.cycle + 1 }
    | none => s)
/-- A hot line without an access for 4 096 cycles (R457). -/
def State.coolReady (s : State) (h : HallLine) : Bool := h.hot && decide (h.touched + 4096 ≤ s.cycle) && !s.pendingAt h
def execHotLineRecompress (line : Nat) (s : State) : Result :=
  .next { s with hall := s.hall.map fun h => if h.pline = line ∧ s.coolReady h then { h with hot := false } else h }

end Sys2Proof.Machine
end

