-- ==== Sys2Proof/Machine/Npf.lean ====
section
/-!
DEFINITION. The nested plane format (R107-R121): digits and rows, prefix reads, conversion into a block, plane addition, and the
combination of two blocks by ADD.NPF.
-/
namespace Sys2Proof.Machine

/-- A block header: E in [15:8], gen in [7:4] (R107). -/
abbrev NpfHeader := BitVec 16
def headerE (h : NpfHeader) : Nat := h.toNat / 256
def headerGen (h : NpfHeader) : Nat := h.toNat / 16 % 16

/-- Offsets inside a tile (R111). -/
def headerOff (tile r : Nat) : Nat := tile + 2 * r
def planeRowOff (tile r j : Nat) : Nat := tile + 128 + 1024 * j + 16 * r

/-- Digit of element c in the 16 bytes of a plane row (R111). -/
def digitOf (row : List (BitVec 8)) (c : Nat) : Nat := (row.getD (c / 4) 0).toNat / 4 ^ (c % 4) % 4
/-- The digits of element c in the given plane rows as one number, plane 0 most significant. -/
def digitsOf (rows : List (List (BitVec 8))) (c : Nat) : Nat := rows.foldl (fun a row => a * 4 + digitOf row c) 0
/-- sext(x, n). -/
def sextNat (x n : Nat) : Int := if 2 ^ n ≤ 2 * x then (x : Int) - (2 ^ n : Nat) else x
/-- m_k of every element from k plane rows (R109). -/
def mantissas (rows : List (List (BitVec 8))) : List Int :=
  (List.range 64).map fun c => sextNat (digitsOf rows c) (2 * rows.length)
/-- Limits of a k-plane mantissa. -/
def manMin (k : Nat) : Int := -(2 ^ (2 * k - 1))
def manMax (k : Nat) : Int := 2 ^ (2 * k - 1) - 1

/-- NPF_READ: `rows` are plane rows 0..k-1, `next` is plane row k when it is fetched for RNE (R114). -/
def npfRead (e : Nat) (rows : List (List (BitVec 8))) (next : Option (List (BitVec 8))) : List Int :=
  if e = 0 then List.replicate 64 0
  else match next with
    | none => mantissas rows
    | some row => (mantissas rows).zipIdx.map fun (t, c) =>
      let d := digitOf row c
      sat (if d = 3 ∨ (d = 2 ∧ t % 2 = 1) then t + 1 else t) (manMin rows.length) (manMax rows.length)

/-- The digits of a P-plane mantissa in plane j. -/
def manDigit (p j : Nat) (m : Int) : Nat := (m % (4 ^ p : Nat)).toNat / 4 ^ (p - 1 - j) % 4
/-- The 16 bytes of plane row j of a block. -/
def planeRow (p j : Nat) (ms : List Int) : List (BitVec 8) :=
  (List.range 16).map fun i =>
    BitVec.ofNat 8 ((List.range 4).foldl (fun a q => a + manDigit p j (ms.getD (4 * i + q) 0) * 4 ^ q) 0)

/-- m_k * 2^(E - 127 - (2k - 1)) as FP32 bits (R116). -/
def npfValue (e k : Nat) (m : Int) : BitVec 32 :=
  if e = 0 ∨ m = 0 then 0
  else BitVec.ofNat 32 (fpRound fp32 (decide (m < 0)) m.natAbs ((e : Int) - 127 - (2 * k - 1))).1

/-- An exact scaled value rounded to an integer, TRN as floor or RNE; infinities give values beyond every range (R117). -/
def npfRound (rne : Bool) (v : FpVal) (shift : Int) : Int :=
  match v with
  | .nan => 0
  | .inf s => if s then -(2 ^ 64) else 2 ^ 64
  | .fin s m e =>
    let e := e + shift
    if rne then fpToInt s m e
    else
      let z : Int := if s then -(m : Int) else m
      if 0 ≤ e then z * 2 ^ e.toNat else z / (2 ^ (-e).toNat : Nat)
/-- y ≥ 2^(2P-1) or y < -2^(2P-1) for y = v * 2^shift (R117). DEDUCED (log 18). -/
def npfOutside (p : Nat) (v : FpVal) (shift : Int) : Bool :=
  match v with
  | .nan => false
  | .inf _ => true
  | .fin s m e =>
    let lim : FpVal := .fin s 1 (2 * p - 1)
    if s then FpVal.lt (.fin s m (e + shift)) lim else FpVal.lt lim (.fin s m (e + shift)) || FpVal.eq lim (.fin s m (e + shift))

/-- What a conversion or addition leaves: mantissas, header, and the lowest element that posts NPF_NAN and NPF_SAT. -/
structure NpfBlock where
  ms : List Int
  hdr : NpfHeader
  nan : Option Nat := none
  sat : Option Nat := none
  deriving DecidableEq, Repr

/-- E, gen and the reserved bits. -/
def headerOf (e gen low : Nat) : NpfHeader := BitVec.ofNat 16 (256 * e + 16 * (gen % 16) + low)

/-- NPF_ENCODE (R117). DEDUCED (log 18). -/
def npfEncode (x : List FpVal) (p : Nat) (rne : Bool) (efix : Option Nat) : NpfBlock :=
  let nan := x.findIdx? (·.isNan)
  let x := x.map fun v => if v.isNan then .fin false 0 0 else v
  let log2 : FpVal → Option Int
    | .nan => none
    | .inf _ => some 128
    | .fin _ m e => if m = 0 then none else some (e + Nat.log2 m)
  let top := x.foldl (fun (a : Option Int) v => match a, log2 v with
    | none, b => b
    | some a, some b => some (max a b)
    | some a, none => some a) none
  let e : Option Nat := match efix with
    | some e => some e
    | none => top.map fun t => (sat (t + 128) 1 254).toNat
  match e with
  | none => ⟨List.replicate 64 0, 0, none, none⟩
  | some e =>
    let shift : Int := 2 * p - 1 - ((e : Int) - 127)
    let ms := x.map fun v => sat (npfRound rne v shift) (manMin p) (manMax p)
    ⟨ms, if ms.all (· == 0) then 0 else headerOf e 0 0, nan, x.findIdx? (npfOutside p · shift)⟩

/-- How a plane addition ends (R119). -/
inductive AddKind where
  | plain | renormalised
  deriving DecidableEq, Repr

def halfRne (s : Int) : Int := let q := s / 2; if s % 2 = 0 then q else if q % 2 = 0 then q else q + 1

/-- PLANE_ADD on a block with E in 1..254 (R119, R120). DEDUCED (log 18). -/
def planeAdd (p : Nat) (ms delta : List Int) (hdr : NpfHeader) (renorm : Bool) : NpfBlock × AddKind :=
  let sums := List.zipWith (· + ·) ms delta
  let lo := manMin p
  let hi := manMax p
  let zeroed (ms : List Int) (h : NpfHeader) : NpfHeader := if ms.all (· == 0) then 0 else h
  if sums.all fun s => decide (lo ≤ s ∧ s ≤ hi) then (⟨sums, zeroed sums hdr, none, none⟩, .plain)
  else if renorm ∧ headerE hdr < 254 then
    let ms' := sums.map fun s => sat (halfRne s) lo hi
    (⟨ms', zeroed ms' (headerOf (headerE hdr + 1) (headerGen hdr + 1) 0), none,
      sums.findIdx? fun s => decide (s < 2 * lo ∨ 2 * hi < s)⟩, .renormalised)
  else
    let ms' := sums.map fun s => sat s lo hi
    (⟨ms', zeroed ms' hdr, none, sums.findIdx? fun s => !decide (lo ≤ s ∧ s ≤ hi)⟩, .plain)

/-- ADD.NPF of a source block into a target block (R121); none where the target stays as it is. DEDUCED (log 18). -/
def addNpf (p : Nat) (src : List Int) (srcHdr : NpfHeader) (tgt : List Int) (tgtHdr : NpfHeader) : Option NpfBlock :=
  let es := headerE srcHdr
  let et := headerE tgtHdr
  if es = 0 ∨ es = 255 ∨ et = 255 then none
  else if et = 0 then some ⟨src, srcHdr, none, none⟩
  else
    let delta := src.map fun (m : Int) => if es ≤ et then m / ((2 ^ (et - es) : Nat) : Int) else m * ((2 ^ (es - et) : Nat) : Int)
    some (planeAdd p tgt delta tgtHdr false).1

end Sys2Proof.Machine
end

