-- ==== Sys2Proof/Machine/Sync.lean ====
section
/-!
DEFINITION. The synchronisation engines (R350-R367): atomics, reductions, phaser records and their waits, copy arrivals; and what
reaches a core as answer or acknowledgement (R151, R188, R464).
-/
namespace Sys2Proof.Machine

/-- An operation at its engine that is performed next: the earliest on its line, one on a line in a cycle (R350, R463). -/
def State.engineReady (s : State) (r : Request) : Bool :=
  r.stage == .engine && decide (r.due ≤ s.cycle) && !s.placedNow r.asn r.va &&
    !s.requests.any fun x => x.stage == .engine && decide (x.place < r.place) && x.sameLine r

/-! Atomics (R353) -/

/-- new of R353, with the records of `afadd`. -/
def AtomicOp.new (op : AtomicOp) (old v c : BitVec 64) : BitVec 64 × List Nat :=
  match op with
  | .add => (old + v, [])
  | .and => (old &&& v, [])
  | .or => (old ||| v, [])
  | .xor => (old ^^^ v, [])
  | .min => (if v.slt old then v else old, [])
  | .max => (if old.slt v then v else old, [])
  | .minu => (if v < old then v else old, [])
  | .maxu => (if old < v then v else old, [])
  | .xchg => (v, [])
  | .cas => (if old = c then v else old, [])
  | .fadd =>
    let r := fpAdd fp32 (old.extractLsb' 0 32).toNat (v.extractLsb' 0 32).toNat
    (BitVec.ofNat 64 r.bits, (if r.invalid then [1] else []) ++ if r.overflow then [2] else [])
/-- A write of an operation at its place, which answers. -/
def State.performWrite (s : State) (r : Request) (bs : List (BitVec 8)) : State :=
  let p := s.placeTag r.asn r.va
  (if bs.isEmpty then p.2 else p.2.placeWrite r.pa bs).answer { r with tag := p.1 }
/-- What a LOOP counter becomes (R418). -/
def decremented (w : List (BitVec 8)) : List (BitVec 8) := bytesLE 8 (natLE w - 1)
def State.performAtomic (s : State) (r : Request) : State :=
  match r.op with
  | .decrement _ =>
    if s.poison.contains (r.pa / 128) then s.refuse r .machineCheck
    else
      let old := s.physRead r.pa 8
      s.performWrite { r with data := old } (if natLE old = 0 then [] else decremented old)
  | .atomic op v c _ =>
    if s.poison.contains (r.pa / 128) then s.refuse r .machineCheck
    else
      let old := BitVec.ofNat 64 (natLE (s.physRead r.pa r.size))
      let n := op.new old v c
      s.performWrite { r with value := old, notes := n.2 } (bytesLE r.size n.1.toNat)
  | _ => s
def execAtomicPerform (id : Nat) (s : State) : Result :=
  .next (match s.request? id with
    | some r => if s.engineReady r then s.performAtomic r else s
    | none => s)

/-! Reductions (R355, R356) -/

def ReduceOp.identity : ReduceOp → BitVec 64
  | .add => 0
  | .max => 0x8000000000000000
  | .min => 0x7FFFFFFFFFFFFFFF
def ReduceOp.combine (op : ReduceOp) (a v : BitVec 64) : BitVec 64 :=
  match op with
  | .add => a + v
  | .max => if a.slt v then v else a
  | .min => if v.slt a then v else a
/-- A reduction record as a 256-bit word; answers ret and the new record, none where it is unchanged. -/
def reduceRecord (op : ReduceOp) (v : BitVec 64) (x : BitVec 256) : BitVec 64 × Option (BitVec 256) :=
  let n := x.extractLsb' 128 16
  if n = 0 then (op.identity, none)
  else
    let arrived := if n ≤ x.extractLsb' 144 16 then 0 else x.extractLsb' 144 16
    let acc := if arrived = 0 then v else op.combine (x.extractLsb' 0 64) v
    let full := arrived + 1 = n
    (acc, some (x.extractLsb' 192 64 ++ (x.extractLsb' 160 32 + if full then 1 else 0) ++ (if full then 0 else arrived + 1) ++ n ++
      (if full then acc else x.extractLsb' 64 64) ++ acc))
def State.performReduce (s : State) (r : Request) : State :=
  match r.op with
  | .reduce op v armed cores _ =>
    let x := BitVec.ofNat 256 (natLE (s.physRead r.pa 32))
    if s.poison.contains (r.pa / 128) then s.refuse r .machineCheck
    else if armed ∧ cores < (x.extractLsb' 128 16).toNat then s.refuse r .participantRange
    else
      let n := reduceRecord op v x
      s.performWrite { r with value := n.1 } (match n.2 with | some y => bytesLE 32 y.toNat | none => [])
  | _ => s
def execReductionPerform (id : Nat) (s : State) : Result :=
  .next (match s.request? id with
    | some r => if s.engineReady r then s.performReduce r else s
    | none => s)

/-! Answers of host and peer memory at the home slice (R354, R473) -/

/-- A read of host memory for an atomic or a reduction gives its word: the engine writes the new one through the same port. -/
def State.hostCombine (s : State) (r : Request) : State :=
  match r.op with
  | .atomic op v c _ =>
    let old := BitVec.ofNat 64 (natLE r.data)
    let n := op.new old v c
    s.sendAway { r with value := old, notes := n.2 } r.exit_ (some (bytesLE r.size n.1.toNat))
  | .reduce op v armed cores _ =>
    let x := BitVec.ofNat 256 (natLE r.data)
    if armed ∧ cores < (x.extractLsb' 128 16).toNat then s.refuse r .participantRange
    else
      let n := reduceRecord op v x
      match n.2 with
      | some y => s.sendAway { r with value := n.1 } r.exit_ (some (bytesLE 32 y.toNat))
      | none => s.answer { r with value := n.1 }
  | _ => s.answer r
/-- The decrement of a counter in host memory: read, then written through the same port (R354); a peer's engine makes the whole of it (R159, R418). -/
def State.awayDecrement (s : State) (r : Request) : State :=
  if regionOf r.pa ≠ .host ∨ natLE r.data = 0 then s.answer r
  else s.sendAway { r with value := BitVec.ofNat 64 (natLE r.data) } r.exit_ (some (decremented r.data))
/-- What an access to host or peer memory has come to, at its home slice. -/
def State.comesHome (s : State) (r : Request) : State :=
  match r.op, r.fault with
  | _, some _ => s.answer r
  | .decrement _, none => if r.out.isSome then s.answer { r with data := bytesLE 8 r.value.toNat } else s.awayDecrement r
  | .atomic .., none | .reduce .., none =>
    if r.out.isSome then s.answer r
    else if regionOf r.pa = .host then s.hostCombine r
    else s.answer { r with value := BitVec.ofNat 64 (natLE r.data) }
  | _, none => s.answer r
/-- A packet reaches its slice or port: the home slice, the forwarding slice, the port that leaves the package, the home slice again.
DESIGN CHOICE (log 36). -/
def execPacketArrival (id : Nat) (s : State) : Result :=
  .next (match s.request? id with
    | some r =>
      if s.packetReady r then
        let s := s.leaveRouter r
        match r.stage with
        | .packet => s.atHome r
        | .packetOut => s.exit r
        | .packetIn => s.comesHome r
        | .packetBack => s.putRequest { r with stage := .back, due := s.cycle }
        | _ => s.controllerArrival r
      else s
    | none => s)

/-! Phaser records (R359-R365) -/

structure Phaser where
  amap : BitVec 128
  wmap : BitVec 128
  smap : BitVec 128
  team : BitVec 16
  gen : BitVec 16
  phase : BitVec 32
  cexp : BitVec 16
  carr : BitVec 16
  nsig : BitVec 8
  sarr : BitVec 8
  nwait : BitVec 8
  reserved : BitVec 6
  state : BitVec 2
  deriving DecidableEq, Repr
def phaserOf (x : BitVec 512) : Phaser :=
  ⟨x.extractLsb' 384 128, x.extractLsb' 256 128, x.extractLsb' 128 128, x.extractLsb' 112 16, x.extractLsb' 96 16, x.extractLsb' 64 32,
    x.extractLsb' 48 16, x.extractLsb' 32 16, x.extractLsb' 24 8, x.extractLsb' 16 8, x.extractLsb' 8 8, x.extractLsb' 2 6, x.extractLsb' 0 2⟩
def phaserBits (p : Phaser) : BitVec 512 :=
  p.amap ++ p.wmap ++ p.smap ++ p.team ++ p.gen ++ p.phase ++ p.cexp ++ p.carr ++ p.nsig ++ p.sarr ++ p.nwait ++ p.reserved ++ p.state
/-- nsig, sarr and nwait of the maps. -/
def Phaser.count (p : Phaser) : Phaser :=
  { p with nsig := BitVec.ofNat 8 (popCount p.smap), sarr := BitVec.ofNat 8 (popCount p.amap), nwait := BitVec.ofNat 8 (popCount p.wmap) }
/-- The phase check of R362; without members one check completes every phase whose arrivals are there. -/
def Phaser.check (p : Phaser) : Phaser :=
  if p.state ≠ 1 ∨ p.sarr ≠ p.nsig ∨ p.carr < p.cexp then p
  else if p.nsig ≠ 0 then { p with phase := p.phase + 1, sarr := 0, amap := 0, carr := p.carr - p.cexp }
  else if p.cexp ≠ 0 then
    { p with phase := p.phase + BitVec.ofNat 32 (p.carr.toNat / p.cexp.toNat), sarr := 0, amap := 0,
             carr := BitVec.ofNat 16 (p.carr.toNat % p.cexp.toNat) }
  else p
/-- The status word of R360. -/
def Phaser.status (p : Phaser) (st : BitVec 2) : BitVec 64 := 0#14 ++ st ++ p.gen ++ p.phase
def Phaser.query (p : Phaser) : BitVec 64 := p.nsig ++ p.sarr ++ p.gen ++ p.phase
/-- How a wait for a phase of a generation ends (R363). -/
def Phaser.waitEnd (p : Phaser) (gen : BitVec 16) (phase : BitVec 32) : Option (BitVec 2) :=
  if p.gen ≠ gen ∨ p.state = 0 then some 2
  else if 1 ≤ (p.phase - phase).toNat ∧ (p.phase - phase).toNat ≤ 2 ^ 31 then some 0
  else none
/-- One phaser instruction on a record (R361): the new record, the wait it makes, or none for PHASER_STATE. -/
def Phaser.perform (p : Phaser) (op : PhaserOp) (v : BitVec 64) (team : BitVec 16) (member : Nat) :
    Option (Phaser × Option (BitVec 16 × BitVec 32)) :=
  let bit : BitVec 128 := 1#128 <<< member
  let on (m : BitVec 128) : Bool := m.getLsbD member
  let mine := decide (p.state ≠ 0) && p.team == team
  match op with
  | .init =>
    if v.extractLsb' 48 16 ≠ 0 then none
    else some ({ p with
      amap := 0, wmap := 0, smap := 0, team := team, gen := p.gen + 1, phase := v.extractLsb' 0 32, cexp := v.extractLsb' 32 16,
      carr := 0, nsig := 0, sarr := 0, nwait := 0, state := 1 }, none)
  | .reg =>
    if mine = false ∨ v.extractLsb' 2 62 ≠ 0 ∨ v.extractLsb' 0 2 = 0#2 ∨ on p.smap ∨ on p.wmap then none
    else some ((Phaser.count { p with
      smap := if v.getLsbD 0 then p.smap ||| bit else p.smap
      wmap := if v.getLsbD 1 then p.wmap ||| bit else p.wmap }), none)
  | .drop =>
    if mine = false ∨ (on p.smap = false ∧ on p.wmap = false) then none
    else some ((Phaser.count { p with smap := p.smap &&& ~~~bit, wmap := p.wmap &&& ~~~bit, amap := p.amap &&& ~~~bit }), none)
  | .arr =>
    if mine = false ∨ on p.smap = false ∨ on p.amap then none
    else some ({ p with amap := p.amap ||| bit, sarr := p.sarr + 1 }, none)
  | .wait =>
    -- a wait with an old gen on a record in use is ABANDONED, whatever the record says of the member now (R364)
    if p.state = 0 ∨ v.extractLsb' 50 14 ≠ 0 ∨ (p.gen = v.extractLsb' 32 16 ∧ (mine = false ∨ on p.wmap = false)) then none
    else some (p, some (v.extractLsb' 32 16, v.extractLsb' 0 32))
  | .arw =>
    if mine = false ∨ on p.smap = false ∨ on p.wmap = false ∨ on p.amap then none
    else some ({ p with amap := p.amap ||| bit, sarr := p.sarr + 1 }, some (p.gen, p.phase))
  | .q => if mine then some (p, none) else none
def State.readPhaser (s : State) (pa : Nat) : Phaser := phaserOf (BitVec.ofNat 512 (natLE (s.physRead pa 64)))
/-- A record written after its phase check; every wait on it whose condition holds ends: one whose phase is past at the check that takes the
record beyond it, one whose gen is old with the new gen and phase (R362, R364). -/
def State.writePhaser (s : State) (pa : Nat) (p : Phaser) : State :=
  let p := p.check
  let s := s.placeWrite pa (bytesLE 64 (phaserBits p).toNat)
  s.requests.foldl (fun s r =>
    match r.stage with
    | .waiter gen phase =>
      if r.pa = pa then
        match p.waitEnd gen phase with
        | some 0 => s.answer { r with value := ({ p with phase := phase + 1 } : Phaser).status 0 }
        | some st => s.answer { r with value := p.status st }
        | none => s
      else s
    | _ => s) s
/-- Waits that an engine holds; there are 8 192 records (R363). -/
def State.waiters (s : State) (die : Fin 8) : Nat :=
  (s.requests.filter fun r => (match r.stage with | .waiter _ _ => true | _ => false) && homeDie r.va == die).length
/-- What an operation returns: the status word of the phase in which it acted, or the word of `phq`. -/
def phaserValue (op : PhaserOp) (p : Phaser) : BitVec 64 :=
  match op with
  | .q => p.query
  | _ => p.status 0
/-- A wait goes on: it takes a waiter record, or the core polls with the word that it gives up with (R363). A `pharw` whose core is asked to stop
ends. -/
def State.holdWait (s : State) (r : Request) (p : Phaser) (gen : BitVec 16) (phase : BitVec 32) : State :=
  let arw : Bool := match r.op with
    | .phaser .arw .. => true
    | _ => false
  let r := { r with value := p.status 1 }
  if arw = true ∧ s.cores[r.core].task.stopReq then s.answer r
  else if s.waiters (homeDie r.va) < 8192 then s.putRequest { r with stage := .waiter gen phase, awaiting := none }
  else s.answer { r with awaiting := some (gen, phase), again := true }
def State.performPhaser (s : State) (r : Request) : State :=
  match r.op with
  | .phaser op v team member _ =>
    let p := s.readPhaser r.pa
    -- a query of a polling wait only looks at the record
    if s.poison.contains (r.pa / 128) then s.refuse r .machineCheck
    else match (match r.awaiting with | some w => some (p, some w) | none => p.perform op v team member) with
    | none => s.refuse r .phaserState
    | some (p', w) =>
      let tag := s.placeTag r.asn r.va
      let r := { r with tag := tag.1 }
      let s := if r.awaiting.isSome then tag.2 else tag.2.writePhaser r.pa p'
      let now := p'.check
      match w with
      | none => s.answer { r with value := phaserValue op p' }
      | some (gen, phase) =>
        match now.waitEnd gen phase with
        | some st => s.answer { r with value := now.status st }
        | none => s.holdWait r now gen phase
  | _ => s
def execPhaserPerform (id : Nat) (s : State) : Result :=
  .next (match s.request? id with
    | some r => if s.engineReady r then s.performPhaser r else s
    | none => s)
/-- R365. -/
def State.performArrival (s : State) (r : Request) (team : BitVec 16) : State :=
  let p := s.readPhaser r.pa
  if s.poison.contains (r.pa / 128) then s.refuse r .machineCheck
  else if p.state = 0 ∨ p.team ≠ team then s.refuse r .phaserState
  else
    let tag := s.placeTag r.asn r.va
    (tag.2.writePhaser r.pa { p with carr := if p.carr = BitVec.allOnes 16 then p.carr else p.carr + 1 }).answer { r with tag := tag.1 }
def execCopyArrival (id : Nat) (s : State) : Result :=
  .next (match s.request? id with
    | some r =>
      match r.op with
      | .arrive team => if s.engineReady r then s.performArrival r team else s
      | _ => s
    | none => s)

/-! At the core -/

/-- Delivered through the slice's port two cycles ago, so that it reaches the core at the end of this cycle (R444); what the host port and the
usher asked for reaches them over the concourse. -/
def State.arrives (s : State) (r : Request) : Bool :=
  if r.outer then r.stage == .back && decide (r.due ≤ s.cycle)
  else r.stage == .back && decide (r.due + 2 ≤ s.cycle) && (s.cycle - 2) % 16 == (r.core.val + 8) % 16 &&
    decide ((s.delivered.filter fun d => d.1 == r.core && d.2 == homeSlice r.va).length < 2)
/-- Kind of an acknowledgement (R464). -/
def Request.ackKind (r : Request) : Option (BitVec 3) :=
  match r.op with
  | .store _ => some 0
  | .atomic .. => some 1
  | .reduce .. => some 2
  | .phaser .. => some 3
  | _ => none
/-- The acknowledgement record entry (R464). -/
def ackEntry (r : Request) (kind : BitVec 3) : BitVec 128 :=
  r.tag ++ r.va.extractLsb' 7 49 ++ kind ++ r.asn ++ 0#9 ++ BitVec.ofFin (w := 3) (homeDie r.va) ++ BitVec.ofFin (w := 4) (homeSlice r.va)
def Core.acknowledge (k : Core) (r : Request) : Core :=
  match r.ackKind, r.fault with
  | some kind, none => { k with acks := sset 0 k.acks (k.ackCount.toNat % 256) (ackEntry r kind), ackCount := k.ackCount + 1 }
  | _, _ => k
/-- A request kept as it was issued, for a replay (R188). -/
def Request.fresh (r : Request) : Request :=
  { r with
    stage := .queued, due := 0, accepted := 0, trans := none, trail := none, fault := none, data := [], dieAck := none, notes := [], at_ := 0, last := 0
    sentAt := 0, since := 0, escaped := false }
/-- A fault of an access on its way to the fault table (R53, R352). -/
def Body.reportAccess (b : Body) (r : Request) (c : Cause) : Body :=
  { b with
    reports := b.reports ++ [⟨c, r.engine, r.tok, r.baddr, r.va, 0, r.issued, if r.gslot then some r.id else none, false⟩]
    kept := if r.gslot then b.kept ++ [r.fresh] else b.kept }
/-- The lower of two faulting addresses. -/
def lowerFault (f : Option (Cause × VA)) (a : VA) : VA :=
  match f with
  | some x => if x.2.toNat < a.toNat then x.2 else a
  | none => a
/-- A late fault of a command that has handed everything out is parked with the lowest address that its writes give. -/
def Body.parkLate (b : Body) (r : Request) (c : Cause) : Body :=
  let same (f : Parked) : Bool := f.engine == r.engine && f.issued == r.issued
  let lower (f : Parked) : Parked := if same f then { f with addr := lowerFault (some (f.cause, f.addr)) r.va } else f
  if b.reports.any same ∨ b.faults.any same then { b with reports := b.reports.map lower, faults := b.faults.map lower }
  else b.reportAccess r c
/-- A global write of LAYOUT has faulted (R338): a running operation ends by its fault event. -/
def Body.layoutWriteFault (b : Body) (r : Request) (c : Cause) : Body :=
  match (b.transforms[(3 : Fin 4)]).op with
  | some x =>
    if some x.id = r.command then
      { b with transforms := Vec.modify b.transforms 3 fun k => { k with op := some { x with fault := some (c, lowerFault x.fault r.va) } } }
    else b.parkLate r c
  | none => b.parkLate r c
/-- A global write of a copy has faulted (R329): a running command ends by its fault event; one that has handed everything out makes no signal,
and its status names the faulting byte (R326, R331). -/
def Body.copyWriteFault (b : Body) (r : Request) (c : Cause) : Body :=
  let u : Fin 2 := if r.engine = 2 then 1 else 0
  let mine (x : CopyCmd) : Bool := some x.id == r.command
  let fails (x : CopyCmd) : CopyCmd := { x with fault := some (c, lowerFault x.fault r.va), faultDst := true }
  if r.engine = 4 then b.layoutWriteFault r c
  else if (b.copies[u]).cmd.any mine then { b with copies := Vec.modify b.copies u fun k => { k with cmd := k.cmd.map fails } }
  else
    let ended (k : CopyUnit) : CopyUnit := if k.last.any mine then { k with faulted := true, last := k.last.map fails } else k
    Body.parkLate { b with signals := b.signals.filter fun x => !mine x.cmd, copies := Vec.modify b.copies u ended } r c
/-- The value of a load: the bytes read, the core's own earlier stores over them, extended (R42, R184). DEDUCED (log 41). -/
def loadValue (n : Nat) (signed : Bool) (own : List (Nat × BitVec 8)) (bs : List (BitVec 8)) : BitVec 64 :=
  let x := natLE (own.foldl (fun bs o => bs.set o.1 o.2) bs)
  if signed then BitVec.ofInt 64 (sextNat x (8 * n)) else BitVec.ofNat 64 x
/-- A register that an access was to write receives its value. DEDUCED (log 10). -/
def Body.receive (b : Body) (id : Nat) (r : Reg) (v : BitVec 64) (now : Nat) : Body :=
  { (if b.awaited.any (fun a => a.access == id) then b.setG r v (now + 1) else b) with awaited := b.awaited.filter (·.access != id) }
/-- A team fault that the core reports; the first one stays. -/
def Body.faultTeam (b : Body) (f : TeamFault) : Body := { b with teamFault := some (b.teamFault.getD f) }
/-- A fault that an engine met on global memory: a poisoned line faults the team, any other cause is parked by its command (R53, R449). -/
def Body.engineFault (b : Body) (id : Nat) (baddr : VA) (cause : Cause) (a : Nat) : Body :=
  if cause = .machineCheck then b.faultTeam ⟨.machineCheck, 15, BitVec.ofNat 64 a, baddr, none⟩
  else match b.command id with
    | some k => b.report k cause a
    | none => b
/-- A returning operation answers the bundle that waits for it; one that has faulted is kept for a replay (R188, R352). -/
def Body.answered (b : Body) (r : Request) : Body :=
  { b with
    answers := b.answers ++ [(r.id, r.value, r.fault)]
    kept := if r.fault.isSome ∧ r.fault ≠ some .machineCheck then b.kept ++ [r.fresh] else b.kept }
/-- The records of `afadd` (R353). -/
def Body.atomicRecords (b : Body) (r : Request) : Body :=
  r.notes.foldl (fun b k => b.postAt 6 (statRecord (BitVec.ofNat 8 k) false 31 0 5 r.baddr 25)) b
/-- A line of instructions enters its cache of 512 lines (R57). DEDUCED (log 41). -/
def Core.fillInstr (k : Core) (bcast : Bool) (line victim : Nat) (bs : List (BitVec 8)) : Core :=
  let c := if bcast then k.bicache else k.icache
  let free := (c.map (·.1)).filter fun l => bcast || !k.locked.contains l
  let c := if c.length < 512 then c else eraseKey c (free.getD (victim % free.length) 0)
  let c := insertKey (eraseKey c line) line bs
  if bcast then { k with bicache := c } else { k with icache := c }
/-- A polling wait asks again; after its last interval of 65 536 cycles it ends as SPURIOUS (R363). -/
def Body.pollOn (b : Body) (r : Request) (now : Nat) : Body :=
  match b.poll with
  | some p =>
    if 65536 ≤ p.interval then { (b.answered r) with poll := none }
    else
      let n := min (2 * p.interval) 65536
      { b with poll := some ⟨{ r with again := false }, some (now + n), n⟩ }
  | none => { b with poll := some ⟨{ r with again := false }, some (now + 64), 64⟩ }
/-- A fault that an access of the core has met: a poisoned line faults the team whatever read it (R449). -/
def Body.faulted (b : Body) (r : Request) (c : Cause) (f : Body → Body) : Body :=
  if c = .machineCheck then b.faultTeam ⟨.machineCheck, 15, r.va.zeroExtend 64, r.baddr, none⟩ else f b
/-- What a value or an acknowledgement does to the body of its core. -/
def Body.deliver (b : Body) (r : Request) (now : Nat) : Body :=
  let parks (b : Body) : Body := match r.fault with
    | some c => b.faulted r c (·.reportAccess r c)
    | none => b
  let answers (b : Body) : Body := match r.fault with
    | some .machineCheck => b.faultTeam ⟨.machineCheck, 15, r.va.zeroExtend 64, r.baddr, none⟩
    | _ => b.answered r
  match r.op with
  | .load n signed d own _ =>
    if r.fault.isSome then parks b else b.receive r.id d (loadValue n signed own r.data) now
  | .copyWrite _ => match r.fault with
    | some c => b.faulted r c (·.copyWriteFault r c)
    | none => b
  | .store _ | .arrive _ => parks b
  | .atomic _ _ _ d | .reduce _ _ _ _ d =>
    if d.val ≠ 0 then answers (if r.fault.isSome then b else b.atomicRecords r)
    else if r.fault.isSome then parks b else b.atomicRecords r
  | .phaser .. => if r.again then b.pollOn r now else { (answers b) with poll := none }
  | .migrate .. => answers b
  | .purgeTlb => { b with answers := b.answers ++ [(r.id, 0, none)] }
  | .prefetch | .access .. | .decrement _ | .peer _ | .carry _ => b
  | .fetch bcast => match r.fault with
    | some c => b.faulted r c fun b => { b with fetchFaults := b.fetchFaults ++ [(bcast, r.va.toNat, c)] }
    | none => b
/-- A value or an acknowledgement at its core: the acknowledgement record, the body, the journal of returned values and the instruction caches. -/
def State.deliverCore (s : State) (r : Request) : State :=
  let s := { s with delivered := s.delivered ++ [(r.core, homeSlice r.va)] }
  let early := decide (r.id < s.cores[r.core].chkId)
  let s := { s with cores := Vec.modify s.cores r.core fun k =>
      let k := k.acknowledge r
      { k with b := k.b.deliver r s.cycle, arrived := if early then k.arrived ++ [r] else k.arrived } }
  match r.op, r.fault with
  | .load n signed _ own entry, none =>
    if early then s else { s with cores := Vec.modify s.cores r.core (·.journalSet entry (loadValue n signed own r.data)) }
  | .fetch bcast, none =>
    { s with cores := Vec.modify s.cores r.core (·.fillInstr bcast (lineOf r.va) (Config.victim s.fresh) r.data), fresh := s.fresh + 1 }
  | _, _ => s
/-- What a request has come to reaches the one that made it. -/
def State.deliver (s : State) (r : Request) : State :=
  let s := s.dropRequest r.id
  match r.op with
  | .access .. | .decrement _ =>
    let s := if r.outer then s else { s with delivered := s.delivered ++ [(r.core, homeSlice r.va)] }
    { s with accesses := s.accesses.map fun x => if x.id = r.id then { x with answer := some (r.data, r.fault) } else x }
  | .peer q => { s with host := { s.host with answers := s.host.answers ++ [(q.peer, q.tag, if r.fault.isSome then none else some r.data)] } }
  | _ => s.deliverCore r
def execAnswerReturn (id : Nat) (s : State) : Result :=
  .next (match s.request? id with
    | some r => if r.returns ∧ s.arrives r then s.deliver r else s
    | none => s)
def execAcknowledgementArrival (id : Nat) (s : State) : Result :=
  .next (match s.request? id with
    | some r => if r.returns = false ∧ s.arrives r then s.deliver r else s
    | none => s)

/-! Polling waits (R363) -/

/-- The next query of a polling wait. -/
def State.pollAgain (s : State) (c : CoreId) (p : Poll) : State :=
  State.sendReady { s.modBody c (fun b => { b with poll := some { p with at_ := none } }) with
    requests := s.requests ++ [{ p.request.fresh with order := .rlx }] } c
/-- The next query is due; that of a `pharw` whose core is asked to stop comes at once. -/
def Poll.isDue (p : Poll) (stop : Bool) (now : Nat) : Bool :=
  p.at_.any fun t => decide (t ≤ now) || (stop && match p.request.op with
    | .phaser .arw .. => true
    | _ => false)
def Core.pollDue (k : Core) (now : Nat) : Bool := k.b.poll.any (·.isDue k.task.stopReq now)
def execPhaserPoll (c : CoreId) (s : State) : Result :=
  .next (match (s.body c).poll with
    | some p => if s.cores[c].pollDue s.cycle then s.pollAgain c p else s
    | none => s)

end Sys2Proof.Machine
end

