-- ==== Sys2Proof/Machine/Access.lean ====
section
/-!
DEFINITION. Global memory as engines, the usher and the host port reach it (R18, R20, R444, R445): each line is a request of its own, made by
a core through its bank ports or from base die 0 over the concourse. An operation is run again until every line that it needs has answered.
-/
namespace Sys2Proof.Machine

/-- What an access has found. -/
inductive Glb where
  | ok (bs : List (BitVec 8))
  | fault (c : Cause) (a : VA)
  /-- it has not been answered yet -/
  | waits
  deriving DecidableEq, Repr
/-- The core whose merge unit makes the access: to global memory, or to the local memory of another core (R385). -/
def AwayFor.mergeOf : AwayFor → Option CoreId
  | .merge c | .sibling c _ _ => some c
  | _ => none
/-- The core whose engine makes the access. -/
def AwayFor.core : AwayFor → Option CoreId
  | .copy c _ | .transform c _ => some c
  | w => w.mergeOf
/-- An access that is under way or answered. -/
def State.access? (s : State) (who : AwayFor) (asn : BitVec 12) (v : VA) (n : Nat) (bytes : Option (List (BitVec 8))) (round : Nat) : Option Access :=
  s.accesses.find? fun x => x.who == who && x.asn == asn && x.va == v && x.n == n && x.bytes == bytes && x.round == round
/-- An access to one line sets out. -/
def State.startAccess (s : State) (who : AwayFor) (asn : BitVec 12) (v : VA) (n : Nat) (bytes : Option (List (BitVec 8))) (round : Nat) : State :=
  let r : Request := { id := s.nextId, core := who.core.getD 0, baddr := 0, issued := 0, asn, va := v, op := .access who round n bytes, gslot := false }
  let a : Access := { id := s.nextId, who, asn, va := v, n, bytes, round }
  let s := { s with nextId := s.nextId + 1, requests := s.requests ++ [r], accesses := s.accesses ++ [a] }
  match who.core with
  | some c => s.sendReady c
  | none => s.sendPacket r 0 (homeDie v) .packet true
/-- The operation that made the accesses is over. -/
def State.forgetAways (s : State) (who : AwayFor) : State :=
  { s with aways := s.aways.filter (·.who != who), accesses := s.accesses.filter (·.who != who) }
/-- The merge unit's present action is over. -/
def State.forgetMerge (s : State) (c : CoreId) : State := { s with accesses := s.accesses.filter (·.who.mergeOf != some c) }
/-- The operation waits: of its attempt only the accesses it sent remain. -/
def State.keepAways (s s' : State) : State :=
  { s with
    aways := s'.aways, accesses := s'.accesses, requests := s'.requests, nextId := s'.nextId, fresh := s'.fresh, routers := s'.routers, sent := s'.sent }
/-- An access to one line: its answer, or its request sets out. -/
def State.glbLine (s : State) (who : AwayFor) (asn : BitVec 12) (v : VA) (n : Nat) (bytes : Option (List (BitVec 8))) (round : Nat) : Glb × State :=
  match s.access? who asn v n bytes round with
  | some x => (match x.answer with
    | some (bs, none) => .ok bs
    | some (_, some c) => .fault c v
    | none => .waits, s)
  | none => (.waits, s.startAccess who asn v n bytes round)
/-- The answer to a decrement of the doubleword at an address, or its request sets out (R418). -/
def State.glbDecrement (s : State) (who : AwayFor) (asn : BitVec 12) (v : VA) : Glb × State :=
  match s.access? who asn v 8 none 1 with
  | some x => (match x.answer with
    | some (bs, none) => .ok bs
    | some (_, some c) => .fault c v
    | none => .waits, s)
  | none =>
    let r : Request := { id := s.nextId, core := 0, baddr := 0, issued := 0, asn, va := v, op := .decrement who, gslot := false }
    let a : Access := { id := s.nextId, who, asn, va := v, n := 8, bytes := none, round := 1 }
    (.waits, State.sendPacket { s with nextId := s.nextId + 1, requests := s.requests ++ [r], accesses := s.accesses ++ [a] } r 0 (homeDie v) .packet true)
/-- The next line of a read sets out: one in a cycle, while the unit has a request free (R313, R349). A serial read sends it only once every line
before it has answered (R166). -/
def State.sendNext (s : State) (who : AwayFor) (asn : BitVec 12) (round : Nat) (serial : Bool) : List (Nat × Nat) → State
  | [] => s
  | p :: ps => match s.access? who asn (BitVec.ofNat 56 p.1) p.2 none round with
    | some x => if serial && x.answer.isNone then s else s.sendNext who asn round serial ps
    | none => s.startAccess who asn (BitVec.ofNat 56 p.1) p.2 none round
/-- What the lines of a read have answered; the lowest one that has not, or has faulted, decides. -/
def State.gather (s : State) (who : AwayFor) (asn : BitVec 12) (round : Nat) : List (Nat × Nat) → Glb
  | [] => .ok []
  | p :: ps => match (s.access? who asn (BitVec.ofNat 56 p.1) p.2 none round).bind (·.answer) with
    | none => .waits
    | some (_, some c) => .fault c (BitVec.ofNat 56 p.1)
    | some (bs, none) => match s.gather who asn round ps with
      | .ok more => .ok (bs ++ more)
      | g => g
/-- The lines named are read; `free` says that a request is free. DESIGN CHOICE (log 36). -/
def State.glbLines (s : State) (who : AwayFor) (asn : BitVec 12) (ps : List (Nat × Nat)) (round : Nat := 0) (free : Bool := true)
    (serial : Bool := false) : Glb × State :=
  let t := if free then s.sendNext who asn round serial ps else s
  (t.gather who asn round ps, t)
/-- n bytes read. -/
def State.glbRead (s : State) (who : AwayFor) (asn : BitVec 12) (v : VA) (n : Nat) (round : Nat := 0) (serial : Bool := false) : Glb × State :=
  s.glbLines who asn (linePieces v.toNat n) round true serial
/-- Bytes written piece by piece in order, each performed before the next. -/
def State.writeLines (s : State) (who : AwayFor) (asn : BitVec 12) (round : Nat) : List (Nat × Nat) → List (BitVec 8) → Glb × State
  | [], _ => (.ok [], s)
  | p :: ps, bs =>
    match s.glbLine who asn (BitVec.ofNat 56 p.1) p.2 (some (bs.take p.2)) round with
    | (.ok _, s) => s.writeLines who asn round ps (bs.drop p.2)
    | r => r
/-- Bytes written, line by line in ascending order. DESIGN CHOICE (log 36). -/
def State.glbWrite (s : State) (who : AwayFor) (asn : BitVec 12) (v : VA) (bs : List (BitVec 8)) (round : Nat := 0) : Glb × State :=
  s.writeLines who asn round (linePieces v.toNat bs.length) bs

end Sys2Proof.Machine
end

