-- ==== Sys2Proof/Machine/Operands.lean ====
section
/-!
DEFINITION. Operands of group table entries: matrix vectors (R257), ports (R233-R239), circular buffers (R240-R242), scalars, latches;
element formats (R232); the checks that come before an entry acts (R246, R262), and the writes that come after its latency (R32, R259).
-/
namespace Sys2Proof.Machine

/-! The entry under way -/

def State.grp (s : State) : Group := s.pre.groups[s.cur.group]
def State.grpNow (s : State) : Group := s.me.groups[s.cur.group]
/-- The cycles of a latency class (R87). -/
def latency (cls : Fin 8) : Nat := 2 ^ cls.val
/-- Lanes selected by a lane predicate before the bundle. -/
def State.lanes (s : State) (vp : Fin 8) : BitVec 64 := if vp.val = 0 then BitVec.allOnes 64 else s.grp.vp[vp]
/-- R85. -/
def State.index (s : State) (rot : Bool) (i : Fin 64) : Fin 64 := if rot then i + s.cur.rot else i
/-- Queues a write of the entry under way for the end of cycle `due` (R32). -/
def State.pendAt (s : State) (due : Nat) (w : GWrite) : State :=
  s.modMe fun b => { b with pend := b.pend ++ [⟨due, s.cycle + 2, s.cur.slot == .v1, s.cur.group, w, s.src⟩] }
/-- Queues a write for the end of cycle t + L - 1. -/
def State.pendW (s : State) (cls : Fin 8) (w : GWrite) : State := s.pendAt (s.cycle + latency cls - 1) w

/-! Matrix registers (R257) -/

/-- Row and column of lane l of a vector. -/
def cellOf (dir : Dir) (i l : Fin 64) : Fin 64 × Fin 64 :=
  match dir with
  | .h => (i, l)
  | .v => (l, i)
  | .d => (l, l + i)
  | .a => (l, i - l)
def cellKey (m : Fin 4) (rc : Fin 64 × Fin 64) : Nat := m.val * 4096 + rc.1.val * 64 + rc.2.val
def Group.vec (g : Group) (m : Fin 4) (dir : Dir) (i : Fin 64) : Lanes :=
  Vec.ofFn fun l => sget 0 g.mat (cellKey m (cellOf dir i l))
/-- Lanes of a mask written. -/
def Group.setVec (g : Group) (m : Fin 4) (dir : Dir) (i : Fin 64) (v : Lanes) (mask : BitVec 64) : Group :=
  { g with mat := (List.finRange 64).foldl (fun t l =>
      if mask.getLsbD l.val then sset 0 t (cellKey m (cellOf dir i l)) v[l] else t) g.mat }

/-! Element formats (R232) -/

def fmtSize : Fmt → Nat
  | .fp32 | .int32 => 4
  | .bf16 | .fp16 | .int16 | .uint16 => 2
  | .int8 | .uint8 => 1
  | .npf => 4
/-- LOAD: the lane value of the bytes of an element. -/
def loadLane (f : Fmt) (bs : List (BitVec 8)) : BitVec 32 :=
  let x := natLE bs
  match f with
  | .fp32 | .int32 | .npf => BitVec.ofNat 32 x
  | .bf16 => BitVec.ofNat 32 (fpConvert bf16 fp32 x).bits
  | .fp16 => BitVec.ofNat 32 (fpConvert fp16 fp32 x).bits
  | .int16 => (BitVec.ofNat 16 x).signExtend 32
  | .int8 => (BitVec.ofNat 8 x).signExtend 32
  | .uint16 => (BitVec.ofNat 16 x).zeroExtend 32
  | .uint8 => (BitVec.ofNat 8 x).zeroExtend 32
/-- STORE: the bytes of a lane value, with the kind of the record it posts (2 FP_OVERFLOW, 4 INT_SAT), or 0. -/
def storeLane (f : Fmt) (v : BitVec 32) : List (BitVec 8) × Nat :=
  let narrow (n : Nat) (lo hi : Int) : List (BitVec 8) × Nat :=
    (bytesLE n (BitVec.ofInt 32 (sat v.toInt lo hi)).toNat, if v.toInt < lo ∨ hi < v.toInt then 4 else 0)
  let float (g : FpFormat) : List (BitVec 8) × Nat :=
    let r := fpConvert fp32 g v.toNat
    (bytesLE 2 r.bits, if r.overflow then 2 else 0)
  match f with
  | .fp32 | .int32 | .npf => (bytesLE 4 v.toNat, 0)
  | .bf16 => float bf16
  | .fp16 => float fp16
  | .int16 => narrow 2 (-32768) 32767
  | .int8 => narrow 1 (-128) 127
  | .uint16 => narrow 2 0 65535
  | .uint8 => narrow 1 0 255

/-- Bytes that a lane group sees of a space: its own slice of ACC (R13). -/
def groupSize : Space → Nat
  | .acc => 0x20000
  | sp => sp.size
/-- Offset in the core of a lane group's offset. -/
def groupOff (sp : Space) (g : GroupId) (a : Nat) : Nat := if sp = .acc then g.val * 0x20000 + a else a
/-- [a, a + n) lies inside what the lane group sees. -/
def groupIn (sp : Space) (a : Int) (n : Nat) : Bool := decide (0 ≤ a ∧ a + n ≤ groupSize sp)
/-- A vector of 64 elements at a core offset. -/
def Body.readVec (b : Body) (sp : Space) (off : Nat) (f : Fmt) : Lanes :=
  let m := b.space sp
  Vec.ofFn fun l => loadLane f (readBytes m (off + l.val * fmtSize f) (fmtSize f))
/-- The bytes that the lanes of a mask write from a core offset, in lane order, and what each converts with. -/
def vecBytes (off : Nat) (f : Fmt) (v : Lanes) (mask : BitVec 64) : List (Nat × BitVec 8) × List (Nat × Fin 64) :=
  let parts := ((List.finRange 64).filter fun l => mask.getLsbD l.val).map fun l => (l, storeLane f v[l])
  (parts.flatMap fun (l, bs, _) => bs.zipIdx.map fun (x, i) => (off + l.val * fmtSize f + i, x),
    parts.filterMap fun (l, _, k) => if k = 0 then none else some (k, l))

/-! Records of an entry (R264, R232): one of each kind, the lowest lane concerned, element 1 alone marked -/

/-- What may post a record: kind, lane, whether element 1 of a packed pair. -/
abbrev LaneNote := Nat × Fin 64 × Bool
/-- Records of different kinds of one entry enter in ascending kind (R207 orders groups and slots only). DESIGN CHOICE (log 48). -/
def entryRecords (s : State) (op : BitVec 8) (notes : List LaneNote) : List StatRec :=
  [1, 2, 3, 4].filterMap fun k =>
    match notes.filter (·.1 == k) with
    | [] => none
    | ns =>
      let lane := ns.foldl (fun m n => min m n.2.1.val) 63
      let only1 := ns.all (·.2.2)
      some (statRecord (BitVec.ofNat 8 k) true (BitVec.ofNat 5 s.cur.group.val) (BitVec.ofNat 6 lane) 0 s.cur.hdr
        ((BitVec.ofBool only1 ++ op : BitVec 9).zeroExtend 48))

/-! Blocks of the nested plane format in local spaces (R111, R114) -/

/-- The header of row r of the tile at a core offset. -/
def Body.npfHeader (b : Body) (sp : Space) (tile r : Nat) : NpfHeader := BitVec.ofNat 16 (natLE (b.read sp (headerOff tile r) 2))
/-- Plane rows 0..k-1 of row r. -/
def Body.npfRows (b : Body) (sp : Space) (tile r k : Nat) : List (List (BitVec 8)) :=
  (List.range k).map fun j => b.read sp (planeRowOff tile r j) 16
/-- NPF_READ of row r of a tile of P planes (R114). -/
def Body.npfPrefix (b : Body) (sp : Space) (tile r p k : Nat) (rne : Bool) : List Int :=
  npfRead (headerE (b.npfHeader sp tile r)) (b.npfRows sp tile r k)
    (if rne ∧ k < p then some (b.read sp (planeRowOff tile r k) 16) else none)
/-- Bytes of a tile of P planes. -/
def tileBytes (p : Nat) : Nat := 128 + 1024 * p

/-! Ports (R233-R238) -/

namespace PortCfg
/-- Positions of the walk. -/
def positions (c : PortCfg) : Nat := c.counts[0] * c.counts[1] * c.counts[2] * c.counts[3]
/-- a(p) (R235). -/
def addr (c : PortCfg) (p : Nat) : Int :=
  let n0 := c.counts[0]; let n1 := c.counts[1]; let n2 := c.counts[2]
  c.base + (p % n0 : Nat) * c.strides[0] + (p / n0 % n1 : Nat) * c.strides[1] + (p / (n0 * n1) % n2 : Nat) * c.strides[2] +
    (p / (n0 * n1 * n2) : Nat) * c.strides[3]
/-- The walk has ended in stop mode. -/
def exhausted (c : PortCfg) (p : Nat) : Bool := c.stop && p == c.positions
def next (c : PortCfg) (p : Nat) : Nat := if c.stop then p + 1 else (p + 1) % c.positions
/-- Positions p..p+7 of the walk, in stop mode only those below its end. -/
def ahead (c : PortCfg) (p : Nat) : List Nat :=
  if c.stop then ((List.range 8).map (p + ·)).filter (· < c.positions) else (List.range 8).map fun i => (p + i) % c.positions
/-- The causes of an access at a stream position (R236, R237). -/
def faults (c : PortCfg) (p : Nat) : List (Cause × Int) :=
  if c.exhausted p then []
  else
    let a := c.addr p
    if c.fmt = .npf then
      if 64 ≤ a % 128 then [(.misaligned, a)]
      else if groupIn c.space (a - a % 128) (tileBytes c.planes) then [] else [(.protection, a)]
    else if a % fmtSize c.fmt ≠ 0 then [(.misaligned, a)]
    else if groupIn c.space a (64 * fmtSize c.fmt) then [] else [(.protection, a)]
/-- The vector at a position as the fetch path reads it; a position that a pop would refuse reads as 0. -/
def fetch (c : PortCfg) (b : Body) (g : GroupId) (p : Nat) : Fetched :=
  if c.faults p ≠ [] then ⟨p, Vector.replicate 64 0, false⟩
  else
    let off := groupOff c.space g (c.addr p).toNat
    if c.fmt = .npf then
      let tile := off - off % 128
      let r := off % 128
      let e := headerE (b.npfHeader c.space tile r)
      let ms := b.npfPrefix c.space tile r c.planes c.k c.rne
      ⟨p, Vec.ofFn fun l => npfValue e c.k (ms.getD l.val 0), e == 255⟩
    else ⟨p, b.readVec c.space off c.fmt, false⟩
end PortCfg

/-- The port set to a configuration and a position at the end of cycle c: primed in c + 1, delivered from c + 5 (R236). -/
def primePort (cfg : PortCfg) (read : Bool) (pos c : Nat) : Port :=
  ⟨some cfg, pos, [], if cfg.address ∨ read = false then [] else (cfg.ahead pos).map (·, c + 1), c + 5⟩
/-- A port of a group takes its position and advances (R235, R236). -/
def Port.advance (q : Port) (read : Bool) (now : Nat) : Port :=
  match q.cfg with
  | none => q
  | some c =>
    if c.exhausted q.pos then q
    else
      let ahead := if c.stop then q.pos + 8 else (q.pos + 8) % c.positions
      let more := read && !c.address && (!c.stop || decide (ahead < c.positions))
      -- a pop that comes before the priming fetches of its cycle discards the first of them
      let due := if q.fetched.isEmpty then q.toFetch.drop 1 else q.toFetch
      { q with pos := c.next q.pos, fetched := q.fetched.drop 1, toFetch := if more then due ++ [(ahead, now)] else due }
/-- The vector that a pop in this cycle delivers. -/
def Port.head (q : Port) (now : Nat) : Lanes :=
  match q.cfg, q.fetched with
  | some c, f :: _ => if c.exhausted q.pos ∨ now < q.readyAt then Vector.replicate 64 0 else f.vec
  | _, _ => Vector.replicate 64 0
/-- The popped position is marked as under rewrite: space and offset of its header (R236). A pop inside the priming window delivers 0 whatever
the header shows, and is not held. DESIGN CHOICE (log 43). -/
def Port.rewriting (q : Port) (now : Nat) : Option (Space × Nat) :=
  match q.cfg, q.fetched with
  | some c, f :: _ =>
    if f.rewrite ∧ c.exhausted q.pos = false ∧ q.readyAt ≤ now then
      let a := (c.addr q.pos).toNat
      some (c.space, headerOff (a - a % 128) (a % 128))
    else none
  | _, _ => none
def State.modPort (s : State) (n : Fin 16) (f : Port → Port) : State :=
  s.modGroup s.cur.group fun g => { g with ports := Vec.modify g.ports n f }

/-! Circular buffers (R240-R242) -/

/-- Filled slots. -/
def Cb.filled (c : Cb) (n : Nat) : Nat := (c.prod + 2 * n - c.cons) % (2 * n)
/-- The group's staged vector of slot cons, once available. -/
def State.stagedVec (s : State) (n : Fin 16) : Option Lanes :=
  (s.grp.staged.find? fun v => v.cb == n && v.ptr == s.pre.cbs[n].cons && decide (v.avail ≤ s.cycle)).map (·.vec)

/-! Sources (R84, R258) -/

/-- Causes that a source operand raises. -/
def State.srcFaults (s : State) : Operand → List (Cause × Int)
  | .port n =>
    match s.grpNow.ports[n].cfg with
    | none => [(.illegalOp, 0)]
    | some c => if c.address then [(.illegalOp, 0)] else c.faults s.grpNow.ports[n].pos
  | .cb n => if s.pre.cbs[n].cfg.isSome then [] else [(.illegalOp, 0)]
  | _ => []
/-- The bundle is held: the buffer's slot is not yet available (R242). -/
def State.srcHolds (s : State) : Operand → Bool
  | .cb n => s.pre.cbs[n].cfg.isSome && (s.stagedVec n).isNone
  | _ => false
/-- The header under rewrite that a pop of the operand would meet. -/
def State.srcRewrite (s : State) : Operand → Option (Space × Nat)
  | .port n => s.grpNow.ports[n].rewriting s.cycle
  | _ => none
/-- What a source operand supplies (R258). -/
def State.srcVec (s : State) (rot : Bool) : Operand → Lanes
  | .mat m dir i => s.grp.vec m dir (s.index rot i)
  | .port n => s.grpNow.ports[n].head s.cycle
  | .cb n => (s.stagedVec n).getD (Vector.replicate 64 0)
  | .scalar n => Vector.replicate 64 s.grp.scal[n]
  | .zero => Vector.replicate 64 0
  | .lane => Vec.ofFn fun l => BitVec.ofNat 32 l.val
  | .imm => Vector.replicate 64 (s.cur.imm.signExtend 32)
  | .grp => Vector.replicate 64 (BitVec.ofNat 32 s.cur.group.val)
  | .ones => Vector.replicate 64 (BitVec.allOnes 32)
  | .lat => Vector.replicate 64 0
  | .latL => s.pre.groups[s.cur.group - 1].latch
  | .latR => s.pre.groups[s.cur.group + 1].latch
/-- Every port among the operands is popped, each once (R84). -/
def State.popPorts (s : State) (ops : List Operand) : State :=
  ((List.finRange 16).filter fun n => ops.contains (.port n)).foldl (fun s n => s.modPort n (·.advance true s.cycle)) s

/-! Destinations (R84, R237, R242, R259) -/

def State.dstFaults (s : State) : Operand → List (Cause × Int)
  | .port n =>
    match s.grpNow.ports[n].cfg with
    | none => [(.illegalOp, 0)]
    | some c => c.faults s.grpNow.ports[n].pos
  | .cb n => if s.pre.cbs[n].cfg.isSome then [] else [(.illegalOp, 0)]
  | _ => []
/-- The bundle is held: the buffer has no free slot (R242). -/
def State.dstHolds (s : State) : Operand → Bool
  | .cb n =>
    match s.pre.cbs[n].cfg with
    | some c => decide (c.n ≤ s.pre.cbs[n].filled c.n)
    | none => false
  | _ => false
/-- Queues the write of a vector to a destination and advances a write port; answers what the conversion notes. -/
def State.writeDst (s : State) (cls : Fin 8) (rot : Bool) (d : Operand) (v : Lanes) (mask : BitVec 64) : State × List LaneNote :=
  let out (sp : Space) (off : Nat) (f : Fmt) (s : State) : State × List LaneNote :=
    let r := vecBytes off f v mask
    (s.pendW cls (.bytes sp r.1), r.2.map fun (k, l) => (k, l, false))
  match d with
  | .mat m dir i => (s.pendW cls (.mat m dir (s.index rot i) v mask), [])
  | .scalar n => (s.pendW cls (.scalar n v[0]), [])
  | .lat => (s.pendW cls (.lat v mask), [])
  | .port n =>
    match s.grpNow.ports[n].cfg with
    | none => (s, [])
    | some c =>
      let p := s.grpNow.ports[n].pos
      if c.exhausted p then (s, [])
      else out c.space (groupOff c.space s.cur.group (c.addr p).toNat) c.fmt (s.modPort n (·.advance false s.cycle))
  | .cb n =>
    match s.pre.cbs[n].cfg with
    | none => (s, [])
    | some c => out .gal (c.base + s.pre.cbs[n].prod % c.n * c.slotSize + s.cur.group.val * c.groupStride) c.fmt s
  | _ => (s, [])

/-! The frame of every entry (R31, R246, R262) -/

/-- The cause an entry reports: ILLEGAL_OP, then MISALIGNED, then PROTECTION, then the rest (R246). Of two of one cause the first in the
entry's list names TADDR: its own address stands before the position of its data port. DESIGN CHOICE (log 43). -/
def firstFault (fs : List (Cause × Int)) : Option (Cause × Int) :=
  match fs.find? (·.1 == .illegalOp), fs.find? (·.1 == .misaligned), fs.find? (·.1 == .protection), fs with
  | some f, _, _, _ => some f
  | none, some f, _, _ => some f
  | none, none, some f, _ => some f
  | none, none, none, fs => fs.head?
/-- An entry holds its bundle, or raises a cause, or acts; nothing is a cause while it holds the bundle (R31, R246). What V1's entry of a
two-cycle bundle finds is judged in the bundle's first cycle only: a header that becomes 0xFF at its end does not hold the second.
DESIGN CHOICE (log 43). -/
def State.entry (s : State) (holds : Bool) (rewrites : List (Space × Nat)) (faults : List (Cause × Int)) (act : State → State) : Result :=
  .next (
    if s.cur.second then act s
    else if holds ∨ rewrites ≠ [] then
      -- what it does shows the rest of the bundle what it would pop; nothing of a held bundle stays
      let s := (act s).holdFor .stall
      { s with cur := { s.cur with rewrites := s.cur.rewrites ++ rewrites.map fun h => (s.cur.group, s.cur.slot == .v1, h) } }
    else match firstFault faults with
      | some (c, a) => s.raise c (if c = .illegalOp then 0 else BitVec.ofInt 64 a)
      | none => act s)

end Sys2Proof.Machine
end

