-- ==== Sys2Proof/Machine/Interval.lean ====
section
/-!
DEFINITION. Checkpoint intervals (R41-R47, R130, R154): effects that are held, their release, the write signature, rollback and reruns.
-/
namespace Sys2Proof.Machine

/-! Held effects (R42) -/

/-- Lines of GLB that requests write or operate on. -/
def effectLines (rs : List Request) : List (BitVec 12 × Nat) :=
  (rs.flatMap fun r => (linePieces r.va.toNat r.size).map fun p => (r.asn, p.1 / 128)).eraseDups
/-- A further effect would need more than 1 024 provisional lines. -/
def Body.overfull (b : Body) (r : Request) : Bool := decide (1024 < (effectLines (b.held ++ [r])).length)
/-- The held effects of a core sent in issue order (R154). -/
def State.release (s : State) (c : CoreId) : State :=
  let held := (s.body c).held
  let s' := s.modBody c fun b => { b with held := [] }
  State.sendReady { s' with requests := s.requests ++ held.map fun r => { r with stage := .queued } } c
/-- No effect is held in a flight phase or while a bracketed bundle of either stream stands (R401, R43). -/
def Body.sendsDirectly (b : Body) : Bool := b.inPhase || b.bracket || b.bbracket

/-! The write signature (R130) -/

/-- One bit of the CRC-64 of ECMA-182. -/
def crcBit (crc : BitVec 64) (bit : Bool) : BitVec 64 :=
  if crc.msb != bit then (crc <<< 1) ^^^ 0x42F0E1EBA9EA3693#64 else crc <<< 1
def crcByte (crc : BitVec 64) (b : BitVec 8) : BitVec 64 :=
  [7, 6, 5, 4, 3, 2, 1, 0].foldl (fun c i => crcBit c (b.getLsbD i)) crc
def crc64 (bs : List (BitVec 8)) : BitVec 64 := bs.foldl crcByte 0
/-- The 40 bytes of a record with its source and index. -/
def recordBytes (w : WriteRec) (number : Nat) : List (BitVec 8) :=
  bytesLE 8 (w.space.toNat + 256 * w.mask.toNat) ++ bytesLE 8 w.off.toNat ++ bytesLE 8 w.data.toNat ++
    bytesLE 8 (w.src.kind.val * 2 ^ 62 + w.src.n) ++ bytesLE 8 (w.src.pos * 2 ^ 56 + number)
def Src.le (a b : WriteRec) : Bool := a.src == b.src && a.src.kind.val < 2 && decide (a.off.toNat ≤ b.off.toNat)
/-- The number of a record among those of its source and position: bundle writes in ascending offset, commands as handed out. -/
def recordNumber (ws : List WriteRec) (i : Nat) (w : WriteRec) : Nat :=
  (ws.zipIdx.filter fun (x, j) => x.src == w.src &&
    (if w.src.kind.val < 2 then x.off.toNat < w.off.toNat || (x.off == w.off && decide (j < i)) else decide (j < i))).length
def signature (ws : List WriteRec) : BitVec 64 :=
  ws.zipIdx.foldl (fun sum (w, i) => sum + crc64 (recordBytes w (recordNumber ws i w))) 0

/-! Checkpoints and rollback (R41, R45, R46) -/

/-- A checkpoint: the core's state recorded, the journal emptied, held effects released. -/
def State.checkpoint (s : State) (c : CoreId) : State :=
  let s := s.release c
  { s with cores := Vec.modify s.cores c fun k =>
      let b := { k.b with writes := [], ctlCount := 0, bcastCount := 0, journalFrom := 0, tileLines := [] }
      { k with b := b, chk := b, chkAt := s.cycle, chkId := s.nextId, arrived := [], journal := [], journalNext := 0, rerun := none
               posted := 0, postNext := 0, copyLog := Vector.replicate 3 [], copyNext := Vector.replicate 3 0 } }
/-- What an access has left at the core is made again after a rollback. DEDUCED (log 37). -/
def State.redeliver (s : State) (r : Request) : State := s.modBody r.core fun b => b.deliver { r with notes := [] } s.cycle

/-! What a restored state carries of the cycles that its interval began in: it runs again from there, so many cycles later (R45) -/

def NestPhase.shift (p : NestPhase) (n : Nat) : NestPhase :=
  match p with
  | .start t => .start (t + n)
  | .stream st => .stream { st with start := st.start + n }
  | _ => p
def Tile.shift (t : Tile) (n : Nat) : Tile :=
  { t with
    load := t.load.map fun l => { l with issued := l.issued + n }
    swappedAt := t.swappedAt.map (· + n)
    writes := t.writes.map fun w => { w with due := w.due + n }
    run := t.run.map fun r => { r with phase := r.phase.shift n, issued := r.issued + n } }
/-- A port fetches the positions ahead of it again (R256). -/
def Port.refill (q : Port) (read : Bool) (now : Nat) : Port :=
  match q.cfg with
  | some c => primePort c read q.pos now
  | none => q
/-- Fetched vectors and staged slots are not saved: ports fetch again, groups stage again, and the broadcast sequencer waits for them (R256). -/
def Body.refetch (b : Body) (now : Nat) : Body :=
  { b with
    bnext := max b.bnext (now + 5), bsecondFrom := max b.bsecondFrom (now + 5)
    groups := Vec.map (fun g => { g with
      staged := [], ports := Vec.ofFn fun n => g.ports[n].refill (decide (n.val < 8)) now }) b.groups }
/-- DEDUCED (log 37). -/
def Body.shift (b : Body) (n : Nat) : Body :=
  { b with
    gReady := Vec.map (· + n) b.gReady, pReady := Vec.map (· + n) b.pReady
    flagOps := b.flagOps.map fun o => { o with due := o.due + n }
    btq := b.btq.map fun e => { e with due := e.due + n }
    bnext := b.bnext + n, bsecondFrom := b.bsecondFrom + n, bretryAt := b.bretryAt.map (· + n)
    pend := b.pend.map fun w => { w with due := w.due + n, issue := w.issue + n }
    copies := Vec.map (fun u => { u with cmd := u.cmd.map fun x => { x with nextAt := x.nextAt + n } }) b.copies
    transforms := Vec.map (fun u => { u with op := u.op.map fun x => { x with nextAt := x.nextAt + n } }) b.transforms
    groups := Vec.map (fun g => { g with tile := g.tile.shift n }) b.groups }
/-- The state of the interval's start restored: loads of the interval and lines that engines read are forgotten, the journal is read again.
DEDUCED (log 37). -/
def State.rollBack (s : State) (c : CoreId) (rerun : Rerun) : State :=
  let k := s.cores[c]
  let load (r : Request) : Bool := match r.op with
    | .load .. | .prefetch | .access (.copy ..) .. | .access (.transform ..) .. => true
    | _ => false
  let mine (w : AwayFor) : Bool := match w with
    | .copy d _ | .transform d _ => d == c
    | _ => false
  let s := { s with
    requests := s.requests.filter fun r => !(r.core == c && load r && decide (k.chkId ≤ r.id))
    accesses := s.accesses.filter fun a => !mine a.who
    cores := s.cores.set c { k with
      b := (k.chk.shift (s.cycle - k.chkAt)).refetch s.cycle, snap := none, snapFlip := false, issued := none
      postNext := 0, journalNext := 0, copyNext := Vector.replicate 3 0, rerun := some rerun } }
  k.arrived.foldl State.redeliver s
/-- Bundles issued in the interval. DEDUCED (log 37). -/
def Body.issueCount (b : Body) : Nat := b.ctlCount + b.bcastCount
/-- The end of an interval. A first rerun ends by a second rollback; a second one that agrees with it ends as the interval does, one
that disagrees retires the core. Answers whether the interval has ended. DEDUCED (log 37). -/
def State.endInterval (s : State) (c : CoreId) : Bool × State :=
  let k := s.cores[c]
  match k.rerun with
  | none => (true, s.checkpoint c)
  | some .first => (false, s.rollBack c (.second k.b.issueCount (signature k.b.writes)))
  | some (.second n sig) =>
    if n = k.b.issueCount ∧ sig = signature k.b.writes then (true, s.checkpoint c)
    else (false, { s with cores := Vec.modify s.cores c fun k => { k with
        retiring := true, disagreed := true, b := { k.chk with teamFault := some ⟨.machineCheck, 15, 0, k.b.pc, none⟩ } } })
/-- Parked faults that a landing or an implicit checkpoint makes due (R53). -/
def Body.makeDue (b : Body) : Body := { b with faults := b.faults.map fun f => { f with due := true } }
/-- An implicit checkpoint: the interval ends, and every parked fault is due (R42, R53). -/
def State.implicitCheckpoint (s : State) (c : CoreId) : Bool × State :=
  match s.endInterval c with
  | (true, s) => (true, s.modBody c Body.makeDue)
  | r => r
/-- A global effect of the core: held in the interval, or sent at once. An engine's effect for which no line is left takes an implicit
checkpoint first. -/
def State.effect (s : State) (c : CoreId) (r : Request) : State :=
  let r := { r with id := s.nextId, core := c }
  let s := { s with nextId := s.nextId + 1 }
  if (s.body c).sendsDirectly then { s with requests := s.requests ++ [r] }
  else
    let hold (s : State) : State := s.modBody c fun b => { b with held := b.held ++ [r] }
    if (s.body c).overfull r then
      match s.implicitCheckpoint c with
      | (true, s) => hold s
      | (false, s) => s
    else hold s

end Sys2Proof.Machine
end

