-- ==== Sys2Proof/Machine/LSlot.lean ====
section
/-!
DEFINITION. The L slot (R189, R190, R223-R225, R234, R241, R255): gallery accesses, group scalars, the back bank, ports, spill stacks
and circular-buffer handles.
-/
namespace Sys2Proof.Machine

/-- A := g[base] + sext(off10) × scale. -/
def State.memAddr (s : State) (base : Reg) (off : BitVec 10) (scale : BitVec 64) : BitVec 64 := s.rg base + off.signExtend 64 * scale
/-- An access to n gallery bytes: MISALIGNED, then PROTECTION, both with TADDR (R189). -/
def galAccess (n : Nat) (q : Qual) (base : Reg) (off : BitVec 10) (k : Nat → State → State) (s : State) : Result :=
  .next (if s.acts q then
    let a := s.memAddr base off (BitVec.ofNat 64 n)
    if a.toNat % n ≠ 0 then s.raise .misaligned a
    else if inSpace .gal a.toNat n then k a.toNat s
    else s.raise .protection a
  else s)
/-- g[r] := zext(GAL[A, n]), readable 4 cycles after issue. DESIGN CHOICE (log 8). -/
def galLoad (n : Nat) (q : Qual) (r base : Reg) (off : BitVec 10) (s : State) : Result :=
  galAccess n q base off (fun a s => s.wg r (BitVec.ofNat 64 (natLE (s.pre.readGal a n))) 4) s
def execLyb (q : Qual) (r base : Reg) (off : BitVec 10) (s : State) : Result := galLoad 1 q r base off s
def execLyh (q : Qual) (r base : Reg) (off : BitVec 10) (s : State) : Result := galLoad 2 q r base off s
def execLyw (q : Qual) (r base : Reg) (off : BitVec 10) (s : State) : Result := galLoad 4 q r base off s
def execLyd (q : Qual) (r base : Reg) (off : BitVec 10) (s : State) : Result := galLoad 8 q r base off s
/-- GAL[A, n] := g[r][8n-1:0] at the end of the cycle. DESIGN CHOICE (log 8). -/
def galStore (n : Nat) (q : Qual) (r base : Reg) (off : BitVec 10) (s : State) : Result :=
  galAccess n q base off (fun a s => s.writeGal 4 a (bytesLE n (s.rg r).toNat)) s
def execSyb (q : Qual) (r base : Reg) (off : BitVec 10) (s : State) : Result := galStore 1 q r base off s
def execSyh (q : Qual) (r base : Reg) (off : BitVec 10) (s : State) : Result := galStore 2 q r base off s
def execSyw (q : Qual) (r base : Reg) (off : BitVec 10) (s : State) : Result := galStore 4 q r base off s
def execSyd (q : Qual) (r base : Reg) (off : BitVec 10) (s : State) : Result := galStore 8 q r base off s
/-- R190: s_n of group g, A = 64 × g + 4 × n, at the end of the cycle, before any entry's write of it. -/
def execSgw (q : Qual) (r base : Reg) (off : BitVec 10) (s : State) : Result :=
  .next (if s.acts q then
    let a := s.memAddr base off 4
    if a.extractLsb' 0 2 ≠ 0#2 then s.raise .misaligned a
    else if h : a.toNat ≤ 1532 then
      let g : GroupId := ⟨a.toNat / 64, by omega⟩
      s.modMe fun b => { b with pend := b.pend ++ [⟨s.cycle, 0, false, g, .scalar (fin4 (a.extractLsb' 2 4)) ((s.rg r).extractLsb' 0 32), s.src⟩] }
    else s.raise .protection a
  else s)

/-! The back bank (R88, R89, R223, R224) -/

/-- The reason that refuses an entry at an index of the back bank, none where it is stored (R89). -/
def Bank.reason (k : Bank) (idx : Fin 1024) (x : BitVec 64) : Option Nat :=
  if x.getLsbD 0 = false then none
  else match decodeEntry x with
    | .error c => some c
    | .ok _ =>
      match lookup k.classes idx.val with
      | some c => if (entryClass x).val = 7 ∨ entryClass x = c then none else some 5
      | none => none
/-- The class map after a valid entry of class 0..6 (R88). -/
def Bank.setClass (k : Bank) (idx : Fin 1024) (x : BitVec 64) : Bank :=
  if x.getLsbD 0 ∧ (entryClass x).val ≠ 7 then
    { k with classes := insertKey (eraseKey k.classes idx.val) idx.val (entryClass x) }
  else k
/-- An entry in one group's table. -/
def Bank.put (k : Bank) (g : GroupId) (idx : Fin 1024) (x : BitVec 64) : Bank :=
  { k with entries := sset 0 k.entries (1024 * g.val + idx.val) x }
/-- The entry at an index of a group's table. -/
def Bank.get (k : Bank) (g : GroupId) (idx : Fin 1024) : BitVec 64 := sget 0 k.entries (1024 * g.val + idx.val)
/-- A stored entry and its class, or a refused one, which is stored invalid and refuses the bank. -/
def Bank.store (k : Bank) (gs : List GroupId) (idx : Fin 1024) (x : BitVec 64) : Bank :=
  match k.reason idx x with
  | none => (gs.foldl (fun k g => k.put g idx x) k).setClass idx x
  | some _ => { (gs.foldl (fun k g => k.put g idx (x &&& ~~~1#64)) k) with refused := true }
/-- The TABLE_REFUSED record (R209). -/
def refusedRecord (baddr : VA) (g : GroupId) (idx : Fin 1024) (reason : Nat) (copy : Bool) : StatRec :=
  statRecord 9 false (BitVec.ofNat 5 g.val) 0 6 baddr
    ((BitVec.ofBool copy ++ BitVec.ofNat 3 reason ++ b10 idx : BitVec 14).zeroExtend 48)
/-- The write record of an entry as it is stored (R130). -/
def tableRecord (src : Src) (g : GroupId) (idx : Fin 1024) (x : BitVec 64) : WriteRec :=
  ⟨src, 6, BitVec.ofNat 64 (1024 * g.val + idx.val), 0xFF, x⟩
/-- Lane groups of a 24-bit mask, lowest first. -/
def groupsOf (m : BitVec 24) : List GroupId := (List.finRange 24).filter fun g => m.getLsbD g.val
/-- The back bank of this cycle: a flip of the cycle has taken effect at its start (R227). -/
def State.backAtEnd (s : State) : Bank := s.me.back
/-- A write of the back bank at the end of this cycle. -/
def State.tableOp (s : State) (o : TableOp) : State := s.modMe fun b => { b with tableOps := b.tableOps ++ [o] }
def execTwrite (q : Qual) (a b : Reg) (i : BitVec 10) (s : State) : Result :=
  .next (if s.acts q then
    let x := s.rg a
    let gs := groupsOf ((s.rg b).extractLsb' 16 24)
    let idx : Fin 1024 := fin10 ((s.rg b).extractLsb' 0 10) + fin10 i
    match gs with
    | [] => s
    | g :: _ =>
      let store (s : State) : State := s.tableOp (.store gs idx x s.src)
      match s.backAtEnd.reason idx x with
      | none => store s
      | some r =>
        if s.pre.sys.arm.getLsbD 0 then s.raise .tableRefused 0 (BitVec.ofNat 10 r)
        else (store s).post (refusedRecord s.cur.hdr g idx r false)
  else s)
def execTclr (q : Qual) (s : State) : Result := .next (if s.acts q then s.tableOp .clear else s)
/-- A write of the back bank performed, with its records. -/
def Body.performTable (b : Body) (o : TableOp) : Body :=
  match o with
  | .store gs idx x src =>
    let k := b.back.store gs idx x
    { b with back := k }.logWrites (gs.map fun g => tableRecord src g idx (k.get g idx))
  | .clear => { b with back := {} }

/-! Descriptors in the gallery (R233, R234, R240, R241, R255) -/

/-- Bits [lo + w - 1 : lo] of a descriptor. -/
def dfield (d lo w : Nat) : Nat := d / 2 ^ lo % 2 ^ w
/-- A signed field. -/
def sfield (d lo w : Nat) : Int := sextNat (dfield d lo w) w
/-- The 64-byte descriptor at g[A]: MISALIGNED, PROTECTION, or its value; views never redirect the read (R383). -/
def withDescriptor (d : BitVec 64) (k : Nat → State → State) (s : State) : State :=
  if d.toNat % 64 ≠ 0 then s.raise .misaligned d
  else if 0x1FFFC0 < d.toNat then s.raise .protection d
  else k (natLE (s.pre.read .gal d.toNat 64)) s
/-- A port descriptor that passes the checks of R234 for port n. -/
def portOf (n : Fin 16) (d : Nat) : Option PortCfg :=
  let f := dfield d
  match Space.ofCode (f 28 4), fmtOf (BitVec.ofNat 4 (f 32 4)) with
  | some sp, some fmt =>
    let address := f 40 1 == 1
    let p := f 52 4; let k := f 48 4; let round := f 46 2
    let npf := fmt == .npf
    if f 256 256 = 0 ∧ f 56 8 = 0 ∧ f 41 5 = 0 ∧ f 36 3 = 0 ∧
        (sp = .wb ∨ sp = .ab ∨ sp = .acc ∨ sp = .gal) ∧
        f 64 16 ≠ 0 ∧ f 80 16 ≠ 0 ∧ f 96 16 ≠ 0 ∧ f 112 16 ≠ 0 ∧
        (address = false ∨ (n.val < 8 ∧ f 32 4 = 0 ∧ p = 0 ∧ k = 0 ∧ round = 0)) ∧
        (npf = false ∨ (n.val < 8 ∧ 1 ≤ p ∧ p ≤ 12 ∧ 1 ≤ k ∧ k ≤ p ∧ round ≤ 1)) ∧
        (npf = true ∨ (p = 0 ∧ k = 0 ∧ round = 0)) then
      some ⟨sp, f 0 28, fmt, address, f 39 1 == 1, p, k, round == 1,
        #v[f 64 16, f 80 16, f 96 16, f 112 16], #v[sfield d 128 32, sfield d 160 32, sfield d 192 32, sfield d 224 32]⟩
    else none
  | _, _ => none
/-- The groups of the low 24 bits of g[B]. -/
def State.lowMask (s : State) (b : Reg) : List GroupId := groupsOf ((s.rg b).extractLsb' 0 24)
/-- Entries of this cycle that set a port or a handle leave a new configuration as it is. -/
def Body.dropMoves (b : Body) (now : Nat) (p : Pending → Bool) : Body := { b with pend := b.pend.filter fun w => !(w.due == now && p w) }
def setsPort (n : Fin 16) (gs : List GroupId) (w : Pending) : Bool := gs.contains w.group && (match w.w with | .seek m _ => m == n | _ => false)
def movesRing (n : Fin 16) (w : Pending) : Bool := match w.w with | .move _ m _ => m == n | _ => false
def execQcfg (q : Qual) (a b : Reg) (n : Fin 16) (s : State) : Result :=
  .next (if s.acts q then
    withDescriptor (s.rg a) (fun d s =>
      match portOf n d with
      | none => s.raise .illegalOp (s.rg a)
      | some c => ((s.lowMask b).foldl (fun s g => s.modGroup g fun k =>
          { k with ports := k.ports.set n (primePort c (decide (n.val < 8)) 0 s.cycle) }) s).modMe
            (·.dropMoves s.cycle (setsPort n (s.lowMask b)))) s
  else s)
def execQcfgStk (q : Qual) (a b : Reg) (s : State) : Result :=
  .next (if s.acts q then
    withDescriptor (s.rg a) (fun d s =>
      let sp := dfield d 0 32; let base := dfield d 32 32; let limit := dfield d 64 32
      if dfield d 96 416 ≠ 0 then s.raise .illegalOp (s.rg a)
      else if sp % 256 ≠ 0 ∨ base % 256 ≠ 0 ∨ limit % 256 ≠ 0 then s.raise .misaligned (s.rg a)
      else if base ≤ sp ∧ sp ≤ limit ∧ limit ≤ 0x200000 then
        (s.lowMask b).foldl (fun s g => (s.modGroup g fun k =>
          { k with gsp := BitVec.ofNat 32 sp, gbase := BitVec.ofNat 32 base, glimit := BitVec.ofNat 32 limit }).modMe
            (·.logWrites [registerRecord s.src (0x63100 + g.val) 4 (BitVec.ofNat 64 sp)])) s
      else s.raise .protection (s.rg a)) s
  else s)
/-- R241. -/
def execCbcfg (q : Qual) (a : Reg) (n : Fin 16) (s : State) : Result :=
  .next (if s.acts q then
    if s.pre.commands.any (fun c => c.cbs.contains n) then s.holdFor .stall
    else withDescriptor (s.rg a) (fun d s =>
      let base := dfield d 0 32; let slots := dfield d 32 16; let size := dfield d 64 32; let stride := dfield d 96 32
      match fmtOf (BitVec.ofNat 4 (dfield d 48 4)) with
      | none => s.raise .illegalOp (s.rg a)
      | some f =>
        if dfield d 128 384 ≠ 0 ∨ dfield d 52 12 ≠ 0 ∨ f = .npf ∨ slots = 0 ∨ 1024 < slots then s.raise .illegalOp (s.rg a)
        else if base % 64 ≠ 0 ∨ size % 64 ≠ 0 ∨ stride % 64 ≠ 0 then s.raise .misaligned (s.rg a)
        else if size < 23 * stride + 64 * fmtSize f ∨ 0x200000 < base + slots * size then s.raise .protection (s.rg a)
        else s.modMe fun b => { b.dropMoves s.cycle (movesRing n) with
          cbs := b.cbs.set n ⟨some ⟨base, slots, f, size, stride⟩, 0, 0⟩
          groups := Vec.map (fun g => { g with staged := g.staged.filter (·.cb != n) }) b.groups }) s
  else s)

end Sys2Proof.Machine
end

