-- ==== Sys2Proof/Machine/GSlot.lean ====
section
/-!
DEFINITION. The G slot (R184-R188, R351-R365, R465): loads, stores, prefetches, drains, purges, atomics, reductions, phaser
instructions, migrations; the replay of a faulted access; `eret` (R201), which may perform one.
-/
namespace Sys2Proof.Machine

/-! What every access does -/

/-- The checks of an address: PROTECTION, then MISALIGNED (R132, R184, R352). -/
def glbAccess (a : BitVec 64) (n : Nat) (k : VA → State → State) (s : State) : State :=
  if a.extractLsb' 56 8 ≠ 0#8 then s.raise .protection a
  else if a.toNat % n ≠ 0 then s.raise .misaligned a
  else k (a.extractLsb' 0 56) s
/-- A posted operation with acquire order (R151). DEDUCED (log 37). -/
def Request.postedAcquire (r : Request) : Bool :=
  !r.returns && (r.order == .acq || r.order == .ar)
/-- An access issues once earlier acquires are acknowledged (R151), a request is free (R444), and no fault of the slot's accesses stands for want of
room in the fault table (R53). An acquire that is still held is released by an implicit checkpoint. -/
def whenFree (k : State → State) (s : State) : State :=
  let c := s.cur.core
  if s.pre.held.any (·.postedAcquire) then s.askFor .stall .checkpoint
  else if s.requests.any (fun r => r.core == c && r.postedAcquire) ∨ 4096 ≤ s.outstanding c ∨ s.pre.holdsFault 0 ∨ s.pre.holdsFault 6 then s.holdFor .stall
  else k s
/-- A request of the instruction under way. -/
def State.gRequest (s : State) (va : VA) (op : ReqOp) : Request :=
  { id := 0, core := s.cur.core, baddr := s.cur.hdr, issued := s.issueNo, asn := s.pre.sys.asn, va, op }
/-- A request made now; it is sent as soon as its order allows. -/
def State.sendNow (s : State) (r : Request) : Nat × State :=
  let n := s.newRequest r
  (n.1, n.2.sendReady s.cur.core)
/-- An effect of the G slot; where no line is left an implicit checkpoint comes first (R42). -/
def State.post1 (s : State) (r : Request) : State :=
  if s.me.sendsDirectly = false ∧ s.me.overfull r then s.askFor .stall .checkpoint
  else
    let s := s.effect s.cur.core r
    if s.me.sendsDirectly then s.sendReady s.cur.core else s

/-! Loads and stores (R184) -/

/-- Bytes that stores put over [va, va + n). DEDUCED (log 41). -/
def overlay (rs : List Request) (va n : Nat) : List (Nat × BitVec 8) :=
  rs.flatMap fun r => match r.op with
    | .store bs => bs.zipIdx.filterMap fun (x, i) =>
        if va ≤ r.va.toNat + i ∧ r.va.toNat + i < va + n then some (r.va.toNat + i - va, x) else none
    | _ => []
/-- Stores of a core on their way to their places. -/
def State.unplaced (s : State) (c : CoreId) : List Request :=
  s.requests.filter fun r => r.core == c && (r.stage == .queued || r.stage == .port || r.stage == .packet || r.missing)
/-- An earlier access of the core to the line is still to bring a value, which a later load of the line does not overtake (R148, R149). -/
def State.bringing (s : State) (c : CoreId) (asn : BitVec 12) (va : VA) : Bool :=
  s.requests.any fun r => r.from c && r.asn == asn && lineOf r.va == lineOf va && (match r.op with
    | .load .. | .atomic .. | .reduce .. => true
    | _ => false)
/-- A write of the core's die to the line, which a forwarding slice has accepted and may have shown to a load, is not placed yet: the cached line is
older (R136, R148). -/
def State.shownAhead (s : State) (c : CoreId) (asn : BitVec 12) (va : VA) : Bool :=
  s.requests.any fun x => x.writes && x.dieAck.isSome && x.die == dieOf c && x.asn == asn && lineOf x.va == lineOf va &&
    (x.stage == .packet || x.missing || x.stage == .engine)
/-- The bytes of a line that the scalar data cache holds; a poisoned line is read at its home slice, which refuses it (R449). DEDUCED (log 41). -/
def State.cacheBytes (s : State) (c : CoreId) (asn : BitVec 12) (va : VA) (n : Nat) : Option (List (BitVec 8)) :=
  match s.hallLine asn va with
  | some h => if h.dir.holds c ∧ s.bringing c asn va = false ∧ s.shownAhead c asn va = false ∧ s.poison.contains h.pline = false then
      some (s.physRead (128 * h.pline + va.toNat % 128) n)
    else none
  | none => none
/-- The register that an access will write. DEDUCED (log 10). -/
def Body.await (b : Body) (id : Nat) (r : Reg) : Body :=
  if r.val = 0 then b else { b with awaited := b.awaited.filter (·.reg != r) ++ [⟨id, r⟩] }
/-- A load: from a view, from the journal in a rerun, from the cache, or by a request (R170, R383, R45). DEDUCED (log 41). -/
def loadGlb (n : Nat) (signed : Bool) (r : Reg) (va : VA) (s : State) : State :=
  let c := s.cur.core
  match findHeld s.pre.vts false va.toNat n with
  | some (i, x) => s.wg r (loadValue n signed [] (s.pre.readHeld s.pre.vts[i] x n)) 4
  | none =>
    let j := s.cores[c].journalRead
    let t := { s with cores := s.cores.set c j.2.2 }
    match j.2.1 with
    | some v => t.wg r v 5
    | none =>
      match s.cacheBytes c s.pre.sys.asn va n with
      | some bs =>
        let v := loadValue n signed (overlay (s.unplaced c ++ s.pre.held) va.toNat n) bs
        State.wg { t with cores := Vec.modify t.cores c (·.journalSet j.1 v) } r v 5
      | none =>
        let p := t.sendNow (s.gRequest va (.load n signed r (overlay s.pre.held va.toNat n) j.1))
        p.2.modMe (·.await p.1 r)
def gLoad (n : Nat) (signed : Bool) (q : Qual) (r base : Reg) (off : BitVec 10) (s : State) : Result :=
  .next (if s.acts q then
    glbAccess (s.memAddr base off (BitVec.ofNat 64 n)) n (fun va => whenFree (loadGlb n signed r va)) s
  else s)
def execLdb (q : Qual) (r base : Reg) (off : BitVec 10) (s : State) : Result := gLoad 1 true q r base off s
def execLdbu (q : Qual) (r base : Reg) (off : BitVec 10) (s : State) : Result := gLoad 1 false q r base off s
def execLdh (q : Qual) (r base : Reg) (off : BitVec 10) (s : State) : Result := gLoad 2 true q r base off s
def execLdhu (q : Qual) (r base : Reg) (off : BitVec 10) (s : State) : Result := gLoad 2 false q r base off s
def execLdw (q : Qual) (r base : Reg) (off : BitVec 10) (s : State) : Result := gLoad 4 true q r base off s
def execLdwu (q : Qual) (r base : Reg) (off : BitVec 10) (s : State) : Result := gLoad 4 false q r base off s
def execLdd (q : Qual) (r base : Reg) (off : BitVec 10) (s : State) : Result := gLoad 8 false q r base off s

/-- A store: into a view home at the end of the cycle, or an effect (R42, R383). Among the writes of that cycle it stands where the L slot's
do (R138 names no place for it). DESIGN CHOICE (log 46). -/
def storeGlb (bs : List (BitVec 8)) (va : VA) (s : State) : State :=
  match findHeld s.pre.vts false va.toNat bs.length with
  | some (i, x) => s.laterWrite (heldWrite s.pre.vts 4 s.src i x bs)
  | none =>
    (s.post1 (s.gRequest va (.store bs))).modMe
      (·.logWrites (byteRecords s.src 5 (bs.zipIdx.map fun (x, i) => (va.toNat + i, x))))
def gStore (n : Nat) (q : Qual) (r base : Reg) (off : BitVec 10) (s : State) : Result :=
  .next (if s.acts q then
    glbAccess (s.memAddr base off (BitVec.ofNat 64 n)) n (fun va => whenFree (storeGlb (bytesLE n (s.rg r).toNat) va)) s
  else s)
def execStb (q : Qual) (r base : Reg) (off : BitVec 10) (s : State) : Result := gStore 1 q r base off s
def execSth (q : Qual) (r base : Reg) (off : BitVec 10) (s : State) : Result := gStore 2 q r base off s
def execStw (q : Qual) (r base : Reg) (off : BitVec 10) (s : State) : Result := gStore 4 q r base off s
def execStd (q : Qual) (r base : Reg) (off : BitVec 10) (s : State) : Result := gStore 8 q r base off s
/-- R185: a prefetch never traps and counts for no drain. -/
def execPfg (q : Qual) (base : Reg) (off : BitVec 10) (s : State) : Result :=
  .next (if s.acts q then
    let a := s.memAddr base off 128
    if a.extractLsb' 56 8 ≠ 0#8 then s
    else whenFree (fun s => (s.sendNow { s.gRequest (a.extractLsb' 0 56) .prefetch with gslot := false }).2) s
  else s)

/-! Drains and purges (R150, R186, R187) -/

/-- What the bundle next to issue has set going. -/
def State.standing (s : State) : Option Asked :=
  match s.pre.asked with
  | some a => if a.hdr = s.cur.hdr then some a else none
  | none => none
/-- Its drain: the number that later requests start from. -/
def State.drainHere (s : State) : Option Nat := s.standing.bind (·.drain)
/-- Its request. -/
def State.sentHere (s : State) : Option Nat := s.standing.bind (·.request)
/-- R150: the interval ends, and the bundle retires once every earlier access is performed at the scope. -/
def execDrain (q : Qual) (sc : Scope) (s : State) : Result :=
  .next (if s.acts q then
    match s.drainHere with
    | some id =>
      -- a fault that an acknowledgement has brought is delivered here once it is parked (R53, R186)
      if (s.unperformed s.cur.core id sc).isEmpty ∧ (s.pre.reports.all (·.access.isNone) ∨ 64 ≤ s.pre.faults.length) then s else s.holdFor .stall
    | none => s.askFor .stall .drain
  else s)
/-- A `purge` that has sent its request waits for the answer alone. -/
def purgeFree (k : State → State) (s : State) : State := if s.sentHere.isSome then k s else whenFree k s
/-- `purge` outside handler mode, and its address (R132, R187); it is a G-slot access in R151's order. The PROTECTION of a `purge` outside handler
mode names the address in TADDR: R187 gives none. DEDUCED (log 37), DESIGN CHOICE (log 46). -/
def purgeAt (q : Qual) (base : Reg) (off : BitVec 10) (k : VA → State → State) (s : State) : Result :=
  .next (if s.acts q then
    let a := s.memAddr base off 128
    if s.pre.handler = false then s.raise .protection a else glbAccess a 1 (fun va => purgeFree (k va)) s
  else s)
/-- R187: once every earlier store of the core to the line is acknowledged. -/
def execPurgeDc (q : Qual) (base : Reg) (off : BitVec 10) (s : State) : Result :=
  purgeAt q base off (fun va s =>
    let c := s.cur.core
    let here (r : Request) : Bool := r.asn == s.pre.sys.asn && lineOf r.va == lineOf va &&
      (match r.op with | .store _ => true | _ => false)
    if s.pre.held.any here then s.askFor .stall .checkpoint
    else if s.requests.any (fun r => r.core == c && here r) then s.holdFor .stall
    else s.modHall s.pre.sys.asn va fun h => { h with dir := h.dir.remove c }) s
def execPurgeIc (q : Qual) (base : Reg) (off : BitVec 10) (s : State) : Result :=
  purgeAt q base off (fun va s =>
    { s with cores := Vec.modify s.cores s.cur.core fun k =>
        { k with icache := eraseKey k.icache (lineOf va), bicache := eraseKey k.bicache (lineOf va) } }) s
/-- The answer to its request. -/
def State.answerHere (s : State) : Option (BitVec 64 × Option Cause) :=
  match s.sentHere with
  | some id => (s.pre.answers.find? (·.1 == id)).map (·.2)
  | none => none
def execPurgeTlb (q : Qual) (base : Reg) (off : BitVec 10) (s : State) : Result :=
  purgeAt q base off (fun va s =>
    match s.sentHere, s.answerHere with
    | none, _ => s.askFor .stall (.request { s.gRequest va .purgeTlb with gslot := false } false)
    | some _, none => s.holdFor .stall
    | some _, some _ => s) s

/-! Atomics and reductions (R351-R357) -/

/-- A held view concerns atomics, reductions and phaser instructions, not a migration (R383, R465). -/
def Request.viewed (r : Request) : Bool :=
  match r.op with
  | .migrate .. => false
  | _ => true
/-- An operation with a number sent, or refused at once: one on a held region never leaves the core (R383). -/
def State.launchAs (s : State) (r : Request) : State :=
  if r.viewed = true ∧ (findHeld s.pre.vts false r.va.toNat 1).isSome then s.modMe fun b => b.answered { r with fault := some .protection }
  else State.sendReady { s with requests := s.requests ++ [r] } s.cur.core
def State.launch (s : State) (r : Request) : State := State.launchAs { s with nextId := s.nextId + 1 } { r with id := s.nextId }
/-- A posted operation; one on a held region parks PROTECTION. -/
def State.postOperation (s : State) (r : Request) : State :=
  if (findHeld s.pre.vts false r.va.toNat 1).isSome then
    { (s.modMe fun b => b.reportAccess { r with id := s.nextId } .protection) with nextId := s.nextId + 1 }
  else s.post1 r
/-- A parked cause that an access of the instruction under way has met: delivered at this bundle, where no earlier slot has one (R352, R388). -/
def State.raiseParked (s : State) (cause : Cause) (taddr : BitVec 64) (aux : BitVec 10) (replay : Option Nat) : State :=
  match s.cur.trap with
  | some _ => s
  | none => { s with cur := { s.cur with trap := some { cause, aux, taddr, slot := slotCode s.cur.slot, parked := true, replay } } }
/-- A faulted access that is kept as it was issued. -/
def Body.keptRequest (b : Body) (id : Nat) : Option Request := b.kept.find? (·.id == id)
/-- The fault of a returning operation, which `eret` performs again (R352). -/
def State.raiseReturned (s : State) (id : Nat) (cause : Cause) : State :=
  s.raiseParked cause (((s.pre.keptRequest id).map fun r => r.va.zeroExtend 64).getD 0) 0 (some id)
/-- A returning operation: it is sent once nothing holds its bundle, and the bundle retires when it is answered: with the value, or with the
fault, at which nothing of the bundle acts (R6, R199, R352). -/
def awaitAnswer (h : Hold) (r : Request) (d : Reg) (s : State) : State :=
  match s.sentHere, s.answerHere with
  | some _, none => s.holdFor h
  | some _, some (v, none) => s.wg d v 0
  | some id, some (_, some c) => s.raiseReturned id c
  | none, _ => whenFree (·.askFor h (.request r true)) s
/-- An operation on n bytes at g[base]: returning, or posted where dst is g0. -/
def gOperation (n : Nat) (q : Qual) (d base : Reg) (ord : Order) (sc : Scope) (op : State → ReqOp) (s : State) : Result :=
  .next (if s.acts q then
    glbAccess (s.rg base) n (fun va s =>
      let r := { s.gRequest va (op s) with order := ord, scope := sc }
      if d.val = 0 then whenFree (·.postOperation { r with engine := 6 }) s else awaitAnswer .stall r d s) s
  else s)
def gAtomic (op : AtomicOp) (n : Nat) (q : Qual) (d base src : Reg) (ord : Order) (sc : Scope) (s : State) : Result :=
  gOperation n q d base ord sc (fun s => .atomic op (s.rg src) (s.rg d) d) s
def execAadd (q : Qual) (d base src : Reg) (ord : Order) (sc : Scope) (s : State) : Result := gAtomic .add 8 q d base src ord sc s
def execAand (q : Qual) (d base src : Reg) (ord : Order) (sc : Scope) (s : State) : Result := gAtomic .and 8 q d base src ord sc s
def execAor (q : Qual) (d base src : Reg) (ord : Order) (sc : Scope) (s : State) : Result := gAtomic .or 8 q d base src ord sc s
def execAxor (q : Qual) (d base src : Reg) (ord : Order) (sc : Scope) (s : State) : Result := gAtomic .xor 8 q d base src ord sc s
def execAmin (q : Qual) (d base src : Reg) (ord : Order) (sc : Scope) (s : State) : Result := gAtomic .min 8 q d base src ord sc s
def execAmax (q : Qual) (d base src : Reg) (ord : Order) (sc : Scope) (s : State) : Result := gAtomic .max 8 q d base src ord sc s
def execAminu (q : Qual) (d base src : Reg) (ord : Order) (sc : Scope) (s : State) : Result := gAtomic .minu 8 q d base src ord sc s
def execAmaxu (q : Qual) (d base src : Reg) (ord : Order) (sc : Scope) (s : State) : Result := gAtomic .maxu 8 q d base src ord sc s
def execAxchg (q : Qual) (d base src : Reg) (ord : Order) (sc : Scope) (s : State) : Result := gAtomic .xchg 8 q d base src ord sc s
def execAcas (q : Qual) (d base src : Reg) (ord : Order) (sc : Scope) (s : State) : Result := gAtomic .cas 8 q d base src ord sc s
def execAfadd (q : Qual) (d base src : Reg) (ord : Order) (sc : Scope) (s : State) : Result := gAtomic .fadd 4 q d base src ord sc s
def gReduce (op : ReduceOp) (q : Qual) (d base src : Reg) (ord : Order) (sc : Scope) (s : State) : Result :=
  gOperation 32 q d base ord sc (fun s =>
    .reduce op (s.rg src) (s.pre.sys.arm.getLsbD 1) s.pre.sys.teamCores.toNat d) s
def execRadd (q : Qual) (d base src : Reg) (ord : Order) (sc : Scope) (s : State) : Result := gReduce .add q d base src ord sc s
def execRmax (q : Qual) (d base src : Reg) (ord : Order) (sc : Scope) (s : State) : Result := gReduce .max q d base src ord sc s
def execRmin (q : Qual) (d base src : Reg) (ord : Order) (sc : Scope) (s : State) : Result := gReduce .min q d base src ord sc s

/-! Phaser instructions (R361) -/

def State.phaserOp (s : State) (op : PhaserOp) (v : BitVec 64) (d : Reg) : ReqOp :=
  .phaser op v (s.pre.sys.teamId.extractLsb' 0 16) s.cores[s.cur.core].task.index.val d
/-- The bundle stands until the record's engine answers; in `phwait` that is a pre-emptible wait (R361, R363). -/
def gPhaser (h : Hold) (op : PhaserOp) (v : BitVec 64) (q : Qual) (d base : Reg) (ord : Order) (sc : Scope) (s : State) : Result :=
  .next (if s.acts q then
    glbAccess (s.rg base) 64 (fun va s =>
      awaitAnswer h { s.gRequest va (s.phaserOp op v d) with order := ord, scope := sc } d s) s
  else s)
def execPhinit (q : Qual) (d base src : Reg) (ord : Order) (sc : Scope) (s : State) : Result := gPhaser .stall .init (s.rg src) q d base ord sc s
def execPhreg (q : Qual) (d base src : Reg) (ord : Order) (sc : Scope) (s : State) : Result := gPhaser .stall .reg (s.rg src) q d base ord sc s
def execPhdrop (q : Qual) (d base : Reg) (ord : Order) (sc : Scope) (s : State) : Result := gPhaser .stall .drop 0 q d base ord sc s
def execPharr (q : Qual) (d base : Reg) (ord : Order) (sc : Scope) (s : State) : Result := gPhaser .stall .arr 0 q d base ord sc s
def execPharw (q : Qual) (d base : Reg) (ord : Order) (sc : Scope) (s : State) : Result := gPhaser .stall .arw 0 q d base ord sc s
def execPhq (q : Qual) (d base : Reg) (ord : Order) (sc : Scope) (s : State) : Result := gPhaser .stall .q 0 q d base ord sc s
def execPhwait (q : Qual) (d base src : Reg) (ord : Order) (sc : Scope) (s : State) : Result :=
  gPhaser .wait .wait (s.rg src) q d base ord sc s

/-! Migration (R465) -/

def execMigr (q : Qual) (d base src : Reg) (ord : Order) (s : State) : Result :=
  .next (if s.acts q then
    let f := s.rg src
    if s.pre.sys.asn ≠ 0 then s.raise .protection
    else if (s.rg d).extractLsb' 12 52 ≠ 0#52 then s.raise .illegalOp
    else if (s.rg base).extractLsb' 56 8 ≠ 0#8 then s.raise .protection (s.rg base)
    else if f.extractLsb' 0 16 ≠ 0#16 then s.raise .misaligned f
    else if 0x9000000000 < f.toNat + 0x10000 then s.raise .protection f
    else awaitAnswer .stall { s.gRequest ((s.rg base).extractLsb' 0 56) (.migrate f.toNat d) with
        asn := (s.rg d).extractLsb' 0 12, order := ord, scope := .p } d s
  else s)

/-! Replay and `eret` (R188, R201) -/

/-- The register that a returning operation writes. -/
def Request.dest (r : Request) : Option Reg :=
  match r.op with
  | .atomic _ _ _ d | .reduce _ _ _ _ d | .phaser _ _ _ _ d | .migrate _ d => if r.returns then some d else none
  | _ => none
/-- The access that is kept for a replay. -/
def Body.keptAccess (b : Body) : Option Request := b.replaying.bind b.keptRequest
/-- The kept access performed again, with its number and order. A returning operation answers the bundle at TRET where that is its own, which
is then issued with the operation sent; elsewhere `eret` waits for it. DEDUCED (log 42). -/
def State.replayKept (s : State) (tret : VA) : State :=
  match s.pre.keptAccess with
  | none => s
  | some r =>
    let s := s.modMe fun b => { b with kept := b.kept.filter (·.id != r.id), replaying := none }
    match r.dest with
    | none => State.sendReady { s with requests := s.requests ++ [r] } s.cur.core
    | some d =>
      let s := s.launchAs r
      if r.baddr = tret then
        s.modMe fun b => { b with asked := some { hdr := tret, wait := (match r.op with | .phaser .wait .. => true | _ => false), request := some r.id } }
      else { s.modMe (·.await r.id d) with cur := { s.cur with awaits := [r.id] } }
/-- DEDUCED (log 42). -/
def execEret (q : Qual) (s : State) : Result :=
  .next (if s.acts q then
    if s.pre.handler = false then s.raise .protection
    else
      let tret := s.pre.sys.tret &&& ~~~3#56
      let s := if s.pre.sys.tstat.getLsbD 15 then s.replayKept tret else s.modMe (·.discardReplay s.cycle)
      let s := (s.modMe fun b => { b with handler := false }).goto tret
      if s.pre.sys.tstat.getLsbD 14 ∧ s.pre.bpcUnset = false ∧ s.pre.brun = false then
        s.modMe (·.startBroadcast s.cycle)
      else s
  else s)

end Sys2Proof.Machine
end

