-- ==== Sys2Proof/Machine/Control.lean ====
section
/-!
DEFINITION. The control of a core: traps that break a phase (R51, R406), parked faults (R53, R188), fetch and decode causes (R57, R60,
R75), empty bundles (R59, R76), landings (R34), stops (R36-R38), uncorrectable errors (R45-R48) and retirement (R481).
-/
namespace Sys2Proof.Machine

def State.task (s : State) (c : CoreId) : Task := s.cores[c].task
def State.modTask (s : State) (c : CoreId) (f : Task → Task) : State :=
  { s with cores := Vec.modify s.cores c fun k => { k with task := f k.task } }
def State.team? (s : State) (t : Nat) : Option Team := s.usher.teams.find? (·.id == t)
def State.modTeam (s : State) (t : Nat) (f : Team → Team) : State :=
  { s with usher := { s.usher with teams := s.usher.teams.map fun x => if x.id = t then f x else x } }
/-- The team that a core belongs to. -/
def State.teamOf (s : State) (c : CoreId) : Option Team := (s.task c).team.bind s.team?
/-- A record of the persistent log; the oldest of 4 096 gives way (R480). DESIGN CHOICE (log 32). -/
def State.logEvent (s : State) (kind : LogKind) (unit : Nat) (detail : BitVec 384 := 0) : State :=
  { s with log := (if s.log.length < 4096 then s.log else s.log.drop 1) ++ [⟨s.epoch + s.cycle, kind, unit, detail⟩], logCount := s.logCount + 1 }

/-! Leaving a flight phase (R406-R411) -/

/-- The phase ends on the core: its lines are unlocked and the status word says how. -/
def State.leavePhase (s : State) (c : CoreId) (reason : Fin 16) (port : Fin 4) : State :=
  { s with cores := Vec.modify s.cores c fun k => { k with
      locked := []
      b := { k.b with
        inPhase := false, breakDue := false, journalFrom := k.b.writes.length
        flight := { k.b.flight with cycle := BitVec.ofNat 32 s.cycle, port, reason, valid := true } } } }
/-- A break: the team is signalled (R407). DEDUCED (log 39). -/
def State.breakPhase (s : State) (c : CoreId) (reason : Fin 16) (port : Fin 4 := 0) : State :=
  let s := s.leavePhase c reason port
  match (s.task c).team with
  | some t => s.modTeam t fun x => { x with broken := some (x.broken.getD s.cycle) }
  | none => s
def FlightStatus.word (f : FlightStatus) : BitVec 64 :=
  BitVec.ofNat 16 (min f.lost 65535) ++ f.cycle ++ 0#4 ++ BitVec.ofFin (w := 2) f.port ++ 0#2 ++ BitVec.ofFin (w := 4) f.reason ++ 0#3 ++
    BitVec.ofBool f.valid

/-! Traps of a core -/

/-- A bundle that had issued has retired or is gone: the core that it would start a task on is free for others. -/
def State.forget (s : State) (c : CoreId) : State :=
  if s.cores[c].issued.isNone then s
  else
    let free (k : Core) : Core := if k.task.reserved = some c then { k with task := { k.task with reserved := none } } else k
    { s with cores := Vec.map free (Vec.modify s.cores c fun k => { k with issued := none }) }
/-- What a waiting bundle has set going is taken back (R29, R36, R398). DEDUCED (log 38). -/
def State.abandon (s : State) (c : CoreId) : State :=
  let s := s.forget c
  let s := match (s.body c).asked.bind (·.request) with
    | some id => s.dropRequest id
    | none => s
  let s := (s.modBody c fun b => { b with asked := none, poll := none }).modTask c fun t => { t with arrived := false, closed := false }
  if (s.body c).inPhase then s else { s with cores := Vec.modify s.cores c fun k => { k with locked := [] } }
/-- A bracket ends without its bundle: a checkpoint follows what was sent meanwhile (R43). -/
def State.unbracket (s : State) (c : CoreId) : State :=
  if (s.body c).bracket then (s.modBody c fun b => { b with bracket := false }).checkpoint c else s
/-- The same for the broadcast stream, once it has stopped at its bracketed bundle. -/
def State.bunbracket (s : State) (c : CoreId) : State :=
  let b := s.body c
  if b.bbracket ∧ b.brun = false then (s.modBody c fun b => { b with bbracket := false }).checkpoint c else s
/-- A trap is taken: a phase breaks, a waiting bundle is abandoned (R51, R204, R406). -/
def State.trapCore (s : State) (c : CoreId) (t : TrapInfo) (baddr tret : VA) (replay bres stream parked : Bool) : State :=
  let s := if (s.body c).inPhase ∧ t.cause ≠ .flightSlip then s.breakPhase c 4 else s
  ((s.abandon c).modBody c (·.takeTrap t baddr tret replay bres stream parked)).unbracket c
/-- The slot that TSTAT names for a parked fault of an engine: that of the instructions which command the engine (R174 names none for a
parked cause). DESIGN CHOICE (log 46). -/
def engineSlot (e : Fin 16) : Fin 16 :=
  match e.val with
  | 0 | 6 => 1
  | 1 => 5
  | 2 => 6
  | 3 | 4 => 4
  | 5 => 7
  | _ => 15
/-- The oldest of some parked faults (R53). -/
def oldestFault (fs : List Parked) : Option Parked :=
  fs.foldl (fun m f => match m with
    | some g => if f.issued < g.issued then some f else m
    | none => some f) none
/-- A parked fault is delivered: its entry is freed, and a faulted access is kept for a replay (R53, R188). DEDUCED (log 14). -/
def State.deliverParked (s : State) (c : CoreId) (f : Parked) (tret : VA) (bcast : Bool := false) : State :=
  let t : TrapInfo := { cause := f.cause, aux := BitVec.ofFin (w := 10) ⟨f.engine.val, Nat.lt_trans f.engine.isLt (by decide)⟩
                        taddr := f.addr.zeroExtend 64, slot := engineSlot f.engine, group := 31, parked := true }
  (s.modBody c fun b => { b with faults := b.faults.erase f, replaying := f.access }).trapCore c t f.baddr tret f.access.isSome bcast bcast true
/-- A cause of a broadcast bundle: the stream stops at the bundle, and the control stream takes it (R29). DEDUCED (log 42). -/
def State.bcastTrap (s : State) (c : CoreId) (t : TrapInfo) : State :=
  s.modBody c fun b => { b with btrap := some t, brun := false, bfold := 0, bretryAt := none, bretries := 0, bheld := [] }
/-- A cause of the bundle next to issue in a stream. -/
def State.streamTrap (s : State) (c : CoreId) (bcast : Bool) (t : TrapInfo) : State :=
  if bcast then s.bcastTrap c t
  else
    let pc := (s.body c).pc
    s.trapCore c t pc pc false false false false

/-! Fetch and decode causes -/

/-- R60, R79. -/
def execIllegalBundle (c : CoreId) (bcast : Bool) (s : State) : Result := .next (s.streamTrap c bcast { cause := .illegalBundle })
/-- R75. -/
def execReservedOpcode (c : CoreId) (bcast : Bool) (slot : Fin 16) (s : State) : Result :=
  .next (s.streamTrap c bcast { cause := .illegalOp, slot })
/-- R57: the cause that a fetch met, with the address of the word. -/
def execFetchFault (c : CoreId) (bcast : Bool) (s : State) : Result :=
  .next (match (s.body c).fetchFaults.find? (·.1 == bcast) with
    | some f =>
      (s.modBody c fun b => { b with fetchFaults := b.fetchFaults.erase f }).streamTrap c bcast { cause := f.2.2, taddr := BitVec.ofNat 64 f.2.1 }
    | none => s)

/-! Empty bundles (R59, R76) -/

def execEmptyBundle (landing : Bool) (fold : BitVec 8) (s : State) : Result :=
  .next (s.modMe fun b => { b with fold := fold.toNat + 1, foldLanding := landing })
/-- The wait mask applies once. -/
def execEmptyBroadcastBundle (fold : BitVec 8) (wait : BitVec 16) (s : State) : Result :=
  .next (if (maskMembers wait).any (fun n => s.pre.tokenBusy n) then s.holdFor .stall
  else s.modMe fun b => { b with bfold := fold.toNat + 1 })

/-! Stops (R36-R38) -/

/-- The core has arrived at a barrier that is complete, or that this cycle may still complete (R398). DEDUCED (log 39). -/
def State.committed (s : State) (c : CoreId) : Bool :=
  let t := s.task c
  t.arrived && (decide (s.cycle ≤ t.stopSince) || (s.teamOf c).any (·.start.isSome))
/-- A pending stop request takes effect here: outside handler mode and flight phases, after a flip that defers it (R37), and not while an
operation that has been sent owes its answer. DESIGN CHOICE (log 24). DEDUCED (log 39). -/
def State.mayStop (s : State) (c : CoreId) : Bool :=
  let b := s.body c
  let t := s.task c
  t.stopReq && !t.halted && !b.handler && !b.inPhase && decide (t.stopAfter = 0 ∨ t.stopAfter < s.cycle) &&
    b.asked.all (·.wait) && !s.committed c
/-- Steps 1 and 2 of R38, and the engines are told to stop. -/
def State.halt (s : State) (c : CoreId) : State :=
  (((s.abandon c).unbracket c).modBody c fun b => { b with stopping := true }).modTask c fun t => { t with halted := true }
/-- R37: a flip armed within LANDMAX cycles defers the stop. -/
def execStopRequest (c : CoreId) (s : State) : Result :=
  let y := (s.body c).sys
  let defer := decide (y.flipAt.toNat ≠ 0 ∧ s.cycle ≤ y.flipAt.toNat ∧ y.flipAt.toNat ≤ s.cycle + y.landMax.toNat)
  let s := s.modTask c fun t => { t with
    stopReq := true, stopAfter := if defer then y.flipAt.toNat else 0, stopSince := if t.stopReq then t.stopSince else s.cycle }
  -- a `pharw` whose arrival is performed ends as SPURIOUS (R363)
  .next (s.requests.foldl (fun s r =>
    match r.stage, r.op with
    | .waiter _ _, .phaser .arw .. =>
      if r.core = c then s.answer { r with value := (s.readPhaser r.pa).status 1 } else s
    | _, _ => s) s)
/-- The core stands in a pre-emptible wait (R36). -/
def Task.waits (t : Task) : Bool := t.state == some .waiting || t.state == some .merging || t.state == some .mergeFaulted
def execFlipatReached (t : Nat) (s : State) : Result :=
  .next (match s.team? t with
    | some x => x.cores.foldl (fun s c => if (s.task c).waits ∧ s.mayStop c ∧ (s.task c).stopAfter ≠ 0 then s.halt c else s) s
    | none => s)

/-! Landings (R34) -/

/-- The parked fault that a landing or an implicit checkpoint delivers: the oldest; in handler mode those wait that an earlier one has made
due (R53). -/
def Body.duePoint (b : Body) : Option Parked := oldestFault (b.faults.filter fun f => !(b.handler && f.due))
/-- An implicit checkpoint or a landing has ended the interval: every parked fault is due and the one given is delivered at the bundle next to
issue, the others at those after it. DEDUCED (log 15). -/
def State.deliverDue (s : State) (c : CoreId) (k : State → State) : State :=
  let f := (s.body c).duePoint
  let s := s.modBody c Body.makeDue
  match f with
  | some f => s.deliverParked c { f with due := true } (s.body c).pc
  | none => k s
/-- DEDUCED (log 15). -/
def State.landing (s : State) (c : CoreId) : State :=
  let s := s.modBody c fun b => { b with sys := { b.sys with landCnt := 0 } }
  if (s.body c).inPhase then s
  else
    match s.endInterval c with
    | (false, s) => s
    | (true, s) => s.deliverDue c fun s => if s.mayStop c then s.halt c else s
def execLanding (c : CoreId) (s : State) : Result := .next (s.landing c)

/-! Errors (R45-R48, R481) -/

/-- Cycles of an hour. -/
def hour : Nat := 5760000000000
/-- Rolled-back errors within the window, at a number of cycles since power-up. -/
def Core.windowErrors (k : Core) (now : Nat) : Nat := (k.errors.filter fun e => now < e + hour).length
/-- A rolled-back error is counted and logged; the sixteenth marks the core. -/
def State.countError (s : State) (c : CoreId) : State :=
  let s := { s with cores := Vec.modify s.cores c fun k => { k with errors := k.errors ++ [s.epoch + s.cycle] } }
  let s := s.logEvent .rollback c.val
  if 16 ≤ s.cores[c].windowErrors (s.epoch + s.cycle) then { s with cores := Vec.modify s.cores c fun k => { k with retiring := true } } else s
/-- The undo journal has overflowed in this interval (R44, R47). -/
def Core.journalFull (k : Core) : Bool := decide (262144 < journalUse k.b.journalLines k.journalValues)
/-- DEDUCED (log 37). DESIGN CHOICE (log 40). -/
def State.uncorrectable (s : State) (c : CoreId) : State :=
  let k := s.cores[c]
  let b := k.b
  let fault (cause : Cause) : State := (s.logEvent .uncorrectable c.val).modBody c (·.faultTeam ⟨cause, 15, 0, b.pc, none⟩)
  if k.task.state = some .merging then
    match k.task.team with
    | some t => (fault .mergeFault).modTeam t fun x => { x with frozen := true }
    | none => fault .mergeFault
  else if b.inPhase then
    match s.teamOf c with
    | some x => x.cores.foldl (fun s d => s.modBody d fun e => e.faultTeam ⟨.machineCheck, 15, 0, e.pc, none⟩) (fault .machineCheck)
    | none => fault .machineCheck
  else if b.bracket ∨ b.bbracket ∨ b.busy.isSome then fault .machineCheck
  else match k.rerun with
    | some _ => { s with cores := Vec.modify s.cores c fun k => { k with
        retiring := true, disagreed := true, b := { k.chk with teamFault := some ⟨.machineCheck, 15, 0, k.b.pc, none⟩ } } }
    | none => if k.journalFull then fault .journalOverflow else (s.countError c).rollBack c .first
def execUncorrectableError (c : CoreId) (s : State) : Result := .next (s.uncorrectable c)

end Sys2Proof.Machine
end

