-- ==== Sys2Proof/Machine/Tasks.lean ====
section
/-!
DEFINITION. The K slot and the task and view engine (R368-R381, R390-R392): spawns, ranges, view declarations, joins, ends, queries,
range takes and the end of a team. Merges stand in Merge.lean.
-/
namespace Sys2Proof.Machine

/-! Starting a task (R372) -/

/-- A spawner's declared entries as the views of its child. -/
def childViews (vts : Vector ViewEntry 8) : Vector ViewEntry 8 :=
  Vec.map (fun e => if e.valid && !e.held then { e with held := true, touched := [] } else {}) vts
/-- The registers of a task at its start: entry, stack top, GOT, arguments. -/
def startRegs (top got : BitVec 64) (args : Vector (BitVec 64) 8) : Vector (BitVec 64) 64 :=
  Vec.ofFn fun r => if r.val = 2 then top else if r.val = 3 then got
    else if h : 4 ≤ r.val ∧ r.val < 12 then args[r.val - 4]'(by omega) else 0
/-- The control and broadcast state that every task starts with (R25, R372). -/
def Body.startTask (b : Body) (x : Team) (index : Nat) (entry : VA) (args : Vector (BitVec 64) 8) (taskId : BitVec 32)
    (views : Vector ViewEntry 8) : Body :=
  { b with
    g := startRegs (BitVec.ofNat 64 (x.stack + (x.t * x.kernel.cores + index + 1) * x.ssize)) x.kernel.got args
    p := (Vector.replicate 8 false).set 0 true
    lc := Vector.replicate 4 0, bl := Vector.replicate 4 0
    pc := entry, handler := false
    sys := { b.sys with landCnt := 0, taskId := taskId.zeroExtend 64 }
    gReady := Vector.replicate 64 0, pReady := Vector.replicate 8 0, awaited := []
    flags := Vector.replicate 16 false, flagOps := [], ctq := [], btq := []
    commands := []
    bpc := x.kernel.bentry.getD 0, bpcUnset := x.kernel.bentry.isNone, brun := false, bfold := 0, bretries := 0, bheld := [], bnext := 0
    bretryAt := none
    groups := Vec.map (fun g => { g with ports := Vector.replicate 16 {}, staged := [] }) b.groups
    transforms := Vec.map (fun u => { u with ports := Vector.replicate 5 0 }) b.transforms
    cbs := Vector.replicate 16 {}, cds := Vector.replicate 16 none
    vts := views, fold := 0, flight := {} }
/-- A task starts on a core of a team; it issues from the next cycle. -/
def State.startTask (s : State) (c : CoreId) (x : Team) (index : Fin 128) (entry : VA) (args : Vector (BitVec 64) 8) (views : Vector ViewEntry 8)
    (node : Node) (piece : Option Piece) : State :=
  let s := s.modTeam x.id fun x => { x with nextTask := x.nextTask + 1 }
  { s with
    nodes := s.nodes ++ [node]
    cores := Vec.modify s.cores c fun k =>
      let b := k.b.startTask x index.val entry args x.nextTask views
      { k with
        b := b, chk := b, chkId := s.nextId, arrived := [], journal := [], journalNext := 0, rerun := none
        posted := 0, postNext := 0, issued := none, copyLog := Vector.replicate 3 [], copyNext := Vector.replicate 3 0
        task := { k.task with
          state := some .running, node := some node.id, childIndex := Fin.ofNat 256 node.child, children := 0, closed := false, piece
          progress := {}, buffer := [], attempts := 0, fault := none, startAt := s.cycle + 1, halted := false, stopped := false
          reserved := none } } }

/-! `spawn` (R371) -/

/-- Once every earlier G-slot access is performed at team scope (R161, R162); the interval ends first. DEDUCED (log 38). -/
def whenDrained (h : Hold) (k : State → State) (s : State) : State :=
  match s.drainHere with
  | none => s.askFor h .drain
  | some id => if (s.unperformed s.cur.core id .t).isEmpty then k s else s.holdFor .stall
/-- The entry address of a new task: MISALIGNED, PROTECTION, then room for a child (R371, orders 3 to 5). -/
def entryChecks (entry : BitVec 64) (k : State → State) (s : State) : State :=
  if entry.extractLsb' 0 2 ≠ 0#2 then s.raise .misaligned entry
  else if entry.extractLsb' 56 8 ≠ 0#8 then s.raise .protection entry
  else if 255 ≤ (s.task s.cur.core).children then s.raise .illegalOp
  else k s
/-- A 64-byte block of the gallery (R371, R373). -/
def State.galBlock (s : State) (blk : BitVec 10) : BitVec 512 := BitVec.ofNat 512 (natLE (s.pre.read .gal (64 * blk.toNat) 64))
def blockWord (x : BitVec 512) (i : Nat) : BitVec 64 := x.extractLsb' (64 * i) 64
/-- A child is counted (R368). -/
def State.addChild (s : State) : State := s.modTask s.cur.core fun t => { t with children := t.children + 1 }
def spawnOn (x : Team) (c : CoreId) (index : Fin 128) (entry : VA) (blk : BitVec 10) (s : State) : State :=
  let t := s.task s.cur.core
  let node : Node := { id := s.nextId, team := x.id, index, parent := t.node, child := t.children }
  (State.startTask { s with nextId := s.nextId + 1 } c x index entry (Vec.ofFn fun i => blockWord (s.galBlock blk) i.val)
    (childViews s.pre.vts) node none).addChild
/-- DEDUCED (log 38). -/
def execSpawn (q : Qual) (a b : Reg) (blk : BitVec 10) (s : State) : Result :=
  .next (if s.acts q then
    let i := s.rg a
    if s.pre.handler then s.raise .illegalOp
    else match s.teamOf s.cur.core with
    | none => s.raise .illegalOp
    | some x =>
      if s.pre.sys.teamCores.toNat ≤ i.toNat then s.raise .illegalOp
      else entryChecks (s.rg b) (whenDrained .stall fun s =>
        match x.cores[i.toNat]? with
        | some c =>
          if c ≠ s.cur.core ∧ (s.task c).state = some .ended ∧ (s.task c).reserved.all (· == s.cur.core) = true then
            spawnOn x c (Fin.ofNat 128 i.toNat) ((s.rg b).extractLsb' 0 56) blk s
          else s.raise .spawnBusy
        | none => s.raise .illegalOp) s
  else s)

/-! Ranges (R373-R377) -/

/-- Leaves of a FIXED range, remaining grains of a piece. -/
def grains (lo hi grain : Nat) : Nat := if grain = 0 then 0 else (hi - lo + grain - 1) / grain
/-- The range queue is frozen from the fault of a task that it supplied (R378). -/
def State.rangeFrozen (s : State) (x : Team) : Bool :=
  x.frozen || x.cores.any fun c => (s.body c).teamFault.isSome && (s.task c).piece.isSome
/-- A range posted to the team queue: the bundle stalls while it is full; a frozen queue accepts none (R378). DEDUCED (log 38). -/
def postRange (x : Team) (e : RangeEntry) (block : BitVec 512) (s : State) : State :=
  if s.rangeFrozen x then s
  else if 64 ≤ x.ranges.length then s.holdFor .stall
  else ((s.modTeam x.id fun x => { x with ranges := x.ranges ++ [e] }).modTask s.cur.core fun t => { t with template := some block }).addChild
/-- The range entry of a block. -/
def rangeOf (block : BitVec 512) (lo hi : Nat) (views : Vector ViewEntry 8) (t : Task) : RangeEntry :=
  { lo, hi, grain := (block.extractLsb' 64 16).toNat, fixed := block.getLsbD 80, entry := block.extractLsb' 0 56
    args := Vec.ofFn fun i => blockWord block (i.val + 2), views := childViews views, child := t.children, poster := t.node }
/-- DEDUCED (log 38). -/
def execSpawnr (q : Qual) (a : Reg) (blk : BitVec 10) (s : State) : Result :=
  .next (if s.acts q then
    let block := s.galBlock blk
    let lo := ((s.rg a).extractLsb' 0 32).toNat
    let hi := ((s.rg a).extractLsb' 32 32).toNat
    if s.pre.handler then s.raise .illegalOp
    else match s.teamOf s.cur.core with
    | none => s.raise .illegalOp
    | some x => entryChecks (blockWord block 0) (fun s =>
        let e := rangeOf block lo hi s.pre.vts (s.task s.cur.core)
        if block.extractLsb' 81 47 ≠ 0#47 ∨ e.grain = 0 ∨ (e.fixed ∧ 65536 < grains lo hi e.grain) then s.raise .illegalOp
        else if hi ≤ lo then s
        else whenDrained .stall (postRange x e block) s) s
  else s)
/-- An ENDED core starts a piece or leaf. -/
def State.startPiece (s : State) (c : CoreId) (x : Team) (e : RangeEntry) (lo hi : Nat) (leaf : Option (Nat × Nat)) (splitFrom : Option Nat) : State :=
  let node : Node := { id := s.nextId, team := x.id, index := (s.task c).index, parent := e.poster, child := e.child, leaf, splitFrom, lo }
  let args : Vector (BitVec 64) 8 := Vec.ofFn fun i =>
    if i.val = 0 then BitVec.ofNat 64 lo else if i.val = 1 then BitVec.ofNat 64 hi
    else if h : 2 ≤ i.val then e.args[i.val - 2]'(by omega) else 0
  State.startTask { s with nextId := s.nextId + 1 } c x (s.task c).index e.entry args e.views node (some ⟨lo, hi, e⟩)
/-- The core whose lazy piece has the most grains left; ties go to the lowest index (R376). -/
def State.widest (s : State) (x : Team) : Option (CoreId × Piece × Nat) :=
  x.cores.foldl (fun best c =>
    let t := s.task c
    match t.piece with
    | some p =>
      let n := grains p.cursor p.hi p.entry.grain
      if p.entry.fixed ∨ (t.state ≠ some .running ∧ t.state ≠ some .waiting) ∨ n < 2 then best
      else match best with
        | some (_, _, m) => if m < n then some (c, p, n) else best
        | none => some (c, p, n)
    | none => best) none
/-- R374-R376. DEDUCED (log 38). -/
def State.takeRange (s : State) (c : CoreId) (x : Team) : State :=
  match x.ranges with
  | e :: rest =>
    if e.fixed then
      let n := grains e.lo e.hi e.grain
      let lo := e.lo + e.leaf * e.grain
      let s := s.modTeam x.id fun x => { x with ranges := if e.leaf + 1 < n then { e with leaf := e.leaf + 1 } :: rest else rest }
      s.startPiece c x e lo (min (lo + e.grain) e.hi) (some (e.leaf, n)) none
    else (s.modTeam x.id fun x => { x with ranges := rest }).startPiece c x e e.lo e.hi none none
  | [] =>
    match s.widest x with
    | some (o, p, n) =>
      let m := p.cursor + p.entry.grain * (n / 2)
      (s.modTask o fun t => { t with piece := some { p with hi := m } }).startPiece c x p.entry m p.hi none (s.task o).node
    | none => s
/-- From the cycle after the core has ended, while its team is resident and its queue not frozen. DEDUCED (log 38). -/
def State.takes (s : State) (c : CoreId) (x : Team) : Bool :=
  let t := s.task c
  t.state == some .ended && t.reserved.isNone && decide (t.endedAt < s.cycle) && !t.halted && !s.rangeFrozen x && (x.state == .resident || x.state == .stopping)
def execRangeTake (c : CoreId) (s : State) : Result :=
  .next (match s.teamOf c with
    | some x => if s.takes c x then s.takeRange c x else s
    | none => s)
/-- R377: the next grain of the task's own piece; in a rerun the journalled value. DEDUCED (log 38). -/
def execRnext (q : Qual) (a : Reg) (s : State) : Result :=
  .next (if s.acts q then
    let c := s.cur.core
    match (s.task c).piece with
    | none => s.raise .illegalOp
    | some p =>
      let e := min (p.cursor + p.entry.grain) p.hi
      let again := s.cores[c].journalRead.2.1.isSome
      let v : BitVec 64 := if p.cursor < p.hi then BitVec.ofNat 32 e ++ BitVec.ofNat 32 p.cursor else BitVec.ofNat 32 p.cursor ++ BitVec.ofNat 32 p.cursor
      let r := s.journalled v
      let s := if again ∨ p.hi ≤ p.cursor then r.2 else r.2.modTask c fun t => { t with piece := some { p with cursor := e } }
      let w := s.wait
      w.2.wg a r.1 (2 + w.1)
  else s)

/-! Views (R380, R381) -/

def overlaps (a n b m : Nat) : Bool := decide (a < b + m) && decide (b < a + n)
/-- R380: the causes of a declaration, in the order of its table. -/
def vdeclFault (vts : Vector ViewEntry 8) (base len home p : Nat) (op : Fin 8) (gal : Bool) : Option (Cause × Nat) :=
  let valid := vts.toList.filter (·.valid)
  if len % 128 ≠ 0 ∨ len < 128 ∨ 1048576 < len then some (.illegalOp, 0)
  else if (op.val = 2 ∧ (p = 0 ∨ 12 < p ∨ len % (128 + 1024 * p) ≠ 0)) ∨ (op.val ≠ 2 ∧ p ≠ 0) then some (.illegalOp, 0)
  else if base % 128 ≠ 0 then some (.misaligned, base)
  else if home % 128 ≠ 0 then some (.misaligned, home)
  else if (gal = false ∧ 2 ^ 56 ≤ base) ∨ (gal ∧ 0x200000 < base + len) then some (.protection, base)
  else if 0x200000 < home + len then some (.protection, home)
  else if valid.any (fun e => e.gal == gal && overlaps base len e.base.toNat e.size) ||
      valid.any (fun e => overlaps home len e.home.toNat e.size) ||
      valid.any (fun e => e.gal && overlaps home len e.base.toNat e.size) || (gal && overlaps home len base len) then some (.illegalOp, 0)
  else none
def execVdecl (q : Qual) (a b : Reg) (vt op : Fin 8) (gal : Bool) (s : State) : Result :=
  .next (if s.acts q then
    let v := s.rg b
    let len := (v.extractLsb' 0 32).toNat
    if s.pre.vts[vt].valid ∨ 0 < (s.task s.cur.core).children ∨ s.pre.handler ∨ v.extractLsb' 53 7 ≠ 0#7 then s.raise .illegalOp
    else match vdeclFault s.pre.vts (s.rg a).toNat len (v.extractLsb' 32 21).toNat (v.extractLsb' 60 4).toNat op gal with
    | some (c, x) => s.raise c (BitVec.ofNat 64 x)
    | none =>
      let e : ViewEntry := ⟨true, false, gal, op, v.extractLsb' 60 4, BitVec.ofNat 14 (len / 128 - 1), v.extractLsb' 32 21,
        (s.rg a).extractLsb' 0 56, [], s.issueNo⟩
      s.modMe fun m => { m with vts := m.vts.set vt e }
  else s)
/-- A copy issued under the entry's declaration is incomplete. -/
def Body.copyUnder (b : Body) (e : ViewEntry) : Bool :=
  b.commands.any fun c => (c.engine == 1 || c.engine == 2) && decide (e.serial < c.issued)
def execVdrop (q : Qual) (vt : Fin 8) (s : State) : Result :=
  .next (if s.acts q then
    let e := s.pre.vts[vt]
    if 0 < (s.task s.cur.core).children ∨ (e.valid ∧ e.held) then s.raise .illegalOp
    else if e.valid = false then s
    else if s.pre.copyUnder e then s.holdFor .stall
    else s.modMe fun m => { m with vts := m.vts.set vt {} }
  else s)

/-! `join` and `endt` (R390, R391) -/

def State.node? (s : State) (id : Nat) : Option Node := s.nodes.find? (·.id == id)
def State.modNode (s : State) (id : Nat) (f : Node → Node) : State :=
  { s with nodes := s.nodes.map fun n => if n.id = id then f n else n }
/-- Every child of the period has ended and merged. DEDUCED (log 38). -/
def State.joined (s : State) (t : Task) (x : Option Team) : Bool :=
  s.nodes.all (fun n => !(n.parent.isSome && n.parent == t.node) || n.merged) &&
    (match x with | some x => x.ranges.all fun e => !(e.poster.isSome && e.poster == t.node) | none => true)
def execJoin (q : Qual) (s : State) : Result :=
  .next (if s.acts q then
    let c := s.cur.core
    let t := s.task c
    if s.pre.handler then s.raise .illegalOp
    else if t.children = 0 then s
    else if t.closed = false then s.askFor .wait .join
    else if s.joined t (s.teamOf c) then
      { s.modTask c (fun t => { t with children := 0, closed := false }) with
        nodes := s.nodes.filter fun n => !(n.parent.isSome && n.parent == t.node) }
    else s.holdFor .wait
  else s)
/-- The task is over: declared entries become invalid, the core is ENDED. -/
def State.endTask (s : State) (c : CoreId) : State :=
  let s := match (s.task c).node with
    | some n => s.modNode n fun n => { n with ended := true, merged := true }
    | none => s
  (s.modBody c fun b => { b.stopBroadcast with vts := Vec.map (fun e => if e.held then e else { e with valid := false }) b.vts }).modTask c fun t =>
    { t with state := some .ended, endedAt := s.cycle, piece := none, fault := none }
/-- The merge of a task's views begins, or resumes after a fault. -/
def State.beginMerge (s : State) (c : CoreId) : State :=
  let t := s.task c
  let fresh := t.state != some .mergeFaulted
  let s := match t.node with
    | some n => s.modNode n fun n => { n with ended := true }
    | none => s
  (s.modBody c Body.stopBroadcast).modTask c fun t =>
    { t with
      state := some .merging, endtAt := (s.body c).pc, endtSrc := if fresh then ⟨2, (s.body c).ctlCount, 7⟩ else t.endtSrc
      progress := if fresh then {} else t.progress, attempts := 0, tryAt := 0, fault := none }
def Body.holdsViews (b : Body) : Bool := b.vts.toList.any fun e => e.valid && e.held
/-- An arrival that a copy of the core has made is still to be acknowledged (R162, R326). -/
def State.arriving (s : State) (c : CoreId) : Bool :=
  let arrives (r : Request) : Bool := match r.op with
    | .arrive _ => true
    | _ => false
  (s.body c).held.any arrives || s.requests.any fun r => r.from c && arrives r
def execEndt (q : Qual) (s : State) : Result :=
  .next (if s.acts q then
    let c := s.cur.core
    let t := s.task c
    if s.pre.handler ∨ 0 < t.children then s.raise .illegalOp
    else match t.state with
    | some .mergeFaulted =>
      match t.fault with
      | some (cause, a) =>
        s.raiseParked cause (a.zeroExtend 64) 5 none
      | none => s.askFor .wait .merge
    | some .merging =>
      match t.node.bind s.node? with
      | some n => if n.merged then s.endTask c else s.holdFor .wait
      | none => s.endTask c
    | _ => whenDrained .stall (fun s =>
        if s.me.commands ≠ [] ∨ s.me.reports ≠ [] ∨ s.me.signals ≠ [] ∨ s.arriving s.cur.core then s.holdFor .stall
        else if s.pre.holdsViews then s.askFor .wait .merge
        else s.endTask c) s
  else s)

/-! `tinfo` (R392) -/

def Progress.word (p : Progress) : BitVec 64 :=
  BitVec.ofNat 64 (p.line % 2 ^ 13 * 2 ^ 27 + p.done * 2 ^ 20 + (if p.buf then 2 ^ 19 else 0) + (if p.region then 2 ^ 17 else 0) + p.vt)
def execTinfoSelf (q : Qual) (a : Reg) (s : State) : Result :=
  .next (if s.acts q then
    let t := s.task s.cur.core
    s.wg a (s.pre.sys.taskId.extractLsb' 0 32 ++ BitVec.ofNat 8 (if t.piece.isSome then 1 else 0) ++ BitVec.ofNat 8 t.children ++
      BitVec.ofNat 8 t.childIndex.val ++ BitVec.ofNat 8 t.index.val)
  else s)
/-- A value read from another core's engine: journalled, and readable when it returns. DEDUCED (log 38). -/
def State.readEngine (s : State) (a : Reg) (v : BitVec 64) : State :=
  let r := s.journalled v
  let w := r.2.wait
  w.2.wg a r.1 (2 + w.1)
def TaskState.code : TaskState → BitVec 64
  | .running => 0 | .waiting => 1 | .merging => 2 | .mergeFaulted => 3 | .ended => 4
/-- DEDUCED (log 38). -/
def execTinfoState (q : Qual) (a b : Reg) (s : State) : Result :=
  .next (if s.acts q then
    let i := s.rg b
    if s.pre.sys.teamCores.toNat ≤ i.toNat then s.raise .illegalOp
    else match (s.teamOf s.cur.core).bind fun x => x.cores[i.toNat]? with
      | some c => s.readEngine a (((s.task c).state.map (·.code)).getD 4)
      | none => s.raise .illegalOp
  else s)
def execTinfoQueue (q : Qual) (a : Reg) (s : State) : Result :=
  .next (if s.acts q then
    s.readEngine a (match s.teamOf s.cur.core with
      | some x => BitVec.ofNat 64 (x.ranges.length + if s.rangeFrozen x then 128 else 0)
      | none => 0)
  else s)
def execTinfoMerge (q : Qual) (a : Reg) (s : State) : Result :=
  .next (if s.acts q then s.wg a (s.task s.cur.core).progress.word else s)

/-! The end of a team (R370) -/

def State.teamOver (s : State) (x : Team) : Bool :=
  (x.state == .resident || x.state == .stopping) && x.ranges.isEmpty && !s.rangeFrozen x && !x.faulting && !x.cores.isEmpty && x.cores.all fun c => (s.task c).state == some .ended
/-- The cores of a team are free again. -/
def State.freeCores (s : State) (x : Team) : State :=
  x.cores.foldl (fun s c => s.modTask c fun _ => {}) (s.modTeam x.id fun x => { x with cores := [] })
def execTeamEnd (t : Nat) (s : State) : Result :=
  .next (match s.team? t with
    | some x =>
      if s.teamOver x then
        { (s.freeCores x).modTeam t (fun y => { y with state := .ended, lastCores := x.cores, endId := s.nextId }) with nodes := s.nodes.filter (·.team != t) }
      else s
    | none => s)

end Sys2Proof.Machine
end

