-- ==== Sys2Proof/Machine/Copy.lean ====
section
/-!
DEFINITION. The copy units (R311-R333): descriptors, the checks at issue, rows, tiles and table entries as they move, rings, completion,
faults, cancellation, status.
-/
namespace Sys2Proof.Machine

/-! Shape descriptors (R314, R315) -/

/-- A field of a descriptor. -/
def cdf (d : BitVec 512) (lo w : Nat) : Nat := (d.extractLsb' lo w).toNat
/-- A signed stride. -/
def cdStride (d : BitVec 512) (lo : Nat) : Int := (d.extractLsb' lo 64).toInt
def cdRows (d : BitVec 512) : Nat := cdf d 96 16 + 1
/-- The field checks of R315. -/
def cdOk (d : BitVec 512) : Bool :=
  cdf d 384 128 == 0 && cdf d 312 8 == 0 && cdf d 85 11 == 0 && cdf d 32 32 == 0 && cdf d 8 7 == 0 &&
    (Space.ofCode (cdf d 0 4)).isSome && (Space.ofCode (cdf d 4 4)).isSome &&
    decide (1 ≤ cdf d 64 21 ∧ cdf d 64 21 ≤ 1048576) &&
    decide (cdf d 28 4 ≤ 12 ∧ cdf d 24 4 ≤ cdf d 28 4) && (cdf d 17 1 == 0 || cdf d 28 4 != 0) &&
    decide (cdf d 18 2 ≠ 3 ∧ (cdf d 18 2 = 1 → cdf d 4 4 = 4) ∧ (cdf d 18 2 = 2 → cdf d 0 4 = 4)) &&
    (cdf d 15 1 == 0 || cdf d 256 6 == 0) && (cdf d 16 1 == 0 || cdf d 112 16 != 0)
def execCpcfg (q : Qual) (a : Reg) (cd : Fin 16) (s : State) : Result :=
  .next (if s.acts q then
    withDescriptor (s.rg a) (fun d s =>
      let v := BitVec.ofNat 512 d
      if cdOk v then s.modMe fun b => { b with cds := b.cds.set cd (some v) } else s.raise .illegalOp (s.rg a)) s
  else s)

/-! The walk (R316, R321-R324, R327) -/

/-- The side of a command that is a ring: 1 destination, 2 source (R324). -/
def CopyCmd.ring (x : CopyCmd) : Nat := cdf x.d 18 2
def CopyCmd.cb (x : CopyCmd) : Fin 16 := fin4 (x.d.extractLsb' 20 4)
def CopyCmd.ssp (x : CopyCmd) : Space := (Space.ofCode (cdf x.d 0 4)).getD .gal
def CopyCmd.dsp (x : CopyCmd) : Space := (Space.ofCode (cdf x.d 4 4)).getD .gal
def CopyCmd.rows (x : CopyCmd) : Nat := cdRows x.d
/-- Bytes that a row or tile may read and writes. -/
def CopyCmd.srcBytes (x : CopyCmd) : Nat :=
  if x.kind = 2 then (if cdf x.d 17 1 = 1 then 256 + 1024 * cdf x.d 28 4 else 128 + 1024 * cdf x.d 24 4) else cdf x.d 64 21
def CopyCmd.dstBytes (x : CopyCmd) : Nat := if x.kind = 2 then 128 + 1024 * cdf x.d 24 4 else cdf x.d 64 21
/-- S and D of a row, exact; for a table the destination counts entries. -/
def CopyCmd.srcAt (x : CopyCmd) (i : Nat) : Int := x.a.toNat + i * cdStride x.d 128
def CopyCmd.dstAt (x : CopyCmd) (i : Nat) : Int := x.b.toNat + i * cdStride x.d 192
def CopyCmd.dstUnits (x : CopyCmd) : Nat := if x.kind = 3 then x.dstBytes / 8 else x.dstBytes
/-- The bounding range of a side that walks. -/
def walkRange (sp : Space) (at_ : Nat → Int) (rows n : Nat) : Range :=
  ⟨sp, min (at_ 0) (at_ (rows - 1)), max (at_ 0) (at_ (rows - 1)) + n⟩
def ringRange (c : CbCfg) : Range := ⟨.gal, c.base, c.base + c.n * c.slotSize⟩
/-- Read and write range (R327). -/
def CopyCmd.footprint (x : CopyCmd) (cb : Option CbCfg) : Range × Range :=
  let side (mine : Nat) (r : Range) : Range := match cb with
    | some c => if x.ring = mine then ringRange c else r
    | none => r
  (side 2 (walkRange x.ssp x.srcAt x.rows x.srcBytes), side 1 (walkRange x.dsp x.dstAt x.rows x.dstUnits))

/-! Checks at issue (R317, R318, R320-R324) -/

/-- A descriptor that the instruction accepts. -/
def CopyCmd.accepts (x : CopyCmd) (cb : Option CbCfg) : Bool :=
  let p := cdf x.d 28 4; let k := cdf x.d 24 4; let expand := cdf x.d 17 1
  let ringOk : Bool := match x.ring, cb with
    | 0, _ => true
    | m, some c => decide ((if m = 1 then x.b.toNat else x.a.toNat) + x.dstBytes ≤ c.slotSize)
    | _, none => false
  match x.kind.val with
  | 1 => p == 0 && k == 0 && expand == 0 && x.dsp != .tbl && ringOk
  | 2 => decide (1 ≤ p ∧ 1 ≤ k) && x.ring == 0 && x.dsp != .tbl
  | _ => x.dsp == .tbl && cdf x.d 64 21 % 8 == 0 && p == 0 && k == 0 && expand == 0 && x.ring == 0 && cdf x.d 15 1 == 0 && cdf x.d 16 1 == 0
/-- The lowest byte or entry of a side that lies outside its space; of a row that starts below 2^56 of global memory and runs past it, 2^56 (R318
names the start of a row alone). DESIGN CHOICE (log 47). -/
def outside (sp : Space) (at_ : Nat → Int) (rows n : Nat) : Option Int :=
  (List.range rows).foldl (fun m i =>
    let lo := at_ i
    let bad : Option Int := if lo < 0 then some lo else if (sp.size : Int) < lo + n then some (max lo sp.size) else none
    match m, bad with
    | some x, some y => some (min x y)
    | none, y => y
    | x, none => x) none
/-- The row of a side that holds an address, the one named first, with the address's place in it. -/
def rowAt (at_ : Nat → Int) (n rows first : Nat) (a : Int) : Option (Nat × Nat) :=
  (((if first < rows then [first] else []) ++ List.range rows).find? fun i => decide (at_ i ≤ a ∧ a < at_ i + n)).map fun i => (i, (a - at_ i).toNat)
/-- A cause with its address and the row and byte offset that it is met at. -/
structure CopyStop where
  cause : Cause
  addr : Int
  row : Nat
  off : Nat
/-- The parked checks, source before destination (R318, step 3). A space that the side may not name is parked with the start of row 0 of that side
(R317 gives no addr). DEDUCED (log 13), DESIGN CHOICE (log 47). -/
def CopyCmd.parked (x : CopyCmd) : Option CopyStop :=
  let unit := if x.kind = 3 then 8 else 1
  let spaceFault : Option CopyStop :=
    if x.ssp = .tbl then some ⟨.protection, x.srcAt 0, 0, 0⟩
    else if x.dsp = .acc then some ⟨.protection, x.dstAt 0, 0, 0⟩ else none
  let range (glb : Bool) : Option CopyStop :=
    let side (sp : Space) (mine : Nat) (at_ : Nat → Int) (n unit : Nat) : Option CopyStop :=
      if (sp == .glb) = glb ∧ x.ring ≠ mine then (outside sp at_ x.rows n).map fun a =>
        let p := (rowAt at_ n x.rows 0 a).getD (0, 0)
        ⟨.protection, a, p.1, p.2 * unit⟩
      else none
    (side x.ssp 2 x.srcAt x.srcBytes 1).or (side x.dsp 1 x.dstAt x.dstUnits unit)
  let misaligned : Option CopyStop :=
    if x.kind = 2 then
      (List.range x.rows).findSome? fun i =>
        if x.srcAt i % 128 ≠ 0 then some ⟨.misaligned, x.srcAt i, i, 0⟩
        else if x.dstAt i % 128 ≠ 0 then some ⟨.misaligned, x.dstAt i, i, 0⟩ else none
    else none
  spaceFault.or ((range false).or ((range true).or misaligned))
/-- The first byte from lo upward that lies in no held region of the views; n bounds the search. -/
def uncovered (views : Vector ViewEntry 8) (lo hi : Nat) : Nat → Bool
  | 0 => decide (lo < hi)
  | n + 1 =>
    if hi ≤ lo then false
    else match views.toList.find? fun e => e.valid && e.held && !e.gal && decide (e.base.toNat ≤ lo ∧ lo < e.base.toNat + e.size) with
      | some e => uncovered views (e.base.toNat + e.size) hi n
      | none => true
/-- The destination may hold held effects (R43). DEDUCED (log 13). -/
def CopyCmd.heldDest (x : CopyCmd) (dst : Range) : Bool := x.dsp == .glb && uncovered x.views dst.lo.toNat dst.hi.toNat 9
/-- A command of this bundle conflicts (R312). -/
def State.bundleConflict (s : State) (reads writes : List Range) : Bool :=
  (s.me.commands.filter fun c => decide (s.pre.nextCommand ≤ c.id)).any fun c => rangesConflict c.reads c.writes reads writes
def State.copyUnit (s : State) : Fin 2 := if s.cur.slot = .c0 then 0 else 1
def State.setUnit (s : State) (u : Fin 2) (f : CopyUnit → CopyUnit) : State := s.modMe fun b => { b with copies := Vec.modify b.copies u f }
/-- A command starts on its unit; a parked check that fails ends it at once, or, where the table is full, once its fault is parked (R53). -/
def State.startCopy (s : State) (u : Fin 2) (x : CopyCmd) (fp : Range × Range) : State :=
  match x.parked with
  | some p =>
    let r := s.addCommand (if u = 0 then 1 else 2) x.tok [fp.1] [fp.2] [] false (!s.me.canPark)
    let y := { x with id := r.1, row := p.row, off := p.off, fault := some (p.cause, BitVec.ofInt 56 p.addr), faultAt := some (p.row, p.off) }
    if s.me.canPark then
      (r.2.modMe fun b => match b.command r.1 with
        | some k => b.report k p.cause p.addr
        | none => b).setUnit u fun k => { k with cmd := none, last := some y, faulted := true, cancelled := false }
    else r.2.setUnit u fun k => { k with cmd := some y, faulted := false, cancelled := false }
  | none =>
    let r := s.addCommand (if u = 0 then 1 else 2) x.tok [fp.1] [fp.2] (if x.ring = 0 then [] else [x.cb]) (x.heldDest fp.2) true
    let w := r.2.nextFree
    w.2.setUnit u fun k => { k with
      cmd := some { x with id := r.1, nextAt := s.cycle + 1 + Config.engineWait w.1 }, faulted := false, cancelled := false }
/-- `cp`, `cpt` and `cptab`: the bundle stalls until the unit is idle and the hazard unit admits the command; then it is checked (R312, R318).
DEDUCED (log 9). -/
def copyInstr (kind : Fin 4) (q : Qual) (a b : Reg) (cd : Fin 16) (tok : Option (Fin 16)) (s : State) : State :=
  if s.acts q then
    let u := s.copyUnit
    if (s.pre.copies[u]).cmd.isSome ∨ s.pre.holdsFault (if u = 0 then 1 else 2) then s.holdFor .stall
    else match s.pre.cds[cd] with
    | none => s.raise .illegalOp
    | some d =>
      let x : CopyCmd := { id := 0, kind, d, a := s.rg a, b := s.rg b, views := s.pre.vts, tok, baddr := s.cur.hdr, issued := s.issueNo
                           src := s.src true, nextAt := 0 }
      let cb := s.pre.cbs[x.cb].cfg
      let fp := x.footprint cb
      if s.hazardFree [fp.1] [fp.2] = false then s.holdFor .stall
      else if x.accepts cb = false ∨ fp.1.overlaps fp.2 ∨ s.bundleConflict [fp.1] [fp.2] then s.raise .illegalOp
      else if tok.any fun t => s.pre.tokenBusy t then s.raise .tokenMisuse
      else s.startCopy u x fp
  else s
def execCp (q : Qual) (a b : Reg) (cd : Fin 16) (tok : Option (Fin 16)) (s : State) : Result := .next (copyInstr 1 q a b cd tok s)
def execCpt (q : Qual) (a b : Reg) (cd : Fin 16) (tok : Option (Fin 16)) (s : State) : Result := .next (copyInstr 2 q a b cd tok s)
def execCptab (q : Qual) (a b : Reg) (cd : Fin 16) (tok : Option (Fin 16)) (s : State) : Result := .next (copyInstr 3 q a b cd tok s)
/-- R330: a command issued before this bundle stops at the end of its row or tile. -/
def execCpcan (q : Qual) (u : Fin 2) (s : State) : Result :=
  .next (if s.acts q then
    match (s.pre.copies[u]).cmd with
    | none => s
    | some y => s.setUnit u fun k => { k with cmd := k.cmd.map fun x => if x.id = y.id then { x with cancel := true } else x }
  else s)
/-- The point of a command: of one that a fault has ended, the row and offset of the faulting byte (R331). -/
def CopyCmd.point (x : CopyCmd) : Nat × Nat :=
  match x.faultAt, x.fault with
  | some p, _ => p
  | none, none => (x.row, x.off)
  | none, some (_, a) =>
    ((if x.faultDst then rowAt x.dstAt x.dstBytes x.rows x.row a.toNat else rowAt x.srcAt x.srcBytes x.rows x.row a.toNat).getD (x.row, x.off))
/-- The status word of R331. -/
def CopyUnit.word (k : CopyUnit) : BitVec 64 :=
  let w (x : CopyCmd) (busy : Bool) : BitVec 64 :=
    let p := if busy then (x.row, x.off) else x.point
    BitVec.ofNat 17 p.1 ++ BitVec.ofNat 20 p.2 ++ 0#16 ++ b4 (x.tok.getD 0) ++ BitVec.ofBool x.tok.isSome ++
      BitVec.ofNat 3 x.kind.val ++ BitVec.ofBool (!busy && k.faulted) ++ BitVec.ofBool (!busy && k.cancelled) ++ BitVec.ofBool busy
  match k.cmd, k.last with
  | some x, _ => w x true
  | none, some x => w x false
  | none, none => 0
def execCpstat (q : Qual) (a : Reg) (u : Fin 2) (s : State) : Result :=
  .next (if s.acts q then s.wg a (s.pre.copies[u]).word else s)

/-! The commands on their units -/

def State.copyOf (s : State) (c : CoreId) (u : Fin 2) : CopyUnit := (s.body c).copies[u]
def State.modCopy (s : State) (c : CoreId) (u : Fin 2) (f : CopyUnit → CopyUnit) : State :=
  s.modBody c fun b => { b with copies := Vec.modify b.copies u f }
def State.setCmd (s : State) (c : CoreId) (u : Fin 2) (x : CopyCmd) : State := s.modCopy c u fun k => { k with cmd := some x }
/-- The command leaves its unit; a whole one owes its signals. -/
def State.endCopy (s : State) (c : CoreId) (u : Fin 2) (x : CopyCmd) (faulted cancelled : Bool) : State :=
  let owes := !faulted && !cancelled && (cdf x.d 15 1 == 1 || cdf x.d 16 1 == 1)
  ((s.forgetAways (.copy c u)).modCopy c u fun k => { k with cmd := none, last := some { x with buf := none }, faulted, cancelled }).modBody c fun b =>
    { b.endCommand x.id with signals := if owes then b.signals ++ [⟨u, x, false⟩] else b.signals }
/-- Line requests that a unit has outstanding (R313). -/
def State.copyLines (s : State) (c : CoreId) (u : Fin 2) : Nat :=
  (s.accesses.filter fun a => a.who == .copy c u && a.answer.isNone).length +
    (s.requests.filter fun r => r.from c && r.engine == (if u = 0 then 1 else 2) && (match r.op with | .copyWrite _ => true | _ => false)).length
/-- Bytes that an engine reads from global memory: from the journal in a rerun, else as `read` finds them (R44, R319). -/
def State.engineRead (s : State) (c : CoreId) (j : Fin 3) (read : State → Glb × State) : Glb × State :=
  let k := s.cores[c]
  let step (log : List (List (BitVec 8))) (s : State) : State :=
    if k.b.inPhase then s
    else { s with cores := Vec.modify s.cores c fun k => { k with copyLog := k.copyLog.set j log, copyNext := Vec.modify k.copyNext j (· + 1) } }
  match (k.copyLog[j])[k.copyNext[j]]? with
  | some bs => (.ok bs, step k.copyLog[j] s)
  | none => match read s with
    | (.ok bs, t) => (.ok bs, step (k.copyLog[j] ++ [bs]) t)
    | r => r
/-- The bytes of pieces in order: those of held views from their homes, the others from what global memory gave for them. -/
def Body.joinPieces (b : Body) (views : Vector ViewEntry 8) : List (Nat × Nat) → List (BitVec 8) → List (BitVec 8)
  | [], _ => []
  | p :: ps, bs => match findHeld views false p.1 p.2 with
    | some (i, o) => b.readHeld b.vts[i] o p.2 ++ b.joinPieces views ps bs
    | none => bs.take p.2 ++ b.joinPieces views ps (bs.drop p.2)
/-- Pieces of the source, each within a line: local ones at once; of global memory one request sets out in a cycle, and views that the command
has captured are read as the task reads them and never journalled (R146, R313, R319, R328). DESIGN CHOICE (log 12). -/
def State.copyPieces (s : State) (c : CoreId) (u : Fin 2) (x : CopyCmd) (ps : List (Nat × Nat)) (round : Nat) : Glb × State :=
  let serial := decide (x.kind = 2)
  let b := s.body c
  if x.ssp ≠ .glb then (.ok (ps.flatMap fun p => b.read x.ssp p.1 p.2), s)
  else
    let out := ps.filter fun p => (findHeld x.views false p.1 p.2).isNone
    let join : Glb × State → Glb × State
      | (.ok bs, t) => (.ok (b.joinPieces x.views ps bs), t)
      | r => r
    if out = [] then join (.ok [], s)
    else join (s.engineRead c ⟨u.val, by omega⟩ fun s => s.glbLines (.copy c u) b.sys.asn out round (decide (s.copyLines c u < 2048)) serial)
/-- The plane lines below k that an elided tile stores: line number, place among the stored lines (R322). -/
def storedLines (map k : Nat) : List (Nat × Nat) :=
  ((List.range (8 * k)).filter map.testBit).zipIdx
/-- Header and plane lines as they are written: elided lines are zeros. -/
def expandTile (map k : Nat) (header stored : List (BitVec 8)) : List (BitVec 8) :=
  header ++ (List.range (8 * k)).flatMap fun l => match (storedLines map k).find? (·.1 == l) with
    | some (_, i) => (stored.drop (128 * i)).take 128
    | none => List.replicate 128 0
/-- A tile's prefix as it is written: the header line, of an elided tile its map, then the plane lines that are needed (R321, R322). -/
def State.copyTile (s : State) (c : CoreId) (u : Fin 2) (x : CopyCmd) (a : Nat) : Glb × State :=
  let k := cdf x.d 24 4
  if cdf x.d 17 1 = 0 then s.copyPieces c u x (linePieces a (128 + 1024 * k)) 0
  else match s.copyPieces c u x (linePieces a 256) 0 with
    | (.ok hm, t) =>
      let map := natLE ((hm.drop 128).take 12)
      match t.copyPieces c u x ((storedLines map k).map fun l => (a + 256 + 128 * l.2, 128)) 0 with
      | (.ok bs, t) => (.ok (expandTile map k (hm.take 128) bs), t)
      | r => r
    | r => r
/-- The source of a row, and of a tile the header line once more (R166). -/
def State.copySource (s : State) (c : CoreId) (u : Fin 2) (x : CopyCmd) (a : Nat) : Glb × List (BitVec 8) × State :=
  if x.kind ≠ 2 then
    let r := s.copyPieces c u x (linePieces a x.srcBytes) 0
    (r.1, [], r.2)
  else match s.copyTile c u x a with
    | (.ok bs, t) => match t.copyPieces c u x (linePieces a 128) 1 with
      | (.ok again, t) => (.ok bs, again, t)
      | (r, t) => (r, [], t)
    | (r, t) => (r, [], t)
/-- The lowest block of a tile whose header shows E = 0xFF or has changed between the two reads (R166, R321). DEDUCED (log 13). -/
def badHeader (bs again : List (BitVec 8)) : Option Nat := (List.range 64).find? fun r =>
  bs.getD (2 * r + 1) 0 == 0xFF#8 || (bs.drop (2 * r)).take 2 != (again.drop (2 * r)).take 2
/-- Where a row is read and written: a ring side follows its pointer. -/
def State.copyPlace (s : State) (c : CoreId) (x : CopyCmd) : Int × Int :=
  let cb := (s.body c).cbs[x.cb]
  let slot (p : Nat) (o : BitVec 64) : Int := match cb.cfg with
    | some k => k.base + p % k.n * k.slotSize + o.toNat
    | none => o.toNat
  (if x.ring = 2 then slot cb.cons x.a else x.srcAt x.row, if x.ring = 1 then slot cb.prod x.b else x.dstAt x.row)
/-- The ring has a slot for the row. -/
def State.ringReady (s : State) (c : CoreId) (x : CopyCmd) : Bool :=
  let cb := (s.body c).cbs[x.cb]
  match x.ring, cb.cfg with
  | 1, some k => decide (cb.filled k.n < k.n)
  | 2, some k => decide (1 ≤ cb.filled k.n)
  | _, _ => true
/-- Local destination bytes, performed at the end of the cycle after those of unit 0 (R319). DESIGN CHOICE (log 12). -/
def State.copyLocal (s : State) (c : CoreId) (u : Fin 2) (x : CopyCmd) (d : Nat) (bs : List (BitVec 8)) : State :=
  s.modBody c fun b => { b with locals := b.locals ++ [{ rank := u.val, space := x.dsp, off := d, bytes := bs, src := x.src }] }
/-- One line of a global destination: into a view home, or a held effect. -/
def State.copyLine1 (s : State) (c : CoreId) (u : Fin 2) (x : CopyCmd) (v : Nat) (bs : List (BitVec 8)) : State :=
  let b := s.body c
  match findHeld x.views false v bs.length with
  | some (i, o) => s.modBody c fun b => { b with locals := b.locals ++ [heldWrite b.vts u.val x.src i o bs] }
  | none =>
    let r : Request := { id := 0, core := c, baddr := x.baddr, issued := x.issued, asn := b.sys.asn, va := BitVec.ofNat 56 v, op := .copyWrite bs
                         gslot := false, engine := if u = 0 then 1 else 2, tok := x.tok, command := some x.id }
    (s.effect c r).modBody c (·.logWrites (byteRecords x.src 5 (bs.zipIdx.map fun (y, i) => (v + i, y))))
/-- The row is handed out; a command that is cancelled in its last row ends cancelled (R330). -/
def State.rowDone (s : State) (c : CoreId) (u : Fin 2) (x : CopyCmd) : State :=
  let w := s.nextFree
  let y := { x with row := x.row + 1, off := 0, buf := none, attempts := 0, nextAt := s.cycle + s.lineCycles 1 + Config.engineWait w.1 }
  let s := if x.ring = 1 then w.2.modCopy c u fun k => { k with advance := some (true, x.cb) } else w.2
  if y.row < x.rows then s.setCmd c u y else s.endCopy c u y false x.cancel
/-- The next line of a row is handed out, one in a cycle (R313). Where no provisional line is left an implicit checkpoint comes first, and the unit
goes on in the next cycle (R42, R332). DESIGN CHOICE (log 12). -/
def State.handOut (s : State) (c : CoreId) (u : Fin 2) (x : CopyCmd) (bs : List (BitVec 8)) : State :=
  match linePieces ((s.copyPlace c x).2.toNat + x.off) (bs.length - x.off) with
  | [] => s.rowDone c u x
  | (v, n) :: _ =>
    let piece := (bs.drop x.off).take n
    let probe : Request := { id := 0, core := c, baddr := x.baddr, issued := 0, asn := (s.body c).sys.asn, va := BitVec.ofNat 56 v, op := .copyWrite piece }
    let global := x.dsp == .glb && (findHeld x.views false v n).isNone
    if global ∧ (s.body c).sendsDirectly = false ∧ (s.body c).overfull probe then
      ((s.setCmd c u { x with buf := some bs, nextAt := s.cycle + 1 }).implicitCheckpoint c).2
    else if global ∧ 2048 ≤ s.copyLines c u then s.setCmd c u { x with buf := some bs }
    else
      let s := if x.dsp = .glb then s.copyLine1 c u x v piece else s.copyLocal c u x v piece
      if x.off + n < bs.length then s.setCmd c u { x with buf := some bs, off := x.off + n, nextAt := s.cycle + s.lineCycles 1 } else s.rowDone c u x
/-- What a row or tile becomes once it is read: a tile whose header check fails is read again 64 cycles later, at most 256 times (R321).
DEDUCED (log 13). -/
def State.acceptRow (s : State) (c : CoreId) (u : Fin 2) (x : CopyCmd) (bs again : List (BitVec 8)) : State :=
  match (if x.kind = 2 then badHeader bs again else none) with
  | none => s.handOut c u { x with attempts := 0 } bs
  | some r =>
    if x.attempts + 1 < 256 then s.setCmd c u { x with attempts := x.attempts + 1, nextAt := s.cycle + 64 }
    else
      let rec_ := statRecord 7 false 31 0 x.ssp.code x.baddr (BitVec.ofInt 48 (x.srcAt x.row + 2 * r))
      (s.modBody c (·.postAt (1 + u.val) rec_)).handOut c u { x with attempts := 0 } bs
/-- The read of the row next to move. DESIGN CHOICE (log 12). -/
def State.readRow (s : State) (c : CoreId) (u : Fin 2) (x : CopyCmd) : State :=
  match s.copySource c u x (s.copyPlace c x).1.toNat with
  | (.ok bs, again, t) =>
    let t := t.forgetAways (.copy c u)
    let t := if x.ring = 2 then t.modCopy c u fun k => { k with advance := some (false, x.cb) } else t
    if x.kind = 3 then t.setCmd c u { x with buf := some bs } else t.acceptRow c u x bs again
  | (.fault cause a, _, t) => (s.keepAways t |>.forgetAways (.copy c u)).setCmd c u { x with fault := some (cause, a) }
  | (.waits, _, t) => s.keepAways t
/-- A unit that acts in this cycle. DESIGN CHOICE (log 8). -/
def State.copyDue (s : State) (c : CoreId) (u : Fin 2) : Option CopyCmd :=
  match (s.copyOf c u).cmd with
  | some x =>
    if x.fault = none ∧ x.nextAt ≤ s.cycle ∧ (s.body c).holdsFault (if u = 0 then 1 else 2) = false then some x else none
  | none => none
/-- A boundary of rows at which a stop or a cancellation takes effect: no byte of the row at hand has been asked for (R330, R332). -/
def State.betweenRows (s : State) (c : CoreId) (u : Fin 2) (x : CopyCmd) : Bool :=
  x.buf.isNone && x.off == 0 && x.attempts == 0 && s.accesses.all (·.who != .copy c u)
/-- One row or the rest of one. DESIGN CHOICE (log 12). -/
def State.moveRow (s : State) (c : CoreId) (u : Fin 2) : State :=
  match s.copyDue c u with
  | none => s
  | some x =>
    if s.betweenRows c u x ∧ x.cancel then s.endCopy c u x false true
    else if s.betweenRows c u x ∧ (s.body c).stopping then s
    else match x.buf with
    | some bs => if x.kind = 3 then s else s.handOut c u x bs
    | none => if s.ringReady c x then s.readRow c u x else s
/-- DESIGN CHOICE (log 12). -/
def execCopyRowMove (c : CoreId) (u : Fin 2) (s : State) : Result := .next (s.moveRow c u)
/-- A tile that failed its header check is read again (R321). DEDUCED (log 13). -/
def execCptTileRetry (c : CoreId) (u : Fin 2) (s : State) : Result :=
  .next (match s.copyDue c u with
    | some x => if 0 < x.attempts then s.readRow c u x else s
    | none => s)
/-- One entry of a table row, checked as `twrite` checks it (R323). -/
def State.writeEntry (s : State) (c : CoreId) (u : Fin 2) (x : CopyCmd) (bs : List (BitVec 8)) : State :=
  let e := BitVec.ofNat 64 (natLE ((bs.drop x.off).take 8))
  let pos := (x.dstAt x.row).toNat + x.off / 8
  let b := s.body c
  let g : GroupId := Fin.ofNat 24 (pos / 1024)
  let idx : Fin 1024 := Fin.ofNat 1024 pos
  let store (b : Body) : Body :=
    let k := b.back.store [g] idx e
    { b with back := k }.logWrites [tableRecord x.src g idx (k.get g idx)]
  let on (s : State) : State :=
    let y := { x with off := x.off + 8, nextAt := s.cycle + 1 }
    if y.off < bs.length then s.setCmd c u y else s.rowDone c u y
  match b.back.reason idx e with
  | none => on (s.modBody c store)
  | some r =>
    if b.sys.arm.getLsbD 0 then
      if b.canPark = false then s
      else (s.modBody c fun b => match b.command x.id with
        | some k => b.report k .tableRefused pos (BitVec.ofNat 10 r)
        | none => b).endCopy c u x true false
    else on (s.modBody c fun b => (store b).postAt (1 + u.val) (refusedRecord x.baddr g idx r true))
/-- DEDUCED (log 13). -/
def execCptabEntryWrite (c : CoreId) (u : Fin 2) (s : State) : Result :=
  .next (match s.copyDue c u with
    | some x => match x.buf with
      | some bs => if x.kind = 3 then s.writeEntry c u x bs else s
      | none => s
    | none => s)
/-- A ring pointer moves at the end of the cycle in which its row is performed (R324). -/
def Body.advanceRing (b : Body) (u : Fin 2) : Body :=
  match (b.copies[u]).advance with
  | none => b
  | some (prod, n) =>
    let cb := b.cbs[n]
    let step (p : Nat) : Nat := match cb.cfg with | some c => (p + 1) % (2 * c.n) | none => p
    { b with
      copies := Vec.modify b.copies u fun k => { k with advance := none }
      cbs := b.cbs.set n (if prod then { cb with prod := step cb.prod } else { cb with cons := step cb.cons }) }
def execRingAdvance (c : CoreId) (u : Fin 2) (s : State) : Result := .next (s.modBody c (·.advanceRing u))

/-! Faults and completion (R326, R329) -/

/-- The fault is parked and the command ends; while the table is full the unit holds both (R53). -/
def State.copyFault (s : State) (c : CoreId) (u : Fin 2) : State :=
  match (s.copyOf c u).cmd with
  | none => s
  | some x => match x.fault with
    | none => s
    | some (cause, a) =>
      if cause ≠ .machineCheck ∧ (s.body c).canPark = false then s
      else (s.modBody c (·.engineFault x.id x.baddr cause a.toNat)).endCopy c u x true false
def execCopyFault (c : CoreId) (u : Fin 2) (s : State) : Result := .next (s.copyFault c u)
/-- The arrival on the phaser: a held effect. -/
def State.copyArrive (s : State) (c : CoreId) (x : CopySignal) : State :=
  let b := s.body c
  let r : Request := { id := 0, core := c, baddr := x.cmd.baddr, issued := x.cmd.issued, asn := b.sys.asn, va := x.cmd.d.extractLsb' 256 56
                       op := .arrive (b.sys.teamId.extractLsb' 0 16), gslot := false, engine := if x.unit = 0 then 1 else 2, tok := x.cmd.tok }
  s.effect c r
/-- A further post of the interval; none of those that a rerun makes again (R45). -/
def State.postOnce (s : State) (c : CoreId) (post : State → State) : State :=
  let k := s.cores[c]
  let count (s : State) (posted : Nat) : State := { s with cores := Vec.modify s.cores c fun k => { k with posted, postNext := k.postNext + 1 } }
  if k.postNext < k.posted then count s k.posted else count (post s) (k.posted + 1)
/-- The post of a range (R326, R373): none while the queue is full, while a `join` that has fixed its n waits (R368), or while a bundle that has
issued stands. A rerun of the interval makes no post again. DEDUCED (log 13, 37). -/
def State.copyPost (s : State) (c : CoreId) (x : CopySignal) : Option State :=
  let d := x.cmd.d
  let park (s : State) : State := s.modBody c fun b => { b with reports := b.reports ++
    [⟨.illegalOp, if x.unit = 0 then 1 else 2, x.cmd.tok, x.cmd.baddr, 0, 0, x.cmd.issued, none, false⟩] }
  let lo := cdf d 320 32; let hi := cdf d 352 32
  let t := s.task c
  if hi ≤ lo then some s
  else if t.closed ∨ s.cores[c].issued.isSome then none
  else if s.cores[c].postNext < s.cores[c].posted then some (s.postOnce c id)
  else match t.template, s.teamOf c with
    | some block, some team =>
      let e := { rangeOf block lo hi (s.body c).vts t with grain := cdf d 112 16 }
      if 255 ≤ t.children ∨ (e.fixed ∧ 65536 < grains lo hi e.grain) then some (park s)
      else if s.rangeFrozen team then some s
      else if 64 ≤ team.ranges.length then none
      else some (s.postOnce c fun s =>
        (s.modTeam team.id fun y => { y with ranges := y.ranges ++ [e] }).modTask c fun t => { t with children := t.children + 1 })
    | _, _ => some (park s)
/-- The command is idle as R145 counts it. -/
def State.signalReady (s : State) (c : CoreId) (x : CopySignal) : Bool := ((s.body c).command x.cmd.id).isNone
/-- The first signal of a unit that is due: the arrival, then the post. -/
def State.copyComplete (s : State) (c : CoreId) (u : Fin 2) : State :=
  match (s.body c).signals.find? fun x => x.unit == u && s.signalReady c x with
  | none => s
  | some x =>
    let signalled (s : State) : State := s.modBody c fun b => { b with signals := b.signals.filter (·.cmd.id != x.cmd.id) }
    let s := if x.arrived ∨ cdf x.cmd.d 15 1 = 0 then s else s.copyArrive c x
    let s := s.modBody c fun b => { b with signals := b.signals.map fun y => if y.cmd.id = x.cmd.id then { y with arrived := true } else y }
    if cdf x.cmd.d 16 1 = 0 then signalled s
    else match s.copyPost c x with
      | some s => signalled s
      | none => s
def execCopyComplete (c : CoreId) (u : Fin 2) (s : State) : Result := .next (s.copyComplete c u)

end Sys2Proof.Machine
end

