-- ==== Sys2Proof/Machine/Entries.lean ====
section
/-!
DEFINITION. What lane groups do on their own: writes at the end of a cycle (R32, R138, R253, R263), releases of flags (R63, R140),
fetches of ports and of circular-buffer slots (R236, R242), retries under a rewrite (R251).
-/
namespace Sys2Proof.Machine

/-! Writes at the end of a cycle -/

/-- The order in which writes of one cycle are performed: issue, then V slot, then group (R138, R263). -/
def Pending.before (x y : Pending) : Bool :=
  x.issue < y.issue || (x.issue == y.issue && ((!x.v1 && y.v1) || (x.v1 == y.v1 && decide (x.group.val < y.group.val))))
/-- Stable insertion into a list ordered by `lt`. -/
def insertBy {α : Type} (lt : α → α → Bool) (x : α) : List α → List α
  | [] => [x]
  | y :: ys => if lt x y then x :: y :: ys else y :: insertBy lt x ys
def sortBy {α : Type} (lt : α → α → Bool) (l : List α) : List α := l.foldl (fun acc x => insertBy lt x acc) []
/-- The port set by `qrst` or `qadv` at the end of a cycle (R239); `qadv` adds to p as a pop of the same cycle has left it.
DESIGN CHOICE (log 43). -/
def Port.seek (q : Port) (read : Bool) (step : Option Int) (now : Nat) : Port :=
  match q.cfg with
  | none => q
  | some c =>
    let pos : Int := match step with
      | none => 0
      | some d => if c.stop then sat (q.pos + d) 0 c.positions else (q.pos + d) % (c.positions : Int)
    primePort c read pos.toNat now
/-- prod or cons of a handle moves (R243). -/
def Cb.move (cb : Cb) (prod : Bool) (amount : Nat) : Cb :=
  match cb.cfg with
  | none => cb
  | some c => if prod then { cb with prod := (cb.prod + amount) % (2 * c.n) } else { cb with cons := (cb.cons + amount) % (2 * c.n) }
/-- Units of lanes of a mask, as write records. -/
def laneRecords (src : Src) (unit : Fin 64 → Nat) (v : Lanes) (mask : BitVec 64) : List WriteRec :=
  ((List.finRange 64).filter fun l => mask.getLsbD l.val).map fun l => registerRecord src (unit l) 4 (v[l].zeroExtend 64)
/-- One waiting write performed, with its write records. -/
def Body.performPending (b : Body) (now : Nat) (w : Pending) : Body :=
  let g := w.group
  let onGroup (f : Group → Group) : Body := { b with groups := Vec.modify b.groups g f }
  let cells (sp : Space) (bs : List (Nat × BitVec 8)) : Body :=
    (b.setSpace sp (writeCells (b.space sp) bs)).logWrites (byteRecords w.src (sp.code.zeroExtend 8) bs)
  match w.w with
  | .mat m dir i v mask => (onGroup fun g => g.setVec m dir i v mask).logWrites
      (laneRecords w.src (fun l => 16384 * g.val + cellKey m (cellOf dir i l)) v mask)
  | .scalar n v => (onGroup fun g => { g with scal := g.scal.set n v }).logWrites
      [registerRecord w.src (0x60000 + 64 * g.val + 4 * n.val) 4 (v.zeroExtend 64)]
  | .lat v mask => (onGroup fun g => { g with latch := Vec.ofFn fun l => if mask.getLsbD l.val then v[l] else g.latch[l] }).logWrites
      (laneRecords w.src (fun l => 0x62000 + 64 * g.val + l.val) v mask)
  | .vp n v mask =>
    let x := (b.groups[g].vp[n] &&& ~~~mask) ||| (v &&& mask)
    (onGroup fun g => { g with vp := g.vp.set n x }).logWrites [registerRecord w.src (0x61000 + 8 * g.val + n.val) 8 x]
  | .bytes sp bs => cells sp bs
  | .npf sp bs => cells sp bs
  | .seek n step => onGroup fun g => { g with ports := Vec.modify g.ports n (·.seek (decide (n.val < 8)) step now) }
  | .move prod n amount => { b with cbs := Vec.modify b.cbs n (·.move prod amount) }
  | .post r => b.postAt (16 + 2 * g.val + (if w.v1 then 1 else 0)) r
def GWrite.isNpf : GWrite → Bool
  | .npf _ _ => true
  | _ => false
/-- The writes due in a cycle, in order, and the others. -/
def Body.dueWrites (b : Body) (now : Nat) : List Pending := sortBy Pending.before (b.pend.filter (·.due ≤ now))
/-- Records of the cycle enter the queue once every write of the cycle is performed (R207, R264). -/
def Body.settle (b : Body) (now : Nat) : Body :=
  if b.pend.any (·.due ≤ now) then b
  else { ((sortBy (fun x y : Nat × StatRec => decide (x.1 < y.1)) b.posts).foldl (fun b r => b.post r.2) b) with posts := [] }
/-- Writes of the back bank, local writes of the other units, then writes of entries up to the next line of an optimiser update. -/
def Body.writeback (b : Body) (now : Nat) : Body :=
  let b : Body := { b.tableOps.foldl Body.performTable b with tableOps := [] }
  let b : Body := { ((sortBy (fun x y : LocalWrite => decide (x.rank < y.rank)) b.locals).foldl Body.performLocal b) with locals := [] }
  let due := b.dueWrites now
  let run := due.takeWhile (!GWrite.isNpf ·.w)
  let b : Body := { b with pend := b.pend.filter (now < ·.due) ++ due.drop run.length }
  (run.foldl (fun b w => b.performPending now w) b).settle now
def execEntryWriteback (c : CoreId) (s : State) : Result := .next (s.modBody c (·.writeback s.cycle))
/-- The next line of an optimiser update that is due (R253). -/
def Body.lineWrite (b : Body) (now : Nat) : Body :=
  match b.dueWrites now with
  | w :: rest => if GWrite.isNpf w.w then
      (({ b with pend := b.pend.filter (now < ·.due) ++ rest } : Body).performPending now w).settle now
    else b
  | [] => b
def execNpfLineWrite (c : CoreId) (s : State) : Result := .next (s.modBody c (·.lineWrite s.cycle))
/-- Flags change at the end of a cycle: a set prevails over a clear (R63); running clears after a `bhalt` (R222). -/
def Body.releaseFlags (b : Body) (now : Nat) : Body :=
  let due := b.flagOps.filter (·.due ≤ now)
  { b with
    brun := b.brun && !b.bhalting, bhalting := false
    flagOps := b.flagOps.filter (now < ·.due)
    flags := Vec.ofFn fun n =>
      if due.any (fun o => o.flag == n && o.set) then true
      else if due.any (fun o => o.flag == n && !o.set) then false else b.flags[n] }
def execFlagRelease (c : CoreId) (s : State) : Result := .next (s.modBody c (·.releaseFlags s.cycle))

/-! Fetches -/

/-- Positions whose cycle has come are fetched, in walk order (R236). -/
def Port.fetchDue (q : Port) (b : Body) (g : GroupId) (now : Nat) : Port :=
  match q.cfg with
  | none => q
  | some c =>
    { q with
      fetched := q.fetched ++ ((q.toFetch.filter (·.2 ≤ now)).map fun x => c.fetch b g x.1)
      toFetch := q.toFetch.filter (now < ·.2) }
def portNo (p : Fin 8) : Fin 16 := ⟨p.val, Nat.lt_trans p.isLt (by decide)⟩
def execPortFetch (c : CoreId) (g : GroupId) (port : Fin 8) (s : State) : Result :=
  .next (s.modBody c fun b => { b with groups := Vec.modify b.groups g fun k =>
    { k with ports := Vec.modify k.ports (portNo port) (·.fetchDue b g s.cycle) } })
/-- Pointer values of the slots that groups stage: cons and cons + 1, where filled (R242). -/
def Cb.eligible (cb : Cb) : List Nat :=
  match cb.cfg with
  | none => []
  | some c => ((List.range 2).filter (· < cb.filled c.n)).map fun i => (cb.cons + i) % (2 * c.n)
/-- The group's vector of a slot as it stands, available in the fourth cycle from now. -/
def Body.stage (b : Body) (n : Fin 16) (g : GroupId) (ptr now : Nat) : Staged :=
  match b.cbs[n].cfg with
  | none => ⟨n, ptr, Vector.replicate 64 0, now⟩
  | some c => ⟨n, ptr, b.readVec .gal (c.base + ptr % c.n * c.slotSize + g.val * c.groupStride) c.fmt, now + 4⟩
/-- A group's staged vectors of a buffer: eligible slots not yet staged are fetched, the others dropped. -/
def Body.restage (b : Body) (n : Fin 16) (g : GroupId) (now : Nat) (l : List Staged) : List Staged :=
  let el := b.cbs[n].eligible
  l.filter (fun v => v.cb != n || el.contains v.ptr) ++
    (el.filter fun p => !l.any fun v => v.cb == n && v.ptr == p).map fun p => b.stage n g p now
def execCbStage (c : CoreId) (g : GroupId) (n : Fin 16) (s : State) : Result :=
  .next (s.modBody c fun b => { b with groups := Vec.modify b.groups g fun k => { k with staged := b.restage n g s.cycle k.staged } })
/-- A fetched position marked as under rewrite is fetched again when the held bundle pops it (R236, R251). -/
def Port.refetch (q : Port) (b : Body) (g : GroupId) : Port :=
  match q.cfg with
  | none => q
  | some c =>
    { q with fetched := q.fetched.zipIdx.map fun (f, i) =>
        let a := (c.addr f.pos).toNat
        if f.rewrite ∧ i < 2 ∧ b.bheld.any (fun h => h.1 == g && h.2.2 == (c.space, headerOff (a - a % 128) (a % 128))) then c.fetch b g f.pos else f }
/-- A retry of the held bundle: ports repeat their fetches, and the bundle is tried in this cycle (R251). DEDUCED (log 16). -/
def Body.planeRetry (b : Body) : Body :=
  { b with
    bretryAt := none
    groups := (b.bheld.map (·.1)).foldl (fun gs g => Vec.modify gs g fun k => { k with ports := Vec.map (·.refetch b g) k.ports }) b.groups }
/-- DEDUCED (log 16). -/
def execPlaneRetry (c : CoreId) (s : State) : Result :=
  .next (s.modBody c fun b => match b.bretryAt with
    | some t => if t ≤ s.cycle then b.planeRetry else b
    | none => b)

end Sys2Proof.Machine
end

