-- ==== Sys2Proof/Machine/Flight.lean ====
section
/-!
DEFINITION. The flight fabric (R394-R411): the barrier, phases, flight instructions, breaks. What a due bundle owes is judged where
bundles issue (Issue.lean).
-/
namespace Sys2Proof.Machine

/-! The grid (R10, R21, R394, R395) -/

def gridX (c : CoreId) : Nat := 4 * (c.val / 16 % 4) + c.val % 4
def gridY (c : CoreId) : Nat := 4 * (c.val / 64) + c.val % 16 / 4
def coreAt (x y : Nat) : CoreId := Fin.ofNat 128 (16 * (4 * (y / 4) + x / 4) + 4 * (y % 4) + x % 4)
/-- Cycles of a hop between neighbours. -/
def hopDelay (a b : CoreId) : Nat := if dieOf a = dieOf b then 3 else 12
/-- The neighbour through a port, where the link is a team link. -/
def Team.neighbour (x : Team) (c : CoreId) (p : Fin 4) : Option CoreId :=
  match x.kernel.rect, x.origin with
  | some (w, h), some (x0, y0) =>
    let i := gridX c - x0
    let j := gridY c - y0
    match p.val with
    | 0 => if 0 < j then some (coreAt (x0 + i) (y0 + j - 1)) else none
    | 1 => if i + 1 < w then some (coreAt (x0 + i + 1) (y0 + j)) else none
    | 2 => if j + 1 < h then some (coreAt (x0 + i) (y0 + j + 1)) else none
    | _ => if 0 < i then some (coreAt (x0 + i - 1) (y0 + j)) else none
  | _, _ => none
/-- The port at the other end of a link. -/
def facing (p : Fin 4) : Fin 4 := p + 2

/-! Entering and ending a phase (R396-R398, R408) -/

/-- A cause of the examined flight slots: the first in the order of R404. -/
def Cur.flightCause (k : Cur) : Option TrapInfo :=
  (((k.flight.find? (·.1 == 0)).orElse fun _ => k.flight.find? (·.1 == 1)).orElse fun _ => k.flight.find? (·.1 == 2)).map (·.2)
/-- The n lines that hold the bundles after a `flbar`. DEDUCED (log 39). -/
def State.preload (s : State) (n : Nat) : List Nat := (List.range n).map (· + s.nextBundle.toNat / 128)
def execFlbar (q : Qual) (a : Reg) (n : BitVec 9) (s : State) : Result :=
  .next (if s.acts q then
    let c := s.cur.core
    match s.teamOf c with
    | none => s.raise .illegalOp
    | some x =>
      if s.pre.handler ∨ x.kernel.rect = none ∨ s.pre.inPhase then s.raise .illegalOp
      else match (s.preload n.toNat).find? fun l => (lookup s.cores[c].icache l).isNone with
      | some l => s.askFor .stall (.preload (s.preload n.toNat) (BitVec.ofNat 56 (128 * l)))
      | none =>
        match (s.task c).arrived, x.start with
        | false, _ => s.askFor .wait (.arrive (s.preload n.toNat))
        | true, none => s.holdFor .wait
        | true, some at_ =>
          if s.cycle + 1 < at_ then s.holdFor .stall
          else (s.wg a (BitVec.ofNat 64 at_)).modMe fun b => { b with flight := { b.flight with lost := 0 } }
  else s)
def execFlend (q : Qual) (a : Reg) (s : State) : Result :=
  .next (if s.acts q then
    let c := s.cur.core
    let s := if s.pre.inPhase then s.leavePhase c 0 0 else s
    s.wg a s.me.flight.word
  else s)
/-- The last core of a team has arrived and no stop request of an earlier cycle is pending (R398). -/
def State.barrierFull (s : State) (x : Team) : Bool :=
  x.start == none && x.kernel.rect.isSome && !x.cores.isEmpty && x.cores.all fun c =>
    (s.task c).arrived && (!(s.task c).stopReq || decide (s.cycle ≤ (s.task c).stopSince))
def execFlightBarrierComplete (t : Nat) (s : State) : Result :=
  .next (match s.team? t with
    | some x => if s.barrierFull x then s.modTeam t fun x => { x with start := some (s.cycle + 64), broken := none } else s
    | none => s)
/-- In the start cycle every core of the team is in its phase. -/
def execFlightPhaseStart (t : Nat) (s : State) : Result :=
  .next (match s.team? t with
    | some x =>
      if x.start = some s.cycle then
        x.cores.foldl (fun s c => (s.modBody c fun b => { b with inPhase := true }).modTask c fun t => { t with arrived := false })
          (s.modTeam t fun x => { x with start := none })
      else s
    | none => s)

/-! Moving vectors (R402-R404) -/

/-- A cause of a flight instruction in the order of R404: MISALIGNED of an address first, its PROTECTION second, that of a port third. -/
def State.raiseFlight (s : State) (rank : Nat) (cause : Cause) (taddr : BitVec 64 := 0) : State :=
  { s with cur := { s.cur with flight := s.cur.flight ++ [(rank, { cause, taddr, slot := slotCode s.cur.slot, group := 31 })] } }
/-- The vector present at a port of a core in this cycle. -/
def State.present (s : State) (c : CoreId) (p : Fin 4) : Option (List (BitVec 8)) :=
  (s.wires.find? fun w => w.core == c && w.port == p && w.at_ == s.cycle).map (·.data)
/-- A vector sent through a port; PROTECTION where the link is not a team link. -/
def State.sendVector (s : State) (p : Fin 4) (data : List (BitVec 8)) : State :=
  let c := s.cur.core
  match (s.teamOf c).bind (·.neighbour c p) with
  | some d => { s with wires := s.wires ++ [⟨d, facing p, s.cycle + hopDelay c d, data⟩] }
  | none => s.raiseFlight 2 .protection
/-- The vector at a port is taken; a missing one is a slip. -/
def State.take (s : State) (p : Fin 4) (k : List (BitVec 8) → State → State) : State :=
  let s := { s with cur := { s.cur with taken := s.cur.taken ++ [p] } }
  match s.present s.cur.core p with
  | some v => k v s
  | none => { s with cur := { s.cur with missing := some (s.cur.missing.getD p) } }
/-- The 256 gallery bytes of an `xmit` or `xsel`. -/
def vectorAddr (a : BitVec 64) (k : Nat → State → State) (s : State) : State :=
  if a.toNat % 256 ≠ 0 then s.raiseFlight 0 .misaligned a
  else if inSpace .gal a.toNat 256 then k a.toNat s
  else s.raiseFlight 1 .protection a
def execXmit (q : Qual) (a : Reg) (port : Fin 4) (s : State) : Result :=
  .next (if s.acts q then vectorAddr (s.rg a) (fun o s => s.sendVector port (s.pre.read .gal o 256)) s else s)
def execXsel (q : Qual) (a : Reg) (port : Fin 4) (s : State) : Result :=
  .next (if s.acts q then vectorAddr (s.rg a) (fun o s => s.take port fun v s => s.later 5 .gal o v) s else s)
def execXfwd (q : Qual) (pi po : Fin 4) (s : State) : Result :=
  .next (if s.acts q then
    if ((s.teamOf s.cur.core).bind (·.neighbour s.cur.core po)).isNone then s.raiseFlight 2 .protection
    else s.take pi (fun v s => s.sendVector po v)
  else s)
def execXidle (q : Qual) (port : Fin 4) (s : State) : Result :=
  .next (if s.acts q then { s with cur := { s.cur with taken := s.cur.taken ++ [port] } } else s)

/-! Arrivals and breaks (R395, R407, R411) -/

/-- Vectors that no instruction will take are lost. DEDUCED (log 39). -/
def State.loseVectors (s : State) (c : CoreId) (mine : Wire → Bool) : State :=
  let n := (s.wires.filter fun w => w.core == c && mine w).length
  { (s.modBody c fun b => { b with flight := { b.flight with lost := b.flight.lost + n } }) with
    wires := s.wires.filter fun w => !(w.core == c && mine w) }
/-- A vector becomes present; outside a phase it is discarded and counted. -/
def execVectorArrival (c : CoreId) (port : Fin 4) (s : State) : Result :=
  .next (if (s.body c).inPhase then s else s.loseVectors c fun w => w.port == port && w.at_ == s.cycle)
/-- Cores still in the phase 16 cycles after a break will slip at their due bundle. -/
def execFlightBreakSignal (t : Nat) (s : State) : Result :=
  .next (match s.team? t with
    | some x =>
      if x.broken = some (s.cycle - 16) ∧ 16 ≤ s.cycle then
        x.cores.foldl (fun s c => if (s.body c).inPhase then s.modBody c fun b => { b with breakDue := true } else s)
          (s.modTeam t fun x => { x with broken := none })
      else s
    | none => s)

end Sys2Proof.Machine
end

