-- ==== Sys2Proof/Machine/Crypto.lean ====
section
/-!
DEFINITION. The digests and the signature check that the newel controller makes (R482, R483): SHA-256 and SHA-384 of FIPS 180-4, and
RSASSA-PKCS1-v1_5 of RFC 8017 with a key of 3 072 bits. PRESUMED (log 49).
-/
namespace Sys2Proof.Machine

/-! SHA-2 (FIPS 180-4), for words of w bits -/

/-- The greatest x with x^k at most n, whose bits from number b - 1 down are still to be found. -/
def rootFrom (k n : Nat) : Nat → Nat → Nat
  | 0, x => x
  | b + 1, x => rootFrom k n b (if (x + 2 ^ b) ^ k ≤ n then x + 2 ^ b else x)
def primes : List Nat := (List.range 410).filter fun n => decide (2 ≤ n) && (List.range n).all fun d => decide (d < 2) || n % d != 0
/-- The first w bits of the fraction of the k-th root of n. -/
def rootBits (w k n : Nat) : BitVec w := BitVec.ofNat w (rootFrom k (n * 2 ^ (k * w)) (w + 8) 0)
/-- What differs between the members of the family: word width, rounds, the rotations of the two sums and the two schedules. -/
structure ShaForm where
  w : Nat
  rounds : Nat
  sum0 : Nat × Nat × Nat
  sum1 : Nat × Nat × Nat
  mix0 : Nat × Nat × Nat
  mix1 : Nat × Nat × Nat
  deriving DecidableEq, Repr
def sha256Form : ShaForm := ⟨32, 64, (2, 13, 22), (6, 11, 25), (7, 18, 3), (17, 19, 10)⟩
def sha512Form : ShaForm := ⟨64, 80, (28, 34, 39), (14, 18, 41), (1, 8, 7), (19, 61, 6)⟩
def shaSum {w : Nat} (r : Nat × Nat × Nat) (x : BitVec w) : BitVec w := x.rotateRight r.1 ^^^ x.rotateRight r.2.1 ^^^ x.rotateRight r.2.2
def shaMix {w : Nat} (r : Nat × Nat × Nat) (x : BitVec w) : BitVec w := x.rotateRight r.1 ^^^ x.rotateRight r.2.1 ^^^ (x >>> r.2.2)
/-- The value of bytes, highest first. -/
def natBE (bs : List (BitVec 8)) : Nat := natLE bs.reverse
def bytesBE (n v : Nat) : List (BitVec 8) := (bytesLE n v).reverse
/-- The words of a block continued by n words; the last word stands first. -/
def shaSchedule (f : ShaForm) : Nat → List (BitVec f.w) → List (BitVec f.w)
  | 0, ws => ws
  | n + 1, ws => shaSchedule f n ((shaMix f.mix1 (ws.getD 1 0) + ws.getD 6 0 + shaMix f.mix0 (ws.getD 14 0) + ws.getD 15 0) :: ws)
/-- One round on the eight working words. -/
def shaRound (f : ShaForm) (v : List (BitVec f.w)) (k w : BitVec f.w) : List (BitVec f.w) :=
  match v with
  | [a, b, c, d, e, g, h, i] =>
    let t := i + shaSum f.sum1 e + ((e &&& g) ^^^ (~~~e &&& h)) + k + w
    [t + shaSum f.sum0 a + ((a &&& b) ^^^ (a &&& c) ^^^ (b &&& c)), a, b, c, d + t, e, g, h]
  | _ => v
/-- One block of 16 words. -/
def shaBlock (f : ShaForm) (ks h : List (BitVec f.w)) (block : List (BitVec 8)) : List (BitVec f.w) :=
  let bytes := f.w / 8
  let first := (List.range 16).map fun i => BitVec.ofNat f.w (natBE ((block.drop (bytes * i)).take bytes))
  let ws := (shaSchedule f (f.rounds - 16) first.reverse).reverse
  List.zipWith (· + ·) h ((ks.zip ws).foldl (fun v x => shaRound f v x.1 x.2) h)
/-- The message with its one bit, zeros and its length in two words. -/
def shaPad (f : ShaForm) (m : List (BitVec 8)) : List (BitVec 8) :=
  let block := 2 * f.w
  let tail := f.w / 4
  m ++ 0x80#8 :: List.replicate ((block - (m.length + 1 + tail) % block) % block) 0 ++ bytesBE tail (8 * m.length)
def shaDigest (f : ShaForm) (init : List (BitVec f.w)) (m : List (BitVec 8)) : List (BitVec 8) :=
  let p := shaPad f m
  let ks := (primes.take f.rounds).map (rootBits f.w 3)
  let h := (List.range (p.length / (2 * f.w))).foldl (fun h i => shaBlock f ks h ((p.drop (2 * f.w * i)).take (2 * f.w))) init
  h.flatMap fun x => bytesBE (f.w / 8) x.toNat
def sha256 (m : List (BitVec 8)) : List (BitVec 8) := shaDigest sha256Form ((primes.take 8).map (rootBits 32 2)) m
def sha384 (m : List (BitVec 8)) : List (BitVec 8) := (shaDigest sha512Form (((primes.drop 8).take 8).map (rootBits 64 2)) m).take 48

/-! RSASSA-PKCS1-v1_5 (RFC 8017) -/

/-- The power of b to the n low bits of e, times acc, modulo m. -/
def powMod (m : Nat) : Nat → Nat → Nat → Nat → Nat
  | 0, _, _, acc => acc
  | n + 1, e, b, acc => powMod m n (e / 2) (b * b % m) (if e % 2 = 1 then acc * b % m else acc)
/-- The ASN.1 prefix of a SHA-256 digest. -/
def digestPrefix : List (BitVec 8) :=
  [0x30, 0x31, 0x30, 0x0D, 0x06, 0x09, 0x60, 0x86, 0x48, 0x01, 0x65, 0x03, 0x04, 0x02, 0x01, 0x05, 0x00, 0x04, 0x20]
/-- The message as n bytes that a signature must give. -/
def pkcs1Encoding (n : Nat) (m : List (BitVec 8)) : List (BitVec 8) :=
  let t := digestPrefix ++ sha256 m
  [0x00, 0x01] ++ List.replicate (n - t.length - 3) 0xFF ++ 0x00 :: t
/-- A signature of 384 bytes over a message verifies under a modulus and an exponent. -/
def rsaVerifies (modulus exponent : Nat) (m signature : List (BitVec 8)) : Bool :=
  let x := natBE signature
  signature.length == 384 && decide (x < modulus) && bytesBE 384 (powMod modulus 3072 exponent x 1) == pkcs1Encoding 384 m

end Sys2Proof.Machine
end

