-- ==== Sys2Proof/Machine/Merge.lean ====
section
/-!
DEFINITION. The merge unit (R384-R389): the merge tree, when a Push may run, the combination of lines and tiles, and faults. One event
moves one line, or reads one tile.
-/
namespace Sys2Proof.Machine

/-! The merge tree (R384) -/

/-- The lowest set bit. -/
def lowbit (i : Nat) : Nat := 2 ^ trailingZeros (BitVec.ofNat 32 i)
/-- Sources of number i among n, ascending. -/
def treeSources (i n : Nat) : List Nat :=
  (List.range 32).filterMap fun b => if (i = 0 ∨ 2 ^ b < lowbit i) ∧ i + 2 ^ b < n then some (i + 2 ^ b) else none
/-- The node stands for its child index: a spawned child, leaf 0, a root piece. -/
def Node.root (n : Node) : Bool := n.splitFrom.isNone && (match n.leaf with | some (j, _) => j == 0 | none => true)
def State.coreAt (s : State) (team : Nat) (index : Fin 128) : Option CoreId := (s.team? team).bind fun x => x.cores[index.val]?
def State.nodeCore (s : State) (n : Node) : Option CoreId := s.coreAt n.team n.index
/-- The task that created a node, with its core. -/
def State.parentCore (s : State) (n : Node) : Option CoreId := (n.parent.bind s.node?).bind s.nodeCore
/-- The node that stands for a child index of the same parent. -/
def State.childNode (s : State) (n : Node) (i : Nat) : Option Node := s.nodes.find? fun m => m.parent == n.parent && m.team == n.team && m.child == i && m.root
/-- A leaf of the same range. -/
def State.leafNode (s : State) (n : Node) (j : Nat) : Option Node :=
  s.nodes.find? fun m => m.parent == n.parent && m.team == n.team && m.child == n.child && (m.leaf.map (·.1)) == some j
/-- Split-off pieces by ascending lo. -/
def insertByLo (n : Node) : List Node → List Node
  | [] => [n]
  | m :: ms => if n.lo < m.lo then n :: m :: ms else m :: insertByLo n ms
def State.splitNodes (s : State) (n : Node) : List Node := (s.nodes.filter fun m => m.splitFrom == some n.id).foldl (fun l m => insertByLo m l) []
/-- Children of the parent's period. -/
def State.siblings (s : State) (n : Node) : Nat := match s.parentCore n with | some c => (s.task c).children | none => 0
/-- The sources of a node in merge order; none where the task does not exist yet. DEDUCED (log 23). -/
def State.sources (s : State) (n : Node) : List (Option Node) :=
  let leaves := match n.leaf with | some (j, l) => (treeSources j l).map (s.leafNode n) | none => []
  let splits := (s.splitNodes n).map some
  let children := if n.root then (treeSources n.child (s.siblings n)).map (s.childNode n) else []
  leaves ++ splits ++ children
/-- The sibling that a node merges into; none for the region. DEDUCED (log 23). -/
def State.target (s : State) (n : Node) : Option Node :=
  match n.splitFrom, n.leaf with
  | some m, _ => s.node? m
  | none, some (j, _) => if j = 0 then (if n.child = 0 then none else s.childNode n (n.child - lowbit n.child)) else s.leafNode n (j - lowbit j)
  | none, none => if n.child = 0 then none else s.childNode n (n.child - lowbit n.child)
/-- Child 0 merges into the region. -/
def Node.toRegion (n : Node) : Bool := n.root && n.child == 0

/-! When a Push may run (R385) -/

def State.periodClosed (s : State) (n : Node) : Bool := match s.parentCore n with | some c => (s.task c).closed | none => false
def State.sourcesIn (s : State) (n : Node) : Bool :=
  (!n.root || s.periodClosed n) && (s.sources n).all fun m => match m with | some m => m.merged | none => false
/-- Sources of the target that come before the node have merged. -/
def earlierMerged (id : Nat) : List (Option Node) → Bool
  | [] => true
  | some m :: ms => m.id == id || (m.merged && earlierMerged id ms)
  | none :: _ => false
def State.targetReady (s : State) (n : Node) : Bool :=
  if n.toRegion then s.periodClosed n
  else match s.target n with
    | some t => t.ended && earlierMerged n.id (s.sources t)
    | none => false
/-- DEDUCED (log 23). -/
def State.mayPush (s : State) (n : Node) : Bool := n.ended && !n.merged && s.sourcesIn n && s.targetReady n

/-! Lines (R382) -/

def words (bs : List (BitVec 8)) : List Nat := (List.range 32).map fun i => natLE ((bs.drop (4 * i)).take 4)
def joinWords (ws : List Nat) : List (BitVec 8) := ws.flatMap (bytesLE 4)
/-- The combined line, and the lowest word that overflows. -/
def combineLine (op : Fin 8) (intoView touched : Bool) (t s : List (BitVec 8)) : List (BitVec 8) × Option Nat :=
  let each (f : Nat → Nat → Nat) : List (BitVec 8) × Option Nat := (joinWords (List.zipWith f (words t) (words s)), none)
  match op.val with
  | 0 =>
    let rs := List.zipWith (fpAdd fp32) (words t) (words s)
    (joinWords (rs.map (·.bits)), rs.findIdx? (·.overflow))
  | 1 => each fun a b => (a + b) % 2 ^ 32
  | 3 => each (fpMinMax fp32 true)
  | 4 => each (fpMinMax fp32 false)
  | 5 => (List.zipWith (· ||| ·) t s, none)
  | 6 => (if intoView && touched then t else s, none)
  | _ => (s, none)

/-! Tiles (R386, R121) -/

/-- Row r of plane j in the bytes of a tile. -/
def tilePlane (bs : List (BitVec 8)) (r j : Nat) : List (BitVec 8) := (bs.drop (planeRowOff 0 r j)).take 16
def tileHeader (bs : List (BitVec 8)) (r : Nat) : NpfHeader := BitVec.ofNat 16 (natLE ((bs.drop (headerOff 0 r)).take 2))
def blockMantissas (bs : List (BitVec 8)) (p r : Nat) : List Int := mantissas ((List.range p).map (tilePlane bs r))
/-- Header and plane rows of every block after the combination, and the lowest element that saturates. DEDUCED (log 23). -/
def combineTile (p : Nat) (t s : List (BitVec 8)) : List (BitVec 8) × Option Nat :=
  let blocks : List (NpfHeader × List (List (BitVec 8)) × Option Nat) := (List.range 64).map fun r =>
    match addNpf p (blockMantissas s p r) (tileHeader s r) (blockMantissas t p r) (tileHeader t r) with
    | some b => (b.hdr, (List.range p).map fun j => planeRow p j b.ms, b.sat)
    | none => (tileHeader t r, (List.range p).map (tilePlane t r), none)
  (blocks.flatMap (fun b => bytesLE 2 b.1.toNat) ++ (List.range p).flatMap fun j => blocks.flatMap fun b => b.2.1.getD j [],
    (blocks.filterMap (·.2.2)).foldl (fun a l => some (match a with | some m => min m l | none => l)) none)
/-- Lines that a combination changes in the order of R165: the highest plane first, the header line last. DEDUCED (log 23). -/
def linesChanged (p : Nat) (old new : List (BitVec 8)) : List (Nat × List (BitVec 8)) :=
  let line (bs : List (BitVec 8)) (l : Nat) : List (BitVec 8) := (bs.drop (128 * l)).take 128
  let order := ((List.range p).reverse.flatMap fun j => (List.range 8).map fun k => 1 + 8 * j + k) ++ [0]
  (order.filter fun l => line old l != line new l).map fun l => (l, line new l)

/-! The Push (R385, R386) -/

/-- Where lines of an entry go: a sibling's view, or the region with the parent's core. -/
inductive MergeTarget where
  | view (c : CoreId)
  | region (c : CoreId)
  deriving DecidableEq, Repr
def State.mergeTarget (s : State) (n : Node) : Option MergeTarget :=
  if n.toRegion then (s.parentCore n).map .region else ((s.target n).bind s.nodeCore).map .view
/-- Where line l of the target lies: whose memory it is, its ASN and its address, an offset in a view or in the gallery of another core (R20, R385). -/
def State.targetPlace (s : State) (c : CoreId) (g : MergeTarget) (vt : Fin 8) (e : ViewEntry) (l : Nat) : AwayFor × BitVec 12 × VA :=
  match g with
  | .view d => (.sibling c d (some vt), 0, BitVec.ofNat 56 (128 * l))
  | .region d => (if e.gal then .sibling c d none else .merge c, if e.gal then 0 else (s.body c).sys.asn, e.base + BitVec.ofNat 56 (128 * l))
/-- n lines of the target from line l on, each once the one before has answered (R166); `round` tells a second read of a line from the first. -/
def State.readTarget (s : State) (c : CoreId) (g : MergeTarget) (vt : Fin 8) (e : ViewEntry) (l n : Nat) (round : Nat := 0) : Glb × State :=
  let p := s.targetPlace c g vt e l
  s.glbRead p.1 p.2.1 p.2.2 (128 * n) round true
def State.targetTouched (s : State) (g : MergeTarget) (vt : Fin 8) (l : Nat) : Bool :=
  match g with
  | .view d => ((s.body d).vts[vt]).touched.contains l
  | .region _ => true
/-- One whole line written into the target; a write of global memory is recorded here (R130). -/
def State.writeTarget (s : State) (c : CoreId) (g : MergeTarget) (vt : Fin 8) (e : ViewEntry) (l : Nat) (bs : List (BitVec 8)) : Glb × State :=
  let p := s.targetPlace c g vt e l
  match s.glbWrite p.1 p.2.1 p.2.2 bs with
  | (.ok x, s) =>
    (.ok x, if p.1 = .merge c then
        s.modBody c (·.logWrites (byteRecords (s.task c).endtSrc 5 (bs.zipIdx.map fun (x, i) => (p.2.2.toNat + i, x))))
      else s)
  | r => r
/-- A record of the merge of a line of the declared region. DEDUCED (log 23). -/
def State.mergePost (s : State) (c : CoreId) (kind : BitVec 8) (e : ViewEntry) (lane : Nat) (detail : BitVec 48) : State :=
  s.modBody c (·.postAt 5 (statRecord kind false 31 (BitVec.ofNat 6 lane) (if e.gal then Space.gal else .glb).code (s.task c).endtAt detail))
/-- MERGE_OVERFLOW names the line by bits [54:7] of its address, PLANE_RETRY the header by bits [47:0] (R209, R386). -/
def State.postOverflow (s : State) (c : CoreId) (e : ViewEntry) (l lane : Nat) : State :=
  s.mergePost c 8 e lane (BitVec.ofNat 48 ((e.base.toNat + 128 * l) / 128))
def State.postMergeRetry (s : State) (c : CoreId) (e : ViewEntry) (l : Nat) : State :=
  s.mergePost c 7 e 0 (BitVec.ofNat 48 (e.base.toNat + 128 * l))
def State.modProgress (s : State) (c : CoreId) (f : Progress → Progress) : State := s.modTask c fun t => { t with progress := f t.progress }
/-- The next action of the merge unit comes a free number of cycles later. DESIGN CHOICE (log 8). -/
def State.mergeLater (s : State) (c : CoreId) (n : Nat) : State :=
  let w := s.nextFree
  w.2.modTask c fun t => { t with tryAt := s.cycle + s.lineCycles n + Config.engineWait w.1 }
/-- A fault of the region, or an access that has not answered yet; `s` stands before the action. -/
def State.mergeStops (s : State) (c : CoreId) (g : Glb) (t : State) : State :=
  match g with
  | .fault cause a =>
    ((s.keepAways t).forgetMerge c).modTask c fun t => { t with fault := some (cause, BitVec.ofNat 56 (a.toNat / 128 * 128)) }
  | _ => s.keepAways t
/-- The next line of a view by the order of R386. -/
def nextTouched (e : ViewEntry) (from_ : Nat) : Option Nat := (List.range (e.linesM1.toNat + 1)).find? fun l => decide (from_ ≤ l) && e.touched.contains l
/-- First line of the next tile with a touched line. -/
def nextTile (e : ViewEntry) (from_ : Nat) : Option Nat :=
  let n := 1 + 8 * e.planes.toNat
  (nextTouched e (from_ / n * n)).map fun l => l / n * n
/-- The held entry that is merged next. -/
def nextEntry (vts : Vector ViewEntry 8) (from_ : Nat) : Option (Fin 8) :=
  (List.finRange 8).find? fun i => decide (from_ ≤ i.val) && vts[i].valid && vts[i].held
/-- The entry is merged: the next one, or the Push is complete. -/
def State.entryMerged (s : State) (c : CoreId) (n : Node) (vt : Fin 8) : State :=
  match nextEntry (s.body c).vts (vt.val + 1) with
  | some i => s.modProgress c fun p => { p with line := 0, done := 0, buf := false, vt := i.val }
  | none => s.modNode n.id fun n => { n with merged := true }
/-- The lines of an entry up to l are merged: the progress word names the next line to merge, of this entry or of the next one (R387). -/
def State.linesMerged (s : State) (c : CoreId) (n : Node) (vt : Fin 8) (e : ViewEntry) (l : Nat) : State :=
  match if e.op = 2 then nextTile e l else nextTouched e l with
  | none => s.entryMerged c n vt
  | some _ => s.modProgress c fun p => { p with line := l, done := 0, buf := false }
/-- One line of an operator other than ADD.NPF. DEDUCED (log 23). -/
def State.mergeLine (s : State) (c : CoreId) (n : Node) (g : MergeTarget) (vt : Fin 8) (e : ViewEntry) (l : Nat) : State :=
  match s.readTarget c g vt e l 1 with
  | (.ok t, s1) =>
    let r := combineLine e.op (match g with | .view _ => true | .region _ => false) (s.targetTouched g vt l) t ((s.body c).readHeld e (128 * l) 128)
    match s1.writeTarget c g vt e l r.1 with
    | (.ok _, s2) =>
      let s2 := s2.forgetMerge c
      let s2 := match r.2 with | some w => s2.postOverflow c e l w | none => s2
      (s2.linesMerged c n vt e (l + 1)).mergeLater c 1
    | (x, s2) => s.mergeStops c x s2
  | (x, s1) => s.mergeStops c x s1
/-- The target's tile and then its header line again (R166, R386). -/
def State.readTargetTile (s : State) (c : CoreId) (g : MergeTarget) (vt : Fin 8) (e : ViewEntry) (l n : Nat) : Glb × Glb × State :=
  match s.readTarget c g vt e l n with
  | (.ok t, s1) =>
    let h := s1.readTarget c g vt e l 1 1
    (.ok t, h.1, h.2)
  | (x, s1) => (x, x, s1)
/-- An attempt at a tile: the target is read; blocks under rewrite, or a header that has changed meanwhile, make it fail, at most 256 times.
DEDUCED (log 23). -/
def State.mergeTile (s : State) (c : CoreId) (node : Node) (g : MergeTarget) (vt : Fin 8) (e : ViewEntry) (l : Nat) : State :=
  let p := e.planes.toNat
  let n := 1 + 8 * p
  let s := s.modProgress c fun x => { x with line := l }
  match s.readTargetTile c g vt e l n with
  | (.ok t, .ok again, s1) =>
    let s1 := s1.forgetMerge c
    let bad := again != t.take 128 || (List.range 64).any fun r => headerE (tileHeader t r) == 255
    let tries := (s.task c).attempts + 1
    if bad ∧ tries < 256 then s1.modTask c fun k => { k with attempts := tries, tryAt := s.cycle + 64 }
    else
      let r := combineTile p t ((s.body c).readHeld e (128 * l) (128 * n))
      let s1 := if bad then s1.postMergeRetry c e l else s1
      let s1 := match r.2 with | some w => s1.postOverflow c e l w | none => s1
      let lines := linesChanged p t r.1
      let s1 := s1.modTask c fun k => { k with attempts := 0, buffer := lines }
      (if lines = [] then s1.linesMerged c node vt e (l + n) else s1.modProgress c fun p => { p with done := 0, buf := true }).mergeLater c 1
  | (.ok _, x, s1) | (x, _, s1) => s.mergeStops c x s1
/-- The next changed line of the tile in the buffer. DEDUCED (log 23). -/
def State.mergeBuffered (s : State) (c : CoreId) (node : Node) (g : MergeTarget) (vt : Fin 8) (e : ViewEntry) : State :=
  let k := s.task c
  let n := 1 + 8 * e.planes.toNat
  match k.buffer[k.progress.done]? with
  | none => s.linesMerged c node vt e (k.progress.line + n)
  | some (i, bs) =>
    match s.writeTarget c g vt e (k.progress.line + i) bs with
    | (.ok _, s1) =>
      let s1 := s1.forgetMerge c
      (if k.progress.done + 1 < k.buffer.length then s1.modProgress c fun p => { p with done := p.done + 1 }
      else s1.linesMerged c node vt e (k.progress.line + n)).mergeLater c 1
    | (x, s1) => s.mergeStops c x s1
/-- One action of the merge unit. DEDUCED (log 23). -/
def State.pushStep (s : State) (c : CoreId) (n : Node) (g : MergeTarget) : State :=
  let s := s.modProgress c fun p => { p with region := n.toRegion }
  let k := s.task c
  match nextEntry (s.body c).vts k.progress.vt with
  | none => s.modNode n.id fun n => { n with merged := true }
  | some vt =>
    let s := if vt.val = k.progress.vt then s else s.modProgress c fun p => { p with line := 0, done := 0, buf := false, vt := vt.val }
    let p := (s.task c).progress
    let e := (s.body c).vts[vt]
    if p.buf then s.mergeBuffered c n g vt e
    else match if e.op = 2 then nextTile e p.line else nextTouched e p.line with
      | none => s.entryMerged c n vt
      | some l => if e.op = 2 then s.mergeTile c n g vt e l else s.mergeLine c n g vt e l
/-- The merge unit acts in this cycle: its task is MERGING, its turn in the tree has come, and it is not stopped; it stops at a boundary of lines, where
no access of it is under way (R389). -/
def State.pushDue (s : State) (c : CoreId) : Option (Node × MergeTarget) :=
  let k := s.task c
  let goesOn : Bool := (!(s.body c).stopping && (s.body c).teamFault.isNone) || s.accesses.any (·.who.mergeOf == some c)
  if k.state = some .merging ∧ goesOn ∧ k.fault = none ∧ k.tryAt ≤ s.cycle then
    match k.node.bind s.node? with
    | some n => if s.mayPush n then (s.mergeTarget n).map fun g => (n, g) else none
    | none => none
  else none
def execMergePush (c : CoreId) (s : State) : Result :=
  .next (match s.pushDue c with
    | some (n, g) => s.pushStep c n g
    | none => s)
/-- A tile that failed its header check is read again (R386). -/
def execMergeTileRetry (c : CoreId) (s : State) : Result :=
  .next (match s.pushDue c with
    | some (n, g) => if 0 < (s.task c).attempts then s.pushStep c n g else s
    | none => s)
/-- A fault of the region puts the task in MERGE_FAULTED; it is delivered at `endt` (R388). -/
def execMergeTranslationFault (c : CoreId) (s : State) : Result :=
  .next (let k := s.task c
    match k.fault with
    | some (cause, a) =>
      if k.state ≠ some .merging then s
      else if cause = .machineCheck then
        (s.modBody c (·.faultTeam ⟨.machineCheck, 15, a.zeroExtend 64, k.endtAt, none⟩)).modTask c fun k => { k with fault := none }
      else s.modTask c fun k => { k with state := some .mergeFaulted }
    | none => s)

end Sys2Proof.Machine
end

