-- ==== Sys2Proof/Machine/Vector.lean ====
section
/-!
DEFINITION. The vector engine (R257-R280): the V-form entries of the group tables. An entry runs in the lane group, the V slot and with
the immediate that the state names; its results wait for the class latency (R32).
-/
namespace Sys2Proof.Machine

/-- A value with the records it posts: kind, and whether element 1 of a packed pair. -/
abbrev LaneRes := BitVec 32 × List (Nat × Bool)

/-- The frame of a vector entry: operands checked, ports popped, the result written to the lanes of a mask, records posted. A record of the
conversion of lane l names lane `at_ l` (R264). -/
def vectorEntry (op : BitVec 8) (h : VHead) (d : Operand) (srcs : List Operand) (faults : List (Cause × Int))
    (res : State → Lanes × BitVec 64 × List LaneNote) (s : State) (at_ : State → Fin 64 → Fin 64 := fun _ l => l) : Result :=
  s.entry (srcs.any s.srcHolds || s.dstHolds d) (srcs.filterMap s.srcRewrite)
    (faults ++ srcs.flatMap s.srcFaults ++ s.dstFaults d) fun s =>
      let r := res s
      let w := (s.popPorts srcs).writeDst h.cls h.rot d r.1 r.2.1
      (entryRecords s op (r.2.2 ++ w.2.map fun n => (n.1, at_ s n.2.1, n.2.2))).foldl (fun s x => s.pendW h.cls (.post x)) w.1
/-- Lane l of the n-th source. -/
def State.srcLanes (s : State) (h : VHead) (srcs : List Operand) : List Lanes := srcs.map (s.srcVec h.rot)
def laneAt (vs : List Lanes) (n : Nat) (l : Fin 64) : BitVec 32 :=
  match vs[n]? with
  | some v => v[l]
  | none => 0
/-- Lanes from per-lane results; only lanes of the mask post records. -/
def gather (mask : BitVec 64) (f : Fin 64 → LaneRes) : Lanes × List LaneNote :=
  let rs := (List.finRange 64).map f
  (Vec.ofFn fun l => ((rs[l.val]?).getD (0, [])).1,
    (List.finRange 64).flatMap fun l =>
      if mask.getLsbD l.val then (((rs[l.val]?).getD (0, [])).2).map fun (k, e) => (k, l, e) else [])
/-- An element-wise opcode: lanes of vp written (R259). -/
def elementwise (op : BitVec 8) (h : VHead) (d : Operand) (srcs : List Operand)
    (f : BitVec 32 → BitVec 32 → BitVec 32 → LaneRes) (s : State) : Result :=
  vectorEntry op h d srcs [] (fun s =>
    let vs := s.srcLanes h srcs
    let r := gather (s.lanes h.vp) fun l => f (laneAt vs 0 l) (laneAt vs 1 l) (laneAt vs 2 l)
    (r.1, s.lanes h.vp, r.2)) s
/-- An opcode that writes every lane, or a scalar, whatever vp holds. -/
def allLanes (op : BitVec 8) (h : VHead) (d : Operand) (srcs : List Operand) (faults : List (Cause × Int))
    (f : State → List Lanes → Lanes × List LaneNote) (s : State) : Result :=
  vectorEntry op h d srcs faults (fun s =>
    let r := f s (s.srcLanes h srcs)
    (r.1, BitVec.allOnes 64, r.2)) s
/-- The lowest lane that enters. Where none does, a record that the result causes at its destination names lane 0 (R264 names no lane).
DESIGN CHOICE (log 48). -/
def firstLane (mask : BitVec 64) : Fin 64 := ((List.finRange 64).find? fun l => mask.getLsbD l.val).getD 0
/-- A reduction or scan: every record of it names the lowest lane that enters (R264). -/
def across (op : BitVec 8) (h : VHead) (d a : Operand) (f : BitVec 64 → Lanes → Lanes × List LaneNote) (s : State) : Result :=
  vectorEntry op h d [a] [] (fun s =>
    let r := f (s.lanes h.vp) (s.srcVec h.rot a)
    (r.1, BitVec.allOnes 64, r.2)) s fun s _ => firstLane (s.lanes h.vp)
/-- An entry that writes bits of a lane predicate; a write to vp0 is discarded (R261). -/
def predEntry (h : VHead) (pd : Fin 8) (srcs : List Operand) (res : State → BitVec 64 × BitVec 64) (s : State) : Result :=
  s.entry (srcs.any s.srcHolds) (srcs.filterMap s.srcRewrite) (srcs.flatMap s.srcFaults) fun s =>
    let r := res s
    let s := s.popPorts srcs
    if pd.val = 0 then s else s.pendW h.cls (.vp pd r.1 r.2)
def bitsOf (f : Fin 64 → Bool) : BitVec 64 :=
  (List.finRange 64).foldl (fun m l => if f l then m ||| (1#64 <<< l.val) else m) 0

/-! Floating-point elements (R104, R265) -/

def resNotes (r : FpRes) (e : Bool) : List (Nat × Bool) :=
  (if r.invalid then [(1, e)] else []) ++ (if r.overflow then [(2, e)] else []) ++ if r.divzero then [(3, e)] else []
/-- An element operation on FP32 lanes or on the two elements of packed lanes, by mod[8:7]. -/
def fpLane (mod : BitVec 4) (f : FpFormat → Nat → Nat → Nat → FpRes) (a b c : BitVec 32) : LaneRes :=
  let pair (g : FpFormat) : LaneRes :=
    let half (x : BitVec 32) (i : Nat) : Nat := (x.extractLsb' (16 * i) 16).toNat
    let r0 := f g (half a 0) (half b 0) (half c 0)
    let r1 := f g (half a 1) (half b 1) (half c 1)
    (BitVec.ofNat 16 r1.bits ++ BitVec.ofNat 16 r0.bits, resNotes r0 false ++ resNotes r1 true)
  match (mod.extractLsb' 2 2).toNat with
  | 0 => let r := f fp32 a.toNat b.toNat c.toNat; (BitVec.ofNat 32 r.bits, resNotes r false)
  | 1 => pair bf16
  | _ => pair fp16
def quiet (f : FpFormat → Nat → Nat → Nat) : FpFormat → Nat → Nat → Nat → FpRes := fun g a b _ => { bits := f g a b }
/-- The sign bit replaced; a NaN gives the canonical NaN (R266). -/
def fpSign (f : FpFormat) (flip : Bool) (a : Nat) : Nat :=
  let top := 2 ^ (f.eb + f.mb)
  if (fpDecode f a).isNan then f.nan else if flip then (if top ≤ a then a - top else a + top) else a % top

def execFadd (h : VHead) (d a b : Operand) (s : State) : Result :=
  elementwise 1 h d [a, b] (fpLane h.mod fun g x y _ => fpAdd g x y) s
def execFsub (h : VHead) (d a b : Operand) (s : State) : Result :=
  elementwise 2 h d [a, b] (fpLane h.mod fun g x y _ => fpSub g x y) s
def execFmul (h : VHead) (d a b : Operand) (s : State) : Result :=
  elementwise 3 h d [a, b] (fpLane h.mod fun g x y _ => fpMul g x y) s
def execFma (h : VHead) (d a b c : Operand) (s : State) : Result :=
  elementwise 4 h d [a, b, c] (fpLane h.mod fun g x y z => fpFma g false false x y z) s
def execFms (h : VHead) (d a b c : Operand) (s : State) : Result :=
  elementwise 5 h d [a, b, c] (fpLane h.mod fun g x y z => fpFma g false true x y z) s
def execFnma (h : VHead) (d a b c : Operand) (s : State) : Result :=
  elementwise 6 h d [a, b, c] (fpLane h.mod fun g x y z => fpFma g true false x y z) s
def execFmin (h : VHead) (d a b : Operand) (s : State) : Result :=
  elementwise 7 h d [a, b] (fpLane h.mod (quiet fun g x y => fpMinMax g false x y)) s
def execFmax (h : VHead) (d a b : Operand) (s : State) : Result :=
  elementwise 8 h d [a, b] (fpLane h.mod (quiet fun g x y => fpMinMax g true x y)) s
def execFabs (h : VHead) (d a : Operand) (s : State) : Result :=
  elementwise 9 h d [a] (fpLane h.mod (quiet fun g x _ => fpSign g false x)) s
def execFneg (h : VHead) (d a : Operand) (s : State) : Result :=
  elementwise 10 h d [a] (fpLane h.mod (quiet fun g x _ => fpSign g true x)) s
def execFrcp (h : VHead) (d a : Operand) (s : State) : Result :=
  elementwise 11 h d [a] (fpLane h.mod fun g x _ _ => fpRcp g x) s
def execFrsq (h : VHead) (d a : Operand) (s : State) : Result :=
  elementwise 12 h d [a] (fpLane h.mod fun g x _ _ => fpRsq g x) s
def execFsqrt (h : VHead) (d a : Operand) (s : State) : Result :=
  elementwise 13 h d [a] (fpLane h.mod fun g x _ _ => fpSqrt g x) s
def execFexp2 (h : VHead) (d a : Operand) (s : State) : Result :=
  elementwise 14 h d [a] (fpLane h.mod fun g x _ _ => fpExp2 g x) s
def execFlog2 (h : VHead) (d a : Operand) (s : State) : Result :=
  elementwise 15 h d [a] (fpLane h.mod fun g x _ _ => fpLog2 g x) s
def execFsig (h : VHead) (d a : Operand) (s : State) : Result :=
  elementwise 16 h d [a] (fpLane h.mod fun g x _ _ => fpSig g x) s
/-- R268: in a packed type both elements must satisfy the condition. -/
def fpLaneCompare (mod : BitVec 4) (a b : BitVec 32) : Bool :=
  let c := (mod.extractLsb' 0 2).toNat
  let half (x : BitVec 32) (i : Nat) : Nat := (x.extractLsb' (16 * i) 16).toNat
  let pair (g : FpFormat) : Bool := fpCompare g c (half a 0) (half b 0) && fpCompare g c (half a 1) (half b 1)
  match (mod.extractLsb' 2 2).toNat with
  | 0 => fpCompare fp32 c a.toNat b.toNat
  | 1 => pair bf16
  | _ => pair fp16
def execFcmp (h : VHead) (pd : Fin 8) (a b : Operand) (s : State) : Result :=
  predEntry h pd [a, b] (fun s =>
    let vs := s.srcLanes h [a, b]
    (bitsOf fun l => fpLaneCompare h.mod (laneAt vs 0 l) (laneAt vs 1 l), s.lanes h.vp)) s
def execFround (h : VHead) (d a : Operand) (s : State) : Result :=
  elementwise 18 h d [a] (fpLane h.mod (quiet fun g x _ => fpRoundInt g (h.mod.extractLsb' 0 2).toNat x)) s
/-- R270, R106. -/
def convertLane (mod : BitVec 4) (a b : BitVec 32) : LaneRes :=
  let toInt (lo hi : Int) : LaneRes :=
    let r := fpToIntSat (fpDecode fp32 a.toNat) lo hi
    (BitVec.ofInt 32 r.1, (if r.2.1 then [(4, false)] else []) ++ if r.2.2 then [(1, false)] else [])
  let narrow (g : FpFormat) : LaneRes :=
    let r0 := fpConvert fp32 g a.toNat
    let r1 := fpConvert fp32 g b.toNat
    (BitVec.ofNat 16 r1.bits ++ BitVec.ofNat 16 r0.bits, resNotes r0 false ++ resNotes r1 true)
  let widen (g : FpFormat) (i : Nat) : LaneRes := (BitVec.ofNat 32 (fpConvert g fp32 (a.extractLsb' (16 * i) 16).toNat).bits, [])
  match mod.toNat with
  | 0x0 => toInt (-(2 ^ 31)) (2 ^ 31 - 1)
  | 0x1 => (BitVec.ofNat 32 (intToFp fp32 a.toInt).bits, [])
  | 0x2 => (BitVec.ofNat 32 (intToFp fp32 a.toNat).bits, [])
  | 0x3 => toInt 0 (2 ^ 32 - 1)
  | 0x4 => narrow bf16
  | 0x5 => widen bf16 0
  | 0x6 => widen bf16 1
  | 0x8 => narrow fp16
  | 0x9 => widen fp16 0
  | _ => widen fp16 1
def execFcvt (h : VHead) (d a b : Operand) (s : State) : Result :=
  elementwise 19 h d (if h.mod = 4#4 ∨ h.mod = 8#4 then [a, b] else [a]) (fun x y _ => convertLane h.mod x y) s

/-! Scaling and requantising (R271, R272, R123) -/

/-- SCALE_ACC of one lane (R123). A finite accumulator that meets the infinity of the other sign to which a contribution has overflowed gives the
canonical NaN with FP_INVALID, as R271 says in so many words; the general rules, R123 and R102, name no result for that sum. -/
def scaleAcc (acc raw b c : BitVec 32) : LaneRes :=
  let ew := (b.extractLsb' 0 8).toNat
  let kw := (b.extractLsb' 8 2).toNat + 1
  let ea := (c.extractLsb' 0 8).toNat
  let ka := (c.extractLsb' 8 2).toNat + 1
  let sh : Int := ea + ew - 254 - (2 * ka - 1) - (2 * kw - 1)
  let t : Nat × Bool := if raw = 0 then (0, false) else fpRound fp32 raw.msb raw.toInt.natAbs sh
  let r : FpRes := match fpDecode fp32 acc.toNat, fpDecode fp32 t.1 with
    -- R271: a finite accumulator that meets infinity of the other sign
    | .fin x _ _, .inf y => if x = y then fpAdd fp32 acc.toNat t.1 else { bits := fp32.nan, invalid := true }
    | _, _ => fpAdd fp32 acc.toNat t.1
  (BitVec.ofNat 32 r.bits, resNotes { r with overflow := r.overflow || t.2 } false)
def execScacc (h : VHead) (d a b c : Operand) (s : State) : Result :=
  match d with
  | .mat m dir i =>
    vectorEntry 20 h d [a, b, c] [] (fun s =>
      let vs := s.srcLanes h [a, b, c]
      let acc := s.grp.vec m dir (s.index h.rot i)
      let r := gather (s.lanes h.vp) fun l => scaleAcc acc[l] (laneAt vs 0 l) (laneAt vs 1 l) (laneAt vs 2 l)
      (r.1, s.lanes h.vp, r.2)) s
  | _ => vectorEntry 20 h d [a, b, c] [(.illegalOp, 0)] (fun _ => (Vector.replicate 64 0, 0, [])) s
/-- R272 of one lane. -/
def requantise (mod : BitVec 4) (a b c : BitVec 32) : LaneRes :=
  let x : FpVal := if mod.getLsbD 1 then .ofInt a.toInt else fpDecode fp32 a.toNat
  let y := x.mul (fpDecode fp32 b.toNat)
  let lo : Int := if mod.getLsbD 0 then 0 else -128
  let hi : Int := if mod.getLsbD 0 then 255 else 127
  let fin (t : Int) (nan : Bool) : LaneRes :=
    (BitVec.ofInt 32 (sat t lo hi), (if nan then [(1, false)] else []) ++ if t < lo ∨ hi < t then [(4, false)] else [])
  match y with
  | .nan => fin c.toInt true
  | .inf n => (BitVec.ofInt 32 (if n then lo else hi), [(4, false)])
  | .fin n m e => fin (fpToInt n m e + c.toInt) false
def execQnt (h : VHead) (d a b c : Operand) (s : State) : Result :=
  elementwise 21 h d [a, b, c] (requantise h.mod) s

/-! Reductions and scans (R125-R127, R273-R275) -/

/-- One level of the pairwise tree. -/
def treePairs (f : Nat → Nat → FpRes) : List Nat → List Nat × List FpRes
  | x :: y :: rest => let r := f x y; let t := treePairs f rest; (r.bits :: t.1, r :: t.2)
  | l => (l, [])
/-- The tree's value and the results of every node; n levels. -/
def treeReduce (f : Nat → Nat → FpRes) : Nat → List Nat → Nat × List FpRes
  | 0, l => (l.headD 0, [])
  | n + 1, l => let t := treePairs f l; let r := treeReduce f n t.1; (r.1, t.2 ++ r.2)
/-- The doubling steps from step j, n of them. -/
def scanSteps (f : Nat → Nat → FpRes) : Nat → Nat → List Nat → List Nat × List FpRes
  | 0, _, l => (l, [])
  | n + 1, j, l =>
    let rs := l.zipIdx.map fun (y, i) => if 2 ^ j ≤ i then f (l.getD (i - 2 ^ j) 0) y else { bits := y }
    let r := scanSteps f n (j + 1) (rs.map (·.bits))
    (r.1, rs ++ r.2)
/-- Lane values with excluded lanes replaced. -/
def entering (mask : BitVec 64) (v : Lanes) (w : BitVec 32 → Nat) (other : Nat) : List Nat :=
  (List.finRange 64).map fun l => if mask.getLsbD l.val then w v[l] else other
def lanesOfList (l : List Nat) : Lanes := Vec.ofFn fun i => BitVec.ofNat 32 (l.getD i.val 0)
/-- A reduction or scan in FP32, on FP32 lanes or on each element of packed lanes; `k` answers 64 values and its node results. -/
def fpAcross (mod : BitVec 4) (mask : BitVec 64) (other : Nat) (k : List Nat → List Nat × List FpRes) (v : Lanes) : Lanes × List LaneNote :=
  let lane := firstLane mask
  let notes (rs : List FpRes) (e : Bool) : List LaneNote :=
    (resNotes ⟨0, rs.any (·.invalid), rs.any (·.overflow), rs.any (·.divzero)⟩ e).map fun (k, e) => (k, lane, e)
  let pair (g : FpFormat) : Lanes × List LaneNote :=
    let side (i : Nat) : List FpRes × List FpRes :=
      let r := k (entering mask v (fun x => (fpConvert g fp32 (x.extractLsb' (16 * i) 16).toNat).bits) other)
      (r.1.map (fpConvert fp32 g), r.2)
    let s0 := side 0
    let s1 := side 1
    (Vec.ofFn fun l => BitVec.ofNat 16 ((s1.1[l.val]?).getD { bits := 0 }).bits ++ BitVec.ofNat 16 ((s0.1[l.val]?).getD { bits := 0 }).bits,
      notes (s0.1 ++ s0.2) false ++ notes (s1.1 ++ s1.2) true)
  match (mod.extractLsb' 2 2).toNat with
  | 0 => let r := k (entering mask v (·.toNat) other); (lanesOfList r.1, notes r.2 false)
  | 1 => pair bf16
  | _ => pair fp16
/-- The value of the tree in 64 places. -/
def treeAll (f : Nat → Nat → FpRes) (l : List Nat) : List Nat × List FpRes :=
  let r := treeReduce f 6 l
  (List.replicate 64 r.1, r.2)
def minusZero : Nat := 0x80000000
def execFsum (h : VHead) (d a : Operand) (s : State) : Result :=
  across 22 h d a (fun m => fpAcross h.mod m minusZero (treeAll (fpAdd fp32))) s
def execFmaxr (h : VHead) (d a : Operand) (s : State) : Result :=
  across 23 h d a (fun m => fpAcross h.mod m fp32.nan (treeAll fun x y => { bits := fpMinMax fp32 true x y })) s
/-- A NaN as the canonical one (R102). -/
def canonical (x : Nat) : Nat := if (fpDecode fp32 x).isNan then fp32.nan else x
def execFscan (h : VHead) (d a : Operand) (s : State) : Result :=
  across 24 h d a (fun m => fpAcross h.mod m minusZero fun l => scanSteps (fpAdd fp32) 6 0 (l.map canonical)) s

/-! Integer and logic operations (R276-R278) -/

/-- A saturating form: INT_SAT when the exact value lies outside. -/
def satLane (z lo hi : Int) : LaneRes := (BitVec.ofInt 32 (sat z lo hi), if z < lo ∨ hi < z then [(4, false)] else [])
def satS (z : Int) : LaneRes := satLane z (-(2 ^ 31)) (2 ^ 31 - 1)
def satU (z : Int) : LaneRes := satLane z 0 (2 ^ 32 - 1)
def plainLane (f : BitVec 32 → BitVec 32 → BitVec 32) : BitVec 32 → BitVec 32 → BitVec 32 → LaneRes := fun a b _ => (f a b, [])
/-- `iadd` and `isub`: 0 wraps, 1 saturates signed, 2 unsigned. -/
def addLane (mod : BitVec 4) (f : Int → Int → Int) (a b : BitVec 32) : LaneRes :=
  match mod.toNat with
  | 0 => (BitVec.ofInt 32 (f a.toInt b.toInt), [])
  | 1 => satS (f a.toInt b.toInt)
  | _ => satU (f a.toNat b.toNat)
def mulLane (mod : BitVec 4) (a b : BitVec 32) : LaneRes :=
  match mod.toNat with
  | 0 => (a * b, [])
  | 1 => (BitVec.ofInt 32 (a.toInt * b.toInt / 2 ^ 32), [])
  | 2 => (BitVec.ofNat 32 (a.toNat * b.toNat / 2 ^ 32), [])
  | _ => satS (a.toInt * b.toInt)
def execIadd (h : VHead) (d a b : Operand) (s : State) : Result :=
  elementwise 0x30 h d [a, b] (fun x y _ => addLane h.mod (· + ·) x y) s
def execIsub (h : VHead) (d a b : Operand) (s : State) : Result :=
  elementwise 0x31 h d [a, b] (fun x y _ => addLane h.mod (· - ·) x y) s
def execImul (h : VHead) (d a b : Operand) (s : State) : Result :=
  elementwise 0x32 h d [a, b] (fun x y _ => mulLane h.mod x y) s
def execImad (h : VHead) (d a b c : Operand) (s : State) : Result :=
  elementwise 0x33 h d [a, b, c]
    (fun x y z => if h.mod = 0#4 then (x * y + z, []) else satS (x.toInt * y.toInt + z.toInt)) s
def execImin (h : VHead) (d a b : Operand) (s : State) : Result :=
  elementwise 0x34 h d [a, b] (plainLane minS) s
def execImax (h : VHead) (d a b : Operand) (s : State) : Result :=
  elementwise 0x35 h d [a, b] (plainLane maxS) s
def execIminu (h : VHead) (d a b : Operand) (s : State) : Result :=
  elementwise 0x36 h d [a, b] (plainLane minU) s
def execImaxu (h : VHead) (d a b : Operand) (s : State) : Result :=
  elementwise 0x37 h d [a, b] (plainLane maxU) s
def execIabs (h : VHead) (d a : Operand) (s : State) : Result :=
  elementwise 0x38 h d [a]
    (fun x _ _ => if h.mod = 0#4 then (BitVec.ofInt 32 x.toInt.natAbs, []) else satS x.toInt.natAbs) s
def execVecSll (h : VHead) (d a b : Operand) (s : State) : Result :=
  elementwise 0x39 h d [a, b] (plainLane fun x y => shl x (y.extractLsb' 0 5).toNat) s
def execVecSrl (h : VHead) (d a b : Operand) (s : State) : Result :=
  elementwise 0x3A h d [a, b] (plainLane fun x y => shr x (y.extractLsb' 0 5).toNat) s
def execVecSra (h : VHead) (d a b : Operand) (s : State) : Result :=
  elementwise 0x3B h d [a, b] (plainLane fun x y => sar x (y.extractLsb' 0 5).toNat) s
def execVecAnd (h : VHead) (d a b : Operand) (s : State) : Result :=
  elementwise 0x3C h d [a, b] (plainLane (· &&& ·)) s
def execVecOr (h : VHead) (d a b : Operand) (s : State) : Result :=
  elementwise 0x3D h d [a, b] (plainLane (· ||| ·)) s
def execVecXor (h : VHead) (d a b : Operand) (s : State) : Result :=
  elementwise 0x3E h d [a, b] (plainLane (· ^^^ ·)) s
def execVecAndn (h : VHead) (d a b : Operand) (s : State) : Result :=
  elementwise 0x3F h d [a, b] (plainLane fun x y => x &&& ~~~y) s
def execNot (h : VHead) (d a : Operand) (s : State) : Result :=
  elementwise 0x40 h d [a] (plainLane fun x _ => ~~~x) s
def execVecPopc (h : VHead) (d a : Operand) (s : State) : Result :=
  elementwise 0x41 h d [a] (plainLane fun x _ => BitVec.ofNat 32 (popCount x)) s
def execVecClz (h : VHead) (d a : Operand) (s : State) : Result :=
  elementwise 0x42 h d [a] (plainLane fun x _ => BitVec.ofNat 32 (leadingZeros x)) s
def execIcmp (h : VHead) (pd : Fin 8) (a b : Operand) (s : State) : Result :=
  predEntry h pd [a, b] (fun s =>
    let vs := s.srcLanes h [a, b]
    (bitsOf fun l => intCond (h.mod.extractLsb' 0 3) (laneAt vs 0 l) (laneAt vs 1 l), s.lanes h.vp)) s
/-- R278: mod[5] makes a unsigned, mod[6] b, mod[7] saturates. -/
def dotLane (mod : BitVec 4) (a b c : BitVec 32) : LaneRes :=
  let byte (x : BitVec 32) (u : Bool) (j : Nat) : Int :=
    let y := x.extractLsb' (8 * j) 8
    if u then y.toNat else y.toInt
  let z := (List.range 4).foldl (fun s j => s + byte a (mod.getLsbD 0) j * byte b (mod.getLsbD 1) j) c.toInt
  if mod.getLsbD 2 then satS z else (BitVec.ofInt 32 z, [])
def execDot8 (h : VHead) (d a b c : Operand) (s : State) : Result :=
  elementwise 0x44 h d [a, b, c] (dotLane h.mod) s
/-- Sums of lanes 0..l, excluded lanes entering as 0. -/
def runningSums (mask : BitVec 64) (v : Lanes) : List Nat :=
  ((List.finRange 64).foldl (fun (acc : Nat × List Nat) l =>
    let t := acc.1 + (if mask.getLsbD l.val then v[l].toNat else 0)
    (t, acc.2 ++ [t])) (0, [])).2
def execIsum (h : VHead) (d a : Operand) (s : State) : Result :=
  across 0x45 h d a (fun m v => (Vector.replicate 64 (BitVec.ofNat 32 ((runningSums m v).getLastD 0)), [])) s
def execIscan (h : VHead) (d a : Operand) (s : State) : Result :=
  across 0x46 h d a (fun m v => (lanesOfList (runningSums m v), [])) s

/-! Moves, permutes and predicates (R279) -/

def execMov (h : VHead) (d a : Operand) (s : State) : Result :=
  elementwise 0x60 h d [a] (plainLane fun x _ => x) s
/-- Every lane is written, so that each may cause a record of a conversion at its destination, one that takes B[l] too (R264 does not say).
DESIGN CHOICE (log 48). -/
def execVsel (h : VHead) (d a b : Operand) (s : State) : Result :=
  allLanes 0x61 h d [a, b] [] (fun s vs =>
    (Vec.ofFn fun l => if (s.lanes h.vp).getLsbD l.val then laneAt vs 0 l else laneAt vs 1 l, [])) s
/-- Lane x[5:0] of a vector. -/
def pickLane (vs : List Lanes) (x : BitVec 32) : BitVec 32 := laneAt vs 0 (BitVec.toFin (x.extractLsb' 0 6))
/-- A lane move that writes the lanes of vp. -/
def laneMove (op : BitVec 8) (h : VHead) (d a b : Operand) (f : List Lanes → Fin 64 → BitVec 32) (s : State) : Result :=
  vectorEntry op h d [a, b] [] (fun s => let vs := s.srcLanes h [a, b]; (Vec.ofFn (f vs), s.lanes h.vp, [])) s
def execPerm (h : VHead) (d a b : Operand) (s : State) : Result :=
  laneMove 0x62 h d a b (fun vs l => pickLane vs (laneAt vs 1 l)) s
def execBcast (h : VHead) (d a b : Operand) (s : State) : Result :=
  laneMove 0x63 h d a b (fun vs _ => pickLane vs (laneAt vs 1 0)) s
/-- A lane predicate before the bundle. -/
def vpBoth (f : BitVec 64 → BitVec 64 → BitVec 64) (h : VHead) (pd pa pb : Fin 8) (s : State) : Result :=
  predEntry h pd [] (fun s => (f (s.lanes pa) (s.lanes pb), BitVec.allOnes 64)) s
def execVpand (h : VHead) (pd pa pb : Fin 8) (s : State) : Result := vpBoth (· &&& ·) h pd pa pb s
def execVpor (h : VHead) (pd pa pb : Fin 8) (s : State) : Result := vpBoth (· ||| ·) h pd pa pb s
def execVpxor (h : VHead) (pd pa pb : Fin 8) (s : State) : Result := vpBoth (· ^^^ ·) h pd pa pb s
def execVpnot (h : VHead) (pd pa : Fin 8) (s : State) : Result := vpBoth (fun x _ => ~~~x) h pd pa pa s
def execVpcount (h : VHead) (d : Operand) (pa : Fin 8) (s : State) : Result :=
  allLanes 0x68 h d [] [] (fun s _ => (Vector.replicate 64 (BitVec.ofNat 32 (popCount (s.lanes pa))), [])) s
def execTos (h : VHead) (d a b : Operand) (s : State) : Result :=
  let ok := match d with
    | .scalar _ => true
    | _ => false
  allLanes 0x69 h d [a, b] (if ok then [] else [(.illegalOp, 0)])
    (fun _ vs => (Vector.replicate 64 (pickLane vs (laneAt vs 1 0)), [])) s
/-- R87: no effect on any group's state. -/
def execNop (_ : VHead) (s : State) : Result := .next s

end Sys2Proof.Machine
end

