-- ==== Sys2Proof/Machine/Matrix.lean ====
section
/-!
DEFINITION. The matrix tiles (R281-R310): nests and their addresses, passes, compare-accumulate mode, boundaries, loads and swaps, the
M-slot instructions and the matrix table entries, and the decoder of compressed activation buffers (R346).
-/
namespace Sys2Proof.Machine

/-! Nests (R286-R290) -/

def Nest.mode (n : Nest) : Nat := (n[0].extractLsb' 35 2).toNat
def Nest.compare (n : Nest) : Bool := 2 ≤ n.mode
def Nest.adds (n : Nest) : Bool := n.mode % 2 == 1
def Nest.pin (n : Nest) : Bool := n[0].getLsbD 34
/-- Planes that a pass streams (R283). -/
def Nest.planes (n : Nest) : Nat := if n.compare then 8 else (n[0].extractLsb' 32 2).toNat + 1
/-- The words of levels 0..5. -/
def Nest.levels (n : Nest) : List (BitVec 64) := [n[1], n[2], n[3], n[4], n[5], n[6]]
def Nest.counts (n : Nest) : List Nat := n.levels.map fun w => (w.extractLsb' 48 16).toNat
def Nest.passes (n : Nest) : Nat := n.counts.foldl (· * ·) 1
/-- i_0..i_5 of pass p. -/
def indicesFrom : List Nat → Nat → List Nat
  | [], _ => []
  | c :: cs, p => p % c :: indicesFrom cs (p / c)
def Nest.indices (n : Nest) (p : Nat) : List Nat := indicesFrom n.counts p
/-- A(p) and C(p) (R289). -/
def Nest.abAddr (n : Nest) (p : Nat) : Int :=
  ((n.indices p).zip n.levels).foldl (fun a x => a + x.1 * (x.2.extractLsb' 0 32).toInt) ((n[0].extractLsb' 0 22).toNat : Int)
def Nest.accRow (n : Nest) (p : Nat) : Int :=
  ((n.indices p).zip n.levels).foldl (fun a x => a + x.1 * (x.2.extractLsb' 32 10).toInt) ((n[0].extractLsb' 22 9).toNat : Int)
/-- The levels whose boundary lies before pass p. -/
def levelsFrom : List Nat → Nat → Nat → List Nat
  | [], _, _ => []
  | c :: cs, k, p => if p % c = 0 then k :: levelsFrom cs (k + 1) (p / c) else []
def Nest.boundaries (n : Nest) (p : Nat) : List Nat := levelsFrom n.counts 0 p
def Nest.level (n : Nest) (k : Nat) : BitVec 64 := n.levels.getD k 0
/-- sw and wt with wtok of a level. -/
def levelSwaps (w : BitVec 64) : Bool := w.getLsbD 42
def levelToken (w : BitVec 64) : Option (Fin 16) := if w.getLsbD 43 then some (fin4 (w.extractLsb' 44 4)) else none
/-- The check of word w (R302). -/
def nestWordOk (w : Fin 8) (v : BitVec 64) : Bool :=
  if w.val = 0 then v.extractLsb' 37 27 == 0 && !v.getLsbD 31 && (!v.getLsbD 36 || v.extractLsb' 32 2 == 0)
  else if w.val = 7 then true
  else v.extractLsb' 48 16 != 0

/-! Tiles -/

def State.modTile (s : State) (g : GroupId) (f : Tile → Tile) : State := s.modGroup g fun k => { k with tile := f k.tile }
def Body.modTile (b : Body) (g : GroupId) (f : Tile → Tile) : Body :=
  { b with groups := Vec.modify b.groups g fun k => { k with tile := f k.tile } }
def Tile.busy (t : Tile) : Bool := t.run.isSome
def Tile.comparing (t : Tile) : Bool :=
  match t.run with
  | some r => r.nest.compare
  | none => false
/-- A load can be accepted (R284, R295, R300). -/
def Tile.takesLoad (t : Tile) : Bool := t.load.isNone && !t.swapPending && !t.comparing
/-- The exchange of the stores (R285). DEDUCED (log 17). -/
def Tile.swap (t : Tile) : Tile := { t with active := t.shadow, shadow := t.active, swapPending := false, swapAtLoad := false }
/-- A pending swap on a tile that no nest holds and no load is filling. -/
def Tile.settles (t : Tile) : Bool := t.swapPending && t.load.isNone && t.run.isNone
def Tile.settle (t : Tile) : Tile := if t.settles then t.swap else t
/-- Lines of the save area's image of a tile: the stores, and the nest registers (R297, R428). -/
def storeLines : List Nat := List.range 66
def shadowLines : List Nat := (List.range 33).map (33 + ·)
def nestLines : List Nat := [66]
/-- A tile becomes what `f` makes of it, both stores journalled where `swaps` says that it exchanges them (R297). -/
def Body.swapTile (b : Body) (g : GroupId) (swaps : Bool) (f : Tile → Tile) : Body :=
  if swaps then (b.modTile g f).journalTile g storeLines else b.modTile g f
/-- A pending swap that nothing keeps waiting is made. -/
def Body.settleTile (b : Body) (g : GroupId) : Body := b.swapTile g b.groups[g].tile.settles Tile.settle
/-- A command has no tile left: its engine work is complete (R293). -/
def Body.tileDone (b : Body) (id : Nat) : Body :=
  let on (t : Tile) : Bool := (match t.run with | some r => r.command == id | none => false) ||
    (match t.load with | some l => l.command == id | none => false)
  if b.groups.toList.any fun g => on g.tile then b else b.endCommand id

/-! Passes (R282, R283, R291, R298, R299, R346) -/

/-- The mantissa digits of the stationary cell (n, c), all four plane slots (R281). -/
def Stationary.digits (w : Stationary) (n c : Fin 64) : Nat := w.cells[n][c].toNat
/-- m_w[n][c]. -/
def Stationary.mantissa (w : Stationary) (n c : Fin 64) : Int :=
  sextNat (w.digits n c / 4 ^ (3 - w.kw.val)) (2 * (w.kw.val + 1))
/-- Raw partials of streamed mantissas (R122). -/
def rawPartials (w : Stationary) (ma : List Int) : List Int :=
  (List.finRange 64).map fun n => (List.finRange 64).foldl (fun a c => a + ma.getD c.val 0 * w.mantissa n c) 0
/-- Ranks counted in one compare pass (R298, R299). -/
def compareCounts (t : Tile) (keys : List Nat) (sbase tau : Nat) : List Int :=
  (List.finRange 64).map fun n =>
    let k := keys.getD n.val 0
    let hit (c : Fin 64) : Bool :=
      let key := t.active.digits n c * 256 + t.shadow.digits n c
      decide (k < key) || (key == k && decide ((sbase + c.val) % 2 ^ 24 < tau))
    (((List.finRange 64).filter hit).length : Int)
/-- m of a compressed-buffer slot and its size Z (R344). -/
def CBuf.slotBytes (c : CBuf) : Nat := 256 + 128 * c.m
/-- The declared compressed buffer in which an AB offset lies. -/
def Body.cbufAt (b : Body) (a : Int) : Option CBuf :=
  (b.cbufs.toList.filterMap id).find? fun c => decide ((c.base : Int) ≤ a ∧ a < c.base + c.n * c.slotBytes)
/-- The cause that a pass finds before it streams, with its address (R291, R346). -/
def Body.passFault (b : Body) (n : Nest) (p : Nat) : Option (Cause × Int) :=
  let a := n.abAddr p
  let t := a - a % 128
  let row : Option (Cause × Int) := if n.accRow p < 0 ∨ 511 < n.accRow p then some (.protection, 256 * n.accRow p) else none
  if 64 ≤ a % 128 then some (.misaligned, a)
  else match b.cbufAt t with
    | some c => if (t - c.base) % c.slotBytes = 0 then row else some (.misaligned, a)
    | none => if t < 0 ∨ (Space.ab.size : Int) < t + tileBytes n.planes then some (.protection, a) else row
/-- The presence map of the slot at T, where a compressed buffer holds it. -/
def Body.passMap (b : Body) (t : Nat) : Nat :=
  match b.cbufAt t with
  | some _ => natLE (b.read .ab (t + 128) 12)
  | none => 0
/-- Plane row j of row r of the tile at T, through the decoder where T lies in a compressed buffer. -/
def Body.streamRow (b : Body) (t r map j : Nat) : List (BitVec 8) :=
  match b.cbufAt t with
  | none => b.read .ab (planeRowOff t r j) 16
  | some c =>
    let l := 8 * j + r / 8
    if j < c.p ∧ map.testBit l then
      b.read .ab (t + 256 + 128 * ((List.range l).filter map.testBit).length + 16 * (r % 8)) 16
    else List.replicate 16 0
/-- The ACC row of a pass whose plane rows are all read. -/
def passRow (t : Tile) (r : NestRun) (st : Stream) : List Int :=
  if r.nest.compare then
    let w := r.nest[7]
    compareCounts t ((List.range 64).map (digitsOf st.rows)) (w.extractLsb' 0 24).toNat
      (((w.extractLsb' 24 24).toNat + r.pass) % 2 ^ 24)
  else rawPartials t.active (npfRead (if r.nest.pin then 1 else st.e) st.rows none)
/-- One streaming cycle: the first one checks the pass; the last one forms the row that is written three cycles later. -/
def Body.passCycle (b : Body) (g : GroupId) (r : NestRun) (st : Stream) (now : Nat) : Body :=
  let a := (r.nest.abAddr r.pass).toNat
  let t := a - a % 128
  let st : Stream := { st with rows := st.rows ++ [b.streamRow t (a % 128) st.map st.rows.length] }
  if st.rows.length < r.nest.planes then b.modTile g fun k => { k with run := some { r with phase := .stream st } }
  else
    let last := r.pass + 1 == r.nest.passes
    b.modTile g fun k => { k with
      run := some { r with pass := r.pass + 1, phase := if last then .drain else .boundary 0 }
      writes := k.writes ++ [⟨now + 4, g.val * 0x20000 + 256 * (r.nest.accRow r.pass).toNat, r.nest.adds,
        if r.nest.compare then some (r.nest[7].extractLsb' 48 16).toNat else none, passRow k r st⟩] }
def Body.streamCycle (b : Body) (g : GroupId) (now : Nat) : Body :=
  match b.groups[g].tile.run with
  | none => b
  | some r =>
    match r.phase with
    | .start at_ =>
      if now < at_ then b
      else match b.passFault r.nest r.pass with
        | some (cause, addr) =>
          if b.canPark = false then b
          else
          let b := b.modTile g fun k => { k with run := some { r with phase := .drain } }
          match b.command r.command with
          | some c => b.report c cause addr
          | none => b
        | none =>
          let a := (r.nest.abAddr r.pass).toNat
          b.passCycle g r ⟨now, headerE (b.npfHeader .ab (a - a % 128) (a % 128)), b.passMap (a - a % 128), []⟩ now
    | .stream st => if st.start + st.rows.length ≤ now then b.passCycle g r st now else b
    | _ => b
def execMatrixPass (c : CoreId) (g : GroupId) (s : State) : Result := .next (s.modBody c (·.streamCycle g s.cycle))
def execComparePass (c : CoreId) (g : GroupId) (s : State) : Result := .next (s.modBody c (·.streamCycle g s.cycle))

/-! Rows written to ACC (R283, R289, R299) -/

/-- The word of a lane and whether it saturated. -/
def passWord (w : PassWrite) (old : BitVec 32) (x : Int) : BitVec 32 × Bool :=
  match w.cap with
  | some cap =>
    let sum := (if w.add then ((old.extractLsb' 0 16).toNat : Int) else 0) + x
    let rank := (sat sum 0 65535).toNat
    (BitVec.ofBool (rank < cap) ++ 0#15 ++ BitVec.ofNat 16 rank, decide (65535 < sum))
  | none =>
    let sum := (if w.add then old.toInt else 0) + x
    (BitVec.ofInt 32 (sat sum (-(2 ^ 31)) (2 ^ 31 - 1)), decide (sum < -(2 ^ 31) ∨ (2 ^ 31 - 1 : Int) < sum))
/-- A nest ends: the tile is idle, a pending swap is made, its command may complete. DEDUCED (log 17). -/
def Body.endNest (b : Body) (g : GroupId) (r : NestRun) : Body :=
  ((b.modTile g fun k => { k with run := none }).settleTile g).tileDone r.command
/-- The nest has nothing left to do. -/
def Tile.drained (t : Tile) : Bool :=
  match t.run with
  | some r => r.phase == .drain && t.writes.isEmpty
  | none => false
def Body.finishDrained (b : Body) (g : GroupId) : Body :=
  match b.groups[g].tile.run with
  | some r => if b.groups[g].tile.drained then b.endNest g r else b
  | none => b
/-- The row whose cycle has come: read in add mode, written at the end of the cycle among the lane-group writes (R138). DEDUCED (log 17). -/
def Body.passWrite (b : Body) (g : GroupId) (now : Nat) : Body :=
  match b.groups[g].tile.writes, b.groups[g].tile.run with
  | w :: rest, some r =>
    if now < w.due then b
    else
      let ws := w.row.zipIdx.map fun (x, l) => passWord w (BitVec.ofNat 32 (natLE (b.read .acc (w.off + 4 * l) 4))) x
      let bytes := (ws.flatMap fun x => bytesLE 4 x.1.toNat).zipIdx.map fun (x, i) => (w.off + i, x)
      let full := ws.findIdx? (·.2)
      let b := { b.modTile g (fun k => { k with
          writes := rest, passes := k.passes + 1, run := some { r with satPosted := r.satPosted || full.isSome } }) with
        pend := b.pend ++ [⟨now, r.issued + 2, r.v1, g, .bytes .acc bytes, r.src⟩] }
      match full with
      | some l =>
        if r.satPosted then b
        else b.postAt 3 (statRecord 4 r.entry (BitVec.ofNat 5 g.val) (BitVec.ofNat 6 l) 3 r.baddr 0xC0)
      | none => b
  | _, _ => b
def execPassAccWrite (c : CoreId) (g : GroupId) (s : State) : Result :=
  .next (s.modBody c fun b => (b.passWrite g s.cycle).finishDrained g)

/-! Boundaries (R290, R296) -/

/-- Levels in order until one waits on a busy token; answers how many waits are over and whether all are. -/
def waitLevels (b : Body) (n : Nest) : List Nat → Nat → Nat × Bool
  | [], k => (k, true)
  | l :: ls, k =>
    match levelToken (n.level l) with
    | some tok => if b.tokenBusy tok then (k, false) else waitLevels b n ls (k + 1)
    | none => waitLevels b n ls (k + 1)
/-- The steps at the boundary before the next pass, at the end of a cycle; `none` while they wait. A stop that arrives while the steps wait
for a token stops the nest there, with the waits that are over recorded (R290). DEDUCED (log 17). DESIGN CHOICE (log 44). -/
def Body.boundaryStep (b : Body) (g : GroupId) (now : Nat) : Option Body :=
  let t := b.groups[g].tile
  match t.run with
  | none => none
  | some r =>
    match r.phase with
    | .boundary waited =>
      let ls := r.nest.boundaries r.pass
      let granule := ls.any fun l => r.split.getLsbD l
      if r.stopReq ∧ (granule ∨ r.split = 0) then some (b.modTile g fun k => { k with run := some { r with phase := .drain } })
      else if b.stopping ∧ granule then some (b.modTile g fun k => { k with run := some { r with phase := .stopped waited } })
      else
        let w := waitLevels b r.nest (ls.drop waited) waited
        -- a request of `mxswap` is met here, or stays pending (R304)
        let asked := t.swapPending && !r.nest.compare && (granule || (r.split == 0 && !ls.isEmpty))
        -- the exchange that a load's completion has made in this cycle is that of the boundary too (R285)
        let swaps := asked || (ls.any (fun l => levelSwaps (r.nest.level l)) && t.swappedAt != some now)
        if w.2 = false ∨ (swaps ∧ t.load.isSome) then
          if w.1 = waited then none else some (b.modTile g fun k => { k with run := some { r with phase := .boundary w.1 } })
        else some (b.swapTile g swaps fun k =>
          { (if swaps then k.swap else k) with swapPending := k.swapPending && !asked, run := some { r with phase := .start (now + 1) } })
    | _ => none
def execLevelBoundary (c : CoreId) (g : GroupId) (s : State) : Result :=
  .next (s.modBody c fun b => (b.boundaryStep g s.cycle).getD b)

/-! Shadow loads (R284) -/

/-- The store that the lines of a load make: the header line, then eight lines for each plane. -/
def loadedStore (kw : Fin 4) (lines : List (List (BitVec 8))) : Stationary :=
  let hdr := lines.headD []
  let ew := Vec.ofFn fun n : Fin 64 => hdr.getD (2 * n.val + 1) 0
  let row (s : Nat) (n : Fin 64) : List (BitVec 8) :=
    if s ≤ kw.val ∧ ew[n] ≠ 0 then ((lines.getD (1 + 8 * s + n.val / 8) []).drop (16 * (n.val % 8))).take 16 else List.replicate 16 0
  ⟨Vec.ofFn fun n =>
      let rows := (List.range 4).map fun s => row s n
      Vec.ofFn fun c => BitVec.ofNat 8 (digitsOf rows c.val), ew, kw⟩
/-- The swap that waited for the load: that of an idle tile, or one asked of an idle tile whose shadow store was loading; a compare nest that has
started meanwhile keeps it waiting (R285, R300, R304). -/
def Tile.swapsLoaded (t : Tile) : Bool := t.swapPending && (t.run.isNone || (t.swapAtLoad && !t.comparing))
/-- The line that a load reads in this cycle; the last one completes it and makes a waiting swap. -/
def Body.loadCycle (b : Body) (g : GroupId) (now : Nat) : Body :=
  match b.groups[g].tile.load with
  | none => b
  | some l =>
    let i := l.lines.length
    if now ≤ l.issued + i then b
    else
      let off := if i = 0 then l.base else l.base + 128 + 1024 * (if l.ph then 4 else 0) + 128 * (i - 1)
      let lines := l.lines ++ [b.read .wb off 128]
      if lines.length ≤ 8 * (l.kw.val + 1) then b.modTile g fun k => { k with load := some { l with lines } }
      else
        let loaded := (b.modTile g fun k => { k with load := none, shadow := loadedStore l.kw lines }).journalTile g shadowLines
        let swaps := b.groups[g].tile.swapsLoaded
        (loaded.swapTile g swaps fun k => if swaps then { k.swap with swappedAt := some now } else { k with swapAtLoad := false }).tileDone l.command
def execShadowLoadDone (c : CoreId) (g : GroupId) (s : State) : Result := .next (s.modBody c (·.loadCycle g s.cycle))

/-! The M slot (R301-R307) -/

/-- The shadow nest of a group set. -/
def State.setNest (s : State) (g : GroupId) (f : Nest → Nest) : State :=
  (s.modTile g fun t => { t with shadowNest := f t.shadowNest }).modMe (·.journalTile g nestLines)
def execMxcfg (q : Qual) (a b : Reg) (w : Fin 8) (s : State) : Result :=
  .next (if s.acts q then
    if nestWordOk w (s.rg a) then
      (s.lowMask b).foldl (fun s g => s.setNest g fun n => n.set w (s.rg a)) s
    else s.raise .illegalOp
  else s)
/-- Mode and pin of word 0; a compare mode clears ka. -/
def setMode (w : BitVec 64) (mode : Fin 4) (pin : Bool) : BitVec 64 :=
  let x := (w &&& ~~~(7#64 <<< 34)) ||| (BitVec.ofNat 64 mode.val <<< 35) ||| ((BitVec.ofBool pin).zeroExtend 64 <<< 34)
  if 2 ≤ mode.val then x &&& ~~~(3#64 <<< 32) else x
def execMxmode (q : Qual) (a : Reg) (mode : Fin 4) (pin : Bool) (s : State) : Result :=
  .next (if s.acts q then
    (s.lowMask a).foldl (fun s g => s.setNest g fun n => n.set 0 (setMode n[0] mode pin)) s
  else s)
def execMxtab (q : Qual) (a b : Reg) (s : State) : Result :=
  .next (if s.acts q then
    withDescriptor (s.rg a) (fun d s =>
      let n : Nest := Vec.ofFn fun w => BitVec.ofNat 64 (d / 2 ^ (64 * w.val))
      if (List.finRange 8).all fun w => nestWordOk w n[w] then
        (s.lowMask b).foldl (fun s g => s.setNest g fun _ => n) s
      else s.raise .illegalOp (s.rg a)) s
  else s)
/-- A request of `mxswap` at a tile: an idle one swaps at the end of the cycle or when its load completes (R304). -/
def Tile.askSwap (t : Tile) : Tile :=
  { t with swapPending := true, swapAtLoad := t.swapAtLoad || (t.run.isNone && t.load.isSome) }
def execMxswap (q : Qual) (a : Reg) (s : State) : Result :=
  .next (if s.acts q then (s.lowMask a).foldl (fun s g => (s.modTile g Tile.askSwap).modMe (·.settleTile g)) s else s)
def execMxstop (q : Qual) (a : Reg) (s : State) : Result :=
  .next (if s.acts q then
    (s.lowMask a).foldl (fun s g => s.modTile g fun t => { t with run := t.run.map fun r => { r with stopReq := true } }) s
  else s)
/-- Indices of the next pass, zeros when there is none (R306). -/
def Tile.nextIndices (t : Tile) : List Nat :=
  match t.run with
  | none => List.replicate 6 0
  | some r =>
    let p := match r.phase with
      | .stream _ => r.pass + 1
      | _ => r.pass
    if r.phase = .drain ∨ r.nest.passes ≤ p then List.replicate 6 0 else r.nest.indices p
/-- Bit 2 shows a request of `mxswap`; a swap of a level that waits for a load is not shown (R306 does not say). DESIGN CHOICE (log 44). -/
def Tile.statusBits (t : Tile) : BitVec 4 :=
  BitVec.ofBool t.comparing ++ BitVec.ofBool t.swapPending ++ BitVec.ofBool t.load.isSome ++ BitVec.ofBool t.busy
def Tile.status (t : Tile) (sel : Nat) : BitVec 64 :=
  let i (k : Nat) : BitVec 16 := BitVec.ofNat 16 (t.nextIndices.getD k 0)
  match sel with
  | 0 => t.passes ++ 0#28 ++ t.statusBits
  | 1 => i 3 ++ i 2 ++ i 1 ++ i 0
  | _ => 0#32 ++ i 5 ++ i 4
def execMxrd (q : Qual) (a b : Reg) (sel : Fin 4) (s : State) : Result :=
  .next (if s.acts q then
    if sel.val = 3 then s.raise .illegalOp
    else if h : (s.rg b).toNat < 24 then s.wg a ((s.pre.groups[(s.rg b).toNat]'h).tile.status sel.val) 2 else s.raise .illegalOp
  else s)

/-- Bytes that a load reads (R294). DEDUCED (log 17). -/
def loadRange (base : Nat) (kw : Fin 4) (ph : Bool) : Range := ⟨.wb, base, base + 128 + 1024 * ((if ph then 4 else 0) + kw.val + 1)⟩
/-- The address kept for its residue modulo 128, where it is the more extreme one. -/
def keepExtreme (up : Bool) (v : Vector (Option Int) 128) (a : Int) : Vector (Option Int) 128 :=
  Vec.modify v (Fin.ofNat 128 (a % 128).toNat) fun o => match o with
    | some x => if up = decide (x < a) then some a else some x
    | none => some a
/-- Of the addresses A(p) of all passes the highest, or the lowest, of each residue modulo 128: an index of a level need only run through the
128 values at the end that lies in that direction. -/
def Nest.extremes (n : Nest) (up : Bool) : List Int :=
  n.levels.foldl (fun as w =>
    let c := (w.extractLsb' 48 16).toNat
    let stride := (w.extractLsb' 0 32).toInt
    let k := min c 128
    let first := if up = decide (0 < stride) then c - k else 0
    ((as.foldl (fun v a => (List.range k).foldl (fun v i => keepExtreme up v (a + (first + i : Nat) * stride)) v)
      (Vector.replicate 128 none)).toList).filterMap id) [((n[0].extractLsb' 0 22).toNat : Int)]
/-- The AB bytes of a nest (R294): from the lowest to the highest that a pass reads, header, plane rows, and where a tile lies in a compressed
buffer its map and stored lines (R346). DEDUCED (log 17). -/
def Body.nestReads (b : Body) (n : Nest) : Range :=
  let rows (l : List Int) : List (Int × Int) := (l.filter fun a => a % 128 < 64).map fun a => (a - a % 128, a % 128)
  let lo := rows (n.extremes false)
  let hi := rows (n.extremes true)
  let bare := n.compare || n.pin
  let low := lo.map fun x => if bare then x.1 + 128 + 16 * x.2 else x.1 + 2 * x.2
  let top := hi.map fun x => x.1 + 128 + 1024 * ((n.planes : Int) - 1) + 16 * x.2 + 16
  let t0 := (lo.map (·.1)).foldl min ((hi.map (·.1)).headD 0)
  let t1 := (hi.map (·.1)).foldl max t0
  let packed := (b.cbufs.toList.filterMap id).filter fun c => decide ((c.base : Int) ≤ t1 ∧ t0 < c.base + c.n * c.slotBytes)
  let low := low ++ packed.map fun c => max t0 c.base + if bare then 128 else 0
  let top := top ++ packed.map fun c => min t1 (c.base + (c.n * c.slotBytes - c.slotBytes : Nat)) + 256 + 1024 * n.planes
  ⟨.ab, low.foldl min (low.headD 0), top.foldl max (top.headD 0)⟩
/-- The ranges of a nest on a group (R294): AB reads, ACC rows. DEDUCED (log 17). -/
def Body.nestRanges (b : Body) (n : Nest) (g : GroupId) : List Range × List Range :=
  let c := n.levels.foldl (fun (x : Int × Int) w =>
    let d := (((w.extractLsb' 48 16).toNat : Int) - 1) * (w.extractLsb' 32 10).toInt
    (x.1 + min 0 d, x.2 + max 0 d)) (((n[0].extractLsb' 22 9).toNat : Int), ((n[0].extractLsb' 22 9).toNat : Int))
  let rows : Range := ⟨.acc, 0x20000 * g.val + 256 * c.1, 0x20000 * g.val + 256 * (c.2 + 1)⟩
  ([b.nestReads n] ++ if n.adds then [rows] else [], [rows])
def State.startLoad (s : State) (g : GroupId) (id base : Nat) (kw : Fin 4) (ph : Bool) : State :=
  s.modTile g fun t => { t with load := some ⟨s.cycle, id, base, kw, ph, []⟩ }
def State.startNest (s : State) (g : GroupId) (id : Nat) (n : Nest) (split : BitVec 6) (entry : Bool) : State :=
  (s.modTile g fun t => { t with
    activeNest := n
    passes := 0
    run := some ⟨n, split, id, 0, .start (s.cycle + 1), false, entry, s.cur.hdr, s.cycle, s.cur.slot == .v1, s.src true, false⟩ }).modMe
    (·.journalTile g nestLines)
/-- R303. A footprint that runs past WB parks PROTECTION at once, with addr T, whether or not the masked tiles could accept a load. A busy token traps
at once too, also where a masked tile or the hazard unit would keep the bundle waiting: R303 does not order the two. DESIGN CHOICE (log 44). -/
def execMxlds (q : Qual) (a b : Reg) (tok : Fin 16) (kw : Fin 4) (ph : Bool) (s : State) : Result :=
  .next (if s.acts q then
    let t := s.rg a
    let gs := s.lowMask b
    let fp := loadRange t.toNat kw ph
    if s.me.tokenBusy tok then s.raise .tokenMisuse
    else if t.toNat % 128 ≠ 0 then s.raise .misaligned t
    else if Space.wb.size ≤ t.toNat then s.raise .protection t
    else if gs.isEmpty then s
    else if (Space.wb.size : Int) < fp.hi then
      if 64 ≤ s.me.commands.length then s.holdFor .stall
      else
        let r := s.addCommand 3 (some tok) [fp] []
        r.2.modMe fun m => match m.command r.1 with
          | some c => m.report c .protection t.toNat
          | none => m
    else if (gs.any fun g => !s.me.groups[g].tile.takesLoad) ∨ s.hazardFree [fp] [] = false then s.holdFor .stall
    else
      let r := s.addCommand 3 (some tok) [fp] [] (running := true)
      gs.foldl (fun s g => s.startLoad g r.1 t.toNat kw ph) r.2
  else s)
/-- The checks of a start: a level that waits on the command's own token (R293); a compare nest that swaps (R300). -/
def startCause (n : Nest) (tok : Option (Fin 16)) : Option Cause :=
  if n.compare ∧ n.levels.any levelSwaps then some .illegalOp
  else if tok.isSome ∧ n.levels.any (fun w => levelToken w == tok) then some .tokenMisuse
  else none
/-- The bounding range of the ranges of one space (R141). -/
def boundingRange (sp : Space) (rs : List Range) : List Range :=
  match rs.filter (·.space == sp) with
  | [] => []
  | r :: rs => [⟨sp, rs.foldl (fun m x => min m x.lo) r.lo, rs.foldl (fun m x => max m x.hi) r.hi⟩]
/-- R305. A busy token traps at once, also where a busy tile or the hazard unit would keep the bundle waiting: R305 does not order the two.
DESIGN CHOICE (log 44). -/
def execMxgo (q : Qual) (a : Reg) (tok : Fin 16) (split : BitVec 6) (s : State) : Result :=
  .next (if s.acts q then
    let gs := s.lowMask a
    let nest (g : GroupId) : Nest := s.pre.groups[g].tile.shadowNest
    if s.me.tokenBusy tok then s.raise .tokenMisuse
    else match gs.findSome? fun g => startCause (nest g) (some tok) with
      | some c => s.raise c
      | none =>
        let fps := gs.map fun g => s.pre.nestRanges (nest g) g
        -- one range for each space operand of the command (R141, R294)
        let reads := boundingRange .ab (fps.flatMap (·.1)) ++ boundingRange .acc (fps.flatMap (·.1))
        let writes := boundingRange .acc (fps.flatMap (·.2))
        if gs.isEmpty then s
        else if (gs.any fun g => s.me.groups[g].tile.busy) ∨ s.hazardFree reads writes = false then s.holdFor .stall
        else
          let r := s.addCommand 3 (some tok) reads writes (running := true)
          gs.foldl (fun s g => s.startNest g r.1 (nest g) split false) r.2
  else s)

/-! Entries (R308-R310) -/

/-- The command that entries of this bundle have already started on a token. -/
def State.bundleCommand (s : State) (tok : Fin 16) : Option Command :=
  s.me.commands.find? fun c => c.tok == some tok && c.src.kind == 3 && c.issued / 128 + (if s.cur.second then 1 else 0) == s.cycle &&
    c.baddr == s.cur.hdr
/-- The command of an entry: its token's, started by another entry of the bundle, or a new one (R293); it is recorded even where the core
already tracks 64 (R143). DESIGN CHOICE (log 44). -/
def State.entryCommand (s : State) (tok : Option (Fin 16)) (reads writes : List Range) : Nat × State :=
  match tok.bind s.bundleCommand with
  | some c => (c.id, s.modMe (·.modCommand c.id fun c => { c with reads := c.reads ++ reads, writes := c.writes ++ writes }))
  | none => s.addCommand 3 tok reads writes (running := true)
/-- The named token is busy with a command of another bundle, or one that has issued will take it. -/
def State.entryTokenTaken (s : State) (tok : Option (Fin 16)) : Bool :=
  match tok with
  | none => false
  | some n => s.me.asked.any (·.tokens.getLsbD n.val) || (s.me.tokenBusy n && (s.bundleCommand n).isNone)
/-- DEDUCED (log 17). -/
def execMxgoG (_ : VHead) (split : BitVec 6) (tv : Bool) (tok : Fin 16) (s : State) : Result :=
  let g := s.cur.group
  let n := s.grp.tile.shadowNest
  let tk := if tv then some tok else none
  .next (
    if s.entryTokenTaken tk then s.raise .tokenMisuse
    else if s.grpNow.tile.busy then s.raise .illegalOp
    else match startCause n tk with
      | some c => s.raise c
      | none =>
        let fp := s.pre.nestRanges n g
        let r := s.entryCommand tk fp.1 fp.2
        r.2.startNest g r.1 n split true)
/-- DEDUCED (log 17). -/
def execMxldsG (_ : VHead) (sn : Fin 16) (ph : Bool) (kw : Fin 4) (tv : Bool) (tok : Fin 16) (s : State) : Result :=
  let g := s.cur.group
  let t := s.grp.scal[sn].toNat
  let fp := loadRange t kw ph
  let tk := if tv then some tok else none
  .next (
    if s.entryTokenTaken tk then s.raise .tokenMisuse
    else if t % 128 ≠ 0 then s.raise .misaligned (BitVec.ofNat 64 t)
    else if (Space.wb.size : Int) < fp.hi then s.raise .protection (BitVec.ofNat 64 t)
    else if s.grpNow.tile.takesLoad = false then s.raise .illegalOp
    else
      let r := s.entryCommand tk [fp] []
      r.2.startLoad g r.1 t kw ph)
/-- The vector that `mxq.g` reads. -/
def Tile.queryVec (t : Tile) (mod : BitVec 4) : Lanes :=
  let store (w : Stationary) : Lanes := Vec.ofFn fun n => (0#22 ++ BitVec.ofFin (w := 2) w.kw ++ w.ew[n] : BitVec 32)
  if mod = 0 then Vec.ofFn fun n =>
    if n.val = 0 then t.statusBits.zeroExtend 32
    else if n.val ≤ 6 then BitVec.ofNat 32 (t.nextIndices.getD (n.val - 1) 0)
    else if n.val = 7 then t.passes else 0
  else if mod = 1 then store t.active else store t.shadow
def execMxqG (e : VHead) (d : Operand) (s : State) : Result :=
  vectorEntry 0xC2 { e with rot := false } d [] [] (fun s => (s.grp.tile.queryVec e.mod, s.lanes e.vp, [])) s

end Sys2Proof.Machine
end

