-- ==== Sys2Proof/Machine/Transform.lean ====
section
/-!
DEFINITION. The transform units (R334-R349): ports and triggers, compressed buffers and the pinned region, CVT, CMP, XPOSE, LAYOUT. An
operation moves its bytes when it completes (log 21).
-/
namespace Sys2Proof.Machine

def State.unit (s : State) (u : Fin 4) : TransformUnit := s.pre.transforms[u]
def State.modUnit (s : State) (u : Fin 4) (f : TransformUnit → TransformUnit) : State :=
  s.modMe fun b => { b with transforms := Vec.modify b.transforms u f }

/-! Moves between ports (R336) -/

def setPort (u : Fin 4) (port : Fin 5) (v : BitVec 64) (s : State) : State := s.modUnit u fun k => { k with ports := k.ports.set port v }
def execTmov (q : Qual) (a : Reg) (u : Fin 4) (port : Fin 5) (s : State) : Result :=
  .next (if s.acts q then setPort u port (s.rg a) s else s)
/-- From an operand port, or from the result port once its unit is idle. -/
def execTmovPort (q : Qual) (su : Fin 4) (src : Option (Fin 5)) (u : Fin 4) (port : Fin 5) (s : State) : Result :=
  .next (if s.acts q then
    match src with
    | some p => setPort u port ((s.unit su).ports[p]) s
    | none => if (s.unit su).op.isSome then s.holdFor .stall else setPort u port (s.unit su).res s
  else s)

/-! What an operation touches -/

def portSpace (v : BitVec 64) : Option Space := Space.ofCode (v.extractLsb' 60 4).toNat
def portOff (v : BitVec 64) : Nat := (v.extractLsb' 0 60).toNat
def afield (v : BitVec 64) (lo w : Nat) : Nat := (v.extractLsb' lo w).toNat
/-- A signed 32-bit stride. -/
def astride (v : BitVec 64) (lo : Nat) : Int := (v.extractLsb' lo 32).toInt
/-- Size of fi or fo. -/
def cvtSize (f : Nat) : Nat := if f = 0 then 4 else 2
/-- Bytes of a run of tiles whose last one holds rows up to r, with k planes. -/
def tileRun (rows p k : Nat) : Nat := (rows - 1) / 64 * tileBytes p + 128 + 1024 * (k - 1) + 16 * ((rows - 1) % 64 + 1)
/-- Bounding range of rows or matrices at a stride. -/
def strideRange (sp : Space) (base : Nat) (stride : Int) (cnt : Nat) (lo n : Int) : Range :=
  let last := (cnt - 1 : Int) * stride
  ⟨sp, base + min 0 last + lo, base + max 0 last + n⟩

/-- Geometry of LAYOUT (R348). -/
structure Geometry where
  w : Nat
  h : Nat
  c : Nat
  e : Nat
  kw : Nat
  kh : Nat
  sx : Nat
  sy : Nat
  pad : Nat
  q0 : Nat
  deriving DecidableEq, Repr
def geometryOf (arg aux : BitVec 64) : Geometry :=
  ⟨afield arg 0 16, afield arg 16 16, afield arg 32 16, 2 ^ afield arg 48 2, afield aux 0 8, afield aux 8 8, afield aux 16 4, afield aux 20 4,
    afield aux 24 4, afield aux 32 32⟩
namespace Geometry
/-- The positions of one side that the kernel at an output position covers, cut to the tensor. -/
def window (at_ kernel pad size : Nat) : Option (Nat × Nat) :=
  let lo : Int := max 0 (at_ - pad : Int)
  let hi : Int := min size (at_ + kernel - pad : Int)
  if lo < hi then some (lo.toNat, hi.toNat) else none
def ow (g : Geometry) : Int := ((g.w : Int) + 2 * g.pad - g.kw) / (g.sx : Int) + 1
def oh (g : Geometry) : Int := ((g.h : Int) + 2 * g.pad - g.kh) / (g.sy : Int) + 1
def rowBytes (g : Geometry) : Nat := g.kh * g.kw * g.c * g.e
def rowStride (g : Geometry) : Nat := (g.rowBytes + 127) / 128 * 128
/-- First byte and end of what row i reads, none where all of it is padding. -/
def rowSpan (g : Geometry) (i : Nat) : Option (Nat × Nat) :=
  let q := g.q0 + i
  match window (q / g.ow.toNat * g.sy) g.kh g.pad g.h, window (q % g.ow.toNat * g.sx) g.kw g.pad g.w with
  | some y, some x => some ((y.1 * g.w + x.1) * g.c * g.e, ((y.2 - 1) * g.w + x.2) * g.c * g.e)
  | _, _ => none
/-- The bytes of the input that cnt rows may touch. -/
def readSpan (g : Geometry) (cnt : Nat) : Option (Nat × Nat) :=
  (List.range cnt).foldl (fun m i => match m, g.rowSpan i with
    | some a, some b => some (min a.1 b.1, max a.2 b.2)
    | none, b => b
    | a, none => a) none
def ok (g : Geometry) (arg aux : BitVec 64) (cnt : Nat) : Bool :=
  decide (1 ≤ g.w ∧ 1 ≤ g.h ∧ 1 ≤ g.c ∧ afield arg 48 2 ≠ 3 ∧ afield arg 50 14 = 0 ∧ 1 ≤ g.kw ∧ 1 ≤ g.kh ∧ 1 ≤ g.sx ∧ 1 ≤ g.sy ∧
    afield aux 28 4 = 0 ∧ 1 ≤ g.ow ∧ 1 ≤ g.oh ∧ ((g.q0 + cnt : Nat) : Int) ≤ g.ow * g.oh ∧ g.rowStride * cnt ≤ 16777216)
end Geometry

/-- Entries that hold each slot index of a pack: the slot of `.out`, none where it is no slot base. -/
def CBuf.slotOf (k : CBuf) (off : Nat) : Option Nat :=
  if k.base ≤ off ∧ (off - k.base) % k.slotBytes = 0 ∧ (off - k.base) / k.slotBytes < k.n then some ((off - k.base) / k.slotBytes) else none
namespace TransformOp
/-- Count limit (R349). -/
def limit (x : TransformOp) : Nat :=
  match x.kind.val with
  | 1 | 2 => 4096
  | 3 => match x.buf with | some k => k.n | none => 0
  | 4 | 5 => 1024
  | _ => 65535
def planes (x : TransformOp) : Nat := match x.kind.val with
  | 3 => match x.buf with | some k => k.p | none => 1
  | _ => afield x.arg 4 4
def elem (x : TransformOp) : Nat := if x.kind = 4 then 4 else 2
/-- Fields within the limits of the operation's rule (R341-R345, R348). DEDUCED (log 22). -/
def fieldsOk (x : TransformOp) : Bool :=
  let a := x.arg
  decide (1 ≤ x.cnt ∧ x.cnt ≤ x.limit) && match x.kind.val with
  | 1 => decide (afield a 0 4 ≤ 2 ∧ 1 ≤ afield a 4 4 ∧ afield a 4 4 ≤ 12 ∧ afield a 8 4 = 0 ∧ afield a 12 2 ≤ 1 ∧ afield a 15 1 = 0 ∧
      afield a 24 40 = 0 ∧ (if afield a 14 1 = 1 then 1 ≤ afield a 16 8 ∧ afield a 16 8 ≤ 254 else afield a 16 8 = 0))
  | 2 => decide (afield a 0 4 = 0 ∧ 1 ≤ afield a 4 4 ∧ afield a 4 4 ≤ 12 ∧ 1 ≤ afield a 8 4 ∧ afield a 8 4 ≤ afield a 4 4 ∧ afield a 12 2 ≤ 1 ∧
      afield a 14 10 = 0 ∧ afield a 24 4 ≤ 2 ∧ afield a 28 36 = 0)
  | 3 => afield a 3 61 == 0 && afield x.aux 32 32 == 0 && (match x.buf with
    | some k => portSpace x.out != some .ab || (match k.slotOf (portOff x.out) with
      | some i => decide (i + x.cnt ≤ k.n)
      | none => false)
    | none => false)
  | 4 | 5 => true
  | _ => (geometryOf x.arg x.aux).ok x.arg x.aux x.cnt
/-- Source tile stride of a pack: R345 does not call it signed. -/
def tileStride (x : TransformOp) : Int := afield x.aux 0 32
/-- Read and write range, taken as spaces that exist. -/
def spans (x : TransformOp) : Range × Range :=
  let isp := (portSpace x.inp).getD .gal
  let osp := (portSpace x.out).getD .gal
  let i := portOff x.inp
  let o := portOff x.out
  match x.kind.val with
  | 1 => (strideRange isp i (astride x.aux 0) x.cnt 0 (64 * cvtSize (afield x.arg 0 4)), ⟨osp, o, o + tileRun x.cnt x.planes x.planes⟩)
  | 2 =>
    let k := afield x.arg 8 4
    let k := if afield x.arg 12 2 = 1 ∧ k < x.planes then k + 1 else k
    (⟨isp, i, i + tileRun x.cnt x.planes k⟩, strideRange osp o (astride x.aux 0) x.cnt 0 (64 * cvtSize (afield x.arg 24 4)))
  | 3 => (strideRange isp i x.tileStride x.cnt 0 (tileBytes x.planes),
      ⟨osp, o, o + x.cnt * (match x.buf with | some k => k.slotBytes | none => 0)⟩)
  | 4 | 5 =>
    let side (sp : Space) (base : Nat) (rs ms : Int) : Range :=
      strideRange sp base ms x.cnt (min 0 (63 * rs)) (max 0 (63 * rs) + 64 * x.elem)
    (side isp i (astride x.arg 0) (astride x.aux 0), side osp o (astride x.arg 32) (astride x.aux 32))
  | _ =>
    let g := geometryOf x.arg x.aux
    ((g.readSpan x.cnt).elim ⟨isp, 0, 0⟩ fun r => ⟨isp, i + r.1, i + r.2⟩, ⟨osp, o, o + x.cnt * g.rowStride⟩)
/-- Read and write range (R337): a space code that names no space has no bytes. -/
def footprint (x : TransformOp) : Range × Range :=
  let held (v : BitVec 64) (r : Range) : Range := if (portSpace v).isSome then r else ⟨.gal, 0, 0⟩
  (held x.inp x.spans.1, held x.out x.spans.2)
/-- The parked checks in their order: spaces, ranges, alignment (R337, step 3). DEDUCED (log 22). -/
def parked (x : TransformOp) (pinned : Option (Nat × Nat)) : Option (Cause × Int) :=
  let local_ (v : BitVec 64) : Bool := portSpace v == some .ab || portSpace v == some .gal
  let i := portOff x.inp
  let o := portOff x.out
  let fp := x.footprint
  let spaces : Option (Cause × Int) :=
    if x.kind = 6 then
      if portSpace x.inp ≠ some .glb ∨ 2 ^ 56 ≤ i then some (.protection, i)
      else if portSpace x.out ≠ some .glb ∨ 2 ^ 56 ≤ o then some (.protection, o) else none
    else if local_ x.inp = false then some (.protection, i)
    else if (if x.kind = 3 then portSpace x.out != some .ab else !local_ x.out) then some (.protection, o) else none
  let out (r : Range) : Option (Cause × Int) :=
    if r.lo < 0 then some (.protection, r.lo) else if (r.space.size : Int) < r.hi then some (.protection, max r.lo r.space.size) else none
  let region : Option (Cause × Int) :=
    if x.kind = 6 then
      match pinned with
      | some (base, len) =>
        if fp.2.lo < base then some (.protection, fp.2.lo) else if (base + len : Int) < fp.2.hi then some (.protection, max fp.2.lo (base + len)) else none
      | none => some (.protection, fp.2.lo)
    else none
  let odd (a : Int) (n : Nat) : Option (Cause × Int) := if a % n ≠ 0 then some (.misaligned, a) else none
  let align : Option (Cause × Int) :=
    match x.kind.val with
    | 1 =>
      let n := cvtSize (afield x.arg 0 4)
      (odd i n).or (if astride x.aux 0 % n ≠ 0 then some (.misaligned, i) else odd o 128)
    | 2 => odd i 128
    | 3 => (odd i 128).or (if x.tileStride % 128 ≠ 0 then some (.misaligned, i) else none)
    | 4 | 5 =>
      let bad (v : Int) : Bool := v % x.elem != 0
      if bad i ∨ bad (astride x.arg 0) ∨ bad (astride x.aux 0) then some (.misaligned, i)
      else if bad o ∨ bad (astride x.arg 32) ∨ bad (astride x.aux 32) then some (.misaligned, o) else none
    | _ => (odd i (geometryOf x.arg x.aux).e).or (odd o 128)
  spaces.or ((out fp.1).or ((out fp.2).or (region.or align)))
/-- Least cycles of the whole operation (R349). DESIGN CHOICE (log 21). -/
def cycles (x : TransformOp) : Nat :=
  match x.kind.val with
  | 1 | 2 => x.cnt * (x.planes + 1)
  | 3 => x.cnt * (2 + 8 * x.planes)
  | 4 => 128 * x.cnt
  | 5 => 64 * x.cnt
  | _ => 1
end TransformOp

/-! Triggers (R336, R337) -/

/-- An operation starts; a parked check that fails ends it at once, or, where the table is full, once its fault is parked (R53). -/
def State.startTransform (s : State) (u : Fin 4) (x : TransformOp) : State :=
  let s := s.modUnit u fun k => { k with ports := k.ports.set 2 (BitVec.ofNat 64 x.cnt) }
  match x.parked s.pre.pinned with
  | some (cause, a) =>
    let r := s.addCommand 4 x.tok [x.footprint.1] [x.footprint.2] [] false (!s.me.canPark)
    if s.me.canPark = false then r.2.modUnit u fun k => { k with op := some { x with id := r.1, fault := some (cause, BitVec.ofInt 56 a) }, faulted := false }
    else (r.2.modMe fun b => match b.command r.1 with
      | some k => b.report k cause a
      | none => b).modUnit u fun k => { k with last := some x, faulted := true }
  | none =>
    let r := s.addCommand 4 x.tok [x.footprint.1] [x.footprint.2] [] (x.kind == 6) true
    let w := r.2.nextFree
    w.2.modUnit u fun k => { k with op := some { x with id := r.1, nextAt := s.cycle + s.lineCycles x.cycles + Config.engineWait w.1 }, faulted := false }
/-- DEDUCED (log 9, 22). -/
def trigger (u : Fin 4) (kind : Fin 8) (q : Qual) (a : Reg) (tok : Option (Fin 16)) (s : State) : State :=
  if s.acts q then
    let k := s.unit u
    let x : TransformOp :=
      { id := 0, kind, inp := k.ports[0], out := k.ports[1], cnt := (s.rg a).toNat, arg := k.ports[3], aux := k.ports[4]
        buf := if kind = 3 then s.pre.cbufs[fin3 (k.ports[3].extractLsb' 0 3)] else none
        tok, baddr := s.cur.hdr, issued := s.issueNo, src := s.src true, nextAt := 0 }
    if k.op.isSome ∨ (u = 3 ∧ s.pre.holdsFault 4) ∨ s.hazardFree [x.footprint.1] [x.footprint.2] = false then s.holdFor .stall
    else if x.fieldsOk = false ∨ x.footprint.1.overlaps x.footprint.2 then s.raise .illegalOp
    else if tok.any fun t => s.pre.tokenBusy t then s.raise .tokenMisuse
    else s.startTransform u x
  else s
def execCvtSplit (q : Qual) (a : Reg) (tok : Option (Fin 16)) (s : State) : Result := .next (trigger 0 1 q a tok s)
def execCvtJoin (q : Qual) (a : Reg) (tok : Option (Fin 16)) (s : State) : Result := .next (trigger 0 2 q a tok s)
def execCmpPack (q : Qual) (a : Reg) (tok : Option (Fin 16)) (s : State) : Result := .next (trigger 1 3 q a tok s)
def execXposeW32 (q : Qual) (a : Reg) (tok : Option (Fin 16)) (s : State) : Result := .next (trigger 2 4 q a tok s)
def execXposeW16 (q : Qual) (a : Reg) (tok : Option (Fin 16)) (s : State) : Result := .next (trigger 2 5 q a tok s)
def execLayoutIm2col (q : Qual) (a : Reg) (tok : Option (Fin 16)) (s : State) : Result := .next (trigger 3 6 q a tok s)

/-! Configuration (R339, R344, R347) -/

def dfield512 (d : Nat) (lo w : Nat) : Nat := d / 2 ^ lo % 2 ^ w
/-- A descriptor of a compressed buffer: none where it fails its check, `some none` where it frees the entry. -/
def cbufOf (d : Nat) : Option (Option CBuf) :=
  let f := dfield512 d
  if f 63 1 = 0 then some none
  else
    let p := f 48 4
    let r := f 52 2
    let m := (8 * p + 2 ^ (r + 1) - 1) / 2 ^ (r + 1)
    let k : CBuf := ⟨f 0 32, f 32 16, p, m, r⟩
    if f 64 448 = 0 ∧ f 54 9 = 0 ∧ r ≠ 3 ∧ 1 ≤ p ∧ p ≤ 12 ∧ 1 ≤ k.n ∧ k.n ≤ 4096 ∧ k.base % 128 = 0 ∧
        k.base + k.n * k.slotBytes ≤ 0x400000 then some (some k)
    else none
def CBuf.range (k : CBuf) : Range := ⟨.ab, k.base, k.base + k.n * k.slotBytes⟩
/-- An incomplete command touches the range. -/
def State.rangeBusy (s : State) (r : Option Range) : Bool :=
  match r with
  | some r => s.pre.commands.any fun c => s.incomplete c && (c.reads ++ c.writes).any r.overlaps
  | none => false
def execTcfg (q : Qual) (a : Reg) (e : Fin 8) (s : State) : Result :=
  .next (if s.acts q then
    withDescriptor (s.rg a) (fun d s =>
      let new := cbufOf d
      let ranges := [(s.pre.cbufs[e]).map CBuf.range, (new.bind id).map CBuf.range]
      if ranges.any s.rangeBusy then s.holdFor .stall
      else match new with
        | none => s.raise .illegalOp (s.rg a)
        | some k =>
          let clash := match k with
            | some x => (List.finRange 8).any fun j => j != e && (match s.pre.cbufs[j] with | some y => x.range.overlaps y.range | none => false)
            | none => false
          if clash then s.raise .illegalOp (s.rg a) else s.modMe fun b => { b with cbufs := b.cbufs.set e k }) s
  else s)
def pinnedOf (d : Nat) : Option (Option (Nat × Nat)) :=
  let f := dfield512 d
  if f 128 1 = 0 then some none
  else if f 129 383 = 0 ∧ f 56 8 = 0 ∧ f 64 64 % 128 = 0 ∧ 128 ≤ f 64 64 ∧ f 64 64 ≤ 16777216 ∧ f 0 56 % 128 = 0 then some (some (f 0 56, f 64 64))
  else none
def pinnedRange (p : Nat × Nat) : Range := ⟨.glb, p.1, p.1 + p.2⟩
def execTcfgPinned (q : Qual) (a : Reg) (s : State) : Result :=
  .next (if s.acts q then
    withDescriptor (s.rg a) (fun d s =>
      let new := pinnedOf d
      let ranges := [s.pre.pinned.map pinnedRange, (new.bind id).map pinnedRange]
      if ranges.any s.rangeBusy then s.holdFor .stall
      else match new with
        | none => s.raise .illegalOp (s.rg a)
        | some k => (s.modMe fun b => { b with pinned := k }).pinRegion s.pre.sys.asn (k.getD (0, 0)).1 (k.getD (0, 0)).2) s
  else s)
/-- The status word of R340. -/
def TransformUnit.word (k : TransformUnit) : BitVec 64 :=
  let w (x : TransformOp) (busy : Bool) : BitVec 64 :=
    BitVec.ofNat 24 x.done ++ 0#29 ++ b4 (x.tok.getD 0) ++ BitVec.ofBool x.tok.isSome ++ BitVec.ofNat 3 x.kind.val ++
      BitVec.ofBool (!busy && k.faulted) ++ 0#1 ++ BitVec.ofBool busy
  match k.op, k.last with
  | some x, _ => w x true
  | none, some x => w x false
  | none, none => 0
def execTstat (q : Qual) (a : Reg) (u : Fin 4) (s : State) : Result :=
  .next (if s.acts q then s.wg a (s.unit u).word else s)

/-! What the operations compute -/

/-- A source element as an exact value (R106). -/
def cvtValue (f : Nat) (bs : List (BitVec 8)) : FpVal :=
  fpDecode (if f = 0 then fp32 else if f = 1 then bf16 else fp16) (natLE bs)
/-- An element's bytes in the destination format of a join, and whether it overflowed. -/
def joinBytes (f : Nat) (v : BitVec 32) : List (BitVec 8) × Bool :=
  if f = 0 then (bytesLE 4 v.toNat, false)
  else
    let r := fpConvert fp32 (if f = 1 then bf16 else fp16) v.toNat
    (bytesLE 2 r.bits, r.overflow)
def State.modOp (s : State) (c : CoreId) (u : Fin 4) (f : TransformUnit → TransformUnit) : State :=
  s.modBody c fun b => { b with transforms := Vec.modify b.transforms u f }
/-- Local bytes of an operation, performed at the end of the cycle. -/
def State.unitWrite (s : State) (c : CoreId) (x : TransformOp) (sp : Space) (off : Nat) (bs : List (BitVec 8)) : State :=
  s.modBody c fun b => { b with locals := b.locals ++ [{ rank := 2, space := sp, off, bytes := bs, src := x.src }] }
/-- DEDUCED (log 22). -/
def State.unitPost (s : State) (c : CoreId) (x : TransformOp) (kind : BitVec 8) (lane : Nat) (space : BitVec 4) (detail : BitVec 48) : State :=
  s.modBody c (·.postAt 4 (statRecord kind false 31 (BitVec.ofNat 6 lane) space x.baddr detail))
/-- Row i of a split (R341). -/
def State.splitRow (s : State) (c : CoreId) (x : TransformOp) (i : Nat) : State :=
  let isp := (portSpace x.inp).getD .gal
  let osp := (portSpace x.out).getD .gal
  let f := afield x.arg 0 4
  let p := x.planes
  let src := (portOff x.inp + i * astride x.aux 0).toNat
  let vals := (List.range 64).map fun e => cvtValue f ((s.body c).read isp (src + e * cvtSize f) (cvtSize f))
  let n := npfEncode vals p (afield x.arg 12 2 == 1) (if afield x.arg 14 1 = 1 then some (afield x.arg 16 8) else none)
  let t := portOff x.out + i / 64 * tileBytes p
  let r := i % 64
  let s := s.unitWrite c x osp (headerOff t r) (bytesLE 2 n.hdr.toNat)
  let s := (List.range p).foldl (fun s j => s.unitWrite c x osp (planeRowOff t r j) (planeRow p j n.ms)) s
  let note (kind : BitVec 8) (l : Option Nat) (s : State) : State := match l with
    | some l => s.unitPost c x kind l osp.code (BitVec.ofNat 48 (headerOff t r))
    | none => s
  note 6 n.sat (note 5 n.nan s)
/-- Row i of a join from a header that may be read (R342); a row whose attempts are spent is +0. A row whose narrowing overflows posts one
FP_OVERFLOW record, for its lowest such element: R103 bounds the records of lane-group entries only, and R342 gives no count.
DESIGN CHOICE (log 50). -/
def State.joinRow (s : State) (c : CoreId) (x : TransformOp) (i : Nat) (spent : Bool) : State :=
  let isp := (portSpace x.inp).getD .gal
  let osp := (portSpace x.out).getD .gal
  let f := afield x.arg 24 4
  let p := x.planes
  let k := afield x.arg 8 4
  let t := portOff x.inp + i / 64 * tileBytes p
  let r := i % 64
  let e := headerE ((s.body c).npfHeader isp t r)
  let ms := (s.body c).npfPrefix isp t r p k (afield x.arg 12 2 == 1)
  let out := ms.map fun m => joinBytes f (if spent then 0 else npfValue e k m)
  let s := s.unitWrite c x osp (portOff x.out + i * astride x.aux 0).toNat (out.flatMap (·.1))
  let s := match out.findIdx? (·.2) with
    | some l => s.unitPost c x 2 l 0 Config.transformDetail
    | none => s
  if spent then s.unitPost c x 7 0 isp.code (BitVec.ofNat 48 (headerOff t r)) else s
/-- The plane lines of a tile in ascending map bit. -/
def tileLines (bs : List (BitVec 8)) (p : Nat) : List (List (BitVec 8)) := (List.range (8 * p)).map fun l => (bs.drop (128 + 128 * l)).take 128
def nonzeroLine (l : List (BitVec 8)) : Bool := l.any (· != 0)
/-- Planes that fit (R345). -/
def keepPlanes (lines : List (List (BitVec 8))) (m : Nat) : Nat → Nat
  | 0 => 0
  | k + 1 => if m < ((lines.take (8 * (k + 1))).filter nonzeroLine).length then keepPlanes lines m k else k + 1
/-- A packed slot, and whether planes were dropped. -/
def packTile (k : CBuf) (bs : List (BitVec 8)) : List (BitVec 8) × Bool :=
  let lines := tileLines bs k.p
  let keep := keepPlanes lines k.m k.p
  let kept := lines.take (8 * keep)
  let map := kept.zipIdx.foldl (fun a (l, i) => if nonzeroLine l then a + 2 ^ i else a) 0
  let body := (kept.filter nonzeroLine).flatten
  (bs.take 128 ++ bytesLE 128 map ++ body ++ List.replicate (128 * k.m - body.length) 0, decide (keep < k.p))
/-- DEDUCED (log 22). -/
def State.packOne (s : State) (c : CoreId) (x : TransformOp) (k : CBuf) (i : Nat) : State × Bool :=
  let isp := (portSpace x.inp).getD .gal
  let r := packTile k ((s.body c).read isp (portOff x.inp + i * x.tileStride).toNat (tileBytes k.p))
  let d := portOff x.out + i * k.slotBytes
  let s := s.unitWrite c x .ab d r.1
  (if r.2 then s.unitPost c x 6 0 2 (BitVec.ofNat 48 d) else s, r.2)
/-- Source row and column of element r of destination row c. Where destination rows overlap, the last write of the loops of R343, the one of the
highest source row, prevails. -/
def transposed (drs w : Int) (c r : Nat) : Nat × Nat :=
  if drs = 0 then (r, 63)
  else ((List.range 64).reverse.findSome? fun (a : Nat) =>
    let d : Int := c * drs + ((r : Int) - a) * w
    if d % drs = 0 ∧ 0 ≤ d / drs ∧ d / drs < 64 then some (a, (d / drs).toNat) else none).getD (r, c)
/-- Matrix t of a transposition, one destination row a write (R343). DESIGN CHOICE (log 21). -/
def State.transposeOne (s : State) (c : CoreId) (x : TransformOp) (t : Nat) : State :=
  let isp := (portSpace x.inp).getD .gal
  let osp := (portSpace x.out).getD .gal
  let w := x.elem
  (List.range 64).foldl (fun (s : State) (col : Nat) =>
    let bs := (List.range 64).flatMap fun (r : Nat) =>
      let p := transposed (astride x.arg 32) w col r
      (s.body c).read isp (portOff x.inp + t * astride x.aux 0 + p.1 * astride x.arg 0 + p.2 * w).toNat w
    s.unitWrite c x osp (portOff x.out + t * astride x.aux 32 + col * astride x.arg 32).toNat bs) s

/-! LAYOUT (R348) -/

/-- Where the C elements of each kernel position of row i lie, none where they are padding. -/
def Geometry.pieces (g : Geometry) (inp i : Nat) : List (Option Nat) :=
  let q := g.q0 + i
  let oy := q / g.ow.toNat
  let ox := q % g.ow.toNat
  (List.range g.kh).flatMap fun (ky : Nat) => (List.range g.kw).map fun (kx : Nat) =>
    let y : Int := oy * g.sy + ky - g.pad
    let x : Int := ox * g.sx + kx - g.pad
    if 0 ≤ y ∧ y < g.h ∧ 0 ≤ x ∧ x < g.w then some (inp + ((y * g.w + x) * g.c * g.e).toNat) else none
/-- Bytes of a row from what its pieces of the input gave: n bytes each, zeros for padding. -/
def layoutRow (n : Nat) : List (Option Nat) → List (BitVec 8) → List (BitVec 8)
  | [], _ => []
  | none :: ps, bs => List.replicate n 0 ++ layoutRow n ps bs
  | some _ :: ps, bs => bs.take n ++ layoutRow n ps (bs.drop n)
/-- The input of a row, one line in a cycle (R349). -/
def State.layoutRead (s : State) (c : CoreId) (g : Geometry) (ps : List (Option Nat)) : Glb × State :=
  match s.engineRead c 2 fun s => s.glbLines (.transform c 3) (s.body c).sys.asn ((ps.filterMap id).flatMap fun v => linePieces v (g.c * g.e)) with
  | (.ok bs, t) => (.ok (layoutRow (g.c * g.e) ps bs), t)
  | r => r
/-- A line of a row: a held effect (R338). -/
def State.layoutLine (s : State) (c : CoreId) (r : Request) (src : Src) (piece : List (BitVec 8)) : State :=
  (s.effect c r).modBody c (·.logWrites (byteRecords src 5 (piece.zipIdx.map fun (y, i) => (r.va.toNat + i, y))))

/-! Completion and faults (R338) -/

/-- The operation is complete: its result, its status, and its command; one that a fault ends leaves `.res` as it was (R338 does not say).
DESIGN CHOICE (log 50). -/
def State.endTransform (s : State) (c : CoreId) (u : Fin 4) (x : TransformOp) (faulted : Bool) : State :=
  (s.modOp c u fun k => { k with
    op := none, last := some x, faulted
    res := if faulted then k.res else BitVec.ofNat 32 x.truncated ++ BitVec.ofNat 32 x.done }).modBody c (·.endCommand x.id)
def State.putOp (s : State) (c : CoreId) (u : Fin 4) (x : TransformOp) : State := s.modOp c u fun k => { k with op := some x }
/-- Rows of a join from `done` on: a row under rewrite is tried again 64 cycles later, at most 256 times. DESIGN CHOICE (log 21). -/
def State.joinFrom (s : State) (c : CoreId) (u : Fin 4) (x : TransformOp) : Nat → State
  | 0 => s.endTransform c u x false
  | n + 1 =>
    let i := x.done
    let t := portOff x.inp + i / 64 * tileBytes x.planes
    let bad := headerE ((s.body c).npfHeader ((portSpace x.inp).getD .gal) t (i % 64)) = 255
    if bad ∧ x.attempts + 1 < 256 then s.putOp c u { x with attempts := x.attempts + 1, nextAt := s.cycle + 64 }
    else (s.joinRow c x i (decide bad)).joinFrom c u { x with done := i + 1, attempts := 0 } n
/-- The next line of a row of LAYOUT is handed out, one in a cycle; where no provisional line is left an implicit checkpoint comes first (R42).
DESIGN CHOICE (log 21). -/
def State.layoutHand (s : State) (c : CoreId) (u : Fin 4) (x : TransformOp) (bs : List (BitVec 8)) : State :=
  let n := (geometryOf x.arg x.aux).rowStride
  let piece := (bs.drop x.off).take 128
  let r : Request := { id := 0, core := c, baddr := x.baddr, issued := x.issued, asn := (s.body c).sys.asn
                       va := BitVec.ofNat 56 (portOff x.out + x.done * n + x.off), op := .copyWrite piece, gslot := false, engine := 4, tok := x.tok
                       command := some x.id }
  let next := s.cycle + s.lineCycles 1
  if (s.body c).sendsDirectly = false ∧ (s.body c).overfull r then
    ((s.putOp c u { x with row := some bs, nextAt := s.cycle + 1 }).implicitCheckpoint c).2
  else
    let s := s.layoutLine c r x.src piece
    if x.off + 128 < n then s.putOp c u { x with row := some bs, off := x.off + 128, nextAt := next }
    else
      let y := { x with row := none, off := 0, done := x.done + 1, nextAt := next }
      if y.done < x.cnt then s.putOp c u y else s.endTransform c u y false
/-- A step of LAYOUT: the row is read, then handed out. DESIGN CHOICE (log 21). -/
def State.layoutStep (s : State) (c : CoreId) (u : Fin 4) (x : TransformOp) : State :=
  let g := geometryOf x.arg x.aux
  match x.row with
  | some bs => s.layoutHand c u x bs
  | none => match s.layoutRead c g (g.pieces (portOff x.inp) x.done) with
    | (.ok bs, t) => (t.forgetAways (.transform c u)).layoutHand c u x (bs ++ List.replicate (g.rowStride - bs.length) 0)
    | (.fault cause a, t) => ((s.keepAways t).forgetAways (.transform c u)).putOp c u { x with fault := some (cause, a) }
    | (.waits, t) => s.keepAways t
/-- DESIGN CHOICE (log 8, 21). -/
def State.transformDue (s : State) (c : CoreId) (u : Fin 4) : Option TransformOp :=
  match ((s.body c).transforms[u]).op with
  | some x => if x.fault = none ∧ x.nextAt ≤ s.cycle ∧ (u ≠ 3 ∨ (s.body c).holdsFault 4 = false) then some x else none
  | none => none
/-- DESIGN CHOICE (log 21). -/
def State.performTransform (s : State) (c : CoreId) (u : Fin 4) (x : TransformOp) : State :=
  let all (f : State → Nat → State) : State := ((List.range x.cnt).foldl f s).endTransform c u { x with done := x.cnt } false
  match x.kind.val with
  | 1 => all fun s i => s.splitRow c x i
  | 2 => s.joinFrom c u x (x.cnt - x.done)
  | 3 => match x.buf with
    | some k =>
      let r := (List.range x.cnt).foldl (fun (a : State × Nat) i =>
        let p := a.1.packOne c x k i
        (p.1, if p.2 then a.2 + 1 else a.2)) (s, 0)
      r.1.endTransform c u { x with done := x.cnt, truncated := r.2 } false
    | none => s
  | 4 | 5 => all fun s t => s.transposeOne c x t
  | _ => s.layoutStep c u x
/-- DESIGN CHOICE (log 21). -/
def execTransformComplete (c : CoreId) (u : Fin 4) (s : State) : Result :=
  .next (match s.transformDue c u with
    | some x => s.performTransform c u x
    | none => s)
/-- A fault on a global byte ends the operation and is parked; while the table is full the unit holds both (R53). DEDUCED (log 22). -/
def State.transformFault (s : State) (c : CoreId) (u : Fin 4) : State :=
  match ((s.body c).transforms[u]).op with
  | none => s
  | some x => match x.fault with
    | none => s
    | some (cause, a) =>
      if cause ≠ .machineCheck ∧ (s.body c).canPark = false then s
      else (s.modBody c (·.engineFault x.id x.baddr cause a.toNat)).endTransform c u x true
def execTransformFault (c : CoreId) (u : Fin 4) (s : State) : Result := .next (s.transformFault c u)

end Sys2Proof.Machine
end

