-- ==== Sys2Proof/Machine/SaveArea.lean ====
section
/-!
DEFINITION. The team save area (R426-R429): the header and the core records as bytes, and what a restore reads back. Where a region's
table names its contents only, they stand in the order of the table, 8 bytes each; what the tables give no bytes for stands in bytes that no
region takes (log 20).
-/
namespace Sys2Proof.Machine

/-- Bytes at an offset of the area. -/
abbrev Piece8 := Nat × List (BitVec 8)
def dword (off : Nat) (v : Nat) : Piece8 := (off, bytesLE 8 v)
def dwords (off : Nat) (vs : List Nat) : Piece8 := (off, vs.flatMap (bytesLE 8))
def boolNat {n : Nat} (v : Vector Bool n) : Nat := v.toList.zipIdx.foldl (fun a (b, i) => if b then a + 2 ^ i else a) 0
def padTo (n : Nat) (bs : List (BitVec 8)) : List (BitVec 8) := bs ++ List.replicate (n - bs.length) 0
def byteAt (bs : List (BitVec 8)) (o n : Nat) : Nat := natLE ((bs.drop o).take n)
def wordAt (bs : List (BitVec 8)) (o : Nat) : BitVec 64 := BitVec.ofNat 64 (byteAt bs o 8)
/-- The first n numbers of w bytes each. -/
def numbersOf (w : Nat) : Nat → List (BitVec 8) → List Nat
  | 0, _ => []
  | n + 1, bs => natLE (bs.take w) :: numbersOf w n (bs.drop w)
def boolsOf {n : Nat} (v : Nat) : Vector Bool n := Vec.ofFn fun i => v.testBit i.val
/-- None is 0, n is n + 1. -/
def optNat (x : Option Nat) : Nat := x.elim 0 (· + 1)
def natOpt (n : Nat) : Option Nat := if n = 0 then none else some (n - 1)

/-! View tables (R379) -/

/-- A view table register (R379). -/
def ViewEntry.word (e : ViewEntry) : BitVec 128 :=
  BitVec.ofBool e.valid ++ BitVec.ofBool e.held ++ BitVec.ofBool e.gal ++ BitVec.ofFin (w := 3) e.op ++ e.planes ++ 0#4 ++ e.linesM1 ++ e.home ++ 0#23 ++ e.base
def ViewEntry.ofWord (w : BitVec 128) (touched : List Nat) (serial : Nat) : ViewEntry :=
  ⟨w.getLsbD 127, w.getLsbD 126, w.getLsbD 125, BitVec.toFin (w.extractLsb' 122 3), w.extractLsb' 118 4, w.extractLsb' 100 14, w.extractLsb' 79 21,
    w.extractLsb' 0 56, touched, serial⟩
/-- A view table without its touched bits. -/
def viewImage (v : Vector ViewEntry 8) : List (BitVec 8) := v.toList.flatMap fun e => bytesLE 16 e.word.toNat
def viewsAt (bs : List (BitVec 8)) (o : Nat) (old : Vector ViewEntry 8) : Vector ViewEntry 8 :=
  Vec.ofFn fun n => ViewEntry.ofWord (BitVec.ofNat 128 (byteAt bs (o + 16 * n.val) 16)) old[n].touched old[n].serial

/-! The team header (R426) -/

/-- DESIGN CHOICE (log 20). -/
def RangeEntry.image (e : RangeEntry) : List (BitVec 8) :=
  padTo 128 (bytesLE 4 e.lo ++ bytesLE 4 e.hi ++ bytesLE 8 e.entry.toNat ++ bytesLE 2 e.grain ++ bytesLE 2 (if e.fixed then 1 else 0) ++ bytesLE 4 e.leaf ++
    e.args.toList.flatMap (fun a => bytesLE 8 a.toNat) ++ bytesLE 8 e.child ++ bytesLE 8 (optNat e.poster))
/-- A range entry from its 128 bytes and the 128 bytes of its view table. DESIGN CHOICE (log 20). -/
def RangeEntry.ofImage (bs vs : List (BitVec 8)) : RangeEntry :=
  { lo := byteAt bs 0 4, hi := byteAt bs 4 4, entry := BitVec.ofNat 56 (byteAt bs 8 8), grain := byteAt bs 16 2, fixed := byteAt bs 18 2 == 1
    leaf := byteAt bs 20 4, args := Vec.ofFn fun i => wordAt bs (24 + 8 * i.val), child := byteAt bs 72 8, poster := natOpt (byteAt bs 80 8)
    views := viewsAt vs 0 (Vector.replicate 8 {}) }
/-- Delays of the links of a rectangle, row by row: east, then south (R421). -/
def hopPattern (w h x0 y0 : Nat) : List Nat :=
  (List.range h).flatMap fun j => (List.range w).flatMap fun i =>
    (if i + 1 < w then [hopDelay (coreAt (x0 + i) (y0 + j)) (coreAt (x0 + i + 1) (y0 + j))] else []) ++
      (if j + 1 < h then [hopDelay (coreAt (x0 + i) (y0 + j)) (coreAt (x0 + i) (y0 + j + 1))] else [])
/-- The entry that a piece comes from, with its views. DESIGN CHOICE (log 20). -/
def Piece.image (p : Option Piece) : List (BitVec 8) := padTo 256 (match p with
  | some p => p.entry.image ++ viewImage p.entry.views
  | none => [])
/-- Bytes [0, 0x1_0000) of a team's area: state 0 SAVED or 1 FAULTED, and the origin with its place in its dies. A lazy piece stands as
{cursor, end} with its end in the lower doubleword. DESIGN CHOICE (log 20). -/
def headerImage (x : Team) (faulted : Bool) (kept : List Core) : List Piece8 :=
  let o := x.origin.getD (0, 0)
  [dword 0x0000 (if faulted then 1 else 0), dword 0x0008 (x.teamId.toNat + 2 ^ 32 * x.kernel.cores), dword 0x0010 x.flipLeft.toNat,
    dword 0x0018 (o.1 + 16 * o.2 + 256 * (o.1 % 4) + 1024 * (o.2 % 4)), dword 0x0020 (x.ranges.length + if x.frozen then 128 else 0),
    (0x0100, padTo 0x2000 (x.ranges.flatMap (·.image))),
    (0x2100, padTo 0x800 (kept.flatMap fun k => match k.task.piece with
      | some p => bytesLE 8 p.hi ++ bytesLE 8 p.cursor
      | none => List.replicate 16 0)),
    (0x2900, padTo 0x2000 (kept.flatMap fun k => bytesLE 64 (k.task.template.getD 0).toNat)),
    (0x4900, padTo 0x2000 (x.ranges.flatMap fun e => viewImage e.views)), (0x6900, kept.flatMap fun k => Piece.image k.task.piece)]
/-- The range queue of a header. DESIGN CHOICE (log 20). -/
def headerRanges (bs : List (BitVec 8)) : List RangeEntry :=
  (List.range (min 64 (byteAt bs 0x20 1 % 128))).map fun i =>
    RangeEntry.ofImage ((bs.drop (0x100 + 128 * i)).take 128) ((bs.drop (0x4900 + 128 * i)).take 128)
def headerFrozen (bs : List (BitVec 8)) : Bool := (byteAt bs 0x20 1).testBit 7
/-- The piece of core i. DESIGN CHOICE (log 20). -/
def headerPiece (bs : List (BitVec 8)) (i : Nat) : Piece :=
  { hi := byteAt bs (0x2100 + 16 * i) 8, cursor := byteAt bs (0x2108 + 16 * i) 8
    entry := RangeEntry.ofImage ((bs.drop (0x6900 + 256 * i)).take 128) ((bs.drop (0x6980 + 256 * i)).take 128) }
def headerTemplate (bs : List (BitVec 8)) (i : Nat) : Option (BitVec 512) :=
  let t := byteAt bs (0x2900 + 64 * i) 64
  if t = 0 then none else some (BitVec.ofNat 512 t)

/-! A core record (R427, R428) -/

/-- The system registers at 8 × number. -/
def sysNumbers : List Nat := [0, 1, 2, 3, 4, 5, 8, 9, 0xA, 0xB, 0x10, 0x11, 0x12, 0x13, 0x14, 0x15, 0x18, 0x19, 0x1A, 0x20, 0x21, 0x22, 0x23]
/-- A system register of a core (R172); CYCLE is that in which its state was recorded. DESIGN CHOICE (log 20). -/
def Core.sysValue (k : Core) (c : CoreId) (n : Nat) : BitVec 64 :=
  let b := k.b
  let y := b.sys
  match n with
  | 0 => BitVec.ofNat 64 k.chkAt | 1 => BitVec.ofNat 64 c.val | 2 => y.teamId | 3 => y.taskId | 4 => y.teamCores | 5 => y.asn.zeroExtend 64
  | 8 => y.landMax.zeroExtend 64 | 9 => y.landCnt.zeroExtend 64 | 0xA => y.flipAt | 0xB => y.arm.zeroExtend 64 | 0x10 => y.tvec
  | 0x11 => y.tcause.zeroExtend 64 | 0x12 => y.taddr.zeroExtend 64 | 0x13 => y.tbaddr.zeroExtend 64
  | 0x14 => y.tstat.zeroExtend 64 ||| (BitVec.ofBool b.handler).zeroExtend 64 | 0x15 => y.tret.zeroExtend 64
  | 0x18 => BitVec.ofNat 64 (journalUse b.journalLines k.journalValues) | 0x19 => BitVec.ofNat 64 b.stq.length | 0x1A => y.stqDrop.zeroExtend 64
  | 0x20 => b.lc[0] | 0x21 => b.lc[1] | 0x22 => b.lc[2] | 0x23 => b.lc[3] | _ => 0
/-- State code, TASK_ID, child index, count and range-task flag; then what a merge under way needs. DESIGN CHOICE (log 20). -/
def taskPieces (k : Core) : List Piece8 :=
  let t := k.task
  [dwords 0 [((t.state.map TaskState.code).getD 4).toNat, k.b.sys.taskId.toNat, t.childIndex.val, t.children, if t.piece.isSome then 1 else 0,
    if t.closed then 1 else 0, optNat t.node, t.endtAt.toNat, t.attempts]]
def seqPieces (k : Core) (c : CoreId) : List Piece8 :=
  let b := k.b
  [dwords 0x100 (b.g.toList.map (·.toNat)), dword 0x300 (boolNat b.p), dwords 0x308 (b.lc.toList.map (·.toNat)),
    (0x328, padTo 96 (b.loops.flatMap fun l => bytesLE 8 (l.lc.val + 1) ++ bytesLE 8 l.start.toNat ++ bytesLE 8 l.stop.toNat)),
    dwords 0x388 (b.steps.toList.flatMap fun st => st.toList.flatMap fun e => match e with
      | some (r, v) => [r.val + 1, v.toNat]
      | none => [0, 0]),
    dword 0x488 b.pc.toNat, dword 0x490 (if b.handler then 1 else 0)] ++ sysNumbers.map fun n => dword (0x4A0 + 8 * n) (k.sysValue c n).toNat
/-- DESIGN CHOICE (log 20). -/
def queuePieces (b : Body) : List Piece8 :=
  [(0x800, padTo 512 (b.ctq.flatMap fun v => bytesLE 8 v.toNat)), dword 0xA00 b.ctq.length,
    (0xA08, padTo 512 (b.btq.flatMap fun v => bytesLE 8 v.value.toNat)), dword 0xC08 b.btq.length,
    dword 0xC10 (boolNat b.flags), dword 0xC18 (((List.finRange 16).filter b.tokenBusy).foldl (fun a n => a + 2 ^ n.val) 0)]
/-- The broadcast sequencer (R210): the stacks with their depths behind. DESIGN CHOICE (log 20). -/
def bcastPieces (b : Body) : List Piece8 :=
  [dword 0xD00 (b.bpc.toNat + (if b.bpcUnset then 2 ^ 63 else 0)), (0xD08, b.bl.toList.flatMap fun v => bytesLE 4 v.toNat),
    dword 0xD18 (boolNat b.sp), dword 0xD20 (if b.brun then 1 else 0), (0xD28, b.gm.toList.flatMap fun v => bytesLE 3 v.toNat),
    (0xD40, padTo 64 (b.bloops.flatMap fun l => bytesLE 8 (l.bl.val + (if l.rt then 4 else 0) + 16 * l.start.toNat) ++ bytesLE 8 l.stop.toNat)),
    (0xD80, padTo 64 (b.brets.flatMap fun a => bytesLE 8 a.toNat)), dword 0xDC0 b.bloops.length, dword 0xDC8 b.brets.length, dword 0xDD0 b.bfold]
/-- A circular-buffer handle in the layout of its descriptor, with its pointers behind. -/
def Cb.image (c : Cb) : List (BitVec 8) :=
  match c.cfg with
  | some k => padTo 64 (bytesLE 4 k.base ++ bytesLE 2 k.n ++ bytesLE 2 (fmtBits k.fmt).toNat ++ bytesLE 4 k.slotSize ++ bytesLE 4 k.groupStride ++
      bytesLE 8 c.prod ++ bytesLE 8 c.cons)
  | none => List.replicate 64 0
/-- DESIGN CHOICE (log 20). -/
def descPieces (b : Body) : List Piece8 :=
  [(0xE00, b.cds.toList.flatMap fun d => bytesLE 64 (d.getD 0).toNat), (0x1200, b.cbs.toList.flatMap (·.image))]
/-- DESIGN CHOICE (log 20). -/
def viewPieces (b : Body) : List Piece8 :=
  [(0x1600, viewImage b.vts), (0x1680, b.vts.toList.flatMap fun e => bytesLE 1024 (e.touched.foldl (fun a l => a ||| 2 ^ l) 0))]
/-- A class map: a nibble for each index, 0xF for none. -/
def classNibbles (m : Sparse (Fin 8)) : List (BitVec 8) :=
  let nib (i : Nat) : Nat := match lookup m i with | some c => c.val | none => 15
  (List.range 512).map fun i => BitVec.ofNat 8 (nib (2 * i) + 16 * nib (2 * i + 1))
def classPieces (b : Body) : List Piece8 :=
  [(0x3700, classNibbles b.front.classes), (0x3900, classNibbles b.back.classes),
    (0x3B00, padTo 0x400 (bytesLE 1 ((if b.front.refused then 1 else 0) + if b.back.refused then 2 else 0)))]
/-- A compressed buffer in the layout of its descriptor (R344). -/
def CBuf.image (k : Option CBuf) : List (BitVec 8) :=
  match k with
  | some k => bytesLE 8 (k.base + 2 ^ 32 * k.n + 2 ^ 48 * k.p + 2 ^ 52 * k.r + 2 ^ 63)
  | none => bytesLE 8 0
/-- Copy units as status word and capture, transform units, merge progress and flight status; behind the merge buffer the view tables that
copies have captured (R332), the compressed buffers and the pinned region. DESIGN CHOICE (log 20). -/
def enginePieces (k : Core) : List Piece8 :=
  let b := k.b
  [(0x3F00, b.copies.toList.flatMap fun u => bytesLE 8 u.word.toNat ++ (match u.cmd with
      | some x => bytesLE 8 x.a.toNat ++ bytesLE 8 x.b.toNat ++ bytesLE 64 x.d.toNat
      | none => List.replicate 80 0)),
    dwords 0x3FB0 (b.transforms.toList.flatMap fun u => u.ports.toList.map (·.toNat)), dwords 0x4050 (b.transforms.toList.map (·.word.toNat)),
    dword 0x4070 k.task.progress.word.toNat, dword 0x4078 b.flight.word.toNat, dwords 0x4080 (b.transforms.toList.map (·.res.toNat)),
    (0x8700, b.copies.toList.flatMap fun u => match u.cmd with
      | some x => viewImage x.views
      | none => List.replicate 128 0),
    (0x8800, b.cbufs.toList.flatMap CBuf.image),
    (0x8840, match b.pinned with
      | some p => bytesLE 8 p.1 ++ bytesLE 8 p.2 ++ bytesLE 8 1
      | none => List.replicate 24 0)]
/-- An entry of the fault table (R54). -/
def Parked.word (f : Parked) : BitVec 128 :=
  f.cause.code ++ BitVec.ofFin (w := 4) f.engine ++ BitVec.ofBool f.tok.isSome ++ BitVec.ofFin (w := 4) (f.tok.getD 0) ++ f.baddr.extractLsb' 2 54 ++
    1#1 ++ f.addr
/-- DESIGN CHOICE (log 20). -/
def reportPieces (b : Body) : List Piece8 :=
  [(0x4100, padTo 0x400 (b.faults.flatMap fun f => bytesLE 16 f.word.toNat)), (0x4500, padTo 0x1000 (b.stq.flatMap fun r => bytesLE 16 r.toNat)),
    (0x5500, padTo 0x100 (bytesLE 8 b.stq.length))]
/-- The merge buffer: its lines by number in the tile, and which it holds behind them. -/
def mergePieces (t : Task) : List Piece8 :=
  t.buffer.map (fun (l, bs) => (0x5600 + 128 * l, bs)) ++ [(0x8680, bytesLE 16 (t.buffer.foldl (fun a (l, _) => a ||| 2 ^ l) 0))]
/-- The boundary steps that are over. -/
def NestPhase.waited : NestPhase → Nat
  | .stopped w | .boundary w => w
  | _ => 0
/-- The loop nests and stationary stores of a tile, with where a stopped nest stands and whether the shadow store is LOADING (R297).
DESIGN CHOICE (log 20). -/
def tilePieces (o : Nat) (t : Tile) : List Piece8 :=
  let store (o : Nat) (k : Stationary) : List Piece8 :=
    [(o, k.cells.toList.flatMap (·.toList)), (o + 0x1000, k.ew.toList), (o + 0x1040, bytesLE 8 k.kw.val)]
  store o t.active ++ store (o + 0x1080) t.shadow ++
    [dwords (o + 0x2100) (t.activeNest.toList.map (·.toNat)), dwords (o + 0x2140) (t.shadowNest.toList.map (·.toNat)),
      dwords (o + 0x2180) ((match t.run with
        | some r => [1, r.split.toNat, r.pass, r.phase.waited, if r.stopReq then 1 else 0, if r.satPosted then 1 else 0] ++ r.nest.toList.map (·.toNat)
        | none => List.replicate 14 0) ++ [if t.swapPending then 1 else 0, if t.load.isSome then 1 else 0, t.passes.toNat])]
/-- A port's descriptor, with its position in bytes 32..39. -/
def Port.image (q : Port) : List (BitVec 8) :=
  match q.cfg with
  | none => List.replicate 64 0
  | some c =>
    bytesLE 4 (c.base + 2 ^ 28 * c.space.code.toNat) ++
      bytesLE 4 ((fmtBits c.fmt).toNat + (if c.stop then 2 ^ 7 else 0) + (if c.address then 2 ^ 8 else 0) + (if c.rne then 2 ^ 14 else 0) + 2 ^ 16 * c.k +
        2 ^ 20 * c.planes) ++
      c.counts.toList.flatMap (bytesLE 2) ++ c.strides.toList.flatMap (fun x => bytesLE 4 (BitVec.ofInt 32 x).toNat) ++ bytesLE 8 q.pos ++ List.replicate 24 0
/-- DESIGN CHOICE (log 20). -/
def groupPieces (b : Body) (g : GroupId) : List Piece8 :=
  let o := 0x10000 + 0x18000 * g.val
  let k := b.groups[g]
  let bank (t : Bank) : List (BitVec 8) := (List.finRange 1024).flatMap fun i => bytesLE 8 (t.get g i).toNat
  [(o, (List.range 16384).flatMap fun i => bytesLE 4 (sget 0 k.mat i).toNat), (o + 0x10000, bank b.front), (o + 0x12000, bank b.back)] ++
    tilePieces (o + 0x14000) k.tile ++
    [(o + 0x16400, k.ports.toList.flatMap (·.image)), dwords (o + 0x16800) (k.vp.toList.map (·.toNat)),
      (o + 0x16840, k.scal.toList.flatMap fun v => bytesLE 4 v.toNat), (o + 0x16880, bytesLE 4 k.rot.val),
      (o + 0x16884, bytesLE 4 k.gsp.toNat ++ bytesLE 4 k.gbase.toNat ++ bytesLE 4 k.glimit.toNat), (o + 0x16890, k.latch.toList.flatMap fun v => bytesLE 4 v.toNat)]
/-- The declared extents with their places in the record (R429). -/
def extentPlaces (es : List Extent) : List (Extent × Nat) :=
  (es.foldl (fun (a : List (Extent × Nat) × Nat) e => (a.1 ++ [(e, a.2)], a.2 + (e.len + 127) / 128 * 128)) ([], 0x250000)).1
/-- DESIGN CHOICE (log 20). -/
def recordImage (k : Core) (c : CoreId) (es : List Extent) : List Piece8 :=
  taskPieces k ++ seqPieces k c ++ queuePieces k.b ++ bcastPieces k.b ++ descPieces k.b ++ viewPieces k.b ++ classPieces k.b ++ enginePieces k ++
    reportPieces k.b ++ mergePieces k.task ++ (List.finRange 24).flatMap (groupPieces k.b) ++
    (extentPlaces es).map fun (e, o) => (o, k.b.read e.space e.off e.len)

/-! Writing the area -/

/-- Start of a team's area; a core record's offset. -/
def Team.area (x : Team) : Nat := x.save.toNat + x.t * (0x10000 + x.kernel.cores * x.kernel.stride)
def Team.record (x : Team) (i : Nat) : Nat := x.area + 0x10000 + i * x.kernel.stride
/-- DESIGN CHOICE (log 20). -/
def Team.image (x : Team) (faulted : Bool) (kept : List Core) : List Piece8 :=
  (headerImage x faulted kept).map (fun (o, bs) => (x.area + o, bs)) ++
    (kept.zipIdx.flatMap fun (k, i) => (recordImage k (x.cores.getD i 0) x.kernel.extents).map fun (o, bs) => (x.record i + o, bs))
/-- Accesses of the usher: for the examination of a queue, its descriptor and its head entry; for the entry under way; for a write of its
tail; for a team and for a job. -/
def whoDesc (q : QueueId) : AwayFor := .usher q.val
def whoExam (q : QueueId) : AwayFor := .usher (64 + q.val)
def whoHead (q : QueueId) : AwayFor := .usher (128 + q.val)
def whoTail (q : QueueId) : AwayFor := .usher (192 + q.val)
def whoTeam (t : Nat) : AwayFor := .usher (256 + 2 * t)
def whoJob (j : Nat) : AwayFor := .usher (257 + 2 * j)
/-- Reads and writes of the usher; an address beyond 56 bits does not translate (R486). -/
def State.usherRead (s : State) (who : AwayFor) (asn : BitVec 12) (a n : Nat) : Glb × State :=
  if 2 ^ 56 < a + n then (.fault .translation (BitVec.ofNat 56 a), s) else s.glbRead who asn (BitVec.ofNat 56 a) n
def State.usherWrite (s : State) (who : AwayFor) (asn : BitVec 12) (a : Nat) (bs : List (BitVec 8)) (round : Nat := 0) : Glb × State :=
  if 2 ^ 56 < a + bs.length then (.fault .translation (BitVec.ofNat 56 a), s) else s.glbWrite who asn (BitVec.ofNat 56 a) bs round
/-- How an operation of the usher goes on: over, or waiting for memory that has not answered. -/
inductive Served where
  | done (s : State)
  | waits (s : State)
/-- Of an operation that waits only the accesses that it has sent remain; it runs again. -/
def State.serve1 (s : State) (r : Served) : State :=
  match r with
  | .done t => t
  | .waits t => s.keepAways t
/-- A failure of one of the usher's accesses is logged (R486). -/
def State.usherFails (s t : State) (unit : Nat) : State := (s.keepAways t).logEvent .usherFault unit
/-- The lines of a range translate with write permission, so that none of it is written where a part cannot be (R486). -/
def State.usherMay (s : State) (asn : BitVec 12) (a n : Nat) : Bool :=
  decide (a + n ≤ 2 ^ 56) && (linePieces a n).all fun p => match (s.translate asn (BitVec.ofNat 56 p.1)).1 with
    | .ok t => t.permits true false
    | .error _ => false
/-- Bytes written as a whole, then the rest; a write that fails is left out and logged (R486). -/
def State.usherPost (s : State) (who : AwayFor) (asn : BitVec 12) (a : Nat) (bs : List (BitVec 8)) (unit : Nat) (k : State → Served) : Served :=
  if s.usherMay asn a bs.length = false then k (s.logEvent .usherFault unit)
  else match s.usherWrite who asn a bs with
    | (.ok _, t) => k t
    | (.fault .., t) => k (s.usherFails t unit)
    | (.waits, t) => .waits t
/-- Pieces written in order; one that cannot be written is left out (log 20). DESIGN CHOICE (log 20). -/
def State.writePieces (s : State) (who : AwayFor) (asn : BitVec 12) : List Piece8 → Glb × State
  | [] => (.ok [], s)
  | (a, bs) :: ps =>
    match s.usherWrite who asn a bs with
    | (.ok _, t) => t.writePieces who asn ps
    | (.fault .., t) => (s.usherFails t 0).writePieces who asn ps
    | (.waits, t) => (.waits, t)

/-! Reading a record back (R424) -/

def readClasses (bs : List (BitVec 8)) (o : Nat) : Sparse (Fin 8) :=
  ((numbersOf 1 512 (bs.drop o)).flatMap fun v => [v % 16, v / 16]).zipIdx.filterMap fun (c, i) => if c < 7 then some (i, Fin.ofNat 8 c) else none
/-- The part of a record that belongs to a lane group. -/
def groupPart (bs : List (BitVec 8)) (g : GroupId) : List (BitVec 8) := (bs.drop (0x10000 + 0x18000 * g.val)).take 0x18000
/-- A saved bank entry: invalid where R89 would refuse it or where its class differs from the saved class map. -/
def savedEntry (classes : Sparse (Fin 8)) (i : Nat) (x : BitVec 64) : BitVec 64 :=
  if x.getLsbD 0 = false then x
  else match decodeEntry x with
    | .error _ => x &&& ~~~1#64
    | .ok _ => if (entryClass x).val ≠ 7 ∧ lookup classes i ≠ some (entryClass x) then x &&& ~~~1#64 else x
def readBank (bs : List (BitVec 8)) (classOff entryOff : Nat) (refused : Bool) : Bank :=
  let classes := readClasses bs classOff
  let entries := (List.finRange 24).flatMap fun g => (numbersOf 8 1024 ((groupPart bs g).drop entryOff)).zipIdx.filterMap fun (v, i) =>
    let x := savedEntry classes i (BitVec.ofNat 64 v)
    if x = 0 then none else some (1024 * g.val + i, x)
  ⟨entries, classes, refused⟩
def readStore (bs : List (BitVec 8)) (o : Nat) : Stationary :=
  { cells := Vec.ofFn fun r => Vec.ofFn fun c => BitVec.ofNat 8 (byteAt bs (o + 64 * r.val + c.val) 1)
    ew := Vec.ofFn fun r => BitVec.ofNat 8 (byteAt bs (o + 0x1000 + r.val) 1), kw := Fin.ofNat 4 (byteAt bs (o + 0x1040) 8) }
def readNest (bs : List (BitVec 8)) (o : Nat) : Nest := Vec.ofFn fun i => wordAt bs (o + 8 * i.val)
/-- A tile from its part of the record; of a stopped nest the numbers by which the core knows its command stay as they were kept.
DESIGN CHOICE (log 20). -/
def Tile.readBack (t : Tile) (bs : List (BitVec 8)) : Tile :=
  let w (i : Nat) : Nat := byteAt bs (0x2180 + 8 * i) 8
  { t with
    active := readStore bs 0, shadow := readStore bs 0x1080, activeNest := readNest bs 0x2100, shadowNest := readNest bs 0x2140
    swapPending := w 14 == 1, load := if w 15 = 0 then none else t.load, passes := BitVec.ofNat 32 (w 16), writes := []
    run := if w 0 = 0 then none else t.run.map fun r => { r with
      split := BitVec.ofNat 6 (w 1), pass := w 2, phase := .stopped (w 3), stopReq := w 4 == 1, satPosted := w 5 == 1, nest := readNest bs 0x21B0 } }
/-- A port from its descriptor and position. -/
def Port.ofImage (n : Fin 16) (bs : List (BitVec 8)) (now : Nat) : Port :=
  match portOf n (natLE (bs.take 32)) with
  | some c => primePort c (decide (n.val < 8)) (byteAt bs 32 8) now
  | none => {}
/-- DESIGN CHOICE (log 20). -/
def Group.readBack (k : Group) (part : List (BitVec 8)) (now : Nat) : Group :=
  let bs := part.drop 0x16400
  { k with
    mat := (numbersOf 4 16384 part).zipIdx.filterMap fun (v, i) => if v = 0 then none else some (i, BitVec.ofNat 32 v)
    tile := k.tile.readBack ((part.drop 0x14000).take 0x2400)
    vp := Vec.ofFn fun i => if i.val = 0 then BitVec.allOnes 64 else wordAt bs (0x400 + 8 * i.val)
    scal := Vec.ofFn fun i => BitVec.ofNat 32 (byteAt bs (0x440 + 4 * i.val) 4)
    rot := Fin.ofNat 64 (byteAt bs 0x480 4)
    gsp := BitVec.ofNat 32 (byteAt bs (0x484) 4), gbase := BitVec.ofNat 32 (byteAt bs (0x488) 4)
    glimit := BitVec.ofNat 32 (byteAt bs (0x48C) 4)
    latch := Vec.ofFn fun i => BitVec.ofNat 32 (byteAt bs (0x490 + 4 * i.val) 4)
    ports := Vec.ofFn fun n => Port.ofImage n ((bs.drop (64 * n.val)).take 64) now }
def SysRegs.readBack (y : SysRegs) (w : Nat → BitVec 64) : SysRegs :=
  { y with
    teamId := w 2, taskId := w 3, teamCores := w 4, landCnt := (w 9).extractLsb' 0 16, flipAt := w 0xA, arm := (w 0xB).extractLsb' 0 2
    tvec := w 0x10, tcause := (w 0x11).extractLsb' 0 18, taddr := (w 0x12).extractLsb' 0 56, tbaddr := (w 0x13).extractLsb' 0 56
    tstat := (w 0x14).extractLsb' 0 16 &&& 0xFFF8#16, tret := (w 0x15).extractLsb' 0 56, stqDrop := (w 0x1A).extractLsb' 0 32 }
def Cb.ofImage (bs : List (BitVec 8)) : Cb :=
  let n := byteAt bs 4 2
  match fmtOf (BitVec.ofNat 4 (byteAt bs 6 1)) with
  | some f => if n = 0 then {} else ⟨some ⟨byteAt bs 0 4, n, f, byteAt bs 8 4, byteAt bs 12 4⟩, byteAt bs 16 8, byteAt bs 24 8⟩
  | none => {}
/-- A copy unit from its status word and its capture; the numbers by which the core knows the command stay as they were kept. -/
def CopyUnit.readBack (u : CopyUnit) (w : BitVec 64) (bs : List (BitVec 8)) (views : Vector ViewEntry 8) : CopyUnit :=
  let base (x : Option CopyCmd) : CopyCmd :=
    x.getD { id := 0, kind := 0, d := 0, a := 0, b := 0, views, tok := none, baddr := 0, issued := 0, src := ⟨2, 0, 5⟩, nextAt := 0 }
  let at_ (x : CopyCmd) : CopyCmd := { x with
    kind := Fin.ofNat 4 (w.extractLsb' 3 3).toNat, tok := if w.getLsbD 6 then some (fin4 (w.extractLsb' 7 4)) else none
    row := (w.extractLsb' 47 17).toNat, off := (w.extractLsb' 27 20).toNat, fault := none }
  let busy := w.getLsbD 0
  { u with
    cmd := if busy then some { at_ (base u.cmd) with a := wordAt bs 0, b := wordAt bs 8, d := BitVec.ofNat 512 (byteAt bs 16 64), views, buf := none } else none
    last := if busy then u.last else if w = 0 then none else some (at_ (base u.last)), cancelled := w.getLsbD 1, faulted := w.getLsbD 2 }
def TransformUnit.readBack (u : TransformUnit) (port : Nat → BitVec 64) (w res : BitVec 64) : TransformUnit :=
  let base : TransformOp := u.last.getD
    { id := 0, kind := 0, inp := 0, out := 0, cnt := 0, arg := 0, aux := 0, buf := none, tok := none, baddr := 0, issued := 0, src := ⟨2, 0, 4⟩, nextAt := 0 }
  { u with
    ports := Vec.ofFn fun i => port i.val, res, op := none, faulted := w.getLsbD 2
    last := if w = 0 then none else some { base with
      kind := Fin.ofNat 8 (w.extractLsb' 3 3).toNat, tok := if w.getLsbD 6 then some (fin4 (w.extractLsb' 7 4)) else none
      done := (w.extractLsb' 40 24).toNat } }
def CBuf.ofImage (v : Nat) : Option CBuf := (cbufOf v).bind id
def allCauses : List Cause :=
  [.illegalBundle, .slotConflict, .illegalOp, .misaligned, .translation, .protection, .spawnBusy, .landingOverdue, .tableRefused, .flipRefused, .flipLate,
    .tokenMisuse, .planeRewriteTimeout, .mergeFault, .phaserState, .participantRange, .flightSlip, .stackBounds, .journalOverflow, .syscall, .brk, .machineCheck]
/-- A fault table entry that holds a fault; its order and the access behind it stay as they were kept. -/
def Parked.ofWord (w : BitVec 128) (old : Option Parked) : Option Parked :=
  match allCauses.find? fun c => c.code == w.extractLsb' 120 8 with
  | some c =>
    if w.getLsbD 56 then some {
      cause := c, engine := BitVec.toFin (w.extractLsb' 116 4), tok := if w.getLsbD 115 then some (fin4 (w.extractLsb' 111 4)) else none
      baddr := w.extractLsb' 57 54 ++ 0#2, addr := w.extractLsb' 0 56, aux := (old.map (·.aux)).getD 0, issued := (old.map (·.issued)).getD 0
      access := old.bind (·.access), due := (old.map (·.due)).getD false }
    else none
  | none => none
def FlightStatus.ofWord (w : BitVec 64) : FlightStatus :=
  ⟨(w.extractLsb' 48 16).toNat, w.extractLsb' 16 32, fin2 (w.extractLsb' 10 2), fin4 (w.extractLsb' 4 4), w.getLsbD 0⟩
def Progress.ofWord (w : BitVec 64) : Progress :=
  ⟨(w.extractLsb' 27 13).toNat, (w.extractLsb' 20 7).toNat, w.getLsbD 19, w.getLsbD 17, (w.extractLsb' 0 3).toNat⟩
/-- The n numbers of 8 bytes at an offset. -/
def wordsAt (bs : List (BitVec 8)) (o n : Nat) : List (BitVec 64) := (List.range n).map fun i => wordAt bs (o + 8 * i)
/-- The control sequencer's stacks. -/
def readLoops (bs : List (BitVec 8)) : List LoopEntry :=
  (List.range 4).filterMap fun i =>
    let lc := byteAt bs (0x328 + 24 * i) 8
    if lc = 0 then none
    else some ⟨Fin.ofNat 4 (lc - 1), BitVec.ofNat 56 (byteAt bs (0x330 + 24 * i) 8), BitVec.ofNat 56 (byteAt bs (0x338 + 24 * i) 8)⟩
def readSteps (bs : List (BitVec 8)) : Vector StepSet 4 :=
  Vec.ofFn fun l => Vec.ofFn fun i =>
    let o := 0x388 + 64 * l.val + 16 * i.val
    let r := byteAt bs o 8
    if r = 0 then none else some (Fin.ofNat 64 (r - 1), wordAt bs (o + 8))
def readBLoops (bs : List (BitVec 8)) : List BLoopEntry :=
  (List.range (min 4 (byteAt bs 0xDC0 8))).map fun i =>
    let w := wordAt bs (0xD40 + 16 * i)
    ⟨fin2 (w.extractLsb' 0 2), w.getLsbD 2, w.extractLsb' 4 56, (wordAt bs (0xD48 + 16 * i)).extractLsb' 0 56⟩
/-- The control sequencer, its queues and flags, and the broadcast sequencer. DESIGN CHOICE (log 20). -/
def Body.readStreams (b : Body) (bs : List (BitVec 8)) (now : Nat) : Body :=
  let w := wordAt bs
  let busy (n : Fin 16) : Bool := (byteAt bs 0xC18 2).testBit n.val
  { b with
    g := Vec.ofFn fun r => w (0x100 + 8 * r.val), p := boolsOf (byteAt bs 0x300 1), lc := Vec.ofFn fun i => w (0x308 + 8 * i.val)
    loops := readLoops bs, steps := readSteps bs, pc := (w 0x488).extractLsb' 0 56, handler := byteAt bs 0x490 1 == 1
    sys := b.sys.readBack fun n => w (0x4A0 + 8 * n)
    ctq := wordsAt bs 0x800 (min 64 (byteAt bs 0xA00 8)), btq := (wordsAt bs 0xA08 (min 64 (byteAt bs 0xC08 8))).map fun v => ⟨v, now⟩
    flags := boolsOf (byteAt bs 0xC10 2), commands := b.commands.filter fun c => c.tok.all busy
    bpc := (w 0xD00).extractLsb' 0 56, bpcUnset := (w 0xD00).getLsbD 63, bl := Vec.ofFn fun i => BitVec.ofNat 32 (byteAt bs (0xD08 + 4 * i.val) 4)
    sp := boolsOf (byteAt bs 0xD18 1), brun := byteAt bs 0xD20 1 == 1, gm := Vec.ofFn fun i => BitVec.ofNat 24 (byteAt bs (0xD28 + 3 * i.val) 3)
    bloops := readBLoops bs, brets := (wordsAt bs 0xD80 (min 8 (byteAt bs 0xDC8 8))).map (·.extractLsb' 0 56), bfold := byteAt bs 0xDD0 8 }
/-- Descriptors, view tables, banks, engines, fault table and statistics queue. DESIGN CHOICE (log 20). -/
def Body.readEngines (b : Body) (bs : List (BitVec 8)) : Body :=
  let w := wordAt bs
  { b with
    cds := Vec.ofFn fun n =>
      let d := byteAt bs (0xE00 + 64 * n.val) 64
      if d = 0 then none else some (BitVec.ofNat 512 d)
    cbs := Vec.ofFn fun n => Cb.ofImage ((bs.drop (0x1200 + 64 * n.val)).take 64)
    vts := Vec.ofFn fun n => { (viewsAt bs 0x1600 b.vts)[n] with
      touched := (List.range 8192).filter (byteAt bs (0x1680 + 1024 * n.val) 1024).testBit }
    front := readBank bs 0x3700 0x10000 ((byteAt bs 0x3B00 1).testBit 0), back := readBank bs 0x3900 0x12000 ((byteAt bs 0x3B00 1).testBit 1)
    copies := Vec.ofFn fun u => (b.copies[u]).readBack (w (0x3F00 + 88 * u.val)) ((bs.drop (0x3F08 + 88 * u.val)).take 80)
      (viewsAt bs (0x8700 + 128 * u.val) (match (b.copies[u]).cmd with
        | some x => x.views
        | none => b.vts))
    transforms := Vec.ofFn fun u => (b.transforms[u]).readBack (fun i => w (0x3FB0 + 40 * u.val + 8 * i)) (w (0x4050 + 8 * u.val)) (w (0x4080 + 8 * u.val))
    flight := FlightStatus.ofWord (w 0x4078), cbufs := Vec.ofFn fun n => CBuf.ofImage (byteAt bs (0x8800 + 8 * n.val) 8)
    pinned := if byteAt bs 0x8850 1 = 1 then some (byteAt bs 0x8840 8, byteAt bs 0x8848 8) else none
    faults := (List.range 64).filterMap fun i => Parked.ofWord (BitVec.ofNat 128 (byteAt bs (0x4100 + 16 * i) 16)) b.faults[i]?
    stq := (List.range (min 256 (byteAt bs 0x5500 8))).map fun i => BitVec.ofNat 128 (byteAt bs (0x4500 + 16 * i) 16) }
/-- Every item of the record; over the core as it was kept, which holds what no region does (log 20). DESIGN CHOICE (log 20). -/
def Body.readBack (b : Body) (bs : List (BitVec 8)) (now : Nat) : Body :=
  let b := (b.readStreams bs now).readEngines bs
  { b with groups := Vec.ofFn fun g => b.groups[g].readBack (groupPart bs g) now }
def TaskState.ofCode (n : Nat) : TaskState :=
  match n with
  | 0 => .running | 1 => .waiting | 2 => .merging | 3 => .mergeFaulted | _ => .ended
/-- Lines of a tile in the order in which a merge writes them (R165). -/
def tileOrder : List Nat := ((List.range 12).reverse.flatMap fun j => (List.range 8).map fun k => 1 + 8 * j + k) ++ [0]
/-- The task of a core record; the piece and the template come from the header. DESIGN CHOICE (log 20). -/
def Task.readBack (t : Task) (bs : List (BitVec 8)) (piece : Piece) (template : Option (BitVec 512)) : Task :=
  let w (i : Nat) : Nat := byteAt bs (8 * i) 8
  { t with
    state := t.state.map fun _ => TaskState.ofCode (w 0), childIndex := Fin.ofNat 256 (w 2), children := w 3
    piece := if w 4 = 0 then none else some piece, template, closed := w 5 == 1, node := natOpt (w 6), endtAt := BitVec.ofNat 56 (w 7), attempts := w 8
    progress := Progress.ofWord (wordAt bs 0x4070)
    buffer := (tileOrder.filter (byteAt bs 0x8680 16).testBit).map fun l => (l, (bs.drop (0x5600 + 128 * l)).take 128) }
/-- Local spaces: the declared extents, zero elsewhere (R429). -/
def Body.readSpaces (b : Body) (es : List Extent) (piece : Extent × Nat → List (BitVec 8)) : Body :=
  (extentPlaces es).foldl (fun b e => b.write e.1.space e.1.off (piece e)) { b with wb := [], ab := [], acc := [], gal := [] }
/-- Engines go on: stopped nests at their boundary, ports refetched, staged vectors discarded. DESIGN CHOICE (log 24). -/
def Body.goOn (b : Body) (now : Nat) : Body :=
  let b := b.refetch now
  { b with
    stopping := false, busy := none, asked := none, poll := none, answers := [], awaited := []
    groups := Vec.map (fun g => { g with
      tile := { g.tile with run := g.tile.run.map fun r => match r.phase with
        | .stopped w => { r with phase := .boundary w }
        | _ => r } }) b.groups }

end Sys2Proof.Machine
end

