-- ==== Sys2Proof/Machine/Loader.lean ====
section
/-!
DEFINITION. Carcon objects (R432-R440): the parts of a file, the checks in the order of R438, the relocated values, and what a load
writes. The whole file is read before any check.
-/
namespace Sys2Proof.Machine

/-! Parts of a file -/

abbrev File := List (BitVec 8)
def fld (x lo w : Nat) : Nat := x / 2 ^ lo % 2 ^ w
/-- n bytes of the file as a number; none beyond its end. -/
def File.at_ (f : File) (o n : Nat) : Option Nat := if o + n ≤ f.length then some (byteAt f o n) else none
/-- n records of a table. -/
def File.table (f : File) (o size n : Nat) : Option (List Nat) := (List.range n).mapM fun i => f.at_ (o + size * i) size
structure Section where
  img : Nat
  file : Nat
  size : Nat
  kind : Nat
  deriving DecidableEq, Repr
def Section.has (k : Section) : Bool := k.kind != 7 && k.kind != 8
def sectionOf (x : Nat) : Option Section :=
  if fld x 8 152 = 0 ∧ 1 ≤ fld x 0 8 ∧ fld x 0 8 ≤ 8 then some ⟨fld x 224 32, fld x 192 32, fld x 160 32, fld x 0 8⟩ else none
structure Symbol where
  value : Nat
  sect : Nat
  deriving DecidableEq, Repr
/-- DEDUCED (log 28). -/
def symbolOf (nsect x : Nat) : Option Symbol :=
  if fld x 0 16 = 0 ∧ fld x 16 8 ≤ 1 ∧ (fld x 24 8 ≤ nsect ∨ fld x 24 8 = 255) then some ⟨fld x 64 64, fld x 24 8⟩ else none
structure Reloc where
  addend : Int
  place : Nat
  sym : Nat
  type : Nat
  deriving DecidableEq, Repr
/-- DEDUCED (log 28). -/
def relocOf (nsym x : Nat) : Option Reloc :=
  if fld x 8 24 = 0 ∧ 1 ≤ fld x 0 8 ∧ fld x 0 8 ≤ 5 ∧ fld x 32 32 < nsym then
    some ⟨(BitVec.ofNat 64 (fld x 128 64)).toInt, fld x 64 64, fld x 32 32, fld x 0 8⟩
  else none
/-- The offset lies in a section of the kind. -/
def inKind (ss : List Section) (kind o : Nat) : Bool := ss.any fun k => k.kind == kind && decide (k.img ≤ o ∧ o < k.img + k.size)
def noEntry : Nat := 0xFFFFFFFF
/-- A kernel entry and its extents. -/
structure KernelEntry where
  word : Nat
  bufs : List Nat
  deriving DecidableEq, Repr
def File.kernelOf (f : File) (ss : List Section) (x : Nat) : Option KernelEntry :=
  let flight := fld x 136 1 == 1
  if fld x 112 9 = 0 ∧ fld x 0 32 = 0 ∧ inKind ss 1 (fld x 224 32) ∧ (fld x 192 32 = noEntry ∨ inKind ss 2 (fld x 192 32)) ∧
      (fld x 160 32 = noEntry ∨ inKind ss 1 (fld x 160 32)) ∧
      (flight = false ∨ (fld x 131 4 + 1) * (fld x 128 3 + 1) = fld x 137 7 + 1) ∧ (fld x 135 1 = 0 ∨ flight) then
    match f.table (fld x 64 32) 16 (fld x 96 16) with
    | some bs => if bs.all fun b => decide (1 ≤ fld b 60 4 ∧ fld b 60 4 ≤ 4) then some ⟨x, bs⟩ else none
    | none => none
  else none
/-- Entry i of a table image belongs to group i div 1 024. -/
def imageBank (f : File) (o n : Nat) : Bank × Bool :=
  (numbersOf 8 n (f.drop o)).zipIdx.foldl (fun (k, ok) (v, i) =>
    let x := BitVec.ofNat 64 v
    let idx : Fin 1024 := Fin.ofNat 1024 i
    let g : GroupId := Fin.ofNat 24 (i / 1024)
    match k.reason idx x with
    | none => (k.store [g] idx x, ok)
    | some _ => (k.put g idx (x &&& ~~~1#64), false)) ({}, true)
def imageOk (f : File) (k : Section) : Bool :=
  (k.kind != 3 && k.kind != 4) || (decide (k.size % 8 = 0 ∧ k.size ≤ 196608) && (imageBank f k.file (k.size / 8)).2)
structure Carcon where
  sects : List Section
  syms : List Symbol
  rels : List Reloc
  kernels : List KernelEntry
  /-- symbols with a GOT slot, in slot order -/
  slots : List Nat
  got : Nat
  span : Nat
  deriving DecidableEq, Repr
/-- Symbols named by GOT10 relocations, in the order of their first one. -/
def gotSlots (rs : List Reloc) : List Nat := (rs.filter (·.type == 4)).foldl (fun l r => if l.contains r.sym then l else l ++ [r.sym]) []
def disjoint : List Section → Bool
  | [] => true
  | k :: ks => ks.all (fun j => decide (k.img + k.size ≤ j.img ∨ j.img + j.size ≤ k.img)) && disjoint ks
/-- The FORMAT checks of R438. DEDUCED (log 28). -/
def File.parse (f : File) : Option Carcon := do
  let h ← f.at_ 0 64
  let ss ← (← f.table (fld h 320 32) 32 (fld h 448 16)).mapM sectionOf
  let syms ← (← f.table (fld h 224 32) 16 (fld h 304 16)).mapM (symbolOf (fld h 448 16))
  let rels ← (← f.table (fld h 192 32) 24 (fld h 288 16)).mapM (relocOf (fld h 304 16))
  let kernels ← (← f.table (fld h 160 32) 32 (fld h 272 16)).mapM (f.kernelOf ss)
  let placed := ss.filter fun k => k.kind != 3 && k.size != 0
  let slots := gotSlots rels
  let got := fld h 96 32
  let ngot := fld h 256 16
  if fld h 480 32 = 0x314F5843 ∧ fld h 464 16 = 1 ∧ fld h 0 96 = 0 ∧ 1 ≤ ss.length ∧ ss.length ≤ 16 ∧ 1 ≤ kernels.length ∧ kernels.length ≤ 256 ∧
      ngot ≤ 512 ∧ fld h 128 32 ≤ f.length ∧ (ss.all fun k => !k.has || decide (k.file + k.size ≤ f.length)) ∧ ss.all (imageOk f) ∧
      (placed.all fun k => decide (k.img + k.size ≤ fld h 352 32)) ∧ disjoint placed ∧ slots.length = ngot ∧
      (ngot = 0 ∨ ss.any fun k => k.kind == 7 && decide (k.img ≤ got ∧ got + 8 * ngot ≤ k.img + k.size)) then
    some ⟨ss, syms, rels, kernels, slots, got, fld h 352 32⟩
  else none

/-! Relocation (R434, R438) -/

/-- S of a symbol. -/
def Carcon.symbol (p : Carcon) (base i : Nat) : Nat :=
  match p.syms[i]? with
  | some y => if y.sect = 255 then y.value else base + y.value
  | none => 0
/-- Bits [lo + w - 1 : lo] of x replaced. -/
def setFld (x lo w v : Nat) : Nat := x - fld x lo w * 2 ^ lo + v % 2 ^ w * 2 ^ lo
/-- The loaded bytes of a section so far: image offset, kind, bytes. -/
abbrev Loaded := List (Nat × Nat × List (BitVec 8))
def Loaded.word (m : Loaded) (kinds : List Nat) (place w : Nat) : Option Nat :=
  (m.find? fun k => kinds.contains k.2.1 && decide (k.1 ≤ place ∧ place + w ≤ k.1 + k.2.2.length)).map fun k => byteAt k.2.2 (place - k.1) w
def Loaded.patch (m : Loaded) (place : Nat) (bs : List (BitVec 8)) : Loaded :=
  m.map fun k => if k.1 ≤ place ∧ place + bs.length ≤ k.1 + k.2.2.length then
    (k.1, k.2.1, k.2.2.take (place - k.1) ++ bs ++ k.2.2.drop (place - k.1 + bs.length)) else k
/-- %hi20 and %lo12 (R99). -/
def hi20 (x : Int) : Nat := ((x + 0x800) / 4096 % 2 ^ 20).toNat
def lo12 (x : Int) : Nat := (x % 4096).toNat
/-- A relocation: its bytes, or the result code that rejects the load. DEDUCED (log 28). -/
def Carcon.relocate (p : Carcon) (m : Loaded) (base : Nat) (r : Reloc) : Except Nat (List (BitVec 8)) :=
  let w := if r.type = 1 then 8 else 4
  match m.word (if r.type = 1 ∨ r.type = 5 then [1, 2, 5, 6] else [1]) r.place w with
  | none => .error 5
  | some old =>
    let op := old / 2 ^ 26
    let x : Int := p.symbol base r.sym + r.addend
    if r.place % w ≠ 0 ∨ (r.type = 2 ∧ op ≠ 42) ∨ (r.type = 3 ∧ (op < 34 ∨ 41 < op)) ∨ (r.type = 4 ∧ (op ≠ 7 ∨ r.addend ≠ 0)) then .error 5
    else match r.type with
      | 1 => .ok (bytesLE 8 (x % 2 ^ 64).toNat)
      | 2 => if x < -(2 ^ 31) - 2048 ∨ 2 ^ 31 - 2049 < x then .error 4 else .ok (bytesLE 4 (setFld old 0 20 (hi20 x)))
      | 3 => .ok (bytesLE 4 (setFld old 2 12 (lo12 x)))
      | 4 =>
        let j := p.slots.idxOf r.sym
        if 511 < j then .error 4 else .ok (bytesLE 4 (setFld old 0 10 j))
      | _ => if x < 0 ∨ 2 ^ 32 ≤ x then .error 4 else .ok (bytesLE 4 x.toNat)
/-- Every relocated field in table order, or the code and index of the first that fails. DEDUCED (log 28). -/
def Carcon.relocateAll (p : Carcon) (base : Nat) : Loaded → Nat → List Reloc → Except (Nat × Nat) (List (Nat × List (BitVec 8)))
  | _, _, [] => .ok []
  | m, i, r :: rs =>
    match p.relocate m base r with
    | .error c => .error (c, i)
    | .ok bs =>
      match p.relocateAll base (m.patch r.place bs) (i + 1) rs with
      | .ok l => .ok ((r.place, bs) :: l)
      | e => e
def Carcon.loaded (p : Carcon) (f : File) : Loaded := (p.sects.filter (·.has)).map fun k => (k.img, k.kind, (f.drop k.file).take k.size)
/-- Bytes of the load record. -/
def Carcon.recordSize (p : Carcon) : Nat := 64 * (1 + p.kernels.length) + 16 * (p.kernels.map (·.bufs.length)).sum
/-- The checks of R438 in order: the relocated fields, or the code and index of the status. DEDUCED (log 28). -/
def File.check (f : File) (base rlen lcap : Nat) : Except (Nat × Nat) (Carcon × List (Nat × List (BitVec 8))) :=
  match f.parse with
  | none => .error (1, 0)
  | some p =>
    if base % 65536 ≠ 0 ∨ 2 ^ 56 ≤ base ∨ rlen < p.span ∨ lcap < p.recordSize then .error (2, 0)
    else match p.syms.findIdx? (·.sect == 0) with
      | some i => .error (3, i)
      | none => match p.relocateAll base (p.loaded f) 0 p.rels with
        | .ok l => .ok (p, l)
        | .error e => .error e

/-! Writing (R439, R440) -/

/-- The core-record stride (R429). -/
def KernelEntry.stride (k : KernelEntry) : Nat :=
  (0x250000 + (k.bufs.map fun b => (fld b 64 64 + 127) / 128 * 128).sum + 65535) / 65536 * 65536
def KernelEntry.image (k : KernelEntry) (base first : Nat) : List (BitVec 8) :=
  let at_ (o : Nat) : Nat := if o = noEntry then 2 ^ 64 - 1 else base + o
  bytesLE 64 (at_ (fld k.word 224 32) * 2 ^ 448 + at_ (fld k.word 192 32) * 2 ^ 384 + at_ (fld k.word 160 32) * 2 ^ 320 + k.stride * 2 ^ 256 +
    fld k.word 96 64 * 2 ^ 192 + first * 2 ^ 160 + k.bufs.length * 2 ^ 144)
/-- The kernel records and extents behind the header. -/
def Carcon.recordBody (p : Carcon) (base : Nat) : List (BitVec 8) :=
  (p.kernels.foldl (fun (a : List (BitVec 8) × Nat) k => (a.1 ++ k.image base a.2, a.2 + k.bufs.length)) ([], 0)).1 ++
    p.kernels.flatMap fun k => k.bufs.flatMap (bytesLE 16)
def Carcon.recordHeader (p : Carcon) (base image : Nat) : List (BitVec 8) :=
  let front := match p.sects.find? (·.kind == 3) with
    | some k => (image + k.file, k.size / 8)
    | none => (0, 0)
  bytesLE 64 (base * 2 ^ 448 + (base + p.got) * 2 ^ 384 + front.1 * 2 ^ 320 + p.kernels.length * 2 ^ 288 + (p.kernels.map (·.bufs.length)).sum * 2 ^ 256 +
    front.2 * 2 ^ 224 + 1)
/-- What a load writes after it has made the old record invalid: sections, GOT, relocated fields, the record with its header last.
DEDUCED (log 28). -/
def Carcon.writes (p : Carcon) (f : File) (fields : List (Nat × List (BitVec 8))) (base image lrec : Nat) : List (Nat × List (BitVec 8)) :=
  ((p.sects.filter (·.kind != 3)).map fun k => (base + k.img, if k.has then (f.drop k.file).take k.size else List.replicate k.size 0)) ++
    (p.slots.zipIdx.map fun (y, j) => (base + p.got + 8 * j, bytesLE 8 (p.symbol base y))) ++ fields.map (fun (o, bs) => (base + o, bs)) ++
    [(lrec + 64, p.recordBody base), (lrec, p.recordHeader base image)]
/-- Writes in order; `round` tells one from another of the same bytes. -/
def State.loadWrites (s : State) (who : AwayFor) (asn : BitVec 12) (round : Nat) : List (Nat × List (BitVec 8)) → Glb × State
  | [] => (.ok [], s)
  | (a, bs) :: ws =>
    match s.usherWrite who asn a bs round with
    | (.ok _, s) => s.loadWrites who asn (round + 1) ws
    | r => r
/-- DEDUCED (log 28). -/
def loadCode (c : Cause) : Nat := if c = .translation then 6 else 7
/-- The status word, last (R439); the entry is over once it is written (R437). -/
def State.loadStatus (s : State) (who : AwayFor) (unit : Nat) (asn : BitVec 12) (e : BitVec 512) (code index : Nat) (k : State → Served) : Served :=
  s.usherPost who asn (e.extractLsb' 96 64).toNat (bytesLE 8 (code * 2 ^ 56 + index % 2 ^ 32)) unit k
/-- A LOAD entry of a queue (R437-R439); an access to the object or to what is loaded that fails is logged (R486). DEDUCED (log 26). -/
def State.loadEntry (s : State) (who : AwayFor) (unit : Nat) (asn : BitVec 12) (e : BitVec 512) (k : State → Served) : Served :=
  let f (lo w : Nat) : Nat := (e.extractLsb' lo w).toNat
  let status (s : State) (code index : Nat) : Served := s.loadStatus who unit asn e code index k
  let failed (s t : State) (c : Cause) : Served := status (s.usherFails t unit) (loadCode c) 0
  match s.usherRead who asn (f 448 64) (f 384 64) with
  | (.waits, t) => .waits t
  | (.fault c _, t) => failed s t c
  | (.ok file, s) =>
    match File.check file (f 320 64) (f 256 64) (f 160 32) with
    | .error (c, i) => status s c i
    | .ok (p, fields) =>
      match s.usherRead who asn (f 192 64) 1 with
      | (.waits, t) => .waits t
      | (.fault c _, t) => failed s t c
      | (.ok b, s) =>
        match s.loadWrites who asn 0 ((f 192 64, bytesLE 1 (natLE b / 2 * 2)) :: p.writes file fields (f 320 64) (f 448 64) (f 192 64)) with
        | (.waits, t) => .waits t
        | (.fault c _, t) => failed s t c
        | (.ok _, t) => status t 0 0

end Sys2Proof.Machine
end

