-- ==== Sys2Proof/Machine/Usher.lean ====
section
/-!
DEFINITION. The usher (R412-R431, R486, R487): its configuration, queues, nodes and jobs; teams on cores, their displacement, saves and
faults; the stop and the retirement of a core (R38, R46, R481).
-/
namespace Sys2Proof.Machine

def State.modUsher (s : State) (f : Usher → Usher) : State := { s with usher := f s.usher }
/-- A message of a vector is sent, or kept pending while the vector is masked (R472, log 30). PRESUMED (log 30). -/
def HostPort.raise (h : HostPort) (v : Nat) : HostPort :=
  if hv : v < 256 then
    let e := h.table[v]
    if e.getLsbD 96 then { h with pending := h.pending ||| (1#256 <<< v) }
    else { h with messages := h.messages ++ [(⟨v, hv⟩, e.extractLsb' 0 64, e.extractLsb' 64 32)] }
  else h
def State.modHost (s : State) (f : HostPort → HostPort) : State := { s with host := f s.host }
/-- A host access that cannot act yet waits behind those received before it, with WINCTL as it was received (R160, R470). -/
def State.hostWaits (s : State) (i : Input) : State :=
  s.modHost fun h => { h with queue := h.queue ++ [(h.window.getD h.winctl, i)] }
/-- PRESUMED (log 30). -/
def State.raiseVector (s : State) (v : Nat) : State := { s with host := s.host.raise v }

/-! Configuration (R412, R441, R487) -/

/-- Bytes of a block replaced. -/
def stageBytes (b : BitVec 512) (off : Nat) (bs : List (BitVec 8)) : BitVec 512 :=
  let old := bytesLE 64 b.toNat
  BitVec.ofNat 512 (natLE (old.take off ++ bs ++ old.drop (off + bs.length)))
/-- Bits of a block that are not reserved (R412, R441): the others stay 0. -/
def usherBits : BitVec 512 := BitVec.allOnes 112 ++ 0#399 ++ 1#1
def fabricBits : BitVec 512 := BitVec.allOnes 52 ++ 0#12 ++ BitVec.allOnes 144 ++ 0#303 ++ 1#1
def Usher.stage (u : Usher) (off : Nat) (bs : List (BitVec 8)) : Usher := { u with staged := stageBytes u.staged off bs &&& usherBits }
def FabricConfig.stage (k : FabricConfig) (off : Nat) (bs : List (BitVec 8)) : FabricConfig :=
  { k with staged := stageBytes k.staged off bs &&& fabricBits }
/-- A register access of 4 or 8 aligned bytes (R469). -/
def accessOk (off n : Nat) : Bool := (n == 4 || n == 8) && off % n == 0
def Usher.commit (u : Usher) : Usher :=
  let q := (u.staged.extractLsb' 416 32).toNat
  { u with
    qtbase := u.staged.extractLsb' 448 64, quantum := if 100 ≤ q ∧ q ≤ 1000000 then q else 2000
    age := (u.staged.extractLsb' 400 16).toNat, enable := u.staged.getLsbD 0 }
def FabricConfig.commit (k : FabricConfig) : FabricConfig :=
  { k with
    atbase := (k.staged.extractLsb' 460 52).toNat, budget := Vec.ofFn fun j => (k.staged.extractLsb' (320 + 16 * j.val) 16).toNat
    rsleep := (k.staged.extractLsb' 304 16).toNat, xlat := k.staged.getLsbD 0 }
def execUsherConfigCommit (off : Fin 8) (bytes : List (BitVec 8)) (s : State) : Result :=
  .next (if accessOk off.val bytes.length then s.modUsher fun u => (u.stage off.val bytes).commit
  else { s with host := { s.host with replies := s.host.replies ++ [none] } })
def execFabricConfigCommit (off : Fin 8) (bytes : List (BitVec 8)) (s : State) : Result :=
  .next (if accessOk off.val bytes.length then { s with fabcfg := (s.fabcfg.stage off.val bytes).commit }
  else { s with host := { s.host with replies := s.host.replies ++ [none] } })

/-! Queue descriptors (R413) -/

abbrev Desc := BitVec 512
def Desc.ring (d : Desc) : Nat := (d.extractLsb' 448 64).toNat
def Desc.frec (d : Desc) : Nat := (d.extractLsb' 384 64).toNat
def Desc.vector (d : Desc) : Nat := (d.extractLsb' 368 16).toNat
def Desc.asn (d : Desc) : BitVec 12 := d.extractLsb' 356 12
def Desc.size (d : Desc) : Nat := (d.extractLsb' 352 4).toNat
def Desc.prio (d : Desc) : Nat := (d.extractLsb' 350 2).toNat
def Desc.priv (d : Desc) : Bool := d.getLsbD 349
def Desc.state (d : Desc) : Nat := (d.extractLsb' 344 2).toNat
def Desc.head (d : Desc) : BitVec 32 := d.extractLsb' 32 32
def Desc.tail (d : Desc) : BitVec 32 := d.extractLsb' 0 32
def Desc.sizeOk (d : Desc) : Bool := decide (4 ≤ d.size)
def Desc.active (d : Desc) : Bool := d.sizeOk && d.state == 1
/-- (tail − head) mod 2^32. -/
def Desc.count (d : Desc) : Nat := (d.tail - d.head).toNat
/-- DEDUCED (log 25). -/
def State.desc (s : State) (q : QueueId) : Desc := s.usher.desc[q]
def State.setDesc (s : State) (q : QueueId) (d : Desc) : State := s.modUsher fun u => { u with desc := u.desc.set q d }
def State.descAddr (s : State) (q : QueueId) : Nat := s.usher.qtbase.toNat + 64 * q.val
/-- The queue holds entries; a head beyond tail waits for tail (R418). -/
def State.holdsEntries (s : State) (q : QueueId) : Bool :=
  let d := s.desc q
  d.active && d.count != 0 && !(s.usher.ahead[q] && decide (2 ^ 31 ≤ d.count))
/-- Bytes of a descriptor written (R413); what is being read of it is read again. -/
def State.writeDesc (s : State) (who : AwayFor) (q : QueueId) (off : Nat) (bs : List (BitVec 8)) (k : State → Served) : Served :=
  s.usherPost who 0 (s.descAddr q + off) bs q.val fun s =>
    k (((s.forgetAways (whoDesc q)).forgetAways (whoExam q)).setDesc q (stageBytes (s.desc q) off bs))
/-- A queue is ready or not; one whose entry is being processed stays until that is done. -/
def State.setReady (s : State) (q : QueueId) (ready : Bool) : State :=
  if s.usher.serving = some q then s
  else s.modUsher fun u => { u with
    readySince := u.readySince.set q (if ready then some (u.readySince[q].getD s.cycle) else none)
    aged := u.aged.set q (if ready then u.aged[q] else 0) }
/-- The effective priority number (R420). -/
def State.effPrio (s : State) (q : QueueId) : Nat := (s.desc q).prio - s.usher.aged[q]

/-! Freezing (R430, R431) -/

/-- The fault record. -/
def faultRecord (code : Nat) (entry : BitVec 512) (index : BitVec 32) (f : Option (Team × CoreId × TeamFault)) : List (BitVec 8) :=
  let w (o : Option Nat) : BitVec 64 := BitVec.ofNat 64 (o.getD 0)
  let rec_ : BitVec 1024 := entry ++ w (f.map fun x => x.1.area) ++ w (f.bind fun x => x.2.2.handled.map (·.2.toNat)) ++
    w (f.bind fun x => x.2.2.handled.map (·.1.toNat)) ++ w (f.map fun x => x.2.2.baddr.toNat) ++ w (f.map fun x => x.2.2.taddr.toNat) ++ index ++
    (match f with | some x => x.1.teamId | none => 0#32) ++ BitVec.ofNat 8 (match f with | some x => x.2.1.val | none => 255) ++ 0#112 ++ BitVec.ofNat 8 code
  bytesLE 128 rec_.toNat
/-- The queue is frozen: state 2, the record, then the vector. DEDUCED (log 25). -/
def State.freeze (s : State) (who : AwayFor) (q : QueueId) (code : Nat) (entry : BitVec 512) (index : BitVec 32)
    (f : Option (Team × CoreId × TeamFault)) (k : State → Served) : Served :=
  let d := s.desc q
  s.writeDesc who q 43 [(d.extractLsb' 344 8 &&& 0xFC#8) ||| 2#8] fun s =>
    s.usherPost who d.asn d.frec (faultRecord code entry index f) q.val fun s => k ((s.setReady q false).raiseVector d.vector)
def badEntry : Nat := 0x80
def placementCause : Nat := 0x81
def tailCause : Nat := 0x82
def nodeTranslation : Nat := 0x83

/-! Examining a queue (R414, R417, R419) -/

/-- The head entry's 64 bytes. -/
def State.entryAt (s : State) (who : AwayFor) (q : QueueId) : Glb × State :=
  let d := s.desc q
  s.usherRead who d.asn (d.ring + 64 * (d.head.toNat % 2 ^ d.size)) 64
def entryKind (e : BitVec 512) : Nat := (e.extractLsb' 0 8).toNat
/-- Every earlier job of the queue has completed. DEDUCED (log 25). -/
def State.jobsDone (s : State) (q : QueueId) : Bool := s.usher.jobs.all (·.queue != q)
/-- A WAIT entry whose fields are in order. -/
def waitOk (e : BitVec 512) : Bool := e.extractLsb' 8 376 == 0#376 && e.extractLsb' 448 3 == 0#3
/-- A word of a node. -/
def State.nodeWord (s : State) (who : AwayFor) (q : QueueId) (a : BitVec 64) : Glb × State := s.usherRead who (s.desc q).asn a.toNat 8
/-- The examination of a queue is over (R419). -/
def State.examined (s : State) (q : QueueId) (ready : Bool) (retest : Option Nat := none) : Served :=
  .done ((((s.forgetAways (whoDesc q)).forgetAways (whoExam q)).setReady q ready).modUsher fun u => { u with
    examined := u.examined.set q true, retest := u.retest.set q retest })
/-- The head entry's condition. An unmet WAIT is tested again within 1 600 cycles. A queue whose memory has not answered stays as it is. -/
def State.testHead (s : State) (q : QueueId) : Served :=
  if s.holdsEntries q = false then s.examined q false
  else match s.entryAt (whoExam q) q with
    | (.waits, t) => .waits t
    | (.fault .., t) => (s.keepAways t).examined q true
    | (.ok bs, t) =>
      let e := BitVec.ofNat 512 (natLE bs)
      if entryKind e = 2 ∧ waitOk e then
        match t.nodeWord (whoExam q) q (e.extractLsb' 448 64) with
        | (.waits, u) => .waits u
        | (.fault .., u) => (t.keepAways u).examined q true
        | (.ok w, u) =>
          if (e.extractLsb' 384 64).toNat ≤ natLE w then u.examined q true
          else
            let n := u.nextFree
            n.2.examined q false (some (s.cycle + 1 + Config.usherWait n.1 % 1600))
      else if (entryKind e = 1 ∧ e.getLsbD 11) ∨ (3 ≤ entryKind e ∧ entryKind e ≤ 6) then t.examined q (s.jobsDone q)
      else t.examined q true
/-- The queue's descriptor is read; one that cannot be read disables the queue (R486). DEDUCED (log 25). -/
def State.readDesc (s : State) (who : AwayFor) (q : QueueId) (k : State → Served) : Served :=
  match s.usherRead who 0 (s.descAddr q) 64 with
  | (.ok bs, t) => k (t.setDesc q (BitVec.ofNat 512 (natLE bs)))
  | (.fault .., t) => k ((s.usherFails t q.val).setDesc q 0)
  | (.waits, t) => .waits t
/-- The queue is examined: its descriptor, then its head entry. DEDUCED (log 25). -/
def State.examine (s : State) (q : QueueId) : State := s.serve1 (s.readDesc (whoDesc q) q (·.testHead q))
def allQueues : List QueueId := List.finRange 64
/-- The ready queue of the lowest level, cyclically after the one last served there (R419). DEDUCED (log 25). -/
def State.chosen (s : State) : Option QueueId :=
  (allQueues.filter fun q => s.usher.readySince[q].isSome).foldl (fun best q =>
    let key (q : QueueId) : Nat := 64 * s.effPrio q + (q.val + 127 - s.usher.served[Fin.ofNat 4 (s.effPrio q)].val) % 64
    match best with
    | some p => if key q < key p then some q else best
    | none => some q) none
/-- The decision falls on a queue: its level is what it is now, and serving it sets its ageing to 0 (R419, R420). -/
def State.beginServing (s : State) (q : QueueId) : State :=
  s.modUsher fun u => { u with serving := some q, level := s.effPrio q, aged := u.aged.set q 0 }
/-- The level at which a queue is served. -/
def State.levelOf (s : State) (q : QueueId) : Nat := if s.usher.serving = some q then s.usher.level else s.effPrio q
/-- The queue is served: the level that it was served at remembers it, and its ageing starts again. -/
def State.markServed (s : State) (q : QueueId) (level : Nat) : State :=
  let n := s.nextFree
  (n.2.forgetAways (whoHead q)).modUsher fun u => { u with
    served := u.served.set (Fin.ofNat 4 level) q, readySince := u.readySince.set q none, aged := u.aged.set q 0, serving := none
    retest := u.retest.set q none, examined := Vector.replicate 64 false, busyUntil := s.cycle + 1 + Config.usherWait n.1 }
/-- Head moves to a new count. DEDUCED (log 26). -/
def State.moveHead (s : State) (q : QueueId) (head : BitVec 32) (k : State → Served) : Served :=
  s.writeDesc (whoHead q) q 4 (bytesLE 4 head.toNat) k
def State.advance (s : State) (q : QueueId) : Served := s.moveHead q ((s.desc q).head + 1) .done
/-- Head jumps forward; beyond tail it waits for tail. DEDUCED (log 25, 26). -/
def State.jump (s : State) (q : QueueId) (n : Nat) : Served :=
  let d := s.desc q
  s.moveHead q (d.head + BitVec.ofNat 32 n) fun s => .done (s.modUsher fun u => { u with ahead := u.ahead.set q (decide (d.count < n)) })
def State.reject (s : State) (q : QueueId) (code : Nat) (e : BitVec 512) : Served := s.freeze (whoHead q) q code e (s.desc q).head none .done
/-- A queue's head entry is processed: one of the kinds named, by `act`. -/
def State.processHead (s : State) (q : QueueId) (kinds : Nat → Bool) (act : State → BitVec 512 → Served) : State :=
  let served (r : Served) : State := match r with
    | .done t => t.markServed q (s.levelOf q)
    | .waits t => s.keepAways t
  if s.usher.readySince[q].isNone ∨ s.usher.enable = false then s
  else match s.entryAt (whoHead q) q with
    | (.waits, t) => s.keepAways t
    | (.fault .., t) => if kinds 0 then served ((s.usherFails t q.val).reject q nodeTranslation 0) else s
    | (.ok bs, t) =>
      let e := BitVec.ofNat 512 (natLE bs)
      if kinds (entryKind e) then served (act t e) else s
/-- A word of a node is read; a failure freezes the queue (R418, R486). -/
def State.withWord (s : State) (q : QueueId) (e : BitVec 512) (a : BitVec 64) (k : Nat → State → Served) : Served :=
  match s.nodeWord (whoHead q) q a with
  | (.waits, t) => .waits t
  | (.fault .., t) => (s.usherFails t q.val).reject q nodeTranslation e
  | (.ok w, t) => k (natLE w) t
/-- A word of a node is written. -/
def State.writeWord (s : State) (q : QueueId) (e : BitVec 512) (a v : BitVec 64) (k : State → Served) : Served :=
  match s.usherWrite (whoHead q) (s.desc q).asn a.toNat (bytesLE 8 v.toNat) with
  | (.waits, t) => .waits t
  | (.fault .., t) => (s.usherFails t q.val).reject q nodeTranslation e
  | (.ok _, t) => k t

/-! Nodes (R417, R418, R437) -/

/-- DEDUCED (log 26). -/
def execWait (q : QueueId) (s : State) : Result :=
  .next (s.processHead q (· == 2) fun s e =>
    if waitOk e = false then s.reject q badEntry e
    else s.withWord q e (e.extractLsb' 448 64) fun _ s => s.advance q)
/-- The head WAIT entry's test at its interval. -/
def execWaitRetest (q : QueueId) (s : State) : Result :=
  .next (if s.usher.enable ∧ s.usher.retest[q].any (· ≤ s.cycle) then s.examine q else s)
def execSignal (q : QueueId) (s : State) : Result :=
  .next (s.processHead q (· == 3) fun s e =>
    if waitOk e = false then s.reject q badEntry e
    else s.writeWord q e (e.extractLsb' 448 64) (e.extractLsb' 384 64) fun s => s.advance q)
/-- A privileged node on a privileged queue, its fields in order. -/
def State.privileged (s : State) (q : QueueId) (e : BitVec 512) (ok : Bool) (k : Served) : Served :=
  if (s.desc q).priv = false ∨ ok = false then s.reject q badEntry e else k
def condHolds (test w v : Nat) : Bool :=
  match test with
  | 0 => w == v
  | 1 => w != v
  | 2 => decide (w < v)
  | _ => decide (v ≤ w)
/-- DEDUCED (log 26). -/
def execCond (q : QueueId) (s : State) : Result :=
  .next (s.processHead q (· == 4) fun s e =>
    s.privileged q e (e.extractLsb' 8 356 == 0#356 && e.extractLsb' 448 3 == 0#3 && decide ((e.extractLsb' 364 4).toNat < 4))
      (s.withWord q e (e.extractLsb' 448 64) fun w s =>
        s.jump q (if condHolds (e.extractLsb' 364 4).toNat w (e.extractLsb' 384 64).toNat then 1 else 1 + (e.extractLsb' 368 16).toNat)))
/-- The counter of a LOOP read and decremented in one atomic access; a failure freezes the queue (R418, R486). -/
def State.decrementWord (s : State) (q : QueueId) (e : BitVec 512) (a : BitVec 64) (k : Nat → State → Served) : Served :=
  if 2 ^ 56 ≤ a.toNat then (s.usherFails s q.val).reject q nodeTranslation e
  else match s.glbDecrement (whoHead q) (s.desc q).asn (a.extractLsb' 0 56) with
    | (.waits, t) => .waits t
    | (.fault .., t) => (s.usherFails t q.val).reject q nodeTranslation e
    | (.ok w, t) => k (natLE w) t
/-- DEDUCED (log 26). -/
def execLoopNode (q : QueueId) (s : State) : Result :=
  .next (s.processHead q (· == 5) fun s e =>
    let back := (e.extractLsb' 368 16).toNat
    let a := e.extractLsb' 448 64
    s.privileged q e (e.extractLsb' 8 360 == 0#360 && e.extractLsb' 384 64 == 0#64 && a.extractLsb' 0 3 == 0#3 &&
        decide (1 ≤ back ∧ back < 2 ^ (s.desc q).size))
      (s.decrementWord q e a fun w s => if w = 0 then s.advance q else s.moveHead q ((s.desc q).head - BitVec.ofNat 32 back) .done))
/-- The offset of case i of a SWITCH. -/
def switchCase (e : BitVec 512) (i : Nat) : Nat := (e.extractLsb' (192 + 16 * i) 16).toNat
/-- DEDUCED (log 26). -/
def execSwitch (q : QueueId) (s : State) : Result :=
  .next (s.processHead q (· == 6) fun s e =>
    let n := (e.extractLsb' 440 8).toNat
    let other := (e.extractLsb' 424 16).toNat
    s.privileged q e (e.extractLsb' 8 184 == 0#184 && e.extractLsb' 384 40 == 0#40 && e.extractLsb' 448 3 == 0#3 &&
        decide (1 ≤ n ∧ n ≤ 12 ∧ other ≠ 0) && (List.range n).all fun i => switchCase e i != 0)
      (s.withWord q e (e.extractLsb' 448 64) fun w s => s.jump q (if w < n then switchCase e w else other)))
/-- DEDUCED (log 26). -/
def execLoad (q : QueueId) (s : State) : Result :=
  .next (s.processHead q (· == 7) fun s e =>
    if e.extractLsb' 8 88 ≠ 0#88 ∨ e.extractLsb' 192 6 ≠ 0#6 then s.reject q badEntry e
    else s.loadEntry (whoHead q) q.val (s.desc q).asn e (·.advance q))
/-- The tail is stored, and one beyond the ring freezes the queue, once the entry that is being processed is done (R413). -/
def State.storeTail (s : State) (q : QueueId) (value : BitVec 32) : Served :=
  s.readDesc (whoTail q) q fun s =>
    s.writeDesc (whoTail q) q 0 (bytesLE 4 value.toNat) fun s =>
      let d := s.desc q
      let ahead := s.usher.ahead[q] && decide (2 ^ 31 ≤ d.count)
      let s := s.modUsher fun u => { u with ahead := u.ahead.set q ahead, examined := u.examined.set q false }
      if d.sizeOk ∧ d.state ≠ 2 ∧ 2 ^ d.size < d.count ∧ ahead = false then
        if s.usher.serving = some q then .waits s else s.freeze (whoTail q) q tailCause 0 d.head none .done
      else .done s
/-- R471, R413, R160: the tail is stored and the queue examined, after every host access received before; until memory has answered the write stands
first in the host port. -/
def execTailRegisterWrite (q : QueueId) (value : BitVec 32) (s : State) : Result :=
  .next (if s.host.queue ≠ [] then s.hostWaits (.event (.tailRegisterWrite q value))
  else match s.storeTail q value with
    | .waits t => (s.keepAways t).hostWaits (.event (.tailRegisterWrite q value))
    | .done t => (t.forgetAways (whoTail q)).examine q)
/-- A whole age period has passed (R420): 1 ms is 1 600 000 cycles. -/
def State.agesNow (s : State) (q : QueueId) : Bool :=
  match s.usher.readySince[q] with
  | some r => s.usher.serving != some q && s.usher.age != 0 && decide (r + (s.usher.aged[q] + 1) * s.usher.age * 1600000 ≤ s.cycle)
  | none => false
def execAgeing (q : QueueId) (s : State) : Result :=
  .next (if s.agesNow q then s.modUsher fun u => { u with aged := u.aged.set q (u.aged[q] + 1) } else s)

/-! Placement (R421) -/

/-- The core belongs to no team that holds cores, and is neither retired nor marked. -/
def State.coreFree (s : State) (c : CoreId) : Bool :=
  !s.cores[c].retired && !s.cores[c].retiring && s.usher.teams.all fun x => !x.cores.contains c
/-- DEDUCED (log 27). -/
def rectCores (w h x0 y0 : Nat) : List CoreId := (List.range h).flatMap fun j => (List.range w).map fun i => coreAt (x0 + i) (y0 + j)
/-- The cores that a team takes among the free ones, and the origin of its rectangle. -/
def Kernel.fit (k : Kernel) (hops : Option (List Nat)) (free : CoreId → Bool) : Option (List CoreId × Option (Nat × Nat)) :=
  match k.rect with
  | some (w, h) =>
    let origins := match k.origin with
      | some o => [o]
      | none => (List.range (9 - h)).flatMap fun y => (List.range (17 - w)).map fun x => (x, y)
    (origins.find? fun (x, y) => decide (x + w ≤ 16 ∧ y + h ≤ 8) && (rectCores w h x y).all free &&
      (k.origin.isSome || hops.all (· == hopPattern w h x y))).map fun (x, y) => (rectCores w h x y, some (x, y))
  | none =>
    let on (d : Fin 8) : List CoreId := (List.finRange 128).filter fun c => dieOf c == d && free c
    match (List.finRange 8).find? fun d => decide (k.cores ≤ (on d).length) with
    | some d => some ((on d).take k.cores, none)
    | none =>
      let all := (List.finRange 128).filter free
      if k.cores ≤ all.length then some (all.take k.cores, none) else none
def Team.fit (x : Team) (free : CoreId → Bool) : Option (List CoreId × Option (Nat × Nat)) := x.kernel.fit x.hops free

/-! LAUNCH (R415, R416) -/

def entryOrNone (v : BitVec 64) : Option VA := if v = BitVec.allOnes 64 then none else some (v.extractLsb' 0 56)
/-- A kernel from its record, the header of the load record and its extents (R440, R435). -/
def kernelOf (h r : BitVec 512) (extents : List Nat) : Kernel :=
  let kb : BitVec 64 := r.extractLsb' 192 64
  let f (lo w : Nat) : Nat := (kb.extractLsb' lo w).toNat
  { centry := r.extractLsb' 448 56, bentry := entryOrNone (r.extractLsb' 384 64), handler := entryOrNone (r.extractLsb' 320 64)
    stride := (r.extractLsb' 256 64).toNat, landMax := if f 48 16 = 0 then 65535 else kb.extractLsb' 48 16, cores := f 41 7 + 1
    rect := if f 40 1 = 1 then some (f 35 4 + 1, f 32 3 + 1) else none, origin := if f 39 1 = 1 then some (f 28 4, f 25 3) else none
    extents := extents.filterMap fun x => (Space.ofCode (fld x 60 4)).map fun sp => ⟨sp, fld x 0 60, fld x 64 64⟩
    got := h.extractLsb' 384 64, image := h.extractLsb' 320 56, imageLen := (h.extractLsb' 224 32).toNat }
/-- The next job tag, skipping those of jobs that have not ended. DEDUCED (log 25). -/
def freeTag (used : List (BitVec 16)) (t : BitVec 16) : Nat → BitVec 16
  | 0 => t
  | n + 1 => if used.contains t then freeTag used (t + 1) n else t
/-- The job of a LAUNCH entry with its PENDING teams. -/
def State.createJob (s : State) (q : QueueId) (e : BitVec 512) (k : Kernel) (args : List (BitVec 8)) : State :=
  let d := s.desc q
  let tag := freeTag (s.usher.jobs.map (·.tag)) s.usher.tag 65536
  let n := (e.extractLsb' 208 16).toNat + 1
  let job : Job := { id := s.nextId, queue := q, tag, entry := bytesLE 64 e.toNat, index := d.head, event := e.extractLsb' 448 64
                     evalue := e.extractLsb' 384 64, created := s.cycle, asn := d.asn }
  let team (t : Nat) : Team :=
    { id := s.nextId + 1 + t, job := job.id, t, teamId := BitVec.ofNat 16 t ++ tag, queue := q, asn := d.asn, kernel := k
      args := Vec.ofFn fun i => BitVec.ofNat 64 (byteAt args (8 * i.val) 8), stack := (e.extractLsb' 256 64).toNat
      ssize := (e.extractLsb' 224 32).toNat, save := e.extractLsb' 320 64, nextTask := BitVec.ofNat 32 k.cores, waitsFrom := s.cycle }
  { s with
    nextId := s.nextId + 1 + n
    usher := { s.usher with tag := tag + 1, jobs := s.usher.jobs ++ [job], teams := s.usher.teams ++ (List.range n).map team } }
def State.launchEntry (s : State) (q : QueueId) (e : BitVec 512) : Served :=
  let asn := (s.desc q).asn
  let who := whoHead q
  let lrec := (e.extractLsb' 64 64).toNat
  let kn := (e.extractLsb' 192 16).toNat
  let bad (s : State) : Served := s.reject q badEntry e
  let failed (t : State) : Served := bad (s.usherFails t q.val)
  if e.extractLsb' 12 52 ≠ 0#52 ∨ e.extractLsb' 8 3 ≠ 0#3 ∨ e.extractLsb' 448 3 ≠ 0#3 ∨ e.extractLsb' 320 7 ≠ 0#7 ∨ e.extractLsb' 224 6 ≠ 0#6 then bad s
  else match s.usherRead who asn lrec 64 with
  | (.waits, t) => .waits t
  | (.fault .., t) => failed t
  | (.ok hb, t) =>
    let h := BitVec.ofNat 512 (natLE hb)
    if h.getLsbD 0 = false ∨ (h.extractLsb' 288 32).toNat ≤ kn then bad t
    else match t.usherRead who asn (lrec + 64 + 64 * kn) 64 with
    | (.waits, t) => .waits t
    | (.fault .., t) => failed t
    | (.ok rb, t) =>
      let r := BitVec.ofNat 512 (natLE rb)
      let first := (r.extractLsb' 160 32).toNat
      let count := (r.extractLsb' 144 16).toNat
      match t.usherRead who asn (lrec + 64 + 64 * (h.extractLsb' 288 32).toNat + 16 * first) (16 * count) with
      | (.waits, t) => .waits t
      | (.fault .., t) => failed t
      | (.ok xb, t) =>
        match t.usherRead who asn (e.extractLsb' 128 64).toNat 64 with
        | (.waits, t) => .waits t
        | (.fault .., t) => failed t
        | (.ok args, t) =>
          let k := kernelOf h r ((List.range count).map fun i => byteAt xb (16 * i) 16)
          if (k.fit none fun c => !t.cores[c].retired).isNone then t.reject q placementCause e
          else (t.createJob q e k args).advance q
/-- R416; an entry of no known kind, and one that cannot be read, freeze the queue here. -/
def execLaunch (q : QueueId) (s : State) : Result :=
  .next (s.processHead q (fun k => k == 0 || k == 1 || decide (7 < k)) fun s e => if entryKind e = 1 then s.launchEntry q e else s.reject q badEntry e)

/-! Starting and restoring a team (R424, R25) -/

/-- The front bank of a table image. DEDUCED (log 27). -/
def frontBank (bs : List (BitVec 8)) (n : Nat) : Bank := { (imageBank bs 0 n).1 with refused := false }
/-- A core as the usher leaves it: what belongs to the core itself stays, its caches are empty. -/
def Core.assign (k : Core) (b : Body) (t : Task) (now nextId : Nat) : Core :=
  { k with
    b := b, task := t, snap := none, snapFlip := false, issued := none, posted := 0, postNext := 0, locked := [], chk := b, chkAt := now, chkId := nextId, arrived := [], rerun := none, icache := [], bicache := []
    journal := [], journalNext := 0, copyLog := Vector.replicate 3 [], copyNext := Vector.replicate 3 0 }
/-- The state of an initial task (R25). DEDUCED (log 27). -/
def Team.firstBody (x : Team) (i : Nat) (front : Bank) : Body :=
  let b := ({} : Body).startTask x i x.kernel.centry x.args (BitVec.ofNat 32 i) (Vector.replicate 8 {})
  { b with
    front := front, noHandler := x.kernel.handler.isNone
    sys := { b.sys with
      teamId := x.teamId.zeroExtend 64, teamCores := BitVec.ofNat 64 x.kernel.cores, asn := x.asn, landMax := x.kernel.landMax
      tvec := ((x.kernel.handler.getD 0).zeroExtend 64) &&& ~~~3#64 } }
def Team.seat (x : Team) (s : State) (cs : List CoreId) (o : Option (Nat × Nat)) : Team :=
  { x with
    state := .resident, cores := cs, origin := o, residentAt := s.cycle, quantumOver := false, start := none, broken := none
    hops := x.hops.or (match x.kernel.rect, o with
      | some (w, h), some (x0, y0) => some (hopPattern w h x0 y0)
      | _, _ => none) }
/-- A PENDING team starts, once its table image has been read. -/
def State.startTeam (s : State) (x : Team) (cs : List CoreId) (o : Option (Nat × Nat)) : State :=
  let n := if x.kernel.image = 0 then 0 else x.kernel.imageLen
  let go (s : State) (front : Bank) : State :=
    let s := s.modTeam x.id fun x => x.seat s cs o
    let ids := cs.zipIdx
    { s with
      nextId := s.nextId + cs.length
      nodes := s.nodes ++ ids.map fun (_, i) => { id := s.nextId + i, team := x.id, index := Fin.ofNat 128 i, parent := none }
      cores := ids.foldl (fun v (c, i) => Vec.modify v c fun k =>
        k.assign (x.firstBody i front)
          { state := some .running, team := some x.id, index := Fin.ofNat 128 i, node := some (s.nextId + i), startAt := s.cycle + 1 }
          s.cycle (s.nextId + cs.length)) s.cores }
  match s.usherRead (whoTeam x.id) x.asn x.kernel.image.toNat (8 * n) with
  | (.waits, t) => s.keepAways t
  | (.fault .., t) => go ((s.usherFails t x.queue.val).forgetAways (whoTeam x.id)) {}
  | (.ok bs, t) => go (t.forgetAways (whoTeam x.id)) (frontBank bs n)
/-- The core of a restored team, by what its record holds; one whose record cannot be read goes on as it was kept. -/
def Core.restored (k : Core) (x : Team) (bs : Option (List (BitVec 8))) (flip : BitVec 64) (now : Nat) : Body :=
  let b := match bs with
    | some r => (k.b.readBack r now).readSpaces x.kernel.extents fun (e, o) => (r.drop o).take e.len
    | none => k.b.readSpaces x.kernel.extents fun (e, _) => k.b.read e.space e.off e.len
  let b := b.goOn now
  { b with sys := { b.sys with
      asn := x.asn, landMax := x.kernel.landMax, flipAt := if flip = 0 then b.sys.flipAt else BitVec.ofNat 64 now + flip } }
def Task.resumed (t : Task) (now : Nat) : Task :=
  { t with stopReq := false, stopAfter := 0, halted := false, stopped := false, arrived := false, startAt := now + 1 }
/-- The records of a saved team, in order. -/
def State.readRecords (s : State) (x : Team) : List Nat → List (Option (List (BitVec 8))) → Option (List (Option (List (BitVec 8)))) × State
  | [], acc => (some acc, s)
  | i :: is, acc =>
    match s.usherRead (whoTeam x.id) x.asn (x.record i) x.kernel.stride with
    | (.waits, t) => (none, t)
    | (.fault .., t) => (s.usherFails t x.queue.val).readRecords x is (acc ++ [none])
    | (.ok bs, t) => t.readRecords x is (acc ++ [some bs])
/-- A SAVED team is restored from its header and records (R424). DESIGN CHOICE (log 24). -/
def State.restoreTeam (s : State) (x : Team) (cs : List CoreId) (o : Option (Nat × Nat)) : State :=
  let put (s : State) (header : Option (List (BitVec 8))) (records : List (Option (List (BitVec 8)))) : State :=
    let flip := match header with
      | some h => wordAt h 0x10
      | none => x.flipLeft
    let task (k : Core) (i : Nat) : Task := match header, records.getD i none with
      | some h, some r => k.task.readBack r (headerPiece h i) (headerTemplate h i)
      | _, _ => k.task
    let s := s.modTeam x.id fun x => { x.seat s cs o with
      kept := [], inArea := false, ranges := (header.map headerRanges).getD x.ranges, frozen := (header.map headerFrozen).getD x.frozen }
    let s := { s with cores := (cs.zip x.kept).zipIdx.foldl (fun v ((c, k), i) => Vec.modify v c fun old =>
        old.assign (k.restored x (records.getD i none) flip s.cycle) ((task k i).resumed s.cycle) s.cycle s.nextId) s.cores }
    cs.foldl (fun s c => match (s.body c).pinned with
      | some p => s.pinRegion x.asn p.1 p.2
      | none => s) s
  match s.usherRead (whoTeam x.id) x.asn x.area 0x10000 with
  | (.waits, t) => s.keepAways t
  | (g, t) =>
    let header : Option (List (BitVec 8)) := match g with
      | .ok bs => some bs
      | _ => none
    match (match g with | .ok _ => t | _ => s.usherFails t x.queue.val).readRecords x (List.range x.kernel.cores) [] with
    | (none, u) => s.keepAways u
    | (some rs, u) => put (u.forgetAways (whoTeam x.id)) header rs

/-! Displacement (R422, R423) -/

/-- Cycles of a quantum. -/
def Usher.quantumCycles (u : Usher) : Nat := 1600 * u.quantum
def State.waitingTeams (s : State) : List Team :=
  s.usher.teams.filter fun x => (x.state == .pending || x.state == .saved) && !x.faulting
/-- Since when a job waits: its longest-waiting team. DEDUCED (log 27). -/
def State.jobWaits (s : State) (j : Nat) : Nat := (s.waitingTeams.filter (·.job == j)).foldl (fun m x => min m x.waitsFrom) s.cycle
/-- The order of R423: priority, job, team, index. -/
def State.before (s : State) (x y : Team) : Bool :=
  let k (x : Team) : List Nat := [s.effPrio x.queue, s.jobWaits x.job, x.job, x.waitsFrom, x.t]
  decide (k x < k y)
def insertTeam (lt : Team → Team → Bool) (x : Team) : List Team → List Team
  | [] => [x]
  | y :: ys => if lt x y then x :: y :: ys else y :: insertTeam lt x ys
def sortTeams (lt : Team → Team → Bool) (xs : List Team) : List Team := xs.foldl (fun l x => insertTeam lt x l) []
def State.stoppingCores (s : State) : List CoreId := (s.usher.teams.filter (·.state == .stopping)).flatMap (·.cores)
/-- A core that is free, or is so once its team or one of the cores named has stopped; one marked for retirement is retired then (R481). -/
def State.coreComes (s : State) (cs : List CoreId) (c : CoreId) : Bool :=
  s.coreFree c || ((s.stoppingCores.contains c || cs.contains c) && !s.cores[c].retired && !s.cores[c].retiring)
/-- The first waiting team, in order, that fits on the free cores. Cores that the first team that does not fit would take are kept for it.
DEDUCED (log 27). -/
def State.placeFirst (s : State) (kept : List CoreId) (first : Bool) : List Team → Option (Team × List CoreId × Option (Nat × Nat))
  | [] => none
  | x :: xs =>
    match x.fit fun c => s.coreFree c && !kept.contains c with
    | some (cs, o) => some (x, cs, o)
    | none =>
      let mine := if first then ((x.fit (s.coreComes [])).map (·.1)).getD [] else []
      s.placeFirst (kept ++ mine) false xs
/-- DEDUCED (log 27). -/
def State.placement (s : State) : Option (Team × List CoreId × Option (Nat × Nat)) :=
  if s.newel.power.stopped then none else s.placeFirst [] true (sortTeams s.before s.waitingTeams)
/-- Stop requests to every core of a team (R37), with FLIPAT - S of R39. -/
def State.stopTeam (s : State) (x : Team) : State :=
  let y : SysRegs := match x.cores with | c :: _ => (s.body c).sys | [] => {}
  let left := if y.flipAt ≠ 0 ∧ s.cycle + y.landMax.toNat < y.flipAt.toNat then y.flipAt - BitVec.ofNat 64 s.cycle else 0
  x.cores.foldl (fun s c => match execStopRequest c s with
    | .next s => s
    | _ => s) (s.modTeam x.id fun x => { x with state := .stopping, stopAt := s.cycle, flipLeft := left })
/-- The shortest run of the candidates that frees cores for W. -/
def displaced (fits : List CoreId → Bool) : List Team → List Team → Option (List Team)
  | chosen, [] => if fits (chosen.flatMap (·.cores)) then some chosen else none
  | chosen, x :: xs => if fits (chosen.flatMap (·.cores)) then some chosen else displaced fits (chosen ++ [x]) xs
/-- The teams to stop for the first waiting team that cannot be placed. -/
def State.toDisplace (s : State) : List Team :=
  match (sortTeams s.before s.waitingTeams).find? fun x => (x.fit s.coreFree).isNone with
  | none => []
  | some w =>
    let fits (cs : List CoreId) : Bool := (w.fit (s.coreComes cs)).isSome
    let may := s.usher.teams.filter fun x => x.state == .resident && x.quantumOver && decide (s.effPrio w.queue ≤ s.effPrio x.queue)
    let lt (x y : Team) : Bool := decide (s.effPrio y.queue < s.effPrio x.queue) || (s.effPrio x.queue == s.effPrio y.queue && decide (x.residentAt < y.residentAt))
    (displaced fits [] (sortTeams lt may)).getD []
def State.displace (s : State) : State := if s.newel.power.stopped then s else s.toDisplace.foldl State.stopTeam s
/-- R421-R424: the team whose turn it is starts or is restored; where it cannot be placed, teams are stopped for it. DEDUCED (log 27). -/
def execTeamPlace (t : Nat) (s : State) : Result :=
  .next (match s.placement with
    | some (x, cs, o) =>
      if x.id = t then (if x.state = .pending then s.startTeam x cs o else s.restoreTeam x cs o) else s.displace
    | none => s.displace)
def execQuantumExpiry (t : Nat) (s : State) : Result :=
  .next (match s.team? t with
    | some x =>
      if x.state = .resident ∧ x.quantumOver = false ∧ x.residentAt + s.usher.quantumCycles ≤ s.cycle then
        (s.modTeam t fun x => { x with quantumOver := true }).displace
      else s
    | none => s)

/-! Stops and saves (R38, R426) -/

def Tile.quiet (t : Tile) : Bool :=
  t.load.isNone && t.writes.isEmpty && (match t.run with
    | some r => (match r.phase with | .stopped _ => true | _ => false)
    | none => true)
/-- Every engine of the core stands at a stopping point and every result is written; an engine for whose fault the table has no room stands too
(R53). -/
def State.quiet (s : State) (c : CoreId) : Bool :=
  let b := s.body c
  b.pend.isEmpty && b.bsecond.isEmpty && b.locals.isEmpty && b.posts.isEmpty && (b.reports.isEmpty || decide (64 ≤ b.faults.length)) &&
    b.busy.isNone && b.groups.toList.all (·.tile.quiet) &&
    (List.finRange 2).all (fun u => (b.copies[u]).cmd.all fun x => (x.fault.isSome && !b.canPark) || s.betweenRows c u x) &&
    b.transforms.toList.all (fun u => u.op.all fun x => x.fault.isSome && !b.canPark) && s.accesses.all fun a => a.who.core != some c
/-- The core stops: a halted one, one that has met a team fault, or one that is idle. DESIGN CHOICE (log 24). -/
def State.stopsNow (s : State) (c : CoreId) : Bool :=
  let t := s.task c
  !t.stopped && (t.halted || (s.body c).teamFault.isSome || (t.stopReq && (t.state == some .ended || t.state == none)))
/-- R38: once its engines have stopped, what they still held is released, and once its requests have answered it reports itself stopped. A core that has
met a team fault never releases what it holds. A rerun of the interval goes on first. DESIGN CHOICE (log 24). -/
def execCoreStop (c : CoreId) (s : State) : Result :=
  .next (if s.stopsNow c then
    let b := s.body c
    let s := (s.modBody c fun b => { b with stopping := true }).modTask c fun t => { t with halted := true }
    if s.quiet c = false then s
    else if b.teamFault.isSome then
      if s.requests.all (!·.from c) then (s.modBody c fun b => { b with held := [] }).modTask c fun t => { t with stopped := true } else s
    else if b.held ≠ [] ∨ s.cores[c].rerun.isSome then
      match s.endInterval c with
      | (true, s) => s
      | (false, s) => (s.modBody c fun b => { b with stopping := false }).modTask c fun t => { t with halted := false }
    else if s.requests.all (!·.from c) then (s.checkpoint c).modTask c fun t => { t with stopped := true }
    else s
  else s)
/-- The team leaves its cores: they are kept with it. -/
def State.leaveCores (s : State) (x : Team) (state : TeamState) (inArea : Bool) : State :=
  let kept := x.cores.map fun c => s.cores[c]
  (s.freeCores x).modTeam x.id fun y => { y with state, kept, inArea, frozen := x.frozen, waitsFrom := s.cycle }
/-- DESIGN CHOICE (log 24). -/
def State.savesNow (s : State) (x : Team) : Bool := x.state == .stopping && x.cores.all fun c => (s.task c).stopped
def execTeamSave (t : Nat) (s : State) : Result :=
  .next (match s.team? t with
    | some x =>
      if s.savesNow x then
        let x := { x with frozen := s.rangeFrozen x }
        match s.writePieces (whoTeam t) x.asn (x.image x.faulting (x.cores.map fun c => s.cores[c])) with
        | (.waits, u) => s.keepAways u
        | (_, u) => (u.forgetAways (whoTeam t)).leaveCores x (if x.faulting then .faulted else .saved) true
      else s
    | none => s)

/-! Completion and faults of jobs (R164, R416, R430) -/

/-- Every effect of an ended team has been performed. DESIGN CHOICE (log 24). -/
def State.settled (s : State) (x : Team) : Bool := s.requests.all fun r => r.outer || !(x.lastCores.contains r.core && decide (r.id < x.endId))
def State.jobOver (s : State) (j : Job) : Bool :=
  !j.faulted && (s.usher.teams.filter (·.job == j.id)).all fun x => x.state == .ended && s.settled x
/-- The job's event is written at system scope, then the job is over (R416). -/
def State.completeJob (s : State) (k : Job) : Served :=
  let gone (s : State) : Served := .done (s.modUsher fun u => { u with
    jobs := u.jobs.filter (·.id != k.id), teams := u.teams.filter (·.job != k.id) })
  if k.event = 0 then gone s else s.usherPost (whoJob k.id) k.asn k.event.toNat (bytesLE 8 k.evalue.toNat) k.queue.val gone
def execJobComplete (j : Nat) (s : State) : Result :=
  .next (match s.usher.jobs.find? (·.id == j) with
    | some k =>
      if s.jobOver k then match s.completeJob k with
        | .done t => t.forgetAways (whoJob k.id)
        | .waits t => s.keepAways t
      else s
    | none => s)
/-- The first core of a team that has met a team fault. -/
def State.faultedCore (s : State) (x : Team) : Option (CoreId × TeamFault) := x.cores.findSome? fun c => (s.body c).teamFault.map fun f => (c, f)
def State.jobOf (s : State) (x : Team) : Option Job := s.usher.jobs.find? (·.id == x.job)
/-- A fault not yet taken up, or one whose job has stopped, while no entry of its queue is being processed. -/
def State.faultDue (s : State) (x : Team) : Bool :=
  match s.jobOf x with
  | some j =>
    if j.faulted then
      j.fault.any (·.1 == x.id) && s.usher.serving != some j.queue && (s.usher.teams.filter (·.job == j.id)).all fun y => y.state != .stopping
    else (s.faultedCore x).isSome
  | none => false
def State.modJob (s : State) (j : Nat) (f : Job → Job) : State :=
  s.modUsher fun u => { u with jobs := u.jobs.map fun x => if x.id = j then f x else x }
/-- The job stops: its teams are marked, and those on cores are stopped; a fault of a range task freezes the range queue (R378). -/
def State.beginFault (s : State) (x : Team) (c : CoreId) (f : TeamFault) : State :=
  let s := s.modJob x.job fun j => { j with faulted := true, fault := some (x.id, c, f) }
  let s := s.modTeam x.id fun y => { y with frozen := s.rangeFrozen x }
  (s.usher.teams.filter (·.job == x.job)).foldl (fun s y =>
    let s := if y.state = .resident then s.stopTeam y else s
    s.modTeam y.id fun y => { y with faulting := true }) s
/-- The save areas of a job's teams that hold no cores: of a SAVED team the state becomes FAULTED, and a team that was never placed is saved
FAULTED with its header. -/
def State.saveFaulted (s : State) (who : AwayFor) : List Team → (State → Served) → Served
  | [], k => k s
  | y :: ys, k =>
    let pieces : List Piece8 := if y.state = .pending then y.image true [] else if y.state = .saved then [(y.area, bytesLE 8 1)] else []
    match s.writePieces who y.asn pieces with
    | (.waits, t) => .waits t
    | (_, t) => t.saveFaulted who ys k
/-- Every team of the job has stopped: those in their save area become FAULTED, the queue is frozen. -/
def State.endFault (s : State) (x : Team) (j : Job) : Served :=
  s.saveFaulted (whoJob j.id) (s.usher.teams.filter (·.job == j.id)) fun s =>
    s.readDesc (whoJob j.id) j.queue fun s =>
      let s := s.modUsher fun u => { u with teams := u.teams.map fun y =>
        if y.job = j.id ∧ (y.state = .pending ∨ y.state = .saved) then { y with state := .faulted } else y }
      let s := s.modJob j.id fun j => { j with fault := none }
      match j.fault with
      | some (_, c, f) =>
        s.freeze (whoJob j.id) j.queue f.cause.code.toNat (BitVec.ofNat 512 (natLE j.entry)) j.index (some (x, c, f)) fun s =>
          .done (s.forgetAways (whoJob j.id))
      | none => .done s
/-- DEDUCED (log 27). -/
def execTeamFault (t : Nat) (s : State) : Result :=
  .next (match s.team? t with
    | some x =>
      if s.faultDue x then
        match s.jobOf x with
        | some j =>
          if j.faulted then s.serve1 (s.endFault x j)
          else match s.faultedCore x with
            | some (c, f) => s.beginFault x c f
            | none => s
        | none => s
      else s
    | none => s)

/-! Retirement (R46, R481) -/

/-- What a core brings to another one: all but what belongs to the place. -/
def Core.movedTo (k old : Core) : Core :=
  { k with
    errors := old.errors, retiring := old.retiring, retired := old.retired, disagreed := false, ackCount := old.ackCount, acks := old.acks
    icache := [], bicache := [] }
/-- The team of a disagreeing core returns to its last checkpoints and leaves its cores; its outstanding requests follow its cores.
DEDUCED (log 27). -/
def State.migrateTeam (s : State) (x : Team) (cs : List CoreId) (o : Option (Nat × Nat)) : State :=
  let s := x.cores.foldl (fun s c =>
    let s := (s.rollBack c .first).forgetMerge c
    { s with cores := Vec.modify s.cores c fun k => { k with rerun := none, b := { k.b with teamFault := none } } }) s
  let new (c : CoreId) : CoreId := ((x.cores.zip cs).lookup c).getD c
  let s := { s with requests := s.requests.map fun (r : Request) => if !r.outer && x.cores.contains r.core then { r with core := new r.core } else r }
  let kept := x.cores.map fun c => s.cores[c]
  let s := (s.freeCores x).modTeam x.id fun y => { y with cores := cs, origin := o.or y.origin }
  { s with cores := (cs.zip kept).foldl (fun v p => Vec.modify v p.1 (p.2.movedTo ·)) s.cores }
/-- DEDUCED (log 27). -/
def State.retireCore (s : State) (c : CoreId) : State :=
  let s := { s with cores := Vec.modify s.cores c fun k => { k with retired := true, retiring := false, disagreed := false } }
  s.logEvent .retire c.val
/-- A disagreeing core is retired at once: its team moves to other cores, or is faulted; any other one where no team runs on it. -/
def execCoreRetire (c : CoreId) (s : State) : Result :=
  .next (if s.cores[c].retired ∨ s.cores[c].retiring = false then s
  else match s.teamOf c with
    | none => s.retireCore c
    | some x =>
      if s.cores[c].disagreed then
        match x.fit fun d => d != c && (s.coreFree d || x.cores.contains d) with
        | some (cs, o) => (s.migrateTeam x cs o).retireCore c
        | none => s.retireCore c
      else s)

end Sys2Proof.Machine
end

