-- ==== Sys2Proof/Machine/Host.lean ====
section
/-!
DEFINITION. The host port, the photur links and the newel controller (R469-R484): registers, window, completions, peers, mailbox
commands, sensors, power, resets.
-/
namespace Sys2Proof.Machine

def State.modNewel (s : State) (f : Newel → Newel) : State := { s with newel := f s.newel }
def State.reply (s : State) (d : Option (List (BitVec 8))) : State := s.modHost fun h => { h with replies := h.replies ++ [d] }
def hostBase : Nat := 0x8000000000000

/-! Resets (R469, R481, R482) -/

/-- What a core keeps through a module reset: errors of the last hour and its retirement. DESIGN CHOICE (log 34). -/
def Core.afterReset (k : Core) (cleared : Bool) : Core :=
  { errors := k.errors, retiring := k.retiring && !cleared, retired := k.retired && !cleared }
/-- Memory keeps its contents, phaser storage reads zero (R358); the log, retirement and firmware are non-volatile; what is to come from
outside keeps its distance (log 34). DESIGN CHOICE (log 34). -/
def State.moduleReset (s : State) : State :=
  let version := s.newel.next.getD s.newel.version
  { State.reset with
    epoch := s.epoch + s.cycle, powered := s.powered, fresh := s.fresh, nextId := s.nextId
    inputs := s.inputs.map fun i => (i.1 - s.cycle, i.2)
    cores := Vec.ofFn fun c => s.cores[c].afterReset (s.newel.unretire.contains c)
    mem := s.mem.filter fun x => !(decide (phaserBase ≤ x.1) && decide (x.1 < phaserBase + 0x2000000))
    poison := s.poison, log := s.log, logCount := s.logCount
    host := { messages := s.host.messages, replies := s.host.replies, answers := s.host.answers }
    newel :=
      if s.newel.next.isSome then { version, counter := version, active := s.newel.inactive, inactive := s.newel.active, alerted := s.newel.alerted }
      else { version, counter := s.newel.counter, active := s.newel.active, inactive := s.newel.inactive, alerted := s.newel.alerted } }
/-- DESIGN CHOICE (log 34). -/
def execModuleReset (s : State) : Result := .next s.moduleReset
/-- R480: no record is torn, and nothing happens any more. -/
def execPowerLoss (s : State) : Result := .next { s with powered := false }
def execCoolantLoss (s : State) : Result := .next (s.logEvent .thermal 0).moduleReset

/-! Registers (R469) -/

/-- Bytes of a wider register replaced. -/
def patch {w : Nat} (b : BitVec w) (n off : Nat) (bs : List (BitVec 8)) : BitVec w :=
  let old := bytesLE n b.toNat
  BitVec.ofNat w (natLE (old.take off ++ bs ++ old.drop (off + bs.length)))
/-- An entry of the vector table is written; a vector unmasked while its message is pending sends it (log 30). PRESUMED (log 30). -/
def HostPort.writeVector (h : HostPort) (v : Fin 256) (off : Nat) (bs : List (BitVec 8)) : HostPort :=
  let h := { h with table := h.table.set v (patch h.table[v] 16 off bs) }
  if h.pending.getLsbD v.val ∧ h.table[v].getLsbD 96 = false then
    { h with pending := h.pending &&& ~~~(1#256 <<< v.val) }.raise v.val
  else h
/-- A write of the mailbox: status and reserved bits stay; a nonzero cmd starts a command unless one is under way (R477). DEDUCED (log 29). -/
def State.writeMailbox (s : State) (off : Nat) (bs : List (BitVec 8)) : State :=
  let fixed : BitVec 512 := (BitVec.allOnes 392).zeroExtend 512 <<< 8
  let m := (patch s.host.mailbox 64 off bs &&& ~~~fixed) ||| (s.host.mailbox &&& fixed)
  let cmd := off = 0 ∧ m.extractLsb' 0 8 ≠ 0#8
  if cmd ∧ s.newel.doneAt.isSome then s
  else if cmd then
    let m := (m &&& ~~~(0xFF#512 <<< 392)) ||| (1#512 <<< 392)
    let n := s.nextFree
    (n.2.modHost fun h => { h with mailbox := m }).modNewel fun k =>
      { k with cmd := m, doneAt := some (s.cycle + 1 + Config.newelWait n.1), status := 0, acted := false, out := none }
  else s.modHost fun h => { h with mailbox := m }
/-- What an accepted register write does. DEDUCED (log 29). -/
def State.registerEffect (off : Nat) (bs : List (BitVec 8)) (s : State) : Result :=
  if off = 8 then
    if (bs.headD 0).getLsbD 0 then execModuleReset s else .next s
  else if 0x100 ≤ off ∧ off < 0x140 then
    if off < 0x108 then execUsherConfigCommit (Fin.ofNat 8 (off - 0x100)) bs s
    else .next (s.modUsher fun u => u.stage (off - 0x100) bs)
  else if 0x140 ≤ off ∧ off < 0x180 then
    if off < 0x148 then execFabricConfigCommit (Fin.ofNat 8 (off - 0x140)) bs s
    else .next { s with fabcfg := s.fabcfg.stage (off - 0x140) bs }
  else .next (
    if 0x180 ≤ off ∧ off < 0x188 then
      s.modHost fun h => { h with winctl := patch h.winctl 8 (off - 0x180) bs &&& 0x00FFFFF000000FFF#64 }
    else if 0x200 ≤ off ∧ off < 0x280 then
      s.modHost fun h => { h with routes := Vec.modify h.routes (Fin.ofNat 16 ((off - 0x200) / 8)) fun r => patch r 8 (off % 8) bs }
    else if 0x2000 ≤ off ∧ off < 0x2040 then s.writeMailbox (off - 0x2000) bs
    else if 0x10000 ≤ off ∧ off < 0x11000 then s.modHost (·.writeVector (Fin.ofNat 256 ((off - 0x10000) / 16)) (off % 16) bs)
    else s)
/-- The upper half of a write of a tail register is ignored (R471). DEDUCED (log 29). -/
def execRegisterWrite (off : Nat) (bytes : List (BitVec 8)) (s : State) : Result :=
  if accessOk off bytes.length = false then .next (s.reply none)
  else if 0x1000 ≤ off ∧ off < 0x1200 then
    if off % 8 ≠ 0 then .next s
    else execTailRegisterWrite (Fin.ofNat 64 ((off - 0x1000) / 8)) (BitVec.ofNat 32 (natLE (bytes.take 4))) s
  else s.registerEffect off bytes
/-- The doubleword of a register, but for a tail register. -/
def State.registerDword (s : State) (off : Nat) : BitVec 64 :=
  let part {w : Nat} (b : BitVec w) (base : Nat) : BitVec 64 := b.extractLsb' (8 * (off - base)) 64
  if off = 0 then 0xF128#16 ++ Config.revision ++ Config.ownPeer ++ 0#28
  else if 0x100 ≤ off ∧ off < 0x140 then part s.usher.staged 0x100
  else if 0x140 ≤ off ∧ off < 0x180 then part s.fabcfg.staged 0x140
  else if off = 0x180 then s.host.winctl
  else if 0x200 ≤ off ∧ off < 0x280 then s.host.routes[Fin.ofNat 16 ((off - 0x200) / 8)]
  else if 0x2000 ≤ off ∧ off < 0x2040 then part s.host.mailbox 0x2000
  else if off = 0x3000 then BitVec.ofNat 64 (s.host.links.toList.reverse.foldl (fun v l => 16 * v + l.val) 0)
  else if 0x10000 ≤ off ∧ off < 0x11000 then part s.host.table[Fin.ofNat 256 ((off - 0x10000) / 16)] (off / 16 * 16)
  else if 0x11000 ≤ off ∧ off < 0x11020 then part s.host.pending 0x11000
  else 0
/-- A read of a register of the host port: Unsupported Request where it is not aligned; that of a tail register comes after the accesses received before
it and returns head and tail as the queue's descriptor holds them in memory, 0 where it cannot be read (R471). DEDUCED (log 29). -/
def execRegisterRead (off n : Nat) (s : State) : Result :=
  let part (d : List (BitVec 8)) : Option (List (BitVec 8)) := some ((d.drop (off % 8)).take n)
  .next (if accessOk off n = false then s.reply none
  else if off < 0x1000 ∨ 0x1200 ≤ off then s.reply (part (bytesLE 8 (s.registerDword (off / 8 * 8)).toNat))
  else if s.host.queue ≠ [] then s.hostWaits (.registerRead off n)
  else
    let q : QueueId := Fin.ofNat 64 ((off - 0x1000) / 8)
    match s.usherRead (whoTail q) 0 (s.descAddr q) 8 with
    | (.ok bs, t) => (t.forgetAways (whoTail q)).reply (part bs)
    | (.fault .., t) => ((s.keepAways t).forgetAways (whoTail q)).reply (part (List.replicate 8 0))
    | (.waits, t) => (s.keepAways t).hostWaits (.registerRead off n))

/-! The window (R470, R160) -/

/-- WINCTL as it was when the window access was received. -/
def HostPort.inForce (h : HostPort) : BitVec 64 := h.window.getD h.winctl
/-- DEDUCED (log 29). -/
def State.windowVA (s : State) (off : Nat) : VA := BitVec.ofNat 56 ((s.host.inForce.extractLsb' 36 20).toNat * 2 ^ 36 + off)
def State.windowAsn (s : State) : BitVec 12 := s.host.inForce.extractLsb' 0 12
def inWindow (off n : Nat) : Bool := decide (off + n ≤ 2 ^ 36)
/-- DEDUCED (log 29). -/
def execWindowRead (off n : Nat) (s : State) : Result :=
  .next (if inWindow off n = false then s.reply none
  else if s.host.queue ≠ [] then s.hostWaits (.event (.windowRead off n))
  else match s.glbRead .host s.windowAsn (s.windowVA off) n with
    | (.ok bs, t) => (t.forgetAways .host).reply (some bs)
    | (.fault _ a, t) =>
      ((s.keepAways t).forgetAways .host |>.logEvent .winFault 0 (a.zeroExtend 384)).reply (some (List.replicate n 0xFF))
    | (.waits, t) => (s.keepAways t).hostWaits (.event (.windowRead off n)))
/-- DEDUCED (log 29). -/
def execWindowWrite (off : Nat) (bytes : List (BitVec 8)) (s : State) : Result :=
  .next (if inWindow off bytes.length = false then s.reply none
  else if s.host.queue ≠ [] then s.hostWaits (.event (.windowWrite off bytes))
  else match s.glbWrite .host s.windowAsn (s.windowVA off) bytes with
    | (.ok _, t) => t.forgetAways .host
    | (.fault _ a, t) => (s.keepAways t).forgetAways .host |>.logEvent .winFault 0 (a.zeroExtend 384)
    | (.waits, t) => (s.keepAways t).hostWaits (.event (.windowWrite off bytes)))

/-! Completions of host and peer memory (R354, R473-R475) -/

def isHost (pa : Nat) : Bool := regionOf pa == .host
/-- A completion at the port. A write of host memory is performed once a read that the port issues after it has completed (R135); one that failed is only
logged. Anything else goes back to the home slice, as PROTECTION where it failed. DEDUCED (log 29). -/
def State.completeRequest (s : State) (r : Request) (a : Away) (data : Option (List (BitVec 8))) : State :=
  if isHost a.pa ∧ r.out.isSome then
    match a.bytes, data with
    | some _, some _ => { s with aways := s.aways ++ [⟨s.nextId, .request r.id, a.pa, a.n, none, s.cycle, none⟩], nextId := s.nextId + 1 }
    | some _, none => (s.logEvent .winFault 0 (r.va.zeroExtend 384)).comeBack r
    | none, _ => s.comeBack r
  else match data with
    | some bs => s.comeBack { r with data := bs }
    | none => s.comeBack { r with fault := some .protection }
/-- Data fits an access: as many bytes as it reads, or an atomic's word from a peer. DEDUCED (log 29). -/
def Away.fits (a : Away) (bs : List (BitVec 8)) : Bool := a.bytes.isSome || bs.length == a.n || !isHost a.pa
/-- An access that was sent is completed, by the host or by a peer. -/
def State.complete (s : State) (a : Away) (data : Option (List (BitVec 8))) : State :=
  match a.who with
  | .request id =>
    let s := { s with aways := s.aways.filter (·.id != a.id) }
    match s.request? id with
    | some r => s.completeRequest r a data
    | none => s
  | _ =>
    let failed := data.isNone && a.bytes.isSome && isHost a.pa
    let s := if failed then s.logEvent .winFault 0 else s
    { s with aways := s.aways.map fun x => if x.id = a.id then { x with answer := some (if failed then some [] else data) } else x }
def State.away? (s : State) (id : Nat) (host : Bool) : Option Away :=
  s.aways.find? fun a => a.id == id && a.answer.isNone && isHost a.pa == host
/-- DEDUCED (log 29). -/
def execHostCompletion (id : Nat) (data : Option (List (BitVec 8))) (s : State) : Result :=
  .next (match s.away? id true with
    | some a => if (match data with | some bs => a.fits bs | none => true) then s.complete a data else s
    | none => s)
/-- 50 ms. -/
def readTimeout : Nat := 80000000
def Away.late (a : Away) (now : Nat) : Bool := a.answer.isNone && isHost a.pa && a.bytes.isNone && decide (a.sentAt + readTimeout ≤ now)
def execHostReadTimeout (id : Nat) (s : State) : Result :=
  .next (match s.away? id true with
    | some a => if a.late s.cycle then s.complete a none else s
    | none => s)
def execPeerResponse (id : Nat) (data : Option (List (BitVec 8))) (s : State) : Result :=
  .next (match s.away? id false with
    | some a => s.complete a data
    | none => s)

/-! Peers and links (R474-R476) -/

def State.respond (s : State) (r : PeerReq) (d : Option (List (BitVec 8))) : State := s.modHost fun h => { h with answers := h.answers ++ [(r.peer, r.tag, d)] }
/-- Atomic or reduction opcodes of the G slot, as a peer's engine performs them here (R159). DESIGN CHOICE (log 33). -/
def atomicOf (op : Nat) : Option (AtomicOp ⊕ ReduceOp) :=
  ([.inl .add, .inl .and, .inl .or, .inl .xor, .inl .min, .inl .max, .inl .minu, .inl .maxu, .inl .xchg, .inl .cas, .inl .fadd,
    .inr .add, .inr .max, .inr .min] : List (AtomicOp ⊕ ReduceOp))[op - 15]?
/-- Bytes that a peer's operation covers. DESIGN CHOICE (log 33). -/
def peerSize : PeerOp → Nat
  | .read n => n
  | .write bs => bs.length
  | .atomic 25 _ _ => 4
  | .atomic op _ _ => if op < 25 then 8 else 32
/-- What an atomic or a reduction of a peer does to memory, and the word that it returns. -/
def State.peerCombine (s : State) (q : PeerReq) (op : Nat) (v c : BitVec 64) : Option (List (BitVec 8)) × State :=
  let write (bs : List (BitVec 8)) : State := (s.placePhysical q.pa).placeWrite q.pa bs
  match atomicOf op with
  | some (.inl o) =>
    let old := BitVec.ofNat 64 (natLE (s.physRead q.pa (peerSize q.op)))
    (some (bytesLE 8 old.toNat), write (bytesLE (peerSize q.op) (o.new old v c).1.toNat))
  | some (.inr o) =>
    let n := reduceRecord o v (BitVec.ofNat 256 (natLE (s.physRead q.pa 32)))
    (some (bytesLE 8 n.1.toNat), match n.2 with
      | some y => write (bytesLE 32 y.toNat)
      | none => s)
  | none => (none, s)
/-- An atomic that is none of R68, or is not aligned. -/
def badOp (r : PeerReq) : Bool :=
  match r.op with
  | .atomic op .. => decide (op < 15 ∨ 28 < op ∨ r.pa % peerSize r.op ≠ 0)
  | _ => false
/-- An earlier access to a line has not been placed there, or one has been in this cycle (R148, R463). -/
def State.peerWaits (s : State) (r : Request) (lines : List Nat) : Bool :=
  (s.hall.any fun h => lines.contains h.pline && (h.placed == some s.cycle ||
    s.requests.any fun x => x.missing && decide (x.place < r.place) && x.asn == h.asn && lineOf x.va == h.line)) ||
  s.requests.any fun x => (x.missing || x.stage == .engine) && x.trans.isSome && decide (x.place < r.place) && lines.contains (x.pa / 128)
/-- What a request of a peer does to HBM, and what it returns; none for an error. -/
def State.peerAct (s : State) (q : PeerReq) (lines : List Nat) : Option (List (BitVec 8)) × State :=
  match q.op with
  | .read n => (if lines.any s.poison.contains then none else some (s.physRead q.pa n), s)
  | .write bs => (some [], (lines.foldl (fun s l => s.placePhysical (128 * l)) s).placeWrite q.pa bs)
  | .atomic op v c => if lines.any s.poison.contains then (none, s) else s.peerCombine q op v c
/-- A request of a peer acts at the slice that serves it, which answers; it is an access to the lines there (R457). -/
def State.performPeer (s : State) (r : Request) (q : PeerReq) : State :=
  let lines := physLines q.pa (peerSize q.op)
  if s.peerWaits r lines then s
  else match State.peerAct { s with hall := s.hall.map fun h => if lines.contains h.pline then { h with touched := s.cycle } else h } q lines with
    | (some bs, s) => s.answer { r with data := bs }
    | (none, s) => s.refuse r .protection
/-- A request of a peer: one that reaches HBM crosses the concourse from the die of its link to the slice that serves it, and its answer goes
back (R475); anything else is an error. DESIGN CHOICE (log 33). -/
def execPeerRequest (q : PeerReq) (s : State) : Result :=
  .next (match s.requests.find? fun r => r.op == .peer q && s.workReady r with
    | some r => s.performPeer r q
    | none =>
      if 0x9000000000 < q.pa + peerSize q.op ∨ badOp q then s.respond q none
      else
        let die : Fin 8 := match s.host.linkFor q.peer with
          | some l => Fin.ofNat 8 (l.val / 2)
          | none => 0
        let r : Request := { id := s.nextId, core := 0, baddr := 0, issued := 0, asn := 0, va := 0, op := .peer q, gslot := false, exit_ := die }
        let s := { s with nextId := s.nextId + 1, requests := s.requests ++ [r] }
        s.sendPacket r die (s.servedAt r) .packet true)
/-- A link goes down: slices that used it choose anew. DESIGN CHOICE (log 33). -/
def State.linkDown (s : State) (l : Fin 16) : State :=
  (s.modHost fun h => { h with links := h.links.set l 0, retries := h.retries.set l [], used := h.used.filter (·.2.2 != l) }).logEvent .linkDown l.val
/-- The flit that a link has under way has failed its check: it is retried, and its seventeenth failure follows the sixteenth retry (R476). -/
def execFlitRetry (link : Fin 16) (s : State) : Result :=
  .next (if (s.host.links[link]).val < 2 then s
  else
    let flit := s.host.flit[link]
    let n := sget 0 s.host.retries[link] flit
    if n < 16 then s.modHost fun h => { h with retries := h.retries.set link (sset 0 h.retries[link] flit (n + 1)) } else s.linkDown link)
/-- DESIGN CHOICE (log 33). -/
def execLinkUp (link : Fin 16) (degraded : Bool) (s : State) : Result :=
  .next (s.modHost fun h => { h with links := h.links.set link (if degraded then 3 else 2), retries := h.retries.set link [] })

/-! The mailbox (R477-R483) -/

/-- The answer of an access to host memory; one that is not under way yet is sent, once no engine is between the read and the write of an atomic
on a line of it (R354). -/
def State.awayAccess (s : State) (who : AwayFor) (pa n : Nat) (bytes : Option (List (BitVec 8))) : Option (Option (List (BitVec 8))) × State :=
  match s.aways.find? fun a => a.who == who && a.pa == pa && a.n == n && a.bytes == bytes with
  | some a => (a.answer, s)
  | none =>
    if (physLines pa n).any fun l => s.combining s.nextId (128 * l) then (none, s)
    else (none, { s with aways := s.aways ++ [⟨s.nextId, who, pa, n, bytes, s.cycle, none⟩], nextId := s.nextId + 1 })
/-- Pieces of n bytes from an address on, of k bytes each but for the last (R468). -/
def chunks (k a n : Nat) : List (Nat × Nat) := (List.range ((n + k - 1) / k)).map fun i => (a + k * i, min k (n - k * i))
/-- Reads of the newel controller, all under way at a time; none within for one that failed. -/
def State.newelReads (s : State) : List (Nat × Nat) → Option (Option (List (BitVec 8))) × State
  | [] => (some (some []), s)
  | p :: ps => match s.awayAccess .newel p.1 p.2 none with
    | (some (some bs), t) => match t.newelReads ps with
      | (some (some more), u) => (some (some (bs ++ more)), u)
      | r => r
    | (some none, t) => (some none, t)
    | (none, t) => (none, (t.newelReads ps).2)
/-- Writes of the newel controller, in order; they are over once each has completed. -/
def State.newelWrites (s : State) : List (Nat × Nat) → List (BitVec 8) → Bool × State
  | [], _ => (true, s)
  | p :: ps, bs =>
    let r := s.awayAccess .newel p.1 p.2 (some (bs.take p.2))
    let rest := r.2.newelWrites ps (bs.drop p.2)
    (r.1.isSome && rest.1, rest.2)
def Newel.arg (k : Newel) : Nat := (k.cmd.extractLsb' 448 64).toNat
def Newel.alen (k : Newel) : Nat := (k.cmd.extractLsb' 416 32).toNat
def Newel.vector (k : Newel) : Nat := (k.cmd.extractLsb' 400 16).toNat
def Newel.code (k : Newel) : Nat := (k.cmd.extractLsb' 0 8).toNat
/-- Bytes of the buffer that a command reads or writes, from its start. -/
def Newel.extent (k : Newel) : Nat :=
  match k.code with
  | 1 => 70
  | 2 => max 8 (k.alen / 64 * 64)
  | 3 => 2
  | 4 => k.alen
  | 5 => 288
  | 6 => 1024
  | _ => 1
/-- A buffer that the host port can reach, at a multiple of 64. DEDUCED (log 31). -/
def Newel.argOk (k : Newel) : Bool := k.arg % 64 == 0 && decide (k.arg + k.extent ≤ 2 ^ 51)
/-- The command under way is due and has not acted. DEDUCED (log 31). -/
def State.commandDue (s : State) : Bool := s.newel.doneAt.any (· ≤ s.cycle) && !s.newel.acted
/-- The command has acted: with a status, and what it writes at which offset of its buffer. -/
def State.acted (s : State) (status : BitVec 8) (out : Option (Nat × List (BitVec 8)) := none) : State :=
  (s.forgetAways .newel).modNewel fun k => { k with acted := true, status, out := out.map fun o => (k.arg + o.1, o.2) }
/-- A command of the given code acts once; a bad buffer gives status 3. DEDUCED (log 31). -/
def State.command (s : State) (code : Nat) (f : State → State) : Result :=
  .next (if s.commandDue ∧ s.newel.code = code then (if s.newel.argOk then f s else s.acted 3) else s)
/-- The command reads n bytes of its buffer; a read that fails gives status 3. -/
def State.withArg (s : State) (n : Nat) (f : State → List (BitVec 8) → State) : State :=
  match s.newelReads (chunks 4096 (hostBase + s.newel.arg) n) with
  | (none, t) => t
  | (some none, t) => t.acted 3
  | (some (some bs), t) => f t bs
/-- DEDUCED (log 31). -/
def execSensors (s : State) : Result :=
  s.command 1 fun s => s.acted 0 (some (0, s.newel.sensors.toList.flatMap fun v => bytesLE 2 v.toNat))
/-- A record of the log: 8 bytes of microseconds, 8 of kind and unit, 48 of detail. DESIGN CHOICE (log 32). -/
def LogRecord.bytes (r : LogRecord) : List (BitVec 8) :=
  let kind := match r.kind with
    | .rollback => 0 | .retire => 1 | .eccSummary => 2 | .uncorrectable => 3 | .linkDown => 4 | .throttle => 5 | .thermal => 6
    | .winFault => 7 | .usherFault => 8 | .update => 9
  bytesLE 8 (Config.manufactureTime + r.at_ / 1600) ++ bytesLE 8 (Config.logHead kind r.unit).toNat ++ bytesLE 48 r.detail.toNat
/-- Records from an index on, the oldest held being 0. DEDUCED (log 31). -/
def execLog (s : State) : Result :=
  s.command 2 fun s => s.withArg 8 fun s bs =>
    s.acted 0 (some (64, ((s.log.drop (natLE bs)).take (s.newel.alen / 64 - 1)).flatMap LogRecord.bytes))
def execCap (s : State) : Result :=
  s.command 3 fun s => s.withArg 2 fun s bs =>
    if 800 ≤ natLE bs ∧ natLE bs ≤ 2800 then (s.modNewel fun k => { k with power := { k.power with cap := natLE bs } }).acted 0 else s.acted 3
/-- Bytes of the header and the code of an image. -/
def signedLen (bs : List (BitVec 8)) : Nat := 64 + natLE ((bs.drop 16).take 4)
/-- The header, code and signature of an image lie within the buffer, and the signature of header and code verifies (R482). -/
def updateOk (bs : List (BitVec 8)) : Bool :=
  let n := signedLen bs
  decide (natLE (bs.take 4) = 0x4E574C46 ∧ n + 384 ≤ bs.length) &&
    rsaVerifies Config.signingModulus Config.signingExponent (bs.take n) ((bs.drop n).take 384)
/-- The image fills the inactive slot, whatever becomes of it (R482). DEDUCED (log 31). -/
def execUpdate (s : State) : Result :=
  s.command 4 fun s => s.withArg s.newel.alen fun s bs =>
    let version := BitVec.ofNat 64 (natLE ((bs.drop 8).take 8))
    let s := s.modNewel fun k => { k with next := none, inactive := bs.take (signedLen bs + 384) }
    if updateOk bs = false then s.acted 4
    else if version < s.newel.counter then s.acted 5
    else ((s.modNewel fun k => { k with next := some version }).logEvent .update 0 (version.zeroExtend 384)).acted 0
/-- Bit n for global core n. -/
def State.retiredMap (s : State) : Nat := (List.finRange 128).foldl (fun v c => if s.cores[c].retired then v + 2 ^ c.val else v) 0
/-- The bytes of a report that are signed (R483); the digest is that of the whole image in the active slot. PRESUMED (log 49). -/
def State.attestBody (s : State) (nonce : List (BitVec 8)) : List (BitVec 8) :=
  nonce ++ bytesLE 16 Config.serial.toNat ++ bytesLE 8 s.newel.version.toNat ++ sha384 s.newel.active ++
    bytesLE 16 s.retiredMap ++ bytesLE 8 s.newel.counter.toNat
/-- DEDUCED (log 31). -/
def execAttest (s : State) : Result :=
  s.command 5 fun s =>
    if s.newel.alen < 288 then s.acted 3
    else s.withArg 32 fun s nonce =>
      let body := s.attestBody nonce
      let n := s.nextFree
      n.2.acted 0 (some (64, body ++ bytesLE 96 (Config.attestSignature n.1 body).toNat))
/-- rollbacks in the current window and whether the core is retired. -/
def State.errorWord (s : State) (c : CoreId) : Nat :=
  min (s.cores[c].windowErrors (s.epoch + s.cycle)) 65535 + if s.cores[c].retired then 2 ^ 63 else 0
/-- DEDUCED (log 31). -/
def execErrcnt (s : State) : Result :=
  s.command 6 fun s => s.acted 0 (some (0, (List.finRange 128).flatMap fun c => bytesLE 8 (s.errorWord c)))
def execUnretire (s : State) : Result :=
  s.command 7 fun s => s.withArg 1 fun s bs =>
    if h : natLE bs < 128 then (s.modNewel fun k => { k with unretire := k.unretire ++ [⟨natLE bs, h⟩] }).acted 0 else s.acted 3
def execBadCommand (s : State) : Result :=
  .next (if s.commandDue ∧ (s.newel.code = 0 ∨ 7 < s.newel.code) then s.acted 2 else s)
/-- Status is written, cmd cleared, and the message sent. -/
def State.endCommand (s : State) : State :=
  let m := (s.host.mailbox &&& ~~~(0xFF#512 <<< 392) &&& ~~~(0xFF#512)) ||| (s.newel.status.zeroExtend 512 <<< 392)
  let s := (s.forgetAways .newel).modHost fun h => { h with mailbox := m }
  let v := s.newel.vector
  (if v < 255 then s.raiseVector v else s).modNewel fun k => { k with doneAt := none, acted := false, out := none }
/-- Completion, after the command's writes have been performed, which a read after them shows (R135); a write that fails is only logged (R472, R473).
DEDUCED (log 31). -/
def execMailboxCompletion (s : State) : Result :=
  .next (if s.newel.doneAt.isNone ∨ s.newel.acted = false then s
  else match s.newel.out with
    | none => s.endCommand
    | some (a, bs) =>
      if bs.isEmpty then s.endCommand
      else match s.newelWrites (chunks 512 (hostBase + a) bs.length) bs with
        | (false, t) => t
        | (true, t) => match t.awayAccess .newel (hostBase + a) (min 64 bs.length) none with
          | (none, u) => u
          | (some _, u) => u.endCommand)

/-- Alerts of the newel controller for records of its log (R472). DESIGN CHOICE (log 6). -/
def newelAlerts (s : State) : Result :=
  .next ((List.range' s.newel.alerted (s.logCount - s.newel.alerted)).foldl (fun s n => if Config.newelAlert n then s.raiseVector 255 else s)
    (s.modNewel fun k => { k with alerted := s.logCount }))

/-! Sensors, power, memory errors (R479, R480, R484) -/

/-- 100 µs. -/
def checkPeriod : Nat := 160000
def execSensorRefresh (s : State) : Result :=
  .next { s with newel := { s.newel with sensors := Vec.ofFn fun i => Config.sensor (s.fresh + i.val) }, fresh := s.fresh + 35 }
/-- The hottest die, in units of 0.125 °C. -/
def Newel.hottest (k : Newel) : Int := ((k.sensors.toList.take 16).map (·.toInt)).foldl max (-32768)
/-- DEDUCED (log 35). -/
def Newel.watts (k : Newel) : Nat := k.sensors[32].toNat
/-- The stages below the last. DEDUCED (log 35). -/
def Newel.stage (k : Newel) (now : Nat) : Power :=
  let p := k.power
  let above := if 11 * p.cap < 10 * k.watts then some (p.above.getD now) else none
  { p with
    throttled := decide (p.cap < k.watts), above
    stopped :=
      if above.any (fun t => decide (t + 16000000 ≤ now)) ∨ 840 ≤ k.hottest then true
      else p.stopped && !(decide (k.watts < p.cap) && decide (k.hottest < 760)) }
/-- DEDUCED (log 35). -/
def execPowerBudgetCheck (s : State) : Result :=
  .next (if 920 ≤ s.newel.hottest then (s.logEvent .thermal 0).moduleReset
  else
    let p := s.newel.stage s.cycle
    let changed := p.throttled ≠ s.newel.power.throttled ∨ p.stopped ≠ s.newel.power.stopped
    let s := if changed then s.logEvent .throttle 0 (BitVec.ofNat 384 s.newel.watts) else s
    let s := s.modNewel fun k => { k with power := p }
    if p.stopped then (s.usher.teams.filter (·.state == .resident)).foldl State.stopTeam s else s)
/-- A minute. -/
def eccPeriod : Nat := 96000000000
/-- DESIGN CHOICE (log 32, 40). -/
def execEccSummary (s : State) : Result :=
  .next ((List.finRange 16).foldl (fun s i => s.logEvent .eccSummary i.val (BitVec.ofNat 384 s.newel.corrected[i])) s |>.modNewel fun k =>
    { k with corrected := Vector.replicate 16 0 })

end Sys2Proof.Machine
end

