-- ==== Sys2Proof/Machine/Plane.lean ====
section
/-!
DEFINITION. The plane unit (R244-R255): loads, stores, plane prefixes, optimiser updates, the spill stack, pointer and port control.
-/
namespace Sys2Proof.Machine

/-! Addresses (R238, R245, R246) -/

/-- The base B that the addr field supplies, none when an address port is exhausted. -/
def State.addrBase (s : State) : Operand → Option Int
  | .scalar n => some s.grp.scal[n].toNat
  | .port n =>
    match s.grpNow.ports[n].cfg with
    | some c => if c.exhausted s.grpNow.ports[n].pos then none else some (c.addr s.grpNow.ports[n].pos)
    | none => none
  | _ => none
/-- Causes of the addr field itself: kind, role of the port, its space. -/
def State.addrFaults (s : State) (sp : Space) : Operand → List (Cause × Int)
  | .scalar _ => []
  | .port n =>
    match s.grpNow.ports[n].cfg with
    | none => [(.illegalOp, 0)]
    | some c =>
      if !c.address then [(.illegalOp, 0)]
      else if c.exhausted s.grpNow.ports[n].pos ∨ c.space = sp then [] else [(.protection, c.addr s.grpNow.ports[n].pos)]
  | _ => [(.illegalOp, 0)]
/-- MISALIGNED and PROTECTION of n bytes at A in units of `size`. -/
def rangeFaults (sp : Space) (a : Int) (size n : Nat) : List (Cause × Int) :=
  (if a % size ≠ 0 then [(.misaligned, a)] else []) ++ if groupIn sp a n then [] else [(.protection, a)]
def postAll (cls : Fin 8) (rs : List StatRec) (s : State) : State := rs.foldl (fun s r => s.pendW cls (.post r)) s

/-! Plain loads and stores (R247, R248) -/

/-- A := B + sext(imm16) * size. -/
def State.plainAddr (s : State) (addr : Operand) (imm : BitVec 16) (f : Fmt) : Option Int :=
  (s.addrBase addr).map (· + imm.toInt * fmtSize f)
def planeLoad (sp : Space) (op : BitVec 8) (h : MHead) (data addr : Operand) (imm : BitVec 16) (f : Fmt) (s : State) : Result :=
  let a := s.plainAddr addr imm f
  let n := if isScalar data then fmtSize f else 64 * fmtSize f
  s.entry (s.dstHolds data) [] (s.addrFaults sp addr ++ s.dstFaults data ++ (a.map fun a => rangeFaults sp a (fmtSize f) n).getD [])
    fun s =>
      let v : Lanes := match a with
        | none => Vector.replicate 64 0
        | some a =>
          let off := groupOff sp s.cur.group a.toNat
          if isScalar data then Vector.replicate 64 (loadLane f (s.pre.read sp off (fmtSize f))) else s.pre.readVec sp off f
      let w := (s.popPorts [addr]).writeDst h.cls h.rot data v (s.lanes h.vp)
      postAll h.cls (entryRecords s op w.2) w.1
where
  isScalar : Operand → Bool
    | .scalar _ => true
    | _ => false
def execLdW (e : MHead) (data addr : Operand) (imm : BitVec 16) (fmt : Fmt) (s : State) : Result :=
  planeLoad .wb 0x80 e data addr imm fmt s
def execLdA (e : MHead) (data addr : Operand) (imm : BitVec 16) (fmt : Fmt) (s : State) : Result :=
  planeLoad .ab 0x81 e data addr imm fmt s
def execLdC (e : MHead) (data addr : Operand) (imm : BitVec 16) (fmt : Fmt) (s : State) : Result :=
  planeLoad .acc 0x82 e data addr imm fmt s
def execLdY (e : MHead) (data addr : Operand) (imm : BitVec 16) (fmt : Fmt) (s : State) : Result :=
  planeLoad .gal 0x83 e data addr imm fmt s

def planeStore (sp : Space) (op : BitVec 8) (h : MHead) (data addr : Operand) (imm : BitVec 16) (f : Fmt) (s : State) : Result :=
  let a := s.plainAddr addr imm f
  s.entry (s.srcHolds data) (s.srcRewrite data).toList
    (s.addrFaults sp addr ++ s.srcFaults data ++ (a.map fun a => rangeFaults sp a (fmtSize f) (64 * fmtSize f)).getD []) fun s =>
      let v := s.srcVec h.rot data
      let t := s.popPorts [addr, data]
      match a with
      | none => t
      | some a =>
        let r := vecBytes (groupOff sp s.cur.group a.toNat) f v (s.lanes h.vp)
        postAll h.cls (entryRecords s op (r.2.map fun (k, l) => (k, l, false))) (t.pendW h.cls (.bytes sp r.1))
def execStW (e : MHead) (data addr : Operand) (imm : BitVec 16) (fmt : Fmt) (s : State) : Result :=
  planeStore .wb 0x84 e data addr imm fmt s
def execStA (e : MHead) (data addr : Operand) (imm : BitVec 16) (fmt : Fmt) (s : State) : Result :=
  planeStore .ab 0x85 e data addr imm fmt s
def execStC (e : MHead) (data addr : Operand) (imm : BitVec 16) (fmt : Fmt) (s : State) : Result :=
  planeStore .acc 0x86 e data addr imm fmt s
def execStY (e : MHead) (data addr : Operand) (imm : BitVec 16) (fmt : Fmt) (s : State) : Result :=
  planeStore .gal 0x87 e data addr imm fmt s

/-! The NPF layout of imm16 and its checks (R245, R246) -/

/-- A row address: tile base and row. -/
structure RowAddr where
  a : Int
  tile : Nat
  row : Nat
  deriving DecidableEq, Repr
def State.rowAddr (s : State) (addr : Operand) (imm : BitVec 16) : Option RowAddr :=
  (s.addrBase addr).map fun b =>
    let a := b + (imm.extractLsb' 0 8).toInt
    ⟨a, (a - a % 128).toNat, (a % 128).toNat⟩
/-- The scalar number x of imm16. -/
def immScalar (imm : BitVec 16) : Fin 16 := fin4 (imm.extractLsb' 8 4)
/-- The plane count P of imm16. -/
def immPlanes (imm : BitVec 16) : Nat := (imm.extractLsb' 12 4).toNat
def rowFaults (sp : Space) (p : Nat) (r : RowAddr) : List (Cause × Int) :=
  (if 64 ≤ r.row then [(.misaligned, r.a)] else []) ++
    if groupIn sp (r.a - r.a % 128) (tileBytes p) then [] else [(.protection, r.a)]
/-- The header of the block is marked as under rewrite (R251). -/
def State.rowRewrite (s : State) (sp : Space) (r : RowAddr) : List (Space × Nat) :=
  if r.row < 64 ∧ groupIn sp (r.a - r.a % 128) 128 ∧ headerE (s.pre.npfHeader sp r.tile r.row) = 255 then [(sp, headerOff r.tile r.row)] else []
/-- A record about a block: kind, lane, space, header offset (R209). DEDUCED (log 18). -/
def blockRecord (s : State) (kind : BitVec 8) (lane : Nat) (sp : Space) (hdr : Nat) : StatRec :=
  statRecord kind true (BitVec.ofNat 5 s.cur.group.val) (BitVec.ofNat 6 lane) sp.code s.cur.hdr (BitVec.ofNat 48 hdr)
/-- NPF_NAN and NPF_SAT of a block. -/
def blockRecords (s : State) (sp : Space) (hdr : Nat) (nan sat : Option Nat) : List StatRec :=
  (nan.map fun l => blockRecord s 5 l sp hdr).toList ++ (sat.map fun l => blockRecord s 6 l sp hdr).toList
/-- Bytes at an offset as single writes. -/
def cellsAt (off : Nat) (bs : List (BitVec 8)) : List (Nat × BitVec 8) := bs.zipIdx.map fun (x, i) => (off + i, x)
def headerBytes (h : NpfHeader) : List (BitVec 8) := bytesLE 2 h.toNat

/-! Prefix reads and block writes (R249, R250) -/

def planePrefixLoad (sp : Space) (op : BitVec 8) (h : MHead) (data addr : Operand) (imm : BitVec 16) (k : BitVec 4) (rne : Bool) (f : Fmt)
    (s : State) : Result :=
  let p := immPlanes imm
  let ra := s.rowAddr addr imm
  let bad := p = 0 ∨ 12 < p ∨ p < k.toNat
  let faults := s.addrFaults sp addr ++ s.dstFaults data ++ (if bad then [(.illegalOp, 0)] else []) ++
    (ra.map (rowFaults sp p)).getD []
  s.entry (s.dstHolds data) ((ra.map (s.rowRewrite sp)).getD []) faults fun s =>
    let t := s.popPorts [addr]
    let fill (v : Lanes) (e : Nat) : State :=
      let w := t.writeDst h.cls h.rot data v (s.lanes h.vp)
      let u := postAll h.cls (entryRecords s op w.2) w.1
      if f = .int32 then u.pendW h.cls (.scalar (immScalar imm) (BitVec.ofNat 32 e)) else u
    match ra with
    | none => fill (Vector.replicate 64 0) 0
    | some r =>
      let e := headerE (s.pre.npfHeader sp r.tile r.row)
      let ms := s.pre.npfPrefix sp r.tile r.row p k.toNat rne
      fill (Vec.ofFn fun l =>
        let m := ms.getD l.val 0
        if f = .int32 then BitVec.ofInt 32 m else npfValue e k.toNat m) e
def execPldW (e : MHead) (data addr : Operand) (imm : BitVec 16) (k : BitVec 4) (rne : Bool) (fmt : Fmt) (s : State) : Result :=
  planePrefixLoad .wb 0x88 e data addr imm k rne fmt s
def execPldA (e : MHead) (data addr : Operand) (imm : BitVec 16) (k : BitVec 4) (rne : Bool) (fmt : Fmt) (s : State) : Result :=
  planePrefixLoad .ab 0x89 e data addr imm k rne fmt s
def execPldY (e : MHead) (data addr : Operand) (imm : BitVec 16) (k : BitVec 4) (rne : Bool) (fmt : Fmt) (s : State) : Result :=
  planePrefixLoad .gal 0x8A e data addr imm k rne fmt s

/-- The block that `pst` writes, from the lanes with excluded ones at 0 and the exponent field of s_x. -/
def pstBlock (f : Fmt) (vals : List (BitVec 32)) (k : Nat) (rne : Bool) (e : Nat) : NpfBlock :=
  if f = .int32 then
    let ts := vals.map (·.toInt)
    let ms := ts.map fun m => sat m (manMin k) (manMax k)
    let clamp := ts.findIdx? fun m => !decide (manMin k ≤ m ∧ m ≤ manMax k)
    if e = 0 ∨ ms.all (· == 0) then ⟨List.replicate 64 0, 0, none, clamp⟩
    else ⟨ms, headerOf (min e 0xFE) 0 0, none, if e = 0xFF then some 0 else clamp⟩
  else npfEncode (vals.map fun v => fpDecode fp32 v.toNat) k rne (if 1 ≤ e ∧ e ≤ 254 then some e else none)
def planeBlockStore (sp : Space) (h : MHead) (data addr : Operand) (imm : BitVec 16) (k : BitVec 4) (rne : Bool) (f : Fmt)
    (s : State) : Result :=
  let p := immPlanes imm
  let ra := s.rowAddr addr imm
  let bad := p = 0 ∨ 12 < p ∨ p < k.toNat
  s.entry (s.srcHolds data) (s.srcRewrite data).toList
    (s.addrFaults sp addr ++ s.srcFaults data ++ (if bad then [(.illegalOp, 0)] else []) ++ (ra.map (rowFaults sp p)).getD [])
    fun s =>
      let v := s.srcVec h.rot data
      let t := s.popPorts [addr, data]
      match ra with
      | none => t
      | some r =>
        let mask := s.lanes h.vp
        let vals := (List.finRange 64).map fun l => if mask.getLsbD l.val then v[l] else 0
        let blk := pstBlock f vals k.toNat rne (s.grp.scal[immScalar imm].toNat % 256)
        let hdr := headerOff r.tile r.row
        let rows := (List.range p).flatMap fun j =>
          cellsAt (planeRowOff r.tile r.row j) (if j < k.toNat then planeRow k.toNat j blk.ms else List.replicate 16 0)
        postAll h.cls (blockRecords s sp hdr blk.nan blk.sat) (t.pendW h.cls (.bytes sp (cellsAt hdr (headerBytes blk.hdr) ++ rows)))
def execPstW (e : MHead) (data addr : Operand) (imm : BitVec 16) (k : BitVec 4) (rne : Bool) (fmt : Fmt) (s : State) : Result :=
  planeBlockStore .wb e data addr imm k rne fmt s
def execPstA (e : MHead) (data addr : Operand) (imm : BitVec 16) (k : BitVec 4) (rne : Bool) (fmt : Fmt) (s : State) : Result :=
  planeBlockStore .ab e data addr imm k rne fmt s
def execPstY (e : MHead) (data addr : Operand) (imm : BitVec 16) (k : BitVec 4) (rne : Bool) (fmt : Fmt) (s : State) : Result :=
  planeBlockStore .gal e data addr imm k rne fmt s

/-! Optimiser updates (R252-R254) -/

/-- What an update writes: lines in order, as offset and bytes; and what posts NPF_NAN and NPF_SAT. -/
structure Update where
  lines : List (Nat × List (BitVec 8))
  nan : Option Nat := none
  sat : Option Nat := none
  deriving DecidableEq, Repr
/-- The lines of a renormalising update or an encoding: E = 0xFF, every plane row from the highest, the new header (R165). -/
def rewriteLines (tile row p : Nat) (old : NpfHeader) (ms : List Int) (new : NpfHeader) : List (Nat × List (BitVec 8)) :=
  [(headerOff tile row, headerBytes (headerOf 255 (headerGen old) (old.toNat % 16)))] ++
    ((List.range p).reverse.map fun j => (planeRowOff tile row j, planeRow p j ms)) ++ [(headerOff tile row, headerBytes new)]
/-- The lines of a plain update: the plane rows whose digits change, from the highest; the header last when the result is zero, also where
no digit changes. DESIGN CHOICE (log 43). -/
def changedLines (tile row p : Nat) (old : NpfHeader) (ms ms' : List Int) (new : NpfHeader) : List (Nat × List (BitVec 8)) :=
  (((List.range p).reverse.filter fun j => planeRow p j ms != planeRow p j ms').map fun j => (planeRowOff tile row j, planeRow p j ms')) ++
    if new ≠ old then [(headerOff tile row, headerBytes new)] else []
/-- R252 of a block with stored mantissas `ms` and the products α × u[c], exact. DEDUCED (log 18). -/
def updateBlock (tile row p : Nat) (rne : Bool) (h : NpfHeader) (ms : List Int) (z : List FpVal) : Update :=
  let e := headerE h
  if e = 0 then
    let b := npfEncode z p rne none
    ⟨if b.hdr = 0 then [] else rewriteLines tile row p h b.ms b.hdr, b.nan, b.sat⟩
  else
    let ts := z.map fun v => npfRound rne v (2 * p - 1 - ((e : Int) - 127))
    let out : Int → Bool := fun t => !decide (manMin p ≤ t ∧ t ≤ manMax p)
    let r := planeAdd p ms (ts.map fun t => sat t (manMin p) (manMax p)) h true
    ⟨match r.2 with
      | .renormalised => rewriteLines tile row p h r.1.ms r.1.hdr
      | .plain => changedLines tile row p h ms r.1.ms r.1.hdr,
      z.findIdx? (·.isNan), match ts.findIdx? out with
        | some l => some l
        | none => r.1.sat⟩
/-- u in the lanes of vp, +0 elsewhere, times α. -/
def scaledLanes (alpha : BitVec 32) (u : Lanes) (mask : BitVec 64) : List FpVal :=
  (List.finRange 64).map fun l =>
    (fpDecode fp32 alpha.toNat).mul (if mask.getLsbD l.val then fpDecode fp32 u[l].toNat else .fin false 0 0)
/-- The frame of the three updates: `prep` gives α, u, and what the momentum form also writes. -/
def planeUpdate (h : MHead) (data addr : Operand) (imm : BitVec 16) (k : BitVec 4) (rne : Bool) (faults : List (Cause × Int))
    (srcs : List Operand) (prep : State → BitVec 32 × Lanes) (also : State → State) (s : State) : Result :=
  let p := k.toNat
  let ra := s.rowAddr addr imm
  let fs := s.addrFaults .wb addr ++ faults ++ srcs.flatMap s.srcFaults ++ (ra.map (rowFaults .wb p)).getD []
  s.entry (srcs.any s.srcHolds) (srcs.filterMap s.srcRewrite ++ (ra.map (s.rowRewrite .wb)).getD []) fs fun s =>
    let pr := prep s
    let t := s.popPorts (addr :: srcs)
    match ra with
    | none => t
    | some r =>
      let h0 := s.pre.npfHeader .wb r.tile r.row
      let u := updateBlock r.tile r.row p rne h0 (mantissas (s.pre.npfRows .wb r.tile r.row p)) (scaledLanes pr.1 pr.2 (s.lanes h.vp))
      let last := s.cycle + latency h.cls - 1
      let t := u.lines.zipIdx.foldl (fun t (l, i) => t.pendAt (last - u.lines.length + 1 + i) (.npf .wb (cellsAt l.1 l.2))) t
      also (postAll h.cls (blockRecords s .wb (headerOff r.tile r.row) u.nan u.sat) t)
def fpOne : BitVec 32 := 0x3F800000
def execPupdAdd (e : MHead) (data addr : Operand) (imm : BitVec 16) (k : BitVec 4) (rne : Bool) (s : State) : Result :=
  planeUpdate e data addr imm k rne [] [data] (fun s => (fpOne, s.srcVec e.rot data)) id s
def execPupdAxpy (e : MHead) (data addr : Operand) (imm : BitVec 16) (k : BitVec 4) (rne : Bool) (s : State) : Result :=
  planeUpdate e data addr imm k rne [] [data] (fun s => (s.grp.scal[immScalar imm], s.srcVec e.rot data)) id s
/-- w[c] = rne(β × V[c] + G[c]) of every lane. -/
def momentum (beta : BitVec 32) (v g : Lanes) : Vector FpRes 64 := Vec.ofFn fun l => fpFma fp32 false false beta.toNat v[l].toNat g[l].toNat
def execPupdMom (e : MHead) (data addr : Operand) (imm : BitVec 16) (k : BitVec 4) (rne : Bool) (s : State) : Result :=
  match data with
  | .mat m dir i =>
    let ix := s.index e.rot i
    let rs := momentum s.grp.scal[immScalar imm + 1] (s.grp.vec m dir ix) (s.grp.vec m dir (ix + 1))
    let w : Lanes := Vec.map (fun r => BitVec.ofNat 32 r.bits) rs
    let mask := s.lanes e.vp
    let notes : List LaneNote := (List.finRange 64).flatMap fun l =>
      if mask.getLsbD l.val then
        (if rs[l].invalid then [(1, l, false)] else []) ++ if rs[l].overflow then [(2, l, false)] else []
      else []
    planeUpdate e data addr imm k rne [] [] (fun s => (s.grp.scal[immScalar imm], w))
      (fun t => postAll e.cls (entryRecords s 0x90 notes) (t.pendW e.cls (.mat m dir ix w mask))) s
  | _ => planeUpdate e data addr imm k rne [(.illegalOp, 0)] [] (fun _ => (0, Vector.replicate 64 0)) id s

/-! The spill stack (R255) -/

/-- gsp of the group written at issue. -/
def State.setGsp (s : State) (v : Nat) : State :=
  (s.modGroup s.cur.group fun g => { g with gsp := BitVec.ofNat 32 v }).modMe fun b =>
    b.logWrites [registerRecord s.src (0x63100 + s.cur.group.val) 4 (BitVec.ofNat 64 v)]
/-- Bytes of a vector as raw 32-bit patterns. -/
def rawBytes (v : Lanes) : List (BitVec 8) := v.toList.flatMap fun x => bytesLE 4 x.toNat
/-- gsp as the entry finds it: under V1 of a two-cycle bundle it is judged by what V0's entry leaves, which is what it then finds (R33). -/
def State.gspHere (s : State) : Nat := (if s.cur.two ∧ s.cur.slot = .v1 then s.grpNow.gsp else s.grp.gsp).toNat
def execPushm (e : MHead) (data : Operand) (imm : BitVec 6) (s : State) : Result :=
  let n := imm.toNat + 1
  let sp := s.gspHere
  match data with
  | .mat m dir i =>
    s.entry false [] (if sp < 256 * n + s.grp.gbase.toNat then [(.stackBounds, (sp : Int))] else []) fun s =>
      let low := sp - 256 * n
      let ix := s.index e.rot i
      let bs := (List.range n).flatMap fun j => rawBytes (s.grp.vec m dir (ix + Fin.ofNat 64 j))
      (s.setGsp low).pendW e.cls (.bytes .gal (cellsAt low bs))
  | _ => s.entry false [] [(.illegalOp, 0)] id
def execPopm (e : MHead) (data : Operand) (imm : BitVec 6) (s : State) : Result :=
  let n := imm.toNat + 1
  let sp := s.gspHere
  match data with
  | .mat m dir i =>
    s.entry false [] (if s.grp.glimit.toNat < sp + 256 * n then [(.stackBounds, (sp : Int))] else []) fun s =>
      let ix := s.index e.rot i
      let t := (List.range n).foldl (fun t j =>
        t.pendW e.cls (.mat m dir (ix + Fin.ofNat 64 j) (s.pre.readVec .gal (sp + 256 * j) .int32) (s.lanes e.vp))) s
      t.setGsp (sp + 256 * n)
  | _ => s.entry false [] [(.illegalOp, 0)] id

/-! Pointer and port control (R239, R243) -/

/-- A handle field of `cbadv`: none for `zero`, an error for another kind. -/
def handleField : Operand → Except Unit (Option (Fin 16))
  | .cb n => .ok (some n)
  | .zero => .ok none
  | _ => .error ()
/-- The causes of one handle field. -/
def State.advanceFaults (s : State) (amount : Nat) (o : Operand) : List (Cause × Int) :=
  match handleField o with
  | .error _ => [(.illegalOp, 0)]
  | .ok none => []
  | .ok (some n) =>
    match s.pre.cbs[n].cfg with
    | none => [(.illegalOp, 0)]
    | some c => if c.n < amount then [(.illegalOp, 0)] else []
/-- Advances that the bundle asks of one pointer. -/
def advanceTotal (l : List (Bool × Bool × Fin 16 × Nat)) (prod : Bool) (n : Fin 16) : Nat :=
  (l.filter fun x => x.2.1 == prod && x.2.2.1 == n).foldl (fun t x => t + x.2.2.2) 0
/-- This entry's advance of a pointer, unless a lower group of the slot has named it (R243). -/
def State.noteAdvance (s : State) (prod : Bool) (o : Operand) (amount : Nat) : List (Bool × Bool × Fin 16 × Nat) :=
  let v1 := s.cur.slot == .v1
  match handleField o with
  | .ok (some n) => if s.cur.advances.any (fun x => x.1 == v1 && x.2.1 == prod && x.2.2.1 == n) then [] else [(v1, prod, n, amount)]
  | _ => []
/-- The ring holds fewer slots than the bundle's advances take. -/
def State.advanceHolds (s : State) (l : List (Bool × Bool × Fin 16 × Nat)) : Bool :=
  (List.finRange 16).any fun n =>
    match s.pre.cbs[n].cfg with
    | none => false
    | some c =>
      let f := s.pre.cbs[n].filled c.n
      decide (f < advanceTotal l false n) || decide (c.n - f < advanceTotal l true n)
/-- The pointer moves at the end of the issue cycle. -/
def State.movePointer (s : State) (x : Bool × Bool × Fin 16 × Nat) : State := s.pendAt s.cycle (.move x.2.1 x.2.2.1 x.2.2.2)
def execCbadv (_ : MHead) (data addr : Operand) (imm : BitVec 16) (s : State) : Result :=
  let amount := imm.toNat
  let faults := s.advanceFaults amount data ++ s.advanceFaults amount addr
  let mine := s.noteAdvance true data amount ++ s.noteAdvance false addr amount
  let all := s.cur.advances ++ mine
  s.entry (faults = [] ∧ s.advanceHolds all) [] faults fun s =>
    mine.foldl State.movePointer { s with cur := { s.cur with advances := all } }
/-- The causes of a port field of `qrst` or `qadv`. -/
def State.seekFaults (s : State) (write : Bool) : Operand → List (Cause × Int)
  | .zero => []
  | .port n => if decide (8 ≤ n.val) = write ∧ s.grpNow.ports[n].cfg.isSome then [] else [(.illegalOp, 0)]
  | _ => [(.illegalOp, 0)]
/-- Both fields act at the end of the issue cycle. -/
def seekPorts (data addr : Operand) (step : Option Int) (s : State) : Result :=
  s.entry false [] (s.seekFaults true data ++ s.seekFaults false addr) fun s =>
    [data, addr].foldl (fun s o => match o with
      | .port n => s.pendAt s.cycle (.seek n step)
      | _ => s) s
def execQrst (_ : MHead) (data addr : Operand) (s : State) : Result := seekPorts data addr none s
def execQadv (_ : MHead) (data addr : Operand) (imm : BitVec 16) (s : State) : Result := seekPorts data addr (some imm.toInt) s

end Sys2Proof.Machine
end

