-- ==== Sys2Proof/Machine/QSlot.lean ====
section
/-!
DEFINITION. The Q slot (R212-R222, R226-R229): loops, branches, flags, queues, masks and stage predicates of the broadcast sequencer,
and the flip.
-/
namespace Sys2Proof.Machine

/-- H + the length of the broadcast bundle. -/
def State.nextBcast (s : State) : VA := s.cur.hdr + BitVec.ofNat 56 s.cur.len
/-- The groups of a mask register before the bundle. -/
def State.maskGroups (s : State) (m : Fin 8) : List GroupId := (List.finRange 24).filter fun g => s.pre.gm[m].getLsbD g.val
/-- The stack without the entry of bl and every entry above it (R219). -/
def dropBLoop (bl : Fin 4) (l : List BLoopEntry) : List BLoopEntry :=
  if l.any (·.bl == bl) then (l.dropWhile (·.bl != bl)).drop 1 else l
/-- Opens a loop with a count (R219). A loop bundle has no loop-end processing (R220): it transfers, to the next bundle or past the body. -/
def openBLoop (bl : Fin 4) (rt : Bool) (n : BitVec 32) (last : BitVec 10) (s : State) : State :=
  let e : VA := s.cur.hdr + last.zeroExtend 56 * 4
  let rest := dropBLoop bl s.pre.bloops
  if n = 0 then
    match s.cores[s.cur.core].cachedWord true e with
    | none => s.wantLine e
    | some h =>
      match bcastLength h with
      | none => s.raise .illegalBundle
      | some len => (s.modMe fun b => { b with bloops := rest, bl := b.bl.set bl 0 }).goto (e + BitVec.ofNat 56 len)
  else (s.modMe fun b => { b with bloops := ⟨bl, rt, s.nextBcast, e⟩ :: rest, bl := b.bl.set bl n }).goto s.nextBcast
def execBloop (bl : Fin 4) (rt : Bool) (cnt : BitVec 13) (last : BitVec 10) (s : State) : Result :=
  .next (openBLoop bl rt (cnt.zeroExtend 32) last s)
/-- The oldest ctq entry removed, or the bundle held (R212, R217). -/
def popCtq (k : BitVec 64 → State → State) (s : State) : State :=
  match s.pre.ctq with
  | [] => s.holdFor .stall
  | v :: _ => k v (s.modMe fun b => { b with ctq := b.ctq.drop 1 })
def execBloopCtq (bl : Fin 4) (rt : Bool) (last : BitVec 10) (s : State) : Result :=
  .next (popCtq (fun v s => openBLoop bl rt (v.extractLsb' 0 32) last s) s)

/-- The condition of `bbr` and `bcall` (R215). -/
def State.bcond (s : State) (cnd : BitVec 4) : Bool :=
  let n := fin3 (cnd.extractLsb' 0 3)
  if n.val = 0 then !cnd.getLsbD 3 else s.pre.sp[n] != cnd.getLsbD 3
def bcastTarget (h : VA) (off : BitVec 22) : VA := h + off.signExtend 56 * 4
def execBbr (cnd : BitVec 4) (off : BitVec 22) (s : State) : Result :=
  .next (if s.bcond cnd then s.goto (bcastTarget s.cur.hdr off) else s)
/-- R221: the return stack holds eight addresses. -/
def execBcall (cnd : BitVec 4) (off : BitVec 22) (s : State) : Result :=
  .next (if s.bcond cnd then
    if 8 ≤ s.pre.brets.length then s.raise .illegalOp
    else (s.modMe fun b => { b with brets := s.nextBcast :: b.brets }).goto (bcastTarget s.cur.hdr off)
  else s)
def execBret (s : State) : Result :=
  .next (match s.pre.brets with
    | [] => s.raise .illegalOp
    | t :: _ => (s.modMe fun b => { b with brets := b.brets.drop 1 }).goto t)

/-! Flags (R216, R222) -/

def execBsetf (n : Fin 16) (s : State) : Result := .next (s.flagAt n true s.releaseAt)
def execBclrf (n : Fin 16) (s : State) : Result := .next (s.flagAt n false s.cycle)
def execBwaitf (n : Fin 16) (s : State) : Result := .next (if s.pre.flags[n] then s else s.holdFor .stall)
/-- R222: running clears at the end of the issue cycle. -/
def haltBroadcast (s : State) : State := s.modMe fun b => { b with bhalting := true }
def execBhalt (s : State) : Result := .next (haltBroadcast s)
def execBhaltFlag (n : Fin 16) (s : State) : Result := .next (haltBroadcast (s.flagAt n true s.releaseAt))

/-! Queues (R217) -/

/-- A group scalar written at the end of the cycle by the Q slot: after `sgw`, before entries. -/
def State.bcastScalar (s : State) (n : Fin 16) (v : BitVec 32) (g : GroupId) : State :=
  s.modMe fun b => { b with pend := b.pend ++ [⟨s.cycle, 1, false, g, .scalar n v, ⟨1, s.pre.bcastCount, slotPos .q g⟩⟩] }
def Body.setSp (b : Body) (n : Fin 8) (v : Bool) : Body := if n.val = 0 then b else { b with sp := b.sp.set n v }
/-- rot of every group of a list. -/
def Body.setRots (b : Body) (gs : List GroupId) (f : Fin 64 → Fin 64) : Body :=
  gs.foldl (fun b g =>
    let r := f b.groups[g].rot
    { b with groups := Vec.modify b.groups g fun k => { k with rot := r } }.logWrites
      [registerRecord ⟨1, b.bcastCount, slotPos .q g⟩ (0x63000 + g.val) 1 (BitVec.ofNat 64 r.val)]) b
def State.setRots (s : State) (gs : List GroupId) (f : Fin 64 → Fin 64) : State := s.modMe fun b => b.setRots gs f
def popTo (dst : PopDst) (v : BitVec 64) (s : State) : State :=
  match dst with
  | .bl n => s.modMe fun b => { b with bl := b.bl.set n (v.extractLsb' 0 32) }
  | .gm n => s.modMe fun b => { b with gm := b.gm.set n (v.extractLsb' 0 24) }
  | .sp => s.modMe fun b => (List.finRange 8).foldl (fun b n => b.setSp n (v.getLsbD n.val)) b
  | .rot m => s.setRots (s.maskGroups m) fun _ => fin6 (v.extractLsb' 0 6)
  | .scalar n m => (s.maskGroups m).foldl (fun s g => s.bcastScalar n (v.extractLsb' 0 32) g) s
  | .discard => s
def execBpopq (dst : PopDst) (s : State) : Result := .next (popCtq (popTo dst) s)
/-- {sp7, …, sp1, 1}. -/
def spBits (b : Body) : BitVec 64 :=
  (List.finRange 8).foldl (fun x n => if n.val == 0 || b.sp[n] then x ||| (1#64 <<< n.val) else x) 0
def State.pushValue (s : State) : PushSrc → BitVec 64
  | .bl n => s.pre.bl[n].zeroExtend 64
  | .gm n => s.pre.gm[n].zeroExtend 64
  | .sp => spBits s.pre
  | .scalar n g => s.pre.groups[g].scal[n].zeroExtend 64
  | .imm v => v.zeroExtend 64
def execBpushq (src : PushSrc) (s : State) : Result :=
  .next (if 64 ≤ s.pre.btq.length then s.holdFor .stall
  else s.modMe fun b => { b with btq := b.btq ++ [⟨s.pushValue src, s.releaseAt⟩] })

/-! Stage predicates and rot (R218) -/

def execBsetsp (wmask value : BitVec 7) (s : State) : Result :=
  .next (s.modMe fun b => (List.finRange 8).foldl (fun b n =>
    if n.val ≠ 0 ∧ wmask.getLsbD (n.val - 1) then b.setSp n (value.getLsbD (n.val - 1)) else b) b)
def execBrot (gm : Fin 8) (e : BitVec 6) (s : State) : Result := .next (s.setRots (s.maskGroups gm) fun _ => fin6 e)
def execBrotA (gm : Fin 8) (e : BitVec 6) (s : State) : Result := .next (s.setRots (s.maskGroups gm) fun r => r + fin6 e)

/-! Loop-end processing (R220) -/

/-- One completed pass of the top loop. -/
def Body.bloopPass (b : Body) (rt continuing : Bool) : Body :=
  if rt then
    { b.setRots (List.finRange 24) (· - 1) with
      sp := Vec.ofFn fun n => if n.val = 0 then true else if n.val = 1 then continuing else b.sp[n - 1] }
  else b
/-- The processing at the address of the issued bundle, whose stack before it is `stack`: the new state and the next bundle. -/
def Body.bloopEnd (b : Body) (here next : VA) : List BLoopEntry → Body × VA
  | [] => (b, next)
  | top :: rest =>
    if top.stop ≠ here then (b, next)
    else
      let continuing := decide (1#32 < b.bl[top.bl])
      let b := b.bloopPass top.rt continuing
      if continuing then ({ b with bl := b.bl.set top.bl (b.bl[top.bl] - 1) }, top.start)
      else Body.bloopEnd { b with bl := b.bl.set top.bl 0, bloops := rest } here next rest

/-! The flip (R226-R228) -/

/-- A `cptab` of the core is incomplete: it writes the back bank (R228). -/
def Body.backIncomplete (b : Body) : Bool := b.commands.any fun c => c.writes.any (·.space == .tbl)
/-- Front and back banks exchanged with their class maps; FLIPAT cleared. -/
def Body.flipBanks (b : Body) : Body :=
  { b with front := b.back, back := b.front, sys := { b.sys with flipAt := 0 } }
/-- R227. The exchange shows in the state before the bundle too, so that the V slots look up the new front bank. -/
def execFlip (s : State) : Result :=
  .next (
    let at_ := s.pre.sys.flipAt.toNat
    if at_ = 0 ∨ at_ < s.cycle then s.raise .flipLate
    else if s.cycle < at_ then s.holdFor .stall
    else if s.pre.back.refused ∨ s.pre.backIncomplete then s.raise .flipRefused
    else { (s.modMe Body.flipBanks) with pre := s.pre.flipBanks })

end Sys2Proof.Machine
end

