-- ==== Sys2Proof/Machine/IX.lean ====
section
/-!
DEFINITION. The `ix` instruction (R30, R33, R80, R90, R214): participating groups look up the front bank and run the entry they find.
-/
namespace Sys2Proof.Machine

/-- The meaning of an entry: that of the instruction it stands for. -/
def runEntry (x : Entry) (s : State) : Host.Outcome State Fault Refusal :=
  match x with
  | .nop e => Sys2Proof.Machine.execNop e s
  | .fadd e d a b => Sys2Proof.Machine.execFadd e d a b s
  | .fsub e d a b => Sys2Proof.Machine.execFsub e d a b s
  | .fmul e d a b => Sys2Proof.Machine.execFmul e d a b s
  | .fma e d a b c => Sys2Proof.Machine.execFma e d a b c s
  | .fms e d a b c => Sys2Proof.Machine.execFms e d a b c s
  | .fnma e d a b c => Sys2Proof.Machine.execFnma e d a b c s
  | .fmin e d a b => Sys2Proof.Machine.execFmin e d a b s
  | .fmax e d a b => Sys2Proof.Machine.execFmax e d a b s
  | .fabs e d a => Sys2Proof.Machine.execFabs e d a s
  | .fneg e d a => Sys2Proof.Machine.execFneg e d a s
  | .frcp e d a => Sys2Proof.Machine.execFrcp e d a s
  | .frsq e d a => Sys2Proof.Machine.execFrsq e d a s
  | .fsqrt e d a => Sys2Proof.Machine.execFsqrt e d a s
  | .fexp2 e d a => Sys2Proof.Machine.execFexp2 e d a s
  | .flog2 e d a => Sys2Proof.Machine.execFlog2 e d a s
  | .fsig e d a => Sys2Proof.Machine.execFsig e d a s
  | .fcmp e pd a b => Sys2Proof.Machine.execFcmp e pd a b s
  | .fround e d a => Sys2Proof.Machine.execFround e d a s
  | .fcvt e d a b => Sys2Proof.Machine.execFcvt e d a b s
  | .scacc e d a b c => Sys2Proof.Machine.execScacc e d a b c s
  | .qnt e d a b c => Sys2Proof.Machine.execQnt e d a b c s
  | .fsum e d a => Sys2Proof.Machine.execFsum e d a s
  | .fmaxr e d a => Sys2Proof.Machine.execFmaxr e d a s
  | .fscan e d a => Sys2Proof.Machine.execFscan e d a s
  | .iadd e d a b => Sys2Proof.Machine.execIadd e d a b s
  | .isub e d a b => Sys2Proof.Machine.execIsub e d a b s
  | .imul e d a b => Sys2Proof.Machine.execImul e d a b s
  | .imad e d a b c => Sys2Proof.Machine.execImad e d a b c s
  | .imin e d a b => Sys2Proof.Machine.execImin e d a b s
  | .imax e d a b => Sys2Proof.Machine.execImax e d a b s
  | .iminu e d a b => Sys2Proof.Machine.execIminu e d a b s
  | .imaxu e d a b => Sys2Proof.Machine.execImaxu e d a b s
  | .iabs e d a => Sys2Proof.Machine.execIabs e d a s
  | .vecSll e d a b => Sys2Proof.Machine.execVecSll e d a b s
  | .vecSrl e d a b => Sys2Proof.Machine.execVecSrl e d a b s
  | .vecSra e d a b => Sys2Proof.Machine.execVecSra e d a b s
  | .vecAnd e d a b => Sys2Proof.Machine.execVecAnd e d a b s
  | .vecOr e d a b => Sys2Proof.Machine.execVecOr e d a b s
  | .vecXor e d a b => Sys2Proof.Machine.execVecXor e d a b s
  | .vecAndn e d a b => Sys2Proof.Machine.execVecAndn e d a b s
  | .not e d a => Sys2Proof.Machine.execNot e d a s
  | .vecPopc e d a => Sys2Proof.Machine.execVecPopc e d a s
  | .vecClz e d a => Sys2Proof.Machine.execVecClz e d a s
  | .icmp e pd a b => Sys2Proof.Machine.execIcmp e pd a b s
  | .dot8 e d a b c => Sys2Proof.Machine.execDot8 e d a b c s
  | .isum e d a => Sys2Proof.Machine.execIsum e d a s
  | .iscan e d a => Sys2Proof.Machine.execIscan e d a s
  | .mov e d a => Sys2Proof.Machine.execMov e d a s
  | .vsel e d a b => Sys2Proof.Machine.execVsel e d a b s
  | .perm e d a b => Sys2Proof.Machine.execPerm e d a b s
  | .bcast e d a b => Sys2Proof.Machine.execBcast e d a b s
  | .vpand e pd pa pb => Sys2Proof.Machine.execVpand e pd pa pb s
  | .vpor e pd pa pb => Sys2Proof.Machine.execVpor e pd pa pb s
  | .vpxor e pd pa pb => Sys2Proof.Machine.execVpxor e pd pa pb s
  | .vpnot e pd pa => Sys2Proof.Machine.execVpnot e pd pa s
  | .vpcount e d pa => Sys2Proof.Machine.execVpcount e d pa s
  | .tos e d a b => Sys2Proof.Machine.execTos e d a b s
  | .ldW e data addr imm fmt => Sys2Proof.Machine.execLdW e data addr imm fmt s
  | .ldA e data addr imm fmt => Sys2Proof.Machine.execLdA e data addr imm fmt s
  | .ldC e data addr imm fmt => Sys2Proof.Machine.execLdC e data addr imm fmt s
  | .ldY e data addr imm fmt => Sys2Proof.Machine.execLdY e data addr imm fmt s
  | .stW e data addr imm fmt => Sys2Proof.Machine.execStW e data addr imm fmt s
  | .stA e data addr imm fmt => Sys2Proof.Machine.execStA e data addr imm fmt s
  | .stC e data addr imm fmt => Sys2Proof.Machine.execStC e data addr imm fmt s
  | .stY e data addr imm fmt => Sys2Proof.Machine.execStY e data addr imm fmt s
  | .pldW e data addr imm k rne fmt => Sys2Proof.Machine.execPldW e data addr imm k rne fmt s
  | .pldA e data addr imm k rne fmt => Sys2Proof.Machine.execPldA e data addr imm k rne fmt s
  | .pldY e data addr imm k rne fmt => Sys2Proof.Machine.execPldY e data addr imm k rne fmt s
  | .pstW e data addr imm k rne fmt => Sys2Proof.Machine.execPstW e data addr imm k rne fmt s
  | .pstA e data addr imm k rne fmt => Sys2Proof.Machine.execPstA e data addr imm k rne fmt s
  | .pstY e data addr imm k rne fmt => Sys2Proof.Machine.execPstY e data addr imm k rne fmt s
  | .pupdAdd e data addr imm k rne => Sys2Proof.Machine.execPupdAdd e data addr imm k rne s
  | .pupdAxpy e data addr imm k rne => Sys2Proof.Machine.execPupdAxpy e data addr imm k rne s
  | .pupdMom e data addr imm k rne => Sys2Proof.Machine.execPupdMom e data addr imm k rne s
  | .pushm e data imm => Sys2Proof.Machine.execPushm e data imm s
  | .popm e data imm => Sys2Proof.Machine.execPopm e data imm s
  | .cbadv e data addr imm => Sys2Proof.Machine.execCbadv e data addr imm s
  | .qrst e data addr => Sys2Proof.Machine.execQrst e data addr s
  | .qadv e data addr imm => Sys2Proof.Machine.execQadv e data addr imm s
  | .mxgoG e split tv tok => Sys2Proof.Machine.execMxgoG e split tv tok s
  | .mxldsG e sn ph kw tv tok => Sys2Proof.Machine.execMxldsG e sn ph kw tv tok s
  | .mxqG e d => Sys2Proof.Machine.execMxqG e d s

/-- The participating groups of a V slot (R30). -/
def State.participants (s : State) (gm sp : Fin 8) : List GroupId :=
  if sp.val = 0 ∨ s.pre.sp[sp] then s.maskGroups gm else []
/-- The entry a group finds: none where it is invalid (R90). -/
def State.lookupEntry (s : State) (index : Fin 1024) (g : GroupId) : Option Entry :=
  let x := s.pre.front.get g index
  if x.getLsbD 0 then (match decodeEntry x with | .ok e => some e | .error _ => none) else none
/-- The group holds a plane-unit entry at the index. -/
def State.planeAt (s : State) (index : Fin 1024) (g : GroupId) : Bool :=
  let op := (s.pre.front.get g index).extractLsb' 56 8
  (s.lookupEntry index g).isSome && decide (0x80#8 ≤ op ∧ op < 0xC0#8)
/-- Some group participates in both slots with plane-unit entries (R33). -/
def State.twoCycle (s : State) (i0 i1 : Fin 1024) (gm0 sp0 gm1 sp1 : Fin 8) : Bool :=
  (s.participants gm0 sp0).any fun g => (s.participants gm1 sp1).contains g && s.planeAt i0 g && s.planeAt i1 g
def State.enterGroup (s : State) (g : GroupId) (imm : BitVec 16) (rot : Fin 64) : State :=
  { s with cur := { s.cur with group := g, imm := imm, rot := rot } }
/-- One group runs its entry; an invalid one raises ILLEGAL_OP. -/
def runGroup (index : Fin 1024) (imm : BitVec 16) (g : GroupId) (s : State) : Result :=
  let s := s.enterGroup g imm s.pre.groups[g].rot
  match s.lookupEntry index g with
  | some e => runEntry e s
  | none => .next (s.raise .illegalOp)
/-- One meaning after another. -/
def runAll {α : Type} (f : α → State → Result) : List α → State → Result
  | [], s => .next s
  | x :: xs, s =>
    match f x s with
    | .next s => runAll f xs s
    | r => r
/-- Ports that entries of this bundle set at the end of the cycle, as they stand (R239). -/
def State.portsSet (s : State) : List (GroupId × Fin 16 × Port) :=
  (s.me.pend.drop s.pre.pend.length).filterMap fun w => match w.w with
    | .seek n _ => some (w.group, n, s.me.groups[w.group].ports[n])
    | _ => none
/-- Under V1 of a two-cycle bundle the entries are checked now and run in the next cycle, with handles and ports as before the bundle. -/
def deferSecond (index : Fin 1024) (imm : BitVec 16) (gs : List GroupId) (s s' : State) : State :=
  let tail := (s'.me.pend.drop s.me.pend.length).foldl (fun m w => max m (w.due + 1)) (max s.cur.tail (s.cycle + 1))
  { s with cur := { s'.cur with tail := tail } }.modMe fun b => { b with
    bsecond := b.bsecond ++ gs.map fun g => (g, s.pre.front.get g index, imm, s.pre.groups[g].rot)
    bsecondCbs := s.pre.cbs, bsecondPorts := s.portsSet, bsecondFrom := s.cycle + 1 }
def execIx (index : Fin 1024) (gm sp : Fin 8) (imm : BitVec 16) (s : State) : Result :=
  let gs := s.participants gm sp
  match runAll (runGroup index imm) gs s with
  | .next s' => .next (if s.cur.two ∧ s.cur.slot = .v1 then deferSecond index imm gs s s' else s')
  | r => r
/-- The V1 entries of a two-cycle bundle, in its second cycle. -/
def runSecond (x : GroupId × BitVec 64 × BitVec 16 × Fin 64) (s : State) : Result :=
  let s := s.enterGroup x.1 x.2.2.1 x.2.2.2
  match decodeEntry x.2.1 with
  | .ok e => runEntry e s
  | .error _ => .next s

end Sys2Proof.Machine
end

