-- ==== Sys2Proof/Machine/Dispatch.lean ====
section
/-!
DEFINITION. One arm for each constructor of Instr.
-/
namespace Sys2Proof.Machine

/-- The meaning of each instruction and event of the opcode table. -/
def exec (i : Instr) (s : State) : Host.Outcome State Fault Refusal :=
  match i with
  | .emptyBundle landing fold => Sys2Proof.Machine.execEmptyBundle landing fold s
  | .emptyBroadcastBundle fold wait => Sys2Proof.Machine.execEmptyBroadcastBundle fold wait s
  | .add q d a b => Sys2Proof.Machine.execAdd q d a b s
  | .sub q d a b => Sys2Proof.Machine.execSub q d a b s
  | .and q d a b => Sys2Proof.Machine.execAnd q d a b s
  | .or q d a b => Sys2Proof.Machine.execOr q d a b s
  | .xor q d a b => Sys2Proof.Machine.execXor q d a b s
  | .andn q d a b => Sys2Proof.Machine.execAndn q d a b s
  | .min q d a b => Sys2Proof.Machine.execMin q d a b s
  | .max q d a b => Sys2Proof.Machine.execMax q d a b s
  | .minu q d a b => Sys2Proof.Machine.execMinu q d a b s
  | .maxu q d a b => Sys2Proof.Machine.execMaxu q d a b s
  | .sll q d a b => Sys2Proof.Machine.execSll q d a b s
  | .srl q d a b => Sys2Proof.Machine.execSrl q d a b s
  | .sra q d a b => Sys2Proof.Machine.execSra q d a b s
  | .rol q d a b => Sys2Proof.Machine.execRol q d a b s
  | .mul q d a b => Sys2Proof.Machine.execMul q d a b s
  | .mulh q d a b => Sys2Proof.Machine.execMulh q d a b s
  | .mulhu q d a b => Sys2Proof.Machine.execMulhu q d a b s
  | .div q d a b => Sys2Proof.Machine.execDiv q d a b s
  | .divu q d a b => Sys2Proof.Machine.execDivu q d a b s
  | .rem q d a b => Sys2Proof.Machine.execRem q d a b s
  | .remu q d a b => Sys2Proof.Machine.execRemu q d a b s
  | .cmpeq q pd a b => Sys2Proof.Machine.execCmpeq q pd a b s
  | .cmpne q pd a b => Sys2Proof.Machine.execCmpne q pd a b s
  | .cmplt q pd a b => Sys2Proof.Machine.execCmplt q pd a b s
  | .cmpltu q pd a b => Sys2Proof.Machine.execCmpltu q pd a b s
  | .cmple q pd a b => Sys2Proof.Machine.execCmple q pd a b s
  | .cmpleu q pd a b => Sys2Proof.Machine.execCmpleu q pd a b s
  | .sel q d pc a b => Sys2Proof.Machine.execSel q d pc a b s
  | .clz q d a => Sys2Proof.Machine.execClz q d a s
  | .ctz q d a => Sys2Proof.Machine.execCtz q d a s
  | .popc q d a => Sys2Proof.Machine.execPopc q d a s
  | .sext q d a fn => Sys2Proof.Machine.execSext q d a fn s
  | .zext q d a fn => Sys2Proof.Machine.execZext q d a fn s
  | .addi p d a imm => Sys2Proof.Machine.execAddi p d a imm s
  | .andi p d a imm => Sys2Proof.Machine.execAndi p d a imm s
  | .ori p d a imm => Sys2Proof.Machine.execOri p d a imm s
  | .xori p d a imm => Sys2Proof.Machine.execXori p d a imm s
  | .slli p d a sh => Sys2Proof.Machine.execSlli p d a sh s
  | .srli p d a sh => Sys2Proof.Machine.execSrli p d a sh s
  | .srai p d a sh => Sys2Proof.Machine.execSrai p d a sh s
  | .cmpi p cond pd a imm => Sys2Proof.Machine.execCmpi p cond pd a imm s
  | .lui d imm => Sys2Proof.Machine.execLui d imm s
  | .addpc d imm => Sys2Proof.Machine.execAddpc d imm s
  | .faddS q d a b => Sys2Proof.Machine.execFaddS q d a b s
  | .fsubS q d a b => Sys2Proof.Machine.execFsubS q d a b s
  | .fmulS q d a b => Sys2Proof.Machine.execFmulS q d a b s
  | .fminS q d a b => Sys2Proof.Machine.execFminS q d a b s
  | .fmaxS q d a b => Sys2Proof.Machine.execFmaxS q d a b s
  | .fcvtS q d a fn => Sys2Proof.Machine.execFcvtS q d a fn s
  | .fcmpS q pd a b fn => Sys2Proof.Machine.execFcmpS q pd a b fn s
  | .plog q pd pa pb tt => Sys2Proof.Machine.execPlog q pd pa pb tt s
  | .ldb q r base off => Sys2Proof.Machine.execLdb q r base off s
  | .ldbu q r base off => Sys2Proof.Machine.execLdbu q r base off s
  | .ldh q r base off => Sys2Proof.Machine.execLdh q r base off s
  | .ldhu q r base off => Sys2Proof.Machine.execLdhu q r base off s
  | .ldw q r base off => Sys2Proof.Machine.execLdw q r base off s
  | .ldwu q r base off => Sys2Proof.Machine.execLdwu q r base off s
  | .ldd q r base off => Sys2Proof.Machine.execLdd q r base off s
  | .stb q r base off => Sys2Proof.Machine.execStb q r base off s
  | .sth q r base off => Sys2Proof.Machine.execSth q r base off s
  | .stw q r base off => Sys2Proof.Machine.execStw q r base off s
  | .std q r base off => Sys2Proof.Machine.execStd q r base off s
  | .pfg q base off => Sys2Proof.Machine.execPfg q base off s
  | .drain q sc => Sys2Proof.Machine.execDrain q sc s
  | .purgeDc q base off => Sys2Proof.Machine.execPurgeDc q base off s
  | .purgeIc q base off => Sys2Proof.Machine.execPurgeIc q base off s
  | .purgeTlb q base off => Sys2Proof.Machine.execPurgeTlb q base off s
  | .aadd q d base src ord sc => Sys2Proof.Machine.execAadd q d base src ord sc s
  | .aand q d base src ord sc => Sys2Proof.Machine.execAand q d base src ord sc s
  | .aor q d base src ord sc => Sys2Proof.Machine.execAor q d base src ord sc s
  | .axor q d base src ord sc => Sys2Proof.Machine.execAxor q d base src ord sc s
  | .amin q d base src ord sc => Sys2Proof.Machine.execAmin q d base src ord sc s
  | .amax q d base src ord sc => Sys2Proof.Machine.execAmax q d base src ord sc s
  | .aminu q d base src ord sc => Sys2Proof.Machine.execAminu q d base src ord sc s
  | .amaxu q d base src ord sc => Sys2Proof.Machine.execAmaxu q d base src ord sc s
  | .axchg q d base src ord sc => Sys2Proof.Machine.execAxchg q d base src ord sc s
  | .acas q d base src ord sc => Sys2Proof.Machine.execAcas q d base src ord sc s
  | .afadd q d base src ord sc => Sys2Proof.Machine.execAfadd q d base src ord sc s
  | .radd q d base src ord sc => Sys2Proof.Machine.execRadd q d base src ord sc s
  | .rmax q d base src ord sc => Sys2Proof.Machine.execRmax q d base src ord sc s
  | .rmin q d base src ord sc => Sys2Proof.Machine.execRmin q d base src ord sc s
  | .phinit q d base src ord sc => Sys2Proof.Machine.execPhinit q d base src ord sc s
  | .phreg q d base src ord sc => Sys2Proof.Machine.execPhreg q d base src ord sc s
  | .phdrop q d base ord sc => Sys2Proof.Machine.execPhdrop q d base ord sc s
  | .pharr q d base ord sc => Sys2Proof.Machine.execPharr q d base ord sc s
  | .phwait q d base src ord sc => Sys2Proof.Machine.execPhwait q d base src ord sc s
  | .pharw q d base ord sc => Sys2Proof.Machine.execPharw q d base ord sc s
  | .phq q d base ord sc => Sys2Proof.Machine.execPhq q d base ord sc s
  | .migr q d base src ord => Sys2Proof.Machine.execMigr q d base src ord s
  | .lyb q r base off => Sys2Proof.Machine.execLyb q r base off s
  | .lyh q r base off => Sys2Proof.Machine.execLyh q r base off s
  | .lyw q r base off => Sys2Proof.Machine.execLyw q r base off s
  | .lyd q r base off => Sys2Proof.Machine.execLyd q r base off s
  | .syb q r base off => Sys2Proof.Machine.execSyb q r base off s
  | .syh q r base off => Sys2Proof.Machine.execSyh q r base off s
  | .syw q r base off => Sys2Proof.Machine.execSyw q r base off s
  | .syd q r base off => Sys2Proof.Machine.execSyd q r base off s
  | .sgw q r base off => Sys2Proof.Machine.execSgw q r base off s
  | .twrite q a b ix => Sys2Proof.Machine.execTwrite q a b ix s
  | .tclr q => Sys2Proof.Machine.execTclr q s
  | .qcfg q a b n => Sys2Proof.Machine.execQcfg q a b n s
  | .qcfgStk q a b => Sys2Proof.Machine.execQcfgStk q a b s
  | .cbcfg q a n => Sys2Proof.Machine.execCbcfg q a n s
  | .mxtab q a b => Sys2Proof.Machine.execMxtab q a b s
  | .br q off => Sys2Proof.Machine.execBr q off s
  | .call q off => Sys2Proof.Machine.execCall q off s
  | .jr q a => Sys2Proof.Machine.execJr q a s
  | .jalr q a b => Sys2Proof.Machine.execJalr q a b s
  | .loop lc count last => Sys2Proof.Machine.execLoop lc count last s
  | .lpstep q lc slot a b => Sys2Proof.Machine.execLpstep q lc slot a b s
  | .waitk q n => Sys2Proof.Machine.execWaitk q n s
  | .waitkMask q a => Sys2Proof.Machine.execWaitkMask q a s
  | .waitf q n => Sys2Proof.Machine.execWaitf q n s
  | .waitfMask q a => Sys2Proof.Machine.execWaitfMask q a s
  | .setf q n => Sys2Proof.Machine.execSetf q n s
  | .setfMask q a => Sys2Proof.Machine.execSetfMask q a s
  | .clrf q n => Sys2Proof.Machine.execClrf q n s
  | .clrfMask q a => Sys2Proof.Machine.execClrfMask q a s
  | .bstart q a => Sys2Proof.Machine.execBstart q a s
  | .bstop q => Sys2Proof.Machine.execBstop q s
  | .pushq q a => Sys2Proof.Machine.execPushq q a s
  | .popq q a => Sys2Proof.Machine.execPopq q a s
  | .mfsr q a sr => Sys2Proof.Machine.execMfsr q a sr s
  | .mtsr q a sr => Sys2Proof.Machine.execMtsr q a sr s
  | .trap q n => Sys2Proof.Machine.execTrap q n s
  | .eret q => Sys2Proof.Machine.execEret q s
  | .brk q n => Sys2Proof.Machine.execBrk q n s
  | .stqrd q a b => Sys2Proof.Machine.execStqrd q a b s
  | .flbar q a n => Sys2Proof.Machine.execFlbar q a n s
  | .flend q a => Sys2Proof.Machine.execFlend q a s
  | .mxcfg q a b w => Sys2Proof.Machine.execMxcfg q a b w s
  | .mxlds q a b tok kw ph => Sys2Proof.Machine.execMxlds q a b tok kw ph s
  | .mxswap q a => Sys2Proof.Machine.execMxswap q a s
  | .mxgo q a tok split => Sys2Proof.Machine.execMxgo q a tok split s
  | .mxmode q a mode pin => Sys2Proof.Machine.execMxmode q a mode pin s
  | .mxrd q a b sel => Sys2Proof.Machine.execMxrd q a b sel s
  | .mxstop q a => Sys2Proof.Machine.execMxstop q a s
  | .tmov q a u port => Sys2Proof.Machine.execTmov q a u port s
  | .tmovPort q su src u port => Sys2Proof.Machine.execTmovPort q su src u port s
  | .cvtSplit q a tok => Sys2Proof.Machine.execCvtSplit q a tok s
  | .cvtJoin q a tok => Sys2Proof.Machine.execCvtJoin q a tok s
  | .cmpPack q a tok => Sys2Proof.Machine.execCmpPack q a tok s
  | .xposeW32 q a tok => Sys2Proof.Machine.execXposeW32 q a tok s
  | .xposeW16 q a tok => Sys2Proof.Machine.execXposeW16 q a tok s
  | .layoutIm2col q a tok => Sys2Proof.Machine.execLayoutIm2col q a tok s
  | .tcfg q a e => Sys2Proof.Machine.execTcfg q a e s
  | .tcfgPinned q a => Sys2Proof.Machine.execTcfgPinned q a s
  | .tstat q a u => Sys2Proof.Machine.execTstat q a u s
  | .cp q a b cd tok => Sys2Proof.Machine.execCp q a b cd tok s
  | .cpt q a b cd tok => Sys2Proof.Machine.execCpt q a b cd tok s
  | .cptab q a b cd tok => Sys2Proof.Machine.execCptab q a b cd tok s
  | .cpcfg q a cd => Sys2Proof.Machine.execCpcfg q a cd s
  | .cpstat q a u => Sys2Proof.Machine.execCpstat q a u s
  | .cpcan q u => Sys2Proof.Machine.execCpcan q u s
  | .xmit q a port => Sys2Proof.Machine.execXmit q a port s
  | .xsel q a port => Sys2Proof.Machine.execXsel q a port s
  | .xfwd q pi po => Sys2Proof.Machine.execXfwd q pi po s
  | .xidle q port => Sys2Proof.Machine.execXidle q port s
  | .spawn q a b blk => Sys2Proof.Machine.execSpawn q a b blk s
  | .spawnr q a blk => Sys2Proof.Machine.execSpawnr q a blk s
  | .vdecl q a b vt op gal => Sys2Proof.Machine.execVdecl q a b vt op gal s
  | .vdrop q vt => Sys2Proof.Machine.execVdrop q vt s
  | .join q => Sys2Proof.Machine.execJoin q s
  | .endt q => Sys2Proof.Machine.execEndt q s
  | .rnext q a => Sys2Proof.Machine.execRnext q a s
  | .tinfoSelf q a => Sys2Proof.Machine.execTinfoSelf q a s
  | .tinfoState q a b => Sys2Proof.Machine.execTinfoState q a b s
  | .tinfoQueue q a => Sys2Proof.Machine.execTinfoQueue q a s
  | .tinfoMerge q a => Sys2Proof.Machine.execTinfoMerge q a s
  | .ix index gm sp imm => Sys2Proof.Machine.execIx index gm sp imm s
  | .bloop bl rt cnt last => Sys2Proof.Machine.execBloop bl rt cnt last s
  | .bloopCtq bl rt last => Sys2Proof.Machine.execBloopCtq bl rt last s
  | .bbr cnd off => Sys2Proof.Machine.execBbr cnd off s
  | .bsetf n => Sys2Proof.Machine.execBsetf n s
  | .bclrf n => Sys2Proof.Machine.execBclrf n s
  | .bwaitf n => Sys2Proof.Machine.execBwaitf n s
  | .bpopq dst => Sys2Proof.Machine.execBpopq dst s
  | .bpushq src => Sys2Proof.Machine.execBpushq src s
  | .bsetsp wmask value => Sys2Proof.Machine.execBsetsp wmask value s
  | .brot gm e => Sys2Proof.Machine.execBrot gm e s
  | .brotA gm e => Sys2Proof.Machine.execBrotA gm e s
  | .flip => Sys2Proof.Machine.execFlip s
  | .bhalt => Sys2Proof.Machine.execBhalt s
  | .bhaltFlag n => Sys2Proof.Machine.execBhaltFlag n s
  | .bcall cnd off => Sys2Proof.Machine.execBcall cnd off s
  | .bret => Sys2Proof.Machine.execBret s
  | .nop e => Sys2Proof.Machine.execNop e s
  | .fadd e d a b => Sys2Proof.Machine.execFadd e d a b s
  | .fsub e d a b => Sys2Proof.Machine.execFsub e d a b s
  | .fmul e d a b => Sys2Proof.Machine.execFmul e d a b s
  | .fma e d a b c => Sys2Proof.Machine.execFma e d a b c s
  | .fms e d a b c => Sys2Proof.Machine.execFms e d a b c s
  | .fnma e d a b c => Sys2Proof.Machine.execFnma e d a b c s
  | .fmin e d a b => Sys2Proof.Machine.execFmin e d a b s
  | .fmax e d a b => Sys2Proof.Machine.execFmax e d a b s
  | .fabs e d a => Sys2Proof.Machine.execFabs e d a s
  | .fneg e d a => Sys2Proof.Machine.execFneg e d a s
  | .frcp e d a => Sys2Proof.Machine.execFrcp e d a s
  | .frsq e d a => Sys2Proof.Machine.execFrsq e d a s
  | .fsqrt e d a => Sys2Proof.Machine.execFsqrt e d a s
  | .fexp2 e d a => Sys2Proof.Machine.execFexp2 e d a s
  | .flog2 e d a => Sys2Proof.Machine.execFlog2 e d a s
  | .fsig e d a => Sys2Proof.Machine.execFsig e d a s
  | .fcmp e pd a b => Sys2Proof.Machine.execFcmp e pd a b s
  | .fround e d a => Sys2Proof.Machine.execFround e d a s
  | .fcvt e d a b => Sys2Proof.Machine.execFcvt e d a b s
  | .scacc e d a b c => Sys2Proof.Machine.execScacc e d a b c s
  | .qnt e d a b c => Sys2Proof.Machine.execQnt e d a b c s
  | .fsum e d a => Sys2Proof.Machine.execFsum e d a s
  | .fmaxr e d a => Sys2Proof.Machine.execFmaxr e d a s
  | .fscan e d a => Sys2Proof.Machine.execFscan e d a s
  | .iadd e d a b => Sys2Proof.Machine.execIadd e d a b s
  | .isub e d a b => Sys2Proof.Machine.execIsub e d a b s
  | .imul e d a b => Sys2Proof.Machine.execImul e d a b s
  | .imad e d a b c => Sys2Proof.Machine.execImad e d a b c s
  | .imin e d a b => Sys2Proof.Machine.execImin e d a b s
  | .imax e d a b => Sys2Proof.Machine.execImax e d a b s
  | .iminu e d a b => Sys2Proof.Machine.execIminu e d a b s
  | .imaxu e d a b => Sys2Proof.Machine.execImaxu e d a b s
  | .iabs e d a => Sys2Proof.Machine.execIabs e d a s
  | .vecSll e d a b => Sys2Proof.Machine.execVecSll e d a b s
  | .vecSrl e d a b => Sys2Proof.Machine.execVecSrl e d a b s
  | .vecSra e d a b => Sys2Proof.Machine.execVecSra e d a b s
  | .vecAnd e d a b => Sys2Proof.Machine.execVecAnd e d a b s
  | .vecOr e d a b => Sys2Proof.Machine.execVecOr e d a b s
  | .vecXor e d a b => Sys2Proof.Machine.execVecXor e d a b s
  | .vecAndn e d a b => Sys2Proof.Machine.execVecAndn e d a b s
  | .not e d a => Sys2Proof.Machine.execNot e d a s
  | .vecPopc e d a => Sys2Proof.Machine.execVecPopc e d a s
  | .vecClz e d a => Sys2Proof.Machine.execVecClz e d a s
  | .icmp e pd a b => Sys2Proof.Machine.execIcmp e pd a b s
  | .dot8 e d a b c => Sys2Proof.Machine.execDot8 e d a b c s
  | .isum e d a => Sys2Proof.Machine.execIsum e d a s
  | .iscan e d a => Sys2Proof.Machine.execIscan e d a s
  | .mov e d a => Sys2Proof.Machine.execMov e d a s
  | .vsel e d a b => Sys2Proof.Machine.execVsel e d a b s
  | .perm e d a b => Sys2Proof.Machine.execPerm e d a b s
  | .bcast e d a b => Sys2Proof.Machine.execBcast e d a b s
  | .vpand e pd pa pb => Sys2Proof.Machine.execVpand e pd pa pb s
  | .vpor e pd pa pb => Sys2Proof.Machine.execVpor e pd pa pb s
  | .vpxor e pd pa pb => Sys2Proof.Machine.execVpxor e pd pa pb s
  | .vpnot e pd pa => Sys2Proof.Machine.execVpnot e pd pa s
  | .vpcount e d pa => Sys2Proof.Machine.execVpcount e d pa s
  | .tos e d a b => Sys2Proof.Machine.execTos e d a b s
  | .ldW e data addr imm fmt => Sys2Proof.Machine.execLdW e data addr imm fmt s
  | .ldA e data addr imm fmt => Sys2Proof.Machine.execLdA e data addr imm fmt s
  | .ldC e data addr imm fmt => Sys2Proof.Machine.execLdC e data addr imm fmt s
  | .ldY e data addr imm fmt => Sys2Proof.Machine.execLdY e data addr imm fmt s
  | .stW e data addr imm fmt => Sys2Proof.Machine.execStW e data addr imm fmt s
  | .stA e data addr imm fmt => Sys2Proof.Machine.execStA e data addr imm fmt s
  | .stC e data addr imm fmt => Sys2Proof.Machine.execStC e data addr imm fmt s
  | .stY e data addr imm fmt => Sys2Proof.Machine.execStY e data addr imm fmt s
  | .pldW e data addr imm k rne fmt => Sys2Proof.Machine.execPldW e data addr imm k rne fmt s
  | .pldA e data addr imm k rne fmt => Sys2Proof.Machine.execPldA e data addr imm k rne fmt s
  | .pldY e data addr imm k rne fmt => Sys2Proof.Machine.execPldY e data addr imm k rne fmt s
  | .pstW e data addr imm k rne fmt => Sys2Proof.Machine.execPstW e data addr imm k rne fmt s
  | .pstA e data addr imm k rne fmt => Sys2Proof.Machine.execPstA e data addr imm k rne fmt s
  | .pstY e data addr imm k rne fmt => Sys2Proof.Machine.execPstY e data addr imm k rne fmt s
  | .pupdAdd e data addr imm k rne => Sys2Proof.Machine.execPupdAdd e data addr imm k rne s
  | .pupdAxpy e data addr imm k rne => Sys2Proof.Machine.execPupdAxpy e data addr imm k rne s
  | .pupdMom e data addr imm k rne => Sys2Proof.Machine.execPupdMom e data addr imm k rne s
  | .pushm e data imm => Sys2Proof.Machine.execPushm e data imm s
  | .popm e data imm => Sys2Proof.Machine.execPopm e data imm s
  | .cbadv e data addr imm => Sys2Proof.Machine.execCbadv e data addr imm s
  | .qrst e data addr => Sys2Proof.Machine.execQrst e data addr s
  | .qadv e data addr imm => Sys2Proof.Machine.execQadv e data addr imm s
  | .mxgoG e split tv tok => Sys2Proof.Machine.execMxgoG e split tv tok s
  | .mxldsG e sn ph kw tv tok => Sys2Proof.Machine.execMxldsG e sn ph kw tv tok s
  | .mxqG e d => Sys2Proof.Machine.execMxqG e d s
  | .entryWriteback c => Sys2Proof.Machine.execEntryWriteback c s
  | .npfLineWrite c => Sys2Proof.Machine.execNpfLineWrite c s
  | .landing c => Sys2Proof.Machine.execLanding c s
  | .engineFaultReport c => Sys2Proof.Machine.execEngineFaultReport c s
  | .stopRequest c => Sys2Proof.Machine.execStopRequest c s
  | .coreStop c => Sys2Proof.Machine.execCoreStop c s
  | .uncorrectableError c => Sys2Proof.Machine.execUncorrectableError c s
  | .coreRetire c => Sys2Proof.Machine.execCoreRetire c s
  | .flagRelease c => Sys2Proof.Machine.execFlagRelease c s
  | .portFetch c g port => Sys2Proof.Machine.execPortFetch c g port s
  | .cbStage c g n => Sys2Proof.Machine.execCbStage c g n s
  | .planeRetry c => Sys2Proof.Machine.execPlaneRetry c s
  | .matrixPass c g => Sys2Proof.Machine.execMatrixPass c g s
  | .comparePass c g => Sys2Proof.Machine.execComparePass c g s
  | .passAccWrite c g => Sys2Proof.Machine.execPassAccWrite c g s
  | .levelBoundary c g => Sys2Proof.Machine.execLevelBoundary c g s
  | .shadowLoadDone c g => Sys2Proof.Machine.execShadowLoadDone c g s
  | .tokenIdle c tok => Sys2Proof.Machine.execTokenIdle c tok s
  | .copyRowMove c u => Sys2Proof.Machine.execCopyRowMove c u s
  | .cptTileRetry c u => Sys2Proof.Machine.execCptTileRetry c u s
  | .cptabEntryWrite c u => Sys2Proof.Machine.execCptabEntryWrite c u s
  | .ringAdvance c u => Sys2Proof.Machine.execRingAdvance c u s
  | .copyComplete c u => Sys2Proof.Machine.execCopyComplete c u s
  | .copyFault c u => Sys2Proof.Machine.execCopyFault c u s
  | .transformComplete c u => Sys2Proof.Machine.execTransformComplete c u s
  | .transformFault c u => Sys2Proof.Machine.execTransformFault c u s
  | .atomicPerform id => Sys2Proof.Machine.execAtomicPerform id s
  | .reductionPerform id => Sys2Proof.Machine.execReductionPerform id s
  | .phaserPerform id => Sys2Proof.Machine.execPhaserPerform id s
  | .copyArrival id => Sys2Proof.Machine.execCopyArrival id s
  | .phaserPoll c => Sys2Proof.Machine.execPhaserPoll c s
  | .acknowledgementArrival id => Sys2Proof.Machine.execAcknowledgementArrival id s
  | .answerReturn id => Sys2Proof.Machine.execAnswerReturn id s
  | .rangeTake c => Sys2Proof.Machine.execRangeTake c s
  | .mergePush c => Sys2Proof.Machine.execMergePush c s
  | .mergeTileRetry c => Sys2Proof.Machine.execMergeTileRetry c s
  | .mergeTranslationFault c => Sys2Proof.Machine.execMergeTranslationFault c s
  | .teamEnd t => Sys2Proof.Machine.execTeamEnd t s
  | .flightBarrierComplete t => Sys2Proof.Machine.execFlightBarrierComplete t s
  | .flightPhaseStart t => Sys2Proof.Machine.execFlightPhaseStart t s
  | .vectorArrival c port => Sys2Proof.Machine.execVectorArrival c port s
  | .flightBreakSignal t => Sys2Proof.Machine.execFlightBreakSignal t s
  | .tailRegisterWrite q value => Sys2Proof.Machine.execTailRegisterWrite q value s
  | .launch q => Sys2Proof.Machine.execLaunch q s
  | .wait q => Sys2Proof.Machine.execWait q s
  | .waitRetest q => Sys2Proof.Machine.execWaitRetest q s
  | .signal q => Sys2Proof.Machine.execSignal q s
  | .cond q => Sys2Proof.Machine.execCond q s
  | .loopNode q => Sys2Proof.Machine.execLoopNode q s
  | .switch q => Sys2Proof.Machine.execSwitch q s
  | .load q => Sys2Proof.Machine.execLoad q s
  | .teamPlace t => Sys2Proof.Machine.execTeamPlace t s
  | .quantumExpiry t => Sys2Proof.Machine.execQuantumExpiry t s
  | .teamSave t => Sys2Proof.Machine.execTeamSave t s
  | .jobComplete j => Sys2Proof.Machine.execJobComplete j s
  | .teamFault t => Sys2Proof.Machine.execTeamFault t s
  | .ageing q => Sys2Proof.Machine.execAgeing q s
  | .usherConfigCommit off bytes => Sys2Proof.Machine.execUsherConfigCommit off bytes s
  | .fabricConfigCommit off bytes => Sys2Proof.Machine.execFabricConfigCommit off bytes s
  | .registerWrite off bytes => Sys2Proof.Machine.execRegisterWrite off bytes s
  | .moduleReset => Sys2Proof.Machine.execModuleReset s
  | .windowRead off n => Sys2Proof.Machine.execWindowRead off n s
  | .windowWrite off bytes => Sys2Proof.Machine.execWindowWrite off bytes s
  | .sensors => Sys2Proof.Machine.execSensors s
  | .log => Sys2Proof.Machine.execLog s
  | .cap => Sys2Proof.Machine.execCap s
  | .update => Sys2Proof.Machine.execUpdate s
  | .attest => Sys2Proof.Machine.execAttest s
  | .errcnt => Sys2Proof.Machine.execErrcnt s
  | .unretire => Sys2Proof.Machine.execUnretire s
  | .mailboxCompletion => Sys2Proof.Machine.execMailboxCompletion s
  | .hostReadTimeout id => Sys2Proof.Machine.execHostReadTimeout id s
  | .peerRequest r => Sys2Proof.Machine.execPeerRequest r s
  | .flitRetry link => Sys2Proof.Machine.execFlitRetry link s
  | .sensorRefresh => Sys2Proof.Machine.execSensorRefresh s
  | .powerBudgetCheck => Sys2Proof.Machine.execPowerBudgetCheck s
  | .coolantLoss => Sys2Proof.Machine.execCoolantLoss s
  | .eccSummary => Sys2Proof.Machine.execEccSummary s
  | .lineFill id => Sys2Proof.Machine.execLineFill id s
  | .pageWalk id => Sys2Proof.Machine.execPageWalk id s
  | .packetArrival id => Sys2Proof.Machine.execPacketArrival id s
  | .regionalCount die => Sys2Proof.Machine.execRegionalCount die s
  | .escape id => Sys2Proof.Machine.execEscape id s
  | .routerSleep die => Sys2Proof.Machine.execRouterSleep die s
  | .routerWake die => Sys2Proof.Machine.execRouterWake die s
  | .trafficPeriod => Sys2Proof.Machine.execTrafficPeriod s
  | .hotLineRecompress line => Sys2Proof.Machine.execHotLineRecompress line s
  | .illegalBundle c bcast => Sys2Proof.Machine.execIllegalBundle c bcast s
  | .reservedOpcode c bcast slot => Sys2Proof.Machine.execReservedOpcode c bcast slot s
  | .fetchFault c bcast => Sys2Proof.Machine.execFetchFault c bcast s
  | .bankPortRequest c slice => Sys2Proof.Machine.execBankPortRequest c slice s
  | .hostCompletion id data => Sys2Proof.Machine.execHostCompletion id data s
  | .peerResponse id data => Sys2Proof.Machine.execPeerResponse id data s
  | .linkUp link degraded => Sys2Proof.Machine.execLinkUp link degraded s
  | .powerLoss => Sys2Proof.Machine.execPowerLoss s
  | .flipatReached t => Sys2Proof.Machine.execFlipatReached t s
  | .badCommand => Sys2Proof.Machine.execBadCommand s

end Sys2Proof.Machine
end

