-- ==== Sys2Proof/Machine/Issue.lean ====
section
/-!
DEFINITION. Where bundles issue: fetch and decode causes, due faults, overdue landings, interlocks, the slots, stalls and waits, brackets,
flight-phase slips, retirement (R29-R36, R43, R50, R53, R57, R60, R170, R194, R352, R399-R407).
-/
namespace Sys2Proof.Machine

/-! What a control slot reads (R170) -/

/-- The g registers that an acting slot reads. DEDUCED (log 10). -/
def regSources (i : Instr) : List Reg :=
  match i with
  | .add _ _ a b | .sub _ _ a b | .and _ _ a b | .or _ _ a b | .xor _ _ a b | .andn _ _ a b | .min _ _ a b | .max _ _ a b
  | .minu _ _ a b | .maxu _ _ a b | .sll _ _ a b | .srl _ _ a b | .sra _ _ a b | .rol _ _ a b | .mul _ _ a b | .mulh _ _ a b
  | .mulhu _ _ a b | .div _ _ a b | .divu _ _ a b | .rem _ _ a b | .remu _ _ a b | .cmpeq _ _ a b | .cmpne _ _ a b
  | .cmplt _ _ a b | .cmpltu _ _ a b | .cmple _ _ a b | .cmpleu _ _ a b | .sel _ _ _ a b | .faddS _ _ a b | .fsubS _ _ a b
  | .fmulS _ _ a b | .fminS _ _ a b | .fmaxS _ _ a b | .fcmpS _ _ a b _ => [a, b]
  | .clz _ _ a | .ctz _ _ a | .popc _ _ a | .sext _ _ a _ | .zext _ _ a _ | .addi _ _ a _ | .andi _ _ a _ | .ori _ _ a _
  | .xori _ _ a _ | .slli _ _ a _ | .srli _ _ a _ | .srai _ _ a _ | .cmpi _ _ _ a _ | .fcvtS _ _ a _ => [a]
  | .ldb _ _ b _ | .ldbu _ _ b _ | .ldh _ _ b _ | .ldhu _ _ b _ | .ldw _ _ b _ | .ldwu _ _ b _ | .ldd _ _ b _ | .pfg _ b _
  | .purgeDc _ b _ | .purgeIc _ b _ | .purgeTlb _ b _ | .phdrop _ _ b _ _ | .pharr _ _ b _ _ | .pharw _ _ b _ _ | .phq _ _ b _ _
  | .lyb _ _ b _ | .lyh _ _ b _ | .lyw _ _ b _ | .lyd _ _ b _ => [b]
  | .stb _ r b _ | .sth _ r b _ | .stw _ r b _ | .std _ r b _ | .syb _ r b _ | .syh _ r b _ | .syw _ r b _ | .syd _ r b _
  | .sgw _ r b _ => [r, b]
  | .acas _ d b r _ _ => [d, b, r]
  | .aadd _ _ b r _ _ | .aand _ _ b r _ _ | .aor _ _ b r _ _ | .axor _ _ b r _ _ | .amin _ _ b r _ _ | .amax _ _ b r _ _
  | .aminu _ _ b r _ _ | .amaxu _ _ b r _ _ | .axchg _ _ b r _ _ | .afadd _ _ b r _ _ | .radd _ _ b r _ _
  | .rmax _ _ b r _ _ | .rmin _ _ b r _ _ | .phinit _ _ b r _ _ | .phreg _ _ b r _ _ | .phwait _ _ b r _ _ => [b, r]
  | .migr _ d b r _ => [d, b, r]
  | .twrite _ a b _ | .qcfg _ a b _ | .qcfgStk _ a b | .mxtab _ a b | .mxcfg _ a b _ | .mxlds _ a b _ _ _ | .cp _ a b _ _
  | .cpt _ a b _ _ | .cptab _ a b _ _ | .spawn _ a b _ | .vdecl _ a b _ _ _ => [a, b]
  | .cbcfg _ a _ | .jr _ a | .jalr _ a _ | .waitkMask _ a | .waitfMask _ a | .setfMask _ a | .clrfMask _ a | .bstart _ a | .pushq _ a
  | .mtsr _ a _ | .mxswap _ a | .mxgo _ a _ _ | .mxmode _ a _ _ | .mxstop _ a | .tmov _ a _ _ | .cvtSplit _ a _ | .cvtJoin _ a _
  | .cmpPack _ a _ | .xposeW32 _ a _ | .xposeW16 _ a _ | .layoutIm2col _ a _ | .tcfg _ a _ | .tcfgPinned _ a | .cpcfg _ a _
  | .xmit _ a _ | .xsel _ a _ | .spawnr _ a _ => [a]
  | .loop _ a _ | .lpstep _ _ _ _ a | .mxrd _ _ a _ | .tinfoState _ _ a => [a]
  | _ => []
/-- The predicates that a slot word names: its pred field, and the regSources of `sel` and `plog`. -/
def predicates (sl : Slot) (w : BitVec 32) (i : Instr) : List PReg :=
  match sl, i with
  | _, .sel q _ p _ _ => [q.p, p]
  | _, .plog q _ a b _ => [q.p, a, b]
  | _, .lui _ _ | _, .addpc _ _ | _, .loop _ _ _ => []
  | .a, _ =>
    let op := (w.extractLsb' 26 6).toNat
    if 34 ≤ op ∧ op ≤ 41 then [⟨(w.extractLsb' 0 2).toNat, by have := (w.extractLsb' 0 2).isLt; omega⟩] else [(qual w).p]
  | _, _ => [(qual w).p]
/-- The slot acts (R61). -/
def State.slotActs (s : State) (sl : Slot) (w : BitVec 32) (i : Instr) : Bool :=
  match i with
  | .lui _ _ | .addpc _ _ | .loop _ _ _ => true
  | _ =>
    let op := (w.extractLsb' 26 6).toNat
    if sl = .a ∧ 34 ≤ op ∧ op ≤ 41 then s.actsP (fin2 (w.extractLsb' 0 2)) else s.acts (qual w)
/-- DEDUCED (log 10). -/
def Body.readable (b : Body) (now : Nat) (r : Reg) : Bool := decide (b.gReady[r] ≤ now) && !b.awaited.any (·.reg == r)

/-! Fetch (R57) and decode (R60, R75, R400, R405) -/

structure Bundle where
  hdr : VA
  len : Nat
  head : CtlHeader
  /-- present slots with their words -/
  words : List (Slot × BitVec 32)
/-- A bundle that can be decoded, a word that is not in the cache, or a header that is no header. -/
inductive Fetch (α : Type) where
  | missing (a : VA)
  | illegal
  | ok (b : α)
def fetchBundle (k : Core) (pc : VA) : Fetch Bundle :=
  match k.cachedWord false pc with
  | none => .missing pc
  | some h =>
    match decodeCtlHeader h with
    | .error _ => .illegal
    | .ok head =>
      match k.cachedWords false (pc + 4) head.slots.length with
      | .error a => .missing a
      | .ok ws => .ok ⟨pc, 4 + 4 * head.slots.length, head, head.slots.zip ws⟩
/-- A line that is not in the cache: it is fetched once, or the cause that its fetch met is raised. DESIGN CHOICE (log 46). -/
def State.needLine (s : State) (c : CoreId) (bcast : Bool) (a : VA) : Result :=
  let b := s.body c
  match b.fetchFaults.find? fun f => f.1 == bcast && f.2.1 / 128 == a.toNat / 128 with
  | some f => execFetchFault c bcast
      (s.modBody c fun b => { b with fetchFaults := (bcast, a.toNat, f.2.2) :: b.fetchFaults.filter (·.1 != bcast) })
  | none =>
    let mine (r : Request) : Bool := r.core == c && lineOf r.va == a.toNat / 128 && (match r.op with | .fetch x => x == bcast | _ => false)
    if s.requests.any mine then .next s
    else
      let r : Request := { id := 0, core := c, baddr := if bcast then b.bpc else b.pc, issued := 128 * s.cycle, asn := b.sys.asn, va := a
                           op := .fetch bcast, gslot := false }
      .next ((s.newRequest r).2.sendReady c)

/-- Instructions that a flight phase forbids (R400). -/
def phaseForbids (sl : Slot) (w : BitVec 32) : Bool :=
  let op := (w.extractLsb' 26 6).toNat
  match sl with
  | .g => decide (13 ≤ op)
  | .x => op == 21
  | .k => true
  | _ => false
/-- Ports that a flight slot sends through and takes from (R405). -/
def flightPorts (w : BitVec 32) : Option (Fin 4) × Option (Fin 4) :=
  let p := fin2 (w.extractLsb' 0 2)
  match (w.extractLsb' 26 6).toNat with
  | 7 => (some p, none)
  | 8 | 10 => (none, some p)
  | 9 => (some (fin2 (w.extractLsb' 2 2)), some p)
  | _ => (none, none)
def samePort (a b : Option (Fin 4)) : Bool := a.isSome && a == b
/-- The opcode is reserved in the slot or in the current mode (R75, R400). -/
def reservedHere (flight : Bool) (w : Slot × BitVec 32) : Bool :=
  (flight && phaseForbids w.1 w.2) || (match decodeSlot flight w.1 w.2 with
    | .error e => e == .reservedOpcode
    | .ok _ => false)
/-- A field that must be 0 is not. -/
def malformed (flight : Bool) (w : Slot × BitVec 32) : Bool :=
  match decodeSlot flight w.1 w.2 with
  | .error _ => true
  | .ok _ => false
/-- The first slot that is no instruction here: a reserved opcode (true) in any slot comes before a field that must be 0 (R60). -/
def firstIllegal (flight : Bool) (ws : List (Slot × BitVec 32)) : Option (Slot × Bool) :=
  match ws.find? (reservedHere flight) with
  | some w => some (w.1, true)
  | none => (ws.find? (malformed flight)).map fun w => (w.1, false)
/-- DEDUCED (log 15). -/
def portClash (ws : List (Slot × BitVec 32)) : Bool :=
  match ws.find? (·.1 == .c0), ws.find? (·.1 == .c1) with
  | some (_, x), some (_, y) =>
    let a := flightPorts x
    let b := flightPorts y
    samePort a.1 b.1 || samePort a.2 b.2
  | _, _ => false
/-- Registers that the loop-end processing of this bundle would step (R62, R194). -/
def Body.stepped (b : Body) (here : VA) : List LoopEntry → List Reg
  | [] => []
  | top :: rest =>
    if top.stop ≠ here then []
    else (b.steps[top.lc]).toList.filterMap (fun x => x.map (·.1)) ++ (if 1#64 < b.lc[top.lc] then [] else b.stepped here rest)
/-- A bundle outside handler mode that does not hold `loop` has loop-end processing. DEDUCED (log 15). -/
def Body.endsLoop (b : Body) (x : Bundle) : Bool :=
  !b.handler && !x.words.any fun (sl, w) => sl == .x && w.extractLsb' 26 6 == 5#6
def Body.steppedBy (b : Body) (x : Bundle) : List Reg := if b.endsLoop x then b.stepped x.hdr b.loops else []
/-- R62: named destinations, and the steps of the bundle's loop end. -/
def Body.conflicts (b : Body) (x : Bundle) : Bool :=
  let dests := x.words.map fun (sl, w) => slotDests b.inPhase sl w
  slotConflict (dests ++ [((b.steppedBy x).eraseDups.map gDest).flatten])
/-- The instructions of a bundle that has passed its decode checks. -/
def Bundle.instrs (x : Bundle) (flight : Bool) : List (Slot × BitVec 32 × Instr) :=
  x.words.filterMap fun (sl, w) => match decodeSlot flight sl w with
    | .ok i => some (sl, w, i)
    | .error _ => none

/-! Parked faults that become due (R53) -/

/-- The tokens that an acting `waitk` names. -/
def State.namedTokens (s : State) (i : Instr) : BitVec 16 :=
  match i with
  | .waitk _ n => oneBit n
  | .waitkMask _ a => (s.rg a).extractLsb' 0 16
  | _ => 0
def Parked.named (f : Parked) (m : BitVec 16) : Bool := match f.tok with
  | some t => m.getLsbD t.val
  | none => false
/-- A parked fault that an acting slot, or a register it reads, makes due; tokens of a mask count once its register is known. -/
def State.dueAt (s : State) (reads : List Reg) (known : Bool) (i : Instr) (f : Parked) : Bool :=
  (known && f.named (s.namedTokens i)) ||
  (match i with
    | .drain _ _ => f.access.isSome
    | .join _ | .endt _ => true
    | _ => false) ||
  (match f.access with
    | some id => s.pre.awaited.any fun a => a.access == id && reads.contains a.reg
    | none => false)

/-! Brackets (R43) -/

/-- Bracketed as it stands in the bundle. -/
def bracketed (i : Instr) : Bool :=
  match i with
  | .aadd _ d _ _ _ _ | .aand _ d _ _ _ _ | .aor _ d _ _ _ _ | .axor _ d _ _ _ _ | .amin _ d _ _ _ _ | .amax _ d _ _ _ _
  | .aminu _ d _ _ _ _ | .amaxu _ d _ _ _ _ | .axchg _ d _ _ _ _ | .acas _ d _ _ _ _ | .afadd _ d _ _ _ _ | .radd _ d _ _ _ _
  | .rmax _ d _ _ _ _ | .rmin _ d _ _ _ _ => d.val != 0
  | .phq .. | .migr .. | .phinit .. | .phreg .. | .phdrop .. | .pharr .. | .phwait .. | .pharw .. | .spawn .. | .spawnr .. | .endt _
  | .join _ | .flbar .. | .flend .. => true
  | _ => false
/-- The instruction is `eret`, which performs a kept returning operation again (R188, R201). -/
def Body.replaysBy (b : Body) (i : Instr) : Bool :=
  match i with
  | .eret _ => b.sys.tstat.getLsbD 15 && (b.keptAccess.bind (·.dest)).isSome
  | _ => false
/-- A token of the mask is busy with a command whose destination may hold held effects. -/
def Body.waitsForHeld (b : Body) (m : BitVec 16) : Bool :=
  b.commands.any fun c => c.glbDest && (match c.tok with | some t => m.getLsbD t.val | none => false)
/-- DEDUCED (log 14). -/
def State.bracketsHere (s : State) (acting : List Instr) (all : List Instr) : Bool :=
  all.any bracketed || acting.any fun i => s.pre.waitsForHeld (s.namedTokens i) || s.pre.replaysBy i

/-! Time passes -/

/-- LANDCNT advances in a cycle of a RUNNING task (R35). DEDUCED (log 15). -/
def State.tick (s : State) (c : CoreId) : State :=
  if (s.task c).state = some .running ∨ (s.body c).handler then
    s.modBody c fun b => { b with sys := { b.sys with landCnt := if b.sys.landCnt = BitVec.allOnes 16 then b.sys.landCnt else b.sys.landCnt + 1 } }
  else s
def State.setState (s : State) (c : CoreId) (x : TaskState) : State :=
  s.modTask c fun t => if t.state = some .running ∨ t.state = some .waiting then { t with state := some x } else t
/-- A trap at the control bundle next to issue; a returning operation's keeps its access (R352). DEDUCED (log 15). -/
def State.trapHere (s : State) (c : CoreId) (t : TrapInfo) (hdr tret : VA) : State :=
  let s := if t.replay.isSome then s.modBody c fun b => { b with replaying := t.replay } else s
  ((s.setState c .running).trapCore c t hdr tret t.replay.isSome false false t.parked).tick c
/-- A parked fault delivered at the bundle next to issue. DEDUCED (log 15). -/
def State.faultHere (s : State) (c : CoreId) (f : Parked) : State :=
  ((s.setState c .running).deliverParked c f (s.body c).pc).tick c
/-- An implicit checkpoint has been taken before the bundle next to issue (R42, R53). -/
def State.deliverHere (s : State) (c : CoreId) (k : State → State) : State :=
  match (s.body c).duePoint with
  | some _ => ((s.setState c .running).deliverDue c id).tick c
  | none => k (s.modBody c Body.makeDue)

/-! Flight phases (R399-R407) -/

/-- What the due bundle owes the ports: the reason and port of a slip. DEDUCED (log 15). -/
def State.portSlip (s : State) (c : CoreId) (taken : List (Fin 4)) (missing : Option (Fin 4)) : Option (Fin 16 × Fin 4) :=
  match (List.finRange 4).find? fun p => (s.present c p).isSome && !taken.contains p with
  | some p => some (1, p)
  | none => match missing with
    | some p => some (2, p)
    | none => if (s.body c).breakDue then some (5, 0) else none
def State.atPort (s : State) (c : CoreId) : State := s.loseVectors c fun w => w.at_ == s.cycle
/-- FLIGHT_SLIP at the due bundle. DEDUCED (log 15). -/
def State.slip (s : State) (c : CoreId) (reason : Fin 16) (port : Fin 4) : State :=
  let pc := (s.body c).pc
  (((s.atPort c).breakPhase c reason port).trapHere c { cause := .flightSlip } pc pc)
/-- Vectors that the due bundle has taken leave the wires. -/
def State.clearPorts (s : State) (c : CoreId) : State := { s with wires := s.wires.filter fun w => !(w.core == c && w.at_ == s.cycle) }
/-- A bundle that cannot issue in this cycle: in a phase a slip. DEDUCED (log 9). -/
def State.stalled (s : State) (c : CoreId) : State :=
  if (s.body c).inPhase then s.slip c 3 0 else (s.setState c .running).tick c
/-- A cycle in which a throttled core issues no bundle; one that stands in a pre-emptible wait goes on waiting (R36, R484).
DEDUCED (log 35). -/
def State.heldBack (s : State) (c : CoreId) : State :=
  if (s.task c).waits then (if s.mayStop c then s.halt c else s) else s.stalled c

/-! Retirement -/

/-- What is done once the bundle at an address has retired: its bracket ends, and a landing is taken. What `eret` has set going for the
bundle at TRET stays. -/
def State.finish (s : State) (c : CoreId) (hdr : VA) (landing : Bool) : State :=
  let bracket := (s.body c).bracket
  let s := s.forget c
  let s := s.modBody c fun b =>
    let asked := b.asked.filter (·.hdr != hdr)
    { b with asked, answers := if asked.isSome then b.answers else [], busy := none, bracket := false }
  let s := if bracket then s.checkpoint c else s
  if landing then s.landing c else s
/-- The bundle has acted in this cycle: counts, loop end, the next address. -/
def State.retire (s : State) (c : CoreId) (x : Bundle) : State :=
  let s := s.setState c .running
  let next : VA := match s.cur.target with
    | some t => t
    | none => x.hdr + BitVec.ofNat 56 x.len
  let awaits := s.cur.awaits
  let s := s.modBody c fun b =>
    let b := { b with ctlCount := b.ctlCount + 1 }
    let r := if s.cur.target.isSome ∨ s.pre.endsLoop x = false then (b, next)
      else b.loopEnd x.hdr next (s.cycle + 1) b.loops.length
    { r.1 with pc := r.2 }
  if awaits = [] then
    -- a landing that ends a phase leaves LANDCNT at 0 and is no other landing (R400)
    if x.head.landing ∧ s.pre.inPhase then (s.finish c x.hdr false).modBody c fun b => { b with sys := { b.sys with landCnt := 0 } }
    else if x.head.landing then s.finish c x.hdr true
    else (s.tick c).finish c x.hdr false
  else (s.modBody c fun b => { b with busy := some ⟨x.hdr, b.pc, awaits, x.head.landing⟩ }).tick c
/-- The operations that an `eret` performs again: still out, or written and the bundle retires, or a fault is delivered once more (R188).
DEDUCED (log 14, 15). -/
def State.settleBusy (s : State) (c : CoreId) (y : Busy) : Option State :=
  let b := s.body c
  if y.awaits.all fun id => b.answers.any (·.1 == id) then
    match b.answers.find? fun a => y.awaits.contains a.1 && a.2.2.isSome with
    | none =>
      let write (b : Body) (a : Nat × BitVec 64 × Option Cause) : Body := match b.awaited.find? (·.access == a.1) with
        | some w => b.receive a.1 w.reg a.2.1 (s.cycle - 1)
        | none => b
      some ((s.modBody c fun b => b.answers.foldl write b).finish c y.hdr y.landing)
    | some (id, _, cause) =>
      let kept := b.keptRequest id
      let s := (s.finish c y.hdr false).modBody c fun b => { b with replaying := some id }
      some (s.trapCore c { cause := cause.getD .machineCheck, taddr := (kept.map fun r => r.va.zeroExtend 64).getD 0, slot := 1, parked := true }
        ((kept.map (·.baddr)).getD y.hdr) y.next true false false true)
  else none

/-! Waits (R36) and what they set going -/

/-- A bundle that stands: its wait or stall, and the stop that a pre-emptible wait allows. One that has sent an operation stands in no
pre-emptible wait but that operation's own. -/
def State.stand (s : State) (c : CoreId) (h : Hold) : State :=
  let h := if (s.body c).asked.all (·.wait) then h else .stall
  let s := s.modBody c fun b => { b with asked := b.asked.map fun a => { a with wait := h == .wait } }
  match h with
  | .stall => s.stalled c
  | .wait =>
    if (s.body c).inPhase then s.slip c 3 0
    else
      let s := s.setState c .waiting
      if s.mayStop c then s.halt c else s
/-- The request of a bundle, by its operation; one on a held region is answered PROTECTION at the core (R383). -/
def State.askRequest (s : State) (r : Request) : State :=
  match r.op with
  | .purgeTlb | .migrate .. => (s.sendNow r).2
  | _ => s.launch r
/-- The core as the bundle finds it is kept: it has issued, and what it reads is what it found then (R7, R29). -/
def State.keepIssued (s : State) (c : CoreId) : State :=
  { s with cores := Vec.modify s.cores c fun k => { k with issued := some (k.issued.getD (s.cycle, s.pre)) } }
/-- The core for a bundle that stands: the values that its slots read are those of its issue, all else is as it is now. -/
def Body.asIssued (b i : Body) : Body :=
  { i with
    gReady := b.gReady, pReady := b.pReady, awaited := b.awaited, held := b.held, kept := b.kept, replaying := b.replaying, answers := b.answers
    poll := b.poll, asked := b.asked, bracket := b.bracket, bbracket := b.bbracket, reports := b.reports, faults := b.faults
    fetchFaults := b.fetchFaults, ctlCount := b.ctlCount, bcastCount := b.bcastCount }
/-- Tokens of the commands that the bundle would start, and cores that it would start a task on: taken from its issue (R6). -/
def State.reserve (s t : State) (c : CoreId) : State :=
  let started := (t.body c).commands.filter fun k => !s.pre.commands.any (·.id == k.id)
  let mask := started.foldl (fun (m : BitVec 16) k => match k.tok with
    | some n => m ||| oneBit n
    | none => m) 0
  let s := s.modBody c fun b => { b with asked := b.asked.map fun a => { a with tokens := mask } }
  if (s.teamOf c).any fun x => x.cores.any fun d => d != c && (t.task d).state != (s.task d).state then
    { s with cores := Vec.ofFn fun d =>
        let k := s.cores[d]
        if d ≠ c ∧ (t.task d).state ≠ k.task.state then { k with task := { k.task with reserved := some c } } else k }
  else s
/-- What the bundle has set going is noted. -/
def State.note (s : State) (c : CoreId) (x : Bundle) (h : Hold) (f : Asked → Asked) : State :=
  s.modBody c fun b => { b with asked := some (f ((b.asked.filter (·.hdr == x.hdr)).getD { hdr := x.hdr, wait := h == .wait })) }
/-- A line that the bundle next to issue needs is fetched, and the bundle stalls, or the cause that the fetch met is taken. Where the header at
the end of a loop with a count of 0 cannot be fetched, that is at the loop bundle, with the header's address in TADDR (R57 names no bundle).
DESIGN CHOICE (log 46). -/
def State.awaitLine (s : State) (c : CoreId) (a : VA) : Result :=
  let b := s.body c
  match s.needLine c false a with
  | .next t => .next (if (t.body c).handler = b.handler ∧ (t.body c).teamFault = b.teamFault then t.stalled c else t.tick c)
  | r => r
/-- What a bundle that nothing else holds, and that has no cause, sets going; `t` stands after its slots. DEDUCED (log 14). -/
def State.ask (s t : State) (c : CoreId) (x : Bundle) (h : Hold) (a : Ask) : Result :=
  match a with
  | .line l => s.awaitLine c l
  | .preload ls l => State.awaitLine { s with cores := Vec.modify s.cores c fun k => { k with locked := ls } } c l
  | .checkpoint =>
    match s.endInterval c with
    | (true, s) => .next (s.deliverHere c fun s => s.stalled c)
    | (false, s) => .next s
  | .drain =>
    match s.endInterval c with
    | (true, s) =>
      let n := s.nextId
      let s := (s.keepIssued c).note c x h fun y => { y with drain := some n }
      -- a rerun of the new interval finds the drain made (R43)
      let s := { s with cores := Vec.modify s.cores c fun k => { k with chk := { k.chk with asked := k.b.asked } } }
      .next (s.stand c h)
    | (false, s) => .next s
  | .request r _ =>
    let n := s.nextId
    let s := (s.keepIssued c).askRequest r
    .next (((s.note c x h fun y => { y with request := some n, wait := h == .wait }).reserve t c).stand c h)
  | .join => .next (((s.modTask c fun t => { t with closed := true }).note c x h id).stand c h)
  | .merge => .next (((s.beginMerge c).modBody c fun b => { b with asked := none }).stand c h)
  | .arrive ls =>
    let s := { s with cores := Vec.modify s.cores c fun k => { k with locked := ls } }
    .next (((s.modTask c fun t => { t with arrived := true }).note c x h id).stand c h)

/-! One bundle of the control stream -/

/-- The cause of the slots that have been examined: in a phase those of flight instructions come first (R404). DEDUCED (log 9). -/
def Cur.firstCause (k : Cur) : Option TrapInfo := k.flightCause.orElse fun _ => k.trap
/-- The trap is taken; SYSCALL and BREAK return to the next bundle, but in a phase to the due one (R200, R406), and a merge's fault leaves the
engine (R388). -/
def State.slotTrap (s : State) (c : CoreId) (x : Bundle) (t : TrapInfo) : State :=
  let after := decide (t.cause = .syscall ∨ t.cause = .brk) && !(s.body c).inPhase
  let s := if t.parked ∧ t.replay = none then s.modTask c fun k => { k with fault := none } else s
  let s := if (s.body c).inPhase then s.atPort c else s
  s.trapHere c t x.hdr (if after then x.hdr + BitVec.ofNat 56 x.len else x.hdr)
/-- LANDING_OVERDUE is judged where the header would issue; a bundle that stands has passed it (R35). -/
def State.overdue (s : State) (c : CoreId) (landing : Bool) : Bool :=
  let b := s.body c
  !landing && s.standing.isNone && decide (b.sys.landMax ≤ b.sys.landCnt)
def State.trapOverdue (s : State) (c : CoreId) (hdr : VA) : State :=
  (if (s.body c).inPhase then s.atPort c else s).trapHere c { cause := .landingOverdue } hdr hdr
/-- A bundle of a phase that cannot issue: the first cause of the slots examined in the order of R50 and R404, else a slip. DEDUCED (log 9). -/
def State.slipOr (s t : State) (c : CoreId) (x : Bundle) : State :=
  match t.cur.flightCause with
  | some k => s.slotTrap c x k
  | none =>
    if s.overdue c x.head.landing then s.trapOverdue c x.hdr
    else match t.cur.trap with
      | some k => s.slotTrap c x k
      | none => s.slip c 3 0
/-- A due bundle that nothing holds and that has no cause: the ports it owes, then it acts. -/
def State.retireDue (s t : State) (c : CoreId) (x : Bundle) : State :=
  match s.portSlip c t.cur.taken t.cur.missing with
  | some (reason, port) => s.slip c reason port
  | none => (t.clearPorts c).retire c x
/-- What the examined slots come to: `s` stands before them, `t` after. A bundle that something holds does nothing, but that the line it needs
is fetched; one that nothing holds is judged for its causes in the order of R50 and R404; what it asks for is done only where it has none.
DEDUCED (log 9, 14). -/
def State.conclude (s t : State) (c : CoreId) (x : Bundle) : Result :=
  let phase := s.pre.inPhase
  match t.cur.hold with
  | some h =>
    if phase then .next (s.slipOr t c x)
    else match t.cur.ask with
      | some (_, .line a) => s.ask t c x h (.line a)
      -- a bundle that issues into a pre-emptible wait meets LANDING_OVERDUE (R35)
      | _ => .next (if h = .wait ∧ s.overdue c x.head.landing then s.trapOverdue c x.hdr else s.stand c h)
  | none =>
    match t.cur.flightCause with
    | some k => .next (s.slotTrap c x k)
    | none =>
      if s.overdue c x.head.landing then .next (s.trapOverdue c x.hdr)
      else match t.cur.trap, t.cur.ask with
        | some k, _ => .next (s.slotTrap c x k)
        | none, some (h, a) => if phase then .next (s.slip c 3 0) else s.ask t c x h a
        | none, none => .next (if phase then s.retireDue t c x else t.retire c x)
/-- Runs the slots of a bundle in order. DEDUCED (log 14). -/
def runSlots (is : List (Slot × BitVec 32 × Instr)) (s : State) : Result :=
  runAll (fun i s => exec i.2.2 { s with cur := { s.cur with slot := i.1 } }) is s
/-- A bundle without slots (R59). -/
def State.openFold (s : State) (x : Bundle) : Result := exec (.emptyBundle x.head.landing x.head.fold) s
/-- One empty bundle of a folded header. -/
def State.foldStep (s : State) (c : CoreId) : State :=
  let b := s.body c
  match b.inPhase, s.portSlip c [] none with
  | true, some (reason, port) => s.slip c reason port
  | _, _ =>
    if 1 < b.fold then (s.modBody c fun b => { b with fold := b.fold - 1, ctlCount := b.ctlCount + 1 }).tick c
    else
      let x : Bundle := ⟨b.pc, 4, ⟨0, b.foldLanding, 0⟩, []⟩
      (State.retire { (s.modBody c fun b => { b with fold := 0 }) with cur := { core := c, hdr := b.pc }, pre := b } c x)
/-- Every predicate that the slot names has been written (R170). -/
def Body.predsKnown (b : Body) (now : Nat) (i : Slot × BitVec 32 × Instr) : Bool :=
  (predicates i.1 i.2.1 i.2.2).all fun p => decide (b.pReady[p] ≤ now)
/-- The slot can be examined: what it reads has been written. DEDUCED (log 9). -/
def State.examinable (s : State) (i : Slot × BitVec 32 × Instr) : Bool :=
  s.pre.predsKnown s.cycle i && (!s.slotActs i.1 i.2.1 i.2.2 || (regSources i.2.2).all fun r => s.pre.readable s.cycle r)
/-- Parked faults that the acting slots, the steps of a loop end, or an earlier landing or implicit checkpoint make due here: none in a flight
phase, and none while an operation that has been sent owes its answer (R53, R400). -/
def State.dueFaults (s : State) (acting : List Instr) (steps : List Reg) (known : Bool) : List Parked :=
  let b := s.pre
  let reads := acting.flatMap regSources ++ steps
  let read (i : Instr) : Bool := (regSources i).all (b.readable s.cycle)
  let reading (rs : List Reg) (f : Parked) : Bool := match f.access with
    | some id => b.awaited.any fun a => a.access == id && rs.contains a.reg
    | none => false
  if b.inPhase ∨ s.standing.any (fun a => a.request.isSome && !a.wait) then []
  else b.faults.filter fun f => (f.due && !b.handler) || reading steps f || (known && acting.any fun i => s.dueAt reads (read i) i f)
/-- A bracketed bundle: the interval ends before it issues, that is, once its slots other than the waits for held effects neither hold it nor have
a cause (R43). DEDUCED (log 14). -/
def State.issueBracketed (s : State) (c : CoreId) (x : Bundle) (is : List (Slot × BitVec 32 × Instr)) : Result :=
  let waits (i : Slot × BitVec 32 × Instr) : Bool := s.slotActs i.1 i.2.1 i.2.2 && s.pre.waitsForHeld (s.namedTokens i.2.2)
  match runSlots (is.filter fun i => !waits i) s, runSlots is s with
  | .next p, .next t =>
    if p.cur.hold.isNone ∧ p.cur.firstCause.isNone ∧ s.overdue c x.head.landing = false then
      match s.endInterval c with
      | (false, s) => .next s
      | (true, s) =>
        let s := s.modBody c fun b => { b with bracket := true }
        let s := { s with pre := s.body c }
        match runSlots is s with
        | .next t => s.conclude t c x
        | r => r
    else s.conclude t c x
  | .next _, r => r
  | r, _ => r
/-- A bundle that has issued and stands finds what it read at its issue (R7, R29). -/
def State.enterBundle (s : State) (c : CoreId) (x : Bundle) : State :=
  if s.pre.asked.any (fun a => a.hdr == x.hdr && (a.request.isSome || a.drain.isSome)) then
    let s := s.keepIssued c
    match s.cores[c].issued with
    | some i => { s with pre := s.pre.asIssued i.2 }
    | none => s
  else s
/-- From the due faults on (R50, R53, R35, R170, R404). DEDUCED (log 14). -/
def State.issueBundle (s : State) (c : CoreId) (x : Bundle) : Result :=
  let b := s.body c
  let s := State.enterBundle { s with cur := { core := c, hdr := x.hdr, len := x.len }, pre := b } c x
  let is := x.instrs b.inPhase
  let known := is.all (b.predsKnown s.cycle)
  let acting := (is.filter fun i => s.slotActs i.1 i.2.1 i.2.2).map (·.2.2)
  let steps := b.steppedBy x
  match oldestFault (s.dueFaults acting steps known) with
  | some f => .next (s.faultHere c f)
  | none =>
    if is.all s.examinable = false ∨ (steps.any fun r => !b.readable s.cycle r) then
      if b.inPhase then match runSlots (is.filter s.examinable) s with
        | .next t => .next (s.slipOr t c x)
        | r => r
      else .next (s.stalled c)
    else if x.words = [] then
      if s.overdue c x.head.landing then .next (s.trapOverdue c x.hdr)
      else match s.openFold x with
        | .next s => .next (s.foldStep c)
        | r => r
    else if s.bracketsHere acting (is.map (·.2.2)) ∧ b.bracket = false then s.issueBracketed c x is
    else match runSlots is s with
      | .next t => s.conclude t c x
      | r => r
/-- Decode causes of the bundle next to issue, in the order of R60. DEDUCED (log 14). -/
def State.attempt (s : State) (c : CoreId) : Result :=
  let k := s.cores[c]
  let b := k.b
  let lost (s : State) : State := if b.inPhase then s.atPort c else s
  match fetchBundle k b.pc with
  | .missing a => if b.inPhase then .next (s.slip c 3 0) else s.awaitLine c a
  | .illegal => match execIllegalBundle c false (lost s) with
    | .next s => .next ((s.setState c .running).tick c)
    | r => r
  | .ok x =>
    if b.conflicts x then .next ((lost s).trapHere c { cause := .slotConflict } x.hdr x.hdr)
    else match firstIllegal b.inPhase x.words with
      | some (sl, true) => match execReservedOpcode c false (slotCode sl) (lost s) with
        | .next s => .next ((s.setState c .running).tick c)
        | r => r
      | some (sl, false) => .next ((lost s).trapHere c { cause := .illegalOp, slot := slotCode sl } x.hdr x.hdr)
      | none =>
        if b.inPhase ∧ portClash x.words then .next ((lost s).trapHere c { cause := .illegalOp, slot := slotCode .c1 } x.hdr x.hdr)
        else s.issueBundle c x

/-! The control stream's turn -/

/-- The core holds a task that is not stopped. -/
def Core.live (k : Core) (now : Nat) : Bool :=
  let t := k.task
  (t.state == some .running || t.state == some .waiting || t.state == some .merging || t.state == some .mergeFaulted) &&
    decide (t.startAt ≤ now) && !t.halted && k.b.teamFault.isNone && !k.retired
/-- A cause of the broadcast stream is taken before the next bundle issues (R29); a bundle in a pre-emptible wait is abandoned. -/
def State.takesBroadcast (s : State) (c : CoreId) : Option State :=
  let b := s.body c
  let free := b.asked.all (·.wait) && !s.committed c
  let s := if b.inPhase then s.atPort c else s
  if free = false then none
  else match b.btrap, b.bfault with
    | some t, _ =>
      let s := s.modBody c fun b => { b with btrap := none }
      some (((s.setState c .running).trapCore c t b.bpc b.pc false true true false).tick c)
    | none, some m =>
      let s := s.modBody c fun b => { b with bfault := none }
      match oldestFault (b.faults.filter (·.named m)) with
      | some f => some (((s.setState c .running).deliverParked c f b.pc true).tick c)
      | none => none
    | none, none => none
/-- Housekeeping of a core: requests that may be sent now, commands without a token that are complete, a bracket that its stream has left. -/
def State.tidy (s : State) (c : CoreId) : State := ((s.sendReady c).dropFinished c).bunbracket c
/-- The first stage of throttling: no bundle issues in odd cycles, but in flight phases, at their barriers and in handler mode (R484).
DEDUCED (log 35). -/
def State.throttles (s : State) (c : CoreId) : Bool :=
  s.newel.power.throttled && s.cycle % 2 == 1 && !(s.body c).inPhase && !(s.body c).handler && !(s.task c).arrived
/-- With no bundle issued and waiting: a folded header goes on, else a cause of the other stream, else the next bundle. -/
def State.proceed (s : State) (c : CoreId) : Result :=
  if s.cores[c].live s.cycle = false then .next s
  else if s.throttles c then .next (s.heldBack c)
  else if 0 < (s.body c).fold then .next (s.foldStep c)
  else match s.takesBroadcast c with
    | some s => .next s
    | none => s.attempt c
/-- LANDCNT counts a cycle once. DEDUCED (log 14). -/
def State.recount (s : State) (c : CoreId) (n : BitVec 16) : State :=
  s.modBody c fun b => if b.sys.landCnt = 0 then b else { b with sys := { b.sys with landCnt := n } }
/-- An answer or an acknowledgement has reached a core whose bundle stands: the bundle retires at the end of this cycle where that was the last
(R29, R352). DEDUCED (log 14). -/
def State.answerTurn (s : State) (c : CoreId) : Result :=
  let b := s.body c
  if b.asked.any (fun a => a.hdr == b.pc && (a.request.isSome || a.drain.isSome)) ∧ s.cores[c].live s.cycle ∧ b.fold = 0 ∧ b.busy.isNone then
    match s.attempt c with
    | .next t => .next (t.recount c b.sys.landCnt)
    | r => r
  else .next s
/-- DESIGN CHOICE (log 5). -/
def State.controlTurn (s : State) (c : CoreId) : Result :=
  let s := s.tidy c
  if s.cores[c].live s.cycle = false then .next s
  else match (s.body c).busy with
    | none => s.proceed c
    | some y => match s.settleBusy c y with
      | none => .next (s.stalled c)
      | some s => s.proceed c

/-! The broadcast stream's turn -/

structure BBundle where
  hdr : VA
  len : Nat
  head : BcastHeader
  words : List (Slot × BitVec 32)
def fetchBroadcast (k : Core) (pc : VA) : Fetch BBundle :=
  match k.cachedWord true pc with
  | none => .missing pc
  | some h =>
    match decodeBcastHeader h with
    | .error _ => .illegal
    | .ok head =>
      match k.cachedWords true (pc + 4) head.slots.length with
      | .error a => .missing a
      | .ok ws => .ok ⟨pc, 4 + 4 * head.slots.length, head, head.slots.zip ws⟩
/-- Entries that start matrix work. -/
def matrixOp (x : BitVec 64) : Bool := x.getLsbD 0 && (x.extractLsb' 56 8 == 0xC0#8 || x.extractLsb' 56 8 == 0xC1#8)
def State.matrixSlot (s : State) (i : Instr) : Bool :=
  match i with
  | .ix index gm sp _ => (s.participants gm sp).any fun g => matrixOp (s.pre.front.get g index)
  | _ => false
/-- A bundle of V slots that takes two cycles (R33). -/
def State.bundleTwo (s : State) (is : List (Slot × Instr)) : Bool :=
  match is.find? (·.1 == .v0), is.find? (·.1 == .v1) with
  | some (_, .ix i0 gm0 sp0 _), some (_, .ix i1 gm1 sp1 _) => s.twoCycle i0 i1 gm0 sp0 gm1 sp1
  | _, _ => false
/-- V0, V1, Q; a `flip` first, since the V slots look up the bank that it brings to the front (R227). -/
def bcastOrder (is : List (Slot × Instr)) : List (Slot × Instr) :=
  if is.any (fun i => i.2 = .flip) then is.filter (fun i => i.2 = .flip) ++ is.filter (fun i => i.2 ≠ .flip) else is
def runBroadcast (is : List (Slot × Instr)) (s : State) : Result :=
  runAll (fun i s => exec i.2 { s with cur := { s.cur with slot := i.1 } }) is s
/-- The cause of a flip bundle, whatever else holds it. -/
def State.flipCause (s : State) (is : List (Slot × Instr)) : Option TrapInfo :=
  if is.any (fun i => i.2 = .flip) then
    match exec .flip { s with cur := { s.cur with slot := .q } } with
    | .next t => t.cur.trap
    | _ => none
  else none
/-- The first header of each group of a list of held ones. -/
def firstOfGroups (hs : List (GroupId × Bool × Space × Nat)) : List (GroupId × Bool × Space × Nat) :=
  ((hs.map (·.1)).eraseDups).filterMap fun g => hs.find? (·.1 == g)
/-- PLANE_RETRY records, one for each group that was held, ranked with the slot whose entry held it (R207, R251). DEDUCED (log 16). -/
def State.postRetries (s : State) (c : CoreId) : State :=
  s.modBody c fun b => (firstOfGroups b.bheld).foldl (fun b h =>
    b.postAt (16 + 2 * h.1.val + h.2.1.toNat)
      (statRecord 7 true (BitVec.ofNat 5 h.1.val) 0 h.2.2.1.code b.bpc (BitVec.ofNat 48 h.2.2.2))) b
/-- A bracketed bundle of the broadcast stream has retired: a checkpoint (R43). -/
def State.bcastRetired (s : State) (c : CoreId) : State :=
  if (s.body c).bbracket then (s.modBody c fun b => { b with bbracket := false }).checkpoint c else s
/-- The broadcast bundle has issued. -/
def State.commitBroadcast (s : State) (c : CoreId) (x : BBundle) : State :=
  let s := s.postRetries c
  let s := s.modBody c fun b =>
    let b := { b with bheld := [], bretries := 0, bretryAt := none, bnext := if s.cur.two then s.cycle + 2 else b.bnext, bsecondAt := x.hdr }
    let next := x.hdr + BitVec.ofNat 56 x.len
    -- what a loop end rotates is the bundle's own (R130)
    let r := match s.cur.target with
      | some t => (b, t)
      | none => b.bloopEnd x.hdr next s.pre.bloops
    { r.1 with bpc := r.2, bcastCount := r.1.bcastCount + 1 }
  s.bcastRetired c
/-- The lowest group of a list of held rewrites. DEDUCED (log 16). -/
def lowestHeld : List (GroupId × Bool × Space × Nat) → Option (GroupId × Bool × Space × Nat)
  | [] => none
  | h :: rest => match lowestHeld rest with
    | some k => if k.1.val < h.1.val then some k else some h
    | none => some h
/-- A bundle whose rows are under rewrite: the next retry, or the last one fails (R251). DEDUCED (log 16). -/
def State.holdRewrite (s : State) (c : CoreId) (rs : List (GroupId × Bool × Space × Nat)) : State :=
  let b := s.body c
  let n := if b.bheld = [] then 0 else b.bretries + 1
  match lowestHeld rs with
  | some h =>
    if 256 ≤ n then
      s.bcastTrap c { cause := .planeRewriteTimeout, taddr := BitVec.ofNat 64 h.2.2.2, slot := if h.2.1 then 9 else 8
                      group := ⟨h.1.val, Nat.lt_trans h.1.isLt (by decide)⟩ }
    else s.modBody c fun b => { b with
      bheld := (b.bheld ++ rs).eraseDups, bretries := n, bretryAt := some (s.cycle + 64) }
  | none => s
/-- What the examined slots of a broadcast bundle come to. DEDUCED (log 16). -/
def State.concludeBroadcast (s t : State) (c : CoreId) (x : BBundle) : State :=
  if t.cur.rewrites ≠ [] then
    s.holdRewrite c t.cur.rewrites
  else match t.cur.hold, t.cur.trap with
  | some _, _ => s
  | none, some k => s.bcastTrap c k
  | none, none => t.commitBroadcast c x
/-- Tokens of the wait mask: a parked fault is due, a busy one holds the bundle, held effects of its commands are released (R31, R43, R53). -/
def State.waitMask (s : State) (c : CoreId) (m : BitVec 16) : Option State :=
  let b := s.body c
  if b.faults.any (·.named m) ∧ b.inPhase = false then some (s.modBody c fun b => { b with bfault := some m, brun := false })
  else if (maskMembers m).any (fun n => b.tokenBusy n) then
    if b.waitsForHeld m ∧ b.bbracket = false then
      match s.endInterval c with
      | (true, s) => some (s.modBody c fun b => { b with bbracket := true })
      | (false, s) => some s
    else some s
  else none
/-- Runs the slots of a broadcast bundle. Where the Q slot holds it the V slots do not look up (R212); a line that Q needs is fetched. -/
def State.runBundle (s : State) (c : CoreId) (x : BBundle) (is : List (Slot × Instr)) : Result :=
  match runBroadcast (is.filter (·.1 == .q)) s, runBroadcast (bcastOrder is) s with
  | .next q, .next t =>
    match q.cur.hold, q.cur.ask with
    | some _, some (_, .line a) => s.needLine c true a
    | some _, _ => .next s
    | none, _ => .next (s.concludeBroadcast t c x)
  | .next _, r => r
  | r, _ => r
/-- The instructions of a broadcast bundle, or the slot of a decode cause with whether its opcode is reserved (R79). -/
def bcastInstrs (ws : List (Slot × BitVec 32)) : Except (Slot × Bool) (List (Slot × Instr)) :=
  match firstIllegal false ws with
  | some e => .error e
  | none => .ok (ws.filterMap fun w => match decodeSlot false w.1 w.2 with
    | .ok i => some (w.1, i)
    | .error _ => none)
def Body.enterBroadcast (b : Body) (s : State) (c : CoreId) (x : BBundle) : State :=
  { s with cur := { core := c, bcast := true, hdr := x.hdr, len := x.len }, pre := b }
/-- A flip of the bundle takes effect in this cycle, if nothing else holds the bundle. -/
def State.flipsNow (s : State) (is : List (Slot × Instr)) : Bool :=
  is.any (fun i => i.2 = .flip) && s.pre.sys.flipAt.toNat == s.cycle && s.cycle != 0 && !s.pre.back.refused && !s.pre.backIncomplete
/-- The cause of a flip bundle that is next to issue, whatever else holds it (R227). -/
def State.lateFlip (s : State) (c : CoreId) (b : Body) : Option TrapInfo :=
  match fetchBroadcast { s.cores[c] with b := b } b.bpc with
  | .ok x => match bcastInstrs x.words with
    | .ok is => (b.enterBroadcast s c x).flipCause is
    | .error _ => none
  | _ => none
/-- The bundle next to issue in the broadcast stream. `late` marks the turn after the control stream's, for matrix entries (log 5). -/
def State.attemptBroadcast (s : State) (c : CoreId) (b : Body) (late : Bool) : Result :=
  match fetchBroadcast { s.cores[c] with b := b } b.bpc with
  | .missing a => s.needLine c true a
  | .illegal => execIllegalBundle c true s
  | .ok x =>
    match bcastInstrs x.words with
    | .error (sl, true) => execReservedOpcode c true (slotCode sl) s
    | .error (sl, false) => .next (s.bcastTrap c { cause := .illegalOp, slot := slotCode sl })
    | .ok is =>
      let s := b.enterBroadcast s c x
      -- what the V slots hold is looked up in the bank that a flip brings to the front (R227)
      let flips := s.flipsNow is
      let seen := if flips then { s with pre := s.pre.flipBanks } else s
      let s := { s with cur := { s.cur with two := seen.bundleTwo is } }
      match s.flipCause is with
      | some t => .next (s.bcastTrap c t)
      | none =>
        match (if late then none else s.waitMask c x.head.wait) with
        | some s => .next s
        | none =>
          if x.words = [] then exec (.emptyBroadcastBundle x.head.fold x.head.wait) s
          else if late = false ∧ is.any (fun i => seen.matrixSlot i.2) then
            .next { s with cores := Vec.modify s.cores c fun k => { k with snap := some b, snapFlip := flips } }
          else s.runBundle c x is
/-- One empty bundle of a folded broadcast header. -/
def Body.bfoldStep (b : Body) : Body :=
  let b := { b with bfold := b.bfold - 1 }
  let r := if 0 < b.bfold then (b, b.bpc) else b.bloopEnd b.bpc (b.bpc + 4) b.bloops
  { r.1 with bpc := r.2, bcastCount := r.1.bcastCount + 1 }
/-- An empty broadcast bundle issues; a bracket of its wait mask ends with the first (R43). -/
def State.bfoldTurn (s : State) (c : CoreId) : State := (s.modBody c Body.bfoldStep).bcastRetired c
/-- Ports of lane groups replaced. -/
def Body.setPorts (b : Body) (ps : List (GroupId × Fin 16 × Port)) : Body :=
  { b with groups := ps.foldl (fun gs x => Vec.modify gs x.1 fun g => { g with ports := g.ports.set x.2.1 x.2.2 }) b.groups }
def Body.portsAt (b : Body) (ps : List (GroupId × Fin 16 × Port)) : List (GroupId × Fin 16 × Port) :=
  ps.map fun x => (x.1, x.2.1, b.groups[x.1].ports[x.2.1])
/-- The V1 entries of a two-cycle bundle run in its second cycle, before anything else of the stream: with the pointers of before the bundle,
and with the ports that its V0 entries set as those stood (R239, R243). A pop of such a port leaves the position that V0 has set.
DESIGN CHOICE (log 43). -/
def State.runDeferred (s : State) (c : CoreId) (b : Body) : Result :=
  let after := (s.body c).portsAt b.bsecondPorts
  let s := (s.modBody c fun k => { k with bsecond := [] }.setPorts b.bsecondPorts)
  let s := { s with cur := { core := c, bcast := true, hdr := b.bsecondAt, slot := .v1, second := true }
                    pre := { b with bcastCount := b.bcastCount - 1, cbs := b.bsecondCbs } }
  match runAll runSecond b.bsecond s with
  | .next s => .next (s.modBody c fun k => { k with bsecondPorts := [] }.setPorts after)
  | r => r
/-- The lane groups and handles as the broadcast turn of the cycle found them, before the control stream configured any (R234). -/
def Body.asBefore (b before : Body) : Body :=
  { b with
    cbs := before.cbs
    groups := Vec.ofFn fun g =>
      let k := before.groups[g]
      { b.groups[g] with ports := k.ports, gsp := k.gsp, gbase := k.gbase, glimit := k.glimit } }
/-- The port has been configured in this cycle. -/
def Body.configured (b : Body) (now : Nat) (g : GroupId) (n : Fin 16) : Bool :=
  let p := b.groups[g].ports[n]
  p.cfg.isSome && p.readyAt == now + 5
/-- What the control stream has configured in this cycle stays over what the late bundle has done; the fetches that its pops ask for are made
in the cycle of the pops (R234, R236). -/
def Body.afterLate (b control before : Body) (now : Nat) : Body :=
  let replaced (w : Pending) : Bool := decide (w.due = now) && (match w.w with
    | .seek n _ => control.configured now w.group n
    | .move _ n _ => control.cbs[n] != before.cbs[n]
    | _ => false)
  { b with
    cbs := control.cbs, pend := b.pend.filter fun w => !replaced w
    groups := Vec.ofFn fun g =>
      let k := control.groups[g]
      let same := k.gsp == before.groups[g].gsp && k.gbase == before.groups[g].gbase && k.glimit == before.groups[g].glimit
      { b.groups[g] with
        ports := Vec.ofFn fun n => if control.configured now g n then k.ports[n] else (b.groups[g].ports[n]).fetchDue b g now
        gsp := if same then b.groups[g].gsp else k.gsp
        gbase := k.gbase, glimit := k.glimit } }
/-- Banks and FLIPAT exchanged back. -/
def Body.unflip (b : Body) (at_ : BitVec 64) : Body := { b with front := b.back, back := b.front, sys := { b.sys with flipAt := at_ } }
/-- FLIPAT as the control stream has left it, where the flip of the bundle has taken effect. -/
def Body.keepFlipAt (b control : Body) (flipped : Bool) : Body :=
  if flipped ∧ b.sys.flipAt = 0 then { b with sys := { b.sys with flipAt := control.sys.flipAt } } else b
/-- The turn of a broadcast bundle with matrix entries, after the control stream's. A flip of it has taken effect at the start of the cycle;
the bundle itself performs it. DESIGN CHOICE (log 5). DEDUCED (log 17). -/
def State.lateTurn (s : State) (c : CoreId) : Result :=
  let k := s.cores[c]
  match k.snap with
  | none => .next s
  | some b =>
    let e := if k.snapFlip then k.b.unflip b.sys.flipAt else k.b
    let s := { s with cores := s.cores.set c { k with snap := none, snapFlip := false, b := e.asBefore b } }
    match (if b.bsecond ≠ [] then s.runDeferred c b else s.attemptBroadcast c b true) with
    | .next s => .next (s.modBody c fun e => (e.afterLate k.b b s.cycle).keepFlipAt k.b k.snapFlip)
    | r => r
/-- A flip bundle with matrix entries: the flip takes effect at the start of the cycle, before the control stream's bundle, if nothing holds its
bundle after it (R226, R227). DEDUCED (log 17). -/
def State.flipAhead (s : State) (c : CoreId) (b : Body) : State :=
  let plain (s : State) : State := { s with cores := Vec.modify s.cores c fun k => { k with snapFlip := false } }
  let probe := (plain s).modBody c fun e => { e with bsecondAt := ~~~b.bpc }
  match probe.controlTurn c with
  | .next u => match u.lateTurn c with
    | .next v => if (v.body c).bsecondAt = b.bpc then s.modBody c Body.flipBanks else plain s
    | _ => plain s
  | _ => plain s
/-- A flip bundle next to issue that something else holds meets its causes all the same (R227). -/
def State.flipsLate (s : State) (c : CoreId) (b : Body) : State :=
  if b.brun = false ∨ s.cores[c].live s.cycle = false ∨ b.bfold ≠ 0 then s
  else match s.lateFlip c b with
    | some t => s.bcastTrap c t
    | none => s
/-- DESIGN CHOICE (log 5). -/
def State.broadcastTurn (s : State) (c : CoreId) : Result :=
  let k := s.cores[c]
  let b := k.b
  if b.bsecond ≠ [] then
    let s := s.flipsLate c b
    if s.cycle < b.bsecondFrom then .next s
    else if b.bsecond.any (fun x => matrixOp x.2.1) then .next { s with cores := Vec.modify s.cores c fun k => { k with snap := some b, snapFlip := false } }
    else s.runDeferred c b
  else if b.brun = false ∨ k.live s.cycle = false then .next s
  else if s.cycle < b.bnext ∨ b.bretryAt.isSome then .next (s.flipsLate c b)
  else if 0 < b.bfold then .next (s.bfoldTurn c)
  else match s.attemptBroadcast c b false with
    | .next t =>
      -- an empty header issues its first empty bundle in the same cycle
      .next (if 0 < (t.body c).bfold then t.bfoldTurn c else if t.cores[c].snapFlip then t.flipAhead c b else t)
    | r => r

end Sys2Proof.Machine
end

