-- ==== Sys2Proof/Machine/Events.lean ====
section
/-!
DEFINITION. The meaning of an event as the schedule runs it: that of the instruction it stands for.
-/
namespace Sys2Proof.Machine

def runEvent (e : Event) (s : State) : Result :=
  match e with
  | .entryWriteback c => Sys2Proof.Machine.execEntryWriteback c s
  | .npfLineWrite c => Sys2Proof.Machine.execNpfLineWrite c s
  | .landing c => Sys2Proof.Machine.execLanding c s
  | .engineFaultReport c => Sys2Proof.Machine.execEngineFaultReport c s
  | .stopRequest c => Sys2Proof.Machine.execStopRequest c s
  | .coreStop c => Sys2Proof.Machine.execCoreStop c s
  | .uncorrectableError c => Sys2Proof.Machine.execUncorrectableError c s
  | .coreRetire c => Sys2Proof.Machine.execCoreRetire c s
  | .flagRelease c => Sys2Proof.Machine.execFlagRelease c s
  | .portFetch c g port => Sys2Proof.Machine.execPortFetch c g port s
  | .cbStage c g n => Sys2Proof.Machine.execCbStage c g n s
  | .planeRetry c => Sys2Proof.Machine.execPlaneRetry c s
  | .matrixPass c g => Sys2Proof.Machine.execMatrixPass c g s
  | .comparePass c g => Sys2Proof.Machine.execComparePass c g s
  | .passAccWrite c g => Sys2Proof.Machine.execPassAccWrite c g s
  | .levelBoundary c g => Sys2Proof.Machine.execLevelBoundary c g s
  | .shadowLoadDone c g => Sys2Proof.Machine.execShadowLoadDone c g s
  | .tokenIdle c tok => Sys2Proof.Machine.execTokenIdle c tok s
  | .copyRowMove c u => Sys2Proof.Machine.execCopyRowMove c u s
  | .cptTileRetry c u => Sys2Proof.Machine.execCptTileRetry c u s
  | .cptabEntryWrite c u => Sys2Proof.Machine.execCptabEntryWrite c u s
  | .ringAdvance c u => Sys2Proof.Machine.execRingAdvance c u s
  | .copyComplete c u => Sys2Proof.Machine.execCopyComplete c u s
  | .copyFault c u => Sys2Proof.Machine.execCopyFault c u s
  | .transformComplete c u => Sys2Proof.Machine.execTransformComplete c u s
  | .transformFault c u => Sys2Proof.Machine.execTransformFault c u s
  | .atomicPerform id => Sys2Proof.Machine.execAtomicPerform id s
  | .reductionPerform id => Sys2Proof.Machine.execReductionPerform id s
  | .phaserPerform id => Sys2Proof.Machine.execPhaserPerform id s
  | .copyArrival id => Sys2Proof.Machine.execCopyArrival id s
  | .phaserPoll c => Sys2Proof.Machine.execPhaserPoll c s
  | .acknowledgementArrival id => Sys2Proof.Machine.execAcknowledgementArrival id s
  | .answerReturn id => Sys2Proof.Machine.execAnswerReturn id s
  | .rangeTake c => Sys2Proof.Machine.execRangeTake c s
  | .mergePush c => Sys2Proof.Machine.execMergePush c s
  | .mergeTileRetry c => Sys2Proof.Machine.execMergeTileRetry c s
  | .mergeTranslationFault c => Sys2Proof.Machine.execMergeTranslationFault c s
  | .teamEnd t => Sys2Proof.Machine.execTeamEnd t s
  | .flightBarrierComplete t => Sys2Proof.Machine.execFlightBarrierComplete t s
  | .flightPhaseStart t => Sys2Proof.Machine.execFlightPhaseStart t s
  | .vectorArrival c port => Sys2Proof.Machine.execVectorArrival c port s
  | .flightBreakSignal t => Sys2Proof.Machine.execFlightBreakSignal t s
  | .tailRegisterWrite q value => Sys2Proof.Machine.execTailRegisterWrite q value s
  | .launch q => Sys2Proof.Machine.execLaunch q s
  | .wait q => Sys2Proof.Machine.execWait q s
  | .waitRetest q => Sys2Proof.Machine.execWaitRetest q s
  | .signal q => Sys2Proof.Machine.execSignal q s
  | .cond q => Sys2Proof.Machine.execCond q s
  | .loopNode q => Sys2Proof.Machine.execLoopNode q s
  | .switch q => Sys2Proof.Machine.execSwitch q s
  | .load q => Sys2Proof.Machine.execLoad q s
  | .teamPlace t => Sys2Proof.Machine.execTeamPlace t s
  | .quantumExpiry t => Sys2Proof.Machine.execQuantumExpiry t s
  | .teamSave t => Sys2Proof.Machine.execTeamSave t s
  | .jobComplete j => Sys2Proof.Machine.execJobComplete j s
  | .teamFault t => Sys2Proof.Machine.execTeamFault t s
  | .ageing q => Sys2Proof.Machine.execAgeing q s
  | .usherConfigCommit off bytes => Sys2Proof.Machine.execUsherConfigCommit off bytes s
  | .fabricConfigCommit off bytes => Sys2Proof.Machine.execFabricConfigCommit off bytes s
  | .registerWrite off bytes => Sys2Proof.Machine.execRegisterWrite off bytes s
  | .moduleReset => Sys2Proof.Machine.execModuleReset s
  | .windowRead off n => Sys2Proof.Machine.execWindowRead off n s
  | .windowWrite off bytes => Sys2Proof.Machine.execWindowWrite off bytes s
  | .sensors => Sys2Proof.Machine.execSensors s
  | .log => Sys2Proof.Machine.execLog s
  | .cap => Sys2Proof.Machine.execCap s
  | .update => Sys2Proof.Machine.execUpdate s
  | .attest => Sys2Proof.Machine.execAttest s
  | .errcnt => Sys2Proof.Machine.execErrcnt s
  | .unretire => Sys2Proof.Machine.execUnretire s
  | .mailboxCompletion => Sys2Proof.Machine.execMailboxCompletion s
  | .hostReadTimeout id => Sys2Proof.Machine.execHostReadTimeout id s
  | .peerRequest r => Sys2Proof.Machine.execPeerRequest r s
  | .flitRetry link => Sys2Proof.Machine.execFlitRetry link s
  | .sensorRefresh => Sys2Proof.Machine.execSensorRefresh s
  | .powerBudgetCheck => Sys2Proof.Machine.execPowerBudgetCheck s
  | .coolantLoss => Sys2Proof.Machine.execCoolantLoss s
  | .eccSummary => Sys2Proof.Machine.execEccSummary s
  | .lineFill id => Sys2Proof.Machine.execLineFill id s
  | .pageWalk id => Sys2Proof.Machine.execPageWalk id s
  | .packetArrival id => Sys2Proof.Machine.execPacketArrival id s
  | .regionalCount die => Sys2Proof.Machine.execRegionalCount die s
  | .escape id => Sys2Proof.Machine.execEscape id s
  | .routerSleep die => Sys2Proof.Machine.execRouterSleep die s
  | .routerWake die => Sys2Proof.Machine.execRouterWake die s
  | .trafficPeriod => Sys2Proof.Machine.execTrafficPeriod s
  | .hotLineRecompress line => Sys2Proof.Machine.execHotLineRecompress line s
  | .illegalBundle c bcast => Sys2Proof.Machine.execIllegalBundle c bcast s
  | .reservedOpcode c bcast slot => Sys2Proof.Machine.execReservedOpcode c bcast slot s
  | .fetchFault c bcast => Sys2Proof.Machine.execFetchFault c bcast s
  | .bankPortRequest c slice => Sys2Proof.Machine.execBankPortRequest c slice s
  | .hostCompletion id data => Sys2Proof.Machine.execHostCompletion id data s
  | .peerResponse id data => Sys2Proof.Machine.execPeerResponse id data s
  | .linkUp link degraded => Sys2Proof.Machine.execLinkUp link degraded s
  | .powerLoss => Sys2Proof.Machine.execPowerLoss s
  | .flipatReached t => Sys2Proof.Machine.execFlipatReached t s
  | .badCommand => Sys2Proof.Machine.execBadCommand s

end Sys2Proof.Machine
end

