-- ==== Sys2Proof/Machine/Schedule.lean ====
section
/-!
DEFINITION. What happens in each turn of a cycle, in order (log 5): arrivals, broadcast streams, engines, control streams, matrix entries
of broadcast bundles, the fabric with the task engine and the usher, and the writes at the end of the cycle.
-/
namespace Sys2Proof.Machine

/-- Events in order; a list is formed when its stage begins. -/
def runEvents (es : State → List Event) (s : State) : Result := runAll runEvent (es s) s
/-- Stages in order. -/
def stages : List (State → Result) → State → Result
  | [], s => .next s
  | f :: fs, s =>
    match f s with
    | .next s => stages fs s
    | r => r
def allCores : List CoreId := List.finRange 128
def allGroups : List GroupId := List.finRange 24
def coresWith (p : Core → Bool) (s : State) : List CoreId := allCores.filter fun c => p s.cores[c]
def groupsWith (p : Group → Bool) (b : Body) : List GroupId := allGroups.filter fun g => p b.groups[g]
/-- Pairs of a core and one of its groups. -/
def tilesWith (p : Tile → Bool) (s : State) : List (CoreId × GroupId) :=
  allCores.flatMap fun c => (groupsWith (fun g => p g.tile) s.cores[c].b).map fun g => (c, g)

/-! Arrivals -/

/-- What comes from outside. -/
def runInput (i : Input) (s : State) : Result :=
  match i with
  | .event e => runEvent e s
  | .registerRead off n => execRegisterRead off n s
  | .flitError link flit => execFlitRetry link (s.modHost fun h => { h with flit := h.flit.set link flit })
/-- A host access that waited behind another goes on, under WINCTL as it was received; what stands behind it stays (R160, R470).
DESIGN CHOICE (log 7). -/
def hostQueue (s : State) : Result :=
  match s.host.queue with
  | [] => .next s
  | (w, i) :: rest =>
    match runInput i (s.modHost fun h => { h with queue := [], window := some w }) with
    | .next t => .next (t.modHost fun h => { h with queue := h.queue ++ rest, window := none })
    | r => r
/-- DESIGN CHOICE (log 7). -/
def dueInputs (s : State) : Result := runAll runInput ((s.inputs.filter fun i => decide (i.1 ≤ s.cycle)).map (·.2)) s
def periodic (s : State) : List Event :=
  (if s.cycle % 1600 = 0 then [Event.trafficPeriod] else []) ++
    (if s.cycle % checkPeriod = checkPeriod - 1 then [Event.sensorRefresh, .powerBudgetCheck] else []) ++
    (if s.cycle % eccPeriod = eccPeriod - 1 then [Event.eccSummary] else []) ++
    (if s.cycle % 4 = 0 then (List.finRange 8).map Event.regionalCount else []) ++
    ((List.finRange 8).filter fun d => s.routers[d].wakeAt.any (· ≤ s.cycle)).map Event.routerWake
def phaseEvents (s : State) : List Event :=
  s.usher.teams.flatMap fun t => [Event.flightPhaseStart t.id, .flightBreakSignal t.id] ++
    (if t.cores.any fun c => (s.task c).stopAfter ≠ 0 then [Event.flipatReached t.id] else [])
def vectorEvents (s : State) : List Event := (s.wires.filter fun w => w.at_ == s.cycle).map fun w => .vectorArrival w.core w.port
def retryEvents (s : State) : List Event := (coresWith (fun k => k.b.bretryAt.any (· ≤ s.cycle)) s).map Event.planeRetry
def timeoutEvents (s : State) : List Event := (s.aways.filter fun a => a.late s.cycle).map fun a => .hostReadTimeout a.id
/-- The event of the mailbox command that is due. -/
def commandEvents (s : State) : List Event :=
  if s.newel.doneAt.all fun t => decide (s.cycle < t) then []
  else if s.newel.acted then [.mailboxCompletion]
  else match s.newel.code with
    | 1 => [.sensors]
    | 2 => [.log]
    | 3 => [.cap]
    | 4 => [.update]
    | 5 => [.attest]
    | 6 => [.errcnt]
    | 7 => [.unretire]
    | _ => [.badCommand]
/-- DESIGN CHOICE (log 5, 7). -/
def arrivalsTurn : State → Result :=
  stages [hostQueue, dueInputs, fun s => .next { s with inputs := s.inputs.filter fun i => decide (s.cycle < i.1) },
    runEvents periodic, runEvents phaseEvents, runEvents vectorEvents, runEvents retryEvents,
    runEvents timeoutEvents, runEvents commandEvents, newelAlerts]

/-! Engines -/

def portEvents (s : State) : List Event :=
  allCores.flatMap fun c => allGroups.flatMap fun g =>
    ((List.finRange 8).filter fun p => (s.cores[c].b.groups[g].ports[portNo p]).toFetch.any fun x => decide (x.2 ≤ s.cycle)).map (Event.portFetch c g)
def stageEvents (s : State) : List Event :=
  allCores.flatMap fun c => ((List.finRange 16).filter fun n => (s.cores[c].b.cbs[n]).cfg.isSome).flatMap fun n =>
    allGroups.map fun g => .cbStage c g n
def passEvents (s : State) : List Event :=
  (tilesWith (fun t => t.run.isSome) s).map fun x =>
    if (s.cores[x.1].b.groups[x.2]).tile.comparing then .comparePass x.1 x.2 else .matrixPass x.1 x.2
/-- Copy units: a fault met earlier, the next row, entry or attempt, then what is due at completion. -/
def copyEvents (s : State) : List Event :=
  (coresWith (fun k => k.b.copies.toList.any fun u => u.cmd.isSome) s).flatMap fun c => (List.finRange 2).filterMap fun u =>
    match (s.copyOf c u).cmd with
    | some x =>
      if x.fault.isSome then some (.copyFault c u)
      else (s.copyDue c u).map fun x =>
        if x.kind = 3 ∧ x.buf.isSome then .cptabEntryWrite c u else if 0 < x.attempts then .cptTileRetry c u else .copyRowMove c u
    | none => none
def signalEvents (s : State) : List Event :=
  (coresWith (fun k => !k.b.signals.isEmpty) s).flatMap fun c =>
    ((s.cores[c].b.signals).filter fun x => s.signalReady c x).map fun x => .copyComplete c x.unit
def transformEvents (s : State) : List Event :=
  (coresWith (fun k => k.b.transforms.toList.any fun u => u.op.isSome) s).flatMap fun c => (List.finRange 4).filterMap fun u =>
    match (s.cores[c].b.transforms[u]).op with
    | some x => if x.fault.isSome then some (.transformFault c u) else (s.transformDue c u).map fun _ => .transformComplete c u
    | none => none
def mergeEvents (s : State) : List Event :=
  (coresWith (fun k => k.task.state == some .merging) s).filterMap fun c =>
    if (s.task c).fault.isSome then some (.mergeTranslationFault c)
    else (s.pushDue c).map fun _ => if 0 < (s.task c).attempts then .mergeTileRetry c else .mergePush c
/-- DESIGN CHOICE (log 5). -/
def enginesTurn : State → Result :=
  stages [runEvents portEvents, runEvents stageEvents, runEvents passEvents, runEvents copyEvents, runEvents signalEvents,
    runEvents transformEvents, runEvents mergeEvents]

/-! The fabric -/

def arrivedRequests (s : State) : List Event :=
  (s.requests.filter fun r => s.arrives r).map fun r => if r.returns then .answerReturn r.id else .acknowledgementArrival r.id
def pollEvents (s : State) : List Event := (coresWith (fun k => k.pollDue s.cycle) s).map Event.phaserPoll
/-- Bundles whose answers have come (R352). -/
def answerTurns (s : State) : Result := runAll (fun c s => s.answerTurn c) ((s.delivered.map (·.1)).eraseDups) s
def packetEvents (s : State) : List Event :=
  ((s.requests.filter fun r => s.packetReady r).map fun r => Event.packetArrival r.id) ++
    (s.requests.filter fun r => s.escapes r).map fun r => Event.escape r.id
/-- A port takes at most two requests in a cycle (R444). -/
def bankEvents (s : State) : List Event :=
  ((s.requests.filter fun r => r.stage == .port && decide (r.due ≤ s.cycle) && s.cycle % 16 == r.core.val % 16).map
    fun r => (r.core, homeSlice r.va)).eraseDups.flatMap fun x => [Event.bankPortRequest x.1 x.2, .bankPortRequest x.1 x.2]
def missEvents (s : State) : List Event :=
  (s.requests.filter fun r => s.walkReady r || s.workReady r).map fun r => match r.op with
    | .peer q => Event.peerRequest q
    | _ => Event.pageWalk r.id
def fillEvents (s : State) : List Event := (s.requests.filter fun r => s.fillReady r).map fun r => Event.lineFill r.id
def engineEvents (s : State) : List Event :=
  (s.requests.filter fun r => s.engineReady r).filterMap fun r => match r.op with
    | .atomic .. | .decrement _ => some (.atomicPerform r.id)
    | .reduce .. => some (.reductionPerform r.id)
    | .phaser .. => some (.phaserPerform r.id)
    | .arrive _ => some (.copyArrival r.id)
    | _ => none
def quietEvents (s : State) : List Event :=
  ((List.finRange 8).filter fun d => s.routerIdle d).map Event.routerSleep ++
    (s.hall.filter fun h => s.coolReady h).map fun h => Event.hotLineRecompress h.pline
/-- Within a team in ascending team index (R375). -/
def rangeEvents (s : State) : List Event :=
  (s.usher.teams.flatMap fun x => x.cores.filter fun c => (s.teamOf c).any (·.id == x.id) && s.takes c x).map Event.rangeTake
def barrierEvents (s : State) : List Event := (s.usher.teams.filter fun t => s.barrierFull t).map fun t => .flightBarrierComplete t.id
def teamEvents (s : State) : List Event := (s.usher.teams.filter fun t => s.teamOver t).map fun t => .teamEnd t.id

/-! The usher -/

def retireEvents (s : State) : List Event := (coresWith (fun k => k.retiring && !k.retired) s).map Event.coreRetire
def stopEvents (s : State) : List Event := (allCores.filter fun c => s.stopsNow c).map Event.coreStop
def quantumEvents (s : State) : List Event :=
  (s.usher.teams.filter fun x => x.state == .resident && !x.quantumOver && decide (x.residentAt + s.usher.quantumCycles ≤ s.cycle)).map fun x => .quantumExpiry x.id
def ageEvents (s : State) : List Event := (allQueues.filter fun q => s.agesNow q).map Event.ageing
def retestEvents (s : State) : List Event :=
  (allQueues.filter fun q => s.usher.enable && s.usher.retest[q].any (· ≤ s.cycle)).map Event.waitRetest
/-- The event of the entry at a queue's head; one that is neither a node nor a LOAD is a launch's to judge. DEDUCED (log 25). -/
def headEvent (s : State) (q : QueueId) : Event :=
  match s.entryAt (whoHead q) q with
  | (.ok bs, _) => match entryKind (BitVec.ofNat 512 (natLE bs)) with
    | 2 => .wait q
    | 3 => .signal q
    | 4 => .cond q
    | 5 => .loopNode q
    | 6 => .switch q
    | 7 => .load q
    | _ => .launch q
  | _ => .launch q
/-- The queue is being frozen, or its tail stored: no entry of it is taken up meanwhile (R413, R430). -/
def State.queueHeld (s : State) (q : QueueId) : Bool :=
  s.usher.teams.any (fun x => x.queue == q && (s.jobOf x).any (·.faulted) && s.faultDue x) ||
    match s.host.queue.head? with
    | some (_, .event (.tailRegisterWrite p _)) => p == q
    | _ => false
/-- One decision of the usher at most: the entry under way goes on, or after an examination of every queue one is chosen (R419).
DEDUCED (log 25). -/
def usherDecision (s : State) : Result :=
  if s.usher.enable = false ∨ s.cycle < s.usher.busyUntil then .next s
  else match s.usher.serving with
    | some q => if s.usher.readySince[q].isSome then runEvent (headEvent s q) s else .next ((s.forgetAways (whoHead q)).modUsher fun u => { u with serving := none })
    | none =>
      let s := allQueues.foldl (fun (s : State) (q : QueueId) => if (s.usher.retest[q]).isSome || (s.usher.examined[q] : Bool) then s else s.examine q) s
      if (allQueues.all fun (q : QueueId) => (s.usher.retest[q]).isSome || (s.usher.examined[q] : Bool)) = false then .next s
      else match s.chosen with
        | some q => if s.queueHeld q then .next s else runEvent (headEvent s q) (s.beginServing q)
        | none =>
          let n := s.nextFree
          .next (n.2.modUsher fun u => { u with busyUntil := s.cycle + 1 + Config.usherWait n.1, examined := Vector.replicate 64 false })
/-- What the usher can do with teams and jobs. -/
def actionsOf (s : State) : List Event :=
  ((s.usher.teams.filter fun x => s.faultDue x).map fun x => Event.teamFault x.id) ++
    ((s.usher.teams.filter fun x => s.savesNow x).map fun x => Event.teamSave x.id) ++
    ((s.usher.jobs.filter fun j => s.jobOver j).map fun j => Event.jobComplete j.id) ++
    match s.placement with
    | some p => [.teamPlace p.1.id]
    | none => if s.newel.power.stopped then [] else (s.toDisplace.take 1).map fun _ => Event.teamPlace 0
/-- One action at most. -/
def usherAction (s : State) : Result :=
  if s.cycle < s.usher.actAt then .next s
  else match actionsOf s with
    | [] => .next s
    | e :: _ =>
      let n := s.nextFree
      runEvent e (n.2.modUsher fun u => { u with actAt := s.cycle + 1 + Config.usherWait n.1 })
/-- DESIGN CHOICE (log 5). -/
def fabricTurn : State → Result :=
  stages [runEvents arrivedRequests, answerTurns, runEvents pollEvents, fun s => .next s.hopTurn, runEvents packetEvents, runEvents bankEvents, runEvents missEvents,
    runEvents fillEvents, runEvents engineEvents, runEvents quietEvents, runEvents rangeEvents, runEvents barrierEvents, runEvents teamEvents,
    runEvents retireEvents, runEvents stopEvents, runEvents quantumEvents, runEvents ageEvents, runEvents retestEvents, usherDecision, usherAction]

/-! The end of the cycle -/

def loadEvents (s : State) : List Event := (tilesWith (fun t => t.load.isSome) s).map fun x => .shadowLoadDone x.1 x.2
def rowEvents (s : State) : List Event :=
  (tilesWith (fun t => t.writes.any (fun w => decide (w.due ≤ s.cycle)) || t.drained) s).map fun x => .passAccWrite x.1 x.2
/-- One `entryWriteback` for each core with something to write, and one after each line of an optimiser update. -/
def writeEvents (s : State) : List Event :=
  (coresWith (fun k => !k.b.tableOps.isEmpty || !k.b.locals.isEmpty || !k.b.posts.isEmpty || k.b.pend.any fun w => decide (w.due ≤ s.cycle)) s).flatMap fun c =>
    Event.entryWriteback c :: ((s.cores[c].b.dueWrites s.cycle).filter fun w => w.w.isNpf).flatMap fun _ => [Event.npfLineWrite c, .entryWriteback c]
def ringEvents (s : State) : List Event :=
  (coresWith (fun k => k.b.copies.toList.any fun u => u.advance.isSome) s).flatMap fun c =>
    ((List.finRange 2).filter fun u => (s.copyOf c u).advance.isSome).map (Event.ringAdvance c)
def reportEvents (s : State) : List Event :=
  (coresWith (fun k => !k.b.reports.isEmpty) s).flatMap fun c => (s.cores[c].b.reports).map fun _ => .engineFaultReport c
def idleEvents (s : State) : List Event :=
  (coresWith (fun k => !k.b.commands.isEmpty) s).flatMap fun c =>
    ((s.cores[c].b.commands.filterMap (·.tok)).eraseDups).map (Event.tokenIdle c)
def boundaryEvents (s : State) : List Event :=
  (tilesWith (fun t => match t.run with
    | some r => (match r.phase with | .boundary _ => true | _ => false)
    | none => false) s).map fun x => .levelBoundary x.1 x.2
def flagEvents (s : State) : List Event :=
  (coresWith (fun k => k.b.bhalting || k.b.flagOps.any fun o => decide (o.due ≤ s.cycle)) s).map Event.flagRelease
def nextCycle (s : State) : Result := .next { s with cycle := s.cycle + 1, turn := .arrivals, delivered := [] }
/-- DESIGN CHOICE (log 5). -/
def closeTurn : State → Result :=
  stages [runEvents loadEvents, runEvents rowEvents, runEvents writeEvents, runEvents ringEvents, runEvents reportEvents, runEvents idleEvents,
    runEvents boundaryEvents, runEvents flagEvents, nextCycle]

/-! A word as the next instruction (log 1) -/

/-- The word at an address of an instruction cache. -/
def cacheWord (c : Sparse (List (BitVec 8))) (a : VA) (w : BitVec 32) : Sparse (List (BitVec 8)) :=
  let l := a.toNat / 128
  let o := a.toNat % 128
  let old := (lookup c l).getD (List.replicate 128 0)
  insertKey (eraseKey c l) l (old.take o ++ bytesLE 4 w.toNat ++ old.drop (o + 4))
/-- The decoder of `tableDecoders` that reads a word of the table. DESIGN CHOICE (log 1). -/
def tablePlace (w : BitVec 32) : List (BitVec 32 × BitVec 32 × Nat) → Option Nat
  | [] => none
  | (mask, pat, k) :: rs =>
    if w &&& mask = pat ∧ ((tableDecoders[k]?).bind (· w)).isSome then some k else tablePlace w rs
/-- A control header with one slot, by its decoder. -/
def oneSlotHeader (k : Nat) : BitVec 32 :=
  0x10000000#32 ||| (1#32 <<< (match k with | 1 => 27 | 2 => 26 | 3 => 25 | 4 => 24 | 5 => 23 | 6 => 22 | 7 => 22 | _ => 20))
/-- Core 0 with words at the address of its next control bundle, ready to issue it. DESIGN CHOICE (log 1). -/
def Core.placeControl (k : Core) (now : Nat) (flight : Bool) (ws : List (BitVec 32)) : Core :=
  { k with
    icache := (ws.zipIdx.foldl (fun c (w, i) => cacheWord c (k.b.pc + BitVec.ofNat 56 (4 * i)) w) k.icache)
    retired := false, rerun := none
    task := { k.task with state := some .running, startAt := now, halted := false }
    b := { k.b with fold := 0, busy := none, asked := none, btrap := none, bfault := none, teamFault := none, inPhase := flight } }
/-- DESIGN CHOICE (log 1). -/
def Core.placeBroadcast (k : Core) (now : Nat) (ws : List (BitVec 32)) : Core :=
  { k with
    bicache := (ws.zipIdx.foldl (fun c (w, i) => cacheWord c (k.b.bpc + BitVec.ofNat 56 (4 * i)) w) k.bicache)
    retired := false, rerun := none
    task := { k.task with state := some .running, startAt := now, halted := false }
    b := { k.b with brun := true, bnext := now, bfold := 0, bsecond := [], bretryAt := none, teamFault := none } }
/-- A word of the table placed as the bundle, or as the only slot of the bundle, that core 0 issues in the next step. DESIGN CHOICE (log 1). -/
def State.placeWord (s : State) (w : BitVec 32) : State :=
  let k := s.cores[(0 : CoreId)]
  let control (flight : Bool) (ws : List (BitVec 32)) : State :=
    { s with cores := s.cores.set (0 : CoreId) (k.placeControl s.cycle flight ws), turn := .ctl 0, powered := true }
  let broadcast (ws : List (BitVec 32)) : State :=
    { s with cores := s.cores.set (0 : CoreId) (k.placeBroadcast s.cycle ws), turn := .brs 0, powered := true }
  match tablePlace w (tableRowsA ++ tableRowsB ++ tableRowsC ++ tableRowsD) with
  | some 0 => if w.extractLsb' 28 4 = 1#4 then control false [w] else broadcast [w]
  | some 9 => broadcast [0x22000000#32, w]
  | some n => control (n == 7) [oneSlotHeader n, w]
  | none => control false [w]

/-! Turns -/

/-- DESIGN CHOICE (log 5). -/
def nextCore (c : CoreId) (turn : CoreId → Turn) (after : Turn) : Turn := if c.val < 127 then turn (c + 1) else after
/-- The turn after this one in the cycle. DESIGN CHOICE (log 5). -/
def Turn.following : Turn → Turn
  | .arrivals => .brs 0
  | .brs c => nextCore c .brs .engines
  | .engines => .ctl 0
  | .ctl c => nextCore c .ctl (.late 0)
  | .late c => nextCore c .late .fabric
  | .fabric => .close
  | .close => .arrivals
def turnStep (t : Turn) (s : State) : Result :=
  match t with
  | .arrivals => arrivalsTurn s
  | .brs c => s.broadcastTurn c
  | .engines => enginesTurn s
  | .ctl c => s.controlTurn c
  | .late c => s.lateTurn c
  | .fabric => fabricTurn s
  | .close => closeTurn s

end Sys2Proof.Machine
end

