-- ==== Sys2Proof/Machine/Step.lean ====
section
/-!
DEFINITION. One step: one turn of a cycle. A core's control turn issues at most one bundle, its broadcast turn at most one.
-/
namespace Sys2Proof.Machine

/-- One turn; at the end of a cycle CYCLE advances. Without power nothing happens any more (R480). -/
def step (s : State) : Host.Outcome State Fault Refusal :=
  if s.powered then
    match turnStep s.turn s with
    | .next t => .next { t with turn := s.turn.following }
    | r => r
  else .fault .noPower

/-- The word of a table row as the next instruction of core 0 (log 1). DESIGN CHOICE (log 1). -/
def State.withFetchWord (s : State) (nbits w : Nat) : State := s.placeWord (BitVec.ofNat 32 (w % 2 ^ min nbits 32))

end Sys2Proof.Machine
end

