-- ==== Sys2Proof/WellFormed.lean ====
section
/-!
DEFINITION. Which terms of `Instr` an encoding exists for: the field values R60, R66, R78 and R89 accept.
-/
namespace Sys2Proof

/-- Orders of `phinit`, `phreg`, `phdrop`, `pharr` (R351). -/
def Order.notAcquire : Order → Bool
  | .rlx | .rel => true
  | _ => false
/-- Orders of `phwait` and `phq` (R351). -/
def Order.notRelease : Order → Bool
  | .rlx | .acq => true
  | _ => false
/-- Scopes of the phaser instructions (R351). -/
def Scope.teamOrPackage : Scope → Bool
  | .t | .p => true
  | _ => false
/-- A declared class: at least the inherent one, and 7 only for `nop` (R87). -/
def VHead.classOk (e : VHead) (inherent : Nat) : Bool := inherent ≤ e.cls.val && e.cls.val ≠ 7
def MHead.classOk (e : MHead) (inherent : Nat) : Bool := inherent ≤ e.cls.val && e.cls.val ≠ 7
/-- Plane counts of `pld`, `pst` and `pupd` (R82). -/
def planesOk (k : BitVec 4) : Bool := 1#4 ≤ k && k ≤ 12#4
/-- Conversions of `fcvt` (R270), and those that read b. -/
def fcvtModOk (m : BitVec 4) : Bool := m ≠ 7#4 && m ≠ 0xB#4 && m < 0xC#4
def fcvtPair (m : BitVec 4) : Bool := m = 4#4 || m = 8#4

/-- The instruction has an encoding that decode accepts. -/
def wellFormed : Instr → Bool
  | .emptyBundle _ _ => true
  | .emptyBroadcastBundle _ _ => true
  | .add _ _ _ _ => true
  | .sub _ _ _ _ => true
  | .and _ _ _ _ => true
  | .or _ _ _ _ => true
  | .xor _ _ _ _ => true
  | .andn _ _ _ _ => true
  | .min _ _ _ _ => true
  | .max _ _ _ _ => true
  | .minu _ _ _ _ => true
  | .maxu _ _ _ _ => true
  | .sll _ _ _ _ => true
  | .srl _ _ _ _ => true
  | .sra _ _ _ _ => true
  | .rol _ _ _ _ => true
  | .mul _ _ _ _ => true
  | .mulh _ _ _ _ => true
  | .mulhu _ _ _ _ => true
  | .div _ _ _ _ => true
  | .divu _ _ _ _ => true
  | .rem _ _ _ _ => true
  | .remu _ _ _ _ => true
  | .cmpeq _ _ _ _ => true
  | .cmpne _ _ _ _ => true
  | .cmplt _ _ _ _ => true
  | .cmpltu _ _ _ _ => true
  | .cmple _ _ _ _ => true
  | .cmpleu _ _ _ _ => true
  | .sel _ _ _ _ _ => true
  | .clz _ _ _ => true
  | .ctz _ _ _ => true
  | .popc _ _ _ => true
  | .sext _ _ _ fn => fn ≤ 2#4
  | .zext _ _ _ fn => fn ≤ 2#4
  | .addi _ _ _ _ => true
  | .andi _ _ _ _ => true
  | .ori _ _ _ _ => true
  | .xori _ _ _ _ => true
  | .slli _ _ _ _ => true
  | .srli _ _ _ _ => true
  | .srai _ _ _ _ => true
  | .cmpi _ _ _ _ _ => true
  | .lui _ _ => true
  | .addpc _ _ => true
  | .faddS _ _ _ _ => true
  | .fsubS _ _ _ _ => true
  | .fmulS _ _ _ _ => true
  | .fminS _ _ _ _ => true
  | .fmaxS _ _ _ _ => true
  | .fcvtS _ _ _ fn => fn ≤ 8#4
  | .fcmpS _ _ _ _ fn => fn ≤ 3#4
  | .plog _ _ _ _ _ => true
  | .ldb _ _ _ _ => true
  | .ldbu _ _ _ _ => true
  | .ldh _ _ _ _ => true
  | .ldhu _ _ _ _ => true
  | .ldw _ _ _ _ => true
  | .ldwu _ _ _ _ => true
  | .ldd _ _ _ _ => true
  | .stb _ _ _ _ => true
  | .sth _ _ _ _ => true
  | .stw _ _ _ _ => true
  | .std _ _ _ _ => true
  | .pfg _ _ _ => true
  | .drain _ _ => true
  | .purgeDc _ _ _ => true
  | .purgeIc _ _ _ => true
  | .purgeTlb _ _ _ => true
  | .aadd _ _ _ _ _ _ => true
  | .aand _ _ _ _ _ _ => true
  | .aor _ _ _ _ _ _ => true
  | .axor _ _ _ _ _ _ => true
  | .amin _ _ _ _ _ _ => true
  | .amax _ _ _ _ _ _ => true
  | .aminu _ _ _ _ _ _ => true
  | .amaxu _ _ _ _ _ _ => true
  | .axchg _ _ _ _ _ _ => true
  | .acas _ _ _ _ _ _ => true
  | .afadd _ _ _ _ _ _ => true
  | .radd _ _ _ _ _ _ => true
  | .rmax _ _ _ _ _ _ => true
  | .rmin _ _ _ _ _ _ => true
  | .phinit _ _ _ _ ord sc => ord.notAcquire && sc.teamOrPackage
  | .phreg _ _ _ _ ord sc => ord.notAcquire && sc.teamOrPackage
  | .phdrop _ _ _ ord sc => ord.notAcquire && sc.teamOrPackage
  | .pharr _ _ _ ord sc => ord.notAcquire && sc.teamOrPackage
  | .phwait _ _ _ _ ord sc => ord.notRelease && sc.teamOrPackage
  | .pharw _ _ _ _ sc => sc.teamOrPackage
  | .phq _ _ _ ord sc => ord.notRelease && sc.teamOrPackage
  | .migr _ _ _ _ _ => true
  | .lyb _ _ _ _ => true
  | .lyh _ _ _ _ => true
  | .lyw _ _ _ _ => true
  | .lyd _ _ _ _ => true
  | .syb _ _ _ _ => true
  | .syh _ _ _ _ => true
  | .syw _ _ _ _ => true
  | .syd _ _ _ _ => true
  | .sgw _ _ _ _ => true
  | .twrite _ _ _ _ => true
  | .tclr _ => true
  | .qcfg _ _ _ _ => true
  | .qcfgStk _ _ _ => true
  | .cbcfg _ _ _ => true
  | .mxtab _ _ _ => true
  | .br _ _ => true
  | .call _ _ => true
  | .jr _ _ => true
  | .jalr _ _ _ => true
  | .loop _ _ last => last ≠ 0#18
  | .lpstep _ _ _ _ _ => true
  | .waitk _ _ => true
  | .waitkMask _ _ => true
  | .waitf _ _ => true
  | .waitfMask _ _ => true
  | .setf _ _ => true
  | .setfMask _ _ => true
  | .clrf _ _ => true
  | .clrfMask _ _ => true
  | .bstart _ _ => true
  | .bstop _ => true
  | .pushq _ _ => true
  | .popq _ _ => true
  | .mfsr _ _ _ => true
  | .mtsr _ _ _ => true
  | .trap _ _ => true
  | .eret _ => true
  | .brk _ _ => true
  | .stqrd _ _ _ => true
  | .flbar _ _ n => n ≤ 256#9
  | .flend _ _ => true
  | .mxcfg _ _ _ _ => true
  | .mxlds _ _ _ _ _ _ => true
  | .mxswap _ _ => true
  | .mxgo _ _ _ _ => true
  | .mxmode _ _ _ _ => true
  | .mxrd _ _ _ _ => true
  | .mxstop _ _ => true
  | .tmov _ _ _ _ => true
  | .tmovPort _ _ _ _ _ => true
  | .cvtSplit _ _ _ => true
  | .cvtJoin _ _ _ => true
  | .cmpPack _ _ _ => true
  | .xposeW32 _ _ _ => true
  | .xposeW16 _ _ _ => true
  | .layoutIm2col _ _ _ => true
  | .tcfg _ _ _ => true
  | .tcfgPinned _ _ => true
  | .tstat _ _ _ => true
  | .cp _ _ _ _ _ => true
  | .cpt _ _ _ _ _ => true
  | .cptab _ _ _ _ _ => true
  | .cpcfg _ _ _ => true
  | .cpstat _ _ _ => true
  | .cpcan _ _ => true
  | .xmit _ _ _ => true
  | .xsel _ _ _ => true
  | .xfwd _ _ _ => true
  | .xidle _ _ => true
  | .spawn _ _ _ _ => true
  | .spawnr _ _ _ => true
  | .vdecl _ _ _ _ _ _ => true
  | .vdrop _ _ => true
  | .join _ => true
  | .endt _ => true
  | .rnext _ _ => true
  | .tinfoSelf _ _ => true
  | .tinfoState _ _ _ => true
  | .tinfoQueue _ _ => true
  | .tinfoMerge _ _ => true
  | .ix _ _ _ _ => true
  | .bloop _ _ cnt last => cnt ≠ 0#13 && last ≠ 0#10
  | .bloopCtq _ _ last => last ≠ 0#10
  | .bbr cnd _ => cnd ≠ 8#4
  | .bsetf _ => true
  | .bclrf _ => true
  | .bwaitf _ => true
  | .bpopq _ => true
  | .bpushq _ => true
  | .bsetsp _ _ => true
  | .brot _ _ => true
  | .brotA _ _ => true
  | .flip => true
  | .bhalt => true
  | .bhaltFlag _ => true
  | .bcall cnd _ => cnd ≠ 8#4
  | .bret => true
  | .nop e => e.mod = 0#4
  | .fadd e d a b => e.classOk 1 && d.destOk false && a.sourceOk && b.sourceOk && fpModOk false e.mod
  | .fsub e d a b => e.classOk 1 && d.destOk false && a.sourceOk && b.sourceOk && fpModOk false e.mod
  | .fmul e d a b => e.classOk 2 && d.destOk false && a.sourceOk && b.sourceOk && fpModOk false e.mod
  | .fma e d a b c => e.classOk 2 && d.destOk false && a.sourceOk && b.sourceOk && c.sourceOk && fpModOk false e.mod
  | .fms e d a b c => e.classOk 2 && d.destOk false && a.sourceOk && b.sourceOk && c.sourceOk && fpModOk false e.mod
  | .fnma e d a b c => e.classOk 2 && d.destOk false && a.sourceOk && b.sourceOk && c.sourceOk && fpModOk false e.mod
  | .fmin e d a b => e.classOk 1 && d.destOk false && a.sourceOk && b.sourceOk && fpModOk false e.mod
  | .fmax e d a b => e.classOk 1 && d.destOk false && a.sourceOk && b.sourceOk && fpModOk false e.mod
  | .fabs e d a => e.classOk 0 && d.destOk false && a.sourceOk && fpModOk false e.mod
  | .fneg e d a => e.classOk 0 && d.destOk false && a.sourceOk && fpModOk false e.mod
  | .frcp e d a => e.classOk 3 && d.destOk false && a.sourceOk && fpModOk false e.mod
  | .frsq e d a => e.classOk 3 && d.destOk false && a.sourceOk && fpModOk false e.mod
  | .fsqrt e d a => e.classOk 3 && d.destOk false && a.sourceOk && fpModOk false e.mod
  | .fexp2 e d a => e.classOk 3 && d.destOk false && a.sourceOk && fpModOk false e.mod
  | .flog2 e d a => e.classOk 3 && d.destOk false && a.sourceOk && fpModOk false e.mod
  | .fsig e d a => e.classOk 3 && d.destOk false && a.sourceOk && fpModOk false e.mod
  | .fcmp e _ a b => e.classOk 1 && a.sourceOk && b.sourceOk && fpModOk true e.mod
  | .fround e d a => e.classOk 1 && d.destOk false && a.sourceOk && fpModOk true e.mod
  | .fcvt e d a b => e.classOk 1 && d.destOk false && a.sourceOk && fcvtModOk e.mod && (if fcvtPair e.mod then b.sourceOk else b = .mat 0 .h 0)
  | .scacc e d a b c => e.classOk 2 && d.destOk false && a.sourceOk && b.sourceOk && c.sourceOk && (e.mod = 0#4)
  | .qnt e d a b c => e.classOk 2 && d.destOk false && a.sourceOk && b.sourceOk && c.sourceOk && (e.mod ≤ 3#4)
  | .fsum e d a => e.classOk 3 && d.destOk true && a.sourceOk && fpModOk false e.mod
  | .fmaxr e d a => e.classOk 3 && d.destOk true && a.sourceOk && fpModOk false e.mod
  | .fscan e d a => e.classOk 3 && d.destOk false && a.sourceOk && fpModOk false e.mod
  | .iadd e d a b => e.classOk 0 && d.destOk false && a.sourceOk && b.sourceOk && (e.mod ≤ 2#4)
  | .isub e d a b => e.classOk 0 && d.destOk false && a.sourceOk && b.sourceOk && (e.mod ≤ 2#4)
  | .imul e d a b => e.classOk 1 && d.destOk false && a.sourceOk && b.sourceOk && (e.mod ≤ 3#4)
  | .imad e d a b c => e.classOk 1 && d.destOk false && a.sourceOk && b.sourceOk && c.sourceOk && (e.mod ≤ 1#4)
  | .imin e d a b => e.classOk 0 && d.destOk false && a.sourceOk && b.sourceOk && (e.mod = 0#4)
  | .imax e d a b => e.classOk 0 && d.destOk false && a.sourceOk && b.sourceOk && (e.mod = 0#4)
  | .iminu e d a b => e.classOk 0 && d.destOk false && a.sourceOk && b.sourceOk && (e.mod = 0#4)
  | .imaxu e d a b => e.classOk 0 && d.destOk false && a.sourceOk && b.sourceOk && (e.mod = 0#4)
  | .iabs e d a => e.classOk 0 && d.destOk false && a.sourceOk && (e.mod ≤ 1#4)
  | .vecSll e d a b => e.classOk 0 && d.destOk false && a.sourceOk && b.sourceOk && (e.mod = 0#4)
  | .vecSrl e d a b => e.classOk 0 && d.destOk false && a.sourceOk && b.sourceOk && (e.mod = 0#4)
  | .vecSra e d a b => e.classOk 0 && d.destOk false && a.sourceOk && b.sourceOk && (e.mod = 0#4)
  | .vecAnd e d a b => e.classOk 0 && d.destOk false && a.sourceOk && b.sourceOk && (e.mod = 0#4)
  | .vecOr e d a b => e.classOk 0 && d.destOk false && a.sourceOk && b.sourceOk && (e.mod = 0#4)
  | .vecXor e d a b => e.classOk 0 && d.destOk false && a.sourceOk && b.sourceOk && (e.mod = 0#4)
  | .vecAndn e d a b => e.classOk 0 && d.destOk false && a.sourceOk && b.sourceOk && (e.mod = 0#4)
  | .not e d a => e.classOk 0 && d.destOk false && a.sourceOk && (e.mod = 0#4)
  | .vecPopc e d a => e.classOk 0 && d.destOk false && a.sourceOk && (e.mod = 0#4)
  | .vecClz e d a => e.classOk 0 && d.destOk false && a.sourceOk && (e.mod = 0#4)
  | .icmp e _ a b => e.classOk 0 && a.sourceOk && b.sourceOk && (e.mod ≤ 7#4)
  | .dot8 e d a b c => e.classOk 2 && d.destOk false && a.sourceOk && b.sourceOk && c.sourceOk && (e.mod ≤ 7#4)
  | .isum e d a => e.classOk 3 && d.destOk true && a.sourceOk && (e.mod = 0#4)
  | .iscan e d a => e.classOk 3 && d.destOk false && a.sourceOk && (e.mod = 0#4)
  | .mov e d a => e.classOk 0 && d.destOk false && a.sourceOk && (e.mod = 0#4)
  | .vsel e d a b => e.classOk 0 && d.destOk false && a.sourceOk && b.sourceOk && (e.mod = 0#4)
  | .perm e d a b => e.classOk 1 && d.destOk false && a.sourceOk && b.sourceOk && (e.mod = 0#4)
  | .bcast e d a b => e.classOk 1 && d.destOk false && a.sourceOk && b.sourceOk && (e.mod = 0#4)
  | .vpand e _ _ _ => e.classOk 0 && (e.mod = 0#4)
  | .vpor e _ _ _ => e.classOk 0 && (e.mod = 0#4)
  | .vpxor e _ _ _ => e.classOk 0 && (e.mod = 0#4)
  | .vpnot e _ _ => e.classOk 0 && (e.mod = 0#4)
  | .vpcount e d _ => e.classOk 1 && d.destOk true && (e.mod = 0#4)
  | .tos e d a b => e.classOk 1 && d.destOk true && a.sourceOk && b.sourceOk && (e.mod = 0#4)
  | .ldW e data addr _ fmt => e.classOk 3 && data.destOk true && addr.sourceOk && fmt.plain false
  | .ldA e data addr _ fmt => e.classOk 3 && data.destOk true && addr.sourceOk && fmt.plain false
  | .ldC e data addr _ fmt => e.classOk 2 && data.destOk true && addr.sourceOk && fmt.plain true
  | .ldY e data addr _ fmt => e.classOk 4 && data.destOk true && addr.sourceOk && fmt.plain false
  | .stW e data addr _ fmt => e.classOk 3 && data.sourceOk && addr.sourceOk && fmt.plain false
  | .stA e data addr _ fmt => e.classOk 3 && data.sourceOk && addr.sourceOk && fmt.plain false
  | .stC e data addr _ fmt => e.classOk 2 && data.sourceOk && addr.sourceOk && fmt.plain true
  | .stY e data addr _ fmt => e.classOk 4 && data.sourceOk && addr.sourceOk && fmt.plain false
  | .pldW e data addr _ k _ fmt => e.classOk 4 && data.destOk false && addr.sourceOk && planesOk k && fmt.pair
  | .pldA e data addr _ k _ fmt => e.classOk 4 && data.destOk false && addr.sourceOk && planesOk k && fmt.pair
  | .pldY e data addr _ k _ fmt => e.classOk 4 && data.destOk false && addr.sourceOk && planesOk k && fmt.pair
  | .pstW e data addr _ k _ fmt => e.classOk 4 && data.sourceOk && addr.sourceOk && planesOk k && fmt.pair
  | .pstA e data addr _ k _ fmt => e.classOk 4 && data.sourceOk && addr.sourceOk && planesOk k && fmt.pair
  | .pstY e data addr _ k _ fmt => e.classOk 4 && data.sourceOk && addr.sourceOk && planesOk k && fmt.pair
  | .pupdAdd e data addr _ k _ => e.classOk 4 && data.sourceOk && addr.sourceOk && planesOk k
  | .pupdAxpy e data addr _ k _ => e.classOk 4 && data.sourceOk && addr.sourceOk && planesOk k
  | .pupdMom e data addr _ k _ => e.classOk 4 && data.sourceOk && data.destOk false && addr.sourceOk && planesOk k
  | .pushm e data _ => e.classOk 4 && data.sourceOk
  | .popm e data _ => e.classOk 4 && data.destOk false
  | .cbadv e data addr _ => e.classOk 0 && data.destOk false && addr.sourceOk
  | .qrst e data addr => e.classOk 0 && data.destOk false && addr.sourceOk
  | .qadv e data addr _ => e.classOk 0 && data.destOk false && addr.sourceOk
  | .mxgoG e _ _ _ => e.classOk 0 && (e.mod = 0#4)
  | .mxldsG e _ _ _ _ _ => e.classOk 0 && (e.mod = 0#4)
  | .mxqG e d => e.classOk 1 && d.destOk false && (e.mod ≤ 2#4)
  | .entryWriteback _ => true
  | .npfLineWrite _ => true
  | .landing _ => true
  | .engineFaultReport _ => true
  | .stopRequest _ => true
  | .coreStop _ => true
  | .uncorrectableError _ => true
  | .coreRetire _ => true
  | .flagRelease _ => true
  | .portFetch _ _ _ => true
  | .cbStage _ _ _ => true
  | .planeRetry _ => true
  | .matrixPass _ _ => true
  | .comparePass _ _ => true
  | .passAccWrite _ _ => true
  | .levelBoundary _ _ => true
  | .shadowLoadDone _ _ => true
  | .tokenIdle _ _ => true
  | .copyRowMove _ _ => true
  | .cptTileRetry _ _ => true
  | .cptabEntryWrite _ _ => true
  | .ringAdvance _ _ => true
  | .copyComplete _ _ => true
  | .copyFault _ _ => true
  | .transformComplete _ _ => true
  | .transformFault _ _ => true
  | .atomicPerform _ => true
  | .reductionPerform _ => true
  | .phaserPerform _ => true
  | .copyArrival _ => true
  | .phaserPoll _ => true
  | .acknowledgementArrival _ => true
  | .answerReturn _ => true
  | .rangeTake _ => true
  | .mergePush _ => true
  | .mergeTileRetry _ => true
  | .mergeTranslationFault _ => true
  | .teamEnd _ => true
  | .flightBarrierComplete _ => true
  | .flightPhaseStart _ => true
  | .vectorArrival _ _ => true
  | .flightBreakSignal _ => true
  | .tailRegisterWrite _ _ => true
  | .launch _ => true
  | .wait _ => true
  | .waitRetest _ => true
  | .signal _ => true
  | .cond _ => true
  | .loopNode _ => true
  | .switch _ => true
  | .load _ => true
  | .teamPlace _ => true
  | .quantumExpiry _ => true
  | .teamSave _ => true
  | .jobComplete _ => true
  | .teamFault _ => true
  | .ageing _ => true
  | .usherConfigCommit _ _ => true
  | .fabricConfigCommit _ _ => true
  | .registerWrite _ _ => true
  | .moduleReset => true
  | .windowRead _ _ => true
  | .windowWrite _ _ => true
  | .sensors => true
  | .log => true
  | .cap => true
  | .update => true
  | .attest => true
  | .errcnt => true
  | .unretire => true
  | .mailboxCompletion => true
  | .hostReadTimeout _ => true
  | .peerRequest _ => true
  | .flitRetry _ => true
  | .sensorRefresh => true
  | .powerBudgetCheck => true
  | .coolantLoss => true
  | .eccSummary => true
  | .lineFill _ => true
  | .pageWalk _ => true
  | .packetArrival _ => true
  | .regionalCount _ => true
  | .escape _ => true
  | .routerSleep _ => true
  | .routerWake _ => true
  | .trafficPeriod => true
  | .hotLineRecompress _ => true
  | .illegalBundle _ _ => true
  | .reservedOpcode _ _ _ => true
  | .fetchFault _ _ => true
  | .bankPortRequest _ _ => true
  | .hostCompletion _ _ => true
  | .peerResponse _ _ => true
  | .linkUp _ _ => true
  | .powerLoss => true
  | .flipatReached _ => true
  | .badCommand => true

end Sys2Proof
end

