-- ==== Sys2Proof/Safety.lean ====
section
/-!
DEFINITION. The terms that claims use: what an instruction that completes leaves behind, what it leaves alone, the invariant of a step.
-/
namespace Sys2Proof.Machine

/-- The answer is a next state with a property. -/
def Completes (r : Host.Outcome State Fault Refusal) (P : State → Prop) : Prop := ∃ t, r = .next t ∧ P t

/-! Frames -/

/-- Every byte of global memory and of every core's local spaces reads as before. -/
def SameBytes (s t : State) : Prop :=
  (∀ pa, t.physRead pa 1 = s.physRead pa 1) ∧ ∀ c sp a, (t.body c).read sp a 1 = (s.body c).read sp a 1
/-- The state is the same but for the recorded part of one core. -/
def OnlyBody (s t : State) (c : CoreId) : Prop :=
  t = { s with cores := t.cores } ∧ (∀ d, d ≠ c → t.cores[d] = s.cores[d]) ∧ t.cores[c] = { s.cores[c] with b := t.body c }
/-- The core whose instruction runs is changed by a known function of its recorded part, and nothing else is. -/
def Becomes (s t : State) (f : Body → Body) : Prop := OnlyBody s t s.cur.core ∧ t.me = f s.me
/-- Register r := v, readable from cycle n; g0 discards it. Nothing else changes: no other register, predicate, flag, queue, special
register or byte. -/
def WritesG (s t : State) (r : Reg) (v : BitVec 64) (n : Nat) : Prop :=
  OnlyBody s t s.cur.core ∧ SameBytes s t ∧
    t.me = { s.me with g := t.me.g, gReady := t.me.gReady, awaited := t.me.awaited } ∧
    (∀ x, x ≠ r → t.me.g[x] = s.me.g[x] ∧ t.me.gReady[x] = s.me.gReady[x]) ∧
    (r = 0 → t = s) ∧ (r ≠ 0 → t.me.g[r] = v ∧ t.me.gReady[r] = n ∧ t.me.awaited = s.me.awaited.filter fun a => a.reg != r)
/-- Predicate r := v, readable from cycle n; p0 discards it. Nothing else changes. -/
def WritesP (s t : State) (r : PReg) (v : Bool) (n : Nat) : Prop :=
  OnlyBody s t s.cur.core ∧ SameBytes s t ∧ t.me = { s.me with p := t.me.p, pReady := t.me.pReady } ∧
    (∀ x, x ≠ r → t.me.p[x] = s.me.p[x] ∧ t.me.pReady[x] = s.me.pReady[x]) ∧
    (r = 0 → t = s) ∧ (r ≠ 0 → t.me.p[r] = v ∧ t.me.pReady[r] = n)
/-- As `WritesG`, and statistics records are posted, in order. -/
def WritesGPosts (s t : State) (r : Reg) (v : BitVec 64) (n : Nat) (rs : List StatRec) : Prop :=
  ∃ u, WritesG s u r v n ∧ Becomes u t fun b => { b with posts := b.posts ++ rs.map fun x => (0, x) }
/-- What the bundle in progress has come to changes, nothing else. -/
def OnlyCur (s t : State) : Prop := t = { s with cur := t.cur }
/-- The bundle's first cause is recorded, and nothing else changes: the instruction has no effect of its own. -/
def Raises (s t : State) (cause : Cause) (taddr : BitVec 64) (aux : BitVec 10) (slot : Fin 16) : Prop :=
  t = { s with cur := { s.cur with trap := some { cause, aux, taddr, slot, group := 31 } } }
/-- The bundle has something to set going when nothing else holds it and no slot has a cause. The first of a bundle counts, but that a returning
operation is sent after its drains, joins and merges. Nothing else changes. -/
def Asks (s t : State) (h : Hold) (a : Ask) : Prop :=
  ∃ k, t = { s with cur := { s.cur with ask := some k } } ∧ (s.cur.ask = none → k = (h, a)) ∧ ∀ x, s.cur.ask = some x → k = Ask.first x (h, a)
/-- No cause, hold or request of an earlier slot of the bundle stands. -/
def Fresh (s : State) : Prop := s.cur.trap = none ∧ s.cur.hold = none ∧ s.cur.ask = none ∧ s.cur.flight = [] ∧ s.cur.missing = none

/-- The lane groups of a 24-bit mask are changed by a function, the others are not, and nothing else of the machine is. -/
def ChangesGroups (s t : State) (mask : BitVec 64) (f : Group → Group) : Prop :=
  SameBytes s t ∧ OnlyBody s t s.cur.core ∧ t.me = { s.me with groups := t.me.groups } ∧
    ∀ g : GroupId, t.me.groups[g] = if mask.getLsbD g.val then f s.me.groups[g] else s.me.groups[g]
/-- A command is recorded as incomplete in the hazard unit, and nothing else of the core changes but what `f` keeps. -/
def Issues (s t : State) (c : Command) (f : Body → Body → Prop) : Prop :=
  SameBytes s t ∧ OnlyBody s t s.cur.core ∧ t.me.commands = s.me.commands ++ [c] ∧ t.me.nextCommand = s.me.nextCommand + 1 ∧
    f { s.me with commands := t.me.commands, nextCommand := t.me.nextCommand } t.me

/-! Accesses -/

/-- An address of 56 bits that is a multiple of n (R132, R184, R352). -/
def Accessible (a : BitVec 64) (n : Nat) : Prop := a.extractLsb' 56 8 = 0#8 ∧ a.toNat % n = 0
/-- No earlier acquire is unacknowledged (R151), a request of the core is free (R444), and no fault of the slot's accesses waits for room in the
fault table (R53). -/
def MayIssue (s : State) : Prop :=
  s.pre.held.any (·.postedAcquire) = false ∧ s.requests.any (fun r => r.core == s.cur.core && r.postedAcquire) = false ∧
    s.outstanding s.cur.core < 4096 ∧ s.pre.holdsFault 0 = false ∧ s.pre.holdsFault 6 = false
/-- The journal of a rerun does not serve the next read (R45). -/
def ReadsAfresh (s : State) : Prop := s.cores[s.cur.core].journalRead.2.1 = none
/-- A read of the interval is journalled: the journal of one core changes, nothing else. -/
def OnlyJournal (s t : State) (c : CoreId) : Prop :=
  t = { s with cores := t.cores } ∧ (∀ d, d ≠ c → t.cores[d] = s.cores[d]) ∧
    t.cores[c] = { s.cores[c] with journal := t.cores[c].journal, journalNext := t.cores[c].journalNext }

/-! Predicates of slots -/

/-- The predicate that an instruction's word names, none where its format has no such field. -/
def gate : Instr → Option Qual
  | .add q _ _ _ | .sub q _ _ _ | .and q _ _ _ | .or q _ _ _ | .xor q _ _ _ | .andn q _ _ _ | .min q _ _ _ | .max q _ _ _
  | .minu q _ _ _ | .maxu q _ _ _ | .sll q _ _ _ | .srl q _ _ _ | .sra q _ _ _ | .rol q _ _ _ | .mul q _ _ _ | .mulh q _ _ _
  | .mulhu q _ _ _ | .div q _ _ _ | .divu q _ _ _ | .rem q _ _ _ | .remu q _ _ _ | .cmpeq q _ _ _ | .cmpne q _ _ _
  | .cmplt q _ _ _ | .cmpltu q _ _ _ | .cmple q _ _ _ | .cmpleu q _ _ _ | .sel q _ _ _ _ | .clz q _ _ | .ctz q _ _
  | .popc q _ _ | .sext q _ _ _ | .zext q _ _ _ | .faddS q _ _ _ | .fsubS q _ _ _ | .fmulS q _ _ _ | .fminS q _ _ _
  | .fmaxS q _ _ _ | .fcvtS q _ _ _ | .fcmpS q _ _ _ _ | .plog q _ _ _ _ | .ldb q _ _ _ | .ldbu q _ _ _ | .ldh q _ _ _
  | .ldhu q _ _ _ | .ldw q _ _ _ | .ldwu q _ _ _ | .ldd q _ _ _ | .stb q _ _ _ | .sth q _ _ _ | .stw q _ _ _ | .std q _ _ _
  | .pfg q _ _ | .drain q _ | .purgeDc q _ _ | .purgeIc q _ _ | .purgeTlb q _ _ | .aadd q _ _ _ _ _ | .aand q _ _ _ _ _
  | .aor q _ _ _ _ _ | .axor q _ _ _ _ _ | .amin q _ _ _ _ _ | .amax q _ _ _ _ _ | .aminu q _ _ _ _ _ | .amaxu q _ _ _ _ _
  | .axchg q _ _ _ _ _ | .acas q _ _ _ _ _ | .afadd q _ _ _ _ _ | .radd q _ _ _ _ _ | .rmax q _ _ _ _ _ | .rmin q _ _ _ _ _
  | .phinit q _ _ _ _ _ | .phreg q _ _ _ _ _ | .phdrop q _ _ _ _ | .pharr q _ _ _ _ | .phwait q _ _ _ _ _ | .pharw q _ _ _ _
  | .phq q _ _ _ _ | .migr q _ _ _ _ | .lyb q _ _ _ | .lyh q _ _ _ | .lyw q _ _ _ | .lyd q _ _ _ | .syb q _ _ _ | .syh q _ _ _
  | .syw q _ _ _ | .syd q _ _ _ | .sgw q _ _ _ | .twrite q _ _ _ | .tclr q | .qcfg q _ _ _ | .qcfgStk q _ _ | .cbcfg q _ _
  | .mxtab q _ _ | .br q _ | .call q _ | .jr q _ | .jalr q _ _ | .lpstep q _ _ _ _ | .waitk q _ | .waitkMask q _ | .waitf q _
  | .waitfMask q _ | .setf q _ | .setfMask q _ | .clrf q _ | .clrfMask q _ | .bstart q _ | .bstop q | .pushq q _ | .popq q _
  | .mfsr q _ _ | .mtsr q _ _ | .trap q _ | .eret q | .brk q _ | .stqrd q _ _ | .flbar q _ _ | .flend q _ | .mxcfg q _ _ _
  | .mxlds q _ _ _ _ _ | .mxswap q _ | .mxgo q _ _ _ | .mxmode q _ _ _ | .mxrd q _ _ _ | .mxstop q _ | .tmov q _ _ _
  | .tmovPort q _ _ _ _ | .cvtSplit q _ _ | .cvtJoin q _ _ | .cmpPack q _ _ | .xposeW32 q _ _ | .xposeW16 q _ _
  | .layoutIm2col q _ _ | .tcfg q _ _ | .tcfgPinned q _ | .tstat q _ _ | .cp q _ _ _ _ | .cpt q _ _ _ _ | .cptab q _ _ _ _
  | .cpcfg q _ _ | .cpstat q _ _ | .cpcan q _ | .xmit q _ _ | .xsel q _ _ | .xfwd q _ _ | .xidle q _ | .spawn q _ _ _
  | .spawnr q _ _ | .vdecl q _ _ _ _ _ | .vdrop q _ | .join q | .endt q | .rnext q _ | .tinfoSelf q _ | .tinfoState q _ _
  | .tinfoQueue q _ | .tinfoMerge q _ => some q
  | .addi p _ _ _ | .andi p _ _ _ | .ori p _ _ _ | .xori p _ _ _ | .slli p _ _ _ | .srli p _ _ _ | .srai p _ _ _ | .cmpi p _ _ _ _ => some ⟨⟨p.val, Nat.lt_trans p.isLt (by decide)⟩, false⟩
  | _ => none

/-! Group table entries -/

/-- An entry acts: it stands in the second cycle of its bundle, or no operand holds it, meets a block under rewrite or raises a cause. -/
def EntryActs (s : State) (srcs dsts : List Operand) : Prop :=
  s.cur.second = true ∨
    (∀ o ∈ srcs, s.srcHolds o = false ∧ s.srcRewrite o = none ∧ s.srcFaults o = []) ∧ ∀ o ∈ dsts, s.dstHolds o = false ∧ s.dstFaults o = []
/-- What an entry leaves: each port among its sources is popped once, a destination port advances, and its writes wait, each for the end of
its cycle. Nothing else changes: no byte, no register. -/
def EntryQueues (s t : State) (srcs : List Operand) (d : Operand) (ws : List (Nat × GWrite)) : Prop :=
  OnlyBody s t s.cur.core ∧ SameBytes s t ∧ t.me = { s.me with pend := t.me.pend, groups := t.me.groups } ∧
    (∀ g, g ≠ s.cur.group → t.me.groups[g] = s.me.groups[g]) ∧
    t.me.groups[s.cur.group] = { s.me.groups[s.cur.group] with ports := t.me.groups[s.cur.group].ports } ∧
    (∀ n : Fin 16, t.me.groups[s.cur.group].ports[n] =
      let q := s.me.groups[s.cur.group].ports[n]
      if .port n ∈ srcs then q.advance true s.cycle else if d = .port n then q.advance false s.cycle else q) ∧
    t.me.pend = s.me.pend ++ ws.map fun w => ⟨w.1, s.cycle + 2, s.cur.slot == .v1, s.cur.group, w.2, s.src⟩
/-- Where a destination in a local space takes its vector: space, offset in the core, format. -/
def destPlace (s : State) : Operand → Option (Space × Nat × Fmt)
  | .port n =>
    let q := s.me.groups[s.cur.group].ports[n]
    q.cfg.bind fun c => if c.exhausted q.pos then none else some (c.space, groupOff c.space s.cur.group (c.addr q.pos).toNat, c.fmt)
  | .cb n =>
    let b := s.pre.cbs[n]
    b.cfg.map fun c => (.gal, c.base + b.prod % c.n * c.slotSize + s.cur.group.val * c.groupStride, c.fmt)
  | _ => none
/-- The write of a vector to a destination. -/
def destWrites (s : State) (rot : Bool) (d : Operand) (v : Lanes) (mask : BitVec 64) : List GWrite :=
  match d with
  | .mat m dir i => [.mat m dir (s.index rot i) v mask]
  | .scalar n => [.scalar n v[0]]
  | .lat => [.lat v mask]
  | d => (destPlace s d).toList.map fun x => .bytes x.1 (vecBytes x.2.1 x.2.2 v mask).1
/-- What the conversion to a destination's format notes: kind and lane. -/
def destNotes (s : State) (d : Operand) (v : Lanes) (mask : BitVec 64) : List LaneNote :=
  (destPlace s d).toList.flatMap fun x => (vecBytes x.2.1 x.2.2 v mask).2.map fun n => (n.1, n.2, false)
/-- The end of the class latency of an entry issued now (R32). -/
def dueOf (s : State) (cls : Fin 8) : Nat := s.cycle + 2 ^ cls.val - 1
/-- A vector entry's result and records wait for its class latency; what the conversion of lane l notes is recorded at lane `at_ l`. -/
def EntryLeavesAt (at_ : Fin 64 → Fin 64) (s t : State) (op : BitVec 8) (cls : Fin 8) (rot : Bool) (d : Operand) (srcs : List Operand) (v : Lanes)
    (mask : BitVec 64) (notes : List LaneNote) : Prop :=
  EntryQueues s t srcs d ((destWrites s rot d v mask ++ (entryRecords s op (notes ++ (destNotes s d v mask).map fun n =>
    (n.1, at_ n.2.1, n.2.2))).map GWrite.post).map fun w => (dueOf s cls, w))
/-- The same where each lane's conversion is recorded at its own lane. -/
def EntryLeaves (s t : State) (op : BitVec 8) (cls : Fin 8) (rot : Bool) (d : Operand) (srcs : List Operand) (v : Lanes) (mask : BitVec 64)
    (notes : List LaneNote) : Prop := EntryLeavesAt (fun l => l) s t op cls rot d srcs v mask notes
/-- No port is both a source and the destination (read ports have the numbers 0 to 7, write ports 8 to 15). -/
def PortsApart (srcs : List Operand) (d : Operand) : Prop := ∀ n, d = .port n → Operand.port n ∉ srcs
/-- Element-wise meaning: lane l of the result, and what it notes, from lane l of each source; the lanes of vp are written and post records. -/
def Elementwise (i : Instr) (op : BitVec 8) (h : VHead) (d : Operand) (srcs : List Operand)
    (lane : BitVec 32 → BitVec 32 → BitVec 32 → BitVec 32 → List (Nat × Bool) → Prop) : Prop :=
  ∀ s, EntryActs s srcs [d] → PortsApart srcs d → Completes (exec i s) fun t => ∃ (v : Lanes) (notes : List LaneNote),
    (∀ l : Fin 64, ∃ ns, lane (laneAt (srcs.map (s.srcVec h.rot)) 0 l) (laneAt (srcs.map (s.srcVec h.rot)) 1 l)
        (laneAt (srcs.map (s.srcVec h.rot)) 2 l) v[l] ns ∧
      ∀ k e, (k, l, e) ∈ notes ↔ (s.lanes h.vp).getLsbD l.val = true ∧ (k, e) ∈ ns) ∧
    EntryLeaves s t op h.cls h.rot d srcs v (s.lanes h.vp) notes
/-- A result clamped to a range, with INT_SAT noted where the exact value lies outside it. -/
def Clamped (z lo hi : Int) (v : BitVec 32) (ns : List (Nat × Bool)) : Prop :=
  v = .ofInt 32 (max lo (min hi z)) ∧ ns = if lo ≤ z ∧ z ≤ hi then [] else [(4, false)]
/-- An exact result. -/
def Exactly (x v : BitVec 32) (ns : List (Nat × Bool)) : Prop := v = x ∧ ns = []

/-! Bundles of one slot, ready to run -/

/-- No fold, wait, fault or cause of another stream stands before a control bundle x of one instruction; its landing is not overdue, the
predicates and registers that it reads are ready, and no interval has to end first (R29, R34, R35, R43, R53, R60, R62, R170, R400). -/
def Ready (u : State) (c : CoreId) (x : Bundle) (i : Instr) : Prop :=
  let b := u.body c
  let v : State := { u with cur := { core := c, hdr := x.hdr, len := x.len }, pre := b }
  u.cores[c].live u.cycle = true ∧ u.throttles c = false ∧ b.busy = none ∧ b.fold = 0 ∧ b.btrap = none ∧ b.bfault = none ∧ b.asked = none ∧
    u.cores[c].issued = none ∧ b.conflicts x = false ∧ (b.inPhase = true → ∀ a ∈ x.words, phaseForbids a.1 a.2 = false) ∧ b.faults = [] ∧
    (x.head.landing = true ∨ b.sys.landCnt < b.sys.landMax) ∧
    (∀ a ∈ x.words, (∀ p ∈ predicates a.1 a.2 i, b.pReady[p] ≤ u.cycle) ∧
      (v.slotActs a.1 a.2 i = true → ∀ r ∈ regSources i, b.readable u.cycle r = true)) ∧
    (∀ r ∈ b.steppedBy x, b.readable u.cycle r = true) ∧
    (b.bracket = true ∨ bracketed i = false ∧ b.waitsForHeld (v.namedTokens i) = false ∧ b.replaysBy i = false)
/-- The same of a broadcast bundle of one instruction with a wait mask: no token of it is busy or has a fault, and the instruction is none that
has to be looked at before it runs (R31, R33, R227, R251). -/
def ReadyBroadcast (s : State) (c : CoreId) (wait : BitVec 16) (i : Instr) : Prop :=
  let b := s.body c
  s.cores[c].live s.cycle = true ∧ b.brun = true ∧ b.bsecond = [] ∧ b.bnext ≤ s.cycle ∧ b.bretryAt = none ∧ b.bfold = 0 ∧
    b.faults.any (·.named wait) = false ∧ (maskMembers wait).any (fun n => b.tokenBusy n) = false ∧ i ≠ .flip ∧
    State.matrixSlot { s with cur := { core := c, bcast := true }, pre := b } i = false

/-! The invariant of a step -/

/-- Memory has its one form, and the persistent log holds at most 4 096 records (R480). -/
def Inv (s : State) : Prop := Memory.wf s.mem = true ∧ s.log.length ≤ 4096

end Sys2Proof.Machine
end

