-- ==== Sys2Proof/Certificates/Slice0/Obligations.lean ====
section
/-!
DEFINITION. The statements for the provers. Each says what the numbered rules of the spec make an instruction or the machine do.
-/

open Sys2Proof Sys2Proof.Machine


/-! The A slot (R61, R175-R183) -/

/-- R61: a slot whose predicate, inverted if neg, is false performs nothing. -/
def Obligations.PredicatedOffDoesNothing : Prop :=
  ∀ i q s, gate i = some q → s.acts q = false → exec i s = .next s

/-- R176, R177: the value each register-register instruction writes, as exact arithmetic; the last column is the latency of R170. -/
def Obligations.IntegerArithmetic : Prop :=
  ∀ x ∈ ([(.add, fun a b => .ofNat 64 (a.toNat + b.toNat), 1), (.sub, fun a b => .ofInt 64 (a.toInt - b.toInt), 1),
      (.and, fun a b => a &&& b, 1), (.or, fun a b => a ||| b, 1), (.xor, fun a b => a ^^^ b, 1), (.andn, fun a b => a &&& ~~~b, 1),
      (.min, fun a b => .ofInt 64 (min a.toInt b.toInt), 1), (.max, fun a b => .ofInt 64 (max a.toInt b.toInt), 1),
      (.minu, fun a b => .ofNat 64 (min a.toNat b.toNat), 1), (.maxu, fun a b => .ofNat 64 (max a.toNat b.toNat), 1),
      (.sll, fun a b => .ofNat 64 (a.toNat * 2 ^ (b.toNat % 64)), 1), (.srl, fun a b => .ofNat 64 (a.toNat / 2 ^ (b.toNat % 64)), 1),
      (.sra, fun a b => .ofInt 64 (a.toInt / 2 ^ (b.toNat % 64)), 1),
      (.rol, fun a b => .ofNat 64 (a.toNat * 2 ^ (b.toNat % 64) + a.toNat / 2 ^ (64 - b.toNat % 64)), 1),
      (.mul, fun a b => .ofInt 64 (a.toInt * b.toInt), 3), (.mulh, fun a b => .ofInt 64 (a.toInt * b.toInt / 2 ^ 64), 3),
      (.mulhu, fun a b => .ofNat 64 (a.toNat * b.toNat / 2 ^ 64), 3),
      (.div, fun a b => if b = 0 then -1 else .ofInt 64 (a.toInt.tdiv b.toInt), 34),
      (.divu, fun a b => if b = 0 then -1 else .ofNat 64 (a.toNat / b.toNat), 34),
      (.rem, fun a b => if b = 0 then a else .ofInt 64 (a.toInt - b.toInt * a.toInt.tdiv b.toInt), 34),
      (.remu, fun a b => if b = 0 then a else .ofNat 64 (a.toNat - b.toNat * (a.toNat / b.toNat)), 34)] :
      List ((Qual → Reg → Reg → Reg → Instr) × (BitVec 64 → BitVec 64 → BitVec 64) × Nat)),
    ∀ s q d a b, s.acts q = true → Completes (exec (x.1 q d a b) s) fun t => WritesG s t d (x.2.1 (s.rg a) (s.rg b)) (s.cycle + x.2.2)

/-- R178-R180: what each compare writes into its predicate; selection, counts and extensions. -/
def Obligations.ComparesSelectionsCounts : Prop :=
  (∀ x ∈ ([(.cmpeq, fun a b => a = b), (.cmpne, fun a b => a ≠ b), (.cmplt, fun a b => a.toInt < b.toInt),
      (.cmpltu, fun a b => a.toNat < b.toNat), (.cmple, fun a b => a.toInt ≤ b.toInt), (.cmpleu, fun a b => a.toNat ≤ b.toNat)] :
      List ((Qual → PReg → Reg → Reg → Instr) × (BitVec 64 → BitVec 64 → Prop))),
    ∀ s q pd a b, s.acts q = true →
      Completes (exec (x.1 q pd a b) s) fun t => ∃ v : Bool, (v = true ↔ x.2 (s.rg a) (s.rg b)) ∧ WritesP s t pd v (s.cycle + 1)) ∧
  (∀ x ∈ ([(0, fun a b => a = b), (1, fun a b => a ≠ b), (2, fun a b => a.toInt < b.toInt), (3, fun a b => a.toNat < b.toNat),
      (4, fun a b => a.toInt ≤ b.toInt), (5, fun a b => a.toNat ≤ b.toNat), (6, fun a b => b.toInt < a.toInt), (7, fun a b => b.toNat < a.toNat)] :
      List (BitVec 3 × (BitVec 64 → BitVec 64 → Prop))),
    ∀ s p pd a imm, s.actsP p = true →
      Completes (exec (.cmpi p x.1 pd a imm) s) fun t =>
        ∃ v : Bool, (v = true ↔ x.2 (s.rg a) (imm.signExtend 64)) ∧ WritesP s t pd v (s.cycle + 1)) ∧
  (∀ s q pd pa pb (tt : BitVec 4), s.acts q = true →
    Completes (exec (.plog q pd pa pb tt) s) fun t => WritesP s t pd (tt.getLsbD (2 * (s.rp pa).toNat + (s.rp pb).toNat)) (s.cycle + 1)) ∧
  (∀ s q d pc a b, s.acts q = true →
    Completes (exec (.sel q d pc a b) s) fun t => WritesG s t d (if s.rp pc then s.rg a else s.rg b) (s.cycle + 1)) ∧
  (∀ s q d a, s.acts q = true →
    Completes (exec (.clz q d a) s) (fun t => ∃ n ≤ 64, (∀ i < n, (s.rg a).getMsbD i = false) ∧ (n < 64 → (s.rg a).getMsbD n = true) ∧
      WritesG s t d (.ofNat 64 n) (s.cycle + 1)) ∧
    Completes (exec (.ctz q d a) s) (fun t => ∃ n ≤ 64, (∀ i < n, (s.rg a).getLsbD i = false) ∧ (n < 64 → (s.rg a).getLsbD n = true) ∧
      WritesG s t d (.ofNat 64 n) (s.cycle + 1)) ∧
    Completes (exec (.popc q d a) s) (fun t =>
      WritesG s t d (.ofNat 64 ((List.range 64).countP fun i => (s.rg a).getLsbD i)) (s.cycle + 1))) ∧
  ∀ s q d a, s.acts q = true → ∀ x ∈ ([(0, 8), (1, 16), (2, 32)] : List (BitVec 4 × Nat)),
    Completes (exec (.sext q d a x.1) s) (fun t => WritesG s t d (((s.rg a).setWidth x.2).signExtend 64) (s.cycle + 1)) ∧
    Completes (exec (.zext q d a x.1) s) (fun t => WritesG s t d (((s.rg a).setWidth x.2).setWidth 64) (s.cycle + 1))

/-- R180, R181: the instructions with an immediate. -/
def Obligations.ImmediateArithmetic : Prop :=
  (∀ x ∈ ([(.addi, fun a i => a + i), (.andi, fun a i => a &&& i), (.ori, fun a i => a ||| i), (.xori, fun a i => a ^^^ i)] :
      List ((Fin 4 → Reg → Reg → BitVec 12 → Instr) × (BitVec 64 → BitVec 64 → BitVec 64))),
    ∀ s p d a imm, s.actsP p = true →
      Completes (exec (x.1 p d a imm) s) fun t => WritesG s t d (x.2 (s.rg a) (imm.signExtend 64)) (s.cycle + 1)) ∧
  (∀ x ∈ ([(.slli, fun a n => .ofNat 64 (a.toNat * 2 ^ n)), (.srli, fun a n => .ofNat 64 (a.toNat / 2 ^ n)),
      (.srai, fun a n => .ofInt 64 (a.toInt / 2 ^ n))] : List ((Fin 4 → Reg → Reg → BitVec 6 → Instr) × (BitVec 64 → Nat → BitVec 64))),
    ∀ s p d a sh, s.actsP p = true → Completes (exec (x.1 p d a sh) s) fun t => WritesG s t d (x.2 (s.rg a) sh.toNat) (s.cycle + 1)) ∧
  ∀ s d (imm : BitVec 20),
    Completes (exec (.lui d imm) s) (fun t => WritesG s t d (.ofInt 64 (4096 * imm.toInt)) (s.cycle + 1)) ∧
    Completes (exec (.addpc d imm) s) (fun t => WritesG s t d (.ofInt 64 (s.cur.hdr.toNat + 4096 * imm.toInt)) (s.cycle + 1))

/-- R182: operations on the FP32 values in the low halves; the result is zero-extended, readable after 4 cycles, and the records of R103 carry
stream 0, group 31 and the opcode. The comparison posts none. -/
def Obligations.ScalarFloatingPoint : Prop :=
  (∀ x ∈ ([(.faddS, 44, fpAdd fp32), (.fsubS, 45, fpSub fp32), (.fmulS, 46, fpMul fp32),
      (.fminS, 47, fun a b => { bits := fpMinMax fp32 false a b }), (.fmaxS, 48, fun a b => { bits := fpMinMax fp32 true a b })] :
      List ((Qual → Reg → Reg → Reg → Instr) × BitVec 48 × (Nat → Nat → FpRes))),
    ∀ s q d a b, s.acts q = true →
      let r := x.2.2 ((s.rg a).toNat % 2 ^ 32) ((s.rg b).toNat % 2 ^ 32)
      let note (on : Bool) (kind : BitVec 8) : List StatRec := if on then [statRecord kind false 31 0 0 s.cur.hdr x.2.1] else []
      Completes (exec (x.1 q d a b) s) fun t =>
        WritesGPosts s t d (.ofNat 64 r.bits) (s.cycle + 4) (note r.invalid 1 ++ note r.overflow 2 ++ note r.divzero 3)) ∧
  (∀ s q d a fn, s.acts q = true →
    let r := scalarConvert fn (s.rg a)
    let note (on : Bool) (kind : BitVec 8) : List StatRec := if on then [statRecord kind false 31 0 0 s.cur.hdr 49] else []
    Completes (exec (.fcvtS q d a fn) s) fun t =>
      WritesGPosts s t d r.1 (s.cycle + 4) (note r.2.1 1 ++ note r.2.2.1 2 ++ note r.2.2.2 4)) ∧
  ∀ s q pd a b (fn : BitVec 4), s.acts q = true →
    Completes (exec (.fcmpS q pd a b fn) s) fun t =>
      WritesP s t pd (fpCompare fp32 fn.toNat ((s.rg a).toNat % 2 ^ 32) ((s.rg b).toNat % 2 ^ 32)) (s.cycle + 4)

/-! The G slot (R132, R184-R188, R351-R361, R465) -/

/-- R184, R170: a load whose address is good. From a held view it takes what the task's view holds, readable after 4 cycles; in a rerun the
journalled value; from the cache the line's bytes under the core's own earlier stores, readable after 5; else its request goes out and
the register waits for the answer. Choices of the model in it: logs 11, 41. -/
def Obligations.LoadsGiveTheirBytes : Prop :=
  ∀ x ∈ ([(.ldb, 1, true), (.ldbu, 1, false), (.ldh, 2, true), (.ldhu, 2, false), (.ldw, 4, true), (.ldwu, 4, false), (.ldd, 8, false)] :
      List ((Qual → Reg → Reg → BitVec 10 → Instr) × Nat × Bool)),
    ∀ s q r base off, s.acts q = true →
      let n := x.2.1
      let a := s.rg base + off.signExtend 64 * BitVec.ofNat 64 n
      let va : VA := a.extractLsb' 0 56
      let own (rs : List Request) := overlay rs va.toNat n
      let extended (own : List (Nat × BitVec 8)) (bs : List (BitVec 8)) : BitVec 64 :=
        let v := natLE (own.foldl (fun bs o => bs.set o.1 o.2) bs)
        if x.2.2 then (BitVec.ofInt 64 (if v < 2 ^ (8 * n - 1) then v else (v : Int) - 2 ^ (8 * n))) else .ofNat 64 v
      Accessible a n → MayIssue s →
      (∀ i o, findHeld s.pre.vts false va.toNat n = some (i, o) →
        Completes (exec (x.1 q r base off) s) fun t => WritesG s t r (extended [] (s.pre.readHeld s.pre.vts[i] o n)) (s.cycle + 4)) ∧
      (findHeld s.pre.vts false va.toNat n = none →
        (∀ v, s.cores[s.cur.core].journalRead.2.1 = some v →
          Completes (exec (x.1 q r base off) s) fun t => ∃ u, OnlyJournal s u s.cur.core ∧ WritesG u t r v (s.cycle + 5)) ∧
        (ReadsAfresh s → ∀ bs, s.cacheBytes s.cur.core s.pre.sys.asn va n = some bs → bs.length = n →
          Completes (exec (x.1 q r base off) s) fun t => ∃ u, OnlyJournal s u s.cur.core ∧
            WritesG u t r (extended (own (s.unplaced s.cur.core ++ s.pre.held)) bs) (s.cycle + 5)) ∧
        (ReadsAfresh s → s.cacheBytes s.cur.core s.pre.sys.asn va n = none →
          Completes (exec (x.1 q r base off) s) fun t => ∃ u j, OnlyJournal s u s.cur.core ∧
            t = State.modMe (State.sendReady { u with
                nextId := s.nextId + 1
                requests := s.requests ++ [{ id := s.nextId, core := s.cur.core, baddr := s.cur.hdr, issued := s.issueNo, asn := s.pre.sys.asn
                                             va := va, op := .load n x.2.2 r (own s.pre.held) j }] } s.cur.core) (·.await s.nextId r)))

/-- R184, R42: a store whose address is good is held until the interval ends, sent at once where nothing is held, or goes to the home of
a held view at the end of the cycle, in the rank of the L slot's writes. Where no room is left for it (R42) an implicit checkpoint is asked for.
No byte changes at issue. That rank is the model's choice (R138 names no place for a redirected store).
Choices of the model in it: log 46. -/
def Obligations.StoresAreHeld : Prop :=
  ∀ x ∈ ([(.stb, 1), (.sth, 2), (.stw, 4), (.std, 8)] : List ((Qual → Reg → Reg → BitVec 10 → Instr) × Nat)),
    ∀ s q r base off, s.acts q = true →
      let n := x.2
      let a := s.rg base + off.signExtend 64 * BitVec.ofNat 64 n
      let va : VA := a.extractLsb' 0 56
      let bytes := (List.range n).map fun i => (s.rg r).extractLsb' (8 * i) 8
      let request : Request := { id := s.nextId, core := s.cur.core, baddr := s.cur.hdr, issued := s.issueNo, asn := s.pre.sys.asn
                                 va := va, op := .store bytes }
      let logged (b : Body) : Body := b.logWrites (byteRecords s.src 5 (bytes.zipIdx.map fun (x, i) => (va.toNat + i, x)))
      Accessible a n → MayIssue s →
      (∀ i o, findHeld s.pre.vts false va.toNat n = some (i, o) →
        Completes (exec (x.1 q r base off) s) fun t => SameBytes s t ∧
          Becomes s t fun b => { b with locals := b.locals ++ [heldWrite s.pre.vts 4 s.src i o bytes] }) ∧
      (findHeld s.pre.vts false va.toNat n = none →
        (s.me.sendsDirectly = false → s.me.overfull request = false →
          Completes (exec (x.1 q r base off) s) fun t => SameBytes s t ∧ ∃ u, u = { s with nextId := s.nextId + 1 } ∧
            Becomes u t fun b => logged { b with held := b.held ++ [request] }) ∧
        (s.me.sendsDirectly = false → s.me.overfull request = true →
          Completes (exec (x.1 q r base off) s) fun t => SameBytes s t ∧ ∃ u, Asks s u .stall .checkpoint ∧ Becomes u t logged) ∧
        (s.me.sendsDirectly = true →
          Completes (exec (x.1 q r base off) s) fun t => SameBytes s t ∧
            t = State.modMe (State.sendReady { s with nextId := s.nextId + 1, requests := s.requests ++ [request] } s.cur.core) logged))

/-- R132, R184, R352: an address with a bit above 55 raises PROTECTION; else one that is no multiple of the size raises MISALIGNED. Neither
has another effect. -/
def Obligations.AccessesCheckTheirAddress : Prop :=
  ∀ s q (a b d : Reg) (off : BitVec 10) ord sc, s.acts q = true → s.cur.trap = none → s.cur.slot = .g →
    let scaled (n : Nat) : BitVec 64 := s.rg b + off.signExtend 64 * BitVec.ofNat 64 n
    ∀ x ∈ ([(.ldb q a b off, scaled 1, 1), (.ldbu q a b off, scaled 1, 1), (.ldh q a b off, scaled 2, 2), (.ldhu q a b off, scaled 2, 2),
        (.ldw q a b off, scaled 4, 4), (.ldwu q a b off, scaled 4, 4), (.ldd q a b off, scaled 8, 8), (.stb q a b off, scaled 1, 1),
        (.sth q a b off, scaled 2, 2), (.stw q a b off, scaled 4, 4), (.std q a b off, scaled 8, 8),
        (.aadd q d b a ord sc, s.rg b, 8), (.aand q d b a ord sc, s.rg b, 8), (.aor q d b a ord sc, s.rg b, 8),
        (.axor q d b a ord sc, s.rg b, 8), (.amin q d b a ord sc, s.rg b, 8), (.amax q d b a ord sc, s.rg b, 8),
        (.aminu q d b a ord sc, s.rg b, 8), (.amaxu q d b a ord sc, s.rg b, 8), (.axchg q d b a ord sc, s.rg b, 8),
        (.acas q d b a ord sc, s.rg b, 8), (.afadd q d b a ord sc, s.rg b, 4), (.radd q d b a ord sc, s.rg b, 32),
        (.rmax q d b a ord sc, s.rg b, 32), (.rmin q d b a ord sc, s.rg b, 32), (.phinit q d b a ord sc, s.rg b, 64),
        (.phreg q d b a ord sc, s.rg b, 64), (.phdrop q d b ord sc, s.rg b, 64), (.pharr q d b ord sc, s.rg b, 64),
        (.phwait q d b a ord sc, s.rg b, 64), (.pharw q d b ord sc, s.rg b, 64), (.phq q d b ord sc, s.rg b, 64)] :
        List (Instr × BitVec 64 × Nat)),
      (x.2.1.extractLsb' 56 8 ≠ 0#8 → Completes (exec x.1 s) fun t => Raises s t .protection x.2.1 0 1) ∧
      (x.2.1.extractLsb' 56 8 = 0#8 → x.2.1.toNat % x.2.2 ≠ 0 → Completes (exec x.1 s) fun t => Raises s t .misaligned x.2.1 0 1)

/-- R351-R353, R356: an atomic or reduction with a destination has its operation sent once nothing else holds the bundle (`Asks`); when the
answer has come it completes and writes the value, or raises the fault that came instead, parked and with the operation kept. One whose destination
is g0 is posted, as an effect of the interval, or sent at once where nothing is held; in a held region it parks PROTECTION (R383).
Choices of the model in it: log 37. -/
def Obligations.AtomicsAreSent : Prop :=
  ∀ x ∈ ([(.aadd, 8, fun _ v c d => .atomic .add v c d), (.aand, 8, fun _ v c d => .atomic .and v c d),
      (.aor, 8, fun _ v c d => .atomic .or v c d), (.axor, 8, fun _ v c d => .atomic .xor v c d),
      (.amin, 8, fun _ v c d => .atomic .min v c d), (.amax, 8, fun _ v c d => .atomic .max v c d),
      (.aminu, 8, fun _ v c d => .atomic .minu v c d), (.amaxu, 8, fun _ v c d => .atomic .maxu v c d),
      (.axchg, 8, fun _ v c d => .atomic .xchg v c d), (.acas, 8, fun _ v c d => .atomic .cas v c d),
      (.afadd, 4, fun _ v c d => .atomic .fadd v c d),
      (.radd, 32, fun s v _ d => .reduce .add v (s.pre.sys.arm.getLsbD 1) s.pre.sys.teamCores.toNat d),
      (.rmax, 32, fun s v _ d => .reduce .max v (s.pre.sys.arm.getLsbD 1) s.pre.sys.teamCores.toNat d),
      (.rmin, 32, fun s v _ d => .reduce .min v (s.pre.sys.arm.getLsbD 1) s.pre.sys.teamCores.toNat d)] :
      List ((Qual → Reg → Reg → Reg → Order → Scope → Instr) × Nat × (State → BitVec 64 → BitVec 64 → Reg → ReqOp))),
    ∀ s q d base src ord sc, s.acts q = true → Accessible (s.rg base) x.2.1 → MayIssue s →
      let va : VA := (s.rg base).extractLsb' 0 56
      let request : Request := { id := s.nextId, core := s.cur.core, baddr := s.cur.hdr, issued := s.issueNo, asn := s.pre.sys.asn
                                 va := va, op := x.2.2 s (s.rg src) (s.rg d) d, order := ord, scope := sc }
      (d ≠ 0 → s.sentHere = none → Completes (exec (x.1 q d base src ord sc) s) fun t => Asks s t .stall (.request { request with id := 0 } true)) ∧
      (d ≠ 0 → ∀ id v, s.sentHere = some id → s.answerHere = some (v, none) →
        Completes (exec (x.1 q d base src ord sc) s) fun t => WritesG s t d v s.cycle) ∧
      (d ≠ 0 → ∀ id v c k, s.sentHere = some id → s.answerHere = some (v, some c) → s.pre.keptRequest id = some k → s.cur.trap = none →
        Completes (exec (x.1 q d base src ord sc) s) fun t => t = { s with cur := { s.cur with trap := some {
          cause := c, taddr := k.va.zeroExtend 64, slot := slotCode s.cur.slot, parked := true, replay := some id } } }) ∧
      (d = 0 → findHeld s.pre.vts false va.toNat 1 = none → s.me.sendsDirectly = false → s.me.overfull request = false →
        Completes (exec (x.1 q d base src ord sc) s) fun t => ∃ u, u = { s with nextId := s.nextId + 1 } ∧
          Becomes u t fun b => { b with held := b.held ++ [{ request with engine := 6 }] }) ∧
      (d = 0 → findHeld s.pre.vts false va.toNat 1 = none → s.me.sendsDirectly = true → Completes (exec (x.1 q d base src ord sc) s) fun t =>
        t = State.sendReady { s with nextId := s.nextId + 1, requests := s.requests ++ [{ request with engine := 6 }] } s.cur.core) ∧
      (d = 0 → (findHeld s.pre.vts false va.toNat 1).isSome = true →
        Completes (exec (x.1 q d base src ord sc) s) fun t => ∃ u, u = { s with nextId := s.nextId + 1 } ∧
          Becomes u t fun b => b.reportAccess { request with engine := 6 } .protection)

/-- R361, R363, R465: a phaser instruction and a migration have their operation sent once nothing else holds the bundle (`Asks`); when the answer
has come they complete and write it. `phwait` stands in a pre-emptible wait meanwhile. A migration also needs asn 0 (PROTECTION), an ASN in the
low 12 bits of g[dst], and a frame aligned to 64 KiB that lies in memory. Choices of the model in it: log 37. -/
def Obligations.PhasersAndMigrationsAnswer : Prop :=
  ∀ s q d base src ord sc, s.acts q = true →
    let va : VA := (s.rg base).extractLsb' 0 56
    let request : Request := { id := 0, core := s.cur.core, baddr := s.cur.hdr, issued := s.issueNo, asn := s.pre.sys.asn, va := va
                               op := .prefetch, order := ord, scope := sc }
    let answers (i : Instr) (h : Hold) (r : Request) : Prop :=
      (MayIssue s → s.sentHere = none → Completes (exec i s) fun t => Asks s t h (.request r true)) ∧
      ∀ id v, s.sentHere = some id → s.answerHere = some (v, none) → Completes (exec i s) fun t => WritesG s t d v s.cycle
    (Accessible (s.rg base) 64 →
      let phaser (op : PhaserOp) (v : BitVec 64) : Request :=
        { request with op := .phaser op v (s.pre.sys.teamId.extractLsb' 0 16) (s.task s.cur.core).index.val d }
      answers (.phinit q d base src ord sc) .stall (phaser .init (s.rg src)) ∧ answers (.phreg q d base src ord sc) .stall (phaser .reg (s.rg src)) ∧
      answers (.phdrop q d base ord sc) .stall (phaser .drop 0) ∧ answers (.pharr q d base ord sc) .stall (phaser .arr 0) ∧
      answers (.pharw q d base ord sc) .stall (phaser .arw 0) ∧ answers (.phq q d base ord sc) .stall (phaser .q 0) ∧
      answers (.phwait q d base src ord sc) .wait (phaser .wait (s.rg src))) ∧
    (s.pre.sys.asn = 0 → (s.rg d).extractLsb' 12 52 = 0#52 → (s.rg base).extractLsb' 56 8 = 0#8 → (s.rg src).extractLsb' 0 16 = 0#16 →
      (s.rg src).toNat + 0x10000 ≤ 0x9000000000 →
      answers (.migr q d base src ord) .stall
        { request with op := .migrate (s.rg src).toNat d, asn := (s.rg d).extractLsb' 0 12, scope := .p })

/-- R185-R187: a prefetch sends its request and never traps; a drain retires once every earlier access is performed at its scope and none of
their faults is still to be parked; a purge in handler mode acts on its line, and `tlb` retires once it is answered. Outside handler mode a purge raises PROTECTION.
Choices of the model in it: logs 37, 46. -/
def Obligations.PrefetchDrainPurge : Prop :=
  ∀ s q base (off : BitVec 10), s.acts q = true →
    let a := s.rg base + off.signExtend 64 * 128
    let va : VA := a.extractLsb' 0 56
    let request : Request := { id := s.nextId, core := s.cur.core, baddr := s.cur.hdr, issued := s.issueNo, asn := s.pre.sys.asn, va := va
                               op := .prefetch, gslot := false }
    (a.extractLsb' 56 8 ≠ 0#8 → exec (.pfg q base off) s = .next s) ∧
    (a.extractLsb' 56 8 = 0#8 → MayIssue s → exec (.pfg q base off) s =
      .next (State.sendReady { s with nextId := s.nextId + 1, requests := s.requests ++ [request] } s.cur.core)) ∧
    (∀ sc id, s.drainHere = some id → (∀ r ∈ s.requests, r.from s.cur.core = true → r.gslot = true → r.id < id → s.performedAt r sc = true) →
      (∀ f ∈ s.pre.reports, f.access = none) →
      exec (.drain q sc) s = .next s) ∧
    (s.pre.handler = false → s.cur.trap = none → s.cur.slot = .g → ∀ i ∈ [Instr.purgeDc q base off, .purgeIc q base off, .purgeTlb q base off],
      Completes (exec i s) fun t => Raises s t .protection a 0 1) ∧
    (s.pre.handler = true → a.extractLsb' 56 8 = 0#8 → MayIssue s →
      ((∀ r ∈ s.pre.held ++ s.requests.filter (·.core == s.cur.core), ∀ bs, r.op = .store bs → r.asn = s.pre.sys.asn → lineOf r.va ≠ lineOf va) →
        exec (.purgeDc q base off) s = .next (s.modHall s.pre.sys.asn va fun h => { h with dir := h.dir.remove s.cur.core })) ∧
      (Completes (exec (.purgeIc q base off) s) fun t => t = { s with cores := t.cores } ∧
        (∀ d, d ≠ s.cur.core → t.cores[d] = s.cores[d]) ∧
        (∀ l, lookup t.cores[s.cur.core].icache l = if l = lineOf va then none else lookup s.cores[s.cur.core].icache l) ∧
        (∀ l, lookup t.cores[s.cur.core].bicache l = if l = lineOf va then none else lookup s.cores[s.cur.core].bicache l) ∧
        t.cores[s.cur.core] = { s.cores[s.cur.core] with icache := t.cores[s.cur.core].icache, bicache := t.cores[s.cur.core].bicache }) ∧
      (∀ id x, s.sentHere = some id → s.answerHere = some x → exec (.purgeTlb q base off) s = .next s))

/-! The L slot (R189, R190, R223, R224, R234, R241, R255) -/

/-- R189: gallery loads and stores. A load sees held views; a store is performed at the end of the cycle at the address computed here, in the
gallery or in the home of a held view, and no byte changes at issue. MISALIGNED goes before PROTECTION. -/
def Obligations.GalleryAccesses : Prop :=
  ∀ x ∈ ([(.lyb, .syb, 1), (.lyh, .syh, 2), (.lyw, .syw, 4), (.lyd, .syd, 8)] :
      List ((Qual → Reg → Reg → BitVec 10 → Instr) × (Qual → Reg → Reg → BitVec 10 → Instr) × Nat)),
    ∀ s q r base off, s.acts q = true →
      let n := x.2.2
      let a := s.rg base + off.signExtend 64 * BitVec.ofNat 64 n
      let bytes := (List.range n).map fun i => (s.rg r).extractLsb' (8 * i) 8
      (a.toNat % n = 0 → a.toNat + n ≤ 0x200000 →
        Completes (exec (x.1 q r base off) s) (fun t => WritesG s t r (.ofNat 64 (natLE (s.pre.readGal a.toNat n))) (s.cycle + 4)) ∧
        Completes (exec (x.2.1 q r base off) s) fun t => SameBytes s t ∧ Becomes s t fun b => { b with
          locals := b.locals ++ [match findHeld s.pre.vts true a.toNat n with
            | some (i, o) => heldWrite s.pre.vts 4 s.src i o bytes
            | none => ⟨4, .gal, a.toNat, bytes, s.src, [], false⟩] }) ∧
      (s.cur.trap = none → s.cur.slot = .l → ∀ i ∈ [x.1 q r base off, x.2.1 q r base off],
        (a.toNat % n ≠ 0 → Completes (exec i s) fun t => Raises s t .misaligned a 0 2) ∧
        (a.toNat % n = 0 → 0x200000 < a.toNat + n → Completes (exec i s) fun t => Raises s t .protection a 0 2))

/-- R190: `sgw` writes scalar A[5:2] of lane group A div 64 at the end of its cycle. -/
def Obligations.GroupScalarWrites : Prop :=
  ∀ s q r base off, s.acts q = true →
    let a := s.rg base + off.signExtend 64 * 4
    (a.toNat % 4 = 0 → ∀ h : a.toNat ≤ 1532,
      Completes (exec (.sgw q r base off) s) fun t => SameBytes s t ∧ Becomes s t fun b => { b with
        pend := b.pend ++ [{ due := s.cycle, issue := 0, v1 := false, group := ⟨a.toNat / 64, by omega⟩
                             w := .scalar (Fin.ofNat 16 (a.toNat / 4)) ((s.rg r).setWidth 32), src := s.src }] }) ∧
    (s.cur.trap = none → s.cur.slot = .l →
      (a.toNat % 4 ≠ 0 → Completes (exec (.sgw q r base off) s) fun t => Raises s t .misaligned a 0 2) ∧
      (a.toNat % 4 = 0 → 1532 < a.toNat → Completes (exec (.sgw q r base off) s) fun t => Raises s t .protection a 0 2))

/-- R223, R224, R88, R89: `twrite` and `tclr` write the bank that is the back bank at the end of their cycle, and no byte. An entry that is refused
posts a record too, or raises TABLE_REFUSED where ARM bit 0 is set, and then nothing is written. Such a write performed stores the entry for the
groups of its mask, and nothing else of the bank changes but the class of its index; a refused entry is stored invalid and refuses the bank;
`tclr` empties the bank. -/
def Obligations.BackBankWrites : Prop :=
  (∀ s q a b (i : BitVec 10), s.acts q = true →
    let x := s.rg a
    let mask := (s.rg b).extractLsb' 16 24
    let idx : Fin 1024 := fin10 ((s.rg b).extractLsb' 0 10 + i)
    let write (m : Body) : Body := { m with tableOps := m.tableOps ++ [.store (groupsOf mask) idx x s.src] }
    (mask = 0 → exec (.twrite q a b i) s = .next s) ∧
    (mask ≠ 0 → s.backAtEnd.reason idx x = none → Completes (exec (.twrite q a b i) s) fun t => SameBytes s t ∧ Becomes s t write) ∧
    (∀ r, mask ≠ 0 → s.backAtEnd.reason idx x = some r →
      (s.pre.sys.arm.getLsbD 0 = true → s.cur.trap = none → s.cur.slot = .l →
        Completes (exec (.twrite q a b i) s) fun t => Raises s t .tableRefused 0 (.ofNat 10 r) 2) ∧
      (s.pre.sys.arm.getLsbD 0 = false → Completes (exec (.twrite q a b i) s) fun t => SameBytes s t ∧
        ∃ g, mask.getLsbD g.val = true ∧ (∀ h : GroupId, mask.getLsbD h.val = true → g ≤ h) ∧
          Becomes s t fun m => { write m with posts := m.posts ++ [(0, refusedRecord s.cur.hdr g idx r false)] })) ∧
    Completes (exec (.tclr q) s) fun t => SameBytes s t ∧ Becomes s t fun m => { m with tableOps := m.tableOps ++ [.clear] }) ∧
  ∀ (m : Body) (mask : BitVec 24) (idx : Fin 1024) (x : BitVec 64) (src : Src),
    let c := m.performTable (.store (groupsOf mask) idx x src)
    let stored (y : BitVec 64) : Prop :=
      (∀ g, mask.getLsbD g.val = true → c.back.get g idx = y) ∧
      (∀ g j, (mask.getLsbD g.val = false ∨ j ≠ idx) → c.back.get g j = m.back.get g j)
    c = { m with back := c.back, writes := c.writes } ∧
    (m.back.reason idx x = none → stored x ∧ c.back.refused = m.back.refused ∧
      (∀ j, j ≠ idx → lookup c.back.classes j.val = lookup m.back.classes j.val) ∧
      (x.getLsbD 0 = true → entryClass x ≠ 7 → lookup c.back.classes idx.val = some (entryClass x))) ∧
    (∀ r, m.back.reason idx x = some r → stored (x &&& ~~~1#64) ∧ c.back.refused = true ∧ c.back.classes = m.back.classes) ∧
    m.performTable .clear = { m with back := {} }

/-- R234, R241, R255: a good descriptor configures a port or the spill stack of the groups of a mask, or a circular-buffer handle. A step of the
port, or an advance of the handle, that a broadcast entry of the same cycle has made does not act on the new configuration. -/
def Obligations.DescriptorsConfigure : Prop :=
  ∀ s q a b (n : Fin 16), s.acts q = true → (s.rg a).toNat % 64 = 0 → (s.rg a).toNat ≤ 0x1FFFC0 →
    let d := natLE (s.pre.read .gal (s.rg a).toNat 64)
    let groups (f : Group → Group) (t : State) : Prop := ChangesGroups s t (s.rg b) f
    let sp := d % 2 ^ 32; let base := d / 2 ^ 32 % 2 ^ 32; let limit := d / 2 ^ 64 % 2 ^ 32
    let size := d / 2 ^ 64 % 2 ^ 32; let stride := d / 2 ^ 96 % 2 ^ 32; let slots := d / 2 ^ 32 % 2 ^ 16
    (∀ c, portOf n d = some c → Completes (exec (.qcfg q a b n) s) fun t => ∃ u,
      groups (fun k => { k with ports := k.ports.set n (primePort c (decide (n.val < 8)) 0 s.cycle) }) u ∧
        Becomes u t fun m => m.dropMoves s.cycle (setsPort n (groupsOf ((s.rg b).setWidth 24)))) ∧
    (d / 2 ^ 96 % 2 ^ 416 = 0 → sp % 256 = 0 → base % 256 = 0 → limit % 256 = 0 → base ≤ sp → sp ≤ limit → limit ≤ 0x200000 →
      Completes (exec (.qcfgStk q a b) s) fun t => ∃ u,
        groups (fun k => { k with gsp := .ofNat 32 sp, gbase := .ofNat 32 base, glimit := .ofNat 32 limit }) u ∧
          Becomes u t fun m => m.logWrites ((groupsOf ((s.rg b).setWidth 24)).map fun g =>
            registerRecord s.src (0x63100 + g.val) 4 (.ofNat 64 sp))) ∧
    (∀ f, fmtOf (.ofNat 4 (d / 2 ^ 48)) = some f → f ≠ .npf → d / 2 ^ 128 % 2 ^ 384 = 0 → d / 2 ^ 52 % 2 ^ 12 = 0 → 1 ≤ slots → slots ≤ 1024 →
      sp % 64 = 0 → size % 64 = 0 → stride % 64 = 0 → 23 * stride + 64 * fmtSize f ≤ size → sp + slots * size ≤ 0x200000 →
      (∀ c ∈ s.pre.commands, n ∉ c.cbs) →
      Completes (exec (.cbcfg q a n) s) fun t => SameBytes s t ∧ Becomes s t fun m => { m.dropMoves s.cycle (movesRing n) with
        cbs := m.cbs.set n ⟨some ⟨sp, slots, f, size, stride⟩, 0, 0⟩
        groups := Vec.map (fun g => { g with staged := g.staged.filter (·.cb != n) }) m.groups })

/-! The X slot (R191-R203) -/

/-- R191, R192, R56: transfers. A bad target raises MISALIGNED or PROTECTION, and then no transfer and no link write takes place. -/
def Obligations.ControlTransfers : Prop :=
  ∀ s q a b (off : BitVec 22), s.acts q = true →
    let next : BitVec 64 := (s.cur.hdr + BitVec.ofNat 56 s.cur.len).setWidth 64
    let label : VA := s.cur.hdr + .ofInt 56 (4 * off.toInt)
    let taken (u : State) (t : VA) : Prop := u = { s with cur := { s.cur with target := some t } }
    Completes (exec (.br q off) s) (fun t => taken t label) ∧
    Completes (exec (.call q off) s) (fun t => ∃ u, taken u label ∧ WritesG u t 1 next (s.cycle + 1)) ∧
    ((s.rg a).toNat % 4 = 0 → (s.rg a).toNat < 2 ^ 56 →
      Completes (exec (.jr q a) s) (fun t => taken t ((s.rg a).setWidth 56)) ∧
      Completes (exec (.jalr q a b) s) (fun t => ∃ u, taken u ((s.rg a).setWidth 56) ∧ WritesG u t b next (s.cycle + 1))) ∧
    (s.cur.trap = none → s.cur.slot = .x → ∀ i ∈ [Instr.jr q a, .jalr q a b],
      ((s.rg a).toNat % 4 ≠ 0 → Completes (exec i s) fun t => Raises s t .misaligned (s.rg a) 0 3) ∧
      ((s.rg a).toNat % 4 = 0 → 2 ^ 56 ≤ (s.rg a).toNat → Completes (exec i s) fun t => Raises s t .protection (s.rg a) 0 3))

/-- R193, R195: opening a hardware loop, with a count of 0 passing over its body, and writing a step slot; both raise ILLEGAL_OP in handler
mode. -/
def Obligations.HardwareLoops : Prop :=
  ∀ s q (lc slot : Fin 4) count a b (last : BitVec 18),
    let e : VA := s.cur.hdr + .ofNat 56 (4 * last.toNat)
    let next : VA := s.cur.hdr + BitVec.ofNat 56 s.cur.len
    (s.pre.handler = false →
      (s.rg count ≠ 0 → Completes (exec (.loop lc count last) s) fun t => SameBytes s t ∧ Becomes s t fun m => { m with
        loops := ⟨lc, next, e⟩ :: dropLoop lc m.loops, lc := m.lc.set lc (s.rg count) } ) ∧
      (∀ h len, s.rg count = 0 → s.cores[s.cur.core].cachedWord false e = some h → ctlLength h = some len →
        Completes (exec (.loop lc count last) s) fun t => ∃ u, SameBytes s u ∧
          (Becomes s u fun m => { m with loops := dropLoop lc m.loops, lc := m.lc.set lc 0, steps := m.steps.set lc (Vector.replicate 4 none) }) ∧
          t = { u with cur := { s.cur with target := some (e + .ofNat 56 len) } }) ∧
      (s.acts q = true → Completes (exec (.lpstep q lc slot a b) s) fun t => SameBytes s t ∧ Becomes s t fun m => { m with
        steps := m.steps.set lc ((m.steps[lc]).set slot (if a = 0 then none else some (a, s.rg b))) })) ∧
    (s.pre.handler = true → s.cur.trap = none → s.cur.slot = .x →
      Completes (exec (.loop lc count last) s) (fun t => Raises s t .illegalOp 0 0 3) ∧
      (s.acts q = true → Completes (exec (.lpstep q lc slot a b) s) fun t => Raises s t .illegalOp 0 0 3))

/-- R196, R197: waits for tokens and flags complete once every named one is idle or set, and change nothing; else the bundle holds in a
pre-emptible wait. `setf` and `clrf` change every named flag at the end of the cycle. -/
def Obligations.TokensAndFlags : Prop :=
  ∀ s q (n : Fin 16) (a : Reg), s.acts q = true →
    let mask : BitVec 16 := (s.rg a).setWidth 16
    let held (t : State) : Prop := OnlyCur s t ∧ t.cur = { s.cur with hold := some (if s.cur.hold = some .stall then .stall else .wait) }
    let changed (set : Bool) (ns : List (Fin 16)) (t : State) : Prop :=
      SameBytes s t ∧ Becomes s t fun b => { b with flagOps := b.flagOps ++ ns.map fun n => ⟨n, set, s.cycle⟩ }
    (s.pre.tokenBusy n = false → exec (.waitk q n) s = .next s) ∧ (s.pre.tokenBusy n = true → Completes (exec (.waitk q n) s) held) ∧
    ((∀ n, mask.getLsbD n.val = true → s.pre.tokenBusy n = false) → exec (.waitkMask q a) s = .next s) ∧
    ((∃ n : Fin 16, mask.getLsbD n.val = true ∧ s.pre.tokenBusy n = true) → Completes (exec (.waitkMask q a) s) held) ∧
    (s.pre.flags[n] = true → exec (.waitf q n) s = .next s) ∧ (s.pre.flags[n] = false → Completes (exec (.waitf q n) s) held) ∧
    ((∀ n : Fin 16, mask.getLsbD n.val = true → s.pre.flags[n] = true) → exec (.waitfMask q a) s = .next s) ∧
    ((∃ n : Fin 16, mask.getLsbD n.val = true ∧ s.pre.flags[n] = false) → Completes (exec (.waitfMask q a) s) held) ∧
    Completes (exec (.setf q n) s) (changed true [n]) ∧ Completes (exec (.clrf q n) s) (changed false [n]) ∧
    Completes (exec (.setfMask q a) s) (changed true ((List.finRange 16).filter fun n => mask.getLsbD n.val)) ∧
    Completes (exec (.clrfMask q a) s) (changed false ((List.finRange 16).filter fun n => mask.getLsbD n.val))

/-- R198, R199, R202, R256: starting and stopping the broadcast sequencer, whose first bundle issues in the next cycle or, after a return to a
checkpoint, when its ports have fetched; the two queues, and the statistics queue. -/
def Obligations.SequencerAndQueues : Prop :=
  ∀ s q (a b : Reg), s.acts q = true →
    (s.pre.brun = true → exec (.bstart q a) s = .next s) ∧
    (s.pre.brun = false → a ≠ 0 → (s.rg a).toNat % 4 = 0 → Completes (exec (.bstart q a) s) fun t => SameBytes s t ∧ Becomes s t fun m => { m with
      brun := true, bnext := max m.bnext (s.cycle + 1), bpc := (s.rg a).setWidth 56, bpcUnset := false, bfold := 0, bretries := 0 }) ∧
    (s.pre.brun = false → s.pre.bpcUnset = false → Completes (exec (.bstart q 0) s) fun t => SameBytes s t ∧ Becomes s t fun m => { m with
      brun := true, bnext := max m.bnext (s.cycle + 1) }) ∧
    (s.cur.trap = none → s.cur.slot = .x → s.pre.brun = false →
      (s.pre.bpcUnset = true → Completes (exec (.bstart q 0) s) fun t => Raises s t .illegalOp 0 0 3) ∧
      (a ≠ 0 → (s.rg a).toNat % 4 ≠ 0 → Completes (exec (.bstart q a) s) fun t => Raises s t .misaligned (s.rg a) 0 3)) ∧
    Completes (exec (.bstop q) s) (fun t => SameBytes s t ∧ Becomes s t fun m => { m with
      brun := false, bretryAt := none, bretries := 0, bheld := [] }) ∧
    (s.pre.ctq.length < 64 → Completes (exec (.pushq q a) s) fun t => SameBytes s t ∧ Becomes s t fun m => { m with ctq := m.ctq ++ [s.rg a] }) ∧
    (∀ e rest, s.pre.btq = e :: rest → e.due < s.cycle → Completes (exec (.popq q a) s) fun t => ∃ u, SameBytes s u ∧
      (Becomes s u fun m => { m with btq := m.btq.drop 1 }) ∧ WritesG u t a e.value (s.cycle + 1)) ∧
    ((a ≠ b ∨ a = 0) → s.pre.stq = [] → Completes (exec (.stqrd q a b) s) fun t => ∃ u, WritesG s u a 0 (s.cycle + 1) ∧ WritesG u t b 0 (s.cycle + 1)) ∧
    (∀ r rest, (a ≠ b ∨ a = 0) → s.pre.stq = r :: rest → Completes (exec (.stqrd q a b) s) fun t => ∃ u v, SameBytes s u ∧
      (Becomes s u fun m => { m with stq := m.stq.drop 1 }) ∧ WritesG u v a (r.setWidth 64) (s.cycle + 1) ∧
        WritesG v t b ((r >>> 64).setWidth 64) (s.cycle + 1)) ∧
    (a = b → a ≠ 0 → s.cur.trap = none → s.cur.slot = .x → Completes (exec (.stqrd q a b) s) fun t => Raises s t .illegalOp 0 0 3)

/-- R171, R172, R203: reading and writing a system register. A number outside the map raises ILLEGAL_OP; a write of a read-only register, or
of one that only a handler may write, raises PROTECTION. A write of TSTAT that clears replay discards the kept access (R188). CYCLE reads as the
cycle in which the bundle issued. -/
def Obligations.SystemRegisters : Prop :=
  ∀ s q (a : Reg) (sr : BitVec 12), s.acts q = true →
    (∀ x ∈ ([(0x001, .ofNat 64 s.cur.core.val), (0x002, s.pre.sys.teamId), (0x003, s.pre.sys.taskId), (0x004, s.pre.sys.teamCores),
        (0x005, s.pre.sys.asn.setWidth 64), (0x008, s.pre.sys.landMax.setWidth 64), (0x009, s.pre.sys.landCnt.setWidth 64), (0x00A, s.pre.sys.flipAt),
        (0x00B, s.pre.sys.arm.setWidth 64), (0x010, s.pre.sys.tvec), (0x011, s.pre.sys.tcause.setWidth 64), (0x012, s.pre.sys.taddr.setWidth 64),
        (0x013, s.pre.sys.tbaddr.setWidth 64),
        (0x014, (s.pre.sys.tstat &&& 0xFFF8#16).setWidth 64 + (BitVec.ofBool s.pre.handler).setWidth 64),
        (0x015, s.pre.sys.tret.setWidth 64), (0x018, s.readSr 0x018), (0x019, .ofNat 64 s.pre.stq.length), (0x01A, s.pre.sys.stqDrop.setWidth 64),
        (0x020, s.pre.lc[0]), (0x021, s.pre.lc[1]), (0x022, s.pre.lc[2]), (0x023, s.pre.lc[3])] : List (BitVec 12 × BitVec 64)),
      Completes (exec (.mfsr q a x.1) s) fun t => WritesG s t a x.2 (s.cycle + 1)) ∧
    (ReadsAfresh s → Completes (exec (.mfsr q a 0) s) fun t => ∃ u, OnlyJournal s u s.cur.core ∧ WritesG u t a (.ofNat 64 s.issueCycle) (s.cycle + 1)) ∧
    (let v := s.rg a
      ∀ x ∈ ([(0x008, true, fun m => { m with sys := { m.sys with landMax := if v.setWidth 16 = 0#16 then 65535 else v.setWidth 16 } }),
        (0x00A, false, fun m => { m with sys := { m.sys with flipAt := v } }), (0x00B, false, fun m => { m with sys := { m.sys with arm := v.setWidth 2 } }),
        (0x010, true, fun m => { m with sys := { m.sys with tvec := v &&& ~~~3#64 } }), (0x011, true, fun m => { m with sys := { m.sys with tcause := v.setWidth 18 } }),
        (0x012, true, fun m => { m with sys := { m.sys with taddr := v.setWidth 56 } }), (0x013, true, fun m => { m with sys := { m.sys with tbaddr := v.setWidth 56 } }),
        (0x014, true, fun m => let c := { m with sys := { m.sys with tstat := v.setWidth 16 &&& 0xFFF8#16 } }
          if v.getLsbD 15 then c else c.discardReplay s.cycle),
        (0x015, true, fun m => { m with sys := { m.sys with tret := v.setWidth 56 &&& ~~~3#56 } }),
        (0x01A, true, fun m => { m with sys := { m.sys with stqDrop := v.setWidth 32 } }), (0x020, true, fun m => { m with lc := m.lc.set 0 v }),
        (0x021, true, fun m => { m with lc := m.lc.set 1 v }), (0x022, true, fun m => { m with lc := m.lc.set 2 v }),
        (0x023, true, fun m => { m with lc := m.lc.set 3 v })] : List (BitVec 12 × Bool × (Body → Body))),
      ((x.2.1 = true → s.pre.handler = true) → Completes (exec (.mtsr q a x.1) s) fun t => SameBytes s t ∧ Becomes s t x.2.2) ∧
      (x.2.1 = true → s.pre.handler = false → s.cur.trap = none → s.cur.slot = .x →
        Completes (exec (.mtsr q a x.1) s) fun t => Raises s t .protection 0 0 3)) ∧
    (s.cur.trap = none → s.cur.slot = .x →
      (∀ x ∈ [0x000#12, 0x001, 0x002, 0x003, 0x004, 0x005, 0x009, 0x018, 0x019], Completes (exec (.mtsr q a x) s) fun t => Raises s t .protection 0 0 3) ∧
      (sr ∉ [0x000#12, 0x001, 0x002, 0x003, 0x004, 0x005, 0x008, 0x009, 0x00A, 0x00B, 0x010, 0x011, 0x012, 0x013, 0x014, 0x015, 0x018, 0x019,
          0x01A, 0x020, 0x021, 0x022, 0x023] →
        Completes (exec (.mfsr q a sr) s) (fun t => Raises s t .illegalOp 0 0 3) ∧ Completes (exec (.mtsr q a sr) s) fun t => Raises s t .illegalOp 0 0 3))

/-- R200, R201, R188: `trap` and `brk` raise their cause with their number; `eret` in handler mode leaves it for TRET and restarts the broadcast
sequencer where TSTAT says so. Choices of the model in it: log 42. -/
def Obligations.TrapsAndReturn : Prop :=
  ∀ s q (n : BitVec 10), s.acts q = true → s.cur.trap = none → s.cur.slot = .x →
    Completes (exec (.trap q n) s) (fun t => Raises s t .syscall 0 n 3) ∧ Completes (exec (.brk q n) s) (fun t => Raises s t .brk 0 n 3) ∧
    (s.pre.handler = false → Completes (exec (.eret q) s) fun t => Raises s t .protection 0 0 3) ∧
    (s.pre.handler = true → s.pre.replaying = none →
      Completes (exec (.eret q) s) fun t => ∃ u, SameBytes s u ∧
        (Becomes s u fun m => if s.pre.sys.tstat.getLsbD 14 = true ∧ s.pre.bpcUnset = false ∧ s.pre.brun = false then
          { m with handler := false, brun := true, bnext := max m.bnext (s.cycle + 1) } else { m with handler := false }) ∧
        t = { u with cur := { s.cur with target := some (s.pre.sys.tret &&& ~~~3#56) } }) ∧
    (∀ id r, s.pre.handler = true → s.pre.replaying = some id → s.pre.sys.tstat.getLsbD 15 = true → s.pre.keptRequest id = some r →
      (r.viewed = true → findHeld s.pre.vts false r.va.toNat 1 = none) →
      Completes (exec (.eret q) s) fun t => t.me.handler = false ∧ t.cur.target = some (s.pre.sys.tret &&& ~~~3#56) ∧
        t.requests = (State.sendReady { s with requests := s.requests ++ [r] } s.cur.core).requests ∧
        (r.dest.isSome = true → r.baddr = s.pre.sys.tret &&& ~~~3#56 → ∃ a, t.me.asked = some a ∧ a.hdr = r.baddr ∧ a.request = some r.id))

/-- R51, R204, R205, R52: what taking a trap writes, and what it leaves; in handler mode, or for a team without a handler (R425), the team is faulted. -/
def Obligations.TakingATrap : Prop :=
  ∀ (b : Body) (t : TrapInfo) (baddr tret : VA) (replay bres stream parked : Bool),
    (b.handler = false → b.noHandler = false →
      let c := b.takeTrap t baddr tret replay bres stream parked
      c.handler = true ∧ c.pc = b.sys.tvec.setWidth 56 ∧ c.sys.tcause = t.aux ++ t.cause.code ∧ c.sys.taddr = t.taddr.setWidth 56 ∧
        c.sys.tbaddr = baddr ∧ c.sys.tret = tret &&& ~~~3#56 ∧
        c.sys.tstat = BitVec.ofBool replay ++ BitVec.ofBool bres ++ BitVec.ofBool stream ++ BitVec.ofBool parked ++
          BitVec.ofFin (w := 4) t.slot ++ BitVec.ofFin (w := 5) t.group ++ 0#3 ∧
        c = { b with handler := c.handler, pc := c.pc, fold := 0
                     sys := { b.sys with tcause := c.sys.tcause, taddr := c.sys.taddr, tbaddr := c.sys.tbaddr, tret := c.sys.tret, tstat := c.sys.tstat } }) ∧
    (b.handler = true → ∃ f, f.cause = t.cause ∧ f.handled = some (b.sys.tcause, b.sys.tbaddr) ∧
      b.takeTrap t baddr tret replay bres stream parked = { b with teamFault := some f }) ∧
    (b.handler = false → b.noHandler = true → ∃ f, f.cause = t.cause ∧ f.handled = none ∧
      b.takeTrap t baddr tret replay bres stream parked = { b with teamFault := some f })

/-! The M slot (R301-R307, R335-R340) -/

/-- R302, R304-R307: a word of the shadow nest, its mode, a whole nest from a descriptor, swaps and stops, for the groups of a mask; and the
status of a tile. A bad word, a group number above 23 and selection 3 raise ILLEGAL_OP. A swap is made at once where no nest and no load holds
the tile. A changed nest and exchanged stores are noted for the undo journal (R297). Choices of the model in it: log 44. -/
def Obligations.NestConfiguration : Prop :=
  ∀ s q a b, s.acts q = true →
    let sets (mask : BitVec 64) (f : Nest → Nest) (t : State) : Prop := ∃ u,
      ChangesGroups s u mask (fun k => { k with tile := { k.tile with shadowNest := f k.tile.shadowNest } }) ∧
        Becomes u t fun m => (groupsOf (mask.setWidth 24)).foldl (fun m g => m.journalTile g nestLines) m
    let asked (k : Tile) : Tile := { k with swapPending := true, swapAtLoad := k.swapAtLoad || (k.run.isNone && k.load.isSome) }
    (∀ w : Fin 8, nestWordOk w (s.rg a) = true → Completes (exec (.mxcfg q a b w) s) (sets (s.rg b) fun n => n.set w (s.rg a))) ∧
    (∀ (mode : Fin 4) pin, Completes (exec (.mxmode q a mode pin) s) (sets (s.rg a) fun n => n.set 0 (setMode n[0] mode pin))) ∧
    (let d := natLE (s.pre.read .gal (s.rg a).toNat 64)
      let n : Nest := Vec.ofFn fun w => BitVec.ofNat 64 (d / 2 ^ (64 * w.val))
      (s.rg a).toNat % 64 = 0 → (s.rg a).toNat ≤ 0x1FFFC0 → (∀ w : Fin 8, nestWordOk w n[w] = true) →
      Completes (exec (.mxtab q a b) s) (sets (s.rg b) fun _ => n)) ∧
    (Completes (exec (.mxswap q a) s) fun t => ∃ u, ChangesGroups s u (s.rg a) (fun k => { k with tile := (asked k.tile).settle }) ∧
      Becomes u t fun m => (groupsOf ((s.rg a).setWidth 24)).foldl
        (fun m g => if (asked s.me.groups[g].tile).settles then m.journalTile g storeLines else m) m) ∧
    Completes (exec (.mxstop q a) s) (fun t => ChangesGroups s t (s.rg a) fun k => { k with
      tile := { k.tile with run := k.tile.run.map fun r => { r with stopReq := true } } }) ∧
    (∀ (g : GroupId) (sel : Fin 4), (s.rg b).toNat = g.val → sel.val < 3 →
      Completes (exec (.mxrd q a b sel) s) fun t => WritesG s t a (s.pre.groups[g].tile.status sel.val) (s.cycle + 2)) ∧
    (s.cur.trap = none → s.cur.slot = .m →
      (∀ w : Fin 8, nestWordOk w (s.rg a) = false → Completes (exec (.mxcfg q a b w) s) fun t => Raises s t .illegalOp 0 0 4) ∧
      (∀ sel : Fin 4, (24 ≤ (s.rg b).toNat ∨ sel.val = 3) → Completes (exec (.mxrd q a b sel) s) fun t => Raises s t .illegalOp 0 0 4))

/-- R303, R305, R142, R145: a shadow load and a nest start as commands of the hazard unit on every group of the mask, with one range for each
space; a busy token raises TOKEN_MISUSE, also where the model could hold the bundle (log 44). A load that runs past WB parks PROTECTION.
Choices of the model in it: logs 17, 44. -/
def Obligations.MatrixCommandsStart : Prop :=
  ∀ s q a b (tok : Fin 16), s.acts q = true →
    let tile (g : GroupId) : Tile := s.me.groups[g].tile
    let started (mask : BitVec 64) (reads writes : List Range) (f : Group → Group) (t : State) : Prop :=
      Issues s t ⟨s.me.nextCommand, 3, some tok, s.cur.hdr, reads, writes, [], true, false, s.issueNo, s.src true⟩ fun x y =>
        y = { x with groups := y.groups } ∧ ∀ g : GroupId, y.groups[g] = if mask.getLsbD g.val then f x.groups[g] else x.groups[g]
    (∀ kw ph, s.me.tokenBusy tok = false → (s.rg a).toNat % 128 = 0 → (loadRange (s.rg a).toNat kw ph).hi ≤ 0x600000 →
      (∃ g : GroupId, (s.rg b).getLsbD g.val = true) → (∀ g : GroupId, (s.rg b).getLsbD g.val = true → (tile g).takesLoad = true) →
      s.hazardFree [loadRange (s.rg a).toNat kw ph] [] = true →
      Completes (exec (.mxlds q a b tok kw ph) s) (started (s.rg b) [loadRange (s.rg a).toNat kw ph] [] fun k => { k with
        tile := { k.tile with load := some ⟨s.cycle, s.me.nextCommand, (s.rg a).toNat, kw, ph, []⟩ } })) ∧
    (∀ kw ph, s.me.tokenBusy tok = false → (s.rg a).toNat % 128 = 0 → (s.rg a).toNat < 0x600000 → 0x600000 < (loadRange (s.rg a).toNat kw ph).hi →
      (∃ g : GroupId, (s.rg b).getLsbD g.val = true) → s.me.commands.length < 64 → (∀ k ∈ s.me.commands, k.id < s.me.nextCommand) →
      Completes (exec (.mxlds q a b tok kw ph) s) fun t => SameBytes s t ∧ OnlyBody s t s.cur.core ∧ t.me.groups = s.me.groups ∧
        ∃ f, t.me.reports = s.me.reports ++ [f] ∧ f.cause = .protection ∧ f.addr = (s.rg a).setWidth 56 ∧ f.tok = some tok) ∧
    (∀ split, s.me.tokenBusy tok = false → (∃ g : GroupId, (s.rg a).getLsbD g.val = true) →
      (∀ g : GroupId, (s.rg a).getLsbD g.val = true → (tile g).busy = false ∧ startCause s.pre.groups[g].tile.shadowNest (some tok) = none) →
      let fps := ((List.finRange 24).filter fun g => (s.rg a).getLsbD g.val).map fun g => s.pre.nestRanges s.pre.groups[g].tile.shadowNest g
      let reads := boundingRange .ab (fps.flatMap (·.1)) ++ boundingRange .acc (fps.flatMap (·.1))
      let writes := boundingRange .acc (fps.flatMap (·.2))
      s.hazardFree reads writes = true →
      Completes (exec (.mxgo q a tok split) s) fun t =>
        Issues s t ⟨s.me.nextCommand, 3, some tok, s.cur.hdr, reads, writes, [], true, false, s.issueNo, s.src true⟩ fun x y =>
          y = { x with groups := y.groups, tileLines := y.tileLines } ∧ ∀ g : GroupId, y.groups[g] = if (s.rg a).getLsbD g.val then
            (let n := s.pre.groups[g].tile.shadowNest;
              { x.groups[g] with tile := { x.groups[g].tile with
                activeNest := n, passes := 0
                run := some { nest := n, split, command := s.me.nextCommand, phase := .start (s.cycle + 1), entry := false, baddr := s.cur.hdr
                              issued := s.cycle, v1 := s.cur.slot == .v1, src := s.src true } } })
            else x.groups[g]) ∧
    (s.cur.trap = none → s.cur.slot = .m → s.me.tokenBusy tok = true →
      (∀ kw ph, Completes (exec (.mxlds q a b tok kw ph) s) fun t => Raises s t .tokenMisuse 0 0 4) ∧
      ∀ split, Completes (exec (.mxgo q a tok split) s) fun t => Raises s t .tokenMisuse 0 0 4)

/-- R335, R336, R339, R340, R344, R347, R456: moves to a port of a transform unit, configuration, and the status word; the lines of a pinned
region are made resident. Choices of the model in it: log 11. -/
def Obligations.TransformPortsAndSetup : Prop :=
  ∀ s q a (u su : Fin 4) (port : Fin 5), s.acts q = true →
    let sets (v : BitVec 64) (t : State) : Prop := SameBytes s t ∧ Becomes s t fun b => { b with
      transforms := Vec.modify b.transforms u fun k => { k with ports := k.ports.set port v } }
    Completes (exec (.tmov q a u port) s) (sets (s.rg a)) ∧
    (∀ p : Fin 5, Completes (exec (.tmovPort q su (some p) u port) s) (sets (s.pre.transforms[su]).ports[p])) ∧
    ((s.pre.transforms[su]).op = none → Completes (exec (.tmovPort q su none u port) s) (sets (s.pre.transforms[su]).res)) ∧
    Completes (exec (.tstat q a u) s) (fun t => WritesG s t a (s.pre.transforms[u]).word (s.cycle + 1)) ∧
    ((s.rg a).toNat % 64 = 0 → (s.rg a).toNat ≤ 0x1FFFC0 →
      let d := natLE (s.pre.read .gal (s.rg a).toNat 64)
      (∀ (e : Fin 8) k, cbufOf d = some k → s.rangeBusy ((s.pre.cbufs[e]).map CBuf.range) = false →
        s.rangeBusy (k.map CBuf.range) = false →
        (∀ j y, j ≠ e → s.pre.cbufs[j] = some y → ∀ x, k = some x → x.range.overlaps y.range = false) →
        Completes (exec (.tcfg q a e) s) fun t => SameBytes s t ∧ Becomes s t fun b => { b with cbufs := b.cbufs.set e k }) ∧
      (∀ k, pinnedOf d = some k → s.rangeBusy (s.pre.pinned.map pinnedRange) = false → s.rangeBusy (k.map pinnedRange) = false →
        Completes (exec (.tcfgPinned q a) s) fun t => SameBytes s t ∧ ∃ u, (Becomes s u fun b => { b with pinned := k }) ∧
          t = u.pinRegion s.pre.sys.asn (k.getD (0, 0)).1 (k.getD (0, 0)).2 ∧ t.cores = u.cores))

/-- R336, R337, R142: a trigger captures its ports and starts an operation of its unit, which runs until its completion event; a wait that
the spec leaves open decides when that is. Choices of the model in it: logs 6, 21, 22. -/
def Obligations.TransformOperationsStart : Prop :=
  ∀ x ∈ ([(.cvtSplit, 0, 1), (.cvtJoin, 0, 2), (.cmpPack, 1, 3), (.xposeW32, 2, 4), (.xposeW16, 2, 5), (.layoutIm2col, 3, 6)] :
      List ((Qual → Reg → Option (Fin 16) → Instr) × Fin 4 × Fin 8)),
    ∀ s q a tok, s.acts q = true →
      let u := x.2.1
      let k := s.pre.transforms[u]
      let op : TransformOp :=
        { id := s.me.nextCommand, kind := x.2.2, inp := k.ports[0], out := k.ports[1], cnt := (s.rg a).toNat, arg := k.ports[3], aux := k.ports[4]
          buf := if x.2.2 = 3 then s.pre.cbufs[fin3 (k.ports[3].extractLsb' 0 3)] else none
          tok, baddr := s.cur.hdr, issued := s.issueNo, src := s.src true, nextAt := 0 }
      k.op = none → op.fieldsOk = true → op.footprint.1.overlaps op.footprint.2 = false → (∀ t, tok = some t → s.pre.tokenBusy t = false) →
      (u = 3 → s.pre.holdsFault 4 = false) → s.hazardFree [op.footprint.1] [op.footprint.2] = true → op.parked s.pre.pinned = none →
      Completes (exec (x.1 q a tok) s) fun t => t.fresh = s.fresh + 1 ∧
        Issues { s with fresh := s.fresh + 1 } t
            ⟨s.me.nextCommand, 4, tok, s.cur.hdr, [op.footprint.1], [op.footprint.2], [], true, x.2.2 == 6, s.issueNo, s.src true⟩ fun y z =>
          ∃ n ≥ s.cycle + s.lineCycles op.cycles, z = { y with transforms := Vec.modify y.transforms u fun k => { k with
            ports := k.ports.set 2 (.ofNat 64 op.cnt), op := some { op with nextAt := n }, faulted := false } }

/-! The C slots (R312-R332) -/

/-- R314, R330, R331: a good descriptor is stored; a cancellation marks the command of its unit; the status word is read. -/
def Obligations.CopyDescriptorsAndStatus : Prop :=
  ∀ s q a (u : Fin 2) (cd : Fin 16), s.acts q = true →
    (let d := BitVec.ofNat 512 (natLE (s.pre.read .gal (s.rg a).toNat 64));
      (s.rg a).toNat % 64 = 0 → (s.rg a).toNat ≤ 0x1FFFC0 →
      (cdOk d = true → Completes (exec (.cpcfg q a cd) s) fun t => SameBytes s t ∧ Becomes s t fun b => { b with cds := b.cds.set cd (some d) }) ∧
      (cdOk d = false → s.cur.trap = none → s.cur.slot = .c0 → Completes (exec (.cpcfg q a cd) s) fun t => Raises s t .illegalOp (s.rg a) 0 5)) ∧
    Completes (exec (.cpstat q a u) s) (fun t => WritesG s t a (s.pre.copies[u]).word (s.cycle + 1)) ∧
    ((s.pre.copies[u]).cmd = none → exec (.cpcan q u) s = .next s) ∧
    (∀ y, (s.pre.copies[u]).cmd = some y → (s.me.copies[u]).cmd = some y →
      Completes (exec (.cpcan q u) s) fun t => SameBytes s t ∧ Becomes s t fun b => { b with
        copies := Vec.modify b.copies u fun k => { k with cmd := some { y with cancel := true } } })

/-- R312, R318, R142: a copy captures its descriptor, its registers and the view table, and becomes the command of its unit.
Choices of the model in it: logs 6, 13. -/
def Obligations.CopiesStart : Prop :=
  ∀ x ∈ ([(.cp, 1), (.cpt, 2), (.cptab, 3)] : List ((Qual → Reg → Reg → Fin 16 → Option (Fin 16) → Instr) × Fin 4)),
    ∀ s q a b (cd : Fin 16) tok d, s.acts q = true → s.pre.cds[cd] = some d →
      let u := s.copyUnit
      let c : CopyCmd := { id := s.me.nextCommand, kind := x.2, d, a := s.rg a, b := s.rg b, views := s.pre.vts, tok, baddr := s.cur.hdr
                           issued := s.issueNo, src := s.src true, nextAt := 0 }
      let fp := c.footprint s.pre.cbs[c.cb].cfg
      (s.pre.copies[u]).cmd = none → s.pre.holdsFault (if u = 0 then 1 else 2) = false → c.accepts s.pre.cbs[c.cb].cfg = true → fp.1.overlaps fp.2 = false → s.bundleConflict [fp.1] [fp.2] = false →
      (∀ t, tok = some t → s.pre.tokenBusy t = false) → s.hazardFree [fp.1] [fp.2] = true → c.parked = none →
      Completes (exec (x.1 q a b cd tok) s) fun t => t.fresh = s.fresh + 1 ∧
        Issues { s with fresh := s.fresh + 1 } t
            ⟨s.me.nextCommand, if u = 0 then 1 else 2, tok, s.cur.hdr, [fp.1], [fp.2], if c.ring = 0 then [] else [c.cb], true, c.heldDest fp.2,
              s.issueNo, s.src true⟩ fun y z =>
          ∃ n > s.cycle, z = { y with copies := Vec.modify y.copies u fun k => { k with
            cmd := some { c with nextAt := n }, faulted := false, cancelled := false } }

/-! Flight instructions (R397, R402-R404, R408) -/

/-- R397, R402-R404, R408, R411: a core that has arrived and whose start cycle is near enters its phase with the start cycle in its register;
`flend` ends the phase and writes the status word; vectors leave through team links and are taken from ports.
Choices of the model in it: log 39. -/
def Obligations.FlightInstructions : Prop :=
  ∀ s q a (port po : Fin 4) (n : BitVec 9), s.acts q = true →
    (∀ x at_, s.teamOf s.cur.core = some x → x.kernel.rect ≠ none → s.pre.handler = false → s.pre.inPhase = false →
      (∀ l ∈ s.preload n.toNat, lookup s.cores[s.cur.core].icache l ≠ none) → (s.task s.cur.core).arrived = true → x.start = some at_ → at_ ≤ s.cycle + 1 →
      Completes (exec (.flbar q a n) s) fun t => ∃ u, WritesG s u a (.ofNat 64 at_) (s.cycle + 1) ∧ SameBytes u t ∧
        Becomes u t fun b => { b with flight := { b.flight with lost := 0 } }) ∧
    (s.pre.inPhase = false → Completes (exec (.flend q a) s) fun t => WritesG s t a s.me.flight.word (s.cycle + 1)) ∧
    (s.pre.inPhase = true → Completes (exec (.flend q a) s) fun t => ∃ u, u = s.leavePhase s.cur.core 0 0 ∧ u.me.inPhase = false ∧
      WritesG u t a u.me.flight.word (s.cycle + 1)) ∧
    (∀ x d, s.teamOf s.cur.core = some x → x.neighbour s.cur.core port = some d → (s.rg a).toNat % 256 = 0 → (s.rg a).toNat + 256 ≤ 0x200000 →
      Completes (exec (.xmit q a port) s) fun t =>
        t = { s with wires := s.wires ++ [⟨d, facing port, s.cycle + hopDelay s.cur.core d, s.pre.read .gal (s.rg a).toNat 256⟩] }) ∧
    (∀ v, s.present s.cur.core port = some v →
      ((s.rg a).toNat % 256 = 0 → (s.rg a).toNat + 256 ≤ 0x200000 → Completes (exec (.xsel q a port) s) fun t => ∃ u,
        u = { s with cur := { s.cur with taken := s.cur.taken ++ [port] } } ∧ SameBytes s t ∧
          Becomes u t fun b => { b with locals := b.locals ++ [⟨5, .gal, (s.rg a).toNat, v, s.src, [], false⟩] }) ∧
      (∀ x d, s.teamOf s.cur.core = some x → x.neighbour s.cur.core po = some d → Completes (exec (.xfwd q port po) s) fun t =>
        t = { s with cur := { s.cur with taken := s.cur.taken ++ [port] }, wires := s.wires ++ [⟨d, facing po, s.cycle + hopDelay s.cur.core d, v⟩] })) ∧
    Completes (exec (.xidle q port) s) (fun t => t = { s with cur := { s.cur with taken := s.cur.taken ++ [port] } })

/-! The K slot (R371-R381, R390-R392) -/

/-- R371, R373, R378: a spawn of an ENDED core of the team starts its task there, and a posted range joins the team's queue, once every earlier
access is performed at team scope; each counts a child. Handler mode, a bad core number, a bad entry address, a 256th child, a bad block and a busy
core are refused; a full queue holds the bundle, and a frozen one takes no range. Choices of the model in it: log 38. -/
def Obligations.SpawnsStartTasks : Prop :=
  (∀ s q a b (blk : BitVec 10), s.acts q = true → s.pre.handler = true → s.cur.trap = none → s.cur.slot = .k →
    Completes (exec (.spawn q a b blk) s) (fun t => Raises s t .illegalOp 0 0 7) ∧ Completes (exec (.spawnr q a blk) s) fun t => Raises s t .illegalOp 0 0 7) ∧
  ∀ s q a b (blk : BitVec 10) x, s.acts q = true → s.pre.handler = false → s.teamOf s.cur.core = some x →
    let block := s.galBlock blk
    let room : Prop := (s.task s.cur.core).children < 255
    let drained : Prop := ∃ id, s.drainHere = some id ∧ s.unperformed s.cur.core id .t = []
    (∀ c : CoreId, room → drained → (s.rg a).toNat < s.pre.sys.teamCores.toNat → x.cores[(s.rg a).toNat]? = some c → c ≠ s.cur.core →
      (s.task c).state = some .ended → ((s.task c).reserved = none ∨ (s.task c).reserved = some s.cur.core) → (s.rg b).toNat % 4 = 0 → (s.rg b).toNat < 2 ^ 56 →
      Completes (exec (.spawn q a b blk) s) fun t =>
        (s.task s.cur.core).children + 1 = (t.task s.cur.core).children ∧ (t.task c).state = some .running ∧ (t.task c).startAt = s.cycle + 1 ∧
        (t.body c).pc = (s.rg b).setWidth 56 ∧ (∀ i : Fin 8, (t.body c).g[i.val + 4] = block.extractLsb' (64 * i.val) 64) ∧ (t.body c).g[0] = 0 ∧
        (t.body c).g[3] = x.kernel.got ∧ t.mem = s.mem ∧ ∀ d, d ≠ c → d ≠ s.cur.core → t.cores[d] = s.cores[d]) ∧
    (let lo := ((s.rg a).extractLsb' 0 32).toNat; let hi := ((s.rg a).extractLsb' 32 32).toNat
      let grain := (block.extractLsb' 64 16).toNat
      let good : Prop := block.extractLsb' 81 47 = 0 ∧ 0 < grain ∧ (block.getLsbD 80 = true → grains lo hi grain ≤ 65536)
      (block.extractLsb' 0 64).toNat % 4 = 0 → (block.extractLsb' 0 64).toNat < 2 ^ 56 → room →
      (¬good → s.cur.trap = none → s.cur.slot = .k → Completes (exec (.spawnr q a blk) s) fun t => Raises s t .illegalOp 0 0 7) ∧
      (good → hi ≤ lo → exec (.spawnr q a blk) s = .next s) ∧
      (good → lo < hi → drained → s.rangeFrozen x = true → exec (.spawnr q a blk) s = .next s) ∧
      (good → lo < hi → drained → s.rangeFrozen x = false → 64 ≤ x.ranges.length → s.cur.hold = none →
        exec (.spawnr q a blk) s = .next { s with cur := { s.cur with hold := some .stall } }) ∧
      (good → lo < hi → drained → s.rangeFrozen x = false → x.ranges.length < 64 → Completes (exec (.spawnr q a blk) s) fun t =>
        (t.team? x.id).map (·.ranges) = some (x.ranges ++ [rangeOf block lo hi s.pre.vts (s.task s.cur.core)]) ∧
          (t.task s.cur.core).children = (s.task s.cur.core).children + 1 ∧ (t.task s.cur.core).template = some block ∧ t.mem = s.mem ∧
          ∀ d, t.body d = s.body d)) ∧
    (s.cur.trap = none → s.cur.slot = .k →
      (s.pre.sys.teamCores.toNat ≤ (s.rg a).toNat → Completes (exec (.spawn q a b blk) s) fun t => Raises s t .illegalOp 0 0 7) ∧
      ((s.rg a).toNat < s.pre.sys.teamCores.toNat → (s.rg b).toNat % 4 = 0 → (s.rg b).toNat < 2 ^ 56 → 255 ≤ (s.task s.cur.core).children →
        Completes (exec (.spawn q a b blk) s) fun t => Raises s t .illegalOp 0 0 7) ∧
      (∀ c : CoreId, room → drained → (s.rg a).toNat < s.pre.sys.teamCores.toNat → x.cores[(s.rg a).toNat]? = some c →
        (c = s.cur.core ∨ (s.task c).state ≠ some .ended ∨ ∃ d, (s.task c).reserved = some d ∧ d ≠ s.cur.core) → (s.rg b).toNat % 4 = 0 → (s.rg b).toNat < 2 ^ 56 → Completes (exec (.spawn q a b blk) s) fun t => Raises s t .spawnBusy 0 0 7))

/-- R377, R390-R392: the next grain of a piece, the end of a join period, the end of a task without views, and the words of `tinfo`.
Choices of the model in it: logs 6, 38. -/
def Obligations.TasksJoinAndEnd : Prop :=
  ∀ s q a b, s.acts q = true →
    let t0 := s.task s.cur.core
    (∀ p, t0.piece = some p → ReadsAfresh s → p.cursor < p.hi → Completes (exec (.rnext q a) s) fun t => ∃ u n, n ≥ s.cycle + 2 ∧
      (t.task s.cur.core).piece = some { p with cursor := min (p.cursor + p.entry.grain) p.hi } ∧
      WritesG u t a (BitVec.ofNat 32 (min (p.cursor + p.entry.grain) p.hi) ++ BitVec.ofNat 32 p.cursor) n ∧ u.me = s.me) ∧
    (s.pre.handler = false → t0.children = 0 → exec (.join q) s = .next s) ∧
    (s.pre.handler = false → t0.children ≠ 0 → t0.closed = true → s.joined t0 (s.teamOf s.cur.core) = true →
      Completes (exec (.join q) s) fun t => (t.task s.cur.core).children = 0 ∧ (t.task s.cur.core).closed = false ∧ (∀ d, t.body d = s.body d) ∧
        t.nodes = s.nodes.filter (fun n => !(n.parent.isSome && n.parent == t0.node)) ∧ t.mem = s.mem) ∧
    (∀ id, s.pre.handler = false → t0.children = 0 → t0.state = some .running → s.drainHere = some id → s.unperformed s.cur.core id .t = [] →
      s.me.commands = [] → s.me.reports = [] → s.me.signals = [] → s.arriving s.cur.core = false → s.pre.holdsViews = false →
      Completes (exec (.endt q) s) fun t => (t.task s.cur.core).state = some .ended ∧ (t.task s.cur.core).endedAt = s.cycle ∧ t.me.brun = false ∧
        (∀ v : Fin 8, (t.me.vts[v]).valid = true → (t.me.vts[v]).held = true) ∧ t.me.g = s.me.g ∧ t.mem = s.mem) ∧
    Completes (exec (.tinfoSelf q a) s) (fun t => WritesG s t a (s.pre.sys.taskId.extractLsb' 0 32 ++ BitVec.ofNat 8 (if t0.piece.isSome then 1 else 0) ++
      BitVec.ofNat 8 t0.children ++ BitVec.ofNat 8 t0.childIndex.val ++ BitVec.ofNat 8 t0.index.val) (s.cycle + 1)) ∧
    Completes (exec (.tinfoMerge q a) s) (fun t => WritesG s t a t0.progress.word (s.cycle + 1)) ∧
    (∀ x c st, ReadsAfresh s → s.teamOf s.cur.core = some x → (s.rg b).toNat < s.pre.sys.teamCores.toNat → x.cores[(s.rg b).toNat]? = some c →
      (s.task c).state = some st → Completes (exec (.tinfoState q a b) s) fun t => ∃ u n, n ≥ s.cycle + 2 ∧ u.me = s.me ∧ WritesG u t a st.code n) ∧
    (∀ x, ReadsAfresh s → s.teamOf s.cur.core = some x → Completes (exec (.tinfoQueue q a) s) fun t => ∃ u n, n ≥ s.cycle + 2 ∧ u.me = s.me ∧
      WritesG u t a (.ofNat 64 (x.ranges.length + if s.rangeFrozen x then 128 else 0)) n)

/-- R380, R381: a view declared, and one dropped. -/
def Obligations.ViewsDeclareAndDrop : Prop :=
  ∀ s q a b (vt op : Fin 8) gal, s.acts q = true →
    let v := s.rg b
    let len := v.toNat % 2 ^ 32
    ((s.pre.vts[vt]).valid = false → (s.task s.cur.core).children = 0 → s.pre.handler = false → v.extractLsb' 53 7 = 0#7 →
      vdeclFault s.pre.vts (s.rg a).toNat len (v.extractLsb' 32 21).toNat (v.extractLsb' 60 4).toNat op gal = none →
      let view : ViewEntry := { valid := true, held := false, gal, op, planes := v.extractLsb' 60 4, linesM1 := .ofNat 14 (len / 128 - 1)
                                home := v.extractLsb' 32 21, base := (s.rg a).setWidth 56, touched := [], serial := s.issueNo }
      Completes (exec (.vdecl q a b vt op gal) s) fun t => SameBytes s t ∧ Becomes s t fun m => { m with vts := m.vts.set vt view }) ∧
    ((s.task s.cur.core).children = 0 →
      ((s.pre.vts[vt]).valid = false → exec (.vdrop q vt) s = .next s) ∧
      ((s.pre.vts[vt]).valid = true → (s.pre.vts[vt]).held = false → s.pre.copyUnder s.pre.vts[vt] = false →
        Completes (exec (.vdrop q vt) s) fun t => SameBytes s t ∧ Becomes s t fun m => { m with vts := m.vts.set vt {} })) ∧
    (s.cur.trap = none → s.cur.slot = .k → 0 < (s.task s.cur.core).children →
      Completes (exec (.vdecl q a b vt op gal) s) (fun t => Raises s t .illegalOp 0 0 7) ∧ Completes (exec (.vdrop q vt) s) fun t => Raises s t .illegalOp 0 0 7)

/-! The Q slot and bundles without slots (R30, R59, R214-R222, R226-R228) -/

/-- R215, R219-R222: a broadcast loop is opened, or its body passed over where the count is 0; the `ctq` form takes the oldest entry and holds
its bundle while there is none. Branches, calls on a return stack of eight and returns. -/
def Obligations.BroadcastTransfers : Prop :=
  ∀ s (bl : Fin 4) rt (cnt : BitVec 13) (last : BitVec 10) (cnd : BitVec 4) (off : BitVec 22),
    let next : VA := s.cur.hdr + BitVec.ofNat 56 s.cur.len
    let e : VA := s.cur.hdr + .ofNat 56 (4 * last.toNat)
    let label : VA := s.cur.hdr + .ofInt 56 (4 * off.toInt)
    let go (t : State) (f : Body → Body) (a : VA) : Prop := ∃ u, Becomes s u f ∧ t = { u with cur := { s.cur with target := some a } }
    let opened (n : BitVec 32) (k : Nat) (t : State) : Prop :=
      go t (fun b => { b with ctq := b.ctq.drop k, bloops := ⟨bl, rt, next, e⟩ :: dropBLoop bl s.pre.bloops, bl := b.bl.set bl n }) next
    let passed (len k : Nat) (t : State) : Prop :=
      go t (fun b => { b with ctq := b.ctq.drop k, bloops := dropBLoop bl s.pre.bloops, bl := b.bl.set bl 0 }) (e + .ofNat 56 len)
    let holds : Prop := if cnd.extractLsb' 0 3 = 0#3 then cnd.getLsbD 3 = false else s.pre.sp[(fin3 (cnd.extractLsb' 0 3))] ≠ cnd.getLsbD 3
    (cnt ≠ 0 → Completes (exec (.bloop bl rt cnt last) s) (opened (cnt.setWidth 32) 0)) ∧
    (∀ h len, cnt = 0 → s.cores[s.cur.core].cachedWord true e = some h → bcastLength h = some len →
      Completes (exec (.bloop bl rt cnt last) s) (passed len 0)) ∧
    (s.pre.ctq = [] → exec (.bloopCtq bl rt last) s = .next { s with cur := { s.cur with hold := some .stall } }) ∧
    (∀ v rest, s.pre.ctq = v :: rest → v.setWidth 32 ≠ 0#32 → Completes (exec (.bloopCtq bl rt last) s) (opened (v.setWidth 32) 1)) ∧
    (∀ v rest h len, s.pre.ctq = v :: rest → v.setWidth 32 = 0#32 → s.cores[s.cur.core].cachedWord true e = some h → bcastLength h = some len →
      Completes (exec (.bloopCtq bl rt last) s) (passed len 1)) ∧
    (holds → Completes (exec (.bbr cnd off) s) fun t => go t id label) ∧ (¬holds → exec (.bbr cnd off) s = .next s) ∧
    (¬holds → exec (.bcall cnd off) s = .next s) ∧
    (holds → s.pre.brets.length < 8 → Completes (exec (.bcall cnd off) s) fun t => go t (fun b => { b with brets := next :: b.brets }) label) ∧
    (∀ r rest, s.pre.brets = r :: rest → Completes (exec .bret s) fun t => go t (fun b => { b with brets := b.brets.drop 1 }) r) ∧
    (s.cur.trap = none → s.cur.slot = .q →
      (holds → 8 ≤ s.pre.brets.length → Completes (exec (.bcall cnd off) s) fun t => Raises s t .illegalOp 0 0 10) ∧
      (s.pre.brets = [] → Completes (exec .bret s) fun t => Raises s t .illegalOp 0 0 10))

/-- R216-R218, R222: flags, queues, stage predicates and rotation of the broadcast sequencer; a pop from an empty queue, a push to a
full one and a wait for a clear flag hold the bundle. No byte changes. -/
def Obligations.BroadcastFlagsQueuesPredicates : Prop :=
  ∀ s (n : Fin 16) (m k : Fin 8) (bl : Fin 4) (e : BitVec 6) (wmask value : BitVec 7) (imm : BitVec 14) (g : GroupId),
    let does (i : Instr) (f : Body → Body) : Prop := Completes (exec i s) fun t => SameBytes s t ∧ Becomes s t f
    let stalled (i : Instr) : Prop := exec i s = .next { s with cur := { s.cur with hold := some .stall } }
    let turned (i : Instr) (f : Body → Body) (r : Fin 64 → Fin 64) : Prop := Completes (exec i s) fun t => SameBytes s t ∧ OnlyBody s t s.cur.core ∧
      t.me = { f s.me with groups := t.me.groups, writes := t.me.writes } ∧
      ∀ x : GroupId, t.me.groups[x] = if s.pre.gm[m].getLsbD x.val then { s.me.groups[x] with rot := r s.me.groups[x].rot } else s.me.groups[x]
    does (.bsetf n) (fun b => { b with flagOps := b.flagOps ++ [⟨n, true, s.releaseAt⟩] }) ∧
    does (.bclrf n) (fun b => { b with flagOps := b.flagOps ++ [⟨n, false, s.cycle⟩] }) ∧
    (s.pre.flags[n] = true → exec (.bwaitf n) s = .next s) ∧ (s.pre.flags[n] = false → stalled (.bwaitf n)) ∧
    does .bhalt (fun b => { b with bhalting := true }) ∧
    does (.bhaltFlag n) (fun b => { b with bhalting := true, flagOps := b.flagOps ++ [⟨n, true, s.releaseAt⟩] }) ∧
    does (.bsetsp wmask value) (fun b => { b with
      sp := Vec.ofFn fun i => if i.val ≠ 0 ∧ wmask.getLsbD (i.val - 1) = true then value.getLsbD (i.val - 1) else b.sp[i] }) ∧
    turned (.brot m e) id (fun _ => e.toFin) ∧ turned (.brotA m e) id (fun r => r + e.toFin) ∧
    (s.pre.ctq = [] → ∀ d, stalled (.bpopq d)) ∧
    (∀ v rest, s.pre.ctq = v :: rest →
      let popped (b : Body) : Body := { b with ctq := b.ctq.drop 1 }
      does (.bpopq (.bl bl)) (fun b => { popped b with bl := b.bl.set bl (v.setWidth 32) }) ∧
      does (.bpopq (.gm k)) (fun b => { popped b with gm := b.gm.set k (v.setWidth 24) }) ∧
      does (.bpopq .sp) (fun b => { popped b with sp := Vec.ofFn fun i => if i.val ≠ 0 then v.getLsbD i.val else b.sp[i] }) ∧
      turned (.bpopq (.rot m)) popped (fun _ => (v.setWidth 6).toFin) ∧
      does (.bpopq (.scalar n m)) (fun b => { popped b with pend := b.pend ++ ((List.finRange 24).filter fun x => s.pre.gm[m].getLsbD x.val).map fun x =>
        ⟨s.cycle, 1, false, x, .scalar n (v.setWidth 32), ⟨1, s.pre.bcastCount, 56 + x.val⟩⟩ }) ∧
      does (.bpopq .discard) popped) ∧
    (64 ≤ s.pre.btq.length → ∀ d, stalled (.bpushq d)) ∧
    (s.pre.btq.length < 64 →
      let pushes (d : PushSrc) (v : BitVec 64) : Prop := does (.bpushq d) (fun b => { b with btq := b.btq ++ [⟨v, s.releaseAt⟩] })
      pushes (.bl bl) (s.pre.bl[bl].setWidth 64) ∧ pushes (.gm k) (s.pre.gm[k].setWidth 64) ∧ pushes (.scalar n g) (s.pre.groups[g].scal[n].setWidth 64) ∧
      pushes (.imm imm) (imm.setWidth 64) ∧
      ∃ v : BitVec 64, (∀ i < 64, v.getLsbD i = (i == 0 || (if h : i < 8 then s.pre.sp[i] else false))) ∧ pushes .sp v)

/-- R226-R228: a flip takes effect in the cycle that FLIPAT names, exchanging the banks with their class maps and clearing FLIPAT; before
it the bundle is held; late or refused it raises its cause and changes no bank. -/
def Obligations.FlipExchangesBanks : Prop :=
  ∀ s, let at_ := s.pre.sys.flipAt.toNat
    let incomplete : Prop := ∃ c ∈ s.pre.commands, ∃ r ∈ c.writes, r.space = .tbl
    let exchanged (b : Body) : Body := { b with front := b.back, back := b.front, sys := { b.sys with flipAt := 0 } }
    (at_ ≠ 0 → at_ = s.cycle → s.pre.back.refused = false → ¬incomplete →
      Completes (exec .flip s) fun t => SameBytes s t ∧ ∃ u, Becomes s u exchanged ∧ t = { u with pre := exchanged s.pre }) ∧
    (s.cycle < at_ → exec .flip s = .next { s with cur := { s.cur with hold := some .stall } }) ∧
    (s.cur.trap = none → s.cur.slot = .q →
      (at_ = 0 ∨ at_ < s.cycle → Completes (exec .flip s) fun t => Raises s t .flipLate 0 0 10) ∧
      (at_ ≠ 0 → at_ = s.cycle → s.pre.back.refused = true ∨ incomplete → Completes (exec .flip s) fun t => Raises s t .flipRefused 0 0 10))

/-- R30, R90, R214, R58, R59: `ix` runs the front-bank entry of each participating group, in order of groups; an invalid one raises
ILLEGAL_OP, and a mask of 0 or a false predicate does nothing. The entries that V1 runs in a second cycle wait for it, with the handles and
ports as they stood before the bundle. A header without
slots stands for fold + 1 empty bundles, in the broadcast stream once the tokens of its mask are idle.
Choices of the model in it: log 5. -/
def Obligations.IndexedAndEmptyBundles : Prop :=
  ∀ s (index : Fin 1024) (gm sp : Fin 8) (imm : BitVec 16),
    let groups := (List.finRange 24).filter fun g => (sp.val == 0 || s.pre.sp[sp]) && s.pre.gm[gm].getLsbD g.val
    let entered (u : State) (g : GroupId) : State := { u with cur := { u.cur with group := g, imm, rot := u.pre.groups[g].rot } }
    let one (u : State) (g : GroupId) : Host.Outcome State Fault Refusal :=
      let x := u.pre.front.get g index
      match x.getLsbD 0, decodeEntry x with
      | true, .ok e => exec e.toInstr (entered u g)
      | _, _ => .next ((entered u g).raise .illegalOp)
    let all : Host.Outcome State Fault Refusal := groups.foldl (fun r g => match r with
      | .next u => one u g
      | r => r) (.next s)
    (s.cur.two = false ∨ s.cur.slot ≠ .v1 → exec (.ix index gm sp imm) s = all ∧ ∃ t, all = .next t) ∧
    (s.cur.two = true → s.cur.slot = .v1 → Completes (exec (.ix index gm sp imm) s) fun t => ∃ u, all = .next u ∧
      (∃ n, t.cur = { u.cur with tail := n }) ∧ ∃ v, v = { s with cur := t.cur } ∧ OnlyBody v t t.cur.core ∧
        t.me = { v.me with bsecond := v.me.bsecond ++ groups.map fun g => (g, s.pre.front.get g index, imm, s.pre.groups[g].rot),
                            bsecondCbs := s.pre.cbs, bsecondPorts := s.portsSet, bsecondFrom := s.cycle + 1 }) ∧
    (∀ landing (fold : BitVec 8), Completes (exec (.emptyBundle landing fold) s) fun t => SameBytes s t ∧
      Becomes s t fun b => { b with fold := fold.toNat + 1, foldLanding := landing }) ∧
    (∀ (fold : BitVec 8) (wait : BitVec 16), (∀ n : Fin 16, wait.getLsbD n.val = true → s.pre.tokenBusy n = false) →
      Completes (exec (.emptyBroadcastBundle fold wait) s) fun t => SameBytes s t ∧ Becomes s t fun b => { b with bfold := fold.toNat + 1 }) ∧
    (∀ (fold : BitVec 8) (wait : BitVec 16), (∃ n : Fin 16, wait.getLsbD n.val = true ∧ s.pre.tokenBusy n = true) →
      exec (.emptyBroadcastBundle fold wait) s = .next { s with cur := { s.cur with hold := some .stall } })

/-! Group table entries (R244-R280, R308-R310) -/

/-- R265-R267, R269: floating-point entries compute in FP32, or on the two elements of packed BF16 or FP16 lanes, each result rounded once
from the exact value; signs, minimum, maximum and rounding to an integral value post no record. Choices of the model in it: log 48. -/
def Obligations.VectorFloatingPoint : Prop :=
  ∀ x ∈ ([(fun h d a b _ => .fadd h d a b, 1, fun a b _ => [a, b], fun _ f a b _ => fpAdd f a b),
      (fun h d a b _ => .fsub h d a b, 2, fun a b _ => [a, b], fun _ f a b _ => fpSub f a b),
      (fun h d a b _ => .fmul h d a b, 3, fun a b _ => [a, b], fun _ f a b _ => fpMul f a b),
      (fun h d a b c => .fma h d a b c, 4, fun a b c => [a, b, c], fun _ f a b c => fpFma f false false a b c),
      (fun h d a b c => .fms h d a b c, 5, fun a b c => [a, b, c], fun _ f a b c => fpFma f false true a b c),
      (fun h d a b c => .fnma h d a b c, 6, fun a b c => [a, b, c], fun _ f a b c => fpFma f true false a b c),
      (fun h d a b _ => .fmin h d a b, 7, fun a b _ => [a, b], fun _ f a b _ => ⟨fpMinMax f false a b, false, false, false⟩),
      (fun h d a b _ => .fmax h d a b, 8, fun a b _ => [a, b], fun _ f a b _ => ⟨fpMinMax f true a b, false, false, false⟩),
      (fun h d a _ _ => .fabs h d a, 9, fun a _ _ => [a], fun _ f a _ _ =>
        ⟨if (fpDecode f a).isNan then f.nan else a % 2 ^ (f.eb + f.mb), false, false, false⟩),
      (fun h d a _ _ => .fneg h d a, 10, fun a _ _ => [a], fun _ f a _ _ =>
        ⟨if (fpDecode f a).isNan then f.nan else (a + 2 ^ (f.eb + f.mb)) % 2 ^ (f.eb + f.mb + 1), false, false, false⟩),
      (fun h d a _ _ => .frcp h d a, 11, fun a _ _ => [a], fun _ f a _ _ => fpRcp f a),
      (fun h d a _ _ => .frsq h d a, 12, fun a _ _ => [a], fun _ f a _ _ => fpRsq f a),
      (fun h d a _ _ => .fsqrt h d a, 13, fun a _ _ => [a], fun _ f a _ _ => fpSqrt f a),
      (fun h d a _ _ => .fexp2 h d a, 14, fun a _ _ => [a], fun _ f a _ _ => fpExp2 f a),
      (fun h d a _ _ => .flog2 h d a, 15, fun a _ _ => [a], fun _ f a _ _ => fpLog2 f a),
      (fun h d a _ _ => .fsig h d a, 16, fun a _ _ => [a], fun _ f a _ _ => fpSig f a),
      (fun h d a _ _ => .fround h d a, 18, fun a _ _ => [a], fun m f a _ _ => ⟨fpRoundInt f (m.extractLsb' 0 2).toNat a, false, false, false⟩)] :
      List ((VHead → Operand → Operand → Operand → Operand → Instr) × BitVec 8 × (Operand → Operand → Operand → List Operand) ×
        (BitVec 4 → FpFormat → Nat → Nat → Nat → FpRes))),
    ∀ h d a b c, Elementwise (x.1 h d a b c) x.2.1 h d (x.2.2.1 a b c) fun p q r v ns =>
      let type := h.mod.extractLsb' 2 2
      let noted (y : Nat → FpRes) (k : Nat) (e : Bool) : Prop := let z := y (if e then 1 else 0)
        (k = 1 ∧ z.invalid = true) ∨ (k = 2 ∧ z.overflow = true) ∨ (k = 3 ∧ z.divzero = true)
      if type = 0 then
        let z := x.2.2.2 h.mod fp32 p.toNat q.toNat r.toNat
        v = .ofNat 32 z.bits ∧ ∀ k e, (k, e) ∈ ns ↔ e = false ∧ noted (fun _ => z) k e
      else
        let half (w : BitVec 32) (i : Nat) : Nat := (w.extractLsb' (16 * i) 16).toNat
        let z (i : Nat) : FpRes := x.2.2.2 h.mod (if type = 1 then bf16 else fp16) (half p i) (half q i) (half r i)
        (∀ i < 2, v.extractLsb' (16 * i) 16 = .ofNat 16 (z i).bits) ∧ ∀ k e, (k, e) ∈ ns ↔ noted z k e

/-- R270-R272: conversions by their mode, scaled accumulation into a matrix vector, requantisation; saturation notes INT_SAT, a NaN
FP_INVALID. In scaled accumulation a finite accumulator that meets infinity of the other sign gives the canonical NaN (R271).
Choices of the model in it: log 48. -/
def Obligations.VectorConversions : Prop :=
  (∀ x ∈ ([(0x0, fun a _ v ns => let r := fpToIntSat (fpDecode fp32 a.toNat) (-2147483648) 2147483647
        v = .ofInt 32 r.1 ∧ ∀ n, n ∈ ns ↔ (n = (4, false) ∧ r.2.1 = true) ∨ (n = (1, false) ∧ r.2.2 = true)),
      (0x3, fun a _ v ns => let r := fpToIntSat (fpDecode fp32 a.toNat) 0 4294967295
        v = .ofInt 32 r.1 ∧ ∀ n, n ∈ ns ↔ (n = (4, false) ∧ r.2.1 = true) ∨ (n = (1, false) ∧ r.2.2 = true)),
      (0x1, fun a _ v ns => v = .ofNat 32 (intToFp fp32 a.toInt).bits ∧ ns = []), (0x2, fun a _ v ns => v = .ofNat 32 (intToFp fp32 a.toNat).bits ∧ ns = []),
      (0x5, fun a _ v ns => v = .ofNat 32 (fpConvert bf16 fp32 (a.toNat % 65536)).bits ∧ ns = []),
      (0x6, fun a _ v ns => v = .ofNat 32 (fpConvert bf16 fp32 (a.toNat / 65536)).bits ∧ ns = []),
      (0x9, fun a _ v ns => v = .ofNat 32 (fpConvert fp16 fp32 (a.toNat % 65536)).bits ∧ ns = []),
      (0xA, fun a _ v ns => v = .ofNat 32 (fpConvert fp16 fp32 (a.toNat / 65536)).bits ∧ ns = [])] :
      List (BitVec 4 × (BitVec 32 → BitVec 32 → BitVec 32 → List (Nat × Bool) → Prop))),
    ∀ h d a b, h.mod = x.1 → Elementwise (.fcvt h d a b) 19 h d [a] fun p q _ => x.2 p q) ∧
  (∀ x ∈ ([(0x4, bf16), (0x8, fp16)] : List (BitVec 4 × FpFormat)), ∀ h d a b, h.mod = x.1 →
    Elementwise (.fcvt h d a b) 19 h d [a, b] fun p q _ v ns =>
      v = BitVec.ofNat 16 (fpConvert fp32 x.2 q.toNat).bits ++ BitVec.ofNat 16 (fpConvert fp32 x.2 p.toNat).bits ∧
      ∀ k e, (k, e) ∈ ns ↔ let z := fpConvert fp32 x.2 (if e then q.toNat else p.toNat)
        (k = 1 ∧ z.invalid = true) ∨ (k = 2 ∧ z.overflow = true) ∨ (k = 3 ∧ z.divzero = true)) ∧
  (∀ h m dir i a b c s, EntryActs s [a, b, c] [] → Completes (exec (.scacc h (.mat m dir i) a b c) s) fun t => ∃ (v : Lanes) (notes : List LaneNote),
    (∀ l : Fin 64,
      let src (n : Nat) : BitVec 32 := laneAt ([a, b, c].map (s.srcVec h.rot)) n l
      let raw := (src 0).toInt
      let kw := (src 1).toNat / 256 % 4 + 1; let ka := (src 2).toNat / 256 % 4 + 1
      let sh : Int := ((src 2).toNat % 256 : Nat) + ((src 1).toNat % 256 : Nat) - 254 - (2 * ka - 1) - (2 * kw - 1)
      let term : Nat × Bool := if raw = 0 then (0, false) else fpRound fp32 (decide (raw < 0)) raw.natAbs sh
      let acc := ((s.grp.vec m dir (s.index h.rot i))[l]).toNat
      let z : FpRes := match fpDecode fp32 acc, fpDecode fp32 term.1 with
        | .fin x _ _, .inf y => if x = y then fpAdd fp32 acc term.1 else { bits := fp32.nan, invalid := true }
        | _, _ => fpAdd fp32 acc term.1
      v[l] = .ofNat 32 z.bits ∧ ∀ k e, (k, l, e) ∈ notes ↔ e = false ∧ (s.lanes h.vp).getLsbD l.val = true ∧
        ((k = 1 ∧ z.invalid = true) ∨ (k = 2 ∧ (z.overflow || term.2) = true) ∨ (k = 3 ∧ z.divzero = true))) ∧
    EntryLeaves s t 20 h.cls h.rot (.mat m dir i) [a, b, c] v (s.lanes h.vp) notes) ∧
  ∀ h d a b c, Elementwise (.qnt h d a b c) 21 h d [a, b, c] fun p q r v ns =>
    let x : FpVal := if h.mod.getLsbD 1 then .ofInt p.toInt else fpDecode fp32 p.toNat
    let lo : Int := if h.mod.getLsbD 0 then 0 else -128; let hi : Int := if h.mod.getLsbD 0 then 255 else 127
    match x.mul (fpDecode fp32 q.toNat) with
    | .nan => v = .ofInt 32 (max lo (min hi r.toInt)) ∧ ∀ n, n ∈ ns ↔ n = (1, false) ∨ (n = (4, false) ∧ ¬(lo ≤ r.toInt ∧ r.toInt ≤ hi))
    | .inf neg => v = .ofInt 32 (if neg then lo else hi) ∧ ns = [(4, false)]
    | .fin n m e => Clamped (fpToInt n m e + r.toInt) lo hi v ns

/-- R276, R278: integer entries, wrapping or saturating as their mode says; a saturating form that clamps notes INT_SAT.
Choices of the model in it: log 48. -/
def Obligations.VectorIntegers : Prop :=
  (∀ x ∈ ([(.iadd, 0x30, fun m a b v ns => if m = 0 then Exactly (.ofInt 32 (a.toInt + b.toInt)) v ns
        else if m = 1 then Clamped (a.toInt + b.toInt) (-2147483648) 2147483647 v ns else Clamped (a.toNat + b.toNat : Int) 0 4294967295 v ns),
      (.isub, 0x31, fun m a b v ns => if m = 0 then Exactly (.ofInt 32 (a.toInt - b.toInt)) v ns
        else if m = 1 then Clamped (a.toInt - b.toInt) (-2147483648) 2147483647 v ns else Clamped ((a.toNat : Int) - b.toNat) 0 4294967295 v ns),
      (.imul, 0x32, fun m a b v ns => if m = 0 then Exactly (.ofNat 32 (a.toNat * b.toNat)) v ns
        else if m = 1 then Exactly (.ofInt 32 (a.toInt * b.toInt / 2 ^ 32)) v ns
        else if m = 2 then Exactly (.ofNat 32 (a.toNat * b.toNat / 2 ^ 32)) v ns else Clamped (a.toInt * b.toInt) (-2147483648) 2147483647 v ns),
      (.imin, 0x34, fun _ a b => Exactly (.ofInt 32 (min a.toInt b.toInt))), (.imax, 0x35, fun _ a b => Exactly (.ofInt 32 (max a.toInt b.toInt))),
      (.iminu, 0x36, fun _ a b => Exactly (.ofNat 32 (min a.toNat b.toNat))), (.imaxu, 0x37, fun _ a b => Exactly (.ofNat 32 (max a.toNat b.toNat))),
      (.vecSll, 0x39, fun _ a b => Exactly (.ofNat 32 (a.toNat * 2 ^ (b.toNat % 32)))),
      (.vecSrl, 0x3A, fun _ a b => Exactly (.ofNat 32 (a.toNat / 2 ^ (b.toNat % 32)))),
      (.vecSra, 0x3B, fun _ a b => Exactly (.ofInt 32 (a.toInt / 2 ^ (b.toNat % 32)))),
      (.vecAnd, 0x3C, fun _ a b => Exactly (a &&& b)), (.vecOr, 0x3D, fun _ a b => Exactly (a ||| b)), (.vecXor, 0x3E, fun _ a b => Exactly (a ^^^ b)),
      (.vecAndn, 0x3F, fun _ a b => Exactly (a &&& ~~~b))] :
      List ((VHead → Operand → Operand → Operand → Instr) × BitVec 8 × (BitVec 4 → BitVec 32 → BitVec 32 → BitVec 32 → List (Nat × Bool) → Prop))),
    ∀ h d a b, Elementwise (x.1 h d a b) x.2.1 h d [a, b] fun p q _ => x.2.2 h.mod p q) ∧
  (∀ x ∈ ([(.iabs, 0x38, fun m a v ns => if m = 0 then Exactly (.ofNat 32 a.toInt.natAbs) v ns
        else Clamped a.toInt.natAbs (-2147483648) 2147483647 v ns),
      (.not, 0x40, fun _ a => Exactly (~~~a)),
      (.vecPopc, 0x41, fun _ a => Exactly (.ofNat 32 ((List.range 32).countP fun i => a.getLsbD i))),
      (.vecClz, 0x42, fun _ a v ns => ns = [] ∧ ∃ n ≤ 32, (∀ i < n, a.getMsbD i = false) ∧ (n < 32 → a.getMsbD n = true) ∧ v = .ofNat 32 n),
      (.mov, 0x60, fun _ a => Exactly a)] :
      List ((VHead → Operand → Operand → Instr) × BitVec 8 × (BitVec 4 → BitVec 32 → BitVec 32 → List (Nat × Bool) → Prop))),
    ∀ h d a, Elementwise (x.1 h d a) x.2.1 h d [a] fun p _ _ => x.2.2 h.mod p) ∧
  (∀ h d a b c, Elementwise (.imad h d a b c) 0x33 h d [a, b, c] fun p q r v ns =>
    if h.mod = 0 then Exactly (.ofInt 32 (p.toInt * q.toInt + r.toInt)) v ns else Clamped (p.toInt * q.toInt + r.toInt) (-2147483648) 2147483647 v ns) ∧
  ∀ h d a b c, Elementwise (.dot8 h d a b c) 0x44 h d [a, b, c] fun p q r v ns =>
    let byte (w : BitVec 32) (u : Bool) (j : Nat) : Int := if u then (w.extractLsb' (8 * j) 8).toNat else (w.extractLsb' (8 * j) 8).toInt
    let term (j : Nat) : Int := byte p (h.mod.getLsbD 0) j * byte q (h.mod.getLsbD 1) j
    let z := r.toInt + term 0 + term 1 + term 2 + term 3
    if h.mod.getLsbD 2 then Clamped z (-2147483648) 2147483647 v ns else Exactly (.ofInt 32 z) v ns

/-- R125-R127, R273-R275, R279: reductions and scans over the lanes that vp selects, and moves across lanes; every lane of the destination is
written, but by `perm` and `bcast` the lanes of vp. The records of reductions and scans name the lowest selected lane; a NaN that a scan delivers
is the canonical one. `nop` does nothing. Choices of the model in it: log 48. -/
def Obligations.LaneReductionsAndMoves : Prop :=
  ∀ (s : State) (h : VHead) d a b pa,
    let src (o : Operand) (l : Fin 64) : BitVec 32 := (s.srcVec h.rot o)[l]
    let chosen (l : Fin 64) : Bool := (s.lanes h.vp).getLsbD l.val
    let gives (i : Instr) (op : BitVec 8) (srcs : List Operand) (mask : BitVec 64) (f : Fin 64 → BitVec 32) : Prop :=
      EntryActs s srcs [d] → PortsApart srcs d → Completes (exec i s) fun t => EntryLeaves s t op h.cls h.rot d srcs (Vec.ofFn f) mask []
    let lowest (l : Fin 64) : Prop := (∀ k, chosen k = true → l ≤ k) ∧ ((∃ k, chosen k = true) → chosen l = true)
    let sums (i : Instr) (op : BitVec 8) (f : Fin 64 → BitVec 32) : Prop :=
      EntryActs s [a] [d] → PortsApart [a] d → Completes (exec i s) fun t => ∃ first, lowest first ∧
        EntryLeavesAt (fun _ => first) s t op h.cls h.rot d [a] (Vec.ofFn f) (BitVec.allOnes 64) []
    let total (p : Fin 64 → Bool) : Nat := (((List.finRange 64).filter p).map fun l => (src a l).toNat).sum
    let across (i : Instr) (op : BitVec 8) (other : Nat) (f : List Nat → List Nat) : Prop :=
      EntryActs s [a] [d] → PortsApart [a] d → Completes (exec i s) fun t => ∃ (v : Lanes) (notes : List LaneNote) (first : Fin 64),
        lowest first ∧ (∀ n ∈ notes, n.2.1 = first) ∧
        (let type := h.mod.extractLsb' 2 2
          let enter (w : BitVec 32 → Nat) : List Nat := (List.finRange 64).map fun l => if chosen l then w (src a l) else other
          if type = 0 then ∀ l : Fin 64, v[l] = .ofNat 32 ((f (enter (·.toNat))).getD l.val 0)
          else
            let g := if type = 1 then bf16 else fp16
            ∀ (l : Fin 64) (i : Nat), i < 2 → (v[l]).extractLsb' (16 * i) 16 =
              .ofNat 16 (fpConvert fp32 g ((f (enter fun w => (fpConvert g fp32 (w.extractLsb' (16 * i) 16).toNat).bits)).getD l.val 0)).bits) ∧
        EntryLeavesAt (fun _ => first) s t op h.cls h.rot d [a] v (BitVec.allOnes 64) notes
    across (.fsum h d a) 22 0x80000000 (fun l => .replicate 64 (treeReduce (fpAdd fp32) 6 l).1) ∧
    across (.fmaxr h d a) 23 fp32.nan (fun l => .replicate 64 (treeReduce (fun x y => ⟨fpMinMax fp32 true x y, false, false, false⟩) 6 l).1) ∧
    across (.fscan h d a) 24 0x80000000 (fun l => (scanSteps (fpAdd fp32) 6 0 (l.map fun x => if (fpDecode fp32 x).isNan then fp32.nan else x)).1) ∧
    sums (.isum h d a) 0x45 (fun _ => .ofNat 32 (total chosen)) ∧
    sums (.iscan h d a) 0x46 (fun l => .ofNat 32 (total fun j => chosen j && decide (j ≤ l))) ∧
    gives (.vsel h d a b) 0x61 [a, b] (BitVec.allOnes 64) (fun (l : Fin 64) => if chosen l then src a l else src b l) ∧
    gives (.perm h d a b) 0x62 [a, b] (s.lanes h.vp) (fun l => src a ((src b l).setWidth 6).toFin) ∧
    gives (.bcast h d a b) 0x63 [a, b] (s.lanes h.vp) (fun _ => src a ((src b 0).setWidth 6).toFin) ∧
    gives (.vpcount h d pa) 0x68 [] (BitVec.allOnes 64) (fun _ => .ofNat 32 ((List.range 64).countP fun i => (s.lanes pa).getLsbD i)) ∧
    (∀ n, d = .scalar n → gives (.tos h d a b) 0x69 [a, b] (BitVec.allOnes 64) fun _ => src a ((src b 0).setWidth 6).toFin) ∧
    exec (.nop h) s = .next s ∧
    (s.cur.second = false →
      (s.srcHolds a = true → s.srcRewrite a = none → exec (.mov h d a) s = .next { s with cur := { s.cur with hold := some .stall } }) ∧
      (∀ n, d = .lat → a = .port n → s.me.groups[s.cur.group].ports[n].cfg = none → s.cur.trap = none → s.cur.slot = .v0 ∨ s.cur.slot = .v1 →
        let cause : TrapInfo := ⟨.illegalOp, 0, 0, slotCode s.cur.slot, ⟨s.cur.group.val, Nat.lt_trans s.cur.group.isLt (by decide)⟩, false, none⟩
        exec (.mov h d a) s = .next { s with cur := { s.cur with trap := some cause } }))

/-- R261, R268, R277, R279: lane predicates written at the end of the class latency in the lanes of vp, or in all; a write to vp0 is
discarded. -/
def Obligations.LanePredicates : Prop :=
  ∀ s h pd pa pb a b,
    let src (o : Operand) (l : Fin 64) : BitVec 32 := (s.srcVec h.rot o)[l]
    let writes (i : Instr) (srcs : List Operand) (mask : BitVec 64) (f : Fin 64 → Bool) : Prop :=
      EntryActs s srcs [] → Completes (exec i s) fun t => ∃ bits : BitVec 64, (∀ l : Fin 64, bits.getLsbD l.val = f l) ∧
        EntryQueues s t srcs .zero (if pd = 0 then [] else [(dueOf s h.cls, .vp pd bits mask)])
    let cond : BitVec 3 := h.mod.extractLsb' 0 3
    writes (.icmp h pd a b) [a, b] (s.lanes h.vp) (fun l =>
      let x := src a l; let y := src b l
      match cond.toNat with
      | 0 => decide (x = y)
      | 1 => decide (x ≠ y)
      | 2 => decide (x.toInt < y.toInt)
      | 3 => decide (x.toNat < y.toNat)
      | 4 => decide (x.toInt ≤ y.toInt)
      | 5 => decide (x.toNat ≤ y.toNat)
      | 6 => decide (y.toInt < x.toInt)
      | _ => decide (y.toNat < x.toNat)) ∧
    writes (.fcmp h pd a b) [a, b] (s.lanes h.vp) (fun l =>
      let c := (h.mod.extractLsb' 0 2).toNat
      let half (w : BitVec 32) (i : Nat) : Nat := (w.extractLsb' (16 * i) 16).toNat
      let both (f : FpFormat) : Bool := fpCompare f c (half (src a l) 0) (half (src b l) 0) && fpCompare f c (half (src a l) 1) (half (src b l) 1)
      if h.mod.extractLsb' 2 2 = 0 then fpCompare fp32 c (src a l).toNat (src b l).toNat
      else if h.mod.extractLsb' 2 2 = 1 then both bf16 else both fp16) ∧
    writes (.vpand h pd pa pb) [] (BitVec.allOnes 64) (fun l => (s.lanes pa).getLsbD l.val && (s.lanes pb).getLsbD l.val) ∧
    writes (.vpor h pd pa pb) [] (BitVec.allOnes 64) (fun l => (s.lanes pa).getLsbD l.val || (s.lanes pb).getLsbD l.val) ∧
    writes (.vpxor h pd pa pb) [] (BitVec.allOnes 64) (fun l => (s.lanes pa).getLsbD l.val != (s.lanes pb).getLsbD l.val) ∧
    writes (.vpnot h pd pa) [] (BitVec.allOnes 64) (fun l => !(s.lanes pa).getLsbD l.val)

/-- R246-R248: plain loads and stores of the plane unit, by space. A vector, or one element where the destination is a scalar, goes between
the lanes of vp and the bytes at the computed address; an exhausted address port supplies 0 and stores nothing. A misaligned address raises
MISALIGNED. -/
def Obligations.PlaneLoadsAndStores : Prop :=
  ∀ x ∈ ([(.ldW, .stW, .wb, 0x80), (.ldA, .stA, .ab, 0x81), (.ldC, .stC, .acc, 0x82), (.ldY, .stY, .gal, 0x83)] :
      List ((MHead → Operand → Operand → BitVec 16 → Fmt → Instr) × (MHead → Operand → Operand → BitVec 16 → Fmt → Instr) × Space × BitVec 8)),
    ∀ s h data addr imm f,
      let sp := x.2.2.1
      let size := fmtSize f
      let a : Option Int := (s.addrBase addr).map fun b => b + imm.toInt * size
      let one : Bool := match data with
        | .scalar _ => true
        | _ => false
      let checked (n : Nat) : Prop := s.addrFaults sp addr = [] ∧ ∀ y, a = some y → y % size = 0 ∧ groupIn sp y n = true
      let off (y : Int) : Nat := groupOff sp s.cur.group y.toNat
      ((s.cur.second = true ∨ checked (if one then size else 64 * size) ∧ s.dstHolds data = false ∧ s.dstFaults data = []) → PortsApart [addr] data →
        Completes (exec (x.1 h data addr imm f) s) fun t =>
          let lane (l : Fin 64) : BitVec 32 := match a with
            | none => 0
            | some y => loadLane f (s.pre.read sp (off y + (if one then 0 else l.val * size)) size)
          EntryLeaves s t x.2.2.2 h.cls h.rot data [addr] (Vec.ofFn lane) (s.lanes h.vp) []) ∧
      ((s.cur.second = true ∨ checked (64 * size) ∧ s.srcHolds data = false ∧ s.srcRewrite data = none ∧ s.srcFaults data = []) →
        Completes (exec (x.2.1 h data addr imm f) s) fun t =>
          EntryQueues s t [addr, data] .zero (match a with
            | none => []
            | some y =>
              let r := vecBytes (off y) f (s.srcVec h.rot data) (s.lanes h.vp)
              (.bytes sp r.1 :: (entryRecords s (x.2.2.2 + 4) (r.2.map fun n => (n.1, n.2, false))).map GWrite.post).map fun w => (dueOf s h.cls, w))) ∧
      (∀ y, s.cur.second = false → s.cur.trap = none → s.cur.slot = .v0 ∨ s.cur.slot = .v1 → s.addrFaults sp addr = [] → a = some y → y % size ≠ 0 →
        let cause : TrapInfo := ⟨.misaligned, 0, .ofInt 64 y, slotCode s.cur.slot, ⟨s.cur.group.val, Nat.lt_trans s.cur.group.isLt (by decide)⟩, false, none⟩
        let raised : State := { s with cur := { s.cur with trap := some cause } }
        (s.dstHolds data = false → s.dstFaults data = [] → exec (x.1 h data addr imm f) s = .next raised) ∧
        (s.srcHolds data = false → s.srcRewrite data = none → s.srcFaults data = [] → exec (x.2.1 h data addr imm f) s = .next raised))

/-- R249, R250: reads of a plane prefix and writes of a whole block, by space. A read rounds the prefix of k planes and, as INT32, delivers the
exponent field in a scalar too; a write stores the block's header and all P plane rows. Choices of the model in it: log 18. -/
def Obligations.PlanePrefixesAndBlocks : Prop :=
  ∀ x ∈ ([(.pldW, .pstW, .wb, 0x88), (.pldA, .pstA, .ab, 0x89), (.pldY, .pstY, .gal, 0x8A)] :
      List ((MHead → Operand → Operand → BitVec 16 → BitVec 4 → Bool → Fmt → Instr) ×
        (MHead → Operand → Operand → BitVec 16 → BitVec 4 → Bool → Fmt → Instr) × Space × BitVec 8)),
    ∀ s h data addr (imm : BitVec 16) k rne f,
      let sp := x.2.2.1
      let p := imm.toNat / 4096
      let sx : Fin 16 := Fin.ofNat 16 (imm.toNat / 256)
      let row : Option RowAddr := (s.addrBase addr).map fun b =>
        let y := b + (imm.setWidth 8).toInt
        ⟨y, (y - y % 128).toNat, (y % 128).toNat⟩
      let good : Prop := s.addrFaults sp addr = [] ∧ 1 ≤ p ∧ p ≤ 12 ∧ k.toNat ≤ p ∧
        ∀ r, row = some r → r.row < 64 ∧ groupIn sp (r.a - r.a % 128) (128 + 1024 * p) = true
      let exponent (r : RowAddr) : Nat := headerE (s.pre.npfHeader sp r.tile r.row)
      ((s.cur.second = true ∨ good ∧ s.dstHolds data = false ∧ s.dstFaults data = [] ∧ ∀ r, row = some r → exponent r ≠ 255) → PortsApart [addr] data →
        Completes (exec (x.1 h data addr imm k rne f) s) fun t =>
          let lane (l : Fin 64) : BitVec 32 := match row with
            | none => 0
            | some r =>
              let m := (s.pre.npfPrefix sp r.tile r.row p k.toNat rne).getD l.val 0
              if f = .int32 then .ofInt 32 m else npfValue (exponent r) k.toNat m
          let v : Lanes := Vec.ofFn lane
          EntryQueues s t [addr] data ((destWrites s h.rot data v (s.lanes h.vp) ++
            (entryRecords s x.2.2.2 (destNotes s data v (s.lanes h.vp))).map GWrite.post ++
            (if f = Fmt.int32 then [GWrite.scalar sx (.ofNat 32 ((row.map exponent).getD 0))] else [])).map fun w => (dueOf s h.cls, w))) ∧
      ((s.cur.second = true ∨ good ∧ s.srcHolds data = false ∧ s.srcRewrite data = none ∧ s.srcFaults data = []) →
        Completes (exec (x.2.1 h data addr imm k rne f) s) fun t =>
          EntryQueues s t [addr, data] .zero (match row with
            | none => []
            | some r =>
              let vals := (List.finRange 64).map fun l => if (s.lanes h.vp).getLsbD l.val then (s.srcVec h.rot data)[l] else 0
              let blk := pstBlock f vals k.toNat rne ((s.grp.scal[sx]).toNat % 256)
              let hdr := headerOff r.tile r.row
              let rows := (List.range p).flatMap fun j =>
                cellsAt (planeRowOff r.tile r.row j) (if j < k.toNat then planeRow k.toNat j blk.ms else .replicate 16 0)
              (.bytes sp (cellsAt hdr (bytesLE 2 blk.hdr.toNat) ++ rows) :: (blockRecords s sp hdr blk.nan blk.sat).map GWrite.post).map fun w =>
                (dueOf s h.cls, w)))

/-- R252-R254: an optimiser update reads its block at issue and writes its lines one a cycle, the last at the end of the class latency; the
momentum form also writes the new momentum into its matrix vector. Choices of the model in it: log 18. -/
def Obligations.OptimiserUpdates : Prop :=
  ∀ s h data addr (imm : BitVec 16) (k : BitVec 4) rne,
    let sx : Fin 16 := Fin.ofNat 16 (imm.toNat / 256)
    let row : Option RowAddr := (s.addrBase addr).map fun b =>
      let y := b + (imm.setWidth 8).toInt
      ⟨y, (y - y % 128).toNat, (y % 128).toNat⟩
    let good : Prop := s.addrFaults .wb addr = [] ∧ ∀ r, row = some r → r.row < 64 ∧ groupIn .wb (r.a - r.a % 128) (128 + 1024 * k.toNat) = true ∧
      headerE (s.pre.npfHeader .wb r.tile r.row) ≠ 255
    let written (alpha : BitVec 32) (u : Lanes) : List (Nat × GWrite) := match row with
      | none => []
      | some r =>
        let z := (List.finRange 64).map fun l =>
          (fpDecode fp32 alpha.toNat).mul (if (s.lanes h.vp).getLsbD l.val then fpDecode fp32 (u[l]).toNat else .fin false 0 0)
        let up := updateBlock r.tile r.row k.toNat rne (s.pre.npfHeader .wb r.tile r.row)
          (mantissas (s.pre.npfRows .wb r.tile r.row k.toNat)) z
        (up.lines.zipIdx.map fun l => (dueOf s h.cls - up.lines.length + 1 + l.2, .npf .wb (cellsAt l.1.1 l.1.2))) ++
          (blockRecords s .wb (headerOff r.tile r.row) up.nan up.sat).map fun y => (dueOf s h.cls, .post y)
    ((s.cur.second = true ∨ good ∧ s.srcHolds data = false ∧ s.srcRewrite data = none ∧ s.srcFaults data = []) →
      Completes (exec (.pupdAdd h data addr imm k rne) s) (fun t =>
        EntryQueues s t [addr, data] .zero (written 0x3F800000 (s.srcVec h.rot data))) ∧
      Completes (exec (.pupdAxpy h data addr imm k rne) s) fun t =>
        EntryQueues s t [addr, data] .zero (written s.grp.scal[sx] (s.srcVec h.rot data))) ∧
    ∀ m dir i, data = .mat m dir i → s.cur.second = true ∨ good →
      Completes (exec (.pupdMom h data addr imm k rne) s) fun t =>
        let w (l : Fin 64) : FpRes := fpFma fp32 false false (s.grp.scal[sx + 1]).toNat ((s.grp.vec m dir (s.index h.rot i))[l]).toNat
          ((s.grp.vec m dir (s.index h.rot i + 1))[l]).toNat
        let u : Lanes := Vec.ofFn fun l => .ofNat 32 (w l).bits
        let notes (l : Fin 64) : List LaneNote := (if (w l).invalid then [(1, l, false)] else []) ++ if (w l).overflow then [(2, l, false)] else []
        EntryQueues s t [addr] .zero (written s.grp.scal[sx] u ++ if row.isNone then [] else
          ((.mat m dir (s.index h.rot i) u (s.lanes h.vp) : GWrite) :: (entryRecords s 0x90
            (((List.finRange 64).filter fun l => (s.lanes h.vp).getLsbD l.val).flatMap notes)).map GWrite.post).map fun y => (dueOf s h.cls, y))

/-- R239, R243, R255: the spill stack moves whole vectors between its bounds, else STACK_BOUNDS; ring pointers advance modulo twice the slots
at the end of the issue cycle, and hold the bundle while the ring cannot give or take so many; ports are set back or moved at that end too. -/
def Obligations.StacksRingsAndPorts : Prop :=
  ∀ s h data addr (imm : BitVec 16) (count : BitVec 6),
    let n := count.toNat + 1
    let sp := s.gspHere
    let me := s.cur.group
    let moved (t : State) (v : Nat) (ws : List GWrite) : Prop := OnlyBody s t s.cur.core ∧ SameBytes s t ∧
      t.me = { s.me with groups := t.me.groups, writes := t.me.writes, pend := t.me.pend } ∧ (∀ g, g ≠ me → t.me.groups[g] = s.me.groups[g]) ∧
      t.me.groups[me] = { s.me.groups[me] with gsp := .ofNat 32 v } ∧
      t.me.pend = s.me.pend ++ ws.map fun w => ⟨dueOf s h.cls, s.cycle + 2, s.cur.slot == .v1, me, w, s.src⟩
    let bounds : TrapInfo := ⟨.stackBounds, 0, .ofNat 64 sp, slotCode s.cur.slot, ⟨me.val, Nat.lt_trans me.isLt (by decide)⟩, false, none⟩
    let fails (i : Instr) : Prop := s.cur.second = false → s.cur.trap = none → s.cur.slot = .v0 ∨ s.cur.slot = .v1 →
      exec i s = .next { s with cur := { s.cur with trap := some bounds } }
    (∀ m dir i, data = .mat m dir i →
      (s.cur.second = true ∨ s.grp.gbase.toNat + 256 * n ≤ sp → Completes (exec (.pushm h data count) s) fun t => moved t (sp - 256 * n)
        [.bytes .gal (cellsAt (sp - 256 * n) ((List.range n).flatMap fun j =>
          (s.grp.vec m dir (s.index h.rot i + Fin.ofNat 64 j)).toList.flatMap fun y => bytesLE 4 y.toNat))]) ∧
      (s.cur.second = true ∨ sp + 256 * n ≤ s.grp.glimit.toNat → Completes (exec (.popm h data count) s) fun t => moved t (sp + 256 * n)
        ((List.range n).map fun j => .mat m dir (s.index h.rot i + Fin.ofNat 64 j)
          (Vec.ofFn fun l => .ofNat 32 (natLE (s.pre.read .gal (sp + 256 * j + 4 * l.val) 4))) (s.lanes h.vp))) ∧
      (sp < 256 * n + s.grp.gbase.toNat → fails (.pushm h data count)) ∧ (s.grp.glimit.toNat < sp + 256 * n → fails (.popm h data count))) ∧
    (let mine := s.noteAdvance true data imm.toNat ++ s.noteAdvance false addr imm.toNat
      let good : Prop := s.advanceFaults imm.toNat data = [] ∧ s.advanceFaults imm.toNat addr = []
      let v1 : Bool := s.cur.slot == .v1
      (s.cur.second = true ∨ good ∧ s.advanceHolds (s.cur.advances ++ mine) = false → Completes (exec (.cbadv h data addr imm) s) fun t =>
        SameBytes s t ∧ ∃ u, u = { s with cur := { s.cur with advances := s.cur.advances ++ mine } } ∧ Becomes u t fun b => { b with
          pend := b.pend ++ mine.map fun x => ⟨s.cycle, s.cycle + 2, v1, me, .move x.2.1 x.2.2.1 x.2.2.2, s.src⟩ }) ∧
      (s.cur.second = false → good → s.advanceHolds (s.cur.advances ++ mine) = true →
        exec (.cbadv h data addr imm) s = .next { s with cur := { s.cur with hold := some .stall } })) ∧
    (∀ (b : Body) now due issue v1 g prod (m : Fin 16) amount src,
      let x := b.performPending now ⟨due, issue, v1, g, .move prod m amount, src⟩
      x = { b with cbs := x.cbs } ∧ (∀ o, o ≠ m → x.cbs[o] = b.cbs[o]) ∧ (b.cbs[m].cfg = none → x.cbs[m] = b.cbs[m]) ∧
        ∀ c, b.cbs[m].cfg = some c → x.cbs[m] = ⟨some c, if prod then (b.cbs[m].prod + amount) % (2 * c.n) else b.cbs[m].prod,
          if prod then b.cbs[m].cons else (b.cbs[m].cons + amount) % (2 * c.n)⟩) ∧
    (s.cur.second = true ∨ s.seekFaults true data = [] ∧ s.seekFaults false addr = [] →
      let seeks (step : Option Int) : List (Nat × GWrite) := [data, addr].filterMap fun o => match o with
        | .port n => some (s.cycle, .seek n step)
        | _ => none
      Completes (exec (.qrst h data addr) s) (fun t => EntryQueues s t [] .zero (seeks none)) ∧
      Completes (exec (.qadv h data addr imm) s) fun t => EntryQueues s t [] .zero (seeks (some imm.toInt)))

/-- R309, R310, R292-R295: entries start a nest or a shadow load of their own group as a command of the hazard unit, which entries of one
bundle share through their token, and which is recorded even where 64 are (log 44); `mxq.g` reads the tile. A token of another bundle raises
TOKEN_MISUSE, a busy tile ILLEGAL_OP. Choices of the model in it: logs 17, 44. -/
def Obligations.MatrixEntries : Prop :=
  ∀ s h d (split : BitVec 6) tv (tok sn : Fin 16) ph kw,
    let me := s.cur.group
    let tile := s.me.groups[me].tile
    let nest := s.grp.tile.shadowNest
    let tk : Option (Fin 16) := if tv then some tok else none
    let range := loadRange (s.grp.scal[sn]).toNat kw ph
    let raises (i : Instr) (c : Cause) : Prop := s.cur.trap = none → s.cur.slot = .v0 ∨ s.cur.slot = .v1 →
      let cause : TrapInfo := ⟨c, 0, 0, slotCode s.cur.slot, ⟨me.val, Nat.lt_trans me.isLt (by decide)⟩, false, none⟩
      exec i s = .next { s with cur := { s.cur with trap := some cause } }
    let started (i : Instr) (reads writes : List Range) (f : Nat → Tile → Tile) : Prop :=
      ((tv = true → s.me.tokenBusy tok = false ∧ ∀ a, s.me.asked = some a → a.tokens.getLsbD tok.val = false) → Completes (exec i s) fun t =>
        Issues s t ⟨s.me.nextCommand, 3, tk, s.cur.hdr, reads, writes, [], true, false, s.issueNo, s.src true⟩ fun y z =>
          z = { y with groups := z.groups, tileLines := z.tileLines } ∧ ∀ x : GroupId, z.groups[x] =
            if x = me then { y.groups[x] with tile := f s.me.nextCommand y.groups[x].tile } else y.groups[x]) ∧
      (∀ c, tv = true → s.bundleCommand tok = some c → (∀ a, s.me.asked = some a → a.tokens.getLsbD tok.val = false) →
        Completes (exec i s) fun t => SameBytes s t ∧ OnlyBody s t s.cur.core ∧
        t.me = { s.me with commands := t.me.commands, groups := t.me.groups, tileLines := t.me.tileLines } ∧
        t.me.commands = (s.me.commands.map fun k => if k.id = c.id then { k with reads := k.reads ++ reads, writes := k.writes ++ writes } else k) ∧
        ∀ x : GroupId, t.me.groups[x] = if x = me then { s.me.groups[x] with tile := f c.id s.me.groups[x].tile } else s.me.groups[x])
    (tile.busy = false → startCause nest tk = none → started (.mxgoG h split tv tok) (s.pre.nestRanges nest me).1 (s.pre.nestRanges nest me).2 fun id t => { t with
      activeNest := nest, passes := 0
      run := some { nest, split, command := id, phase := .start (s.cycle + 1), entry := true, baddr := s.cur.hdr, issued := s.cycle
                    v1 := s.cur.slot == .v1, src := s.src true } }) ∧
    ((s.grp.scal[sn]).toNat % 128 = 0 → range.hi ≤ 0x600000 → tile.takesLoad = true →
      started (.mxldsG h sn ph kw tv tok) [range] [] fun id t => { t with load := some ⟨s.cycle, id, (s.grp.scal[sn]).toNat, kw, ph, []⟩ }) ∧
    (EntryActs s [] [d] → Completes (exec (.mxqG h d) s) fun t =>
      EntryLeaves s t 0xC2 h.cls false d [] (s.grp.tile.queryVec h.mod) (s.lanes h.vp) []) ∧
    (tv = true → (s.me.tokenBusy tok = true ∧ s.bundleCommand tok = none ∨ ∃ a, s.me.asked = some a ∧ a.tokens.getLsbD tok.val = true) →
      raises (.mxgoG h split tv tok) .tokenMisuse ∧ raises (.mxldsG h sn ph kw tv tok) .tokenMisuse) ∧
    (tv = false → tile.busy = true → raises (.mxgoG h split tv tok) .illegalOp) ∧
    (tv = false → (s.grp.scal[sn]).toNat % 128 = 0 → range.hi ≤ 0x600000 → tile.takesLoad = false → raises (.mxldsG h sn ph kw tv tok) .illegalOp)

/-! What the units do on their own -/

/-- R32, R63, R138, R236, R242, R251, R253: a waiting write is performed as its destination says and nothing else changes; of two writes
of one cycle to one register the later in order prevails; a set of a flag prevails over a clear; ports and groups fetch; a held bundle
is retried. Choices of the model in it: logs 5, 16, 43. -/
def Obligations.LaneGroupEvents : Prop := ∀ (s : State) (c : CoreId),
  let b := s.body c
  (∀ p : Pending, b.tableOps = [] → b.locals = [] → b.posts = [] → b.pend = [p] → p.due ≤ s.cycle → p.w.isNpf = false →
    Completes (exec (.entryWriteback c) s) fun t => OnlyBody s t c ∧
      match p.w with
      | .mat m dir i v mask => t.body c = { b with
          pend := [], groups := Vec.modify b.groups p.group (·.setVec m dir i v mask), writes := (t.body c).writes }
      | .scalar n v => t.body c = { b with
          pend := [], writes := (t.body c).writes
          groups := Vec.modify b.groups p.group fun g => { g with scal := g.scal.set n v } }
      | .lat v mask => t.body c = { b with pend := [], groups := (t.body c).groups, writes := (t.body c).writes } ∧
          (∀ g, g ≠ p.group → (t.body c).groups[g] = b.groups[g]) ∧
          (t.body c).groups[p.group] = { b.groups[p.group] with latch := (t.body c).groups[p.group].latch } ∧
          ∀ l : Fin 64, (t.body c).groups[p.group].latch[l] = if mask.getLsbD l.val then v[l] else b.groups[p.group].latch[l]
      | .vp n v mask => t.body c = { b with pend := [], groups := (t.body c).groups, writes := (t.body c).writes } ∧
          (∀ g, g ≠ p.group → (t.body c).groups[g] = b.groups[g]) ∧
          (t.body c).groups[p.group] = { b.groups[p.group] with vp := (t.body c).groups[p.group].vp } ∧
          (∀ k, k ≠ n → (t.body c).groups[p.group].vp[k] = b.groups[p.group].vp[k]) ∧
          ∀ l : Fin 64, (t.body c).groups[p.group].vp[n].getLsbD l.val =
            if mask.getLsbD l.val then v.getLsbD l.val else b.groups[p.group].vp[n].getLsbD l.val
      | .bytes sp bs => t.body c = { b.setSpace sp (writeCells (b.space sp) bs) with pend := [], writes := (t.body c).writes }
      | .seek n step => t.body c = { b with
          pend := []
          groups := Vec.modify b.groups p.group fun g =>
            { g with ports := Vec.modify g.ports n fun q => q.seek (decide (n.val < 8)) step s.cycle } }
      | .move prod n amount => t.body c = { b with pend := [], cbs := Vec.modify b.cbs n (·.move prod amount) }
      | .post r => t.body c = (if b.stq.length < 256 then { b with pend := [], stq := b.stq ++ [r] }
          else if b.sys.stqDrop = BitVec.allOnes 32 then { b with pend := [] }
          else { b with pend := [], sys := { b.sys with stqDrop := b.sys.stqDrop + 1 } })
      | .npf _ _ => False) ∧
  (∀ (p q : Pending) (n : Fin 16) (v w : BitVec 32), b.tableOps = [] → b.locals = [] → b.posts = [] → b.pend = [p, q] → p.due ≤ s.cycle → q.due ≤ s.cycle →
    p.w = .scalar n v → q.w = .scalar n w → p.group = q.group →
    Completes (exec (.entryWriteback c) s) fun t => OnlyBody s t c ∧ (t.body c).pend = [] ∧
      (t.body c).groups[p.group].scal[n] = (if q.issue < p.issue ∨ (q.issue = p.issue ∧ q.v1 = false ∧ p.v1 = true) then v else w)) ∧
  (∀ (p : Pending) (sp : Space) (bs : List (Nat × BitVec 8)), b.posts = [] → b.pend = [p] → p.due ≤ s.cycle → p.w = .npf sp bs →
    Completes (exec (.npfLineWrite c) s) fun t => OnlyBody s t c ∧
      t.body c = { b.setSpace sp (writeCells (b.space sp) bs) with pend := [], writes := (t.body c).writes }) ∧
  (Completes (exec (.flagRelease c) s) fun t => OnlyBody s t c ∧ SameBytes s t ∧
    t.body c = { b with brun := b.brun && !b.bhalting, bhalting := false, flagOps := b.flagOps.filter (s.cycle < ·.due), flags := (t.body c).flags } ∧
    ∀ n : Fin 16, ((∃ o ∈ b.flagOps, o.due ≤ s.cycle ∧ o.flag = n ∧ o.set = true) → (t.body c).flags[n] = true) ∧
      ((∀ o ∈ b.flagOps, o.due ≤ s.cycle → o.flag = n → o.set = false) → (∃ o ∈ b.flagOps, o.due ≤ s.cycle ∧ o.flag = n) → (t.body c).flags[n] = false) ∧
      ((∀ o ∈ b.flagOps, o.due ≤ s.cycle → o.flag ≠ n) → (t.body c).flags[n] = b.flags[n])) ∧
  (∀ (g : GroupId) (n : Fin 8) (k : PortCfg) (pos due : Nat),
    b.groups[g].ports[portNo n].cfg = some k → b.groups[g].ports[portNo n].toFetch = [(pos, due)] → due ≤ s.cycle →
    Completes (exec (.portFetch c g n) s) fun t => OnlyBody s t c ∧ SameBytes s t ∧
      t.body c = { b with groups := Vec.modify b.groups g fun x =>
        { x with ports := Vec.modify x.ports (portNo n) fun q => { q with fetched := q.fetched ++ [k.fetch b g pos], toFetch := [] } } }) ∧
  (∀ (g : GroupId) (n : Fin 16) (k : CbCfg), b.cbs[n].cfg = some k → b.cbs[n].filled k.n = 1 → (∀ v ∈ b.groups[g].staged, v.cb ≠ n) →
    Completes (exec (.cbStage c g n) s) fun t => OnlyBody s t c ∧ SameBytes s t ∧
      let ptr := b.cbs[n].cons % (2 * k.n)
      let v : Staged := ⟨n, ptr, b.readVec .gal (k.base + ptr % k.n * k.slotSize + g.val * k.groupStride) k.fmt, s.cycle + 4⟩
      t.body c = { b with groups := Vec.modify b.groups g fun x => { x with staged := x.staged ++ [v] } }) ∧
  (∀ at_, b.bretryAt = some at_ → at_ ≤ s.cycle → Completes (exec (.planeRetry c) s) fun t => OnlyBody s t c ∧ SameBytes s t ∧
    t.body c = { b with bretryAt := none, groups := (t.body c).groups } ∧
    ∀ g : GroupId, (t.body c).groups[g] = { b.groups[g] with ports := (t.body c).groups[g].ports } ∧
      ((∀ h ∈ b.bheld, h.1 ≠ g) → (t.body c).groups[g] = b.groups[g]))

/-- A change of one lane group's matrix tile. -/
def onTile (b : Body) (g : GroupId) (f : Tile → Tile) : Body := { b with groups := Vec.modify b.groups g fun x => { x with tile := f x.tile } }

/-- What a pass writes for lane l: the raw partial or the sum with the row there, saturated to 32 bits (R122, R283); in compare mode the rank, at most
65 535, with bit 31 set below the capacity (R299). And whether it saturated. -/
def PassWord (b : Body) (w : PassWrite) (l : Nat) : BitVec 32 × Prop :=
  let old : BitVec 32 := .ofNat 32 (natLE (b.read .acc (w.off + 4 * l) 4))
  let x := w.row.getD l 0
  match w.cap with
  | none =>
    let sum := (if w.add then old.toInt else 0) + x
    (.ofInt 32 (max (-(2 ^ 31)) (min (2 ^ 31 - 1) sum)), sum < -(2 ^ 31) ∨ 2 ^ 31 ≤ sum)
  | some cap =>
    let sum := (if w.add then ((old.setWidth 16).toNat : Int) else 0) + x
    let rank := max 0 (min 65535 sum)
    (.ofNat 32 (rank.toNat + if rank < cap then 2 ^ 31 else 0), 65536 ≤ sum)
/-- R283, R284, R289-R291, R296, R299, R300, R304: a pass checks its operands, reads one plane row a cycle and leaves its row for three cycles
later; rows are written or accumulated with saturation, at which the nest posts one INT_SAT; boundaries stop the nest, swap or go on; a load takes a
line a cycle and at its end makes a swap that waited for it. Choices of the model in it: logs 5, 17. -/
def Obligations.MatrixEvents : Prop := ∀ (s : State) (c : CoreId) (g : GroupId),
  let b := s.body c
  let k := b.groups[g].tile
  (∀ i ∈ [Instr.matrixPass c g, Instr.comparePass c g], ∀ (r : NestRun), k.run = some r →
    let ended (st : Stream) : Body :=
      let w : PassWrite := ⟨s.cycle + 4, g.val * 0x20000 + 256 * (r.nest.accRow r.pass).toNat, r.nest.adds,
        if r.nest.compare then some (r.nest[7].extractLsb' 48 16).toNat else none, passRow k r st⟩
      let ph : NestPhase := if r.pass + 1 = r.nest.passes then .drain else .boundary 0
      onTile b g fun k => { k with run := some { r with pass := r.pass + 1, phase := ph }, writes := k.writes ++ [w] }
    (∀ at_ cause addr, r.phase = .start at_ → at_ ≤ s.cycle → b.passFault r.nest r.pass = some (cause, addr) →
      (b.canPark = true → Completes (exec i s) fun t => OnlyBody s t c ∧
        (t.body c).groups[g].tile.run = some { r with phase := .drain } ∧ (∀ x, x ≠ g → (t.body c).groups[x] = b.groups[x]) ∧
        ∀ x, b.command r.command = some x → ∃ f, (t.body c).reports = b.reports ++ [f] ∧ f.cause = cause ∧ f.addr = .ofInt 56 addr ∧ f.tok = x.tok) ∧
      (b.canPark = false → Completes (exec i s) fun t => OnlyBody s t c ∧ t.body c = b)) ∧
    (∀ at_, r.phase = .start at_ → at_ ≤ s.cycle → b.passFault r.nest r.pass = none →
      Completes (exec i s) fun t => OnlyBody s t c ∧ SameBytes s t ∧
        let a := (r.nest.abAddr r.pass).toNat
        let st : Stream := ⟨s.cycle, headerE (b.npfHeader .ab (a - a % 128) (a % 128)), b.passMap (a - a % 128), []⟩
        if r.nest.planes = 1 then t.body c = ended { st with rows := [b.streamRow (a - a % 128) (a % 128) st.map 0] }
        else t.body c = onTile b g fun k => { k with run := some { r with
          phase := .stream { st with rows := [b.streamRow (a - a % 128) (a % 128) st.map 0] } } }) ∧
    (∀ st, r.phase = .stream st → st.start + st.rows.length ≤ s.cycle → st.rows.length + 1 = r.nest.planes →
      Completes (exec i s) fun t => OnlyBody s t c ∧ SameBytes s t ∧
        let a := (r.nest.abAddr r.pass).toNat
        t.body c = ended { st with rows := st.rows ++ [b.streamRow (a - a % 128) (a % 128) st.map st.rows.length] })) ∧
  (∀ (r : NestRun) (w : PassWrite), k.run = some r → k.writes = [w] → w.due ≤ s.cycle → w.row.length = 64 →
    Completes (exec (.passAccWrite c g) s) fun t => OnlyBody s t c ∧ SameBytes s t ∧ (t.body c).groups[g].tile.writes = [] ∧
      (t.body c).groups[g].tile.passes = k.passes + 1 ∧ (r.phase = .drain → (t.body c).groups[g].tile.run = none) ∧
      (t.body c).pend = b.pend ++ [⟨s.cycle, r.issued + 2, r.v1, g, .bytes .acc
        (((List.range 64).flatMap fun l => bytesLE 4 (PassWord b w l).1.toNat).zipIdx.map fun (x, i) => (w.off + i, x)), r.src⟩] ∧
      (r.satPosted = true ∨ (∀ l < 64, ¬(PassWord b w l).2) → (t.body c).posts = b.posts) ∧
      ∀ l < 64, r.satPosted = false → (PassWord b w l).2 → (∀ k < l, ¬(PassWord b w k).2) →
        (t.body c).posts = b.posts ++ [(3, statRecord 4 r.entry (.ofNat 5 g.val) (.ofNat 6 l) 3 r.baddr 0xC0)]) ∧
  (∀ (r : NestRun) (n : Nat), k.run = some r → r.phase = .boundary n →
    let ls := r.nest.boundaries r.pass
    let granule : Prop := ∃ l ∈ ls, r.split.getLsbD l = true
    let asked : Prop := k.swapPending = true ∧ r.nest.compare = false ∧ (granule ∨ r.split = 0 ∧ ls ≠ [])
    let swaps : Prop := asked ∨ (∃ l ∈ ls, levelSwaps (r.nest.level l) = true) ∧ k.swappedAt ≠ some s.cycle
    let stops : Prop := r.stopReq = true ∧ (granule ∨ r.split = 0)
    let goes (p : Body → Prop) : Prop := Completes (exec (.levelBoundary c g) s) fun t => OnlyBody s t c ∧ SameBytes s t ∧ p (t.body c)
    (stops → goes fun x => x = onTile b g fun k => { k with run := some { r with phase := .drain } }) ∧
    (¬stops → (b.stopping = true ∧ granule → goes fun x => x = onTile b g fun k => { k with run := some { r with phase := .stopped n } }) ∧
      (¬(b.stopping = true ∧ granule) → ls.length ≤ n →
        (¬swaps → goes fun x => x = onTile b g fun k => { k with run := some { r with phase := .start (s.cycle + 1) } }) ∧
        (swaps → k.load.isSome = true → goes fun x => x = b) ∧
        (swaps → k.load = none → goes fun x => x = { onTile b g (fun k => { k with
            active := k.shadow, shadow := k.active, swapPending := (x.groups[g]).tile.swapPending, swapAtLoad := false
            run := some { r with phase := .start (s.cycle + 1) } }) with tileLines := x.tileLines } ∧
          (asked → (x.groups[g]).tile.swapPending = false) ∧ (¬asked → (x.groups[g]).tile.swapPending = k.swapPending))))) ∧
  (∀ l : ShadowLoad, k.load = some l → l.issued + l.lines.length < s.cycle →
    let i := l.lines.length
    let off := if i = 0 then l.base else l.base + 128 + 1024 * (if l.ph then 4 else 0) + 128 * (i - 1)
    let lines := l.lines ++ [b.read .wb off 128]
    Completes (exec (.shadowLoadDone c g) s) fun t => OnlyBody s t c ∧ SameBytes s t ∧
      if lines.length ≤ 8 * (l.kw.val + 1) then t.body c = onTile b g fun k => { k with load := some { l with lines } }
      else (t.body c).groups[g].tile.load = none ∧ (∀ x, x ≠ g → (t.body c).groups[x] = b.groups[x]) ∧
        let swaps : Prop := k.swapPending = true ∧ (k.run = none ∨ k.swapAtLoad = true ∧ ∀ r, k.run = some r → r.nest.compare = false)
        (¬swaps → (t.body c).groups[g].tile.shadow = loadedStore l.kw lines ∧ (t.body c).groups[g].tile.active = k.active) ∧
        (swaps → (t.body c).groups[g].tile.active = loadedStore l.kw lines ∧ (t.body c).groups[g].tile.shadow = k.active))

/-- R34, R36-R38, R45-R48, R53, R57, R60, R75, R188, R481: decode and fetch causes trap the stream that meets them, landings clear LANDCNT and
end the interval, parked faults, stops, errors and retirement act as described.
Choices of the model in it: logs 14, 15, 24, 37, 39, 42. -/
def Obligations.ControlEvents : Prop := ∀ (s : State) (c : CoreId),
  let b := s.body c
  let trapped (t : State) (i : TrapInfo) : Prop := (t.body c).handler = true ∧ (t.body c).sys.tbaddr = b.pc ∧ (t.body c).sys.tret = b.pc &&& ~~~3#56 ∧
    (t.body c).pc = b.sys.tvec.setWidth 56 ∧ (t.body c).sys.taddr = i.taddr.setWidth 56 ∧ (t.body c).sys.tcause = i.aux ++ i.cause.code ∧
    (t.body c).sys.tstat = 0#4 ++ BitVec.ofFin (w := 4) i.slot ++ BitVec.ofFin (w := 5) i.group ++ 0#3 ∧ (t.body c).g = b.g ∧ SameBytes s t
  let btrapped (t : State) (i : TrapInfo) : Prop := OnlyBody s t c ∧ SameBytes s t ∧ (t.body c).btrap = some i ∧ (t.body c).brun = false ∧
    (t.body c).g = b.g ∧ (t.body c).groups = b.groups
  (b.inPhase = false → b.handler = false → b.noHandler = false →
    Completes (exec (.illegalBundle c false) s) (fun t => trapped t { cause := .illegalBundle }) ∧
    (∀ slot, Completes (exec (.reservedOpcode c false slot) s) fun t => trapped t { cause := .illegalOp, slot })) ∧
  Completes (exec (.illegalBundle c true) s) (fun t => btrapped t { cause := .illegalBundle }) ∧
  (∀ slot, Completes (exec (.reservedOpcode c true slot) s) fun t => btrapped t { cause := .illegalOp, slot }) ∧
  (∀ f ∈ b.fetchFaults, f.1 = true → b.fetchFaults = [f] →
    Completes (exec (.fetchFault c true) s) fun t => btrapped t { cause := f.2.2, taddr := BitVec.ofNat 64 f.2.1 } ∧ (t.body c).fetchFaults = []) ∧
  (∀ f ∈ b.fetchFaults, f.1 = false → b.fetchFaults = [f] → b.inPhase = false → b.handler = false → b.noHandler = false →
    Completes (exec (.fetchFault c false) s) fun t =>
      trapped t { cause := f.2.2, taddr := BitVec.ofNat 64 f.2.1 } ∧ (t.body c).fetchFaults = []) ∧
  (b.inPhase = true → Completes (exec (.landing c) s) fun t => OnlyBody s t c ∧ SameBytes s t ∧
    t.body c = { b with sys := { b.sys with landCnt := 0 } }) ∧
  (b.inPhase = false → s.cores[c].rerun = none → b.faults = [] → s.mayStop c = false → Completes (exec (.landing c) s) fun t =>
    SameBytes s t ∧ (t.body c).sys.landCnt = 0 ∧ (t.body c).held = [] ∧ (t.body c).pc = b.pc ∧ (t.body c).g = b.g ∧
    t.cores[c].chk = t.body c ∧ (t.task c).halted = (s.task c).halted ∧ t.cores[c].journal = [] ∧ ∀ r ∈ b.held, ∃ r' ∈ t.requests, r'.id = r.id ∧ r'.va = r.va ∧ r'.op = r.op) ∧
  (∀ f, b.inPhase = false → s.cores[c].rerun = none → b.faults = [f] → b.handler = false → b.noHandler = false →
    Completes (exec (.landing c) s) fun t => SameBytes s t ∧ (t.body c).sys.landCnt = 0 ∧ (t.body c).faults = [] ∧ (t.body c).handler = true ∧
      (t.body c).sys.tcause = BitVec.ofNat 10 f.engine.val ++ f.cause.code ∧ (t.body c).sys.tbaddr = f.baddr ∧
      (t.body c).sys.tret = b.pc &&& ~~~3#56 ∧ (t.body c).sys.taddr = f.addr ∧ (t.body c).sys.tstat.getLsbD 12 = true) ∧
  (b.inPhase = false → s.cores[c].rerun = none → b.faults = [] → s.mayStop c = true → Completes (exec (.landing c) s) fun t =>
    SameBytes s t ∧ (t.task c).halted = true ∧ (t.body c).stopping = true ∧ (t.body c).pc = b.pc) ∧
  (Completes (exec (.stopRequest c) s) fun t => SameBytes s t ∧ (t.task c).stopReq = true ∧
    ((t.task c).stopAfter = if b.sys.flipAt.toNat ≠ 0 ∧ s.cycle ≤ b.sys.flipAt.toNat ∧ b.sys.flipAt.toNat ≤ s.cycle + b.sys.landMax.toNat
      then b.sys.flipAt.toNat else 0)) ∧
  (∀ (k : Nat) (x : Team), s.team? k = some x → x.cores = [c] → (s.task c).waits = true → s.mayStop c = true → (s.task c).stopAfter ≠ 0 →
    Completes (exec (.flipatReached k) s) fun t => SameBytes s t ∧ (t.task c).halted = true ∧ (t.body c).stopping = true ∧ (t.body c).asked = none) ∧
  ((s.task c).state ≠ some .merging → b.inPhase = false → b.bracket = false → b.bbracket = false → b.busy = none → s.cores[c].rerun = none →
    s.cores[c].journalFull = false → s.cores[c].arrived = [] → Completes (exec (.uncorrectableError c) s) fun t => SameBytes s { t with cores := s.cores } ∧
      t.body c = (s.cores[c].chk.shift (s.cycle - s.cores[c].chkAt)).refetch s.cycle ∧ t.cores[c].rerun = some .first ∧
      t.cores[c].errors = s.cores[c].errors ++ [s.epoch + s.cycle] ∧ (∃ e ∈ t.log, e.kind = .rollback ∧ e.unit = c.val ∧ e.at_ = s.epoch + s.cycle)) ∧
  (s.cores[c].rerun ≠ none → (s.task c).state ≠ some .merging → b.inPhase = false → b.bracket = false → b.bbracket = false → b.busy = none →
    Completes (exec (.uncorrectableError c) s) fun t => t.cores[c].retiring = true ∧ t.cores[c].disagreed = true) ∧
  (∀ r rest, b.reports = r :: rest → b.faults.length < 64 → Completes (exec (.engineFaultReport c) s) fun t => OnlyBody s t c ∧ SameBytes s t ∧
    t.body c = { b with faults := b.faults ++ [r], reports := rest }) ∧
  (∀ tok : Fin 16, Completes (exec (.tokenIdle c tok) s) fun t => OnlyBody s t c ∧ SameBytes s t ∧
    t.body c = { b with commands := (t.body c).commands } ∧ ∀ x, x ∈ (t.body c).commands ↔ x ∈ b.commands ∧
      (x.tok = some tok → x.running = true ∨ s.unacked c x.id = true ∨ ∃ r ∈ b.reports, r.tok = x.tok)) ∧
  ((s.task c).stopped = false → (s.task c).halted = true → b.stopping = true → s.quiet c = true → b.teamFault = none → b.held = [] →
    s.cores[c].rerun = none → (∀ r ∈ s.requests, r.from c = false) → Completes (exec (.coreStop c) s) fun t => SameBytes s t ∧ (t.task c).stopped = true ∧
      (t.body c).g = b.g ∧ (t.body c).pc = b.pc) ∧
  (s.cores[c].retired = false → s.cores[c].retiring = true → s.teamOf c = none → Completes (exec (.coreRetire c) s) fun t => SameBytes s t ∧
    t.cores[c].retired = true ∧ t.body c = b ∧ (∀ d, d ≠ c → t.cores[d] = s.cores[d]) ∧ ∃ e ∈ t.log, e.kind = .retire ∧ e.unit = c.val)

/-- What a copy has read of n bytes from an address on: local bytes as they are, or what the line reads of a source that no captured view holds
have answered. -/
def Found (s : State) (c : CoreId) (u : Fin 2) (x : CopyCmd) (round a n : Nat) (bs : List (BitVec 8)) : Prop :=
  let j : Fin 3 := ⟨u.val, by omega⟩
  (x.ssp ≠ .glb ∧ bs = (linePieces a n).flatMap fun p => (s.body c).read x.ssp p.1 p.2) ∨
  (x.ssp = .glb ∧ bs.length = n ∧ (∀ p ∈ linePieces a n, findHeld x.views false p.1 p.2 = none) ∧
    (s.cores[c].copyLog[j]).length ≤ s.cores[c].copyNext[j] ∧ s.gather (.copy c u) (s.body c).sys.asn round (linePieces a n) = .ok bs)
/-- The first line of a row that is read is written: into the local space, or as an effect that is held; then the next line is due, or the row is
over and the next row or the end of the command comes. -/
def FirstLine (s t : State) (c : CoreId) (u : Fin 2) (x : CopyCmd) (bs : List (BitVec 8)) (v n : Nat) : Prop :=
  let b := s.body c
  SameBytes s t ∧
  (if x.dsp = .glb then (t.body c).locals = b.locals ∧ ∃ r, (t.body c).held = b.held ++ [r] ∧ r.va = BitVec.ofNat 56 v ∧
      r.op = .copyWrite (bs.take n) ∧ r.asn = b.sys.asn ∧ r.tok = x.tok ∧ r.command = some x.id
    else (t.body c).held = b.held ∧ (t.body c).locals = b.locals ++ [⟨u.val, x.dsp, v, bs.take n, x.src, [], false⟩]) ∧
  (if n < bs.length then (t.body c).copies[u].cmd = some { x with buf := some bs, off := n, attempts := 0, nextAt := s.cycle + s.lineCycles 1 }
    else if x.row + 1 < x.rows then ∃ y, (t.body c).copies[u].cmd = some y ∧ y.id = x.id ∧ y.row = x.row + 1 ∧ y.off = 0 ∧ y.buf = none ∧
      s.cycle < y.nextAt
    else (t.body c).copies[u].cmd = none ∧ (t.body c).copies[u].faulted = false ∧ (t.body c).copies[u].cancelled = x.cancel)
/-- The line may be written now: one of a global destination lies in no captured view, and there is a provisional line and a request for it. -/
def MayHand (s : State) (c : CoreId) (u : Fin 2) (x : CopyCmd) (bs : List (BitVec 8)) (v n : Nat) : Prop :=
  let b := s.body c
  x.dsp = .glb → findHeld x.views false v n = none ∧ b.sendsDirectly = false ∧ (s.forgetAways (.copy c u)).copyLines c u < 2048 ∧
    ∀ r : Request, r.asn = b.sys.asn → r.va = BitVec.ofNat 56 v → r.op = .copyWrite (bs.take n) → b.overfull r = false
/-- A row is read, its first line moves, or a cancelled copy ends between rows: a row of which a byte has been asked for is
finished first (R330, R332). -/
def RowsMove (s : State) (c : CoreId) : Prop :=
  let b := s.body c
  (∀ (u : Fin 2) (x : CopyCmd), s.copyDue c u = some x →
    (s.betweenRows c u x = true → x.cancel = true → Completes (exec (.copyRowMove c u) s) fun t => OnlyBody (s.forgetAways (.copy c u)) t c ∧ SameBytes s t ∧
      (t.body c).copies[u].cmd = none ∧ (t.body c).copies[u].cancelled = true ∧ (t.body c).copies[u].faulted = false ∧
      (t.body c).signals = b.signals ∧ (t.body c).locals = b.locals ∧ (t.body c).g = b.g) ∧
    (∀ (bs : List (BitVec 8)) (v n : Nat) (more : List (Nat × Nat)), (s.betweenRows c u x = true → x.cancel = false ∧ b.stopping = false) →
      x.buf = none → x.off = 0 → x.kind = 1 → x.ring = 0 →
      Found s c u x 0 (x.srcAt x.row).toNat x.srcBytes bs → linePieces (x.dstAt x.row).toNat bs.length = (v, n) :: more → MayHand s c u x bs v n →
      Completes (exec (.copyRowMove c u) s) fun t => FirstLine s t c u x bs v n) ∧
    (∀ (v n : Nat) (more : List (Nat × Nat)), x.cancel = false → b.stopping = false → x.buf = none → x.kind = 1 → x.ring = 0 → x.ssp = .glb →
      linePieces (x.srcAt x.row).toNat x.srcBytes = (v, n) :: more → (∀ p ∈ (v, n) :: more, findHeld x.views false p.1 p.2 = none) →
      (s.cores[c].copyLog[(⟨u.val, by omega⟩ : Fin 3)]).length ≤ s.cores[c].copyNext[(⟨u.val, by omega⟩ : Fin 3)] → s.copyLines c u < 2048 →
      (∀ a ∈ s.accesses, a.who ≠ .copy c u) →
      Completes (exec (.copyRowMove c u) s) fun t => t.cores = s.cores ∧ t.mem = s.mem ∧
        ∃ a, t.accesses = s.accesses ++ [a] ∧ a.who = .copy c u ∧ a.asn = b.sys.asn ∧ a.va = BitVec.ofNat 56 v ∧ a.n = n ∧ a.bytes = none ∧
          a.answer = none))
/-- A tile is read again, or its first line moves. -/
def TilesMove (s : State) (c : CoreId) : Prop :=
  (∀ (u : Fin 2) (x : CopyCmd) (bs again : List (BitVec 8)), s.copyDue c u = some x → 0 < x.attempts → x.off = 0 → x.kind = 2 → cdf x.d 17 1 = 0 →
    x.ring = 0 → x.ssp ≠ .glb → Found s c u x 0 (x.srcAt x.row).toNat (128 + 1024 * cdf x.d 24 4) bs → Found s c u x 1 (x.srcAt x.row).toNat 128 again →
    (badHeader bs again ≠ none → x.attempts + 1 < 256 → Completes (exec (.cptTileRetry c u) s) fun t => SameBytes s t ∧
      (t.body c).locals = (s.body c).locals ∧ (t.body c).held = (s.body c).held ∧
      ∃ y, (t.body c).copies[u].cmd = some y ∧ y.row = x.row ∧ y.attempts = x.attempts + 1 ∧ y.nextAt = s.cycle + 64) ∧
    (∀ v n more, (badHeader bs again = none ∨ 256 ≤ x.attempts + 1) → linePieces (x.dstAt x.row).toNat bs.length = (v, n) :: more →
      MayHand s c u x bs v n → Completes (exec (.cptTileRetry c u) s) fun t => FirstLine s t c u x bs v n))
/-- A table entry is stored, or refused with ARM bit 0 set. -/
def EntriesMove (s : State) (c : CoreId) : Prop :=
  let b := s.body c
  (∀ (u : Fin 2) (x : CopyCmd) (bs : List (BitVec 8)), s.copyDue c u = some x → x.kind = 3 → x.buf = some bs →
    let e := BitVec.ofNat 64 (natLE ((bs.drop x.off).take 8))
    let pos := (x.dstAt x.row).toNat + x.off / 8
    let g : GroupId := Fin.ofNat 24 (pos / 1024)
    let i : Fin 1024 := Fin.ofNat 1024 pos
    (b.back.reason i e = none → x.off + 8 < bs.length → Completes (exec (.cptabEntryWrite c u) s) fun t => OnlyBody s t c ∧ SameBytes s t ∧
      (t.body c).back.get g i = (b.back.store [g] i e).get g i ∧
      (∀ g' i', (g', i') ≠ (g, i) → (t.body c).back.get g' i' = b.back.get g' i') ∧
      (t.body c).copies[u].cmd = some { x with off := x.off + 8, nextAt := s.cycle + 1 }) ∧
    (∀ k why, b.back.reason i e = some why → b.sys.arm.getLsbD 0 = true → b.canPark = true → b.command x.id = some k →
      Completes (exec (.cptabEntryWrite c u) s) fun t => OnlyBody (s.forgetAways (.copy c u)) t c ∧ SameBytes s t ∧ (t.body c).back = b.back ∧
        (t.body c).copies[u].cmd = none ∧ (t.body c).copies[u].faulted = true ∧
        ∃ f, (t.body c).reports = b.reports ++ [f] ∧ f.cause = .tableRefused ∧ f.addr = BitVec.ofNat 56 pos ∧ f.aux = BitVec.ofNat 10 why))
/-- A ring advances by one slot. -/
def RingsAdvance (s : State) (c : CoreId) : Prop :=
  let b := s.body c
  (∀ (u : Fin 2) (prod : Bool) (n : Fin 16) (k : CbCfg), b.copies[u].advance = some (prod, n) → b.cbs[n].cfg = some k →
    Completes (exec (.ringAdvance c u) s) fun t => OnlyBody s t c ∧ SameBytes s t ∧ (t.body c).copies[u].advance = none ∧
      (t.body c).cbs[n].prod = (if prod then (b.cbs[n].prod + 1) % (2 * k.n) else b.cbs[n].prod) ∧
      (t.body c).cbs[n].cons = (if prod then b.cbs[n].cons else (b.cbs[n].cons + 1) % (2 * k.n)) ∧
      ∀ m, m ≠ n → (t.body c).cbs[m] = b.cbs[m])
/-- A complete copy arrives at its phaser, or posts its range. -/
def SignalsFollow (s : State) (c : CoreId) : Prop :=
  let b := s.body c
  (∀ (u : Fin 2) (x : CopySignal), b.signals = [x] → x.unit = u → b.command x.cmd.id = none → x.arrived = false →
    (cdf x.cmd.d 15 1 = 1 → cdf x.cmd.d 16 1 = 0 → b.sendsDirectly = false → (∀ r : Request, r.va = x.cmd.d.extractLsb' 256 56 → r.size = 64 → b.overfull r = false) →
      Completes (exec (.copyComplete c u) s) fun t => SameBytes s t ∧ (t.body c).signals = [] ∧ ∃ r, (t.body c).held = b.held ++ [r] ∧
        r.op = .arrive (b.sys.teamId.setWidth 16) ∧ r.va = x.cmd.d.extractLsb' 256 56) ∧
    (∀ (block : BitVec 512) (k : Nat) (y : Team), cdf x.cmd.d 15 1 = 0 → cdf x.cmd.d 16 1 = 1 → cdf x.cmd.d 320 32 < cdf x.cmd.d 352 32 →
      s.cores[c].issued = none → s.cores[c].posted ≤ s.cores[c].postNext → (s.task c).closed = false → (s.task c).template = some block → (s.task c).team = some k → s.usher.teams = [y] → y.id = k → s.rangeFrozen y = false → y.ranges.length < 64 →
      (s.task c).children < 255 → cdf x.cmd.d 352 32 - cdf x.cmd.d 320 32 ≤ 65536 * max 1 (cdf x.cmd.d 112 16) →
      Completes (exec (.copyComplete c u) s) fun t => SameBytes s t ∧ (t.body c).signals = [] ∧ (t.task c).children = (s.task c).children + 1 ∧
        ∃ z e, t.usher.teams = [z] ∧ z.ranges = y.ranges ++ [e] ∧ e.lo = cdf x.cmd.d 320 32 ∧ e.hi = cdf x.cmd.d 352 32 ∧
          e.grain = cdf x.cmd.d 112 16))
/-- A fault ends a copy. -/
def CopiesFault (s : State) (c : CoreId) : Prop :=
  let b := s.body c
  (∀ (u : Fin 2) (x : CopyCmd) (k : Command) (cause : Cause) (a : VA), b.copies[u].cmd = some x → x.fault = some (cause, a) → cause ≠ .machineCheck → b.canPark = true →
    b.command x.id = some k → Completes (exec (.copyFault c u) s) fun t => OnlyBody (s.forgetAways (.copy c u)) t c ∧ SameBytes s t ∧
      (t.body c).copies[u].cmd = none ∧ (t.body c).copies[u].faulted = true ∧ (t.body c).signals = b.signals ∧
      ∃ f, (t.body c).reports = b.reports ++ [f] ∧ f.cause = cause ∧ f.addr = a ∧ f.tok = k.tok ∧ f.baddr = k.baddr)
/-- A transform operation completes. -/
def TransformsComplete (s : State) (c : CoreId) : Prop :=
  let b := s.body c
  (∀ (u : Fin 4) (x : TransformOp), s.transformDue c u = some x →
    let left (t : State) (x : TransformOp) : Prop := OnlyBody s t c ∧ SameBytes s t ∧ (t.body c).transforms[u].op = none ∧
      (t.body c).transforms[u].faulted = false ∧ (t.body c).transforms[u].res = BitVec.ofNat 32 x.truncated ++ BitVec.ofNat 32 x.done
    (x.kind = 1 → x.cnt = 1 → Completes (exec (.transformComplete c u) s) fun t => left t { x with done := 1 } ∧
      let f := afield x.arg 0 4
      let vals := (List.range 64).map fun e => cvtValue f (b.read ((portSpace x.inp).getD .gal) (portOff x.inp + e * cvtSize f) (cvtSize f))
      let n := npfEncode vals x.planes (afield x.arg 12 2 == 1) (if afield x.arg 14 1 = 1 then some (afield x.arg 16 8) else none)
      let w (off : Nat) (bs : List (BitVec 8)) : LocalWrite := ⟨2, (portSpace x.out).getD .gal, off, bs, x.src, [], false⟩
      (t.body c).locals = b.locals ++ [w (headerOff (portOff x.out) 0) (bytesLE 2 n.hdr.toNat)] ++
        (List.range x.planes).map fun j => w (planeRowOff (portOff x.out) 0 j) (planeRow x.planes j n.ms)) ∧
    (∀ k, x.kind = 3 → x.buf = some k → x.cnt = 1 → Completes (exec (.transformComplete c u) s) fun t =>
      let r := packTile k (b.read ((portSpace x.inp).getD .gal) (portOff x.inp) (tileBytes k.p))
      left t { x with done := 1, truncated := if r.2 then 1 else 0 } ∧
        (t.body c).locals = b.locals ++ [⟨2, .ab, portOff x.out, r.1, x.src, [], false⟩]) ∧
    (x.kind = 4 ∨ x.kind = 5 → x.cnt = 1 →
      let from_ (col r : Nat) : Nat × Nat := transposed (astride x.arg 32) x.elem col r
      (64 * x.elem ≤ (astride x.arg 32).natAbs → ∀ col < 64, ∀ r < 64, from_ col r = (r, col)) ∧
      Completes (exec (.transformComplete c u) s) fun t => left t { x with done := 1 } ∧
        (t.body c).locals = b.locals ++ (List.range 64).map fun (col : Nat) =>
          ⟨2, (portSpace x.out).getD .gal, (portOff x.out + col * astride x.arg 32).toNat,
            (List.range 64).flatMap fun (r : Nat) => b.read ((portSpace x.inp).getD .gal)
              (portOff x.inp + (from_ col r).1 * astride x.arg 0 + (from_ col r).2 * x.elem).toNat x.elem, x.src, [], false⟩) ∧
    (x.kind = 2 → x.cnt = x.done + 1 →
      let e := headerE (b.npfHeader ((portSpace x.inp).getD .gal) (portOff x.inp + x.done / 64 * tileBytes x.planes) (x.done % 64))
      (e ≠ 255 ∨ 256 ≤ x.attempts + 1 →
        Completes (exec (.transformComplete c u) s) fun t => left t { x with done := x.done + 1 } ∧
          ∃ bs, (t.body c).locals = b.locals ++ [⟨2, (portSpace x.out).getD .gal, (portOff x.out + x.done * astride x.aux 0).toNat, bs, x.src, [], false⟩] ∧
            bs.length = 64 * cvtSize (afield x.arg 24 4)) ∧
      (e = 255 → x.attempts + 1 < 256 → Completes (exec (.transformComplete c u) s) fun t => OnlyBody s t c ∧ SameBytes s t ∧
        (t.body c).locals = b.locals ∧ (t.body c).transforms[u].op = some { x with attempts := x.attempts + 1, nextAt := s.cycle + 64 })) ∧
    (∀ bs, x.kind = 6 → x.row = some bs → b.sendsDirectly = false → (∀ r : Request, r.op = .copyWrite ((bs.drop x.off).take 128) → b.overfull r = false) →
      Completes (exec (.transformComplete c u) s) fun t => SameBytes s t ∧ ∃ r, (t.body c).held = b.held ++ [r] ∧ r.asn = b.sys.asn ∧
        r.va = BitVec.ofNat 56 (portOff x.out + x.done * (geometryOf x.arg x.aux).rowStride + x.off) ∧ r.op = .copyWrite ((bs.drop x.off).take 128) ∧
        r.tok = x.tok ∧
        (if x.off + 128 < (geometryOf x.arg x.aux).rowStride then
            (t.body c).transforms[u].op = some { x with off := x.off + 128, nextAt := s.cycle + s.lineCycles 1 }
          else if x.done + 1 < x.cnt then
            (t.body c).transforms[u].op = some { x with row := none, off := 0, done := x.done + 1, nextAt := s.cycle + s.lineCycles 1 }
          else (t.body c).transforms[u].op = none ∧ (t.body c).transforms[u].faulted = false)))
/-- A fault ends a transform operation. -/
def TransformsFault (s : State) (c : CoreId) : Prop :=
  let b := s.body c
  (∀ (u : Fin 4) (x : TransformOp) (k : Command) (cause : Cause) (a : VA), b.transforms[u].op = some x → x.fault = some (cause, a) →
    cause ≠ .machineCheck → b.canPark = true → b.command x.id = some k → Completes (exec (.transformFault c u) s) fun t => OnlyBody s t c ∧ SameBytes s t ∧
      (t.body c).transforms[u].op = none ∧ (t.body c).transforms[u].faulted = true ∧ (t.body c).transforms[u].res = b.transforms[u].res ∧
      ∃ f, (t.body c).reports = b.reports ++ [f] ∧ f.cause = cause ∧ f.addr = a ∧ f.tok = k.tok)
/-- R318-R332, R337-R348: a copy unit moves a row, a tile or a table entry at a time and ends its command; rings advance; signals follow a
complete copy; a transform unit performs its operation and leaves its result; faults end either.
Choices of the model in it: logs 6, 12, 13, 21, 22, 36, 37, 50. -/
def Obligations.CopyTransformEvents : Prop := ∀ (s : State) (c : CoreId),
  RowsMove s c ∧ TilesMove s c ∧ EntriesMove s c ∧ RingsAdvance s c ∧ SignalsFollow s c ∧ CopiesFault s c ∧ TransformsComplete s c ∧ TransformsFault s c

/-- Bytes of global memory from `pa` on become the given ones, every other byte stays. -/
def Places (s t : State) (pa : Nat) (bs : List (BitVec 8)) : Prop :=
  t.physRead pa bs.length = bs ∧ ∀ a, (a < pa ∨ pa + bs.length ≤ a) → t.physRead a 1 = s.physRead a 1
/-- The request is answered: with a value or a cause, on its way back to its core. -/
def Answered (t : State) (r : Request) (value : BitVec 64) (fault : Option Cause) : Prop :=
  ∃ x, t.request? r.id = some x ∧ x.core = r.core ∧ x.value = value ∧ x.fault = fault ∧ (x.stage = .back ∨ x.stage = .packetBack)

/-- Atomics and reductions are performed as one step on their place, and answer. -/
def AtomicsPerform (s : State) (r : Request) : Prop :=
  (s.engineReady r = true → s.poison.contains (r.pa / 128) = false →
    (∀ op v k d, r.op = .atomic op v k d → Completes (exec (.atomicPerform r.id) s) fun t =>
      let old := BitVec.ofNat 64 (natLE (s.physRead r.pa r.size))
      Places s t r.pa (bytesLE r.size (op.new old v k).1.toNat) ∧ Answered t r old r.fault) ∧
    (∀ op v (armed : Bool) cores d, r.op = .reduce op v armed cores d →
      let x := BitVec.ofNat 256 (natLE (s.physRead r.pa 32))
      let n := x.extractLsb' 128 16
      (armed = true → cores < n.toNat → Completes (exec (.reductionPerform r.id) s) fun t =>
        t.mem = s.mem ∧ ∃ y, t.request? r.id = some y ∧ y.fault = some .participantRange) ∧
      (¬ (armed = true ∧ cores < n.toNat) → n = 0 → Completes (exec (.reductionPerform r.id) s) fun t =>
        t.mem = s.mem ∧ Answered t r op.identity r.fault) ∧
      (¬ (armed = true ∧ cores < n.toNat) → n ≠ 0 → Completes (exec (.reductionPerform r.id) s) fun t =>
        let arrived := if n ≤ x.extractLsb' 144 16 then 0 else x.extractLsb' 144 16
        let acc := if arrived = 0 then v else op.combine (x.extractLsb' 0 64) v
        let full := arrived + 1 = n
        Answered t r acc r.fault ∧ Places s t r.pa (bytesLE 8 acc.toNat ++ bytesLE 8 (if full then acc else x.extractLsb' 64 64).toNat ++
          bytesLE 2 n.toNat ++ bytesLE 2 (if full then 0 else (arrived + 1).toNat) ++
          bytesLE 4 (x.extractLsb' 160 32 + (if full then 1 else 0)).toNat ++ bytesLE 8 (x.extractLsb' 192 64).toNat))))
/-- A phaser operation or a copy's arrival is performed on its record, with the phase check, and answers or waits. -/
def PhasersPerform (s : State) (r : Request) : Prop :=
  (∀ op v team member d, r.op = .phaser op v team member d → s.engineReady r = true → s.poison.contains (r.pa / 128) = false →
    (∀ x ∈ s.requests, ∀ g p, x.stage = .waiter g p → x.pa ≠ r.pa) →
    let p := s.readPhaser r.pa
    let arw : Bool := match op with | .arw => true | _ => false
    (r.awaiting = none → p.perform op v team member = none → Completes (exec (.phaserPerform r.id) s) fun t =>
      t.mem = s.mem ∧ ∃ y, t.request? r.id = some y ∧ y.fault = some .phaserState) ∧
    (∀ q, r.awaiting = none → p.perform op v team member = some (q, none) → Completes (exec (.phaserPerform r.id) s) fun t =>
      Places s t r.pa (bytesLE 64 (phaserBits q.check).toNat) ∧ Answered t r (if op = .q then q.query else q.status 0) r.fault) ∧
    (∀ q gen phase, (r.awaiting = none ∧ p.perform op v team member = some (q, some (gen, phase)) ∨ r.awaiting = some (gen, phase) ∧ q = p) →
      Completes (exec (.phaserPerform r.id) s) fun t =>
        (if r.awaiting = none then Places s t r.pa (bytesLE 64 (phaserBits q.check).toNat) else t.mem = s.mem) ∧
        match q.check.waitEnd gen phase with
        | some st => Answered t r (q.check.status st) r.fault
        | none =>
          (arw = true ∧ s.cores[r.core].task.stopReq = true → Answered t r (q.check.status 1) r.fault) ∧
          (¬ (arw = true ∧ s.cores[r.core].task.stopReq = true) → s.waiters (homeDie r.va) < 8192 →
            ∃ y, t.request? r.id = some y ∧ y.stage = .waiter gen phase) ∧
          (¬ (arw = true ∧ s.cores[r.core].task.stopReq = true) → 8192 ≤ s.waiters (homeDie r.va) →
            ∃ y, t.request? r.id = some y ∧ y.again = true ∧ y.awaiting = some (gen, phase)))) ∧
  (∀ team, r.op = .arrive team → s.engineReady r = true → s.poison.contains (r.pa / 128) = false →
    (∀ x ∈ s.requests, ∀ g p, x.stage = .waiter g p → x.pa ≠ r.pa) →
    let p := s.readPhaser r.pa
    (p.state = 0 ∨ p.team ≠ team → Completes (exec (.copyArrival r.id) s) fun t => t.mem = s.mem ∧ ∃ y, t.request? r.id = some y ∧ y.fault = some .phaserState) ∧
    (p.state ≠ 0 → p.team = team → Completes (exec (.copyArrival r.id) s) fun t =>
      Places s t r.pa (bytesLE 64 (phaserBits (Phaser.check { p with carr := if p.carr = BitVec.allOnes 16 then p.carr else p.carr + 1 })).toNat) ∧
        ∃ y, t.request? r.id = some y ∧ (y.stage = .back ∨ y.stage = .packetBack)))
/-- An acknowledgement or an answer reaches its core, or the access of an engine; a polling wait goes on or gives up. -/
def AnswersArrive (s : State) (r : Request) : Prop :=
  (∀ bs kind, r.op = .store bs → r.fault = none → r.ackKind = some kind → s.arrives r = true →
    Completes (exec (.acknowledgementArrival r.id) s) fun t => t.mem = s.mem ∧ t.request? r.id = none ∧ (t.body r.core) = s.body r.core ∧
      t.cores[r.core].ackCount = s.cores[r.core].ackCount + 1 ∧
      sget 0 t.cores[r.core].acks (s.cores[r.core].ackCount.toNat % 256) = ackEntry r kind) ∧
  (∀ n signed d own entry, r.op = .load n signed d own entry → r.fault = none → s.arrives r = true → d ≠ 0 →
    (s.body r.core).awaited.any (fun a => a.access == r.id) = true →
    Completes (exec (.answerReturn r.id) s) fun t => t.mem = s.mem ∧ t.request? r.id = none ∧
      (t.body r.core).g[d] = loadValue n signed own r.data ∧ (t.body r.core).gReady[d] = s.cycle + 1 ∧
      (∀ x, x ≠ d → (t.body r.core).g[x] = (s.body r.core).g[x]) ∧ (t.body r.core).groups = (s.body r.core).groups) ∧
  (∀ n signed d own entry cause, r.op = .load n signed d own entry → r.fault = some cause → cause ≠ .machineCheck → s.arrives r = true →
    Completes (exec (.answerReturn r.id) s) fun t => t.request? r.id = none ∧ (t.body r.core).g = (s.body r.core).g ∧
      ∃ f, (t.body r.core).reports = (s.body r.core).reports ++ [f] ∧ f.cause = cause ∧ f.addr = r.va ∧ f.baddr = r.baddr) ∧
  (∀ who round n, r.op = .access who round n none → s.arrives r = true → Completes (exec (.answerReturn r.id) s) fun t =>
    t.cores = s.cores ∧ t.mem = s.mem ∧ t.request? r.id = none ∧
      t.accesses = s.accesses.map fun x => if x.id = r.id then { x with answer := some (r.data, r.fault) } else x) ∧
  (∀ op v team member d (p : Poll), r.op = .phaser op v team member d → r.again = true → (s.body r.core).poll = some p → s.arrives r = true →
    Completes (exec (.answerReturn r.id) s) fun t => t.mem = s.mem ∧ t.request? r.id = none ∧ (t.body r.core).g = (s.body r.core).g ∧
      (65536 ≤ p.interval → (t.body r.core).poll = none ∧ (t.body r.core).answers = (s.body r.core).answers ++ [(r.id, r.value, r.fault)]) ∧
      (p.interval < 65536 → (t.body r.core).answers = (s.body r.core).answers ∧
        ∃ q, (t.body r.core).poll = some q ∧ q.at_ = some (s.cycle + q.interval) ∧ q.interval = min (2 * p.interval) 65536))
/-- A polling wait asks again. -/
def PollsGoOn (s : State) (r : Request) : Prop :=
  (∀ (c : CoreId) (p : Poll) at_, (s.body c).poll = some p → p.at_ = some at_ → at_ ≤ s.cycle → (∀ y ∈ s.requests, y.id ≠ p.request.id) →
    p.request.from c = true → Completes (exec (.phaserPoll c) s) fun t => t.mem = s.mem ∧ (t.body c).poll = some { p with at_ := none } ∧
      ∃ x ∈ t.requests, x.id = p.request.id ∧ x.va = p.request.va ∧ x.op = p.request.op ∧ x.awaiting = p.request.awaiting ∧
        (x.stage = .queued ∨ x.stage = .port))
/-- R350-R365, R444, R464: engines perform atomics, reductions and phaser operations as one step on their record and answer; answers and
acknowledgements reach their core. Choices of the model in it: logs 36, 41. -/
def Obligations.SyncEvents : Prop := ∀ (s : State) (r : Request), s.request? r.id = some r →
  AtomicsPerform s r ∧ PhasersPerform s r ∧ AnswersArrive s r ∧ PollsGoOn s r

/-- A range task starts on a core: pc, arguments, state and piece (R374-R376). -/
def StartsPiece (s t : State) (c : CoreId) (e : RangeEntry) (lo hi : Nat) : Prop :=
  (t.task c).state = some .running ∧ (t.task c).startAt = s.cycle + 1 ∧ (t.task c).piece = some ⟨lo, hi, e⟩ ∧ (t.body c).pc = e.entry ∧
    (t.body c).g[(4 : Fin 64)] = BitVec.ofNat 64 lo ∧ (t.body c).g[(5 : Fin 64)] = BitVec.ofNat 64 hi ∧
    (∀ i : Fin 6, (t.body c).g[i.val + 6] = e.args[i]) ∧ t.mem = s.mem ∧ ∀ d, d ≠ c → t.body d = s.body d

/-- An ended core takes a range, a leaf, or half of the widest piece. -/
def RangesAreTaken (s : State) (c : CoreId) : Prop :=
  (∀ x, s.teamOf c = some x → s.takes c x = true →
    (∀ e rest, x.ranges = e :: rest → e.fixed = false → Completes (exec (.rangeTake c) s) fun t =>
      StartsPiece s t c e e.lo e.hi ∧ (t.team? x.id).map (·.ranges) = some rest) ∧
    (∀ e rest, x.ranges = e :: rest → e.fixed = true → Completes (exec (.rangeTake c) s) fun t =>
      let lo := e.lo + e.leaf * e.grain
      StartsPiece s t c e lo (min (lo + e.grain) e.hi) ∧
        (t.team? x.id).map (·.ranges) = some (if e.leaf + 1 < grains e.lo e.hi e.grain then { e with leaf := e.leaf + 1 } :: rest else rest)) ∧
    (∀ o p n, x.ranges = [] → s.widest x = some (o, p, n) → o ≠ c → Completes (exec (.rangeTake c) s) fun t =>
      let m := p.cursor + p.entry.grain * (n / 2)
      StartsPiece s t c p.entry m p.hi ∧ (t.task o).piece = some { p with hi := m }))
/-- A line of another core's view has been read or written for the merge unit of core c, with what it has found. -/
def LineAnswered (s : State) (c d : CoreId) (vt : Fin 8) (l round : Nat) (bytes : Option (List (BitVec 8))) (found : List (BitVec 8)) : Prop :=
  ∃ a, s.access? (.sibling c d (some vt)) 0 (BitVec.ofNat 56 (128 * l)) 128 bytes round = some a ∧ a.answer = some (found, none)
/-- The lines of an entry before line l have been merged: the next one of it is named, or the next entry, or the Push is complete (R386, R387). -/
def MergedUpTo (s t : State) (c : CoreId) (n : Node) (vt : Fin 8) (more : Bool) (l : Nat) : Prop :=
  (more = true → (t.task c).progress.vt = vt.val ∧ (t.task c).progress.line = l ∧ t.nodes = s.nodes) ∧
  (more = false → ∀ i, nextEntry (s.body c).vts (vt.val + 1) = some i → (t.task c).progress.vt = i.val ∧ (t.task c).progress.line = 0 ∧ t.nodes = s.nodes) ∧
  (more = false → nextEntry (s.body c).vts (vt.val + 1) = none → s.node? n.id = some n → t.node? n.id = some { n with merged := true })
/-- The merge unit reads a line of its target, writes the combined one, ends its Push, or reads a tile and its header again, each access once the
one before has answered (R166, R385); a fault of the region leaves it MERGE_FAULTED. -/
def PushesMove (s : State) (c : CoreId) : Prop :=
  (∀ (n : Node) (d : CoreId) (vt : Fin 8) (l : Nat), s.pushDue c = some (n, .view d) → (s.task c).progress.vt = vt.val → (s.task c).progress.buf = false →
    let b := s.body c
    let e := b.vts[vt]
    let me (t : State) : Prop := t.accesses = s.accesses.filter (·.who.mergeOf != some c)
    let asks (t : State) (bytes : Option (List (BitVec 8))) : Prop := t.mem = s.mem ∧ (∀ x, t.body x = s.body x) ∧
      (t.task c).progress.line = (s.task c).progress.line ∧ ∃ a, t.accesses = s.accesses ++ [a] ∧ a.who = .sibling c d (some vt) ∧
        a.va = BitVec.ofNat 56 (128 * l) ∧ a.n = 128 ∧ a.bytes = bytes ∧ a.answer = none
    nextEntry b.vts vt.val = some vt →
    (e.op ≠ 2 → nextTouched e (s.task c).progress.line = some l →
      ((∀ a ∈ s.accesses, a.who.mergeOf ≠ some c) → Completes (exec (.mergePush c) s) fun t => asks t none) ∧
      ∀ there, LineAnswered s c d vt l 0 none there → there.length = 128 →
        let r := combineLine e.op true ((s.body d).vts[vt].touched.contains l) there (b.readHeld e (128 * l) 128)
        ((∀ a ∈ s.accesses, a.who.mergeOf = some c → a.bytes = none) → Completes (exec (.mergePush c) s) fun t => asks t (some r.1)) ∧
        (LineAnswered s c d vt l 0 (some r.1) [] → Completes (exec (.mergePush c) s) fun t =>
          SameBytes s t ∧ me t ∧ (t.body c).g = b.g ∧ (∀ x, x ≠ c → t.body x = s.body x) ∧
            (r.2 = none → t.body c = b) ∧ MergedUpTo s t c n vt (nextTouched e (l + 1)).isSome (l + 1))) ∧
    (e.op ≠ 2 → nextTouched e (s.task c).progress.line = none → Completes (exec (.mergePush c) s) fun t => SameBytes s t ∧ MergedUpTo s t c n vt false 0) ∧
    (e.op = 2 → nextTile e (s.task c).progress.line = some l → 0 < (s.task c).attempts →
      let size := 1 + 8 * e.planes.toNat
      ∀ (old again : List (BitVec 8)), old.length = 128 * size → (∀ i < size, LineAnswered s c d vt (l + i) 0 none ((old.drop (128 * i)).take 128)) →
        LineAnswered s c d vt l 1 none again →
      let bad : Prop := again ≠ old.take 128 ∨ ∃ r ∈ List.range 64, headerE (tileHeader old r) = 255
      (bad → (s.task c).attempts + 1 < 256 → Completes (exec (.mergeTileRetry c) s) fun t => SameBytes s t ∧ me t ∧
        (t.task c).attempts = (s.task c).attempts + 1 ∧ (t.task c).tryAt = s.cycle + 64 ∧ (t.task c).progress.buf = false) ∧
      (¬bad ∨ 256 ≤ (s.task c).attempts + 1 → Completes (exec (.mergeTileRetry c) s) fun t => SameBytes s t ∧ me t ∧ (t.task c).attempts = 0 ∧
        (t.task c).buffer = linesChanged e.planes.toNat old (combineTile e.planes.toNat old (b.readHeld e (128 * l) (128 * size))).1))) ∧
  (∀ cause a, (s.task c).fault = some (cause, a) → (s.task c).state = some .merging → cause ≠ .machineCheck →
    Completes (exec (.mergeTranslationFault c) s) fun t => t.mem = s.mem ∧ (t.task c).state = some .mergeFaulted ∧
      (t.task c).fault = some (cause, a) ∧ (∀ d, t.body d = s.body d) ∧ ∀ d, d ≠ c → t.task d = s.task d)
/-- A team whose cores have all ended ends; its barrier completes, its phase starts, its break is signalled; a vector that no phase takes is lost. -/
def TeamsAndBarriers (s : State) (c : CoreId) : Prop :=
  (∀ k x, s.team? k = some x →
    (s.teamOver x = true → x.cores.Nodup → Completes (exec (.teamEnd k) s) fun t => t.mem = s.mem ∧
      (t.team? k).map (fun y => (y.state, y.cores)) = some (.ended, []) ∧ (∀ d ∈ x.cores, t.task d = {}) ∧ (∀ d, d ∉ x.cores → t.task d = s.task d) ∧
      (∀ d, t.body d = s.body d) ∧ ∀ n, n ∈ t.nodes ↔ n ∈ s.nodes ∧ n.team ≠ k) ∧
    (s.barrierFull x = true → Completes (exec (.flightBarrierComplete k) s) fun t =>
      (t.team? k) = some { x with start := some (s.cycle + 64), broken := none } ∧ t.cores = s.cores ∧ t.mem = s.mem) ∧
    (x.start = some s.cycle → Completes (exec (.flightPhaseStart k) s) fun t => t.mem = s.mem ∧ (t.team? k).map (·.start) = some none ∧
      (∀ d ∈ x.cores, t.body d = { s.body d with inPhase := true } ∧ (t.task d).arrived = false) ∧ ∀ d, d ∉ x.cores → t.cores[d] = s.cores[d]) ∧
    (x.broken = some (s.cycle - 16) → 16 ≤ s.cycle → Completes (exec (.flightBreakSignal k) s) fun t => t.mem = s.mem ∧
      (t.team? k).map (·.broken) = some none ∧ (∀ d ∈ x.cores, (s.body d).inPhase = true → t.body d = { s.body d with breakDue := true }) ∧
      ∀ d, (d ∉ x.cores ∨ (s.body d).inPhase = false) → t.cores[d] = s.cores[d])) ∧
  (∀ (p : Fin 4) (w : Wire), (s.body c).inPhase = false → s.wires = [w] → w.core = c → w.port = p → w.at_ = s.cycle →
    Completes (exec (.vectorArrival c p) s) fun t => SameBytes s t ∧ t.wires = [] ∧
      t.body c = { s.body c with flight := { (s.body c).flight with lost := (s.body c).flight.lost + 1 } })
/-- R370, R374-R376, R384-R389, R395-R398, R407: ended cores take ranges, leaves and pieces; pushes move lines and tiles in order; teams end;
the flight barrier, the start of a phase, arriving vectors and breaks. Choices of the model in it: logs 5, 23, 38, 39. -/
def Obligations.TeamEvents : Prop := ∀ (s : State) (c : CoreId),
  RangesAreTaken s c ∧ PushesMove s c ∧ TeamsAndBarriers s c

/-- The head entry of a queue has been read and is the one given. -/
def HeadIs (s : State) (q : QueueId) (e : BitVec 512) : Prop :=
  s.usher.readySince[q].isSome = true ∧ s.usher.enable = true ∧ s.entryAt (whoHead q) q = (.ok (bytesLE 64 e.toNat), s)
/-- Memory has answered the write, or it cannot be made: then it is left out. -/
def Written (s : State) (who : AwayFor) (asn : BitVec 12) (a : Nat) (bs : List (BitVec 8)) : Prop :=
  s.usherMay asn a bs.length = true → s.usherWrite who asn a bs = (.ok [], s)
/-- The new head count has been written. -/
def HeadWritten (s : State) (q : QueueId) (head : BitVec 32) : Prop := Written s (whoHead q) 0 (s.descAddr q + 4) (bytesLE 4 head.toNat)
/-- The queue's head moves to a new count and the queue is served; no other queue's descriptor changes. -/
def HeadMoves (s t : State) (q : QueueId) (head : BitVec 32) : Prop :=
  (t.desc q).head = head ∧ (t.desc q).tail = (s.desc q).tail ∧ t.usher.readySince[q] = none ∧ (∀ p, p ≠ q → t.desc p = s.desc p) ∧
    t.cores = s.cores ∧ t.mem = s.mem
/-- Nodes of a queue: once the words that they name have been read or written, and the new head count, the head moves as the node says. -/
def NodesMoveHead (s : State) (q : QueueId) : Prop :=
  ∀ e, HeadIs s q e →
    let head := (s.desc q).head
    let word := e.extractLsb' 448 64
    let asn := (s.desc q).asn
    let jumped (cond : Bool) : BitVec 32 := if cond then head + 1 else head + 1 + (e.extractLsb' 368 16).setWidth 32
    (entryKind e = 2 → waitOk e = true → ∀ bs, s.nodeWord (whoHead q) q word = (.ok bs, s) → HeadWritten s q (head + 1) →
      Completes (exec (.wait q) s) fun t => HeadMoves s t q (head + 1)) ∧
    (entryKind e = 3 → waitOk e = true → s.usherWrite (whoHead q) asn word.toNat (bytesLE 8 (e.extractLsb' 384 64).toNat) = (.ok [], s) →
      HeadWritten s q (head + 1) → Completes (exec (.signal q) s) fun t => HeadMoves s t q (head + 1)) ∧
    (entryKind e = 4 → (s.desc q).priv = true → e.extractLsb' 8 356 = 0 → word.extractLsb' 0 3 = 0#3 → (e.extractLsb' 364 4).toNat < 4 →
      ∀ bs, s.nodeWord (whoHead q) q word = (.ok bs, s) →
      HeadWritten s q (jumped (condHolds (e.extractLsb' 364 4).toNat (natLE bs) (e.extractLsb' 384 64).toNat)) →
      Completes (exec (.cond q) s) fun t =>
        HeadMoves s t q (jumped (condHolds (e.extractLsb' 364 4).toNat (natLE bs) (e.extractLsb' 384 64).toNat))) ∧
    (entryKind e = 5 → (s.desc q).priv = true → e.extractLsb' 8 360 = 0 → e.extractLsb' 384 64 = 0 → word.extractLsb' 0 3 = 0#3 →
      word.toNat < 2 ^ 56 → 1 ≤ (e.extractLsb' 368 16).toNat → (e.extractLsb' 368 16).toNat < 2 ^ (s.desc q).size →
      ∀ bs, s.glbDecrement (whoHead q) asn (word.extractLsb' 0 56) = (.ok bs, s) →
      let next := if natLE bs = 0 then head + 1 else head - (e.extractLsb' 368 16).setWidth 32
      HeadWritten s q next → Completes (exec (.loopNode q) s) fun t => HeadMoves s t q next) ∧
    (entryKind e = 6 → (s.desc q).priv = true → e.extractLsb' 8 184 = 0 → e.extractLsb' 384 40 = 0 → word.extractLsb' 0 3 = 0#3 →
      1 ≤ (e.extractLsb' 440 8).toNat → (e.extractLsb' 440 8).toNat ≤ 12 → e.extractLsb' 424 16 ≠ 0 →
      (∀ i, i < (e.extractLsb' 440 8).toNat → switchCase e i ≠ 0) → ∀ bs, s.nodeWord (whoHead q) q word = (.ok bs, s) →
      let next := head + BitVec.ofNat 32 (if natLE bs < (e.extractLsb' 440 8).toNat then switchCase e (natLE bs) else (e.extractLsb' 424 16).toNat)
      HeadWritten s q next → Completes (exec (.switch q) s) fun t => HeadMoves s t q next) ∧
    (entryKind e = 7 → e.extractLsb' 8 88 = 0 → e.extractLsb' 192 6 = 0 → ∀ v, s.loadEntry (whoHead q) q.val asn e (·.advance q) = .done v →
      Completes (exec (.load q) s) fun t => HeadMoves s t q (head + 1)) ∧
    (entryKind e = 1 → e.extractLsb' 12 52 = 0 → e.extractLsb' 8 3 = 0 → word.extractLsb' 0 3 = 0 → e.extractLsb' 320 7 = 0 →
      e.extractLsb' 224 6 = 0 → ∀ hb rb xb args,
      let lrec := (e.extractLsb' 64 64).toNat
      let kn := (e.extractLsb' 192 16).toNat
      let h := BitVec.ofNat 512 (natLE hb)
      let r := BitVec.ofNat 512 (natLE rb)
      let n := (r.extractLsb' 144 16).toNat
      let k := kernelOf h r ((List.range n).map fun i => byteAt xb (16 * i) 16)
      let made := s.createJob q e k args
      s.usherRead (whoHead q) asn lrec 64 = (.ok hb, s) → h.getLsbD 0 = true → kn < (h.extractLsb' 288 32).toNat →
      s.usherRead (whoHead q) asn (lrec + 64 + 64 * kn) 64 = (.ok rb, s) →
      s.usherRead (whoHead q) asn (lrec + 64 + 64 * (h.extractLsb' 288 32).toNat + 16 * (r.extractLsb' 160 32).toNat) (16 * n) = (.ok xb, s) →
      s.usherRead (whoHead q) asn (e.extractLsb' 128 64).toNat 64 = (.ok args, s) →
      (k.fit none fun c => !s.cores[c].retired).isSome = true → HeadWritten made q (head + 1) →
      Completes (exec (.launch q) s) fun t => HeadMoves s t q (head + 1) ∧ t.usher.jobs = made.usher.jobs ∧ t.usher.teams = made.usher.teams)

/-- A tail is stored after every host access received before; until memory has answered the write stands first in the host port. -/
def TailsAreStored (s : State) (q : QueueId) : Prop :=
  (∀ v u, s.host.queue = [] → s.descAddr q + 64 ≤ 2 ^ 56 → s.storeTail q v = .done u →
    Completes (exec (.tailRegisterWrite q v) s) fun t => (t.desc q).tail = v ∧ t.cores = s.cores ∧ t.mem = s.mem ∧ ∀ p, p ≠ q → t.desc p = s.desc p) ∧
  (∀ v u, s.host.queue = [] → s.storeTail q v = .waits u → Completes (exec (.tailRegisterWrite q v) s) fun t =>
    t.host.queue = [(s.host.inForce, .event (.tailRegisterWrite q v))] ∧ t.usher = s.usher ∧ t.cores = s.cores ∧ t.mem = s.mem) ∧
  (∀ v, s.host.queue ≠ [] → Completes (exec (.tailRegisterWrite q v) s) fun t =>
    t = { s with host := { s.host with queue := s.host.queue ++ [(s.host.inForce, .event (.tailRegisterWrite q v))] } })
/-- A job is made with its PENDING teams; an unmet WAIT is tested again; a ready queue ages. -/
def JobsAreMade (s : State) (q : QueueId) : Prop :=
  (∀ e k args, let t := s.createJob q e k args
    let tag := freeTag (s.usher.jobs.map (·.tag)) s.usher.tag 65536
    t.mem = s.mem ∧ t.usher.tag = tag + 1 ∧ t.usher.jobs.length = s.usher.jobs.length + 1 ∧
      t.usher.teams.length = s.usher.teams.length + (e.extractLsb' 208 16).toNat + 1 ∧
      ∀ x ∈ t.usher.teams.drop s.usher.teams.length, x.state = .pending ∧ x.teamId = BitVec.ofNat 16 x.t ++ tag ∧ x.kernel = k ∧ x.cores = []) ∧
  (∀ at_ (d e : BitVec 512) w, s.usher.enable = true → s.usher.retest[q] = some at_ → at_ ≤ s.cycle → s.usher.serving ≠ some q →
    s.usherRead (whoDesc q) 0 (s.descAddr q) 64 = (.ok (bytesLE 64 d.toNat), s) →
    let u := s.setDesc q d
    u.holdsEntries q = true → u.entryAt (whoExam q) q = (.ok (bytesLE 64 e.toNat), u) → entryKind e = 2 → waitOk e = true →
    u.nodeWord (whoExam q) q (e.extractLsb' 448 64) = (.ok w, u) →
    ((e.extractLsb' 384 64).toNat ≤ natLE w → Completes (exec (.waitRetest q) s) fun t =>
      t.usher.readySince[q].isSome = true ∧ t.usher.retest[q] = none ∧ t.cores = s.cores ∧ t.mem = s.mem) ∧
    (natLE w < (e.extractLsb' 384 64).toNat → Completes (exec (.waitRetest q) s) fun t =>
      t.usher.readySince[q] = none ∧ (∃ n, t.usher.retest[q] = some n ∧ s.cycle < n ∧ n ≤ s.cycle + 1600) ∧ t.cores = s.cores ∧ t.mem = s.mem)) ∧
  (∀ since, s.usher.readySince[q] = some since → s.usher.serving ≠ some q → 0 < s.usher.age → since + (s.usher.aged[q] + 1) * s.usher.age * 1600000 ≤ s.cycle →
    exec (.ageing q) s = .next (s.modUsher fun u => { u with aged := u.aged.set q (u.aged[q] + 1) }))
/-- A PENDING team starts on its cores; quanta end; stopped teams are saved; a fault of a team stops its job. -/
def TeamsArePlaced (s : State) (q : QueueId) : Prop :=
  (∀ x cs o, s.placement = some (x, cs, o) → x.state = .pending → x.kernel.image = 0 → s.team? x.id = some x → cs.Nodup →
    Completes (exec (.teamPlace x.id) s) fun t => t.mem = s.mem ∧ (t.team? x.id).map (fun y => (y.state, y.cores, y.origin)) = some (.resident, cs, o) ∧
      (∀ c ∈ cs, (t.task c).state = some .running ∧ (t.task c).team = some x.id ∧ (t.task c).startAt = s.cycle + 1 ∧ (t.body c).pc = x.kernel.centry ∧
        (t.body c).sys.asn = x.asn ∧ (t.body c).handler = false ∧ (t.body c).noHandler = x.kernel.handler.isNone) ∧
      ∀ c, c ∉ cs → t.cores[c] = s.cores[c]) ∧
  (∀ k x, s.team? k = some x →
    (x.state = .resident → x.quantumOver = false → x.residentAt + s.usher.quantumCycles ≤ s.cycle →
      Completes (exec (.quantumExpiry k) s) fun t => t = State.displace (s.modTeam k fun y => { y with quantumOver := true }) ∧ t.mem = s.mem ∧
        (t.team? k).map (·.quantumOver) = some true) ∧
    (s.savesNow x = true → ∀ g u,
      s.writePieces (whoTeam k) x.asn ({ x with frozen := s.rangeFrozen x }.image x.faulting (x.cores.map fun c => s.cores[c])) = (.ok g, u) →
      Completes (exec (.teamSave k) s) fun t => t.mem = s.mem ∧
        (t.team? k).map (fun y => (y.state, y.cores, y.inArea)) = some (if x.faulting then .faulted else .saved, [], true) ∧ ∀ c ∈ x.cores, t.task c = {}) ∧
    (∀ j c f, s.jobOf x = some j → j.faulted = false → s.faultedCore x = some (c, f) → Completes (exec (.teamFault k) s) fun t => SameBytes s t ∧
      ∃ i ∈ t.usher.jobs, i.id = j.id ∧ i.faulted = true ∧ i.fault = some (x.id, c, f)))
/-- A job whose teams have all ended writes its event and is over. -/
def JobsComplete (s : State) (q : QueueId) : Prop :=
  (∀ j ∈ s.usher.jobs, s.usher.jobs.find? (·.id == j.id) = some j → s.jobOver j = true →
    (j.event = 0 ∨ Written s (whoJob j.id) j.asn j.event.toNat (bytesLE 8 j.evalue.toNat)) → Completes (exec (.jobComplete j.id) s) fun t =>
    (∀ i, i ∈ t.usher.jobs ↔ i ∈ s.usher.jobs ∧ i.id ≠ j.id) ∧ (∀ x, x ∈ t.usher.teams ↔ x ∈ s.usher.teams ∧ x.job ≠ j.id) ∧ t.cores = s.cores ∧
      t.mem = s.mem)
/-- A write of the first doubleword of a configuration block commits it. -/
def BlocksCommit (s : State) (q : QueueId) : Prop :=
  (∀ (off : Fin 8) bs, (bs.length = 4 ∨ bs.length = 8) → off.val % bs.length = 0 →
    (Completes (exec (.usherConfigCommit off bs) s) fun t =>
      let w := stageBytes s.usher.staged off.val bs &&& usherBits
      let n := (w.extractLsb' 416 32).toNat
      t.usher.staged = w ∧ t.usher.qtbase = w.extractLsb' 448 64 ∧ t.usher.quantum = (if 100 ≤ n ∧ n ≤ 1000000 then n else 2000) ∧
        t.usher.age = (w.extractLsb' 400 16).toNat ∧ t.usher.enable = w.getLsbD 0 ∧ t = { s with usher := t.usher } ∧ t.usher.teams = s.usher.teams) ∧
    (Completes (exec (.fabricConfigCommit off bs) s) fun t =>
      let w := stageBytes s.fabcfg.staged off.val bs &&& fabricBits
      t.fabcfg.staged = w ∧ t.fabcfg.atbase = (w.extractLsb' 460 52).toNat ∧ t.fabcfg.rsleep = (w.extractLsb' 304 16).toNat ∧ t.fabcfg.xlat = w.getLsbD 0 ∧
        (∀ j : Fin 8, t.fabcfg.budget[j] = (w.extractLsb' (320 + 16 * j.val) 16).toNat) ∧ t = { s with fabcfg := t.fabcfg }))
/-- R412-R431, R437-R441, R471, R487: the usher stores tails, processes its nodes, launches, places, displaces, saves and ends teams, and its
configuration blocks commit. Choices of the model in it: logs 25, 26, 27, 28, 36. -/
def Obligations.UsherEvents : Prop := ∀ (s : State) (q : QueueId),
  TailsAreStored s q ∧ NodesMoveHead s q ∧ JobsAreMade s q ∧ TeamsArePlaced s q ∧ JobsComplete s q ∧ BlocksCommit s q

/-- A command of the given code is due: it has acted with a status and what it is to write into its buffer, none left to read. -/
def Acted (s t : State) (status : BitVec 8) (out : Option (Nat × List (BitVec 8))) : Prop :=
  t.newel.acted = true ∧ t.newel.status = status ∧ t.newel.out = out.map (fun o => (s.newel.arg + o.1, o.2)) ∧ t.mem = s.mem ∧ t.cores = s.cores
/-- The first n bytes of the buffer of the command under way have been read, at most 4 096 in a transaction (R468). -/
def ArgIs (s : State) (n : Nat) (bs : List (BitVec 8)) : Prop :=
  s.newelReads (chunks 4096 (hostBase + s.newel.arg) n) = (some (some bs), s)

/-- A register of the host port is written: window, routes, tails, mailbox; a new command starts. -/
def RegistersAreWritten (s : State) : Prop :=
  (∀ off bs, accessOk off bs.length = true →
    (0x180 ≤ off → off < 0x188 → Completes (exec (.registerWrite off bs) s) fun t => t = { s with host := { s.host with
      winctl := patch s.host.winctl 8 (off - 0x180) bs &&& 0x00FFFFF000000FFF#64 } }) ∧
    (0x200 ≤ off → off < 0x280 → Completes (exec (.registerWrite off bs) s) fun t => t = { s with host := { s.host with
      routes := Vec.modify s.host.routes (Fin.ofNat 16 ((off - 0x200) / 8)) fun r => patch r 8 (off % 8) bs } }) ∧
    (0x1000 ≤ off → off < 0x1200 → off % 8 = 0 → exec (.registerWrite off bs) s =
      exec (.tailRegisterWrite (Fin.ofNat 64 ((off - 0x1000) / 8)) (BitVec.ofNat 32 (natLE (bs.take 4)))) s) ∧
    (0x2008 ≤ off → off < 0x2040 → Completes (exec (.registerWrite off bs) s) fun t => t = { s with host := { s.host with mailbox := t.host.mailbox } } ∧
      t.host.mailbox.extractLsb' 8 392 = s.host.mailbox.extractLsb' 8 392) ∧
    (off = 0x2000 → s.newel.doneAt = none → bs.headD 0 ≠ 0 → Completes (exec (.registerWrite off bs) s) fun t =>
      t.newel.doneAt.any (s.cycle < ·) = true ∧ t.newel.acted = false ∧ t.newel.code = (bs.headD 0).toNat ∧ t.host.mailbox.extractLsb' 392 8 = 1#8)) ∧
  (∀ off bs, accessOk off bs.length = false → Completes (exec (.registerWrite off bs) s) fun t =>
    t = { s with host := { s.host with replies := s.host.replies ++ [none] } })
/-- A register of the host port is read: head and tail of a queue as its descriptor holds them in memory. -/
def RegistersAreRead (s : State) : Prop :=
  (∀ off n, (accessOk off n = false → Completes (execRegisterRead off n s) fun t => t = { s with host := { s.host with replies := s.host.replies ++ [none] } }) ∧
    (accessOk off n = true → off < 0x1000 ∨ 0x1200 ≤ off → Completes (execRegisterRead off n s) fun t => t = { s with host := { s.host with
      replies := s.host.replies ++ [some (((bytesLE 8 (s.registerDword (off / 8 * 8)).toNat).drop (off % 8)).take n)] } }) ∧
    (∀ (q : QueueId) bs u, accessOk off n = true → off / 8 = 512 + q.val → s.host.queue = [] → s.usherRead (whoTail q) 0 (s.descAddr q) 8 = (.ok bs, u) →
      Completes (execRegisterRead off n s) fun t => t.host.replies = u.host.replies ++ [some ((bs.drop (off % 8)).take n)] ∧ t.mem = u.mem ∧ t.cores = u.cores))
/-- A module reset completes: memory but phaser storage and the log stay, firmware that was taken in becomes active, everything else is as at
reset. -/
def ModuleResets (s : State) : Prop :=
  (Completes (exec .moduleReset s) fun t => t.cycle = 0 ∧ t.epoch = s.epoch + s.cycle ∧ t.requests = [] ∧ t.hall = [] ∧ t.usher = State.reset.usher ∧
    t.fabcfg = {} ∧ t.log = s.log ∧ (∀ c, t.body c = {} ∧ t.cores[c].retired = (s.cores[c].retired && !s.newel.unretire.contains c)) ∧
    t.newel.active = (if s.newel.next.isSome then s.newel.inactive else s.newel.active) ∧ t.newel.version = s.newel.next.getD s.newel.version ∧
    (∀ pa, phaserBase ≤ pa → pa < phaserBase + 0x2000000 → t.physRead pa 1 = [0]) ∧
    ∀ pa, (pa < phaserBase ∨ phaserBase + 0x2000000 ≤ pa) → t.physRead pa 1 = s.physRead pa 1)
/-- An access through the window completes: its lines set out one by one, and once they have answered the read is replied to. -/
def WindowAccessesComplete (s : State) : Prop :=
  (∀ off n, off + n ≤ 2 ^ 36 → s.host.queue = [] →
    (∀ bs u, s.glbRead .host s.windowAsn (s.windowVA off) n = (.ok bs, u) →
      Completes (exec (.windowRead off n) s) fun t => t.host.replies = s.host.replies ++ [some bs] ∧ t.mem = s.mem ∧ t.cores = s.cores) ∧
    (∀ v k more, linePieces (s.windowVA off).toNat n = (v, k) :: more → (∀ a ∈ s.accesses, a.who ≠ .host) →
      Completes (exec (.windowRead off n) s) fun t => t.host.queue = [(s.host.inForce, .event (.windowRead off n))] ∧ t.host.replies = s.host.replies ∧ t.mem = s.mem ∧
        t.cores = s.cores ∧ ∃ a, t.accesses = s.accesses ++ [a] ∧ a.who = .host ∧ a.asn = s.windowAsn ∧ a.va = BitVec.ofNat 56 v ∧ a.n = k ∧
          a.bytes = none ∧ a.answer = none)) ∧
  (∀ off bs, off + bs.length ≤ 2 ^ 36 → s.host.queue = [] →
    (∀ g u, s.glbWrite .host s.windowAsn (s.windowVA off) bs = (.ok g, u) →
      Completes (exec (.windowWrite off bs) s) fun t => t.mem = s.mem ∧ t.host.replies = s.host.replies ∧ t.host.queue = [] ∧ t.cores = s.cores) ∧
    (∀ v k more, linePieces (s.windowVA off).toNat bs.length = (v, k) :: more → (∀ a ∈ s.accesses, a.who ≠ .host) →
      Completes (exec (.windowWrite off bs) s) fun t => t.host.queue = [(s.host.inForce, .event (.windowWrite off bs))] ∧ t.host.replies = s.host.replies ∧ t.mem = s.mem ∧
        t.cores = s.cores ∧ ∃ a, t.accesses = s.accesses ++ [a] ∧ a.who = .host ∧ a.asn = s.windowAsn ∧ a.va = BitVec.ofNat 56 v ∧ a.n = k ∧
          a.bytes = some (bs.take k) ∧ a.answer = none))
/-- A command of the newel controller acts once: sensors, log, cap, update, attest, errcnt, unretire, or an unknown code. -/
def CommandsAct (s : State) : Prop :=
  (s.commandDue = true → s.newel.argOk = true →
    (s.newel.code = 1 → Completes (exec .sensors s) fun t => Acted s t 0 (some (0, s.newel.sensors.toList.flatMap fun v => bytesLE 2 v.toNat))) ∧
    (∀ bs, s.newel.code = 2 → ArgIs s 8 bs → Completes (exec .log s) fun t =>
      Acted s t 0 (some (64, ((s.log.drop (natLE bs)).take (s.newel.alen / 64 - 1)).flatMap LogRecord.bytes))) ∧
    (∀ bs, s.newel.code = 3 → ArgIs s 2 bs →
      (800 ≤ natLE bs → natLE bs ≤ 2800 → Completes (exec .cap s) fun t => Acted s t 0 none ∧ t.newel.power.cap = natLE bs) ∧
      (natLE bs < 800 ∨ 2800 < natLE bs → Completes (exec .cap s) fun t => Acted s t 3 none ∧ t.newel.power = s.newel.power)) ∧
    (∀ bs, s.newel.code = 4 → ArgIs s s.newel.alen bs →
      let version := BitVec.ofNat 64 (natLE ((bs.drop 8).take 8))
      (updateOk bs = false → Completes (exec .update s) fun t => Acted s t 4 none ∧ t.newel.next = none ∧ t.newel.version = s.newel.version ∧
        t.newel.active = s.newel.active) ∧
      (updateOk bs = true → version < s.newel.counter → Completes (exec .update s) fun t => Acted s t 5 none ∧ t.newel.next = none) ∧
      (updateOk bs = true → s.newel.counter ≤ version → Completes (exec .update s) fun t => Acted s t 0 none ∧ t.newel.next = some version ∧
        t.newel.version = s.newel.version ∧ t.newel.active = s.newel.active ∧ t.newel.inactive = bs.take (signedLen bs + 384) ∧ ∃ r ∈ t.log, r.kind = .update)) ∧
    (∀ bs, s.newel.code = 5 → 288 ≤ s.newel.alen → ArgIs s 32 bs → Completes (exec .attest s) fun t => t.newel.acted = true ∧ t.newel.status = 0 ∧
      ∃ sig : List (BitVec 8), sig.length = 96 ∧ t.newel.out = some (s.newel.arg + 64, s.attestBody bs ++ sig)) ∧
    (s.newel.code = 6 → Completes (exec .errcnt s) fun t => Acted s t 0 (some (0, (List.finRange 128).flatMap fun c => bytesLE 8 (s.errorWord c)))) ∧
    (∀ bs (c : CoreId), s.newel.code = 7 → ArgIs s 1 bs → natLE bs = c.val → Completes (exec .unretire s) fun t => Acted s t 0 none ∧
      t.newel.unretire = s.newel.unretire ++ [c]) ∧
    ((s.newel.code = 0 ∨ 7 < s.newel.code) → Completes (exec .badCommand s) fun t => Acted s t 2 none))
/-- A command that has acted completes, once what it writes has been performed: status in the mailbox, cmd cleared, the message sent. -/
def CommandsComplete (s : State) : Prop :=
  let written (a : Nat) (bs : List (BitVec 8)) : Prop := s.newelWrites (chunks 512 (hostBase + a) bs.length) bs = (true, s) ∧
    ∃ x, s.awayAccess .newel (hostBase + a) (min 64 bs.length) none = (some x, s)
  (s.newel.doneAt.isSome = true → s.newel.acted = true → (s.newel.out = none ∨ ∃ a bs, s.newel.out = some (a, bs) ∧ written a bs) →
    Completes (exec .mailboxCompletion s) fun t => t.newel.doneAt = none ∧
    t.host.mailbox.extractLsb' 0 8 = 0#8 ∧ t.host.mailbox.extractLsb' 392 8 = s.newel.status ∧ t.mem = s.mem ∧ t.cores = s.cores ∧
    (∀ v : Fin 255, s.newel.vector = v.val → s.host.table[v.val].getLsbD 96 = false →
      ∃ a d, t.host.messages = s.host.messages ++ [(⟨v.val, Nat.lt_trans v.isLt (by decide)⟩, a, d)] ∧ a = s.host.table[v.val].extractLsb' 0 64))
/-- A completion, a timeout or a peer's response answers the access that left the module; the completion of a write of host memory is followed by
a read, which performs it (R135). -/
def PortsComplete (s : State) : Prop :=
  (∀ id a, s.away? id true = some a →
    (∀ bs, a.fits bs = true →
      (a.who = .newel → Completes (exec (.hostCompletion id (some bs)) s) fun t =>
        t = { s with aways := t.aways } ∧ ∀ x ∈ t.aways, x.id = id → x.answer = some (some bs)) ∧
      (∀ k r, a.who = .request k → s.request? k = some r → (r.out = none ∨ a.bytes = none) → Completes (exec (.hostCompletion id (some bs)) s) fun t =>
        t.mem = s.mem ∧ t.cores = s.cores ∧ t.aways = s.aways.filter (·.id != id) ∧
          ∃ x, t.request? k = some x ∧ x.stage = .packetIn ∧ x.data = (if r.out = none then bs else r.data) ∧ x.fault = r.fault) ∧
      (∀ k r, a.who = .request k → s.request? k = some r → r.out ≠ none → a.bytes ≠ none → Completes (exec (.hostCompletion id (some bs)) s) fun t =>
        t.mem = s.mem ∧ t.cores = s.cores ∧ t.requests = s.requests ∧
          t.aways = s.aways.filter (·.id != id) ++ [⟨s.nextId, .request r.id, a.pa, a.n, none, s.cycle, none⟩])) ∧
    (a.late s.cycle = true →
      (a.who = .newel → Completes (exec (.hostReadTimeout id) s) fun t =>
        t = { s with aways := t.aways } ∧ ∀ x ∈ t.aways, x.id = id → x.answer = some none) ∧
      (∀ k r, a.who = .request k → s.request? k = some r → Completes (exec (.hostReadTimeout id) s) fun t =>
        t.mem = s.mem ∧ t.cores = s.cores ∧ t.aways = s.aways.filter (·.id != id) ∧
          ∃ x, t.request? k = some x ∧ x.stage = .packetIn ∧ x.fault = (if r.out = none then some .protection else r.fault)))) ∧
  (∀ id a k r bs, s.away? id false = some a → a.who = .request k → s.request? k = some r →
    Completes (exec (.peerResponse id (some bs)) s) fun t => t.mem = s.mem ∧ t.cores = s.cores ∧ t.aways = s.aways.filter (·.id != id) ∧
      ∃ x, t.request? k = some x ∧ x.stage = .packetIn ∧ x.data = bs ∧ x.fault = r.fault)
/-- A request of a peer sets out for the slice that serves it, acts there, and its answer returns. -/
def PeersAreServed (s : State) : Prop :=
  (∀ q : PeerReq,
    ((∀ x ∈ s.requests, x.op ≠ .peer q) →
      (0x9000000000 < q.pa + peerSize q.op ∨ badOp q = true → Completes (exec (.peerRequest q) s) fun t =>
        t = { s with host := { s.host with answers := s.host.answers ++ [(q.peer, q.tag, none)] } }) ∧
      (q.pa + peerSize q.op ≤ 0x9000000000 → badOp q = false → (∀ x ∈ s.requests, x.id ≠ s.nextId) →
        Completes (exec (.peerRequest q) s) fun t => t.mem = s.mem ∧ t.cores = s.cores ∧ t.host.answers = s.host.answers ∧
          ∃ x, t.request? s.nextId = some x ∧ x.op = .peer q ∧ x.stage = .packet)) ∧
    (∀ r, s.requests.find? (fun r => r.op == .peer q && s.workReady r) = some r → s.peerWaits r (physLines q.pa (peerSize q.op)) = false →
      (∀ n, q.op = .read n → (∀ l ∈ physLines q.pa n, l ∉ s.poison) → Completes (exec (.peerRequest q) s) fun t =>
        t.mem = s.mem ∧ t.cores = s.cores ∧ ∃ x, t.request? r.id = some x ∧ x.stage = .packetBack ∧ x.data = s.physRead q.pa n ∧ x.fault = r.fault) ∧
      (∀ bs, q.op = .write bs → Completes (exec (.peerRequest q) s) fun t => t.cores = s.cores ∧
        t.physRead q.pa bs.length = bs ∧ (∀ a, (a < q.pa ∨ q.pa + bs.length ≤ a) → t.physRead a 1 = s.physRead a 1) ∧
          ∃ x, t.request? r.id = some x ∧ x.stage = .packetBack ∧ x.fault = r.fault)) ∧
    (∀ r, s.request? r.id = some r → r.op = .peer q → s.arrives r = true → Completes (exec (.answerReturn r.id) s) fun t =>
      t.host.answers = s.host.answers ++ [(q.peer, q.tag, if r.fault.isSome then none else some r.data)] ∧ t.mem = s.mem ∧ t.cores = s.cores ∧
        t.request? r.id = none))
/-- A flit that has failed is tried again, after its sixteenth retry the link goes down and no slice keeps to it; a link comes up. -/
def LinksRetry (s : State) : Prop :=
  (∀ l : Fin 16, (2 ≤ s.host.links[l].val →
      let f := s.host.flit[l]
      let n := sget 0 s.host.retries[l] f
      (n < 16 → Completes (exec (.flitRetry l) s) fun t =>
        t = { s with host := { s.host with retries := s.host.retries.set l (sset 0 s.host.retries[l] f (n + 1)) } }) ∧
      (16 ≤ n → Completes (exec (.flitRetry l) s) fun t => t.host.links[l] = 0 ∧ (∀ x ∈ t.host.used, x.2.2 ≠ l) ∧
        (∃ r ∈ t.log, r.kind = .linkDown ∧ r.unit = l.val) ∧ t.mem = s.mem ∧ t.cores = s.cores)) ∧
    ∀ degraded, Completes (exec (.linkUp l degraded) s) fun t => t = { s with host := { s.host with
      links := s.host.links.set l (if degraded then 3 else 2), retries := s.host.retries.set l [] } })
/-- Sensors refresh, the power budget is checked, coolant or power is lost, memory errors are summed up. -/
def PowerIsKept (s : State) : Prop :=
  (Completes (exec .sensorRefresh s) fun t => t = { s with fresh := t.fresh, newel := { s.newel with sensors := t.newel.sensors } }) ∧
  (920 ≤ s.newel.hottest → Completes (exec .powerBudgetCheck s) fun t => t.cycle = 0 ∧ t.requests = [] ∧ (∀ c, t.body c = {}) ∧ ∃ r ∈ t.log, r.kind = .thermal) ∧
  (s.newel.hottest < 840 → s.newel.watts ≤ s.newel.power.cap → s.newel.power.stopped = false → Completes (exec .powerBudgetCheck s) fun t =>
    t.newel.power.throttled = false ∧ t.newel.power.stopped = false ∧ t.newel.power.above = none ∧ t.mem = s.mem ∧ t.cores = s.cores) ∧
  (s.newel.hottest < 840 → s.newel.power.cap < s.newel.watts → 10 * s.newel.watts ≤ 11 * s.newel.power.cap → s.newel.power.stopped = false →
    Completes (exec .powerBudgetCheck s) fun t => t.newel.power.throttled = true ∧ t.newel.power.stopped = false ∧ t.mem = s.mem ∧ t.cores = s.cores) ∧
  (Completes (exec .coolantLoss s) fun t => t.cycle = 0 ∧ t.requests = [] ∧ (∀ c, t.body c = {}) ∧ ∃ r ∈ t.log, r.kind = .thermal) ∧
  (Completes (exec .powerLoss s) fun t => t = { s with powered := false }) ∧
  (Completes (exec .eccSummary s) fun t => t.newel = { s.newel with corrected := Vector.replicate 16 0 } ∧ t.mem = s.mem ∧ t.cores = s.cores ∧
    ∀ i : Fin 16, ∃ r ∈ t.log, r.kind = .eccSummary ∧ r.unit = i.val ∧ r.detail = BitVec.ofNat 384 s.newel.corrected[i])
/-- R160, R469-R484: the host port's registers and window, the newel controller's commands, completions, peers, links, sensors, power and
resets. Choices of the model in it: logs 29, 30, 31, 32, 33, 34, 35, 36, 49. -/
def Obligations.HostEvents : Prop := ∀ (s : State),
  RegistersAreWritten s ∧ RegistersAreRead s ∧ ModuleResets s ∧ WindowAccessesComplete s ∧ CommandsAct s ∧ CommandsComplete s ∧ PortsComplete s ∧ PeersAreServed s ∧ LinksRetry s ∧ PowerIsKept s

/-- The request is replaced by one further on its way; no byte and no core changes. -/
def MovesOn (s t : State) (id : Nat) (p : Request → Prop) : Prop := (∃ x, t.request? id = some x ∧ p x) ∧ t.mem = s.mem ∧ t.cores = s.cores

/-- The slice of a core's die accepts the next request of its port: it is forwarded, waits for a translation, or is served; a line that a merge
unit writes into a view of another core of the die goes to the view's home (R385). -/
def PortsAccept (s : State) : Prop :=
  (∀ (c : CoreId) (sl : Fin 16) r, s.portNext c sl = some r → s.request? r.id = some r →
    (∀ x d vt round n bs, r.op = .access (.sibling x d (some vt)) round n (some bs) → dieOf d = dieOf r.core → x ≠ d →
      Completes (exec (.bankPortRequest c sl) s) fun t => t.mem = s.mem ∧ (∃ y, t.request? r.id = some y ∧ y.stage = .back) ∧
        (t.body d).locals = (s.body d).locals ++ [{ heldWrite (s.body d).vts 3 (s.task x).endtSrc vt r.va.toNat bs with foreign := true }]) ∧
    (s.servedAt r ≠ dieOf r.core → (∀ n sg d o e, r.op ≠ .load n sg d o e) → Completes (exec (.bankPortRequest c sl) s) fun t =>
      MovesOn s t r.id fun x => x.stage = .packet ∧ x.accepted = s.cycle ∧ x.dieAck = some (s.cycle + 10) ∧ s.cycle + 8 < x.due ∧
        x.at_ = dieOf r.core ∧ x.last = s.servedAt r) ∧
    (s.servedAt r = dieOf r.core → (∀ w rd n bs, r.op = .access w rd n bs → ∀ x d v, w ≠ .sibling x d v) → s.hallLine r.asn r.va = none → (∀ f d, r.op ≠ .migrate f d) → r.op ≠ .purgeTlb →
      Completes (exec (.bankPortRequest c sl) s) fun t => MovesOn s t r.id fun x => x.stage = .walk ∧ s.cycle < x.due) ∧
    (∀ n sg d o e h, homeDie r.va = dieOf r.core → r.op = .load n sg d o e → s.hallLine r.asn r.va = some h → s.blocked { r with accepted := s.cycle, place := s.places } = false →
      let pa := 128 * h.pline + r.va.toNat % 128
      regionOf pa = .hbm → s.poison.contains (pa / 128) = false → Completes (exec (.bankPortRequest c sl) s) fun t =>
        MovesOn s t r.id fun x => x.stage = .back ∧ x.fault = r.fault ∧ x.data = s.physRead pa n ∧ x.due = s.cycle + 8) ∧
    (∀ bs h, homeDie r.va = dieOf r.core → r.op = .store bs → s.hallLine r.asn r.va = some h → h.w = true → s.blocked { r with accepted := s.cycle, place := s.places } = false →
      s.placedNow r.asn r.va = false → s.migrations = [] →
      let pa := 128 * h.pline + r.va.toNat % 128
      regionOf pa = .hbm → Completes (exec (.bankPortRequest c sl) s) fun t => t.cores = s.cores ∧
        t.physRead pa bs.length = bs ∧ (∀ a, (a < pa ∨ pa + bs.length ≤ a) → t.physRead a 1 = s.physRead a 1) ∧
        ∃ x, t.request? r.id = some x ∧ x.stage = .back ∧ x.tag = h.tag + 1))
/-- A packet arrives, a miss is walked, on other dies where its tables lie there, and filled; a packet that waits for long takes the escape way. -/
def RequestsMoveOn (s : State) : Prop :=
  (∀ r, s.request? r.id = some r →
    (r.stage = .packet → s.packetReady r = true → s.hallLine r.asn r.va = none → (∀ f d, r.op ≠ .migrate f d) → r.op ≠ .purgeTlb →
      (∀ q, r.op ≠ .peer q) → (∀ cl, r.op ≠ .carry cl) → (∀ w rd n bs, r.op = .access w rd n bs → ∀ x d v, w ≠ .sibling x d v) →
      Completes (exec (.packetArrival r.id) s) fun t => MovesOn s t r.id fun x => x.stage = .walk) ∧
    (r.stage = .walkOut → s.packetReady r = true → Completes (exec (.packetArrival r.id) s) fun t =>
      MovesOn s t r.id fun x => x.stage = .walkBack ∧ x.at_ = r.at_ ∧ x.last = homeDie r.va) ∧
    (r.stage = .walkBack → s.packetReady r = true → Completes (exec (.packetArrival r.id) s) fun t =>
      MovesOn s t r.id fun x => x.stage = .walk ∧ x.trail = r.trail.map (·.drop 1)) ∧
    (r.stage = .fillBack → s.packetReady r = true → Completes (exec (.packetArrival r.id) s) fun t =>
      MovesOn s t r.id fun x => x.stage = .fill ∧ x.trans = r.trans) ∧
    (∀ d ds, s.walkReady r = true → s.hitFor r = none → s.covered r = false → r.trail = some (d :: ds) →
      Completes (exec (.pageWalk r.id) s) fun t => MovesOn s t r.id fun x => x.stage = .walkOut ∧ x.last = d ∧ x.trail = r.trail) ∧
    (r.stage = .packetBack → s.packetReady r = true → Completes (exec (.packetArrival r.id) s) fun t =>
      MovesOn s t r.id fun x => x.stage = .back ∧ x.due = s.cycle ∧ x.value = r.value ∧ x.fault = r.fault ∧ x.data = r.data) ∧
    (r.stage = .packetOut → s.packetReady r = true → Completes (exec (.packetArrival r.id) s) fun t =>
      MovesOn s t r.id (fun x => x.stage = .away) ∧ t.aways = s.aways ++ [⟨s.nextId, .request r.id, r.pa, r.size, r.out, s.cycle, none⟩]) ∧
    (∀ cause u, s.walkReady r = true → s.hitFor r = none → s.covered r = true ∨ r.trail = some [] → s.translate r.asn r.va = (.error cause, u) →
      Completes (exec (.pageWalk r.id) s) fun t => MovesOn s t r.id fun x => x.fault = some cause ∧ (x.stage = .back ∨ x.stage = .packetBack)) ∧
    (∀ t u, s.walkReady r = true → s.hitFor r = none → s.covered r = true ∨ r.trail = some [] → s.translate r.asn r.va = (.ok t, u) →
      t.permits r.writes r.fetches = true → regionOf (t.pa r.va) = .hbm → s.hallLine r.asn r.va = none → Completes (exec (.pageWalk r.id) s) fun v =>
        MovesOn s v r.id fun x => (x.stage = .fill ∨ x.stage = .fillOut) ∧ x.trans = some t) ∧
    (∀ t u, s.walkReady r = true → s.hitFor r = none → s.covered r = true ∨ r.trail = some [] → s.translate r.asn r.va = (.ok t, u) →
      t.permits r.writes r.fetches = false → Completes (exec (.pageWalk r.id) s) fun v => MovesOn s v r.id fun x => x.fault = some .protection) ∧
    (∀ t, r.trans = some t → s.fillReady r = true → r.op = .prefetch → regionOf (t.pa r.va) = .hbm → t.phaser = false →
      Completes (exec (.lineFill r.id) s) fun v => MovesOn s v r.id (fun x => x.stage = .back ∨ x.stage = .packetBack) ∧
        (s.hallLine r.asn r.va = none → ∃ h ∈ v.hall, h.asn = r.asn ∧ h.line = lineOf r.va ∧ h.pline = t.pa r.va / 128)) ∧
    (s.escapes r = true → Completes (exec (.escape r.id) s) fun t =>
      MovesOn s t r.id fun x => x = { r with escaped := true, since := s.cycle, due := x.due } ∧ s.cycle ≤ x.due))
/-- A router counts its region for each neighbour, sleeps and wakes; one that a packet comes to as it would sleep stays up. -/
def RoutersSleep (s : State) : Prop :=
  (∀ d : Fin 8,
    (s.cycle % 4 = 0 → Completes (exec (.regionalCount d) s) fun t => t = { s with routers := t.routers } ∧ (∀ e, e ≠ d → t.routers[e] = s.routers[e]) ∧
      t.routers[d] = { s.routers[d] with
        counts := Vec.ofFn fun n => if (neighbours d).contains n then s.regionalCount d n else 0, reported := some s.cycle }) ∧
    (s.routerIdle d = true → (∃ x ∈ s.requests, s.usesRouter x d = true) → Completes (exec (.routerSleep d) s) fun t =>
      t = { s with routers := t.routers } ∧ (∀ e, e ≠ d → t.routers[e] = s.routers[e]) ∧
      t.routers[d] = { s.routers[d] with stayUp := s.cycle + 256 }) ∧
    (s.routerIdle d = true → (∀ x ∈ s.requests, s.usesRouter x d = false) → Completes (exec (.routerSleep d) s) fun t =>
      t = { s with routers := t.routers } ∧ (∀ e, e ≠ d → t.routers[e] = s.routers[e]) ∧
      t.routers[d] = { s.routers[d] with up := false, idleFrom := s.cycle, wakeAt := none }) ∧
    (∀ at_, s.routers[d].wakeAt = some at_ → at_ ≤ s.cycle → Completes (exec (.routerWake d) s) fun t => t = { s with routers := t.routers } ∧
      (∀ e, e ≠ d → t.routers[e] = s.routers[e]) ∧ t.routers[d] = { s.routers[d] with up := true, wakeAt := none, idleFrom := s.cycle }))
/-- A traffic period ends; a hot line without an access for 4 096 cycles is compressed again. -/
def TrafficAndHotLines (s : State) : Prop :=
  (s.cycle % 1600 = 0 → Completes (exec .trafficPeriod s) fun t => t = { s with sent := t.sent, period := s.cycle / 1600 } ∧ ∀ d c : Fin 8, t.sent[d][c] = 0) ∧
  (∀ line, Completes (exec (.hotLineRecompress line) s) fun t => t = { s with hall := t.hall } ∧
    ∀ h, h ∈ t.hall ↔ ∃ g ∈ s.hall, h = if g.pline = line ∧ s.coolReady g = true then { g with hot := false } else g)
/-- R443-R463: bank ports accept and forward, packets move, misses are walked and filled, hits are served at their home slice, routers sleep and
wake, hot lines are compressed again. Choices of the model in it: logs 6, 11, 23, 36, 40, 45. -/
def Obligations.FabricEvents : Prop := ∀ (s : State),
  PortsAccept s ∧ RequestsMoveOn s ∧ RoutersSleep s ∧ TrafficAndHotLines s

/-! The whole machine -/

/-- R4, R12, R30, R172, R210, R358, R412, R441, R470, R484: the values that reset leaves, where the spec gives them; the invariant of a step
holds. Memory lists nothing, so every record of phaser storage reads as zero (other addresses read as zero by log 4). That the persistent log is
empty is the model's choice, by log 3. Choices of the model in it: logs 3, 4. -/
def Obligations.ResetState : Prop :=
  let s := State.reset
  Machine.Inv s ∧ s.cycle = 0 ∧ s.powered = true ∧ s.requests = [] ∧ s.log = [] ∧ s.usher.jobs = [] ∧ s.usher.teams = [] ∧
    (∀ pa, phaserBase ≤ pa → pa < phaserBase + 0x2000000 → s.physRead pa 1 = [0#8]) ∧
    (s.usher.qtbase = 0 ∧ s.usher.quantum = 2000 ∧ s.usher.age = 100 ∧ s.usher.enable = false) ∧
    (s.fabcfg.atbase = 0 ∧ (∀ j : Fin 8, s.fabcfg.budget[j] = 0xFFFF) ∧ s.fabcfg.rsleep = 4096 ∧ s.fabcfg.xlat = false) ∧
    s.host.winctl = 0 ∧ s.newel.power.cap = 2800 ∧
    ∀ c : CoreId, let b := s.body c
      (∀ n ∈ [0x002#12, 0x003, 0x004, 0x005, 0x009, 0x00A, 0x00B, 0x010, 0x011, 0x012, 0x013, 0x014, 0x015, 0x018, 0x019, 0x01A, 0x020, 0x021, 0x022, 0x023],
        State.readSr { s with cur := { core := c }, pre := b } n = 0) ∧
      State.readSr { s with cur := { core := c }, pre := b } 0x001 = .ofNat 64 c.val ∧
      State.readSr { s with cur := { core := c }, pre := b } 0x008 = 65535 ∧
      (∀ n : Fin 4, b.bl[n] = 0) ∧ (∀ n : Fin 8, b.sp[n] = (n.val == 0)) ∧ b.gm[0] = 0xFFFFFF ∧ (∀ n : Fin 8, n ≠ 0 → b.gm[n] = 0) ∧
      b.bloops = [] ∧ b.brets = [] ∧ b.brun = false ∧
      ∀ g : GroupId, (∀ n : Fin 8, State.lanes { s with cur := { core := c, group := g }, pre := b } n = if n = 0 then BitVec.allOnes 64 else 0) ∧
        (∀ n : Fin 16, b.groups[g].scal[n] = 0) ∧ b.groups[g].rot = 0

/-- R58, R60, R64, R67-R75, R78: words of each slot written out from their formats decode to the instructions they stand for; opcode 0, the
opcodes above each slot's last, and those of the other mode of the C slots are reserved. -/
def Obligations.DecodeWords : Prop :=
  decodeSlot false .a 0x040C30F0 = .ok (.add ⟨0, false⟩ 12 12 15) ∧ decodeSlot false .a 0xA521FFFC = .ok (.cmpi 0 2 2 7 0xFFF) ∧
  decodeSlot false .a 0x70145563 = .ok (.sel ⟨0, false⟩ 20 3 21 22) ∧ decodeSlot false .g 0x1C0F1000 = .ok (.ldd ⟨0, false⟩ 15 4 0) ∧
  decodeSlot false .g 0x3C051875 = .ok (.aadd ⟨0, false⟩ 5 6 7 .acq .t) ∧ decodeSlot false .g 0x90145562 = .ok (.migr ⟨0, false⟩ 20 21 22 .rlx) ∧
  decodeSlot false .l 0x28145400 = .ok (.twrite ⟨0, false⟩ 20 21 0) ∧ decodeSlot false .x 0x403C0100 = .ok (.mtsr ⟨0, false⟩ 60 0x010) ∧
  decodeSlot false .x 0x1D400005 = .ok (.waitk ⟨2, true⟩ 5) ∧ decodeSlot false .x 0x14140004 = .ok (.loop 0 5 4) ∧
  decodeSlot false .m 0x04144001 = .ok (.mxcfg ⟨0, false⟩ 20 16 1) ∧ decodeSlot false .m 0x20143130 = .ok (.cvtSplit ⟨0, false⟩ 20 (some 3)) ∧
  decodeSlot false .c0 0x040E1552 = .ok (.cp ⟨0, false⟩ 14 5 2 (some 5)) ∧ decodeSlot true .c1 0x1C150001 = .ok (.xmit ⟨0, false⟩ 21 1) ∧
  decodeSlot false .k 0x0C043410 = .ok (.vdecl ⟨0, false⟩ 4 13 0 2 false) ∧ decodeSlot false .q 0x0C300000 = .ok (.bsetf 3) ∧
  decodeSlot false .q 0x28000000 = .ok .flip ∧
  (∀ flight (w : BitVec 32), let op := (w.extractLsb' 26 6).toNat
    ∀ x ∈ [(Slot.a, 51), (.g, 36), (.l, 14), (.x, 22), (.m, 10), (.c0, 10), (.c1, 10), (.k, 8), (.q, 13)],
      op = 0 ∨ x.2 < op → decodeSlot flight x.1 w = .error .reservedOpcode) ∧
  ∀ (w : BitVec 32), let op := (w.extractLsb' 26 6).toNat
    ∀ sl ∈ [Slot.c0, .c1], (op ≤ 6 → decodeSlot true sl w = .error .reservedOpcode) ∧ (7 ≤ op → decodeSlot false sl w = .error .reservedOpcode)

/-- Decode and encode agree: every well-formed instruction that has an encoding is read back from it, with every operand. -/
def Obligations.DecodeEncode : Prop := ∀ i, wellFormed i = true → encode i ≠ .event → decode (encode i) = some i

/-- R7, R29, R59, R60, R61, R170: a step at a control or broadcast bundle of one slot is `exec` of the instruction its bytes decode to, then what
the bundle comes to; a fault or a refusal of the instruction is the step's. A group table entry and an event run as the instruction they are.
Choices of the model in it: logs 5, 14. -/
def Obligations.StepRunsDecoded : Prop :=
  (∀ s c sl h head (w : BitVec 32) i, s.powered = true → s.turn = .ctl c →
    let u := s.tidy c
    let b := u.body c
    let x : Bundle := ⟨b.pc, 8, head, [(sl, w)]⟩
    let v : State := { u with cur := { core := c, hdr := b.pc, len := 8, slot := sl }, pre := b }
    u.cores[c].cachedWord false b.pc = some h → decodeCtlHeader h = .ok head → head.slots = [sl] →
    u.cores[c].cachedWords false (b.pc + 4) 1 = .ok [w] → decodeSlot b.inPhase sl w = .ok i → wellFormed i = true →
    Ready u c x i →
    step s = match exec i v with
      | .next t => (match State.conclude { v with cur := { core := c, hdr := b.pc, len := 8 } } t c x with
        | .next r => .next { r with turn := s.turn.following }
        | r => r)
      | r => r) ∧
  (∀ s c sl h head (w : BitVec 32) i, s.powered = true → s.turn = .brs c →
    let b := s.body c
    let x : BBundle := ⟨b.bpc, 8, head, [(sl, w)]⟩
    let v : State := { s with cur := { core := c, bcast := true, hdr := b.bpc, len := 8 }, pre := b }
    s.cores[c].cachedWord true b.bpc = some h → decodeBcastHeader h = .ok head → head.slots = [sl] →
    s.cores[c].cachedWords true (b.bpc + 4) 1 = .ok [w] → decodeSlot false sl w = .ok i → wellFormed i = true →
    ReadyBroadcast s c head.wait i →
    step s = match exec i { v with cur := { v.cur with slot := sl } } with
      | .next t =>
        let went (r : State) : Host.Outcome State Fault Refusal :=
          .next { (if 0 < (r.body c).bfold then r.bfoldTurn c else if r.cores[c].snapFlip then r.flipAhead c b else r) with turn := s.turn.following }
        match (if sl = .q then t.cur.hold else none), t.cur.ask with
        | some _, some (_, .line a) => (match v.needLine c true a with
          | .next r => went r
          | r => r)
        | some _, _ => went v
        | none, _ => went (v.concludeBroadcast t c x)
      | r => r) ∧
  (∀ e s, runEntry e s = exec e.toInstr s) ∧ ∀ e s, runEvent e s = exec e.toInstr s

/-- R480: every step keeps the persistent log at 4 096 records at most. That it also keeps memory in its one form (addresses rising, no entry of
value 0, unlisted bytes read 0) is a clause of the model's own, by log 4; the spec says nothing of it.
Choices of the model in it: log 4. -/
def Obligations.StepKeepsInv : Prop := ∀ s t, Machine.Inv s → step s = .next t → Machine.Inv t
end

