-- ==== Sys2Proof/Laws/Bits.lean ====
section
/-!
SUPPORT. Laws of byte order and of sparse stores: what a store reads as after a write, and that every operation keeps the canonical form.
-/
namespace Sys2Proof.Machine

/-! Reading after an update -/

section Sparse
variable {α : Type}

theorem lookup_eraseKey (m : Sparse α) (a b : Nat) : lookup (eraseKey m a) b = if a = b then none else lookup m b := by
  induction m with
  | nil => simp [eraseKey, lookup]
  | cons e m ih =>
    obtain ⟨k, v⟩ := e
    by_cases hk : k = a
    · subst hk
      simp only [eraseKey, if_true, ih, lookup]
      by_cases h : k = b <;> simp [h]
    · simp only [eraseKey, if_neg hk, lookup, ih]
      by_cases h : k = b
      · subst h; simp [Ne.symm hk]
      · simp [h]

theorem lookup_insertKey (m : Sparse α) (a b : Nat) (x : α) (h : lookup m a = none) :
    lookup (insertKey m a x) b = if a = b then some x else lookup m b := by
  induction m with
  | nil => simp [insertKey, lookup]
  | cons e m ih =>
    obtain ⟨k, v⟩ := e
    have hk : k ≠ a := by rintro rfl; simp [lookup] at h
    have hm : lookup m a = none := by simpa [lookup, hk] using h
    by_cases hlt : a < k
    · simp only [insertKey, if_pos hlt, lookup]
    · simp only [insertKey, if_neg hlt, lookup, ih hm]
      by_cases hb : k = b
      · subst hb; simp [Ne.symm hk]
      · simp [hb]

variable [DecidableEq α]

theorem sget_sset (d : α) (m : Sparse α) (a b : Nat) (x : α) : sget d (sset d m a x) b = if a = b then x else sget d m b := by
  unfold sget sset
  split
  · rename_i h
    rw [lookup_eraseKey]
    by_cases hb : a = b <;> simp [hb, h]
  · rw [lookup_insertKey _ _ _ _ (by simp [lookup_eraseKey]), lookup_eraseKey]
    by_cases hb : a = b <;> simp [hb]

@[simp] theorem sget_sset_same (d : α) (m : Sparse α) (a : Nat) (x : α) : sget d (sset d m a x) a = x := by simp [sget_sset]

theorem sget_sset_ne (d : α) (m : Sparse α) {a b : Nat} (x : α) (h : a ≠ b) : sget d (sset d m a x) b = sget d m b := by
  simp [sget_sset, h]

/-! The canonical form -/

theorem canonFrom_mono (d : α) {m : Sparse α} : ∀ {lo hi : Nat}, lo ≤ hi → canonFrom d hi m → canonFrom d lo m := by
  cases m with
  | nil => intros; rfl
  | cons e m =>
    intro lo hi h hc
    simp only [canonFrom, Bool.and_eq_true, decide_eq_true_eq] at hc ⊢
    exact ⟨⟨by omega, hc.1.2⟩, hc.2⟩

theorem canonFrom_eraseKey (d : α) (a : Nat) : ∀ (m : Sparse α) (lo : Nat), canonFrom d lo m → canonFrom d lo (eraseKey m a) := by
  intro m
  induction m with
  | nil => intros; rfl
  | cons e m ih =>
    obtain ⟨k, v⟩ := e
    intro lo hc
    simp only [canonFrom, Bool.and_eq_true, decide_eq_true_eq] at hc
    by_cases hk : k = a
    · simp only [eraseKey, if_pos hk]
      exact canonFrom_mono d (by omega) (ih _ hc.2)
    · simp only [eraseKey, if_neg hk, canonFrom, Bool.and_eq_true, decide_eq_true_eq]
      exact ⟨hc.1, ih _ hc.2⟩

theorem canonFrom_insertKey (d : α) {a : Nat} {x : α} (hx : x ≠ d) :
    ∀ (m : Sparse α) (lo : Nat), lo ≤ a → lookup m a = none → canonFrom d lo m → canonFrom d lo (insertKey m a x) := by
  intro m
  induction m with
  | nil => intro lo h _ _; simp [insertKey, canonFrom, h, hx]
  | cons e m ih =>
    obtain ⟨k, v⟩ := e
    intro lo h hn hc
    simp only [canonFrom, Bool.and_eq_true, decide_eq_true_eq] at hc
    have hk : k ≠ a := by rintro rfl; simp [lookup] at hn
    have hm : lookup m a = none := by simpa [lookup, hk] using hn
    by_cases hlt : a < k
    · simp only [insertKey, if_pos hlt, canonFrom, Bool.and_eq_true, decide_eq_true_eq]
      exact ⟨⟨h, hx⟩, ⟨⟨by omega, hc.1.2⟩, hc.2⟩⟩
    · simp only [insertKey, if_neg hlt, canonFrom, Bool.and_eq_true, decide_eq_true_eq]
      exact ⟨hc.1, ih _ (by omega) hm hc.2⟩

/-- A write keeps the canonical form. -/
theorem canon_sset (d : α) (m : Sparse α) (a : Nat) (x : α) (h : canon d m) : canon d (sset d m a x) := by
  unfold canon sset at *
  split
  · exact canonFrom_eraseKey d a m 0 h
  · rename_i hx
    exact canonFrom_insertKey d hx _ 0 (Nat.zero_le _) (by simp [lookup_eraseKey]) (canonFrom_eraseKey d a m 0 h)

theorem lookup_of_canonFrom (d : α) : ∀ {m : Sparse α} {lo a : Nat}, canonFrom d lo m → a < lo → lookup m a = none := by
  intro m
  induction m with
  | nil => intros; rfl
  | cons e m ih =>
    obtain ⟨k, v⟩ := e
    intro lo a hc h
    simp only [canonFrom, Bool.and_eq_true, decide_eq_true_eq] at hc
    simp only [lookup, if_neg (show k ≠ a by omega)]
    exact ih hc.2 (by omega)

/-- Two stores in canonical form that read the same everywhere are the same data. -/
theorem canonFrom_ext (d : α) : ∀ (m n : Sparse α) (lo : Nat), canonFrom d lo m → canonFrom d lo n → (∀ a, sget d m a = sget d n a) → m = n := by
  intro m
  induction m with
  | nil =>
    intro n lo _ hn h
    cases n with
    | nil => rfl
    | cons e n =>
      obtain ⟨k, v⟩ := e
      simp only [canonFrom, Bool.and_eq_true, decide_eq_true_eq] at hn
      have := h k
      simp [sget, lookup] at this
      exact absurd this.symm hn.1.2
  | cons e m ih =>
    obtain ⟨k, v⟩ := e
    intro n lo hm hn h
    simp only [canonFrom, Bool.and_eq_true, decide_eq_true_eq] at hm
    cases n with
    | nil =>
      have := h k
      simp [sget, lookup] at this
      exact absurd this hm.1.2
    | cons f n =>
      obtain ⟨j, w⟩ := f
      simp only [canonFrom, Bool.and_eq_true, decide_eq_true_eq] at hn
      have hkj : k = j := by
        rcases Nat.lt_trichotomy k j with hlt | heq | hgt
        · have h1 := h k
          have h2 : lookup n k = none := lookup_of_canonFrom d hn.2 (by omega)
          simp [sget, lookup, h2, show j ≠ k by omega] at h1
          exact absurd h1 hm.1.2
        · exact heq
        · have h1 := h j
          have h2 : lookup m j = none := lookup_of_canonFrom d hm.2 (by omega)
          simp [sget, lookup, h2, show k ≠ j by omega] at h1
          exact absurd h1.symm hn.1.2
      subst hkj
      have hv : v = w := by simpa [sget, lookup] using h k
      subst hv
      congr 1
      apply ih n (k + 1) hm.2 hn.2
      intro a
      by_cases hak : a = k
      · subst hak
        simp [sget, lookup_of_canonFrom d hm.2 (Nat.lt_succ_self a), lookup_of_canonFrom d hn.2 (Nat.lt_succ_self a)]
      · have := h a
        simpa [sget, lookup, Ne.symm hak] using this

theorem canon_ext (d : α) {m n : Sparse α} (hm : canon d m) (hn : canon d n) (h : ∀ a, sget d m a = sget d n a) : m = n :=
  canonFrom_ext d m n 0 hm hn h

end Sparse

/-! Bytes -/

@[simp] theorem length_bytesLE (n v : Nat) : (bytesLE n v).length = n := by
  induction n generalizing v with
  | zero => rfl
  | succ n ih => simp [bytesLE, ih]

theorem natLE_bytesLE (n v : Nat) : natLE (bytesLE n v) = v % 256 ^ n := by
  induction n generalizing v with
  | zero => simp [bytesLE, natLE, Nat.mod_one]
  | succ n ih =>
    rw [bytesLE, natLE, ih, BitVec.toNat_ofNat, show 256 ^ (n + 1) = 256 * 256 ^ n from Nat.pow_succ', Nat.mod_mul]

theorem natLE_lt (bs : List (BitVec 8)) : natLE bs < 256 ^ bs.length := by
  induction bs with
  | nil => simp [natLE]
  | cons b bs ih =>
    simp only [natLE, List.length_cons, pow_succ]
    have := b.isLt
    omega

@[simp] theorem length_readBytes (m : Sparse (BitVec 8)) (a n : Nat) : (readBytes m a n).length = n := by
  induction n generalizing a with
  | zero => rfl
  | succ n ih => simp [readBytes, ih]

theorem sget_writeBytes (m : Sparse (BitVec 8)) (a : Nat) (bs : List (BitVec 8)) (x : Nat) :
    sget 0 (writeBytes m a bs) x = if h : a ≤ x ∧ x < a + bs.length then bs[x - a]'(by omega) else sget 0 m x := by
  induction bs generalizing m a with
  | nil =>
    have : ¬(a ≤ x ∧ x < a + ([] : List (BitVec 8)).length) := by simp only [List.length_nil]; omega
    rw [dif_neg this]; rfl
  | cons b bs ih =>
    simp only [writeBytes, ih, List.length_cons]
    by_cases h1 : a + 1 ≤ x ∧ x < a + 1 + bs.length
    · rw [dif_pos h1, dif_pos (by omega)]
      have hx : x - a = (x - (a + 1)) + 1 := by omega
      simp only [hx, List.getElem_cons_succ]
    · rw [dif_neg h1, sget_sset]
      by_cases h2 : a = x
      · subst h2; simp
      · rw [if_neg h2, dif_neg (by omega)]

/-- Bytes outside the range written read as before. -/
theorem sget_writeBytes_outside (m : Sparse (BitVec 8)) (a : Nat) (bs : List (BitVec 8)) (x : Nat) (h : x < a ∨ a + bs.length ≤ x) :
    sget 0 (writeBytes m a bs) x = sget 0 m x := by
  rw [sget_writeBytes, dif_neg (by omega)]

theorem readBytes_writeBytes_same (m : Sparse (BitVec 8)) (a : Nat) (bs : List (BitVec 8)) :
    readBytes (writeBytes m a bs) a bs.length = bs := by
  apply List.ext_getElem (by simp)
  intro i h1 h2
  have key : ∀ (k : Sparse (BitVec 8)) (n b j : Nat) (hj : j < (readBytes k b n).length), (readBytes k b n)[j] = sget 0 k (b + j) := by
    intro k n
    induction n with
    | zero => intro b j hj; simp [readBytes] at hj
    | succ n ih =>
      intro b j hj
      cases j with
      | zero => rfl
      | succ j =>
        simp only [readBytes, List.getElem_cons_succ]
        rw [ih]
        congr 1
        omega
  rw [key, sget_writeBytes, dif_pos (by omega)]
  simp

theorem canon_writeBytes (m : Sparse (BitVec 8)) (a : Nat) (bs : List (BitVec 8)) (h : canon 0 m) : canon 0 (writeBytes m a bs) := by
  induction bs generalizing m a with
  | nil => exact h
  | cons b bs ih => exact ih _ _ (canon_sset 0 m a b h)

theorem canon_writeCells (m : Sparse (BitVec 8)) (bs : List (Nat × BitVec 8)) (h : canon 0 m) : canon 0 (writeCells m bs) := by
  induction bs generalizing m with
  | nil => exact h
  | cons b bs ih => exact ih _ (canon_sset 0 m b.1 b.2 h)

theorem sget_writeCells_outside (m : Sparse (BitVec 8)) (bs : List (Nat × BitVec 8)) (x : Nat) (h : ∀ b ∈ bs, b.1 ≠ x) :
    sget 0 (writeCells m bs) x = sget 0 m x := by
  induction bs generalizing m with
  | nil => rfl
  | cons b bs ih =>
    simp only [writeCells]
    rw [ih _ (fun c hc => h c (List.mem_cons_of_mem _ hc)), sget_sset_ne _ _ _ (h b (List.mem_cons_self ..))]

/-! Vectors -/

@[simp] theorem Vec.getElem_modify {α : Type} {n : Nat} (v : Vector α n) (i : Fin n) (f : α → α) (j : Nat) (h : j < n) :
    (Vec.modify v i f)[j] = if i.val = j then f v[j] else v[j] := by
  simp only [Vec.modify, Vector.getElem_set, Fin.getElem_fin]
  split
  · rename_i e; subst e; rfl
  · rfl
theorem Vec.getElem_modify_same {α : Type} {n : Nat} (v : Vector α n) (i : Fin n) (f : α → α) : (Vec.modify v i f)[i] = f v[i] := by simp
theorem Vec.getElem_modify_ne {α : Type} {n : Nat} (v : Vector α n) {i j : Fin n} (f : α → α) (h : j ≠ i) : (Vec.modify v i f)[j] = v[j] := by
  have : i.val ≠ j.val := fun hc => h (Fin.ext hc.symm)
  simp [this]
@[simp] theorem Vec.getElem_ofFn {α : Type} {n : Nat} (f : Fin n → α) (j : Nat) (h : j < n) : (Vec.ofFn f)[j] = f ⟨j, h⟩ := by
  simp [Vec.ofFn]
@[simp] theorem Vec.getElem_map {α β : Type} {n : Nat} (f : α → β) (v : Vector α n) (j : Nat) (h : j < n) : (Vec.map f v)[j] = f v[j] := by
  simp [Vec.map]

end Sys2Proof.Machine
end

