-- ==== Sys2Proof/Laws/Encoding.lean ====
section
/-!
SUPPORT. Fields of encoded words: what a decoder finds where the encoder of Decode.lean put it.
-/
namespace Sys2Proof

/-! Fields of a concatenation -/

theorem ext_lo {a b s n : Nat} (x : BitVec a) (y : BitVec b) (h : s + n ≤ b) : (x ++ y).extractLsb' s n = y.extractLsb' s n := by
  apply BitVec.eq_of_getLsbD_eq; intro i hi
  simp only [BitVec.getLsbD_extractLsb', BitVec.getLsbD_append, hi, decide_true, Bool.true_and]
  rw [if_pos (by omega)]
theorem ext_hi {a b s n : Nat} (x : BitVec a) (y : BitVec b) (h : b ≤ s) : (x ++ y).extractLsb' s n = x.extractLsb' (s - b) n := by
  apply BitVec.eq_of_getLsbD_eq; intro i hi
  simp only [BitVec.getLsbD_extractLsb', BitVec.getLsbD_append, hi, decide_true, Bool.true_and]
  rw [if_neg (by omega)]; congr 1; omega
theorem ext_all {w : Nat} (x : BitVec w) : x.extractLsb' 0 w = x := by simp
theorem bit_lo {a b i : Nat} (x : BitVec a) (y : BitVec b) (h : i < b) : (x ++ y).getLsbD i = y.getLsbD i := by
  rw [BitVec.getLsbD_append, if_pos h]
theorem bit_hi {a b i : Nat} (x : BitVec a) (y : BitVec b) (h : b ≤ i) : (x ++ y).getLsbD i = x.getLsbD (i - b) := by
  rw [BitVec.getLsbD_append, if_neg (by omega)]
theorem ext_ext {w s n t m : Nat} (x : BitVec w) (h : t + m ≤ n) : (x.extractLsb' s n).extractLsb' t m = x.extractLsb' (s + t) m := by
  apply BitVec.eq_of_getLsbD_eq; intro i hi
  simp only [BitVec.getLsbD_extractLsb', hi, show t + i < n by omega, decide_true, Bool.true_and, Nat.add_assoc]
@[simp] theorem ofBool_bit (b : Bool) : (BitVec.ofBool b).getLsbD 0 = b := by cases b <;> rfl
theorem split_at (a b : Nat) (m : BitVec (a + b)) : m = m.extractLsb' b a ++ m.extractLsb' 0 b := by
  apply BitVec.eq_of_getLsbD_eq; intro i hi
  simp only [BitVec.getLsbD_append, BitVec.getLsbD_extractLsb']
  split
  · simp; omega
  · rename_i h
    simp only [show i - b < a by omega, decide_true, Bool.true_and]; congr 1; omega
theorem and_append_mask {a b : Nat} (x : BitVec a) (y : BitVec b) (m : BitVec (a + b)) :
    (x ++ y) &&& m = (x &&& m.extractLsb' b a) ++ (y &&& m.extractLsb' 0 b) := by
  conv => lhs; rw [split_at a b m]
  rw [BitVec.and_append]

/-! Words with a predicate: opcode, predicate, 22 low bits -/

section
variable (op : BitVec 6) (q : Qual) (l : BitVec 22)
theorem op_wq : (wq op q l).extractLsb' 26 6 = op := by
  simp only [wq, ext_hi _ _ (show 22 ≤ 26 by decide), ext_hi _ _ (show 1 ≤ 26 - 22 by decide), ext_hi _ _ (show 3 ≤ 26 - 22 - 1 by decide)]
  exact ext_all _
@[simp] theorem ext_wq (s n : Nat) (h : s + n ≤ 22) : (wq op q l).extractLsb' s n = l.extractLsb' s n := ext_lo _ _ h
@[simp] theorem bit_wq (i : Nat) (h : i < 22) : (wq op q l).getLsbD i = l.getLsbD i := bit_lo _ _ h
@[simp] theorem low22_wq : low22 (wq op q l) = l := (ext_wq op q l 0 22 (by decide)).trans (ext_all l)
@[simp] theorem qual_wq : qual (wq op q l) = q := by
  have h : (wq op q l).extractLsb' 23 3 = b3 q.p := by
    simp only [wq, ext_hi _ _ (show 22 ≤ 23 by decide), ext_hi _ _ (show 1 ≤ 23 - 22 by decide), ext_lo _ _ (show 23 - 22 - 1 + 3 ≤ 3 by decide)]
    exact ext_all _
  have h2 : (wq op q l).getLsbD 22 = q.neg := by
    simp only [wq, bit_hi _ _ (show 22 ≤ 22 by decide), bit_lo _ _ (show 22 - 22 < 1 by decide)]; exact ofBool_bit _
  rw [qual, h, h2]; rfl
@[simp] theorem rD_wq : rD (wq op q l) = fin6 (l.extractLsb' 16 6) := congrArg fin6 (ext_wq _ _ _ _ _ (by decide))
@[simp] theorem rA_wq : rA (wq op q l) = fin6 (l.extractLsb' 10 6) := congrArg fin6 (ext_wq _ _ _ _ _ (by decide))
@[simp] theorem rB_wq : rB (wq op q l) = fin6 (l.extractLsb' 4 6) := congrArg fin6 (ext_wq _ _ _ _ _ (by decide))
@[simp] theorem pD_wq : pD (wq op q l) = fin3 (l.extractLsb' 16 3) := congrArg fin3 (ext_wq _ _ _ _ _ (by decide))
end

/-! The 22 low bits -/

section
variable (d a b : Reg) (f : BitVec 4) (m : BitVec 22) (i : BitVec 10)
@[simp] theorem low3_d : (low3 d a b f).extractLsb' 16 6 = b6 d := by
  simp only [low3, ext_hi _ _ (show 4 ≤ 16 by decide), ext_hi _ _ (show 6 ≤ 16 - 4 by decide), ext_hi _ _ (show 6 ≤ 16 - 4 - 6 by decide)]; exact ext_all _
@[simp] theorem low3_p (p : PReg) : (low3 (regOfP p) a b f).extractLsb' 16 3 = b3 p := by
  have := ext_ext (s := 16) (n := 6) (t := 0) (m := 3) (low3 (regOfP p) a b f) (by decide)
  rw [Nat.add_zero] at this; rw [← this, low3_d]; clear this; revert p; decide
@[simp] theorem low3_a : (low3 d a b f).extractLsb' 10 6 = b6 a := by
  simp only [low3, ext_hi _ _ (show 4 ≤ 10 by decide), ext_hi _ _ (show 6 ≤ 10 - 4 by decide), ext_lo _ _ (show 10 - 4 - 6 + 6 ≤ 6 by decide)]; exact ext_all _
@[simp] theorem low3_b : (low3 d a b f).extractLsb' 4 6 = b6 b := by
  simp only [low3, ext_hi _ _ (show 4 ≤ 4 by decide), ext_lo _ _ (show 4 - 4 + 6 ≤ 6 by decide)]; exact ext_all _
@[simp] theorem low3_pa (p : PReg) : (low3 d (regOfP p) b f).extractLsb' 10 3 = b3 p := by
  have := ext_ext (s := 10) (n := 6) (t := 0) (m := 3) (low3 d (regOfP p) b f) (by decide)
  rw [Nat.add_zero] at this; rw [← this, low3_a]; clear this; revert p; decide
@[simp] theorem low3_pb (p : PReg) : (low3 d a (regOfP p) f).extractLsb' 4 3 = b3 p := by
  have := ext_ext (s := 4) (n := 6) (t := 0) (m := 3) (low3 d a (regOfP p) f) (by decide)
  rw [Nat.add_zero] at this; rw [← this, low3_b]; clear this; revert p; decide
@[simp] theorem low3_f (s n : Nat) (h : s + n ≤ 4) : (low3 d a b f).extractLsb' s n = f.extractLsb' s n := ext_lo _ _ h
@[simp] theorem low3_and : low3 d a b f &&& m =
    (b6 d &&& m.extractLsb' 16 6) ++ (b6 a &&& m.extractLsb' 10 6) ++ (b6 b &&& m.extractLsb' 4 6) ++ (f &&& m.extractLsb' 0 4) := by
  rw [low3, and_append_mask (b6 d ++ b6 a ++ b6 b) f m, and_append_mask (b6 d ++ b6 a) (b6 b), ext_ext (s := 4) (n := 18) (t := 6) (m := 12) _ (by decide),
    ext_ext (s := 4) (n := 18) (t := 0) (m := 6) _ (by decide), and_append_mask (b6 d) (b6 a),
    ext_ext (s := 10) (n := 12) (t := 6) (m := 6) _ (by decide), ext_ext (s := 10) (n := 12) (t := 0) (m := 6) _ (by decide)]
@[simp] theorem low2_d : (low2 d a i).extractLsb' 16 6 = b6 d := by
  simp only [low2, ext_hi _ _ (show 10 ≤ 16 by decide), ext_hi _ _ (show 6 ≤ 16 - 10 by decide)]; exact ext_all _
@[simp] theorem low2_a : (low2 d a i).extractLsb' 10 6 = b6 a := by
  simp only [low2, ext_hi _ _ (show 10 ≤ 10 by decide), ext_lo _ _ (show 10 - 10 + 6 ≤ 6 by decide)]; exact ext_all _
@[simp] theorem low2_i (s n : Nat) (h : s + n ≤ 10) : (low2 d a i).extractLsb' s n = i.extractLsb' s n := ext_lo _ _ h
@[simp] theorem low2_bit (s : Nat) (h : s < 10) : (low2 d a i).getLsbD s = i.getLsbD s := bit_lo _ _ h
@[simp] theorem low2_and : low2 d a i &&& m = (b6 d &&& m.extractLsb' 16 6) ++ (b6 a &&& m.extractLsb' 10 6) ++ (i &&& m.extractLsb' 0 10) := by
  rw [low2, and_append_mask (b6 d ++ b6 a) i m, and_append_mask (b6 d) (b6 a),
    ext_ext (s := 10) (n := 12) (t := 6) (m := 6) _ (by decide), ext_ext (s := 10) (n := 12) (t := 0) (m := 6) _ (by decide)]
end

/-! Fields and their values -/

@[simp] theorem fin6_b6 (x) : fin6 (b6 x) = x := rfl
@[simp] theorem fin3_b3 (x) : fin3 (b3 x) = x := rfl
@[simp] theorem fin2_b2 (x) : fin2 (b2 x) = x := rfl
@[simp] theorem fin1_b1 (x) : fin1 (b1 x) = x := rfl
@[simp] theorem fin4_b4 (x) : fin4 (b4 x) = x := rfl
@[simp] theorem fin10_b10 (x) : fin10 (b10 x) = x := rfl
theorem b6_fin6 (x) : b6 (fin6 x) = x := rfl
@[simp] theorem orderOf_bits (o) : orderOf (orderBits o) = o := by cases o <;> rfl
@[simp] theorem scopeOf_bits (o) : scopeOf (scopeBits o) = o := by cases o <;> rfl
@[simp] theorem tokOk_bits (t) : tokOk (tokBits t) = true := by cases t with
  | none => rfl
  | some t => revert t; decide
@[simp] theorem tokOf_bits (t) : tokOf (tokBits t) = t := by cases t with
  | none => rfl
  | some t => revert t; decide
@[simp] theorem b6_zero : b6 0 = 0#6 := rfl
@[simp] theorem regOfP_mask (p : PReg) : b6 (regOfP p) &&& 56#6 = 0#6 := by revert p; decide

/-! Two parts of the widths that the formats use, the whole with its own width -/

@[simp] theorem lo_1_3 (x : BitVec 1) (y : BitVec 3) (s n : Nat) (h : s + n ≤ 3) : (x ++ y : BitVec 4).extractLsb' s n = y.extractLsb' s n := ext_lo x y h
@[simp] theorem hi_1_3 (x : BitVec 1) (y : BitVec 3) (s n : Nat) (h : 3 ≤ s) : (x ++ y : BitVec 4).extractLsb' s n = x.extractLsb' (s - 3) n := ext_hi x y h
@[simp] theorem and_1_3 (x : BitVec 1) (y : BitVec 3) (m : BitVec 4) : (x ++ y : BitVec 4) &&& m = (x &&& m.extractLsb' 3 1) ++ (y &&& m.extractLsb' 0 3) := and_append_mask x y m
@[simp] theorem lo_2_2 (x : BitVec 2) (y : BitVec 2) (s n : Nat) (h : s + n ≤ 2) : (x ++ y : BitVec 4).extractLsb' s n = y.extractLsb' s n := ext_lo x y h
@[simp] theorem hi_2_2 (x : BitVec 2) (y : BitVec 2) (s n : Nat) (h : 2 ≤ s) : (x ++ y : BitVec 4).extractLsb' s n = x.extractLsb' (s - 2) n := ext_hi x y h
@[simp] theorem and_2_2 (x : BitVec 2) (y : BitVec 2) (m : BitVec 4) : (x ++ y : BitVec 4) &&& m = (x &&& m.extractLsb' 2 2) ++ (y &&& m.extractLsb' 0 2) := and_append_mask x y m
@[simp] theorem lo_6_4 (x : BitVec 6) (y : BitVec 4) (s n : Nat) (h : s + n ≤ 4) : (x ++ y : BitVec 10).extractLsb' s n = y.extractLsb' s n := ext_lo x y h
@[simp] theorem hi_6_4 (x : BitVec 6) (y : BitVec 4) (s n : Nat) (h : 4 ≤ s) : (x ++ y : BitVec 10).extractLsb' s n = x.extractLsb' (s - 4) n := ext_hi x y h
@[simp] theorem and_6_4 (x : BitVec 6) (y : BitVec 4) (m : BitVec 10) : (x ++ y : BitVec 10) &&& m = (x &&& m.extractLsb' 4 6) ++ (y &&& m.extractLsb' 0 4) := and_append_mask x y m
@[simp] theorem bit_6_4 (x : BitVec 6) (y : BitVec 4) (s : Nat) (h : 4 ≤ s) : (x ++ y : BitVec 10).getLsbD s = x.getLsbD (s - 4) := bit_hi x y h
@[simp] theorem bitl_6_4 (x : BitVec 6) (y : BitVec 4) (s : Nat) (h : s < 4) : (x ++ y : BitVec 10).getLsbD s = y.getLsbD s := bit_lo x y h
@[simp] theorem lo_8_2 (x : BitVec 8) (y : BitVec 2) (s n : Nat) (h : s + n ≤ 2) : (x ++ y : BitVec 10).extractLsb' s n = y.extractLsb' s n := ext_lo x y h
@[simp] theorem hi_8_2 (x : BitVec 8) (y : BitVec 2) (s n : Nat) (h : 2 ≤ s) : (x ++ y : BitVec 10).extractLsb' s n = x.extractLsb' (s - 2) n := ext_hi x y h
@[simp] theorem and_8_2 (x : BitVec 8) (y : BitVec 2) (m : BitVec 10) : (x ++ y : BitVec 10) &&& m = (x &&& m.extractLsb' 2 8) ++ (y &&& m.extractLsb' 0 2) := and_append_mask x y m
@[simp] theorem lo_7_3 (x : BitVec 7) (y : BitVec 3) (s n : Nat) (h : s + n ≤ 3) : (x ++ y : BitVec 10).extractLsb' s n = y.extractLsb' s n := ext_lo x y h
@[simp] theorem hi_7_3 (x : BitVec 7) (y : BitVec 3) (s n : Nat) (h : 3 ≤ s) : (x ++ y : BitVec 10).extractLsb' s n = x.extractLsb' (s - 3) n := ext_hi x y h
@[simp] theorem and_7_3 (x : BitVec 7) (y : BitVec 3) (m : BitVec 10) : (x ++ y : BitVec 10) &&& m = (x &&& m.extractLsb' 3 7) ++ (y &&& m.extractLsb' 0 3) := and_append_mask x y m
@[simp] theorem bit_7_3 (x : BitVec 7) (y : BitVec 3) (s : Nat) (h : 3 ≤ s) : (x ++ y : BitVec 10).getLsbD s = x.getLsbD (s - 3) := bit_hi x y h
@[simp] theorem bitl_7_3 (x : BitVec 7) (y : BitVec 3) (s : Nat) (h : s < 3) : (x ++ y : BitVec 10).getLsbD s = y.getLsbD s := bit_lo x y h
@[simp] theorem lo_9_1 (x : BitVec 9) (y : BitVec 1) (s n : Nat) (h : s + n ≤ 1) : (x ++ y : BitVec 10).extractLsb' s n = y.extractLsb' s n := ext_lo x y h
@[simp] theorem hi_9_1 (x : BitVec 9) (y : BitVec 1) (s n : Nat) (h : 1 ≤ s) : (x ++ y : BitVec 10).extractLsb' s n = x.extractLsb' (s - 1) n := ext_hi x y h
@[simp] theorem and_9_1 (x : BitVec 9) (y : BitVec 1) (m : BitVec 10) : (x ++ y : BitVec 10) &&& m = (x &&& m.extractLsb' 1 9) ++ (y &&& m.extractLsb' 0 1) := and_append_mask x y m
@[simp] theorem lo_1_9 (x : BitVec 1) (y : BitVec 9) (s n : Nat) (h : s + n ≤ 9) : (x ++ y : BitVec 10).extractLsb' s n = y.extractLsb' s n := ext_lo x y h
@[simp] theorem hi_1_9 (x : BitVec 1) (y : BitVec 9) (s n : Nat) (h : 9 ≤ s) : (x ++ y : BitVec 10).extractLsb' s n = x.extractLsb' (s - 9) n := ext_hi x y h
@[simp] theorem and_1_9 (x : BitVec 1) (y : BitVec 9) (m : BitVec 10) : (x ++ y : BitVec 10) &&& m = (x &&& m.extractLsb' 9 1) ++ (y &&& m.extractLsb' 0 9) := and_append_mask x y m
@[simp] theorem lo_4_6 (x : BitVec 4) (y : BitVec 6) (s n : Nat) (h : s + n ≤ 6) : (x ++ y : BitVec 10).extractLsb' s n = y.extractLsb' s n := ext_lo x y h
@[simp] theorem hi_4_6 (x : BitVec 4) (y : BitVec 6) (s n : Nat) (h : 6 ≤ s) : (x ++ y : BitVec 10).extractLsb' s n = x.extractLsb' (s - 6) n := ext_hi x y h
@[simp] theorem and_4_6 (x : BitVec 4) (y : BitVec 6) (m : BitVec 10) : (x ++ y : BitVec 10) &&& m = (x &&& m.extractLsb' 6 4) ++ (y &&& m.extractLsb' 0 6) := and_append_mask x y m
@[simp] theorem lo_18_4 (x : BitVec 18) (y : BitVec 4) (s n : Nat) (h : s + n ≤ 4) : (x ++ y : BitVec 22).extractLsb' s n = y.extractLsb' s n := ext_lo x y h
@[simp] theorem hi_18_4 (x : BitVec 18) (y : BitVec 4) (s n : Nat) (h : 4 ≤ s) : (x ++ y : BitVec 22).extractLsb' s n = x.extractLsb' (s - 4) n := ext_hi x y h
@[simp] theorem and_18_4 (x : BitVec 18) (y : BitVec 4) (m : BitVec 22) : (x ++ y : BitVec 22) &&& m = (x &&& m.extractLsb' 4 18) ++ (y &&& m.extractLsb' 0 4) := and_append_mask x y m
@[simp] theorem lo_6_6 (x : BitVec 6) (y : BitVec 6) (s n : Nat) (h : s + n ≤ 6) : (x ++ y : BitVec 12).extractLsb' s n = y.extractLsb' s n := ext_lo x y h
@[simp] theorem hi_6_6 (x : BitVec 6) (y : BitVec 6) (s n : Nat) (h : 6 ≤ s) : (x ++ y : BitVec 12).extractLsb' s n = x.extractLsb' (s - 6) n := ext_hi x y h
@[simp] theorem and_6_6 (x : BitVec 6) (y : BitVec 6) (m : BitVec 12) : (x ++ y : BitVec 12) &&& m = (x &&& m.extractLsb' 6 6) ++ (y &&& m.extractLsb' 0 6) := and_append_mask x y m
@[simp] theorem lo_2_4 (x : BitVec 2) (y : BitVec 4) (s n : Nat) (h : s + n ≤ 4) : (x ++ y : BitVec 6).extractLsb' s n = y.extractLsb' s n := ext_lo x y h
@[simp] theorem hi_2_4 (x : BitVec 2) (y : BitVec 4) (s n : Nat) (h : 4 ≤ s) : (x ++ y : BitVec 6).extractLsb' s n = x.extractLsb' (s - 4) n := ext_hi x y h
@[simp] theorem and_2_4 (x : BitVec 2) (y : BitVec 4) (m : BitVec 6) : (x ++ y : BitVec 6) &&& m = (x &&& m.extractLsb' 4 2) ++ (y &&& m.extractLsb' 0 4) := and_append_mask x y m
@[simp] theorem lo_3_3 (x : BitVec 3) (y : BitVec 3) (s n : Nat) (h : s + n ≤ 3) : (x ++ y : BitVec 6).extractLsb' s n = y.extractLsb' s n := ext_lo x y h
@[simp] theorem hi_3_3 (x : BitVec 3) (y : BitVec 3) (s n : Nat) (h : 3 ≤ s) : (x ++ y : BitVec 6).extractLsb' s n = x.extractLsb' (s - 3) n := ext_hi x y h
@[simp] theorem and_3_3 (x : BitVec 3) (y : BitVec 3) (m : BitVec 6) : (x ++ y : BitVec 6) &&& m = (x &&& m.extractLsb' 3 3) ++ (y &&& m.extractLsb' 0 3) := and_append_mask x y m
@[simp] theorem lo_7_7 (x : BitVec 7) (y : BitVec 7) (s n : Nat) (h : s + n ≤ 7) : (x ++ y : BitVec 14).extractLsb' s n = y.extractLsb' s n := ext_lo x y h
@[simp] theorem hi_7_7 (x : BitVec 7) (y : BitVec 7) (s n : Nat) (h : 7 ≤ s) : (x ++ y : BitVec 14).extractLsb' s n = x.extractLsb' (s - 7) n := ext_hi x y h
@[simp] theorem and_7_7 (x : BitVec 7) (y : BitVec 7) (m : BitVec 14) : (x ++ y : BitVec 14) &&& m = (x &&& m.extractLsb' 7 7) ++ (y &&& m.extractLsb' 0 7) := and_append_mask x y m
@[simp] theorem lo_8_6 (x : BitVec 8) (y : BitVec 6) (s n : Nat) (h : s + n ≤ 6) : (x ++ y : BitVec 14).extractLsb' s n = y.extractLsb' s n := ext_lo x y h
@[simp] theorem hi_8_6 (x : BitVec 8) (y : BitVec 6) (s n : Nat) (h : 6 ≤ s) : (x ++ y : BitVec 14).extractLsb' s n = x.extractLsb' (s - 6) n := ext_hi x y h
@[simp] theorem and_8_6 (x : BitVec 8) (y : BitVec 6) (m : BitVec 14) : (x ++ y : BitVec 14) &&& m = (x &&& m.extractLsb' 6 8) ++ (y &&& m.extractLsb' 0 6) := and_append_mask x y m
@[simp] theorem lo_6_2 (x : BitVec 6) (y : BitVec 2) (s n : Nat) (h : s + n ≤ 2) : (x ++ y : BitVec 8).extractLsb' s n = y.extractLsb' s n := ext_lo x y h
@[simp] theorem hi_6_2 (x : BitVec 6) (y : BitVec 2) (s n : Nat) (h : 2 ≤ s) : (x ++ y : BitVec 8).extractLsb' s n = x.extractLsb' (s - 2) n := ext_hi x y h
@[simp] theorem lo_1_5 (x : BitVec 1) (y : BitVec 5) (s n : Nat) (h : s + n ≤ 5) : (x ++ y : BitVec 6).extractLsb' s n = y.extractLsb' s n := ext_lo x y h
@[simp] theorem hi_1_5 (x : BitVec 1) (y : BitVec 5) (s n : Nat) (h : 5 ≤ s) : (x ++ y : BitVec 6).extractLsb' s n = x.extractLsb' (s - 5) n := ext_hi x y h
@[simp] theorem lo_4_2 (x : BitVec 4) (y : BitVec 2) (s n : Nat) (h : s + n ≤ 2) : (x ++ y : BitVec 6).extractLsb' s n = y.extractLsb' s n := ext_lo x y h
@[simp] theorem hi_4_2 (x : BitVec 4) (y : BitVec 2) (s n : Nat) (h : 2 ≤ s) : (x ++ y : BitVec 6).extractLsb' s n = x.extractLsb' (s - 2) n := ext_hi x y h
@[simp] theorem lo_3_1 (x : BitVec 3) (y : BitVec 1) (s n : Nat) (h : s + n ≤ 1) : (x ++ y : BitVec 4).extractLsb' s n = y.extractLsb' s n := ext_lo x y h
@[simp] theorem hi_3_1 (x : BitVec 3) (y : BitVec 1) (s n : Nat) (h : 1 ≤ s) : (x ++ y : BitVec 4).extractLsb' s n = x.extractLsb' (s - 1) n := ext_hi x y h
@[simp] theorem lo_7_1 (x : BitVec 7) (y : BitVec 1) (s n : Nat) (h : s + n ≤ 1) : (x ++ y : BitVec 8).extractLsb' s n = y.extractLsb' s n := ext_lo x y h
@[simp] theorem hi_7_1 (x : BitVec 7) (y : BitVec 1) (s n : Nat) (h : 1 ≤ s) : (x ++ y : BitVec 8).extractLsb' s n = x.extractLsb' (s - 1) n := ext_hi x y h
@[simp] theorem lo_4_3 (x : BitVec 4) (y : BitVec 3) (s n : Nat) (h : s + n ≤ 3) : (x ++ y : BitVec 7).extractLsb' s n = y.extractLsb' s n := ext_lo x y h
@[simp] theorem hi_4_3 (x : BitVec 4) (y : BitVec 3) (s n : Nat) (h : 3 ≤ s) : (x ++ y : BitVec 7).extractLsb' s n = x.extractLsb' (s - 3) n := ext_hi x y h
@[simp] theorem lo_6_12 (x : BitVec 6) (y : BitVec 12) (s n : Nat) (h : s + n ≤ 12) : (x ++ y : BitVec 18).extractLsb' s n = y.extractLsb' s n := ext_lo x y h
@[simp] theorem hi_6_12 (x : BitVec 6) (y : BitVec 12) (s n : Nat) (h : 12 ≤ s) : (x ++ y : BitVec 18).extractLsb' s n = x.extractLsb' (s - 12) n := ext_hi x y h

/-! Masked words -/

@[simp] theorem low2_and_i (d a : Reg) (i : BitVec 10) (m : BitVec 22) : (low2 d a i &&& m).extractLsb' 0 10 = i &&& m.extractLsb' 0 10 := by
  rw [low2_and]; exact (ext_lo _ _ (by decide)).trans (ext_all _)
@[simp] theorem b6_one : b6 1 = 1#6 := rfl
@[simp] theorem b6_two : b6 2 = 2#6 := rfl
theorem mxlds_bit (op q a b) (x : BitVec 3) (ph : Bool) (y : BitVec 2) (z : BitVec 4) :
    (wq op q (low2 a b (x ++ BitVec.ofBool ph ++ y ++ z))).getLsbD 6 = ph := by
  rw [bit_wq _ _ _ _ (by decide), low2_bit _ _ _ _ (by decide)]
  exact (bit_hi _ _ (by decide)).trans ((bit_hi _ _ (by decide)).trans ((bit_lo _ _ (by decide)).trans (ofBool_bit ph)))
theorem mxmode_bit (op q a b) (x : BitVec 7) (pin : Bool) (y : BitVec 2) : (wq op q (low2 a b (x ++ BitVec.ofBool pin ++ y))).getLsbD 2 = pin := by
  rw [bit_wq _ _ _ _ (by decide), low2_bit _ _ _ _ (by decide)]
  exact (bit_hi _ _ (by decide)).trans ((bit_lo _ _ (by decide)).trans (ofBool_bit pin))
theorem vdecl_bit (op q a b) (x : BitVec 3) (gal : Bool) (y z : BitVec 3) :
    (wq op q (low2 a b (x ++ BitVec.ofBool gal ++ y ++ z))).getLsbD 6 = gal := by
  rw [bit_wq _ _ _ _ (by decide), low2_bit _ _ _ _ (by decide)]
  exact (bit_hi _ _ (by decide)).trans ((bit_hi _ _ (by decide)).trans ((bit_lo _ _ (by decide)).trans (ofBool_bit gal)))
theorem and_lowest {d a : Reg} {i : BitVec 10} {m v : BitVec 22} (h : low2 d a i &&& m = v) : i &&& m.extractLsb' 0 10 = v.extractLsb' 0 10 := by
  rw [← h, low2_and_i]

/-! Immediate formats -/

section
variable (op : BitVec 6) (d a : Reg) (imm : BitVec 12) (p : Fin 4) (i20 : BitVec 20)
theorem op_wi : (wi op d a imm p).extractLsb' 26 6 = op :=
  (ext_hi _ _ (by decide)).trans ((ext_hi _ _ (by decide)).trans ((ext_hi _ _ (by decide)).trans ((ext_hi _ _ (by decide)).trans (ext_all op))))
@[simp] theorem d_wi : iD (wi op d a imm p) = d := congrArg fin6
  ((ext_hi _ _ (by decide)).trans ((ext_hi _ _ (by decide)).trans ((ext_hi _ _ (by decide)).trans ((ext_lo _ _ (by decide)).trans (ext_all (b6 d))))))
@[simp] theorem a_wi : iA (wi op d a imm p) = a := congrArg fin6
  ((ext_hi _ _ (by decide)).trans ((ext_hi _ _ (by decide)).trans ((ext_lo _ _ (by decide)).trans (ext_all (b6 a)))))
theorem field_wi (s n : Nat) (h : s + n ≤ 12) : (wi op d a imm p).extractLsb' (s + 2) n = imm.extractLsb' s n :=
  (ext_hi _ _ (by omega)).trans ((ext_lo _ _ (by omega)).trans (by simp))
@[simp] theorem imm_wi : (wi op d a imm p).extractLsb' 2 12 = imm := (field_wi op d a imm p 0 12 (by decide)).trans (ext_all imm)
@[simp] theorem p_wi : (wi op d a imm p).extractLsb' 0 2 = b2 p := (ext_lo _ _ (by decide)).trans (ext_all (b2 p))
@[simp] theorem cond_wi (c : BitVec 3) (pd : PReg) : (wi op (fin6 (c ++ b3 pd)) a imm p).extractLsb' 23 3 = c :=
  (ext_hi _ _ (by decide)).trans ((ext_hi _ _ (by decide)).trans ((ext_hi _ _ (by decide)).trans ((ext_lo _ _ (by decide)).trans
    ((hi_3_3 c (b3 pd) 3 3 (by decide)).trans (ext_all c)))))
@[simp] theorem pd_wi (c : BitVec 3) (pd : PReg) : (wi op (fin6 (c ++ b3 pd)) a imm p).extractLsb' 20 3 = b3 pd :=
  (ext_hi _ _ (by decide)).trans ((ext_hi _ _ (by decide)).trans ((ext_hi _ _ (by decide)).trans ((ext_lo _ _ (by decide)).trans
    ((lo_3_3 c (b3 pd) 0 3 (by decide)).trans (ext_all _)))))
theorem shift_field (w : BitVec 32) (h : w.extractLsb' 8 6 = 0#6) : low22 w &&& 0x3F00#22 = 0x0#22 := by
  apply BitVec.eq_of_getLsbD_eq; intro i hi
  have e : ∀ k < 6, w.getLsbD (8 + k) = false := fun k hk => by
    have := congrArg (·.getLsbD k) h
    simpa [BitVec.getLsbD_extractLsb', hk] using this
  have e0 := e 0; have e1 := e 1; have e2 := e 2; have e3 := e 3; have e4 := e 4; have e5 := e 5
  simp only [low22, BitVec.getLsbD_and, BitVec.getLsbD_extractLsb']
  interval_cases i <;> simp_all
theorem op_w20 : (w20 op d i20).extractLsb' 26 6 = op := (ext_hi _ _ (by decide)).trans ((ext_hi _ _ (by decide)).trans (ext_all op))
@[simp] theorem d_w20 : iD (w20 op d i20) = d := congrArg fin6 ((ext_hi _ _ (by decide)).trans ((ext_lo _ _ (by decide)).trans (ext_all (b6 d))))
@[simp] theorem imm_w20 : (w20 op d i20).extractLsb' 0 20 = i20 := (ext_lo _ _ (by decide)).trans (ext_all i20)
end

/-! Q slot formats -/

section
variable (op a b : BitVec 6) (imm : BitVec 14)
theorem op_wgen : (wgen op a b imm).extractLsb' 26 6 = op :=
  (ext_hi _ _ (by decide)).trans ((ext_hi _ _ (by decide)).trans ((ext_hi _ _ (by decide)).trans (ext_all op)))
@[simp] theorem a_wgen (s n : Nat) (h : s + n ≤ 6) : (wgen op a b imm).extractLsb' (20 + s) n = a.extractLsb' s n :=
  (ext_hi _ _ (by omega)).trans ((ext_hi _ _ (by omega)).trans ((ext_lo _ _ (by omega)).trans (by congr 1; omega)))
theorem a6_wgen : (wgen op a b imm).extractLsb' 20 6 = a := (a_wgen op a b imm 0 6 (by decide)).trans (ext_all a)
theorem a4_wgen : (wgen op a b imm).extractLsb' 20 4 = a.extractLsb' 0 4 := a_wgen op a b imm 0 4 (by decide)
theorem a3_wgen : (wgen op a b imm).extractLsb' 20 3 = a.extractLsb' 0 3 := a_wgen op a b imm 0 3 (by decide)
@[simp] theorem b_wgen : (wgen op a b imm).extractLsb' 14 6 = b := (ext_hi _ _ (by decide)).trans ((ext_lo _ _ (by decide)).trans (ext_all b))
theorem imm_wgen (s n : Nat) (h : s + n ≤ 14) : (wgen op a b imm).extractLsb' s n = imm.extractLsb' s n := ext_lo _ _ h
theorem imm14_wgen : (wgen op a b imm).extractLsb' 0 14 = imm := (imm_wgen op a b imm 0 14 (by decide)).trans (ext_all imm)
@[simp] theorem bit_wgen (s : Nat) (h : s < 14) : (wgen op a b imm).getLsbD s = imm.getLsbD s := bit_lo _ _ h
@[simp] theorem low_wgen (op : BitVec 6) : (wgen op 0 0 0).extractLsb' 0 26 = 0#26 := by
  have e : ∀ x : Nat, x < 26 → (wgen op 0 0 0).getLsbD x = false := fun x hx => by
    by_cases h1 : x < 14
    · exact (bit_lo _ _ h1).trans (by simp)
    · by_cases h2 : x - 14 < 6
      · exact (bit_hi _ _ (by omega)).trans ((bit_lo _ _ h2).trans (by simp))
      · exact (bit_hi _ _ (by omega)).trans ((bit_hi _ _ (by omega)).trans ((bit_lo _ _ (by omega)).trans (by simp)))
  apply BitVec.eq_of_getLsbD_eq; intro i hi; simpa [hi] using e i hi
end
theorem popDstOf_bits (d : PopDst) : popDstOf (popDstBits d).1 (popDstBits d).2 = some d := by
  cases d with
  | bl n => revert n; decide
  | gm n => revert n; decide
  | sp => rfl
  | rot m => revert m; decide
  | scalar n m => revert n m; decide
  | discard => rfl
theorem pushSrcOf_bits (d : PushSrc) : pushSrcOf (pushSrcBits d).1 (pushSrcBits d).2 = some d := by
  cases d with
  | bl n => revert n; decide
  | gm n => revert n; decide
  | sp => rfl
  | scalar n g => revert n g; decide
  | imm v => simp [pushSrcBits, pushSrcOf]

/-! Table entries -/

section
variable (op : BitVec 8) (h : VHead) (m : MHead) (d a b c : BitVec 11) (imm : BitVec 16) (k : BitVec 4) (r : Bool) (f : BitVec 4)
@[simp] theorem op_entryV : entryOp (entryWordV op h d a b c) = op.toNat := congrArg BitVec.toNat
  ((ext_hi _ _ (by decide)).trans ((ext_hi _ _ (by decide)).trans ((ext_hi _ _ (by decide)).trans ((ext_hi _ _ (by decide)).trans
   ((ext_hi _ _ (by decide)).trans ((ext_hi _ _ (by decide)).trans ((ext_hi _ _ (by decide)).trans ((ext_hi _ _ (by decide)).trans
   ((ext_hi _ _ (by decide)).trans (ext_all op))))))))))
@[simp] theorem cls_entryV : entryClass (entryWordV op h d a b c) = h.cls := congrArg fin3 (show (entryWordV op h d a b c).extractLsb' 53 3 = b3 h.cls from
  (ext_hi _ _ (by decide)).trans ((ext_hi _ _ (by decide)).trans ((ext_hi _ _ (by decide)).trans ((ext_hi _ _ (by decide)).trans
   ((ext_hi _ _ (by decide)).trans ((ext_hi _ _ (by decide)).trans ((ext_hi _ _ (by decide)).trans ((ext_hi _ _ (by decide)).trans
   ((ext_lo _ _ (by decide)).trans (ext_all (b3 h.cls)))))))))))
theorem d_entryV : (entryWordV op h d a b c).extractLsb' 42 11 = d :=
  (ext_hi _ _ (by decide)).trans ((ext_hi _ _ (by decide)).trans ((ext_hi _ _ (by decide)).trans ((ext_hi _ _ (by decide)).trans
   ((ext_hi _ _ (by decide)).trans ((ext_hi _ _ (by decide)).trans ((ext_hi _ _ (by decide)).trans ((ext_lo _ _ (by decide)).trans (ext_all d))))))))
theorem a_entryV : (entryWordV op h d a b c).extractLsb' 31 11 = a :=
  (ext_hi _ _ (by decide)).trans ((ext_hi _ _ (by decide)).trans ((ext_hi _ _ (by decide)).trans ((ext_hi _ _ (by decide)).trans
   ((ext_hi _ _ (by decide)).trans ((ext_hi _ _ (by decide)).trans ((ext_lo _ _ (by decide)).trans (ext_all a)))))))
theorem b_entryV : (entryWordV op h d a b c).extractLsb' 20 11 = b :=
  (ext_hi _ _ (by decide)).trans ((ext_hi _ _ (by decide)).trans ((ext_hi _ _ (by decide)).trans ((ext_hi _ _ (by decide)).trans
   ((ext_hi _ _ (by decide)).trans ((ext_lo _ _ (by decide)).trans (ext_all b))))))
theorem c_entryV : (entryWordV op h d a b c).extractLsb' 9 11 = c :=
  (ext_hi _ _ (by decide)).trans ((ext_hi _ _ (by decide)).trans ((ext_hi _ _ (by decide)).trans ((ext_hi _ _ (by decide)).trans
   ((ext_lo _ _ (by decide)).trans (ext_all c)))))
theorem mod_entryV : (entryWordV op h d a b c).extractLsb' 5 4 = h.mod :=
  (ext_hi _ _ (by decide)).trans ((ext_hi _ _ (by decide)).trans ((ext_hi _ _ (by decide)).trans ((ext_lo _ _ (by decide)).trans (ext_all h.mod))))
theorem vp_entryV : (entryWordV op h d a b c).extractLsb' 2 3 = b3 h.vp :=
  (ext_hi _ _ (by decide)).trans ((ext_hi _ _ (by decide)).trans ((ext_lo _ _ (by decide)).trans (ext_all (b3 h.vp))))
theorem rot_entryV : (entryWordV op h d a b c).getLsbD 1 = h.rot :=
  (bit_hi _ _ (by decide)).trans ((bit_lo _ _ (by decide)).trans (ofBool_bit h.rot))
@[simp] theorem valid_entryV : (entryWordV op h d a b c).getLsbD 0 = true := bit_lo _ _ (by decide)
@[simp] theorem fields_entryV : entryFields (entryWordV op h d a b c) = ⟨h, d, a, b, c⟩ := by
  simp only [entryFields, cls_entryV, d_entryV, a_entryV, b_entryV, c_entryV, mod_entryV, vp_entryV, rot_entryV]; rfl
@[simp] theorem op_entryM : entryOp (entryWordM op m d a imm k r f) = op.toNat := congrArg BitVec.toNat
  ((ext_hi _ _ (by decide)).trans ((ext_hi _ _ (by decide)).trans ((ext_hi _ _ (by decide)).trans ((ext_hi _ _ (by decide)).trans
   ((ext_hi _ _ (by decide)).trans ((ext_hi _ _ (by decide)).trans ((ext_hi _ _ (by decide)).trans ((ext_hi _ _ (by decide)).trans
   ((ext_hi _ _ (by decide)).trans ((ext_hi _ _ (by decide)).trans ((ext_hi _ _ (by decide)).trans (ext_all op))))))))))))
@[simp] theorem cls_entryM : entryClass (entryWordM op m d a imm k r f) = m.cls := congrArg fin3 (show (entryWordM op m d a imm k r f).extractLsb' 53 3 = b3 m.cls from
  (ext_hi _ _ (by decide)).trans ((ext_hi _ _ (by decide)).trans ((ext_hi _ _ (by decide)).trans ((ext_hi _ _ (by decide)).trans
   ((ext_hi _ _ (by decide)).trans ((ext_hi _ _ (by decide)).trans ((ext_hi _ _ (by decide)).trans ((ext_hi _ _ (by decide)).trans
   ((ext_hi _ _ (by decide)).trans ((ext_hi _ _ (by decide)).trans ((ext_lo _ _ (by decide)).trans (ext_all (b3 m.cls)))))))))))))
theorem data_entryM : (entryWordM op m d a imm k r f).extractLsb' 42 11 = d :=
  (ext_hi _ _ (by decide)).trans ((ext_hi _ _ (by decide)).trans ((ext_hi _ _ (by decide)).trans ((ext_hi _ _ (by decide)).trans
   ((ext_hi _ _ (by decide)).trans ((ext_hi _ _ (by decide)).trans ((ext_hi _ _ (by decide)).trans ((ext_hi _ _ (by decide)).trans
   ((ext_hi _ _ (by decide)).trans ((ext_lo _ _ (by decide)).trans (ext_all d))))))))))
theorem addr_entryM : (entryWordM op m d a imm k r f).extractLsb' 31 11 = a :=
  (ext_hi _ _ (by decide)).trans ((ext_hi _ _ (by decide)).trans ((ext_hi _ _ (by decide)).trans ((ext_hi _ _ (by decide)).trans
   ((ext_hi _ _ (by decide)).trans ((ext_hi _ _ (by decide)).trans ((ext_hi _ _ (by decide)).trans ((ext_hi _ _ (by decide)).trans
   ((ext_lo _ _ (by decide)).trans (ext_all a)))))))))
theorem imm_entryM : (entryWordM op m d a imm k r f).extractLsb' 15 16 = imm :=
  (ext_hi _ _ (by decide)).trans ((ext_hi _ _ (by decide)).trans ((ext_hi _ _ (by decide)).trans ((ext_hi _ _ (by decide)).trans
   ((ext_hi _ _ (by decide)).trans ((ext_hi _ _ (by decide)).trans ((ext_hi _ _ (by decide)).trans ((ext_lo _ _ (by decide)).trans (ext_all imm))))))))
theorem k_entryM : (entryWordM op m d a imm k r f).extractLsb' 11 4 = k :=
  (ext_hi _ _ (by decide)).trans ((ext_hi _ _ (by decide)).trans ((ext_hi _ _ (by decide)).trans ((ext_hi _ _ (by decide)).trans
   ((ext_hi _ _ (by decide)).trans ((ext_hi _ _ (by decide)).trans ((ext_lo _ _ (by decide)).trans (ext_all k)))))))
theorem round_entryM : (entryWordM op m d a imm k r f).extractLsb' 9 2 = BitVec.zeroExtend 2 (BitVec.ofBool r) := by
  apply BitVec.eq_of_getLsbD_eq; intro i hi
  have h0 : (entryWordM op m d a imm k r f).getLsbD 9 = r :=
    (bit_hi _ _ (by decide)).trans ((bit_hi _ _ (by decide)).trans ((bit_hi _ _ (by decide)).trans ((bit_hi _ _ (by decide)).trans
      ((bit_lo _ _ (by decide)).trans (ofBool_bit r)))))
  have h1 : (entryWordM op m d a imm k r f).getLsbD 10 = false :=
    (bit_hi _ _ (by decide)).trans ((bit_hi _ _ (by decide)).trans ((bit_hi _ _ (by decide)).trans ((bit_hi _ _ (by decide)).trans
      ((bit_hi _ _ (by decide)).trans (bit_lo _ _ (by decide))))))
  rw [BitVec.getLsbD_extractLsb']
  match i, hi with
  | 0, _ => rw [h0]; cases r <;> rfl
  | 1, _ => rw [h1]; cases r <;> rfl
theorem fmt_entryM : (entryWordM op m d a imm k r f).extractLsb' 5 4 = f :=
  (ext_hi _ _ (by decide)).trans ((ext_hi _ _ (by decide)).trans ((ext_hi _ _ (by decide)).trans ((ext_lo _ _ (by decide)).trans (ext_all f))))
theorem vp_entryM : (entryWordM op m d a imm k r f).extractLsb' 2 3 = b3 m.vp :=
  (ext_hi _ _ (by decide)).trans ((ext_hi _ _ (by decide)).trans ((ext_lo _ _ (by decide)).trans (ext_all (b3 m.vp))))
theorem rot_entryM : (entryWordM op m d a imm k r f).getLsbD 1 = m.rot :=
  (bit_hi _ _ (by decide)).trans ((bit_lo _ _ (by decide)).trans (ofBool_bit m.rot))
@[simp] theorem valid_entryM : (entryWordM op m d a imm k r f).getLsbD 0 = true := bit_lo _ _ (by decide)
@[simp] theorem fields_entryM : memFields (entryWordM op m d a imm k r f) = ⟨m, d, a, imm, k, BitVec.zeroExtend 2 (BitVec.ofBool r), f⟩ := by
  simp only [memFields, cls_entryM, data_entryM, addr_entryM, imm_entryM, k_entryM, round_entryM, fmt_entryM, vp_entryM, rot_entryM]; rfl
end

/-! Operands and formats -/

theorem operandOf_mat (m e : BitVec 2) (i : BitVec 6) :
    operandOf (0#1 ++ m ++ e ++ i) = some (.mat (fin2 m) (operandOf.dirOf e) (fin6 i)) := by
  have h : (0#1 ++ m ++ e ++ i : BitVec 11).getLsbD 10 = false :=
    (bit_hi _ _ (by decide)).trans ((bit_hi _ _ (by decide)).trans ((bit_hi _ _ (by decide)).trans rfl))
  have hm : (0#1 ++ m ++ e ++ i : BitVec 11).extractLsb' 8 2 = m :=
    (ext_hi _ _ (by decide)).trans ((ext_hi _ _ (by decide)).trans ((ext_lo _ _ (by decide)).trans (ext_all m)))
  have hd : (0#1 ++ m ++ e ++ i : BitVec 11).extractLsb' 6 2 = e := (ext_hi _ _ (by decide)).trans ((ext_lo _ _ (by decide)).trans (ext_all e))
  have hi : (0#1 ++ m ++ e ++ i : BitVec 11).extractLsb' 0 6 = i := (ext_lo _ _ (by decide)).trans (ext_all i)
  rw [operandOf, if_pos h, hm, hd, hi]
@[simp] theorem operandOf_bits (o : Operand) : operandOf (operandBits o) = some o := by
  cases o with
  | mat m e i => rw [operandBits, operandOf_mat]; cases e <;> rfl
  | port n => revert n; decide
  | cb n => revert n; decide
  | scalar n => revert n; decide
  | zero | lane | imm | grp | ones | lat | latL | latR => rfl
@[simp] theorem srcOf_bits (o : Operand) : srcOf (operandBits o) = if o.sourceOk then some o else none := by rw [srcOf, operandOf_bits]
@[simp] theorem dstOf_bits (s : Bool) (o : Operand) : dstOf s (operandBits o) = if o.destOk s then some o else none := by rw [dstOf, operandOf_bits]
@[simp] theorem vpOf_bits (p : Fin 8) : vpOf (vpBits p) = some p := by revert p; decide
@[simp] theorem fmtOf_bits (f : Fmt) : fmtOf (fmtBits f) = some f := by cases f <;> rfl
theorem srcOf_zero : srcOf 0 = some (.mat 0 .h 0) := rfl

/-- An entry of the V form that its decoder reads is read whole. -/
theorem decode_entryV {op : BitVec 8} {h : VHead} {d a b c : BitVec 11} {k : Nat} {e : Entry} (hk : inherentClass op.toNat = some k)
    (hm : ¬(0x80 ≤ op.toNat ∧ op.toNat ≤ 0xBF)) (he : entryV op.toNat ⟨h, d, a, b, c⟩ = some e)
    (h7 : op.toNat = 0 ∨ h.cls.val ≠ 7) (hc : k ≤ h.cls.val) : decode (.entry (entryWordV op h d a b c)) = some e.toInstr := by
  have : decodeEntry (entryWordV op h d a b c) = .ok e := by
    simp only [decodeEntry, op_entryV, cls_entryV, fields_entryV, hk, if_neg hm, he]
    rw [if_neg (by omega), if_neg (by omega)]
  show (if (entryWordV op h d a b c).getLsbD 0 then (decodeEntry (entryWordV op h d a b c)).toOption.map Entry.toInstr else none) = _
  rw [valid_entryV, this]; rfl
/-- The same of the M form. -/
theorem decode_entryM {op : BitVec 8} {h : MHead} {d a : BitVec 11} {imm : BitVec 16} {n : BitVec 4} {r : Bool} {f : BitVec 4} {k : Nat} {e : Entry}
    (hk : inherentClass op.toNat = some k) (hm : 0x80 ≤ op.toNat ∧ op.toNat ≤ 0xBF)
    (he : entryM op.toNat ⟨h, d, a, imm, n, BitVec.zeroExtend 2 (BitVec.ofBool r), f⟩ = some e)
    (h7 : h.cls.val ≠ 7) (hc : k ≤ h.cls.val) : decode (.entry (entryWordM op h d a imm n r f)) = some e.toInstr := by
  have : decodeEntry (entryWordM op h d a imm n r f) = .ok e := by
    simp only [decodeEntry, op_entryM, cls_entryM, fields_entryM, hk, if_pos hm, he]
    rw [if_neg (by omega), if_neg (by omega)]
  show (if (entryWordM op h d a imm n r f).getLsbD 0 then (decodeEntry (entryWordM op h d a imm n r f)).toOption.map Entry.toInstr else none) = _
  rw [valid_entryM, this]; rfl

end Sys2Proof
end

