-- ==== Sys2Proof/Laws/State.lean ====
section
/-!
SUPPORT. What each named update of the state leaves alone, one equation for each field, and what the updated field reads as.
-/
namespace Sys2Proof.Machine

/-! `State.modBody` -/

@[simp] theorem State.modBody_cycle (s : State) (c : CoreId) (f : Body → Body) : (s.modBody c f).cycle = s.cycle := rfl
@[simp] theorem State.modBody_epoch (s : State) (c : CoreId) (f : Body → Body) : (s.modBody c f).epoch = s.epoch := rfl
@[simp] theorem State.modBody_powered (s : State) (c : CoreId) (f : Body → Body) : (s.modBody c f).powered = s.powered := rfl
@[simp] theorem State.modBody_inputs (s : State) (c : CoreId) (f : Body → Body) : (s.modBody c f).inputs = s.inputs := rfl
@[simp] theorem State.modBody_turn (s : State) (c : CoreId) (f : Body → Body) : (s.modBody c f).turn = s.turn := rfl
@[simp] theorem State.modBody_cur (s : State) (c : CoreId) (f : Body → Body) : (s.modBody c f).cur = s.cur := rfl
@[simp] theorem State.modBody_pre (s : State) (c : CoreId) (f : Body → Body) : (s.modBody c f).pre = s.pre := rfl
@[simp] theorem State.modBody_fresh (s : State) (c : CoreId) (f : Body → Body) : (s.modBody c f).fresh = s.fresh := rfl
@[simp] theorem State.modBody_mem (s : State) (c : CoreId) (f : Body → Body) : (s.modBody c f).mem = s.mem := rfl
@[simp] theorem State.modBody_nextId (s : State) (c : CoreId) (f : Body → Body) : (s.modBody c f).nextId = s.nextId := rfl
@[simp] theorem State.modBody_requests (s : State) (c : CoreId) (f : Body → Body) : (s.modBody c f).requests = s.requests := rfl
@[simp] theorem State.modBody_delivered (s : State) (c : CoreId) (f : Body → Body) : (s.modBody c f).delivered = s.delivered := rfl
@[simp] theorem State.modBody_hall (s : State) (c : CoreId) (f : Body → Body) : (s.modBody c f).hall = s.hall := rfl
@[simp] theorem State.modBody_atrium (s : State) (c : CoreId) (f : Body → Body) : (s.modBody c f).atrium = s.atrium := rfl
@[simp] theorem State.modBody_mtlb (s : State) (c : CoreId) (f : Body → Body) : (s.modBody c f).mtlb = s.mtlb := rfl
@[simp] theorem State.modBody_fabcfg (s : State) (c : CoreId) (f : Body → Body) : (s.modBody c f).fabcfg = s.fabcfg := rfl
@[simp] theorem State.modBody_poison (s : State) (c : CoreId) (f : Body → Body) : (s.modBody c f).poison = s.poison := rfl
@[simp] theorem State.modBody_routers (s : State) (c : CoreId) (f : Body → Body) : (s.modBody c f).routers = s.routers := rfl
@[simp] theorem State.modBody_sent (s : State) (c : CoreId) (f : Body → Body) : (s.modBody c f).sent = s.sent := rfl
@[simp] theorem State.modBody_period (s : State) (c : CoreId) (f : Body → Body) : (s.modBody c f).period = s.period := rfl
@[simp] theorem State.modBody_aways (s : State) (c : CoreId) (f : Body → Body) : (s.modBody c f).aways = s.aways := rfl
@[simp] theorem State.modBody_accesses (s : State) (c : CoreId) (f : Body → Body) : (s.modBody c f).accesses = s.accesses := rfl
@[simp] theorem State.modBody_places (s : State) (c : CoreId) (f : Body → Body) : (s.modBody c f).places = s.places := rfl
@[simp] theorem State.modBody_migrations (s : State) (c : CoreId) (f : Body → Body) : (s.modBody c f).migrations = s.migrations := rfl
@[simp] theorem State.modBody_wires (s : State) (c : CoreId) (f : Body → Body) : (s.modBody c f).wires = s.wires := rfl
@[simp] theorem State.modBody_log (s : State) (c : CoreId) (f : Body → Body) : (s.modBody c f).log = s.log := rfl
@[simp] theorem State.modBody_logCount (s : State) (c : CoreId) (f : Body → Body) : (s.modBody c f).logCount = s.logCount := rfl
@[simp] theorem State.modBody_nodes (s : State) (c : CoreId) (f : Body → Body) : (s.modBody c f).nodes = s.nodes := rfl
@[simp] theorem State.modBody_host (s : State) (c : CoreId) (f : Body → Body) : (s.modBody c f).host = s.host := rfl
@[simp] theorem State.modBody_newel (s : State) (c : CoreId) (f : Body → Body) : (s.modBody c f).newel = s.newel := rfl
@[simp] theorem State.modBody_usher (s : State) (c : CoreId) (f : Body → Body) : (s.modBody c f).usher = s.usher := rfl

/-! `State.modMe` -/

@[simp] theorem State.modMe_cycle (s : State) (f : Body → Body) : (s.modMe f).cycle = s.cycle := rfl
@[simp] theorem State.modMe_epoch (s : State) (f : Body → Body) : (s.modMe f).epoch = s.epoch := rfl
@[simp] theorem State.modMe_powered (s : State) (f : Body → Body) : (s.modMe f).powered = s.powered := rfl
@[simp] theorem State.modMe_inputs (s : State) (f : Body → Body) : (s.modMe f).inputs = s.inputs := rfl
@[simp] theorem State.modMe_turn (s : State) (f : Body → Body) : (s.modMe f).turn = s.turn := rfl
@[simp] theorem State.modMe_cur (s : State) (f : Body → Body) : (s.modMe f).cur = s.cur := rfl
@[simp] theorem State.modMe_pre (s : State) (f : Body → Body) : (s.modMe f).pre = s.pre := rfl
@[simp] theorem State.modMe_fresh (s : State) (f : Body → Body) : (s.modMe f).fresh = s.fresh := rfl
@[simp] theorem State.modMe_mem (s : State) (f : Body → Body) : (s.modMe f).mem = s.mem := rfl
@[simp] theorem State.modMe_nextId (s : State) (f : Body → Body) : (s.modMe f).nextId = s.nextId := rfl
@[simp] theorem State.modMe_requests (s : State) (f : Body → Body) : (s.modMe f).requests = s.requests := rfl
@[simp] theorem State.modMe_delivered (s : State) (f : Body → Body) : (s.modMe f).delivered = s.delivered := rfl
@[simp] theorem State.modMe_hall (s : State) (f : Body → Body) : (s.modMe f).hall = s.hall := rfl
@[simp] theorem State.modMe_atrium (s : State) (f : Body → Body) : (s.modMe f).atrium = s.atrium := rfl
@[simp] theorem State.modMe_mtlb (s : State) (f : Body → Body) : (s.modMe f).mtlb = s.mtlb := rfl
@[simp] theorem State.modMe_fabcfg (s : State) (f : Body → Body) : (s.modMe f).fabcfg = s.fabcfg := rfl
@[simp] theorem State.modMe_poison (s : State) (f : Body → Body) : (s.modMe f).poison = s.poison := rfl
@[simp] theorem State.modMe_routers (s : State) (f : Body → Body) : (s.modMe f).routers = s.routers := rfl
@[simp] theorem State.modMe_sent (s : State) (f : Body → Body) : (s.modMe f).sent = s.sent := rfl
@[simp] theorem State.modMe_period (s : State) (f : Body → Body) : (s.modMe f).period = s.period := rfl
@[simp] theorem State.modMe_aways (s : State) (f : Body → Body) : (s.modMe f).aways = s.aways := rfl
@[simp] theorem State.modMe_accesses (s : State) (f : Body → Body) : (s.modMe f).accesses = s.accesses := rfl
@[simp] theorem State.modMe_places (s : State) (f : Body → Body) : (s.modMe f).places = s.places := rfl
@[simp] theorem State.modMe_migrations (s : State) (f : Body → Body) : (s.modMe f).migrations = s.migrations := rfl
@[simp] theorem State.modMe_wires (s : State) (f : Body → Body) : (s.modMe f).wires = s.wires := rfl
@[simp] theorem State.modMe_log (s : State) (f : Body → Body) : (s.modMe f).log = s.log := rfl
@[simp] theorem State.modMe_logCount (s : State) (f : Body → Body) : (s.modMe f).logCount = s.logCount := rfl
@[simp] theorem State.modMe_nodes (s : State) (f : Body → Body) : (s.modMe f).nodes = s.nodes := rfl
@[simp] theorem State.modMe_host (s : State) (f : Body → Body) : (s.modMe f).host = s.host := rfl
@[simp] theorem State.modMe_newel (s : State) (f : Body → Body) : (s.modMe f).newel = s.newel := rfl
@[simp] theorem State.modMe_usher (s : State) (f : Body → Body) : (s.modMe f).usher = s.usher := rfl

/-! `State.modGroup` -/

@[simp] theorem State.modGroup_cycle (s : State) (g : GroupId) (f : Group → Group) : (s.modGroup g f).cycle = s.cycle := rfl
@[simp] theorem State.modGroup_epoch (s : State) (g : GroupId) (f : Group → Group) : (s.modGroup g f).epoch = s.epoch := rfl
@[simp] theorem State.modGroup_powered (s : State) (g : GroupId) (f : Group → Group) : (s.modGroup g f).powered = s.powered := rfl
@[simp] theorem State.modGroup_inputs (s : State) (g : GroupId) (f : Group → Group) : (s.modGroup g f).inputs = s.inputs := rfl
@[simp] theorem State.modGroup_turn (s : State) (g : GroupId) (f : Group → Group) : (s.modGroup g f).turn = s.turn := rfl
@[simp] theorem State.modGroup_cur (s : State) (g : GroupId) (f : Group → Group) : (s.modGroup g f).cur = s.cur := rfl
@[simp] theorem State.modGroup_pre (s : State) (g : GroupId) (f : Group → Group) : (s.modGroup g f).pre = s.pre := rfl
@[simp] theorem State.modGroup_fresh (s : State) (g : GroupId) (f : Group → Group) : (s.modGroup g f).fresh = s.fresh := rfl
@[simp] theorem State.modGroup_mem (s : State) (g : GroupId) (f : Group → Group) : (s.modGroup g f).mem = s.mem := rfl
@[simp] theorem State.modGroup_nextId (s : State) (g : GroupId) (f : Group → Group) : (s.modGroup g f).nextId = s.nextId := rfl
@[simp] theorem State.modGroup_requests (s : State) (g : GroupId) (f : Group → Group) : (s.modGroup g f).requests = s.requests := rfl
@[simp] theorem State.modGroup_delivered (s : State) (g : GroupId) (f : Group → Group) : (s.modGroup g f).delivered = s.delivered := rfl
@[simp] theorem State.modGroup_hall (s : State) (g : GroupId) (f : Group → Group) : (s.modGroup g f).hall = s.hall := rfl
@[simp] theorem State.modGroup_atrium (s : State) (g : GroupId) (f : Group → Group) : (s.modGroup g f).atrium = s.atrium := rfl
@[simp] theorem State.modGroup_mtlb (s : State) (g : GroupId) (f : Group → Group) : (s.modGroup g f).mtlb = s.mtlb := rfl
@[simp] theorem State.modGroup_fabcfg (s : State) (g : GroupId) (f : Group → Group) : (s.modGroup g f).fabcfg = s.fabcfg := rfl
@[simp] theorem State.modGroup_poison (s : State) (g : GroupId) (f : Group → Group) : (s.modGroup g f).poison = s.poison := rfl
@[simp] theorem State.modGroup_routers (s : State) (g : GroupId) (f : Group → Group) : (s.modGroup g f).routers = s.routers := rfl
@[simp] theorem State.modGroup_sent (s : State) (g : GroupId) (f : Group → Group) : (s.modGroup g f).sent = s.sent := rfl
@[simp] theorem State.modGroup_period (s : State) (g : GroupId) (f : Group → Group) : (s.modGroup g f).period = s.period := rfl
@[simp] theorem State.modGroup_aways (s : State) (g : GroupId) (f : Group → Group) : (s.modGroup g f).aways = s.aways := rfl
@[simp] theorem State.modGroup_accesses (s : State) (g : GroupId) (f : Group → Group) : (s.modGroup g f).accesses = s.accesses := rfl
@[simp] theorem State.modGroup_places (s : State) (g : GroupId) (f : Group → Group) : (s.modGroup g f).places = s.places := rfl
@[simp] theorem State.modGroup_migrations (s : State) (g : GroupId) (f : Group → Group) : (s.modGroup g f).migrations = s.migrations := rfl
@[simp] theorem State.modGroup_wires (s : State) (g : GroupId) (f : Group → Group) : (s.modGroup g f).wires = s.wires := rfl
@[simp] theorem State.modGroup_log (s : State) (g : GroupId) (f : Group → Group) : (s.modGroup g f).log = s.log := rfl
@[simp] theorem State.modGroup_logCount (s : State) (g : GroupId) (f : Group → Group) : (s.modGroup g f).logCount = s.logCount := rfl
@[simp] theorem State.modGroup_nodes (s : State) (g : GroupId) (f : Group → Group) : (s.modGroup g f).nodes = s.nodes := rfl
@[simp] theorem State.modGroup_host (s : State) (g : GroupId) (f : Group → Group) : (s.modGroup g f).host = s.host := rfl
@[simp] theorem State.modGroup_newel (s : State) (g : GroupId) (f : Group → Group) : (s.modGroup g f).newel = s.newel := rfl
@[simp] theorem State.modGroup_usher (s : State) (g : GroupId) (f : Group → Group) : (s.modGroup g f).usher = s.usher := rfl

/-! `State.modTask` -/

@[simp] theorem State.modTask_cycle (s : State) (c : CoreId) (f : Task → Task) : (s.modTask c f).cycle = s.cycle := rfl
@[simp] theorem State.modTask_epoch (s : State) (c : CoreId) (f : Task → Task) : (s.modTask c f).epoch = s.epoch := rfl
@[simp] theorem State.modTask_powered (s : State) (c : CoreId) (f : Task → Task) : (s.modTask c f).powered = s.powered := rfl
@[simp] theorem State.modTask_inputs (s : State) (c : CoreId) (f : Task → Task) : (s.modTask c f).inputs = s.inputs := rfl
@[simp] theorem State.modTask_turn (s : State) (c : CoreId) (f : Task → Task) : (s.modTask c f).turn = s.turn := rfl
@[simp] theorem State.modTask_cur (s : State) (c : CoreId) (f : Task → Task) : (s.modTask c f).cur = s.cur := rfl
@[simp] theorem State.modTask_pre (s : State) (c : CoreId) (f : Task → Task) : (s.modTask c f).pre = s.pre := rfl
@[simp] theorem State.modTask_fresh (s : State) (c : CoreId) (f : Task → Task) : (s.modTask c f).fresh = s.fresh := rfl
@[simp] theorem State.modTask_mem (s : State) (c : CoreId) (f : Task → Task) : (s.modTask c f).mem = s.mem := rfl
@[simp] theorem State.modTask_nextId (s : State) (c : CoreId) (f : Task → Task) : (s.modTask c f).nextId = s.nextId := rfl
@[simp] theorem State.modTask_requests (s : State) (c : CoreId) (f : Task → Task) : (s.modTask c f).requests = s.requests := rfl
@[simp] theorem State.modTask_delivered (s : State) (c : CoreId) (f : Task → Task) : (s.modTask c f).delivered = s.delivered := rfl
@[simp] theorem State.modTask_hall (s : State) (c : CoreId) (f : Task → Task) : (s.modTask c f).hall = s.hall := rfl
@[simp] theorem State.modTask_atrium (s : State) (c : CoreId) (f : Task → Task) : (s.modTask c f).atrium = s.atrium := rfl
@[simp] theorem State.modTask_mtlb (s : State) (c : CoreId) (f : Task → Task) : (s.modTask c f).mtlb = s.mtlb := rfl
@[simp] theorem State.modTask_fabcfg (s : State) (c : CoreId) (f : Task → Task) : (s.modTask c f).fabcfg = s.fabcfg := rfl
@[simp] theorem State.modTask_poison (s : State) (c : CoreId) (f : Task → Task) : (s.modTask c f).poison = s.poison := rfl
@[simp] theorem State.modTask_routers (s : State) (c : CoreId) (f : Task → Task) : (s.modTask c f).routers = s.routers := rfl
@[simp] theorem State.modTask_sent (s : State) (c : CoreId) (f : Task → Task) : (s.modTask c f).sent = s.sent := rfl
@[simp] theorem State.modTask_period (s : State) (c : CoreId) (f : Task → Task) : (s.modTask c f).period = s.period := rfl
@[simp] theorem State.modTask_aways (s : State) (c : CoreId) (f : Task → Task) : (s.modTask c f).aways = s.aways := rfl
@[simp] theorem State.modTask_accesses (s : State) (c : CoreId) (f : Task → Task) : (s.modTask c f).accesses = s.accesses := rfl
@[simp] theorem State.modTask_places (s : State) (c : CoreId) (f : Task → Task) : (s.modTask c f).places = s.places := rfl
@[simp] theorem State.modTask_migrations (s : State) (c : CoreId) (f : Task → Task) : (s.modTask c f).migrations = s.migrations := rfl
@[simp] theorem State.modTask_wires (s : State) (c : CoreId) (f : Task → Task) : (s.modTask c f).wires = s.wires := rfl
@[simp] theorem State.modTask_log (s : State) (c : CoreId) (f : Task → Task) : (s.modTask c f).log = s.log := rfl
@[simp] theorem State.modTask_logCount (s : State) (c : CoreId) (f : Task → Task) : (s.modTask c f).logCount = s.logCount := rfl
@[simp] theorem State.modTask_nodes (s : State) (c : CoreId) (f : Task → Task) : (s.modTask c f).nodes = s.nodes := rfl
@[simp] theorem State.modTask_host (s : State) (c : CoreId) (f : Task → Task) : (s.modTask c f).host = s.host := rfl
@[simp] theorem State.modTask_newel (s : State) (c : CoreId) (f : Task → Task) : (s.modTask c f).newel = s.newel := rfl
@[simp] theorem State.modTask_usher (s : State) (c : CoreId) (f : Task → Task) : (s.modTask c f).usher = s.usher := rfl

/-! `State.modTeam` -/

@[simp] theorem State.modTeam_cycle (s : State) (t : Nat) (f : Team → Team) : (s.modTeam t f).cycle = s.cycle := rfl
@[simp] theorem State.modTeam_epoch (s : State) (t : Nat) (f : Team → Team) : (s.modTeam t f).epoch = s.epoch := rfl
@[simp] theorem State.modTeam_powered (s : State) (t : Nat) (f : Team → Team) : (s.modTeam t f).powered = s.powered := rfl
@[simp] theorem State.modTeam_inputs (s : State) (t : Nat) (f : Team → Team) : (s.modTeam t f).inputs = s.inputs := rfl
@[simp] theorem State.modTeam_turn (s : State) (t : Nat) (f : Team → Team) : (s.modTeam t f).turn = s.turn := rfl
@[simp] theorem State.modTeam_cur (s : State) (t : Nat) (f : Team → Team) : (s.modTeam t f).cur = s.cur := rfl
@[simp] theorem State.modTeam_pre (s : State) (t : Nat) (f : Team → Team) : (s.modTeam t f).pre = s.pre := rfl
@[simp] theorem State.modTeam_fresh (s : State) (t : Nat) (f : Team → Team) : (s.modTeam t f).fresh = s.fresh := rfl
@[simp] theorem State.modTeam_cores (s : State) (t : Nat) (f : Team → Team) : (s.modTeam t f).cores = s.cores := rfl
@[simp] theorem State.modTeam_mem (s : State) (t : Nat) (f : Team → Team) : (s.modTeam t f).mem = s.mem := rfl
@[simp] theorem State.modTeam_nextId (s : State) (t : Nat) (f : Team → Team) : (s.modTeam t f).nextId = s.nextId := rfl
@[simp] theorem State.modTeam_requests (s : State) (t : Nat) (f : Team → Team) : (s.modTeam t f).requests = s.requests := rfl
@[simp] theorem State.modTeam_delivered (s : State) (t : Nat) (f : Team → Team) : (s.modTeam t f).delivered = s.delivered := rfl
@[simp] theorem State.modTeam_hall (s : State) (t : Nat) (f : Team → Team) : (s.modTeam t f).hall = s.hall := rfl
@[simp] theorem State.modTeam_atrium (s : State) (t : Nat) (f : Team → Team) : (s.modTeam t f).atrium = s.atrium := rfl
@[simp] theorem State.modTeam_mtlb (s : State) (t : Nat) (f : Team → Team) : (s.modTeam t f).mtlb = s.mtlb := rfl
@[simp] theorem State.modTeam_fabcfg (s : State) (t : Nat) (f : Team → Team) : (s.modTeam t f).fabcfg = s.fabcfg := rfl
@[simp] theorem State.modTeam_poison (s : State) (t : Nat) (f : Team → Team) : (s.modTeam t f).poison = s.poison := rfl
@[simp] theorem State.modTeam_routers (s : State) (t : Nat) (f : Team → Team) : (s.modTeam t f).routers = s.routers := rfl
@[simp] theorem State.modTeam_sent (s : State) (t : Nat) (f : Team → Team) : (s.modTeam t f).sent = s.sent := rfl
@[simp] theorem State.modTeam_period (s : State) (t : Nat) (f : Team → Team) : (s.modTeam t f).period = s.period := rfl
@[simp] theorem State.modTeam_aways (s : State) (t : Nat) (f : Team → Team) : (s.modTeam t f).aways = s.aways := rfl
@[simp] theorem State.modTeam_accesses (s : State) (t : Nat) (f : Team → Team) : (s.modTeam t f).accesses = s.accesses := rfl
@[simp] theorem State.modTeam_places (s : State) (t : Nat) (f : Team → Team) : (s.modTeam t f).places = s.places := rfl
@[simp] theorem State.modTeam_migrations (s : State) (t : Nat) (f : Team → Team) : (s.modTeam t f).migrations = s.migrations := rfl
@[simp] theorem State.modTeam_wires (s : State) (t : Nat) (f : Team → Team) : (s.modTeam t f).wires = s.wires := rfl
@[simp] theorem State.modTeam_log (s : State) (t : Nat) (f : Team → Team) : (s.modTeam t f).log = s.log := rfl
@[simp] theorem State.modTeam_logCount (s : State) (t : Nat) (f : Team → Team) : (s.modTeam t f).logCount = s.logCount := rfl
@[simp] theorem State.modTeam_nodes (s : State) (t : Nat) (f : Team → Team) : (s.modTeam t f).nodes = s.nodes := rfl
@[simp] theorem State.modTeam_host (s : State) (t : Nat) (f : Team → Team) : (s.modTeam t f).host = s.host := rfl
@[simp] theorem State.modTeam_newel (s : State) (t : Nat) (f : Team → Team) : (s.modTeam t f).newel = s.newel := rfl

/-! `State.modUsher` -/

@[simp] theorem State.modUsher_cycle (s : State) (f : Usher → Usher) : (s.modUsher f).cycle = s.cycle := rfl
@[simp] theorem State.modUsher_epoch (s : State) (f : Usher → Usher) : (s.modUsher f).epoch = s.epoch := rfl
@[simp] theorem State.modUsher_powered (s : State) (f : Usher → Usher) : (s.modUsher f).powered = s.powered := rfl
@[simp] theorem State.modUsher_inputs (s : State) (f : Usher → Usher) : (s.modUsher f).inputs = s.inputs := rfl
@[simp] theorem State.modUsher_turn (s : State) (f : Usher → Usher) : (s.modUsher f).turn = s.turn := rfl
@[simp] theorem State.modUsher_cur (s : State) (f : Usher → Usher) : (s.modUsher f).cur = s.cur := rfl
@[simp] theorem State.modUsher_pre (s : State) (f : Usher → Usher) : (s.modUsher f).pre = s.pre := rfl
@[simp] theorem State.modUsher_fresh (s : State) (f : Usher → Usher) : (s.modUsher f).fresh = s.fresh := rfl
@[simp] theorem State.modUsher_cores (s : State) (f : Usher → Usher) : (s.modUsher f).cores = s.cores := rfl
@[simp] theorem State.modUsher_mem (s : State) (f : Usher → Usher) : (s.modUsher f).mem = s.mem := rfl
@[simp] theorem State.modUsher_nextId (s : State) (f : Usher → Usher) : (s.modUsher f).nextId = s.nextId := rfl
@[simp] theorem State.modUsher_requests (s : State) (f : Usher → Usher) : (s.modUsher f).requests = s.requests := rfl
@[simp] theorem State.modUsher_delivered (s : State) (f : Usher → Usher) : (s.modUsher f).delivered = s.delivered := rfl
@[simp] theorem State.modUsher_hall (s : State) (f : Usher → Usher) : (s.modUsher f).hall = s.hall := rfl
@[simp] theorem State.modUsher_atrium (s : State) (f : Usher → Usher) : (s.modUsher f).atrium = s.atrium := rfl
@[simp] theorem State.modUsher_mtlb (s : State) (f : Usher → Usher) : (s.modUsher f).mtlb = s.mtlb := rfl
@[simp] theorem State.modUsher_fabcfg (s : State) (f : Usher → Usher) : (s.modUsher f).fabcfg = s.fabcfg := rfl
@[simp] theorem State.modUsher_poison (s : State) (f : Usher → Usher) : (s.modUsher f).poison = s.poison := rfl
@[simp] theorem State.modUsher_routers (s : State) (f : Usher → Usher) : (s.modUsher f).routers = s.routers := rfl
@[simp] theorem State.modUsher_sent (s : State) (f : Usher → Usher) : (s.modUsher f).sent = s.sent := rfl
@[simp] theorem State.modUsher_period (s : State) (f : Usher → Usher) : (s.modUsher f).period = s.period := rfl
@[simp] theorem State.modUsher_aways (s : State) (f : Usher → Usher) : (s.modUsher f).aways = s.aways := rfl
@[simp] theorem State.modUsher_accesses (s : State) (f : Usher → Usher) : (s.modUsher f).accesses = s.accesses := rfl
@[simp] theorem State.modUsher_places (s : State) (f : Usher → Usher) : (s.modUsher f).places = s.places := rfl
@[simp] theorem State.modUsher_migrations (s : State) (f : Usher → Usher) : (s.modUsher f).migrations = s.migrations := rfl
@[simp] theorem State.modUsher_wires (s : State) (f : Usher → Usher) : (s.modUsher f).wires = s.wires := rfl
@[simp] theorem State.modUsher_log (s : State) (f : Usher → Usher) : (s.modUsher f).log = s.log := rfl
@[simp] theorem State.modUsher_logCount (s : State) (f : Usher → Usher) : (s.modUsher f).logCount = s.logCount := rfl
@[simp] theorem State.modUsher_nodes (s : State) (f : Usher → Usher) : (s.modUsher f).nodes = s.nodes := rfl
@[simp] theorem State.modUsher_host (s : State) (f : Usher → Usher) : (s.modUsher f).host = s.host := rfl
@[simp] theorem State.modUsher_newel (s : State) (f : Usher → Usher) : (s.modUsher f).newel = s.newel := rfl

/-! `State.modHost` -/

@[simp] theorem State.modHost_cycle (s : State) (f : HostPort → HostPort) : (s.modHost f).cycle = s.cycle := rfl
@[simp] theorem State.modHost_epoch (s : State) (f : HostPort → HostPort) : (s.modHost f).epoch = s.epoch := rfl
@[simp] theorem State.modHost_powered (s : State) (f : HostPort → HostPort) : (s.modHost f).powered = s.powered := rfl
@[simp] theorem State.modHost_inputs (s : State) (f : HostPort → HostPort) : (s.modHost f).inputs = s.inputs := rfl
@[simp] theorem State.modHost_turn (s : State) (f : HostPort → HostPort) : (s.modHost f).turn = s.turn := rfl
@[simp] theorem State.modHost_cur (s : State) (f : HostPort → HostPort) : (s.modHost f).cur = s.cur := rfl
@[simp] theorem State.modHost_pre (s : State) (f : HostPort → HostPort) : (s.modHost f).pre = s.pre := rfl
@[simp] theorem State.modHost_fresh (s : State) (f : HostPort → HostPort) : (s.modHost f).fresh = s.fresh := rfl
@[simp] theorem State.modHost_cores (s : State) (f : HostPort → HostPort) : (s.modHost f).cores = s.cores := rfl
@[simp] theorem State.modHost_mem (s : State) (f : HostPort → HostPort) : (s.modHost f).mem = s.mem := rfl
@[simp] theorem State.modHost_nextId (s : State) (f : HostPort → HostPort) : (s.modHost f).nextId = s.nextId := rfl
@[simp] theorem State.modHost_requests (s : State) (f : HostPort → HostPort) : (s.modHost f).requests = s.requests := rfl
@[simp] theorem State.modHost_delivered (s : State) (f : HostPort → HostPort) : (s.modHost f).delivered = s.delivered := rfl
@[simp] theorem State.modHost_hall (s : State) (f : HostPort → HostPort) : (s.modHost f).hall = s.hall := rfl
@[simp] theorem State.modHost_atrium (s : State) (f : HostPort → HostPort) : (s.modHost f).atrium = s.atrium := rfl
@[simp] theorem State.modHost_mtlb (s : State) (f : HostPort → HostPort) : (s.modHost f).mtlb = s.mtlb := rfl
@[simp] theorem State.modHost_fabcfg (s : State) (f : HostPort → HostPort) : (s.modHost f).fabcfg = s.fabcfg := rfl
@[simp] theorem State.modHost_poison (s : State) (f : HostPort → HostPort) : (s.modHost f).poison = s.poison := rfl
@[simp] theorem State.modHost_routers (s : State) (f : HostPort → HostPort) : (s.modHost f).routers = s.routers := rfl
@[simp] theorem State.modHost_sent (s : State) (f : HostPort → HostPort) : (s.modHost f).sent = s.sent := rfl
@[simp] theorem State.modHost_period (s : State) (f : HostPort → HostPort) : (s.modHost f).period = s.period := rfl
@[simp] theorem State.modHost_aways (s : State) (f : HostPort → HostPort) : (s.modHost f).aways = s.aways := rfl
@[simp] theorem State.modHost_accesses (s : State) (f : HostPort → HostPort) : (s.modHost f).accesses = s.accesses := rfl
@[simp] theorem State.modHost_places (s : State) (f : HostPort → HostPort) : (s.modHost f).places = s.places := rfl
@[simp] theorem State.modHost_migrations (s : State) (f : HostPort → HostPort) : (s.modHost f).migrations = s.migrations := rfl
@[simp] theorem State.modHost_wires (s : State) (f : HostPort → HostPort) : (s.modHost f).wires = s.wires := rfl
@[simp] theorem State.modHost_log (s : State) (f : HostPort → HostPort) : (s.modHost f).log = s.log := rfl
@[simp] theorem State.modHost_logCount (s : State) (f : HostPort → HostPort) : (s.modHost f).logCount = s.logCount := rfl
@[simp] theorem State.modHost_nodes (s : State) (f : HostPort → HostPort) : (s.modHost f).nodes = s.nodes := rfl
@[simp] theorem State.modHost_newel (s : State) (f : HostPort → HostPort) : (s.modHost f).newel = s.newel := rfl
@[simp] theorem State.modHost_usher (s : State) (f : HostPort → HostPort) : (s.modHost f).usher = s.usher := rfl

/-! `State.modNewel` -/

@[simp] theorem State.modNewel_cycle (s : State) (f : Newel → Newel) : (s.modNewel f).cycle = s.cycle := rfl
@[simp] theorem State.modNewel_epoch (s : State) (f : Newel → Newel) : (s.modNewel f).epoch = s.epoch := rfl
@[simp] theorem State.modNewel_powered (s : State) (f : Newel → Newel) : (s.modNewel f).powered = s.powered := rfl
@[simp] theorem State.modNewel_inputs (s : State) (f : Newel → Newel) : (s.modNewel f).inputs = s.inputs := rfl
@[simp] theorem State.modNewel_turn (s : State) (f : Newel → Newel) : (s.modNewel f).turn = s.turn := rfl
@[simp] theorem State.modNewel_cur (s : State) (f : Newel → Newel) : (s.modNewel f).cur = s.cur := rfl
@[simp] theorem State.modNewel_pre (s : State) (f : Newel → Newel) : (s.modNewel f).pre = s.pre := rfl
@[simp] theorem State.modNewel_fresh (s : State) (f : Newel → Newel) : (s.modNewel f).fresh = s.fresh := rfl
@[simp] theorem State.modNewel_cores (s : State) (f : Newel → Newel) : (s.modNewel f).cores = s.cores := rfl
@[simp] theorem State.modNewel_mem (s : State) (f : Newel → Newel) : (s.modNewel f).mem = s.mem := rfl
@[simp] theorem State.modNewel_nextId (s : State) (f : Newel → Newel) : (s.modNewel f).nextId = s.nextId := rfl
@[simp] theorem State.modNewel_requests (s : State) (f : Newel → Newel) : (s.modNewel f).requests = s.requests := rfl
@[simp] theorem State.modNewel_delivered (s : State) (f : Newel → Newel) : (s.modNewel f).delivered = s.delivered := rfl
@[simp] theorem State.modNewel_hall (s : State) (f : Newel → Newel) : (s.modNewel f).hall = s.hall := rfl
@[simp] theorem State.modNewel_atrium (s : State) (f : Newel → Newel) : (s.modNewel f).atrium = s.atrium := rfl
@[simp] theorem State.modNewel_mtlb (s : State) (f : Newel → Newel) : (s.modNewel f).mtlb = s.mtlb := rfl
@[simp] theorem State.modNewel_fabcfg (s : State) (f : Newel → Newel) : (s.modNewel f).fabcfg = s.fabcfg := rfl
@[simp] theorem State.modNewel_poison (s : State) (f : Newel → Newel) : (s.modNewel f).poison = s.poison := rfl
@[simp] theorem State.modNewel_routers (s : State) (f : Newel → Newel) : (s.modNewel f).routers = s.routers := rfl
@[simp] theorem State.modNewel_sent (s : State) (f : Newel → Newel) : (s.modNewel f).sent = s.sent := rfl
@[simp] theorem State.modNewel_period (s : State) (f : Newel → Newel) : (s.modNewel f).period = s.period := rfl
@[simp] theorem State.modNewel_aways (s : State) (f : Newel → Newel) : (s.modNewel f).aways = s.aways := rfl
@[simp] theorem State.modNewel_accesses (s : State) (f : Newel → Newel) : (s.modNewel f).accesses = s.accesses := rfl
@[simp] theorem State.modNewel_places (s : State) (f : Newel → Newel) : (s.modNewel f).places = s.places := rfl
@[simp] theorem State.modNewel_migrations (s : State) (f : Newel → Newel) : (s.modNewel f).migrations = s.migrations := rfl
@[simp] theorem State.modNewel_wires (s : State) (f : Newel → Newel) : (s.modNewel f).wires = s.wires := rfl
@[simp] theorem State.modNewel_log (s : State) (f : Newel → Newel) : (s.modNewel f).log = s.log := rfl
@[simp] theorem State.modNewel_logCount (s : State) (f : Newel → Newel) : (s.modNewel f).logCount = s.logCount := rfl
@[simp] theorem State.modNewel_nodes (s : State) (f : Newel → Newel) : (s.modNewel f).nodes = s.nodes := rfl
@[simp] theorem State.modNewel_host (s : State) (f : Newel → Newel) : (s.modNewel f).host = s.host := rfl
@[simp] theorem State.modNewel_usher (s : State) (f : Newel → Newel) : (s.modNewel f).usher = s.usher := rfl

/-! `State.putRequest` -/

@[simp] theorem State.putRequest_cycle (s : State) (r : Request) : (s.putRequest r).cycle = s.cycle := rfl
@[simp] theorem State.putRequest_epoch (s : State) (r : Request) : (s.putRequest r).epoch = s.epoch := rfl
@[simp] theorem State.putRequest_powered (s : State) (r : Request) : (s.putRequest r).powered = s.powered := rfl
@[simp] theorem State.putRequest_inputs (s : State) (r : Request) : (s.putRequest r).inputs = s.inputs := rfl
@[simp] theorem State.putRequest_turn (s : State) (r : Request) : (s.putRequest r).turn = s.turn := rfl
@[simp] theorem State.putRequest_cur (s : State) (r : Request) : (s.putRequest r).cur = s.cur := rfl
@[simp] theorem State.putRequest_pre (s : State) (r : Request) : (s.putRequest r).pre = s.pre := rfl
@[simp] theorem State.putRequest_fresh (s : State) (r : Request) : (s.putRequest r).fresh = s.fresh := rfl
@[simp] theorem State.putRequest_cores (s : State) (r : Request) : (s.putRequest r).cores = s.cores := rfl
@[simp] theorem State.putRequest_mem (s : State) (r : Request) : (s.putRequest r).mem = s.mem := rfl
@[simp] theorem State.putRequest_nextId (s : State) (r : Request) : (s.putRequest r).nextId = s.nextId := rfl
@[simp] theorem State.putRequest_delivered (s : State) (r : Request) : (s.putRequest r).delivered = s.delivered := rfl
@[simp] theorem State.putRequest_hall (s : State) (r : Request) : (s.putRequest r).hall = s.hall := rfl
@[simp] theorem State.putRequest_atrium (s : State) (r : Request) : (s.putRequest r).atrium = s.atrium := rfl
@[simp] theorem State.putRequest_mtlb (s : State) (r : Request) : (s.putRequest r).mtlb = s.mtlb := rfl
@[simp] theorem State.putRequest_fabcfg (s : State) (r : Request) : (s.putRequest r).fabcfg = s.fabcfg := rfl
@[simp] theorem State.putRequest_poison (s : State) (r : Request) : (s.putRequest r).poison = s.poison := rfl
@[simp] theorem State.putRequest_routers (s : State) (r : Request) : (s.putRequest r).routers = s.routers := rfl
@[simp] theorem State.putRequest_sent (s : State) (r : Request) : (s.putRequest r).sent = s.sent := rfl
@[simp] theorem State.putRequest_period (s : State) (r : Request) : (s.putRequest r).period = s.period := rfl
@[simp] theorem State.putRequest_aways (s : State) (r : Request) : (s.putRequest r).aways = s.aways := rfl
@[simp] theorem State.putRequest_accesses (s : State) (r : Request) : (s.putRequest r).accesses = s.accesses := rfl
@[simp] theorem State.putRequest_places (s : State) (r : Request) : (s.putRequest r).places = s.places := rfl
@[simp] theorem State.putRequest_migrations (s : State) (r : Request) : (s.putRequest r).migrations = s.migrations := rfl
@[simp] theorem State.putRequest_wires (s : State) (r : Request) : (s.putRequest r).wires = s.wires := rfl
@[simp] theorem State.putRequest_log (s : State) (r : Request) : (s.putRequest r).log = s.log := rfl
@[simp] theorem State.putRequest_logCount (s : State) (r : Request) : (s.putRequest r).logCount = s.logCount := rfl
@[simp] theorem State.putRequest_nodes (s : State) (r : Request) : (s.putRequest r).nodes = s.nodes := rfl
@[simp] theorem State.putRequest_host (s : State) (r : Request) : (s.putRequest r).host = s.host := rfl
@[simp] theorem State.putRequest_newel (s : State) (r : Request) : (s.putRequest r).newel = s.newel := rfl
@[simp] theorem State.putRequest_usher (s : State) (r : Request) : (s.putRequest r).usher = s.usher := rfl

/-! `State.dropRequest` -/

@[simp] theorem State.dropRequest_cycle (s : State) (id : Nat) : (s.dropRequest id).cycle = s.cycle := rfl
@[simp] theorem State.dropRequest_epoch (s : State) (id : Nat) : (s.dropRequest id).epoch = s.epoch := rfl
@[simp] theorem State.dropRequest_powered (s : State) (id : Nat) : (s.dropRequest id).powered = s.powered := rfl
@[simp] theorem State.dropRequest_inputs (s : State) (id : Nat) : (s.dropRequest id).inputs = s.inputs := rfl
@[simp] theorem State.dropRequest_turn (s : State) (id : Nat) : (s.dropRequest id).turn = s.turn := rfl
@[simp] theorem State.dropRequest_cur (s : State) (id : Nat) : (s.dropRequest id).cur = s.cur := rfl
@[simp] theorem State.dropRequest_pre (s : State) (id : Nat) : (s.dropRequest id).pre = s.pre := rfl
@[simp] theorem State.dropRequest_fresh (s : State) (id : Nat) : (s.dropRequest id).fresh = s.fresh := rfl
@[simp] theorem State.dropRequest_cores (s : State) (id : Nat) : (s.dropRequest id).cores = s.cores := rfl
@[simp] theorem State.dropRequest_mem (s : State) (id : Nat) : (s.dropRequest id).mem = s.mem := rfl
@[simp] theorem State.dropRequest_nextId (s : State) (id : Nat) : (s.dropRequest id).nextId = s.nextId := rfl
@[simp] theorem State.dropRequest_delivered (s : State) (id : Nat) : (s.dropRequest id).delivered = s.delivered := rfl
@[simp] theorem State.dropRequest_hall (s : State) (id : Nat) : (s.dropRequest id).hall = s.hall := rfl
@[simp] theorem State.dropRequest_atrium (s : State) (id : Nat) : (s.dropRequest id).atrium = s.atrium := rfl
@[simp] theorem State.dropRequest_mtlb (s : State) (id : Nat) : (s.dropRequest id).mtlb = s.mtlb := rfl
@[simp] theorem State.dropRequest_fabcfg (s : State) (id : Nat) : (s.dropRequest id).fabcfg = s.fabcfg := rfl
@[simp] theorem State.dropRequest_poison (s : State) (id : Nat) : (s.dropRequest id).poison = s.poison := rfl
@[simp] theorem State.dropRequest_routers (s : State) (id : Nat) : (s.dropRequest id).routers = s.routers := rfl
@[simp] theorem State.dropRequest_sent (s : State) (id : Nat) : (s.dropRequest id).sent = s.sent := rfl
@[simp] theorem State.dropRequest_period (s : State) (id : Nat) : (s.dropRequest id).period = s.period := rfl
@[simp] theorem State.dropRequest_aways (s : State) (id : Nat) : (s.dropRequest id).aways = s.aways := rfl
@[simp] theorem State.dropRequest_accesses (s : State) (id : Nat) : (s.dropRequest id).accesses = s.accesses := rfl
@[simp] theorem State.dropRequest_places (s : State) (id : Nat) : (s.dropRequest id).places = s.places := rfl
@[simp] theorem State.dropRequest_migrations (s : State) (id : Nat) : (s.dropRequest id).migrations = s.migrations := rfl
@[simp] theorem State.dropRequest_wires (s : State) (id : Nat) : (s.dropRequest id).wires = s.wires := rfl
@[simp] theorem State.dropRequest_log (s : State) (id : Nat) : (s.dropRequest id).log = s.log := rfl
@[simp] theorem State.dropRequest_logCount (s : State) (id : Nat) : (s.dropRequest id).logCount = s.logCount := rfl
@[simp] theorem State.dropRequest_nodes (s : State) (id : Nat) : (s.dropRequest id).nodes = s.nodes := rfl
@[simp] theorem State.dropRequest_host (s : State) (id : Nat) : (s.dropRequest id).host = s.host := rfl
@[simp] theorem State.dropRequest_newel (s : State) (id : Nat) : (s.dropRequest id).newel = s.newel := rfl
@[simp] theorem State.dropRequest_usher (s : State) (id : Nat) : (s.dropRequest id).usher = s.usher := rfl

/-! `State.modHall` -/

@[simp] theorem State.modHall_cycle (s : State) (asn : BitVec 12) (va : VA) (f : HallLine → HallLine) : (s.modHall asn va f).cycle = s.cycle := rfl
@[simp] theorem State.modHall_epoch (s : State) (asn : BitVec 12) (va : VA) (f : HallLine → HallLine) : (s.modHall asn va f).epoch = s.epoch := rfl
@[simp] theorem State.modHall_powered (s : State) (asn : BitVec 12) (va : VA) (f : HallLine → HallLine) : (s.modHall asn va f).powered = s.powered := rfl
@[simp] theorem State.modHall_inputs (s : State) (asn : BitVec 12) (va : VA) (f : HallLine → HallLine) : (s.modHall asn va f).inputs = s.inputs := rfl
@[simp] theorem State.modHall_turn (s : State) (asn : BitVec 12) (va : VA) (f : HallLine → HallLine) : (s.modHall asn va f).turn = s.turn := rfl
@[simp] theorem State.modHall_cur (s : State) (asn : BitVec 12) (va : VA) (f : HallLine → HallLine) : (s.modHall asn va f).cur = s.cur := rfl
@[simp] theorem State.modHall_pre (s : State) (asn : BitVec 12) (va : VA) (f : HallLine → HallLine) : (s.modHall asn va f).pre = s.pre := rfl
@[simp] theorem State.modHall_fresh (s : State) (asn : BitVec 12) (va : VA) (f : HallLine → HallLine) : (s.modHall asn va f).fresh = s.fresh := rfl
@[simp] theorem State.modHall_cores (s : State) (asn : BitVec 12) (va : VA) (f : HallLine → HallLine) : (s.modHall asn va f).cores = s.cores := rfl
@[simp] theorem State.modHall_mem (s : State) (asn : BitVec 12) (va : VA) (f : HallLine → HallLine) : (s.modHall asn va f).mem = s.mem := rfl
@[simp] theorem State.modHall_nextId (s : State) (asn : BitVec 12) (va : VA) (f : HallLine → HallLine) : (s.modHall asn va f).nextId = s.nextId := rfl
@[simp] theorem State.modHall_requests (s : State) (asn : BitVec 12) (va : VA) (f : HallLine → HallLine) : (s.modHall asn va f).requests = s.requests := rfl
@[simp] theorem State.modHall_delivered (s : State) (asn : BitVec 12) (va : VA) (f : HallLine → HallLine) : (s.modHall asn va f).delivered = s.delivered := rfl
@[simp] theorem State.modHall_atrium (s : State) (asn : BitVec 12) (va : VA) (f : HallLine → HallLine) : (s.modHall asn va f).atrium = s.atrium := rfl
@[simp] theorem State.modHall_mtlb (s : State) (asn : BitVec 12) (va : VA) (f : HallLine → HallLine) : (s.modHall asn va f).mtlb = s.mtlb := rfl
@[simp] theorem State.modHall_fabcfg (s : State) (asn : BitVec 12) (va : VA) (f : HallLine → HallLine) : (s.modHall asn va f).fabcfg = s.fabcfg := rfl
@[simp] theorem State.modHall_poison (s : State) (asn : BitVec 12) (va : VA) (f : HallLine → HallLine) : (s.modHall asn va f).poison = s.poison := rfl
@[simp] theorem State.modHall_routers (s : State) (asn : BitVec 12) (va : VA) (f : HallLine → HallLine) : (s.modHall asn va f).routers = s.routers := rfl
@[simp] theorem State.modHall_sent (s : State) (asn : BitVec 12) (va : VA) (f : HallLine → HallLine) : (s.modHall asn va f).sent = s.sent := rfl
@[simp] theorem State.modHall_period (s : State) (asn : BitVec 12) (va : VA) (f : HallLine → HallLine) : (s.modHall asn va f).period = s.period := rfl
@[simp] theorem State.modHall_aways (s : State) (asn : BitVec 12) (va : VA) (f : HallLine → HallLine) : (s.modHall asn va f).aways = s.aways := rfl
@[simp] theorem State.modHall_accesses (s : State) (asn : BitVec 12) (va : VA) (f : HallLine → HallLine) : (s.modHall asn va f).accesses = s.accesses := rfl
@[simp] theorem State.modHall_places (s : State) (asn : BitVec 12) (va : VA) (f : HallLine → HallLine) : (s.modHall asn va f).places = s.places := rfl
@[simp] theorem State.modHall_migrations (s : State) (asn : BitVec 12) (va : VA) (f : HallLine → HallLine) : (s.modHall asn va f).migrations = s.migrations := rfl
@[simp] theorem State.modHall_wires (s : State) (asn : BitVec 12) (va : VA) (f : HallLine → HallLine) : (s.modHall asn va f).wires = s.wires := rfl
@[simp] theorem State.modHall_log (s : State) (asn : BitVec 12) (va : VA) (f : HallLine → HallLine) : (s.modHall asn va f).log = s.log := rfl
@[simp] theorem State.modHall_logCount (s : State) (asn : BitVec 12) (va : VA) (f : HallLine → HallLine) : (s.modHall asn va f).logCount = s.logCount := rfl
@[simp] theorem State.modHall_nodes (s : State) (asn : BitVec 12) (va : VA) (f : HallLine → HallLine) : (s.modHall asn va f).nodes = s.nodes := rfl
@[simp] theorem State.modHall_host (s : State) (asn : BitVec 12) (va : VA) (f : HallLine → HallLine) : (s.modHall asn va f).host = s.host := rfl
@[simp] theorem State.modHall_newel (s : State) (asn : BitVec 12) (va : VA) (f : HallLine → HallLine) : (s.modHall asn va f).newel = s.newel := rfl
@[simp] theorem State.modHall_usher (s : State) (asn : BitVec 12) (va : VA) (f : HallLine → HallLine) : (s.modHall asn va f).usher = s.usher := rfl

/-! `State.goto` -/

@[simp] theorem State.goto_cycle (s : State) (t : VA) : (s.goto t).cycle = s.cycle := rfl
@[simp] theorem State.goto_epoch (s : State) (t : VA) : (s.goto t).epoch = s.epoch := rfl
@[simp] theorem State.goto_powered (s : State) (t : VA) : (s.goto t).powered = s.powered := rfl
@[simp] theorem State.goto_inputs (s : State) (t : VA) : (s.goto t).inputs = s.inputs := rfl
@[simp] theorem State.goto_turn (s : State) (t : VA) : (s.goto t).turn = s.turn := rfl
@[simp] theorem State.goto_pre (s : State) (t : VA) : (s.goto t).pre = s.pre := rfl
@[simp] theorem State.goto_fresh (s : State) (t : VA) : (s.goto t).fresh = s.fresh := rfl
@[simp] theorem State.goto_cores (s : State) (t : VA) : (s.goto t).cores = s.cores := rfl
@[simp] theorem State.goto_mem (s : State) (t : VA) : (s.goto t).mem = s.mem := rfl
@[simp] theorem State.goto_nextId (s : State) (t : VA) : (s.goto t).nextId = s.nextId := rfl
@[simp] theorem State.goto_requests (s : State) (t : VA) : (s.goto t).requests = s.requests := rfl
@[simp] theorem State.goto_delivered (s : State) (t : VA) : (s.goto t).delivered = s.delivered := rfl
@[simp] theorem State.goto_hall (s : State) (t : VA) : (s.goto t).hall = s.hall := rfl
@[simp] theorem State.goto_atrium (s : State) (t : VA) : (s.goto t).atrium = s.atrium := rfl
@[simp] theorem State.goto_mtlb (s : State) (t : VA) : (s.goto t).mtlb = s.mtlb := rfl
@[simp] theorem State.goto_fabcfg (s : State) (t : VA) : (s.goto t).fabcfg = s.fabcfg := rfl
@[simp] theorem State.goto_poison (s : State) (t : VA) : (s.goto t).poison = s.poison := rfl
@[simp] theorem State.goto_routers (s : State) (t : VA) : (s.goto t).routers = s.routers := rfl
@[simp] theorem State.goto_sent (s : State) (t : VA) : (s.goto t).sent = s.sent := rfl
@[simp] theorem State.goto_period (s : State) (t : VA) : (s.goto t).period = s.period := rfl
@[simp] theorem State.goto_aways (s : State) (t : VA) : (s.goto t).aways = s.aways := rfl
@[simp] theorem State.goto_accesses (s : State) (t : VA) : (s.goto t).accesses = s.accesses := rfl
@[simp] theorem State.goto_places (s : State) (t : VA) : (s.goto t).places = s.places := rfl
@[simp] theorem State.goto_migrations (s : State) (t : VA) : (s.goto t).migrations = s.migrations := rfl
@[simp] theorem State.goto_wires (s : State) (t : VA) : (s.goto t).wires = s.wires := rfl
@[simp] theorem State.goto_log (s : State) (t : VA) : (s.goto t).log = s.log := rfl
@[simp] theorem State.goto_logCount (s : State) (t : VA) : (s.goto t).logCount = s.logCount := rfl
@[simp] theorem State.goto_nodes (s : State) (t : VA) : (s.goto t).nodes = s.nodes := rfl
@[simp] theorem State.goto_host (s : State) (t : VA) : (s.goto t).host = s.host := rfl
@[simp] theorem State.goto_newel (s : State) (t : VA) : (s.goto t).newel = s.newel := rfl
@[simp] theorem State.goto_usher (s : State) (t : VA) : (s.goto t).usher = s.usher := rfl

/-! `State.physWrite` -/

@[simp] theorem State.physWrite_cycle (s : State) (pa : Nat) (bs : List (BitVec 8)) : (s.physWrite pa bs).cycle = s.cycle := rfl
@[simp] theorem State.physWrite_epoch (s : State) (pa : Nat) (bs : List (BitVec 8)) : (s.physWrite pa bs).epoch = s.epoch := rfl
@[simp] theorem State.physWrite_powered (s : State) (pa : Nat) (bs : List (BitVec 8)) : (s.physWrite pa bs).powered = s.powered := rfl
@[simp] theorem State.physWrite_inputs (s : State) (pa : Nat) (bs : List (BitVec 8)) : (s.physWrite pa bs).inputs = s.inputs := rfl
@[simp] theorem State.physWrite_turn (s : State) (pa : Nat) (bs : List (BitVec 8)) : (s.physWrite pa bs).turn = s.turn := rfl
@[simp] theorem State.physWrite_cur (s : State) (pa : Nat) (bs : List (BitVec 8)) : (s.physWrite pa bs).cur = s.cur := rfl
@[simp] theorem State.physWrite_pre (s : State) (pa : Nat) (bs : List (BitVec 8)) : (s.physWrite pa bs).pre = s.pre := rfl
@[simp] theorem State.physWrite_fresh (s : State) (pa : Nat) (bs : List (BitVec 8)) : (s.physWrite pa bs).fresh = s.fresh := rfl
@[simp] theorem State.physWrite_cores (s : State) (pa : Nat) (bs : List (BitVec 8)) : (s.physWrite pa bs).cores = s.cores := rfl
@[simp] theorem State.physWrite_nextId (s : State) (pa : Nat) (bs : List (BitVec 8)) : (s.physWrite pa bs).nextId = s.nextId := rfl
@[simp] theorem State.physWrite_requests (s : State) (pa : Nat) (bs : List (BitVec 8)) : (s.physWrite pa bs).requests = s.requests := rfl
@[simp] theorem State.physWrite_delivered (s : State) (pa : Nat) (bs : List (BitVec 8)) : (s.physWrite pa bs).delivered = s.delivered := rfl
@[simp] theorem State.physWrite_hall (s : State) (pa : Nat) (bs : List (BitVec 8)) : (s.physWrite pa bs).hall = s.hall := rfl
@[simp] theorem State.physWrite_atrium (s : State) (pa : Nat) (bs : List (BitVec 8)) : (s.physWrite pa bs).atrium = s.atrium := rfl
@[simp] theorem State.physWrite_mtlb (s : State) (pa : Nat) (bs : List (BitVec 8)) : (s.physWrite pa bs).mtlb = s.mtlb := rfl
@[simp] theorem State.physWrite_fabcfg (s : State) (pa : Nat) (bs : List (BitVec 8)) : (s.physWrite pa bs).fabcfg = s.fabcfg := rfl
@[simp] theorem State.physWrite_routers (s : State) (pa : Nat) (bs : List (BitVec 8)) : (s.physWrite pa bs).routers = s.routers := rfl
@[simp] theorem State.physWrite_sent (s : State) (pa : Nat) (bs : List (BitVec 8)) : (s.physWrite pa bs).sent = s.sent := rfl
@[simp] theorem State.physWrite_period (s : State) (pa : Nat) (bs : List (BitVec 8)) : (s.physWrite pa bs).period = s.period := rfl
@[simp] theorem State.physWrite_aways (s : State) (pa : Nat) (bs : List (BitVec 8)) : (s.physWrite pa bs).aways = s.aways := rfl
@[simp] theorem State.physWrite_accesses (s : State) (pa : Nat) (bs : List (BitVec 8)) : (s.physWrite pa bs).accesses = s.accesses := rfl
@[simp] theorem State.physWrite_places (s : State) (pa : Nat) (bs : List (BitVec 8)) : (s.physWrite pa bs).places = s.places := rfl
@[simp] theorem State.physWrite_migrations (s : State) (pa : Nat) (bs : List (BitVec 8)) : (s.physWrite pa bs).migrations = s.migrations := rfl
@[simp] theorem State.physWrite_wires (s : State) (pa : Nat) (bs : List (BitVec 8)) : (s.physWrite pa bs).wires = s.wires := rfl
@[simp] theorem State.physWrite_log (s : State) (pa : Nat) (bs : List (BitVec 8)) : (s.physWrite pa bs).log = s.log := rfl
@[simp] theorem State.physWrite_logCount (s : State) (pa : Nat) (bs : List (BitVec 8)) : (s.physWrite pa bs).logCount = s.logCount := rfl
@[simp] theorem State.physWrite_nodes (s : State) (pa : Nat) (bs : List (BitVec 8)) : (s.physWrite pa bs).nodes = s.nodes := rfl
@[simp] theorem State.physWrite_host (s : State) (pa : Nat) (bs : List (BitVec 8)) : (s.physWrite pa bs).host = s.host := rfl
@[simp] theorem State.physWrite_newel (s : State) (pa : Nat) (bs : List (BitVec 8)) : (s.physWrite pa bs).newel = s.newel := rfl
@[simp] theorem State.physWrite_usher (s : State) (pa : Nat) (bs : List (BitVec 8)) : (s.physWrite pa bs).usher = s.usher := rfl

/-! `State.logEvent` -/

@[simp] theorem State.logEvent_cycle (s : State) (kind : LogKind) (unit : Nat) (d : BitVec 384) : (s.logEvent kind unit d).cycle = s.cycle := rfl
@[simp] theorem State.logEvent_epoch (s : State) (kind : LogKind) (unit : Nat) (d : BitVec 384) : (s.logEvent kind unit d).epoch = s.epoch := rfl
@[simp] theorem State.logEvent_powered (s : State) (kind : LogKind) (unit : Nat) (d : BitVec 384) : (s.logEvent kind unit d).powered = s.powered := rfl
@[simp] theorem State.logEvent_inputs (s : State) (kind : LogKind) (unit : Nat) (d : BitVec 384) : (s.logEvent kind unit d).inputs = s.inputs := rfl
@[simp] theorem State.logEvent_turn (s : State) (kind : LogKind) (unit : Nat) (d : BitVec 384) : (s.logEvent kind unit d).turn = s.turn := rfl
@[simp] theorem State.logEvent_cur (s : State) (kind : LogKind) (unit : Nat) (d : BitVec 384) : (s.logEvent kind unit d).cur = s.cur := rfl
@[simp] theorem State.logEvent_pre (s : State) (kind : LogKind) (unit : Nat) (d : BitVec 384) : (s.logEvent kind unit d).pre = s.pre := rfl
@[simp] theorem State.logEvent_fresh (s : State) (kind : LogKind) (unit : Nat) (d : BitVec 384) : (s.logEvent kind unit d).fresh = s.fresh := rfl
@[simp] theorem State.logEvent_cores (s : State) (kind : LogKind) (unit : Nat) (d : BitVec 384) : (s.logEvent kind unit d).cores = s.cores := rfl
@[simp] theorem State.logEvent_mem (s : State) (kind : LogKind) (unit : Nat) (d : BitVec 384) : (s.logEvent kind unit d).mem = s.mem := rfl
@[simp] theorem State.logEvent_nextId (s : State) (kind : LogKind) (unit : Nat) (d : BitVec 384) : (s.logEvent kind unit d).nextId = s.nextId := rfl
@[simp] theorem State.logEvent_requests (s : State) (kind : LogKind) (unit : Nat) (d : BitVec 384) : (s.logEvent kind unit d).requests = s.requests := rfl
@[simp] theorem State.logEvent_delivered (s : State) (kind : LogKind) (unit : Nat) (d : BitVec 384) : (s.logEvent kind unit d).delivered = s.delivered := rfl
@[simp] theorem State.logEvent_hall (s : State) (kind : LogKind) (unit : Nat) (d : BitVec 384) : (s.logEvent kind unit d).hall = s.hall := rfl
@[simp] theorem State.logEvent_atrium (s : State) (kind : LogKind) (unit : Nat) (d : BitVec 384) : (s.logEvent kind unit d).atrium = s.atrium := rfl
@[simp] theorem State.logEvent_mtlb (s : State) (kind : LogKind) (unit : Nat) (d : BitVec 384) : (s.logEvent kind unit d).mtlb = s.mtlb := rfl
@[simp] theorem State.logEvent_fabcfg (s : State) (kind : LogKind) (unit : Nat) (d : BitVec 384) : (s.logEvent kind unit d).fabcfg = s.fabcfg := rfl
@[simp] theorem State.logEvent_poison (s : State) (kind : LogKind) (unit : Nat) (d : BitVec 384) : (s.logEvent kind unit d).poison = s.poison := rfl
@[simp] theorem State.logEvent_routers (s : State) (kind : LogKind) (unit : Nat) (d : BitVec 384) : (s.logEvent kind unit d).routers = s.routers := rfl
@[simp] theorem State.logEvent_sent (s : State) (kind : LogKind) (unit : Nat) (d : BitVec 384) : (s.logEvent kind unit d).sent = s.sent := rfl
@[simp] theorem State.logEvent_period (s : State) (kind : LogKind) (unit : Nat) (d : BitVec 384) : (s.logEvent kind unit d).period = s.period := rfl
@[simp] theorem State.logEvent_aways (s : State) (kind : LogKind) (unit : Nat) (d : BitVec 384) : (s.logEvent kind unit d).aways = s.aways := rfl
@[simp] theorem State.logEvent_accesses (s : State) (kind : LogKind) (unit : Nat) (d : BitVec 384) : (s.logEvent kind unit d).accesses = s.accesses := rfl
@[simp] theorem State.logEvent_places (s : State) (kind : LogKind) (unit : Nat) (d : BitVec 384) : (s.logEvent kind unit d).places = s.places := rfl
@[simp] theorem State.logEvent_migrations (s : State) (kind : LogKind) (unit : Nat) (d : BitVec 384) : (s.logEvent kind unit d).migrations = s.migrations := rfl
@[simp] theorem State.logEvent_wires (s : State) (kind : LogKind) (unit : Nat) (d : BitVec 384) : (s.logEvent kind unit d).wires = s.wires := rfl
@[simp] theorem State.logEvent_nodes (s : State) (kind : LogKind) (unit : Nat) (d : BitVec 384) : (s.logEvent kind unit d).nodes = s.nodes := rfl
@[simp] theorem State.logEvent_host (s : State) (kind : LogKind) (unit : Nat) (d : BitVec 384) : (s.logEvent kind unit d).host = s.host := rfl
@[simp] theorem State.logEvent_newel (s : State) (kind : LogKind) (unit : Nat) (d : BitVec 384) : (s.logEvent kind unit d).newel = s.newel := rfl
@[simp] theorem State.logEvent_usher (s : State) (kind : LogKind) (unit : Nat) (d : BitVec 384) : (s.logEvent kind unit d).usher = s.usher := rfl

/-! Cores -/

@[simp] theorem State.body_modBody_same (s : State) (c : CoreId) (f : Body → Body) : (s.modBody c f).body c = f (s.body c) := by
  simp [State.body, State.modBody]
theorem State.body_modBody_ne (s : State) {c d : CoreId} (f : Body → Body) (h : d ≠ c) : (s.modBody c f).body d = s.body d := by
  simp only [State.body, State.modBody]
  rw [Vec.getElem_modify_ne _ _ h]
theorem State.cores_modBody_ne (s : State) {c d : CoreId} (f : Body → Body) (h : d ≠ c) : (s.modBody c f).cores[d] = s.cores[d] :=
  Vec.getElem_modify_ne _ _ h
@[simp] theorem State.cores_modBody_same (s : State) (c : CoreId) (f : Body → Body) :
    (s.modBody c f).cores[c] = { s.cores[c] with b := f (s.body c) } := by
  simp [State.body, State.modBody]
@[simp] theorem State.me_modMe (s : State) (f : Body → Body) : (s.modMe f).me = f s.me := State.body_modBody_same s _ f
@[simp] theorem State.task_modTask_same (s : State) (c : CoreId) (f : Task → Task) : (s.modTask c f).task c = f (s.task c) := by
  simp [State.task, State.modTask]
@[simp] theorem State.body_modTask (s : State) (c d : CoreId) (f : Task → Task) : (s.modTask c f).body d = s.body d := by
  simp only [State.body, State.modTask]
  by_cases h : d = c
  · subst h; simp
  · rw [Vec.getElem_modify_ne _ _ h]
@[simp] theorem State.task_modBody (s : State) (c d : CoreId) (f : Body → Body) : (s.modBody c f).task d = s.task d := by
  simp only [State.task, State.modBody]
  by_cases h : d = c
  · subst h; simp
  · rw [Vec.getElem_modify_ne _ _ h]

/-! Registers of a body -/

/-- A register write changes registers, their ready cycles and the awaited list only. -/
theorem Body.setG_frame (b : Body) (r : Reg) (v : BitVec 64) (n : Nat) :
    b.setG r v n = { b with g := (b.setG r v n).g, gReady := (b.setG r v n).gReady, awaited := (b.setG r v n).awaited } := by
  unfold Body.setG; split <;> rfl
@[simp] theorem Body.setG_zero (b : Body) (v : BitVec 64) (n : Nat) : b.setG 0 v n = b := rfl
theorem Body.setG_same (b : Body) {r : Reg} (v : BitVec 64) (n : Nat) (h : r ≠ 0) :
    (b.setG r v n).g[r] = v ∧ (b.setG r v n).gReady[r] = n := by
  have : r.val ≠ 0 := fun hc => h (Fin.ext hc)
  simp [Body.setG, this]
theorem Body.setG_ne (b : Body) {r x : Reg} (v : BitVec 64) (n : Nat) (h : x ≠ r) :
    (b.setG r v n).g[x] = b.g[x] ∧ (b.setG r v n).gReady[x] = b.gReady[x] := by
  unfold Body.setG
  split
  · exact ⟨rfl, rfl⟩
  · have : r.val ≠ x.val := fun hc => h (Fin.ext hc.symm)
    simp [this]

/-! Global memory -/

@[simp] theorem State.physWrite_mem (s : State) (pa : Nat) (bs : List (BitVec 8)) : (s.physWrite pa bs).mem = writeBytes s.mem pa bs := rfl
theorem State.physRead_physWrite (s : State) (pa : Nat) (bs : List (BitVec 8)) : (s.physWrite pa bs).physRead pa bs.length = bs :=
  readBytes_writeBytes_same _ _ _
/-- A byte outside the range written reads as before. -/
theorem State.physRead_outside (s : State) (pa : Nat) (bs : List (BitVec 8)) (x : Nat) (h : x < pa ∨ pa + bs.length ≤ x) :
    (s.physWrite pa bs).physRead x 1 = s.physRead x 1 := by
  simp only [State.physRead, State.physWrite, readBytes, sget_writeBytes_outside _ _ _ _ h]
/-- A write keeps the one form of memory. -/
theorem Memory.wf_physWrite (s : State) (pa : Nat) (bs : List (BitVec 8)) (h : Memory.wf s.mem) : Memory.wf (s.physWrite pa bs).mem :=
  canon_writeBytes _ _ _ h
theorem Memory.wf_reset : Memory.wf State.reset.mem := rfl

end Sys2Proof.Machine
end

