-- ==== Sys2Proof/Laws/Ops.lean ====
section
/-!
SUPPORT. One lemma for each shared operation on the core whose instruction runs, and on packets between dies: everything it can do.
-/
namespace Sys2Proof.Machine

@[simp] theorem completes_next (t : State) (P : State → Prop) : Completes (.next t) P ↔ P t :=
  ⟨fun ⟨_, h, hp⟩ => by cases h; exact hp, fun h => ⟨t, rfl, h⟩⟩

theorem onlyBody_modBody (s : State) (c : CoreId) (f : Body → Body) : OnlyBody s (s.modBody c f) c :=
  ⟨rfl, fun _ h => State.cores_modBody_ne s f h, by rw [State.cores_modBody_same, State.body_modBody_same]⟩

/-- A change of one core's registers, queues or control state touches no byte. -/
theorem sameBytes_modBody (s : State) (c : CoreId) (f : Body → Body) (h : ∀ sp, (f (s.body c)).space sp = (s.body c).space sp) :
    SameBytes s (s.modBody c f) := by
  refine ⟨fun _ => rfl, fun d sp a => ?_⟩
  by_cases hd : d = c
  · subst hd; simp only [State.body_modBody_same, Body.read, h]
  · rw [State.body_modBody_ne _ _ hd]

theorem becomes_modMe (s : State) (f : Body → Body) : Becomes s (s.modMe f) f :=
  ⟨onlyBody_modBody s _ f, State.me_modMe s f⟩

theorem State.modBody_id (s : State) (c : CoreId) (f : Body → Body) (h : f (s.body c) = s.body c) : s.modBody c f = s := by
  have one : ∀ k : Core, f k.b = k.b → ({ k with b := f k.b } : Core) = k := fun k hk => by rw [hk]
  have hc : Vec.modify s.cores c (fun k => { k with b := f k.b }) = s.cores := by
    apply Vector.ext
    intro i hi
    rw [Vec.getElem_modify]
    split
    · rename_i e
      subst e
      exact one _ h
    · rfl
  show { s with cores := Vec.modify s.cores c fun k => { k with b := f k.b } } = s
  rw [hc]

@[simp] theorem Body.space_setG (b : Body) (r : Reg) (v : BitVec 64) (n : Nat) (sp : Space) : (b.setG r v n).space sp = b.space sp := by
  rw [Body.setG_frame]; cases sp <;> rfl

/-- Everything a register write does. -/
theorem writesG_wg (s : State) (r : Reg) (v : BitVec 64) (lat : Nat) : WritesG s (s.wg r v lat) r v (s.cycle + lat) := by
  have hm : (s.wg r v lat).me = s.me.setG r v (s.cycle + lat) := State.me_modMe ..
  refine ⟨onlyBody_modBody s s.cur.core fun b => b.setG r v (s.cycle + lat),
    sameBytes_modBody s s.cur.core (fun b => b.setG r v (s.cycle + lat)) (fun sp => by simp), ?_, ?_, ?_, ?_⟩
  · rw [hm]; exact Body.setG_frame ..
  · intro x hx
    rw [hm]
    exact Body.setG_ne _ _ _ hx
  · rintro rfl
    exact State.modBody_id s s.cur.core (fun b => b.setG 0 v (s.cycle + lat)) rfl
  · intro hr
    have hv : r.val ≠ 0 := fun hc => hr (Fin.ext hc)
    rw [hm]
    simp [Body.setG, hv]

/-- Everything a predicate write does. -/
theorem writesP_wp (s : State) (r : PReg) (v : Bool) (lat : Nat) : WritesP s (s.wp r v lat) r v (s.cycle + lat) := by
  unfold State.wp
  split
  · rename_i h
    have hr : r = 0 := Fin.ext h
    refine ⟨⟨rfl, fun _ _ => rfl, rfl⟩, ⟨fun _ => rfl, fun _ _ _ => rfl⟩, rfl, fun _ _ => ⟨rfl, rfl⟩, fun _ => rfl, fun h => absurd hr h⟩
  · rename_i h
    refine ⟨onlyBody_modBody s _ _, sameBytes_modBody s _ _ (fun sp => by cases sp <;> rfl), ?_, ?_, ?_, ?_⟩
    · simp only [State.me_modMe]
    · intro x hx
      have : r.val ≠ x.val := fun hc => hx (Fin.ext hc.symm)
      simp [State.me_modMe, this]
    · rintro rfl; exact absurd rfl h
    · intro _; simp [State.me_modMe]

/-! The bundle being run: traps, holds, requests, transfers -/

/-- Everything `raise` does: the first cause of a bundle stays. -/
theorem State.raise_eq (s : State) (cause : Cause) (taddr : BitVec 64) (aux : BitVec 10) :
    (∃ i, s.cur.trap = some i ∧ s.raise cause taddr aux = s) ∨
    (s.cur.trap = none ∧ ∃ i : TrapInfo, i.cause = cause ∧ i.taddr = taddr ∧ i.aux = aux ∧
      s.raise cause taddr aux = { s with cur := { s.cur with trap := some i } }) := by
  cases h : s.cur.trap with
  | some i => exact .inl ⟨i, rfl, by simp only [State.raise, h]⟩
  | none =>
    refine .inr ⟨rfl, ⟨cause, aux, taddr, if cause = .illegalBundle then 15 else slotCode s.cur.slot,
      (match s.cur.slot with
        | .v0 | .v1 => ⟨s.cur.group.val, Nat.lt_trans s.cur.group.isLt (by decide)⟩
        | _ => 31), false, none⟩, rfl, rfl, rfl, ?_⟩
    unfold State.raise
    rw [h]
    all_goals rfl
/-- Everything `holdFor` does: a stall prevails. -/
theorem State.holdFor_eq (s : State) (h : Hold) :
    s.holdFor h = { s with cur := { s.cur with hold := some (if s.cur.hold = some .stall then .stall else h) } } := by
  obtain hs | hs : s.cur.hold = some .stall ∨ s.cur.hold ≠ some .stall := by tauto
  · have : s = { s with cur := { s.cur with hold := some .stall } } := by rw [← hs]
    simp only [State.holdFor, hs, if_true]; exact this
  · unfold State.holdFor
    split
    · rename_i e; exact absurd e hs
    · rw [if_neg hs]
/-- Everything `askFor` does: of two requests of a bundle the one that comes first counts. -/
theorem State.askFor_eq (s : State) (h : Hold) (a : Ask) :
    s.askFor h a = { s with cur := { s.cur with ask := some (match s.cur.ask with
      | some x => Ask.first x (h, a)
      | none => (h, a)) } } := rfl
/-- Everything a taken transfer does. -/
theorem State.goto_eq (s : State) (t : VA) : s.goto t = { s with cur := { s.cur with target := some t } } := rfl
theorem State.nextFree_eq (s : State) : s.nextFree = (s.fresh, { s with fresh := s.fresh + 1 }) := rfl

/-! What waits for the end of the cycle touches no byte -/

theorem State.later_becomes (s : State) (rank : Nat) (sp : Space) (off : Nat) (bs : List (BitVec 8)) :
    SameBytes s (s.later rank sp off bs) ∧
      Becomes s (s.later rank sp off bs) fun b => { b with locals := b.locals ++ [⟨rank, sp, off, bs, s.src, [], false⟩] } :=
  ⟨sameBytes_modBody _ _ _ fun sp => by cases sp <;> rfl, becomes_modMe ..⟩
theorem State.post_becomes (s : State) (r : StatRec) :
    SameBytes s (s.post r) ∧ Becomes s (s.post r) fun b => { b with posts := b.posts ++ [(0, r)] } :=
  ⟨sameBytes_modBody _ _ _ fun sp => by cases sp <;> rfl, becomes_modMe ..⟩
theorem State.flagAt_becomes (s : State) (n : Fin 16) (set : Bool) (due : Nat) :
    SameBytes s (s.flagAt n set due) ∧ Becomes s (s.flagAt n set due) fun b => { b with flagOps := b.flagOps ++ [⟨n, set, due⟩] } :=
  ⟨sameBytes_modBody _ _ _ fun sp => by cases sp <;> rfl, becomes_modMe ..⟩

/-! Memory -/

/-- What stands outside the written bytes reads as before. -/
theorem State.physRead_physWrite_outside (s : State) (pa a : Nat) (bs : List (BitVec 8)) (h : a < pa ∨ pa + bs.length ≤ a) :
    (s.physWrite pa bs).physRead a 1 = s.physRead a 1 := by
  simp only [State.physRead, State.physWrite, readBytes]
  rw [sget_writeBytes_outside _ _ _ _ h]
/-- The written bytes read back. -/
theorem State.physRead_physWrite_same (s : State) (pa : Nat) (bs : List (BitVec 8)) : (s.physWrite pa bs).physRead pa bs.length = bs :=
  readBytes_writeBytes_same ..

/-! Packets and lines between dies, and waiting host accesses -/

/-- A packet at a router: it could go on from a cycle on, and waits there a free number of cycles. -/
theorem State.enterRouter_eq (s : State) (r : Request) (d : Fin 8) (n : Nat) :
    s.enterRouter r d n = State.putRequest { s with fresh := s.fresh + 1 } { r with at_ := d, since := n, due := n + Config.fabricWait s.fresh } := rfl
/-- A packet that sets out changes the requests, the counts of its die and the counter of free values alone. -/
theorem State.sendPacket_frame (s : State) (r : Request) (a b : Fin 8) (stage : Stage) (counted : Bool) :
    let t := s.sendPacket r a b stage counted
    t = { s with fresh := t.fresh, requests := t.requests, sent := t.sent } := rfl
/-- A line that goes to another die is a request of its own. -/
theorem State.carryLine_frame (s : State) (cl : Fin 8) (asn : BitVec 12) (line : Nat) (a b : Fin 8) :
    let t := s.carryLine cl asn line a b
    t = { s with nextId := t.nextId, fresh := t.fresh, requests := t.requests, sent := t.sent } := by
  unfold State.carryLine; split <;> rfl
theorem State.writeBack_frame (s : State) (h : HallLine) :
    let t := s.writeBack h
    t = { s with nextId := t.nextId, fresh := t.fresh, requests := t.requests, sent := t.sent } := by
  unfold State.writeBack; split
  · exact State.carryLine_frame ..
  · rfl
/-- A host access that waits stands last in the queue, with WINCTL as it was received. -/
theorem State.hostWaits_eq (s : State) (i : Input) :
    s.hostWaits i = { s with host := { s.host with queue := s.host.queue ++ [(s.host.inForce, i)] } } := rfl

end Sys2Proof.Machine
end

