-- ==== Sys2Proof/Laws/PerInstr.lean ====
section
/-!
SUPPORT. Family RoundTrip: decoding the encoding of a well-formed instruction gives it back, one lemma per constructor.
-/
namespace Sys2Proof.Laws.RoundTrip
set_option linter.unusedSimpArgs false

def Statement (i : Instr) : Prop := wellFormed i = true → encode i ≠ .event → decode (encode i) = some i

theorem rowA1 (w) (h : w.extractLsb' 26 6 = 1#6) : decodeA w = (if low22 w &&& 0xF#22 = 0x0#22 then .ok (.add (qual w) (rD w) (rA w) (rB w))
    else .error .reservedField) := by unfold decodeA; rw [h]; rfl
theorem rowA2 (w) (h : w.extractLsb' 26 6 = 2#6) : decodeA w = (if low22 w &&& 0xF#22 = 0x0#22 then .ok (.sub (qual w) (rD w) (rA w) (rB w))
    else .error .reservedField) := by unfold decodeA; rw [h]; rfl
theorem rowA3 (w) (h : w.extractLsb' 26 6 = 3#6) : decodeA w = (if low22 w &&& 0xF#22 = 0x0#22 then .ok (.and (qual w) (rD w) (rA w) (rB w))
    else .error .reservedField) := by unfold decodeA; rw [h]; rfl
theorem rowA4 (w) (h : w.extractLsb' 26 6 = 4#6) : decodeA w = (if low22 w &&& 0xF#22 = 0x0#22 then .ok (.or (qual w) (rD w) (rA w) (rB w))
    else .error .reservedField) := by unfold decodeA; rw [h]; rfl
theorem rowA5 (w) (h : w.extractLsb' 26 6 = 5#6) : decodeA w = (if low22 w &&& 0xF#22 = 0x0#22 then .ok (.xor (qual w) (rD w) (rA w) (rB w))
    else .error .reservedField) := by unfold decodeA; rw [h]; rfl
theorem rowA6 (w) (h : w.extractLsb' 26 6 = 6#6) : decodeA w = (if low22 w &&& 0xF#22 = 0x0#22 then .ok (.andn (qual w) (rD w) (rA w) (rB w))
    else .error .reservedField) := by unfold decodeA; rw [h]; rfl
theorem rowA7 (w) (h : w.extractLsb' 26 6 = 7#6) : decodeA w = (if low22 w &&& 0xF#22 = 0x0#22 then .ok (.min (qual w) (rD w) (rA w) (rB w))
    else .error .reservedField) := by unfold decodeA; rw [h]; rfl
theorem rowA8 (w) (h : w.extractLsb' 26 6 = 8#6) : decodeA w = (if low22 w &&& 0xF#22 = 0x0#22 then .ok (.max (qual w) (rD w) (rA w) (rB w))
    else .error .reservedField) := by unfold decodeA; rw [h]; rfl
theorem rowA9 (w) (h : w.extractLsb' 26 6 = 9#6) : decodeA w = (if low22 w &&& 0xF#22 = 0x0#22 then .ok (.minu (qual w) (rD w) (rA w) (rB w))
    else .error .reservedField) := by unfold decodeA; rw [h]; rfl
theorem rowA10 (w) (h : w.extractLsb' 26 6 = 10#6) : decodeA w = (if low22 w &&& 0xF#22 = 0x0#22 then .ok (.maxu (qual w) (rD w) (rA w) (rB w))
    else .error .reservedField) := by unfold decodeA; rw [h]; rfl
theorem rowA11 (w) (h : w.extractLsb' 26 6 = 11#6) : decodeA w = (if low22 w &&& 0xF#22 = 0x0#22 then .ok (.sll (qual w) (rD w) (rA w) (rB w))
    else .error .reservedField) := by unfold decodeA; rw [h]; rfl
theorem rowA12 (w) (h : w.extractLsb' 26 6 = 12#6) : decodeA w = (if low22 w &&& 0xF#22 = 0x0#22 then .ok (.srl (qual w) (rD w) (rA w) (rB w))
    else .error .reservedField) := by unfold decodeA; rw [h]; rfl
theorem rowA13 (w) (h : w.extractLsb' 26 6 = 13#6) : decodeA w = (if low22 w &&& 0xF#22 = 0x0#22 then .ok (.sra (qual w) (rD w) (rA w) (rB w))
    else .error .reservedField) := by unfold decodeA; rw [h]; rfl
theorem rowA14 (w) (h : w.extractLsb' 26 6 = 14#6) : decodeA w = (if low22 w &&& 0xF#22 = 0x0#22 then .ok (.rol (qual w) (rD w) (rA w) (rB w))
    else .error .reservedField) := by unfold decodeA; rw [h]; rfl
theorem rowA15 (w) (h : w.extractLsb' 26 6 = 15#6) : decodeA w = (if low22 w &&& 0xF#22 = 0x0#22 then .ok (.mul (qual w) (rD w) (rA w) (rB w))
    else .error .reservedField) := by unfold decodeA; rw [h]; rfl
theorem rowA16 (w) (h : w.extractLsb' 26 6 = 16#6) : decodeA w = (if low22 w &&& 0xF#22 = 0x0#22 then .ok (.mulh (qual w) (rD w) (rA w) (rB w))
    else .error .reservedField) := by unfold decodeA; rw [h]; rfl
theorem rowA17 (w) (h : w.extractLsb' 26 6 = 17#6) : decodeA w = (if low22 w &&& 0xF#22 = 0x0#22 then .ok (.mulhu (qual w) (rD w) (rA w) (rB w))
    else .error .reservedField) := by unfold decodeA; rw [h]; rfl
theorem rowA18 (w) (h : w.extractLsb' 26 6 = 18#6) : decodeA w = (if low22 w &&& 0xF#22 = 0x0#22 then .ok (.div (qual w) (rD w) (rA w) (rB w))
    else .error .reservedField) := by unfold decodeA; rw [h]; rfl
theorem rowA19 (w) (h : w.extractLsb' 26 6 = 19#6) : decodeA w = (if low22 w &&& 0xF#22 = 0x0#22 then .ok (.divu (qual w) (rD w) (rA w) (rB w))
    else .error .reservedField) := by unfold decodeA; rw [h]; rfl
theorem rowA20 (w) (h : w.extractLsb' 26 6 = 20#6) : decodeA w = (if low22 w &&& 0xF#22 = 0x0#22 then .ok (.rem (qual w) (rD w) (rA w) (rB w))
    else .error .reservedField) := by unfold decodeA; rw [h]; rfl
theorem rowA21 (w) (h : w.extractLsb' 26 6 = 21#6) : decodeA w = (if low22 w &&& 0xF#22 = 0x0#22 then .ok (.remu (qual w) (rD w) (rA w) (rB w))
    else .error .reservedField) := by unfold decodeA; rw [h]; rfl
theorem rowA22 (w) (h : w.extractLsb' 26 6 = 22#6) : decodeA w = (if low22 w &&& 0x38000F#22 = 0x0#22 then .ok (.cmpeq (qual w) (pD w) (rA w) (rB w))
    else .error .reservedField) := by unfold decodeA; rw [h]; rfl
theorem rowA23 (w) (h : w.extractLsb' 26 6 = 23#6) : decodeA w = (if low22 w &&& 0x38000F#22 = 0x0#22 then .ok (.cmpne (qual w) (pD w) (rA w) (rB w))
    else .error .reservedField) := by unfold decodeA; rw [h]; rfl
theorem rowA24 (w) (h : w.extractLsb' 26 6 = 24#6) : decodeA w = (if low22 w &&& 0x38000F#22 = 0x0#22 then .ok (.cmplt (qual w) (pD w) (rA w) (rB w))
    else .error .reservedField) := by unfold decodeA; rw [h]; rfl
theorem rowA25 (w) (h : w.extractLsb' 26 6 = 25#6) : decodeA w = (if low22 w &&& 0x38000F#22 = 0x0#22 then .ok (.cmpltu (qual w) (pD w) (rA w) (rB w))
    else .error .reservedField) := by unfold decodeA; rw [h]; rfl
theorem rowA26 (w) (h : w.extractLsb' 26 6 = 26#6) : decodeA w = (if low22 w &&& 0x38000F#22 = 0x0#22 then .ok (.cmple (qual w) (pD w) (rA w) (rB w))
    else .error .reservedField) := by unfold decodeA; rw [h]; rfl
theorem rowA27 (w) (h : w.extractLsb' 26 6 = 27#6) : decodeA w = (if low22 w &&& 0x38000F#22 = 0x0#22 then .ok (.cmpleu (qual w) (pD w) (rA w) (rB w))
    else .error .reservedField) := by unfold decodeA; rw [h]; rfl
theorem rowA28 (w) (h : w.extractLsb' 26 6 = 28#6) : decodeA w = (if low22 w &&& 0x8#22 = 0x0#22 then .ok (.sel (qual w) (rD w) (fin3 (w.extractLsb' 0 3)) (rA w) (rB w))
    else .error .reservedField) := by unfold decodeA; rw [h]; rfl
theorem rowA29 (w) (h : w.extractLsb' 26 6 = 29#6) : decodeA w = (if low22 w &&& 0x3FF#22 = 0x0#22 then .ok (.clz (qual w) (rD w) (rA w))
    else .error .reservedField) := by unfold decodeA; rw [h]; rfl
theorem rowA30 (w) (h : w.extractLsb' 26 6 = 30#6) : decodeA w = (if low22 w &&& 0x3FF#22 = 0x0#22 then .ok (.ctz (qual w) (rD w) (rA w))
    else .error .reservedField) := by unfold decodeA; rw [h]; rfl
theorem rowA31 (w) (h : w.extractLsb' 26 6 = 31#6) : decodeA w = (if low22 w &&& 0x3FF#22 = 0x0#22 then .ok (.popc (qual w) (rD w) (rA w))
    else .error .reservedField) := by unfold decodeA; rw [h]; rfl
theorem rowA32 (w) (h : w.extractLsb' 26 6 = 32#6) : decodeA w = (if low22 w &&& 0x3F0#22 = 0x0#22 ∧ w.extractLsb' 0 4 ≤ 2#4 then .ok (.sext (qual w) (rD w) (rA w) (w.extractLsb' 0 4))
    else .error .reservedField) := by unfold decodeA; rw [h]; rfl
theorem rowA33 (w) (h : w.extractLsb' 26 6 = 33#6) : decodeA w = (if low22 w &&& 0x3F0#22 = 0x0#22 ∧ w.extractLsb' 0 4 ≤ 2#4 then .ok (.zext (qual w) (rD w) (rA w) (w.extractLsb' 0 4))
    else .error .reservedField) := by unfold decodeA; rw [h]; rfl
theorem rowA44 (w) (h : w.extractLsb' 26 6 = 44#6) : decodeA w = (if low22 w &&& 0xF#22 = 0x0#22 then .ok (.faddS (qual w) (rD w) (rA w) (rB w))
    else .error .reservedField) := by unfold decodeA; rw [h]; rfl
theorem rowA45 (w) (h : w.extractLsb' 26 6 = 45#6) : decodeA w = (if low22 w &&& 0xF#22 = 0x0#22 then .ok (.fsubS (qual w) (rD w) (rA w) (rB w))
    else .error .reservedField) := by unfold decodeA; rw [h]; rfl
theorem rowA46 (w) (h : w.extractLsb' 26 6 = 46#6) : decodeA w = (if low22 w &&& 0xF#22 = 0x0#22 then .ok (.fmulS (qual w) (rD w) (rA w) (rB w))
    else .error .reservedField) := by unfold decodeA; rw [h]; rfl
theorem rowA47 (w) (h : w.extractLsb' 26 6 = 47#6) : decodeA w = (if low22 w &&& 0xF#22 = 0x0#22 then .ok (.fminS (qual w) (rD w) (rA w) (rB w))
    else .error .reservedField) := by unfold decodeA; rw [h]; rfl
theorem rowA48 (w) (h : w.extractLsb' 26 6 = 48#6) : decodeA w = (if low22 w &&& 0xF#22 = 0x0#22 then .ok (.fmaxS (qual w) (rD w) (rA w) (rB w))
    else .error .reservedField) := by unfold decodeA; rw [h]; rfl
theorem rowA49 (w) (h : w.extractLsb' 26 6 = 49#6) : decodeA w = (if low22 w &&& 0x3F0#22 = 0x0#22 ∧ w.extractLsb' 0 4 ≤ 8#4 then .ok (.fcvtS (qual w) (rD w) (rA w) (w.extractLsb' 0 4))
    else .error .reservedField) := by unfold decodeA; rw [h]; rfl
theorem rowA50 (w) (h : w.extractLsb' 26 6 = 50#6) : decodeA w = (if low22 w &&& 0x380000#22 = 0x0#22 ∧ w.extractLsb' 0 4 ≤ 3#4 then .ok (.fcmpS (qual w) (pD w) (rA w) (rB w) (w.extractLsb' 0 4))
    else .error .reservedField) := by unfold decodeA; rw [h]; rfl
theorem rowA51 (w) (h : w.extractLsb' 26 6 = 51#6) : decodeA w = (if low22 w &&& 0x38E380#22 = 0x0#22 then .ok (.plog (qual w) (pD w) (fin3 (w.extractLsb' 10 3)) (fin3 (w.extractLsb' 4 3)) (w.extractLsb' 0 4))
    else .error .reservedField) := by unfold decodeA; rw [h]; rfl
theorem rowG1 (w) (h : w.extractLsb' 26 6 = 1#6) : decodeG w = (.ok (.ldb (qual w) (rD w) (rA w) (w.extractLsb' 0 10))) := by unfold decodeG; rw [h]; rfl
theorem rowG2 (w) (h : w.extractLsb' 26 6 = 2#6) : decodeG w = (.ok (.ldbu (qual w) (rD w) (rA w) (w.extractLsb' 0 10))) := by unfold decodeG; rw [h]; rfl
theorem rowG3 (w) (h : w.extractLsb' 26 6 = 3#6) : decodeG w = (.ok (.ldh (qual w) (rD w) (rA w) (w.extractLsb' 0 10))) := by unfold decodeG; rw [h]; rfl
theorem rowG4 (w) (h : w.extractLsb' 26 6 = 4#6) : decodeG w = (.ok (.ldhu (qual w) (rD w) (rA w) (w.extractLsb' 0 10))) := by unfold decodeG; rw [h]; rfl
theorem rowG5 (w) (h : w.extractLsb' 26 6 = 5#6) : decodeG w = (.ok (.ldw (qual w) (rD w) (rA w) (w.extractLsb' 0 10))) := by unfold decodeG; rw [h]; rfl
theorem rowG6 (w) (h : w.extractLsb' 26 6 = 6#6) : decodeG w = (.ok (.ldwu (qual w) (rD w) (rA w) (w.extractLsb' 0 10))) := by unfold decodeG; rw [h]; rfl
theorem rowG7 (w) (h : w.extractLsb' 26 6 = 7#6) : decodeG w = (.ok (.ldd (qual w) (rD w) (rA w) (w.extractLsb' 0 10))) := by unfold decodeG; rw [h]; rfl
theorem rowG8 (w) (h : w.extractLsb' 26 6 = 8#6) : decodeG w = (.ok (.stb (qual w) (rD w) (rA w) (w.extractLsb' 0 10))) := by unfold decodeG; rw [h]; rfl
theorem rowG9 (w) (h : w.extractLsb' 26 6 = 9#6) : decodeG w = (.ok (.sth (qual w) (rD w) (rA w) (w.extractLsb' 0 10))) := by unfold decodeG; rw [h]; rfl
theorem rowG10 (w) (h : w.extractLsb' 26 6 = 10#6) : decodeG w = (.ok (.stw (qual w) (rD w) (rA w) (w.extractLsb' 0 10))) := by unfold decodeG; rw [h]; rfl
theorem rowG11 (w) (h : w.extractLsb' 26 6 = 11#6) : decodeG w = (.ok (.std (qual w) (rD w) (rA w) (w.extractLsb' 0 10))) := by unfold decodeG; rw [h]; rfl
theorem rowG12 (w) (h : w.extractLsb' 26 6 = 12#6) : decodeG w = (if low22 w &&& 0x3F0000#22 = 0x0#22 then .ok (.pfg (qual w) (rA w) (w.extractLsb' 0 10))
    else .error .reservedField) := by unfold decodeG; rw [h]; rfl
theorem rowG13 (w) (h : w.extractLsb' 26 6 = 13#6) : decodeG w = (if low22 w &&& 0x3FFFFC#22 = 0x0#22 then .ok (.drain (qual w) (scopeOf (w.extractLsb' 0 2)))
    else .error .reservedField) := by unfold decodeG; rw [h]; rfl
theorem rowG14 (w) (h : w.extractLsb' 26 6 = 14#6) : decodeG w = (if low22 w &&& 0x3F0000#22 = 0x0#22 then .ok (.purgeDc (qual w) (rA w) (w.extractLsb' 0 10))
    else if low22 w &&& 0x3F0000#22 = 0x10000#22 then .ok (.purgeIc (qual w) (rA w) (w.extractLsb' 0 10))
    else if low22 w &&& 0x3F0000#22 = 0x20000#22 then .ok (.purgeTlb (qual w) (rA w) (w.extractLsb' 0 10))
    else .error .reservedField) := by unfold decodeG; rw [h]; rfl
theorem rowG15 (w) (h : w.extractLsb' 26 6 = 15#6) : decodeG w = (.ok (.aadd (qual w) (rD w) (rA w) (rB w) (orderOf (w.extractLsb' 2 2)) (scopeOf (w.extractLsb' 0 2)))) := by unfold decodeG; rw [h]; rfl
theorem rowG16 (w) (h : w.extractLsb' 26 6 = 16#6) : decodeG w = (.ok (.aand (qual w) (rD w) (rA w) (rB w) (orderOf (w.extractLsb' 2 2)) (scopeOf (w.extractLsb' 0 2)))) := by unfold decodeG; rw [h]; rfl
theorem rowG17 (w) (h : w.extractLsb' 26 6 = 17#6) : decodeG w = (.ok (.aor (qual w) (rD w) (rA w) (rB w) (orderOf (w.extractLsb' 2 2)) (scopeOf (w.extractLsb' 0 2)))) := by unfold decodeG; rw [h]; rfl
theorem rowG18 (w) (h : w.extractLsb' 26 6 = 18#6) : decodeG w = (.ok (.axor (qual w) (rD w) (rA w) (rB w) (orderOf (w.extractLsb' 2 2)) (scopeOf (w.extractLsb' 0 2)))) := by unfold decodeG; rw [h]; rfl
theorem rowG19 (w) (h : w.extractLsb' 26 6 = 19#6) : decodeG w = (.ok (.amin (qual w) (rD w) (rA w) (rB w) (orderOf (w.extractLsb' 2 2)) (scopeOf (w.extractLsb' 0 2)))) := by unfold decodeG; rw [h]; rfl
theorem rowG20 (w) (h : w.extractLsb' 26 6 = 20#6) : decodeG w = (.ok (.amax (qual w) (rD w) (rA w) (rB w) (orderOf (w.extractLsb' 2 2)) (scopeOf (w.extractLsb' 0 2)))) := by unfold decodeG; rw [h]; rfl
theorem rowG21 (w) (h : w.extractLsb' 26 6 = 21#6) : decodeG w = (.ok (.aminu (qual w) (rD w) (rA w) (rB w) (orderOf (w.extractLsb' 2 2)) (scopeOf (w.extractLsb' 0 2)))) := by unfold decodeG; rw [h]; rfl
theorem rowG22 (w) (h : w.extractLsb' 26 6 = 22#6) : decodeG w = (.ok (.amaxu (qual w) (rD w) (rA w) (rB w) (orderOf (w.extractLsb' 2 2)) (scopeOf (w.extractLsb' 0 2)))) := by unfold decodeG; rw [h]; rfl
theorem rowG23 (w) (h : w.extractLsb' 26 6 = 23#6) : decodeG w = (.ok (.axchg (qual w) (rD w) (rA w) (rB w) (orderOf (w.extractLsb' 2 2)) (scopeOf (w.extractLsb' 0 2)))) := by unfold decodeG; rw [h]; rfl
theorem rowG24 (w) (h : w.extractLsb' 26 6 = 24#6) : decodeG w = (.ok (.acas (qual w) (rD w) (rA w) (rB w) (orderOf (w.extractLsb' 2 2)) (scopeOf (w.extractLsb' 0 2)))) := by unfold decodeG; rw [h]; rfl
theorem rowG25 (w) (h : w.extractLsb' 26 6 = 25#6) : decodeG w = (.ok (.afadd (qual w) (rD w) (rA w) (rB w) (orderOf (w.extractLsb' 2 2)) (scopeOf (w.extractLsb' 0 2)))) := by unfold decodeG; rw [h]; rfl
theorem rowG26 (w) (h : w.extractLsb' 26 6 = 26#6) : decodeG w = (.ok (.radd (qual w) (rD w) (rA w) (rB w) (orderOf (w.extractLsb' 2 2)) (scopeOf (w.extractLsb' 0 2)))) := by unfold decodeG; rw [h]; rfl
theorem rowG27 (w) (h : w.extractLsb' 26 6 = 27#6) : decodeG w = (.ok (.rmax (qual w) (rD w) (rA w) (rB w) (orderOf (w.extractLsb' 2 2)) (scopeOf (w.extractLsb' 0 2)))) := by unfold decodeG; rw [h]; rfl
theorem rowG28 (w) (h : w.extractLsb' 26 6 = 28#6) : decodeG w = (.ok (.rmin (qual w) (rD w) (rA w) (rB w) (orderOf (w.extractLsb' 2 2)) (scopeOf (w.extractLsb' 0 2)))) := by unfold decodeG; rw [h]; rfl
theorem rowG29 (w) (h : w.extractLsb' 26 6 = 29#6) : decodeG w = (if (w.extractLsb' 2 2 = 0#2 ∨ w.extractLsb' 2 2 = 2#2) ∧ (w.extractLsb' 0 2 = 1#2 ∨ w.extractLsb' 0 2 = 2#2) then .ok (.phinit (qual w) (rD w) (rA w) (rB w) (orderOf (w.extractLsb' 2 2)) (scopeOf (w.extractLsb' 0 2)))
    else .error .reservedField) := by unfold decodeG; rw [h]; rfl
theorem rowG30 (w) (h : w.extractLsb' 26 6 = 30#6) : decodeG w = (if (w.extractLsb' 2 2 = 0#2 ∨ w.extractLsb' 2 2 = 2#2) ∧ (w.extractLsb' 0 2 = 1#2 ∨ w.extractLsb' 0 2 = 2#2) then .ok (.phreg (qual w) (rD w) (rA w) (rB w) (orderOf (w.extractLsb' 2 2)) (scopeOf (w.extractLsb' 0 2)))
    else .error .reservedField) := by unfold decodeG; rw [h]; rfl
theorem rowG31 (w) (h : w.extractLsb' 26 6 = 31#6) : decodeG w = (if low22 w &&& 0x3F0#22 = 0x0#22 ∧ (w.extractLsb' 2 2 = 0#2 ∨ w.extractLsb' 2 2 = 2#2) ∧ (w.extractLsb' 0 2 = 1#2 ∨ w.extractLsb' 0 2 = 2#2) then .ok (.phdrop (qual w) (rD w) (rA w) (orderOf (w.extractLsb' 2 2)) (scopeOf (w.extractLsb' 0 2)))
    else .error .reservedField) := by unfold decodeG; rw [h]; rfl
theorem rowG32 (w) (h : w.extractLsb' 26 6 = 32#6) : decodeG w = (if low22 w &&& 0x3F0#22 = 0x0#22 ∧ (w.extractLsb' 2 2 = 0#2 ∨ w.extractLsb' 2 2 = 2#2) ∧ (w.extractLsb' 0 2 = 1#2 ∨ w.extractLsb' 0 2 = 2#2) then .ok (.pharr (qual w) (rD w) (rA w) (orderOf (w.extractLsb' 2 2)) (scopeOf (w.extractLsb' 0 2)))
    else .error .reservedField) := by unfold decodeG; rw [h]; rfl
theorem rowG33 (w) (h : w.extractLsb' 26 6 = 33#6) : decodeG w = (if (w.extractLsb' 2 2 = 0#2 ∨ w.extractLsb' 2 2 = 1#2) ∧ (w.extractLsb' 0 2 = 1#2 ∨ w.extractLsb' 0 2 = 2#2) then .ok (.phwait (qual w) (rD w) (rA w) (rB w) (orderOf (w.extractLsb' 2 2)) (scopeOf (w.extractLsb' 0 2)))
    else .error .reservedField) := by unfold decodeG; rw [h]; rfl
theorem rowG34 (w) (h : w.extractLsb' 26 6 = 34#6) : decodeG w = (if low22 w &&& 0x3F0#22 = 0x0#22 ∧ (w.extractLsb' 0 2 = 1#2 ∨ w.extractLsb' 0 2 = 2#2) then .ok (.pharw (qual w) (rD w) (rA w) (orderOf (w.extractLsb' 2 2)) (scopeOf (w.extractLsb' 0 2)))
    else .error .reservedField) := by unfold decodeG; rw [h]; rfl
theorem rowG35 (w) (h : w.extractLsb' 26 6 = 35#6) : decodeG w = (if low22 w &&& 0x3F0#22 = 0x0#22 ∧ (w.extractLsb' 2 2 = 0#2 ∨ w.extractLsb' 2 2 = 1#2) ∧ (w.extractLsb' 0 2 = 1#2 ∨ w.extractLsb' 0 2 = 2#2) then .ok (.phq (qual w) (rD w) (rA w) (orderOf (w.extractLsb' 2 2)) (scopeOf (w.extractLsb' 0 2)))
    else .error .reservedField) := by unfold decodeG; rw [h]; rfl
theorem rowG36 (w) (h : w.extractLsb' 26 6 = 36#6) : decodeG w = (if low22 w &&& 0x3#22 = 0x2#22 then .ok (.migr (qual w) (rD w) (rA w) (rB w) (orderOf (w.extractLsb' 2 2)))
    else .error .reservedField) := by unfold decodeG; rw [h]; rfl
theorem rowL1 (w) (h : w.extractLsb' 26 6 = 1#6) : decodeL w = (.ok (.lyb (qual w) (rD w) (rA w) (w.extractLsb' 0 10))) := by unfold decodeL; rw [h]; rfl
theorem rowL2 (w) (h : w.extractLsb' 26 6 = 2#6) : decodeL w = (.ok (.lyh (qual w) (rD w) (rA w) (w.extractLsb' 0 10))) := by unfold decodeL; rw [h]; rfl
theorem rowL3 (w) (h : w.extractLsb' 26 6 = 3#6) : decodeL w = (.ok (.lyw (qual w) (rD w) (rA w) (w.extractLsb' 0 10))) := by unfold decodeL; rw [h]; rfl
theorem rowL4 (w) (h : w.extractLsb' 26 6 = 4#6) : decodeL w = (.ok (.lyd (qual w) (rD w) (rA w) (w.extractLsb' 0 10))) := by unfold decodeL; rw [h]; rfl
theorem rowL5 (w) (h : w.extractLsb' 26 6 = 5#6) : decodeL w = (.ok (.syb (qual w) (rD w) (rA w) (w.extractLsb' 0 10))) := by unfold decodeL; rw [h]; rfl
theorem rowL6 (w) (h : w.extractLsb' 26 6 = 6#6) : decodeL w = (.ok (.syh (qual w) (rD w) (rA w) (w.extractLsb' 0 10))) := by unfold decodeL; rw [h]; rfl
theorem rowL7 (w) (h : w.extractLsb' 26 6 = 7#6) : decodeL w = (.ok (.syw (qual w) (rD w) (rA w) (w.extractLsb' 0 10))) := by unfold decodeL; rw [h]; rfl
theorem rowL8 (w) (h : w.extractLsb' 26 6 = 8#6) : decodeL w = (.ok (.syd (qual w) (rD w) (rA w) (w.extractLsb' 0 10))) := by unfold decodeL; rw [h]; rfl
theorem rowL9 (w) (h : w.extractLsb' 26 6 = 9#6) : decodeL w = (.ok (.sgw (qual w) (rD w) (rA w) (w.extractLsb' 0 10))) := by unfold decodeL; rw [h]; rfl
theorem rowL10 (w) (h : w.extractLsb' 26 6 = 10#6) : decodeL w = (.ok (.twrite (qual w) (rD w) (rA w) (w.extractLsb' 0 10))) := by unfold decodeL; rw [h]; rfl
theorem rowL11 (w) (h : w.extractLsb' 26 6 = 11#6) : decodeL w = (if low22 w &&& 0x3FFFFF#22 = 0x0#22 then .ok (.tclr (qual w))
    else .error .reservedField) := by unfold decodeL; rw [h]; rfl
theorem rowL12 (w) (h : w.extractLsb' 26 6 = 12#6) : decodeL w = (if low22 w &&& 0x3F0#22 = 0x0#22 then .ok (.qcfg (qual w) (rD w) (rA w) (fin4 (w.extractLsb' 0 4)))
    else if low22 w &&& 0x3FF#22 = 0x10#22 then .ok (.qcfgStk (qual w) (rD w) (rA w))
    else .error .reservedField) := by unfold decodeL; rw [h]; rfl
theorem rowL13 (w) (h : w.extractLsb' 26 6 = 13#6) : decodeL w = (if low22 w &&& 0xFFF0#22 = 0x0#22 then .ok (.cbcfg (qual w) (rD w) (fin4 (w.extractLsb' 0 4)))
    else .error .reservedField) := by unfold decodeL; rw [h]; rfl
theorem rowL14 (w) (h : w.extractLsb' 26 6 = 14#6) : decodeL w = (if low22 w &&& 0x3FF#22 = 0x0#22 then .ok (.mxtab (qual w) (rD w) (rA w))
    else .error .reservedField) := by unfold decodeL; rw [h]; rfl
theorem rowX1 (w) (h : w.extractLsb' 26 6 = 1#6) : decodeX w = (.ok (.br (qual w) (w.extractLsb' 0 22))) := by unfold decodeX; rw [h]; rfl
theorem rowX2 (w) (h : w.extractLsb' 26 6 = 2#6) : decodeX w = (.ok (.call (qual w) (w.extractLsb' 0 22))) := by unfold decodeX; rw [h]; rfl
theorem rowX3 (w) (h : w.extractLsb' 26 6 = 3#6) : decodeX w = (if low22 w &&& 0xFFFF#22 = 0x0#22 then .ok (.jr (qual w) (rD w))
    else .error .reservedField) := by unfold decodeX; rw [h]; rfl
theorem rowX4 (w) (h : w.extractLsb' 26 6 = 4#6) : decodeX w = (if low22 w &&& 0x3FF#22 = 0x0#22 then .ok (.jalr (qual w) (rD w) (rA w))
    else .error .reservedField) := by unfold decodeX; rw [h]; rfl
theorem rowX6 (w) (h : w.extractLsb' 26 6 = 6#6) : decodeX w = (if low22 w &&& 0x3F#22 = 0x0#22 then .ok (.lpstep (qual w) (fin2 (w.extractLsb' 8 2)) (fin2 (w.extractLsb' 6 2)) (rD w) (rA w))
    else .error .reservedField) := by unfold decodeX; rw [h]; rfl
theorem rowX7 (w) (h : w.extractLsb' 26 6 = 7#6) : decodeX w = (if low22 w &&& 0x3FFFF0#22 = 0x0#22 then .ok (.waitk (qual w) (fin4 (w.extractLsb' 0 4)))
    else if low22 w &&& 0xFFFF#22 = 0x200#22 then .ok (.waitkMask (qual w) (rD w))
    else .error .reservedField) := by unfold decodeX; rw [h]; rfl
theorem rowX8 (w) (h : w.extractLsb' 26 6 = 8#6) : decodeX w = (if low22 w &&& 0x3FFFF0#22 = 0x0#22 then .ok (.waitf (qual w) (fin4 (w.extractLsb' 0 4)))
    else if low22 w &&& 0xFFFF#22 = 0x200#22 then .ok (.waitfMask (qual w) (rD w))
    else .error .reservedField) := by unfold decodeX; rw [h]; rfl
theorem rowX9 (w) (h : w.extractLsb' 26 6 = 9#6) : decodeX w = (if low22 w &&& 0x3FFFF0#22 = 0x0#22 then .ok (.setf (qual w) (fin4 (w.extractLsb' 0 4)))
    else if low22 w &&& 0xFFFF#22 = 0x200#22 then .ok (.setfMask (qual w) (rD w))
    else .error .reservedField) := by unfold decodeX; rw [h]; rfl
theorem rowX10 (w) (h : w.extractLsb' 26 6 = 10#6) : decodeX w = (if low22 w &&& 0x3FFFF0#22 = 0x0#22 then .ok (.clrf (qual w) (fin4 (w.extractLsb' 0 4)))
    else if low22 w &&& 0xFFFF#22 = 0x200#22 then .ok (.clrfMask (qual w) (rD w))
    else .error .reservedField) := by unfold decodeX; rw [h]; rfl
theorem rowX11 (w) (h : w.extractLsb' 26 6 = 11#6) : decodeX w = (if low22 w &&& 0xFFFF#22 = 0x0#22 then .ok (.bstart (qual w) (rD w))
    else .error .reservedField) := by unfold decodeX; rw [h]; rfl
theorem rowX12 (w) (h : w.extractLsb' 26 6 = 12#6) : decodeX w = (if low22 w &&& 0x3FFFFF#22 = 0x0#22 then .ok (.bstop (qual w))
    else .error .reservedField) := by unfold decodeX; rw [h]; rfl
theorem rowX13 (w) (h : w.extractLsb' 26 6 = 13#6) : decodeX w = (if low22 w &&& 0xFFFF#22 = 0x0#22 then .ok (.pushq (qual w) (rD w))
    else .error .reservedField) := by unfold decodeX; rw [h]; rfl
theorem rowX14 (w) (h : w.extractLsb' 26 6 = 14#6) : decodeX w = (if low22 w &&& 0xFFFF#22 = 0x0#22 then .ok (.popq (qual w) (rD w))
    else .error .reservedField) := by unfold decodeX; rw [h]; rfl
theorem rowX15 (w) (h : w.extractLsb' 26 6 = 15#6) : decodeX w = (if low22 w &&& 0xF#22 = 0x0#22 then .ok (.mfsr (qual w) (rD w) (w.extractLsb' 4 12))
    else .error .reservedField) := by unfold decodeX; rw [h]; rfl
theorem rowX16 (w) (h : w.extractLsb' 26 6 = 16#6) : decodeX w = (if low22 w &&& 0xF#22 = 0x0#22 then .ok (.mtsr (qual w) (rD w) (w.extractLsb' 4 12))
    else .error .reservedField) := by unfold decodeX; rw [h]; rfl
theorem rowX17 (w) (h : w.extractLsb' 26 6 = 17#6) : decodeX w = (if low22 w &&& 0x3FFC00#22 = 0x0#22 then .ok (.trap (qual w) (w.extractLsb' 0 10))
    else .error .reservedField) := by unfold decodeX; rw [h]; rfl
theorem rowX18 (w) (h : w.extractLsb' 26 6 = 18#6) : decodeX w = (if low22 w &&& 0x3FFFFF#22 = 0x0#22 then .ok (.eret (qual w))
    else .error .reservedField) := by unfold decodeX; rw [h]; rfl
theorem rowX19 (w) (h : w.extractLsb' 26 6 = 19#6) : decodeX w = (if low22 w &&& 0x3FFC00#22 = 0x0#22 then .ok (.brk (qual w) (w.extractLsb' 0 10))
    else .error .reservedField) := by unfold decodeX; rw [h]; rfl
theorem rowX20 (w) (h : w.extractLsb' 26 6 = 20#6) : decodeX w = (if low22 w &&& 0x3FF#22 = 0x0#22 then .ok (.stqrd (qual w) (rD w) (rA w))
    else .error .reservedField) := by unfold decodeX; rw [h]; rfl
theorem rowX21 (w) (h : w.extractLsb' 26 6 = 21#6) : decodeX w = (if low22 w &&& 0xFE00#22 = 0x0#22 ∧ w.extractLsb' 0 9 ≤ 256#9 then .ok (.flbar (qual w) (rD w) (w.extractLsb' 0 9))
    else .error .reservedField) := by unfold decodeX; rw [h]; rfl
theorem rowX22 (w) (h : w.extractLsb' 26 6 = 22#6) : decodeX w = (if low22 w &&& 0xFFFF#22 = 0x0#22 then .ok (.flend (qual w) (rD w))
    else .error .reservedField) := by unfold decodeX; rw [h]; rfl
theorem rowM1 (w) (h : w.extractLsb' 26 6 = 1#6) : decodeM w = (if low22 w &&& 0x3F8#22 = 0x0#22 then .ok (.mxcfg (qual w) (rD w) (rA w) (fin3 (w.extractLsb' 0 3)))
    else .error .reservedField) := by unfold decodeM; rw [h]; rfl
theorem rowM2 (w) (h : w.extractLsb' 26 6 = 2#6) : decodeM w = (if low22 w &&& 0x380#22 = 0x0#22 then .ok (.mxlds (qual w) (rD w) (rA w) (fin4 (w.extractLsb' 0 4)) (fin2 (w.extractLsb' 4 2)) (w.getLsbD 6))
    else .error .reservedField) := by unfold decodeM; rw [h]; rfl
theorem rowM3 (w) (h : w.extractLsb' 26 6 = 3#6) : decodeM w = (if low22 w &&& 0xFFFF#22 = 0x0#22 then .ok (.mxswap (qual w) (rD w))
    else .error .reservedField) := by unfold decodeM; rw [h]; rfl
theorem rowM4 (w) (h : w.extractLsb' 26 6 = 4#6) : decodeM w = (if low22 w &&& 0xFC00#22 = 0x0#22 then .ok (.mxgo (qual w) (rD w) (fin4 (w.extractLsb' 0 4)) (w.extractLsb' 4 6))
    else .error .reservedField) := by unfold decodeM; rw [h]; rfl
theorem rowM5 (w) (h : w.extractLsb' 26 6 = 5#6) : decodeM w = (if low22 w &&& 0xFFF8#22 = 0x0#22 then .ok (.mxmode (qual w) (rD w) (fin2 (w.extractLsb' 0 2)) (w.getLsbD 2))
    else .error .reservedField) := by unfold decodeM; rw [h]; rfl
theorem rowM6 (w) (h : w.extractLsb' 26 6 = 6#6) : decodeM w = (if low22 w &&& 0x3FC#22 = 0x0#22 then .ok (.mxrd (qual w) (rD w) (rA w) (fin2 (w.extractLsb' 0 2)))
    else .error .reservedField) := by unfold decodeM; rw [h]; rfl
theorem rowM7 (w) (h : w.extractLsb' 26 6 = 7#6) : decodeM w = (if low22 w &&& 0xFFFF#22 = 0x0#22 then .ok (.mxstop (qual w) (rD w))
    else .error .reservedField) := by unfold decodeM; rw [h]; rfl
theorem rowM9 (w) (h : w.extractLsb' 26 6 = 9#6) : decodeM w = (if low22 w &&& 0xFFF8#22 = 0x0#22 then .ok (.tcfg (qual w) (rD w) (fin3 (w.extractLsb' 0 3)))
    else if low22 w &&& 0xFFFF#22 = 0x8#22 then .ok (.tcfgPinned (qual w) (rD w))
    else .error .reservedField) := by unfold decodeM; rw [h]; rfl
theorem rowM10 (w) (h : w.extractLsb' 26 6 = 10#6) : decodeM w = (if low22 w &&& 0xFFFC#22 = 0x0#22 then .ok (.tstat (qual w) (rD w) (fin2 (w.extractLsb' 0 2)))
    else .error .reservedField) := by unfold decodeM; rw [h]; rfl
theorem rowC1 (w) (h : w.extractLsb' 26 6 = 1#6) : decodeC w = (if low22 w &&& 0x200#22 = 0x0#22 ∧ tokOk (w.extractLsb' 4 5) then .ok (.cp (qual w) (rD w) (rA w) (fin4 (w.extractLsb' 0 4)) (tokOf (w.extractLsb' 4 5)))
    else .error .reservedField) := by unfold decodeC; rw [h]; rfl
theorem rowC2 (w) (h : w.extractLsb' 26 6 = 2#6) : decodeC w = (if low22 w &&& 0x200#22 = 0x0#22 ∧ tokOk (w.extractLsb' 4 5) then .ok (.cpt (qual w) (rD w) (rA w) (fin4 (w.extractLsb' 0 4)) (tokOf (w.extractLsb' 4 5)))
    else .error .reservedField) := by unfold decodeC; rw [h]; rfl
theorem rowC3 (w) (h : w.extractLsb' 26 6 = 3#6) : decodeC w = (if low22 w &&& 0x200#22 = 0x0#22 ∧ tokOk (w.extractLsb' 4 5) then .ok (.cptab (qual w) (rD w) (rA w) (fin4 (w.extractLsb' 0 4)) (tokOf (w.extractLsb' 4 5)))
    else .error .reservedField) := by unfold decodeC; rw [h]; rfl
theorem rowC4 (w) (h : w.extractLsb' 26 6 = 4#6) : decodeC w = (if low22 w &&& 0xFFF0#22 = 0x0#22 then .ok (.cpcfg (qual w) (rD w) (fin4 (w.extractLsb' 0 4)))
    else .error .reservedField) := by unfold decodeC; rw [h]; rfl
theorem rowC5 (w) (h : w.extractLsb' 26 6 = 5#6) : decodeC w = (if low22 w &&& 0xFFFE#22 = 0x0#22 then .ok (.cpstat (qual w) (rD w) (fin1 (w.extractLsb' 0 1)))
    else .error .reservedField) := by unfold decodeC; rw [h]; rfl
theorem rowC6 (w) (h : w.extractLsb' 26 6 = 6#6) : decodeC w = (if low22 w &&& 0x3FFFFE#22 = 0x0#22 then .ok (.cpcan (qual w) (fin1 (w.extractLsb' 0 1)))
    else .error .reservedField) := by unfold decodeC; rw [h]; rfl
theorem rowF7 (w) (h : w.extractLsb' 26 6 = 7#6) : decodeF w = (if low22 w &&& 0xFFFC#22 = 0x0#22 then .ok (.xmit (qual w) (rD w) (fin2 (w.extractLsb' 0 2)))
    else .error .reservedField) := by unfold decodeF; rw [h]; rfl
theorem rowF8 (w) (h : w.extractLsb' 26 6 = 8#6) : decodeF w = (if low22 w &&& 0xFFFC#22 = 0x0#22 then .ok (.xsel (qual w) (rD w) (fin2 (w.extractLsb' 0 2)))
    else .error .reservedField) := by unfold decodeF; rw [h]; rfl
theorem rowF9 (w) (h : w.extractLsb' 26 6 = 9#6) : decodeF w = (if low22 w &&& 0x3FFFF0#22 = 0x0#22 then .ok (.xfwd (qual w) (fin2 (w.extractLsb' 0 2)) (fin2 (w.extractLsb' 2 2)))
    else .error .reservedField) := by unfold decodeF; rw [h]; rfl
theorem rowF10 (w) (h : w.extractLsb' 26 6 = 10#6) : decodeF w = (if low22 w &&& 0x3FFFFC#22 = 0x0#22 then .ok (.xidle (qual w) (fin2 (w.extractLsb' 0 2)))
    else .error .reservedField) := by unfold decodeF; rw [h]; rfl
theorem rowK1 (w) (h : w.extractLsb' 26 6 = 1#6) : decodeK w = (.ok (.spawn (qual w) (rD w) (rA w) (w.extractLsb' 0 10))) := by unfold decodeK; rw [h]; rfl
theorem rowK2 (w) (h : w.extractLsb' 26 6 = 2#6) : decodeK w = (if low22 w &&& 0xFC00#22 = 0x0#22 then .ok (.spawnr (qual w) (rD w) (w.extractLsb' 0 10))
    else .error .reservedField) := by unfold decodeK; rw [h]; rfl
theorem rowK3 (w) (h : w.extractLsb' 26 6 = 3#6) : decodeK w = (if low22 w &&& 0x380#22 = 0x0#22 then .ok (.vdecl (qual w) (rD w) (rA w) (fin3 (w.extractLsb' 0 3)) (fin3 (w.extractLsb' 3 3)) (w.getLsbD 6))
    else .error .reservedField) := by unfold decodeK; rw [h]; rfl
theorem rowK4 (w) (h : w.extractLsb' 26 6 = 4#6) : decodeK w = (if low22 w &&& 0x3FFFF8#22 = 0x0#22 then .ok (.vdrop (qual w) (fin3 (w.extractLsb' 0 3)))
    else .error .reservedField) := by unfold decodeK; rw [h]; rfl
theorem rowK5 (w) (h : w.extractLsb' 26 6 = 5#6) : decodeK w = (if low22 w &&& 0x3FFFFF#22 = 0x0#22 then .ok (.join (qual w))
    else .error .reservedField) := by unfold decodeK; rw [h]; rfl
theorem rowK6 (w) (h : w.extractLsb' 26 6 = 6#6) : decodeK w = (if low22 w &&& 0x3FFFFF#22 = 0x0#22 then .ok (.endt (qual w))
    else .error .reservedField) := by unfold decodeK; rw [h]; rfl
theorem rowK7 (w) (h : w.extractLsb' 26 6 = 7#6) : decodeK w = (if low22 w &&& 0xFFFF#22 = 0x0#22 then .ok (.rnext (qual w) (rD w))
    else .error .reservedField) := by unfold decodeK; rw [h]; rfl
theorem rowK8 (w) (h : w.extractLsb' 26 6 = 8#6) : decodeK w = (if low22 w &&& 0xFFFF#22 = 0x0#22 then .ok (.tinfoSelf (qual w) (rD w))
    else if low22 w &&& 0x3FF#22 = 0x1#22 then .ok (.tinfoState (qual w) (rD w) (rA w))
    else if low22 w &&& 0xFFFF#22 = 0x2#22 then .ok (.tinfoQueue (qual w) (rD w))
    else if low22 w &&& 0xFFFF#22 = 0x3#22 then .ok (.tinfoMerge (qual w) (rD w))
    else .error .reservedField) := by unfold decodeK; rw [h]; rfl

theorem add (q d a b) : Statement (.add q d a b) := by
  rintro - -
  show (decodeA (wq 1#6 q ((low3 d a b 0)))).toOption = some _
  rw [rowA1 _ (op_wq ..)]
  rw [if_pos (by simp)]
  simp [Except.toOption]
theorem sub (q d a b) : Statement (.sub q d a b) := by
  rintro - -
  show (decodeA (wq 2#6 q ((low3 d a b 0)))).toOption = some _
  rw [rowA2 _ (op_wq ..)]
  rw [if_pos (by simp)]
  simp [Except.toOption]
theorem and (q d a b) : Statement (.and q d a b) := by
  rintro - -
  show (decodeA (wq 3#6 q ((low3 d a b 0)))).toOption = some _
  rw [rowA3 _ (op_wq ..)]
  rw [if_pos (by simp)]
  simp [Except.toOption]
theorem or (q d a b) : Statement (.or q d a b) := by
  rintro - -
  show (decodeA (wq 4#6 q ((low3 d a b 0)))).toOption = some _
  rw [rowA4 _ (op_wq ..)]
  rw [if_pos (by simp)]
  simp [Except.toOption]
theorem xor (q d a b) : Statement (.xor q d a b) := by
  rintro - -
  show (decodeA (wq 5#6 q ((low3 d a b 0)))).toOption = some _
  rw [rowA5 _ (op_wq ..)]
  rw [if_pos (by simp)]
  simp [Except.toOption]
theorem andn (q d a b) : Statement (.andn q d a b) := by
  rintro - -
  show (decodeA (wq 6#6 q ((low3 d a b 0)))).toOption = some _
  rw [rowA6 _ (op_wq ..)]
  rw [if_pos (by simp)]
  simp [Except.toOption]
theorem min (q d a b) : Statement (.min q d a b) := by
  rintro - -
  show (decodeA (wq 7#6 q ((low3 d a b 0)))).toOption = some _
  rw [rowA7 _ (op_wq ..)]
  rw [if_pos (by simp)]
  simp [Except.toOption]
theorem max (q d a b) : Statement (.max q d a b) := by
  rintro - -
  show (decodeA (wq 8#6 q ((low3 d a b 0)))).toOption = some _
  rw [rowA8 _ (op_wq ..)]
  rw [if_pos (by simp)]
  simp [Except.toOption]
theorem minu (q d a b) : Statement (.minu q d a b) := by
  rintro - -
  show (decodeA (wq 9#6 q ((low3 d a b 0)))).toOption = some _
  rw [rowA9 _ (op_wq ..)]
  rw [if_pos (by simp)]
  simp [Except.toOption]
theorem maxu (q d a b) : Statement (.maxu q d a b) := by
  rintro - -
  show (decodeA (wq 10#6 q ((low3 d a b 0)))).toOption = some _
  rw [rowA10 _ (op_wq ..)]
  rw [if_pos (by simp)]
  simp [Except.toOption]
theorem sll (q d a b) : Statement (.sll q d a b) := by
  rintro - -
  show (decodeA (wq 11#6 q ((low3 d a b 0)))).toOption = some _
  rw [rowA11 _ (op_wq ..)]
  rw [if_pos (by simp)]
  simp [Except.toOption]
theorem srl (q d a b) : Statement (.srl q d a b) := by
  rintro - -
  show (decodeA (wq 12#6 q ((low3 d a b 0)))).toOption = some _
  rw [rowA12 _ (op_wq ..)]
  rw [if_pos (by simp)]
  simp [Except.toOption]
theorem sra (q d a b) : Statement (.sra q d a b) := by
  rintro - -
  show (decodeA (wq 13#6 q ((low3 d a b 0)))).toOption = some _
  rw [rowA13 _ (op_wq ..)]
  rw [if_pos (by simp)]
  simp [Except.toOption]
theorem rol (q d a b) : Statement (.rol q d a b) := by
  rintro - -
  show (decodeA (wq 14#6 q ((low3 d a b 0)))).toOption = some _
  rw [rowA14 _ (op_wq ..)]
  rw [if_pos (by simp)]
  simp [Except.toOption]
theorem mul (q d a b) : Statement (.mul q d a b) := by
  rintro - -
  show (decodeA (wq 15#6 q ((low3 d a b 0)))).toOption = some _
  rw [rowA15 _ (op_wq ..)]
  rw [if_pos (by simp)]
  simp [Except.toOption]
theorem mulh (q d a b) : Statement (.mulh q d a b) := by
  rintro - -
  show (decodeA (wq 16#6 q ((low3 d a b 0)))).toOption = some _
  rw [rowA16 _ (op_wq ..)]
  rw [if_pos (by simp)]
  simp [Except.toOption]
theorem mulhu (q d a b) : Statement (.mulhu q d a b) := by
  rintro - -
  show (decodeA (wq 17#6 q ((low3 d a b 0)))).toOption = some _
  rw [rowA17 _ (op_wq ..)]
  rw [if_pos (by simp)]
  simp [Except.toOption]
theorem div (q d a b) : Statement (.div q d a b) := by
  rintro - -
  show (decodeA (wq 18#6 q ((low3 d a b 0)))).toOption = some _
  rw [rowA18 _ (op_wq ..)]
  rw [if_pos (by simp)]
  simp [Except.toOption]
theorem divu (q d a b) : Statement (.divu q d a b) := by
  rintro - -
  show (decodeA (wq 19#6 q ((low3 d a b 0)))).toOption = some _
  rw [rowA19 _ (op_wq ..)]
  rw [if_pos (by simp)]
  simp [Except.toOption]
theorem rem (q d a b) : Statement (.rem q d a b) := by
  rintro - -
  show (decodeA (wq 20#6 q ((low3 d a b 0)))).toOption = some _
  rw [rowA20 _ (op_wq ..)]
  rw [if_pos (by simp)]
  simp [Except.toOption]
theorem remu (q d a b) : Statement (.remu q d a b) := by
  rintro - -
  show (decodeA (wq 21#6 q ((low3 d a b 0)))).toOption = some _
  rw [rowA21 _ (op_wq ..)]
  rw [if_pos (by simp)]
  simp [Except.toOption]
theorem cmpeq (q pd a b) : Statement (.cmpeq q pd a b) := by
  rintro - -
  show (decodeA (wq 22#6 q ((low3 (regOfP pd) a b 0)))).toOption = some _
  rw [rowA22 _ (op_wq ..)]
  rw [if_pos (by simp)]
  simp [Except.toOption]
theorem cmpne (q pd a b) : Statement (.cmpne q pd a b) := by
  rintro - -
  show (decodeA (wq 23#6 q ((low3 (regOfP pd) a b 0)))).toOption = some _
  rw [rowA23 _ (op_wq ..)]
  rw [if_pos (by simp)]
  simp [Except.toOption]
theorem cmplt (q pd a b) : Statement (.cmplt q pd a b) := by
  rintro - -
  show (decodeA (wq 24#6 q ((low3 (regOfP pd) a b 0)))).toOption = some _
  rw [rowA24 _ (op_wq ..)]
  rw [if_pos (by simp)]
  simp [Except.toOption]
theorem cmpltu (q pd a b) : Statement (.cmpltu q pd a b) := by
  rintro - -
  show (decodeA (wq 25#6 q ((low3 (regOfP pd) a b 0)))).toOption = some _
  rw [rowA25 _ (op_wq ..)]
  rw [if_pos (by simp)]
  simp [Except.toOption]
theorem cmple (q pd a b) : Statement (.cmple q pd a b) := by
  rintro - -
  show (decodeA (wq 26#6 q ((low3 (regOfP pd) a b 0)))).toOption = some _
  rw [rowA26 _ (op_wq ..)]
  rw [if_pos (by simp)]
  simp [Except.toOption]
theorem cmpleu (q pd a b) : Statement (.cmpleu q pd a b) := by
  rintro - -
  show (decodeA (wq 27#6 q ((low3 (regOfP pd) a b 0)))).toOption = some _
  rw [rowA27 _ (op_wq ..)]
  rw [if_pos (by simp)]
  simp [Except.toOption]
theorem sel (q d pc a b) : Statement (.sel q d pc a b) := by
  rintro - -
  show (decodeA (wq 28#6 q ((low3 d a b (0#1 ++ b3 pc))))).toOption = some _
  rw [rowA28 _ (op_wq ..)]
  rw [if_pos (by simp)]
  simp [Except.toOption]
theorem clz (q d a) : Statement (.clz q d a) := by
  rintro - -
  show (decodeA (wq 29#6 q ((low3 d a 0 0)))).toOption = some _
  rw [rowA29 _ (op_wq ..)]
  rw [if_pos (by simp)]
  simp [Except.toOption]
theorem ctz (q d a) : Statement (.ctz q d a) := by
  rintro - -
  show (decodeA (wq 30#6 q ((low3 d a 0 0)))).toOption = some _
  rw [rowA30 _ (op_wq ..)]
  rw [if_pos (by simp)]
  simp [Except.toOption]
theorem popc (q d a) : Statement (.popc q d a) := by
  rintro - -
  show (decodeA (wq 31#6 q ((low3 d a 0 0)))).toOption = some _
  rw [rowA31 _ (op_wq ..)]
  rw [if_pos (by simp)]
  simp [Except.toOption]
theorem sext (q d a fn) : Statement (.sext q d a fn) := by
  rintro hw -
  replace hw : (fn ≤ 2#4 : Bool) = true := hw
  show (decodeA (wq 32#6 q ((low3 d a 0 fn)))).toOption = some _
  rw [rowA32 _ (op_wq ..)]
  rw [if_pos (by simpa using hw)]
  simp [Except.toOption]
theorem zext (q d a fn) : Statement (.zext q d a fn) := by
  rintro hw -
  replace hw : (fn ≤ 2#4 : Bool) = true := hw
  show (decodeA (wq 33#6 q ((low3 d a 0 fn)))).toOption = some _
  rw [rowA33 _ (op_wq ..)]
  rw [if_pos (by simpa using hw)]
  simp [Except.toOption]
theorem faddS (q d a b) : Statement (.faddS q d a b) := by
  rintro - -
  show (decodeA (wq 44#6 q ((low3 d a b 0)))).toOption = some _
  rw [rowA44 _ (op_wq ..)]
  rw [if_pos (by simp)]
  simp [Except.toOption]
theorem fsubS (q d a b) : Statement (.fsubS q d a b) := by
  rintro - -
  show (decodeA (wq 45#6 q ((low3 d a b 0)))).toOption = some _
  rw [rowA45 _ (op_wq ..)]
  rw [if_pos (by simp)]
  simp [Except.toOption]
theorem fmulS (q d a b) : Statement (.fmulS q d a b) := by
  rintro - -
  show (decodeA (wq 46#6 q ((low3 d a b 0)))).toOption = some _
  rw [rowA46 _ (op_wq ..)]
  rw [if_pos (by simp)]
  simp [Except.toOption]
theorem fminS (q d a b) : Statement (.fminS q d a b) := by
  rintro - -
  show (decodeA (wq 47#6 q ((low3 d a b 0)))).toOption = some _
  rw [rowA47 _ (op_wq ..)]
  rw [if_pos (by simp)]
  simp [Except.toOption]
theorem fmaxS (q d a b) : Statement (.fmaxS q d a b) := by
  rintro - -
  show (decodeA (wq 48#6 q ((low3 d a b 0)))).toOption = some _
  rw [rowA48 _ (op_wq ..)]
  rw [if_pos (by simp)]
  simp [Except.toOption]
theorem fcvtS (q d a fn) : Statement (.fcvtS q d a fn) := by
  rintro hw -
  replace hw : (fn ≤ 8#4 : Bool) = true := hw
  show (decodeA (wq 49#6 q ((low3 d a 0 fn)))).toOption = some _
  rw [rowA49 _ (op_wq ..)]
  rw [if_pos (by simpa using hw)]
  simp [Except.toOption]
theorem fcmpS (q pd a b fn) : Statement (.fcmpS q pd a b fn) := by
  rintro hw -
  replace hw : (fn ≤ 3#4 : Bool) = true := hw
  show (decodeA (wq 50#6 q ((low3 (regOfP pd) a b fn)))).toOption = some _
  rw [rowA50 _ (op_wq ..)]
  rw [if_pos (by simpa using hw)]
  simp [Except.toOption]
theorem plog (q pd pa pb tt) : Statement (.plog q pd pa pb tt) := by
  rintro - -
  show (decodeA (wq 51#6 q ((low3 (regOfP pd) (regOfP pa) (regOfP pb) tt)))).toOption = some _
  rw [rowA51 _ (op_wq ..)]
  rw [if_pos (by simp)]
  simp [Except.toOption]
theorem ldb (q r base off) : Statement (.ldb q r base off) := by
  rintro - -
  show (decodeG (wq 1#6 q ((low2 r base off)))).toOption = some _
  rw [rowG1 _ (op_wq ..)]
  simp [Except.toOption]
theorem ldbu (q r base off) : Statement (.ldbu q r base off) := by
  rintro - -
  show (decodeG (wq 2#6 q ((low2 r base off)))).toOption = some _
  rw [rowG2 _ (op_wq ..)]
  simp [Except.toOption]
theorem ldh (q r base off) : Statement (.ldh q r base off) := by
  rintro - -
  show (decodeG (wq 3#6 q ((low2 r base off)))).toOption = some _
  rw [rowG3 _ (op_wq ..)]
  simp [Except.toOption]
theorem ldhu (q r base off) : Statement (.ldhu q r base off) := by
  rintro - -
  show (decodeG (wq 4#6 q ((low2 r base off)))).toOption = some _
  rw [rowG4 _ (op_wq ..)]
  simp [Except.toOption]
theorem ldw (q r base off) : Statement (.ldw q r base off) := by
  rintro - -
  show (decodeG (wq 5#6 q ((low2 r base off)))).toOption = some _
  rw [rowG5 _ (op_wq ..)]
  simp [Except.toOption]
theorem ldwu (q r base off) : Statement (.ldwu q r base off) := by
  rintro - -
  show (decodeG (wq 6#6 q ((low2 r base off)))).toOption = some _
  rw [rowG6 _ (op_wq ..)]
  simp [Except.toOption]
theorem ldd (q r base off) : Statement (.ldd q r base off) := by
  rintro - -
  show (decodeG (wq 7#6 q ((low2 r base off)))).toOption = some _
  rw [rowG7 _ (op_wq ..)]
  simp [Except.toOption]
theorem stb (q r base off) : Statement (.stb q r base off) := by
  rintro - -
  show (decodeG (wq 8#6 q ((low2 r base off)))).toOption = some _
  rw [rowG8 _ (op_wq ..)]
  simp [Except.toOption]
theorem sth (q r base off) : Statement (.sth q r base off) := by
  rintro - -
  show (decodeG (wq 9#6 q ((low2 r base off)))).toOption = some _
  rw [rowG9 _ (op_wq ..)]
  simp [Except.toOption]
theorem stw (q r base off) : Statement (.stw q r base off) := by
  rintro - -
  show (decodeG (wq 10#6 q ((low2 r base off)))).toOption = some _
  rw [rowG10 _ (op_wq ..)]
  simp [Except.toOption]
theorem std (q r base off) : Statement (.std q r base off) := by
  rintro - -
  show (decodeG (wq 11#6 q ((low2 r base off)))).toOption = some _
  rw [rowG11 _ (op_wq ..)]
  simp [Except.toOption]
theorem pfg (q base off) : Statement (.pfg q base off) := by
  rintro - -
  show (decodeG (wq 12#6 q ((low2 0 base off)))).toOption = some _
  rw [rowG12 _ (op_wq ..)]
  rw [if_pos (by simp)]
  simp [Except.toOption]
theorem drain (q sc) : Statement (.drain q sc) := by
  rintro - -
  show (decodeG (wq 13#6 q ((low2 0 0 (0#8 ++ scopeBits sc))))).toOption = some _
  rw [rowG13 _ (op_wq ..)]
  rw [if_pos (by simp)]
  simp [Except.toOption]
theorem purgeDc (q base off) : Statement (.purgeDc q base off) := by
  rintro - -
  show (decodeG (wq 14#6 q ((low2 0 base off)))).toOption = some _
  rw [rowG14 _ (op_wq ..)]
  rw [if_pos (by simp)]
  simp [Except.toOption]
theorem purgeIc (q base off) : Statement (.purgeIc q base off) := by
  rintro - -
  show (decodeG (wq 14#6 q ((low2 1 base off)))).toOption = some _
  rw [rowG14 _ (op_wq ..)]
  rw [if_neg (by simp),
    if_pos (by simp)]
  simp [Except.toOption]
theorem purgeTlb (q base off) : Statement (.purgeTlb q base off) := by
  rintro - -
  show (decodeG (wq 14#6 q ((low2 2 base off)))).toOption = some _
  rw [rowG14 _ (op_wq ..)]
  rw [if_neg (by simp),
    if_neg (by simp),
    if_pos (by simp)]
  simp [Except.toOption]
theorem aadd (q d base src ord sc) : Statement (.aadd q d base src ord sc) := by
  rintro - -
  show (decodeG (wq 15#6 q ((low3 d base src (orderBits ord ++ scopeBits sc))))).toOption = some _
  rw [rowG15 _ (op_wq ..)]
  simp [Except.toOption]
theorem aand (q d base src ord sc) : Statement (.aand q d base src ord sc) := by
  rintro - -
  show (decodeG (wq 16#6 q ((low3 d base src (orderBits ord ++ scopeBits sc))))).toOption = some _
  rw [rowG16 _ (op_wq ..)]
  simp [Except.toOption]
theorem aor (q d base src ord sc) : Statement (.aor q d base src ord sc) := by
  rintro - -
  show (decodeG (wq 17#6 q ((low3 d base src (orderBits ord ++ scopeBits sc))))).toOption = some _
  rw [rowG17 _ (op_wq ..)]
  simp [Except.toOption]
theorem axor (q d base src ord sc) : Statement (.axor q d base src ord sc) := by
  rintro - -
  show (decodeG (wq 18#6 q ((low3 d base src (orderBits ord ++ scopeBits sc))))).toOption = some _
  rw [rowG18 _ (op_wq ..)]
  simp [Except.toOption]
theorem amin (q d base src ord sc) : Statement (.amin q d base src ord sc) := by
  rintro - -
  show (decodeG (wq 19#6 q ((low3 d base src (orderBits ord ++ scopeBits sc))))).toOption = some _
  rw [rowG19 _ (op_wq ..)]
  simp [Except.toOption]
theorem amax (q d base src ord sc) : Statement (.amax q d base src ord sc) := by
  rintro - -
  show (decodeG (wq 20#6 q ((low3 d base src (orderBits ord ++ scopeBits sc))))).toOption = some _
  rw [rowG20 _ (op_wq ..)]
  simp [Except.toOption]
theorem aminu (q d base src ord sc) : Statement (.aminu q d base src ord sc) := by
  rintro - -
  show (decodeG (wq 21#6 q ((low3 d base src (orderBits ord ++ scopeBits sc))))).toOption = some _
  rw [rowG21 _ (op_wq ..)]
  simp [Except.toOption]
theorem amaxu (q d base src ord sc) : Statement (.amaxu q d base src ord sc) := by
  rintro - -
  show (decodeG (wq 22#6 q ((low3 d base src (orderBits ord ++ scopeBits sc))))).toOption = some _
  rw [rowG22 _ (op_wq ..)]
  simp [Except.toOption]
theorem axchg (q d base src ord sc) : Statement (.axchg q d base src ord sc) := by
  rintro - -
  show (decodeG (wq 23#6 q ((low3 d base src (orderBits ord ++ scopeBits sc))))).toOption = some _
  rw [rowG23 _ (op_wq ..)]
  simp [Except.toOption]
theorem acas (q d base src ord sc) : Statement (.acas q d base src ord sc) := by
  rintro - -
  show (decodeG (wq 24#6 q ((low3 d base src (orderBits ord ++ scopeBits sc))))).toOption = some _
  rw [rowG24 _ (op_wq ..)]
  simp [Except.toOption]
theorem afadd (q d base src ord sc) : Statement (.afadd q d base src ord sc) := by
  rintro - -
  show (decodeG (wq 25#6 q ((low3 d base src (orderBits ord ++ scopeBits sc))))).toOption = some _
  rw [rowG25 _ (op_wq ..)]
  simp [Except.toOption]
theorem radd (q d base src ord sc) : Statement (.radd q d base src ord sc) := by
  rintro - -
  show (decodeG (wq 26#6 q ((low3 d base src (orderBits ord ++ scopeBits sc))))).toOption = some _
  rw [rowG26 _ (op_wq ..)]
  simp [Except.toOption]
theorem rmax (q d base src ord sc) : Statement (.rmax q d base src ord sc) := by
  rintro - -
  show (decodeG (wq 27#6 q ((low3 d base src (orderBits ord ++ scopeBits sc))))).toOption = some _
  rw [rowG27 _ (op_wq ..)]
  simp [Except.toOption]
theorem rmin (q d base src ord sc) : Statement (.rmin q d base src ord sc) := by
  rintro - -
  show (decodeG (wq 28#6 q ((low3 d base src (orderBits ord ++ scopeBits sc))))).toOption = some _
  rw [rowG28 _ (op_wq ..)]
  simp [Except.toOption]
theorem phinit (q d base src ord sc) : Statement (.phinit q d base src ord sc) := by
  rintro hw -
  replace hw : (ord.notAcquire && sc.teamOrPackage : Bool) = true := hw
  show (decodeG (wq 29#6 q ((low3 d base src (orderBits ord ++ scopeBits sc))))).toOption = some _
  rw [rowG29 _ (op_wq ..)]
  rw [if_pos (by revert hw; cases ord <;> cases sc <;> simp [orderBits, scopeBits, Order.notAcquire, Order.notRelease, Scope.teamOrPackage])]
  simp [Except.toOption]
theorem phreg (q d base src ord sc) : Statement (.phreg q d base src ord sc) := by
  rintro hw -
  replace hw : (ord.notAcquire && sc.teamOrPackage : Bool) = true := hw
  show (decodeG (wq 30#6 q ((low3 d base src (orderBits ord ++ scopeBits sc))))).toOption = some _
  rw [rowG30 _ (op_wq ..)]
  rw [if_pos (by revert hw; cases ord <;> cases sc <;> simp [orderBits, scopeBits, Order.notAcquire, Order.notRelease, Scope.teamOrPackage])]
  simp [Except.toOption]
theorem phdrop (q d base ord sc) : Statement (.phdrop q d base ord sc) := by
  rintro hw -
  replace hw : (ord.notAcquire && sc.teamOrPackage : Bool) = true := hw
  show (decodeG (wq 31#6 q ((low3 d base 0 (orderBits ord ++ scopeBits sc))))).toOption = some _
  rw [rowG31 _ (op_wq ..)]
  rw [if_pos (by revert hw; cases ord <;> cases sc <;> simp [orderBits, scopeBits, Order.notAcquire, Order.notRelease, Scope.teamOrPackage])]
  simp [Except.toOption]
theorem pharr (q d base ord sc) : Statement (.pharr q d base ord sc) := by
  rintro hw -
  replace hw : (ord.notAcquire && sc.teamOrPackage : Bool) = true := hw
  show (decodeG (wq 32#6 q ((low3 d base 0 (orderBits ord ++ scopeBits sc))))).toOption = some _
  rw [rowG32 _ (op_wq ..)]
  rw [if_pos (by revert hw; cases ord <;> cases sc <;> simp [orderBits, scopeBits, Order.notAcquire, Order.notRelease, Scope.teamOrPackage])]
  simp [Except.toOption]
theorem phwait (q d base src ord sc) : Statement (.phwait q d base src ord sc) := by
  rintro hw -
  replace hw : (ord.notRelease && sc.teamOrPackage : Bool) = true := hw
  show (decodeG (wq 33#6 q ((low3 d base src (orderBits ord ++ scopeBits sc))))).toOption = some _
  rw [rowG33 _ (op_wq ..)]
  rw [if_pos (by revert hw; cases ord <;> cases sc <;> simp [orderBits, scopeBits, Order.notAcquire, Order.notRelease, Scope.teamOrPackage])]
  simp [Except.toOption]
theorem pharw (q d base ord sc) : Statement (.pharw q d base ord sc) := by
  rintro hw -
  replace hw : (sc.teamOrPackage : Bool) = true := hw
  show (decodeG (wq 34#6 q ((low3 d base 0 (orderBits ord ++ scopeBits sc))))).toOption = some _
  rw [rowG34 _ (op_wq ..)]
  rw [if_pos (by revert hw; cases ord <;> cases sc <;> simp [orderBits, scopeBits, Order.notAcquire, Order.notRelease, Scope.teamOrPackage])]
  simp [Except.toOption]
theorem phq (q d base ord sc) : Statement (.phq q d base ord sc) := by
  rintro hw -
  replace hw : (ord.notRelease && sc.teamOrPackage : Bool) = true := hw
  show (decodeG (wq 35#6 q ((low3 d base 0 (orderBits ord ++ scopeBits sc))))).toOption = some _
  rw [rowG35 _ (op_wq ..)]
  rw [if_pos (by revert hw; cases ord <;> cases sc <;> simp [orderBits, scopeBits, Order.notAcquire, Order.notRelease, Scope.teamOrPackage])]
  simp [Except.toOption]
theorem migr (q d base src ord) : Statement (.migr q d base src ord) := by
  rintro - -
  show (decodeG (wq 36#6 q ((low3 d base src (orderBits ord ++ 2#2))))).toOption = some _
  rw [rowG36 _ (op_wq ..)]
  rw [if_pos (by simp)]
  simp [Except.toOption]
theorem lyb (q r base off) : Statement (.lyb q r base off) := by
  rintro - -
  show (decodeL (wq 1#6 q ((low2 r base off)))).toOption = some _
  rw [rowL1 _ (op_wq ..)]
  simp [Except.toOption]
theorem lyh (q r base off) : Statement (.lyh q r base off) := by
  rintro - -
  show (decodeL (wq 2#6 q ((low2 r base off)))).toOption = some _
  rw [rowL2 _ (op_wq ..)]
  simp [Except.toOption]
theorem lyw (q r base off) : Statement (.lyw q r base off) := by
  rintro - -
  show (decodeL (wq 3#6 q ((low2 r base off)))).toOption = some _
  rw [rowL3 _ (op_wq ..)]
  simp [Except.toOption]
theorem lyd (q r base off) : Statement (.lyd q r base off) := by
  rintro - -
  show (decodeL (wq 4#6 q ((low2 r base off)))).toOption = some _
  rw [rowL4 _ (op_wq ..)]
  simp [Except.toOption]
theorem syb (q r base off) : Statement (.syb q r base off) := by
  rintro - -
  show (decodeL (wq 5#6 q ((low2 r base off)))).toOption = some _
  rw [rowL5 _ (op_wq ..)]
  simp [Except.toOption]
theorem syh (q r base off) : Statement (.syh q r base off) := by
  rintro - -
  show (decodeL (wq 6#6 q ((low2 r base off)))).toOption = some _
  rw [rowL6 _ (op_wq ..)]
  simp [Except.toOption]
theorem syw (q r base off) : Statement (.syw q r base off) := by
  rintro - -
  show (decodeL (wq 7#6 q ((low2 r base off)))).toOption = some _
  rw [rowL7 _ (op_wq ..)]
  simp [Except.toOption]
theorem syd (q r base off) : Statement (.syd q r base off) := by
  rintro - -
  show (decodeL (wq 8#6 q ((low2 r base off)))).toOption = some _
  rw [rowL8 _ (op_wq ..)]
  simp [Except.toOption]
theorem sgw (q r base off) : Statement (.sgw q r base off) := by
  rintro - -
  show (decodeL (wq 9#6 q ((low2 r base off)))).toOption = some _
  rw [rowL9 _ (op_wq ..)]
  simp [Except.toOption]
theorem twrite (q a b i) : Statement (.twrite q a b i) := by
  rintro - -
  show (decodeL (wq 10#6 q ((low2 a b i)))).toOption = some _
  rw [rowL10 _ (op_wq ..)]
  simp [Except.toOption]
theorem tclr (q) : Statement (.tclr q) := by
  rintro - -
  show (decodeL (wq 11#6 q (0#22))).toOption = some _
  rw [rowL11 _ (op_wq ..)]
  rw [if_pos (by simp)]
  simp [Except.toOption]
theorem qcfg (q a b n) : Statement (.qcfg q a b n) := by
  rintro - -
  show (decodeL (wq 12#6 q ((low2 a b (0#6 ++ b4 n))))).toOption = some _
  rw [rowL12 _ (op_wq ..)]
  rw [if_pos (by simp)]
  simp [Except.toOption]
theorem qcfgStk (q a b) : Statement (.qcfgStk q a b) := by
  rintro - -
  show (decodeL (wq 12#6 q ((low2 a b 0x10)))).toOption = some _
  rw [rowL12 _ (op_wq ..)]
  rw [if_neg (by simp),
    if_pos (by simp)]
  simp [Except.toOption]
theorem cbcfg (q a n) : Statement (.cbcfg q a n) := by
  rintro - -
  show (decodeL (wq 13#6 q ((low2 a 0 (0#6 ++ b4 n))))).toOption = some _
  rw [rowL13 _ (op_wq ..)]
  rw [if_pos (by simp)]
  simp [Except.toOption]
theorem mxtab (q a b) : Statement (.mxtab q a b) := by
  rintro - -
  show (decodeL (wq 14#6 q ((low2 a b 0)))).toOption = some _
  rw [rowL14 _ (op_wq ..)]
  rw [if_pos (by simp)]
  simp [Except.toOption]
theorem br (q off) : Statement (.br q off) := by
  rintro - -
  show (decodeX (wq 1#6 q (off))).toOption = some _
  rw [rowX1 _ (op_wq ..)]
  simp [Except.toOption]
theorem call (q off) : Statement (.call q off) := by
  rintro - -
  show (decodeX (wq 2#6 q (off))).toOption = some _
  rw [rowX2 _ (op_wq ..)]
  simp [Except.toOption]
theorem jr (q a) : Statement (.jr q a) := by
  rintro - -
  show (decodeX (wq 3#6 q ((low2 a 0 0)))).toOption = some _
  rw [rowX3 _ (op_wq ..)]
  rw [if_pos (by simp)]
  simp [Except.toOption]
theorem jalr (q a b) : Statement (.jalr q a b) := by
  rintro - -
  show (decodeX (wq 4#6 q ((low2 a b 0)))).toOption = some _
  rw [rowX4 _ (op_wq ..)]
  rw [if_pos (by simp)]
  simp [Except.toOption]
theorem lpstep (q lc slot a b) : Statement (.lpstep q lc slot a b) := by
  rintro - -
  show (decodeX (wq 6#6 q ((low2 a b (b2 lc ++ b2 slot ++ 0#6))))).toOption = some _
  rw [rowX6 _ (op_wq ..)]
  rw [if_pos (by simp)]
  simp [Except.toOption]
theorem waitk (q n) : Statement (.waitk q n) := by
  rintro - -
  show (decodeX (wq 7#6 q ((low2 0 0 (0#6 ++ b4 n))))).toOption = some _
  rw [rowX7 _ (op_wq ..)]
  rw [if_pos (by simp)]
  simp [Except.toOption]
theorem waitkMask (q a) : Statement (.waitkMask q a) := by
  rintro - -
  show (decodeX (wq 7#6 q ((low2 a 0 512)))).toOption = some _
  rw [rowX7 _ (op_wq ..)]
  rw [if_neg (by rw [low22_wq]; exact fun h => absurd (and_lowest h) (by decide)),
    if_pos (by simp)]
  simp [Except.toOption]
theorem waitf (q n) : Statement (.waitf q n) := by
  rintro - -
  show (decodeX (wq 8#6 q ((low2 0 0 (0#6 ++ b4 n))))).toOption = some _
  rw [rowX8 _ (op_wq ..)]
  rw [if_pos (by simp)]
  simp [Except.toOption]
theorem waitfMask (q a) : Statement (.waitfMask q a) := by
  rintro - -
  show (decodeX (wq 8#6 q ((low2 a 0 512)))).toOption = some _
  rw [rowX8 _ (op_wq ..)]
  rw [if_neg (by rw [low22_wq]; exact fun h => absurd (and_lowest h) (by decide)),
    if_pos (by simp)]
  simp [Except.toOption]
theorem setf (q n) : Statement (.setf q n) := by
  rintro - -
  show (decodeX (wq 9#6 q ((low2 0 0 (0#6 ++ b4 n))))).toOption = some _
  rw [rowX9 _ (op_wq ..)]
  rw [if_pos (by simp)]
  simp [Except.toOption]
theorem setfMask (q a) : Statement (.setfMask q a) := by
  rintro - -
  show (decodeX (wq 9#6 q ((low2 a 0 512)))).toOption = some _
  rw [rowX9 _ (op_wq ..)]
  rw [if_neg (by rw [low22_wq]; exact fun h => absurd (and_lowest h) (by decide)),
    if_pos (by simp)]
  simp [Except.toOption]
theorem clrf (q n) : Statement (.clrf q n) := by
  rintro - -
  show (decodeX (wq 10#6 q ((low2 0 0 (0#6 ++ b4 n))))).toOption = some _
  rw [rowX10 _ (op_wq ..)]
  rw [if_pos (by simp)]
  simp [Except.toOption]
theorem clrfMask (q a) : Statement (.clrfMask q a) := by
  rintro - -
  show (decodeX (wq 10#6 q ((low2 a 0 512)))).toOption = some _
  rw [rowX10 _ (op_wq ..)]
  rw [if_neg (by rw [low22_wq]; exact fun h => absurd (and_lowest h) (by decide)),
    if_pos (by simp)]
  simp [Except.toOption]
theorem bstart (q a) : Statement (.bstart q a) := by
  rintro - -
  show (decodeX (wq 11#6 q ((low2 a 0 0)))).toOption = some _
  rw [rowX11 _ (op_wq ..)]
  rw [if_pos (by simp)]
  simp [Except.toOption]
theorem bstop (q) : Statement (.bstop q) := by
  rintro - -
  show (decodeX (wq 12#6 q (0#22))).toOption = some _
  rw [rowX12 _ (op_wq ..)]
  rw [if_pos (by simp)]
  simp [Except.toOption]
theorem pushq (q a) : Statement (.pushq q a) := by
  rintro - -
  show (decodeX (wq 13#6 q ((low2 a 0 0)))).toOption = some _
  rw [rowX13 _ (op_wq ..)]
  rw [if_pos (by simp)]
  simp [Except.toOption]
theorem popq (q a) : Statement (.popq q a) := by
  rintro - -
  show (decodeX (wq 14#6 q ((low2 a 0 0)))).toOption = some _
  rw [rowX14 _ (op_wq ..)]
  rw [if_pos (by simp)]
  simp [Except.toOption]
theorem mfsr (q a sr) : Statement (.mfsr q a sr) := by
  rintro - -
  show (decodeX (wq 15#6 q ((b6 a ++ sr ++ 0#4)))).toOption = some _
  rw [rowX15 _ (op_wq ..)]
  rw [if_pos (by simp)]
  simp [Except.toOption]
theorem mtsr (q a sr) : Statement (.mtsr q a sr) := by
  rintro - -
  show (decodeX (wq 16#6 q ((b6 a ++ sr ++ 0#4)))).toOption = some _
  rw [rowX16 _ (op_wq ..)]
  rw [if_pos (by simp)]
  simp [Except.toOption]
theorem trap (q n) : Statement (.trap q n) := by
  rintro - -
  show (decodeX (wq 17#6 q ((low2 0 0 n)))).toOption = some _
  rw [rowX17 _ (op_wq ..)]
  rw [if_pos (by simp)]
  simp [Except.toOption]
theorem eret (q) : Statement (.eret q) := by
  rintro - -
  show (decodeX (wq 18#6 q (0#22))).toOption = some _
  rw [rowX18 _ (op_wq ..)]
  rw [if_pos (by simp)]
  simp [Except.toOption]
theorem brk (q n) : Statement (.brk q n) := by
  rintro - -
  show (decodeX (wq 19#6 q ((low2 0 0 n)))).toOption = some _
  rw [rowX19 _ (op_wq ..)]
  rw [if_pos (by simp)]
  simp [Except.toOption]
theorem stqrd (q a b) : Statement (.stqrd q a b) := by
  rintro - -
  show (decodeX (wq 20#6 q ((low2 a b 0)))).toOption = some _
  rw [rowX20 _ (op_wq ..)]
  rw [if_pos (by simp)]
  simp [Except.toOption]
theorem flbar (q a n) : Statement (.flbar q a n) := by
  rintro hw -
  replace hw : (n ≤ 256#9 : Bool) = true := hw
  show (decodeX (wq 21#6 q ((low2 a 0 (0#1 ++ n))))).toOption = some _
  rw [rowX21 _ (op_wq ..)]
  rw [if_pos (by simp [low2_and, low3_and]; revert n; decide)]
  simp [Except.toOption]
theorem flend (q a) : Statement (.flend q a) := by
  rintro - -
  show (decodeX (wq 22#6 q ((low2 a 0 0)))).toOption = some _
  rw [rowX22 _ (op_wq ..)]
  rw [if_pos (by simp)]
  simp [Except.toOption]
theorem mxcfg (q a b w) : Statement (.mxcfg q a b w) := by
  rintro - -
  show (decodeM (wq 1#6 q ((low2 a b (0#7 ++ b3 w))))).toOption = some _
  rw [rowM1 _ (op_wq ..)]
  rw [if_pos (by simp)]
  simp [Except.toOption]
theorem mxlds (q a b tok kw ph) : Statement (.mxlds q a b tok kw ph) := by
  rintro - -
  show (decodeM (wq 2#6 q ((low2 a b (0#3 ++ BitVec.ofBool ph ++ b2 kw ++ b4 tok))))).toOption = some _
  rw [rowM2 _ (op_wq ..)]
  rw [if_pos (by simp [low2_and, low3_and]; revert tok kw ph; decide)]
  rw [mxlds_bit]; simp [ext_lo, ext_hi, bit_lo, bit_hi, Except.toOption]
theorem mxswap (q a) : Statement (.mxswap q a) := by
  rintro - -
  show (decodeM (wq 3#6 q ((low2 a 0 0)))).toOption = some _
  rw [rowM3 _ (op_wq ..)]
  rw [if_pos (by simp)]
  simp [Except.toOption]
theorem mxgo (q a tok split) : Statement (.mxgo q a tok split) := by
  rintro - -
  show (decodeM (wq 4#6 q ((low2 a 0 (split ++ b4 tok))))).toOption = some _
  rw [rowM4 _ (op_wq ..)]
  rw [if_pos (by simp)]
  simp [Except.toOption]
theorem mxmode (q a mode pin) : Statement (.mxmode q a mode pin) := by
  rintro - -
  show (decodeM (wq 5#6 q ((low2 a 0 (0#7 ++ BitVec.ofBool pin ++ b2 mode))))).toOption = some _
  rw [rowM5 _ (op_wq ..)]
  rw [if_pos (by simp [low2_and, low3_and]; revert mode pin; decide)]
  rw [mxmode_bit]; simp [ext_lo, ext_hi, bit_lo, bit_hi, Except.toOption]
theorem mxrd (q a b sel) : Statement (.mxrd q a b sel) := by
  rintro - -
  show (decodeM (wq 6#6 q ((low2 a b (0#8 ++ b2 sel))))).toOption = some _
  rw [rowM6 _ (op_wq ..)]
  rw [if_pos (by simp)]
  simp [Except.toOption]
theorem mxstop (q a) : Statement (.mxstop q a) := by
  rintro - -
  show (decodeM (wq 7#6 q ((low2 a 0 0)))).toOption = some _
  rw [rowM7 _ (op_wq ..)]
  rw [if_pos (by simp)]
  simp [Except.toOption]
theorem tcfg (q a e) : Statement (.tcfg q a e) := by
  rintro - -
  show (decodeM (wq 9#6 q ((low2 a 0 (0#7 ++ b3 e))))).toOption = some _
  rw [rowM9 _ (op_wq ..)]
  rw [if_pos (by simp)]
  simp [Except.toOption]
theorem tcfgPinned (q a) : Statement (.tcfgPinned q a) := by
  rintro - -
  show (decodeM (wq 9#6 q ((low2 a 0 8)))).toOption = some _
  rw [rowM9 _ (op_wq ..)]
  rw [if_neg (by simp),
    if_pos (by simp)]
  simp [Except.toOption]
theorem tstat (q a u) : Statement (.tstat q a u) := by
  rintro - -
  show (decodeM (wq 10#6 q ((low2 a 0 (0#8 ++ b2 u))))).toOption = some _
  rw [rowM10 _ (op_wq ..)]
  rw [if_pos (by simp)]
  simp [Except.toOption]
theorem cp (q a b cd tok) : Statement (.cp q a b cd tok) := by
  rintro - -
  show (decodeC (wq 1#6 q ((low2 a b (0#1 ++ tokBits tok ++ b4 cd))))).toOption = some _
  rw [rowC1 _ (op_wq ..)]
  rw [if_pos (by simp [low2_and, low3_and]; revert cd tok; decide)]
  simp [Except.toOption]
theorem cpt (q a b cd tok) : Statement (.cpt q a b cd tok) := by
  rintro - -
  show (decodeC (wq 2#6 q ((low2 a b (0#1 ++ tokBits tok ++ b4 cd))))).toOption = some _
  rw [rowC2 _ (op_wq ..)]
  rw [if_pos (by simp [low2_and, low3_and]; revert cd tok; decide)]
  simp [Except.toOption]
theorem cptab (q a b cd tok) : Statement (.cptab q a b cd tok) := by
  rintro - -
  show (decodeC (wq 3#6 q ((low2 a b (0#1 ++ tokBits tok ++ b4 cd))))).toOption = some _
  rw [rowC3 _ (op_wq ..)]
  rw [if_pos (by simp [low2_and, low3_and]; revert cd tok; decide)]
  simp [Except.toOption]
theorem cpcfg (q a cd) : Statement (.cpcfg q a cd) := by
  rintro - -
  show (decodeC (wq 4#6 q ((low2 a 0 (0#6 ++ b4 cd))))).toOption = some _
  rw [rowC4 _ (op_wq ..)]
  rw [if_pos (by simp)]
  simp [Except.toOption]
theorem cpstat (q a u) : Statement (.cpstat q a u) := by
  rintro - -
  show (decodeC (wq 5#6 q ((low2 a 0 (0#9 ++ b1 u))))).toOption = some _
  rw [rowC5 _ (op_wq ..)]
  rw [if_pos (by simp)]
  simp [Except.toOption]
theorem cpcan (q u) : Statement (.cpcan q u) := by
  rintro - -
  show (decodeC (wq 6#6 q ((low2 0 0 (0#9 ++ b1 u))))).toOption = some _
  rw [rowC6 _ (op_wq ..)]
  rw [if_pos (by simp)]
  simp [Except.toOption]
theorem xmit (q a port) : Statement (.xmit q a port) := by
  rintro - -
  show (decodeF (wq 7#6 q ((low2 a 0 (0#8 ++ b2 port))))).toOption = some _
  rw [rowF7 _ (op_wq ..)]
  rw [if_pos (by simp)]
  simp [Except.toOption]
theorem xsel (q a port) : Statement (.xsel q a port) := by
  rintro - -
  show (decodeF (wq 8#6 q ((low2 a 0 (0#8 ++ b2 port))))).toOption = some _
  rw [rowF8 _ (op_wq ..)]
  rw [if_pos (by simp)]
  simp [Except.toOption]
theorem xfwd (q pi po) : Statement (.xfwd q pi po) := by
  rintro - -
  show (decodeF (wq 9#6 q ((low2 0 0 (0#6 ++ b2 po ++ b2 pi))))).toOption = some _
  rw [rowF9 _ (op_wq ..)]
  rw [if_pos (by simp [low2_and, low3_and]; revert pi po; decide)]
  simp [Except.toOption]
theorem xidle (q port) : Statement (.xidle q port) := by
  rintro - -
  show (decodeF (wq 10#6 q ((low2 0 0 (0#8 ++ b2 port))))).toOption = some _
  rw [rowF10 _ (op_wq ..)]
  rw [if_pos (by simp)]
  simp [Except.toOption]
theorem spawn (q a b blk) : Statement (.spawn q a b blk) := by
  rintro - -
  show (decodeK (wq 1#6 q ((low2 a b blk)))).toOption = some _
  rw [rowK1 _ (op_wq ..)]
  simp [Except.toOption]
theorem spawnr (q a blk) : Statement (.spawnr q a blk) := by
  rintro - -
  show (decodeK (wq 2#6 q ((low2 a 0 blk)))).toOption = some _
  rw [rowK2 _ (op_wq ..)]
  rw [if_pos (by simp)]
  simp [Except.toOption]
theorem vdecl (q a b vt op gal) : Statement (.vdecl q a b vt op gal) := by
  rintro - -
  show (decodeK (wq 3#6 q ((low2 a b (0#3 ++ BitVec.ofBool gal ++ b3 op ++ b3 vt))))).toOption = some _
  rw [rowK3 _ (op_wq ..)]
  rw [if_pos (by simp [low2_and, low3_and]; revert vt op gal; decide)]
  rw [vdecl_bit]; simp [ext_lo, ext_hi, bit_lo, bit_hi, Except.toOption]
theorem vdrop (q vt) : Statement (.vdrop q vt) := by
  rintro - -
  show (decodeK (wq 4#6 q ((low2 0 0 (0#7 ++ b3 vt))))).toOption = some _
  rw [rowK4 _ (op_wq ..)]
  rw [if_pos (by simp)]
  simp [Except.toOption]
theorem join (q) : Statement (.join q) := by
  rintro - -
  show (decodeK (wq 5#6 q (0#22))).toOption = some _
  rw [rowK5 _ (op_wq ..)]
  rw [if_pos (by simp)]
  simp [Except.toOption]
theorem endt (q) : Statement (.endt q) := by
  rintro - -
  show (decodeK (wq 6#6 q (0#22))).toOption = some _
  rw [rowK6 _ (op_wq ..)]
  rw [if_pos (by simp)]
  simp [Except.toOption]
theorem rnext (q a) : Statement (.rnext q a) := by
  rintro - -
  show (decodeK (wq 7#6 q ((low2 a 0 0)))).toOption = some _
  rw [rowK7 _ (op_wq ..)]
  rw [if_pos (by simp)]
  simp [Except.toOption]
theorem tinfoSelf (q a) : Statement (.tinfoSelf q a) := by
  rintro - -
  show (decodeK (wq 8#6 q ((low2 a 0 0)))).toOption = some _
  rw [rowK8 _ (op_wq ..)]
  rw [if_pos (by simp)]
  simp [Except.toOption]
theorem tinfoState (q a b) : Statement (.tinfoState q a b) := by
  rintro - -
  show (decodeK (wq 8#6 q ((low2 a b 1)))).toOption = some _
  rw [rowK8 _ (op_wq ..)]
  rw [if_neg (by rw [low22_wq]; exact fun h => absurd (and_lowest h) (by decide)),
    if_pos (by simp)]
  simp [Except.toOption]
theorem tinfoQueue (q a) : Statement (.tinfoQueue q a) := by
  rintro - -
  show (decodeK (wq 8#6 q ((low2 a 0 2)))).toOption = some _
  rw [rowK8 _ (op_wq ..)]
  rw [if_neg (by simp),
    if_neg (by simp),
    if_pos (by simp)]
  simp [Except.toOption]
theorem tinfoMerge (q a) : Statement (.tinfoMerge q a) := by
  rintro - -
  show (decodeK (wq 8#6 q ((low2 a 0 3)))).toOption = some _
  rw [rowK8 _ (op_wq ..)]
  rw [if_neg (by simp),
    if_neg (by simp),
    if_neg (by simp),
    if_pos (by simp)]
  simp [Except.toOption]
theorem emptyBundle (l f) : Statement (.emptyBundle l f) := by
  rintro - -
  show (decodeEmpty (1#4 ++ 0#8 ++ BitVec.ofBool l ++ f ++ 0#11)).toOption = some _
  generalize hx : (1#4 ++ 0#8 ++ BitVec.ofBool l ++ f ++ 0#11 : BitVec 32) = x
  have h1 : x.extractLsb' 28 4 = 1#4 := hx ▸ (ext_hi _ _ (by decide)).trans ((ext_hi _ _ (by decide)).trans ((ext_hi _ _ (by decide)).trans
    ((ext_hi _ _ (by decide)).trans (ext_all (1#4)))))
  have h2 : x.extractLsb' 0 11 = 0#11 := hx ▸ (ext_lo _ _ (by decide)).trans (ext_all _)
  have h3 : x.extractLsb' 20 8 = 0#8 := hx ▸ (ext_hi _ _ (by decide)).trans ((ext_hi _ _ (by decide)).trans ((ext_hi _ _ (by decide)).trans
    ((ext_lo _ _ (by decide)).trans (ext_all (0#8)))))
  have h4 : x.extractLsb' 11 8 = f := hx ▸ (ext_hi _ _ (by decide)).trans ((ext_lo _ _ (by decide)).trans (ext_all f))
  have h5 : x.getLsbD 19 = l := hx ▸ (bit_hi _ _ (by decide)).trans ((bit_hi _ _ (by decide)).trans ((bit_lo _ _ (by decide)).trans (ofBool_bit l)))
  have : decodeCtlHeader x = .ok ⟨0#8, l, f⟩ := by simp only [decodeCtlHeader, h1, h2, h3, h4, h5]; rfl
  rw [decodeEmpty, this]; rfl
theorem emptyBroadcastBundle (f w) : Statement (.emptyBroadcastBundle f w) := by
  rintro - -
  show (decodeEmpty (0x20#8 ++ f ++ w)).toOption = some _
  generalize hx : (0x20#8 ++ f ++ w : BitVec 32) = x
  have h0 : x.extractLsb' 24 8 = 0x20#8 := hx ▸ (ext_hi _ _ (by decide)).trans ((ext_hi _ _ (by decide)).trans (ext_all (0x20#8)))
  have h1 : x.extractLsb' 28 4 = 2#4 := hx ▸ (ext_hi _ _ (by decide)).trans ((ext_hi _ _ (by decide)).trans (by decide))
  have h2 : x.extractLsb' 25 3 = 0#3 := hx ▸ (ext_hi _ _ (by decide)).trans ((ext_hi _ _ (by decide)).trans (by decide))
  have h3 : x.getLsbD 24 = false := hx ▸ (bit_hi _ _ (by decide)).trans ((bit_hi _ _ (by decide)).trans rfl)
  have h4 : x.extractLsb' 16 8 = f := hx ▸ (ext_hi _ _ (by decide)).trans ((ext_lo _ _ (by decide)).trans (ext_all f))
  have h5 : x.extractLsb' 0 16 = w := hx ▸ (ext_lo _ _ (by decide)).trans (ext_all w)
  have e1 : decodeCtlHeader x = .error .illegalBundle := by simp only [decodeCtlHeader, h1]; rfl
  have e2 : decodeBcastHeader x = .ok ⟨0#3, f, w⟩ := by simp only [decodeBcastHeader, h1, h2, h3, h4, h5]; rfl
  rw [decodeEmpty, e1, e2]; rfl
theorem loop (lc count last) : Statement (.loop lc count last) := by
  rintro hw -
  replace hw : (last ≠ 0#18 : Bool) = true := hw
  show (decodeX (5#6 ++ b2 lc ++ b6 count ++ last)).toOption = some _
  generalize hx : (5#6 ++ b2 lc ++ b6 count ++ last : BitVec 32) = x
  have h0 : x.extractLsb' 26 6 = 5#6 := hx ▸ (ext_hi _ _ (by decide)).trans ((ext_hi _ _ (by decide)).trans ((ext_hi _ _ (by decide)).trans (ext_all _)))
  have h1 : x.extractLsb' 24 2 = b2 lc := hx ▸ (ext_hi _ _ (by decide)).trans ((ext_hi _ _ (by decide)).trans ((ext_lo _ _ (by decide)).trans (ext_all _)))
  have h2 : x.extractLsb' 18 6 = b6 count := hx ▸ (ext_hi _ _ (by decide)).trans ((ext_lo _ _ (by decide)).trans (ext_all _))
  have h3 : x.extractLsb' 0 18 = last := hx ▸ (ext_lo _ _ (by decide)).trans (ext_all _)
  have row : ∀ w : BitVec 32, w.extractLsb' 26 6 = 5#6 → decodeX w = (if w.extractLsb' 0 18 ≠ 0#18 then
    .ok (.loop (fin2 (w.extractLsb' 24 2)) (fin6 (w.extractLsb' 18 6)) (w.extractLsb' 0 18)) else .error .reservedField) :=
    fun w h => by unfold decodeX; rw [h]; rfl
  rw [row x h0, h1, h2, h3, if_pos (by simpa using hw)]; rfl
theorem ix (index gm sp imm) : Statement (.ix index gm sp imm) := by
  rintro - -
  show some (decodeV (b10 index ++ b3 gm ++ b3 sp ++ imm)) = some _
  generalize hx : (b10 index ++ b3 gm ++ b3 sp ++ imm : BitVec 32) = x
  have h0 : x.extractLsb' 22 10 = b10 index := hx ▸ (ext_hi _ _ (by decide)).trans ((ext_hi _ _ (by decide)).trans ((ext_hi _ _ (by decide)).trans (ext_all _)))
  have h1 : x.extractLsb' 19 3 = b3 gm := hx ▸ (ext_hi _ _ (by decide)).trans ((ext_hi _ _ (by decide)).trans ((ext_lo _ _ (by decide)).trans (ext_all _)))
  have h2 : x.extractLsb' 16 3 = b3 sp := hx ▸ (ext_hi _ _ (by decide)).trans ((ext_lo _ _ (by decide)).trans (ext_all _))
  have h3 : x.extractLsb' 0 16 = imm := hx ▸ (ext_lo _ _ (by decide)).trans (ext_all _)
  rw [decodeV, h0, h1, h2, h3]; rfl
theorem rowQ1 (w : BitVec 32) (h : w.extractLsb' 26 6 = 1#6) : decodeQ w = (if w.extractLsb' 0 10 = 0#10 then .error .reservedField
    else if w.extractLsb' 10 13 = 0#13 then
      .ok (.bloopCtq (fin2 (w.extractLsb' 24 2)) (w.getLsbD 23) (w.extractLsb' 0 10))
    else .ok (.bloop (fin2 (w.extractLsb' 24 2)) (w.getLsbD 23) (w.extractLsb' 10 13) (w.extractLsb' 0 10))) := by unfold decodeQ; rw [h]; rfl
theorem bloop_fields (bl : Fin 4) (rt : Bool) (cnt : BitVec 13) (last : BitVec 10) (x : BitVec 32)
    (hx : (1#6 ++ b2 bl ++ BitVec.ofBool rt ++ cnt ++ last : BitVec 32) = x) :
    x.extractLsb' 26 6 = 1#6 ∧ x.extractLsb' 24 2 = b2 bl ∧ x.getLsbD 23 = rt ∧ x.extractLsb' 10 13 = cnt ∧ x.extractLsb' 0 10 = last :=
  ⟨hx ▸ (ext_hi _ _ (by decide)).trans ((ext_hi _ _ (by decide)).trans ((ext_hi _ _ (by decide)).trans ((ext_hi _ _ (by decide)).trans (ext_all _)))),
   hx ▸ (ext_hi _ _ (by decide)).trans ((ext_hi _ _ (by decide)).trans ((ext_hi _ _ (by decide)).trans ((ext_lo _ _ (by decide)).trans (ext_all _)))),
   hx ▸ (bit_hi _ _ (by decide)).trans ((bit_hi _ _ (by decide)).trans ((bit_lo _ _ (by decide)).trans (ofBool_bit rt))),
   hx ▸ (ext_hi _ _ (by decide)).trans ((ext_lo _ _ (by decide)).trans (ext_all _)),
   hx ▸ (ext_lo _ _ (by decide)).trans (ext_all _)⟩
theorem bloop (bl rt cnt last) : Statement (.bloop bl rt cnt last) := by
  rintro hw -
  replace hw : (cnt ≠ 0#13 && last ≠ 0#10 : Bool) = true := hw
  simp only [Bool.and_eq_true, decide_eq_true_eq] at hw
  show (decodeQ (1#6 ++ b2 bl ++ BitVec.ofBool rt ++ cnt ++ last)).toOption = some _
  obtain ⟨h0, h1, h2, h3, h4⟩ := bloop_fields bl rt cnt last _ rfl
  rw [rowQ1 _ h0, h1, h2, h3, h4, if_neg hw.2, if_neg hw.1]; rfl
theorem bloopCtq (bl rt last) : Statement (.bloopCtq bl rt last) := by
  rintro hw -
  replace hw : (last ≠ 0#10 : Bool) = true := hw
  show (decodeQ (1#6 ++ b2 bl ++ BitVec.ofBool rt ++ 0#13 ++ last)).toOption = some _
  obtain ⟨h0, h1, h2, h3, h4⟩ := bloop_fields bl rt 0#13 last _ rfl
  rw [rowQ1 _ h0, h1, h2, h3, h4, if_neg (by simpa using hw), if_pos rfl]; rfl
theorem branch_fields (op : BitVec 6) (cnd : BitVec 4) (off : BitVec 22) (x : BitVec 32) (hx : (op ++ cnd ++ off : BitVec 32) = x) :
    x.extractLsb' 26 6 = op ∧ x.extractLsb' 22 4 = cnd ∧ x.extractLsb' 0 22 = off :=
  ⟨hx ▸ (ext_hi _ _ (by decide)).trans ((ext_hi _ _ (by decide)).trans (ext_all _)), hx ▸ (ext_hi _ _ (by decide)).trans ((ext_lo _ _ (by decide)).trans (ext_all _)),
   hx ▸ (ext_lo _ _ (by decide)).trans (ext_all _)⟩
theorem bbr (cnd off) : Statement (.bbr cnd off) := by
  rintro hw -
  replace hw : (cnd ≠ 8#4 : Bool) = true := hw
  show (decodeQ (2#6 ++ cnd ++ off)).toOption = some _
  obtain ⟨h0, h1, h2⟩ := branch_fields 2#6 cnd off _ rfl
  have row : ∀ w : BitVec 32, w.extractLsb' 26 6 = 2#6 → decodeQ w = (if w.extractLsb' 22 4 = 8#4 then .error .reservedField
    else .ok (.bbr (w.extractLsb' 22 4) (w.extractLsb' 0 22))) := fun w h => by unfold decodeQ; rw [h]; rfl
  rw [row _ h0, h1, h2, if_neg (by simpa using hw)]; rfl
theorem bcall (cnd off) : Statement (.bcall cnd off) := by
  rintro hw -
  replace hw : (cnd ≠ 8#4 : Bool) = true := hw
  show (decodeQ (12#6 ++ cnd ++ off)).toOption = some _
  obtain ⟨h0, h1, h2⟩ := branch_fields 12#6 cnd off _ rfl
  have row : ∀ w : BitVec 32, w.extractLsb' 26 6 = 12#6 → decodeQ w = (if w.extractLsb' 22 4 = 8#4 then .error .reservedField
    else .ok (.bcall (w.extractLsb' 22 4) (w.extractLsb' 0 22))) := fun w h => by unfold decodeQ; rw [h]; rfl
  rw [row _ h0, h1, h2, if_neg (by simpa using hw)]; rfl
theorem bsetf (n) : Statement (.bsetf n) := by
  rintro - -
  show (decodeQ (wgen 3#6 (0#2 ++ b4 n) 0 0)).toOption = some _
  have row : ∀ w : BitVec 32, w.extractLsb' 26 6 = 3#6 → decodeQ w = (if (((w.extractLsb' 20 6).extractLsb' 4 2 = 0#2 ∧ w.extractLsb' 14 6 = 0#6) ∧
    w.extractLsb' 0 14 = 0#14) then .ok (.bsetf (fin4 (w.extractLsb' 20 4))) else .error .reservedField) := fun w h => by unfold decodeQ; rw [h]; rfl
  rw [row _ (op_wgen ..), a6_wgen, b_wgen, imm14_wgen, a4_wgen, if_pos (by simp)]
  simp [Except.toOption]
theorem bclrf (n) : Statement (.bclrf n) := by
  rintro - -
  show (decodeQ (wgen 4#6 (0#2 ++ b4 n) 0 0)).toOption = some _
  have row : ∀ w : BitVec 32, w.extractLsb' 26 6 = 4#6 → decodeQ w = (if (((w.extractLsb' 20 6).extractLsb' 4 2 = 0#2 ∧ w.extractLsb' 14 6 = 0#6) ∧
    w.extractLsb' 0 14 = 0#14) then .ok (.bclrf (fin4 (w.extractLsb' 20 4))) else .error .reservedField) := fun w h => by unfold decodeQ; rw [h]; rfl
  rw [row _ (op_wgen ..), a6_wgen, b_wgen, imm14_wgen, a4_wgen, if_pos (by simp)]
  simp [Except.toOption]
theorem bwaitf (n) : Statement (.bwaitf n) := by
  rintro - -
  show (decodeQ (wgen 5#6 (0#2 ++ b4 n) 0 0)).toOption = some _
  have row : ∀ w : BitVec 32, w.extractLsb' 26 6 = 5#6 → decodeQ w = (if (((w.extractLsb' 20 6).extractLsb' 4 2 = 0#2 ∧ w.extractLsb' 14 6 = 0#6) ∧
    w.extractLsb' 0 14 = 0#14) then .ok (.bwaitf (fin4 (w.extractLsb' 20 4))) else .error .reservedField) := fun w h => by unfold decodeQ; rw [h]; rfl
  rw [row _ (op_wgen ..), a6_wgen, b_wgen, imm14_wgen, a4_wgen, if_pos (by simp)]
  simp [Except.toOption]
theorem rowQ11 (w : BitVec 32) (h : w.extractLsb' 26 6 = 11#6) : decodeQ w = (if w.extractLsb' 0 26 = 0#26 then .ok .bhalt
    else if ((w.extractLsb' 20 6).extractLsb' 4 2 = 0#2 ∧ w.extractLsb' 14 6 = 0#6) ∧ w.extractLsb' 0 14 = 1#14 then .ok (.bhaltFlag (fin4 (w.extractLsb' 20 4)))
    else .error .reservedField) := by unfold decodeQ; rw [h]; rfl
theorem bhaltFlag (n) : Statement (.bhaltFlag n) := by
  rintro - -
  show (decodeQ (wgen 11#6 (0#2 ++ b4 n) 0 1)).toOption = some _
  rw [rowQ11 _ (op_wgen ..), if_neg, a6_wgen, b_wgen, imm14_wgen, a4_wgen, if_pos (by simp)]
  · simp [Except.toOption]
  · intro h
    have := congrArg (BitVec.extractLsb' 0 14) h
    rw [ext_ext (s := 0) (t := 0) (n := 26) (m := 14) _ (by decide), imm14_wgen] at this
    exact absurd this (by decide)
theorem bhalt : Statement .bhalt := by
  rintro - -
  show (decodeQ (wgen 11#6 0 0 0)).toOption = some _
  rw [rowQ11 _ (op_wgen ..), if_pos (low_wgen _)]; rfl
theorem flip : Statement .flip := by
  rintro - -
  show (decodeQ (wgen 10#6 0 0 0)).toOption = some _
  have row : ∀ w : BitVec 32, w.extractLsb' 26 6 = 10#6 → decodeQ w = (if w.extractLsb' 0 26 = 0#26 then .ok .flip else .error .reservedField) :=
    fun w h => by unfold decodeQ; rw [h]; rfl
  rw [row _ (op_wgen ..), if_pos (low_wgen _)]; rfl
theorem bret : Statement .bret := by
  rintro - -
  show (decodeQ (wgen 13#6 0 0 0)).toOption = some _
  have row : ∀ w : BitVec 32, w.extractLsb' 26 6 = 13#6 → decodeQ w = (if w.extractLsb' 0 26 = 0#26 then .ok .bret else .error .reservedField) :=
    fun w h => by unfold decodeQ; rw [h]; rfl
  rw [row _ (op_wgen ..), if_pos (low_wgen _)]; rfl
theorem bpopq (dst) : Statement (.bpopq dst) := by
  rintro - -
  show (decodeQ (wgen 6#6 (popDstBits dst).1 (popDstBits dst).2 0)).toOption = some _
  have row : ∀ w : BitVec 32, w.extractLsb' 26 6 = 6#6 → decodeQ w = (if w.extractLsb' 0 14 ≠ 0#14 then .error .reservedField else
    match popDstOf (w.extractLsb' 20 6) (w.extractLsb' 14 6) with
    | some d => .ok (.bpopq d)
    | none => .error .reservedField) := fun w h => by unfold decodeQ; rw [h]; rfl
  rw [row _ (op_wgen ..), a6_wgen, b_wgen, imm14_wgen, if_neg (by simp), popDstOf_bits]; rfl
theorem bpushq (src) : Statement (.bpushq src) := by
  rintro - -
  show (decodeQ (wgen 7#6 (pushSrcBits src).1 0 (pushSrcBits src).2)).toOption = some _
  have row : ∀ w : BitVec 32, w.extractLsb' 26 6 = 7#6 → decodeQ w = (if w.extractLsb' 14 6 ≠ 0#6 then .error .reservedField else
    match pushSrcOf (w.extractLsb' 20 6) (w.extractLsb' 0 14) with
    | some d => .ok (.bpushq d)
    | none => .error .reservedField) := fun w h => by unfold decodeQ; rw [h]; rfl
  rw [row _ (op_wgen ..), a6_wgen, b_wgen, imm14_wgen, if_neg (by simp), pushSrcOf_bits]; rfl
theorem bsetsp (wmask value) : Statement (.bsetsp wmask value) := by
  rintro - -
  show (decodeQ (wgen 8#6 0 0 (wmask ++ value))).toOption = some _
  have row : ∀ w : BitVec 32, w.extractLsb' 26 6 = 8#6 → decodeQ w = (if w.extractLsb' 20 6 = 0#6 ∧ w.extractLsb' 14 6 = 0#6 then
    .ok (.bsetsp (w.extractLsb' 7 7) (w.extractLsb' 0 7)) else .error .reservedField) := fun w h => by unfold decodeQ; rw [h]; rfl
  rw [row _ (op_wgen ..), a6_wgen, b_wgen, imm_wgen _ _ _ _ 7 7 (by decide), imm_wgen _ _ _ _ 0 7 (by decide), if_pos (by simp)]
  simp [Except.toOption]
theorem rowQ9 (w : BitVec 32) (h : w.extractLsb' 26 6 = 9#6) : decodeQ w =
    (if (w.extractLsb' 20 6).extractLsb' 3 3 ≠ 0#3 ∨ w.extractLsb' 14 6 ≠ 0#6 ∨ w.extractLsb' 7 7 ≠ 0#7 then .error .reservedField
    else if w.getLsbD 6 then .ok (.brotA (fin3 (w.extractLsb' 20 3)) (w.extractLsb' 0 6))
    else .ok (.brot (fin3 (w.extractLsb' 20 3)) (w.extractLsb' 0 6))) := by unfold decodeQ; rw [h]; rfl
theorem brot (gm e) : Statement (.brot gm e) := by
  rintro - -
  show (decodeQ (wgen 9#6 (0#3 ++ b3 gm) 0 (0#8 ++ e))).toOption = some _
  rw [rowQ9 _ (op_wgen ..), a6_wgen, b_wgen, a3_wgen, imm_wgen _ _ _ _ 7 7 (by decide), imm_wgen _ _ _ _ 0 6 (by decide), bit_wgen _ _ _ _ 6 (by decide),
    if_neg (by simp), show (0#8 ++ e : BitVec 14).getLsbD 6 = false from (bit_hi _ _ (by decide)).trans rfl]
  simp [Except.toOption]
theorem brotA (gm e) : Statement (.brotA gm e) := by
  rintro - -
  show (decodeQ (wgen 9#6 (0#3 ++ b3 gm) 0 (1#8 ++ e))).toOption = some _
  rw [rowQ9 _ (op_wgen ..), a6_wgen, b_wgen, a3_wgen, imm_wgen _ _ _ _ 7 7 (by decide), imm_wgen _ _ _ _ 0 6 (by decide), bit_wgen _ _ _ _ 6 (by decide),
    if_neg (by simp), show (1#8 ++ e : BitVec 14).getLsbD 6 = true from (bit_hi _ _ (by decide)).trans rfl]
  simp [Except.toOption]

/-- `decodeTmov` from the fields it reads. -/
def tmovOf (q : Qual) (a : Reg) (su : Fin 4) (sp : BitVec 4) (u : Fin 4) (port : BitVec 4) (t : BitVec 5) (b9 : Bool) (z : BitVec 4) :
    Except DecodeError Instr :=
  if z ≠ 0#4 then .error .reservedField
  else if h : port.toNat < 5 then
    if t ≠ 0#5 then .error .reservedField
    else if b9 then
      if hs : sp.toNat < 5 then .ok (.tmovPort q su (some ⟨sp.toNat, hs⟩) u ⟨port.toNat, h⟩)
      else if sp.toNat = 8 then .ok (.tmovPort q su none u ⟨port.toNat, h⟩)
      else .error .reservedField
    else .ok (.tmov q a u ⟨port.toNat, h⟩)
  else if b9 ∨ tokOk t = false then .error .reservedField
  else match u.val, port.toNat with
    | 0, 12 => .ok (.cvtSplit q a (tokOf t))
    | 0, 13 => .ok (.cvtJoin q a (tokOf t))
    | 1, 12 => .ok (.cmpPack q a (tokOf t))
    | 2, 12 => .ok (.xposeW32 q a (tokOf t))
    | 2, 13 => .ok (.xposeW16 q a (tokOf t))
    | 3, 12 => .ok (.layoutIm2col q a (tokOf t))
    | _, _ => .error .reservedField
theorem decodeTmov_eq (w : BitVec 32) (h : w.extractLsb' 26 6 = 8#6) : decodeM w =
    tmovOf (qual w) (rD w) (fin2 (w.extractLsb' 20 2)) (w.extractLsb' 16 4) (fin2 (w.extractLsb' 14 2)) (w.extractLsb' 10 4)
      (w.extractLsb' 4 5) (w.getLsbD 9) (w.extractLsb' 0 4) := by unfold decodeM; rw [h]; rfl
/-- The fields of a word of the `tmov` row. -/
theorem tmov_fields (q : Qual) (a p : BitVec 6) (i : BitVec 10) : decodeM (wq 8#6 q (low2 (fin6 a) (fin6 p) i)) =
    tmovOf q (fin6 a) (fin2 (a.extractLsb' 4 2)) (a.extractLsb' 0 4) (fin2 (p.extractLsb' 4 2)) (p.extractLsb' 0 4)
      (i.extractLsb' 4 5) (i.getLsbD 9) (i.extractLsb' 0 4) := by
  have hd : (low2 (fin6 a) (fin6 p) i).extractLsb' 16 6 = a := low2_d ..
  have ha : (low2 (fin6 a) (fin6 p) i).extractLsb' 10 6 = p := low2_a ..
  have e1 : (wq 8#6 q (low2 (fin6 a) (fin6 p) i)).extractLsb' 20 2 = a.extractLsb' 4 2 := by
    rw [ext_wq _ _ _ _ _ (by decide), ← ext_ext (s := 16) (t := 4) (n := 6) (m := 2) _ (by decide), hd]
  have e2 : (wq 8#6 q (low2 (fin6 a) (fin6 p) i)).extractLsb' 16 4 = a.extractLsb' 0 4 := by
    rw [ext_wq _ _ _ _ _ (by decide), ← ext_ext (s := 16) (t := 0) (n := 6) (m := 4) _ (by decide), hd]
  have e3 : (wq 8#6 q (low2 (fin6 a) (fin6 p) i)).extractLsb' 14 2 = p.extractLsb' 4 2 := by
    rw [ext_wq _ _ _ _ _ (by decide), ← ext_ext (s := 10) (t := 4) (n := 6) (m := 2) _ (by decide), ha]
  have e4 : (wq 8#6 q (low2 (fin6 a) (fin6 p) i)).extractLsb' 10 4 = p.extractLsb' 0 4 := by
    rw [ext_wq _ _ _ _ _ (by decide), ← ext_ext (s := 10) (t := 0) (n := 6) (m := 4) _ (by decide), ha]
  rw [decodeTmov_eq _ (op_wq ..), qual_wq, rD_wq, hd, e1, e2, e3, e4, ext_wq _ _ _ 4 5 (by decide), low2_i _ _ _ 4 5 (by decide),
    bit_wq _ _ _ 9 (by decide), low2_bit _ _ _ 9 (by decide), ext_wq _ _ _ 0 4 (by decide), low2_i _ _ _ 0 4 (by decide)]
theorem tmov (q a u port) : Statement (.tmov q a u port) := by
  rintro - -
  show (decodeM (wq 8#6 q (low2 (fin6 (b6 a)) (fin6 (b2 u ++ BitVec.ofNat 4 port.val)) 0))).toOption = some _
  have hu : fin2 ((b2 u ++ BitVec.ofNat 4 port.val : BitVec 6).extractLsb' 4 2) = u := by rw [hi_2_4 _ _ 4 2 (by decide), ext_all, fin2_b2]
  have hq : (b2 u ++ BitVec.ofNat 4 port.val : BitVec 6).extractLsb' 0 4 = BitVec.ofNat 4 port.val := by rw [lo_2_4 _ _ 0 4 (by decide), ext_all]
  have hp : ∀ p : Fin 5, (BitVec.ofNat 4 p.val).toNat = p.val := by decide
  rw [tmov_fields, hu, hq]
  show (tmovOf q (fin6 (b6 a)) _ _ u (BitVec.ofNat 4 port.val) 0 false 0).toOption = _
  simp [tmovOf, Except.toOption, hp]
theorem tmovPort_word (q : Qual) (su : Fin 4) (sp : BitVec 4) (u : Fin 4) (port : Fin 5) :
    decodeM (wq 8#6 q (low2 (fin6 (b2 su ++ sp)) (fin6 (b2 u ++ BitVec.ofNat 4 port.val)) 0x200)) =
    if h : sp.toNat < 5 then .ok (.tmovPort q su (some ⟨sp.toNat, h⟩) u port)
    else if sp.toNat = 8 then .ok (.tmovPort q su none u port) else .error .reservedField := by
  have hu : fin2 ((b2 u ++ BitVec.ofNat 4 port.val : BitVec 6).extractLsb' 4 2) = u := by rw [hi_2_4 _ _ 4 2 (by decide), ext_all, fin2_b2]
  have hq : (b2 u ++ BitVec.ofNat 4 port.val : BitVec 6).extractLsb' 0 4 = BitVec.ofNat 4 port.val := by rw [lo_2_4 _ _ 0 4 (by decide), ext_all]
  have hp : ∀ p : Fin 5, (BitVec.ofNat 4 p.val).toNat = p.val := by decide
  rw [tmov_fields, hu, hq, hi_2_4 _ _ 4 2 (by decide), lo_2_4 _ _ 0 4 (by decide), ext_all, ext_all, fin2_b2]
  show tmovOf q _ su sp u (BitVec.ofNat 4 port.val) 0 true 0 = _
  simp [tmovOf, hp]
theorem tmovPort (q su src u port) : Statement (.tmovPort q su src u port) := by
  rintro - -
  cases src with
  | none =>
    show (decodeM (wq 8#6 q (low2 (fin6 (b2 su ++ 8#4)) (fin6 (b2 u ++ BitVec.ofNat 4 port.val)) 0x200))).toOption = some _
    rw [tmovPort_word]; rfl
  | some p =>
    show (decodeM (wq 8#6 q (low2 (fin6 (b2 su ++ BitVec.ofNat 4 p.val)) (fin6 (b2 u ++ BitVec.ofNat 4 port.val)) 0x200))).toOption = some _
    have hp : ∀ p : Fin 5, (BitVec.ofNat 4 p.val).toNat = p.val := by decide
    rw [tmovPort_word]; simp [hp, Except.toOption]
theorem token_field (tok : Option (Fin 16)) : (0#1 ++ tokBits tok ++ 0#4 : BitVec 10).extractLsb' 4 5 = tokBits tok ∧
    (0#1 ++ tokBits tok ++ 0#4 : BitVec 10).getLsbD 9 = false ∧ (0#1 ++ tokBits tok ++ 0#4 : BitVec 10).extractLsb' 0 4 = 0#4 :=
  ⟨(ext_hi _ _ (by decide)).trans ((ext_lo _ _ (by decide)).trans (ext_all _)), (bit_hi _ _ (by decide)).trans ((bit_hi _ _ (by decide)).trans rfl),
   (ext_lo _ _ (by decide)).trans (ext_all _)⟩
theorem cvtSplit (q a tok) : Statement (.cvtSplit q a tok) := by
  rintro - -
  show (decodeM (wq 8#6 q (low2 (fin6 (b6 a)) (fin6 12) (0#1 ++ tokBits tok ++ 0#4)))).toOption = some _
  obtain ⟨h1, h2, h3⟩ := token_field tok
  rw [tmov_fields, h1, h2, h3]
  show (if (false = true ∨ tokOk (tokBits tok) = false) then .error .reservedField else .ok (Instr.cvtSplit q (fin6 (b6 a)) (tokOf (tokBits tok))) : Except DecodeError Instr).toOption = _
  simp [Except.toOption]
theorem cvtJoin (q a tok) : Statement (.cvtJoin q a tok) := by
  rintro - -
  show (decodeM (wq 8#6 q (low2 (fin6 (b6 a)) (fin6 13) (0#1 ++ tokBits tok ++ 0#4)))).toOption = some _
  obtain ⟨h1, h2, h3⟩ := token_field tok
  rw [tmov_fields, h1, h2, h3]
  show (if (false = true ∨ tokOk (tokBits tok) = false) then .error .reservedField else .ok (Instr.cvtJoin q (fin6 (b6 a)) (tokOf (tokBits tok))) : Except DecodeError Instr).toOption = _
  simp [Except.toOption]
theorem cmpPack (q a tok) : Statement (.cmpPack q a tok) := by
  rintro - -
  show (decodeM (wq 8#6 q (low2 (fin6 (b6 a)) (fin6 28) (0#1 ++ tokBits tok ++ 0#4)))).toOption = some _
  obtain ⟨h1, h2, h3⟩ := token_field tok
  rw [tmov_fields, h1, h2, h3]
  show (if (false = true ∨ tokOk (tokBits tok) = false) then .error .reservedField else .ok (Instr.cmpPack q (fin6 (b6 a)) (tokOf (tokBits tok))) : Except DecodeError Instr).toOption = _
  simp [Except.toOption]
theorem xposeW32 (q a tok) : Statement (.xposeW32 q a tok) := by
  rintro - -
  show (decodeM (wq 8#6 q (low2 (fin6 (b6 a)) (fin6 44) (0#1 ++ tokBits tok ++ 0#4)))).toOption = some _
  obtain ⟨h1, h2, h3⟩ := token_field tok
  rw [tmov_fields, h1, h2, h3]
  show (if (false = true ∨ tokOk (tokBits tok) = false) then .error .reservedField else .ok (Instr.xposeW32 q (fin6 (b6 a)) (tokOf (tokBits tok))) : Except DecodeError Instr).toOption = _
  simp [Except.toOption]
theorem xposeW16 (q a tok) : Statement (.xposeW16 q a tok) := by
  rintro - -
  show (decodeM (wq 8#6 q (low2 (fin6 (b6 a)) (fin6 45) (0#1 ++ tokBits tok ++ 0#4)))).toOption = some _
  obtain ⟨h1, h2, h3⟩ := token_field tok
  rw [tmov_fields, h1, h2, h3]
  show (if (false = true ∨ tokOk (tokBits tok) = false) then .error .reservedField else .ok (Instr.xposeW16 q (fin6 (b6 a)) (tokOf (tokBits tok))) : Except DecodeError Instr).toOption = _
  simp [Except.toOption]
theorem layoutIm2col (q a tok) : Statement (.layoutIm2col q a tok) := by
  rintro - -
  show (decodeM (wq 8#6 q (low2 (fin6 (b6 a)) (fin6 60) (0#1 ++ tokBits tok ++ 0#4)))).toOption = some _
  obtain ⟨h1, h2, h3⟩ := token_field tok
  rw [tmov_fields, h1, h2, h3]
  show (if (false = true ∨ tokOk (tokBits tok) = false) then .error .reservedField else .ok (Instr.layoutIm2col q (fin6 (b6 a)) (tokOf (tokBits tok))) : Except DecodeError Instr).toOption = _
  simp [Except.toOption]
theorem addi (p d a imm) : Statement (.addi p d a imm) := by
  rintro - -
  show (decodeA (wi 34#6 d a imm p)).toOption = some _
  have row : ∀ w : BitVec 32, w.extractLsb' 26 6 = 34#6 → decodeA w = (.ok (.addi (fin2 (w.extractLsb' 0 2)) (iD w) (iA w) (w.extractLsb' 2 12))) := fun w h => by unfold decodeA; rw [h]; rfl
  rw [row _ (op_wi ..)]
  simp [Except.toOption]
theorem andi (p d a imm) : Statement (.andi p d a imm) := by
  rintro - -
  show (decodeA (wi 35#6 d a imm p)).toOption = some _
  have row : ∀ w : BitVec 32, w.extractLsb' 26 6 = 35#6 → decodeA w = (.ok (.andi (fin2 (w.extractLsb' 0 2)) (iD w) (iA w) (w.extractLsb' 2 12))) := fun w h => by unfold decodeA; rw [h]; rfl
  rw [row _ (op_wi ..)]
  simp [Except.toOption]
theorem ori (p d a imm) : Statement (.ori p d a imm) := by
  rintro - -
  show (decodeA (wi 36#6 d a imm p)).toOption = some _
  have row : ∀ w : BitVec 32, w.extractLsb' 26 6 = 36#6 → decodeA w = (.ok (.ori (fin2 (w.extractLsb' 0 2)) (iD w) (iA w) (w.extractLsb' 2 12))) := fun w h => by unfold decodeA; rw [h]; rfl
  rw [row _ (op_wi ..)]
  simp [Except.toOption]
theorem xori (p d a imm) : Statement (.xori p d a imm) := by
  rintro - -
  show (decodeA (wi 37#6 d a imm p)).toOption = some _
  have row : ∀ w : BitVec 32, w.extractLsb' 26 6 = 37#6 → decodeA w = (.ok (.xori (fin2 (w.extractLsb' 0 2)) (iD w) (iA w) (w.extractLsb' 2 12))) := fun w h => by unfold decodeA; rw [h]; rfl
  rw [row _ (op_wi ..)]
  simp [Except.toOption]
theorem slli (p d a sh) : Statement (.slli p d a sh) := by
  rintro - -
  show (decodeA (wi 38#6 d a (0#6 ++ sh) p)).toOption = some _
  have row : ∀ w : BitVec 32, w.extractLsb' 26 6 = 38#6 → decodeA w = (if low22 w &&& 0x3F00#22 = 0x0#22 then .ok (.slli (fin2 (w.extractLsb' 0 2)) (iD w) (iA w) (w.extractLsb' 2 6))
    else .error .reservedField) := fun w h => by unfold decodeA; rw [h]; rfl
  rw [row _ (op_wi ..), if_pos (shift_field _ ((field_wi _ _ _ _ _ 6 6 (by decide)).trans (by simp)))]
  have h := field_wi 38#6 d a (0#6 ++ sh) p 0 6 (by decide)
  simp at h
  simp [h, Except.toOption]
theorem srli (p d a sh) : Statement (.srli p d a sh) := by
  rintro - -
  show (decodeA (wi 39#6 d a (0#6 ++ sh) p)).toOption = some _
  have row : ∀ w : BitVec 32, w.extractLsb' 26 6 = 39#6 → decodeA w = (if low22 w &&& 0x3F00#22 = 0x0#22 then .ok (.srli (fin2 (w.extractLsb' 0 2)) (iD w) (iA w) (w.extractLsb' 2 6))
    else .error .reservedField) := fun w h => by unfold decodeA; rw [h]; rfl
  rw [row _ (op_wi ..), if_pos (shift_field _ ((field_wi _ _ _ _ _ 6 6 (by decide)).trans (by simp)))]
  have h := field_wi 39#6 d a (0#6 ++ sh) p 0 6 (by decide)
  simp at h
  simp [h, Except.toOption]
theorem srai (p d a sh) : Statement (.srai p d a sh) := by
  rintro - -
  show (decodeA (wi 40#6 d a (0#6 ++ sh) p)).toOption = some _
  have row : ∀ w : BitVec 32, w.extractLsb' 26 6 = 40#6 → decodeA w = (if low22 w &&& 0x3F00#22 = 0x0#22 then .ok (.srai (fin2 (w.extractLsb' 0 2)) (iD w) (iA w) (w.extractLsb' 2 6))
    else .error .reservedField) := fun w h => by unfold decodeA; rw [h]; rfl
  rw [row _ (op_wi ..), if_pos (shift_field _ ((field_wi _ _ _ _ _ 6 6 (by decide)).trans (by simp)))]
  have h := field_wi 40#6 d a (0#6 ++ sh) p 0 6 (by decide)
  simp at h
  simp [h, Except.toOption]
theorem cmpi (p cond pd a imm) : Statement (.cmpi p cond pd a imm) := by
  rintro - -
  show (decodeA (wi 41#6 (fin6 (cond ++ b3 pd)) a imm p)).toOption = some _
  have row : ∀ w : BitVec 32, w.extractLsb' 26 6 = 41#6 → decodeA w = (.ok (.cmpi (fin2 (w.extractLsb' 0 2)) (w.extractLsb' 23 3) (fin3 (w.extractLsb' 20 3)) (iA w) (w.extractLsb' 2 12))) := fun w h => by unfold decodeA; rw [h]; rfl
  rw [row _ (op_wi ..)]
  simp [Except.toOption]
theorem lui (d imm) : Statement (.lui d imm) := by
  rintro - -
  show (decodeA (w20 42#6 d imm)).toOption = some _
  have row : ∀ w : BitVec 32, w.extractLsb' 26 6 = 42#6 → decodeA w = (.ok (.lui (iD w) (w.extractLsb' 0 20))) := fun w h => by unfold decodeA; rw [h]; rfl
  rw [row _ (op_w20 ..)]
  simp [Except.toOption]
theorem addpc (d imm) : Statement (.addpc d imm) := by
  rintro - -
  show (decodeA (w20 43#6 d imm)).toOption = some _
  have row : ∀ w : BitVec 32, w.extractLsb' 26 6 = 43#6 → decodeA w = (.ok (.addpc (iD w) (w.extractLsb' 0 20))) := fun w h => by unfold decodeA; rw [h]; rfl
  rw [row _ (op_w20 ..)]
  simp [Except.toOption]
theorem nop (e) : Statement (.nop e) := by
  rintro hw -
  replace hw : decide (e.mod = 0#4) = true := hw
  refine decode_entryV (op := 0) rfl (by decide) (e := .nop e) ?_ (.inl rfl) (Nat.zero_le _)
  show (if (e.mod == 0#4) = true then some (Entry.nop e) else none) = _
  simp_all
theorem fadd (e d a b) : Statement (.fadd e d a b) := by
  rintro hw -
  replace hw : (e.classOk 1 && d.destOk false && a.sourceOk && b.sourceOk && fpModOk false e.mod : Bool) = true := hw
  simp only [Bool.and_eq_true, VHead.classOk, decide_eq_true_eq] at hw
  refine decode_entryV (op := 1) rfl (by decide) (e := .fadd e d a b) ?_ (by simp_all) (by simp_all)
  show (formDAB .fadd false (fpModOk false e.mod) _) = _
  simp [formDAB, hw]
theorem fsub (e d a b) : Statement (.fsub e d a b) := by
  rintro hw -
  replace hw : (e.classOk 1 && d.destOk false && a.sourceOk && b.sourceOk && fpModOk false e.mod : Bool) = true := hw
  simp only [Bool.and_eq_true, VHead.classOk, decide_eq_true_eq] at hw
  refine decode_entryV (op := 2) rfl (by decide) (e := .fsub e d a b) ?_ (by simp_all) (by simp_all)
  show (formDAB .fsub false (fpModOk false e.mod) _) = _
  simp [formDAB, hw]
theorem fmul (e d a b) : Statement (.fmul e d a b) := by
  rintro hw -
  replace hw : (e.classOk 2 && d.destOk false && a.sourceOk && b.sourceOk && fpModOk false e.mod : Bool) = true := hw
  simp only [Bool.and_eq_true, VHead.classOk, decide_eq_true_eq] at hw
  refine decode_entryV (op := 3) rfl (by decide) (e := .fmul e d a b) ?_ (by simp_all) (by simp_all)
  show (formDAB .fmul false (fpModOk false e.mod) _) = _
  simp [formDAB, hw]
theorem fma (e d a b c) : Statement (.fma e d a b c) := by
  rintro hw -
  replace hw : (e.classOk 2 && d.destOk false && a.sourceOk && b.sourceOk && c.sourceOk && fpModOk false e.mod : Bool) = true := hw
  simp only [Bool.and_eq_true, VHead.classOk, decide_eq_true_eq] at hw
  refine decode_entryV (op := 4) rfl (by decide) (e := .fma e d a b c) ?_ (by simp_all) (by simp_all)
  show (formDABC .fma (fpModOk false e.mod) _) = _
  simp [formDABC, hw]
theorem fms (e d a b c) : Statement (.fms e d a b c) := by
  rintro hw -
  replace hw : (e.classOk 2 && d.destOk false && a.sourceOk && b.sourceOk && c.sourceOk && fpModOk false e.mod : Bool) = true := hw
  simp only [Bool.and_eq_true, VHead.classOk, decide_eq_true_eq] at hw
  refine decode_entryV (op := 5) rfl (by decide) (e := .fms e d a b c) ?_ (by simp_all) (by simp_all)
  show (formDABC .fms (fpModOk false e.mod) _) = _
  simp [formDABC, hw]
theorem fnma (e d a b c) : Statement (.fnma e d a b c) := by
  rintro hw -
  replace hw : (e.classOk 2 && d.destOk false && a.sourceOk && b.sourceOk && c.sourceOk && fpModOk false e.mod : Bool) = true := hw
  simp only [Bool.and_eq_true, VHead.classOk, decide_eq_true_eq] at hw
  refine decode_entryV (op := 6) rfl (by decide) (e := .fnma e d a b c) ?_ (by simp_all) (by simp_all)
  show (formDABC .fnma (fpModOk false e.mod) _) = _
  simp [formDABC, hw]
theorem fmin (e d a b) : Statement (.fmin e d a b) := by
  rintro hw -
  replace hw : (e.classOk 1 && d.destOk false && a.sourceOk && b.sourceOk && fpModOk false e.mod : Bool) = true := hw
  simp only [Bool.and_eq_true, VHead.classOk, decide_eq_true_eq] at hw
  refine decode_entryV (op := 7) rfl (by decide) (e := .fmin e d a b) ?_ (by simp_all) (by simp_all)
  show (formDAB .fmin false (fpModOk false e.mod) _) = _
  simp [formDAB, hw]
theorem fmax (e d a b) : Statement (.fmax e d a b) := by
  rintro hw -
  replace hw : (e.classOk 1 && d.destOk false && a.sourceOk && b.sourceOk && fpModOk false e.mod : Bool) = true := hw
  simp only [Bool.and_eq_true, VHead.classOk, decide_eq_true_eq] at hw
  refine decode_entryV (op := 8) rfl (by decide) (e := .fmax e d a b) ?_ (by simp_all) (by simp_all)
  show (formDAB .fmax false (fpModOk false e.mod) _) = _
  simp [formDAB, hw]
theorem fabs (e d a) : Statement (.fabs e d a) := by
  rintro hw -
  replace hw : (e.classOk 0 && d.destOk false && a.sourceOk && fpModOk false e.mod : Bool) = true := hw
  simp only [Bool.and_eq_true, VHead.classOk, decide_eq_true_eq] at hw
  refine decode_entryV (op := 9) rfl (by decide) (e := .fabs e d a) ?_ (by simp_all) (by simp_all)
  show (formDA .fabs false (fpModOk false e.mod) _) = _
  simp [formDA, hw]
theorem fneg (e d a) : Statement (.fneg e d a) := by
  rintro hw -
  replace hw : (e.classOk 0 && d.destOk false && a.sourceOk && fpModOk false e.mod : Bool) = true := hw
  simp only [Bool.and_eq_true, VHead.classOk, decide_eq_true_eq] at hw
  refine decode_entryV (op := 10) rfl (by decide) (e := .fneg e d a) ?_ (by simp_all) (by simp_all)
  show (formDA .fneg false (fpModOk false e.mod) _) = _
  simp [formDA, hw]
theorem frcp (e d a) : Statement (.frcp e d a) := by
  rintro hw -
  replace hw : (e.classOk 3 && d.destOk false && a.sourceOk && fpModOk false e.mod : Bool) = true := hw
  simp only [Bool.and_eq_true, VHead.classOk, decide_eq_true_eq] at hw
  refine decode_entryV (op := 11) rfl (by decide) (e := .frcp e d a) ?_ (by simp_all) (by simp_all)
  show (formDA .frcp false (fpModOk false e.mod) _) = _
  simp [formDA, hw]
theorem frsq (e d a) : Statement (.frsq e d a) := by
  rintro hw -
  replace hw : (e.classOk 3 && d.destOk false && a.sourceOk && fpModOk false e.mod : Bool) = true := hw
  simp only [Bool.and_eq_true, VHead.classOk, decide_eq_true_eq] at hw
  refine decode_entryV (op := 12) rfl (by decide) (e := .frsq e d a) ?_ (by simp_all) (by simp_all)
  show (formDA .frsq false (fpModOk false e.mod) _) = _
  simp [formDA, hw]
theorem fsqrt (e d a) : Statement (.fsqrt e d a) := by
  rintro hw -
  replace hw : (e.classOk 3 && d.destOk false && a.sourceOk && fpModOk false e.mod : Bool) = true := hw
  simp only [Bool.and_eq_true, VHead.classOk, decide_eq_true_eq] at hw
  refine decode_entryV (op := 13) rfl (by decide) (e := .fsqrt e d a) ?_ (by simp_all) (by simp_all)
  show (formDA .fsqrt false (fpModOk false e.mod) _) = _
  simp [formDA, hw]
theorem fexp2 (e d a) : Statement (.fexp2 e d a) := by
  rintro hw -
  replace hw : (e.classOk 3 && d.destOk false && a.sourceOk && fpModOk false e.mod : Bool) = true := hw
  simp only [Bool.and_eq_true, VHead.classOk, decide_eq_true_eq] at hw
  refine decode_entryV (op := 14) rfl (by decide) (e := .fexp2 e d a) ?_ (by simp_all) (by simp_all)
  show (formDA .fexp2 false (fpModOk false e.mod) _) = _
  simp [formDA, hw]
theorem flog2 (e d a) : Statement (.flog2 e d a) := by
  rintro hw -
  replace hw : (e.classOk 3 && d.destOk false && a.sourceOk && fpModOk false e.mod : Bool) = true := hw
  simp only [Bool.and_eq_true, VHead.classOk, decide_eq_true_eq] at hw
  refine decode_entryV (op := 15) rfl (by decide) (e := .flog2 e d a) ?_ (by simp_all) (by simp_all)
  show (formDA .flog2 false (fpModOk false e.mod) _) = _
  simp [formDA, hw]
theorem fsig (e d a) : Statement (.fsig e d a) := by
  rintro hw -
  replace hw : (e.classOk 3 && d.destOk false && a.sourceOk && fpModOk false e.mod : Bool) = true := hw
  simp only [Bool.and_eq_true, VHead.classOk, decide_eq_true_eq] at hw
  refine decode_entryV (op := 16) rfl (by decide) (e := .fsig e d a) ?_ (by simp_all) (by simp_all)
  show (formDA .fsig false (fpModOk false e.mod) _) = _
  simp [formDA, hw]
theorem fcmp (e pd a b) : Statement (.fcmp e pd a b) := by
  rintro hw -
  replace hw : (e.classOk 1 && a.sourceOk && b.sourceOk && fpModOk true e.mod : Bool) = true := hw
  simp only [Bool.and_eq_true, VHead.classOk, decide_eq_true_eq] at hw
  refine decode_entryV (op := 17) rfl (by decide) (e := .fcmp e pd a b) ?_ (by simp_all) (by simp_all)
  show (formPAB .fcmp (fpModOk true e.mod) _) = _
  simp [formPAB, hw]
theorem fround (e d a) : Statement (.fround e d a) := by
  rintro hw -
  replace hw : (e.classOk 1 && d.destOk false && a.sourceOk && fpModOk true e.mod : Bool) = true := hw
  simp only [Bool.and_eq_true, VHead.classOk, decide_eq_true_eq] at hw
  refine decode_entryV (op := 18) rfl (by decide) (e := .fround e d a) ?_ (by simp_all) (by simp_all)
  show (formDA .fround false (fpModOk true e.mod) _) = _
  simp [formDA, hw]
theorem scacc (e d a b c) : Statement (.scacc e d a b c) := by
  rintro hw -
  replace hw : (e.classOk 2 && d.destOk false && a.sourceOk && b.sourceOk && c.sourceOk && (e.mod = 0#4) : Bool) = true := hw
  simp only [Bool.and_eq_true, VHead.classOk, decide_eq_true_eq] at hw
  refine decode_entryV (op := 20) rfl (by decide) (e := .scacc e d a b c) ?_ (by simp_all) (by simp_all)
  show (formDABC .scacc (e.mod == 0#4) _) = _
  simp [formDABC, hw]
theorem qnt (e d a b c) : Statement (.qnt e d a b c) := by
  rintro hw -
  replace hw : (e.classOk 2 && d.destOk false && a.sourceOk && b.sourceOk && c.sourceOk && (e.mod ≤ 3#4) : Bool) = true := hw
  simp only [Bool.and_eq_true, VHead.classOk, decide_eq_true_eq] at hw
  refine decode_entryV (op := 21) rfl (by decide) (e := .qnt e d a b c) ?_ (by simp_all) (by simp_all)
  show (formDABC .qnt (e.mod ≤ 3#4) _) = _
  simp [formDABC, hw]
theorem fsum (e d a) : Statement (.fsum e d a) := by
  rintro hw -
  replace hw : (e.classOk 3 && d.destOk true && a.sourceOk && fpModOk false e.mod : Bool) = true := hw
  simp only [Bool.and_eq_true, VHead.classOk, decide_eq_true_eq] at hw
  refine decode_entryV (op := 22) rfl (by decide) (e := .fsum e d a) ?_ (by simp_all) (by simp_all)
  show (formDA .fsum true (fpModOk false e.mod) _) = _
  simp [formDA, hw]
theorem fmaxr (e d a) : Statement (.fmaxr e d a) := by
  rintro hw -
  replace hw : (e.classOk 3 && d.destOk true && a.sourceOk && fpModOk false e.mod : Bool) = true := hw
  simp only [Bool.and_eq_true, VHead.classOk, decide_eq_true_eq] at hw
  refine decode_entryV (op := 23) rfl (by decide) (e := .fmaxr e d a) ?_ (by simp_all) (by simp_all)
  show (formDA .fmaxr true (fpModOk false e.mod) _) = _
  simp [formDA, hw]
theorem fscan (e d a) : Statement (.fscan e d a) := by
  rintro hw -
  replace hw : (e.classOk 3 && d.destOk false && a.sourceOk && fpModOk false e.mod : Bool) = true := hw
  simp only [Bool.and_eq_true, VHead.classOk, decide_eq_true_eq] at hw
  refine decode_entryV (op := 24) rfl (by decide) (e := .fscan e d a) ?_ (by simp_all) (by simp_all)
  show (formDA .fscan false (fpModOk false e.mod) _) = _
  simp [formDA, hw]
theorem iadd (e d a b) : Statement (.iadd e d a b) := by
  rintro hw -
  replace hw : (e.classOk 0 && d.destOk false && a.sourceOk && b.sourceOk && (e.mod ≤ 2#4) : Bool) = true := hw
  simp only [Bool.and_eq_true, VHead.classOk, decide_eq_true_eq] at hw
  refine decode_entryV (op := 48) rfl (by decide) (e := .iadd e d a b) ?_ (by simp_all) (by simp_all)
  show (formDAB .iadd false (e.mod ≤ 2#4) _) = _
  simp [formDAB, hw]
theorem isub (e d a b) : Statement (.isub e d a b) := by
  rintro hw -
  replace hw : (e.classOk 0 && d.destOk false && a.sourceOk && b.sourceOk && (e.mod ≤ 2#4) : Bool) = true := hw
  simp only [Bool.and_eq_true, VHead.classOk, decide_eq_true_eq] at hw
  refine decode_entryV (op := 49) rfl (by decide) (e := .isub e d a b) ?_ (by simp_all) (by simp_all)
  show (formDAB .isub false (e.mod ≤ 2#4) _) = _
  simp [formDAB, hw]
theorem imul (e d a b) : Statement (.imul e d a b) := by
  rintro hw -
  replace hw : (e.classOk 1 && d.destOk false && a.sourceOk && b.sourceOk && (e.mod ≤ 3#4) : Bool) = true := hw
  simp only [Bool.and_eq_true, VHead.classOk, decide_eq_true_eq] at hw
  refine decode_entryV (op := 50) rfl (by decide) (e := .imul e d a b) ?_ (by simp_all) (by simp_all)
  show (formDAB .imul false (e.mod ≤ 3#4) _) = _
  simp [formDAB, hw]
theorem imad (e d a b c) : Statement (.imad e d a b c) := by
  rintro hw -
  replace hw : (e.classOk 1 && d.destOk false && a.sourceOk && b.sourceOk && c.sourceOk && (e.mod ≤ 1#4) : Bool) = true := hw
  simp only [Bool.and_eq_true, VHead.classOk, decide_eq_true_eq] at hw
  refine decode_entryV (op := 51) rfl (by decide) (e := .imad e d a b c) ?_ (by simp_all) (by simp_all)
  show (formDABC .imad (e.mod ≤ 1#4) _) = _
  simp [formDABC, hw]
theorem imin (e d a b) : Statement (.imin e d a b) := by
  rintro hw -
  replace hw : (e.classOk 0 && d.destOk false && a.sourceOk && b.sourceOk && (e.mod = 0#4) : Bool) = true := hw
  simp only [Bool.and_eq_true, VHead.classOk, decide_eq_true_eq] at hw
  refine decode_entryV (op := 52) rfl (by decide) (e := .imin e d a b) ?_ (by simp_all) (by simp_all)
  show (formDAB .imin false (e.mod == 0#4) _) = _
  simp [formDAB, hw]
theorem imax (e d a b) : Statement (.imax e d a b) := by
  rintro hw -
  replace hw : (e.classOk 0 && d.destOk false && a.sourceOk && b.sourceOk && (e.mod = 0#4) : Bool) = true := hw
  simp only [Bool.and_eq_true, VHead.classOk, decide_eq_true_eq] at hw
  refine decode_entryV (op := 53) rfl (by decide) (e := .imax e d a b) ?_ (by simp_all) (by simp_all)
  show (formDAB .imax false (e.mod == 0#4) _) = _
  simp [formDAB, hw]
theorem iminu (e d a b) : Statement (.iminu e d a b) := by
  rintro hw -
  replace hw : (e.classOk 0 && d.destOk false && a.sourceOk && b.sourceOk && (e.mod = 0#4) : Bool) = true := hw
  simp only [Bool.and_eq_true, VHead.classOk, decide_eq_true_eq] at hw
  refine decode_entryV (op := 54) rfl (by decide) (e := .iminu e d a b) ?_ (by simp_all) (by simp_all)
  show (formDAB .iminu false (e.mod == 0#4) _) = _
  simp [formDAB, hw]
theorem imaxu (e d a b) : Statement (.imaxu e d a b) := by
  rintro hw -
  replace hw : (e.classOk 0 && d.destOk false && a.sourceOk && b.sourceOk && (e.mod = 0#4) : Bool) = true := hw
  simp only [Bool.and_eq_true, VHead.classOk, decide_eq_true_eq] at hw
  refine decode_entryV (op := 55) rfl (by decide) (e := .imaxu e d a b) ?_ (by simp_all) (by simp_all)
  show (formDAB .imaxu false (e.mod == 0#4) _) = _
  simp [formDAB, hw]
theorem iabs (e d a) : Statement (.iabs e d a) := by
  rintro hw -
  replace hw : (e.classOk 0 && d.destOk false && a.sourceOk && (e.mod ≤ 1#4) : Bool) = true := hw
  simp only [Bool.and_eq_true, VHead.classOk, decide_eq_true_eq] at hw
  refine decode_entryV (op := 56) rfl (by decide) (e := .iabs e d a) ?_ (by simp_all) (by simp_all)
  show (formDA .iabs false (e.mod ≤ 1#4) _) = _
  simp [formDA, hw]
theorem vecSll (e d a b) : Statement (.vecSll e d a b) := by
  rintro hw -
  replace hw : (e.classOk 0 && d.destOk false && a.sourceOk && b.sourceOk && (e.mod = 0#4) : Bool) = true := hw
  simp only [Bool.and_eq_true, VHead.classOk, decide_eq_true_eq] at hw
  refine decode_entryV (op := 57) rfl (by decide) (e := .vecSll e d a b) ?_ (by simp_all) (by simp_all)
  show (formDAB .vecSll false (e.mod == 0#4) _) = _
  simp [formDAB, hw]
theorem vecSrl (e d a b) : Statement (.vecSrl e d a b) := by
  rintro hw -
  replace hw : (e.classOk 0 && d.destOk false && a.sourceOk && b.sourceOk && (e.mod = 0#4) : Bool) = true := hw
  simp only [Bool.and_eq_true, VHead.classOk, decide_eq_true_eq] at hw
  refine decode_entryV (op := 58) rfl (by decide) (e := .vecSrl e d a b) ?_ (by simp_all) (by simp_all)
  show (formDAB .vecSrl false (e.mod == 0#4) _) = _
  simp [formDAB, hw]
theorem vecSra (e d a b) : Statement (.vecSra e d a b) := by
  rintro hw -
  replace hw : (e.classOk 0 && d.destOk false && a.sourceOk && b.sourceOk && (e.mod = 0#4) : Bool) = true := hw
  simp only [Bool.and_eq_true, VHead.classOk, decide_eq_true_eq] at hw
  refine decode_entryV (op := 59) rfl (by decide) (e := .vecSra e d a b) ?_ (by simp_all) (by simp_all)
  show (formDAB .vecSra false (e.mod == 0#4) _) = _
  simp [formDAB, hw]
theorem vecAnd (e d a b) : Statement (.vecAnd e d a b) := by
  rintro hw -
  replace hw : (e.classOk 0 && d.destOk false && a.sourceOk && b.sourceOk && (e.mod = 0#4) : Bool) = true := hw
  simp only [Bool.and_eq_true, VHead.classOk, decide_eq_true_eq] at hw
  refine decode_entryV (op := 60) rfl (by decide) (e := .vecAnd e d a b) ?_ (by simp_all) (by simp_all)
  show (formDAB .vecAnd false (e.mod == 0#4) _) = _
  simp [formDAB, hw]
theorem vecOr (e d a b) : Statement (.vecOr e d a b) := by
  rintro hw -
  replace hw : (e.classOk 0 && d.destOk false && a.sourceOk && b.sourceOk && (e.mod = 0#4) : Bool) = true := hw
  simp only [Bool.and_eq_true, VHead.classOk, decide_eq_true_eq] at hw
  refine decode_entryV (op := 61) rfl (by decide) (e := .vecOr e d a b) ?_ (by simp_all) (by simp_all)
  show (formDAB .vecOr false (e.mod == 0#4) _) = _
  simp [formDAB, hw]
theorem vecXor (e d a b) : Statement (.vecXor e d a b) := by
  rintro hw -
  replace hw : (e.classOk 0 && d.destOk false && a.sourceOk && b.sourceOk && (e.mod = 0#4) : Bool) = true := hw
  simp only [Bool.and_eq_true, VHead.classOk, decide_eq_true_eq] at hw
  refine decode_entryV (op := 62) rfl (by decide) (e := .vecXor e d a b) ?_ (by simp_all) (by simp_all)
  show (formDAB .vecXor false (e.mod == 0#4) _) = _
  simp [formDAB, hw]
theorem vecAndn (e d a b) : Statement (.vecAndn e d a b) := by
  rintro hw -
  replace hw : (e.classOk 0 && d.destOk false && a.sourceOk && b.sourceOk && (e.mod = 0#4) : Bool) = true := hw
  simp only [Bool.and_eq_true, VHead.classOk, decide_eq_true_eq] at hw
  refine decode_entryV (op := 63) rfl (by decide) (e := .vecAndn e d a b) ?_ (by simp_all) (by simp_all)
  show (formDAB .vecAndn false (e.mod == 0#4) _) = _
  simp [formDAB, hw]
theorem not (e d a) : Statement (.not e d a) := by
  rintro hw -
  replace hw : (e.classOk 0 && d.destOk false && a.sourceOk && (e.mod = 0#4) : Bool) = true := hw
  simp only [Bool.and_eq_true, VHead.classOk, decide_eq_true_eq] at hw
  refine decode_entryV (op := 64) rfl (by decide) (e := .not e d a) ?_ (by simp_all) (by simp_all)
  show (formDA .not false (e.mod == 0#4) _) = _
  simp [formDA, hw]
theorem vecPopc (e d a) : Statement (.vecPopc e d a) := by
  rintro hw -
  replace hw : (e.classOk 0 && d.destOk false && a.sourceOk && (e.mod = 0#4) : Bool) = true := hw
  simp only [Bool.and_eq_true, VHead.classOk, decide_eq_true_eq] at hw
  refine decode_entryV (op := 65) rfl (by decide) (e := .vecPopc e d a) ?_ (by simp_all) (by simp_all)
  show (formDA .vecPopc false (e.mod == 0#4) _) = _
  simp [formDA, hw]
theorem vecClz (e d a) : Statement (.vecClz e d a) := by
  rintro hw -
  replace hw : (e.classOk 0 && d.destOk false && a.sourceOk && (e.mod = 0#4) : Bool) = true := hw
  simp only [Bool.and_eq_true, VHead.classOk, decide_eq_true_eq] at hw
  refine decode_entryV (op := 66) rfl (by decide) (e := .vecClz e d a) ?_ (by simp_all) (by simp_all)
  show (formDA .vecClz false (e.mod == 0#4) _) = _
  simp [formDA, hw]
theorem icmp (e pd a b) : Statement (.icmp e pd a b) := by
  rintro hw -
  replace hw : (e.classOk 0 && a.sourceOk && b.sourceOk && (e.mod ≤ 7#4) : Bool) = true := hw
  simp only [Bool.and_eq_true, VHead.classOk, decide_eq_true_eq] at hw
  refine decode_entryV (op := 67) rfl (by decide) (e := .icmp e pd a b) ?_ (by simp_all) (by simp_all)
  show (formPAB .icmp (e.mod ≤ 7#4) _) = _
  simp [formPAB, hw]
theorem dot8 (e d a b c) : Statement (.dot8 e d a b c) := by
  rintro hw -
  replace hw : (e.classOk 2 && d.destOk false && a.sourceOk && b.sourceOk && c.sourceOk && (e.mod ≤ 7#4) : Bool) = true := hw
  simp only [Bool.and_eq_true, VHead.classOk, decide_eq_true_eq] at hw
  refine decode_entryV (op := 68) rfl (by decide) (e := .dot8 e d a b c) ?_ (by simp_all) (by simp_all)
  show (formDABC .dot8 (e.mod ≤ 7#4) _) = _
  simp [formDABC, hw]
theorem isum (e d a) : Statement (.isum e d a) := by
  rintro hw -
  replace hw : (e.classOk 3 && d.destOk true && a.sourceOk && (e.mod = 0#4) : Bool) = true := hw
  simp only [Bool.and_eq_true, VHead.classOk, decide_eq_true_eq] at hw
  refine decode_entryV (op := 69) rfl (by decide) (e := .isum e d a) ?_ (by simp_all) (by simp_all)
  show (formDA .isum true (e.mod == 0#4) _) = _
  simp [formDA, hw]
theorem iscan (e d a) : Statement (.iscan e d a) := by
  rintro hw -
  replace hw : (e.classOk 3 && d.destOk false && a.sourceOk && (e.mod = 0#4) : Bool) = true := hw
  simp only [Bool.and_eq_true, VHead.classOk, decide_eq_true_eq] at hw
  refine decode_entryV (op := 70) rfl (by decide) (e := .iscan e d a) ?_ (by simp_all) (by simp_all)
  show (formDA .iscan false (e.mod == 0#4) _) = _
  simp [formDA, hw]
theorem mov (e d a) : Statement (.mov e d a) := by
  rintro hw -
  replace hw : (e.classOk 0 && d.destOk false && a.sourceOk && (e.mod = 0#4) : Bool) = true := hw
  simp only [Bool.and_eq_true, VHead.classOk, decide_eq_true_eq] at hw
  refine decode_entryV (op := 96) rfl (by decide) (e := .mov e d a) ?_ (by simp_all) (by simp_all)
  show (formDA .mov false (e.mod == 0#4) _) = _
  simp [formDA, hw]
theorem vsel (e d a b) : Statement (.vsel e d a b) := by
  rintro hw -
  replace hw : (e.classOk 0 && d.destOk false && a.sourceOk && b.sourceOk && (e.mod = 0#4) : Bool) = true := hw
  simp only [Bool.and_eq_true, VHead.classOk, decide_eq_true_eq] at hw
  refine decode_entryV (op := 97) rfl (by decide) (e := .vsel e d a b) ?_ (by simp_all) (by simp_all)
  show (formDAB .vsel false (e.mod == 0#4) _) = _
  simp [formDAB, hw]
theorem perm (e d a b) : Statement (.perm e d a b) := by
  rintro hw -
  replace hw : (e.classOk 1 && d.destOk false && a.sourceOk && b.sourceOk && (e.mod = 0#4) : Bool) = true := hw
  simp only [Bool.and_eq_true, VHead.classOk, decide_eq_true_eq] at hw
  refine decode_entryV (op := 98) rfl (by decide) (e := .perm e d a b) ?_ (by simp_all) (by simp_all)
  show (formDAB .perm false (e.mod == 0#4) _) = _
  simp [formDAB, hw]
theorem bcast (e d a b) : Statement (.bcast e d a b) := by
  rintro hw -
  replace hw : (e.classOk 1 && d.destOk false && a.sourceOk && b.sourceOk && (e.mod = 0#4) : Bool) = true := hw
  simp only [Bool.and_eq_true, VHead.classOk, decide_eq_true_eq] at hw
  refine decode_entryV (op := 99) rfl (by decide) (e := .bcast e d a b) ?_ (by simp_all) (by simp_all)
  show (formDAB .bcast false (e.mod == 0#4) _) = _
  simp [formDAB, hw]
theorem vpand (e pd pa pb) : Statement (.vpand e pd pa pb) := by
  rintro hw -
  replace hw : (e.classOk 0 && (e.mod = 0#4) : Bool) = true := hw
  simp only [Bool.and_eq_true, VHead.classOk, decide_eq_true_eq] at hw
  refine decode_entryV (op := 100) rfl (by decide) (e := .vpand e pd pa pb) ?_ (by simp_all) (by simp_all)
  show (formPPP .vpand  _) = _
  simp [formPPP, hw]
theorem vpor (e pd pa pb) : Statement (.vpor e pd pa pb) := by
  rintro hw -
  replace hw : (e.classOk 0 && (e.mod = 0#4) : Bool) = true := hw
  simp only [Bool.and_eq_true, VHead.classOk, decide_eq_true_eq] at hw
  refine decode_entryV (op := 101) rfl (by decide) (e := .vpor e pd pa pb) ?_ (by simp_all) (by simp_all)
  show (formPPP .vpor  _) = _
  simp [formPPP, hw]
theorem vpxor (e pd pa pb) : Statement (.vpxor e pd pa pb) := by
  rintro hw -
  replace hw : (e.classOk 0 && (e.mod = 0#4) : Bool) = true := hw
  simp only [Bool.and_eq_true, VHead.classOk, decide_eq_true_eq] at hw
  refine decode_entryV (op := 102) rfl (by decide) (e := .vpxor e pd pa pb) ?_ (by simp_all) (by simp_all)
  show (formPPP .vpxor  _) = _
  simp [formPPP, hw]
theorem tos (e d a b) : Statement (.tos e d a b) := by
  rintro hw -
  replace hw : (e.classOk 1 && d.destOk true && a.sourceOk && b.sourceOk && (e.mod = 0#4) : Bool) = true := hw
  simp only [Bool.and_eq_true, VHead.classOk, decide_eq_true_eq] at hw
  refine decode_entryV (op := 105) rfl (by decide) (e := .tos e d a b) ?_ (by simp_all) (by simp_all)
  show (formDAB .tos true (e.mod == 0#4) _) = _
  simp [formDAB, hw]
theorem ldW (e data addr imm fmt) : Statement (.ldW e data addr imm fmt) := by
  rintro hw -
  replace hw : (e.classOk 3 && data.destOk true && addr.sourceOk && fmt.plain false : Bool) = true := hw
  simp only [Bool.and_eq_true, MHead.classOk, decide_eq_true_eq] at hw
  refine decode_entryM (op := 128) rfl (by decide) (e := .ldW e data addr imm fmt) ?_ (by simp_all) (by simp_all)
  show (formLd .ldW false true _) = _
  simp [formLd, hw]
theorem ldA (e data addr imm fmt) : Statement (.ldA e data addr imm fmt) := by
  rintro hw -
  replace hw : (e.classOk 3 && data.destOk true && addr.sourceOk && fmt.plain false : Bool) = true := hw
  simp only [Bool.and_eq_true, MHead.classOk, decide_eq_true_eq] at hw
  refine decode_entryM (op := 129) rfl (by decide) (e := .ldA e data addr imm fmt) ?_ (by simp_all) (by simp_all)
  show (formLd .ldA false true _) = _
  simp [formLd, hw]
theorem ldC (e data addr imm fmt) : Statement (.ldC e data addr imm fmt) := by
  rintro hw -
  replace hw : (e.classOk 2 && data.destOk true && addr.sourceOk && fmt.plain true : Bool) = true := hw
  simp only [Bool.and_eq_true, MHead.classOk, decide_eq_true_eq] at hw
  refine decode_entryM (op := 130) rfl (by decide) (e := .ldC e data addr imm fmt) ?_ (by simp_all) (by simp_all)
  show (formLd .ldC true true _) = _
  simp [formLd, hw]
theorem ldY (e data addr imm fmt) : Statement (.ldY e data addr imm fmt) := by
  rintro hw -
  replace hw : (e.classOk 4 && data.destOk true && addr.sourceOk && fmt.plain false : Bool) = true := hw
  simp only [Bool.and_eq_true, MHead.classOk, decide_eq_true_eq] at hw
  refine decode_entryM (op := 131) rfl (by decide) (e := .ldY e data addr imm fmt) ?_ (by simp_all) (by simp_all)
  show (formLd .ldY false true _) = _
  simp [formLd, hw]
theorem stW (e data addr imm fmt) : Statement (.stW e data addr imm fmt) := by
  rintro hw -
  replace hw : (e.classOk 3 && data.sourceOk && addr.sourceOk && fmt.plain false : Bool) = true := hw
  simp only [Bool.and_eq_true, MHead.classOk, decide_eq_true_eq] at hw
  refine decode_entryM (op := 132) rfl (by decide) (e := .stW e data addr imm fmt) ?_ (by simp_all) (by simp_all)
  show (formLd .stW false false _) = _
  simp [formLd, hw]
theorem stA (e data addr imm fmt) : Statement (.stA e data addr imm fmt) := by
  rintro hw -
  replace hw : (e.classOk 3 && data.sourceOk && addr.sourceOk && fmt.plain false : Bool) = true := hw
  simp only [Bool.and_eq_true, MHead.classOk, decide_eq_true_eq] at hw
  refine decode_entryM (op := 133) rfl (by decide) (e := .stA e data addr imm fmt) ?_ (by simp_all) (by simp_all)
  show (formLd .stA false false _) = _
  simp [formLd, hw]
theorem stC (e data addr imm fmt) : Statement (.stC e data addr imm fmt) := by
  rintro hw -
  replace hw : (e.classOk 2 && data.sourceOk && addr.sourceOk && fmt.plain true : Bool) = true := hw
  simp only [Bool.and_eq_true, MHead.classOk, decide_eq_true_eq] at hw
  refine decode_entryM (op := 134) rfl (by decide) (e := .stC e data addr imm fmt) ?_ (by simp_all) (by simp_all)
  show (formLd .stC true false _) = _
  simp [formLd, hw]
theorem stY (e data addr imm fmt) : Statement (.stY e data addr imm fmt) := by
  rintro hw -
  replace hw : (e.classOk 4 && data.sourceOk && addr.sourceOk && fmt.plain false : Bool) = true := hw
  simp only [Bool.and_eq_true, MHead.classOk, decide_eq_true_eq] at hw
  refine decode_entryM (op := 135) rfl (by decide) (e := .stY e data addr imm fmt) ?_ (by simp_all) (by simp_all)
  show (formLd .stY false false _) = _
  simp [formLd, hw]
theorem pldW (e data addr imm k rne fmt) : Statement (.pldW e data addr imm k rne fmt) := by
  rintro hw -
  replace hw : (e.classOk 4 && data.destOk false && addr.sourceOk && planesOk k && fmt.pair : Bool) = true := hw
  simp only [Bool.and_eq_true, MHead.classOk, planesOk, decide_eq_true_eq] at hw
  refine decode_entryM (op := 136) rfl (by decide) (e := .pldW e data addr imm k rne fmt) ?_ (by simp_all) (by simp_all)
  show (formPld .pldW true _) = _
  cases rne <;> simp [formPld, hw]
theorem pldA (e data addr imm k rne fmt) : Statement (.pldA e data addr imm k rne fmt) := by
  rintro hw -
  replace hw : (e.classOk 4 && data.destOk false && addr.sourceOk && planesOk k && fmt.pair : Bool) = true := hw
  simp only [Bool.and_eq_true, MHead.classOk, planesOk, decide_eq_true_eq] at hw
  refine decode_entryM (op := 137) rfl (by decide) (e := .pldA e data addr imm k rne fmt) ?_ (by simp_all) (by simp_all)
  show (formPld .pldA true _) = _
  cases rne <;> simp [formPld, hw]
theorem pldY (e data addr imm k rne fmt) : Statement (.pldY e data addr imm k rne fmt) := by
  rintro hw -
  replace hw : (e.classOk 4 && data.destOk false && addr.sourceOk && planesOk k && fmt.pair : Bool) = true := hw
  simp only [Bool.and_eq_true, MHead.classOk, planesOk, decide_eq_true_eq] at hw
  refine decode_entryM (op := 138) rfl (by decide) (e := .pldY e data addr imm k rne fmt) ?_ (by simp_all) (by simp_all)
  show (formPld .pldY true _) = _
  cases rne <;> simp [formPld, hw]
theorem pstW (e data addr imm k rne fmt) : Statement (.pstW e data addr imm k rne fmt) := by
  rintro hw -
  replace hw : (e.classOk 4 && data.sourceOk && addr.sourceOk && planesOk k && fmt.pair : Bool) = true := hw
  simp only [Bool.and_eq_true, MHead.classOk, planesOk, decide_eq_true_eq] at hw
  refine decode_entryM (op := 139) rfl (by decide) (e := .pstW e data addr imm k rne fmt) ?_ (by simp_all) (by simp_all)
  show (formPld .pstW false _) = _
  cases rne <;> simp [formPld, hw]
theorem pstA (e data addr imm k rne fmt) : Statement (.pstA e data addr imm k rne fmt) := by
  rintro hw -
  replace hw : (e.classOk 4 && data.sourceOk && addr.sourceOk && planesOk k && fmt.pair : Bool) = true := hw
  simp only [Bool.and_eq_true, MHead.classOk, planesOk, decide_eq_true_eq] at hw
  refine decode_entryM (op := 140) rfl (by decide) (e := .pstA e data addr imm k rne fmt) ?_ (by simp_all) (by simp_all)
  show (formPld .pstA false _) = _
  cases rne <;> simp [formPld, hw]
theorem pstY (e data addr imm k rne fmt) : Statement (.pstY e data addr imm k rne fmt) := by
  rintro hw -
  replace hw : (e.classOk 4 && data.sourceOk && addr.sourceOk && planesOk k && fmt.pair : Bool) = true := hw
  simp only [Bool.and_eq_true, MHead.classOk, planesOk, decide_eq_true_eq] at hw
  refine decode_entryM (op := 141) rfl (by decide) (e := .pstY e data addr imm k rne fmt) ?_ (by simp_all) (by simp_all)
  show (formPld .pstY false _) = _
  cases rne <;> simp [formPld, hw]
theorem pupdAdd (e data addr imm k rne) : Statement (.pupdAdd e data addr imm k rne) := by
  rintro hw -
  replace hw : (e.classOk 4 && data.sourceOk && addr.sourceOk && planesOk k : Bool) = true := hw
  simp only [Bool.and_eq_true, MHead.classOk, planesOk, decide_eq_true_eq] at hw
  refine decode_entryM (op := 142) rfl (by decide) (e := .pupdAdd e data addr imm k rne) ?_ (by simp_all) (by simp_all)
  show (formPupd .pupdAdd false _) = _
  cases rne <;> simp [formPupd, hw]
theorem pupdAxpy (e data addr imm k rne) : Statement (.pupdAxpy e data addr imm k rne) := by
  rintro hw -
  replace hw : (e.classOk 4 && data.sourceOk && addr.sourceOk && planesOk k : Bool) = true := hw
  simp only [Bool.and_eq_true, MHead.classOk, planesOk, decide_eq_true_eq] at hw
  refine decode_entryM (op := 143) rfl (by decide) (e := .pupdAxpy e data addr imm k rne) ?_ (by simp_all) (by simp_all)
  show (formPupd .pupdAxpy false _) = _
  cases rne <;> simp [formPupd, hw]
theorem pupdMom (e data addr imm k rne) : Statement (.pupdMom e data addr imm k rne) := by
  rintro hw -
  replace hw : (e.classOk 4 && data.sourceOk && data.destOk false && addr.sourceOk && planesOk k : Bool) = true := hw
  simp only [Bool.and_eq_true, MHead.classOk, planesOk, decide_eq_true_eq] at hw
  refine decode_entryM (op := 144) rfl (by decide) (e := .pupdMom e data addr imm k rne) ?_ (by simp_all) (by simp_all)
  show (formPupd .pupdMom true _) = _
  cases rne <;> simp [formPupd, hw]
theorem fcvt (e d a b) : Statement (.fcvt e d a b) := by
  rintro hw -
  replace hw : (e.classOk 1 && d.destOk false && a.sourceOk && fcvtModOk e.mod && (if fcvtPair e.mod then b.sourceOk else b = .mat 0 .h 0) : Bool) = true := hw
  simp only [Bool.and_eq_true, VHead.classOk, decide_eq_true_eq] at hw
  refine decode_entryV (op := 0x13) rfl (by decide) (e := .fcvt e d a b) ?_ (by simp_all) (by simp_all)
  show (if e.mod = 7#4 ∨ e.mod = 0xB#4 ∨ 0xC#4 ≤ e.mod then none
    else if e.mod = 4#4 ∨ e.mod = 8#4 then formDAB .fcvt false true _
    else formDA (fun h d a => .fcvt h d a (.mat 0 .h 0)) false true _) = _
  obtain ⟨⟨⟨⟨h1, h2⟩, h3⟩, h4⟩, h5⟩ := hw
  simp only [fcvtModOk, Bool.and_eq_true, decide_eq_true_eq] at h4
  rw [if_neg (by rw [BitVec.le_def]; simp [h4.1.1, h4.1.2]; simpa [BitVec.lt_def] using h4.2)]
  split
  · rename_i h; rw [if_pos (by simpa [fcvtPair] using h)] at h5; simp [formDAB, h2, h3, h5]
  · rename_i h; rw [if_neg (by simpa [fcvtPair] using h)] at h5; simp at h5; simp [formDA, h2, h3, h5]
theorem vpnot (e pd pa) : Statement (.vpnot e pd pa) := by
  rintro hw -
  replace hw : (e.classOk 0 && (e.mod = 0#4) : Bool) = true := hw
  simp only [Bool.and_eq_true, VHead.classOk, decide_eq_true_eq] at hw
  refine decode_entryV (op := 103) rfl (by decide) (e := .vpnot e pd pa) ?_ (by simp_all) (by simp_all)
  show (match vpOf (vpBits pd), vpOf (vpBits pa) with
    | some d, some a => if (e.mod == 0#4) then some (Entry.vpnot e d a) else none
    | _, _ => none) = _
  simp [hw]
theorem vpcount (e d pa) : Statement (.vpcount e d pa) := by
  rintro hw -
  replace hw : (e.classOk 1 && d.destOk true && (e.mod = 0#4) : Bool) = true := hw
  simp only [Bool.and_eq_true, VHead.classOk, decide_eq_true_eq] at hw
  refine decode_entryV (op := 104) rfl (by decide) (e := .vpcount e d pa) ?_ (by simp_all) (by simp_all)
  show (match dstOf true (operandBits d), vpOf (vpBits pa) with
    | some d, some a => if (e.mod == 0#4) then some (Entry.vpcount e d a) else none
    | _, _ => none) = _
  simp [hw]
theorem mxgoG (e split tv tok) : Statement (.mxgoG e split tv tok) := by
  rintro hw -
  replace hw : (e.classOk 0 && (e.mod = 0#4) : Bool) = true := hw
  simp only [Bool.and_eq_true, VHead.classOk, decide_eq_true_eq] at hw
  refine decode_entryV (op := 0xC0) (d := split ++ BitVec.ofBool tv ++ b4 tok) rfl (by decide) (e := .mxgoG e split tv tok) ?_ (by simp_all) (by simp_all)
  show (if e.mod == 0#4 then some (Entry.mxgoG e ((split ++ BitVec.ofBool tv ++ b4 tok : BitVec 11).extractLsb' 5 6)
    ((split ++ BitVec.ofBool tv ++ b4 tok : BitVec 11).getLsbD 4) (fin4 ((split ++ BitVec.ofBool tv ++ b4 tok : BitVec 11).extractLsb' 0 4))) else none) = _
  rw [show (split ++ BitVec.ofBool tv ++ b4 tok : BitVec 11).extractLsb' 5 6 = split from (ext_hi _ _ (by decide)).trans ((ext_hi _ _ (by decide)).trans (ext_all split)),
    show (split ++ BitVec.ofBool tv ++ b4 tok : BitVec 11).getLsbD 4 = tv from (bit_hi _ _ (by decide)).trans ((bit_lo _ _ (by decide)).trans (ofBool_bit tv)),
    show (split ++ BitVec.ofBool tv ++ b4 tok : BitVec 11).extractLsb' 0 4 = b4 tok from (ext_lo _ _ (by decide)).trans (ext_all _)]
  simp [hw]
theorem mxldsG (e sn ph kw tv tok) : Statement (.mxldsG e sn ph kw tv tok) := by
  rintro hw -
  replace hw : (e.classOk 0 && (e.mod = 0#4) : Bool) = true := hw
  simp only [Bool.and_eq_true, VHead.classOk, decide_eq_true_eq] at hw
  refine decode_entryV (op := 0xC1) (d := 0#3 ++ BitVec.ofBool ph ++ b2 kw ++ BitVec.ofBool tv ++ b4 tok) rfl (by decide)
    (e := .mxldsG e sn ph kw tv tok) ?_ (by simp_all) (by simp_all)
  generalize hx : (0#3 ++ BitVec.ofBool ph ++ b2 kw ++ BitVec.ofBool tv ++ b4 tok : BitVec 11) = x
  have h1 : x.extractLsb' 8 3 = 0#3 := hx ▸ (ext_hi _ _ (by decide)).trans ((ext_hi _ _ (by decide)).trans ((ext_hi _ _ (by decide)).trans
    ((ext_hi _ _ (by decide)).trans (ext_all (0#3)))))
  have h2 : x.getLsbD 7 = ph := hx ▸ (bit_hi _ _ (by decide)).trans ((bit_hi _ _ (by decide)).trans ((bit_hi _ _ (by decide)).trans
    ((bit_lo _ _ (by decide)).trans (ofBool_bit ph))))
  have h3 : x.extractLsb' 5 2 = b2 kw := hx ▸ (ext_hi _ _ (by decide)).trans ((ext_hi _ _ (by decide)).trans ((ext_lo _ _ (by decide)).trans (ext_all _)))
  have h4 : x.getLsbD 4 = tv := hx ▸ (bit_hi _ _ (by decide)).trans ((bit_lo _ _ (by decide)).trans (ofBool_bit tv))
  have h5 : x.extractLsb' 0 4 = b4 tok := hx ▸ (ext_lo _ _ (by decide)).trans (ext_all _)
  show (match operandOf (operandBits (.scalar sn)) with
    | some (.scalar n) => if (e.mod == 0#4) ∧ x.extractLsb' 8 3 = 0#3 then
        some (Entry.mxldsG e n (x.getLsbD 7) (fin2 (x.extractLsb' 5 2)) (x.getLsbD 4) (fin4 (x.extractLsb' 0 4))) else none
    | _ => none) = _
  rw [operandOf_bits, h1, h2, h3, h4, h5]
  simp [hw]
theorem mxqG (e d) : Statement (.mxqG e d) := by
  rintro hw -
  replace hw : (e.classOk 1 && d.destOk false && (e.mod ≤ 2#4) : Bool) = true := hw
  simp only [Bool.and_eq_true, VHead.classOk, decide_eq_true_eq] at hw
  refine decode_entryV (op := 194) rfl (by decide) (e := .mxqG e d) ?_ (by simp_all) (by simp_all)
  show (match dstOf false (operandBits d) with
    | some d => if e.mod ≤ 2#4 then some (Entry.mxqG e d) else none
    | none => none) = _
  simp [hw]
theorem pushm (e data imm) : Statement (.pushm e data imm) := by
  rintro hw -
  replace hw : (e.classOk 4 && data.sourceOk : Bool) = true := hw
  simp only [Bool.and_eq_true, MHead.classOk, decide_eq_true_eq] at hw
  refine decode_entryM (op := 145) (imm := (0#10 ++ imm)) rfl (by decide) (e := .pushm e data imm) ?_ (by simp_all) (by simp_all)
  show (match srcOf (operandBits data) with
    | some d => if memPlain _ then some (Entry.pushm e d ((0#10 ++ imm).extractLsb' 0 6)) else none
    | none => none) = _
  simp [hw, memPlain]
  exact (ext_lo _ _ (by decide)).trans (ext_all _)
theorem popm (e data imm) : Statement (.popm e data imm) := by
  rintro hw -
  replace hw : (e.classOk 4 && data.destOk false : Bool) = true := hw
  simp only [Bool.and_eq_true, MHead.classOk, decide_eq_true_eq] at hw
  refine decode_entryM (op := 146) (imm := (0#10 ++ imm)) rfl (by decide) (e := .popm e data imm) ?_ (by simp_all) (by simp_all)
  show (match dstOf false (operandBits data) with
    | some d => if memPlain _ then some (Entry.popm e d ((0#10 ++ imm).extractLsb' 0 6)) else none
    | none => none) = _
  simp [hw, memPlain]
  exact (ext_lo _ _ (by decide)).trans (ext_all _)
theorem cbadv (e data addr imm) : Statement (.cbadv e data addr imm) := by
  rintro hw -
  replace hw : (e.classOk 0 && data.destOk false && addr.sourceOk : Bool) = true := hw
  simp only [Bool.and_eq_true, MHead.classOk, decide_eq_true_eq] at hw
  refine decode_entryM (op := 147) (imm := imm) rfl (by decide) (e := .cbadv e data addr imm) ?_ (by simp_all) (by simp_all)
  show (match dstOf false (operandBits data), srcOf (operandBits addr) with
    | some d, some a => if memPlain _ then some (Entry.cbadv e d a imm) else none
    | _, _ => none) = _
  simp [hw, memPlain]
theorem qrst (e data addr) : Statement (.qrst e data addr) := by
  rintro hw -
  replace hw : (e.classOk 0 && data.destOk false && addr.sourceOk : Bool) = true := hw
  simp only [Bool.and_eq_true, MHead.classOk, decide_eq_true_eq] at hw
  refine decode_entryM (op := 148) (imm := 0) rfl (by decide) (e := .qrst e data addr) ?_ (by simp_all) (by simp_all)
  show (match dstOf false (operandBits data), srcOf (operandBits addr) with
    | some d, some a => if memPlain _ then some (Entry.qrst e d a) else none
    | _, _ => none) = _
  simp [hw, memPlain]
theorem qadv (e data addr imm) : Statement (.qadv e data addr imm) := by
  rintro hw -
  replace hw : (e.classOk 0 && data.destOk false && addr.sourceOk : Bool) = true := hw
  simp only [Bool.and_eq_true, MHead.classOk, decide_eq_true_eq] at hw
  refine decode_entryM (op := 149) (imm := imm) rfl (by decide) (e := .qadv e data addr imm) ?_ (by simp_all) (by simp_all)
  show (match dstOf false (operandBits data), srcOf (operandBits addr) with
    | some d, some a => if memPlain _ then some (Entry.qadv e d a imm) else none
    | _, _ => none) = _
  simp [hw, memPlain]
theorem entryWriteback (a0) : Statement (.entryWriteback a0) := fun _ h => absurd rfl h
theorem npfLineWrite (a0) : Statement (.npfLineWrite a0) := fun _ h => absurd rfl h
theorem landing (a0) : Statement (.landing a0) := fun _ h => absurd rfl h
theorem engineFaultReport (a0) : Statement (.engineFaultReport a0) := fun _ h => absurd rfl h
theorem stopRequest (a0) : Statement (.stopRequest a0) := fun _ h => absurd rfl h
theorem coreStop (a0) : Statement (.coreStop a0) := fun _ h => absurd rfl h
theorem uncorrectableError (a0) : Statement (.uncorrectableError a0) := fun _ h => absurd rfl h
theorem coreRetire (a0) : Statement (.coreRetire a0) := fun _ h => absurd rfl h
theorem flagRelease (a0) : Statement (.flagRelease a0) := fun _ h => absurd rfl h
theorem portFetch (a0 a1 a2) : Statement (.portFetch a0 a1 a2) := fun _ h => absurd rfl h
theorem cbStage (a0 a1 a2) : Statement (.cbStage a0 a1 a2) := fun _ h => absurd rfl h
theorem planeRetry (a0) : Statement (.planeRetry a0) := fun _ h => absurd rfl h
theorem matrixPass (a0 a1) : Statement (.matrixPass a0 a1) := fun _ h => absurd rfl h
theorem comparePass (a0 a1) : Statement (.comparePass a0 a1) := fun _ h => absurd rfl h
theorem passAccWrite (a0 a1) : Statement (.passAccWrite a0 a1) := fun _ h => absurd rfl h
theorem levelBoundary (a0 a1) : Statement (.levelBoundary a0 a1) := fun _ h => absurd rfl h
theorem shadowLoadDone (a0 a1) : Statement (.shadowLoadDone a0 a1) := fun _ h => absurd rfl h
theorem tokenIdle (a0 a1) : Statement (.tokenIdle a0 a1) := fun _ h => absurd rfl h
theorem copyRowMove (a0 a1) : Statement (.copyRowMove a0 a1) := fun _ h => absurd rfl h
theorem cptTileRetry (a0 a1) : Statement (.cptTileRetry a0 a1) := fun _ h => absurd rfl h
theorem cptabEntryWrite (a0 a1) : Statement (.cptabEntryWrite a0 a1) := fun _ h => absurd rfl h
theorem ringAdvance (a0 a1) : Statement (.ringAdvance a0 a1) := fun _ h => absurd rfl h
theorem copyComplete (a0 a1) : Statement (.copyComplete a0 a1) := fun _ h => absurd rfl h
theorem copyFault (a0 a1) : Statement (.copyFault a0 a1) := fun _ h => absurd rfl h
theorem transformComplete (a0 a1) : Statement (.transformComplete a0 a1) := fun _ h => absurd rfl h
theorem transformFault (a0 a1) : Statement (.transformFault a0 a1) := fun _ h => absurd rfl h
theorem atomicPerform (a0) : Statement (.atomicPerform a0) := fun _ h => absurd rfl h
theorem reductionPerform (a0) : Statement (.reductionPerform a0) := fun _ h => absurd rfl h
theorem phaserPerform (a0) : Statement (.phaserPerform a0) := fun _ h => absurd rfl h
theorem copyArrival (a0) : Statement (.copyArrival a0) := fun _ h => absurd rfl h
theorem phaserPoll (a0) : Statement (.phaserPoll a0) := fun _ h => absurd rfl h
theorem acknowledgementArrival (a0) : Statement (.acknowledgementArrival a0) := fun _ h => absurd rfl h
theorem answerReturn (a0) : Statement (.answerReturn a0) := fun _ h => absurd rfl h
theorem rangeTake (a0) : Statement (.rangeTake a0) := fun _ h => absurd rfl h
theorem mergePush (a0) : Statement (.mergePush a0) := fun _ h => absurd rfl h
theorem mergeTileRetry (a0) : Statement (.mergeTileRetry a0) := fun _ h => absurd rfl h
theorem mergeTranslationFault (a0) : Statement (.mergeTranslationFault a0) := fun _ h => absurd rfl h
theorem teamEnd (a0) : Statement (.teamEnd a0) := fun _ h => absurd rfl h
theorem flightBarrierComplete (a0) : Statement (.flightBarrierComplete a0) := fun _ h => absurd rfl h
theorem flightPhaseStart (a0) : Statement (.flightPhaseStart a0) := fun _ h => absurd rfl h
theorem vectorArrival (a0 a1) : Statement (.vectorArrival a0 a1) := fun _ h => absurd rfl h
theorem flightBreakSignal (a0) : Statement (.flightBreakSignal a0) := fun _ h => absurd rfl h
theorem tailRegisterWrite (a0 a1) : Statement (.tailRegisterWrite a0 a1) := fun _ h => absurd rfl h
theorem launch (a0) : Statement (.launch a0) := fun _ h => absurd rfl h
theorem wait (a0) : Statement (.wait a0) := fun _ h => absurd rfl h
theorem waitRetest (a0) : Statement (.waitRetest a0) := fun _ h => absurd rfl h
theorem signal (a0) : Statement (.signal a0) := fun _ h => absurd rfl h
theorem cond (a0) : Statement (.cond a0) := fun _ h => absurd rfl h
theorem loopNode (a0) : Statement (.loopNode a0) := fun _ h => absurd rfl h
theorem switch (a0) : Statement (.switch a0) := fun _ h => absurd rfl h
theorem load (a0) : Statement (.load a0) := fun _ h => absurd rfl h
theorem teamPlace (a0) : Statement (.teamPlace a0) := fun _ h => absurd rfl h
theorem quantumExpiry (a0) : Statement (.quantumExpiry a0) := fun _ h => absurd rfl h
theorem teamSave (a0) : Statement (.teamSave a0) := fun _ h => absurd rfl h
theorem jobComplete (a0) : Statement (.jobComplete a0) := fun _ h => absurd rfl h
theorem teamFault (a0) : Statement (.teamFault a0) := fun _ h => absurd rfl h
theorem ageing (a0) : Statement (.ageing a0) := fun _ h => absurd rfl h
theorem usherConfigCommit (a0 a1) : Statement (.usherConfigCommit a0 a1) := fun _ h => absurd rfl h
theorem fabricConfigCommit (a0 a1) : Statement (.fabricConfigCommit a0 a1) := fun _ h => absurd rfl h
theorem registerWrite (a0 a1) : Statement (.registerWrite a0 a1) := fun _ h => absurd rfl h
theorem moduleReset : Statement (.moduleReset) := fun _ h => absurd rfl h
theorem windowRead (a0 a1) : Statement (.windowRead a0 a1) := fun _ h => absurd rfl h
theorem windowWrite (a0 a1) : Statement (.windowWrite a0 a1) := fun _ h => absurd rfl h
theorem sensors : Statement (.sensors) := fun _ h => absurd rfl h
theorem log : Statement (.log) := fun _ h => absurd rfl h
theorem cap : Statement (.cap) := fun _ h => absurd rfl h
theorem update : Statement (.update) := fun _ h => absurd rfl h
theorem attest : Statement (.attest) := fun _ h => absurd rfl h
theorem errcnt : Statement (.errcnt) := fun _ h => absurd rfl h
theorem unretire : Statement (.unretire) := fun _ h => absurd rfl h
theorem mailboxCompletion : Statement (.mailboxCompletion) := fun _ h => absurd rfl h
theorem hostReadTimeout (a0) : Statement (.hostReadTimeout a0) := fun _ h => absurd rfl h
theorem peerRequest (a0) : Statement (.peerRequest a0) := fun _ h => absurd rfl h
theorem flitRetry (a0) : Statement (.flitRetry a0) := fun _ h => absurd rfl h
theorem sensorRefresh : Statement (.sensorRefresh) := fun _ h => absurd rfl h
theorem powerBudgetCheck : Statement (.powerBudgetCheck) := fun _ h => absurd rfl h
theorem coolantLoss : Statement (.coolantLoss) := fun _ h => absurd rfl h
theorem eccSummary : Statement (.eccSummary) := fun _ h => absurd rfl h
theorem lineFill (a0) : Statement (.lineFill a0) := fun _ h => absurd rfl h
theorem pageWalk (a0) : Statement (.pageWalk a0) := fun _ h => absurd rfl h
theorem packetArrival (a0) : Statement (.packetArrival a0) := fun _ h => absurd rfl h
theorem regionalCount (a0) : Statement (.regionalCount a0) := fun _ h => absurd rfl h
theorem escape (a0) : Statement (.escape a0) := fun _ h => absurd rfl h
theorem routerSleep (a0) : Statement (.routerSleep a0) := fun _ h => absurd rfl h
theorem routerWake (a0) : Statement (.routerWake a0) := fun _ h => absurd rfl h
theorem trafficPeriod : Statement (.trafficPeriod) := fun _ h => absurd rfl h
theorem hotLineRecompress (a0) : Statement (.hotLineRecompress a0) := fun _ h => absurd rfl h
theorem illegalBundle (a0 a1) : Statement (.illegalBundle a0 a1) := fun _ h => absurd rfl h
theorem reservedOpcode (a0 a1 a2) : Statement (.reservedOpcode a0 a1 a2) := fun _ h => absurd rfl h
theorem fetchFault (a0 a1) : Statement (.fetchFault a0 a1) := fun _ h => absurd rfl h
theorem bankPortRequest (a0 a1) : Statement (.bankPortRequest a0 a1) := fun _ h => absurd rfl h
theorem hostCompletion (a0 a1) : Statement (.hostCompletion a0 a1) := fun _ h => absurd rfl h
theorem peerResponse (a0 a1) : Statement (.peerResponse a0 a1) := fun _ h => absurd rfl h
theorem linkUp (a0 a1) : Statement (.linkUp a0 a1) := fun _ h => absurd rfl h
theorem powerLoss : Statement (.powerLoss) := fun _ h => absurd rfl h
theorem flipatReached (a0) : Statement (.flipatReached a0) := fun _ h => absurd rfl h
theorem badCommand : Statement (.badCommand) := fun _ h => absurd rfl h

end Sys2Proof.Laws.RoundTrip
end

