-- ==== Sys2Proof/Tests/Slice0.lean ====
section
/-!
SUPPORT. Tests of one step each, and for the statements a state that meets the hypotheses of each clause. The words and values come from
the formats of R58-R91 and the worked examples of the rules named.
-/
namespace Sys2Proof.Tests
open Sys2Proof.Machine
set_option Elab.async false

/-- Core 0 with a recorded part and a task, about to run a slot. -/
def at0 (b : Body) (k : Cur := {}) (t : Task := {}) : State :=
  { State.reset with cores := State.reset.cores.set 0 { b, task := t }, pre := b, cur := k }
/-- The recorded part of core 0 that an answer leaves. -/
def after (r : Host.Outcome State Fault Refusal) : Body := match r with | .next t => t.body 0 | _ => {}
/-- What the bundle has come to. -/
def curOf (r : Host.Outcome State Fault Refusal) : Cur := match r with | .next t => t.cur | _ => {}
def stateOf (r : Host.Outcome State Fault Refusal) : State := match r with | .next t => t | _ => {}
/-- g5 and g6 hold two values. -/
def regs (x y : BitVec 64) : Body := { g := ((Vector.replicate 64 0).set 5 x).set 6 y }
def p0 : Qual := ⟨0, false⟩

/-! Words written out from the formats (R58-R78) -/

theorem test_word_mxlds : decodeSlot false .m 0x08004031 = .ok (.mxlds p0 0 16 1 3 false) := by decide
theorem test_word_mxgo : decodeSlot false .m 0x10100012 = .ok (.mxgo p0 16 2 1) := by decide
theorem test_word_mxrd : decodeSlot false .m 0x18155800 = .ok (.mxrd p0 21 22 0) := by decide
theorem test_word_mxtab : decodeSlot false .l 0x38124000 = .ok (.mxtab p0 18 16) := by decide
theorem test_word_acas : decodeSlot false .g 0x6014556E = .ok (.acas p0 20 21 22 .ar .p) := by decide
theorem test_word_radd : decodeSlot false .g 0x680024A9 = .ok (.radd p0 0 9 10 .rel .t) := by decide
theorem test_word_phinit : decodeSlot false .g 0x740C20D9 = .ok (.phinit p0 12 8 13 .rel .t) := by decide
theorem test_word_pharr : decodeSlot false .g 0x800C2009 = .ok (.pharr p0 12 8 .rel .t) := by decide
theorem test_word_drain : decodeSlot false .g 0x34000001 = .ok (.drain p0 .t) := by decide
theorem test_word_std : decodeSlot false .g 0x2C0C1800 = .ok (.std p0 12 6 0) := by decide
theorem test_word_flbar : decodeSlot false .x 0x540C0002 = .ok (.flbar p0 12 2) := by decide
theorem test_word_flend : decodeSlot false .x 0x580D0000 = .ok (.flend p0 13) := by decide
theorem test_word_mfsr : decodeSlot false .x 0x3C050000 = .ok (.mfsr p0 5 0) := by decide
theorem test_word_lpstep : decodeSlot false .x 0x18043800 = .ok (.lpstep p0 0 0 4 14) := by decide
theorem test_word_xsel : decodeSlot true .c0 0x201F0001 = .ok (.xsel p0 31 1) := by decide
theorem test_word_xfwd : decodeSlot true .c1 0x24000007 = .ok (.xfwd p0 3 1) := by decide
theorem test_word_spawn : decodeSlot false .k 0x04134401 = .ok (.spawn p0 19 17 1) := by decide
theorem test_word_spawnr : decodeSlot false .k 0x08150004 = .ok (.spawnr p0 21 4) := by decide
theorem test_word_rnext : decodeSlot false .k 0x1C140000 = .ok (.rnext p0 20) := by decide
theorem test_word_tinfo : decodeSlot false .k 0x20124C01 = .ok (.tinfoState p0 18 19) := by decide
theorem test_word_cp : decodeSlot false .c0 0x040E1552 = .ok (.cp p0 14 5 2 (some 5)) := by decide
theorem test_word_cpt : decodeSlot false .c0 0x08155930 = .ok (.cpt p0 21 22 0 (some 3)) := by decide
theorem test_word_cptab : decodeSlot false .c1 0x0C145404 = .ok (.cptab p0 20 21 4 none) := by decide
theorem test_word_cpcfg : decodeSlot false .c0 0x100F0001 = .ok (.cpcfg p0 15 1) := by decide
theorem test_word_cpstat : decodeSlot false .c0 0x141A0001 = .ok (.cpstat p0 26 1) := by decide
theorem test_word_cpcan : decodeSlot false .c0 0x18000000 = .ok (.cpcan p0 0) := by decide
theorem test_word_tmov : decodeSlot false .m 0x20054C00 = .ok (.tmov p0 5 1 3) := by decide
theorem test_word_tmovPort : decodeSlot false .m 0x20088200 = .ok (.tmovPort p0 0 none 2 0) := by decide
theorem test_word_tcfg : decodeSlot false .m 0x24150008 = .ok (.tcfgPinned p0 21) := by decide
theorem test_word_tstat : decodeSlot false .m 0x281A0002 = .ok (.tstat p0 26 2) := by decide

/-! Ill-formed terms, one for each check of `wellFormed` -/

theorem test_illformed_extension : wellFormed (.sext p0 5 6 3) = false := by decide
theorem test_illformed_conversion : wellFormed (.fcvtS p0 5 6 9) = false := by decide
theorem test_illformed_comparison : wellFormed (.fcmpS p0 1 5 6 4) = false := by decide
theorem test_illformed_order : wellFormed (.phinit p0 5 6 7 .acq .t) = false := by decide
theorem test_illformed_wait_order : wellFormed (.phwait p0 5 6 7 .rel .t) = false := by decide
theorem test_illformed_scope : wellFormed (.pharw p0 5 6 .acq .s) = false := by decide
theorem test_illformed_loop : wellFormed (.loop 0 5 0) = false := by decide
theorem test_illformed_flbar : wellFormed (.flbar p0 5 257) = false := by decide
theorem test_illformed_bloop : wellFormed (.bloop 0 false 0 4) = false := by decide
theorem test_illformed_bloop_last : wellFormed (.bloopCtq 0 false 0) = false := by decide
theorem test_illformed_branch : wellFormed (.bbr 8 4) = false := by decide
theorem test_illformed_class : wellFormed (.fma ⟨1, 0, 0, false⟩ .zero .zero .zero .zero) = false := by decide
theorem test_illformed_class7 : wellFormed (.mov ⟨7, 0, 0, false⟩ .zero .zero) = false := by decide
theorem test_illformed_dest : wellFormed (.mov ⟨0, 0, 0, false⟩ .lane .zero) = false := by decide
theorem test_illformed_scalar_dest : wellFormed (.mov ⟨0, 0, 0, false⟩ (.scalar 1) .zero) = false := by decide
theorem test_illformed_source : wellFormed (.mov ⟨0, 0, 0, false⟩ .zero (.port 8)) = false := by decide
theorem test_illformed_mod : wellFormed (.fadd ⟨1, 3, 0, false⟩ .zero .zero .zero) = false := by decide
theorem test_illformed_rounding : wellFormed (.fadd ⟨1, 1, 0, false⟩ .zero .zero .zero) = false := by decide
theorem test_illformed_integer_mod : wellFormed (.iadd ⟨0, 3, 0, false⟩ .zero .zero .zero) = false := by decide
theorem test_illformed_conversion_mod : wellFormed (.fcvt ⟨1, 7, 0, false⟩ .zero .zero (.mat 0 .h 0)) = false := by decide
theorem test_illformed_conversion_b : wellFormed (.fcvt ⟨1, 0, 0, false⟩ .zero .zero .zero) = false := by decide
theorem test_illformed_format : wellFormed (.ldC ⟨2, 0, false⟩ .zero .zero 0 .bf16) = false := by decide
theorem test_illformed_planes : wellFormed (.pldW ⟨4, 0, false⟩ .zero .zero 0 13 false .fp32) = false := by decide
theorem test_illformed_pair : wellFormed (.pldW ⟨4, 0, false⟩ .zero .zero 0 12 false .int8) = false := by decide
theorem test_wellformed_planes : wellFormed (.pldW ⟨4, 0, false⟩ .zero .zero 0 12 false .fp32) = true := by decide

/-! Group table entries written out (R81-R83, R280 and the encodings of the plane unit) -/

theorem test_entry_fma : (match decodeEntry 0x0448000090140203 with | .ok (.fma h d a b c) => (h, d, a, b, c) == (⟨2, 0, 0, true⟩, .mat 2 .h 0, .mat 0 .h 1, .mat 1 .h 1, .mat 2 .h 1) | _ => false) = true := by decide
theorem test_entry_fsum : (match decodeEntry 0x1674050000000003 with | .ok (.fsum h d a) => (h, d, a) == (⟨3, 0, 0, true⟩, .scalar 1, .mat 2 .h 0) | _ => false) = true := by decide
theorem test_entry_fcmp : (match decodeEntry 0x11200C8058000021 with | .ok (.fcmp h pd a b) => (h, pd, a, b) == (⟨1, 1, 0, false⟩, 3, .mat 1 .h 0, .zero) | _ => false) = true := by decide
theorem test_entry_ldW : (match decodeEntry 0x8064128100200021 with | .ok (.ldW h d a imm f) => (h, d, a, imm, f) == (⟨3, 0, false⟩, .mat 1 .h 4, .scalar 2, 64, .bf16) | _ => false) = true := by decide
theorem test_entry_pldA : (match decodeEntry 0x89880200A2801261 with | .ok (.pldA h d a imm k rne f) => (h, d, a, imm, k, rne, f) == (⟨4, 0, false⟩, .mat 2 .h 0, .port 1, 0x4500, 2, true, .int32) | _ => false) = true := by decide
theorem test_entry_mxgo : (match decodeEntry 0xC080000000000001 with | .ok (.mxgoG h split tv tok) => (h, split, tv, tok) == (⟨4, 0, 0, false⟩, 0, false, 0) | _ => false) = true := by decide
theorem test_entry_nop_mod : (match decodeEntry 0x21, decodeEntry 1 with | .error 2, .ok (.nop _) => true | _, _ => false) = true := by decide
theorem test_illformed_nop : wellFormed (.nop ⟨0, 1, 0, false⟩) = false := by decide

/-! The A slot -/

/-- `PredicatedOffDoesNothing`: a predicate that is false, and one inverted. -/
theorem wit_predicatedOff : gate (.add ⟨1, false⟩ 7 5 6) = some ⟨1, false⟩ ∧ (at0 {}).acts ⟨1, false⟩ = false ∧
    gate (.addi 2 7 5 0) = some ⟨2, false⟩ ∧ (at0 {}).acts ⟨2, false⟩ = false ∧ (at0 {}).acts ⟨0, true⟩ = false := by decide
/-- The A slot statements need an acting slot only. -/
theorem wit_acting : (at0 {}).acts p0 = true ∧ (at0 {}).acts ⟨1, true⟩ = true ∧ (at0 {}).actsP 0 = true := by decide
theorem test_add_wraps : (after (exec (.add p0 7 5 6) (at0 (regs (-1) 2)))).g[7] = 1 := by decide
theorem test_g0_discards : (after (exec (.add p0 0 5 6) (at0 (regs 1 2)))).g[0] = 0 := by decide
theorem test_mulh : (after (exec (.mulh p0 7 5 6) (at0 (regs (-1) 2)))).g[7] = -1 := by decide
theorem test_mulhu : (after (exec (.mulhu p0 7 5 6) (at0 (regs (-1) 2)))).g[7] = 1 := by decide
theorem test_div_zero : (after (exec (.div p0 7 5 6) (at0 (regs 9 0)))).g[7] = -1 := by decide
theorem test_div_overflow : (after (exec (.div p0 7 5 6) (at0 (regs 0x8000000000000000 (-1))))).g[7] = 0x8000000000000000 := by decide
theorem test_div_truncates : (after (exec (.div p0 7 5 6) (at0 (regs (-7) 2)))).g[7] = -3 := by decide
theorem test_rem_sign : (after (exec (.rem p0 7 5 6) (at0 (regs (-7) 2)))).g[7] = -1 := by decide
theorem test_remu_zero : (after (exec (.remu p0 7 5 6) (at0 (regs 9 0)))).g[7] = 9 := by decide
theorem test_sll_amount : (after (exec (.sll p0 7 5 6) (at0 (regs 1 65)))).g[7] = 2 := by decide
theorem test_sra : (after (exec (.sra p0 7 5 6) (at0 (regs (-8) 1)))).g[7] = -4 := by decide
theorem test_rol : (after (exec (.rol p0 7 5 6) (at0 (regs 0x8000000000000001 1)))).g[7] = 3 := by decide
theorem test_cmplt_signed : (after (exec (.cmplt p0 3 5 6) (at0 (regs (-1) 0)))).p[3] = true := by decide
theorem test_cmpltu_unsigned : (after (exec (.cmpltu p0 3 5 6) (at0 (regs (-1) 0)))).p[3] = false := by decide
theorem test_cmpi_ltu : (after (exec (.cmpi 0 3 2 5 0xFFF) (at0 (regs 7 0)))).p[2] = true := by decide
theorem test_plog_and : (after (exec (.plog p0 3 0 1 8) (at0 {}))).p[3] = false := by decide
theorem test_sel : (after (exec (.sel p0 7 1 5 6) (at0 (regs 1 2)))).g[7] = 2 := by decide
theorem test_clz_zero : (after (exec (.clz p0 7 5) (at0 (regs 0 0)))).g[7] = 64 := by decide
theorem test_ctz : (after (exec (.ctz p0 7 5) (at0 (regs 0x100 0)))).g[7] = 8 := by decide
theorem test_sext_byte : (after (exec (.sext p0 7 5 0) (at0 (regs 0x80 0)))).g[7] = -128 := by decide
theorem test_zext_word : (after (exec (.zext p0 7 5 2) (at0 (regs (-1) 0)))).g[7] = 0xFFFFFFFF := by decide
theorem test_addi_sign : (after (exec (.addi 0 7 5 0x800) (at0 (regs 0 0)))).g[7] = -2048 := by decide
theorem test_andi_whole : (after (exec (.andi 0 7 5 0xFFF) (at0 (regs 0x123456789 0)))).g[7] = 0x123456789 := by decide
theorem test_lui : (after (exec (.lui 7 0x80000) (at0 {}))).g[7] = 0xFFFFFFFF80000000 := by decide
theorem test_addpc : (after (exec (.addpc 7 1) (at0 {} { hdr := 0x400000 }))).g[7] = 0x401000 := by decide
/-- 1.0 + 1.0 = 2.0, and the upper half is zero. -/
theorem test_fadd : (after (exec (.faddS p0 7 5 6) (at0 (regs 0xFFFFFFFF3F800000 0x3F800000)))).g[7] = 0x40000000 := by decide
/-- A NaN operand: eq is false, un is true (R178). -/
theorem test_fcmp_nan : (after (exec (.fcmpS p0 3 5 6 0) (at0 (regs 0x7FC00000 0x7FC00000)))).p[3] = false ∧
    (after (exec (.fcmpS p0 3 5 6 3) (at0 (regs 0x7FC00000 0)))).p[3] = true := by decide

/-! The G slot -/

def heldView : ViewEntry := { valid := true, held := true, base := 0x1000, linesM1 := 1 }
def viewBody : Body := { regs 0x1000 0 with vts := (Vector.replicate 8 {}).set 2 heldView }
def withLine (s : State) : State := { s with hall := [{ asn := 0, line := 0x20, pline := 0, w := true, x := false, stream := false, comp := false, tag := 0, dir := .shared [0] }] }
def asking (id : Nat) (b : Body) : Body := { b with asked := some { hdr := 0, wait := true, request := some id } }
def drained (b : Body) : Body := { b with asked := some { hdr := 0, drain := some 0 } }
theorem wit_issue (b : Body) (h : b.held = []) (hr : b.reports = []) : MayIssue (at0 b) :=
  ⟨by simp [at0, h], by simp [at0, State.reset], by simp [State.outstanding, at0, State.reset], by simp [at0, Body.holdsFault, hr], by simp [at0, Body.holdsFault, hr]⟩
/-- `LoadsGiveTheirBytes`: the last byte of a held view; no view, from the journal, the cache and by a request. -/
theorem wit_loads : Accessible ((at0 viewBody).rg 5) 8 ∧ findHeld viewBody.vts false 0x10FF 1 = some (2, 0xFF) ∧
    findHeld viewBody.vts false 0x1100 1 = none ∧
    (({ b := {}, journal := [some 5] } : Core).journalRead).2.1 = some 5 ∧ ReadsAfresh (at0 {}) ∧
    (withLine (at0 {})).cacheBytes 0 0 0x1000 8 = some (List.replicate 8 0) ∧ (at0 {}).cacheBytes 0 0 0x1000 8 = none := by
  refine ⟨⟨by decide, by decide⟩, by decide, by decide, by decide, by rfl, by decide, by decide⟩
/-- `StoresAreHeld`: held, overfull not, and in a bracketed bundle. -/
theorem wit_stores : (at0 {}).me.sendsDirectly = false ∧ (at0 {}).me.overfull { id := 0, core := 0, baddr := 0, issued := 0, asn := 0, va := 0, op := .store [0] } = false ∧
    (at0 { bracket := true }).me.sendsDirectly = true := by decide
theorem eraseDups_nodup {α : Type} [BEq α] [LawfulBEq α] (l : List α) (h : l.Nodup) : l.eraseDups = l := by
  induction l with
  | nil => rfl
  | cons a l ih =>
    obtain ⟨ha, hl⟩ := List.nodup_cons.1 h
    have hf : (l.filter fun b => !(b == a)) = l := List.filter_eq_self.2 fun b hb => by
      simp only [Bool.not_eq_true', beq_eq_false_iff_ne]
      rintro rfl
      exact ha hb
    rw [List.eraseDups_cons, hf, ih hl]
/-- A store of one byte into line i. -/
def lineStore (i : Nat) : Request := { id := i, core := 0, baddr := 0, issued := 0, asn := 0, va := BitVec.ofNat 56 (128 * i), op := .store [0] }
theorem effectLines_stores (n : Nat) (hn : n ≤ 2048) : effectLines ((List.range n).map lineStore) = (List.range n).map fun i => (0, i) := by
  have h : ∀ i < n, (linePieces (lineStore i).va.toNat (lineStore i).size).map (fun p => ((lineStore i).asn, p.1 / 128)) = [(0, i)] := fun i hi => by
    have h1 : (lineStore i).va.toNat = 128 * i := by simp only [lineStore, BitVec.toNat_ofNat]; omega
    have h2 : (lineStore i).size = 1 := rfl
    rw [h1, h2, linePieces]
    have h3 : (128 * i + 1 - 1) / 128 - 128 * i / 128 + 1 = 1 := by omega
    rw [if_neg (by decide), h3]
    simp [List.range_one, lineStore]
  rw [effectLines, List.flatMap_map, List.flatMap_congr fun i hi => h i (List.mem_range.1 hi)]
  rw [← List.map_eq_flatMap]
  exact eraseDups_nodup _ ((List.nodup_map_iff fun a b h => (Prod.mk.inj h).2).2 List.nodup_range)
/-- `StoresAreHeld`: 1 024 lines are held, and the store needs one more. -/
theorem overfull_stores (n : Nat) (hn : n < 2048) : ({ held := (List.range n).map lineStore } : Body).overfull (lineStore n) = decide (1024 < n + 1) := by
  have h : (List.range n).map lineStore ++ [lineStore n] = (List.range (n + 1)).map lineStore := by rw [List.range_succ, List.map_append]; rfl
  rw [Body.overfull, h, effectLines_stores _ hn, List.length_map, List.length_range]
theorem wit_storeOverfull : ({ held := (List.range 1024).map lineStore } : Body).overfull (lineStore 1024) = true := by
  rw [overfull_stores 1024 (by decide)]; decide
/-- `AccessesCheckTheirAddress`: bit 56 set; an odd address of a halfword. -/
theorem wit_addresses : (at0 (regs 0x100000000000000 1) { slot := .g }).cur.trap = none ∧ (0x100000000000000#64).extractLsb' 56 8 ≠ 0#8 ∧
    (0xFFFFFFFFFFFFFF#64).extractLsb' 56 8 = 0#8 ∧ (0xFFFFFFFFFFFFFF#64).toNat % 2 ≠ 0 := by decide
theorem test_ldd_misaligned : (curOf (exec (.ldd p0 20 9 1) (at0 { g := (Vector.replicate 64 0).set 9 0x300004 } { slot := .g }))).trap.map (fun t => (t.cause, t.taddr, t.slot)) =
    some (.misaligned, 0x30000C, 1) := by decide
theorem test_std_held : ((after (exec (.std p0 6 5 1) (at0 (regs 0x1000 0x0102)))).held.map (fun r => (r.va, r.op))) = [(0x1008, .store [2, 1, 0, 0, 0, 0, 0, 0])] := by decide
theorem test_ldb_view : (after (exec (.ldb p0 7 5 0) (at0 viewBody))).g[7] = 0 := by decide
/-- `AtomicsAreSent`: not sent yet, answered, answered by a fault; a free region and a held one. -/
theorem wit_atomics : Accessible ((at0 (regs 0x1000 1)).rg 5) 8 ∧ Accessible ((at0 (regs 0x1000 1)).rg 5) 32 ∧ findHeld (regs 0x1000 1).vts false 0x1000 1 = none ∧
    (at0 (regs 0x1000 1)).me.sendsDirectly = false ∧ (at0 (regs 0x1000 1)).sentHere = none ∧ (findHeld viewBody.vts false 0x1000 1).isSome = true ∧
    (let r : Request := { id := 3, core := 0, baddr := 0, issued := 0, asn := 0, va := 0x1000, op := .atomic .add 0 0 7 }
     let s := at0 (asking 3 { answers := [(3, 0, some .translation)], kept := [r] })
     s.sentHere = some 3 ∧ s.answerHere = some (0, some .translation) ∧ s.pre.keptRequest 3 = some r ∧ s.cur.trap = none) := by
  refine ⟨⟨by decide, by decide⟩, ⟨by decide, by decide⟩, by decide, by decide, by decide, by decide, by decide⟩
theorem test_aadd_asks : (curOf (exec (.aadd p0 7 5 6 .acq .t) (at0 (regs 0x1000 3)))).ask.map (fun a => (a.1, match a.2 with
    | .request r _ => some (r.va, r.op, r.order, r.scope)
    | _ => none)) = some (.stall, some (0x1000, .atomic .add 3 0 7, .acq, .t)) := by decide
theorem test_aadd_answered : (after (exec (.aadd p0 7 5 6 .acq .t) (at0 (asking 3 { regs 0x1000 3 with answers := [(3, 9, none)] })))).g[7] = 9 := by decide
/-- `PhasersAndMigrationsAnswer`: an answer has come to the waiting bundle; a migration of system software. -/
theorem wit_phasers : Accessible ((at0 (regs 0x1040 0)).rg 5) 64 ∧ (at0 (asking 3 { answers := [(3, 7, none)] })).sentHere = some 3 ∧
    (at0 (asking 3 { answers := [(3, 7, none)] })).answerHere = some (7, none) ∧
    (let s := at0 (regs 0 0x8FFFFF0000)
     s.pre.sys.asn = 0 ∧ (s.rg 7).extractLsb' 12 52 = 0#52 ∧ (s.rg 5).extractLsb' 56 8 = 0#8 ∧ (s.rg 6).extractLsb' 0 16 = 0#16 ∧ (s.rg 6).toNat + 0x10000 ≤ 0x9000000000) := by
  refine ⟨⟨by decide, by decide⟩, by decide, by decide, by decide⟩
/-- `PrefetchDrainPurge`. -/
theorem wit_purges : (0x100000000000000#64).extractLsb' 56 8 ≠ 0#8 ∧ (at0 (drained {})).drainHere = some 0 ∧ (at0 (drained {})).requests = [] ∧
    (at0 {}).pre.handler = false ∧ (at0 {} { slot := .g }).cur.trap = none ∧ (at0 { handler := true }).pre.handler = true ∧
    (at0 { handler := true }).pre.held = [] ∧ (at0 (asking 3 { handler := true, answers := [(3, 7, none)] })).sentHere = some 3 ∧ (at0 (asking 3 { handler := true, answers := [(3, 7, none)] })).answerHere.isSome = true := by decide
theorem test_purge_user : (curOf (exec (.purgeDc p0 5 0) (at0 (regs 0x1000 0) { slot := .g }))).trap.map (·.cause) = some .protection := by decide
theorem test_pfg_wild : (stateOf (exec (.pfg p0 5 0) (at0 (regs (-1) 0)))).requests = [] := by decide

/-! The L slot -/

/-- `GalleryAccesses`: the last doubleword of the gallery, one byte beyond alignment, and the first address outside. -/
theorem wit_gallery : (0x1FFFF8#64).toNat % 8 = 0 ∧ (0x1FFFF8#64).toNat + 8 ≤ 0x200000 ∧ (0x1FFFF9#64).toNat % 8 ≠ 0 ∧
    (0x200000#64).toNat % 8 = 0 ∧ 0x200000 < (0x200000#64).toNat + 8 ∧ (at0 {} { slot := .l }).cur.trap = none := by decide
theorem test_syb_place : ((after (exec (.syb p0 6 5 0) (at0 (regs 0x1FFFFF 0x1234)))).locals.map (fun w => (w.off, w.bytes))) = [(0x1FFFFF, [0x34])] := by decide
theorem test_lyh_zero_extends : (after (exec (.lyh p0 7 5 1) (at0 { regs 0x100 0 with gal := [(0x102, 0xFF), (0x103, 0xFF)] }))).g[7] = 0xFFFF := by decide
theorem test_lyd_outside : (curOf (exec (.lyd p0 7 5 0) (at0 (regs 0x200000 0) { slot := .l }))).trap.map (·.cause) = some .protection := by decide
/-- `GroupScalarWrites`: scalar 15 of group 23, and the two causes. -/
theorem wit_scalars : (1532#64).toNat % 4 = 0 ∧ (1532#64).toNat ≤ 1532 ∧ (1533#64).toNat % 4 ≠ 0 ∧ (1536#64).toNat % 4 = 0 ∧ 1532 < (1536#64).toNat := by decide
theorem test_sgw : ((after (exec (.sgw p0 6 5 0) (at0 (regs 1532 0x100000007)))).pend.map (fun w => (w.group, w.w))) = [(23, .scalar 15 7)] := by decide
/-- `BackBankWrites`: no group, an accepted `nop`, and a reserved opcode with ARM bit 0 set and clear. -/
theorem wit_backBank : ((at0 (regs 1 0)).rg 6).extractLsb' 16 24 = 0#24 ∧ ((at0 (regs 1 0xFFFFFF0000)).rg 6).extractLsb' 16 24 ≠ 0#24 ∧
    ({} : Bank).reason 0 1 = none ∧ ({} : Bank).reason 0 0x7F00000000000001 = some 1 ∧
    (at0 { sys := { arm := 1 } }).pre.sys.arm.getLsbD 0 = true ∧ (at0 {}).pre.sys.arm.getLsbD 0 = false := by decide
/-- The table writes of a cycle performed, as its end does. -/
def tablesOf (b : Body) : Body := b.tableOps.foldl Body.performTable b
theorem test_twrite : ((tablesOf (after (exec (.twrite p0 5 6 3) (at0 (regs 1 0x10000))))).back.get 0 3,
    (tablesOf (after (exec (.twrite p0 5 6 3) (at0 (regs 1 0x10000))))).back.get 1 3) = (1#64, 0#64) := by decide
theorem test_twrite_refused : (tablesOf (after (exec (.twrite p0 5 6 0) (at0 (regs 0x7F00000000000001 0x10000))))).back.refused = true := by decide

/-! The X slot -/

/-- `ControlTransfers`: an even target, one with bit 1, one with bit 56. -/
theorem wit_transfers : (0xFFFFFFFFFFFFFC#64).toNat % 4 = 0 ∧ (0xFFFFFFFFFFFFFC#64).toNat < 2 ^ 56 ∧ (2#64).toNat % 4 ≠ 0 ∧
    (0x100000000000000#64).toNat % 4 = 0 ∧ 2 ^ 56 ≤ (0x100000000000000#64).toNat ∧ (at0 {} { slot := .x }).cur.trap = none := by decide
theorem test_br_back : (curOf (exec (.br p0 (-2)) (at0 {} { hdr := 0x400010 }))).target = some 0x400008 := by decide
theorem test_call_links : (after (exec (.call p0 4) (at0 {} { hdr := 0x400000, len := 8 }))).g[1] = 0x400008 := by decide
theorem test_jr_misaligned : (curOf (exec (.jr p0 5) (at0 (regs 0x400002 0) { slot := .x }))).trap.map (fun t => (t.cause, t.taddr)) = some (.misaligned, 0x400002) := by decide
/-- Core 0 with the words of a control bundle in its instruction cache. -/
def cached (a : VA) (ws : List (BitVec 32)) (b : Body := {}) (k : Cur := {}) : State :=
  { at0 b k with cores := State.reset.cores.set 0 { b, icache := ws.zipIdx.foldl (fun c (w, i) => cacheWord c (a + BitVec.ofNat 56 (4 * i)) w) [] } }
/-- `HardwareLoops`: a count, a count of 0 with the body's last bundle in the cache, and handler mode. -/
theorem wit_loops : (at0 (regs 3 0)).pre.handler = false ∧ (at0 (regs 3 0)).rg 5 ≠ 0 ∧ (at0 (regs 3 0)).rg 6 = 0 ∧
    (cached 0x1010 [0x10000000]).cores[0].cachedWord false 0x1010 = some 0x10000000 ∧ ctlLength 0x10000000 = some 4 ∧
    (at0 { handler := true } { slot := .x }).pre.handler = true := by decide
theorem test_loop_opens : (after (exec (.loop 1 5 4) (at0 (regs 3 0) { hdr := 0x1000, len := 8 }))).loops = [⟨1, 0x1008, 0x1010⟩] := by decide
theorem test_loop_zero : (curOf (exec (.loop 1 6 4) (cached 0x1010 [0x10000000] (regs 3 0) { hdr := 0x1000 }))).target = some 0x1014 := by decide
theorem test_lpstep : (after (exec (.lpstep p0 2 1 7 5) (at0 (regs 3 0)))).steps[2][1] = some (7, 3) := by decide
def busyToken : Command := { id := 0, engine := 1, tok := some 5, baddr := 0, reads := [], writes := [], src := ⟨0, 0, 0⟩ }
/-- `TokensAndFlags`: token 5 busy, others idle; flag 2 set, others clear; masks of both. -/
theorem wit_tokens : ({ commands := [busyToken] } : Body).tokenBusy 5 = true ∧ ({ commands := [busyToken] } : Body).tokenBusy 6 = false ∧
    (0x20#64).setWidth 16 = 0x20#16 ∧ ({ flags := (Vector.replicate 16 false).set 2 true } : Body).flags[2] = true ∧ ({} : Body).flags[3] = false := by decide
theorem test_waitk_holds : (curOf (exec (.waitk p0 5) (at0 { commands := [busyToken] }))).hold = some .wait := by decide
theorem test_waitkMask_idle : (curOf (exec (.waitkMask p0 5) (at0 { regs 0xFFDF 0 with commands := [busyToken] }))).hold = none := by decide
theorem test_setfMask : ((after (exec (.setfMask p0 5) (at0 (regs 0x8001 0)))).flagOps.map (fun o => (o.flag, o.set))) = [(0, true), (15, true)] := by decide
/-- `SequencerAndQueues`: running, stopped with an aligned, a misaligned and an unset address, queues with an entry and empty. -/
theorem wit_sequencer : ({ brun := true } : Body).brun = true ∧ ({} : Body).brun = false ∧ (0x400000#64).toNat % 4 = 0 ∧ (0x400002#64).toNat % 4 ≠ 0 ∧
    ({ bpcUnset := false } : Body).bpcUnset = false ∧ ({} : Body).bpcUnset = true ∧ (List.replicate 63 0#64).length < 64 ∧
    ({ btq := [⟨7, 0⟩] } : Body).btq = [⟨7, 0⟩] ∧ ({} : Body).stq = [] ∧ ({ stq := [1] } : Body).stq = [1] := by decide
theorem test_bstart : ((after (exec (.bstart p0 5) (at0 (regs 0x400000 0)))).brun, (after (exec (.bstart p0 5) (at0 (regs 0x400000 0)))).bpc) = (true, 0x400000#56) := by decide
theorem test_popq : (after (exec (.popq p0 7) { at0 { btq := [⟨9, 0⟩, ⟨8, 0⟩] } with cycle := 1 })).g[7] = 9 := by decide
theorem test_stqrd_empty : (after (exec (.stqrd p0 5 6) (at0 (regs 3 4)))).g[5] = 0 := by decide
/-- `SystemRegisters`: a handler's register in and out of handler mode, and numbers outside the map. -/
theorem wit_registers : (at0 { handler := true }).pre.handler = true ∧ (at0 {} { slot := .x }).pre.handler = false ∧ ReadsAfresh (at0 {}) ∧
    (0x006#12) ∉ [0x000#12, 0x001, 0x002, 0x003, 0x004, 0x005, 0x008, 0x009, 0x00A, 0x00B, 0x010, 0x011, 0x012, 0x013, 0x014, 0x015, 0x018, 0x019,
      0x01A, 0x020, 0x021, 0x022, 0x023] := ⟨by decide, by decide, by rfl, by decide⟩
theorem test_landmax_zero : (after (exec (.mtsr p0 5 8) (at0 { handler := true }))).sys.landMax = 65535 := by decide
theorem test_tvec_low_bits : (after (exec (.mtsr p0 5 0x10) (at0 { regs 0x400003 0 with handler := true }))).sys.tvec = 0x400000 := by decide
theorem test_mtsr_readonly : (curOf (exec (.mtsr p0 5 1) (at0 {} { slot := .x }))).trap.map (·.cause) = some .protection := by decide
theorem test_mfsr_unlisted : (curOf (exec (.mfsr p0 5 6) (at0 {} { slot := .x }))).trap.map (·.cause) = some .illegalOp := by decide
def keptLoad : Request := { id := 4, core := 0, baddr := 0, issued := 0, asn := 0, va := 0, op := .prefetch }
/-- `TrapsAndReturn`: with and without a kept access to replay. -/
theorem wit_returns : (at0 { handler := true } { slot := .x }).pre.replaying = none ∧
    (let b : Body := { handler := true, replaying := some 4, kept := [keptLoad], sys := { tstat := 0x8000 } }
     b.replaying = some 4 ∧ b.sys.tstat.getLsbD 15 = true ∧ b.kept.find? (·.id == 4) = some keptLoad) := by decide
theorem test_eret : (curOf (exec (.eret p0) (at0 { handler := true, sys := { tret := 0x403008 } } { slot := .x }))).target = some 0x403008 := by decide
theorem test_eret_user : (curOf (exec (.eret p0) (at0 {} { slot := .x }))).trap.map (·.cause) = some .protection := by decide
/-- `TakingATrap`: a core with a handler, in it, and without one. -/
theorem wit_traps : ({} : Body).handler = false ∧ ({} : Body).noHandler = false ∧ ({ handler := true } : Body).handler = true ∧
    ({ noHandler := true } : Body).noHandler = true := by decide
/-- The two traps worked in R205. -/
theorem test_trap_ldd : (let c := ({} : Body).takeTrap { cause := .misaligned, taddr := 0x30000C, slot := 1 } 0x402000 0x402000 false false false false
    (c.sys.tcause, c.sys.taddr, c.sys.tret, c.sys.tstat ||| (BitVec.ofBool c.handler).setWidth 16)) = (0x0004#18, 0x30000C#56, 0x402000#56, 0x1F9#16) := by decide
theorem test_trap_syscall : (let c := ({} : Body).takeTrap { cause := .syscall, aux := 17, slot := 3 } 0x403000 0x403008 false false false false
    (c.sys.tcause, c.sys.taddr, c.sys.tret, c.sys.tstat ||| (BitVec.ofBool c.handler).setWidth 16)) = (0x1114#18, 0#56, 0x403008#56, 0x3F9#16) := by decide

/-! Descriptors -/

/-- Gallery bytes of doublewords from an address upward. -/
def galOf (a : Nat) (ws : List (BitVec 64)) : List (Nat × BitVec 8) :=
  ws.zipIdx.flatMap fun (w, i) => (List.range 8).map fun j => (a + 8 * i + j, w.extractLsb' (8 * j) 8)
/-- A descriptor at 0x1FFFC0, the last place of one. -/
def withDesc (ws : List (BitVec 64)) (y : BitVec 64 := 0xFFFFFF) (k : Cur := {}) : State := at0 { regs 0x1FFFC0 y with gal := galOf 0x1FFFC0 ws } k
def descOf (s : State) : Nat := natLE (s.pre.read .gal (s.rg 5).toNat 64)
/-- `DescriptorsConfigure`: a port of R233, a stack of R255 and a handle of R240 at the end of the gallery, with no command that names it. -/
theorem wit_descriptors : (0x1FFFC0#64).toNat % 64 = 0 ∧ (0x1FFFC0#64).toNat ≤ 0x1FFFC0 ∧
    (portOf 3 (descOf (withDesc [0x040000000#64, 0x0001000100010010, 4]))).isSome = true ∧
    (let d := descOf (withDesc [0x100000001FFF00#64, 0x200000]); d / 2 ^ 96 % 2 ^ 416 = 0 ∧ d % 2 ^ 32 % 256 = 0 ∧ d / 2 ^ 32 % 2 ^ 32 ≤ d % 2 ^ 32 ∧ d / 2 ^ 64 % 2 ^ 32 = 0x200000) ∧
    (let d := descOf (withDesc [0x0000000200000040#64, 0x0000010000001800]);
      fmtOf (.ofNat 4 (d / 2 ^ 48)) = some .fp32 ∧ d / 2 ^ 32 % 2 ^ 16 = 2 ∧ d / 2 ^ 128 % 2 ^ 384 = 0 ∧ d / 2 ^ 52 % 2 ^ 12 = 0 ∧
        23 * (d / 2 ^ 96 % 2 ^ 32) + 64 * fmtSize .fp32 ≤ d / 2 ^ 64 % 2 ^ 32 ∧ (withDesc []).pre.commands = []) := by decide +kernel
theorem test_qcfg_stk : ((after (exec (.qcfgStk p0 5 6) (withDesc [0x100000001FFF00#64, 0x200000] 0x800000))).groups[23].gsp,
    (after (exec (.qcfgStk p0 5 6) (withDesc [0x100000001FFF00#64, 0x200000] 0x800000))).groups[22].gsp) = (0x1FFF00#32, 0#32) := by decide +kernel
theorem test_cbcfg_small : (curOf (exec (.cbcfg p0 5 3) (withDesc [0x0000000200000040#64, 0x00000100000017C0] 0 { slot := .l }))).trap.map (·.cause) = some .protection := by decide +kernel

/-! The M slot -/

/-- A start of one pass over groups 0 and 23, an illegal mode word, and a nest at the end of the gallery. -/
theorem wit_nests : nestWordOk 0 0x7FFFFFFF = true ∧ nestWordOk 3 0x1000000000000 = true ∧ nestWordOk 0 0x80000000 = false ∧ nestWordOk 3 0xFFFF = false ∧
    (let d := descOf (withDesc ([0#64] ++ List.replicate 6 0x1000000000000 ++ [0]))
     ∀ w : Fin 8, nestWordOk w (BitVec.ofNat 64 (d / 2 ^ (64 * w.val))) = true) ∧
    (regs 0 23).g[6].toNat = (23 : GroupId).val ∧ 24 ≤ (24#64).toNat := by decide +kernel
theorem test_mxcfg : ((after (exec (.mxcfg p0 5 6 2) (at0 (regs 0x3000000000010 0x800001)))).groups[23].tile.shadowNest[2],
    (after (exec (.mxcfg p0 5 6 2) (at0 (regs 0x3000000000010 0x800001)))).groups[1].tile.shadowNest[2]) = (0x3000000000010#64, 0x1000000000000#64) := by decide +kernel
theorem test_mxrd_24 : (curOf (exec (.mxrd p0 7 5 0) (at0 (regs 24 0) { slot := .m }))).trap.map (·.cause) = some .illegalOp := by decide +kernel
/-- `MatrixCommandsStart`: the last tile of WB, idle tiles, and a busy token. -/
theorem wit_matrix : (0x5FEB80#64).toNat % 128 = 0 ∧ (loadRange (0x5FEB80#64).toNat 0 true).hi ≤ 0x600000 ∧ ({} : Tile).takesLoad = true ∧
    (at0 {}).hazardFree [loadRange 0x5FEB80 0 true] [] = true ∧ ({} : Tile).busy = false ∧ startCause ({} : Tile).shadowNest (some 4) = none ∧
    (let fp := ({} : Body).nestRanges ({} : Tile).shadowNest 23; (at0 {}).hazardFree fp.1 fp.2 = true) ∧ ({ commands := [busyToken] } : Body).tokenBusy 5 = true := by decide +kernel
theorem test_mxlds : (after (exec (.mxlds p0 5 6 4 0 true) (at0 (regs 0x5FEB80 1)))).commands.map (fun c => (c.engine, c.tok, c.running)) = [(3, some 4, true)] := by decide +kernel
/-- A footprint past WB parks PROTECTION with the address T (R303); a swap waits for the load of its tile (R285). -/
theorem test_mxlds_past : ((after (exec (.mxlds p0 5 6 4 0 true) (at0 (regs 0x5FEC00 1)))).reports.map fun f => (f.cause, f.addr, f.tok)) = [(.protection, 0x5FEC00#56, some 4)] := by decide +kernel
theorem test_mxswap_loading : (let t := (after (exec (.mxswap p0 5) (at0 { regs 1 0 with groups := (Vector.replicate 24 {}).set 0 { tile := { load := some ⟨0, 0, 0, 0, false, []⟩ } } }))).groups[0].tile;
    (t.swapPending, t.swapAtLoad)) = (true, true) := by decide +kernel
theorem test_mxgo_busy : (curOf (exec (.mxgo p0 6 5 0) (at0 { regs 0 1 with commands := [busyToken] } { slot := .m }))).trap.map (·.cause) = some .tokenMisuse := by decide +kernel
/-- `TransformPortsAndSetup`: an idle unit; a buffer, its freeing, a pinned region; nothing that uses them. -/
theorem wit_transforms : ({} : Body).transforms[2].op = none ∧ (cbufOf (descOf (withDesc [0x8001000100000080#64]))).map (·.isSome) = some true ∧
    cbufOf (descOf (withDesc [])) = some none ∧ pinnedOf (descOf (withDesc [0x80#64, 0x1000000, 1])) = some (some (0x80, 0x1000000)) ∧
    (at0 {}).rangeBusy (some ⟨.ab, 0x80, 0x1000⟩) = false ∧ ({} : Body).cbufs[7] = none := by decide +kernel
theorem test_tmov : (after (exec (.tmov p0 5 3 4) (at0 (regs 77 0)))).transforms[3].ports[4] = 77 := by decide +kernel
/-- A `cmp.pack`-free start: one row split from the gallery to AB (R338). -/
def splitPorts : Body := { regs 1 0 with transforms := (Vector.replicate 4 {}).set 0 { ports := #v[0x4000000000000000, 0x2000000000000000, 0, 0x4000, 0] } }

/-! Transform units, copy units, flight, tasks -/

/-- Core 0 with one unit's ports: from the gallery at 0 to AB at 0x80 (LAYOUT from and to global memory), an argument, its second word. -/
def portsAt (u : Fin 4) (i o arg aux : BitVec 64) (cnt : BitVec 64 := 1) : Body :=
  { regs cnt 0 with transforms := (Vector.replicate 4 {}).set u { ports := #v[i, o, 0, arg, aux] }
                    cbufs := (Vector.replicate 8 none).set 0 (some ⟨0x80, 1, 1, 4, 0⟩), pinned := some (0x1000, 0x1000) }
/-- What `TransformOperationsStart` names for these ports. -/
def opHere (b : Body) (u : Fin 4) (kind : Fin 8) : TransformOp :=
  let k := b.transforms[u]
  { id := 0, kind, inp := k.ports[0], out := k.ports[1], cnt := b.g[5].toNat, arg := k.ports[3], aux := k.ports[4]
    buf := if kind = 3 then b.cbufs[fin3 (k.ports[3].extractLsb' 0 3)] else none
    tok := some 4, baddr := 0, issued := 0, src := ⟨0, 0, 0⟩, nextAt := 0 }
def startsHere (b : Body) (u : Fin 4) (kind : Fin 8) : Bool :=
  let op := opHere b u kind
  (b.transforms[u]).op.isNone && op.fieldsOk && !op.footprint.1.overlaps op.footprint.2 && !b.tokenBusy 4 &&
    (at0 b).hazardFree [op.footprint.1] [op.footprint.2] && (op.parked b.pinned).isNone
theorem wit_transformOperations : startsHere (portsAt 0 0x4000000000000000 0x2000000000000080 0x10 0) 0 1 = true ∧
    startsHere (portsAt 0 0x2000000000000080 0x4000000000000000 0x110 0) 0 2 = true ∧
    startsHere (portsAt 1 0x4000000000000000 0x2000000000000080 0 0) 1 3 = true ∧
    startsHere (portsAt 2 0x4000000000000000 0x2000000000000080 0x0000010000000100 0) 2 4 = true ∧
    startsHere (portsAt 2 0x4000000000000000 0x2000000000000080 0x0000008000000080 0) 2 5 = true ∧
    startsHere (portsAt 3 0x5000000000000000 0x5000000000001000 0x100010001 0x110101) 3 6 = true := by decide +kernel
theorem test_trigger_busy : (curOf (exec (.cvtSplit p0 5 (some 5))
    (at0 { portsAt 0 0x4000000000000000 0x2000000000000080 0x10 0 with commands := [busyToken] } { slot := .m }))).trap.map (·.cause) =
    some .tokenMisuse := by decide +kernel
theorem test_trigger_fields : (curOf (exec (.cvtSplit p0 5 none) (at0 (portsAt 0 0x4000000000000000 0x2000000000000080 0x10 0 4097) { slot := .m }))).trap.map (·.cause) =
    some .illegalOp := by decide +kernel
/-- Descriptors of R314: 64 bytes gallery to WB, one tile gallery to AB, one table entry. -/
def cpDesc : BitVec 512 := 0x400000000000000014
def cptDesc : BitVec 512 := 0x800000000011000024
def cptabDesc : BitVec 512 := 0x80000000000000064
def anyCopy : CopyCmd := { id := 0, kind := 1, d := cpDesc, a := 0, b := 0, views := Vector.replicate 8 {}, tok := none, baddr := 0, issued := 0, src := ⟨0, 0, 0⟩, nextAt := 1 }
theorem wit_copyDescriptors : cdOk (BitVec.ofNat 512 (descOf (withDesc [0x14#64, 64]))) = true ∧ cdOk (BitVec.ofNat 512 (descOf (withDesc []))) = false ∧
    ({} : Body).copies[1].cmd = none ∧ ((Vector.replicate 2 { cmd := some anyCopy } : Vector CopyUnit 2)[1]).cmd = some anyCopy := by decide +kernel
theorem test_cpcan : ((after (exec (.cpcan p0 1) (at0 { copies := Vector.replicate 2 { cmd := some anyCopy } }))).copies[1].cmd.map (·.cancel),
    (after (exec (.cpcan p0 1) (at0 { copies := Vector.replicate 2 { cmd := some anyCopy } }))).copies[0].cmd.map (·.cancel)) = (some true, some false) := by decide +kernel
def copyHere (kind : Fin 4) (d : BitVec 512) (a b : BitVec 64) : Bool :=
  let c : CopyCmd := { anyCopy with kind, d, a, b }
  let fp := c.footprint none
  c.accepts none && !fp.1.overlaps fp.2 && !(at0 {}).bundleConflict [fp.1] [fp.2] && (at0 {}).hazardFree [fp.1] [fp.2] && c.parked.isNone
/-- `CopiesStart`: the last 64 bytes of WB, the last tile of AB, the last entry of a bank. -/
theorem wit_copies : (at0 {}).copyUnit = 1 ∧ (at0 {} { slot := .c0 }).copyUnit = 0 ∧ ({ cds := (Vector.replicate 16 none).set 3 (some cpDesc) } : Body).cds[3] = some cpDesc ∧
    copyHere 1 cpDesc 0x1FFFC0 0x5FFFC0 = true ∧ copyHere 2 cptDesc 0 0x3FFB80 = true ∧ copyHere 3 cptabDesc 0 24575 = true := by decide +kernel
theorem test_cp_outside : copyHere 1 cpDesc 0 0x5FFFC1 = false := by decide +kernel

/-- A kernel of two cores side by side, and a team of it on cores 0 and 1. -/
def kern : Kernel :=
  { centry := 0x400000, bentry := none, handler := none, stride := 1, landMax := 65535, cores := 2, rect := some (2, 1), origin := none, extents := []
    got := 0x77, image := 0, imageLen := 0 }
def team : Team :=
  { id := 1, job := 1, t := 0, state := .resident, teamId := 0, queue := 0, asn := 1, kernel := kern, args := Vector.replicate 8 0, stack := 0, ssize := 0
    save := 0, cores := [0, 1], origin := some (0, 0), nextTask := 2 }
def inTeam (b : Body) (k : Cur := {}) (t : Task := {}) (x : Team := team) (u : Task := {}) : State :=
  { State.reset with cores := (State.reset.cores.set 0 { b, task := { t with team := some 1 } }).set 1 { task := { u with team := some 1, index := 1 } }
                     pre := b, cur := k, usher := { State.reset.usher with teams := [x] } }
def askedNow : Body := { asked := some { hdr := 0, drain := some 9 }, sys := { teamCores := 2 } }
/-- `FlightInstructions`: the start cycle is the next one; a neighbour east of core 0; the last vector of the gallery; a vector present. -/
theorem wit_flight : ((inTeam askedNow).teamOf 0).map (·.id) = some 1 ∧ kern.rect ≠ none ∧ (inTeam askedNow).preload 0 = [] ∧
    ((inTeam askedNow {} { arrived := true }).task 0).arrived = true ∧ ({ team with start := some 1 } : Team).start = some 1 ∧ 1 ≤ (inTeam askedNow).cycle + 1 ∧
    team.neighbour 0 1 = some 1 ∧ team.neighbour 0 0 = none ∧ (0x1FFF00#64).toNat % 256 = 0 ∧ (0x1FFF00#64).toNat + 256 ≤ 0x200000 ∧
    ({ inTeam {} with wires := [⟨0, 1, 0, [7]⟩] }).present 0 1 = some [7] ∧ ({ inPhase := true } : Body).inPhase = true := by decide +kernel
theorem test_flbar_arrives : (curOf (exec (.flbar p0 5 0) (inTeam askedNow))).ask = some (.wait, .arrive []) := by decide +kernel
theorem test_flbar_early : (curOf (exec (.flbar p0 5 0) (inTeam askedNow {} { arrived := true } { team with start := some 2 }))).hold = some .stall := by decide +kernel
theorem test_xmit : (stateOf (exec (.xmit p0 5 1) (inTeam (regs 0x1FFF00 0)))).wires.map (fun w => (w.core, w.port, w.at_)) = [(1, 3, 3)] := by decide +kernel
theorem test_xmit_edge : (curOf (exec (.xmit p0 5 0) (inTeam (regs 0x1FFF00 0)))).flight.map (·.2.cause) = [.protection] := by decide +kernel

/-- `SpawnsStartTasks`: core 1 has ended and core 0 waits for nothing; a block of one grain; a FIXED range at its limit. -/
theorem wit_spawn : ((inTeam askedNow).task 0).children < 255 ∧ (inTeam askedNow).drainHere = some 9 ∧ (inTeam askedNow).unperformed 0 9 .t = [] ∧
    1 < (inTeam askedNow).pre.sys.teamCores.toNat ∧ team.cores[1]? = some 1 ∧ ((inTeam askedNow {} {} team { state := some .ended }).task 1).state = some .ended ∧
    (0xFFFFFFFFFFFFFC#64).toNat % 4 = 0 ∧ (0xFFFFFFFFFFFFFC#64).toNat < 2 ^ 56 ∧ grains 0 65536 1 ≤ 65536 ∧ ¬grains 0 65537 1 ≤ 65536 ∧
    team.frozen = false ∧ team.ranges.length < 64 ∧ ((inTeam askedNow).task 1).state ≠ some .ended := by decide +kernel
def spawnBlock : List (Nat × BitVec 8) := galOf 0 [0x400000#64, 0x11, 0, 0, 0, 0, 0, 0x99]
def spawning : State := inTeam { askedNow with g := (regs 1 0x400100).g, gal := spawnBlock } {} {} team { state := some .ended }
theorem test_spawn : (let s := stateOf (exec (.spawn p0 5 6 0) spawning); ((s.body 1).pc, (s.body 1).g[3], (s.body 1).g[4], (s.body 1).g[11], (s.task 0).children)) =
    (0x400100#56, 0x77#64, 0x400000#64, 0x99#64, 1) := by decide +kernel
theorem test_spawn_self : (curOf (exec (.spawn p0 7 6 0) spawning)).trap.map (·.cause) = some .spawnBusy := by decide +kernel
theorem test_spawnr : ((stateOf (exec (.spawnr p0 5 0) (inTeam { askedNow with g := (regs 0x500000000 0).g, gal := galOf 0 [0x400000#64, 4] }))).team? 1).map
    (·.ranges.map fun e => (e.lo, e.hi, e.grain)) = some [(0, 5, 4)] := by decide +kernel
/-- `SpawnsStartTasks`: handler mode, 255 children, a core that another one has reserved, a bad block, a frozen and a full queue. -/
theorem wit_spawnRefused : (inTeam { askedNow with handler := true } { slot := .k }).pre.handler = true ∧ 255 ≤ ((inTeam askedNow {} { children := 255 }).task 0).children ∧
    ((inTeam askedNow {} {} team { state := some .ended, reserved := some 5 }).task 1).reserved = some 5 ∧ (5 : CoreId) ≠ 0 ∧
    (inTeam askedNow {} {} { team with frozen := true }).rangeFrozen { team with frozen := true } = true ∧ (inTeam askedNow).rangeFrozen team = false ∧
    (inTeam askedNow).cur.hold = none ∧ ({ inTeam askedNow with pre := { askedNow with gal := galOf 0 [0x400000#64, 0] } }.galBlock 0).extractLsb' 64 16 = 0#16 := by decide +kernel
theorem test_spawn_reserved : (curOf (exec (.spawn p0 5 6 0) (inTeam { askedNow with g := (regs 1 0x400100).g, gal := spawnBlock } {} {} team { state := some .ended, reserved := some 5 }))).trap.map (·.cause) =
    some .spawnBusy := by decide +kernel
theorem test_spawnr_handler : (curOf (exec (.spawnr p0 5 0) (inTeam { askedNow with handler := true } { slot := .k }))).trap.map (·.cause) = some .illegalOp := by decide +kernel
def oneRange : RangeEntry := { lo := 0, hi := 5, grain := 4, fixed := false, entry := 0, args := Vector.replicate 6 0, views := Vector.replicate 8 {}, child := 0, poster := none }
/-- `TasksJoinAndEnd`: a piece with a grain left, no children, children that have merged, an end with nothing under way. -/
theorem wit_tasks : ReadsAfresh (inTeam askedNow) ∧ (4 : Nat) < 5 ∧ ({ children := 2, closed := true, node := some 3 } : Task).children ≠ 0 ∧
    (inTeam askedNow).joined { children := 2, closed := true, node := some 3 } (some team) = true ∧ askedNow.handler = false ∧ askedNow.commands = [] ∧
    askedNow.reports = [] ∧ askedNow.signals = [] ∧ (inTeam askedNow).arriving 0 = false ∧ askedNow.holdsViews = false ∧ ((inTeam askedNow).task 0).children = 0 ∧
    ((inTeam askedNow {} { state := some .running }).task 0).state = some .running :=
  ⟨by rfl, by decide +kernel⟩
theorem test_rnext : (after (exec (.rnext p0 7) (inTeam askedNow {} { piece := some ⟨4, 5, oneRange⟩ }))).g[7] = 0x500000004 := by decide +kernel
theorem test_rnext_done : (after (exec (.rnext p0 7) (inTeam askedNow {} { piece := some ⟨5, 5, oneRange⟩ }))).g[7] = 0x500000005 := by decide +kernel
theorem test_join_waits : (curOf (exec (.join p0) (inTeam {} {} { children := 1 }))).ask = some (.wait, .join) := by decide +kernel
theorem test_endt : ((stateOf (exec (.endt p0) (inTeam askedNow {} { state := some .running }))).task 0).state = some .ended := by decide +kernel
/-- `ViewsDeclareAndDrop`: the longest view at the ends of its spaces; a declared entry and none. -/
theorem wit_views : ({} : Body).vts[2].valid = false ∧ (0x0010000000100000#64).extractLsb' 53 7 = 0#7 ∧ ((0x0010000000100000#64).toNat % 2 ^ 32) = 1048576 ∧
    vdeclFault ({} : Body).vts 0xFFFFFFFFF00000 1048576 0x100000 0 0 false = none ∧ ({ valid := true } : ViewEntry).held = false ∧
    ({} : Body).copyUnder { valid := true } = false ∧ 0 < ({ children := 1 } : Task).children := by decide +kernel
theorem test_vdecl_overlap : vdeclFault ((Vector.replicate 8 {}).set 0 { valid := true, linesM1 := 0, home := 0x80 }) 0x1000 128 0x80 0 0 false = some (.illegalOp, 0) := by decide +kernel
theorem test_vdrop : (after (exec (.vdrop p0 2) (at0 { vts := (Vector.replicate 8 {}).set 2 { valid := true } }))).vts[2].valid = false := by decide +kernel

/-! The Q slot and the broadcast stream -/

def q0 : Cur := { slot := .q, bcast := true, hdr := 0x2000, len := 8 }
def bcached (ws : List (BitVec 32)) (a : VA) (b : Body) : State :=
  { at0 b q0 with cores := State.reset.cores.set 0 { b, bicache := ws.zipIdx.foldl (fun c (w, i) => cacheWord c (a + BitVec.ofNat 56 (4 * i)) w) [] } }
/-- `BroadcastTransfers`: counts 8 191 and 0, an empty queue and one with a count of 0, the condition `always` and its negation, a full
return stack. -/
theorem wit_transfersB : (8191 : BitVec 13) ≠ 0 ∧ (bcached [0x20000000] 0x2010 {}).cores[0].cachedWord true 0x2010 = some 0x20000000 ∧
    bcastLength 0x20000000 = some 4 ∧ ({} : Body).ctq = [] ∧ (0x100000000#64).setWidth 32 = 0#32 ∧ (0x100000001#64).setWidth 32 ≠ 0#32 ∧
    (0#4).extractLsb' 0 3 = 0#3 ∧ (0#4).getLsbD 3 = false ∧ (8#4).getLsbD 3 = true ∧ (List.replicate 7 (0 : VA)).length < 8 ∧
    8 ≤ (List.replicate 8 (0 : VA)).length ∧ ({} : Body).brets = [] ∧ (at0 {} q0).cur.trap = none := by decide +kernel
theorem test_bloop : ((after (exec (.bloop 2 true 8191 4) (at0 {} q0))).bloops, (after (exec (.bloop 2 true 8191 4) (at0 {} q0))).bl[2]) =
    ([⟨2, true, 0x2008, 0x2010⟩], 8191#32) := by decide +kernel
theorem test_bloop_ctq_zero : (curOf (exec (.bloopCtq 2 false 4) (bcached [0x20000000] 0x2010 { ctq := [0x100000000] }))).target = some 0x2014 := by decide +kernel
theorem test_bbr_back : (curOf (exec (.bbr 0 (-2)) (at0 {} q0))).target = some 0x1FF8 := by decide +kernel
theorem test_bcall_full : (curOf (exec (.bcall 0 4) (at0 { brets := List.replicate 8 0 } q0))).trap.map (·.cause) = some .illegalOp := by decide +kernel
theorem test_bret : (curOf (exec .bret (at0 { brets := [0x2008] } q0))).target = some 0x2008 := by decide +kernel
/-- `BroadcastFlagsQueuesPredicates`. -/
theorem wit_flagsB : ({ flags := (Vector.replicate 16 false).set 15 true } : Body).flags[15] = true ∧ ({} : Body).flags[15] = false ∧
    ({ ctq := [5] } : Body).ctq = [5] ∧ 64 ≤ (List.replicate 64 (⟨0, 0⟩ : BtqEntry)).length ∧ (List.replicate 63 (⟨0, 0⟩ : BtqEntry)).length < 64 := by decide
theorem test_bwaitf_holds : (curOf (exec (.bwaitf 3) (at0 {} q0))).hold = some .stall := by decide +kernel
theorem test_bsetsp : (after (exec (.bsetsp 0x41 0x40) (at0 { sp := (Vector.replicate 8 false).set 0 true |>.set 1 true } q0))).sp = #v[true, false, false, false, false, false, false, true] := by decide +kernel
theorem test_brotA_wraps : ((after (exec (.brotA 0 1) (at0 { groups := Vector.replicate 24 { rot := 63 } } q0))).groups[7]).rot = 0 := by decide +kernel
theorem test_bpopq_gm : ((after (exec (.bpopq (.gm 3)) (at0 { ctq := [0xFF000001] } q0))).gm[3], (after (exec (.bpopq (.gm 3)) (at0 { ctq := [0xFF000001] } q0))).ctq) = (1#24, []) := by decide +kernel
theorem test_bpushq_full : (curOf (exec (.bpushq (.imm 5)) (at0 { btq := List.replicate 64 ⟨0, 0⟩ } q0))).hold = some .stall := by decide +kernel
theorem test_bhalt : ((after (exec .bhalt (at0 { brun := true } q0))).brun, (after (exec .bhalt (at0 { brun := true } q0))).bhalting) = (true, true) := by decide +kernel
/-- `FlipExchangesBanks`: in its cycle, before it, late, unset, refused, with a table copy under way. -/
theorem wit_flip : (5#64).toNat ≠ 0 ∧ (5#64).toNat = { at0 {} with cycle := 5 }.cycle ∧ ({} : Body).back.refused = false ∧ (at0 {}).pre.commands = [] ∧
    (4#64).toNat < { at0 {} with cycle := 5 }.cycle ∧ { at0 {} with cycle := 5 }.cycle < (6#64).toNat ∧
    ({ busyToken with writes := [⟨.tbl, 0, 1⟩] } : Command).writes = [⟨.tbl, 0, 1⟩] := by decide
theorem test_flip : ((after (exec .flip { at0 { sys := { flipAt := 5 }, back := { entries := [(3, 1)] } } q0 with cycle := 5 })).front.entries,
    (after (exec .flip { at0 { sys := { flipAt := 5 }, back := { entries := [(3, 1)] } } q0 with cycle := 5 })).sys.flipAt) = ([(3, 1#64)], 0#64) := by decide +kernel
theorem test_flip_late : (curOf (exec .flip { at0 { sys := { flipAt := 4 } } q0 with cycle := 5 })).trap.map (·.cause) = some .flipLate := by decide +kernel
/-- `IndexedAndEmptyBundles`: one cycle and two; a mask without and with a busy token. -/
theorem wit_ix : ({ slot := .v0 } : Cur).two = false ∧ ({ slot := .v1, two := true } : Cur).two = true ∧ ({ slot := .v1, two := true } : Cur).slot = .v1 ∧
    (at0 {}).pre.tokenBusy 5 = false ∧ (at0 { commands := [busyToken] }).pre.tokenBusy 5 = true ∧ (0x20#16).getLsbD 5 = true := by decide
theorem test_ix_invalid : (curOf (exec (.ix 0 0 0 0) (at0 {} { slot := .v0, bcast := true }))).trap.map (fun t => (t.cause, t.group)) = some (.illegalOp, 0) := by decide +kernel
theorem test_fold : (after (exec (.emptyBundle true 255) (at0 {}))).fold = 256 := by decide +kernel
theorem test_wait_mask : (curOf (exec (.emptyBroadcastBundle 0 0x20) (at0 { commands := [busyToken] } q0))).hold = some .stall := by decide +kernel

/-! Group table entries -/

/-- An entry of group 0 in slot V0, two scalars of the group given as bits. -/
def entryAt (x y : BitVec 32) (b : Body := {}) (z : BitVec 32 := 0) : State :=
  at0 { b with groups := (Vector.replicate 24 {}).set 0 { scal := ((((Vector.replicate 16 0).set 1 x).set 2 y).set 3 z), gsp := 0x1FFF00, glimit := 0x200000 } }
    { slot := .v0, bcast := true }
def vh (cls : Fin 8) (mod : BitVec 4 := 0) : VHead := ⟨cls, mod, 0, false⟩
/-- Lane 5 of the vector that an entry with destination `lat` leaves. -/
def lane5 (r : Host.Outcome State Fault Refusal) : Option (BitVec 32) := (after r).pend.findSome? fun p => match p.w with | .lat v _ => some v[5] | _ => none
def dues (r : Host.Outcome State Fault Refusal) : List Nat := (after r).pend.map (·.due)
/-- The premises of `Elementwise`, `EntryActs` and `PortsApart`: in a first and in a second cycle. -/
theorem wit_entry : EntryActs (entryAt 0 0) [.scalar 1, .lane, .zero, .imm, .grp, .ones, .latL, .latR] [.lat] ∧ EntryActs { entryAt 0 0 with cur := { second := true } } [.port 3] [.cb 2] ∧
    PortsApart [.port 7, .lane] (.port 8) ∧ ((0 : Fin 8) = 0) ∧ (0xC#4).extractLsb' 2 2 = 3#2 :=
  ⟨.inr (by decide +kernel), .inl rfl, fun n h => by cases h; decide, rfl, by decide⟩
theorem test_vfadd : lane5 (exec (.fadd (vh 2) .lat (.scalar 1) (.scalar 2)) (entryAt 0x3FC00000 0x40100000)) = some 0x40700000 := by decide +kernel
theorem test_fadd_due : dues (exec (.fadd (vh 2) .lat (.scalar 1) (.scalar 2)) (entryAt 0x3FC00000 0x40100000)) = [3] := by decide +kernel
theorem test_fma_once : lane5 (exec (.fma (vh 2) .lat (.scalar 1) (.scalar 1) (.scalar 2)) (entryAt 0x3F800001 0xBF800002)) = some 0x28800000 := by decide +kernel
theorem test_fmul_bf16 : lane5 (exec (.fmul (vh 2 4) .lat (.scalar 1) (.scalar 2)) (entryAt 0x40003FC0 0x40404000)) = some 0x40C04040 := by decide +kernel
theorem test_fcvt_saturates : lane5 (exec (.fcvt (vh 2) .lat (.scalar 1) .zero) (entryAt 0x4F800000 0)) = some 0x7FFFFFFF := by decide +kernel
theorem test_fcvt_pack : lane5 (exec (.fcvt (vh 2 4) .lat (.scalar 1) (.scalar 2)) (entryAt 0x3F800000 0x40000000)) = some 0x40003F80 := by decide +kernel
theorem test_iadd_saturates : lane5 (exec (.iadd (vh 1 1) .lat (.scalar 1) (.scalar 2)) (entryAt 0x7FFFFFFF 1)) = some 0x7FFFFFFF := by decide +kernel
theorem test_iadd_unsigned : lane5 (exec (.iadd (vh 1 2) .lat (.scalar 1) (.scalar 2)) (entryAt 0xFFFFFFFF 2)) = some 0xFFFFFFFF := by decide +kernel
theorem test_iadd_lane : lane5 (exec (.iadd (vh 1) .lat .lane (.scalar 2)) (entryAt 0 0xFFFFFFFF)) = some 4 := by decide +kernel
theorem test_iabs_minimum : lane5 (exec (.iabs (vh 1) .lat (.scalar 1)) (entryAt 0x80000000 0)) = some 0x80000000 := by decide +kernel
theorem test_iabs_clamps : lane5 (exec (.iabs (vh 1 1) .lat (.scalar 1)) (entryAt 0x80000000 0)) = some 0x7FFFFFFF := by decide +kernel
theorem test_sll_five_bits : lane5 (exec (.vecSll (vh 0) .lat (.scalar 1) (.scalar 2)) (entryAt 1 33)) = some 2 := by decide +kernel
theorem test_dot8_mixed : lane5 (exec (.dot8 (vh 2 1) .lat (.scalar 1) (.scalar 2) (.scalar 3)) (entryAt 0xFF010101 0xFF010101 {} 10)) = some 0xFFFFFF0E := by decide +kernel
theorem test_isum : lane5 (exec (.isum (vh 3) .lat .lane) (entryAt 0 0)) = some 2016 := by decide +kernel
theorem test_iscan : lane5 (exec (.iscan (vh 3) .lat .lane) (entryAt 0 0)) = some 15 := by decide +kernel
theorem test_bcast : lane5 (exec (.bcast (vh 2) .lat .lane (.scalar 1)) (entryAt 66 0)) = some 2 := by decide +kernel
theorem test_vpcount : lane5 (exec (.vpcount (vh 1) .lat 0) (entryAt 0 0)) = some 64 := by decide +kernel
theorem test_icmp_unsigned : ((after (exec (.icmp (vh 0 3) 2 .lane (.scalar 1)) (entryAt 0xFFFFFFFF 0))).pend.map (·.w)) = [.vp 2 (BitVec.allOnes 64) (BitVec.allOnes 64)] := by decide +kernel
theorem test_vp0_discards : (after (exec (.icmp (vh 0 3) 0 .lane (.scalar 1)) (entryAt 0xFFFFFFFF 0))).pend = [] := by decide +kernel
theorem test_port_unconfigured : (curOf (exec (.mov (vh 0) .lat (.port 3)) (entryAt 0 0))).trap.map (·.cause) = some .illegalOp := by decide +kernel

/-! The plane unit and matrix entries -/

def mh (cls : Fin 8) : MHead := ⟨cls, 0, false⟩
/-- `PlaneLoadsAndStores`: the last BF16 vector of WB, its misaligned neighbour, the last word for a scalar. -/
theorem wit_planeLoads : (entryAt 0x5FFF80 0x5FFF81).addrFaults .wb (.scalar 1) = [] ∧ (entryAt 0x5FFF80 0).addrBase (.scalar 1) = some 0x5FFF80 ∧
    (0x5FFF80 : Int) % 2 = 0 ∧ groupIn .wb 0x5FFF80 128 = true ∧ groupIn .wb 0x5FFF82 128 = false ∧ groupIn .wb 0x5FFFFC 4 = true ∧ (0x5FFF81 : Int) % 2 ≠ 0 ∧
    (entryAt 0 0).dstHolds .lat = false ∧ (entryAt 0 0).dstFaults .lat = [] ∧ (entryAt 0 0).srcHolds .lane = false ∧ (entryAt 0 0).srcRewrite .lane = none ∧
    (entryAt 0 0).srcFaults .lane = [] ∧ (entryAt 0 0).cur.slot = .v0 := by decide +kernel
theorem wit_portsApart : PortsApart [.scalar 1] .lat := fun n h => by cases h
theorem test_ldW : lane5 (exec (.ldW (mh 3) .lat (.scalar 1) 1 .bf16) (entryAt 0x100 0 { wb := [(0x10C, 0xC0), (0x10D, 0x3F)] })) = some 0x3FC00000 := by decide +kernel
theorem test_ldY_outside : (curOf (exec (.ldY (mh 4) .lat (.scalar 1) 1 .fp32) (entryAt 0x1FFF00 0))).trap.map (·.cause) = some .protection := by decide +kernel
theorem test_stA : ((after (exec (.stA (mh 3) .lane (.scalar 1) 0 .int8) (entryAt 0x40 0))).pend.map fun p => match p.w with | .bytes sp bs => (sp, bs.drop 62) | _ => (.tbl, [])) =
    [(.ab, [(0x7E, 62), (0x7F, 63)])] := by decide +kernel
theorem test_stC_saturates : ((after (exec (.stC (mh 2) (.scalar 2) (.scalar 1) 0 .int8) (entryAt 0 128))).pend.length, (after (exec (.stC (mh 2) (.scalar 2) (.scalar 1) 0 .int8) (entryAt 0 127))).pend.length) =
    (2, 1) := by decide +kernel
/-- `PlanePrefixesAndBlocks`: the last row of the last tile of two planes of AB, two planes of two; row 64; an exponent field of 0. -/
theorem wit_planePrefixes : (entryAt 0x3FF7BF 0).addrFaults .ab (.scalar 1) = [] ∧ (0x2000#16).toNat / 4096 = 2 ∧ (1 : Nat) ≤ 2 ∧ (2 : Nat) ≤ 12 ∧
    ((0x3FF7BF : Int) - 0x3FF7BF % 128) = 0x3FF780 ∧ ((0x3FF7BF : Int) % 128).toNat = 63 ∧ groupIn .ab 0x3FF780 (128 + 1024 * 2) = true ∧
    ¬((0x3FF7C0 : Int) % 128).toNat < 64 ∧ headerE ((entryAt 0 0).pre.npfHeader .ab 0x3FF780 63) ≠ 255 := by decide +kernel
/-- Row 0 of a tile of one plane at 0 of WB: exponent field 0x80, every digit 1. -/
def onePlane : Sparse (BitVec 8) := [(1, 0x80)] ++ (List.range 16).map fun i => (128 + i, 0x55)
theorem test_pldW_exponent : ((after (exec (.pldW (mh 4) .lat (.scalar 1) 0x1500 1 false .int32) (entryAt 0 0 { wb := onePlane }))).pend.map (·.w)).getLast? =
    some (.scalar 5 0x80) := by decide +kernel
theorem test_pldW_lanes : lane5 (exec (.pldW (mh 4) .lat (.scalar 1) 0x1500 1 false .int32) (entryAt 0 0 { wb := onePlane })) = some 1 := by decide +kernel
/-- `OptimiserUpdates`: twelve planes in the last tile of WB. -/
theorem wit_updates : (entryAt 0x5FCF80 0).addrFaults .wb (.scalar 1) = [] ∧ ((0x5FCF80 : Int) % 128).toNat = 0 ∧ groupIn .wb 0x5FCF80 (128 + 1024 * 12) = true ∧
    groupIn .wb 0x5FD000 (128 + 1024 * 12) = false ∧ headerE ((entryAt 0 0).pre.npfHeader .wb 0x5FCF80 0) ≠ 255 := by decide +kernel
theorem test_pupdAdd_lines : ((after (exec (.pupdAdd (mh 4) (.scalar 2) (.scalar 1) 0 1 false) (entryAt 0 0x3F800000 { wb := onePlane }))).pend.map (·.due)).getLast? = some 15 := by decide +kernel
/-- `StacksRingsAndPorts`: the bounds exactly met and just missed; a ring of two slots, empty, full and advanced. -/
theorem wit_stacks : (entryAt 0 0).grp.gbase.toNat + 256 * 64 ≤ (entryAt 0 0).grp.gsp.toNat ∧ (entryAt 0 0).grp.gsp.toNat + 256 * 1 ≤ (entryAt 0 0).grp.glimit.toNat ∧
    (entryAt 0 0).grp.glimit.toNat < (entryAt 0 0).grp.gsp.toNat + 256 * 2 ∧ (0 : Nat) < 256 * 1 + 0 ∧
    (let ring : Body := { cbs := (Vector.replicate 16 {}).set 2 ⟨some ⟨0x40, 2, .fp32, 0x1800, 0x100⟩, 0, 0⟩ }
     (entryAt 0 0 ring).advanceFaults 2 (.cb 2) = [] ∧ (entryAt 0 0 ring).advanceFaults 2 .zero = [] ∧
       (entryAt 0 0 ring).advanceHolds ((entryAt 0 0 ring).noteAdvance true (.cb 2) 2) = false ∧
       (entryAt 0 0 ring).advanceHolds ((entryAt 0 0 ring).noteAdvance false (.cb 2) 2) = true) ∧
    (entryAt 0 0).seekFaults true .zero = [] := by decide +kernel
theorem test_popm_bounds : (curOf (exec (.popm (mh 4) (.mat 1 .h 0) 1) (entryAt 0 0))).trap.map (fun t => (t.cause, t.taddr)) = some (.stackBounds, 0x1FFF00) := by decide +kernel
theorem test_pushm : (after (exec (.pushm (mh 4) (.mat 1 .h 0) 0) (entryAt 0 0))).groups[0].gsp = 0x1FFE00 := by decide +kernel
theorem test_cbadv : ((after (exec (.cbadv (mh 0) (.cb 2) .zero 1) (entryAt 0 0 { cbs := (Vector.replicate 16 {}).set 2 ⟨some ⟨0x40, 2, .fp32, 0x1800, 0x100⟩, 3, 2⟩ }))).pend.map
    fun p => (p.due, p.w)) = [(0, .move true 2 1)] := by decide +kernel
/-- `MatrixEntries`: an idle tile, a busy one, a token of another command, one started by this bundle. -/
theorem wit_matrixEntries : (entryAt 0 0).me.groups[0].tile.busy = false ∧ startCause (entryAt 0 0).grp.tile.shadowNest none = none ∧
    (entryAt 0 0 { commands := [busyToken] }).me.tokenBusy 5 = true ∧ (entryAt 0 0 { commands := [busyToken] }).bundleCommand 5 = none ∧
    (entryAt 0 0 { commands := [{ busyToken with src := ⟨3, 0, 0⟩ }] }).bundleCommand 5 ≠ none ∧ (0x5FFB80#32).toNat % 128 = 0 ∧
    (loadRange (0x5FFB80#32).toNat 0 false).hi ≤ 0x600000 ∧ (entryAt 0 0).me.groups[0].tile.takesLoad = true ∧ ({ swapPending := true } : Tile).takesLoad = false := by decide +kernel
theorem test_mxgoG : ((after (exec (.mxgoG (vh 0) 0 true 5) (entryAt 0 0))).commands.map (fun c => (c.engine, c.tok)), (after (exec (.mxgoG (vh 0) 0 true 5) (entryAt 0 0))).groups[0].tile.busy) =
    ([(3, some 5)], true) := by decide +kernel
theorem test_mxldsG_busy : (curOf (exec (.mxldsG (vh 0) 1 false 0 true 5) (entryAt 0 0 { commands := [busyToken] }))).trap.map (·.cause) = some .tokenMisuse := by decide +kernel

/-! Units that act on their own -/

/-- The recorded part of core 0 after an event. -/
def pendOf (w : GWrite) (due issue : Nat) (v1 : Bool) : Pending := ⟨due, issue, v1, 0, w, ⟨1, 0, 0⟩⟩
/-- `LaneGroupEvents`: one write and two writes due now, a set and a clear of one flag, a fetch, a filled ring, a retry. -/
theorem wit_laneEvents : ({ pend := [pendOf (.scalar 3 7) 0 2 false] } : Body).locals = [] ∧ ({ pend := [pendOf (.scalar 3 7) 0 2 false] } : Body).posts = [] ∧ ({} : Body).tableOps = [] ∧
    (pendOf (.scalar 3 7) 0 2 false).due ≤ (at0 {}).cycle ∧ (pendOf (.scalar 3 7) 0 2 false).w.isNpf = false ∧ ((pendOf (.npf .wb []) 0 2 false).w.isNpf = true) ∧
    (let ring : Cb := ⟨some ⟨0x40, 2, .fp32, 0x1800, 0x100⟩, 3, 2⟩; ring.filled 2 = 1) ∧ ({} : Body).groups[0].staged = [] ∧
    ({ bretryAt := some 0 } : Body).bretryAt = some (at0 {}).cycle := by decide +kernel
theorem test_scalar_written : (after (exec (.entryWriteback 0) (at0 { pend := [pendOf (.scalar 3 7) 0 2 false] }))).groups[0].scal[3] = 7 := by decide +kernel
theorem test_v1_after_v0 : (after (exec (.entryWriteback 0) (at0 { pend := [pendOf (.scalar 3 7) 0 2 true, pendOf (.scalar 3 9) 0 2 false] }))).groups[0].scal[3] = 7 := by decide +kernel
theorem test_later_issue : (after (exec (.entryWriteback 0) (at0 { pend := [pendOf (.scalar 3 7) 0 3 false, pendOf (.scalar 3 9) 0 2 true] }))).groups[0].scal[3] = 7 := by decide +kernel
theorem test_cbadv_wraps : (after (exec (.entryWriteback 0)
    (at0 { cbs := (Vector.replicate 16 {}).set 2 ⟨some ⟨0x40, 2, .fp32, 0x1800, 0x100⟩, 3, 2⟩, pend := [pendOf (.move true 2 1) 0 0 false] }))).cbs[2].prod = 0 := by decide +kernel
theorem test_halts : (after (exec (.flagRelease 0) (at0 { brun := true, bhalting := true }))).brun = false := by decide +kernel
theorem test_set_prevails : (after (exec (.flagRelease 0) (at0 { flagOps := [⟨4, true, 0⟩, ⟨4, false, 0⟩] }))).flags[4] = true := by decide +kernel
theorem test_flag_waits : (after (exec (.flagRelease 0) (at0 { flagOps := [⟨4, true, 1⟩] }))).flags[4] = false := by decide +kernel
theorem test_npf_line : (after (exec (.npfLineWrite 0) (at0 { pend := [pendOf (.npf .wb [(5, 7)]) 0 2 false] }))).wb = [(5, 7)] := by decide +kernel

/-- A nest of one pass of one plane over AB 0, row 0 of ACC. -/
def oneRun (ph : NestPhase) : NestRun :=
  { nest := ({} : Tile).shadowNest, split := 0, command := 0, phase := ph, entry := false, baddr := 0, issued := 0, v1 := false, src := ⟨2, 0, 0⟩ }
def tileBody (t : Tile) (b : Body := {}) : Body := { b with groups := (Vector.replicate 24 {}).set 0 { tile := t } }
/-- `MatrixEvents`: a pass that faults and one that does not, a row to write, a boundary, a load at its first line and at its last. -/
theorem wit_matrixEvents : (oneRun (.start 0)).phase = .start 0 ∧ ({} : Body).passFault (oneRun (.start 0)).nest 0 = none ∧
    (({} : Body).passFault ((oneRun (.start 0)).nest.set 0 64) 0).isSome = true ∧ (oneRun (.start 0)).nest.planes = 1 ∧
    1 < Nest.planes ((oneRun (.start 0)).nest.set 0 0x100000000) ∧ (List.replicate 64 (5 : Int)).length = 64 ∧
    (∀ x ∈ List.replicate 64 (2147483647 : Int), x = sat x (-(2 ^ 31)) (2 ^ 31 - 1)) ∧ ({} : Body).stopping = false ∧
    ((oneRun (.boundary 0)).nest.boundaries 0).length ≤ 6 ∧ ({} : Tile).swapPending = false := by decide +kernel
/-- A row added to what ACC holds; its lane 5 saturates. -/
def addedRow : PassWrite := ⟨0, 0, true, none, (List.range 64).map fun l => if l = 5 then 2147483647 else 1⟩
def addedTo : Body := { tileBody { run := some { oneRun .drain with satPosted := false }, writes := [addedRow] } with acc := [(0, 4), (20, 1)] }
theorem wit_passAdded : addedRow.row.length = 64 ∧ (oneRun (.start 0)).satPosted = false ∧ addedTo.groups[0].tile.writes = [addedRow] ∧
    ({ writes := [addedRow], run := some (oneRun (.boundary 0)), swapPending := true } : Tile).swapPending = true ∧
    levelSwaps (Nest.level ((oneRun (.start 0)).nest) 0) = false := by decide +kernel
theorem test_pass_added : (let b := after (exec (.passAccWrite 0 0) (at0 addedTo)); (b.pend.flatMap fun w => match w.w with
    | .bytes _ bs => bs.take 1 ++ (bs.drop 20).take 4
    | _ => [], b.posts.length)) = ([(0, 5#8), (20, 0xFF#8), (21, 0xFF#8), (22, 0xFF#8), (23, 0x7F#8)], 1) := by decide +kernel
/-- A swap asked of a running nest is made at the end of the nest's granule, and not while a load is out (R290, R304). -/
theorem test_boundary_swaps : (let r := { oneRun (.boundary 6) with split := 1, nest := (oneRun (.start 0)).nest }
    let k : Tile := { run := some r, swapPending := true, shadow := loadedStore 3 [] }
    (((after (exec (.levelBoundary 0 0) (at0 (tileBody k)))).groups[0].tile.swapPending), r.nest.boundaries 0)) = (false, [0, 1, 2, 3, 4, 5]) := by decide +kernel
theorem test_pass_faults : ((after (exec (.matrixPass 0 0) (at0 (tileBody { run := some { oneRun (.start 0) with nest := (oneRun (.start 0)).nest.set 0 64 } })))).groups[0].tile.run.map (·.phase)) =
    some .drain := by decide +kernel
theorem test_load_line : ((after (exec (.shadowLoadDone 0 0) { at0 (tileBody { load := some ⟨0, 0, 0, 0, false, []⟩ }) with cycle := 1 })).groups[0].tile.load.map (·.lines.length)) = some 1 := by decide +kernel

def workTeam : Team := { team with cores := [0] }
/-- `ControlEvents`: handler mode and flight phases apart, with and without a handler, a fault parked, a stop, an error, a retirement. -/
theorem wit_controlEvents : ({} : Body).inPhase = false ∧ ({} : Body).handler = false ∧ ({} : Body).noHandler = false ∧ ({} : Core).rerun = none ∧
    (at0 {} {} { stopReq := true }).mayStop 0 = true ∧ (at0 {}).mayStop 0 = false ∧ (inTeam {} {} { state := some .waiting, stopReq := true, stopAfter := 0 } workTeam).team? 1 = some workTeam ∧
    ({ state := some .waiting } : Task).waits = true ∧ { at0 {} {} { stopReq := true, stopAfter := 4 } with cycle := 5 }.mayStop 0 = true ∧
    ({} : Body).bracket = false ∧ ({} : Body).busy = none ∧ ({} : Core).arrived = [] ∧ (at0 { stopping := true }).quiet 0 = true ∧ (at0 {}).teamOf 0 = none ∧
    (at0 {}).requests = [] := by decide +kernel
theorem wit_journalEmpty : (at0 {}).cores[0].journalFull = false := by rfl
theorem test_illegal_bundle : ((after (exec (.illegalBundle 0 false) (at0 { pc := 0x4000 }))).sys.tcause, (after (exec (.illegalBundle 0 false) (at0 { pc := 0x4000 }))).handler) = (1#18, true) := by decide +kernel
theorem test_broadcast_trap_waits : ((after (exec (.reservedOpcode 0 true 8) (at0 { brun := true }))).btrap.map (·.cause), (after (exec (.reservedOpcode 0 true 8) (at0 { brun := true }))).brun) = (some .illegalOp, false) := by decide +kernel
def parkedFault : Parked := { cause := .protection, engine := 1, tok := some 3, baddr := 0x4000, addr := 0x123, issued := 0 }
theorem test_landing_delivers : ((after (exec (.landing 0) (at0 { pc := 0x4008, faults := [parkedFault] }))).sys.taddr, (after (exec (.landing 0) (at0 { pc := 0x4008, faults := [parkedFault] }))).sys.tbaddr) = (0x123#56, 0x4000#56) := by decide +kernel
theorem test_stop_deferred : (stateOf (exec (.stopRequest 0) (at0 { sys := { flipAt := 9, landMax := 9 } }))).cores[0].task.stopAfter = 9 := by decide +kernel
theorem test_stop_not_deferred : (stateOf (exec (.stopRequest 0) (at0 { sys := { flipAt := 10, landMax := 9 } }))).cores[0].task.stopAfter = 0 := by decide +kernel
theorem test_token_idle : (after (exec (.tokenIdle 0 5) (at0 { commands := [{ busyToken with running := false }] }))).commands = [] := by decide +kernel
theorem test_token_busy : (after (exec (.tokenIdle 0 5) (at0 { commands := [busyToken] }))).commands = [busyToken] := by decide +kernel

/-- Copy unit 1 with a command; a transform unit with an operation. -/
def copying (x : CopyCmd) (b : Body := {}) : State := { at0 { b with copies := (Vector.replicate 2 {}).set 1 { cmd := some x } } with cycle := 1 }
def glbCopy : CopyCmd := { anyCopy with d := 0x400000000000000054 }
def glbSource : CopyCmd := { anyCopy with d := 0x400000000000000015, a := 0x1000 }
def copyAnswer : Access :=
  { id := 1, who := .copy 0 1, asn := 0, va := 0x1000, n := 64, bytes := none, round := 0, answer := some (List.replicate 64 7, none) }
theorem wit_overfull (r : Request) (ha : r.va = BitVec.ofNat 56 0x1000) (hn : r.size = 64) : ({} : Body).overfull r = false := by
  have h : linePieces 0x1000 64 = [(0x1000, 64)] := by decide
  simp [Body.overfull, effectLines, ha, hn, h, List.eraseDups_cons]
/-- `CopyTransformEvents`: rows in local spaces and into global memory, a tile with and without E = 0xFF, a table entry, a ring, signals. -/
theorem wit_copyEvents : (copying anyCopy).copyDue 0 1 = some anyCopy ∧ (copying anyCopy).betweenRows 0 1 anyCopy = true ∧ anyCopy.buf = none ∧ anyCopy.off = 0 ∧ anyCopy.ring = 0 ∧ anyCopy.ssp = .gal ∧ anyCopy.dsp = .wb ∧
    glbCopy.dsp = .glb ∧ linePieces 0x1000 64 = [(0x1000, 64)] ∧ findHeld anyCopy.views false 0x1000 64 = none ∧ ({} : Body).sendsDirectly = false ∧
    badHeader (List.replicate 1152 (0 : BitVec 8)) (List.replicate 128 0) = none ∧ badHeader (List.replicate 1152 (0xFF : BitVec 8)) (List.replicate 128 0xFF) = some 0 ∧
    badHeader (List.replicate 1152 (0 : BitVec 8)) (List.replicate 127 0 ++ [1]) = some 63 ∧ (copying glbSource).copyLines 0 1 < 2048 ∧
    (copying glbSource).copyDue 0 1 = some glbSource ∧ (copying glbSource).cores[0].copyLog[1].length ≤ (copying glbSource).cores[0].copyNext[1] ∧
    { copying glbSource with accesses := [copyAnswer] }.gather (.copy 0 1) 0 0 (linePieces 0x1000 64) = .ok (List.replicate 64 7) ∧
    cdf cptDesc 17 1 = 0 ∧ ({} : Body).back.reason 0 0 = none ∧ ({} : Body).back.reason 0 0x7F00000000000001 = some 1 ∧
    ({ commands := [busyToken] } : Body).command 0 = some busyToken ∧ ({} : Body).command 0 = none ∧
    cdf (cpDesc ||| 0x8000) 15 1 = 1 ∧ cdf (cpDesc ||| 0x8000) 16 1 = 0 ∧ cdf (cpDesc ||| 0x10000) 16 1 = 1 ∧ team.frozen = false ∧ team.ranges.length < 64 := by decide +kernel
theorem test_copy_row : ((after (exec (.copyRowMove 0 1) (copying { anyCopy with b := 0x200 } { gal := galOf 0 [0x0102] }))).locals.map fun w => (w.rank, w.space, w.off, w.bytes.take 2)) =
    [(1, .wb, 0x200, [2, 1])] := by decide +kernel
theorem test_copy_cancelled : (after (exec (.copyRowMove 0 1) (copying { anyCopy with cancel := true }))).copies[1].cancelled = true := by decide +kernel
theorem test_copy_held : ((after (exec (.copyRowMove 0 1) (copying { glbCopy with b := 0x1000 }))).held.map (·.va)) = [0x1000] := by decide +kernel
theorem test_ring_advance : (after (exec (.ringAdvance 0 0) (at0 { copies := Vector.replicate 2 { advance := some (true, 2) }, cbs := Vector.replicate 16 ⟨some ⟨0x40, 2, .fp32, 0x1800, 0x100⟩, 3, 2⟩ }))).cbs[2].prod = 0 := by decide +kernel
def transposing : TransformOp := { opHere (portsAt 2 0x4000000000000000 0x2000000000000080 0x0000010000000100 0) 2 4 with id := 0 }
theorem wit_transformEvents : ({ at0 { transforms := (Vector.replicate 4 ({} : TransformUnit)).set 2 { op := some transposing } } with cycle := 0 }).transformDue 0 2 = some transposing ∧ transposing.cnt = 1 ∧
    headerE (({} : Body).npfHeader .gal 0 0) ≠ 255 := by decide +kernel
theorem test_transpose : ((after (exec (.transformComplete 0 2) (at0 { gal := galOf 0 [0x0807060504030201], transforms := (Vector.replicate 4 ({} : TransformUnit)).set 2 { op := some transposing } }))).locals.take 2).map
    (fun w => (w.space, w.off, w.bytes.take 4)) = [(.ab, 0x80, [1, 2, 3, 4]), (.ab, 0x180, [5, 6, 7, 8])] := by decide +kernel

/-! Synchronisation -/

def sync (op : ReqOp) (v : VA := 0x1000) : Request :=
  { id := 3, core := 0, baddr := 0, issued := 0, asn := 1, va := v, op, stage := .engine, trans := some ⟨0, 2 ^ 30, true, false, false, true, false⟩ }
def withRequest (r : Request) (m : List Host.Cell := []) : State := { at0 {} with requests := [r], mem := m, cycle := 10 }
def arrived (op : ReqOp) : Request := { sync op with stage := .back, due := 8 }
/-- `SyncEvents`: an operation at its engine; a reduction of 0 and of 2 participants; records in and out of use; an answer at its core. -/
theorem wit_sync : (withRequest (sync (.atomic .add 1 0 5))).engineReady (sync (.atomic .add 1 0 5)) = true ∧ (withRequest (sync .prefetch)).request? 3 = some (sync .prefetch) ∧
    (withRequest (sync .prefetch)).poison = [] ∧ (sync .prefetch).pa = 0x1000 ∧ (1 : Nat) < (2#16).toNat ∧
    ((withRequest (sync .prefetch)).readPhaser 0x1000).state = 0 ∧ (phaserOf 0x4000000050000000000000001).state = 1 ∧
    ((phaserOf 0x4000000050000000000000001).perform .arr 0 0 0).isNone = true ∧
    ((phaserOf (0x100000000000000000000000001000001 : BitVec 512)).perform .arr 0 0 0).isSome = true ∧
    (withRequest (arrived (.store [1]))).arrives (arrived (.store [1])) = true ∧ (arrived (.store [1])).ackKind = some 0 ∧
    (withRequest (arrived (.store [1]))).waiters 0 < 8192 := by decide +kernel
theorem test_atomic_add : ((stateOf (exec (.atomicPerform 3) (withRequest (sync (.atomic .add 0xFF 0 5)) [⟨0x1000, 2⟩]))).mem.map (fun c => (c.1, c.2)),
    (stateOf (exec (.atomicPerform 3) (withRequest (sync (.atomic .add 0xFF 0 5)) [⟨0x1000, 2⟩]))).requests.map (·.value)) = ([(0x1000, 1#8), (0x1001, 1#8)], [2#64]) := by decide +kernel
theorem test_reduction_full : ((stateOf (exec (.reductionPerform 3) (withRequest (sync (.reduce .add 5 false 1 7)) [⟨0x1010, 1⟩]))).mem.map (fun c => (c.1, c.2))) =
    [(0x1000, 5#8), (0x1008, 5), (0x1010, 1), (0x1014, 1)] := by decide +kernel
theorem test_reduction_empty : ((stateOf (exec (.reductionPerform 3) (withRequest (sync (.reduce .min 5 false 1 7))))).requests.map (·.value)) = [0x7FFFFFFFFFFFFFFF] := by decide +kernel
theorem test_phinit : ((stateOf (exec (.phaserPerform 3) (withRequest (sync (.phaser .init 5 0 0 7))))).readPhaser 0x1000).state = 1 := by decide +kernel
theorem test_pharr_state : ((stateOf (exec (.phaserPerform 3) (withRequest (sync (.phaser .arr 5 0 0 7))))).requests.map (·.fault)) = [some .phaserState] := by decide +kernel
theorem test_store_acknowledged : (stateOf (exec (.acknowledgementArrival 3) (withRequest (arrived (.store [1]))))).cores[0].ackCount = 1 := by decide +kernel

/-! Teams and the merge tree -/

/-- A team whose core 0 runs, core 1 has ended, in cycle 5. -/
def later (x : Team) (t : Task := { state := some .running }) (b : Body := {}) (u : Task := { state := some .ended }) : State :=
  { inTeam b {} t x u with cycle := 5 }
def fixedRange : RangeEntry := { oneRange with fixed := true, leaf := 1, entry := 0x400000 }
def cores (s : State) (d : CoreId) : Body := s.body d
/-- `TeamEvents`: an ended core with a range, with a FIXED range at its last leaf, with a piece to split; the flight barrier; a break. -/
theorem wit_teams : (later { team with ranges := [oneRange] }).takes 1 { team with ranges := [oneRange] } = true ∧ fixedRange.fixed = true ∧
    ¬fixedRange.leaf + 1 < grains fixedRange.lo fixedRange.hi fixedRange.grain ∧
    (later team { state := some .running, piece := some ⟨0, 9, oneRange⟩ }).widest team = some (0, ⟨0, 9, oneRange⟩, 3) ∧ (0 : CoreId) ≠ 1 ∧
    (later team { state := some .ended }).teamOver team = true ∧ team.cores.Nodup ∧ (later team { arrived := true } {} { arrived := true }).barrierFull team = true ∧
    ({ team with start := some 5 } : Team).start = some (later team).cycle ∧
    ({ team with broken := some 4 } : Team).broken = some ({ later team with cycle := 20 }.cycle - 16) := by decide +kernel
theorem test_leaf : (let t := stateOf (exec (.rangeTake 1) (later { team with ranges := [fixedRange] })); ((t.body 1).g[4], (t.body 1).g[5], (t.body 1).pc, (t.team? 1).map (·.ranges.length))) =
    (4#64, 5#64, 0x400000#56, some 0) := by decide +kernel
theorem test_split : (let t := stateOf (exec (.rangeTake 1) (later team { state := some .running, piece := some ⟨0, 9, oneRange⟩ })); ((t.task 0).piece.map (·.hi), (t.task 1).piece.map fun p => (p.cursor, p.hi))) =
    (some 4, some (4, 9)) := by decide +kernel
/-- A piece split off from the one on core 0 pushes line 0 of a view of sums from core 1. -/
def sumView : ViewEntry := { valid := true, held := true, op := 1, linesM1 := 0, touched := [0] }
def child : Node := { id := 8, team := 1, index := 1, parent := none, splitFrom := some 7, ended := true }
def merging (t : Task) (v : ViewEntry := sumView) : State :=
  { later team { state := some .waiting, node := some 7 } { vts := (Vector.replicate 8 {}).set 2 { v with touched := [0] }, gal := [(0, 1)] } with
      nodes := [{ id := 7, team := 1, index := 0, parent := none, ended := true }, child]
      cores := ((later team { state := some .waiting, node := some 7 } { vts := (Vector.replicate 8 {}).set 2 { v with touched := [0] }, gal := [(0, 1)] }).cores).set 1
        { b := { vts := (Vector.replicate 8 {}).set 2 v, gal := [(0, 2)] }, task := { t with state := some .merging, team := some 1, index := 1, node := some 8, progress := { t.progress with vt := 2 } } } }
def npfView : ViewEntry := { sumView with op := 2, planes := 1, linesM1 := 8 }
/-- Line l of the view of core 0 that core 1 merges into has been read or written. -/
def lineOfView (l round : Nat) (bytes : Option (List (BitVec 8))) (found : List (BitVec 8)) : Access :=
  { id := l, who := .sibling 1 0 (some 2), asn := 0, va := BitVec.ofNat 56 (128 * l), n := 128, bytes, round, answer := some (found, none) }
def zeroLine : List (BitVec 8) := List.replicate 128 0
def sumLine : List (BitVec 8) := 3 :: List.replicate 127 0
def oneLine : List (BitVec 8) := 1 :: List.replicate 127 0
def tileLines : List Access := (List.range 9).map (fun i => lineOfView i 0 none zeroLine) ++ [lineOfView 0 1 none zeroLine]
theorem wit_lines : ((State.access? { merging {} with accesses := [lineOfView 0 0 none oneLine, lineOfView 0 0 (some sumLine) []] } (.sibling 1 0 (some 2)) 0 0 128 (some sumLine) 0).bind (·.answer) = some ([], none)) ∧ (combineLine 1 true true oneLine (((merging {}).body 1).readHeld sumView 0 128)).1 = sumLine ∧
    (∀ i < 9, (List.find? (fun a => a.va == BitVec.ofNat 56 (128 * i) && a.round == 0) tileLines).bind (·.answer) = some (zeroLine, none)) ∧
    (List.find? (fun a => a.va == 0 && a.round == 1) tileLines).bind (·.answer) = some (zeroLine, none) ∧ headerE (tileHeader (List.replicate 1152 0) 0) ≠ 255 := by decide +kernel
theorem wit_push : (merging {}).pushDue 1 = some (child, .view 0) ∧ nextEntry ((merging {}).body 1).vts 2 = some 2 ∧ nextTouched sumView 0 = some 0 ∧ nextTouched sumView 1 = none ∧
    nextEntry ((merging {}).body 1).vts 3 = none ∧ (merging {}).node? 8 = some child ∧ nextTile npfView 0 = some 0 ∧ (0 : Nat) < ({ attempts := 1 } : Task).attempts ∧
    (merging { attempts := 1 } npfView).pushDue 1 = some (child, .view 0) ∧
    ({ fault := some (.protection, 0x80) } : Task).fault = some (.protection, 0x80) := by decide +kernel
theorem test_push_adds : ((stateOf (exec (.mergePush 1) { merging {} with accesses := [lineOfView 0 0 none oneLine] })).accesses.map fun a => a.bytes.map (·.take 2)) = [none, some [3, 0]] := by decide +kernel
theorem test_push_last_line : ((stateOf (exec (.mergePush 1) { merging {} with accesses := [lineOfView 0 0 none oneLine, lineOfView 0 0 (some sumLine) []] })).node? 8).map (·.merged) = some true := by decide +kernel
theorem test_push_completes : ((stateOf (exec (.mergePush 1) (merging { progress := { line := 1 } }))).node? 8).map (·.merged) = some true := by decide +kernel
theorem test_barrier : ((stateOf (exec (.flightBarrierComplete 1) (later team { arrived := true } {} { arrived := true }))).team? 1).bind (·.start) = some 69 := by decide +kernel
theorem test_lost_vector : ((stateOf (exec (.vectorArrival 0 2) { at0 {} with wires := [⟨0, 2, 0, []⟩] })).body 0).flight.lost = 1 := by decide +kernel

/-! The usher -/

/-- The lowest gigabyte translated to itself. -/
def mapped (s : State) : State :=
  { s with fabcfg := { xlat := true }, mtlb := (List.finRange 16).map fun k => ⟨k, 0, 0, ⟨0, 2 ^ 30, true, true, false, false, false⟩⟩ }
def cellsOf (a n v : Nat) : List Host.Cell := ((List.range n).map fun i => (a + i, BitVec.ofNat 8 (v / 2 ^ (8 * i)))).filter fun c => c.2 != 0
/-- Queue 0 with a ring of 16 entries at 0x10000, privileged, whose head entry waits to be processed; a word at 0x20000. -/
def queueAt (e : BitVec 512) (word : Nat := 0) (d : BitVec 512 := (0x10000#512 <<< 448) ||| (4#512 <<< 352) ||| (1#512 <<< 349) ||| (1#512 <<< 344) ||| 1) : State :=
  mapped { State.reset with
    mem := cellsOf 0x10000 64 e.toNat ++ cellsOf 0x20000 8 word
    usher := { State.reset.usher with qtbase := 0x8000, enable := true, desc := (Vector.replicate 64 0).set 0 d, readySince := (Vector.replicate 64 none).set 0 (some 0) } }
def nodeEntry (kind : Nat) (rest : BitVec 512) : BitVec 512 := BitVec.ofNat 512 kind ||| rest ||| (0x20000#512 <<< 448)
/-- Memory has answered an access of the usher: a read with bytes, or a write of bytes. -/
def reading (who : AwayFor) (a : Nat) (bs : List (BitVec 8)) : Access :=
  { id := 0, who, asn := 0, va := .ofNat 56 a, n := bs.length, bytes := none, round := 0, answer := some (bs, none) }
def writing (who : AwayFor) (a : Nat) (bs : List (BitVec 8)) : Access :=
  { id := 0, who, asn := 0, va := .ofNat 56 a, n := bs.length, bytes := some bs, round := 0, answer := some ([], none) }
/-- Queue 0 whose head entry has been read and whose new head count has been written, with what else memory has answered. -/
def nodeAt (e : BitVec 512) (head : BitVec 32) (xs : List Access) : State :=
  { queueAt e with accesses := [reading (whoHead 0) 0x10000 (bytesLE 64 e.toNat), writing (whoHead 0) 0x8004 (bytesLE 4 head.toNat)] ++ xs }
def wordIs (v : Nat) : Access := reading (whoHead 0) 0x20000 (bytesLE 8 v)
def counterIs (v : Nat) : Access := { wordIs v with round := 1 }
def signalled : Access := writing (whoHead 0) 0x20000 (bytesLE 8 7)
theorem read_one {s : State} {who : AwayFor} {asn : BitVec 12} {a n : Nat} {bs : List (BitVec 8)} {x : Access} (h : a + n ≤ 2 ^ 56)
    (hl : linePieces (BitVec.ofNat 56 a).toNat n = [(a, n)]) (hx : s.access? who asn (BitVec.ofNat 56 a) n none 0 = some x)
    (hy : x.answer = some (bs, none)) : s.usherRead who asn a n = (.ok bs, s) := by
  rw [State.usherRead, if_neg (Nat.not_lt.2 h), State.glbRead, State.glbLines, hl]
  simp [State.sendNext, hx, State.gather, hy, -BitVec.toNat_ofNat]
theorem write_one {s : State} {who : AwayFor} {asn : BitVec 12} {a : Nat} {bs : List (BitVec 8)} {x : Access} (h : a + bs.length ≤ 2 ^ 56)
    (hl : linePieces (BitVec.ofNat 56 a).toNat bs.length = [(a, bs.length)])
    (hx : s.access? who asn (BitVec.ofNat 56 a) bs.length (some bs) 0 = some x) (hy : x.answer = some ([], none)) :
    s.usherWrite who asn a bs = (.ok [], s) := by
  rw [State.usherWrite, if_neg (Nat.not_lt.2 h), State.glbWrite, hl]
  simp [State.writeLines, State.glbLine, hx, hy]
theorem decrement_one {s : State} {who : AwayFor} {asn : BitVec 12} {v : VA} {bs : List (BitVec 8)} {x : Access}
    (hx : s.access? who asn v 8 none 1 = some x) (hy : x.answer = some (bs, none)) : s.glbDecrement who asn v = (.ok bs, s) := by
  simp [State.glbDecrement, hx, hy]
theorem wit_head : HeadIs (nodeAt (nodeEntry 2 0) 1 [wordIs 5]) 0 (nodeEntry 2 0) :=
  ⟨by decide +kernel, by decide +kernel, read_one (x := reading (whoHead 0) 0x10000 (bytesLE 64 (nodeEntry 2 0).toNat)) (by decide +kernel) (by decide +kernel) (by decide +kernel) rfl⟩
theorem wit_headWritten : HeadWritten (nodeAt (nodeEntry 2 0) 1 [wordIs 5]) 0 1 := fun _ =>
  write_one (x := writing (whoHead 0) 0x8004 (bytesLE 4 1)) (by decide +kernel) (by decide +kernel) (by decide +kernel) rfl
theorem wit_usher : (nodeAt (nodeEntry 2 0) 1 [wordIs 5]).nodeWord (whoHead 0) 0 0x20000 = (.ok (bytesLE 8 5), nodeAt (nodeEntry 2 0) 1 [wordIs 5]) ∧ waitOk (nodeEntry 2 0) = true ∧
    (nodeAt (nodeEntry 3 (7#512 <<< 384)) 1 [signalled]).usherWrite (whoHead 0) 0 0x20000 (bytesLE 8 7) = (.ok [], nodeAt (nodeEntry 3 (7#512 <<< 384)) 1 [signalled]) ∧
    (nodeAt (nodeEntry 5 0) 1 [counterIs 9]).glbDecrement (whoHead 0) 0 0x20000 = (.ok (bytesLE 8 9), nodeAt (nodeEntry 5 0) 1 [counterIs 9]) :=
  ⟨read_one (x := wordIs 5) (by decide +kernel) (by decide +kernel) (by decide +kernel) rfl, by decide +kernel,
    write_one (x := signalled) (by decide +kernel) (by decide +kernel) (by decide +kernel) rfl, decrement_one (x := counterIs 9) (by decide +kernel) rfl⟩
theorem wit_privileged : ((queueAt (nodeEntry 4 0)).desc 0).priv = true ∧ (0x8000 + 64 : Nat) ≤ 2 ^ 56 := by decide +kernel
/-- The fields of COND, LOOP, SWITCH and LOAD entries at the ends of their ranges. -/
theorem wit_nodes :
    (let e := nodeEntry 4 (3#512 <<< 364); e.extractLsb' 8 356 = 0 ∧ (e.extractLsb' 448 64).extractLsb' 0 3 = 0#3 ∧ (e.extractLsb' 364 4).toNat < 4) ∧
    (let e := nodeEntry 5 (15#512 <<< 368); e.extractLsb' 8 360 = 0 ∧ e.extractLsb' 384 64 = 0 ∧ 1 ≤ (e.extractLsb' 368 16).toNat ∧ (e.extractLsb' 368 16).toNat < 2 ^ 4) ∧
    (let e := nodeEntry 6 ((1#512 <<< 440) ||| (5#512 <<< 424) ||| (3#512 <<< 192)); e.extractLsb' 8 184 = 0 ∧ e.extractLsb' 384 40 = 0 ∧ (e.extractLsb' 440 8).toNat = 1 ∧
      e.extractLsb' 424 16 ≠ 0 ∧ switchCase e 0 ≠ 0) ∧
    (let e := nodeEntry 7 0; e.extractLsb' 8 88 = 0 ∧ e.extractLsb' 192 6 = 0) := by decide +kernel
def headOf (r : Host.Outcome State Fault Refusal) : BitVec 32 := ((stateOf r).desc 0).head
theorem test_signal : headOf (exec (.signal 0) (nodeAt (nodeEntry 3 (7#512 <<< 384)) 1 [signalled])) = 1 := by decide +kernel
theorem test_cond_skips : headOf (exec (.cond 0) (nodeAt (nodeEntry 4 ((5#512 <<< 384) ||| (2#512 <<< 368))) 3 [wordIs 4])) = 3 := by decide +kernel
theorem test_cond_holds : headOf (exec (.cond 0) (nodeAt (nodeEntry 4 ((5#512 <<< 384) ||| (2#512 <<< 368))) 1 [wordIs 5])) = 1 := by decide +kernel
theorem test_loop_back : headOf (exec (.loopNode 0) (nodeAt (nodeEntry 5 (3#512 <<< 368)) 0xFFFFFFFD [counterIs 9])) = 0xFFFFFFFD := by decide +kernel
theorem test_loop_asks : ((stateOf (exec (.loopNode 0) (nodeAt (nodeEntry 5 (3#512 <<< 368)) 0 []))).requests.map (·.op)) = [.decrement (whoHead 0)] := by decide +kernel
theorem test_switch_default : headOf (exec (.switch 0) (nodeAt (nodeEntry 6 ((1#512 <<< 440) ||| (5#512 <<< 424) ||| (3#512 <<< 192))) 5 [wordIs 1])) = 5 := by decide +kernel
theorem test_wrong_kind : headOf (exec (.signal 0) (nodeAt (nodeEntry 2 0) 1 [wordIs 1])) = 0 := by decide +kernel
/-- Placement of a waiting team, the end of its quantum, a save, a job's end. -/
def pending : Team := { team with state := .pending, cores := [], origin := none }
def ushering (x : Team) (js : List Job := []) : State := { later x with usher := { State.reset.usher with enable := true, quantum := 100, teams := [x], jobs := js } }
def doneJob : Job := { id := 1, queue := 0, tag := 0, entry := [], index := 0, event := 0, evalue := 0, created := 0, asn := 0 }
theorem wit_placement : ((ushering pending).placement).map (fun x => (x.1.id, x.2)) = some (1, [0, 1], some (0, 0)) ∧ pending.kernel.image = 0 ∧ [(0 : CoreId), 1].Nodup := by decide +kernel
theorem wit_quantum : team.state = .resident ∧ team.quantumOver = false ∧ team.residentAt + (ushering team).usher.quantumCycles ≤ 160000 := by decide +kernel
theorem wit_saveNow : ({ inTeam {} {} { stopped := true } { team with state := .stopping } { stopped := true } with cycle := 9 }).savesNow { team with state := .stopping } = true := by decide +kernel
theorem wit_teamFault : (later team {} { teamFault := some { cause := .machineCheck } }).faultedCore team = some (0, { cause := .machineCheck }) ∧
    (ushering team [doneJob]).jobOf team = some doneJob ∧ doneJob.faulted = false := by decide +kernel
theorem wit_jobOver : ({ ushering { team with state := .ended, cores := [] } [doneJob] with cores := State.reset.cores }).jobOver doneJob = true ∧ doneJob.event = 0 := by decide +kernel
theorem test_placed : (let t := stateOf (exec (.teamPlace 1) { ushering pending with cores := State.reset.cores }); ((t.body 1).pc, (t.task 1).state, (t.task 2).state)) = (0x400000#56, some .running, none) := by decide +kernel
theorem test_job_ends : (stateOf (exec (.jobComplete 1) { ushering { team with state := .ended, cores := [] } [doneJob] with cores := State.reset.cores })).usher.teams = [] := by decide +kernel
def desc0 : BitVec 512 := (0x10000#512 <<< 448) ||| (4#512 <<< 352) ||| (1#512 <<< 349) ||| (1#512 <<< 344) ||| 1
def tailing : State := { queueAt 0 with accesses := [reading (whoTail 0) 0x8000 (bytesLE 64 desc0.toNat), writing (whoTail 0) 0x8000 (bytesLE 4 5)] }
theorem wit_tails : (match tailing.storeTail 0 5 with | .done _ => true | .waits _ => false) = true ∧
    (match (queueAt 0).storeTail 0 5 with | .done _ => false | .waits _ => true) = true := by decide +kernel
theorem test_tail : ((stateOf (exec (.tailRegisterWrite 0 5) tailing)).desc 0).tail = 5 := by decide +kernel
theorem test_tail_waits : (stateOf (exec (.tailRegisterWrite 0 5) (queueAt 0))).host.queue = [(0, .event (.tailRegisterWrite 0 5))] := by decide +kernel
theorem test_tail_read : (stateOf (execRegisterRead 0x1004 4 { queueAt 0 with accesses := [reading (whoTail 0) 0x8000 [1, 2, 3, 4, 5, 6, 7, 8]] })).host.replies = [some [5, 6, 7, 8]] := by decide +kernel
theorem test_tail_read_waits : (stateOf (execRegisterRead 0x1000 8 (queueAt 0))).host.queue = [(0, .registerRead 0x1000 8)] := by decide +kernel
/-- An unmet WAIT whose interval is over: its descriptor, its entry and its word have been read. -/
def retesting (word : Nat) : State :=
  let s := { queueAt 0 with accesses := [reading (whoDesc 0) 0x8000 (bytesLE 64 desc0.toNat), reading (whoExam 0) 0x10000 (bytesLE 64 (nodeEntry 2 (5#512 <<< 384)).toNat),
    reading (whoExam 0) 0x20000 (bytesLE 8 word)] }
  s.modUsher fun u => { u with retest := u.retest.set 0 (some 0), readySince := u.readySince.set 0 none }
theorem wit_retest : (retesting 5).usher.enable = true ∧ (retesting 5).usher.retest[(0 : Fin 64)] = some 0 ∧ ((retesting 5).setDesc 0 desc0).holdsEntries 0 = true ∧
    (retesting 5).usherRead (whoDesc 0) 0 ((retesting 5).descAddr 0) 64 = (.ok (bytesLE 64 desc0.toNat), retesting 5) :=
  ⟨by decide +kernel, by decide +kernel, by decide +kernel, read_one (x := reading (whoDesc 0) 0x8000 (bytesLE 64 desc0.toNat)) (by decide +kernel) (by decide +kernel) (by decide +kernel) rfl⟩
theorem test_retest_met : (stateOf (exec (.waitRetest 0) (retesting 5))).usher.readySince[(0 : Fin 64)] = some 0 := by decide +kernel
theorem test_retest_unmet : (stateOf (exec (.waitRetest 0) (retesting 4))).usher.readySince[(0 : Fin 64)] = none := by decide +kernel
theorem test_ageing : (let s := queueAt 0; (stateOf (exec (.ageing 0) { s with cycle := 160000000 })).usher.aged[(0 : Fin 64)]) = 1 := by decide +kernel
theorem test_quantum_default : (stateOf (exec (.usherConfigCommit 4 [99, 0, 0, 0]) State.reset)).usher.quantum = 2000 := by decide +kernel
theorem test_staged : (let k := (stateOf (exec (.fabricConfigCommit 0 [3, 0, 0, 0]) State.reset)).fabcfg; (k.xlat, k.budget[(7 : Fin 8)], k.rsleep, k.staged.getLsbD 1)) =
    (true, 0xFFFF, 4096, false) := by decide +kernel
/-- A LOAD entry whose object and status lie beyond the address space; a LAUNCH of kernel 0 of a record at 0x20000. -/
def loadEntry_ : BitVec 512 := nodeEntry 7 ((1#512 <<< 511) ||| (1#512 <<< 159))
def launchEntry_ : BitVec 512 := 1#512 ||| (0x20000#512 <<< 64) ||| (0x20080#512 <<< 128)
def launching : State := nodeAt launchEntry_ 1
  [reading (whoHead 0) 0x20000 (bytesLE 64 (1 + 2 ^ 288)), reading (whoHead 0) 0x20040 (bytesLE 64 0), reading (whoHead 0) 0x20080 (bytesLE 64 7)]
theorem wit_loadEntry : (match (nodeAt loadEntry_ 1 []).loadEntry (whoHead 0) 0 0 loadEntry_ (·.advance 0) with | .done _ => true | .waits _ => false) = true ∧
    loadEntry_.extractLsb' 8 88 = 0 ∧ loadEntry_.extractLsb' 192 6 = 0 := by decide +kernel
theorem test_load : headOf (exec (.load 0) (nodeAt loadEntry_ 1 [])) = 1 := by decide +kernel
theorem wit_launches : launching.usherRead (whoHead 0) 0 0x20000 64 = (.ok (bytesLE 64 (1 + 2 ^ 288)), launching) ∧ launching.usherRead (whoHead 0) 0 0x200C0 0 = (.ok [], launching) :=
  ⟨read_one (x := reading (whoHead 0) 0x20000 (bytesLE 64 (1 + 2 ^ 288))) (by decide) (by decide +kernel) (by decide +kernel) rfl, rfl⟩
theorem test_launch : (let t := stateOf (exec (.launch 0) launching); ((t.desc 0).head, t.usher.jobs.map (·.tag), t.usher.teams.map (·.args[(0 : Fin 8)]))) =
    (1#32, [0#16], [7#64]) := by decide +kernel
theorem test_launch_frozen : (let e := 1#512 ||| (1#512 <<< 12)
    ((stateOf (exec (.launch 0) (nodeAt e 0 [writing (whoHead 0) 0x802B [0x22], writing (whoHead 0) 0 (faultRecord badEntry e 0 none)]))).desc 0).state) = 2 := by decide +kernel
theorem wit_tags : freeTag [] 7 65536 = 7 ∧ freeTag [7, 8] 7 65536 = 9 := by decide +kernel
def savingTeam : Team := { team with state := .stopping, cores := [], save := 0x30000 }
/-- What the usher writes has been written. -/
def allWritten (who : AwayFor) (ps : List Piece8) : List Access := ps.flatMap fun (a, bs) => ((linePieces a bs.length).foldl (fun (xs, bs) p =>
  (xs ++ [writing who p.1 (bs.take p.2)], bs.drop p.2)) (([] : List Access), bs)).1
theorem wit_saves : (mapped (ushering savingTeam)).savesNow savingTeam = true ∧
    (match ({ mapped (ushering savingTeam) with accesses := (allWritten (whoTeam 1) (savingTeam.image false [])).map fun a => { a with asn := 1 } } : State).writePieces
      (whoTeam 1) 1 (savingTeam.image false []) with | (.ok _, _) => true | _ => false) = true := by decide +kernel
def polling (x : Poll) : State := { withRequest { arrived (.phaser .wait 5 0 0 7) with again := true } with
  cores := State.reset.cores.set 0 { b := { poll := some x } } }
def aPoll (n : Nat) (at_ : Option Nat) : Poll := { request := { sync (.phaser .wait 5 0 0 7) with id := 3 }, at_, interval := n }
theorem wit_polls : (polling (aPoll 65535 none)).arrives { arrived (.phaser .wait 5 0 0 7) with again := true } = true ∧
    ((polling (aPoll 65536 none)).body 0).poll = some (aPoll 65536 none) ∧ (aPoll 64 (some 9)).request.from 0 = true := by decide +kernel
theorem test_poll_spurious : ((stateOf (exec (.answerReturn 3) (polling (aPoll 65536 none)))).body 0).answers.length = 1 := by decide +kernel
theorem test_poll_goes_on : ((stateOf (exec (.answerReturn 3) (polling (aPoll 32 none)))).body 0).poll.map (fun p => (p.at_, p.interval)) = some (some 74, 64) := by decide +kernel
theorem test_poll_asks : ((stateOf (exec (.phaserPoll 0) { polling (aPoll 64 (some 9)) with requests := [] })).requests.map (·.id)) = [3] := by decide +kernel

/-! The host port and the newel controller -/

def hostRead (bs : List (BitVec 8)) (n : Nat) : Away := { id := 4, who := .newel, pa := hostBase + 0x1000, n, bytes := none, sentAt := 0, answer := some (some bs) }
/-- A mailbox command that is due, whose buffer at 0x1000 of host memory has been read. -/
def commanded (code : Nat) (bs : List (BitVec 8)) (n alen : Nat := 1024) : State :=
  { State.reset with
    newel := { State.reset.newel with cmd := (0x1000#512 <<< 448) ||| (BitVec.ofNat 512 alen <<< 416) ||| BitVec.ofNat 512 code, doneAt := some 0 }, aways := [hostRead bs n] }
def argRead (s : State) (n : Nat) (bs : List (BitVec 8)) : Bool := (s.newelReads (chunks 4096 (hostBase + s.newel.arg) n)).1 == some (some bs)
/-- `HostEvents`: registers at the ends of their ranges; a command due; buffers read; the power stages at their limits. -/
theorem wit_registersHost : accessOk 0x180 8 = true ∧ accessOk 0x27C 4 = true ∧ accessOk 0x11F8 8 = true ∧ accessOk 0x11FC 8 = false ∧ accessOk 0x2038 8 = true ∧
    State.reset.host.queue = [] ∧ State.reset.newel.doneAt = none ∧ (List.headD [7#8] 0) ≠ 0 := by decide +kernel
theorem wit_commands : (commanded 3 [0xF0, 0x0A] 2).commandDue = true ∧ (commanded 3 [0xF0, 0x0A] 2).newel.argOk = true ∧ (commanded 3 [0xF0, 0x0A] 2).newel.code = 3 ∧
    argRead (commanded 3 [0xF0, 0x0A] 2) 2 [0xF0, 0x0A] = true ∧ natLE [0xF0#8, 0x0A] = 2800 ∧ natLE [0x1F#8, 3] < 800 ∧ argRead (commanded 2 (List.replicate 8 0) 8) 8 (List.replicate 8 0) = true ∧
    argRead (commanded 5 (List.replicate 32 0) 32 288) 32 (List.replicate 32 0) = true ∧ 288 ≤ (commanded 5 [] 32 288).newel.alen ∧ argRead (commanded 7 [127] 1) 1 [127] = true ∧
    natLE [127#8] = (127 : CoreId).val ∧ argRead (commanded 4 (List.replicate 64 0) 64 64) 64 (List.replicate 64 0) = true ∧ (commanded 255 []).newel.code = 255 := by decide +kernel
theorem wit_update (bs : List (BitVec 8)) (h : bs = [0x46, 0x4C, 0x57, 0x4E] ++ List.replicate 444 0) : updateOk (List.replicate 64 0) = false ∧ 
    updateOk bs = rsaVerifies Config.signingModulus Config.signingExponent (bs.take 64) ((bs.drop 64).take 384) := by
  subst h; exact ⟨by decide +kernel, by rw [updateOk, decide_eq_true (by decide +kernel), Bool.true_and]; rfl⟩
theorem wit_hostMemory : isHost (hostBase + 0x1000) = true ∧ ({ hostRead [] 8 with who := .host, answer := none }).fits (List.replicate 8 0) = true ∧
    ({ hostRead [] 8 with answer := none }).late 80000000 = true ∧ ({ hostRead [] 8 with answer := none }).late 79999999 = false ∧
    isHost 0x4000000000000 = false ∧ (0x8FFFFFFFFF : Nat) + 1 ≤ 0x9000000000 ∧ physLines 0x8FFFFFFFFF 1 = [0x11FFFFFFF] := by decide +kernel
/-- A write of host memory has completed: a read follows it, and its completion sends the request home (R135). -/
def hostWrite (bytes : Option (List (BitVec 8))) : State :=
  { State.reset with
    requests := [{ id := 3, core := 0, baddr := 0, issued := 0, asn := 0, va := 0, op := .store [7], stage := .away, out := some [7] }]
    aways := [⟨4, .request 3, hostBase, 1, bytes, 0, none⟩] }
theorem wit_hostWrite : ((hostWrite (some [7])).away? 4 true).isSome = true ∧ ((hostWrite none).away? 4 true).isSome = true := by decide +kernel
theorem test_host_write : (let t := stateOf (exec (.hostCompletion 4 (some [])) (hostWrite (some [7]))); (t.requests.map (·.stage), t.aways.map fun a => (a.n, a.bytes))) = ([.away], [(1, none)]) := by decide +kernel
theorem test_host_written : ((stateOf (exec (.hostCompletion 4 (some [0])) (hostWrite none))).requests.map (·.stage)) = [.packetIn] := by decide +kernel
/-- `CommandsComplete`: 600 bytes have been written in two pieces and read back. -/
def answeredBy (pa n : Nat) (bytes : Option (List (BitVec 8))) : Away := ⟨0, .newel, pa, n, bytes, 0, some (some [])⟩
theorem wit_written : (let bs : List (BitVec 8) := List.replicate 600 7
    let s : State := { State.reset with aways := [answeredBy (hostBase + 64) 512 (some (bs.take 512)), answeredBy (hostBase + 576) 88 (some (bs.drop 512)), answeredBy (hostBase + 64) 64 none] }
    (s.newelWrites (chunks 512 (hostBase + 64) bs.length) bs).1 = true ∧ (s.awayAccess .newel (hostBase + 64) 64 none).1 = some (some [])) := by decide +kernel
/-- The digests of "abc" that FIPS 180-4 gives as its examples begin with these bytes (R482, R483, log 49). -/
theorem test_sha256 : (sha256 [0x61, 0x62, 0x63]).take 4 = [0xBA, 0x78, 0x16, 0xBF] := by decide +kernel
theorem test_sha384 : (sha384 [0x61, 0x62, 0x63]).take 4 = [0xCB, 0x00, 0x75, 0x3F] := by decide +kernel
def windowed (s : State) : State := mapped s
def windowAsked : State :=
  { windowed State.reset with accesses := [reading .host 0x1000 [1, 2, 3, 4, 5, 6, 7, 8], writing .host 0x1008 [7]] }
theorem wit_window : (match windowAsked.glbRead .host windowAsked.windowAsn (windowAsked.windowVA 0x1000) 8 with | (.ok _, _) => true | _ => false) = true ∧
    (match windowAsked.glbWrite .host windowAsked.windowAsn (windowAsked.windowVA 0x1008) [7] with | (.ok _, _) => true | _ => false) = true ∧
    linePieces ((windowed State.reset).windowVA 0x1000).toNat 8 = [(0x1000, 8)] ∧ (0xFFFFFFFF8 : Nat) + 8 ≤ 2 ^ 36 := by decide +kernel
def hot (x : BitVec 16) (w : BitVec 16) : Newel := { sensors := ((Vector.replicate 35 0).set 7 x).set 32 w }
theorem wit_power : 920 ≤ (hot 920 0).hottest ∧ (hot 839 2800).hottest < 840 ∧ (hot 839 2800).watts ≤ (hot 839 2800).power.cap ∧ (hot 0 3080).power.cap < (hot 0 3080).watts ∧
    10 * (hot 0 3080).watts ≤ 11 * (hot 0 3080).power.cap ∧ (hot 0 3080).power.stopped = false := by decide +kernel
theorem wit_links : 2 ≤ (2 : Fin 4).val ∧ sget 0 State.reset.host.retries[(5 : Fin 16)] 7 < 16 ∧ 16 ≤ sget 0 ([(7, 16)] : List (Nat × Nat)) 7 ∧ (∀ h ∈ State.reset.hall, h.placed ≠ some State.reset.cycle) ∧
    (({ State.reset.newel with doneAt := some 0, acted := true } : Newel).out = none) := by decide +kernel
theorem test_winctl : (stateOf (exec (.registerWrite 0x180 [0xFF, 0xFF, 0, 0, 0, 0, 0, 0xFF]) State.reset)).host.winctl = 0xFFF := by decide +kernel
theorem test_register_misaligned : (stateOf (exec (.registerWrite 0x182 [1, 2, 3, 4]) State.reset)).host.replies = [none] := by decide +kernel
theorem test_mailbox_busy : (stateOf (exec (.registerWrite 0x2000 [1, 0, 0, 0]) State.reset)).host.mailbox.extractLsb' 392 8 = 1#8 := by decide +kernel
theorem test_window_write_asks : ((stateOf (exec (.windowWrite 0x1000 [7]) (windowed State.reset))).requests.map fun r => (r.op, r.va, r.stage)) =
    [(.access .host 0 1 (some [7]), 0x1000, .packet)] := by decide +kernel
theorem test_window_read : (stateOf (exec (.windowRead 0x1000 8) windowAsked)).host.replies = [some [1, 2, 3, 4, 5, 6, 7, 8]] := by decide +kernel
theorem test_cap : (stateOf (exec .cap (commanded 3 [0xF0, 0x0A] 2))).newel.power.cap = 2800 ∧ (stateOf (exec .cap (commanded 3 [0x1F, 3] 2))).newel.status = 3 := by decide +kernel
theorem test_bad_command : (stateOf (exec .badCommand (commanded 8 []))).newel.status = 2 := by decide +kernel
theorem test_unretire : (stateOf (exec .unretire (commanded 7 [127] 1))).newel.unretire = [127] := by decide +kernel
theorem test_update_magic : (stateOf (exec .update (commanded 4 (List.replicate 64 0) 64 64))).newel.status = 4 := by decide +kernel
theorem test_completion : (let s := commanded 1 []; (stateOf (exec .mailboxCompletion { s with newel := { s.newel with acted := true, status := 2 } })).host.mailbox.extractLsb' 392 8) = 2#8 := by decide +kernel
theorem test_peer_beyond : (stateOf (exec (.peerRequest ⟨3, 9, 0x9000000000, .read 1⟩) State.reset)).host.answers = [(3, 9, none)] := by decide +kernel
def fromPeer : Request := { id := 3, core := 0, baddr := 0, issued := 0, asn := 0, va := 0, op := .peer ⟨3, 9, 0x40, .write [5]⟩, gslot := false, stage := .working }
theorem wit_peer : (({ State.reset with requests := [fromPeer] } : State).peerWaits fromPeer (physLines 0x40 1)) = false ∧
    ({ State.reset with requests := [{ fromPeer with stage := .back }] } : State).arrives { fromPeer with stage := .back } = true ∧
    (0x9000000000 : Nat) - 1 + peerSize (.write [5]) ≤ 0x9000000000 ∧ badOp ⟨3, 9, 0x40, .write [5]⟩ = false := by decide +kernel
theorem test_peer_write : (stateOf (exec (.peerRequest ⟨3, 9, 0x40, .write [5]⟩) { State.reset with requests := [fromPeer] })).mem = [(0x40, 5)] := by decide +kernel
theorem test_peer_answered : (stateOf (exec (.answerReturn 3) { State.reset with requests := [{ fromPeer with stage := .back }] })).host.answers = [(3, 9, some [])] := by decide +kernel
theorem test_link_down : (let s : State := { State.reset with host := { State.reset.host with links := Vector.replicate 16 2, retries := Vector.replicate 16 [(7, 16)], used := [(9, 3, 4), (9, 2, 5)] } }
    let fails (f : Nat) := stateOf (runInput (.flitError 4 f) s); ((fails 7).host.links[(4 : Fin 16)], (fails 7).host.used, (fails 8).host.links[(4 : Fin 16)], (fails 8).host.retries[(4 : Fin 16)])) =
    (0, [(9, 2, 5)], 2, [(7, 16), (8, 1)]) := by decide +kernel
theorem test_link_up : (stateOf (exec (.linkUp 4 true) State.reset)).host.links[(4 : Fin 16)] = 3 := by decide +kernel
theorem test_thermal : (let s : State := { State.reset with newel := hot 920 0, cycle := 7 }; (stateOf (exec .powerBudgetCheck s)).log.map (·.kind)) = [.thermal] := by decide +kernel
theorem test_power_loss : step (stateOf (exec .powerLoss State.reset)) = .fault .noPower := by rfl
theorem test_reset_keeps_memory : (stateOf (exec .moduleReset { State.reset with mem := [(5, 1)], cycle := 9 })).mem = [(5, 1)] := by decide +kernel

/-! The memory fabric -/

/-- A request of core c at its bank port in the port's cycle. -/
def atPort (op : ReqOp) (v : VA) (c : CoreId := 0) : Request := { id := 3, core := c, baddr := 0, issued := 0, asn := 1, va := v, op, stage := .port }
def fabric (r : Request) (h : List HallLine := []) : State := { mapped State.reset with requests := [r], hall := h, cycle := 16 }
def resident : HallLine := { asn := 1, line := 0, pline := 0x20, w := true, x := false, stream := false, comp := false, tag := 6 }
/-- `FabricEvents`: a request for another die and for its own, a miss, a hit, packets, walks and fills. -/
theorem wit_ports : (fabric (atPort .prefetch 0)).portNext 0 (homeSlice 0) = some (atPort .prefetch 0) ∧ homeDie 0 = dieOf 0 ∧ homeDie 0 ≠ dieOf 16 ∧
    (fabric (atPort .prefetch 0)).hallLine 1 0 = none ∧ (fabric (atPort .prefetch 0) [resident]).hallLine 1 0 = some resident ∧ regionOf (128 * resident.pline) = .hbm ∧
    (fabric (atPort .prefetch 0)).blocked (atPort .prefetch 0) = false ∧ (fabric (atPort .prefetch 0) [resident]).placedNow 1 0 = false := by decide +kernel
theorem wit_packets : (fabric { atPort .prefetch 0 with stage := .packet }).packetReady { atPort .prefetch 0 with stage := .packet } = true ∧
    (fabric { atPort .prefetch 0 with stage := .packetBack }).packetReady { atPort .prefetch 0 with stage := .packetBack } = true ∧
    (fabric { atPort .prefetch 0 with stage := .walk }).walkReady { atPort .prefetch 0 with stage := .walk } = true ∧
    (fabric { atPort .prefetch 0 with stage := .walk }).hitFor { atPort .prefetch 0 with stage := .walk } = none ∧
    (match (fabric { atPort .prefetch 0 with asn := 0 }).translate 0 0 with | (.ok t, _) => t.permits false false && !({ t with w := false } : Trans).permits true false && decide (regionOf (t.pa 0) = .hbm) | _ => false) = true ∧
    (match (fabric (atPort .prefetch 0)).translate 1 0 with | (.error _, _) => true | _ => false) = true ∧
    (fabric { atPort .prefetch 0 with stage := .fill }).fillReady { atPort .prefetch 0 with stage := .fill } = true ∧
    ({ fabric { atPort .prefetch 0 with stage := .packet, last := 1 } with cycle := 32 }).escapes { atPort .prefetch 0 with stage := .packet, last := 1 } = true ∧
    (fabric { atPort .prefetch 0 with stage := .walk, trail := some [1] }).walkReady { atPort .prefetch 0 with stage := .walk, trail := some [1] } = true ∧
    (fabric { atPort .prefetch 0 with stage := .walk }).covered { atPort .prefetch 0 with stage := .walk } = false ∧
    (fabric { atPort .prefetch 0 with asn := 0 }).covered { atPort .prefetch 0 with asn := 0 } = true ∧
    (fabric { atPort .prefetch 0 with stage := .walkOut, at_ := 1, last := 1 }).packetReady { atPort .prefetch 0 with stage := .walkOut, at_ := 1, last := 1 } = true := by decide +kernel
theorem wit_leaves : (fabric { atPort .prefetch 0 with stage := .packetOut }).packetReady { atPort .prefetch 0 with stage := .packetOut } = true ∧
    ({ atPort (.access .host 0 8 none) 0 with stage := .back, gslot := false } : Request).outer = true ∧
    (fabric { atPort (.access .host 0 8 none) 0 with stage := .back }).arrives { atPort (.access .host 0 8 none) 0 with stage := .back } = true := by decide +kernel
theorem wit_routers : (({ fabric (atPort .prefetch 0) with requests := [], cycle := 4096, fabcfg := { rsleep := 4096 } } : State).routerIdle 3) = true ∧
    (({ fabric (atPort .prefetch 0) with requests := [], cycle := 4095, fabcfg := { rsleep := 4096 } } : State).routerIdle 3) = false ∧
    (let x : Request := { atPort .prefetch 0 with stage := .packet, at_ := 3, last := 3, since := 4096 }
      let s : State := { fabric x with cycle := 4096, fabcfg := { rsleep := 4096 } }
      s.routerIdle 3 = true ∧ s.usesRouter x 3 = true) ∧ (1600 : Nat) % 1600 = 0 := by decide +kernel
theorem test_hit_load : ((stateOf (exec (.bankPortRequest 0 (homeSlice 0)) { fabric (atPort (.load 2 false 5 [] 0) 0) [resident] with mem := [(0x1001, 9)] })).requests.map fun r => (r.stage, r.data, r.due)) =
    [(.back, [0, 9], 24)] := by decide +kernel
theorem test_hit_store : (stateOf (exec (.bankPortRequest 0 (homeSlice 0)) (fabric (atPort (.store [9]) 1) [resident]))).mem = [(0x1001, 9)] := by decide +kernel
theorem test_walk_fails : ((stateOf (exec (.pageWalk 3) (fabric { atPort .prefetch 0 with stage := .walk }))).requests.map (·.fault)) = [some .translation] := by decide +kernel
theorem test_router_sleeps : (stateOf (exec (.routerSleep 3) { fabric (atPort .prefetch 0) with requests := [], cycle := 4096, fabcfg := { rsleep := 4096 } })).routers[(3 : Fin 8)].up = false := by decide +kernel
theorem test_recompressed : ((stateOf (exec (.hotLineRecompress 0x20) { fabric (atPort .prefetch 0) [{ resident with hot := true }] with cycle := 4096 })).hall.map (·.hot)) = [false] := by decide +kernel

/-! The whole machine -/

/-- `StepKeepsInv`, `DecodeEncode`: the state after reset, an instruction of each kind of encoding. -/
theorem wit_invariant : Machine.Inv State.reset ∧ (match step State.reset with | .next _ => true | _ => false) = true := ⟨⟨by decide, by decide⟩, by decide +kernel⟩
theorem wit_encodings : wellFormed (.add ⟨7, true⟩ 63 63 63) = true ∧ encode (.add ⟨7, true⟩ 63 63 63) ≠ .event ∧ wellFormed (.bsetf 15) = true ∧ encode (.bsetf 15) ≠ .event ∧
    wellFormed (.emptyBundle true 255) = true ∧ encode (.emptyBundle true 255) ≠ .event ∧ wellFormed (.fadd ⟨6, 0, 7, true⟩ .lat .lane .ones) = true ∧
    encode (.fadd ⟨6, 0, 7, true⟩ .lat .lane .ones) ≠ .event := by decide +kernel
/-- `StepRunsDecoded`: core 0 at a control bundle of `add g12, g12, g15`, and at a broadcast bundle of `bsetf 3` with an empty wait mask. -/
def atAdd : State := State.reset.withFetchWord 32 0x040C30F0
def atBsetf : State := State.reset.withFetchWord 32 0x0C300000
def addHead : CtlHeader := ⟨0x80, false, 0⟩
theorem wit_control : atAdd.powered = true ∧ atAdd.turn = .ctl 0 ∧ ((atAdd.tidy 0).cores[(0 : CoreId)].cachedWord false 0).map decodeCtlHeader = some (.ok addHead) ∧
    ((atAdd.tidy 0).body 0).pc = 0 ∧ addHead.slots = [.a] ∧ (atAdd.tidy 0).cores[(0 : CoreId)].cachedWords false 4 1 = .ok [0x040C30F0] := by decide +kernel
theorem wit_ready : Ready (atAdd.tidy 0) 0 ⟨0, 8, addHead, [(.a, 0x040C30F0)]⟩ (.add p0 12 12 15) := by unfold Ready; decide +kernel
theorem wit_broadcast : atBsetf.powered = true ∧ atBsetf.turn = .brs 0 ∧ (atBsetf.cores[(0 : CoreId)].cachedWord true 0).map (fun h => (decodeBcastHeader h).toOption.map (·.slots)) = some (some [.q]) ∧
    (atBsetf.body 0).bpc = 0 ∧ atBsetf.cores[(0 : CoreId)].cachedWords true 4 1 = .ok [0x0C300000] := by decide +kernel
theorem wit_readyBroadcast : ReadyBroadcast atBsetf 0 0 (.bsetf 3) := by unfold ReadyBroadcast; decide +kernel
theorem test_step_add : (match step atAdd with | .next t => (t.body 0).pc | _ => 1) = 8 := by decide +kernel

end Sys2Proof.Tests
end

section
/-!
Proofs for the statements on the state after reset and on bundles of one slot.
-/
namespace Sys2Proof.Machine

/-! The state after reset -/

theorem State.reset_core (c : CoreId) : State.reset.cores[c] = {} := by simp [State.reset]
theorem State.reset_body (c : CoreId) : State.reset.body c = {} := by rw [State.body, State.reset_core]
theorem State.reset_physRead (pa : Nat) : State.reset.physRead pa 1 = [0#8] := rfl
theorem inv_reset : Inv State.reset := ⟨Memory.wf_reset, Nat.zero_le _⟩

/-- Of the system registers only CORE_ID and LANDMAX read as other than 0 in a core after reset (R172). -/
theorem State.readSr_of_reset_core (s : State) (hpre : s.pre = {}) (hcore : s.cores[s.cur.core] = {}) (n : BitVec 12) :
    s.readSr n = if n = 0x001#12 then .ofNat 64 s.cur.core.val else if n = 0x008#12 then 65535 else 0 := by
  by_cases hid : n = 0x001#12
  · subst hid; rfl
  by_cases hmax : n = 0x008#12
  · subst hmax; simp only [State.readSr, hpre]; rfl
  rw [if_neg hid, if_neg hmax]
  simp only [State.readSr, hpre, hcore]
  split
  case h_1 h => exact absurd (BitVec.eq_of_toNat_eq h) hid
  case h_6 h => exact absurd (BitVec.eq_of_toNat_eq h) hmax
  all_goals rfl

/-- Of the lane predicates vp0 alone selects lanes, and it selects them all. -/
theorem State.lanes_of_reset_body (s : State) (hpre : s.pre = {}) (n : Fin 8) :
    s.lanes n = if n = 0 then BitVec.allOnes 64 else 0 := by
  have hgrp : s.grp = {} := by simp [State.grp, hpre]
  rw [State.lanes, hgrp]
  revert n; decide

/-- The broadcast sequencer after reset (R30, R210). -/
theorem Body.reset_broadcast : let b : Body := {}
    (∀ n : Fin 4, b.bl[n] = 0) ∧ (∀ n : Fin 8, b.sp[n] = (n.val == 0)) ∧ b.gm[0] = 0xFFFFFF ∧ (∀ n : Fin 8, n ≠ 0 → b.gm[n] = 0) ∧
      b.bloops = [] ∧ b.brets = [] ∧ b.brun = false := by decide

theorem Body.reset_group (g : GroupId) : ({} : Body).groups[g] = {} := by simp

/-- Settles O56: every core of the state after reset is the default one, whose registers are read off one by one. -/
theorem resetState : Obligations.ResetState := by
  refine ⟨inv_reset, rfl, rfl, rfl, rfl, rfl, rfl, fun pa _ _ => State.reset_physRead pa, ⟨rfl, rfl, rfl, rfl⟩,
    ⟨rfl, by decide, rfl, rfl⟩, rfl, rfl, fun c => ?_⟩
  rw [State.reset_body]
  have hsr := State.readSr_of_reset_core { State.reset with cur := { core := c }, pre := {} } rfl (State.reset_core c)
  obtain ⟨hbl, hsp, hgm0, hgm, hloops, hrets, hrun⟩ := Body.reset_broadcast
  refine ⟨fun n hn => ?_, hsr _, hsr _, hbl, hsp, hgm0, hgm, hloops, hrets, hrun, fun g => ?_⟩
  · have hid : n ≠ 0x001#12 := by rintro rfl; exact absurd hn (by decide)
    have hmax : n ≠ 0x008#12 := by rintro rfl; exact absurd hn (by decide)
    rw [hsr, if_neg hid, if_neg hmax]
  · refine ⟨State.lanes_of_reset_body _ rfl, fun n => ?_, ?_⟩
    · rw [Body.reset_group]; revert n; decide
    · rw [Body.reset_group]

/-! Bundles of one slot: fetch and decode -/

theorem fetchBundle_oneSlot {k : Core} {pc : VA} {h w : BitVec 32} {head : CtlHeader} {sl : Slot}
    (hcached : k.cachedWord false pc = some h) (hhead : decodeCtlHeader h = .ok head) (hslots : head.slots = [sl])
    (hword : k.cachedWords false (pc + 4) 1 = .ok [w]) : fetchBundle k pc = .ok ⟨pc, 8, head, [(sl, w)]⟩ := by
  simp only [fetchBundle, hcached, hhead, hslots, List.length_singleton, hword]
  rfl

theorem fetchBroadcast_oneSlot {k : Core} {pc : VA} {h w : BitVec 32} {head : BcastHeader} {sl : Slot}
    (hcached : k.cachedWord true pc = some h) (hhead : decodeBcastHeader h = .ok head) (hslots : head.slots = [sl])
    (hword : k.cachedWords true (pc + 4) 1 = .ok [w]) : fetchBroadcast k pc = .ok ⟨pc, 8, head, [(sl, w)]⟩ := by
  simp only [fetchBroadcast, hcached, hhead, hslots, List.length_singleton, hword]
  rfl

/-- A word that decodes passes the checks 4 and 5 of R60, where a flight phase does not forbid it (R400). -/
theorem firstIllegal_oneSlot {flight : Bool} {sl : Slot} {w : BitVec 32} {i : Instr} (hdec : decodeSlot flight sl w = .ok i)
    (hphase : flight = true → phaseForbids sl w = false) : firstIllegal flight [(sl, w)] = none := by
  have hfree : (flight && phaseForbids sl w) = false := by cases flight <;> simp_all
  simp [firstIllegal, reservedHere, malformed, hdec, hfree]

/-- One slot alone cannot name a port of the other flight slot (R405). -/
theorem portClash_oneSlot (sl : Slot) (w : BitVec 32) : portClash [(sl, w)] = false := by
  cases sl <;> rfl

theorem Bundle.instrs_oneSlot {flight : Bool} {hdr : VA} {len : Nat} {head : CtlHeader} {sl : Slot} {w : BitVec 32} {i : Instr}
    (hdec : decodeSlot flight sl w = .ok i) : Bundle.instrs ⟨hdr, len, head, [(sl, w)]⟩ flight = [(sl, w, i)] := by
  simp [Bundle.instrs, hdec]

theorem bcastInstrs_oneSlot {sl : Slot} {w : BitVec 32} {i : Instr} (hdec : decodeSlot false sl w = .ok i) :
    bcastInstrs [(sl, w)] = .ok [(sl, i)] := by
  simp [bcastInstrs, firstIllegal_oneSlot hdec, hdec]

/-! Bundles of one slot: the slot runs -/

/-- What follows an answer: a next state goes on, a fault or a refusal stays. -/
def onNext (r : Result) (f : State → Result) : Result :=
  match r with
  | .next t => f t
  | r => r

/-- The state with an instruction's slot named. -/
def State.inSlot (s : State) (sl : Slot) : State := { s with cur := { s.cur with slot := sl } }

theorem runAll_single {α : Type} (f : α → State → Result) (x : α) (s : State) : runAll f [x] s = f x s := by
  rw [runAll]
  cases f x s <;> rfl

theorem runSlots_oneSlot (sl : Slot) (w : BitVec 32) (i : Instr) (s : State) :
    runSlots [(sl, w, i)] s = exec i (s.inSlot sl) := runAll_single ..

theorem runBroadcast_oneSlot (sl : Slot) (i : Instr) (s : State) :
    runBroadcast [(sl, i)] s = exec i (s.inSlot sl) := runAll_single ..

theorem runBroadcast_nil (s : State) : runBroadcast [] s = .next s := rfl

theorem bcastOrder_single (x : Slot × Instr) (hflip : x.2 ≠ .flip) : bcastOrder [x] = [x] := by
  simp [bcastOrder, hflip]

/-- Two cycles take a bundle with both V slots (R33). -/
theorem State.bundleTwo_single (s : State) (x : Slot × Instr) : s.bundleTwo [x] = false := by
  unfold State.bundleTwo
  split
  case h_1 h0 h1 =>
    have hv0 := List.find?_some h0
    have hv1 := List.find?_some h1
    rw [List.mem_singleton.mp (List.mem_of_find?_eq_some h0)] at hv0
    rw [List.mem_singleton.mp (List.mem_of_find?_eq_some h1), eq_of_beq hv0] at hv1
    contradiction
  case h_2 => rfl

theorem State.flipCause_single (s : State) (x : Slot × Instr) (hflip : x.2 ≠ .flip) : s.flipCause [x] = none := by
  simp [State.flipCause, hflip]

theorem State.flipsNow_single (s : State) (x : Slot × Instr) (hflip : x.2 ≠ .flip) : s.flipsNow [x] = false := by
  simp [State.flipsNow, hflip]

/-- Which entries are matrix work depends on the core before the bundle alone. -/
theorem State.matrixSlot_congr {s t : State} (hpre : s.pre = t.pre) (i : Instr) : s.matrixSlot i = t.matrixSlot i := by
  cases i with
  | ix index gm sp imm => simp only [State.matrixSlot, State.participants, State.maskGroups, hpre]
  | _ => rfl

/-! A control turn -/

theorem step_of_turnStep {s : State} (hpow : s.powered = true) :
    step s = onNext (turnStep s.turn s) fun t => .next { t with turn := s.turn.following } :=
  if_pos hpow

theorem State.takesBroadcast_none {s : State} {c : CoreId} (htrap : (s.body c).btrap = none) (hfault : (s.body c).bfault = none) :
    s.takesBroadcast c = none := by
  simp [State.takesBroadcast, htrap, hfault]

theorem State.enterBundle_of_asked_none {s : State} {c : CoreId} {x : Bundle} (hasked : s.pre.asked = none) : s.enterBundle c x = s := by
  simp [State.enterBundle, hasked]

theorem State.dueFaults_of_faults_nil {s : State} (acting : List Instr) (steps : List Reg) (known : Bool) (hfaults : s.pre.faults = []) :
    s.dueFaults acting steps known = [] := by
  simp [State.dueFaults, hfaults]

theorem State.bracketsHere_none {s : State} {acting : List Instr} {i : Instr} (hacting : ∀ j ∈ acting, j = i) (hbracketed : bracketed i = false)
    (hheld : s.pre.waitsForHeld (s.namedTokens i) = false) (hreplays : s.pre.replaysBy i = false) : s.bracketsHere acting [i] = false := by
  have hany : (acting.any fun j => s.pre.waitsForHeld (s.namedTokens j) || s.pre.replaysBy j) = false := by
    rw [List.any_eq_false]
    intro j hj
    simp [hacting j hj, hheld, hreplays]
  simp [State.bracketsHere, hbracketed, hany]

theorem State.examinable_of_known {s : State} {sl : Slot} {w : BitVec 32} {i : Instr}
    (hpreds : ∀ p ∈ predicates sl w i, s.pre.pReady[p] ≤ s.cycle)
    (hregs : s.slotActs sl w i = true → ∀ r ∈ regSources i, s.pre.readable s.cycle r = true) : s.examinable (sl, w, i) = true := by
  have hknown : s.pre.predsKnown s.cycle (sl, w, i) = true := by simpa [Body.predsKnown] using hpreds
  cases hacts : s.slotActs sl w i with
  | false => simp [State.examinable, hknown, hacts]
  | true => simpa [State.examinable, hknown, hacts] using hregs hacts

/-- The machine as a control bundle finds it: what its slots read is the core as it stands now (R7). -/
def State.atBundle (u : State) (c : CoreId) (x : Bundle) : State :=
  { u with cur := { core := c, hdr := x.hdr, len := x.len }, pre := u.body c }

/-- A bundle with slots that nothing stands before runs its slots, and comes to what they have left. -/
theorem State.issueBundle_eq_runSlots {u : State} {c : CoreId} {x : Bundle} {is : List (Slot × BitVec 32 × Instr)} (hwords : x.words ≠ [])
    (hinstrs : x.instrs (u.body c).inPhase = is) (hasked : (u.body c).asked = none) (hfaults : (u.body c).faults = [])
    (hexam : is.all (u.atBundle c x).examinable = true) (hsteps : ∀ r ∈ (u.body c).steppedBy x, (u.body c).readable u.cycle r = true)
    (hbracket : (u.body c).bracket = true ∨
      (u.atBundle c x).bracketsHere ((is.filter fun i => (u.atBundle c x).slotActs i.1 i.2.1 i.2.2).map (·.2.2)) (is.map (·.2.2)) = false) :
    u.issueBundle c x = onNext (runSlots is (u.atBundle c x)) fun t => (u.atBundle c x).conclude t c x := by
  have hstepsKnown : ((u.body c).steppedBy x).any (fun r => !(u.body c).readable u.cycle r) = false := by simpa using hsteps
  have henter : (u.atBundle c x).enterBundle c x = u.atBundle c x := State.enterBundle_of_asked_none hasked
  have hunbracketed : ¬ ((u.atBundle c x).bracketsHere ((is.filter fun i => (u.atBundle c x).slotActs i.1 i.2.1 i.2.2).map (·.2.2))
      (is.map (·.2.2)) = true ∧ (u.body c).bracket = false) := by
    rintro ⟨hhere, hnot⟩
    simp [hhere, hnot] at hbracket
  simp only [State.issueBundle, ← State.atBundle.eq_def, henter, hinstrs]
  rw [State.dueFaults_of_faults_nil _ _ _ hfaults]
  simp only [oldestFault, List.foldl_nil]
  refine (if_neg ?_).trans ((if_neg hwords).trans (if_neg hunbracketed))
  rintro (hnot | hnot)
  · simp [hexam] at hnot
  · exact absurd hnot (Bool.eq_false_iff.mp hstepsKnown)

/-- Nothing stands before a ready bundle of one slot. -/
theorem State.issueBundle_oneSlot {u : State} {c : CoreId} {x : Bundle} {sl : Slot} {w : BitVec 32} {i : Instr} (hwords : x.words = [(sl, w)])
    (hinstrs : x.instrs (u.body c).inPhase = [(sl, w, i)]) (hready : Ready u c x i) :
    u.issueBundle c x = onNext (exec i ((u.atBundle c x).inSlot sl)) fun t => (u.atBundle c x).conclude t c x := by
  obtain ⟨-, -, -, -, -, -, hasked, -, -, -, hfaults, -, hknown, hsteps, hbracket⟩ := hready
  obtain ⟨hpreds, hregs⟩ := hknown (sl, w) (by simp [hwords])
  have hexam : (u.atBundle c x).examinable (sl, w, i) = true := State.examinable_of_known hpreds hregs
  have hacting : ∀ j ∈ ([(sl, w, i)].filter fun i => (u.atBundle c x).slotActs i.1 i.2.1 i.2.2).map (·.2.2), j = i := by simp
  rw [State.issueBundle_eq_runSlots (by simp [hwords]) hinstrs hasked hfaults (by simp [hexam]) hsteps
    (hbracket.imp_right fun ⟨hbr, hheld, hreplays⟩ => State.bracketsHere_none hacting hbr hheld hreplays), runSlots_oneSlot]

/-- The decode checks of R60 pass, so that the bundle issues. -/
theorem State.attempt_eq_issueBundle {u : State} {c : CoreId} {x : Bundle} (hfetch : fetchBundle u.cores[c] (u.body c).pc = .ok x)
    (hconflicts : (u.body c).conflicts x = false) (hlegal : firstIllegal (u.body c).inPhase x.words = none) (hclash : portClash x.words = false) :
    u.attempt c = u.issueBundle c x := by
  unfold State.body at *
  simp only [State.attempt, hfetch, hconflicts, hlegal, hclash, Bool.false_eq_true, and_false, if_false]

theorem State.controlTurn_eq_attempt {s : State} {c : CoreId} (hlive : (s.tidy c).cores[c].live (s.tidy c).cycle = true)
    (hbusy : ((s.tidy c).body c).busy = none) (hthr : (s.tidy c).throttles c = false) (hfold : ((s.tidy c).body c).fold = 0)
    (htrap : ((s.tidy c).body c).btrap = none) (hfault : ((s.tidy c).body c).bfault = none) : s.controlTurn c = (s.tidy c).attempt c := by
  simp only [State.controlTurn, State.proceed, hlive, hbusy, hthr, hfold, State.takesBroadcast_none htrap hfault,
    Bool.true_eq_false, Bool.false_eq_true, Nat.lt_irrefl, if_false]

/-- A control turn at a ready bundle of one slot. -/
theorem State.controlTurn_oneSlot {s : State} {c : CoreId} {head : CtlHeader} {sl : Slot} {w : BitVec 32} {i : Instr}
    (hfetch : fetchBundle (s.tidy c).cores[c] ((s.tidy c).body c).pc = .ok ⟨((s.tidy c).body c).pc, 8, head, [(sl, w)]⟩)
    (hdec : decodeSlot ((s.tidy c).body c).inPhase sl w = .ok i)
    (hready : Ready (s.tidy c) c ⟨((s.tidy c).body c).pc, 8, head, [(sl, w)]⟩ i) :
    s.controlTurn c = (s.tidy c).issueBundle c ⟨((s.tidy c).body c).pc, 8, head, [(sl, w)]⟩ := by
  obtain ⟨hlive, hthr, hbusy, hfold, htrap, hfault, -, -, hconflicts, hphase, -⟩ := hready
  rw [State.controlTurn_eq_attempt hlive hbusy hthr hfold htrap hfault,
    State.attempt_eq_issueBundle hfetch hconflicts (firstIllegal_oneSlot hdec fun hp => hphase hp (sl, w) (List.mem_singleton_self _))
      (portClash_oneSlot sl w)]

/-! A broadcast turn -/

theorem State.waitMask_none {s : State} {c : CoreId} {m : BitVec 16} (hfaults : (s.body c).faults.any (·.named m) = false)
    (hbusy : (maskMembers m).any (fun n => (s.body c).tokenBusy n) = false) : s.waitMask c m = none := by
  simp [State.waitMask, hfaults, hbusy]

/-- What a broadcast bundle of one slot comes to: a Q slot that holds it fetches the line that it needs (R212). -/
def State.concludeSlot (s t : State) (c : CoreId) (x : BBundle) (sl : Slot) : Result :=
  match (if sl = .q then t.cur.hold else none), t.cur.ask with
  | some _, some (_, .line a) => s.needLine c true a
  | some _, _ => .next s
  | none, _ => .next (s.concludeBroadcast t c x)

theorem State.runBundle_oneSlot {s : State} (c : CoreId) (x : BBundle) (sl : Slot) {i : Instr} (hflip : i ≠ .flip) (hhold : s.cur.hold = none) :
    s.runBundle c x [(sl, i)] = onNext (exec i (s.inSlot sl)) fun t => s.concludeSlot t c x sl := by
  by_cases hq : sl = .q
  · subst hq
    simp only [State.runBundle, List.filter_cons, beq_self_eq_true, if_true, List.filter_nil, bcastOrder_single (.q, i) hflip, runBroadcast_oneSlot]
    cases exec i (s.inSlot .q) <;> rfl
  · have hfilter : [(sl, i)].filter (·.1 == .q) = [] := by simp [hq]
    simp only [State.runBundle, hfilter, bcastOrder_single (sl, i) hflip, runBroadcast_oneSlot, runBroadcast_nil, State.concludeSlot, if_neg hq]
    cases exec i (s.inSlot sl) with
    | next t => simp only [hhold, onNext]
    | fault r => rfl
    | refused r => rfl

theorem State.cur_two_false (s : State) (htwo : s.cur.two = false) : { s with cur := { s.cur with two := false } } = s := by
  rw [← htwo]

theorem State.attemptBroadcast_oneSlot {s : State} {c : CoreId} {x : BBundle} {sl : Slot} {w : BitVec 32} {i : Instr}
    (hfetch : fetchBroadcast s.cores[c] (s.body c).bpc = .ok x) (hwords : x.words = [(sl, w)]) (hdec : decodeSlot false sl w = .ok i)
    (hflip : i ≠ .flip) (hwait : ((s.body c).enterBroadcast s c x).waitMask c x.head.wait = none)
    (hmatrix : ((s.body c).enterBroadcast s c x).matrixSlot i = false) :
    s.attemptBroadcast c (s.body c) false = ((s.body c).enterBroadcast s c x).runBundle c x [(sl, i)] := by
  have hfetch' : fetchBroadcast { s.cores[c] with b := s.body c } (s.body c).bpc = .ok x := hfetch
  simp only [State.attemptBroadcast, hfetch', hwords, bcastInstrs_oneSlot hdec, State.flipsNow_single _ (sl, i) hflip, State.bundleTwo_single,
    State.flipCause_single _ (sl, i) hflip, State.cur_two_false ((s.body c).enterBroadcast s c x) rfl, hwait, hmatrix,
    Bool.false_eq_true, if_false, List.any_cons, List.any_nil, Bool.or_self, and_false, reduceCtorEq]

/-- What the cycle still does after a broadcast bundle: an empty header issues its first empty bundle, a flip takes effect. -/
def State.afterBroadcast (t : State) (c : CoreId) (b : Body) : State :=
  if 0 < (t.body c).bfold then t.bfoldTurn c else if t.cores[c].snapFlip then t.flipAhead c b else t

theorem State.broadcastTurn_eq_attemptBroadcast {s : State} {c : CoreId} (hlive : s.cores[c].live s.cycle = true) (hrun : (s.body c).brun = true)
    (hsecond : (s.body c).bsecond = []) (hnext : (s.body c).bnext ≤ s.cycle) (hretry : (s.body c).bretryAt = none) (hfold : (s.body c).bfold = 0) :
    s.broadcastTurn c = onNext (s.attemptBroadcast c (s.body c) false) fun t => .next (t.afterBroadcast c (s.body c)) := by
  have hrunning : ¬ ((s.body c).brun = false ∨ s.cores[c].live s.cycle = false) := by rw [hrun, hlive]; decide
  have hdue : ¬ (s.cycle < (s.body c).bnext ∨ (s.body c).bretryAt.isSome = true) := by simpa [hretry] using hnext
  have hunfolded : ¬ 0 < (s.body c).bfold := Nat.not_lt.mpr hfold.le
  exact (if_neg (not_not.mpr hsecond)).trans ((if_neg hrunning).trans ((if_neg hdue).trans (if_neg hunfolded)))

/-- A broadcast turn at a ready bundle of one slot. -/
theorem State.broadcastTurn_oneSlot {s : State} {c : CoreId} {x : BBundle} {sl : Slot} {w : BitVec 32} {i : Instr}
    (hfetch : fetchBroadcast s.cores[c] (s.body c).bpc = .ok x) (hwords : x.words = [(sl, w)]) (hdec : decodeSlot false sl w = .ok i)
    (hready : ReadyBroadcast s c x.head.wait i) :
    s.broadcastTurn c = onNext (onNext (exec i (((s.body c).enterBroadcast s c x).inSlot sl)) fun t =>
      ((s.body c).enterBroadcast s c x).concludeSlot t c x sl) fun t => .next (t.afterBroadcast c (s.body c)) := by
  obtain ⟨hlive, hrun, hsecond, hnext, hretry, hfold, hfaults, hbusy, hflip, hnoMatrix⟩ := hready
  have hwait : ((s.body c).enterBroadcast s c x).waitMask c x.head.wait = none := State.waitMask_none hfaults hbusy
  have hmatrix : ((s.body c).enterBroadcast s c x).matrixSlot i = false := (State.matrixSlot_congr rfl i).trans hnoMatrix
  rw [State.broadcastTurn_eq_attemptBroadcast hlive hrun hsecond hnext hretry hfold,
    State.attemptBroadcast_oneSlot hfetch hwords hdec hflip hwait hmatrix, State.runBundle_oneSlot c x sl hflip rfl]

/-! Group table entries and events -/

theorem runEntry_eq_exec (e : Entry) (s : State) : runEntry e s = exec e.toInstr s := by cases e <;> rfl
theorem runEvent_eq_exec (e : Event) (s : State) : runEvent e s = exec e.toInstr s := by cases e <;> rfl

/-- Settles O59: nothing stands before the slot of a ready bundle, so that the turn is `exec` of it and what the bundle comes to. -/
theorem stepRunsDecoded : Obligations.StepRunsDecoded := by
  refine ⟨?_, ?_, runEntry_eq_exec, runEvent_eq_exec⟩
  · intro s c sl h head w i hpow hturn u b x v hcached hhead hslots hword hdec _ hready
    have hctl : turnStep s.turn s = u.issueBundle c x := by
      rw [hturn]
      exact State.controlTurn_oneSlot (fetchBundle_oneSlot hcached hhead hslots hword) hdec hready
    rw [step_of_turnStep hpow, hctl, State.issueBundle_oneSlot rfl (Bundle.instrs_oneSlot hdec) hready]
    change onNext (onNext (exec i v) _) _ = _
    cases exec i v <;> rfl
  · intro s c sl h head w i hpow hturn b x v hcached hhead hslots hword hdec _ hready
    have hbrs : turnStep s.turn s = s.broadcastTurn c := by rw [hturn]; rfl
    rw [step_of_turnStep hpow, hbrs, State.broadcastTurn_oneSlot (fetchBroadcast_oneSlot hcached hhead hslots hword) rfl hdec hready]
    change onNext (onNext (onNext (exec i (v.inSlot sl)) fun t => v.concludeSlot t c x sl) _) _ = match exec i (v.inSlot sl) with
      | .next t => _
      | r => r
    cases exec i (v.inSlot sl) with
    | next t =>
      simp only [onNext, State.concludeSlot]
      generalize (if sl = .q then t.cur.hold else none) = hold
      generalize t.cur.ask = ask
      match hold, ask with
      | none, _ => rfl
      | some _, none => rfl
      | some _, some (_, a) =>
        cases a with
        | line l =>
          change onNext (onNext (v.needLine c true l) _) _ = onNext (v.needLine c true l) _
          cases v.needLine c true l <;> rfl
        | _ => rfl
    | fault r => rfl
    | refused r => rfl

end Sys2Proof.Machine
end

section
/-!
Proofs for the statements on the execution model: traps, `ix` and empty bundles, what lane groups do on their own, landings.
-/
namespace Sys2Proof.Machine

/-! A change of one core -/

theorem Body.space_congr {b d : Body} (h : d.wb = b.wb ∧ d.ab = b.ab ∧ d.acc = b.acc ∧ d.gal = b.gal) (sp : Space) : d.space sp = b.space sp := by
  obtain ⟨hwb, hab, hacc, hgal⟩ := h
  cases sp <;> simp only [Body.space, hwb, hab, hacc, hgal]

/-- A change of one core that leaves its local spaces alone. -/
theorem modBody_frame {s : State} {c : CoreId} {f : Body → Body} (h : (f (s.body c)).wb = (s.body c).wb ∧ (f (s.body c)).ab = (s.body c).ab ∧
    (f (s.body c)).acc = (s.body c).acc ∧ (f (s.body c)).gal = (s.body c).gal) : OnlyBody s (s.modBody c f) c ∧ SameBytes s (s.modBody c f) :=
  ⟨onlyBody_modBody s c f, sameBytes_modBody s c f (Body.space_congr h)⟩

theorem Vec.modify_congr {α : Type} {n : Nat} {v : Vector α n} {i : Fin n} {f g : α → α} (h : f v[i] = g v[i]) : Vec.modify v i f = Vec.modify v i g := by
  simp only [Vec.modify, h]

theorem State.modBody_congr {s : State} {c : CoreId} {f g : Body → Body} (h : f (s.body c) = g (s.body c)) : s.modBody c f = s.modBody c g :=
  congrArg (fun v => { s with cores := v }) (Vec.modify_congr (congrArg (fun b => ({ s.cores[c] with b } : Core)) h))

/-! Taking a trap (R51, R204) -/

/-- Outside handler mode a team that has a handler enters it. -/
theorem Body.takeTrap_of_handled {b : Body} (hmode : b.handler = false) (hteam : b.noHandler = false) (t : TrapInfo) (baddr tret : VA)
    (replay bres stream parked : Bool) : b.takeTrap t baddr tret replay bres stream parked =
      { b with
        handler := true, pc := b.sys.tvec.setWidth 56, fold := 0
        sys := { b.sys with
          tcause := t.aux ++ t.cause.code, taddr := t.taddr.setWidth 56, tbaddr := baddr, tret := tret &&& ~~~3#56
          tstat := tstatWord replay bres stream parked t.slot t.group } } := by
  have hlow (x : BitVec 64) : x.extractLsb' 0 56 = x.setWidth 56 := BitVec.eq_of_toNat_eq rfl
  simp [Body.takeTrap, hmode, hteam, hlow]

/-- A double trap, and a trap of a team without a handler, fault the team (R52, R425). -/
theorem Body.takeTrap_of_unhandled {b : Body} (h : b.handler = true ∨ b.noHandler = true) (t : TrapInfo) (baddr tret : VA)
    (replay bres stream parked : Bool) : b.takeTrap t baddr tret replay bres stream parked =
      { b with teamFault := some ⟨t.cause, 15, t.taddr, baddr, if b.handler then some (b.sys.tcause, b.sys.tbaddr) else none⟩ } :=
  if_pos h

/-- Settles O22: the trap is either handled or faults the team. -/
theorem takingATrap : Obligations.TakingATrap := by
  intro b t baddr tret replay bres stream parked
  refine ⟨fun hmode hteam => ?_, fun hmode => ?_, fun hmode hteam => ?_⟩
  · rw [Body.takeTrap_of_handled hmode hteam]
    exact ⟨rfl, rfl, rfl, rfl, rfl, rfl, rfl, rfl⟩
  · rw [Body.takeTrap_of_unhandled (.inl hmode), hmode]
    exact ⟨_, rfl, rfl, rfl⟩
  · rw [Body.takeTrap_of_unhandled (.inr hteam), hmode]
    exact ⟨_, rfl, rfl, rfl⟩

/-! The `ix` instruction (R30, R33, R90) -/

/-- Every entry answers a next state, since `State.entry` does; four look at an operand before it. -/
theorem runEntry_completes (e : Entry) (s : State) : ∃ t, runEntry e s = .next t := by
  cases e with
  | scacc _ d => cases d <;> exact ⟨_, rfl⟩
  | pupdMom _ data => cases data <;> exact ⟨_, rfl⟩
  | pushm _ data => cases data <;> exact ⟨_, rfl⟩
  | popm _ data => cases data <;> exact ⟨_, rfl⟩
  | _ => exact ⟨_, rfl⟩

/-- A group whose front-bank entry is valid and decodes runs it. -/
theorem runGroup_of_valid {index : Fin 1024} {imm : BitVec 16} {g : GroupId} {s : State} {e : Entry}
    (hvalid : (s.pre.front.get g index).getLsbD 0 = true) (hdec : decodeEntry (s.pre.front.get g index) = .ok e) :
    runGroup index imm g s = exec e.toInstr (s.enterGroup g imm s.pre.groups[g].rot) := by
  have hlook : (s.enterGroup g imm s.pre.groups[g].rot).lookupEntry index g = some e := by
    simp [State.lookupEntry, State.enterGroup, hvalid, hdec]
  simp only [runGroup, hlook, runEntry_eq_exec]

/-- Any other entry raises ILLEGAL_OP (R90). -/
theorem runGroup_of_invalid {index : Fin 1024} {imm : BitVec 16} {g : GroupId} {s : State}
    (hinvalid : (s.pre.front.get g index).getLsbD 0 = true → ∀ e, decodeEntry (s.pre.front.get g index) ≠ .ok e) :
    runGroup index imm g s = .next ((s.enterGroup g imm s.pre.groups[g].rot).raise .illegalOp) := by
  have hlook : (s.enterGroup g imm s.pre.groups[g].rot).lookupEntry index g = none := by
    cases hvalid : (s.pre.front.get g index).getLsbD 0 with
    | false => exact if_neg (Bool.eq_false_iff.mp hvalid)
    | true =>
      cases hdec : decodeEntry (s.pre.front.get g index) with
      | ok e => exact absurd hdec (hinvalid hvalid e)
      | error _ => simp [State.lookupEntry, State.enterGroup, hdec]
  simp only [runGroup, hlook]

theorem runGroup_completes (index : Fin 1024) (imm : BitVec 16) (g : GroupId) (s : State) : ∃ t, runGroup index imm g s = .next t := by
  by_cases h : (s.pre.front.get g index).getLsbD 0 = true → ∀ e, decodeEntry (s.pre.front.get g index) ≠ .ok e
  · exact ⟨_, runGroup_of_invalid h⟩
  · push Not at h
    obtain ⟨hvalid, e, hdec⟩ := h
    rw [runGroup_of_valid hvalid hdec, ← runEntry_eq_exec]
    exact runEntry_completes e _

theorem runAll_cons {α : Type} (f : α → State → Result) (x : α) (xs : List α) (s : State) :
    runAll f (x :: xs) s = onNext (f x s) (runAll f xs) := by
  rw [runAll]
  cases f x s <;> rfl

/-- Running one after another is a fold over the answers. -/
theorem runAll_eq_foldl {α : Type} (f : α → State → Result) (xs : List α) (s : State) :
    runAll f xs s = xs.foldl (fun r x => onNext r (f x)) (.next s) := by
  have hfold (r : Result) : xs.foldl (fun r x => onNext r (f x)) r = onNext r (runAll f xs) := by
    induction xs generalizing r with
    | nil => cases r <;> rfl
    | cons x xs ih =>
      rw [List.foldl_cons, ih]
      cases r with
      | next t => exact (runAll_cons f x xs t).symm
      | _ => rfl
  exact (hfold (.next s)).symm

theorem runAll_completes {α : Type} {f : α → State → Result} (hf : ∀ x s, ∃ t, f x s = .next t) (xs : List α) (s : State) :
    ∃ t, runAll f xs s = .next t := by
  induction xs generalizing s with
  | nil => exact ⟨s, rfl⟩
  | cons x xs ih =>
    obtain ⟨t, ht⟩ := hf x s
    rw [runAll_cons, ht]
    exact ih t

/-- The groups of the mask take part where the predicate of the slot is true (R30). -/
theorem State.participants_eq_filter (s : State) (gm sp : Fin 8) :
    s.participants gm sp = (List.finRange 24).filter fun g => (sp.val == 0 || s.pre.sp[sp]) && s.pre.gm[gm].getLsbD g.val := by
  have hcond : (sp.val = 0 ∨ s.pre.sp[sp] = true) ↔ (sp.val == 0 || s.pre.sp[sp]) = true := by simp
  simp only [State.participants, State.maskGroups, hcond]
  cases sp.val == 0 || s.pre.sp[sp] <;> simp

/-- `ix` runs the groups one after another; those of V1 in a two-cycle bundle are only looked at. -/
theorem execIx_of_runAll {index : Fin 1024} {gm sp : Fin 8} {imm : BitVec 16} {s u : State}
    (hall : runAll (runGroup index imm) (s.participants gm sp) s = .next u) :
    execIx index gm sp imm s =
      .next (if s.cur.two ∧ s.cur.slot = .v1 then deferSecond index imm (s.participants gm sp) s u else u) := by
  simp only [execIx, hall]

/-- The entries that V1 runs in a second cycle wait for it, with the handles and ports as they stood before the bundle (R33, R239, R243). -/
theorem deferSecond_becomes (index : Fin 1024) (imm : BitVec 16) (gs : List GroupId) (s u : State) :
    let t := deferSecond index imm gs s u
    (∃ n, t.cur = { u.cur with tail := n }) ∧ Becomes { s with cur := t.cur } t fun b => { b with
      bsecond := b.bsecond ++ gs.map fun g => (g, s.pre.front.get g index, imm, s.pre.groups[g].rot)
      bsecondCbs := s.pre.cbs, bsecondPorts := s.portsSet, bsecondFrom := s.cycle + 1 } :=
  ⟨⟨_, rfl⟩, becomes_modMe ..⟩

/-! Empty bundles (R59) -/

theorem any_maskMembers (m : BitVec 16) (p : Fin 16 → Bool) :
    (maskMembers m).any p = true ↔ ∃ n : Fin 16, m.getLsbD n.val = true ∧ p n = true := by
  simp [maskMembers]

theorem execEmptyBroadcastBundle_of_idle {wait : BitVec 16} {s : State} (hidle : ∀ n : Fin 16, wait.getLsbD n.val = true → s.pre.tokenBusy n = false)
    (fold : BitVec 8) : execEmptyBroadcastBundle fold wait s = .next (s.modMe fun b => { b with bfold := fold.toNat + 1 }) := by
  have hbusy : ¬ (maskMembers wait).any (fun n => s.pre.tokenBusy n) = true := by
    rw [any_maskMembers]
    rintro ⟨n, hn, hb⟩
    exact absurd hb (Bool.eq_false_iff.mp (hidle n hn))
  exact congrArg Host.Outcome.next (if_neg hbusy)

theorem execEmptyBroadcastBundle_of_busy {wait : BitVec 16} {s : State} (hbusy : ∃ n : Fin 16, wait.getLsbD n.val = true ∧ s.pre.tokenBusy n = true)
    (fold : BitVec 8) : execEmptyBroadcastBundle fold wait s = .next (s.holdFor .stall) :=
  congrArg Host.Outcome.next (if_pos ((any_maskMembers wait _).mpr hbusy))

/-- Settles O36: the entries of `ix` run one after another as `runAll` has it. -/
theorem indexedAndEmptyBundles : Obligations.IndexedAndEmptyBundles := by
  intro s index gm sp imm groups entered one all
  have hgroups : s.participants gm sp = groups := State.participants_eq_filter s gm sp
  have hone (t : State) (g : GroupId) : one t g = runGroup index imm g t := by
    cases hvalid : (t.pre.front.get g index).getLsbD 0 with
    | false =>
      rw [runGroup_of_invalid fun h => absurd (hvalid.symm.trans h) Bool.false_ne_true]
      simp only [one, hvalid]
      rfl
    | true =>
      cases hdec : decodeEntry (t.pre.front.get g index) with
      | ok e =>
        rw [runGroup_of_valid hvalid hdec]
        simp only [one, hvalid, hdec]
        rfl
      | error _ =>
        rw [runGroup_of_invalid (by simp [hdec])]
        simp only [one, hvalid, hdec]
        rfl
  have hall : all = runAll (runGroup index imm) (s.participants gm sp) s := by
    rw [runAll_eq_foldl, hgroups]
    refine congrArg (fun f => groups.foldl f (Host.Outcome.next s)) ?_
    funext r g
    cases r with
    | next t => exact hone t g
    | _ => rfl
  obtain ⟨u, hu⟩ := runAll_completes (runGroup_completes index imm) (s.participants gm sp) s
  have hix : exec (.ix index gm sp imm) s = _ := execIx_of_runAll hu
  rw [hix, hall, hu, hgroups]
  refine ⟨fun hone => ?_, fun htwo hslot => ?_, fun landing fold => ?_, fun fold wait hidle => ?_, fun fold wait hbusy => ?_⟩
  · rw [if_neg (by rintro ⟨htwo, hslot⟩; simp [htwo, hslot] at hone)]
    exact ⟨rfl, u, rfl⟩
  · rw [if_pos ⟨htwo, hslot⟩]
    obtain ⟨htail, honly, hme⟩ := deferSecond_becomes index imm groups s u
    exact ⟨_, rfl, u, rfl, htail, _, rfl, honly, hme⟩
  · exact ⟨_, rfl, (modBody_frame ⟨rfl, rfl, rfl, rfl⟩).2, becomes_modMe ..⟩
  · exact ⟨_, execEmptyBroadcastBundle_of_idle hidle fold, (modBody_frame ⟨rfl, rfl, rfl, rfl⟩).2, becomes_modMe ..⟩
  · refine (execEmptyBroadcastBundle_of_busy hbusy fold).trans ?_
    rw [State.holdFor_eq, ite_self]

/-! Writes at the end of a cycle (R32, R138) -/

theorem Body.dueWrites_singleton {b : Body} {now : Nat} {p : Pending} (hpend : b.pend = [p]) (hdue : p.due ≤ now) : b.dueWrites now = [p] := by
  simp [Body.dueWrites, hpend, hdue, sortBy, insertBy]

theorem Body.dueWrites_pair {b : Body} {now : Nat} {p q : Pending} (hpend : b.pend = [p, q]) (hp : p.due ≤ now) (hq : q.due ≤ now) :
    b.dueWrites now = if q.before p then [q, p] else [p, q] := by
  simp [Body.dueWrites, hpend, hp, hq, sortBy, insertBy]

/-- Where no write of the other units waits and every write of the entries is due, those up to the next line of an optimiser update are performed. -/
theorem Body.writeback_eq {b : Body} {now : Nat} (htable : b.tableOps = []) (hlocals : b.locals = []) (hdue : ∀ p ∈ b.pend, p.due ≤ now)
    (hplain : ∀ p ∈ b.dueWrites now, p.w.isNpf = false) :
    b.writeback now = ((b.dueWrites now).foldl (fun (d : Body) w => d.performPending now w) { b with pend := [] }).settle now := by
  have hb : ({ b with tableOps := [], locals := [] } : Body) = b := by rw [← htable, ← hlocals]
  have hrun : (b.dueWrites now).takeWhile (!GWrite.isNpf ·.w) = b.dueWrites now :=
    List.takeWhile_eq_self_iff.mpr fun p hp => by simp [hplain p hp]
  have hlater : b.pend.filter (now < ·.due) = [] := by simpa using hdue
  simp only [Body.writeback, htable, hlocals, List.foldl_nil, sortBy, hb, hrun, hlater, List.drop_length, List.nil_append]

theorem Body.settle_of_settled {b : Body} (now : Nat) (hpend : b.pend = []) (hposts : b.posts = []) : b.settle now = b := by
  rw [Body.settle, hpend, hposts]
  exact congrArg (fun l => { b with posts := l }) hposts.symm

/-- The records of the cycle play no part in what a record does to the queue. -/
theorem Body.post_withPosts (b : Body) (l : List (Nat × StatRec)) (r : StatRec) :
    Body.post { b with posts := l } r = { b.post r with posts := l } := by
  by_cases hroom : b.stq.length < 256
  · have hpost : b.post r = { b with stq := b.stq ++ [r] } := if_pos hroom
    rw [hpost]
    exact if_pos hroom
  by_cases hmax : b.sys.stqDrop = BitVec.allOnes 32
  · have hpost : b.post r = b := (if_neg hroom).trans (if_pos hmax)
    rw [hpost]
    exact (if_neg hroom).trans (if_pos hmax)
  · have hpost : b.post r = { b with sys := { b.sys with stqDrop := b.sys.stqDrop + 1 } } := (if_neg hroom).trans (if_neg hmax)
    rw [hpost]
    exact (if_neg hroom).trans (if_neg hmax)

/-- A record posted by the last write of the cycle enters the queue. -/
theorem Body.settle_postAt {b : Body} (now rank : Nat) (r : StatRec) (hpend : b.pend = []) (hposts : b.posts = []) :
    (b.postAt rank r).settle now = b.post r := by
  have hposted : b.postAt rank r = { b with posts := [(rank, r)] } := by rw [Body.postAt, hposts]; rfl
  have hb : ({ b with posts := [] } : Body) = b := congrArg (fun l => { b with posts := l }) hposts.symm
  calc (b.postAt rank r).settle now
      = { Body.post { b with posts := [(rank, r)] } r with posts := [] } := by
        rw [hposted, Body.settle, hpend]
        rfl
    _ = { b.post r with posts := [] } := by rw [Body.post_withPosts]
    _ = Body.post { b with posts := [] } r := (Body.post_withPosts b [] r).symm
    _ = b.post r := by rw [hb]

@[simp] theorem Body.setSpace_pend (b : Body) (sp : Space) (m : Sparse (BitVec 8)) : (b.setSpace sp m).pend = b.pend := by cases sp <;> rfl
@[simp] theorem Body.setSpace_posts (b : Body) (sp : Space) (m : Sparse (BitVec 8)) : (b.setSpace sp m).posts = b.posts := by cases sp <;> rfl

@[simp] theorem Body.performPending_pend (b : Body) (now : Nat) (p : Pending) : (b.performPending now p).pend = b.pend := by
  obtain ⟨due, issue, v1, group, w, src⟩ := p
  cases w with
  | bytes sp bs => exact Body.setSpace_pend ..
  | npf sp bs => exact Body.setSpace_pend ..
  | _ => rfl

theorem Body.performPending_posts (b : Body) (now : Nat) {p : Pending} (hpost : ∀ r, p.w ≠ .post r) : (b.performPending now p).posts = b.posts := by
  obtain ⟨due, issue, v1, group, w, src⟩ := p
  cases w with
  | bytes sp bs => exact Body.setSpace_posts ..
  | npf sp bs => exact Body.setSpace_posts ..
  | post r => exact absurd rfl (hpost r)
  | _ => rfl

/-- One waiting write that is due is performed, and nothing else waits. -/
theorem Body.writeback_singleton {b : Body} {now : Nat} {p : Pending} (htable : b.tableOps = []) (hlocals : b.locals = []) (hpend : b.pend = [p])
    (hdue : p.due ≤ now) (hplain : p.w.isNpf = false) :
    b.writeback now = (Body.performPending { b with pend := [] } now p).settle now := by
  rw [Body.writeback_eq htable hlocals (by simpa [hpend] using hdue) (by simpa [Body.dueWrites_singleton hpend hdue] using hplain),
    Body.dueWrites_singleton hpend hdue, List.foldl_cons, List.foldl_nil]

theorem Body.settle_performPending {b : Body} (now : Nat) {p : Pending} (hpend : b.pend = []) (hposts : b.posts = []) (hpost : ∀ r, p.w ≠ .post r) :
    (b.performPending now p).settle now = b.performPending now p :=
  Body.settle_of_settled now ((Body.performPending_pend ..).trans hpend) ((Body.performPending_posts b now hpost).trans hposts)

/-- One waiting write that posts no record is performed, and nothing is left to settle. -/
theorem Body.writeback_of_plain {b : Body} {now : Nat} {p : Pending} (htable : b.tableOps = []) (hlocals : b.locals = []) (hposts : b.posts = [])
    (hpend : b.pend = [p]) (hdue : p.due ≤ now) (hplain : p.w.isNpf = false) (hpost : ∀ r, p.w ≠ .post r) :
    b.writeback now = Body.performPending { b with pend := [] } now p :=
  (Body.writeback_singleton htable hlocals hpend hdue hplain).trans (Body.settle_performPending now rfl hposts hpost)

/-- One waiting record enters the queue (R264). -/
theorem Body.writeback_of_post {b : Body} {now : Nat} {p : Pending} {r : StatRec} (htable : b.tableOps = []) (hlocals : b.locals = [])
    (hposts : b.posts = []) (hpend : b.pend = [p]) (hdue : p.due ≤ now) (hw : p.w = .post r) :
    b.writeback now = Body.post { b with pend := [] } r := by
  have hposted : Body.performPending { b with pend := [] } now p =
      Body.postAt { b with pend := [] } (16 + 2 * p.group.val + (if p.v1 then 1 else 0)) r := by
    simp only [Body.performPending, hw]
  rw [Body.writeback_singleton htable hlocals hpend hdue (by rw [hw]; rfl), hposted]
  exact Body.settle_postAt (b := { b with pend := [] }) now _ r rfl hposts

/-- Bytes of a local space are written, and recorded. -/
theorem Body.performPending_bytes (b : Body) (now : Nat) {p : Pending} {sp : Space} {bs : List (Nat × BitVec 8)} (hw : p.w = .bytes sp bs ∨ p.w = .npf sp bs)
    (l : List Pending) : let d := Body.performPending { b with pend := l } now p
    d = { b.setSpace sp (writeCells (b.space sp) bs) with pend := l, writes := d.writes } := by
  have hcells : Body.performPending { b with pend := l } now p = Body.logWrites
      (Body.setSpace { b with pend := l } sp (writeCells (Body.space { b with pend := l } sp) bs)) (byteRecords p.src (sp.code.zeroExtend 8) bs) := by
    obtain h | h := hw <;> simp only [Body.performPending, h]
  rw [hcells]
  cases sp <;> rfl

theorem Body.performPending_latch (b : Body) (now : Nat) {p : Pending} {v : Lanes} {mask : BitVec 64} (hw : p.w = .lat v mask) :
    let k := (b.performPending now p).groups[p.group]
    k = { b.groups[p.group] with latch := k.latch } ∧ ∀ l : Fin 64, k.latch[l] = if mask.getLsbD l.val then v[l] else b.groups[p.group].latch[l] := by
  intro k
  have hk : k = { b.groups[p.group] with latch := Vec.ofFn fun l => if mask.getLsbD l.val then v[l] else b.groups[p.group].latch[l] } := by
    simp only [k, Body.performPending, hw]
    exact Vec.getElem_modify_same ..
  rw [hk]
  exact ⟨rfl, fun l => Vec.getElem_ofFn ..⟩

/-- A bit written under a mask. -/
theorem getLsbD_masked (x v mask : BitVec 64) (l : Nat) :
    ((x &&& ~~~mask) ||| (v &&& mask)).getLsbD l = if mask.getLsbD l then v.getLsbD l else x.getLsbD l := by
  rw [BitVec.getLsbD_or, BitVec.getLsbD_and, BitVec.getLsbD_and]
  by_cases hl : l < 64
  · rw [BitVec.getLsbD_not]
    cases mask.getLsbD l <;> simp [hl]
  · simp [BitVec.getLsbD_of_ge _ _ (Nat.le_of_not_lt hl)]

theorem Body.performPending_vp (b : Body) (now : Nat) {p : Pending} {n : Fin 8} {v mask : BitVec 64} (hw : p.w = .vp n v mask) :
    let k := (b.performPending now p).groups[p.group]
    k = { b.groups[p.group] with vp := k.vp } ∧ (∀ i, i ≠ n → k.vp[i] = b.groups[p.group].vp[i]) ∧
      ∀ l : Fin 64, k.vp[n].getLsbD l.val = if mask.getLsbD l.val then v.getLsbD l.val else b.groups[p.group].vp[n].getLsbD l.val := by
  intro k
  have hk : k = { b.groups[p.group] with vp := b.groups[p.group].vp.set n ((b.groups[p.group].vp[n] &&& ~~~mask) ||| (v &&& mask)) } := by
    simp only [k, Body.performPending, hw]
    exact Vec.getElem_modify_same ..
  rw [hk]
  refine ⟨rfl, fun i hi => Vector.getElem_set_ne n.isLt i.isLt fun h => hi (Fin.ext h.symm), fun l => ?_⟩
  rw [← getLsbD_masked]
  exact congrArg (fun x : BitVec 64 => x.getLsbD l.val) (Vector.getElem_set_self n.isLt)

theorem Body.performPending_scal (b : Body) (now : Nat) {p : Pending} {n : Fin 16} {v : BitVec 32} (hw : p.w = .scalar n v) :
    (b.performPending now p).groups[p.group].scal[n] = v := by
  simp [Body.performPending, hw, Body.logWrites]

/-- Of two writes of one register the one performed later prevails. -/
theorem Body.performed_pair_scal {b : Body} (now : Nat) {x y : Pending} {n : Fin 16} {v w : BitVec 32} (hpend : b.pend = []) (hposts : b.posts = [])
    (hx : x.w = .scalar n v) (hy : y.w = .scalar n w) {g : GroupId} (hg : y.group = g) :
    let d := ([x, y].foldl (fun (d : Body) w => d.performPending now w) b).settle now
    d.pend = [] ∧ d.groups[g].scal[n] = w := by
  intro d
  subst hg
  have hposts' : (b.performPending now x).posts = [] := (Body.performPending_posts b now fun r => by simp [hx]).trans hposts
  have hpend' : (b.performPending now x).pend = [] := (Body.performPending_pend ..).trans hpend
  have hd : d = (b.performPending now x).performPending now y := Body.settle_performPending now hpend' hposts' fun r => by simp [hy]
  rw [hd]
  exact ⟨(Body.performPending_pend ..).trans hpend', Body.performPending_scal _ _ hy⟩

theorem Body.writeback_pair_scal {b : Body} {now : Nat} {p q : Pending} {n : Fin 16} {v w : BitVec 32} (htable : b.tableOps = []) (hlocals : b.locals = [])
    (hposts : b.posts = []) (hpend : b.pend = [p, q]) (hpdue : p.due ≤ now) (hqdue : q.due ≤ now) (hp : p.w = .scalar n v) (hq : q.w = .scalar n w)
    (hgroup : p.group = q.group) : (b.writeback now).pend = [] ∧ (b.writeback now).groups[p.group].scal[n] = if q.before p then v else w := by
  have hdue := Body.dueWrites_pair hpend hpdue hqdue
  have hplain : ∀ x ∈ b.dueWrites now, x.w.isNpf = false := by
    rw [hdue]
    split_ifs <;> simp [hp, hq, GWrite.isNpf]
  rw [Body.writeback_eq htable hlocals (by simp [hpend, hpdue, hqdue]) hplain, hdue]
  split_ifs
  · exact Body.performed_pair_scal (b := { b with pend := [] }) now rfl hposts hq hp rfl
  · exact Body.performed_pair_scal (b := { b with pend := [] }) now rfl hposts hp hq hgroup.symm

theorem Pending.before_of_group {p q : Pending} (hgroup : p.group = q.group) :
    q.before p = true ↔ q.issue < p.issue ∨ (q.issue = p.issue ∧ q.v1 = false ∧ p.v1 = true) := by
  simp [Pending.before, hgroup]

theorem Body.lineWrite_singleton {b : Body} {now : Nat} {p : Pending} {sp : Space} {bs : List (Nat × BitVec 8)} (hposts : b.posts = [])
    (hpend : b.pend = [p]) (hdue : p.due ≤ now) (hw : p.w = .npf sp bs) :
    b.lineWrite now = Body.performPending { b with pend := [] } now p := by
  have hlater : b.pend.filter (now < ·.due) = [] := by simpa [hpend] using hdue
  simp only [Body.lineWrite, Body.dueWrites_singleton hpend hdue, hw, GWrite.isNpf, if_true, hlater, List.append_nil]
  exact Body.settle_performPending now rfl hposts (by simp [hw])

/-! Flags, ports, buffers and retries (R63, R236, R242, R251) -/

/-- A set of the cycle prevails over a clear, and a flag that neither names stands (R63). -/
theorem Body.releaseFlags_flags (b : Body) (now : Nat) (n : Fin 16) :
    ((∃ o ∈ b.flagOps, o.due ≤ now ∧ o.flag = n ∧ o.set = true) → (b.releaseFlags now).flags[n] = true) ∧
      ((∀ o ∈ b.flagOps, o.due ≤ now → o.flag = n → o.set = false) → (∃ o ∈ b.flagOps, o.due ≤ now ∧ o.flag = n) →
        (b.releaseFlags now).flags[n] = false) ∧
      ((∀ o ∈ b.flagOps, o.due ≤ now → o.flag ≠ n) → (b.releaseFlags now).flags[n] = b.flags[n]) := by
  have hflag : (b.releaseFlags now).flags[n] = if ∃ o ∈ b.flagOps, o.due ≤ now ∧ o.flag = n ∧ o.set = true then true
      else if ∃ o ∈ b.flagOps, o.due ≤ now ∧ o.flag = n ∧ o.set = false then false else b.flags[n] := by simp [Body.releaseFlags]
  rw [hflag]
  refine ⟨fun hset => if_pos hset, fun hclear ⟨o, ho, hdue, hn⟩ => ?_, fun hnone => ?_⟩
  · rw [if_neg, if_pos ⟨o, ho, hdue, hn, hclear o ho hdue hn⟩]
    rintro ⟨x, hx, hxdue, hxn, hset⟩
    exact absurd hset (Bool.eq_false_iff.mp (hclear x hx hxdue hxn))
  · rw [if_neg fun ⟨o, ho, hdue, hn, _⟩ => hnone o ho hdue hn, if_neg fun ⟨o, ho, hdue, hn, _⟩ => hnone o ho hdue hn]

/-- A fetch whose cycle has come is delivered (R236). -/
theorem Port.fetchDue_singleton {q : Port} {k : PortCfg} {pos due : Nat} (b : Body) (g : GroupId) {now : Nat} (hcfg : q.cfg = some k)
    (hfetch : q.toFetch = [(pos, due)]) (hdue : due ≤ now) :
    q.fetchDue b g now = { q with fetched := q.fetched ++ [k.fetch b g pos], toFetch := [] } := by
  simp [Port.fetchDue, hcfg, hfetch, hdue]

theorem Body.modify_fetchDue {b : Body} {g : GroupId} {n : Fin 16} {k : PortCfg} {pos due now : Nat} (hcfg : b.groups[g].ports[n].cfg = some k)
    (hfetch : b.groups[g].ports[n].toFetch = [(pos, due)]) (hdue : due ≤ now) :
    (Vec.modify b.groups g fun x => { x with ports := Vec.modify x.ports n (·.fetchDue b g now) }) =
      Vec.modify b.groups g fun x => { x with ports := Vec.modify x.ports n fun q => { q with fetched := q.fetched ++ [k.fetch b g pos], toFetch := [] } } := by
  simp only [Vec.modify, Port.fetchDue_singleton b g hcfg hfetch hdue]

/-- The one filled slot of a buffer that a group has not staged is staged (R242). -/
theorem Body.restage_of_unstaged {b : Body} {n : Fin 16} {k : CbCfg} (g : GroupId) (now : Nat) {l : List Staged} (hcfg : b.cbs[n].cfg = some k)
    (hfilled : b.cbs[n].filled k.n = 1) (hl : ∀ v ∈ l, v.cb ≠ n) :
    b.restage n g now l = l ++ [b.stage n g (b.cbs[n].cons % (2 * k.n)) now] := by
  have hel : b.cbs[n].eligible = [b.cbs[n].cons % (2 * k.n)] := by
    have hrange : (List.range 2).filter (· < 1) = [0] := rfl
    simp only [Cb.eligible, hcfg, hfilled, hrange, List.map_cons, List.map_nil, Nat.add_zero]
  have hkept : l.filter (fun v => v.cb != n || [b.cbs[n].cons % (2 * k.n)].contains v.ptr) = l :=
    List.filter_eq_self.mpr fun v hv => by simp [hl v hv]
  have hnew : (l.any fun v => v.cb == n && v.ptr == b.cbs[n].cons % (2 * k.n)) = false :=
    List.any_eq_false.mpr fun v hv => by simp [hl v hv]
  simp only [Body.restage, hel, hkept, List.filter_cons, hnew, Bool.not_false, if_true, List.filter_nil, List.map_cons, List.map_nil]

theorem Body.modify_restage {b : Body} {g : GroupId} {n : Fin 16} {k : CbCfg} (now : Nat) (hcfg : b.cbs[n].cfg = some k)
    (hfilled : b.cbs[n].filled k.n = 1) (hstaged : ∀ v ∈ b.groups[g].staged, v.cb ≠ n) :
    (Vec.modify b.groups g fun x => { x with staged := b.restage n g now x.staged }) =
      Vec.modify b.groups g fun x => { x with staged := x.staged ++ [b.stage n g (b.cbs[n].cons % (2 * k.n)) now] } := by
  simp only [Vec.modify, Body.restage_of_unstaged g now hcfg hfilled hstaged]

/-- Ports alone change in the groups named. -/
theorem foldl_modify_ports (f : GroupId → Port → Port) (gs : List GroupId) (v : Vector Group 24) (g : GroupId) :
    let w := gs.foldl (fun v x => Vec.modify v x fun k => { k with ports := Vec.map (f x) k.ports }) v
    w[g] = { v[g] with ports := w[g].ports } ∧ (g ∉ gs → w[g] = v[g]) := by
  induction gs generalizing v with
  | nil => exact ⟨rfl, fun _ => rfl⟩
  | cons x xs ih =>
    obtain ⟨hports, hkept⟩ := ih (Vec.modify v x fun k => { k with ports := Vec.map (f x) k.ports })
    by_cases hx : g = x
    · subst hx
      rw [Vec.getElem_modify_same] at hports
      exact ⟨hports, fun hg => absurd (List.mem_cons_self ..) hg⟩
    · rw [Vec.getElem_modify_ne _ _ hx] at hports hkept
      exact ⟨hports, fun hg => hkept fun h => hg (List.mem_cons_of_mem _ h)⟩

/-- A retry fetches again in the groups that are held (R251). -/
theorem Body.planeRetry_groups (b : Body) (g : GroupId) :
    b.planeRetry.groups[g] = { b.groups[g] with ports := b.planeRetry.groups[g].ports } ∧
      ((∀ h ∈ b.bheld, h.1 ≠ g) → b.planeRetry.groups[g] = b.groups[g]) := by
  obtain ⟨hports, hkept⟩ := foldl_modify_ports (fun x q => q.refetch b x) (b.bheld.map (·.1)) b.groups g
  refine ⟨hports, fun hfree => hkept fun hg => ?_⟩
  obtain ⟨h, hh, hx⟩ := List.mem_map.mp hg
  exact hfree h hh hx

/-- Settles O47: each waiting write is performed on its own, and the other events are changes of one core that their lemmas name. -/
theorem laneGroupEvents : Obligations.LaneGroupEvents := by
  intro s c b
  refine ⟨fun p htable hlocals hposts hpend hdue hplain => ?_, fun p q n v w htable hlocals hposts hpend hpdue hqdue hp hq hgroup => ?_,
    fun p sp bs hposts hpend hdue hw => ?_, ?_, fun g n k pos due hcfg hfetch hdue => ?_, fun g n k hcfg hfilled hstaged => ?_,
    fun at_ hretry hat => ?_⟩
  · refine ⟨_, rfl, onlyBody_modBody .., ?_⟩
    rw [State.body_modBody_same]
    by_cases hpost : ∃ r, p.w = .post r
    · obtain ⟨r, hr⟩ := hpost
      simp only [hr]
      exact Body.writeback_of_post htable hlocals hposts hpend hdue hr
    rw [Body.writeback_of_plain htable hlocals hposts hpend hdue hplain fun r hr => hpost ⟨r, hr⟩]
    obtain ⟨due, issue, v1, group, w, src⟩ := p
    cases w with
    | mat m dir i v mask => rfl
    | scalar n v => rfl
    | lat v mask =>
      have hgroup := Body.performPending_latch { b with pend := [] } s.cycle (p := ⟨due, issue, v1, group, .lat v mask, src⟩) rfl
      exact ⟨rfl, fun g hg => Vec.getElem_modify_ne _ _ hg, hgroup⟩
    | vp n v mask =>
      have hgroup := Body.performPending_vp { b with pend := [] } s.cycle (p := ⟨due, issue, v1, group, .vp n v mask, src⟩) rfl
      exact ⟨rfl, fun g hg => Vec.getElem_modify_ne _ _ hg, hgroup⟩
    | bytes sp bs => exact Body.performPending_bytes b s.cycle (.inl rfl) []
    | npf sp bs => cases hplain
    | seek n step => rfl
    | move prod n amount => rfl
    | post r => exact absurd ⟨r, rfl⟩ hpost
  · refine ⟨_, rfl, onlyBody_modBody .., ?_⟩
    simp only [State.body_modBody_same, ← Pending.before_of_group hgroup]
    exact Body.writeback_pair_scal htable hlocals hposts hpend hpdue hqdue hp hq hgroup
  · refine ⟨_, rfl, onlyBody_modBody .., ?_⟩
    rw [State.body_modBody_same, Body.lineWrite_singleton hposts hpend hdue hw]
    exact Body.performPending_bytes b s.cycle (.inr hw) []
  · refine ⟨_, rfl, and_assoc.mp ⟨modBody_frame ⟨rfl, rfl, rfl, rfl⟩, ?_⟩⟩
    simp only [State.body_modBody_same]
    exact ⟨rfl, Body.releaseFlags_flags b s.cycle⟩
  · refine ⟨_, rfl, and_assoc.mp ⟨modBody_frame ⟨rfl, rfl, rfl, rfl⟩, ?_⟩⟩
    rw [State.body_modBody_same]
    exact congrArg (fun v => ({ b with groups := v } : Body)) (Body.modify_fetchDue hcfg hfetch hdue)
  · refine ⟨_, rfl, and_assoc.mp ⟨modBody_frame ⟨rfl, rfl, rfl, rfl⟩, ?_⟩⟩
    intro ptr v
    have hstage : b.stage n g ptr s.cycle = v := by simp only [Body.stage, hcfg, v]
    rw [State.body_modBody_same, ← hstage]
    exact congrArg (fun v => ({ b with groups := v } : Body)) (Body.modify_restage s.cycle hcfg hfilled hstaged)
  · have hdue : exec (.planeRetry c) s = .next (s.modBody c Body.planeRetry) :=
      congrArg Host.Outcome.next (State.modBody_congr (by rw [hretry]; exact if_pos hat))
    refine ⟨_, hdue, and_assoc.mp ⟨modBody_frame ⟨rfl, rfl, rfl, rfl⟩, ?_⟩⟩
    rw [State.body_modBody_same]
    exact ⟨rfl, Body.planeRetry_groups b⟩

/-! Landings (R34) -/

/-- Two held stores of core 0 that differ in their address and carry one number. -/
def lowStore : Request := { id := 0, core := 0, baddr := 0, issued := 0, asn := 0, va := 0, op := .store [1] }
def highStore : Request := { lowStore with va := 8 }
/-- The machine after reset, but that core 0 holds both. -/
def twoHeld : State := State.reset.modBody 0 fun b => { b with held := [lowStore, highStore] }

/-- The landing sends both, and the later one has taken the place of the first. -/
theorem twoHeld_landing : (twoHeld.landing 0).requests.map (·.va) = [8, 8] := by decide +kernel

theorem twoHeld_meets : (twoHeld.body 0).inPhase = false ∧ twoHeld.cores[(0 : CoreId)].rerun = none ∧ (twoHeld.body 0).faults = [] ∧
    twoHeld.mayStop 0 = false ∧ (twoHeld.body 0).held = [lowStore, highStore] := by decide +kernel

/-- Refutes O49, whose landing clause claims that every held effect is among the requests afterwards: it does not assume that effects of one core
carry different numbers, and requests are replaced by number as they are sent, so that of two stores with one number the first is lost. -/
theorem not_controlEvents : ¬ Obligations.ControlEvents := by
  intro h
  obtain ⟨_, _, _, _, _, _, hlanding, _⟩ := h twoHeld 0
  obtain ⟨hphase, hrerun, hfaults, hstop, hheld⟩ := twoHeld_meets
  obtain ⟨t, ht, _, _, _, _, _, _, _, _, hsent⟩ := hlanding hphase hrerun hfaults hstop
  obtain ⟨r, hr, _, hva, _⟩ := hsent lowStore (by simp [hheld])
  have hlanded : t = twoHeld.landing 0 := (Host.Outcome.next.inj ht).symm
  have hmem : r.va ∈ (twoHeld.landing 0).requests.map (·.va) := List.mem_map_of_mem (hlanded ▸ hr)
  rw [twoHeld_landing, hva] at hmem
  exact absurd hmem (by decide)

end Sys2Proof.Machine
end

section
/-!
Proofs for the statements on bundles and the opcode map: decoding what was encoded, predicates of slots, reserved opcodes.
-/
namespace Sys2Proof.Laws.RoundTrip

/-- The lemmas of this family together. An event has no words, so that nothing is claimed of it. -/
theorem statement_of_instr (i : Instr) : Statement i := by
  cases i with
  -- Headers without slots
  | emptyBundle => apply emptyBundle | emptyBroadcastBundle => apply emptyBroadcastBundle
  -- A slot
  | add => apply add | sub => apply sub | and => apply and | or => apply or | xor => apply xor | andn => apply andn | min => apply min
  | max => apply max | minu => apply minu | maxu => apply maxu | sll => apply sll | srl => apply srl | sra => apply sra | rol => apply rol
  | mul => apply mul | mulh => apply mulh | mulhu => apply mulhu | div => apply div | divu => apply divu | rem => apply rem | remu => apply remu
  | cmpeq => apply cmpeq | cmpne => apply cmpne | cmplt => apply cmplt | cmpltu => apply cmpltu | cmple => apply cmple | cmpleu => apply cmpleu
  | sel => apply sel | clz => apply clz | ctz => apply ctz | popc => apply popc | sext => apply sext | zext => apply zext | addi => apply addi
  | andi => apply andi | ori => apply ori | xori => apply xori | slli => apply slli | srli => apply srli | srai => apply srai | cmpi => apply cmpi
  | lui => apply lui | addpc => apply addpc | faddS => apply faddS | fsubS => apply fsubS | fmulS => apply fmulS | fminS => apply fminS
  | fmaxS => apply fmaxS | fcvtS => apply fcvtS | fcmpS => apply fcmpS | plog => apply plog
  -- G slot
  | ldb => apply ldb | ldbu => apply ldbu | ldh => apply ldh | ldhu => apply ldhu | ldw => apply ldw | ldwu => apply ldwu | ldd => apply ldd
  | stb => apply stb | sth => apply sth | stw => apply stw | std => apply std | pfg => apply pfg | drain => apply drain | purgeDc => apply purgeDc
  | purgeIc => apply purgeIc | purgeTlb => apply purgeTlb | aadd => apply aadd | aand => apply aand | aor => apply aor | axor => apply axor
  | amin => apply amin | amax => apply amax | aminu => apply aminu | amaxu => apply amaxu | axchg => apply axchg | acas => apply acas
  | afadd => apply afadd | radd => apply radd | rmax => apply rmax | rmin => apply rmin | phinit => apply phinit | phreg => apply phreg
  | phdrop => apply phdrop | pharr => apply pharr | phwait => apply phwait | pharw => apply pharw | phq => apply phq | migr => apply migr
  -- L slot
  | lyb => apply lyb | lyh => apply lyh | lyw => apply lyw | lyd => apply lyd | syb => apply syb | syh => apply syh | syw => apply syw
  | syd => apply syd | sgw => apply sgw | twrite => apply twrite | tclr => apply tclr | qcfg => apply qcfg | qcfgStk => apply qcfgStk
  | cbcfg => apply cbcfg | mxtab => apply mxtab
  -- X slot
  | br => apply br | call => apply call | jr => apply jr | jalr => apply jalr | loop => apply loop | lpstep => apply lpstep | waitk => apply waitk
  | waitkMask => apply waitkMask | waitf => apply waitf | waitfMask => apply waitfMask | setf => apply setf | setfMask => apply setfMask
  | clrf => apply clrf | clrfMask => apply clrfMask | bstart => apply bstart | bstop => apply bstop | pushq => apply pushq | popq => apply popq
  | mfsr => apply mfsr | mtsr => apply mtsr | trap => apply trap | eret => apply eret | brk => apply brk | stqrd => apply stqrd
  | flbar => apply flbar | flend => apply flend
  -- M slot
  | mxcfg => apply mxcfg | mxlds => apply mxlds | mxswap => apply mxswap | mxgo => apply mxgo | mxmode => apply mxmode | mxrd => apply mxrd
  | mxstop => apply mxstop | tmov => apply tmov | tmovPort => apply tmovPort | cvtSplit => apply cvtSplit | cvtJoin => apply cvtJoin
  | cmpPack => apply cmpPack | xposeW32 => apply xposeW32 | xposeW16 => apply xposeW16 | layoutIm2col => apply layoutIm2col | tcfg => apply tcfg
  | tcfgPinned => apply tcfgPinned | tstat => apply tstat
  -- C slots
  | cp => apply cp | cpt => apply cpt | cptab => apply cptab | cpcfg => apply cpcfg | cpstat => apply cpstat | cpcan => apply cpcan
  | xmit => apply xmit | xsel => apply xsel | xfwd => apply xfwd | xidle => apply xidle
  -- K slot
  | spawn => apply spawn | spawnr => apply spawnr | vdecl => apply vdecl | vdrop => apply vdrop | join => apply join | endt => apply endt
  | rnext => apply rnext | tinfoSelf => apply tinfoSelf | tinfoState => apply tinfoState | tinfoQueue => apply tinfoQueue
  | tinfoMerge => apply tinfoMerge
  -- V slots
  | ix => apply ix
  -- Q slot
  | bloop => apply bloop | bloopCtq => apply bloopCtq | bbr => apply bbr | bsetf => apply bsetf | bclrf => apply bclrf | bwaitf => apply bwaitf
  | bpopq => apply bpopq | bpushq => apply bpushq | bsetsp => apply bsetsp | brot => apply brot | brotA => apply brotA | flip => apply flip
  | bhalt => apply bhalt | bhaltFlag => apply bhaltFlag | bcall => apply bcall | bret => apply bret
  -- Table entries
  | nop => apply nop | fadd => apply fadd | fsub => apply fsub | fmul => apply fmul | fma => apply fma | fms => apply fms | fnma => apply fnma
  | fmin => apply fmin | fmax => apply fmax | fabs => apply fabs | fneg => apply fneg | frcp => apply frcp | frsq => apply frsq
  | fsqrt => apply fsqrt | fexp2 => apply fexp2 | flog2 => apply flog2 | fsig => apply fsig | fcmp => apply fcmp | fround => apply fround
  | fcvt => apply fcvt | scacc => apply scacc | qnt => apply qnt | fsum => apply fsum | fmaxr => apply fmaxr | fscan => apply fscan
  | iadd => apply iadd | isub => apply isub | imul => apply imul | imad => apply imad | imin => apply imin | imax => apply imax
  | iminu => apply iminu | imaxu => apply imaxu | iabs => apply iabs | vecSll => apply vecSll | vecSrl => apply vecSrl | vecSra => apply vecSra
  | vecAnd => apply vecAnd | vecOr => apply vecOr | vecXor => apply vecXor | vecAndn => apply vecAndn | not => apply not | vecPopc => apply vecPopc
  | vecClz => apply vecClz | icmp => apply icmp | dot8 => apply dot8 | isum => apply isum | iscan => apply iscan | mov => apply mov
  | vsel => apply vsel | perm => apply perm | bcast => apply bcast | vpand => apply vpand | vpor => apply vpor | vpxor => apply vpxor
  | vpnot => apply vpnot | vpcount => apply vpcount | tos => apply tos | ldW => apply ldW | ldA => apply ldA | ldC => apply ldC | ldY => apply ldY
  | stW => apply stW | stA => apply stA | stC => apply stC | stY => apply stY | pldW => apply pldW | pldA => apply pldA | pldY => apply pldY
  | pstW => apply pstW | pstA => apply pstA | pstY => apply pstY | pupdAdd => apply pupdAdd | pupdAxpy => apply pupdAxpy | pupdMom => apply pupdMom
  | pushm => apply pushm | popm => apply popm | cbadv => apply cbadv | qrst => apply qrst | qadv => apply qadv | mxgoG => apply mxgoG
  | mxldsG => apply mxldsG | mxqG => apply mxqG
  -- Events
  | _ => exact fun _ hencoded => absurd rfl hencoded

/-- Settles O58: the lemmas of the constructors, each from the fields that its format lays out. -/
theorem decodeEncode : Obligations.DecodeEncode := statement_of_instr

end Sys2Proof.Laws.RoundTrip

namespace Sys2Proof.Machine

/-! Predicates of slots (R61) -/

theorem State.acts_unnegated (s : State) (p : PReg) : s.acts ⟨p, false⟩ = s.rp p := Bool.xor_false _

/-- All that an instruction with a predicate does stands under that predicate. The A-imm12 words name one without an inversion. -/
theorem exec_guarded {i : Instr} {q : Qual} (hgate : gate i = some q) (s : State) :
    ∃ t, exec i s = .next (if s.acts q then t else s) := by
  cases i with
  | addi p | andi p | ori p | xori p | slli p | srli p | srai p | cmpi p =>
    obtain rfl := Option.some.inj hgate
    rw [State.acts_unnegated]
    exact ⟨_, rfl⟩
  | _ => cases hgate <;> exact ⟨_, rfl⟩

/-- Settles O1: with the predicate false the slot's guard leaves the state as it was. -/
theorem predicatedOffDoesNothing : Obligations.PredicatedOffDoesNothing := by
  intro i q s hgate hoff
  obtain ⟨t, hexec⟩ := exec_guarded hgate s
  rw [hexec, hoff]
  rfl

end Sys2Proof.Machine

namespace Sys2Proof

/-! Reserved opcodes (R67-R75): each decoder refuses an opcode that its slot's map does not list -/

section
variable {w : BitVec 32}

theorem decodeA_reserved (hop : (w.extractLsb' 26 6).toNat = 0 ∨ 51 < (w.extractLsb' 26 6).toNat) : decodeA w = .error .reservedOpcode := by
  unfold decodeA
  split
  case h_52 => rfl
  all_goals omega

theorem decodeG_reserved (hop : (w.extractLsb' 26 6).toNat = 0 ∨ 36 < (w.extractLsb' 26 6).toNat) : decodeG w = .error .reservedOpcode := by
  unfold decodeG
  split
  case h_37 => rfl
  all_goals omega

theorem decodeL_reserved (hop : (w.extractLsb' 26 6).toNat = 0 ∨ 14 < (w.extractLsb' 26 6).toNat) : decodeL w = .error .reservedOpcode := by
  unfold decodeL
  split
  case h_15 => rfl
  all_goals omega

theorem decodeX_reserved (hop : (w.extractLsb' 26 6).toNat = 0 ∨ 22 < (w.extractLsb' 26 6).toNat) : decodeX w = .error .reservedOpcode := by
  unfold decodeX
  split
  case h_23 => rfl
  all_goals omega

theorem decodeM_reserved (hop : (w.extractLsb' 26 6).toNat = 0 ∨ 10 < (w.extractLsb' 26 6).toNat) : decodeM w = .error .reservedOpcode := by
  unfold decodeM
  split
  case h_11 => rfl
  all_goals omega

theorem decodeC_reserved (hop : (w.extractLsb' 26 6).toNat = 0 ∨ 6 < (w.extractLsb' 26 6).toNat) : decodeC w = .error .reservedOpcode := by
  unfold decodeC
  split
  case h_7 => rfl
  all_goals omega

theorem decodeF_reserved (hop : (w.extractLsb' 26 6).toNat ≤ 6 ∨ 10 < (w.extractLsb' 26 6).toNat) : decodeF w = .error .reservedOpcode := by
  unfold decodeF
  split
  case h_5 => rfl
  all_goals omega

theorem decodeK_reserved (hop : (w.extractLsb' 26 6).toNat = 0 ∨ 8 < (w.extractLsb' 26 6).toNat) : decodeK w = .error .reservedOpcode := by
  unfold decodeK
  split
  case h_9 => rfl
  all_goals omega

theorem decodeQ_reserved (hop : (w.extractLsb' 26 6).toNat = 0 ∨ 13 < (w.extractLsb' 26 6).toNat) : decodeQ w = .error .reservedOpcode := by
  unfold decodeQ
  dsimp only
  split
  case h_14 => rfl
  all_goals omega

/-- The C slots share the opcodes 1 to 10 between the two modes (R72, R75). -/
theorem decodeSlot_c_reserved (flight : Bool) {sl : Slot} (hsl : sl = .c0 ∨ sl = .c1)
    (hop : (w.extractLsb' 26 6).toNat = 0 ∨ 10 < (w.extractLsb' 26 6).toNat) : decodeSlot flight sl w = .error .reservedOpcode := by
  cases flight with
  | false => obtain rfl | rfl := hsl <;> exact decodeC_reserved (by omega)
  | true => obtain rfl | rfl := hsl <;> exact decodeF_reserved (by omega)

end

/-- Settles O57: the words compute, and each slot's decoder refuses what its map does not list. -/
theorem decodeWords : Obligations.DecodeWords := by
  refine ⟨rfl, rfl, rfl, rfl, rfl, rfl, rfl, rfl, rfl, rfl, rfl, rfl, rfl, rfl, rfl, rfl, rfl, ?_, ?_⟩
  · intro flight w op x hx hop
    simp only [List.mem_cons, List.not_mem_nil, or_false] at hx
    obtain rfl | rfl | rfl | rfl | rfl | rfl | rfl | rfl | rfl := hx
    · exact decodeA_reserved hop
    · exact decodeG_reserved hop
    · exact decodeL_reserved hop
    · exact decodeX_reserved hop
    · exact decodeM_reserved hop
    · exact decodeSlot_c_reserved flight (.inl rfl) hop
    · exact decodeSlot_c_reserved flight (.inr rfl) hop
    · exact decodeK_reserved hop
    · exact decodeQ_reserved hop
  · intro w op sl hsl
    have hflight (hop : op ≤ 6) : decodeF w = .error .reservedOpcode := decodeF_reserved (.inl hop)
    have hoff (hop : 7 ≤ op) : decodeC w = .error .reservedOpcode := decodeC_reserved (.inr hop)
    simp only [List.mem_cons, List.not_mem_nil, or_false] at hsl
    obtain rfl | rfl := hsl <;> exact ⟨hflight, hoff⟩

end Sys2Proof
end

section
/-!
Proofs for the statements on number formats and planes: moves across lanes.
-/
namespace Sys2Proof.Machine

/-! An entry that holds its bundle (R31, R242) -/

/-- A core whose buffer 2 is configured and empty. -/
def emptyRing : Body := { cbs := (Vector.replicate 16 {}).set 2 ⟨some ⟨0x40, 2, .fp32, 0x1800, 0x100⟩, 0, 0⟩ }
/-- Group 0 of that core runs an entry of slot V0. -/
def atEmptyRing : State :=
  { State.reset.modBody 0 (fun _ => emptyRing) with pre := emptyRing, cur := { slot := .v0, bcast := true } }
/-- The move of the buffer's slot, which is not there yet, to the latch. -/
def heldMove : Instr := .mov ⟨0, 0, 0, false⟩ .lat (.cb 2)

theorem atEmptyRing_meets : atEmptyRing.cur.second = false ∧ atEmptyRing.srcHolds (.cb 2) = true ∧ atEmptyRing.srcRewrite (.cb 2) = none ∧
    atEmptyRing.me.pend = [] := by decide +kernel

/-- An entry that holds its bundle has acted all the same: its write is queued. -/
theorem heldMove_pends : ∃ t, exec heldMove atEmptyRing = .next t ∧ t.me.pend.length = 1 :=
  ⟨_, rfl, by decide +kernel⟩

/-- Refutes O40, whose clause on a `mov` that holds its bundle claims that `exec` changes nothing but the hold: `State.entry` lets the
entry act first, so that the rest of the bundle sees what it would pop, and its write stands in `pend` until `State.concludeBroadcast` takes back
what a held bundle did. -/
theorem not_laneReductionsAndMoves : ¬ Obligations.LaneReductionsAndMoves := by
  intro h
  obtain ⟨hsecond, hholds, hrewrite, hpend⟩ := atEmptyRing_meets
  obtain ⟨_, _, _, _, _, _, _, _, _, _, _, hmov⟩ := h atEmptyRing ⟨0, 0, 0, false⟩ .lat (.cb 2) .zero 0
  obtain ⟨honlyHold, _⟩ := hmov hsecond
  obtain ⟨t, hexec, hlength⟩ := heldMove_pends
  have ht : t = { atEmptyRing with cur := { atEmptyRing.cur with hold := some .stall } } :=
    Host.Outcome.next.inj (hexec.symm.trans (honlyHold hholds hrewrite))
  have hkept : t.me.pend = [] := by rw [ht]; exact hpend
  rw [hkept] at hlength
  exact absurd hlength (by decide)

end Sys2Proof.Machine
end

section
/-!
Proofs for the statements on memory spaces and ordering: the checks of an address.
-/
namespace Sys2Proof.Machine

/-! What each access of the G slot does with its address (R132, R184, R352) -/

/-- A cause that the first failing instruction of a G slot raises names that slot. -/
theorem State.raise_raises {s : State} (htrap : s.cur.trap = none) (hslot : s.cur.slot = .g) {cause : Cause} (hcause : cause ≠ .illegalBundle)
    (a : BitVec 64) : Raises s (s.raise cause a) cause a 0 1 := by
  simp only [Raises, State.raise, htrap, hslot, if_neg hcause]
  rfl

theorem glbAccess_of_wide {a : BitVec 64} (hwide : a.extractLsb' 56 8 ≠ 0#8) (n : Nat) (k : VA → State → State) (s : State) :
    glbAccess a n k s = s.raise .protection a := if_pos hwide

theorem glbAccess_of_misaligned {a : BitVec 64} {n : Nat} (hnarrow : a.extractLsb' 56 8 = 0#8) (hoff : a.toNat % n ≠ 0) (k : VA → State → State)
    (s : State) : glbAccess a n k s = s.raise .misaligned a :=
  (if_neg (not_not.mpr hnarrow)).trans (if_pos hoff)

/-- An access of n bytes at a has answered r: a bad address has raised its cause and done nothing else. -/
def ChecksAddress (s : State) (a : BitVec 64) (n : Nat) (r : Result) : Prop :=
  (a.extractLsb' 56 8 ≠ 0#8 → Completes r fun t => Raises s t .protection a 0 1) ∧
  (a.extractLsb' 56 8 = 0#8 → a.toNat % n ≠ 0 → Completes r fun t => Raises s t .misaligned a 0 1)

section
variable {s : State} {q : Qual} (hacts : s.acts q = true) (htrap : s.cur.trap = none) (hslot : s.cur.slot = .g)
include hacts htrap hslot

/-- What acts through `glbAccess` checks its address, whatever it does with a good one. -/
theorem checksAddress_of_glbAccess (a : BitVec 64) (n : Nat) (k : VA → State → State) :
    ChecksAddress s a n (.next (if s.acts q then glbAccess a n k s else s)) := by
  rw [if_pos hacts]
  constructor
  · intro hwide
    rw [glbAccess_of_wide hwide, completes_next]
    exact State.raise_raises htrap hslot (by decide) a
  · intro hnarrow hoff
    rw [glbAccess_of_misaligned hnarrow hoff, completes_next]
    exact State.raise_raises htrap hslot (by decide) a

theorem gLoad_checksAddress (n : Nat) (signed : Bool) (r base : Reg) (off : BitVec 10) :
    ChecksAddress s (s.memAddr base off (BitVec.ofNat 64 n)) n (gLoad n signed q r base off s) :=
  checksAddress_of_glbAccess hacts htrap hslot ..

theorem gStore_checksAddress (n : Nat) (r base : Reg) (off : BitVec 10) :
    ChecksAddress s (s.memAddr base off (BitVec.ofNat 64 n)) n (gStore n q r base off s) :=
  checksAddress_of_glbAccess hacts htrap hslot ..

theorem gOperation_checksAddress (n : Nat) (d base : Reg) (ord : Order) (sc : Scope) (op : State → ReqOp) :
    ChecksAddress s (s.rg base) n (gOperation n q d base ord sc op s) :=
  checksAddress_of_glbAccess hacts htrap hslot ..

theorem gPhaser_checksAddress (h : Hold) (op : PhaserOp) (v : BitVec 64) (d base : Reg) (ord : Order) (sc : Scope) :
    ChecksAddress s (s.rg base) 64 (gPhaser h op v q d base ord sc s) :=
  checksAddress_of_glbAccess hacts htrap hslot ..

end

/-- Settles O8: each of the instructions is a load, a store, an atomic or reduction, or a phaser instruction, and each of these kinds reaches
memory through `glbAccess`. -/
theorem accessesCheckTheirAddress : Obligations.AccessesCheckTheirAddress := by
  intro s q a b d off ord sc hacts htrap hslot scaled
  have load (n : Nat) (signed : Bool) : ChecksAddress s (scaled n) n (gLoad n signed q a b off s) :=
    gLoad_checksAddress hacts htrap hslot n signed a b off
  have store (n : Nat) : ChecksAddress s (scaled n) n (gStore n q a b off s) := gStore_checksAddress hacts htrap hslot n a b off
  have operation (n : Nat) (op : State → ReqOp) : ChecksAddress s (s.rg b) n (gOperation n q d b ord sc op s) :=
    gOperation_checksAddress hacts htrap hslot n d b ord sc op
  have phaser (h : Hold) (op : PhaserOp) (v : BitVec 64) : ChecksAddress s (s.rg b) 64 (gPhaser h op v q d b ord sc s) :=
    gPhaser_checksAddress hacts htrap hslot h op v d b ord sc
  simp only [List.forall_mem_cons]
  exact ⟨load 1 true, load 1 false, load 2 true, load 2 false, load 4 true, load 4 false, load 8 false,
    store 1, store 2, store 4, store 8,
    operation 8 _, operation 8 _, operation 8 _, operation 8 _, operation 8 _, operation 8 _, operation 8 _, operation 8 _, operation 8 _,
    operation 8 _, operation 4 _, operation 32 _, operation 32 _, operation 32 _,
    phaser .stall .init _, phaser .stall .reg _, phaser .stall .drop 0, phaser .stall .arr 0, phaser .wait .wait _, phaser .stall .arw 0,
    phaser .stall .q 0, List.forall_mem_nil _⟩

end Sys2Proof.Machine
end

section
/-!
Proofs for the statements on the control sequencer: what each instruction of the A, G, L and X slots writes, sends, waits for or raises.
-/
namespace Sys2Proof.Machine

/-! Answers of an instruction (R61) -/

theorem Completes.imp {r : Result} {P Q : State → Prop} (h : Completes r P) (hPQ : ∀ t, P t → Q t) : Completes r Q := by
  obtain ⟨t, hr, ht⟩ := h
  exact ⟨t, hr, hPQ t ht⟩

/-- An instruction whose predicate holds answers what stands under it. -/
theorem completes_of_acts {s t : State} {q : Qual} {P : State → Prop} (hacts : s.acts q = true) (h : P t) :
    Completes (.next (if s.acts q then t else s)) P := by rwa [if_pos hacts, completes_next]

/-! Changes of the core whose instruction runs -/

theorem State.modMe_id {s : State} {f : Body → Body} (h : f s.me = s.me) : s.modMe f = s := State.modBody_id s s.cur.core f h

theorem State.modMe_modMe (s : State) (f g : Body → Body) : (s.modMe f).modMe g = s.modMe (g ∘ f) := by
  have hcores : Vec.modify (Vec.modify s.cores s.cur.core fun k => { k with b := f k.b }) s.cur.core (fun k => { k with b := g k.b }) =
      Vec.modify s.cores s.cur.core fun k => { k with b := (g ∘ f) k.b } := by
    simp [Vec.modify]
  exact congrArg (fun v => { s with cores := v }) hcores

/-- A change that leaves the local spaces alone. -/
theorem State.modMe_becomes {s : State} {f : Body → Body} (h : (f s.me).wb = s.me.wb ∧ (f s.me).ab = s.me.ab ∧ (f s.me).acc = s.me.acc ∧
    (f s.me).gal = s.me.gal) : SameBytes s (s.modMe f) ∧ Becomes s (s.modMe f) f :=
  ⟨(modBody_frame h).2, becomes_modMe s f⟩

theorem SameBytes.trans {s t u : State} (hst : SameBytes s t) (htu : SameBytes t u) : SameBytes s u :=
  ⟨fun pa => (htu.1 pa).trans (hst.1 pa), fun c sp a => (htu.2 c sp a).trans (hst.2 c sp a)⟩

/-! Causes of control slots (R6, R50, R174) -/

/-- The first cause of a bundle, met in a slot that is no entry's. -/
theorem State.raise_of_control {s : State} {sl : Slot} (htrap : s.cur.trap = none) (hslot : s.cur.slot = sl)
    {cause : Cause} (a : BitVec 64) (aux : BitVec 10) (hv0 : sl ≠ .v0 := by decide) (hv1 : sl ≠ .v1 := by decide)
    (hcause : cause ≠ .illegalBundle := by decide) :
    Raises s (s.raise cause a aux) cause a aux (slotCode sl) := by
  simp only [Raises, State.raise, htrap, hslot, if_neg hcause]

/-! Low and high bits -/

theorem extractLsb'_zero {w : Nat} (x : BitVec w) (n : Nat) : x.extractLsb' 0 n = x.setWidth n := BitVec.eq_of_toNat_eq (by simp)

/-- An address is a multiple of 4 where its low two bits are 0. -/
theorem low2Bits_eq_zero_iff (a : BitVec 64) : a.extractLsb' 0 2 = 0#2 ↔ a.toNat % 4 = 0 := by
  rw [← BitVec.toNat_inj, BitVec.extractLsb'_toNat]
  rfl

/-- An address has no bit above 55 where it is below 2^56. -/
theorem high8Bits_eq_zero_iff (t : BitVec 64) : t.extractLsb' 56 8 = 0#8 ↔ t.toNat < 2 ^ 56 := by
  rw [← BitVec.toNat_inj, BitVec.extractLsb'_toNat, Nat.shiftRight_eq_div_pow]
  have := t.isLt
  simp only [BitVec.toNat_ofNat]
  omega

/-! Integer operations as exact arithmetic (R176, R177) -/

theorem low6_eq (b : BitVec 64) : low6 b = b.toNat % 64 := by simp [low6]

theorem add_eq_ofNat (a b : BitVec 64) : a + b = .ofNat 64 (a.toNat + b.toNat) := by
  rw [BitVec.ofNat_add, BitVec.ofNat_toNat, BitVec.ofNat_toNat, BitVec.setWidth_eq, BitVec.setWidth_eq]

theorem sub_eq_ofInt (a b : BitVec 64) : a - b = .ofInt 64 (a.toInt - b.toInt) := by
  rw [Int.sub_eq_add_neg, BitVec.ofInt_add, BitVec.ofInt_neg, BitVec.ofInt_toInt, BitVec.ofInt_toInt, BitVec.sub_eq_add_neg]

theorem mul_eq_ofInt (a b : BitVec 64) : a * b = .ofInt 64 (a.toInt * b.toInt) := by
  rw [BitVec.ofInt_mul, BitVec.ofInt_toInt, BitVec.ofInt_toInt]

theorem minS_eq_ofInt (a b : BitVec 64) : minS a b = .ofInt 64 (min a.toInt b.toInt) := by
  unfold minS
  split
  next h => rw [min_eq_left (BitVec.slt_iff_toInt_lt.mp h).le, BitVec.ofInt_toInt]
  next h => rw [min_eq_right (not_lt.mp (mt BitVec.slt_iff_toInt_lt.mpr h)), BitVec.ofInt_toInt]

theorem maxS_eq_ofInt (a b : BitVec 64) : maxS a b = .ofInt 64 (max a.toInt b.toInt) := by
  unfold maxS
  split
  next h => rw [max_eq_right (BitVec.slt_iff_toInt_lt.mp h).le, BitVec.ofInt_toInt]
  next h => rw [max_eq_left (not_lt.mp (mt BitVec.slt_iff_toInt_lt.mpr h)), BitVec.ofInt_toInt]

theorem minU_eq_ofNat (a b : BitVec 64) : minU a b = .ofNat 64 (min a.toNat b.toNat) := by
  unfold minU
  split
  next h => rw [min_eq_left (BitVec.ult_iff_lt.mp h).le, BitVec.ofNat_toNat, BitVec.setWidth_eq]
  next h => rw [min_eq_right (not_lt.mp (mt BitVec.ult_iff_lt.mpr h)), BitVec.ofNat_toNat, BitVec.setWidth_eq]

theorem maxU_eq_ofNat (a b : BitVec 64) : maxU a b = .ofNat 64 (max a.toNat b.toNat) := by
  unfold maxU
  split
  next h => rw [max_eq_right (BitVec.ult_iff_lt.mp h).le, BitVec.ofNat_toNat, BitVec.setWidth_eq]
  next h => rw [max_eq_left (not_lt.mp (mt BitVec.ult_iff_lt.mpr h)), BitVec.ofNat_toNat, BitVec.setWidth_eq]

theorem shl_eq_ofNat (a : BitVec 64) (n : Nat) : shl a n = .ofNat 64 (a.toNat * 2 ^ n) :=
  BitVec.eq_of_toNat_eq (by rw [shl, BitVec.toNat_shiftLeft, Nat.shiftLeft_eq, BitVec.toNat_ofNat])

theorem shr_eq_ofNat (a : BitVec 64) (n : Nat) : shr a n = .ofNat 64 (a.toNat / 2 ^ n) := by
  rw [shr, ← Nat.shiftRight_eq_div_pow, ← BitVec.toNat_ushiftRight, BitVec.ofNat_toNat, BitVec.setWidth_eq]

theorem sar_eq_ofInt (a : BitVec 64) (n : Nat) : sar a n = .ofInt 64 (a.toInt / 2 ^ n) := by
  rw [sar, ← BitVec.ofInt_toInt (x := a.sshiftRight n), BitVec.toInt_sshiftRight, Int.shiftRight_eq_div_pow]
  norm_cast

/-- The two parts of a rotation have no bit in common, so that they add up. -/
theorem rotateLeft_eq_ofNat (a : BitVec 64) {n : Nat} (hn : n < 64) :
    a.rotateLeft n = .ofNat 64 (a.toNat * 2 ^ n + a.toNat / 2 ^ (64 - n)) := by
  have hapart : a <<< n &&& a >>> (64 - n) = 0#64 := by
    apply BitVec.eq_of_getLsbD_eq
    intro i hi
    simp only [BitVec.getLsbD_and, BitVec.getLsbD_shiftLeft, BitVec.getLsbD_ushiftRight, BitVec.getLsbD_zero]
    by_cases hlow : i < n
    · simp [hlow]
    · rw [BitVec.getLsbD_of_ge a (64 - n + i) (by omega), Bool.and_false]
  rw [BitVec.rotateLeft_def, Nat.mod_eq_of_lt hn, ← BitVec.add_eq_or_of_and_eq_zero _ _ hapart, BitVec.ofNat_add,
    ← shl_eq_ofNat, ← shr_eq_ofNat]
  rfl

theorem shl_low6 (a b : BitVec 64) : shl a (low6 b) = .ofNat 64 (a.toNat * 2 ^ (b.toNat % 64)) := by rw [shl_eq_ofNat, low6_eq]

theorem shr_low6 (a b : BitVec 64) : shr a (low6 b) = .ofNat 64 (a.toNat / 2 ^ (b.toNat % 64)) := by rw [shr_eq_ofNat, low6_eq]

theorem sar_low6 (a b : BitVec 64) : sar a (low6 b) = .ofInt 64 (a.toInt / 2 ^ (b.toNat % 64)) := by rw [sar_eq_ofInt, low6_eq]

theorem rotateLeft_low6 (a b : BitVec 64) :
    a.rotateLeft (low6 b) = .ofNat 64 (a.toNat * 2 ^ (b.toNat % 64) + a.toNat / 2 ^ (64 - b.toNat % 64)) := by
  rw [low6_eq, rotateLeft_eq_ofNat _ (Nat.mod_lt _ (by decide))]

theorem divS_eq (a b : BitVec 64) : divS a b = if b = 0 then -1 else .ofInt 64 (a.toInt.tdiv b.toInt) := by
  have hquot : a.sdiv b = .ofInt 64 (a.toInt.tdiv b.toInt) := BitVec.eq_of_toInt_eq (by rw [BitVec.toInt_sdiv, BitVec.toInt_ofInt])
  rw [divS, hquot]
  rfl

theorem divU_eq (a b : BitVec 64) : divU a b = if b = 0 then -1 else .ofNat 64 (a.toNat / b.toNat) := by
  have hquot : a.udiv b = .ofNat 64 (a.toNat / b.toNat) := BitVec.udiv_def ..
  rw [divU, hquot]
  rfl

theorem remS_eq (a b : BitVec 64) : remS a b = if b = 0 then a else .ofInt 64 (a.toInt - b.toInt * a.toInt.tdiv b.toInt) := by
  rw [remS, ← BitVec.ofInt_toInt (x := a.srem b), BitVec.toInt_srem, Int.tmod_def]

theorem remU_eq (a b : BitVec 64) : remU a b = if b = 0 then a else .ofNat 64 (a.toNat - b.toNat * (a.toNat / b.toNat)) := by
  have hrem : a.umod b = .ofNat 64 (a.toNat % b.toNat) := BitVec.umod_def ..
  rw [remU, hrem, Nat.mod_eq_sub_mul_div]

/-! What a register-register form does -/

theorem aluRR_completes {f g : BitVec 64 → BitVec 64 → BitVec 64} (hvalue : ∀ x y, f x y = g x y) (lat : Nat) (s : State) (q : Qual)
    (d a b : Reg) (hacts : s.acts q = true) :
    Completes (.next (aluRR f lat q d a b s)) fun t => WritesG s t d (g (s.rg a) (s.rg b)) (s.cycle + lat) := by
  rw [completes_next, aluRR, if_pos hacts, hvalue]
  exact writesG_wg ..

/-- Settles O2: each form is `aluRR` of an operation that is the exact arithmetic of its row. -/
theorem integerArithmetic : Obligations.IntegerArithmetic := by
  unfold Obligations.IntegerArithmetic
  simp only [List.forall_mem_cons]
  exact ⟨aluRR_completes add_eq_ofNat 1, aluRR_completes sub_eq_ofInt 1, aluRR_completes (fun _ _ => rfl) 1, aluRR_completes (fun _ _ => rfl) 1,
    aluRR_completes (fun _ _ => rfl) 1, aluRR_completes (fun _ _ => rfl) 1, aluRR_completes minS_eq_ofInt 1, aluRR_completes maxS_eq_ofInt 1,
    aluRR_completes minU_eq_ofNat 1, aluRR_completes maxU_eq_ofNat 1, aluRR_completes shl_low6 1, aluRR_completes shr_low6 1,
    aluRR_completes sar_low6 1, aluRR_completes rotateLeft_low6 1, aluRR_completes mul_eq_ofInt 3, aluRR_completes (fun _ _ => rfl) 3,
    aluRR_completes (fun _ _ => rfl) 3, aluRR_completes divS_eq 34, aluRR_completes divU_eq 34, aluRR_completes remS_eq 34,
    aluRR_completes remU_eq 34, List.forall_mem_nil _⟩

/-! Compares, counts and extensions (R178-R180) -/

section
variable (x y : BitVec 64)
theorem intCond_eq : intCond 0 x y = true ↔ x = y := beq_iff_eq
theorem intCond_ne : intCond 1 x y = true ↔ x ≠ y := bne_iff_ne
theorem intCond_lt : intCond 2 x y = true ↔ x.toInt < y.toInt := BitVec.slt_iff_toInt_lt
theorem intCond_ltu : intCond 3 x y = true ↔ x.toNat < y.toNat := BitVec.ult_iff_lt
theorem intCond_le : intCond 4 x y = true ↔ x.toInt ≤ y.toInt := BitVec.sle_iff_toInt_le
theorem intCond_leu : intCond 5 x y = true ↔ x.toNat ≤ y.toNat := BitVec.ule_iff_le
theorem intCond_gt : intCond 6 x y = true ↔ y.toInt < x.toInt := BitVec.slt_iff_toInt_lt
theorem intCond_gtu : intCond 7 x y = true ↔ y.toNat < x.toNat := BitVec.ult_iff_lt
end

theorem truthTable_eq (tt : BitVec 4) (a b : Bool) : truthTable tt a b = tt.getLsbD (2 * a.toNat + b.toNat) := by
  cases a <;> cases b <;> rfl

/-- `leadingZeros` counts the zero bits above the most significant one. -/
theorem leadingZeros_spec (x : BitVec 64) :
    leadingZeros x ≤ 64 ∧ (∀ i < leadingZeros x, x.getMsbD i = false) ∧ (leadingZeros x < 64 → x.getMsbD (leadingZeros x) = true) := by
  by_cases hx : x = 0
  · subst hx
    exact ⟨by decide, fun i _ => BitVec.getMsbD_zero, fun h => absurd h (by decide)⟩
  · have hne : x.toNat ≠ 0 := fun h => hx (BitVec.eq_of_toNat_eq h)
    have hlog : x.toNat.log2 < 64 := (Nat.log2_lt hne).mpr x.isLt
    have hcount : leadingZeros x = 63 - x.toNat.log2 := by
      rw [leadingZeros, if_neg hx]
      omega
    rw [hcount]
    refine ⟨by omega, fun i hi => ?_, fun _ => ?_⟩
    · have hbelow : x.toNat < 2 ^ (64 - 1 - i) := (Nat.log2_lt hne).mp (by omega)
      rw [BitVec.getMsbD_eq_getLsbD, ← BitVec.testBit_toNat, Nat.testBit_lt_two_pow hbelow, Bool.and_false]
    · rw [BitVec.getMsbD_eq_getLsbD, ← BitVec.testBit_toNat, show 64 - 1 - (63 - x.toNat.log2) = x.toNat.log2 by omega, Nat.testBit_log2 hne,
        decide_eq_true (by omega), Bool.and_true]

/-- From bit i on, `trailingFrom` finds the lowest one of n bits. -/
theorem trailingFrom_spec {w : Nat} (x : BitVec w) (n i : Nat) :
    trailingFrom x n i ≤ i + n ∧ (∀ j, i ≤ j → j < trailingFrom x n i → x.getLsbD j = false) ∧
      (trailingFrom x n i < i + n → x.getLsbD (trailingFrom x n i) = true) := by
  induction n generalizing i with
  | zero => exact ⟨le_refl _, fun j hij hj => absurd hj (not_lt.mpr hij), fun h => absurd h (lt_irrefl _)⟩
  | succ n ih =>
    rw [trailingFrom]
    split
    next hset => exact ⟨by omega, fun j hij hj => absurd hj (not_lt.mpr hij), fun _ => hset⟩
    next hclear =>
      obtain ⟨hle, hzero, hone⟩ := ih (i + 1)
      refine ⟨by omega, fun j hij hj => ?_, fun h => hone (by omega)⟩
      rcases hij.eq_or_lt with rfl | hlt
      · exact Bool.eq_false_iff.mpr hclear
      · exact hzero j hlt hj

theorem trailingZeros_spec (x : BitVec 64) :
    trailingZeros x ≤ 64 ∧ (∀ i < trailingZeros x, x.getLsbD i = false) ∧ (trailingZeros x < 64 → x.getLsbD (trailingZeros x) = true) := by
  obtain ⟨hle, hzero, hone⟩ := trailingFrom_spec x 64 0
  exact ⟨hle, fun i => hzero i (Nat.zero_le i), hone⟩

theorem popCount_eq_countP {w : Nat} (x : BitVec w) : popCount x = (List.range w).countP fun i => x.getLsbD i :=
  List.countP_eq_length_filter.symm

/-- The codes of R179 stand for fields of 8, 16 and 32 bits. -/
theorem extend_eq (x : BitVec 64) {c : BitVec 4 × Nat} (hc : c ∈ ([(0, 8), (1, 16), (2, 32)] : List (BitVec 4 × Nat))) :
    extend true c.1 x = (x.setWidth c.2).signExtend 64 ∧ extend false c.1 x = (x.setWidth c.2).setWidth 64 := by
  revert c
  simp only [List.forall_mem_cons, ← extractLsb'_zero x]
  exact ⟨⟨rfl, rfl⟩, ⟨rfl, rfl⟩, ⟨rfl, rfl⟩, List.forall_mem_nil _⟩

/-! The other forms of the A slot -/

theorem cmpRR_completes {f : BitVec 64 → BitVec 64 → Bool} {P : BitVec 64 → BitVec 64 → Prop} (hvalue : ∀ x y, f x y = true ↔ P x y)
    (s : State) (q : Qual) (pd : PReg) (a b : Reg) (hacts : s.acts q = true) :
    Completes (.next (cmpRR f q pd a b s)) fun t => ∃ v : Bool, (v = true ↔ P (s.rg a) (s.rg b)) ∧ WritesP s t pd v (s.cycle + 1) :=
  completes_of_acts hacts ⟨_, hvalue _ _, writesP_wp ..⟩

theorem execCmpi_completes {c : BitVec 3} {P : BitVec 64 → BitVec 64 → Prop} (hvalue : ∀ x y, intCond c x y = true ↔ P x y)
    (s : State) (p : Fin 4) (pd : PReg) (a : Reg) (imm : BitVec 12) (hacts : s.actsP p = true) :
    Completes (execCmpi p c pd a imm s) fun t =>
      ∃ v : Bool, (v = true ↔ P (s.rg a) (imm.signExtend 64)) ∧ WritesP s t pd v (s.cycle + 1) := by
  rw [execCmpi, completes_next, if_pos hacts]
  exact ⟨_, hvalue _ _, writesP_wp ..⟩

theorem aluR_completes (f : BitVec 64 → BitVec 64) {s : State} {q : Qual} (d a : Reg) (hacts : s.acts q = true) :
    Completes (.next (aluR f q d a s)) fun t => WritesG s t d (f (s.rg a)) (s.cycle + 1) :=
  completes_of_acts hacts (writesG_wg ..)

/-- Settles O3: the counts by what `leadingZeros` and `trailingZeros` find, the others by the value of their function. -/
theorem comparesSelectionsCounts : Obligations.ComparesSelectionsCounts := by
  unfold Obligations.ComparesSelectionsCounts
  refine ⟨?compares, ?immediates, fun s q pd pa pb tt hacts => ?logic, fun s q d pc a b => ?selection, fun s q d a hacts => ?counts,
    fun s q d a hacts x hx => ?extensions⟩
  case compares =>
    simp only [List.forall_mem_cons]
    exact ⟨cmpRR_completes intCond_eq, cmpRR_completes intCond_ne, cmpRR_completes intCond_lt, cmpRR_completes intCond_ltu,
      cmpRR_completes intCond_le, cmpRR_completes intCond_leu, List.forall_mem_nil _⟩
  case immediates =>
    simp only [List.forall_mem_cons]
    exact ⟨execCmpi_completes intCond_eq, execCmpi_completes intCond_ne, execCmpi_completes intCond_lt, execCmpi_completes intCond_ltu,
      execCmpi_completes intCond_le, execCmpi_completes intCond_leu, execCmpi_completes intCond_gt, execCmpi_completes intCond_gtu,
      List.forall_mem_nil _⟩
  case logic =>
    rw [← truthTable_eq]
    exact completes_of_acts hacts (writesP_wp ..)
  case selection => exact aluRR_completes (fun _ _ => rfl) 1 s q d a b
  case counts =>
    refine ⟨(aluR_completes (fun x => .ofNat 64 (leadingZeros x)) d a hacts).imp fun t ht => ?_,
      (aluR_completes (fun x => .ofNat 64 (trailingZeros x)) d a hacts).imp fun t ht => ?_, ?_⟩
    · obtain ⟨hle, hzero, hone⟩ := leadingZeros_spec (s.rg a)
      exact ⟨_, hle, hzero, hone, ht⟩
    · obtain ⟨hle, hzero, hone⟩ := trailingZeros_spec (s.rg a)
      exact ⟨_, hle, hzero, hone, ht⟩
    · rw [← popCount_eq_countP]
      exact aluR_completes (fun x => .ofNat 64 (popCount x)) d a hacts
  case extensions =>
    obtain ⟨hsext, hzext⟩ := extend_eq (s.rg a) hx
    rw [← hsext, ← hzext]
    exact ⟨aluR_completes _ d a hacts, aluR_completes _ d a hacts⟩

/-! Immediates (R180, R181) -/

theorem aluI_completes {f g : BitVec 64 → BitVec 64} (hvalue : ∀ x, f x = g x) (s : State) (p : Fin 4) (d a : Reg) (hacts : s.actsP p = true) :
    Completes (.next (aluI f p d a s)) fun t => WritesG s t d (g (s.rg a)) (s.cycle + 1) := by
  rw [completes_next, aluI, if_pos hacts, hvalue]
  exact writesG_wg ..

/-- Twelve zero bits below a field multiply its value by 4 096. -/
theorem upper_eq_ofInt (imm : BitVec 20) : upper imm = .ofInt 64 (4096 * imm.toInt) := by
  have hnat : (imm ++ 0#12).toNat = 4096 * imm.toNat := by
    rw [BitVec.toNat_append, BitVec.toNat_ofNat, Nat.zero_mod, Nat.or_zero, Nat.shiftLeft_eq, Nat.mul_comm]
  have hint : (imm ++ 0#12).toInt = 4096 * imm.toInt := by
    rw [BitVec.toInt_eq_toNat_cond, BitVec.toInt_eq_toNat_cond, hnat]
    split <;> split <;> omega
  rw [upper, BitVec.signExtend, hint]

theorem zeroExtend_eq_ofInt {w : Nat} (x : BitVec w) : x.zeroExtend 64 = .ofInt 64 x.toNat := by
  rw [BitVec.ofInt_natCast, BitVec.ofNat_toNat]

/-- Settles O4: each form is `aluI` of its operation, or writes a value of `upper`. -/
theorem immediateArithmetic : Obligations.ImmediateArithmetic := by
  unfold Obligations.ImmediateArithmetic
  simp only [List.forall_mem_cons]
  refine ⟨⟨fun s p d a imm => aluI_completes (fun _ => rfl) s p d a, fun s p d a imm => aluI_completes (fun _ => rfl) s p d a,
      fun s p d a imm => aluI_completes (fun _ => rfl) s p d a, fun s p d a imm => aluI_completes (fun _ => rfl) s p d a, List.forall_mem_nil _⟩,
    ⟨fun s p d a sh => aluI_completes (shl_eq_ofNat · _) s p d a, fun s p d a sh => aluI_completes (shr_eq_ofNat · _) s p d a,
      fun s p d a sh => aluI_completes (sar_eq_ofInt · _) s p d a, List.forall_mem_nil _⟩, fun s d imm => ⟨?_, ?_⟩⟩
  · rw [← upper_eq_ofInt]
    exact ⟨_, rfl, writesG_wg ..⟩
  · rw [BitVec.ofInt_add, ← upper_eq_ofInt, ← zeroExtend_eq_ofInt]
    exact ⟨_, rfl, writesG_wg ..⟩

/-! Scalar floating point (R182, R103) -/

/-- Statistics records posted one after another. -/
def State.postAll (s : State) (rs : List StatRec) : State := s.modMe fun b => { b with posts := b.posts ++ rs.map fun r => (0, r) }

theorem State.postAll_nil (s : State) : s.postAll [] = s := State.modMe_id (by rw [List.map_nil, List.append_nil])

theorem State.postAll_append (s : State) (rs ts : List StatRec) : (s.postAll rs).postAll ts = s.postAll (rs ++ ts) := by
  simp only [State.postAll, State.modMe_modMe, Function.comp_def, List.map_append, List.append_assoc]

/-- The record of one kind that a scalar operation posts where it has met that case. -/
def State.scalarNote (s : State) (op : BitVec 48) (on : Bool) (kind : BitVec 8) : List StatRec :=
  if on then [statRecord kind false 31 0 0 s.cur.hdr op] else []

theorem State.scalarNote_false (s : State) (op : BitVec 48) (kind : BitVec 8) : s.scalarNote op false kind = [] := rfl

theorem State.post_if (s : State) (op : BitVec 48) (on : Bool) (kind : BitVec 8) :
    (if on then s.post (statRecord kind false 31 0 0 s.cur.hdr op) else s) = s.postAll (s.scalarNote op on kind) := by
  cases on with
  | false => exact (State.postAll_nil s).symm
  | true => rfl

theorem scalarRecords_eq (op : BitVec 8) (invalid overflow divzero intSat : Bool) (s : State) :
    scalarRecords op invalid overflow divzero intSat s =
      s.postAll (s.scalarNote (op.zeroExtend 48) invalid 1 ++ s.scalarNote (op.zeroExtend 48) overflow 2 ++
        s.scalarNote (op.zeroExtend 48) divzero 3 ++ s.scalarNote (op.zeroExtend 48) intSat 4) := by
  simp only [scalarRecords, State.post_if, ← State.postAll_append]
  rfl

/-- A register written and records posted. -/
theorem State.postAll_wg (s : State) (r : Reg) (v : BitVec 64) (n : Nat) (rs : List StatRec) :
    WritesGPosts s ((s.wg r v n).postAll rs) r v (s.cycle + n) rs :=
  ⟨s.wg r v n, writesG_wg .., becomes_modMe ..⟩

theorem low32_toNat (x : BitVec 64) : (x.extractLsb' 0 32).toNat = x.toNat % 2 ^ 32 := by simp

theorem fpScalar_completes (op : BitVec 8) (f : Nat → Nat → FpRes) (s : State) (q : Qual) (d a b : Reg) (hacts : s.acts q = true) :
    let r := f ((s.rg a).toNat % 2 ^ 32) ((s.rg b).toNat % 2 ^ 32)
    Completes (.next (fpScalar op f q d a b s)) fun t => WritesGPosts s t d (.ofNat 64 r.bits) (s.cycle + 4)
      (s.scalarNote (op.zeroExtend 48) r.invalid 1 ++ s.scalarNote (op.zeroExtend 48) r.overflow 2 ++
        s.scalarNote (op.zeroExtend 48) r.divzero 3) := by
  rw [← low32_toNat, ← low32_toNat]
  refine completes_of_acts hacts ?_
  rw [scalarRecords_eq, State.scalarNote_false, List.append_nil]
  exact State.postAll_wg ..

/-- Settles O5: the records of an operation are those of its notes, posted after the write of its result. -/
theorem scalarFloatingPoint : Obligations.ScalarFloatingPoint := by
  unfold Obligations.ScalarFloatingPoint
  simp only [List.forall_mem_cons]
  refine ⟨⟨fpScalar_completes 44 _, fpScalar_completes 45 _, fpScalar_completes 46 _, fpScalar_completes 47 _, fpScalar_completes 48 _,
    List.forall_mem_nil _⟩, fun s q d a fn hacts => ?_, fun s q pd a b fn hacts => ?_⟩
  · refine completes_of_acts hacts ?_
    rw [scalarRecords_eq, State.scalarNote_false, List.append_nil]
    exact State.postAll_wg ..
  · rw [← low32_toNat, ← low32_toNat]
    exact completes_of_acts hacts (writesP_wp ..)

/-! Accesses of the G slot that may issue (R132, R151, R184) -/

theorem glbAccess_of_accessible {a : BitVec 64} {n : Nat} (ha : Accessible a n) (k : VA → State → State) (s : State) :
    glbAccess a n k s = k (a.extractLsb' 0 56) s :=
  (if_neg (not_not.mpr ha.1)).trans (if_neg (not_not.mpr ha.2))

theorem whenFree_of_mayIssue {s : State} (hfree : MayIssue s) (k : State → State) : whenFree k s = k s := by
  obtain ⟨hheld, hsent, hroom, hfault0, hfault6⟩ := hfree
  simp [whenFree, hheld, hsent, hfault0, hfault6, hroom]

/-! The journal of returned values (R44, R45) -/

theorem Core.journalRead_frame (k : Core) :
    k.journalRead.2.2 = { k with journal := k.journalRead.2.2.journal, journalNext := k.journalRead.2.2.journalNext } := by
  unfold Core.journalRead
  dsimp only
  split <;> rfl

theorem onlyJournal_set {s : State} {c : CoreId} {k : Core} (hk : k = { s.cores[c] with journal := k.journal, journalNext := k.journalNext }) :
    OnlyJournal s { s with cores := s.cores.set c k } c := by
  refine ⟨rfl, fun d hd => ?_, ?_⟩
  · exact Vector.getElem_set_ne c.isLt d.isLt fun h => hd (Fin.ext h.symm)
  · have hget : (s.cores.set c k)[c] = k := Vector.getElem_set_self ..
    simp only [hget]
    exact hk

/-- The entry of a read is taken from the journal. -/
theorem onlyJournal_read (s : State) (c : CoreId) : OnlyJournal s { s with cores := s.cores.set c s.cores[c].journalRead.2.2 } c :=
  onlyJournal_set (Core.journalRead_frame _)

/-- The entry of a read is taken from the journal and set. -/
theorem onlyJournal_readSet (s : State) (c : CoreId) (v : BitVec 64) :
    OnlyJournal s { s with cores := s.cores.set c (s.cores[c].journalRead.2.2.journalSet s.cores[c].journalRead.1 v) } c :=
  onlyJournal_set (congrArg (fun k => Core.journalSet k s.cores[c].journalRead.1 v) (Core.journalRead_frame s.cores[c]))

/-! Loads (R184, R170) -/

theorem Vec.modify_set {α : Type} {n : Nat} (v : Vector α n) (i : Fin n) (x : α) (f : α → α) : Vec.modify (v.set i x) i f = v.set i (f x) := by
  simp [Vec.modify]

section
variable {s : State} {n : Nat} {va : VA} (signed : Bool) (r : Reg)

theorem loadGlb_of_held {i : Fin 8} {o : Nat} (hheld : findHeld s.pre.vts false va.toNat n = some (i, o)) :
    loadGlb n signed r va s = s.wg r (loadValue n signed [] (s.pre.readHeld s.pre.vts[i] o n)) 4 := by
  simp only [loadGlb, hheld]

variable (hheld : findHeld s.pre.vts false va.toNat n = none)
include hheld

theorem loadGlb_of_journalled {v : BitVec 64} (hjournal : s.cores[s.cur.core].journalRead.2.1 = some v) :
    loadGlb n signed r va s = State.wg { s with cores := s.cores.set s.cur.core s.cores[s.cur.core].journalRead.2.2 } r v 5 := by
  simp only [loadGlb, hheld, hjournal]

variable (hafresh : ReadsAfresh s)
include hafresh

theorem loadGlb_of_cached {bs : List (BitVec 8)} (hcache : s.cacheBytes s.cur.core s.pre.sys.asn va n = some bs) :
    let v := loadValue n signed (overlay (s.unplaced s.cur.core ++ s.pre.held) va.toNat n) bs
    loadGlb n signed r va s = State.wg
      { s with cores := s.cores.set s.cur.core (s.cores[s.cur.core].journalRead.2.2.journalSet s.cores[s.cur.core].journalRead.1 v) } r v 5 := by
  have hnone : s.cores[s.cur.core].journalRead.2.1 = none := hafresh
  simp only [loadGlb, hheld, hnone, hcache, Vec.modify_set]

theorem loadGlb_of_uncached (hcache : s.cacheBytes s.cur.core s.pre.sys.asn va n = none) :
    loadGlb n signed r va s =
      let j := s.cores[s.cur.core].journalRead
      let p := State.sendNow { s with cores := s.cores.set s.cur.core j.2.2 } (s.gRequest va (.load n signed r (overlay s.pre.held va.toNat n) j.1))
      p.2.modMe (·.await p.1 r) := by
  have hnone : s.cores[s.cur.core].journalRead.2.1 = none := hafresh
  simp only [loadGlb, hheld, hnone, hcache]

end

/-- The two ways to tell a negative field of n bytes. -/
theorem sextNat_bytes {n : Nat} (hn : 0 < n) (v : Nat) :
    sextNat v (8 * n) = if v < 2 ^ (8 * n - 1) then (v : Int) else (v : Int) - 2 ^ (8 * n) := by
  obtain ⟨m, hm⟩ : ∃ m, 8 * n = m + 1 := ⟨8 * n - 1, by omega⟩
  have hpow : 2 ^ (m + 1) = 2 * 2 ^ m := Nat.pow_succ'
  rw [sextNat, hm, Nat.add_sub_cancel]
  split <;> split
  · omega
  · push_cast
    rfl
  · rfl
  · omega

/-- Bytes under a core's own earlier stores, extended to 64 bits. -/
def loadedValue (n : Nat) (signed : Bool) (own : List (Nat × BitVec 8)) (bs : List (BitVec 8)) : BitVec 64 :=
  let v := natLE (own.foldl (fun bs o => bs.set o.1 o.2) bs)
  if signed then BitVec.ofInt 64 (if v < 2 ^ (8 * n - 1) then v else (v : Int) - 2 ^ (8 * n)) else .ofNat 64 v

theorem loadValue_eq_loadedValue {n : Nat} (hn : 0 < n) : loadValue n = loadedValue n := by
  funext signed own bs
  rw [loadValue, sextNat_bytes hn]
  rfl

/-- A load as its row of the statement has it. -/
def LoadGives (i : Instr) (s : State) (n : Nat) (signed : Bool) (r : Reg) (va : VA) : Prop :=
  (∀ j o, findHeld s.pre.vts false va.toNat n = some (j, o) →
    Completes (exec i s) fun t => WritesG s t r (loadedValue n signed [] (s.pre.readHeld s.pre.vts[j] o n)) (s.cycle + 4)) ∧
  (findHeld s.pre.vts false va.toNat n = none →
    (∀ v, s.cores[s.cur.core].journalRead.2.1 = some v →
      Completes (exec i s) fun t => ∃ u, OnlyJournal s u s.cur.core ∧ WritesG u t r v (s.cycle + 5)) ∧
    (ReadsAfresh s → ∀ bs, s.cacheBytes s.cur.core s.pre.sys.asn va n = some bs → bs.length = n →
      Completes (exec i s) fun t => ∃ u, OnlyJournal s u s.cur.core ∧
        WritesG u t r (loadedValue n signed (overlay (s.unplaced s.cur.core ++ s.pre.held) va.toNat n) bs) (s.cycle + 5)) ∧
    (ReadsAfresh s → s.cacheBytes s.cur.core s.pre.sys.asn va n = none →
      Completes (exec i s) fun t => ∃ u j, OnlyJournal s u s.cur.core ∧
        t = State.modMe (State.sendReady { u with
            nextId := s.nextId + 1
            requests := s.requests ++ [{ id := s.nextId, core := s.cur.core, baddr := s.cur.hdr, issued := s.issueNo, asn := s.pre.sys.asn
                                         va := va, op := .load n signed r (overlay s.pre.held va.toNat n) j }] } s.cur.core) (·.await s.nextId r)))

theorem loadGives_of_exec {i : Instr} {s : State} {n : Nat} {signed : Bool} {r : Reg} {va : VA} (hn : 0 < n)
    (hexec : exec i s = .next (loadGlb n signed r va s)) : LoadGives i s n signed r va := by
  unfold LoadGives
  simp only [hexec, completes_next, ← loadValue_eq_loadedValue hn]
  refine ⟨fun j o hheld => ?_, fun hheld => ⟨fun v hv => ?_, fun hafresh bs hcache _ => ?_, fun hafresh hcache => ?_⟩⟩
  · rw [loadGlb_of_held signed r hheld]
    exact writesG_wg ..
  · rw [loadGlb_of_journalled signed r hheld hv]
    exact ⟨_, onlyJournal_read s _, writesG_wg ..⟩
  · rw [loadGlb_of_cached signed r hheld hafresh hcache]
    exact ⟨_, onlyJournal_readSet s _ _, writesG_wg ..⟩
  · rw [loadGlb_of_uncached signed r hheld hafresh hcache]
    exact ⟨_, _, onlyJournal_read s _, rfl⟩

theorem gLoad_of_free {s : State} {q : Qual} {n : Nat} (signed : Bool) {r base : Reg} {off : BitVec 10} (hacts : s.acts q = true)
    (ha : Accessible (s.memAddr base off (BitVec.ofNat 64 n)) n) (hfree : MayIssue s) :
    gLoad n signed q r base off s = .next (loadGlb n signed r ((s.memAddr base off (BitVec.ofNat 64 n)).extractLsb' 0 56) s) := by
  rw [gLoad, if_pos hacts, glbAccess_of_accessible ha, whenFree_of_mayIssue hfree]

/-- A load instruction whose address is good and which may issue. -/
theorem loadGives_of_gLoad {i : Qual → Reg → Reg → BitVec 10 → Instr} {n : Nat} {signed : Bool} (hn : 0 < n)
    (hexec : ∀ s q r base off, exec (i q r base off) s = gLoad n signed q r base off s) (s : State) (q : Qual) (r base : Reg) (off : BitVec 10)
    (hacts : s.acts q = true) (ha : Accessible (s.memAddr base off (BitVec.ofNat 64 n)) n) (hfree : MayIssue s) :
    LoadGives (i q r base off) s n signed r ((s.memAddr base off (BitVec.ofNat 64 n)).extractLsb' 0 56) :=
  loadGives_of_exec hn ((hexec s q r base off).trans (gLoad_of_free signed hacts ha hfree))

/-- Settles O6: each load is `gLoad` of its size and sign, and comes to one of the four cases of `loadGlb`. -/
theorem loadsGiveTheirBytes : Obligations.LoadsGiveTheirBytes := by
  unfold Obligations.LoadsGiveTheirBytes
  simp only [List.forall_mem_cons]
  exact ⟨loadGives_of_gLoad (n := 1) (signed := true) (by decide) fun _ _ _ _ _ => rfl,
    loadGives_of_gLoad (n := 1) (signed := false) (by decide) fun _ _ _ _ _ => rfl,
    loadGives_of_gLoad (n := 2) (signed := true) (by decide) fun _ _ _ _ _ => rfl,
    loadGives_of_gLoad (n := 2) (signed := false) (by decide) fun _ _ _ _ _ => rfl,
    loadGives_of_gLoad (n := 4) (signed := true) (by decide) fun _ _ _ _ _ => rfl,
    loadGives_of_gLoad (n := 4) (signed := false) (by decide) fun _ _ _ _ _ => rfl,
    loadGives_of_gLoad (n := 8) (signed := false) (by decide) fun _ _ _ _ _ => rfl, List.forall_mem_nil _⟩

/-! Stores (R184, R42) -/

theorem bytesLE_eq_map (n v : Nat) : bytesLE n v = (List.range n).map fun i => BitVec.ofNat 8 (v / 256 ^ i) := by
  induction n generalizing v with
  | zero => rfl
  | succ n ih =>
    rw [bytesLE, ih, List.range_succ_eq_map, List.map_cons, List.map_map, Nat.pow_zero, Nat.div_one]
    simp only [Function.comp_def, Nat.div_div_eq_div_mul, ← Nat.pow_succ']

theorem bytesLE_toNat (n : Nat) (x : BitVec 64) : bytesLE n x.toNat = (List.range n).map fun i => x.extractLsb' (8 * i) 8 := by
  rw [bytesLE_eq_map]
  refine List.map_congr_left fun i _ => BitVec.eq_of_toNat_eq ?_
  rw [BitVec.extractLsb'_toNat, BitVec.toNat_ofNat, Nat.shiftRight_eq_div_pow, Nat.pow_mul]

/-- Sending what may be sent changes the requests alone. -/
theorem State.sendReady_frame (s : State) (c : CoreId) : s.sendReady c = { s with requests := (s.sendReady c).requests } := by
  refine List.foldlRecOn (motive := fun (t : State) => t = { s with requests := t.requests }) _ _ rfl fun t ht r _ => ?_
  split
  · exact congrArg (fun u => State.putRequest u { r with stage := .port, due := t.cycle + 2 }) ht
  · exact ht

theorem State.sendReady_sameBytes (s : State) (c : CoreId) : SameBytes s (s.sendReady c) := by
  rw [State.sendReady_frame]
  exact ⟨fun _ => rfl, fun _ _ _ => rfl⟩

/-! Effects of the G slot (R42) -/

/-- Whether a line is left for an effect depends on its place alone. -/
theorem Body.overfull_congr (b : Body) {r x : Request} (hva : r.va = x.va) (hasn : r.asn = x.asn) (hsize : r.size = x.size) :
    b.overfull r = b.overfull x := by
  simp only [Body.overfull, effectLines, List.flatMap_append, List.flatMap_singleton, hva, hasn, hsize]

/-- A request of the instruction under way, with the number that it gets. -/
def State.numbered (s : State) (va : VA) (op : ReqOp) : Request := { s.gRequest va op with id := s.nextId }

section
variable {s : State} {va : VA} {op : ReqOp}

theorem State.effect_of_direct (hdirect : s.me.sendsDirectly = true) :
    s.effect s.cur.core (s.gRequest va op) = { s with nextId := s.nextId + 1, requests := s.requests ++ [s.numbered va op] } :=
  if_pos hdirect

theorem State.effect_of_room (hholds : s.me.sendsDirectly = false) (hroom : s.me.overfull (s.numbered va op) = false) :
    s.effect s.cur.core (s.gRequest va op) =
      State.modMe { s with nextId := s.nextId + 1 } fun b => { b with held := b.held ++ [s.numbered va op] } :=
  (if_neg (Bool.eq_false_iff.mp hholds)).trans (if_neg (Bool.eq_false_iff.mp hroom))

theorem State.overfull_numbered : s.me.overfull (s.gRequest va op) = s.me.overfull (s.numbered va op) := s.me.overfull_congr rfl rfl rfl

theorem State.post1_of_room (hholds : s.me.sendsDirectly = false) (hroom : s.me.overfull (s.numbered va op) = false) :
    s.post1 (s.gRequest va op) =
      State.modMe { s with nextId := s.nextId + 1 } fun b => { b with held := b.held ++ [s.numbered va op] } := by
  have hstill : (s.effect s.cur.core (s.gRequest va op)).me.sendsDirectly = false := by
    rw [State.effect_of_room hholds hroom, State.me_modMe]
    exact hholds
  rw [State.post1, State.overfull_numbered, hroom, if_neg fun h => Bool.false_ne_true h.2]
  exact (if_neg (Bool.eq_false_iff.mp hstill)).trans (State.effect_of_room hholds hroom)

theorem State.post1_of_full (hholds : s.me.sendsDirectly = false) (hfull : s.me.overfull (s.numbered va op) = true) :
    s.post1 (s.gRequest va op) = s.askFor .stall .checkpoint :=
  if_pos ⟨hholds, State.overfull_numbered.trans hfull⟩

theorem State.post1_of_direct (hdirect : s.me.sendsDirectly = true) :
    s.post1 (s.gRequest va op) =
      State.sendReady { s with nextId := s.nextId + 1, requests := s.requests ++ [s.numbered va op] } s.cur.core := by
  rw [State.post1, State.effect_of_direct hdirect, hdirect, if_neg fun h => Bool.false_ne_true h.1.symm]
  exact if_pos hdirect

end

theorem State.askFor_asks (s : State) (h : Hold) (a : Ask) : Asks s (s.askFor h a) h a := by
  refine ⟨_, s.askFor_eq h a, fun hnone => ?_, fun x hx => ?_⟩
  · rw [hnone]
  · rw [hx]

/-- The write records of a store to global memory. -/
def storeRecords (s : State) (va : VA) (bs : List (BitVec 8)) (b : Body) : Body :=
  b.logWrites (byteRecords s.src 5 (bs.zipIdx.map fun (x, i) => (va.toNat + i, x)))

/-- A store of bytes as the statement has it. -/
def StoreGives (i : Instr) (s : State) (va : VA) (bs : List (BitVec 8)) : Prop :=
  (∀ j o, findHeld s.pre.vts false va.toNat bs.length = some (j, o) →
    Completes (exec i s) fun t => SameBytes s t ∧ Becomes s t fun b => { b with locals := b.locals ++ [heldWrite s.pre.vts 4 s.src j o bs] }) ∧
  (findHeld s.pre.vts false va.toNat bs.length = none →
    (s.me.sendsDirectly = false → s.me.overfull (s.numbered va (.store bs)) = false →
      Completes (exec i s) fun t => SameBytes s t ∧ ∃ u, u = { s with nextId := s.nextId + 1 } ∧
        Becomes u t fun b => storeRecords s va bs { b with held := b.held ++ [s.numbered va (.store bs)] }) ∧
    (s.me.sendsDirectly = false → s.me.overfull (s.numbered va (.store bs)) = true →
      Completes (exec i s) fun t => SameBytes s t ∧ ∃ u, Asks s u .stall .checkpoint ∧ Becomes u t (storeRecords s va bs)) ∧
    (s.me.sendsDirectly = true →
      Completes (exec i s) fun t => SameBytes s t ∧
        t = State.modMe (State.sendReady { s with nextId := s.nextId + 1, requests := s.requests ++ [s.numbered va (.store bs)] } s.cur.core)
          (storeRecords s va bs)))

theorem storeGlb_of_held {s : State} {va : VA} {bs : List (BitVec 8)} {i : Fin 8} {o : Nat}
    (hheld : findHeld s.pre.vts false va.toNat bs.length = some (i, o)) :
    storeGlb bs va s = s.laterWrite (heldWrite s.pre.vts 4 s.src i o bs) := by
  simp only [storeGlb, hheld]

theorem storeGlb_of_unheld {s : State} {va : VA} {bs : List (BitVec 8)} (hheld : findHeld s.pre.vts false va.toNat bs.length = none) :
    storeGlb bs va s = (s.post1 (s.gRequest va (.store bs))).modMe (storeRecords s va bs) := by
  simp only [storeGlb, hheld]
  rfl

theorem storeGives_of_exec {i : Instr} {s : State} {va : VA} {bs : List (BitVec 8)} (hexec : exec i s = .next (storeGlb bs va s)) :
    StoreGives i s va bs := by
  unfold StoreGives
  simp only [hexec, completes_next]
  refine ⟨fun j o hheld => ?held, fun hheld => ?_⟩
  case held =>
    rw [storeGlb_of_held hheld]
    exact State.modMe_becomes ⟨rfl, rfl, rfl, rfl⟩
  rw [storeGlb_of_unheld hheld]
  refine ⟨fun hholds hroom => ?room, fun hholds hfull => ?full, fun hdirect => ?direct⟩
  case room =>
    rw [State.post1_of_room hholds hroom, State.modMe_modMe]
    obtain ⟨hbytes, hbecomes⟩ := State.modMe_becomes (s := { s with nextId := s.nextId + 1 })
      (f := storeRecords s va bs ∘ fun b => { b with held := b.held ++ [s.numbered va (.store bs)] }) ⟨rfl, rfl, rfl, rfl⟩
    exact ⟨hbytes, _, rfl, hbecomes⟩
  case full =>
    rw [State.post1_of_full hholds hfull]
    obtain ⟨hbytes, hbecomes⟩ := State.modMe_becomes (s := s.askFor .stall .checkpoint) (f := storeRecords s va bs) ⟨rfl, rfl, rfl, rfl⟩
    exact ⟨hbytes, _, State.askFor_asks .., hbecomes⟩
  case direct =>
    rw [State.post1_of_direct hdirect]
    have hsent := State.sendReady_sameBytes { s with nextId := s.nextId + 1, requests := s.requests ++ [s.numbered va (.store bs)] } s.cur.core
    exact ⟨hsent.trans (State.modMe_becomes ⟨rfl, rfl, rfl, rfl⟩).1, rfl⟩

theorem gStore_of_free {s : State} {q : Qual} {n : Nat} {r base : Reg} {off : BitVec 10} (hacts : s.acts q = true)
    (ha : Accessible (s.memAddr base off (BitVec.ofNat 64 n)) n) (hfree : MayIssue s) :
    gStore n q r base off s =
      .next (storeGlb ((List.range n).map fun i => (s.rg r).extractLsb' (8 * i) 8)
        ((s.memAddr base off (BitVec.ofNat 64 n)).extractLsb' 0 56) s) := by
  rw [gStore, if_pos hacts, glbAccess_of_accessible ha, whenFree_of_mayIssue hfree, bytesLE_toNat]

/-- A store instruction whose address is good and which may issue. -/
theorem storeGives_of_gStore {i : Qual → Reg → Reg → BitVec 10 → Instr} {n : Nat}
    (hexec : ∀ s q r base off, exec (i q r base off) s = gStore n q r base off s) (s : State) (q : Qual) (r base : Reg) (off : BitVec 10)
    (hacts : s.acts q = true) (ha : Accessible (s.memAddr base off (BitVec.ofNat 64 n)) n) (hfree : MayIssue s) :
    StoreGives (i q r base off) s ((s.memAddr base off (BitVec.ofNat 64 n)).extractLsb' 0 56)
      ((List.range n).map fun i => (s.rg r).extractLsb' (8 * i) 8) :=
  storeGives_of_exec ((hexec s q r base off).trans (gStore_of_free hacts ha hfree))

/-- Settles O7: each store is `gStore` of its size, and comes to one of the four cases of `storeGlb`. -/
theorem storesAreHeld : Obligations.StoresAreHeld := by
  unfold Obligations.StoresAreHeld
  simp only [List.forall_mem_cons]
  exact ⟨storeGives_of_gStore (n := 1) fun _ _ _ _ _ => rfl, storeGives_of_gStore (n := 2) fun _ _ _ _ _ => rfl,
    storeGives_of_gStore (n := 4) fun _ _ _ _ _ => rfl, storeGives_of_gStore (n := 8) fun _ _ _ _ _ => rfl, List.forall_mem_nil _⟩

/-! Prefetches, drains and purges (R185-R187) -/

theorem purgeAt_of_user {s : State} {q : Qual} (hacts : s.acts q = true) (hmode : s.pre.handler = false) (base : Reg) (off : BitVec 10)
    (k : VA → State → State) : purgeAt q base off k s = .next (s.raise .protection (s.memAddr base off 128)) := by
  rw [purgeAt, if_pos hacts, if_pos hmode]

theorem purgeAt_of_handler {s : State} {q : Qual} {base : Reg} {off : BitVec 10} (hacts : s.acts q = true) (hmode : s.pre.handler = true)
    (hnarrow : (s.memAddr base off 128).extractLsb' 56 8 = 0#8) (hfree : MayIssue s) (k : VA → State → State) :
    purgeAt q base off k s = .next (k ((s.memAddr base off 128).extractLsb' 0 56) s) := by
  rw [purgeAt, if_pos hacts, hmode, if_neg Bool.noConfusion, glbAccess_of_accessible ⟨hnarrow, Nat.mod_one _⟩, purgeFree,
    whenFree_of_mayIssue hfree, ite_self]

theorem execPfg_of_wide {s : State} {q : Qual} {base : Reg} {off : BitVec 10} (hacts : s.acts q = true)
    (hwide : (s.memAddr base off 128).extractLsb' 56 8 ≠ 0#8) : execPfg q base off s = .next s := by
  rw [execPfg, if_pos hacts, if_pos hwide]

theorem execPfg_of_free {s : State} {q : Qual} {base : Reg} {off : BitVec 10} (hacts : s.acts q = true)
    (hnarrow : (s.memAddr base off 128).extractLsb' 56 8 = 0#8) (hfree : MayIssue s) :
    execPfg q base off s =
      .next (s.sendNow { s.gRequest ((s.memAddr base off 128).extractLsb' 0 56) .prefetch with gslot := false }).2 := by
  rw [execPfg, if_pos hacts, if_neg (not_not.mpr hnarrow), whenFree_of_mayIssue hfree]

theorem State.unperformed_eq_nil {s : State} {c : CoreId} {id : Nat} {sc : Scope}
    (hdone : ∀ r ∈ s.requests, r.from c = true → r.gslot = true → r.id < id → s.performedAt r sc = true) : s.unperformed c id sc = [] := by
  refine List.filter_eq_nil_iff.mpr fun r hr => ?_
  simp only [Bool.and_eq_true, decide_eq_true_eq, Bool.not_eq_true']
  rintro ⟨⟨⟨hfrom, hslot⟩, hid⟩, hopen⟩
  exact Bool.false_ne_true (hopen.symm.trans (hdone r hr hfrom hslot hid))

theorem execDrain_of_performed {s : State} {q : Qual} {sc : Scope} {id : Nat} (hacts : s.acts q = true) (hdrain : s.drainHere = some id)
    (hdone : ∀ r ∈ s.requests, r.from s.cur.core = true → r.gslot = true → r.id < id → s.performedAt r sc = true)
    (hreports : ∀ f ∈ s.pre.reports, f.access = none) : execDrain q sc s = .next s := by
  have hparked : s.pre.reports.all (·.access.isNone) = true := List.all_eq_true.mpr fun f hf => by rw [hreports f hf]; rfl
  simp only [execDrain, if_pos hacts, hdrain, State.unperformed_eq_nil hdone, hparked]
  rfl

/-- No earlier store of the core to the line is under way: its line leaves the data cache. -/
theorem execPurgeDc_of_idle {s : State} {q : Qual} {base : Reg} {off : BitVec 10} (hacts : s.acts q = true) (hmode : s.pre.handler = true)
    (hnarrow : (s.memAddr base off 128).extractLsb' 56 8 = 0#8) (hfree : MayIssue s)
    (hidle : ∀ r ∈ s.pre.held ++ s.requests.filter (·.core == s.cur.core), ∀ bs, r.op = .store bs → r.asn = s.pre.sys.asn →
      lineOf r.va ≠ lineOf ((s.memAddr base off 128).extractLsb' 0 56)) :
    execPurgeDc q base off s =
      .next (s.modHall s.pre.sys.asn ((s.memAddr base off 128).extractLsb' 0 56) fun h => { h with dir := h.dir.remove s.cur.core }) := by
  have hnone : ∀ r ∈ s.pre.held ++ s.requests.filter (·.core == s.cur.core), (r.asn == s.pre.sys.asn &&
      lineOf r.va == lineOf ((s.memAddr base off 128).extractLsb' 0 56) && (match r.op with | .store _ => true | _ => false)) = false := by
    intro r hr
    cases hop : r.op with
    | store bs =>
      have hapart := hidle r hr bs hop
      simp only [Bool.and_true, Bool.and_eq_false_iff, beq_eq_false_iff_ne]
      by_cases hasn : r.asn = s.pre.sys.asn
      · exact .inr (hapart hasn)
      · exact .inl hasn
    | _ => rw [Bool.and_false]
  rw [execPurgeDc, purgeAt_of_handler hacts hmode hnarrow hfree]
  refine congrArg Host.Outcome.next ((if_neg ?held).trans (if_neg ?sent))
  case held =>
    rw [List.any_eq_true]
    rintro ⟨r, hr, hhere⟩
    exact Bool.false_ne_true ((hnone r (List.mem_append_left _ hr)).symm.trans hhere)
  case sent =>
    rw [List.any_eq_true]
    rintro ⟨r, hr, hhere⟩
    obtain ⟨hcore, hhere⟩ := Bool.and_eq_true_iff.mp hhere
    exact Bool.false_ne_true ((hnone r (List.mem_append_right _ (List.mem_filter.mpr ⟨hr, hcore⟩))).symm.trans hhere)

theorem execPurgeTlb_of_answered {s : State} {q : Qual} {base : Reg} {off : BitVec 10} (hacts : s.acts q = true) (hmode : s.pre.handler = true)
    (hnarrow : (s.memAddr base off 128).extractLsb' 56 8 = 0#8) (hfree : MayIssue s) {id : Nat} {x : BitVec 64 × Option Cause}
    (hsent : s.sentHere = some id) (hanswer : s.answerHere = some x) : execPurgeTlb q base off s = .next s := by
  rw [execPurgeTlb, purgeAt_of_handler hacts hmode hnarrow hfree, hsent, hanswer]

/-- A purge of the instruction caches takes one line out of both. -/
theorem execPurgeIc_completes {s : State} {q : Qual} {base : Reg} {off : BitVec 10} (hacts : s.acts q = true) (hmode : s.pre.handler = true)
    (hnarrow : (s.memAddr base off 128).extractLsb' 56 8 = 0#8) (hfree : MayIssue s) :
    let va : VA := (s.memAddr base off 128).extractLsb' 0 56
    Completes (execPurgeIc q base off s) fun t => t = { s with cores := t.cores } ∧
      (∀ d, d ≠ s.cur.core → t.cores[d] = s.cores[d]) ∧
      (∀ l, lookup t.cores[s.cur.core].icache l = if l = lineOf va then none else lookup s.cores[s.cur.core].icache l) ∧
      (∀ l, lookup t.cores[s.cur.core].bicache l = if l = lineOf va then none else lookup s.cores[s.cur.core].bicache l) ∧
      t.cores[s.cur.core] = { s.cores[s.cur.core] with icache := t.cores[s.cur.core].icache, bicache := t.cores[s.cur.core].bicache } := by
  rw [execPurgeIc, purgeAt_of_handler hacts hmode hnarrow hfree, completes_next]
  refine ⟨rfl, fun d hd => Vec.getElem_modify_ne _ _ hd, ?_⟩
  simp only [Vec.getElem_modify_same, lookup_eraseKey, eq_comm (a := lineOf _), implies_true, and_self]

/-- Settles O11: a prefetch and the purges by what stands behind their checks, a drain by what is still to be performed. -/
theorem prefetchDrainPurge : Obligations.PrefetchDrainPurge := by
  intro s q base off hacts a va request
  refine ⟨execPfg_of_wide hacts, execPfg_of_free hacts, fun sc id => execDrain_of_performed hacts, fun hmode htrap hslot => ?_,
    fun hmode hnarrow hfree => ⟨execPurgeDc_of_idle hacts hmode hnarrow hfree, execPurgeIc_completes hacts hmode hnarrow hfree,
      fun id x => execPurgeTlb_of_answered hacts hmode hnarrow hfree⟩⟩
  have hrefused (k : VA → State → State) : Completes (purgeAt q base off k s) fun t => Raises s t .protection a 0 1 :=
    ⟨_, purgeAt_of_user hacts hmode .., State.raise_of_control htrap hslot _ _⟩
  simp only [List.forall_mem_cons]
  exact ⟨hrefused _, hrefused _, hrefused _, List.forall_mem_nil _⟩

/-! The L slot: gallery accesses (R189) -/

section
variable {s : State} {q : Qual} {n : Nat} {base : Reg} {off : BitVec 10} (k : Nat → State → State) (hacts : s.acts q = true)
include hacts

theorem galAccess_of_inside (haligned : (s.memAddr base off (BitVec.ofNat 64 n)).toNat % n = 0)
    (hinside : (s.memAddr base off (BitVec.ofNat 64 n)).toNat + n ≤ 0x200000) :
    galAccess n q base off k s = .next (k (s.memAddr base off (BitVec.ofNat 64 n)).toNat s) := by
  rw [galAccess, if_pos hacts, if_neg (not_not.mpr haligned), inSpace, decide_eq_true (p := _ ≤ Space.gal.size) hinside, if_pos rfl]

theorem galAccess_of_misaligned (hoff : (s.memAddr base off (BitVec.ofNat 64 n)).toNat % n ≠ 0) :
    galAccess n q base off k s = .next (s.raise .misaligned (s.memAddr base off (BitVec.ofNat 64 n))) := by
  rw [galAccess, if_pos hacts, if_pos hoff]

theorem galAccess_of_outside (haligned : (s.memAddr base off (BitVec.ofNat 64 n)).toNat % n = 0)
    (houtside : 0x200000 < (s.memAddr base off (BitVec.ofNat 64 n)).toNat + n) :
    galAccess n q base off k s = .next (s.raise .protection (s.memAddr base off (BitVec.ofNat 64 n))) := by
  rw [galAccess, if_pos hacts, if_neg (not_not.mpr haligned), inSpace, decide_eq_false (p := _ ≤ Space.gal.size) (not_le.mpr houtside),
    if_neg Bool.false_ne_true]

end

/-- Gallery bytes written at the end of the cycle, in the gallery or in the home of a held view. -/
theorem State.writeGal_eq_laterWrite (s : State) (rank a : Nat) (bs : List (BitVec 8)) :
    s.writeGal rank a bs = s.laterWrite (match findHeld s.pre.vts true a bs.length with
      | some (i, o) => heldWrite s.pre.vts rank s.src i o bs
      | none => ⟨rank, .gal, a, bs, s.src, [], false⟩) := by
  unfold State.writeGal
  cases findHeld s.pre.vts true a bs.length <;> rfl

/-- A load and a store of n gallery bytes as a row of the statement has them. -/
def GalleryRow (load store : Instr) (s : State) (r : Reg) (a : BitVec 64) (n : Nat) : Prop :=
  let bytes := (List.range n).map fun i => (s.rg r).extractLsb' (8 * i) 8
  (a.toNat % n = 0 → a.toNat + n ≤ 0x200000 →
    Completes (exec load s) (fun t => WritesG s t r (.ofNat 64 (natLE (s.pre.readGal a.toNat n))) (s.cycle + 4)) ∧
    Completes (exec store s) fun t => SameBytes s t ∧ Becomes s t fun b => { b with
      locals := b.locals ++ [match findHeld s.pre.vts true a.toNat n with
        | some (i, o) => heldWrite s.pre.vts 4 s.src i o bytes
        | none => ⟨4, .gal, a.toNat, bytes, s.src, [], false⟩] }) ∧
  (s.cur.trap = none → s.cur.slot = .l → ∀ i ∈ [load, store],
    (a.toNat % n ≠ 0 → Completes (exec i s) fun t => Raises s t .misaligned a 0 2) ∧
    (a.toNat % n = 0 → 0x200000 < a.toNat + n → Completes (exec i s) fun t => Raises s t .protection a 0 2))

theorem galleryRow_of_exec {load store : Qual → Reg → Reg → BitVec 10 → Instr} {n : Nat}
    (hload : ∀ s q r base off, exec (load q r base off) s = galLoad n q r base off s)
    (hstore : ∀ s q r base off, exec (store q r base off) s = galStore n q r base off s)
    (s : State) (q : Qual) (r base : Reg) (off : BitVec 10) (hacts : s.acts q = true) :
    GalleryRow (load q r base off) (store q r base off) s r (s.memAddr base off (BitVec.ofNat 64 n)) n := by
  have hbad (htrap : s.cur.trap = none) (hslot : s.cur.slot = .l) (k : Nat → State → State) :
      let a := s.memAddr base off (BitVec.ofNat 64 n)
      (a.toNat % n ≠ 0 → Completes (galAccess n q base off k s) fun t => Raises s t .misaligned a 0 2) ∧
      (a.toNat % n = 0 → 0x200000 < a.toNat + n → Completes (galAccess n q base off k s) fun t => Raises s t .protection a 0 2) :=
    ⟨fun hoff => ⟨_, galAccess_of_misaligned k hacts hoff, State.raise_of_control htrap hslot _ _⟩,
      fun haligned houtside => ⟨_, galAccess_of_outside k hacts haligned houtside, State.raise_of_control htrap hslot _ _⟩⟩
  unfold GalleryRow
  simp only [List.forall_mem_cons, hload, hstore]
  refine ⟨fun haligned hinside => ⟨?_, ?_⟩, fun htrap hslot => ⟨hbad htrap hslot _, hbad htrap hslot _, List.forall_mem_nil _⟩⟩
  · rw [galLoad, galAccess_of_inside _ hacts haligned hinside, completes_next]
    exact writesG_wg ..
  · rw [galStore, galAccess_of_inside _ hacts haligned hinside, completes_next, State.writeGal_eq_laterWrite, length_bytesLE, bytesLE_toNat]
    exact State.modMe_becomes ⟨rfl, rfl, rfl, rfl⟩

/-- Settles O12: each row is `galLoad` and `galStore` of its size. -/
theorem galleryAccesses : Obligations.GalleryAccesses :=
  List.forall_mem_cons.mpr ⟨galleryRow_of_exec (fun _ _ _ _ _ => rfl) fun _ _ _ _ _ => rfl,
    List.forall_mem_cons.mpr ⟨galleryRow_of_exec (fun _ _ _ _ _ => rfl) fun _ _ _ _ _ => rfl,
    List.forall_mem_cons.mpr ⟨galleryRow_of_exec (fun _ _ _ _ _ => rfl) fun _ _ _ _ _ => rfl,
    List.forall_mem_cons.mpr ⟨galleryRow_of_exec (fun _ _ _ _ _ => rfl) fun _ _ _ _ _ => rfl, List.forall_mem_nil _⟩⟩⟩⟩

/-! Group scalars (R190) -/

theorem scalarIndex_eq (a : BitVec 64) : fin4 (a.extractLsb' 2 4) = Fin.ofNat 16 (a.toNat / 4) :=
  Fin.ext (by rw [fin4, Fin.ofNat, BitVec.val_toFin, BitVec.extractLsb'_toNat, Nat.shiftRight_eq_div_pow])

section
variable {s : State} {q : Qual} {base : Reg} {off : BitVec 10} (hacts : s.acts q = true) (r : Reg)
include hacts

theorem execSgw_of_inside (haligned : (s.memAddr base off 4).toNat % 4 = 0) (hinside : (s.memAddr base off 4).toNat ≤ 1532) :
    execSgw q r base off s = .next (s.modMe fun b => { b with
      pend := b.pend ++ [{ due := s.cycle, issue := 0, v1 := false, group := ⟨(s.memAddr base off 4).toNat / 64, by omega⟩
                           w := .scalar (Fin.ofNat 16 ((s.memAddr base off 4).toNat / 4)) ((s.rg r).setWidth 32), src := s.src }] }) := by
  rw [execSgw, if_pos hacts, if_neg (not_not.mpr ((low2Bits_eq_zero_iff _).mpr haligned)), dif_pos hinside, scalarIndex_eq, extractLsb'_zero]

theorem execSgw_of_misaligned (hoff : (s.memAddr base off 4).toNat % 4 ≠ 0) :
    execSgw q r base off s = .next (s.raise .misaligned (s.memAddr base off 4)) := by
  rw [execSgw, if_pos hacts, if_pos (mt (low2Bits_eq_zero_iff _).mp hoff)]

theorem execSgw_of_outside (haligned : (s.memAddr base off 4).toNat % 4 = 0) (houtside : 1532 < (s.memAddr base off 4).toNat) :
    execSgw q r base off s = .next (s.raise .protection (s.memAddr base off 4)) := by
  rw [execSgw, if_pos hacts, if_neg (not_not.mpr ((low2Bits_eq_zero_iff _).mpr haligned)), dif_neg (not_le.mpr houtside)]

end

/-- Settles O13: `sgw` by its address: misaligned, of a scalar, or beyond the last one. -/
theorem groupScalarWrites : Obligations.GroupScalarWrites := by
  intro s q r base off hacts a
  refine ⟨fun haligned hinside => ⟨_, execSgw_of_inside hacts r haligned hinside, State.modMe_becomes ⟨rfl, rfl, rfl, rfl⟩⟩,
    fun htrap hslot => ⟨fun hoff => ⟨_, execSgw_of_misaligned hacts r hoff, ?_⟩,
      fun haligned houtside => ⟨_, execSgw_of_outside hacts r haligned houtside, ?_⟩⟩⟩
  · exact State.raise_of_control htrap hslot _ _
  · exact State.raise_of_control htrap hslot _ _

/-! Transfers (R191, R192, R56) -/

theorem branchTarget_eq (h : VA) (off : BitVec 22) : branchTarget h off = h + .ofInt 56 (4 * off.toInt) := by
  rw [branchTarget, Int.mul_comm, BitVec.ofInt_mul]
  rfl

section
variable {t : BitVec 64} (k : State → State) (s : State)

theorem jumpTo_of_misaligned (hoff : t.toNat % 4 ≠ 0) : jumpTo t k s = s.raise .misaligned t :=
  if_pos (mt (low2Bits_eq_zero_iff t).mp hoff)

theorem jumpTo_of_wide (haligned : t.toNat % 4 = 0) (hwide : 2 ^ 56 ≤ t.toNat) : jumpTo t k s = s.raise .protection t := by
  rw [jumpTo, if_neg (not_not.mpr ((low2Bits_eq_zero_iff t).mpr haligned)), if_pos (mt (high8Bits_eq_zero_iff t).mp (not_lt.mpr hwide))]

theorem jumpTo_of_good (haligned : t.toNat % 4 = 0) (hnarrow : t.toNat < 2 ^ 56) : jumpTo t k s = k (s.goto (t.setWidth 56)) := by
  rw [jumpTo, if_neg (not_not.mpr ((low2Bits_eq_zero_iff t).mpr haligned)), if_neg (not_not.mpr ((high8Bits_eq_zero_iff t).mpr hnarrow)),
    extractLsb'_zero]

end

/-- Settles O16: the direct transfers by their target, the others by `jumpTo`, whose bad targets reach neither the transfer nor the link. -/
theorem controlTransfers : Obligations.ControlTransfers := by
  intro s q a b off hacts next label taken
  have hlabel : branchTarget s.cur.hdr off = label := branchTarget_eq ..
  refine ⟨completes_of_acts hacts (by rw [hlabel]; rfl), completes_of_acts hacts ⟨_, by rw [hlabel]; rfl, writesG_wg ..⟩,
    fun haligned hnarrow => ⟨completes_of_acts hacts ?_, completes_of_acts hacts ?_⟩, fun htrap hslot => ?_⟩
  · rw [jumpTo_of_good id s haligned hnarrow]
    rfl
  · rw [jumpTo_of_good _ s haligned hnarrow]
    exact ⟨_, rfl, writesG_wg ..⟩
  · have hbad (k : State → State) :
        ((s.rg a).toNat % 4 ≠ 0 → Completes (.next (if s.acts q then jumpTo (s.rg a) k s else s)) fun t => Raises s t .misaligned (s.rg a) 0 3) ∧
        ((s.rg a).toNat % 4 = 0 → 2 ^ 56 ≤ (s.rg a).toNat →
          Completes (.next (if s.acts q then jumpTo (s.rg a) k s else s)) fun t => Raises s t .protection (s.rg a) 0 3) := by
      refine ⟨fun hoff => completes_of_acts hacts ?_, fun haligned hwide => completes_of_acts hacts ?_⟩
      · rw [jumpTo_of_misaligned k s hoff]
        exact State.raise_of_control htrap hslot _ _
      · rw [jumpTo_of_wide k s haligned hwide]
        exact State.raise_of_control htrap hslot _ _
    simp only [List.forall_mem_cons]
    exact ⟨hbad id, hbad _, List.forall_mem_nil _⟩

/-! Hardware loops (R193, R195) -/

theorem loopStop_eq (h : VA) (last : BitVec 18) : h + last.zeroExtend 56 * 4 = h + .ofNat 56 (4 * last.toNat) := by
  rw [Nat.mul_comm, BitVec.ofNat_mul, BitVec.ofNat_toNat]
  rfl

section
variable {s : State} (lc : Fin 4) (count : Reg) (last : BitVec 18)

theorem execLoop_of_handler (hmode : s.pre.handler = true) : execLoop lc count last s = .next (s.raise .illegalOp) := by
  rw [execLoop, if_pos hmode]

variable {count} (hmode : s.pre.handler = false)
include hmode

theorem execLoop_of_count (hcount : s.rg count ≠ 0) :
    execLoop lc count last s = .next (s.modMe fun m => { m with
      loops := ⟨lc, s.nextBundle, s.cur.hdr + .ofNat 56 (4 * last.toNat)⟩ :: dropLoop lc m.loops, lc := m.lc.set lc (s.rg count) }) := by
  rw [execLoop, hmode, if_neg Bool.false_ne_true, if_neg hcount, loopStop_eq]

theorem execLoop_of_zero {h : BitVec 32} {len : Nat} (hcount : s.rg count = 0)
    (hcached : s.cores[s.cur.core].cachedWord false (s.cur.hdr + .ofNat 56 (4 * last.toNat)) = some h) (hlen : ctlLength h = some len) :
    execLoop lc count last s = .next ((s.modMe fun m =>
      { m with loops := dropLoop lc m.loops, lc := m.lc.set lc 0, steps := m.steps.set lc (Vector.replicate 4 none) }).goto
        (s.cur.hdr + .ofNat 56 (4 * last.toNat) + .ofNat 56 len)) := by
  simp only [execLoop, hmode, hcount, loopStop_eq, hcached, hlen]
  rfl

end

/-- Settles O17: a loop by its count, a step slot by its register, both refused in handler mode. -/
theorem hardwareLoops : Obligations.HardwareLoops := by
  intro s q lc slot count a b last e next
  refine ⟨fun hmode => ⟨fun hcount => ?opened, fun h len hcount hcached hlen => ?passed, fun hacts => ?step⟩,
    fun hmode htrap hslot => ⟨⟨_, execLoop_of_handler lc count last hmode, State.raise_of_control htrap hslot _ _⟩, fun hacts => ?refused⟩⟩
  case opened => exact ⟨_, execLoop_of_count lc last hmode hcount, State.modMe_becomes ⟨rfl, rfl, rfl, rfl⟩⟩
  case passed =>
    obtain ⟨hbytes, hbecomes⟩ := State.modMe_becomes (s := s) (f := fun m =>
      { m with loops := dropLoop lc m.loops, lc := m.lc.set lc 0, steps := m.steps.set lc (Vector.replicate 4 none) }) ⟨rfl, rfl, rfl, rfl⟩
    exact ⟨_, execLoop_of_zero lc last hmode hcount hcached hlen, _, hbytes, hbecomes, rfl⟩
  case step =>
    refine completes_of_acts hacts ?_
    rw [hmode, if_neg Bool.false_ne_true]
    simp only [Fin.val_eq_zero_iff]
    exact State.modMe_becomes ⟨rfl, rfl, rfl, rfl⟩
  case refused =>
    refine completes_of_acts hacts ?_
    rw [if_pos hmode]
    exact State.raise_of_control htrap hslot _ _

/-! Waits for tokens and flags (R196, R197) -/

theorem oneBit_getLsbD (n i : Fin 16) : (oneBit n).getLsbD i.val = decide (i = n) := by revert n i; decide

theorem maskMembers_oneBit (n : Fin 16) : maskMembers (oneBit n) = [n] := by revert n; decide

theorem all_maskMembers (m : BitVec 16) (p : Fin 16 → Bool) :
    (maskMembers m).all p = true ↔ ∀ n : Fin 16, m.getLsbD n.val = true → p n = true := by
  simp [maskMembers, or_iff_not_imp_left]

section
variable {s : State} {m : BitVec 16}

theorem waitTokens_of_idle (hidle : ∀ n : Fin 16, m.getLsbD n.val = true → s.pre.tokenBusy n = false) : waitTokens m s = s := by
  refine if_neg fun h => ?_
  obtain ⟨n, hn, hbusy⟩ := (any_maskMembers m _).mp h
  exact Bool.false_ne_true ((hidle n hn).symm.trans hbusy)

theorem waitTokens_of_busy (hbusy : ∃ n : Fin 16, m.getLsbD n.val = true ∧ s.pre.tokenBusy n = true) : waitTokens m s = s.holdFor .wait :=
  if_pos ((any_maskMembers m _).mpr hbusy)

theorem waitFlags_of_set (hset : ∀ n : Fin 16, m.getLsbD n.val = true → s.pre.flags[n] = true) : waitFlags m s = s :=
  if_pos ((all_maskMembers m _).mpr hset)

theorem waitFlags_of_clear (hclear : ∃ n : Fin 16, m.getLsbD n.val = true ∧ s.pre.flags[n] = false) : waitFlags m s = s.holdFor .wait := by
  refine if_neg fun h => ?_
  obtain ⟨n, hn, hflag⟩ := hclear
  exact Bool.false_ne_true (hflag.symm.trans ((all_maskMembers m _).mp h n hn))

end

/-- Flags change one after another at the end of the cycle. -/
theorem foldl_flagAt (set : Bool) (ns : List (Fin 16)) (s : State) :
    ns.foldl (fun s n => s.flagAt n set s.cycle) s = s.modMe fun b => { b with flagOps := b.flagOps ++ ns.map fun n => ⟨n, set, s.cycle⟩ } := by
  induction ns generalizing s with
  | nil => exact (State.modMe_id (by rw [List.map_nil, List.append_nil])).symm
  | cons n ns ih =>
    rw [List.foldl_cons, ih, State.flagAt, State.modMe_modMe]
    simp only [Function.comp_def, List.append_assoc, List.map_cons, List.singleton_append, State.modMe_cycle]

theorem changeFlags_becomes (set : Bool) {m : BitVec 16} {ns : List (Fin 16)} (hns : maskMembers m = ns) (s : State) :
    SameBytes s (changeFlags set m s) ∧
      Becomes s (changeFlags set m s) fun b => { b with flagOps := b.flagOps ++ ns.map fun n => ⟨n, set, s.cycle⟩ } := by
  rw [changeFlags, foldl_flagAt, hns]
  exact State.modMe_becomes ⟨rfl, rfl, rfl, rfl⟩

/-- Settles O18: the waits by the state of the named tokens and flags, the changes member by member. -/
theorem tokensAndFlags : Obligations.TokensAndFlags := by
  intro s q n a hacts mask held changed
  have hmask : (s.rg a).extractLsb' 0 16 = mask := extractLsb'_zero ..
  have hheld : held (s.holdFor .wait) := by
    rw [State.holdFor_eq]
    exact ⟨rfl, rfl⟩
  have hidle {t : State} (h : t = s) : Host.Outcome.next (if s.acts q then t else s) = (.next s : Result) := by rw [h, ite_self]
  have hwaits {t : State} (h : t = s.holdFor .wait) : Completes (.next (if s.acts q then t else s)) held := completes_of_acts hacts (h ▸ hheld)
  have hself : (oneBit n).getLsbD n.val = true := (oneBit_getLsbD n n).trans (decide_eq_true rfl)
  have honly {p : Fin 16 → Prop} (h : p n) (i : Fin 16) (hi : (oneBit n).getLsbD i.val = true) : p i :=
    (of_decide_eq_true ((oneBit_getLsbD n i).symm.trans hi)) ▸ h
  refine ⟨fun h => hidle (waitTokens_of_idle (honly h)), fun h => hwaits (waitTokens_of_busy ⟨n, hself, h⟩),
    fun h => hidle (waitTokens_of_idle ?_), fun h => hwaits (waitTokens_of_busy ?_),
    fun h => hidle (waitFlags_of_set (honly h)), fun h => hwaits (waitFlags_of_clear ⟨n, hself, h⟩),
    fun h => hidle (waitFlags_of_set ?_), fun h => hwaits (waitFlags_of_clear ?_),
    completes_of_acts hacts (changeFlags_becomes true (maskMembers_oneBit n) s),
    completes_of_acts hacts (changeFlags_becomes false (maskMembers_oneBit n) s),
    completes_of_acts hacts (changeFlags_becomes true (congrArg maskMembers hmask) s),
    completes_of_acts hacts (changeFlags_becomes false (congrArg maskMembers hmask) s)⟩
  · rw [hmask]; exact h
  · rw [hmask]; exact h
  · rw [hmask]; exact h
  · rw [hmask]; exact h

/-! The broadcast sequencer and the queues (R198, R199, R202, R256) -/

section
variable {s : State} {q : Qual} (hacts : s.acts q = true)
include hacts

theorem execBstart_of_running (a : Reg) (hrun : s.pre.brun = true) : execBstart q a s = .next s := by
  rw [execBstart, if_pos hacts, if_pos hrun]

section
variable (hstopped : s.pre.brun = false)
include hstopped

theorem execBstart_at {a : Reg} (ha : a ≠ 0) (haligned : (s.rg a).toNat % 4 = 0) :
    execBstart q a s = .next (s.modMe fun m => { m with
      brun := true, bnext := max m.bnext (s.cycle + 1), bpc := (s.rg a).setWidth 56, bpcUnset := false, bfold := 0, bretries := 0 }) := by
  rw [execBstart, if_pos hacts, hstopped, if_neg Bool.false_ne_true, if_neg (mt Fin.val_eq_zero_iff.mp ha),
    if_neg (not_not.mpr ((low2Bits_eq_zero_iff _).mpr haligned)), extractLsb'_zero]
  rfl

theorem execBstart_of_misaligned {a : Reg} (ha : a ≠ 0) (hoff : (s.rg a).toNat % 4 ≠ 0) :
    execBstart q a s = .next (s.raise .misaligned (s.rg a)) := by
  rw [execBstart, if_pos hacts, hstopped, if_neg Bool.false_ne_true, if_neg (mt Fin.val_eq_zero_iff.mp ha),
    if_pos (mt (low2Bits_eq_zero_iff _).mp hoff)]

theorem execBstart_resuming (hset : s.pre.bpcUnset = false) : execBstart q 0 s = .next (s.modMe (·.startBroadcast s.cycle)) := by
  rw [execBstart, if_pos hacts, hstopped, if_neg Bool.false_ne_true, if_pos (Fin.val_zero _), hset, if_neg Bool.false_ne_true]

theorem execBstart_of_unset (hunset : s.pre.bpcUnset = true) : execBstart q 0 s = .next (s.raise .illegalOp) := by
  rw [execBstart, if_pos hacts, hstopped, if_neg Bool.false_ne_true, if_pos (Fin.val_zero _), if_pos hunset]

end

theorem execPushq_of_room (a : Reg) (hroom : s.pre.ctq.length < 64) :
    execPushq q a s = .next (s.modMe fun m => { m with ctq := m.ctq ++ [s.rg a] }) := by
  rw [execPushq, if_pos hacts, if_neg (not_le.mpr hroom)]

theorem execPopq_of_due (a : Reg) {e : BtqEntry} {rest : List BtqEntry} (hqueue : s.pre.btq = e :: rest) (hdue : e.due < s.cycle) :
    execPopq q a s = .next ((s.modMe fun m => { m with btq := m.btq.drop 1 }).wg a e.value) := by
  simp only [execPopq, if_pos hacts, hqueue, if_pos hdue]

theorem execStqrd_of_same {a : Reg} (ha : a ≠ 0) : execStqrd q a a s = .next (s.raise .illegalOp) := by
  rw [execStqrd, if_pos hacts, if_pos ⟨rfl, mt Fin.val_eq_zero_iff.mp ha⟩]

section
variable {a b : Reg} (hapart : a ≠ b ∨ a = 0)
include hapart

theorem execStqrd_of_empty (hqueue : s.pre.stq = []) : execStqrd q a b s = .next ((s.wg a 0).wg b 0) := by
  have hok : ¬ (a = b ∧ a.val ≠ 0) := fun h => hapart.elim (· h.1) (h.2 <| Fin.val_eq_zero_iff.mpr ·)
  simp only [execStqrd, if_pos hacts, if_neg hok, hqueue]

theorem execStqrd_of_record {r : StatRec} {rest : List StatRec} (hqueue : s.pre.stq = r :: rest) :
    execStqrd q a b s = .next (((s.modMe fun m => { m with stq := m.stq.drop 1 }).wg a (r.setWidth 64)).wg b ((r >>> 64).setWidth 64)) := by
  have hok : ¬ (a = b ∧ a.val ≠ 0) := fun h => hapart.elim (· h.1) (h.2 <| Fin.val_eq_zero_iff.mpr ·)
  have hhigh : r.extractLsb' 64 64 = (r >>> 64).setWidth 64 := BitVec.eq_of_toNat_eq (by simp)
  simp only [execStqrd, if_pos hacts, if_neg hok, hqueue, extractLsb'_zero, hhigh]

end

end

/-- Settles O19: `bstart` by its register and the counter, the queues by what stands first in them. -/
theorem sequencerAndQueues : Obligations.SequencerAndQueues := by
  intro s q a b hacts
  refine ⟨execBstart_of_running hacts a, fun hstopped ha haligned => ⟨_, execBstart_at hacts hstopped ha haligned, ?_⟩,
    fun hstopped hset => ⟨_, execBstart_resuming hacts hstopped hset, ?_⟩,
    fun htrap hslot hstopped => ⟨fun hunset => ⟨_, execBstart_of_unset hacts hstopped hunset, ?_⟩,
      fun ha hoff => ⟨_, execBstart_of_misaligned hacts hstopped ha hoff, ?_⟩⟩,
    completes_of_acts hacts ?_, fun hroom => ⟨_, execPushq_of_room hacts a hroom, ?_⟩,
    fun e rest hqueue hdue => ⟨_, execPopq_of_due hacts a hqueue hdue, ?_⟩,
    fun hapart hqueue => ⟨_, execStqrd_of_empty hacts hapart hqueue, ?_⟩,
    fun r rest hapart hqueue => ⟨_, execStqrd_of_record hacts hapart hqueue, ?_⟩,
    fun hab ha htrap hslot => ?_⟩
  · exact State.modMe_becomes ⟨rfl, rfl, rfl, rfl⟩
  · exact State.modMe_becomes ⟨rfl, rfl, rfl, rfl⟩
  · exact State.raise_of_control htrap hslot _ _
  · exact State.raise_of_control htrap hslot _ _
  · exact State.modMe_becomes ⟨rfl, rfl, rfl, rfl⟩
  · exact State.modMe_becomes ⟨rfl, rfl, rfl, rfl⟩
  · obtain ⟨hbytes, hbecomes⟩ := State.modMe_becomes (s := s) (f := fun m => { m with btq := m.btq.drop 1 }) ⟨rfl, rfl, rfl, rfl⟩
    exact ⟨_, hbytes, hbecomes, writesG_wg ..⟩
  · exact ⟨_, writesG_wg .., writesG_wg ..⟩
  · obtain ⟨hbytes, hbecomes⟩ := State.modMe_becomes (s := s) (f := fun m => { m with stq := m.stq.drop 1 }) ⟨rfl, rfl, rfl, rfl⟩
    exact ⟨_, _, hbytes, hbecomes, writesG_wg .., writesG_wg ..⟩
  · subst hab
    exact ⟨_, execStqrd_of_same hacts ha, State.raise_of_control htrap hslot _ _⟩

/-! System registers (R171, R172, R203, R188) -/

/-- The numbers of the map of R172. -/
def srNumbers : List (BitVec 12) :=
  [0x000, 0x001, 0x002, 0x003, 0x004, 0x005, 0x008, 0x009, 0x00A, 0x00B, 0x010, 0x011, 0x012, 0x013, 0x014, 0x015, 0x018, 0x019, 0x01A,
    0x020, 0x021, 0x022, 0x023]

theorem srAccess_listed : ∀ sr ∈ srNumbers, (srAccess sr).isSome = true := by
  simp only [srNumbers, List.forall_mem_cons]
  exact ⟨rfl, rfl, rfl, rfl, rfl, rfl, rfl, rfl, rfl, rfl, rfl, rfl, rfl, rfl, rfl, rfl, rfl, rfl, rfl, rfl, rfl, rfl, rfl, List.forall_mem_nil _⟩

theorem srAccess_readOnly : ∀ sr ∈ [0x000#12, 0x001, 0x002, 0x003, 0x004, 0x005, 0x009, 0x018, 0x019], srAccess sr = some .r := by
  simp only [List.forall_mem_cons]
  exact ⟨rfl, rfl, rfl, rfl, rfl, rfl, rfl, rfl, rfl, List.forall_mem_nil _⟩

/-- The registers that may be written, each with whether a handler alone may. -/
theorem srAccess_writable : ∀ x ∈ ([(0x008, true), (0x00A, false), (0x00B, false), (0x010, true), (0x011, true), (0x012, true), (0x013, true),
    (0x014, true), (0x015, true), (0x01A, true), (0x020, true), (0x021, true), (0x022, true), (0x023, true)] : List (BitVec 12 × Bool)),
    srAccess x.1 = some (if x.2 then .rh else .rw) := by
  simp only [List.forall_mem_cons]
  exact ⟨rfl, rfl, rfl, rfl, rfl, rfl, rfl, rfl, rfl, rfl, rfl, rfl, rfl, rfl, List.forall_mem_nil _⟩

theorem srAccess_eq_none {sr : BitVec 12} (hsr : sr ∉ srNumbers) : srAccess sr = none := by
  have hne (k : Nat) (hk : BitVec.ofNat 12 k ∈ srNumbers) : sr.toNat ≠ k := by
    rintro rfl
    rw [BitVec.ofNat_toNat, BitVec.setWidth_eq] at hk
    exact hsr hk
  unfold srAccess
  split
  case h_24 => rfl
  all_goals exact absurd ‹_› (hne _ (by decide))

/-- Bit 0 of TSTAT reads as the mode. -/
theorem tstat_eq_add (y : BitVec 16) (mode : Bool) :
    (y &&& 0xFFF8#16 ||| (BitVec.ofBool mode).zeroExtend 16).zeroExtend 64 = (y &&& 0xFFF8#16).setWidth 64 + (BitVec.ofBool mode).setWidth 64 := by
  have hlow : 0xFFF8#16 &&& (BitVec.ofBool mode).setWidth 16 = 0#16 := by cases mode <;> rfl
  have hwide : ((BitVec.ofBool mode).setWidth 16).setWidth 64 = (BitVec.ofBool mode).setWidth 64 := by cases mode <;> rfl
  have hapart : (y &&& 0xFFF8#16).setWidth 64 &&& (BitVec.ofBool mode).setWidth 64 = 0#64 := by
    rw [← hwide, ← BitVec.setWidth_and, BitVec.and_assoc, hlow, BitVec.and_zero, BitVec.setWidth_zero]
  rw [BitVec.add_eq_or_of_and_eq_zero _ _ hapart, ← hwide, ← BitVec.setWidth_or]

/-- A write of a system register, which may discard the access kept for a replay (R188). -/
def Body.writeSrAt (b : Body) (now : Nat) (n : BitVec 12) (v : BitVec 64) : Body :=
  if n = 0x014#12 ∧ v.getLsbD 15 = false then (b.writeSr n v).discardReplay now else b.writeSr n v

theorem State.writeSr_eq_modMe (s : State) (n : BitVec 12) (v : BitVec 64) : s.writeSr n v = s.modMe (·.writeSrAt s.cycle n v) := by
  unfold State.writeSr Body.writeSrAt
  split
  · exact State.modMe_modMe ..
  · rfl

theorem Body.setG_bytes (b : Body) (r : Reg) (v : BitVec 64) (n : Nat) :
    (b.setG r v n).wb = b.wb ∧ (b.setG r v n).ab = b.ab ∧ (b.setG r v n).acc = b.acc ∧ (b.setG r v n).gal = b.gal := by
  rw [Body.setG_frame]
  exact ⟨rfl, rfl, rfl, rfl⟩

theorem Body.discardReplay_bytes (b : Body) (now : Nat) : (b.discardReplay now).wb = b.wb ∧ (b.discardReplay now).ab = b.ab ∧
    (b.discardReplay now).acc = b.acc ∧ (b.discardReplay now).gal = b.gal := by
  unfold Body.discardReplay
  split
  · exact ⟨rfl, rfl, rfl, rfl⟩
  · dsimp only
    split
    · exact Body.setG_bytes ..
    · exact ⟨rfl, rfl, rfl, rfl⟩

theorem Body.writeSr_bytes (b : Body) (n : BitVec 12) (v : BitVec 64) : (b.writeSr n v).wb = b.wb ∧ (b.writeSr n v).ab = b.ab ∧
    (b.writeSr n v).acc = b.acc ∧ (b.writeSr n v).gal = b.gal := by
  unfold Body.writeSr
  dsimp only
  split <;> exact ⟨rfl, rfl, rfl, rfl⟩

theorem Body.writeSrAt_bytes (b : Body) (now : Nat) (n : BitVec 12) (v : BitVec 64) : (b.writeSrAt now n v).wb = b.wb ∧
    (b.writeSrAt now n v).ab = b.ab ∧ (b.writeSrAt now n v).acc = b.acc ∧ (b.writeSrAt now n v).gal = b.gal := by
  obtain ⟨hwb, hab, hacc, hgal⟩ := b.writeSr_bytes n v
  unfold Body.writeSrAt
  split
  · obtain ⟨hwb', hab', hacc', hgal'⟩ := (b.writeSr n v).discardReplay_bytes now
    exact ⟨hwb'.trans hwb, hab'.trans hab, hacc'.trans hacc, hgal'.trans hgal⟩
  · exact ⟨hwb, hab, hacc, hgal⟩

section
variable {s : State} {q : Qual} {sr : BitVec 12} (hacts : s.acts q = true) (a : Reg)
include hacts

theorem execMfsr_of_unlisted (hsr : sr ∉ srNumbers) : execMfsr q a sr s = .next (s.raise .illegalOp) := by
  simp only [execMfsr, if_pos hacts, srAccess_eq_none hsr]

theorem execMtsr_of_unlisted (hsr : sr ∉ srNumbers) : execMtsr q a sr s = .next (s.raise .illegalOp) := by
  simp only [execMtsr, if_pos hacts, srAccess_eq_none hsr]

theorem execMfsr_of_listed (hlisted : sr ∈ srNumbers) (hcycle : sr ≠ 0x000#12) : execMfsr q a sr s = .next (s.wg a (s.readSr sr)) := by
  obtain ⟨x, hx⟩ := Option.isSome_iff_exists.mp (srAccess_listed sr hlisted)
  simp only [execMfsr, if_pos hacts, hx, if_neg hcycle]

theorem execMfsr_cycle (hafresh : ReadsAfresh s) : Completes (execMfsr q a 0x000 s) fun t =>
    ∃ u, OnlyJournal s u s.cur.core ∧ WritesG u t a (.ofNat 64 s.issueCycle) (s.cycle + 1) := by
  have hnone : s.cores[s.cur.core].journalRead.2.1 = none := hafresh
  have hread : s.journalled (.ofNat 64 s.issueCycle) = (.ofNat 64 s.issueCycle, { s with
      cores := s.cores.set s.cur.core (s.cores[s.cur.core].journalRead.2.2.journalSet
        s.cores[s.cur.core].journalRead.1 (.ofNat 64 s.issueCycle)) }) := by
    simp only [State.journalled, hnone]
  refine completes_of_acts hacts ?_
  rw [hread]
  exact ⟨_, onlyJournal_readSet s _ _, writesG_wg ..⟩

theorem execMtsr_of_readOnly (hr : srAccess sr = some .r) : execMtsr q a sr s = .next (s.raise .protection) := by
  simp only [execMtsr, if_pos hacts, hr]

theorem execMtsr_of_user (hrh : srAccess sr = some .rh) (hmode : s.pre.handler = false) : execMtsr q a sr s = .next (s.raise .protection) := by
  simp only [execMtsr, if_pos hacts, hrh, hmode, Bool.false_eq_true, if_false]

theorem execMtsr_of_allowed (hsr : srAccess sr = some .rw ∨ srAccess sr = some .rh ∧ s.pre.handler = true) :
    execMtsr q a sr s = .next (s.modMe (·.writeSrAt s.cycle sr (s.rg a))) := by
  rw [← State.writeSr_eq_modMe]
  rcases hsr with hrw | ⟨hrh, hmode⟩
  · simp only [execMtsr, if_pos hacts, hrw]
  · simp only [execMtsr, if_pos hacts, hrh, hmode, if_true]

end

/-- Register 0x014 is TSTAT: a write that clears replay discards the kept access. -/
theorem Body.writeSrAt_tstat (b : Body) (now : Nat) (v : BitVec 64) :
    b.writeSrAt now 0x014 v =
      let c := { b with sys := { b.sys with tstat := v.setWidth 16 &&& 0xFFF8#16 } }
      if v.getLsbD 15 then c else c.discardReplay now := by
  have hwrite : b.writeSr 0x014 v = { b with sys := { b.sys with tstat := v.setWidth 16 &&& 0xFFF8#16 } } := by
    rw [← extractLsb'_zero]
    rfl
  rw [Body.writeSrAt, hwrite]
  cases v.getLsbD 15 <;> rfl

theorem Body.writeSrAt_landMax (b : Body) (now : Nat) (v : BitVec 64) : b.writeSrAt now 0x008 v =
    { b with sys := { b.sys with landMax := if v.setWidth 16 = 0#16 then 65535 else v.setWidth 16 } } := by
  rw [← extractLsb'_zero]
  rfl

section
variable {s : State} {q : Qual} (hacts : s.acts q = true) (a : Reg)
include hacts

theorem execMfsr_completes {sr : BitVec 12} {v : BitVec 64} (hlisted : sr ∈ srNumbers) (hcycle : sr ≠ 0x000#12) (hvalue : s.readSr sr = v) :
    Completes (execMfsr q a sr s) fun t => WritesG s t a v (s.cycle + 1) := by
  rw [← hvalue]
  exact ⟨_, execMfsr_of_listed hacts a hlisted hcycle, writesG_wg ..⟩

/-- A write of a register that a handler alone (`h`) or any code may write, with what it does to the core. -/
theorem execMtsr_completes {sr : BitVec 12} {h : Bool} {f : Body → Body} (haccess : srAccess sr = some (if h then .rh else .rw))
    (hvalue : ∀ m : Body, m.writeSrAt s.cycle sr (s.rg a) = f m) :
    ((h = true → s.pre.handler = true) → Completes (execMtsr q a sr s) fun t => SameBytes s t ∧ Becomes s t f) ∧
    (h = true → s.pre.handler = false → s.cur.trap = none → s.cur.slot = .x →
      Completes (execMtsr q a sr s) fun t => Raises s t .protection 0 0 3) := by
  constructor
  · intro hmode
    have hallowed : srAccess sr = some .rw ∨ srAccess sr = some .rh ∧ s.pre.handler = true := by
      cases h with
      | false => exact .inl haccess
      | true => exact .inr ⟨haccess, hmode rfl⟩
    obtain rfl : (·.writeSrAt s.cycle sr (s.rg a)) = f := funext hvalue
    exact ⟨_, execMtsr_of_allowed hacts a hallowed, State.modMe_becomes (Body.writeSrAt_bytes ..)⟩
  · rintro rfl hmode htrap hslot
    exact ⟨_, execMtsr_of_user hacts a haccess hmode, State.raise_of_control htrap hslot _ _⟩

end

/-- Settles O20: each register by its access and, read or written, by its own equation. -/
theorem systemRegisters : Obligations.SystemRegisters := by
  intro s q a sr hacts
  refine ⟨fun x hx => ?read, execMfsr_cycle hacts a, fun x hx => ?write, fun htrap hslot => ⟨fun x hx => ?readOnly, fun hsr => ?unlisted⟩⟩
  case read =>
    have hnumber : x.1 ∈ srNumbers.tail := List.mem_map_of_mem (f := Prod.fst) hx
    refine execMfsr_completes hacts a (List.mem_of_mem_tail hnumber) (ne_of_mem_of_not_mem hnumber (by decide)) ?_
    clear hnumber
    revert x
    simp only [List.forall_mem_cons, ← tstat_eq_add]
    exact ⟨rfl, rfl, rfl, rfl, rfl, rfl, rfl, rfl, rfl, rfl, rfl, rfl, rfl, rfl, rfl, trivial, rfl, rfl, rfl, rfl, rfl, rfl,
      List.forall_mem_nil _⟩
  case write =>
    refine execMtsr_completes hacts a (srAccess_writable (x.1, x.2.1) (List.mem_map_of_mem (f := fun x => (x.1, x.2.1)) hx)) fun m => ?_
    revert x
    simp only [List.forall_mem_cons]
    exact ⟨Body.writeSrAt_landMax .., rfl, rfl, rfl, rfl, rfl, rfl, Body.writeSrAt_tstat .., rfl, rfl, rfl, rfl, rfl, rfl, List.forall_mem_nil _⟩
  case readOnly => exact ⟨_, execMtsr_of_readOnly hacts a (srAccess_readOnly x hx), State.raise_of_control htrap hslot _ _⟩
  case unlisted =>
    exact ⟨⟨_, execMfsr_of_unlisted hacts a hsr, State.raise_of_control htrap hslot _ _⟩,
      ⟨_, execMtsr_of_unlisted hacts a hsr, State.raise_of_control htrap hslot _ _⟩⟩

/-! A replay that the core owes and the bundle did not see (R188, R201) -/

/-- A core that keeps access 5 for a replay, which the bundle that returns from the handler did not see when it began. -/
def lateReplay : State :=
  { State.reset.modBody 0 (fun _ => { replaying := some 5 }) with pre := { handler := true }, cur := { slot := .x } }

theorem lateReplay_meets : lateReplay.acts ⟨0, false⟩ = true ∧ lateReplay.cur.trap = none ∧ lateReplay.cur.slot = .x ∧
    lateReplay.pre.handler = true ∧ lateReplay.pre.replaying = none ∧ lateReplay.me.replaying = some 5 := by decide +kernel

/-- The return discards the access. -/
theorem eret_lateReplay : ∃ t, exec (.eret ⟨0, false⟩) lateReplay = .next t ∧ t.me.replaying = none :=
  ⟨_, rfl, by decide +kernel⟩

/-- Refutes O21, whose clause on an `eret` without a replay looks at the core as it stood before the bundle and claims that the core as it is
changes its mode alone: `execEret` discards the replay of the core as it is, and the clause does not assume that the two agree. -/
theorem not_trapsAndReturn : ¬ Obligations.TrapsAndReturn := by
  intro h
  obtain ⟨hacts, htrap, hslot, hmode, hseen, howed⟩ := lateReplay_meets
  obtain ⟨_, _, _, hreturn, _⟩ := h lateReplay ⟨0, false⟩ 0 hacts htrap hslot
  obtain ⟨t, hexec, u, _, ⟨⟨hframe, _, _⟩, hme⟩, ht⟩ := hreturn hmode hseen
  obtain ⟨t', hexec', hdiscarded⟩ := eret_lateReplay
  obtain rfl : t = t' := Host.Outcome.next.inj (hexec.symm.trans hexec')
  have hcore : u.cur.core = lateReplay.cur.core := by rw [hframe]
  have hsame : t.me = u.me := by rw [ht, State.me, State.me, hcore]; rfl
  have hkept : t.me.replaying = some 5 := by
    rw [hsame, hme]
    dsimp only
    split <;> exact howed
  exact Option.some_ne_none 5 (hkept.symm.trans hdiscarded)

end Sys2Proof.Machine
end

section
/-!
Proofs for the statements on the broadcast sequencer and the group tables: the flip, transfers, flags, queues and rotation, the back bank.
-/
namespace Sys2Proof.Machine

/-! Holds and the oldest entry of the queue (R212, R217) -/

theorem State.holdFor_stall (s : State) : s.holdFor .stall = { s with cur := { s.cur with hold := some .stall } } := by
  rw [State.holdFor_eq, ite_self]

/-- The k oldest entries of ctq removed. -/
def State.dropCtq (s : State) (k : Nat) : State := s.modMe fun b => { b with ctq := b.ctq.drop k }

theorem State.dropCtq_zero (s : State) : s.dropCtq 0 = s := State.modMe_id rfl

theorem popCtq_of_empty {s : State} (hqueue : s.pre.ctq = []) (k : BitVec 64 → State → State) : popCtq k s = s.holdFor .stall := by
  rw [popCtq, hqueue]

theorem popCtq_of_cons {s : State} {v : BitVec 64} {rest : List (BitVec 64)} (hqueue : s.pre.ctq = v :: rest) (k : BitVec 64 → State → State) :
    popCtq k s = k v (s.dropCtq 1) := by
  rw [popCtq, hqueue]
  rfl

/-! The flip (R226-R228) -/

theorem Body.backIncomplete_iff (b : Body) : b.backIncomplete = true ↔ ∃ c ∈ b.commands, ∃ r ∈ c.writes, r.space = .tbl := by
  simp [Body.backIncomplete]

section
variable {s : State}

theorem execFlip_of_early (hearly : s.cycle < s.pre.sys.flipAt.toNat) : execFlip s = .next (s.holdFor .stall) := by
  have hset : ¬ (s.pre.sys.flipAt.toNat = 0 ∨ s.pre.sys.flipAt.toNat < s.cycle) := by omega
  simp only [execFlip, if_neg hset, if_pos hearly]

theorem execFlip_of_late (hlate : s.pre.sys.flipAt.toNat = 0 ∨ s.pre.sys.flipAt.toNat < s.cycle) : execFlip s = .next (s.raise .flipLate) := by
  simp only [execFlip, if_pos hlate]

section
variable (hset : s.pre.sys.flipAt.toNat ≠ 0) (hnow : s.pre.sys.flipAt.toNat = s.cycle)
include hset hnow

theorem execFlip_of_refused (hbad : s.pre.back.refused = true ∨ s.pre.backIncomplete = true) : execFlip s = .next (s.raise .flipRefused) := by
  have hintime : ¬ (s.pre.sys.flipAt.toNat = 0 ∨ s.pre.sys.flipAt.toNat < s.cycle) := by omega
  simp only [execFlip, if_neg hintime, if_neg hnow.not_gt, if_pos hbad]

theorem execFlip_of_good (hgood : ¬ (s.pre.back.refused = true ∨ s.pre.backIncomplete = true)) :
    execFlip s = .next { s.modMe Body.flipBanks with pre := s.pre.flipBanks } := by
  have hintime : ¬ (s.pre.sys.flipAt.toNat = 0 ∨ s.pre.sys.flipAt.toNat < s.cycle) := by omega
  simp only [execFlip, if_neg hintime, if_neg hnow.not_gt, if_neg hgood]

end

end

/-- Settles O35: before, after and in the cycle of FLIPAT; in it by the state of the back bank. -/
theorem flipExchangesBanks : Obligations.FlipExchangesBanks := by
  intro s at_ incomplete exchanged
  have hincomplete : s.pre.backIncomplete = true ↔ incomplete := s.pre.backIncomplete_iff
  refine ⟨fun hset hnow hback hcomplete => ?_, fun hearly => ?_,
    fun htrap hslot => ⟨fun hlate => ⟨_, execFlip_of_late hlate, State.raise_of_control htrap hslot _ _⟩, fun hset hnow hbad => ?_⟩⟩
  · have hgood : ¬ (s.pre.back.refused = true ∨ s.pre.backIncomplete = true) := by simp [hback, hincomplete, hcomplete]
    obtain ⟨hbytes, hbecomes⟩ := State.modMe_becomes (s := s) (f := exchanged) ⟨rfl, rfl, rfl, rfl⟩
    exact ⟨_, execFlip_of_good hset hnow hgood, hbytes, _, hbecomes, rfl⟩
  · rw [← State.holdFor_stall]
    exact execFlip_of_early hearly
  · exact ⟨_, execFlip_of_refused hset hnow (hbad.imp_right hincomplete.mpr), State.raise_of_control htrap hslot _ _⟩

/-! Broadcast transfers (R215, R219-R222) -/

theorem bcastTarget_eq (h : VA) (off : BitVec 22) : bcastTarget h off = h + .ofInt 56 (4 * off.toInt) := branchTarget_eq h off

theorem bloopStop_eq (h : VA) (last : BitVec 10) : h + last.zeroExtend 56 * 4 = h + .ofNat 56 (4 * last.toNat) := by
  rw [Nat.mul_comm, BitVec.ofNat_mul, BitVec.ofNat_toNat]
  rfl

/-- The condition of `bbr` and `bcall`: predicate 0 is the constant true (R215). -/
theorem State.bcond_iff (s : State) (cnd : BitVec 4) :
    s.bcond cnd = true ↔ if cnd.extractLsb' 0 3 = 0#3 then cnd.getLsbD 3 = false
      else s.pre.sp[(fin3 (cnd.extractLsb' 0 3))] ≠ cnd.getLsbD 3 := by
  have hzero : (fin3 (cnd.extractLsb' 0 3)).val = 0 ↔ cnd.extractLsb' 0 3 = 0#3 := BitVec.toNat_inj (y := 0#3)
  simp only [State.bcond, hzero]
  split
  · rw [Bool.not_eq_true']
  · exact bne_iff_ne

section
variable (bl : Fin 4) (rt : Bool) (last : BitVec 10) (k : Nat) {s : State}

/-- A loop with a count other than 0 is opened. -/
theorem openBLoop_of_count {n : BitVec 32} (hcount : n ≠ 0) :
    openBLoop bl rt n last (s.dropCtq k) = (s.modMe fun b => { b with
      ctq := b.ctq.drop k, bloops := ⟨bl, rt, s.nextBcast, s.cur.hdr + .ofNat 56 (4 * last.toNat)⟩ :: dropBLoop bl s.pre.bloops
      bl := b.bl.set bl n }).goto s.nextBcast := by
  rw [openBLoop, if_neg hcount, State.dropCtq, State.modMe_modMe, ← bloopStop_eq]
  rfl

/-- The body of a loop with a count of 0 is passed over, where its last bundle is in the instruction cache. -/
theorem openBLoop_of_zero {h : BitVec 32} {len : Nat}
    (hcached : s.cores[s.cur.core].cachedWord true (s.cur.hdr + .ofNat 56 (4 * last.toNat)) = some h) (hlen : bcastLength h = some len) :
    openBLoop bl rt 0 last (s.dropCtq k) = (s.modMe fun b => { b with
      ctq := b.ctq.drop k, bloops := dropBLoop bl s.pre.bloops, bl := b.bl.set bl 0 }).goto
        (s.cur.hdr + .ofNat 56 (4 * last.toNat) + .ofNat 56 len) := by
  have hcores : (s.dropCtq k).cores[s.cur.core].cachedWord true (s.cur.hdr + .ofNat 56 (4 * last.toNat)) = some h := by
    rw [← hcached, State.dropCtq, State.modMe, State.cores_modBody_same]
    rfl
  have hhdr : (s.dropCtq k).cur = s.cur := rfl
  simp only [openBLoop, if_true, hhdr, bloopStop_eq, hcores, hlen]
  rw [State.dropCtq, State.modMe_modMe]
  rfl

end

section
variable {s : State} {cnd : BitVec 4} (off : BitVec 22)

theorem execBcall_of_room (htaken : s.bcond cnd = true) (hroom : s.pre.brets.length < 8) :
    execBcall cnd off s = .next ((s.modMe fun b => { b with brets := s.nextBcast :: b.brets }).goto (bcastTarget s.cur.hdr off)) := by
  rw [execBcall, if_pos htaken, if_neg hroom.not_ge]

theorem execBcall_of_full (htaken : s.bcond cnd = true) (hfull : 8 ≤ s.pre.brets.length) : execBcall cnd off s = .next (s.raise .illegalOp) := by
  rw [execBcall, if_pos htaken, if_pos hfull]

end

theorem execBret_of_cons {s : State} {r : VA} {rest : List VA} (hstack : s.pre.brets = r :: rest) :
    execBret s = .next ((s.modMe fun b => { b with brets := b.brets.drop 1 }).goto r) := by
  rw [execBret, hstack]

theorem execBret_of_empty {s : State} (hstack : s.pre.brets = []) : execBret s = .next (s.raise .illegalOp) := by
  rw [execBret, hstack]

/-- Settles O33: both loop forms through `openBLoop`, with no entry of the queue taken and with one; the other transfers by their condition and
the return stack. -/
theorem broadcastTransfers : Obligations.BroadcastTransfers := by
  intro s bl rt cnt last cnd off next e label go opened passed holds
  have hholds : s.bcond cnd = true ↔ holds := s.bcond_iff cnd
  have hlabel : bcastTarget s.cur.hdr off = label := bcastTarget_eq ..
  have hgo (f : Body → Body) (a : VA) : go ((s.modMe f).goto a) f a := ⟨_, becomes_modMe s f, rfl⟩
  have hopened {n : BitVec 32} (hn : n ≠ 0) (k : Nat) : opened n k (openBLoop bl rt n last (s.dropCtq k)) := by
    rw [openBLoop_of_count bl rt last k hn]
    exact hgo ..
  have hpassed {h : BitVec 32} {len : Nat} (hcached : s.cores[s.cur.core].cachedWord true e = some h) (hlen : bcastLength h = some len) (k : Nat) :
      passed len k (openBLoop bl rt 0 last (s.dropCtq k)) := by
    rw [openBLoop_of_zero bl rt last k hcached hlen]
    exact hgo ..
  have hbloop : exec (.bloop bl rt cnt last) s = .next (openBLoop bl rt (cnt.setWidth 32) last (s.dropCtq 0)) := by
    rw [State.dropCtq_zero]
    rfl
  have hbloopCtq {v : BitVec 64} {rest : List (BitVec 64)} (hqueue : s.pre.ctq = v :: rest) :
      exec (.bloopCtq bl rt last) s = .next (openBLoop bl rt (v.setWidth 32) last (s.dropCtq 1)) := by
    rw [← extractLsb'_zero]
    exact congrArg Host.Outcome.next (popCtq_of_cons hqueue _)
  have hidle {t : State} (h : ¬ holds) : Host.Outcome.next (if s.bcond cnd then t else s) = (.next s : Result) := by
    rw [if_neg (mt hholds.mp h)]
  refine ⟨fun hcnt => ?bloopOpened, fun h len hcnt hcached hlen => ?bloopPassed, fun hqueue => ?ctqEmpty, fun v rest hqueue hv => ?ctqOpened,
    fun v rest h len hqueue hv hcached hlen => ?ctqPassed, fun htaken => ?branch, hidle, hidle, fun htaken hroom => ?call,
    fun r rest hstack => ⟨_, execBret_of_cons hstack, hgo ..⟩, fun htrap hslot => ⟨fun htaken hfull => ?full, fun hstack => ?empty⟩⟩
  case bloopOpened =>
    have hwide : cnt.setWidth 32 ≠ 0 := by bv_omega
    exact ⟨_, hbloop, hopened hwide 0⟩
  case bloopPassed =>
    subst hcnt
    exact ⟨_, hbloop, hpassed hcached hlen 0⟩
  case ctqEmpty =>
    rw [← State.holdFor_stall]
    exact congrArg Host.Outcome.next (popCtq_of_empty hqueue _)
  case ctqOpened => exact ⟨_, hbloopCtq hqueue, hopened hv 1⟩
  case ctqPassed =>
    refine ⟨_, hbloopCtq hqueue, ?_⟩
    rw [hv]
    exact hpassed hcached hlen 1
  case branch =>
    refine ⟨_, congrArg Host.Outcome.next (if_pos (hholds.mpr htaken)), s, ⟨⟨rfl, fun _ _ => rfl, rfl⟩, rfl⟩, ?_⟩
    rw [hlabel]
    rfl
  case call =>
    refine ⟨_, execBcall_of_room off (hholds.mpr htaken) hroom, ?_⟩
    rw [hlabel]
    exact hgo ..
  case full => exact ⟨_, execBcall_of_full off (hholds.mpr htaken) hfull, State.raise_of_control htrap hslot _ _⟩
  case empty => exact ⟨_, execBret_of_empty hstack, State.raise_of_control htrap hslot _ _⟩

/-! Stage predicates of the broadcast sequencer (R217, R218) -/

/-- Predicate 0 is constant (R215). -/
theorem Body.setSp_eq (b : Body) (n : Fin 8) (v : Bool) :
    b.setSp n v = { b with sp := Vec.ofFn fun i => if i.val ≠ 0 ∧ i = n then v else b.sp[i] } := by
  have hsame : b.setSp n v = { b with sp := (b.setSp n v).sp } := by
    unfold Body.setSp
    split <;> rfl
  rw [hsame]
  refine congrArg (fun x => ({ b with sp := x } : Body)) (Vector.ext fun i hi => ?_)
  rw [Vec.getElem_ofFn, Body.setSp]
  by_cases hn : n.val = 0
  · rw [if_pos hn, if_neg fun h => h.1 ((congrArg Fin.val h.2).trans hn)]
    rfl
  · rw [if_neg hn, Vector.getElem_set]
    by_cases hin : n.val = i
    · rw [if_pos hin, if_pos ⟨fun h => hn (hin.trans h), Fin.ext hin.symm⟩]
    · rw [if_neg hin, if_neg fun h => hin (congrArg Fin.val h.2).symm]
      rfl

theorem foldl_setSp (v : Fin 8 → Bool) (l : List (Fin 8)) (b : Body) :
    l.foldl (fun b n => b.setSp n (v n)) b = { b with sp := Vec.ofFn fun i => if i.val ≠ 0 ∧ i ∈ l then v i else b.sp[i] } := by
  induction l generalizing b with
  | nil =>
    refine congrArg (fun x => ({ b with sp := x } : Body)) (Vector.ext fun i hi => ?_)
    simp
  | cons n l ih =>
    rw [List.foldl_cons, ih, Body.setSp_eq]
    refine congrArg (fun x => ({ b with sp := x } : Body)) (Vector.ext fun i hi => ?_)
    simp only [Vec.getElem_ofFn, Fin.getElem_fin, List.mem_cons]
    by_cases hin : (⟨i, hi⟩ : Fin 8) = n
    · subst hin
      by_cases hzero : i = 0
      · simp [hzero]
      · simp [hzero]
    · simp [hin]

theorem popTo_sp (v : BitVec 64) (s : State) :
    popTo .sp v s = s.modMe fun b => { b with sp := Vec.ofFn fun i => if i.val ≠ 0 then v.getLsbD i.val else b.sp[i] } := by
  simp only [popTo, foldl_setSp, List.mem_finRange, and_true]

theorem execBsetsp_eq (wmask value : BitVec 7) (s : State) :
    execBsetsp wmask value s = .next (s.modMe fun b => { b with
      sp := Vec.ofFn fun i => if i.val ≠ 0 ∧ wmask.getLsbD (i.val - 1) = true then value.getLsbD (i.val - 1) else b.sp[i] }) := by
  have hfold (b : Body) : (List.finRange 8).foldl (fun b n =>
        if n.val ≠ 0 ∧ wmask.getLsbD (n.val - 1) then b.setSp n (value.getLsbD (n.val - 1)) else b) b =
      ((List.finRange 8).filter fun n => decide (n.val ≠ 0 ∧ wmask.getLsbD (n.val - 1) = true)).foldl
        (fun b n => b.setSp n (value.getLsbD (n.val - 1))) b := by
    simp only [List.foldl_filter, decide_eq_true_eq]
  simp only [execBsetsp, hfold, foldl_setSp (fun n => value.getLsbD (n.val - 1)), List.mem_filter, List.mem_finRange, true_and, decide_eq_true_eq,
    and_self_left]

theorem foldl_orBits (p : Fin 8 → Bool) (l : List (Fin 8)) (x : BitVec 64) (i : Nat) :
    (l.foldl (fun x n => if p n then x ||| (1#64 <<< n.val) else x) x).getLsbD i = (x.getLsbD i || l.any fun n => p n && n.val == i) := by
  induction l generalizing x with
  | nil => rw [List.foldl_nil, List.any_nil, Bool.or_false]
  | cons n l ih =>
    rw [List.foldl_cons, ih, List.any_cons, ← Bool.or_assoc]
    cases p n with
    | false => rw [if_neg Bool.false_ne_true, Bool.false_and, Bool.or_false]
    | true =>
      have hbit : (1#64 <<< n.val).getLsbD i = (n.val == i) := by
        rw [← BitVec.twoPow_eq, BitVec.getLsbD_twoPow, decide_eq_true (n.isLt.trans (by decide)), Bool.true_and]
        rfl
      rw [if_pos rfl, BitVec.getLsbD_or, hbit, Bool.true_and]

/-- The value that `bpushq` takes from the stage predicates has bit 0 set (R217). -/
theorem spBits_getLsbD (b : Body) (i : Nat) :
    (spBits b).getLsbD i = (i == 0 || if h : i < 8 then b.sp[i] else false) := by
  have hzero : (0 : BitVec 64).getLsbD i = false := BitVec.getLsbD_zero
  rw [spBits, foldl_orBits, hzero, Bool.false_or, Bool.eq_iff_iff]
  simp only [List.any_eq_true, List.mem_finRange, true_and, Bool.and_eq_true, Bool.or_eq_true, beq_iff_eq]
  constructor
  · rintro ⟨n, hn, rfl⟩
    rwa [dif_pos n.isLt]
  · intro h
    have hlow : i < 8 := by
      by_contra hhigh
      rw [dif_neg hhigh] at h
      exact hhigh (h.elim (by omega) (absurd · Bool.false_ne_true))
    rw [dif_pos hlow] at h
    exact ⟨⟨i, hlow⟩, h, rfl⟩

/-! Flags and the end of the broadcast stream (R216, R222) -/

theorem haltBroadcast_flagAt (n : Fin 16) (set : Bool) (due : Nat) (s : State) :
    haltBroadcast (s.flagAt n set due) = s.modMe fun b => { b with bhalting := true, flagOps := b.flagOps ++ [⟨n, set, due⟩] } :=
  State.modMe_modMe ..

/-! Rotation of lane groups (R217, R218) -/

/-- rot of one group, with its write record. -/
def Body.setRot (b : Body) (f : Fin 64 → Fin 64) (g : GroupId) : Body :=
  { b with groups := Vec.modify b.groups g fun k => { k with rot := f b.groups[g].rot } }.logWrites
    [registerRecord ⟨1, b.bcastCount, slotPos .q g⟩ (0x63000 + g.val) 1 (BitVec.ofNat 64 (f b.groups[g].rot).val)]

theorem Body.setRots_eq_foldl (b : Body) (gs : List GroupId) (f : Fin 64 → Fin 64) : b.setRots gs f = gs.foldl (fun b g => b.setRot f g) b := rfl

theorem Body.setRots_frame (b : Body) (gs : List GroupId) (f : Fin 64 → Fin 64) :
    b.setRots gs f = { b with groups := (b.setRots gs f).groups, writes := (b.setRots gs f).writes } := by
  rw [Body.setRots_eq_foldl]
  induction gs generalizing b with
  | nil => rfl
  | cons g gs ih => exact ih (b.setRot f g)

theorem Body.setRots_groups (b : Body) {gs : List GroupId} (hgs : gs.Nodup) (f : Fin 64 → Fin 64) (x : GroupId) :
    (b.setRots gs f).groups[x] = if x ∈ gs then { b.groups[x] with rot := f b.groups[x].rot } else b.groups[x] := by
  rw [Body.setRots_eq_foldl]
  induction gs generalizing b with
  | nil => rfl
  | cons g gs ih =>
    obtain ⟨hg, hgs⟩ := List.nodup_cons.mp hgs
    have hgroups : (b.setRot f g).groups = Vec.modify b.groups g fun k => { k with rot := f b.groups[g].rot } := rfl
    rw [List.foldl_cons, ih _ hgs, hgroups]
    by_cases hx : x = g
    · subst hx
      rw [if_neg hg, if_pos (List.mem_cons_self ..), Vec.getElem_modify_same]
    · rw [Vec.getElem_modify_ne _ _ hx]
      simp only [List.mem_cons, hx, false_or]

/-- rot of the groups of a mask register changes, and the rest of the core as `f` has it. -/
def Turns (s t : State) (m : Fin 8) (f : Body → Body) (r : Fin 64 → Fin 64) : Prop :=
  SameBytes s t ∧ OnlyBody s t s.cur.core ∧ t.me = { f s.me with groups := t.me.groups, writes := t.me.writes } ∧
    ∀ x : GroupId, t.me.groups[x] = if s.pre.gm[m].getLsbD x.val then { s.me.groups[x] with rot := r s.me.groups[x].rot } else s.me.groups[x]

theorem turns_setRots (s : State) (m : Fin 8) {f : Body → Body} (r : Fin 64 → Fin 64) (hgroups : (f s.me).groups = s.me.groups)
    (hbytes : (f s.me).wb = s.me.wb ∧ (f s.me).ab = s.me.ab ∧ (f s.me).acc = s.me.acc ∧ (f s.me).gal = s.me.gal) :
    Turns s ((s.modMe f).setRots (s.maskGroups m) r) m f r := by
  have hnodup : (s.maskGroups m).Nodup := (List.nodup_finRange 24).filter _
  rw [State.setRots, State.modMe_modMe]
  unfold Turns
  refine ⟨(State.modMe_becomes ?_).1, onlyBody_modBody .., ?_, fun x => ?_⟩
  · rw [Function.comp_apply, Body.setRots_frame]
    exact hbytes
  · rw [State.me_modMe, Function.comp_apply]
    exact Body.setRots_frame ..
  · rw [State.me_modMe, Function.comp_apply, Body.setRots_groups _ hnodup, hgroups]
    simp only [State.maskGroups, List.mem_filter, List.mem_finRange, true_and]

/-! Queues of the broadcast sequencer (R217) -/

theorem foldl_bcastScalar (n : Fin 16) (v : BitVec 32) (gs : List GroupId) (s : State) :
    gs.foldl (fun s g => s.bcastScalar n v g) s = s.modMe fun b => { b with
      pend := b.pend ++ gs.map fun g => ⟨s.cycle, 1, false, g, .scalar n v, ⟨1, s.pre.bcastCount, 56 + g.val⟩⟩ } := by
  induction gs generalizing s with
  | nil => exact (State.modMe_id (by rw [List.map_nil, List.append_nil])).symm
  | cons g gs ih =>
    rw [List.foldl_cons, ih, State.bcastScalar, State.modMe_modMe]
    simp only [Function.comp_def, List.append_assoc, List.map_cons, List.singleton_append, State.modMe_cycle, State.modMe_pre]
    rfl

theorem execBpushq_of_full {s : State} (hfull : 64 ≤ s.pre.btq.length) (src : PushSrc) : execBpushq src s = .next (s.holdFor .stall) := by
  rw [execBpushq, if_pos hfull]

theorem execBpushq_of_room {s : State} (hroom : s.pre.btq.length < 64) (src : PushSrc) :
    execBpushq src s = .next (s.modMe fun b => { b with btq := b.btq ++ [⟨s.pushValue src, s.releaseAt⟩] }) := by
  rw [execBpushq, if_neg hroom.not_ge]

/-- Settles O34: the flags at once, the predicates and rotations group by group, the queues by what stands in them. -/
theorem broadcastFlagsQueuesPredicates : Obligations.BroadcastFlagsQueuesPredicates := by
  intro s n m k bl e wmask value imm g does stalled turned
  have hdoes {i : Instr} {f : Body → Body} (hexec : exec i s = .next (s.modMe f))
      (hbytes : (f s.me).wb = s.me.wb ∧ (f s.me).ab = s.me.ab ∧ (f s.me).acc = s.me.acc ∧ (f s.me).gal = s.me.gal) : does i f :=
    ⟨_, hexec, State.modMe_becomes hbytes⟩
  have hturned {i : Instr} {f : Body → Body} {r : Fin 64 → Fin 64} (hexec : exec i s = .next ((s.modMe f).setRots (s.maskGroups m) r))
      (hgroups : (f s.me).groups = s.me.groups)
      (hbytes : (f s.me).wb = s.me.wb ∧ (f s.me).ab = s.me.ab ∧ (f s.me).acc = s.me.acc ∧ (f s.me).gal = s.me.gal) : turned i f r :=
    ⟨_, hexec, turns_setRots s m r hgroups hbytes⟩
  have hstalled {i : Instr} (hexec : exec i s = .next (s.holdFor .stall)) : stalled i := hexec.trans (congrArg _ s.holdFor_stall)
  have hrotated {i : Instr} {r : Fin 64 → Fin 64} (hexec : exec i s = .next (s.setRots (s.maskGroups m) r)) : turned i id r :=
    hturned (by rw [State.modMe_id rfl, hexec]) rfl ⟨rfl, rfl, rfl, rfl⟩
  clear_value does stalled turned
  refine ⟨hdoes rfl ⟨rfl, rfl, rfl, rfl⟩, hdoes rfl ⟨rfl, rfl, rfl, rfl⟩, fun hset => congrArg _ (if_pos hset),
    fun hclear => hstalled (congrArg _ (if_neg (Bool.eq_false_iff.mp hclear))), hdoes rfl ⟨rfl, rfl, rfl, rfl⟩,
    hdoes (congrArg _ (haltBroadcast_flagAt ..)) ⟨rfl, rfl, rfl, rfl⟩, hdoes (execBsetsp_eq ..) ⟨rfl, rfl, rfl, rfl⟩,
    hrotated rfl, hrotated rfl,
    fun hqueue d => hstalled (congrArg _ (popCtq_of_empty hqueue _)), fun v rest hqueue => ?pop,
    fun hfull d => hstalled (execBpushq_of_full hfull d), fun hroom => ?push⟩
  case pop =>
    intro popped
    have hpop {d : PopDst} {t : State} (h : popTo d v (s.modMe popped) = t) : exec (.bpopq d) s = .next t :=
      (congrArg Host.Outcome.next (popCtq_of_cons hqueue _)).trans (congrArg _ h)
    refine ⟨hdoes (hpop ?_) ⟨rfl, rfl, rfl, rfl⟩, hdoes (hpop ?_) ⟨rfl, rfl, rfl, rfl⟩, hdoes (hpop ?_) ⟨rfl, rfl, rfl, rfl⟩,
      hturned (hpop ?_) rfl ⟨rfl, rfl, rfl, rfl⟩, hdoes (hpop ?_) ⟨rfl, rfl, rfl, rfl⟩, hdoes (hpop rfl) ⟨rfl, rfl, rfl, rfl⟩⟩
    · rw [popTo, State.modMe_modMe, extractLsb'_zero]
      rfl
    · rw [popTo, State.modMe_modMe, extractLsb'_zero]
      rfl
    · rw [popTo_sp, State.modMe_modMe]
      rfl
    · rw [popTo, extractLsb'_zero]
      rfl
    · rw [popTo, foldl_bcastScalar, State.modMe_modMe, extractLsb'_zero]
      rfl
  case push =>
    have hpushes (d : PushSrc) := hdoes (i := .bpushq d) (execBpushq_of_room hroom d) ⟨rfl, rfl, rfl, rfl⟩
    exact ⟨hpushes (.bl bl), hpushes (.gm k), hpushes (.scalar n g), hpushes (.imm imm), spBits s.pre, fun i _ => spBits_getLsbD s.pre i,
      hpushes .sp⟩

/-! The groups of a mask (R223) -/

theorem mem_groupsOf (mask : BitVec 24) (g : GroupId) : g ∈ groupsOf mask ↔ mask.getLsbD g.val = true := by
  simp [groupsOf]

theorem groupsOf_zero : groupsOf 0 = [] :=
  List.filter_eq_nil_iff.mpr fun _ _ => Bool.eq_false_iff.mp BitVec.getLsbD_zero

/-- A mask that names a group names a lowest one, which stands first. -/
theorem groupsOf_eq_cons {mask : BitVec 24} (hmask : mask ≠ 0) : ∃ g rest, groupsOf mask = g :: rest ∧ mask.getLsbD g.val = true ∧
    ∀ h : GroupId, mask.getLsbD h.val = true → g ≤ h := by
  have hsorted : (groupsOf mask).Pairwise (· < ·) := (List.pairwise_lt_finRange 24).filter _
  cases hgroups : groupsOf mask with
  | nil =>
    refine absurd (BitVec.eq_of_getLsbD_eq fun i hi => ?_) hmask
    have hnone : (⟨i, hi⟩ : GroupId) ∉ groupsOf mask := by rw [hgroups]; exact List.not_mem_nil
    simpa using mt (mem_groupsOf mask ⟨i, hi⟩).mpr hnone
  | cons g rest =>
    rw [hgroups, List.pairwise_cons] at hsorted
    refine ⟨g, rest, rfl, (mem_groupsOf mask g).mp (by rw [hgroups]; exact List.mem_cons_self ..), fun h hh => ?_⟩
    have hmem := (mem_groupsOf mask h).mpr hh
    rw [hgroups, List.mem_cons] at hmem
    exact hmem.elim (fun heq => heq.ge) fun hrest => (hsorted.1 h hrest).le

/-! Entries of a bank (R88, R89) -/

theorem Bank.get_put (k : Bank) (g h : GroupId) (idx j : Fin 1024) (x : BitVec 64) :
    (k.put g idx x).get h j = if g = h ∧ idx = j then x else k.get h j := by
  have hkey : 1024 * g.val + idx.val = 1024 * h.val + j.val ↔ g = h ∧ idx = j := by
    rw [Fin.ext_iff, Fin.ext_iff]
    omega
  simp only [Bank.get, Bank.put, sget_sset, hkey]

/-- An entry in the table of each group of a list. -/
def Bank.putAll (k : Bank) (gs : List GroupId) (idx : Fin 1024) (x : BitVec 64) : Bank := gs.foldl (fun k g => k.put g idx x) k

theorem Bank.putAll_frame (k : Bank) (gs : List GroupId) (idx : Fin 1024) (x : BitVec 64) :
    k.putAll gs idx x = { k with entries := (k.putAll gs idx x).entries } := by
  unfold Bank.putAll
  induction gs generalizing k with
  | nil => rfl
  | cons g gs ih => exact ih (k.put g idx x)

theorem Bank.get_putAll (k : Bank) (gs : List GroupId) (idx : Fin 1024) (x : BitVec 64) (g : GroupId) (j : Fin 1024) :
    (k.putAll gs idx x).get g j = if g ∈ gs ∧ j = idx then x else k.get g j := by
  unfold Bank.putAll
  induction gs generalizing k with
  | nil => simp
  | cons h gs ih =>
    rw [List.foldl_cons, ih, Bank.get_put]
    by_cases hj : j = idx
    · subst hj
      by_cases hg : g = h <;> simp [hg, eq_comm]
    · simp [hj, Ne.symm hj]

theorem Bank.setClass_frame (k : Bank) (idx : Fin 1024) (x : BitVec 64) : k.setClass idx x = { k with classes := (k.setClass idx x).classes } := by
  unfold Bank.setClass
  split <;> rfl

theorem Bank.setClass_same (k : Bank) {idx : Fin 1024} {x : BitVec 64} (hvalid : x.getLsbD 0 = true) (hclass : entryClass x ≠ 7) :
    lookup (k.setClass idx x).classes idx.val = some (entryClass x) := by
  rw [Bank.setClass, if_pos ⟨hvalid, fun h => hclass (Fin.ext h)⟩, lookup_insertKey _ _ _ _ (by simp [lookup_eraseKey]), if_pos rfl]

theorem Bank.setClass_ne (k : Bank) {idx j : Fin 1024} (x : BitVec 64) (hj : j ≠ idx) :
    lookup (k.setClass idx x).classes j.val = lookup k.classes j.val := by
  have hval : idx.val ≠ j.val := fun h => hj (Fin.ext h.symm)
  unfold Bank.setClass
  split
  · rw [lookup_insertKey _ _ _ _ (by simp [lookup_eraseKey]), if_neg hval, lookup_eraseKey, if_neg hval]
  · rfl

section
variable {k : Bank} {idx : Fin 1024} {x : BitVec 64} (gs : List GroupId)

theorem Bank.store_of_accepted (haccepted : k.reason idx x = none) : k.store gs idx x = (k.putAll gs idx x).setClass idx x := by
  rw [Bank.store, haccepted, Bank.putAll]

theorem Bank.store_of_refused {r : Nat} (hrefused : k.reason idx x = some r) :
    k.store gs idx x = { k.putAll gs idx (x &&& ~~~1#64) with refused := true } := by
  rw [Bank.store, hrefused, Bank.putAll]

end

/-! `twrite` (R223) -/

theorem fin10_add (x y : BitVec 10) : fin10 (x + y) = fin10 x + fin10 y := rfl

section
variable {s : State} {q : Qual} {a b : Reg} {i : BitVec 10} (hacts : s.acts q = true)
include hacts

theorem execTwrite_of_noGroup (hmask : (s.rg b).extractLsb' 16 24 = 0) : execTwrite q a b i s = .next s := by
  simp only [execTwrite, if_pos hacts, hmask, groupsOf_zero]

section
variable {g : GroupId} {rest : List GroupId} (hgroups : groupsOf ((s.rg b).extractLsb' 16 24) = g :: rest)
include hgroups

theorem execTwrite_of_accepted (haccepted : s.backAtEnd.reason (fin10 ((s.rg b).extractLsb' 0 10 + i)) (s.rg a) = none) :
    execTwrite q a b i s = .next (s.tableOp (.store (g :: rest) (fin10 ((s.rg b).extractLsb' 0 10 + i)) (s.rg a) s.src)) := by
  simp only [execTwrite, if_pos hacts, hgroups, ← fin10_add, haccepted]

variable {r : Nat} (hrefused : s.backAtEnd.reason (fin10 ((s.rg b).extractLsb' 0 10 + i)) (s.rg a) = some r)
include hrefused

theorem execTwrite_of_armed (harm : s.pre.sys.arm.getLsbD 0 = true) : execTwrite q a b i s = .next (s.raise .tableRefused 0 (.ofNat 10 r)) := by
  simp only [execTwrite, if_pos hacts, hgroups, ← fin10_add, hrefused, if_pos harm]

theorem execTwrite_of_unarmed (harm : s.pre.sys.arm.getLsbD 0 = false) :
    execTwrite q a b i s = .next ((s.tableOp (.store (g :: rest) (fin10 ((s.rg b).extractLsb' 0 10 + i)) (s.rg a) s.src)).post
      (refusedRecord s.cur.hdr g (fin10 ((s.rg b).extractLsb' 0 10 + i)) r false)) := by
  simp only [execTwrite, if_pos hacts, hgroups, ← fin10_add, hrefused, harm, if_neg Bool.false_ne_true]

end
end

/-- Settles O14: `twrite` by its mask, the reason of the bank and ARM bit 0; the write performed by the same reason. -/
theorem backBankWrites : Obligations.BackBankWrites := by
  refine ⟨fun s q a b i hacts => ?issue, fun m mask idx x src => ?perform⟩
  case issue =>
    intro x mask idx write
    refine ⟨fun hmask => execTwrite_of_noGroup hacts hmask, fun hmask haccepted => ?accepted, fun r hmask hrefused => ?refused,
      completes_of_acts hacts (State.modMe_becomes ⟨rfl, rfl, rfl, rfl⟩)⟩
    all_goals obtain ⟨g, rest, hgroups, hg, hfirst⟩ := groupsOf_eq_cons hmask
    case accepted =>
      refine ⟨_, execTwrite_of_accepted hacts hgroups haccepted, ?_⟩
      rw [← hgroups]
      exact State.modMe_becomes ⟨rfl, rfl, rfl, rfl⟩
    case refused =>
      refine ⟨fun harm htrap hslot => ⟨_, execTwrite_of_armed hacts hgroups hrefused harm, State.raise_of_control htrap hslot _ _⟩,
        fun harm => ⟨_, execTwrite_of_unarmed hacts hgroups hrefused harm, ?_⟩⟩
      rw [← hgroups, State.post, State.tableOp, State.modMe_modMe]
      obtain ⟨hbytes, hbecomes⟩ := State.modMe_becomes (s := s)
        (f := fun m => { write m with posts := m.posts ++ [(0, refusedRecord s.cur.hdr g idx r false)] }) ⟨rfl, rfl, rfl, rfl⟩
      exact ⟨hbytes, g, hg, hfirst, hbecomes⟩
  case perform =>
    intro c stored
    have hstored {y : BitVec 64} (hentries : c.back.entries = (m.back.putAll (groupsOf mask) idx y).entries) : stored y := by
      have hget (g : GroupId) (j : Fin 1024) : c.back.get g j = if mask.getLsbD g.val = true ∧ j = idx then y else m.back.get g j := by
        simp only [← mem_groupsOf]
        exact (congrArg (sget 0 · _) hentries).trans (Bank.get_putAll ..)
      refine ⟨fun g hg => (hget g idx).trans (if_pos ⟨hg, rfl⟩), fun g j hother => (hget g j).trans (if_neg ?_)⟩
      rintro ⟨hg, hj⟩
      exact hother.elim (fun h => Bool.false_ne_true (h.symm.trans hg)) (· hj)
    refine ⟨rfl, fun haccepted => ?_, fun r hrefused => ?_, rfl⟩
    · have hback : c.back = (m.back.putAll (groupsOf mask) idx x).setClass idx x := Bank.store_of_accepted _ haccepted
      have hclasses : (m.back.putAll (groupsOf mask) idx x).classes = m.back.classes := by rw [Bank.putAll_frame]
      refine ⟨hstored ?_, ?_, fun j hj => ?_, fun hvalid hclass => ?_⟩
      · rw [hback, Bank.setClass_frame]
      · rw [hback, Bank.setClass_frame, Bank.putAll_frame]
      · rw [hback, Bank.setClass_ne _ _ hj, hclasses]
      · rw [hback, Bank.setClass_same _ hvalid hclass]
    · have hback : c.back = { m.back.putAll (groupsOf mask) idx (x &&& ~~~1#64) with refused := true } := Bank.store_of_refused _ hrefused
      refine ⟨hstored ?_, ?_, ?_⟩
      · rw [hback]
      · rw [hback]
      · rw [hback, Bank.putAll_frame]

end Sys2Proof.Machine
end

section
/-!
Proofs for the statements on group table entries: what an entry leaves behind, and when it acts. The units' statements rest on them.
-/
namespace Sys2Proof.Machine

/-! Ports of the lane group whose entry runs (R235, R236) -/

@[simp] theorem Vec.modify_modify {α : Type} {n : Nat} (v : Vector α n) (i : Fin n) (f g : α → α) :
    Vec.modify (Vec.modify v i f) i g = Vec.modify v i (g ∘ f) := by
  simp [Vec.modify]

theorem State.modGroup_modGroup (s : State) (g : GroupId) (f k : Group → Group) : (s.modGroup g f).modGroup g k = s.modGroup g (k ∘ f) := by
  simp only [State.modGroup, State.modMe_modMe, Function.comp_def, Vec.modify_modify]

/-- A change of each index of a list that names none twice. -/
theorem getElem_foldl_modify {α : Type} {m : Nat} (f : α → α) {l : List (Fin m)} (hl : l.Nodup) (v : Vector α m) (n : Fin m) :
    (l.foldl (fun v n => Vec.modify v n f) v)[n] = if n ∈ l then f v[n] else v[n] := by
  induction l generalizing v with
  | nil => rfl
  | cons x l ih =>
    obtain ⟨hx, hl⟩ := List.nodup_cons.mp hl
    rw [List.foldl_cons, ih hl]
    by_cases hn : n = x
    · subst hn
      rw [if_neg hx, if_pos (List.mem_cons_self ..), Vec.getElem_modify_same]
    · rw [Vec.getElem_modify_ne _ _ hn]
      simp only [List.mem_cons, hn, false_or]

/-- The ports of a group as an entry leaves them: a source port is popped, a destination port advances. -/
def stepPorts (srcs : List Operand) (d : Operand) (now : Nat) (ports : Vector Port 16) : Vector Port 16 :=
  Vec.ofFn fun n => if .port n ∈ srcs then ports[n].advance true now else if d = .port n then ports[n].advance false now else ports[n]

theorem getElem_stepPorts (srcs : List Operand) (d : Operand) (now : Nat) (ports : Vector Port 16) (n : Fin 16) :
    (stepPorts srcs d now ports)[n] =
      if .port n ∈ srcs then ports[n].advance true now else if d = .port n then ports[n].advance false now else ports[n] :=
  Vec.getElem_ofFn ..

theorem stepPorts_of_no_port {srcs : List Operand} {d : Operand} (hd : ∀ n, d ≠ .port n) (now : Nat) (ports : Vector Port 16) :
    stepPorts srcs d now ports = stepPorts srcs .zero now ports := by
  simp [stepPorts, hd]

/-- A port that is no source advances after the sources have been popped. -/
theorem modify_stepPorts {srcs : List Operand} {n : Fin 16} (hn : .port n ∉ srcs) (now : Nat) (ports : Vector Port 16) :
    Vec.modify (stepPorts srcs .zero now ports) n (·.advance false now) = stepPorts srcs (.port n) now ports := by
  refine Vector.ext fun i hi => ?_
  by_cases hin : n.val = i
  · subst hin
    simp [stepPorts, hn]
  · have hne : n ≠ ⟨i, hi⟩ := fun h => hin (congrArg Fin.val h)
    simp [stepPorts, hin, hne]

theorem stepPorts_of_stuck {srcs : List Operand} {n : Fin 16} {now : Nat} {ports : Vector Port 16} (hstuck : ports[n].advance false now = ports[n]) :
    stepPorts srcs (.port n) now ports = stepPorts srcs .zero now ports := by
  refine Vector.ext fun i hi => ?_
  by_cases hin : n = ⟨i, hi⟩
  · subst hin
    simp only [Fin.getElem_fin] at hstuck
    simp [stepPorts, hstuck]
  · simp [stepPorts, hin]

/-- The ports of a list are popped in turn. -/
theorem foldl_modify_advance {srcs : List Operand} (now : Nat) (ports : Vector Port 16) :
    ((List.finRange 16).filter fun n => srcs.contains (.port n)).foldl (fun v n => Vec.modify v n (·.advance true now)) ports =
      stepPorts srcs .zero now ports := by
  have hnodup : ((List.finRange 16).filter fun n => srcs.contains (.port n)).Nodup := (List.nodup_finRange 16).filter _
  refine Vector.ext fun i hi => (getElem_foldl_modify _ hnodup ports ⟨i, hi⟩).trans ?_
  rw [stepPorts, Vec.getElem_ofFn]
  simp

theorem foldl_modPort (f : Nat → Port → Port) (l : List (Fin 16)) (s : State) :
    l.foldl (fun s n => s.modPort n (f s.cycle)) s =
      s.modGroup s.cur.group fun k => { k with ports := l.foldl (fun v n => Vec.modify v n (f s.cycle)) k.ports } := by
  induction l generalizing s with
  | nil => exact (State.modMe_id (congrArg (fun v => ({ s.me with groups := v } : Body)) (Vector.set_getElem_self ..))).symm
  | cons n l ih =>
    rw [List.foldl_cons, ih, State.modPort, State.modGroup_cur, State.modGroup_modGroup]
    rfl

/-! What an entry leaves (R32, R84) -/

/-- The state that an entry leaves: the ports of its group stepped, its writes queued, each for the end of its cycle. -/
def State.leave (s : State) (srcs : List Operand) (d : Operand) (ws : List (Nat × GWrite)) : State :=
  s.modMe fun b => { b with
    groups := Vec.modify b.groups s.cur.group fun k => { k with ports := stepPorts srcs d s.cycle k.ports }
    pend := b.pend ++ ws.map fun w => ⟨w.1, s.cycle + 2, s.cur.slot == .v1, s.cur.group, w.2, s.src⟩ }

theorem entryQueues_leave (s : State) (srcs : List Operand) (d : Operand) (ws : List (Nat × GWrite)) :
    EntryQueues s (s.leave srcs d ws) srcs d ws := by
  obtain ⟨honly, hbytes⟩ : OnlyBody s (s.leave srcs d ws) s.cur.core ∧ SameBytes s (s.leave srcs d ws) := by
    unfold State.leave State.modMe
    exact modBody_frame ⟨rfl, rfl, rfl, rfl⟩
  refine ⟨honly, hbytes, ?_⟩
  rw [State.leave, State.me_modMe]
  refine ⟨rfl, fun g hg => Vec.getElem_modify_ne _ _ hg, ?_, fun n => ?_, rfl⟩
  · rw [Vec.getElem_modify_same]
  · rw [Vec.getElem_modify_same]
    exact getElem_stepPorts ..

theorem State.popPorts_eq_leave (s : State) (srcs : List Operand) : s.popPorts srcs = s.leave srcs .zero [] := by
  refine (foldl_modPort (fun c q => q.advance true c) _ s).trans ?_
  simp only [foldl_modify_advance, State.leave, List.map_nil, List.append_nil]
  rfl

section
variable {s : State} {srcs : List Operand} {d : Operand} {ws : List (Nat × GWrite)}

@[simp] theorem State.leave_cycle : (s.leave srcs d ws).cycle = s.cycle := rfl
@[simp] theorem State.leave_cur : (s.leave srcs d ws).cur = s.cur := rfl
@[simp] theorem State.leave_pre : (s.leave srcs d ws).pre = s.pre := rfl

theorem State.leave_of_no_port (hd : ∀ n, d ≠ .port n) : s.leave srcs d ws = s.leave srcs .zero ws := by
  simp only [State.leave, stepPorts_of_no_port hd]

theorem State.pendAt_leave (due : Nat) (w : GWrite) : (s.leave srcs d ws).pendAt due w = s.leave srcs d (ws ++ [(due, w)]) := by
  refine (State.modMe_modMe ..).trans ?_
  simp only [State.leave, Function.comp_def, List.append_assoc, List.map_append]
  rfl

theorem State.pendW_leave (cls : Fin 8) (w : GWrite) : (s.leave srcs d ws).pendW cls w = s.leave srcs d (ws ++ [(dueOf s cls, w)]) :=
  State.pendAt_leave ..

theorem State.foldl_pendAt_leave {α : Type} (due : α → Nat) (w : α → GWrite) (l : List α) :
    l.foldl (fun t x => t.pendAt (due x) (w x)) (s.leave srcs d ws) = s.leave srcs d (ws ++ l.map fun x => (due x, w x)) := by
  induction l generalizing ws with
  | nil => rw [List.foldl_nil, List.map_nil, List.append_nil]
  | cons x l ih => rw [List.foldl_cons, State.pendAt_leave, ih, List.append_assoc, List.map_cons, List.singleton_append]

theorem postAll_leave (cls : Fin 8) (rs : List StatRec) :
    postAll cls rs (s.leave srcs d ws) = s.leave srcs d (ws ++ rs.map fun r => (dueOf s cls, .post r)) := by
  unfold postAll
  induction rs generalizing ws with
  | nil => rw [List.foldl_nil, List.map_nil, List.append_nil]
  | cons r rs ih => rw [List.foldl_cons, State.pendW_leave, ih, List.append_assoc, List.map_cons, List.singleton_append]

theorem State.modPort_leave {n : Fin 16} (hn : .port n ∉ srcs) :
    (s.leave srcs .zero ws).modPort n (·.advance false s.cycle) = s.leave srcs (.port n) ws := by
  rw [State.modPort, State.modGroup, State.leave, State.modMe_modMe, State.leave]
  simp only [State.modMe_cur, Function.comp_def, Vec.modify_modify, modify_stepPorts hn]

/-- What is no source stands where it stood. -/
theorem State.grpNow_leave {n : Fin 16} (hn : .port n ∉ srcs) : (s.leave srcs .zero ws).grpNow.ports[n] = s.grpNow.ports[n] := by
  obtain ⟨_, _, _, _, _, hports, _⟩ := entryQueues_leave s srcs .zero ws
  exact (hports n).trans ((if_neg hn).trans (if_neg Operand.noConfusion))

/-- A destination port that has nowhere to go stands. -/
theorem State.leave_of_stuck {n : Fin 16} (hstuck : s.grpNow.ports[n].advance false s.cycle = s.grpNow.ports[n]) :
    s.leave srcs (.port n) ws = s.leave srcs .zero ws := by
  have hgroups : (Vec.modify (s.body s.cur.core).groups s.cur.group fun k => { k with ports := stepPorts srcs (.port n) s.cycle k.ports }) =
      Vec.modify (s.body s.cur.core).groups s.cur.group fun k => { k with ports := stepPorts srcs .zero s.cycle k.ports } :=
    Vec.modify_congr (congrArg (fun v => ({ s.grpNow with ports := v } : Group)) (stepPorts_of_stuck hstuck))
  unfold State.leave
  refine State.modBody_congr ?_
  rw [hgroups]

/-- The bytes of a vector at its destination's place, with what their conversion notes. -/
theorem State.writeBytes_leave {sp : Space} {off : Nat} {f : Fmt} (cls : Fin 8) (v : Lanes) (mask : BitVec 64)
    (hplace : destPlace s d = some (sp, off, f)) :
    ((s.leave srcs d ws).pendW cls (.bytes sp (vecBytes off f v mask).1), (vecBytes off f v mask).2.map fun n => (n.1, n.2, false)) =
      (s.leave srcs d (ws ++ ((destPlace s d).toList.map fun x => GWrite.bytes x.1 (vecBytes x.2.1 x.2.2 v mask).1).map fun w => (dueOf s cls, w)),
        destNotes s d v mask) := by
  rw [State.pendW_leave, destNotes, hplace]
  simp

/-- A destination without a place takes nothing. -/
theorem State.leave_of_noPlace (v : Lanes) (mask : BitVec 64) (cls : Fin 8) (hplace : destPlace s d = none)
    (hd : s.leave srcs d ws = s.leave srcs .zero ws) :
    (s.leave srcs .zero ws, []) =
      (s.leave srcs d (ws ++ ((destPlace s d).toList.map fun x => GWrite.bytes x.1 (vecBytes x.2.1 x.2.2 v mask).1).map fun w => (dueOf s cls, w)),
        destNotes s d v mask) := by
  rw [destNotes, hplace, ← hd]
  simp

/-- Everything the write of a vector to a destination does, after the sources have been popped. -/
theorem State.writeDst_leave (cls : Fin 8) (rot : Bool) (v : Lanes) (mask : BitVec 64) (hapart : PortsApart srcs d) :
    (s.leave srcs .zero ws).writeDst cls rot d v mask =
      (s.leave srcs d (ws ++ (destWrites s rot d v mask).map fun w => (dueOf s cls, w)), destNotes s d v mask) := by
  cases d with
  | port n =>
    have hport := State.grpNow_leave (s := s) (ws := ws) (hapart n rfl)
    have hplace : destPlace s (.port n) = s.grpNow.ports[n].cfg.bind fun c => if c.exhausted s.grpNow.ports[n].pos then none else
      some (c.space, groupOff c.space s.cur.group (c.addr s.grpNow.ports[n].pos).toNat, c.fmt) := rfl
    cases hcfg : s.grpNow.ports[n].cfg with
    | none =>
      rw [hcfg] at hplace
      simp only [State.writeDst, hport, hcfg]
      exact State.leave_of_noPlace v mask cls hplace (State.leave_of_stuck (by rw [Port.advance, hcfg]))
    | some c =>
      rw [hcfg] at hplace
      by_cases hend : c.exhausted s.grpNow.ports[n].pos = true
      · simp only [State.writeDst, hport, hcfg, if_pos hend]
        exact State.leave_of_noPlace v mask cls (hplace.trans (if_pos hend)) (State.leave_of_stuck (by simp only [Port.advance, hcfg, if_pos hend]))
      · simp only [State.writeDst, hport, hcfg, if_neg hend, State.leave_cycle, State.modPort_leave (hapart n rfl)]
        exact State.writeBytes_leave cls v mask (hplace.trans (if_neg hend))
  | cb n =>
    have hstay : s.leave srcs (.cb n) ws = s.leave srcs .zero ws := State.leave_of_no_port (by simp)
    have hplace : destPlace s (.cb n) = s.pre.cbs[n].cfg.map fun c =>
      (.gal, c.base + s.pre.cbs[n].prod % c.n * c.slotSize + s.cur.group.val * c.groupStride, c.fmt) := rfl
    cases hcfg : s.pre.cbs[n].cfg with
    | none =>
      rw [hcfg] at hplace
      simp only [State.writeDst, State.leave_pre, hcfg]
      exact State.leave_of_noPlace v mask cls hplace hstay
    | some c =>
      rw [hcfg] at hplace
      simp only [State.writeDst, State.leave_pre, hcfg, ← hstay]
      exact State.writeBytes_leave cls v mask hplace
  | mat m dir i => exact congrArg (·, []) ((State.pendW_leave ..).trans (State.leave_of_no_port (by simp)).symm)
  | scalar n => exact congrArg (·, []) ((State.pendW_leave ..).trans (State.leave_of_no_port (by simp)).symm)
  | lat => exact congrArg (·, []) ((State.pendW_leave ..).trans (State.leave_of_no_port (by simp)).symm)
  | zero | lane | imm | grp | ones | latL | latR => exact State.leave_of_noPlace v mask cls rfl (State.leave_of_no_port (by simp))

end

/-! When an entry acts (R31, R246, R262) -/

section
variable {s : State} {holds : Bool} {rewrites : List (Space × Nat)} {faults : List (Cause × Int)} {act : State → State}

/-- An entry acts where nothing holds its bundle and nothing is a cause, and always in the second cycle of a bundle, which the model does not judge
again (its choice, log 43). -/
theorem State.entry_of_free (hfree : s.cur.second = true ∨ holds = false ∧ rewrites = [] ∧ faults = []) :
    s.entry holds rewrites faults act = .next (act s) := by
  unfold State.entry
  by_cases hsecond : s.cur.second = true
  · rw [if_pos hsecond]
  · obtain ⟨rfl, rfl, rfl⟩ := hfree.resolve_left hsecond
    rw [if_neg hsecond, if_neg (by simp)]
    rfl

/-- What stands first among the causes of an entry that holds nothing is raised. -/
theorem State.entry_of_fault {c : Cause} {a : Int} (hsecond : s.cur.second = false) (hholds : holds = false) (hrewrites : rewrites = [])
    (hfault : firstFault faults = some (c, a)) :
    s.entry holds rewrites faults act = .next (s.raise c (if c = .illegalOp then 0 else .ofInt 64 a)) := by
  subst hholds hrewrites
  unfold State.entry
  rw [hsecond, if_neg Bool.false_ne_true, if_neg (by simp), hfault]

end

/-- The first cause of a bundle, met in an entry, names its lane group (R50, R174). -/
theorem State.raise_of_entry {s : State} {cause : Cause} (htrap : s.cur.trap = none) (hslot : s.cur.slot = .v0 ∨ s.cur.slot = .v1)
    (hcause : cause ≠ .illegalBundle) (a : BitVec 64) (aux : BitVec 10) :
    s.raise cause a aux =
      let cause : TrapInfo := ⟨cause, aux, a, slotCode s.cur.slot, ⟨s.cur.group.val, Nat.lt_trans s.cur.group.isLt (by decide)⟩, false, none⟩
      { s with cur := { s.cur with trap := some cause } } := by
  obtain hslot | hslot := hslot <;> simp only [State.raise, htrap, hslot, if_neg hcause]

end Sys2Proof.Machine
end

section
/-!
Proofs for the statements on the plane unit: plain loads and stores, plane prefixes and blocks, optimiser updates, pointers and ports.
-/
namespace Sys2Proof.Machine

theorem Vec.ofFn_const {α : Type} {n : Nat} (x : α) : Vec.ofFn (n := n) (fun _ => x) = Vector.replicate n x :=
  Vector.ext fun i hi => by rw [Vec.getElem_ofFn, Vector.getElem_replicate]

/-! A vector result and its records (R259, R264) -/

/-- A result written to its destination after the sources have been popped, and then its records. -/
theorem postAll_writeDst {s : State} {srcs : List Operand} {d : Operand} (op : BitVec 8) (cls : Fin 8) (rot : Bool) (v : Lanes) (mask : BitVec 64)
    (hapart : PortsApart srcs d) :
    let w := (s.popPorts srcs).writeDst cls rot d v mask
    postAll cls (entryRecords s op w.2) w.1 = s.leave srcs d
      ((destWrites s rot d v mask ++ (entryRecords s op (destNotes s d v mask)).map GWrite.post).map fun w => (dueOf s cls, w)) := by
  intro w
  have hw : w = _ := (congrArg (·.writeDst cls rot d v mask) (s.popPorts_eq_leave srcs)).trans (State.writeDst_leave cls rot v mask hapart)
  rw [hw, postAll_leave, List.nil_append, List.map_append, List.map_map]
  rfl

/-- Where each lane's conversion is recorded at its own lane, its notes stand as they are. -/
theorem entryLeaves_iff {s t : State} {op : BitVec 8} {cls : Fin 8} {rot : Bool} {d : Operand} {srcs : List Operand} {v : Lanes} {mask : BitVec 64}
    {notes : List LaneNote} : EntryLeaves s t op cls rot d srcs v mask notes ↔ EntryQueues s t srcs d
      ((destWrites s rot d v mask ++ (entryRecords s op (notes ++ destNotes s d v mask)).map GWrite.post).map fun w => (dueOf s cls, w)) := by
  rw [EntryLeaves, EntryLeavesAt, List.map_id']

/-! Plain loads and stores (R247, R248) -/

theorem rangeFaults_of_good {sp : Space} {a : Option Int} {size n : Nat} (hgood : ∀ y, a = some y → y % size = 0 ∧ groupIn sp y n = true) :
    (a.map fun y => rangeFaults sp y size n).getD [] = [] := by
  cases a with
  | none => rfl
  | some y =>
    obtain ⟨haligned, hinside⟩ := hgood y rfl
    rw [Option.map_some, Option.getD_some, rangeFaults, if_neg (not_not.mpr haligned), if_pos hinside, List.nil_append]

theorem firstFault_of_misaligned {sp : Space} {y : Int} {size : Nat} (n : Nat) (hoff : y % size ≠ 0) :
    firstFault (rangeFaults sp y size n) = some (.misaligned, y) := by
  rw [rangeFaults, if_pos hoff]
  split <;> rfl

/-- What a plain load supplies: zeros where the address port is exhausted, one element for all lanes where the destination is a scalar. -/
def State.loaded (s : State) (sp : Space) (data : Operand) (f : Fmt) (a : Option Int) : Lanes :=
  Vec.ofFn fun l => match a with
    | none => 0
    | some y => loadLane f (s.pre.read sp (groupOff sp s.cur.group y.toNat + if planeLoad.isScalar data then 0 else l.val * fmtSize f) (fmtSize f))

section
variable {s : State} {sp : Space} {op : BitVec 8} {h : MHead} {data addr : Operand} {imm : BitVec 16} {f : Fmt}

theorem planeLoad_of_free (hapart : PortsApart [addr] data)
    (hfree : s.cur.second = true ∨ (s.addrFaults sp addr = [] ∧ ∀ y, s.plainAddr addr imm f = some y →
        y % fmtSize f = 0 ∧ groupIn sp y (if planeLoad.isScalar data then fmtSize f else 64 * fmtSize f) = true) ∧
      s.dstHolds data = false ∧ s.dstFaults data = []) :
    Completes (planeLoad sp op h data addr imm f s) fun t =>
      EntryLeaves s t op h.cls h.rot data [addr] (s.loaded sp data f (s.plainAddr addr imm f)) (s.lanes h.vp) [] := by
  have hleaves (v : Lanes) (hv : v = s.loaded sp data f (s.plainAddr addr imm f)) :
      let w := (s.popPorts [addr]).writeDst h.cls h.rot data v (s.lanes h.vp)
      EntryLeaves s (postAll h.cls (entryRecords s op w.2) w.1) op h.cls h.rot data [addr] (s.loaded sp data f (s.plainAddr addr imm f))
        (s.lanes h.vp) [] := by
    intro w
    rw [postAll_writeDst _ _ _ _ _ hapart, hv, entryLeaves_iff]
    exact entryQueues_leave ..
  unfold planeLoad
  rw [State.entry_of_free, completes_next]
  · refine hleaves _ ?_
    unfold State.loaded
    cases s.plainAddr addr imm f with
    | none => exact (Vec.ofFn_const 0).symm
    | some y =>
      cases planeLoad.isScalar data with
      | true => exact (Vec.ofFn_const _).symm
      | false => rfl
  · refine hfree.imp_right fun ⟨⟨haddr, hrange⟩, hholds, hfaults⟩ => ⟨hholds, rfl, ?_⟩
    rw [haddr, hfaults, rangeFaults_of_good hrange]
    rfl

theorem planeLoad_of_misaligned {y : Int} (hsecond : s.cur.second = false) (haddr : s.addrFaults sp addr = [])
    (hy : s.plainAddr addr imm f = some y) (hoff : y % fmtSize f ≠ 0) (hholds : s.dstHolds data = false) (hfaults : s.dstFaults data = []) :
    planeLoad sp op h data addr imm f s = .next (s.raise .misaligned (.ofInt 64 y)) := by
  unfold planeLoad
  refine State.entry_of_fault hsecond hholds rfl ?_
  rw [haddr, hfaults, hy]
  exact firstFault_of_misaligned _ hoff

/-- What a plain store queues: nothing where the address port is exhausted. -/
def storeQueues (s : State) (sp : Space) (op : BitVec 8) (h : MHead) (f : Fmt) (v : Lanes) : Option Int → List (Nat × GWrite)
  | none => []
  | some y =>
    let r := vecBytes (groupOff sp s.cur.group y.toNat) f v (s.lanes h.vp)
    (.bytes sp r.1 :: (entryRecords s op (r.2.map fun n => (n.1, n.2, false))).map GWrite.post).map fun w => (dueOf s h.cls, w)

theorem planeStore_of_free (hfree : s.cur.second = true ∨ (s.addrFaults sp addr = [] ∧ ∀ y, s.plainAddr addr imm f = some y →
        y % fmtSize f = 0 ∧ groupIn sp y (64 * fmtSize f) = true) ∧ s.srcHolds data = false ∧ s.srcRewrite data = none ∧ s.srcFaults data = []) :
    planeStore sp op h data addr imm f s = .next (s.leave [addr, data] .zero
      (storeQueues s sp op h f (s.srcVec h.rot data) (s.plainAddr addr imm f))) := by
  unfold planeStore
  rw [State.entry_of_free, State.popPorts_eq_leave]
  · cases s.plainAddr addr imm f with
    | none => rfl
    | some y =>
      simp only [State.pendW_leave, postAll_leave, storeQueues, List.map_cons, List.map_map, List.nil_append, List.singleton_append]
      rfl
  · refine hfree.imp_right fun ⟨⟨haddr, hrange⟩, hholds, hrewrite, hfaults⟩ => ⟨hholds, by rw [hrewrite]; rfl, ?_⟩
    rw [haddr, hfaults, rangeFaults_of_good hrange]
    rfl

theorem planeStore_of_misaligned {y : Int} (hsecond : s.cur.second = false) (haddr : s.addrFaults sp addr = [])
    (hy : s.plainAddr addr imm f = some y) (hoff : y % fmtSize f ≠ 0) (hholds : s.srcHolds data = false) (hrewrite : s.srcRewrite data = none)
    (hfaults : s.srcFaults data = []) : planeStore sp op h data addr imm f s = .next (s.raise .misaligned (.ofInt 64 y)) := by
  unfold planeStore
  refine State.entry_of_fault hsecond hholds (by rw [hrewrite]; rfl) ?_
  rw [haddr, hfaults, hy]
  exact firstFault_of_misaligned _ hoff

end

/-- Settles O42: each row is `planeLoad` and `planeStore` of its space. -/
theorem planeLoadsAndStores : Obligations.PlaneLoadsAndStores := by
  intro x hx s h data addr imm f sp size a one checked off
  obtain ⟨hload, hstore⟩ : exec (x.1 h data addr imm f) s = planeLoad sp x.2.2.2 h data addr imm f s ∧
      exec (x.2.1 h data addr imm f) s = planeStore sp (x.2.2.2 + 4) h data addr imm f s := by
    simp only [List.mem_cons, List.not_mem_nil, or_false] at hx
    obtain rfl | rfl | rfl | rfl := hx <;> exact ⟨rfl, rfl⟩
  rw [hload, hstore]
  refine ⟨fun hfree hapart => planeLoad_of_free hapart hfree, fun hfree => ?_, fun y hsecond htrap hslot haddr hy hoff => ?_⟩
  · rw [planeStore_of_free hfree, completes_next]
    exact entryQueues_leave ..
  · intro cause raised
    have hraise : s.raise .misaligned (.ofInt 64 y) = raised := State.raise_of_entry htrap hslot (by decide) _ _
    rw [← hraise]
    exact ⟨planeLoad_of_misaligned hsecond haddr hy hoff, planeStore_of_misaligned hsecond haddr hy hoff⟩

/-! The NPF layout of imm16 and the checks of a row (R245, R246) -/

theorem immPlanes_eq (imm : BitVec 16) : immPlanes imm = imm.toNat / 4096 := by
  have himm := imm.isLt
  rw [immPlanes, BitVec.extractLsb'_toNat, Nat.shiftRight_eq_div_pow]
  omega

theorem immScalar_eq (imm : BitVec 16) : immScalar imm = Fin.ofNat 16 (imm.toNat / 256) :=
  Fin.ext (by rw [immScalar, fin4, Fin.ofNat, BitVec.val_toFin, BitVec.extractLsb'_toNat, Nat.shiftRight_eq_div_pow])

theorem State.rowAddr_eq (s : State) (addr : Operand) (imm : BitVec 16) : s.rowAddr addr imm = (s.addrBase addr).map fun b =>
    let y := b + (imm.setWidth 8).toInt
    ⟨y, (y - y % 128).toNat, (y % 128).toNat⟩ := by
  rw [State.rowAddr, extractLsb'_zero]

/-- A row that lies in its tile, and the tile in what the lane group sees of the space. -/
def RowInside (sp : Space) (p : Nat) (r : RowAddr) : Prop := r.row < 64 ∧ groupIn sp (r.a - r.a % 128) (tileBytes p) = true

theorem rowFaults_of_inside {sp : Space} {p : Nat} {ra : Option RowAddr} (hinside : ∀ r, ra = some r → RowInside sp p r) :
    (ra.map (rowFaults sp p)).getD [] = [] := by
  cases ra with
  | none => rfl
  | some r =>
    obtain ⟨hrow, htile⟩ := hinside r rfl
    rw [Option.map_some, Option.getD_some, rowFaults, if_neg hrow.not_ge, if_pos htile, List.nil_append]

theorem State.rowRewrite_of_stable {s : State} {sp : Space} {ra : Option RowAddr}
    (hstable : ∀ r, ra = some r → headerE (s.pre.npfHeader sp r.tile r.row) ≠ 255) : (ra.map (s.rowRewrite sp)).getD [] = [] := by
  cases ra with
  | none => rfl
  | some r => exact if_neg fun ⟨_, _, hmarked⟩ => hstable r rfl hmarked

/-- The checks of a read of planes or a block write that look at its address and its plane counts alone. -/
def PlanesGood (s : State) (sp : Space) (addr : Operand) (imm : BitVec 16) (k : BitVec 4) : Prop :=
  s.addrFaults sp addr = [] ∧ 1 ≤ immPlanes imm ∧ immPlanes imm ≤ 12 ∧ k.toNat ≤ immPlanes imm ∧
    ∀ r, s.rowAddr addr imm = some r → RowInside sp (immPlanes imm) r

theorem PlanesGood.no_fault {s : State} {sp : Space} {addr : Operand} {imm : BitVec 16} {k : BitVec 4} (hgood : PlanesGood s sp addr imm k)
    {faults : List (Cause × Int)} (hfaults : faults = []) :
    s.addrFaults sp addr ++ faults ++
      (if immPlanes imm = 0 ∨ 12 < immPlanes imm ∨ immPlanes imm < k.toNat then [(.illegalOp, 0)] else []) ++
      ((s.rowAddr addr imm).map (rowFaults sp (immPlanes imm))).getD [] = [] := by
  obtain ⟨haddr, hlow, hhigh, hk, hinside⟩ := hgood
  rw [haddr, hfaults, rowFaults_of_inside hinside, if_neg (by omega)]
  rfl

/-! Plane prefixes and whole blocks (R249, R250) -/

/-- What a read of some planes supplies: zeros where the address port is exhausted. -/
def State.prefixLanes (s : State) (sp : Space) (p k : Nat) (rne : Bool) (f : Fmt) (ra : Option RowAddr) : Lanes :=
  Vec.ofFn fun l => match ra with
    | none => 0
    | some r =>
      let m := (s.pre.npfPrefix sp r.tile r.row p k rne).getD l.val 0
      if f = .int32 then .ofInt 32 m else npfValue (headerE (s.pre.npfHeader sp r.tile r.row)) k m

/-- What a block write queues: nothing where the address port is exhausted. -/
def blockQueues (s : State) (sp : Space) (h : MHead) (p : Nat) (sx : Fin 16) (k : BitVec 4) (rne : Bool) (f : Fmt) (v : Lanes) :
    Option RowAddr → List (Nat × GWrite)
  | none => []
  | some r =>
    let vals := (List.finRange 64).map fun l => if (s.lanes h.vp).getLsbD l.val then v[l] else 0
    let blk := pstBlock f vals k.toNat rne (s.grp.scal[sx].toNat % 256)
    let hdr := headerOff r.tile r.row
    let rows := (List.range p).flatMap fun j =>
      cellsAt (planeRowOff r.tile r.row j) (if j < k.toNat then planeRow k.toNat j blk.ms else .replicate 16 0)
    (.bytes sp (cellsAt hdr (headerBytes blk.hdr) ++ rows) :: (blockRecords s sp hdr blk.nan blk.sat).map GWrite.post).map fun w =>
      (dueOf s h.cls, w)

/-- What a read of some planes queues: the vector, its records, and as INT32 the exponent field. -/
def prefixQueues (s : State) (op : BitVec 8) (h : MHead) (data : Operand) (sx : Fin 16) (f : Fmt) (v : Lanes) (e : Nat) : List (Nat × GWrite) :=
  (destWrites s h.rot data v (s.lanes h.vp) ++ (entryRecords s op (destNotes s data v (s.lanes h.vp))).map GWrite.post ++
    (if f = .int32 then [GWrite.scalar sx (.ofNat 32 e)] else [])).map fun w => (dueOf s h.cls, w)

section
variable {s : State} {sp : Space} {op : BitVec 8} {h : MHead} {data addr : Operand} {imm : BitVec 16} {k : BitVec 4} {rne : Bool} {f : Fmt}

theorem postAll_writeDst_exponent (hapart : PortsApart [addr] data) (sx : Fin 16) (v : Lanes) (e : Nat) :
    let w := (s.popPorts [addr]).writeDst h.cls h.rot data v (s.lanes h.vp)
    let u := postAll h.cls (entryRecords s op w.2) w.1
    (if f = .int32 then u.pendW h.cls (.scalar sx (.ofNat 32 e)) else u) = s.leave [addr] data (prefixQueues s op h data sx f v e) := by
  intro w u
  have hu : u = _ := postAll_writeDst op h.cls h.rot v (s.lanes h.vp) hapart
  rw [hu, State.pendW_leave, prefixQueues]
  split
  · simp only [List.map_append, List.map_cons, List.map_nil]
  · rw [List.append_nil]

theorem planePrefixLoad_of_free (hapart : PortsApart [addr] data)
    (hfree : s.cur.second = true ∨ PlanesGood s sp addr imm k ∧ s.dstHolds data = false ∧ s.dstFaults data = [] ∧
      ∀ r, s.rowAddr addr imm = some r → headerE (s.pre.npfHeader sp r.tile r.row) ≠ 255) :
    planePrefixLoad sp op h data addr imm k rne f s = .next (s.leave [addr] data (prefixQueues s op h data (immScalar imm) f
      (s.prefixLanes sp (immPlanes imm) k.toNat rne f (s.rowAddr addr imm))
      (((s.rowAddr addr imm).map fun r => headerE (s.pre.npfHeader sp r.tile r.row)).getD 0))) := by
  unfold planePrefixLoad
  rw [State.entry_of_free]
  · cases s.rowAddr addr imm with
    | none => 
      rw [State.prefixLanes, Vec.ofFn_const]
      exact congrArg Host.Outcome.next (postAll_writeDst_exponent hapart ..)
    | some r => exact congrArg Host.Outcome.next (postAll_writeDst_exponent hapart ..)
  · exact hfree.imp_right fun ⟨hgood, hholds, hfaults, hstable⟩ => ⟨hholds, State.rowRewrite_of_stable hstable, hgood.no_fault hfaults⟩

theorem planeBlockStore_of_free
    (hfree : s.cur.second = true ∨ PlanesGood s sp addr imm k ∧ s.srcHolds data = false ∧ s.srcRewrite data = none ∧ s.srcFaults data = []) :
    planeBlockStore sp h data addr imm k rne f s = .next (s.leave [addr, data] .zero
      (blockQueues s sp h (immPlanes imm) (immScalar imm) k rne f (s.srcVec h.rot data) (s.rowAddr addr imm))) := by
  unfold planeBlockStore
  rw [State.entry_of_free, State.popPorts_eq_leave]
  · cases s.rowAddr addr imm with
    | none => rfl
    | some r =>
      simp only [State.pendW_leave, postAll_leave, blockQueues, List.map_cons, List.map_map, List.nil_append, List.singleton_append]
      rfl
  · exact hfree.imp_right fun ⟨hgood, hholds, hrewrite, hfaults⟩ => ⟨hholds, by rw [hrewrite]; rfl, hgood.no_fault hfaults⟩

end

/-- Settles O43: each row is `planePrefixLoad` and `planeBlockStore` of its space. -/
theorem planePrefixesAndBlocks : Obligations.PlanePrefixesAndBlocks := by
  intro x hx s h data addr imm k rne f sp p sx row good exponent
  obtain ⟨hload, hstore⟩ : exec (x.1 h data addr imm k rne f) s = planePrefixLoad sp x.2.2.2 h data addr imm k rne f s ∧
      exec (x.2.1 h data addr imm k rne f) s = planeBlockStore sp h data addr imm k rne f s := by
    simp only [List.mem_cons, List.not_mem_nil, or_false] at hx
    obtain rfl | rfl | rfl := hx <;> exact ⟨rfl, rfl⟩
  have hp : p = immPlanes imm := (immPlanes_eq imm).symm
  have hrow : row = s.rowAddr addr imm := (s.rowAddr_eq addr imm).symm
  clear_value p row
  subst hp hrow
  rw [hload, hstore]
  refine ⟨fun hfree hapart => ?_, fun hfree => ?_⟩
  · rw [planePrefixLoad_of_free hapart hfree, immScalar_eq, completes_next]
    exact entryQueues_leave ..
  · rw [planeBlockStore_of_free hfree, immScalar_eq, completes_next]
    exact entryQueues_leave ..

/-! Optimiser updates (R252-R254) -/

/-- What an update queues: its lines one a cycle, the last at the end of the class latency, and its records. -/
def updateQueues (s : State) (h : MHead) (k : BitVec 4) (rne : Bool) (alpha : BitVec 32) (u : Lanes) : Option RowAddr → List (Nat × GWrite)
  | none => []
  | some r =>
    let up := updateBlock r.tile r.row k.toNat rne (s.pre.npfHeader .wb r.tile r.row) (mantissas (s.pre.npfRows .wb r.tile r.row k.toNat))
      (scaledLanes alpha u (s.lanes h.vp))
    (up.lines.zipIdx.map fun l => (dueOf s h.cls - up.lines.length + 1 + l.2, .npf .wb (cellsAt l.1.1 l.1.2))) ++
      (blockRecords s .wb (headerOff r.tile r.row) up.nan up.sat).map fun y => (dueOf s h.cls, .post y)

/-- The checks of an update that look at its address and its block alone. -/
def UpdateGood (s : State) (addr : Operand) (imm : BitVec 16) (k : BitVec 4) : Prop :=
  s.addrFaults .wb addr = [] ∧ ∀ r, s.rowAddr addr imm = some r →
    r.row < 64 ∧ groupIn .wb (r.a - r.a % 128) (tileBytes k.toNat) = true ∧ headerE (s.pre.npfHeader .wb r.tile r.row) ≠ 255

/-- The three updates in one: what the momentum form also writes comes last, where there is a block. -/
theorem planeUpdate_of_free {s : State} {h : MHead} {data addr : Operand} {imm : BitVec 16} {k : BitVec 4} {rne : Bool} {srcs : List Operand}
    {prep : State → BitVec 32 × Lanes} {also : State → State} {extra : List (Nat × GWrite)}
    (halso : ∀ ws, also (s.leave (addr :: srcs) .zero ws) = s.leave (addr :: srcs) .zero (ws ++ extra))
    (hfree : s.cur.second = true ∨ UpdateGood s addr imm k ∧ ∀ o ∈ srcs, s.srcHolds o = false ∧ s.srcRewrite o = none ∧ s.srcFaults o = []) :
    planeUpdate h data addr imm k rne [] srcs prep also s = .next (s.leave (addr :: srcs) .zero
      (updateQueues s h k rne (prep s).1 (prep s).2 (s.rowAddr addr imm) ++ if (s.rowAddr addr imm).isNone then [] else extra)) := by
  unfold planeUpdate
  rw [State.entry_of_free, State.popPorts_eq_leave]
  · cases s.rowAddr addr imm with
    | none => rfl
    | some r =>
      simp only [State.foldl_pendAt_leave, postAll_leave, halso, List.nil_append]
      rfl
  · refine hfree.imp_right fun ⟨⟨haddr, hblock⟩, hsrcs⟩ => ?_
    simp only [forall_and] at hblock hsrcs
    obtain ⟨hrow, htile, hstable⟩ := hblock
    obtain ⟨hholds, hrewrite, hfaults⟩ := hsrcs
    refine ⟨List.any_eq_false.mpr fun o ho => Bool.eq_false_iff.mp (hholds o ho), ?_, ?_⟩
    · rw [State.rowRewrite_of_stable hstable, List.append_nil]
      exact List.filterMap_eq_nil_iff.mpr hrewrite
    · rw [haddr, rowFaults_of_inside fun r hr => ⟨hrow r hr, htile r hr⟩, List.append_nil]
      exact List.flatMap_eq_nil_iff.mpr hfaults

theorem flatMap_filter_eq {α β : Type} (p : α → Bool) (f : α → List β) (l : List α) :
    (l.filter p).flatMap f = l.flatMap fun x => if p x then f x else [] := by
  induction l with
  | nil => rfl
  | cons x l ih =>
    cases hx : p x with
    | true => simp only [List.filter_cons_of_pos hx, List.flatMap_cons, ih, hx, if_true]
    | false => simp only [List.filter_cons_of_neg (Bool.eq_false_iff.mp hx), List.flatMap_cons, ih, hx, Bool.false_eq_true, if_false, List.nil_append]

section
variable {s : State} {h : MHead} {data addr : Operand} {imm : BitVec 16} {k : BitVec 4} {rne : Bool}

/-- An update whose vector comes from its data operand, and which writes nothing else. -/
theorem planeUpdate_of_data (prep : State → BitVec 32 × Lanes)
    (hfree : s.cur.second = true ∨ UpdateGood s addr imm k ∧ s.srcHolds data = false ∧ s.srcRewrite data = none ∧ s.srcFaults data = []) :
    planeUpdate h data addr imm k rne [] [data] prep id s = .next (s.leave [addr, data] .zero
      (updateQueues s h k rne (prep s).1 (prep s).2 (s.rowAddr addr imm))) := by
  have hextra (ws : List (Nat × GWrite)) : id (s.leave [addr, data] .zero ws) = s.leave [addr, data] .zero (ws ++ []) := by
    rw [List.append_nil]
    rfl
  rw [planeUpdate_of_free hextra (hfree.imp_right fun ⟨hgood, hdata⟩ => ⟨hgood, by simpa using hdata⟩), ite_self, List.append_nil]

/-- What the momentum form writes too: the new momentum in the lanes of vp, and the records of its arithmetic (R254). -/
def momentumQueues (s : State) (h : MHead) (m : Fin 4) (dir : Dir) (i : Fin 64) (w : Fin 64 → FpRes) : List (Nat × GWrite) :=
  ((.mat m dir i (Vec.ofFn fun l => .ofNat 32 (w l).bits) (s.lanes h.vp) : GWrite) :: (entryRecords s 0x90
    (((List.finRange 64).filter fun l => (s.lanes h.vp).getLsbD l.val).flatMap fun l =>
      (if (w l).invalid then [(1, l, false)] else []) ++ if (w l).overflow then [(2, l, false)] else [])).map GWrite.post).map fun y =>
    (dueOf s h.cls, y)

theorem execPupdMom_of_free {m : Fin 4} {dir : Dir} {i : Fin 64} (hfree : s.cur.second = true ∨ UpdateGood s addr imm k) :
    let w (l : Fin 64) : FpRes := fpFma fp32 false false s.grp.scal[immScalar imm + 1].toNat (s.grp.vec m dir (s.index h.rot i))[l].toNat
      (s.grp.vec m dir (s.index h.rot i + 1))[l].toNat
    execPupdMom h (.mat m dir i) addr imm k rne s = .next (s.leave [addr] .zero
      (updateQueues s h k rne s.grp.scal[immScalar imm] (Vec.ofFn fun l => .ofNat 32 (w l).bits) (s.rowAddr addr imm) ++
        if (s.rowAddr addr imm).isNone then [] else momentumQueues s h m dir (s.index h.rot i) w)) := by
  intro w
  have hmomentum : momentum s.grp.scal[immScalar imm + 1] (s.grp.vec m dir (s.index h.rot i)) (s.grp.vec m dir (s.index h.rot i + 1)) =
    Vec.ofFn w := rfl
  have hvec : Vec.map (fun r => BitVec.ofNat 32 r.bits) (Vec.ofFn w) = (Vec.ofFn fun l => .ofNat 32 (w l).bits : Lanes) :=
    Vector.ext fun l hl => by simp only [Vec.getElem_map, Vec.getElem_ofFn]
  simp only [execPupdMom, hmomentum, hvec]
  rw [planeUpdate_of_free (extra := momentumQueues s h m dir (s.index h.rot i) w) (fun ws => ?_)
    (hfree.imp_right fun hgood => ⟨hgood, List.forall_mem_nil _⟩)]
  have hlane (l : Fin 64) : (Vec.ofFn w)[l] = w l := Vec.getElem_ofFn ..
  simp only [State.pendW_leave, postAll_leave, momentumQueues, flatMap_filter_eq, hlane, List.map_cons, List.map_map, List.append_assoc,
    List.singleton_append]
  rfl

end

/-- Settles O44: the three forms are `planeUpdate`, the momentum form with what it writes too. -/
theorem optimiserUpdates : Obligations.OptimiserUpdates := by
  intro s h data addr imm k rne sx row good written
  have hrow : row = s.rowAddr addr imm := (s.rowAddr_eq addr imm).symm
  clear_value row
  subst hrow
  have hqueues (alpha : BitVec 32) (u : Lanes) : updateQueues s h k rne alpha u (s.rowAddr addr imm) = written alpha u := by
    simp only [written]
    cases s.rowAddr addr imm <;> rfl
  refine ⟨fun hfree => ⟨?_, ?_⟩, fun m dir i hdata hfree => ?_⟩
  · have hexec : exec (.pupdAdd h data addr imm k rne) s = _ := planeUpdate_of_data (fun s => (fpOne, s.srcVec h.rot data)) hfree
    rw [hexec, completes_next, hqueues]
    exact entryQueues_leave ..
  · have hexec : exec (.pupdAxpy h data addr imm k rne) s = _ :=
      planeUpdate_of_data (fun s => (s.grp.scal[immScalar imm], s.srcVec h.rot data)) hfree
    rw [hexec, completes_next]
    simp only [hqueues, immScalar_eq]
    exact entryQueues_leave ..
  · subst hdata
    have hexec : exec (.pupdMom h (.mat m dir i) addr imm k rne) s = _ := execPupdMom_of_free hfree
    rw [hexec, completes_next]
    simp only [hqueues, immScalar_eq]
    exact entryQueues_leave ..

/-! Pointers (R243) -/

theorem heldAdvance_meets : atEmptyRing.cur.second = false ∧ atEmptyRing.advanceFaults 1 .zero = [] ∧ atEmptyRing.advanceFaults 1 (.cb 2) = [] ∧
    atEmptyRing.advanceHolds (atEmptyRing.cur.advances ++ (atEmptyRing.noteAdvance true .zero 1 ++ atEmptyRing.noteAdvance false (.cb 2) 1)) = true ∧
    atEmptyRing.me.pend = [] := by decide +kernel

/-- An advance of the empty buffer's `cons` holds its bundle, and has acted all the same: the move of the pointer is queued. -/
theorem heldAdvance_pends : ∃ t, exec (.cbadv ⟨0, 0, false⟩ .zero (.cb 2) 1) atEmptyRing = .next t ∧ t.me.pend.length = 1 :=
  ⟨_, rfl, by decide +kernel⟩

/-- Refutes O45, whose clause on a `cbadv` that holds its bundle claims that `exec` changes nothing but the hold: `State.entry` lets the entry act
first, so that its advance stands in `pend` and among the bundle's advances until `State.concludeBroadcast` takes back what a held bundle did. -/
theorem not_stacksRingsAndPorts : ¬ Obligations.StacksRingsAndPorts := by
  intro h
  obtain ⟨hsecond, hdata, haddr, hholds, hpend⟩ := heldAdvance_meets
  obtain ⟨_, ⟨_, honlyHold⟩, _⟩ := h atEmptyRing ⟨0, 0, false⟩ .zero (.cb 2) 1 0
  obtain ⟨t, hexec, hlength⟩ := heldAdvance_pends
  have ht : t = { atEmptyRing with cur := { atEmptyRing.cur with hold := some .stall } } :=
    Host.Outcome.next.inj (hexec.symm.trans (honlyHold hsecond ⟨hdata, haddr⟩ hholds))
  have hkept : t.me.pend = [] := by rw [ht]; exact hpend
  rw [hkept] at hlength
  exact absurd hlength (by decide)

end Sys2Proof.Machine
end

section
/-!
Proofs for the statement on descriptors: ports, spill stacks and circular-buffer handles of the lane groups.
-/
namespace Sys2Proof.Machine

/-! Lane groups of a mask (R234) -/

/-- The groups of a list changed by a function. -/
def Body.changeGroups (b : Body) (gs : List GroupId) (f : Group → Group) : Body :=
  { b with groups := gs.foldl (fun v g => Vec.modify v g f) b.groups }

theorem foldl_modGroup (f : Nat → Group → Group) (gs : List GroupId) (s : State) :
    gs.foldl (fun s g => s.modGroup g (f s.cycle)) s = s.modMe fun b => b.changeGroups gs (f s.cycle) := by
  induction gs generalizing s with
  | nil => exact (State.modMe_id rfl).symm
  | cons g gs ih =>
    rw [List.foldl_cons, ih, State.modGroup, State.modMe_modMe]
    rfl

theorem lowMask_eq (s : State) (b : Reg) : s.lowMask b = groupsOf ((s.rg b).setWidth 24) := by
  rw [State.lowMask, extractLsb'_zero]

theorem mem_groupsOf_low (x : BitVec 64) (g : GroupId) : g ∈ groupsOf (x.setWidth 24) ↔ x.getLsbD g.val = true := by
  rw [mem_groupsOf, BitVec.getLsbD_setWidth, decide_eq_true g.isLt, Bool.true_and]

theorem changesGroups_modMe (s : State) (mask : BitVec 64) (f : Group → Group) :
    ChangesGroups s (s.modMe fun b => b.changeGroups (groupsOf (mask.setWidth 24)) f) mask f := by
  have hnodup : (groupsOf (mask.setWidth 24)).Nodup := (List.nodup_finRange 24).filter _
  obtain ⟨hbytes, honly, hme⟩ := State.modMe_becomes (s := s) (f := fun b => b.changeGroups (groupsOf (mask.setWidth 24)) f) ⟨rfl, rfl, rfl, rfl⟩
  refine ⟨hbytes, honly, ?_, fun g => ?_⟩
  · rw [hme]
    rfl
  · rw [hme]
    refine (getElem_foldl_modify f hnodup s.me.groups g).trans ?_
    simp only [mem_groupsOf_low]

/-- The groups of a list changed one after another, each with a write record. -/
theorem foldl_modGroup_logged (f : Group → Group) (r : Src → GroupId → WriteRec) (gs : List GroupId) (s : State) :
    gs.foldl (fun s g => (s.modGroup g f).modMe (·.logWrites [r s.src g])) s =
      (s.modMe fun b => b.changeGroups gs f).modMe (·.logWrites (gs.map (r s.src))) := by
  rw [State.modMe_modMe]
  induction gs generalizing s with
  | nil => exact (State.modMe_id (congrArg (fun l => ({ s.me with writes := l } : Body)) (List.append_nil _))).symm
  | cons g gs ih =>
    rw [List.foldl_cons, ih, State.modGroup, State.modMe_modMe, State.modMe_modMe]
    refine congrArg s.modMe (funext fun b => ?_)
    simp only [Function.comp_apply, Body.changeGroups, Body.logWrites, List.append_assoc, List.foldl_cons, List.map_cons, List.singleton_append]
    rfl

/-! Descriptors in the gallery (R234, R241, R255) -/

theorem dfield_zero (d w : Nat) : dfield d 0 w = d % 2 ^ w := by rw [dfield, Nat.pow_zero, Nat.div_one]

/-- The descriptor at a good address. -/
def State.descriptor (s : State) (a : Reg) : Nat := natLE (s.pre.read .gal (s.rg a).toNat 64)

section
variable {s : State} {q : Qual} {a : Reg} (hacts : s.acts q = true) (haligned : (s.rg a).toNat % 64 = 0) (hinside : (s.rg a).toNat ≤ 0x1FFFC0)
include haligned hinside

theorem withDescriptor_of_inside (k : Nat → State → State) : withDescriptor (s.rg a) k s = k (s.descriptor a) s := by
  rw [withDescriptor, if_neg (not_not.mpr haligned), if_neg hinside.not_gt]
  rfl

include hacts

theorem execQcfg_of_good {n : Fin 16} {c : PortCfg} (hc : portOf n (s.descriptor a) = some c) (b : Reg) :
    execQcfg q a b n s = .next ((s.modMe fun m => m.changeGroups (groupsOf ((s.rg b).setWidth 24)) fun k =>
      { k with ports := k.ports.set n (primePort c (decide (n.val < 8)) 0 s.cycle) }).modMe
        (·.dropMoves s.cycle (setsPort n (groupsOf ((s.rg b).setWidth 24))))) := by
  rw [execQcfg, if_pos hacts, withDescriptor_of_inside haligned hinside]
  simp only [hc, lowMask_eq]
  exact congrArg (fun t => Host.Outcome.next (State.modMe t _)) (foldl_modGroup (fun now k =>
    { k with ports := k.ports.set n (primePort c (decide (n.val < 8)) 0 now) }) _ s)

theorem execQcfgStk_of_good (hrest : dfield (s.descriptor a) 96 416 = 0) (hsp : dfield (s.descriptor a) 0 32 % 256 = 0)
    (hbase : dfield (s.descriptor a) 32 32 % 256 = 0) (hlimit : dfield (s.descriptor a) 64 32 % 256 = 0)
    (hlow : dfield (s.descriptor a) 32 32 ≤ dfield (s.descriptor a) 0 32) (hhigh : dfield (s.descriptor a) 0 32 ≤ dfield (s.descriptor a) 64 32)
    (hend : dfield (s.descriptor a) 64 32 ≤ 0x200000) (b : Reg) :
    execQcfgStk q a b s = .next ((s.modMe fun m => m.changeGroups (groupsOf ((s.rg b).setWidth 24)) fun k =>
      { k with gsp := .ofNat 32 (dfield (s.descriptor a) 0 32), gbase := .ofNat 32 (dfield (s.descriptor a) 32 32)
               glimit := .ofNat 32 (dfield (s.descriptor a) 64 32) }).modMe
        (·.logWrites ((groupsOf ((s.rg b).setWidth 24)).map fun g =>
          registerRecord s.src (0x63100 + g.val) 4 (.ofNat 64 (dfield (s.descriptor a) 0 32))))) := by
  rw [execQcfgStk, if_pos hacts, withDescriptor_of_inside haligned hinside]
  dsimp only
  rw [if_neg (not_not.mpr hrest), if_neg (by simp [hsp, hbase, hlimit]), if_pos ⟨hlow, hhigh, hend⟩, lowMask_eq]
  exact congrArg Host.Outcome.next (foldl_modGroup_logged _ (fun src g => registerRecord src (0x63100 + g.val) 4 _) _ s)

theorem execCbcfg_of_good {f : Fmt} {n : Fin 16} (hfmt : fmtOf (.ofNat 4 (dfield (s.descriptor a) 48 4)) = some f) (hf : f ≠ .npf)
    (hrest : dfield (s.descriptor a) 128 384 = 0) (hgap : dfield (s.descriptor a) 52 12 = 0) (hsome : 1 ≤ dfield (s.descriptor a) 32 16)
    (hmost : dfield (s.descriptor a) 32 16 ≤ 1024) (hbase : dfield (s.descriptor a) 0 32 % 64 = 0) (hsize : dfield (s.descriptor a) 64 32 % 64 = 0)
    (hstride : dfield (s.descriptor a) 96 32 % 64 = 0) (hslot : 23 * dfield (s.descriptor a) 96 32 + 64 * fmtSize f ≤ dfield (s.descriptor a) 64 32)
    (hend : dfield (s.descriptor a) 0 32 + dfield (s.descriptor a) 32 16 * dfield (s.descriptor a) 64 32 ≤ 0x200000)
    (hidle : ∀ c ∈ s.pre.commands, n ∉ c.cbs) :
    execCbcfg q a n s = .next (s.modMe fun m => { m.dropMoves s.cycle (movesRing n) with
      cbs := m.cbs.set n ⟨some ⟨dfield (s.descriptor a) 0 32, dfield (s.descriptor a) 32 16, f, dfield (s.descriptor a) 64 32,
        dfield (s.descriptor a) 96 32⟩, 0, 0⟩
      groups := Vec.map (fun g => { g with staged := g.staged.filter (·.cb != n) }) m.groups }) := by
  have hfree : s.pre.commands.any (fun c => c.cbs.contains n) = false := List.any_eq_false.mpr fun c hc => by simpa using hidle c hc
  rw [execCbcfg, if_pos hacts, hfree, if_neg Bool.false_ne_true, withDescriptor_of_inside haligned hinside]
  simp only [hfmt]
  rw [if_neg (by simp [hrest, hgap, hf]; omega), if_neg (by simp [hbase, hsize, hstride]), if_neg (not_or.mpr ⟨hslot.not_gt, hend.not_gt⟩)]

end

/-- Settles O15: each form reads a good descriptor, whose fields stand in the configuration. -/
theorem descriptorsConfigure : Obligations.DescriptorsConfigure := by
  intro s q a b n hacts haligned hinside d groups sp base limit size stride slots
  have hsp : dfield (s.descriptor a) 0 32 = sp := dfield_zero ..
  refine ⟨fun c hc => ?_, fun hrest hspAligned hbase hlimit hlow hhigh hend => ?_,
    fun f hfmt hf hrest hgap hsome hmost hspAligned hsize hstride hslot hend hidle => ?_⟩
  · exact ⟨_, execQcfg_of_good hacts haligned hinside hc b, _, changesGroups_modMe .., becomes_modMe ..⟩
  · rw [← hsp] at hspAligned hlow hhigh
    have hexec : exec (.qcfgStk q a b) s = _ := execQcfgStk_of_good hacts haligned hinside hrest hspAligned hbase hlimit hlow hhigh hend b
    rw [hexec, hsp, completes_next]
    exact ⟨_, changesGroups_modMe .., becomes_modMe ..⟩
  · have hcode : BitVec.ofNat 4 (dfield (s.descriptor a) 48 4) = .ofNat 4 (d / 2 ^ 48) :=
      BitVec.eq_of_toNat_eq (by simp [dfield, d, State.descriptor])
    rw [← hsp] at hspAligned hend
    have hexec : exec (.cbcfg q a n) s = _ := execCbcfg_of_good hacts haligned hinside ((congrArg fmtOf hcode).trans hfmt) hf hrest hgap hsome hmost
      hspAligned hsize hstride hslot hend hidle
    rw [hexec, hsp, completes_next]
    exact State.modMe_becomes ⟨rfl, rfl, rfl, rfl⟩

end Sys2Proof.Machine
end

section
/-!
Proofs for the statements on the vector engine: what a vector entry comes to, element-wise or not, and the entries that write lane predicates.
-/
namespace Sys2Proof.Machine

/-! The frame of vector entries (R31, R259, R264) -/

/-- Where an entry acts, nothing that `State.entry` looks at stands in its way. -/
theorem EntryActs.free {s : State} {srcs dsts : List Operand} (hacts : EntryActs s srcs dsts) :
    s.cur.second = true ∨ (srcs.any s.srcHolds = false ∧ srcs.filterMap s.srcRewrite = [] ∧ srcs.flatMap s.srcFaults = []) ∧
      ∀ o ∈ dsts, s.dstHolds o = false ∧ s.dstFaults o = [] := by
  refine hacts.imp_right fun ⟨hsrcs, hdsts⟩ => ⟨?_, hdsts⟩
  simp only [forall_and] at hsrcs
  obtain ⟨hholds, hrewrite, hfaults⟩ := hsrcs
  exact ⟨List.any_eq_false.mpr fun o ho => Bool.eq_false_iff.mp (hholds o ho), List.filterMap_eq_nil_iff.mpr hrewrite,
    List.flatMap_eq_nil_iff.mpr hfaults⟩

/-- The result of a vector entry written to its destination, then its own records and those of the conversion. -/
theorem vectorEntry_of_acts {s : State} {op : BitVec 8} {h : VHead} {d : Operand} {srcs : List Operand}
    {res : State → Lanes × BitVec 64 × List LaneNote} (hacts : EntryActs s srcs [d]) (hapart : PortsApart srcs d) :
    Completes (vectorEntry op h d srcs [] res s) fun t => EntryLeaves s t op h.cls h.rot d srcs (res s).1 (res s).2.1 (res s).2.2 := by
  have hwrite : (s.popPorts srcs).writeDst h.cls h.rot d (res s).1 (res s).2.1 = _ :=
    (congrArg (·.writeDst h.cls h.rot d (res s).1 (res s).2.1) (s.popPorts_eq_leave srcs)).trans (State.writeDst_leave h.cls h.rot _ _ hapart)
  unfold vectorEntry
  rw [State.entry_of_free, completes_next]
  · dsimp only
    rw [hwrite]
    change EntryLeaves s (postAll h.cls _ _) ..
    rw [postAll_leave, List.nil_append, EntryLeaves, EntryLeavesAt, List.map_append, List.map_map]
    exact entryQueues_leave ..
  · refine hacts.free.imp_right fun ⟨⟨hholds, hrewrite, hfaults⟩, hdst⟩ => ?_
    obtain ⟨hdstHolds, hdstFaults⟩ := hdst d (List.mem_singleton_self d)
    simp only [hholds, hrewrite, hfaults, hdstHolds, hdstFaults, Bool.or_self, List.append_nil, and_self]

/-- Each lane's result stands at its lane, and the lanes of the mask post what they note. -/
theorem gather_eq (mask : BitVec 64) (f : Fin 64 → LaneRes) : gather mask f = (Vec.ofFn fun l => (f l).1,
    (List.finRange 64).flatMap fun l => if mask.getLsbD l.val then (f l).2.map fun n => (n.1, l, n.2) else []) := by
  simp [gather]

theorem getElem_gather (mask : BitVec 64) (f : Fin 64 → LaneRes) (l : Fin 64) : (gather mask f).1[l] = (f l).1 := by
  rw [gather_eq]
  exact Vec.getElem_ofFn ..

theorem mem_gather {mask : BitVec 64} {f : Fin 64 → LaneRes} {k : Nat} {l : Fin 64} {e : Bool} :
    (k, l, e) ∈ (gather mask f).2 ↔ mask.getLsbD l.val = true ∧ (k, e) ∈ (f l).2 := by
  simp only [gather_eq, List.mem_flatMap, List.mem_finRange, true_and, List.mem_ite_nil_right, List.mem_map, Prod.mk.injEq]
  constructor
  · rintro ⟨_, hmask, n, hn, rfl, rfl, rfl⟩
    exact ⟨hmask, hn⟩
  · exact fun ⟨hmask, hn⟩ => ⟨l, hmask, _, hn, rfl, rfl, rfl⟩

/-- An entry whose lanes each come to a result of their own: the lanes of vp are written, and post what they note. -/
theorem gatherEntry_of_acts {s : State} {op : BitVec 8} {h : VHead} {d : Operand} {srcs : List Operand} {f : State → Fin 64 → LaneRes}
    (hacts : EntryActs s srcs [d]) (hapart : PortsApart srcs d) :
    Completes (vectorEntry op h d srcs [] (fun s => let r := gather (s.lanes h.vp) (f s); (r.1, s.lanes h.vp, r.2)) s) fun t =>
      ∃ (v : Lanes) (notes : List LaneNote),
        (∀ l : Fin 64, v[l] = (f s l).1 ∧ ∀ k e, (k, l, e) ∈ notes ↔ (s.lanes h.vp).getLsbD l.val = true ∧ (k, e) ∈ (f s l).2) ∧
        EntryLeaves s t op h.cls h.rot d srcs v (s.lanes h.vp) notes :=
  (vectorEntry_of_acts hacts hapart).imp fun _ ht =>
    ⟨_, _, fun l => ⟨getElem_gather (s.lanes h.vp) (f s) l, fun _ _ => mem_gather⟩, ht⟩

/-- An element-wise entry acts on each lane by itself. -/
theorem elementwise_of_lane {i : Instr} {op : BitVec 8} {h : VHead} {d : Operand} {srcs : List Operand}
    {f : BitVec 32 → BitVec 32 → BitVec 32 → LaneRes} {lane : BitVec 32 → BitVec 32 → BitVec 32 → BitVec 32 → List (Nat × Bool) → Prop}
    (hlane : ∀ x y z, lane x y z (f x y z).1 (f x y z).2) (hexec : ∀ s, exec i s = elementwise op h d srcs f s) :
    Elementwise i op h d srcs lane := by
  intro s hacts hapart
  rw [hexec]
  refine (gatherEntry_of_acts hacts hapart).imp fun t ⟨v, notes, hv, ht⟩ => ⟨v, notes, fun l => ?_, ht⟩
  obtain ⟨hvalue, hnotes⟩ := hv l
  rw [hvalue]
  exact ⟨_, hlane .., hnotes⟩

/-- What an entry on a lane predicate queues: a write to vp0 is discarded. -/
theorem predEntry_of_acts {s : State} {h : VHead} {pd : Fin 8} {srcs : List Operand} {res : State → BitVec 64 × BitVec 64} {f : Fin 64 → Bool}
    (hacts : EntryActs s srcs []) (hbits : ∀ l : Fin 64, (res s).1.getLsbD l.val = f l) :
    Completes (predEntry h pd srcs res s) fun t => ∃ bits : BitVec 64, (∀ l : Fin 64, bits.getLsbD l.val = f l) ∧
      EntryQueues s t srcs .zero (if pd = 0 then [] else [(dueOf s h.cls, .vp pd bits (res s).2)]) := by
  unfold predEntry
  rw [State.entry_of_free (hacts.free.imp_right And.left), completes_next, State.popPorts_eq_leave]
  refine ⟨_, hbits, ?_⟩
  by_cases hpd : pd = 0
  · subst hpd
    exact entryQueues_leave ..
  · have hval : pd.val ≠ 0 := Fin.val_ne_zero_iff.mpr hpd
    simp only [if_neg hpd, if_neg hval, State.pendW_leave]
    exact entryQueues_leave ..

/-! Lane predicates (R261, R268, R277, R279) -/

theorem getLsbD_orBit (m : BitVec 64) (l j : Fin 64) : (m ||| 1#64 <<< l.val).getLsbD j.val = (m.getLsbD j.val || decide (j = l)) := by
  have htwoPow : 1#64 <<< l.val = BitVec.twoPow 64 l.val := rfl
  rw [BitVec.getLsbD_or, htwoPow, BitVec.getLsbD_twoPow, decide_eq_true l.isLt, Bool.true_and]
  exact congrArg (m.getLsbD j.val || ·) (decide_eq_decide.mpr (Fin.val_inj.trans eq_comm))

theorem getLsbD_foldl_orBit (f : Fin 64 → Bool) (ls : List (Fin 64)) (m : BitVec 64) (j : Fin 64) :
    (ls.foldl (fun m l => if f l then m ||| (1#64 <<< l.val) else m) m).getLsbD j.val = (m.getLsbD j.val || (decide (j ∈ ls) && f j)) := by
  induction ls generalizing m with
  | nil => simp
  | cons l ls ih =>
    rw [List.foldl_cons, ih]
    cases hl : f l with
    | false =>
      rw [if_neg Bool.false_ne_true]
      by_cases hjl : j = l
      · rw [hjl, hl, Bool.and_false, Bool.and_false]
      · simp only [List.mem_cons, hjl, false_or]
    | true =>
      rw [if_pos rfl, getLsbD_orBit]
      by_cases hjl : j = l
      · simp only [hjl, hl, List.mem_cons, true_or, decide_true, Bool.and_true, Bool.or_true, Bool.true_or]
      · simp only [List.mem_cons, hjl, false_or, decide_false, Bool.or_false]

theorem getLsbD_bitsOf (f : Fin 64 → Bool) (l : Fin 64) : (bitsOf f).getLsbD l.val = f l := by
  rw [bitsOf, getLsbD_foldl_orBit]
  simp

theorem intCond_eq_decide (c : BitVec 3) (x y : BitVec 32) : intCond c x y = match c.toNat with
    | 0 => decide (x = y)
    | 1 => decide (x ≠ y)
    | 2 => decide (x.toInt < y.toInt)
    | 3 => decide (x.toNat < y.toNat)
    | 4 => decide (x.toInt ≤ y.toInt)
    | 5 => decide (x.toNat ≤ y.toNat)
    | 6 => decide (y.toInt < x.toInt)
    | _ => decide (y.toNat < x.toNat) := by
  unfold intCond
  have hne : (x != y) = decide (x ≠ y) := by rw [bne, beq_eq_decide, decide_not]
  rw [hne, beq_eq_decide]
  rfl

/-- R268 as the statement writes it: the elements of a packed lane by their place. -/
theorem fpLaneCompare_eq (mod : BitVec 4) (x y : BitVec 32) : fpLaneCompare mod x y =
    let c := (mod.extractLsb' 0 2).toNat
    let half (w : BitVec 32) (i : Nat) : Nat := (w.extractLsb' (16 * i) 16).toNat
    let both (f : FpFormat) : Bool := fpCompare f c (half x 0) (half y 0) && fpCompare f c (half x 1) (half y 1)
    if mod.extractLsb' 2 2 = 0 then fpCompare fp32 c x.toNat y.toNat else if mod.extractLsb' 2 2 = 1 then both bf16 else both fp16 := by
  unfold fpLaneCompare
  generalize mod.extractLsb' 2 2 = type
  match type with
  | 0#2 | 1#2 | 2#2 | 3#2 => rfl

/-- A logic operation on two lane predicates goes bit by bit. -/
theorem vpBoth_of_acts {s : State} {h : VHead} {pd pa pb : Fin 8} {f : BitVec 64 → BitVec 64 → BitVec 64} {g : Bool → Bool → Bool}
    (hacts : EntryActs s [] []) (hbit : ∀ (x y : BitVec 64) (l : Fin 64), (f x y).getLsbD l.val = g (x.getLsbD l.val) (y.getLsbD l.val)) :
    Completes (vpBoth f h pd pa pb s) fun t => ∃ bits : BitVec 64,
      (∀ l : Fin 64, bits.getLsbD l.val = g ((s.lanes pa).getLsbD l.val) ((s.lanes pb).getLsbD l.val)) ∧
      EntryQueues s t [] .zero (if pd = 0 then [] else [(dueOf s h.cls, .vp pd bits (BitVec.allOnes 64))]) :=
  predEntry_of_acts hacts fun l => hbit _ _ l

/-- Settles O41: each form is `predEntry` of bits that are lane by lane those of its condition. -/
theorem lanePredicates : Obligations.LanePredicates := by
  intro s h pd pa pb a b src writes cond
  have hcompare (f : BitVec 32 → BitVec 32 → Bool) (l : Fin 64) :
      (bitsOf fun l => f (laneAt (s.srcLanes h [a, b]) 0 l) (laneAt (s.srcLanes h [a, b]) 1 l)).getLsbD l.val = f (src a l) (src b l) :=
    getLsbD_bitsOf ..
  clear_value src
  refine ⟨fun hacts => ?icmp, fun hacts => ?fcmp, fun hacts => ?vpand, fun hacts => ?vpor, fun hacts => ?vpxor, fun hacts => ?vpnot⟩
  case icmp =>
    change Completes (execIcmp h pd a b s) _
    exact predEntry_of_acts hacts fun l => (hcompare (intCond (h.mod.extractLsb' 0 3)) l).trans (intCond_eq_decide ..)
  case fcmp =>
    change Completes (execFcmp h pd a b s) _
    exact predEntry_of_acts hacts fun l => (hcompare (fpLaneCompare h.mod) l).trans (fpLaneCompare_eq ..)
  case vpand => exact vpBoth_of_acts hacts fun _ _ _ => BitVec.getLsbD_and
  case vpor => exact vpBoth_of_acts hacts fun _ _ _ => BitVec.getLsbD_or
  case vpxor => exact vpBoth_of_acts hacts fun _ _ _ => BitVec.getLsbD_xor
  case vpnot =>
    change Completes (execVpnot h pd pa s) _
    refine vpBoth_of_acts (pb := pa) (g := fun x _ => !x) hacts fun x _ l => ?_
    rw [BitVec.getLsbD_not, decide_eq_true l.isLt, Bool.true_and]

end Sys2Proof.Machine
end

section
/-!
Proofs for the statements on the vector engine: integer entries.
-/
namespace Sys2Proof.Machine

/-! Integer operations as exact arithmetic (R276), at any width: those of the A slot are stated for 64 bits. -/

section
variable {w : Nat} (x y : BitVec w)

theorem ofInt_min_toInt : BitVec.ofInt w (min x.toInt y.toInt) = minS x y := by
  unfold minS
  split
  next h => rw [min_eq_left (BitVec.slt_iff_toInt_lt.mp h).le, BitVec.ofInt_toInt]
  next h => rw [min_eq_right (not_lt.mp (mt BitVec.slt_iff_toInt_lt.mpr h)), BitVec.ofInt_toInt]

theorem ofInt_max_toInt : BitVec.ofInt w (max x.toInt y.toInt) = maxS x y := by
  unfold maxS
  split
  next h => rw [max_eq_right (BitVec.slt_iff_toInt_lt.mp h).le, BitVec.ofInt_toInt]
  next h => rw [max_eq_left (not_lt.mp (mt BitVec.slt_iff_toInt_lt.mpr h)), BitVec.ofInt_toInt]

theorem ofNat_min_toNat : BitVec.ofNat w (min x.toNat y.toNat) = minU x y := by
  unfold minU
  split
  next h => rw [min_eq_left (BitVec.ult_iff_lt.mp h).le, BitVec.ofNat_toNat, BitVec.setWidth_eq]
  next h => rw [min_eq_right (not_lt.mp (mt BitVec.ult_iff_lt.mpr h)), BitVec.ofNat_toNat, BitVec.setWidth_eq]

theorem ofNat_max_toNat : BitVec.ofNat w (max x.toNat y.toNat) = maxU x y := by
  unfold maxU
  split
  next h => rw [max_eq_right (BitVec.ult_iff_lt.mp h).le, BitVec.ofNat_toNat, BitVec.setWidth_eq]
  next h => rw [max_eq_left (not_lt.mp (mt BitVec.ult_iff_lt.mpr h)), BitVec.ofNat_toNat, BitVec.setWidth_eq]

theorem ofNat_mul_two_pow (n : Nat) : BitVec.ofNat w (x.toNat * 2 ^ n) = shl x n :=
  BitVec.eq_of_toNat_eq (by rw [shl, BitVec.toNat_shiftLeft, Nat.shiftLeft_eq, BitVec.toNat_ofNat])

theorem ofNat_div_two_pow (n : Nat) : BitVec.ofNat w (x.toNat / 2 ^ n) = shr x n := by
  rw [shr, ← Nat.shiftRight_eq_div_pow, ← BitVec.toNat_ushiftRight, BitVec.ofNat_toNat, BitVec.setWidth_eq]

theorem ofInt_div_two_pow (n : Nat) : BitVec.ofInt w (x.toInt / 2 ^ n) = sar x n := by
  rw [sar, ← BitVec.ofInt_toInt (x := x.sshiftRight n), BitVec.toInt_sshiftRight, Int.shiftRight_eq_div_pow]
  norm_cast

theorem ofNat_mul_toNat : BitVec.ofNat w (x.toNat * y.toNat) = x * y := by
  rw [BitVec.ofNat_mul, BitVec.ofNat_toNat, BitVec.ofNat_toNat, BitVec.setWidth_eq, BitVec.setWidth_eq]

theorem ofInt_mul_add_toInt (z : BitVec w) : BitVec.ofInt w (x.toInt * y.toInt + z.toInt) = x * y + z := by
  rw [BitVec.ofInt_add, BitVec.ofInt_mul, BitVec.ofInt_toInt, BitVec.ofInt_toInt, BitVec.ofInt_toInt]

/-- `leadingZeros` counts the zero bits above the most significant one. -/
theorem leadingZeros_meets : leadingZeros x ≤ w ∧ (∀ i < leadingZeros x, x.getMsbD i = false) ∧
    (leadingZeros x < w → x.getMsbD (leadingZeros x) = true) := by
  by_cases hx : x = 0
  · subst hx
    have hcount : leadingZeros (0 : BitVec w) = w := by rw [leadingZeros, if_pos rfl, Nat.sub_zero]
    rw [hcount]
    exact ⟨le_refl w, fun i _ => BitVec.getMsbD_zero, fun h => absurd h (lt_irrefl w)⟩
  · have hne : x.toNat ≠ 0 := fun h => hx (BitVec.eq_of_toNat_eq h)
    have hlog : x.toNat.log2 < w := (Nat.log2_lt hne).mpr x.isLt
    have hcount : leadingZeros x = w - 1 - x.toNat.log2 := by
      rw [leadingZeros, if_neg hx]
      omega
    rw [hcount]
    refine ⟨by omega, fun i hi => ?_, fun _ => ?_⟩
    · have hbelow : x.toNat < 2 ^ (w - 1 - i) := (Nat.log2_lt hne).mp (by omega)
      rw [BitVec.getMsbD_eq_getLsbD, ← BitVec.testBit_toNat, Nat.testBit_lt_two_pow hbelow, Bool.and_false]
    · have hplace : w - 1 - (w - 1 - x.toNat.log2) = x.toNat.log2 := by omega
      rw [BitVec.getMsbD_eq_getLsbD, ← BitVec.testBit_toNat, hplace, Nat.testBit_log2 hne, decide_eq_true (by omega), Bool.and_true]

end

/-! Shifts by the low five bits of a lane (R276) -/

theorem low5_toNat (x : BitVec 32) : (x.extractLsb' 0 5).toNat = x.toNat % 32 := by simp

theorem shl_low5 (x y : BitVec 32) : BitVec.ofNat 32 (x.toNat * 2 ^ (y.toNat % 32)) = shl x (y.extractLsb' 0 5).toNat := by
  rw [low5_toNat, ofNat_mul_two_pow]

theorem shr_low5 (x y : BitVec 32) : BitVec.ofNat 32 (x.toNat / 2 ^ (y.toNat % 32)) = shr x (y.extractLsb' 0 5).toNat := by
  rw [low5_toNat, ofNat_div_two_pow]

theorem sar_low5 (x y : BitVec 32) : BitVec.ofInt 32 (x.toInt / 2 ^ (y.toNat % 32)) = sar x (y.extractLsb' 0 5).toNat := by
  rw [low5_toNat, ofInt_div_two_pow]

/-! Saturation (R5) -/

theorem sat_eq_clamp {z lo hi : Int} (hrange : lo ≤ hi) : sat z lo hi = max lo (min hi z) := by
  unfold sat
  split
  next => omega
  next => split <;> omega

theorem clamped_satLane {z lo hi : Int} (hrange : lo ≤ hi) : Clamped z lo hi (satLane z lo hi).1 (satLane z lo hi).2 := by
  refine ⟨congrArg (BitVec.ofInt 32) (sat_eq_clamp hrange), ?_⟩
  by_cases hin : lo ≤ z ∧ z ≤ hi
  · rw [if_pos hin, satLane, if_neg (by omega)]
  · rw [if_neg hin, satLane, if_pos (by omega)]

theorem clamped_satS (z : Int) : Clamped z (-2147483648) 2147483647 (satS z).1 (satS z).2 := clamped_satLane (by decide)
theorem clamped_satU (z : Int) : Clamped z 0 4294967295 (satU z).1 (satU z).2 := clamped_satLane (by decide)

/-! Integer lanes (R276, R278) -/

theorem addLane_meets (m : BitVec 4) (f : Int → Int → Int) (x y : BitVec 32) :
    let r := addLane m f x y
    if m = 0 then Exactly (.ofInt 32 (f x.toInt y.toInt)) r.1 r.2
    else if m = 1 then Clamped (f x.toInt y.toInt) (-2147483648) 2147483647 r.1 r.2 else Clamped (f x.toNat y.toNat) 0 4294967295 r.1 r.2 := by
  unfold addLane
  split
  next hmode =>
    obtain rfl : m = 0 := BitVec.eq_of_toNat_eq hmode
    exact ⟨rfl, rfl⟩
  next hmode =>
    obtain rfl : m = 1 := BitVec.eq_of_toNat_eq hmode
    exact clamped_satS _
  next hzero hone =>
    simp only [if_neg fun h : m = 0 => hzero (congrArg BitVec.toNat h), if_neg fun h : m = 1 => hone (congrArg BitVec.toNat h)]
    exact clamped_satU _

theorem mulLane_meets (m : BitVec 4) (x y : BitVec 32) :
    let r := mulLane m x y
    if m = 0 then Exactly (.ofNat 32 (x.toNat * y.toNat)) r.1 r.2
    else if m = 1 then Exactly (.ofInt 32 (x.toInt * y.toInt / 2 ^ 32)) r.1 r.2
    else if m = 2 then Exactly (.ofNat 32 (x.toNat * y.toNat / 2 ^ 32)) r.1 r.2
    else Clamped (x.toInt * y.toInt) (-2147483648) 2147483647 r.1 r.2 := by
  unfold mulLane
  split
  next hmode =>
    obtain rfl : m = 0 := BitVec.eq_of_toNat_eq hmode
    exact ⟨(ofNat_mul_toNat x y).symm, rfl⟩
  next hmode =>
    obtain rfl : m = 1 := BitVec.eq_of_toNat_eq hmode
    exact ⟨rfl, rfl⟩
  next hmode =>
    obtain rfl : m = 2 := BitVec.eq_of_toNat_eq hmode
    exact ⟨rfl, rfl⟩
  next hzero hone htwo =>
    simp only [if_neg fun h : m = 0 => hzero (congrArg BitVec.toNat h), if_neg fun h : m = 1 => hone (congrArg BitVec.toNat h),
      if_neg fun h : m = 2 => htwo (congrArg BitVec.toNat h)]
    exact clamped_satS _

/-- A form that wraps under a condition, its mode, and else saturates. -/
theorem wraps_or_saturates {c : Prop} [Decidable c] {v x : BitVec 32} {z : Int} (hvalue : v = x) :
    let r : LaneRes := if c then (x, []) else satS z
    if c then Exactly v r.1 r.2 else Clamped z (-2147483648) 2147483647 r.1 r.2 := by
  by_cases hc : c
  · simp only [if_pos hc]
    exact ⟨hvalue.symm, rfl⟩
  · simp only [if_neg hc]
    exact clamped_satS _

theorem dotLane_meets (m : BitVec 4) (x y z : BitVec 32) :
    let r := dotLane m x y z
    let byte (w : BitVec 32) (u : Bool) (j : Nat) : Int := if u then (w.extractLsb' (8 * j) 8).toNat else (w.extractLsb' (8 * j) 8).toInt
    let term (j : Nat) : Int := byte x (m.getLsbD 0) j * byte y (m.getLsbD 1) j
    let sum := z.toInt + term 0 + term 1 + term 2 + term 3
    if m.getLsbD 2 then Clamped sum (-2147483648) 2147483647 r.1 r.2 else Exactly (.ofInt 32 sum) r.1 r.2 := by
  intro r byte term sum
  have hlane : r = if m.getLsbD 2 then satS sum else (.ofInt 32 sum, []) := rfl
  rw [hlane]
  cases m.getLsbD 2 with
  | true => exact clamped_satS sum
  | false => exact ⟨rfl, rfl⟩

/-- A form that neither saturates nor notes anything. -/
theorem elementwise_of_plain {i : Instr} {op : BitVec 8} {h : VHead} {d : Operand} {srcs : List Operand} {f v : BitVec 32 → BitVec 32 → BitVec 32}
    (hvalue : ∀ x y, v x y = f x y) (hexec : ∀ s, exec i s = elementwise op h d srcs (plainLane f) s) :
    Elementwise i op h d srcs fun x y _ => Exactly (v x y) :=
  elementwise_of_lane (fun x y _ => ⟨(hvalue x y).symm, rfl⟩) hexec

theorem clzLane_meets (x : BitVec 32) : ∃ n ≤ 32, (∀ i < n, x.getMsbD i = false) ∧ (n < 32 → x.getMsbD n = true) ∧
    BitVec.ofNat 32 (leadingZeros x) = .ofNat 32 n := by
  obtain ⟨hle, hzero, hone⟩ := leadingZeros_meets x
  exact ⟨_, hle, hzero, hone, rfl⟩

/-- Settles O39: each form is element-wise, its lane the exact arithmetic of its row, wrapped or clamped. -/
theorem vectorIntegers : Obligations.VectorIntegers := by
  refine ⟨?binary, ?unary, fun h d a b c => ?imad, fun h d a b c => ?dot8⟩
  case binary =>
    simp only [List.forall_mem_cons]
    exact ⟨fun h d a b => elementwise_of_lane (fun x y _ => addLane_meets h.mod (· + ·) x y) fun _ => rfl,
      fun h d a b => elementwise_of_lane (fun x y _ => addLane_meets h.mod (· - ·) x y) fun _ => rfl,
      fun h d a b => elementwise_of_lane (fun x y _ => mulLane_meets h.mod x y) fun _ => rfl,
      fun h d a b => elementwise_of_plain ofInt_min_toInt fun _ => rfl, fun h d a b => elementwise_of_plain ofInt_max_toInt fun _ => rfl,
      fun h d a b => elementwise_of_plain ofNat_min_toNat fun _ => rfl, fun h d a b => elementwise_of_plain ofNat_max_toNat fun _ => rfl,
      fun h d a b => elementwise_of_plain shl_low5 fun _ => rfl, fun h d a b => elementwise_of_plain shr_low5 fun _ => rfl,
      fun h d a b => elementwise_of_plain sar_low5 fun _ => rfl, fun h d a b => elementwise_of_plain (fun _ _ => rfl) fun _ => rfl,
      fun h d a b => elementwise_of_plain (fun _ _ => rfl) fun _ => rfl, fun h d a b => elementwise_of_plain (fun _ _ => rfl) fun _ => rfl,
      fun h d a b => elementwise_of_plain (fun _ _ => rfl) fun _ => rfl, List.forall_mem_nil _⟩
  case unary =>
    simp only [List.forall_mem_cons]
    exact ⟨fun h d a => elementwise_of_lane (fun x _ _ => wraps_or_saturates (BitVec.ofInt_natCast ..).symm) fun _ => rfl,
      fun h d a => elementwise_of_plain (v := fun x _ => ~~~x) (fun _ _ => rfl) fun _ => rfl,
      fun h d a => elementwise_of_plain (v := fun x _ => .ofNat 32 ((List.range 32).countP fun i => x.getLsbD i))
        (fun x _ => congrArg (BitVec.ofNat 32) (popCount_eq_countP x).symm) fun _ => rfl,
      fun h d a => elementwise_of_lane (fun x _ _ => ⟨rfl, clzLane_meets x⟩) fun _ => rfl,
      fun h d a => elementwise_of_plain (v := fun x _ => x) (fun _ _ => rfl) fun _ => rfl, List.forall_mem_nil _⟩
  case imad => exact elementwise_of_lane (fun x y z => wraps_or_saturates (ofInt_mul_add_toInt x y z)) fun _ => rfl
  case dot8 => exact elementwise_of_lane (dotLane_meets h.mod) fun _ => rfl

end Sys2Proof.Machine
end

section
/-!
Proofs for the statements on the vector engine: floating-point entries.
-/
namespace Sys2Proof.Machine

/-! Records of a floating-point result (R103) -/

/-- A result posts a record of a kind. -/
def FpRes.Posts (z : FpRes) (k : Nat) : Prop := (k = 1 ∧ z.invalid = true) ∨ (k = 2 ∧ z.overflow = true) ∨ (k = 3 ∧ z.divzero = true)

theorem mem_resNotes {z : FpRes} {k : Nat} {e m : Bool} : (k, e) ∈ resNotes z m ↔ e = m ∧ z.Posts k := by
  simp only [resNotes, List.mem_append, List.mem_ite_nil_right, List.mem_singleton, Prod.mk.injEq, FpRes.Posts]
  tauto

/-- The records of the two elements of a packed lane, element 1 marked. -/
theorem mem_resNotes_pair {y : Nat → FpRes} {k : Nat} {e : Bool} :
    (k, e) ∈ resNotes (y 0) false ++ resNotes (y 1) true ↔ (y (if e then 1 else 0)).Posts k := by
  rw [List.mem_append, mem_resNotes, mem_resNotes]
  cases e <;> simp

/-! Element operations (R265) -/

/-- Element i of a packed lane, in its encoding. -/
def halfOf (x : BitVec 32) (i : Nat) : Nat := (x.extractLsb' (16 * i) 16).toNat

theorem halfOf_lt (x : BitVec 32) (i : Nat) : halfOf x i < 2 ^ 16 := (x.extractLsb' (16 * i) 16).isLt

theorem half_of_append (x y : BitVec 16) {i : Nat} (hi : i < 2) : (y ++ x : BitVec 32).extractLsb' (16 * i) 16 = if i = 0 then x else y := by
  obtain rfl | rfl : i = 0 ∨ i = 1 := by omega
  · exact (ext_lo y x (by decide)).trans (ext_all x)
  · exact (ext_hi y x (by decide)).trans (ext_all y)

/-- The format of the elements of a packed lane, by mod[8:7]. -/
def packedFormat (mod : BitVec 4) : FpFormat := if mod.extractLsb' 2 2 = 1 then bf16 else fp16

theorem packedFormat_width (mod : BitVec 4) : (packedFormat mod).eb + (packedFormat mod).mb + 1 = 16 := by
  unfold packedFormat
  split <;> rfl

/-- What R265 says of a lane and its records: one FP32 operation, or one on each element of a packed pair. -/
def ElementsMeet (mod : BitVec 4) (f : FpFormat → Nat → Nat → Nat → FpRes) (p q r v : BitVec 32) (ns : List (Nat × Bool)) : Prop :=
  if mod.extractLsb' 2 2 = 0 then
    let z := f fp32 p.toNat q.toNat r.toNat
    v = .ofNat 32 z.bits ∧ ∀ k e, (k, e) ∈ ns ↔ e = false ∧ z.Posts k
  else
    let z (i : Nat) : FpRes := f (packedFormat mod) (halfOf p i) (halfOf q i) (halfOf r i)
    (∀ i < 2, v.extractLsb' (16 * i) 16 = .ofNat 16 (z i).bits) ∧ ∀ k e, (k, e) ∈ ns ↔ (z (if e then 1 else 0)).Posts k

section
variable {mod : BitVec 4} (f : FpFormat → Nat → Nat → Nat → FpRes) (x y z : BitVec 32)

theorem fpLane_fp32 (htype : mod.extractLsb' 2 2 = 0) :
    let r := f fp32 x.toNat y.toNat z.toNat
    fpLane mod f x y z = (.ofNat 32 r.bits, resNotes r false) := by
  rw [fpLane, htype]
  rfl

theorem fpLane_packed (htype : mod.extractLsb' 2 2 ≠ 0) :
    let r (i : Nat) := f (packedFormat mod) (halfOf x i) (halfOf y i) (halfOf z i)
    fpLane mod f x y z = (BitVec.ofNat 16 (r 1).bits ++ BitVec.ofNat 16 (r 0).bits, resNotes (r 0) false ++ resNotes (r 1) true) := by
  unfold fpLane packedFormat
  generalize mod.extractLsb' 2 2 = type at htype
  match type with
  | 0#2 => exact absurd rfl htype
  | 1#2 | 2#2 | 3#2 => rfl

theorem fpLane_meets : ElementsMeet mod f x y z (fpLane mod f x y z).1 (fpLane mod f x y z).2 := by
  unfold ElementsMeet
  by_cases htype : mod.extractLsb' 2 2 = 0
  · rw [if_pos htype, fpLane_fp32 f x y z htype]
    exact ⟨rfl, fun k e => mem_resNotes⟩
  · rw [if_neg htype, fpLane_packed f x y z htype]
    refine ⟨fun i hi => ?_, fun k e => mem_resNotes_pair (y := fun i => f _ (halfOf x i) (halfOf y i) (halfOf z i))⟩
    rw [half_of_append _ _ hi]
    obtain rfl | rfl : i = 0 ∨ i = 1 := by omega
    · rfl
    · rfl

end

/-- Operations that agree on words of their format agree on lanes. -/
theorem elementsMeet_congr {f g : FpFormat → Nat → Nat → Nat → FpRes} {mod : BitVec 4} {x y z v : BitVec 32} {ns : List (Nat × Bool)}
    (hfg : ∀ (F : FpFormat) (x y z : Nat), x < 2 ^ (F.eb + F.mb + 1) → f F x y z = g F x y z) :
    ElementsMeet mod f x y z v ns ↔ ElementsMeet mod g x y z v ns := by
  have hhalf (i : Nat) : halfOf x i < 2 ^ ((packedFormat mod).eb + (packedFormat mod).mb + 1) := by
    rw [packedFormat_width]
    exact halfOf_lt x i
  simp only [ElementsMeet, hfg fp32 _ _ _ x.isLt, hfg _ _ _ _ (hhalf _)]

/-- An entry is element-wise by `fpLane` of an operation. -/
theorem elementwise_of_fpLane {i : Instr} {op : BitVec 8} {h : VHead} {d : Operand} {srcs : List Operand}
    {f : FpFormat → Nat → Nat → Nat → FpRes} (hexec : ∀ s, exec i s = elementwise op h d srcs (fpLane h.mod f) s) : Elementwise i op h d srcs (ElementsMeet h.mod f) :=
  elementwise_of_lane (fpLane_meets f) hexec

/-! The sign of an element (R266) -/

/-- Adding the weight of the sign turns it, the carry out of the word lost. -/
theorem flip_sign {n x : Nat} (hx : x < 2 ^ (n + 1)) : (if 2 ^ n ≤ x then x - 2 ^ n else x + 2 ^ n) = (x + 2 ^ n) % 2 ^ (n + 1) := by
  rw [Nat.pow_succ] at hx ⊢
  split
  next h =>
    have hcarry : x + 2 ^ n = x - 2 ^ n + 2 ^ n * 2 := by omega
    rw [hcarry, Nat.add_mod_right, Nat.mod_eq_of_lt (by omega)]
  next h => rw [Nat.mod_eq_of_lt (by omega)]

theorem quiet_fpSign_flip (F : FpFormat) (x y z : Nat) (hx : x < 2 ^ (F.eb + F.mb + 1)) : quiet (fun F x _ => fpSign F true x) F x y z =
    ⟨if (fpDecode F x).isNan then F.nan else (x + 2 ^ (F.eb + F.mb)) % 2 ^ (F.eb + F.mb + 1), false, false, false⟩ := by
  rw [← flip_sign hx]
  rfl

theorem Elementwise.congr {i : Instr} {op : BitVec 8} {h : VHead} {d : Operand} {srcs : List Operand}
    {lane lane' : BitVec 32 → BitVec 32 → BitVec 32 → BitVec 32 → List (Nat × Bool) → Prop}
    (hentry : Elementwise i op h d srcs lane) (hlane : ∀ x y z v ns, lane x y z v ns ↔ lane' x y z v ns) : Elementwise i op h d srcs lane' := by
  have heq : lane = lane' := by
    funext x y z v ns
    exact propext (hlane x y z v ns)
  exact heq ▸ hentry

/-- Settles O37: each form is element-wise by `fpLane` of its operation; `fneg` turns the sign of a word, the others compute what their row says. -/
theorem vectorFloatingPoint : Obligations.VectorFloatingPoint := by
  intro x hx h d a b c
  change Elementwise (x.1 h d a b c) x.2.1 h d (x.2.2.1 a b c) (ElementsMeet h.mod (x.2.2.2 h.mod))
  revert x
  simp only [List.forall_mem_cons]
  exact ⟨elementwise_of_fpLane fun _ => rfl, elementwise_of_fpLane fun _ => rfl, elementwise_of_fpLane fun _ => rfl,
      elementwise_of_fpLane fun _ => rfl, elementwise_of_fpLane fun _ => rfl, elementwise_of_fpLane fun _ => rfl,
      elementwise_of_fpLane fun _ => rfl, elementwise_of_fpLane fun _ => rfl, elementwise_of_fpLane fun _ => rfl,
      (elementwise_of_fpLane fun _ => rfl).congr fun _ _ _ _ _ => elementsMeet_congr quiet_fpSign_flip,
      elementwise_of_fpLane fun _ => rfl, elementwise_of_fpLane fun _ => rfl, elementwise_of_fpLane fun _ => rfl,
      elementwise_of_fpLane fun _ => rfl, elementwise_of_fpLane fun _ => rfl, elementwise_of_fpLane fun _ => rfl,
      elementwise_of_fpLane fun _ => rfl, List.forall_mem_nil _⟩

end Sys2Proof.Machine
end

section
/-!
Proofs for the statements on the vector engine: conversions, scaled accumulation and requantisation.
-/
namespace Sys2Proof.Machine

/-! Conversions (R106, R270) -/

/-- The two elements of a packed lane, widened to FP32. -/
theorem widened_element (g : FpFormat) (x : BitVec 32) :
    BitVec.ofNat 32 (fpConvert g fp32 (x.extractLsb' 0 16).toNat).bits = .ofNat 32 (fpConvert g fp32 (x.toNat % 65536)).bits ∧
    BitVec.ofNat 32 (fpConvert g fp32 (x.extractLsb' 16 16).toNat).bits = .ofNat 32 (fpConvert g fp32 (x.toNat / 65536)).bits := by
  have hx := x.isLt
  have hhigh : x.toNat / 65536 % 65536 = x.toNat / 65536 := Nat.mod_eq_of_lt (by omega)
  rw [BitVec.extractLsb'_toNat, BitVec.extractLsb'_toNat, Nat.shiftRight_eq_div_pow, Nat.shiftRight_eq_div_pow, Nat.pow_zero, Nat.div_one, hhigh]
  exact ⟨rfl, rfl⟩

/-- The records of a conversion to an integer. -/
theorem mem_toIntNotes (r : Int × Bool × Bool) (n : Nat × Bool) :
    n ∈ (if r.2.1 then [(4, false)] else []) ++ (if r.2.2 then [(1, false)] else []) ↔
      (n = (4, false) ∧ r.2.1 = true) ∨ (n = (1, false) ∧ r.2.2 = true) := by
  simp only [List.mem_append, List.mem_ite_nil_right, List.mem_singleton, and_comm]

theorem execFcvt_of_single {h : VHead} (hmod : ¬(h.mod = 4#4 ∨ h.mod = 8#4)) (d a b : Operand) (s : State) :
    execFcvt h d a b s = elementwise 19 h d [a] (fun x y _ => convertLane h.mod x y) s := by rw [execFcvt, if_neg hmod]

theorem execFcvt_of_pair {h : VHead} (hmod : h.mod = 4#4 ∨ h.mod = 8#4) (d a b : Operand) (s : State) :
    execFcvt h d a b s = elementwise 19 h d [a, b] (fun x y _ => convertLane h.mod x y) s := by rw [execFcvt, if_pos hmod]

/-- Two FP32 lanes narrowed to the elements of one packed lane. -/
def narrowedPair (g : FpFormat) (x y : BitVec 32) : LaneRes :=
  let r (i : Nat) : FpRes := fpConvert fp32 g (if i = 1 then y.toNat else x.toNat)
  (BitVec.ofNat 16 (r 1).bits ++ BitVec.ofNat 16 (r 0).bits, resNotes (r 0) false ++ resNotes (r 1) true)

theorem mem_narrowedPair {g : FpFormat} {x y : BitVec 32} {k : Nat} {e : Bool} :
    (k, e) ∈ (narrowedPair g x y).2 ↔ (fpConvert fp32 g (if e then y.toNat else x.toNat)).Posts k := by
  refine (mem_resNotes_pair (y := fun i => fpConvert fp32 g (if i = 1 then y.toNat else x.toNat))).trans ?_
  cases e <;> exact Iff.rfl

/-! Scaled accumulation (R123, R271) -/

theorem EntryActs.mat {s : State} {srcs : List Operand} (hacts : EntryActs s srcs []) (m : Fin 4) (dir : Dir) (i : Fin 64) :
    EntryActs s srcs [.mat m dir i] :=
  hacts.imp_right fun ⟨hsrcs, _⟩ => ⟨hsrcs, List.forall_mem_singleton.mpr ⟨rfl, rfl⟩⟩

/-- A contribution rounded to FP32, and whether it has overflowed. -/
def scaledTerm (raw : Int) (w a : Nat) : Nat × Bool :=
  let kw := w / 256 % 4 + 1
  let ka := a / 256 % 4 + 1
  let sh : Int := (a % 256 : Nat) + (w % 256 : Nat) - 254 - (2 * ka - 1) - (2 * kw - 1)
  if raw = 0 then (0, false) else fpRound fp32 (decide (raw < 0)) raw.natAbs sh

/-- The accumulator with a contribution added. -/
def accumulated (acc term : Nat) : FpRes :=
  match fpDecode fp32 acc, fpDecode fp32 term with
  | .fin x _ _, .inf y => if x = y then fpAdd fp32 acc term else { bits := fp32.nan, invalid := true }
  | _, _ => fpAdd fp32 acc term

theorem scaleAcc_eq (acc raw w a : BitVec 32) : scaleAcc acc raw w a =
    let term := scaledTerm raw.toInt w.toNat a.toNat
    let z := accumulated acc.toNat term.1
    (.ofNat 32 z.bits, resNotes { z with overflow := z.overflow || term.2 } false) := by
  have hlow (x : BitVec 32) : (x.extractLsb' 0 8).toNat = x.toNat % 256 := by simp
  have hnext (x : BitVec 32) : (x.extractLsb' 8 2).toNat = x.toNat / 256 % 4 := by
    rw [BitVec.extractLsb'_toNat, Nat.shiftRight_eq_div_pow]
  have hzero : (raw = 0) = (raw.toInt = 0) := propext (BitVec.toInt_inj (y := 0)).symm
  simp only [scaleAcc, hlow, hnext, BitVec.msb_eq_toInt, hzero]
  rfl

/-! Requantisation (R272) -/

theorem requantise_meets (mod : BitVec 4) (x y z : BitVec 32) :
    let r := requantise mod x y z
    let u : FpVal := if mod.getLsbD 1 then .ofInt x.toInt else fpDecode fp32 x.toNat
    let lo : Int := if mod.getLsbD 0 then 0 else -128; let hi : Int := if mod.getLsbD 0 then 255 else 127
    match u.mul (fpDecode fp32 y.toNat) with
    | .nan => r.1 = .ofInt 32 (max lo (min hi z.toInt)) ∧
      ∀ n, n ∈ r.2 ↔ n = (1, false) ∨ (n = (4, false) ∧ ¬(lo ≤ z.toInt ∧ z.toInt ≤ hi))
    | .inf neg => r.1 = .ofInt 32 (if neg then lo else hi) ∧ r.2 = [(4, false)]
    | .fin n m e => Clamped (fpToInt n m e + z.toInt) lo hi r.1 r.2 := by
  intro r u lo hi
  have hrange : lo ≤ hi := by
    simp only [lo, hi]
    split <;> decide
  have hr : r = match u.mul (fpDecode fp32 y.toNat) with
    | .nan => ((satLane z.toInt lo hi).1, (1, false) :: (satLane z.toInt lo hi).2)
    | .inf neg => (.ofInt 32 (if neg then lo else hi), [(4, false)])
    | .fin n m e => satLane (fpToInt n m e + z.toInt) lo hi := rfl
  clear_value r
  subst hr
  cases u.mul (fpDecode fp32 y.toNat) with
  | nan =>
    obtain ⟨hvalue, hnotes⟩ := clamped_satLane (z := z.toInt) hrange
    refine ⟨hvalue, fun n => ?_⟩
    simp only [hnotes, List.mem_cons, List.mem_ite_nil_left, List.not_mem_nil, or_false, and_comm]
  | inf neg => exact ⟨rfl, rfl⟩
  | fin n m e => exact clamped_satLane hrange

/-- Settles O38: conversions by `convertLane` of their mode, scaled accumulation by `scaleAcc`, requantisation by `requantise`. -/
theorem vectorConversions : Obligations.VectorConversions := by
  refine ⟨fun x hx h d a b hmod => ?single, fun x hx h d a b hmod => ?pair, fun h m dir i a b c s hacts => ?scacc, fun h d a b c => ?qnt⟩
  case single =>
    obtain ⟨hsingle, hlane⟩ : ¬(x.1 = 4#4 ∨ x.1 = 8#4) ∧ ∀ p q, x.2 p q (convertLane x.1 p q).1 (convertLane x.1 p q).2 := by
      clear hmod
      revert x
      simp only [List.forall_mem_cons]
      exact ⟨⟨by decide, fun _ _ => ⟨rfl, mem_toIntNotes _⟩⟩, ⟨by decide, fun _ _ => ⟨rfl, mem_toIntNotes _⟩⟩,
        ⟨by decide, fun _ _ => ⟨rfl, rfl⟩⟩, ⟨by decide, fun _ _ => ⟨rfl, rfl⟩⟩,
        ⟨by decide, fun p _ => ⟨(widened_element bf16 p).1, rfl⟩⟩, ⟨by decide, fun p _ => ⟨(widened_element bf16 p).2, rfl⟩⟩,
        ⟨by decide, fun p _ => ⟨(widened_element fp16 p).1, rfl⟩⟩, ⟨by decide, fun p _ => ⟨(widened_element fp16 p).2, rfl⟩⟩,
        List.forall_mem_nil _⟩
    rw [← hmod] at hsingle hlane
    exact elementwise_of_lane (fun p q _ => hlane p q) (execFcvt_of_single hsingle d a b)
  case pair =>
    obtain ⟨hpair, hlane⟩ : (x.1 = 4#4 ∨ x.1 = 8#4) ∧ ∀ p q, convertLane x.1 p q = narrowedPair x.2 p q := by
      clear hmod
      revert x
      simp only [List.forall_mem_cons]
      exact ⟨⟨.inl rfl, fun _ _ => rfl⟩, ⟨.inr rfl, fun _ _ => rfl⟩, List.forall_mem_nil _⟩
    rw [← hmod] at hpair hlane
    refine elementwise_of_lane (fun p q _ => ?_) (execFcvt_of_pair hpair d a b)
    rw [hlane]
    exact ⟨rfl, fun k e => mem_narrowedPair⟩
  case scacc =>
    change Completes (execScacc h (.mat m dir i) a b c s) _
    have hapart : PortsApart [a, b, c] (.mat m dir i) := fun _ h => Operand.noConfusion h
    refine (gatherEntry_of_acts (hacts.mat m dir i) hapart).imp fun t ⟨v, notes, hv, ht⟩ => ⟨v, notes, fun l => ?_, ht⟩
    obtain ⟨hvalue, hnotes⟩ := hv l
    rw [scaleAcc_eq] at hvalue hnotes
    refine ⟨hvalue, fun k e => (hnotes k e).trans ?_⟩
    rw [mem_resNotes]
    exact and_left_comm
  case qnt => exact elementwise_of_lane (requantise_meets h.mod) fun _ => rfl

end Sys2Proof.Machine
end

section
/-!
Proofs for the statements on the matrix engine: nests, swaps and commands that the M slot and matrix entries give to the tiles.
-/
namespace Sys2Proof.Machine

/-! The tiles of several groups (R297) -/

/-- Steps on the groups of a list, each a change of the core whose instruction runs. -/
theorem foldl_modMe {step : State → GroupId → State} {f : GroupId → Body → Body} {s : State}
    (hstep : ∀ h g, step (s.modMe h) g = (s.modMe h).modMe (f g)) (gs : List GroupId) :
    gs.foldl step s = s.modMe fun b => gs.foldl (fun b g => f g b) b := by
  suffices hmoved : ∀ h, gs.foldl step (s.modMe h) = s.modMe fun b => gs.foldl (fun b g => f g b) (h b) by
    simpa only [State.modMe_id (f := id) rfl, id_eq] using hmoved id
  induction gs with
  | nil => exact fun h => rfl
  | cons g gs ih =>
    intro h
    rw [List.foldl_cons, hstep, State.modMe_modMe, ih]
    rfl

/-- The tiles of a list of groups, each changed by the function of its group. -/
def Body.changeTiles (b : Body) (gs : List GroupId) (f : GroupId → Tile → Tile) : Body :=
  { b with groups := gs.foldl (fun v g => Vec.modify v g fun k => { k with tile := f g k.tile }) b.groups }

theorem Body.changeTiles_group (b : Body) (f : GroupId → Tile → Tile) {gs : List GroupId} (hgs : gs.Nodup) (g : GroupId) :
    (b.changeTiles gs f).groups[g] = if g ∈ gs then { b.groups[g] with tile := f g b.groups[g].tile } else b.groups[g] := by
  induction gs generalizing b with
  | nil => rfl
  | cons x gs ih =>
    obtain ⟨hx, hgs⟩ := List.nodup_cons.mp hgs
    refine (ih (b.modTile x (f x)) hgs).trans ?_
    by_cases hg : g = x
    · subst hg
      rw [if_neg hx, if_pos (List.mem_cons_self ..), Body.modTile, Vec.getElem_modify_same]
    · simp only [Body.modTile, Vec.getElem_modify_ne _ _ hg, List.mem_cons, hg, false_or]

/-- What is noted of each group beside its tile can be noted after all tiles are changed. -/
theorem Body.foldl_modTile {note : Body → GroupId → Body} (hnote : ∀ b v g, note { b with groups := v } g = { note b g with groups := v })
    (f : GroupId → Tile → Tile) (gs : List GroupId) (b : Body) :
    gs.foldl (fun b g => note (b.modTile g (f g)) g) b = gs.foldl note (b.changeTiles gs f) := by
  induction gs generalizing b with
  | nil => rfl
  | cons g gs ih =>
    rw [List.foldl_cons, ih, List.foldl_cons]
    have htile : note (b.modTile g (f g)) g = { note b g with groups := (b.modTile g (f g)).groups } := hnote ..
    have htiles : note (b.changeTiles (g :: gs) f) g = { note b g with groups := (b.changeTiles (g :: gs) f).groups } := hnote ..
    rw [htile, htiles]
    rfl

theorem Body.foldl_modTile_bare (f : GroupId → Tile → Tile) (gs : List GroupId) (b : Body) :
    gs.foldl (fun b g => b.modTile g (f g)) b = b.changeTiles gs f :=
  (Body.foldl_modTile (note := fun b _ => b) (fun _ _ _ => rfl) f gs b).trans (List.foldl_fixed _)

theorem Body.journalTile_withGroups (lines : List Nat) (b : Body) (v : Vector Group 24) (g : GroupId) :
    ({ b with groups := v } : Body).journalTile g lines = { b.journalTile g lines with groups := v } := by
  unfold Body.journalTile
  dsimp only
  split <;> rfl

theorem Body.journalTile_frame (b : Body) (g : GroupId) (lines : List Nat) :
    b.journalTile g lines = { b with tileLines := (b.journalTile g lines).tileLines } := by
  unfold Body.journalTile
  split <;> rfl

theorem Body.foldl_journalTile_frame (lines : List Nat) (gs : List GroupId) (b : Body) :
    gs.foldl (fun b g => b.journalTile g lines) b =
      { b with tileLines := (gs.foldl (fun b g => b.journalTile g lines) b).tileLines } := by
  induction gs generalizing b with
  | nil => rfl
  | cons g gs ih =>
    rw [List.foldl_cons, ih, b.journalTile_frame g lines]

theorem nodup_groupsOf (mask : BitVec 24) : (groupsOf mask).Nodup := (List.nodup_finRange 24).filter _

/-! Configuration of nests, swaps and stops (R302, R304-R307) -/

/-- Tiles of the groups of a mask are changed alike, and what is noted of each follows. -/
theorem changesGroups_noted {s t : State} {mask : BitVec 64} {f : Tile → Tile} {note : Body → GroupId → Body}
    (hnote : ∀ b v g, note { b with groups := v } g = { note b g with groups := v })
    (ht : t = s.modMe fun b => (groupsOf (mask.setWidth 24)).foldl (fun b g => note (b.modTile g f) g) b) :
    ∃ u, ChangesGroups s u mask (fun k => { k with tile := f k.tile }) ∧ Becomes u t fun b => (groupsOf (mask.setWidth 24)).foldl note b := by
  simp only [Body.foldl_modTile hnote fun _ => f] at ht
  refine ⟨s.modMe fun b => b.changeTiles (groupsOf (mask.setWidth 24)) fun _ => f, changesGroups_modMe s mask _, ?_⟩
  rw [ht]
  have hafter := State.modMe_modMe s (fun b => b.changeTiles (groupsOf (mask.setWidth 24)) fun _ => f)
    fun b => (groupsOf (mask.setWidth 24)).foldl note b
  exact hafter ▸ becomes_modMe ..

theorem State.setNest_eq (s : State) (g : GroupId) (f : Nest → Nest) :
    s.setNest g f = s.modMe fun b => (b.modTile g fun k => { k with shadowNest := f k.shadowNest }).journalTile g nestLines :=
  State.modMe_modMe s (·.modTile g fun k => { k with shadowNest := f k.shadowNest }) (·.journalTile g nestLines)

/-- The shadow nests of the groups of a mask, each changed line noted. -/
theorem changesGroups_setNest {s : State} {f : State → Nest → Nest} (hf : ∀ h, f (s.modMe h) = f s) (mask : BitVec 64) :
    ∃ u, ChangesGroups s u mask (fun k => { k with tile := { k.tile with shadowNest := f s k.tile.shadowNest } }) ∧
      Becomes u ((groupsOf (mask.setWidth 24)).foldl (fun t g => t.setNest g (f t)) s)
        fun b => (groupsOf (mask.setWidth 24)).foldl (fun b g => b.journalTile g nestLines) b :=
  changesGroups_noted (f := fun k => { k with shadowNest := f s k.shadowNest }) (Body.journalTile_withGroups nestLines)
    (foldl_modMe (fun h _ => by rw [hf h, State.setNest_eq]) _)

/-- The stores of a tile that exchanges them where a swap is asked are noted. -/
def Body.noteSwap (old b : Body) (g : GroupId) : Body := if old.groups[g].tile.askSwap.settles then b.journalTile g storeLines else b

theorem Body.noteSwap_withGroups (old b : Body) (v : Vector Group 24) (g : GroupId) :
    old.noteSwap { b with groups := v } g = { old.noteSwap b g with groups := v } := by
  unfold Body.noteSwap
  split
  · exact Body.journalTile_withGroups ..
  · rfl

theorem Body.modTile_modTile (b : Body) (g : GroupId) (f h : Tile → Tile) : (b.modTile g f).modTile g h = b.modTile g (h ∘ f) := by
  simp only [Body.modTile, Vec.modify_modify, Function.comp_def]

theorem Body.settleTile_askSwap {old b : Body} {g : GroupId} (hsame : b.groups[g] = old.groups[g]) :
    (b.modTile g Tile.askSwap).settleTile g = old.noteSwap (b.modTile g (Tile.settle ∘ Tile.askSwap)) g := by
  have htile : (b.modTile g Tile.askSwap).groups[g].tile = old.groups[g].tile.askSwap := by
    rw [Body.modTile, Vec.getElem_modify_same, hsame]
  rw [Body.settleTile, Body.swapTile, htile, Body.modTile_modTile, Body.noteSwap]

theorem Body.noteSwap_groups (old b : Body) (g : GroupId) : (old.noteSwap b g).groups = b.groups := by
  unfold Body.noteSwap
  split
  · rw [Body.journalTile_frame]
  · rfl

theorem Body.foldl_askSwap (old : Body) {gs : List GroupId} (hgs : gs.Nodup) {b : Body} (hsame : ∀ g ∈ gs, b.groups[g] = old.groups[g]) :
    gs.foldl (fun b g => (b.modTile g Tile.askSwap).settleTile g) b =
      gs.foldl (fun b g => old.noteSwap (b.modTile g (Tile.settle ∘ Tile.askSwap)) g) b := by
  induction gs generalizing b with
  | nil => rfl
  | cons g gs ih =>
    obtain ⟨hg, hgs⟩ := List.nodup_cons.mp hgs
    rw [List.foldl_cons, List.foldl_cons, Body.settleTile_askSwap (hsame g (List.mem_cons_self ..))]
    refine ih hgs fun x hx => ?_
    rw [Body.noteSwap_groups, Body.modTile, Vec.getElem_modify_ne _ _ (ne_of_mem_of_not_mem hx hg)]
    exact hsame x (List.mem_cons_of_mem _ hx)

/-- A swap asked of the groups of a mask. -/
theorem changesGroups_askSwap (s : State) (mask : BitVec 64) :
    ∃ u, ChangesGroups s u mask (fun k => { k with tile := k.tile.askSwap.settle }) ∧
      Becomes u ((groupsOf (mask.setWidth 24)).foldl (fun s g => (s.modTile g Tile.askSwap).modMe (·.settleTile g)) s)
        fun b => (groupsOf (mask.setWidth 24)).foldl s.me.noteSwap b := by
  refine changesGroups_noted (f := Tile.settle ∘ Tile.askSwap) s.me.noteSwap_withGroups ?_
  rw [foldl_modMe fun h g => State.modMe_modMe (s.modMe h) (·.modTile g Tile.askSwap) (·.settleTile g)]
  exact State.modBody_congr (Body.foldl_askSwap s.me (nodup_groupsOf _) fun _ _ => rfl)

section
variable {s : State} {q : Qual} {a b : Reg} (hacts : s.acts q = true)
include hacts

theorem execMxcfg_of_good {w : Fin 8} (hw : nestWordOk w (s.rg a) = true) :
    execMxcfg q a b w s = .next ((groupsOf ((s.rg b).setWidth 24)).foldl (fun t g => t.setNest g fun n => n.set w (t.rg a)) s) := by
  rw [execMxcfg, if_pos hacts, if_pos hw, lowMask_eq]

theorem execMxcfg_of_bad {w : Fin 8} (hw : nestWordOk w (s.rg a) = false) : execMxcfg q a b w s = .next (s.raise .illegalOp) := by
  rw [execMxcfg, if_pos hacts, hw, if_neg Bool.false_ne_true]

theorem execMxrd_of_group {g : GroupId} {sel : Fin 4} (hg : (s.rg b).toNat = g.val) (hsel : sel.val < 3) :
    execMxrd q a b sel s = .next (s.wg a (s.pre.groups[g].tile.status sel.val) 2) := by
  simp only [execMxrd, if_pos hacts, if_neg hsel.ne, hg, dif_pos g.isLt, Fin.getElem_fin]

theorem execMxrd_of_bad {sel : Fin 4} (hbad : 24 ≤ (s.rg b).toNat ∨ sel.val = 3) : execMxrd q a b sel s = .next (s.raise .illegalOp) := by
  rw [execMxrd, if_pos hacts]
  split
  · rfl
  · next hsel => rw [dif_neg (not_lt.mpr (hbad.resolve_right hsel))]

theorem execMxmode_of_acts (mode : Fin 4) (pin : Bool) :
    execMxmode q a mode pin s = .next ((groupsOf ((s.rg a).setWidth 24)).foldl (fun t g => t.setNest g fun n => n.set 0 (setMode n[0] mode pin)) s) := by
  rw [execMxmode, if_pos hacts, lowMask_eq]

theorem execMxtab_of_good {n : Nest} (hn : n = Vec.ofFn fun w => BitVec.ofNat 64 (s.descriptor a / 2 ^ (64 * w.val)))
    (haligned : (s.rg a).toNat % 64 = 0) (hinside : (s.rg a).toNat ≤ 0x1FFFC0) (hgood : ∀ w : Fin 8, nestWordOk w n[w] = true) :
    execMxtab q a b s = .next ((groupsOf ((s.rg b).setWidth 24)).foldl (fun t g => t.setNest g fun _ => n) s) := by
  subst hn
  have hall : (List.finRange 8).all (fun w => nestWordOk w (Vec.ofFn fun w : Fin 8 => BitVec.ofNat 64 (s.descriptor a / 2 ^ (64 * w.val)))[w]) = true :=
    List.all_eq_true.mpr fun w _ => hgood w
  rw [execMxtab, if_pos hacts, withDescriptor_of_inside haligned hinside]
  dsimp only
  rw [if_pos hall, lowMask_eq]

theorem execMxswap_of_acts :
    execMxswap q a s = .next ((groupsOf ((s.rg a).setWidth 24)).foldl (fun t g => (t.modTile g Tile.askSwap).modMe (·.settleTile g)) s) := by
  rw [execMxswap, if_pos hacts, lowMask_eq]

theorem execMxstop_of_acts : execMxstop q a s = .next (s.modMe fun b => b.changeGroups (groupsOf ((s.rg a).setWidth 24)) fun k =>
    { k with tile := { k.tile with run := k.tile.run.map fun r => { r with stopReq := true } } }) := by
  rw [execMxstop, if_pos hacts, lowMask_eq]
  exact congrArg Host.Outcome.next (foldl_modGroup (fun _ k =>
    { k with tile := { k.tile with run := k.tile.run.map fun r => { r with stopReq := true } } }) _ s)

end

/-- Settles O23: each form changes the tiles of a mask alike and notes their lines, reads one tile, or raises. -/
theorem nestConfiguration : Obligations.NestConfiguration := by
  intro s q a b hacts sets asked
  exact ⟨fun w hw => ⟨_, execMxcfg_of_good hacts hw, changesGroups_setNest (f := fun t n => n.set w (t.rg a)) (fun _ => rfl) _⟩,
    fun mode pin => ⟨_, execMxmode_of_acts hacts mode pin, changesGroups_setNest (f := fun _ n => n.set 0 (setMode n[0] mode pin)) (fun _ => rfl) _⟩,
    fun haligned hinside hgood => ⟨_, execMxtab_of_good hacts rfl haligned hinside hgood, changesGroups_setNest (f := fun _ _ => _) (fun _ => rfl) _⟩,
    ⟨_, execMxswap_of_acts hacts, changesGroups_askSwap s _⟩,
    ⟨_, execMxstop_of_acts hacts, changesGroups_modMe ..⟩,
    fun g sel hg hsel => ⟨_, execMxrd_of_group hacts hg hsel, writesG_wg ..⟩,
    fun htrap hslot => ⟨fun w hw => ⟨_, execMxcfg_of_bad hacts hw, State.raise_of_control htrap hslot _ _⟩,
      fun sel hbad => ⟨_, execMxrd_of_bad hacts hbad, State.raise_of_control htrap hslot _ _⟩⟩⟩

end Sys2Proof.Machine
end

section
/-!
Proofs for the statements on the commands of the matrix engine: loads and nests that the M slot and matrix entries start.
-/
namespace Sys2Proof.Machine

/-! Commands recorded by the hazard unit (R142, R293) -/

/-- A command of the matrix engine that the instruction under way starts. -/
def State.tileCommand (s : State) (tok : Option (Fin 16)) (reads writes : List Range) (running : Bool := true) : Command :=
  ⟨s.me.nextCommand, 3, tok, s.cur.hdr, reads, writes, [], running, false, s.issueNo, s.src true⟩

/-- A command recorded as incomplete. -/
def Body.track (b : Body) (c : Command) : Body := { b with nextCommand := c.id + 1, commands := b.commands ++ [c] }

theorem State.addCommand_eq (s : State) (tok : Option (Fin 16)) (reads writes : List Range) (running : Bool) :
    s.addCommand 3 tok reads writes (running := running) = (s.me.nextCommand, s.modMe (·.track (s.tileCommand tok reads writes running))) := rfl

/-- A nest as an instruction starts it (R289). -/
def State.startedRun (s : State) (id : Nat) (n : Nest) (split : BitVec 6) (entry : Bool) : NestRun :=
  { nest := n, split, command := id, phase := .start (s.cycle + 1), entry, baddr := s.cur.hdr, issued := s.cycle, v1 := s.cur.slot == .v1
    src := s.src true }
def Tile.start (t : Tile) (r : NestRun) : Tile := { t with activeNest := r.nest, passes := 0, run := some r }

theorem State.startNest_eq (s : State) (g : GroupId) (id : Nat) (n : Nest) (split : BitVec 6) (entry : Bool) :
    s.startNest g id n split entry = s.modMe fun b => (b.modTile g (·.start (s.startedRun id n split entry))).journalTile g nestLines :=
  State.modMe_modMe s (·.modTile g (·.start (s.startedRun id n split entry))) (·.journalTile g nestLines)

theorem State.foldl_startNest (s : State) (h : Body → Body) (gs : List GroupId) (id : Nat) (n : GroupId → Nest) (split : BitVec 6) (entry : Bool) :
    gs.foldl (fun t g => t.startNest g id (n g) split entry) (s.modMe h) = s.modMe fun b => gs.foldl (fun b g => b.journalTile g nestLines)
      ((h b).changeTiles gs fun g t => t.start (s.startedRun id (n g) split entry)) := by
  have hstep (k : Body → Body) (g : GroupId) : ((s.modMe h).modMe k).startNest g id (n g) split entry = ((s.modMe h).modMe k).modMe fun b =>
      (b.modTile g (·.start (s.startedRun id (n g) split entry))).journalTile g nestLines := State.startNest_eq ..
  rw [foldl_modMe hstep, State.modMe_modMe]
  exact congrArg s.modMe (funext fun b =>
    Body.foldl_modTile (note := fun b g => b.journalTile g nestLines) (Body.journalTile_withGroups nestLines) _ gs (h b))

/-- A load as an instruction starts it (R284). -/
def State.startedLoad (s : State) (id base : Nat) (kw : Fin 4) (ph : Bool) : ShadowLoad := ⟨s.cycle, id, base, kw, ph, []⟩

theorem State.startLoad_eq (s : State) (g : GroupId) (id base : Nat) (kw : Fin 4) (ph : Bool) :
    s.startLoad g id base kw ph = s.modMe fun b => b.modTile g fun t => { t with load := some (s.startedLoad id base kw ph) } := rfl

theorem State.foldl_startLoad (s : State) (h : Body → Body) (gs : List GroupId) (id base : Nat) (kw : Fin 4) (ph : Bool) :
    gs.foldl (fun t g => t.startLoad g id base kw ph) (s.modMe h) = s.modMe fun b =>
      (h b).changeTiles gs fun _ t => { t with load := some (s.startedLoad id base kw ph) } := by
  have hstep (k : Body → Body) (g : GroupId) : ((s.modMe h).modMe k).startLoad g id base kw ph = ((s.modMe h).modMe k).modMe fun b =>
      b.modTile g fun t => { t with load := some (s.startedLoad id base kw ph) } := State.startLoad_eq ..
  rw [foldl_modMe hstep, State.modMe_modMe]
  exact congrArg s.modMe (funext fun b => Body.foldl_modTile_bare _ gs (h b))

theorem issues_modMe {s : State} {c : Command} {f : Body → Body} {v : Vector Group 24} {lines : List (GroupId × Nat)}
    {keeps : Body → Body → Prop} (hid : c.id = s.me.nextCommand) (hf : f s.me = { s.me.track c with groups := v, tileLines := lines })
    (hkeeps : keeps (s.me.track c) { s.me.track c with groups := v, tileLines := lines }) : Issues s (s.modMe f) c keeps := by
  obtain ⟨hbytes, honly, hme⟩ := State.modMe_becomes (s := s) (f := f) (by rw [hf]; exact ⟨rfl, rfl, rfl, rfl⟩)
  have htrack : s.me.track c = { s.me with commands := s.me.commands ++ [c], nextCommand := s.me.nextCommand + 1 } := by
    rw [← hid]
    rfl
  unfold Issues
  rw [hme, hf]
  rw [htrack] at hkeeps ⊢
  exact ⟨hbytes, honly, rfl, rfl, hkeeps⟩

/-- A command recorded with its report. -/
theorem Body.report_track (b : Body) (c : Command) (cause : Cause) (addr : Int) : (b.track c).report c cause addr =
    { b with
      commands := b.commands ++ [c], nextCommand := c.id + 1
      reports := b.reports ++ [⟨cause, c.engine, c.tok, c.baddr, .ofInt 56 addr, 0, c.issued, none, false⟩] } := rfl

theorem State.report_frame (s : State) (c : Command) (cause : Cause) (addr : Int) :
    let t := s.modMe fun m => (m.track c).report c cause addr
    SameBytes s t ∧ OnlyBody s t s.cur.core ∧ t.me.groups = s.me.groups ∧
      t.me.reports = s.me.reports ++ [⟨cause, c.engine, c.tok, c.baddr, .ofInt 56 addr, 0, c.issued, none, false⟩] := by
  obtain ⟨hbytes, honly, hme⟩ := State.modMe_becomes (s := s) (f := fun m => (m.track c).report c cause addr)
    (by simp only [Body.report_track, and_self])
  have hafter := hme.trans (Body.report_track ..)
  exact ⟨hbytes, honly, by rw [hafter], by rw [hafter]⟩

theorem Body.command_track {b : Body} {c : Command} (hids : ∀ k ∈ b.commands, k.id < b.nextCommand) (hc : c.id = b.nextCommand) :
    (b.track c).command c.id = some c := by
  have hnone : b.commands.find? (·.id == c.id) = none :=
    List.find?_eq_none.mpr fun k hk => by simpa [hc] using (hids k hk).ne
  rw [Body.command, Body.track, List.find?_append, hnone]
  simp

/-! Loads and nests of the M slot (R303, R305) -/

theorem groupsOf_ne_nil {x : BitVec 64} (hsome : ∃ g : GroupId, x.getLsbD g.val = true) : (groupsOf (x.setWidth 24)).isEmpty = false := by
  obtain ⟨g, hg⟩ := hsome
  exact List.isEmpty_eq_false_iff.mpr (List.ne_nil_of_mem ((mem_groupsOf_low x g).mpr hg))

theorem groupsOf_low (x : BitVec 64) : groupsOf (x.setWidth 24) = (List.finRange 24).filter fun g => x.getLsbD g.val :=
  List.filter_congr fun g _ => by rw [BitVec.getLsbD_setWidth, decide_eq_true g.isLt, Bool.true_and]

theorem Body.changeTiles_masked (b : Body) (mask : BitVec 64) (f : GroupId → Tile → Tile) (g : GroupId) :
    (b.changeTiles (groupsOf (mask.setWidth 24)) f).groups[g] =
      if mask.getLsbD g.val then { b.groups[g] with tile := f g b.groups[g].tile } else b.groups[g] :=
  (b.changeTiles_group f (nodup_groupsOf _) g).trans (if_congr (mem_groupsOf_low mask g) rfl rfl)

/-- A load recorded and given to the tiles of a list of groups. -/
def Body.startLoads (b : Body) (c : Command) (gs : List GroupId) (l : ShadowLoad) : Body :=
  (b.track c).changeTiles gs fun _ t => { t with load := some l }

/-- A nest of each group of a list started under one command, its registers noted. -/
def Body.startNests (b : Body) (c : Command) (gs : List GroupId) (r : GroupId → NestRun) : Body :=
  gs.foldl (fun b g => b.journalTile g nestLines) ((b.track c).changeTiles gs fun g t => t.start (r g))

section
variable {s : State} {c : Command} {mask : BitVec 64} {keeps : Body → Body → Prop} (hid : c.id = s.me.nextCommand)
include hid

theorem issues_startLoads {l : ShadowLoad} (hkeeps : ∀ v : Vector Group 24, (∀ g : GroupId, v[g] = if mask.getLsbD g.val then
      { (s.me.track c).groups[g] with tile := { (s.me.track c).groups[g].tile with load := some l } } else (s.me.track c).groups[g]) →
      keeps (s.me.track c) { s.me.track c with groups := v }) :
    Issues s (s.modMe (·.startLoads c (groupsOf (mask.setWidth 24)) l)) c keeps :=
  issues_modMe hid rfl (hkeeps _ ((s.me.track c).changeTiles_masked mask fun _ t => { t with load := some l }))

theorem issues_startNests {r : GroupId → NestRun} (hkeeps : ∀ (v : Vector Group 24) lines, (∀ g : GroupId, v[g] = if mask.getLsbD g.val then
      { (s.me.track c).groups[g] with tile := (s.me.track c).groups[g].tile.start (r g) } else (s.me.track c).groups[g]) →
      keeps (s.me.track c) { s.me.track c with groups := v, tileLines := lines }) :
    Issues s (s.modMe (·.startNests c (groupsOf (mask.setWidth 24)) r)) c keeps :=
  issues_modMe hid (Body.foldl_journalTile_frame nestLines _ _) (hkeeps _ _ fun _ => Body.changeTiles_masked ..)

end

section
variable {s : State} {q : Qual} {a b : Reg} {tok : Fin 16} {kw : Fin 4} {ph : Bool} {split : BitVec 6} (hacts : s.acts q = true)
include hacts

theorem execMxlds_of_busy (hbusy : s.me.tokenBusy tok = true) : execMxlds q a b tok kw ph s = .next (s.raise .tokenMisuse) := by
  simp only [execMxlds, if_pos hacts, if_pos hbusy]

theorem execMxgo_of_busy (hbusy : s.me.tokenBusy tok = true) : execMxgo q a tok split s = .next (s.raise .tokenMisuse) := by
  simp only [execMxgo, if_pos hacts, if_pos hbusy]

section
variable (hfree : s.me.tokenBusy tok = false) (haligned : (s.rg a).toNat % 128 = 0) (hsome : ∃ g : GroupId, (s.rg b).getLsbD g.val = true)
include hfree haligned hsome

theorem execMxlds_of_free (hinside : (loadRange (s.rg a).toNat kw ph).hi ≤ 0x600000)
    (htakes : ∀ g : GroupId, (s.rg b).getLsbD g.val = true → s.me.groups[g].tile.takesLoad = true)
    (hhazard : s.hazardFree [loadRange (s.rg a).toNat kw ph] [] = true) :
    execMxlds q a b tok kw ph s = .next (s.modMe (·.startLoads (s.tileCommand (some tok) [loadRange (s.rg a).toNat kw ph] [])
      (groupsOf ((s.rg b).setWidth 24)) (s.startedLoad s.me.nextCommand (s.rg a).toNat kw ph))) := by
  have hbase : ¬ Space.wb.size ≤ (s.rg a).toNat := by
    have hhi : (loadRange (s.rg a).toNat kw ph).hi = (s.rg a).toNat + 128 + 1024 * ((if ph then 4 else 0) + kw.val + 1) := rfl
    have hsize : Space.wb.size = 0x600000 := rfl
    omega
  have hpast : ¬ (Space.wb.size : Int) < (loadRange (s.rg a).toNat kw ph).hi := not_lt.mpr hinside
  have hall : ((groupsOf ((s.rg b).setWidth 24)).any fun g => !s.me.groups[g].tile.takesLoad) = false :=
    List.any_eq_false.mpr fun g hg => by
      rw [htakes g ((mem_groupsOf_low _ g).mp hg)]
      exact Bool.false_ne_true
  simp only [execMxlds, if_pos hacts, hfree, haligned, lowMask_eq, groupsOf_ne_nil hsome, hall, hhazard, if_neg hbase, if_neg hpast,
    Bool.false_eq_true, ne_eq, not_true_eq_false, Bool.true_eq_false, or_self, if_false, State.addCommand_eq, State.foldl_startLoad]
  rfl

theorem execMxlds_of_past (hbase : (s.rg a).toNat < 0x600000) (hpast : 0x600000 < (loadRange (s.rg a).toNat kw ph).hi)
    (hroom : s.me.commands.length < 64) (hids : ∀ k ∈ s.me.commands, k.id < s.me.nextCommand) :
    let c := s.tileCommand (some tok) [loadRange (s.rg a).toNat kw ph] [] false
    execMxlds q a b tok kw ph s = .next (s.modMe fun m => (m.track c).report c .protection (s.rg a).toNat) := by
  intro c
  have hbase : ¬Space.wb.size ≤ (s.rg a).toNat := not_le.mpr hbase
  have hpast : (Space.wb.size : Int) < (loadRange (s.rg a).toNat kw ph).hi := hpast
  simp only [execMxlds, if_pos hacts, hfree, haligned, lowMask_eq, groupsOf_ne_nil hsome, if_neg hbase, if_pos hpast,
    Bool.false_eq_true, ne_eq, not_true_eq_false, if_false, if_neg (not_le.mpr hroom), State.addCommand_eq, State.modMe_modMe]
  have hfound : ((s.body s.cur.core).track c).command s.me.nextCommand = some c := Body.command_track hids rfl
  refine congrArg Host.Outcome.next (State.modBody_congr ?_)
  simp only [Function.comp_apply, c] at hfound ⊢
  rw [hfound]

end

/-- The ranges that a start on the groups of a mask names. -/
def State.startRanges (s : State) (mask : BitVec 64) : List (List Range × List Range) :=
  (groupsOf (mask.setWidth 24)).map fun g => s.pre.nestRanges s.pre.groups[g].tile.shadowNest g

theorem execMxgo_of_free {reads writes : List Range} (hfree : s.me.tokenBusy tok = false) (hsome : ∃ g : GroupId, (s.rg a).getLsbD g.val = true)
    (hidle : ∀ g : GroupId, (s.rg a).getLsbD g.val = true →
      s.me.groups[g].tile.busy = false ∧ startCause s.pre.groups[g].tile.shadowNest (some tok) = none)
    (hreads : reads = boundingRange .ab ((s.startRanges (s.rg a)).flatMap (·.1)) ++ boundingRange .acc ((s.startRanges (s.rg a)).flatMap (·.1)))
    (hwrites : writes = boundingRange .acc ((s.startRanges (s.rg a)).flatMap (·.2))) (hhazard : s.hazardFree reads writes = true) :
    execMxgo q a tok split s = .next (s.modMe (·.startNests (s.tileCommand (some tok) reads writes) (groupsOf ((s.rg a).setWidth 24))
      fun g => s.startedRun s.me.nextCommand s.pre.groups[g].tile.shadowNest split false)) := by
  have hcause : (groupsOf ((s.rg a).setWidth 24)).findSome? (fun g => startCause s.pre.groups[g].tile.shadowNest (some tok)) = none :=
    List.findSome?_eq_none_iff.mpr fun g hg => (hidle g ((mem_groupsOf_low _ g).mp hg)).2
  have hall : ((groupsOf ((s.rg a).setWidth 24)).any fun g => s.me.groups[g].tile.busy) = false :=
    List.any_eq_false.mpr fun g hg => Bool.eq_false_iff.mp (hidle g ((mem_groupsOf_low _ g).mp hg)).1
  rw [hreads, hwrites] at hhazard ⊢
  unfold State.startRanges at hhazard ⊢
  simp only [execMxgo, if_pos hacts, hfree, lowMask_eq, hcause, groupsOf_ne_nil hsome, hall, hhazard,
    Bool.false_eq_true, Bool.true_eq_false, or_self, if_false, State.addCommand_eq, State.foldl_startNest]
  rfl

end


/-- Settles O24: a load and a start are recorded and given to each tile of the mask; a load past WB is recorded with its report; a busy token
raises. -/
theorem matrixCommandsStart : Obligations.MatrixCommandsStart := by
  intro s q a b tok hacts tile started
  refine ⟨fun kw ph hfree haligned hinside hsome htakes hhazard => ⟨_, execMxlds_of_free hacts hfree haligned hsome hinside htakes hhazard, ?load⟩,
    fun kw ph hfree haligned hbase hpast hsome hroom hids =>
      ⟨_, execMxlds_of_past hacts hfree haligned hsome hbase hpast hroom hids, ?past⟩,
    fun split hfree hsome hidle => ?start,
    fun htrap hslot hbusy => ⟨fun kw ph => ⟨_, execMxlds_of_busy hacts hbusy, State.raise_of_control htrap hslot _ _⟩,
      fun split => ⟨_, execMxgo_of_busy hacts hbusy, State.raise_of_control htrap hslot _ _⟩⟩⟩
  case load => exact issues_startLoads rfl fun v hv => ⟨rfl, hv⟩
  case past =>
    obtain ⟨hbytes, honly, hgroups, hreports⟩ := s.report_frame (s.tileCommand (some tok) [loadRange (s.rg a).toNat kw ph] [] false) .protection
      (s.rg a).toNat
    exact ⟨hbytes, honly, hgroups, _, hreports, rfl, BitVec.eq_of_toNat_eq (by simp), rfl⟩
  case start =>
    intro fps reads writes hhazard
    have hranges : s.startRanges (s.rg a) = fps := congrArg (List.map _) (groupsOf_low _)
    exact ⟨_, execMxgo_of_free hacts hfree hsome hidle (by rw [hranges]) (by rw [hranges]) hhazard,
      issues_startNests rfl fun v lines hv => ⟨rfl, hv⟩⟩

end Sys2Proof.Machine
end

section
/-!
Proofs for the statement on matrix entries: nests and loads that an entry starts for its own group.
-/
namespace Sys2Proof.Machine

/-! Commands of matrix entries (R293, R309, R310) -/

/-- A new command for an entry, or the ranges added to one of its bundle. -/
def Body.extend (b : Body) (id : Nat) (reads writes : List Range) : Body :=
  b.modCommand id fun c => { c with reads := c.reads ++ reads, writes := c.writes ++ writes }

theorem State.entryCommand_of_none {s : State} {tk : Option (Fin 16)} (hnone : tk.bind s.bundleCommand = none) (reads writes : List Range) :
    s.entryCommand tk reads writes = (s.me.nextCommand, s.modMe (·.track (s.tileCommand tk reads writes))) := by
  rw [State.entryCommand, hnone, State.addCommand_eq]

theorem State.entryCommand_of_some {s : State} {tok : Fin 16} {c : Command} (hsome : s.bundleCommand tok = some c) (reads writes : List Range) :
    s.entryCommand (some tok) reads writes = (c.id, s.modMe (·.extend c.id reads writes)) := by
  rw [State.entryCommand, Option.bind_some, hsome]
  rfl

theorem State.bundleCommand_of_idle {s : State} {tok : Fin 16} (hidle : s.me.tokenBusy tok = false) : s.bundleCommand tok = none := by
  refine List.find?_eq_none.mpr fun c hc => ?_
  have hother : (c.tok == some tok) = false := Bool.eq_false_iff.mpr (List.any_eq_false.mp hidle c hc)
  simp [hother]

/-- No bundle that has issued will take the token. -/
def State.Unasked (s : State) (tok : Fin 16) : Prop := ∀ a, s.me.asked = some a → a.tokens.getLsbD tok.val = false

theorem State.entryTokenTaken_eq {s : State} {tok : Fin 16} (hunasked : s.Unasked tok) :
    s.entryTokenTaken (some tok) = (s.me.tokenBusy tok && (s.bundleCommand tok).isNone) := by
  have hasked : s.me.asked.any (·.tokens.getLsbD tok.val) = false := by
    cases hmine : s.me.asked with
    | none => rfl
    | some a => exact hunasked a hmine
  rw [State.entryTokenTaken, hasked, Bool.false_or]

theorem State.entryTokenTaken_of_taken {s : State} {tok : Fin 16}
    (htaken : s.me.tokenBusy tok = true ∧ s.bundleCommand tok = none ∨ ∃ a, s.me.asked = some a ∧ a.tokens.getLsbD tok.val = true) :
    s.entryTokenTaken (some tok) = true := by
  rw [State.entryTokenTaken, Bool.or_eq_true]
  obtain ⟨hbusy, hnone⟩ | ⟨a, hasked, hbit⟩ := htaken
  · right
    rw [hbusy, hnone]
    rfl
  · left
    rw [hasked]
    exact hbit

/-- An entry starts what `f` makes of the tile of its group, under a new command or one of its bundle. -/
def EntryStarts (s : State) (i : Instr) (tv : Bool) (tok : Fin 16) (reads writes : List Range) (f : Nat → Tile → Tile) : Prop :=
  ((tv = true → s.me.tokenBusy tok = false ∧ s.Unasked tok) → Completes (exec i s) fun t =>
    Issues s t (s.tileCommand (if tv then some tok else none) reads writes) fun y z =>
      z = { y with groups := z.groups, tileLines := z.tileLines } ∧ ∀ x : GroupId, z.groups[x] =
        if x = s.cur.group then { y.groups[x] with tile := f s.me.nextCommand y.groups[x].tile } else y.groups[x]) ∧
  (∀ c, tv = true → s.bundleCommand tok = some c → s.Unasked tok → Completes (exec i s) fun t => SameBytes s t ∧ OnlyBody s t s.cur.core ∧
    t.me = { s.me with commands := t.me.commands, groups := t.me.groups, tileLines := t.me.tileLines } ∧
    t.me.commands = (s.me.commands.map fun k => if k.id = c.id then { k with reads := k.reads ++ reads, writes := k.writes ++ writes } else k) ∧
    ∀ x : GroupId, t.me.groups[x] = if x = s.cur.group then { s.me.groups[x] with tile := f c.id s.me.groups[x].tile } else s.me.groups[x])

theorem Body.modTile_group (b : Body) (g x : GroupId) (f : Tile → Tile) :
    (b.modTile g f).groups[x] = if x = g then { b.groups[x] with tile := f b.groups[x].tile } else b.groups[x] := by
  by_cases hx : x = g
  · subst hx
    rw [Body.modTile, Vec.getElem_modify_same, if_pos rfl]
  · rw [Body.modTile, Vec.getElem_modify_ne _ _ hx, if_neg hx]

theorem noted_modTile {note : Body → Body} (hnote : ∀ b, note b = { b with tileLines := (note b).tileLines }) (b : Body) (g : GroupId)
    (f : Tile → Tile) : note (b.modTile g f) =
      { b with groups := (b.modTile g f).groups, tileLines := (note (b.modTile g f)).tileLines } := hnote _

theorem Body.extend_withTile (b : Body) (id : Nat) (reads writes : List Range) (v : Vector Group 24) (lines : List (GroupId × Nat)) :
    ({ b.extend id reads writes with groups := v, tileLines := lines } : Body) =
      { b with commands := (b.extend id reads writes).commands, groups := v, tileLines := lines } := rfl

/-- The tile of the group whose entry runs becomes what `f` makes of it. -/
theorem entryStarts_of_exec {s : State} {i : Instr} {tv : Bool} {tok : Fin 16} {reads writes : List Range} {f : Nat → Tile → Tile}
    {step : Nat → State → State} {note : Body → Body} (hnote : ∀ b, note b = { b with tileLines := (note b).tileLines })
    (hexec : let tk := if tv then some tok else none
      s.entryTokenTaken tk = false → exec i s = .next (step (s.entryCommand tk reads writes).1 (s.entryCommand tk reads writes).2))
    (hstep : ∀ id h, step id (s.modMe h) = (s.modMe h).modMe fun b => note (b.modTile s.cur.group (f id))) :
    EntryStarts s i tv tok reads writes f := by
  refine ⟨fun hfree => ?new, fun c htv hsome hunasked => ?shared⟩
  case new =>
    obtain ⟨hopen, hnone⟩ : s.entryTokenTaken (if tv then some tok else none) = false ∧
        (if tv then some tok else none).bind s.bundleCommand = none := by
      cases tv with
      | false => exact ⟨rfl, rfl⟩
      | true =>
        obtain ⟨hidle, hunasked⟩ := hfree rfl
        exact ⟨(State.entryTokenTaken_eq hunasked).trans (by rw [hidle, Bool.false_and]), State.bundleCommand_of_idle hidle⟩
    rw [hexec hopen, State.entryCommand_of_none hnone, hstep, State.modMe_modMe, completes_next]
    exact issues_modMe rfl (noted_modTile hnote _ _ _) ⟨rfl, fun x => Body.modTile_group ..⟩
  case shared =>
    subst htv
    have hopen : s.entryTokenTaken (some tok) = false := by
      rw [State.entryTokenTaken_eq hunasked, hsome, Option.isNone_some, Bool.and_false]
    rw [hexec hopen, if_pos rfl, State.entryCommand_of_some hsome, hstep, State.modMe_modMe, completes_next]
    have hframe := (noted_modTile hnote (s.me.extend c.id reads writes) s.cur.group (f c.id)).trans (Body.extend_withTile ..)
    obtain ⟨hbytes, honly, hme⟩ := State.modMe_becomes (s := s)
      (f := (fun b => note (b.modTile s.cur.group (f c.id))) ∘ fun b => b.extend c.id reads writes)
      (by rw [Function.comp_apply, hframe]; exact ⟨rfl, rfl, rfl, rfl⟩)
    rw [hme, Function.comp_apply, hframe]
    exact ⟨hbytes, honly, rfl, rfl, fun x => Body.modTile_group ..⟩

section
variable {s : State} (h : VHead) {tv : Bool} {tok : Fin 16} {split : BitVec 6} {sn : Fin 16} {ph : Bool} {kw : Fin 4}

theorem execMxgoG_of_taken (htaken : s.entryTokenTaken (if tv then some tok else none) = true) :
    execMxgoG h split tv tok s = .next (s.raise .tokenMisuse) := by
  simp only [execMxgoG, if_pos htaken]

theorem execMxldsG_of_taken (htaken : s.entryTokenTaken (if tv then some tok else none) = true) :
    execMxldsG h sn ph kw tv tok s = .next (s.raise .tokenMisuse) := by
  simp only [execMxldsG, if_pos htaken]

theorem execMxqG_of_acts {d : Operand} (hacts : EntryActs s [] [d]) : Completes (execMxqG h d s) fun t =>
    EntryLeaves s t 0xC2 h.cls false d [] (s.grp.tile.queryVec h.mod) (s.lanes h.vp) [] :=
  vectorEntry_of_acts (h := { h with rot := false }) (res := fun s => (s.grp.tile.queryVec h.mod, s.lanes h.vp, [])) hacts
    fun _ _ => List.not_mem_nil

section
variable (hopen : s.entryTokenTaken (if tv then some tok else none) = false)
include hopen

theorem execMxgoG_of_busy (hbusy : s.grpNow.tile.busy = true) : execMxgoG h split tv tok s = .next (s.raise .illegalOp) := by
  simp only [execMxgoG, hopen, Bool.false_eq_true, if_false, if_pos hbusy]

theorem execMxgoG_of_idle (hidle : s.grpNow.tile.busy = false) (hcause : startCause s.grp.tile.shadowNest (if tv then some tok else none) = none) :
    execMxgoG h split tv tok s =
      let fp := s.pre.nestRanges s.grp.tile.shadowNest s.cur.group
      let r := s.entryCommand (if tv then some tok else none) fp.1 fp.2
      .next (r.2.startNest s.cur.group r.1 s.grp.tile.shadowNest split true) := by
  simp only [execMxgoG, hopen, hidle, hcause, Bool.false_eq_true, if_false]

variable (haligned : (s.grp.scal[sn]).toNat % 128 = 0) (hinside : (loadRange (s.grp.scal[sn]).toNat kw ph).hi ≤ 0x600000)
include haligned hinside

theorem execMxldsG_of_busy (hbusy : s.grpNow.tile.takesLoad = false) :
    execMxldsG h sn ph kw tv tok s = .next (s.raise .illegalOp) := by
  have hpast : ¬(Space.wb.size : Int) < (loadRange (s.grp.scal[sn]).toNat kw ph).hi := not_lt.mpr hinside
  simp only [execMxldsG, hopen, Bool.false_eq_true, if_false, haligned, ne_eq, not_true_eq_false, if_neg hpast, if_pos hbusy]

theorem execMxldsG_of_idle (htakes : s.grpNow.tile.takesLoad = true) :
    execMxldsG h sn ph kw tv tok s =
      let r := s.entryCommand (if tv then some tok else none) [loadRange (s.grp.scal[sn]).toNat kw ph] []
      .next (r.2.startLoad s.cur.group r.1 (s.grp.scal[sn]).toNat kw ph) := by
  have hpast : ¬(Space.wb.size : Int) < (loadRange (s.grp.scal[sn]).toNat kw ph).hi := not_lt.mpr hinside
  simp only [execMxldsG, hopen, htakes, Bool.false_eq_true, Bool.true_eq_false, if_false, haligned, ne_eq, not_true_eq_false, if_neg hpast]

end

theorem mxgoG_starts (hidle : s.grpNow.tile.busy = false) (hcause : startCause s.grp.tile.shadowNest (if tv then some tok else none) = none) :
    let fp := s.pre.nestRanges s.grp.tile.shadowNest s.cur.group
    EntryStarts s (.mxgoG h split tv tok) tv tok fp.1 fp.2 fun id t => t.start (s.startedRun id s.grp.tile.shadowNest split true) :=
  entryStarts_of_exec (i := .mxgoG h split tv tok) (step := fun id t => t.startNest s.cur.group id s.grp.tile.shadowNest split true)
    (note := fun b => b.journalTile s.cur.group nestLines) (fun b => b.journalTile_frame s.cur.group nestLines)
    (fun hopen => execMxgoG_of_idle h hopen hidle hcause) fun _ _ => State.startNest_eq ..

theorem mxldsG_starts (haligned : (s.grp.scal[sn]).toNat % 128 = 0) (hinside : (loadRange (s.grp.scal[sn]).toNat kw ph).hi ≤ 0x600000)
    (htakes : s.grpNow.tile.takesLoad = true) :
    EntryStarts s (.mxldsG h sn ph kw tv tok) tv tok [loadRange (s.grp.scal[sn]).toNat kw ph] [] fun id t =>
      { t with load := some (s.startedLoad id (s.grp.scal[sn]).toNat kw ph) } :=
  entryStarts_of_exec (i := .mxldsG h sn ph kw tv tok) (step := fun id t => t.startLoad s.cur.group id (s.grp.scal[sn]).toNat kw ph)
    (note := id) (fun _ => rfl) (fun hopen => execMxldsG_of_idle h hopen haligned hinside htakes) fun _ _ => State.startLoad_eq ..

end

/-- Settles O46: an entry whose token is not taken starts its nest or load under the command of `State.entryCommand`; a taken token and a busy
tile raise. -/
theorem matrixEntries : Obligations.MatrixEntries := by
  intro s h d split tv tok sn ph kw me tile nest tk range raises started
  have hraises {i : Instr} {c : Cause} (hc : c ≠ .illegalBundle) (hexec : exec i s = .next (s.raise c)) : raises i c := fun htrap hslot =>
    hexec.trans (congrArg Host.Outcome.next (State.raise_of_entry htrap hslot hc 0 0))
  refine ⟨fun hidle hcause => ?nest, fun haligned hinside htakes => ?load, fun hacts => execMxqG_of_acts h hacts,
    fun htv htaken => ?_, fun htv hbusy => ?_, fun htv haligned hinside hbusy => ?_⟩
  case nest => exact mxgoG_starts h hidle hcause
  case load => exact mxldsG_starts h haligned hinside htakes
  · subst htv
    have htaken := State.entryTokenTaken_of_taken htaken
    exact ⟨hraises (by decide) (execMxgoG_of_taken h (tv := true) htaken), hraises (by decide) (execMxldsG_of_taken h (tv := true) htaken)⟩
  · subst htv
    exact hraises (by decide) (execMxgoG_of_busy h (tv := false) rfl hbusy)
  · subst htv
    exact hraises (by decide) (execMxldsG_of_busy h (tv := false) rfl haligned hinside hbusy)

end Sys2Proof.Machine
end

section
/-!
Proofs for O48, on what the matrix tiles do on their own: passes, rows written to ACC, boundaries and shadow loads.
-/
namespace Sys2Proof.Machine

/-! What a tile's steps leave alone (R285, R293, R297) -/

theorem Body.modTile_spaces (b : Body) (g : GroupId) (f : Tile → Tile) :
    (b.modTile g f).wb = b.wb ∧ (b.modTile g f).ab = b.ab ∧ (b.modTile g f).acc = b.acc ∧ (b.modTile g f).gal = b.gal := ⟨rfl, rfl, rfl, rfl⟩

theorem Body.modTile_tile (b : Body) (g : GroupId) (f : Tile → Tile) : (b.modTile g f).groups[g].tile = f b.groups[g].tile :=
  congrArg Group.tile ((b.modTile_group g g f).trans (if_pos rfl))

theorem Body.modTile_other (b : Body) {g x : GroupId} (f : Tile → Tile) (hne : x ≠ g) : (b.modTile g f).groups[x] = b.groups[x] :=
  (b.modTile_group g x f).trans (if_neg hne)

theorem Body.modTile_congr {b : Body} {g : GroupId} {f h : Tile → Tile} (hf : f b.groups[g].tile = h b.groups[g].tile) :
    b.modTile g f = b.modTile g h :=
  congrArg (fun v => ({ b with groups := v } : Body)) (Vec.modify_congr (congrArg (fun t => ({ b.groups[g] with tile := t } : Group)) hf))

theorem Body.modTile_self (b : Body) (g : GroupId) : (b.modTile g fun _ => b.groups[g].tile) = b :=
  congrArg (fun v => ({ b with groups := v } : Body)) (Vector.set_getElem_self ..)

theorem Body.modTile_withLines (b : Body) (g : GroupId) (f : Tile → Tile) (tileLines : List (GroupId × Nat)) :
    ({ b with tileLines } : Body).modTile g f = { b.modTile g f with tileLines } := rfl

theorem Body.modTile_withRow (b : Body) (g : GroupId) (f : Tile → Tile) (pend : List Pending) (posts : List (Nat × StatRec)) :
    ({ b with pend, posts } : Body).modTile g f = { b.modTile g f with pend, posts } := rfl

theorem Body.tileDone_frame (b : Body) (id : Nat) : ∃ commands, b.tileDone id = { b with commands } := by
  unfold Body.tileDone
  dsimp only
  split
  · exact ⟨_, rfl⟩
  · exact ⟨_, rfl⟩

theorem Body.swapTile_frame (b : Body) (g : GroupId) (swaps : Bool) (f : Tile → Tile) :
    ∃ tileLines, b.swapTile g swaps f = { b.modTile g f with tileLines } := by
  unfold Body.swapTile
  split
  · exact ⟨_, Body.journalTile_frame ..⟩
  · exact ⟨_, rfl⟩

/-- Stores exchanged or not, and a command that may have no tile left. -/
theorem Body.swapTile_tileDone (b : Body) (g : GroupId) (swaps : Bool) (f : Tile → Tile) (id : Nat) :
    ∃ tileLines commands, (b.swapTile g swaps f).tileDone id = { b.modTile g f with tileLines, commands } := by
  obtain ⟨lines, hlines⟩ := b.swapTile_frame g swaps f
  obtain ⟨commands, hcommands⟩ := (b.swapTile g swaps f).tileDone_frame id
  exact ⟨lines, commands, hcommands.trans (by rw [hlines])⟩

/-- An event that turns a core's recorded part into a known one and writes no byte. -/
theorem completes_modBody {s : State} {c : CoreId} {f : Body → Body} {x : Body} (hf : f (s.body c) = x)
    (hspaces : x.wb = (s.body c).wb ∧ x.ab = (s.body c).ab ∧ x.acc = (s.body c).acc ∧ x.gal = (s.body c).gal) :
    Completes (.next (s.modBody c f)) fun t => OnlyBody s t c ∧ SameBytes s t ∧ t.body c = x := by
  subst hf
  obtain ⟨honly, hbytes⟩ := modBody_frame hspaces
  exact ⟨_, rfl, honly, hbytes, State.body_modBody_same s c f⟩

/-! Passes (R283, R289, R291) -/

/-- A pass whose plane rows are all read: its row waits, and the nest goes on or drains. -/
def Body.endPass (b : Body) (g : GroupId) (r : NestRun) (st : Stream) (now : Nat) : Body :=
  let w : PassWrite := ⟨now + 4, g.val * 0x20000 + 256 * (r.nest.accRow r.pass).toNat, r.nest.adds,
    if r.nest.compare then some (r.nest[7].extractLsb' 48 16).toNat else none, passRow b.groups[g].tile r st⟩
  let ph : NestPhase := if r.pass + 1 = r.nest.passes then .drain else .boundary 0
  b.modTile g fun k => { k with run := some { r with pass := r.pass + 1, phase := ph }, writes := k.writes ++ [w] }

/-- The stream with the plane row of this cycle. -/
def Body.nextRow (b : Body) (r : NestRun) (st : Stream) : Stream :=
  let a := (r.nest.abAddr r.pass).toNat
  { st with rows := st.rows ++ [b.streamRow (a - a % 128) (a % 128) st.map st.rows.length] }

/-- The stream of a pass that starts. -/
def Body.firstStream (b : Body) (r : NestRun) (now : Nat) : Stream :=
  let a := (r.nest.abAddr r.pass).toNat
  ⟨now, headerE (b.npfHeader .ab (a - a % 128) (a % 128)), b.passMap (a - a % 128), []⟩

theorem Nest.planes_pos (n : Nest) : 1 ≤ n.planes := by
  unfold Nest.planes
  split <;> omega

theorem Body.endPass_spaces (b : Body) (g : GroupId) (r : NestRun) (st : Stream) (now : Nat) : (b.endPass g r st now).wb = b.wb ∧
    (b.endPass g r st now).ab = b.ab ∧ (b.endPass g r st now).acc = b.acc ∧ (b.endPass g r st now).gal = b.gal := Body.modTile_spaces ..

section
variable {b : Body} {g : GroupId} {r : NestRun} {st : Stream} {now at_ : Nat}

theorem Body.passCycle_of_more (hmore : st.rows.length + 1 < r.nest.planes) :
    b.passCycle g r st now = b.modTile g fun k => { k with run := some { r with phase := .stream (b.nextRow r st) } } := by
  have hlength : (st.rows ++ [b.streamRow ((r.nest.abAddr r.pass).toNat - (r.nest.abAddr r.pass).toNat % 128) ((r.nest.abAddr r.pass).toNat % 128)
      st.map st.rows.length]).length < r.nest.planes := by rwa [List.length_append, List.length_singleton]
  unfold Body.passCycle
  dsimp only
  rw [if_pos hlength, Body.nextRow]

theorem Body.passCycle_of_last (hlast : st.rows.length + 1 = r.nest.planes) :
    b.passCycle g r st now = b.endPass g r (b.nextRow r st) now := by
  have hlength : ¬(st.rows ++ [b.streamRow ((r.nest.abAddr r.pass).toNat - (r.nest.abAddr r.pass).toNat % 128) ((r.nest.abAddr r.pass).toNat % 128)
      st.map st.rows.length]).length < r.nest.planes := by
    rw [List.length_append, List.length_singleton]
    exact hlast.not_lt
  unfold Body.passCycle
  dsimp only
  rw [if_neg hlength]
  simp only [beq_iff_eq]
  exact congrArg (fun v => ({ b with groups := v } : Body)) (Vec.modify_congr rfl)

variable (hrun : b.groups[g].tile.run = some r)
include hrun

theorem Body.streamCycle_of_stream (hphase : r.phase = .stream st) (hdue : st.start + st.rows.length ≤ now) :
    b.streamCycle g now = b.passCycle g r st now := by
  simp only [Body.streamCycle, hrun, hphase, if_pos hdue]

variable (hphase : r.phase = .start at_) (hat : at_ ≤ now)
include hphase hat

theorem Body.streamCycle_of_start (hgood : b.passFault r.nest r.pass = none) :
    b.streamCycle g now = b.passCycle g r (b.firstStream r now) now := by
  simp only [Body.streamCycle, hrun, hphase, if_neg hat.not_gt, hgood, Body.firstStream]

variable {cause : Cause} {addr : Int} (hfault : b.passFault r.nest r.pass = some (cause, addr))
include hfault

theorem Body.streamCycle_of_full (hpark : b.canPark = false) : b.streamCycle g now = b := by
  simp only [Body.streamCycle, hrun, hphase, if_neg hat.not_gt, hfault, if_pos hpark]

/-- A pass that faults ends its nest, with a report where the nest has a command (R291). -/
theorem Body.streamCycle_of_fault (hpark : b.canPark = true) : ∃ reports,
    b.streamCycle g now = { b.modTile g (fun k => { k with run := some { r with phase := .drain } }) with reports } ∧
      ∀ x, b.command r.command = some x →
        reports = b.reports ++ [⟨cause, x.engine, x.tok, x.baddr, .ofInt 56 addr, 0, x.issued, none, false⟩] := by
  have hcommand : (b.modTile g fun k => { k with run := some { r with phase := .drain } }).command r.command = b.command r.command := rfl
  simp only [Body.streamCycle, hrun, hphase, if_neg hat.not_gt, hfault, hpark, Bool.true_eq_false, if_false, hcommand]
  cases b.command r.command with
  | none => exact ⟨b.reports, rfl, nofun⟩
  | some c =>
    refine ⟨_, rfl, fun x hx => ?_⟩
    obtain rfl := Option.some.inj hx
    rfl

end

/-! Rows written to ACC (R122, R283, R299) -/

/-- A rank below the capacity has bit 31 set. -/
theorem rankWord_eq {n : Nat} (hn : n < 65536) (below : Bool) :
    (BitVec.ofBool below ++ 0#15 ++ BitVec.ofNat 16 n : BitVec 32) = .ofNat 32 (n + if below then 2 ^ 31 else 0) := by
  refine BitVec.eq_of_toNat_eq ?_
  rw [BitVec.toNat_append, ← Nat.shiftLeft_add_eq_or_of_lt (BitVec.isLt _)]
  cases below
  · simp
    omega
  · simp
    omega

theorem passWord_meets (b : Body) (w : PassWrite) (l : Nat) :
    let x := passWord w (.ofNat 32 (natLE (b.read .acc (w.off + 4 * l) 4))) (w.row.getD l 0)
    x.1 = (PassWord b w l).1 ∧ (x.2 = true ↔ (PassWord b w l).2) := by
  unfold passWord PassWord
  cases w.cap with
  | none =>
    dsimp only
    rw [sat_eq_clamp (by decide), decide_eq_true_iff]
    exact ⟨rfl, by omega⟩
  | some cap =>
    dsimp only
    rw [sat_eq_clamp (by decide), decide_eq_true_iff, extractLsb'_zero]
    refine ⟨?_, by omega⟩
    generalize hrank : (max 0 (min 65535 _) : Int) = rank
    have hbelow : (rank < (cap : Int)) = (decide (rank.toNat < cap) = true) := by
      rw [decide_eq_true_iff, eq_iff_iff]
      omega
    rw [rankWord_eq (by omega)]
    simp only [hbelow]

/-- The words of a row with whether each has saturated. -/
def Body.rowWords (b : Body) (w : PassWrite) : List (BitVec 32 × Bool) :=
  w.row.zipIdx.map fun (x, l) => passWord w (.ofNat 32 (natLE (b.read .acc (w.off + 4 * l) 4))) x

theorem Body.rowWords_eq {b : Body} {w : PassWrite} (hrow : w.row.length = 64) : b.rowWords w = (List.range 64).map fun l =>
    passWord w (.ofNat 32 (natLE (b.read .acc (w.off + 4 * l) 4))) (w.row.getD l 0) := by
  refine List.ext_getElem (by simp [Body.rowWords, hrow]) fun l hl _ => ?_
  have hlt : l < w.row.length := by simpa [Body.rowWords] using hl
  simp only [Body.rowWords, List.getElem_map, List.getElem_zipIdx, List.getElem_range, List.getD_eq_getElem _ _ hlt, Nat.zero_add]

/-- The bytes of a row, with their offsets in ACC. -/
def Body.rowBytes (b : Body) (w : PassWrite) : List (Nat × BitVec 8) :=
  ((b.rowWords w).flatMap fun x => bytesLE 4 x.1.toNat).zipIdx.map fun (x, i) => (w.off + i, x)

theorem Body.rowBytes_eq {b : Body} {w : PassWrite} (hrow : w.row.length = 64) :
    b.rowBytes w = ((List.range 64).flatMap fun l => bytesLE 4 (PassWord b w l).1.toNat).zipIdx.map fun (x, i) => (w.off + i, x) := by
  rw [Body.rowBytes, Body.rowWords_eq hrow, List.flatMap_map]
  simp only [(passWord_meets b w _).1]

/-- The lowest lane whose word has saturated. -/
def Body.rowFull (b : Body) (w : PassWrite) : Option Nat := (b.rowWords w).findIdx? (·.2)

theorem Body.rowFull_eq_none {b : Body} {w : PassWrite} (hrow : w.row.length = 64) (hnone : ∀ l < 64, ¬(PassWord b w l).2) :
    b.rowFull w = none := by
  rw [Body.rowFull, Body.rowWords_eq hrow, List.findIdx?_eq_none_iff]
  simp only [List.mem_map, List.mem_range]
  rintro _ ⟨l, hl, rfl⟩
  exact Bool.eq_false_iff.mpr fun hfull => hnone l hl ((passWord_meets b w l).2.mp hfull)

theorem Body.rowFull_eq_some {b : Body} {w : PassWrite} {l : Nat} (hrow : w.row.length = 64) (hl : l < 64) (hfull : (PassWord b w l).2)
    (hfirst : ∀ k < l, ¬(PassWord b w k).2) : b.rowFull w = some l := by
  rw [Body.rowFull, Body.rowWords_eq hrow, List.findIdx?_eq_some_iff_getElem]
  refine ⟨by simpa using hl, ?_, fun k hk => ?_⟩
  · simpa using (passWord_meets b w l).2.mpr hfull
  · simpa using fun h => hfirst k hk ((passWord_meets b w k).2.mp h)

/-- The records of a row: the first that saturates posts INT_SAT (R283). -/
def rowPosts (g : GroupId) (r : NestRun) (full : Option Nat) : List (Nat × StatRec) :=
  match full with
  | some l => if r.satPosted then [] else [(3, statRecord 4 r.entry (.ofNat 5 g.val) (.ofNat 6 l) 3 r.baddr 0xC0)]
  | none => []

theorem rowPosts_eq_nil {g : GroupId} {r : NestRun} {full : Option Nat} (hquiet : r.satPosted = true ∨ full = none) : rowPosts g r full = [] := by
  cases full with
  | none => rfl
  | some l => exact if_pos (hquiet.resolve_right (Option.some_ne_none l))

/-- The one waiting row of a nest, whose cycle has come. -/
theorem Body.passWrite_of_due {b : Body} {g : GroupId} {r : NestRun} {w : PassWrite} {now : Nat} (hrun : b.groups[g].tile.run = some r)
    (hwrites : b.groups[g].tile.writes = [w]) (hdue : w.due ≤ now) :
    b.passWrite g now = { b.modTile g (fun k => { k with
      writes := [], passes := k.passes + 1, run := some { r with satPosted := r.satPosted || (b.rowFull w).isSome } }) with
      pend := b.pend ++ [⟨now, r.issued + 2, r.v1, g, .bytes .acc (b.rowBytes w), r.src⟩]
      posts := b.posts ++ rowPosts g r (b.rowFull w) } := by
  have hfull : (b.rowWords w).findIdx? (·.2) = b.rowFull w := rfl
  unfold Body.rowWords at hfull
  simp only [Body.passWrite, hrun, hwrites, if_neg hdue.not_gt, hfull]
  cases b.rowFull w with
  | none =>
    simp only [rowPosts, List.append_nil]
    rfl
  | some l =>
    by_cases hposted : r.satPosted = true
    · simp only [rowPosts, if_pos hposted, List.append_nil]
      rfl
    · simp only [rowPosts, if_neg hposted, Body.postAt]
      rfl

/-- A swap that nothing keeps waiting exchanges the stores alone. -/
theorem Tile.settle_frame (t : Tile) : t.settle.writes = t.writes ∧ t.settle.passes = t.passes ∧ t.settle.run = t.run := by
  unfold Tile.settle
  split
  · exact ⟨rfl, rfl, rfl⟩
  · exact ⟨rfl, rfl, rfl⟩

theorem Body.endNest_frame (b : Body) (g : GroupId) (r : NestRun) : ∃ tileLines commands,
    b.endNest g r = { b.modTile g (fun k => ({ k with run := none } : Tile).settle) with tileLines, commands } := by
  obtain ⟨lines, commands, hend⟩ := (b.modTile g fun k => { k with run := none }).swapTile_tileDone g
    (b.modTile g fun k => { k with run := none }).groups[g].tile.settles Tile.settle r.command
  refine ⟨lines, commands, hend.trans ?_⟩
  rw [Body.modTile_modTile]
  rfl

theorem Tile.drained_of_empty {t : Tile} {r : NestRun} (hrun : t.run = some r) (hphase : r.phase = .drain) (hwrites : t.writes = []) :
    t.drained = true := by
  simp [Tile.drained, hrun, hphase, hwrites]

/-- A nest that has nothing left to do leaves its tile idle. -/
theorem Body.finishDrained_frame (b : Body) (g : GroupId) : ∃ (t : Tile) (tileLines : List (GroupId × Nat)) (commands : List Command),
    b.finishDrained g = { b.modTile g (fun _ => t) with tileLines, commands } ∧
      t.writes = b.groups[g].tile.writes ∧ t.passes = b.groups[g].tile.passes ∧
      ∀ r, b.groups[g].tile.run = some r → r.phase = .drain → b.groups[g].tile.writes = [] → t.run = none := by
  have hstays : b = { b.modTile g (fun _ => b.groups[g].tile) with tileLines := b.tileLines, commands := b.commands } :=
    (b.modTile_self g).symm
  unfold Body.finishDrained
  split
  next r hrun =>
    split
    next hdrained =>
      obtain ⟨lines, commands, hend⟩ := b.endNest_frame g r
      obtain ⟨hwrites, hpasses, hidle⟩ := Tile.settle_frame { b.groups[g].tile with run := none }
      refine ⟨_, lines, commands, hend.trans ?_, hwrites, hpasses, fun _ _ _ _ => hidle⟩
      rw [Body.modTile_congr (h := fun _ => ({ b.groups[g].tile with run := none } : Tile).settle) rfl]
    next hbusy => exact ⟨_, _, _, hstays, rfl, rfl, fun x hx hdrain hnone => absurd (Tile.drained_of_empty hx hdrain hnone) hbusy⟩
  next hrun => exact ⟨_, _, _, hstays, rfl, rfl, fun r hr => absurd (hr.symm.trans hrun) (Option.some_ne_none r)⟩

/-- The step of a nest's write of a row: the row waits to be written, and the nest may end with it. -/
theorem Body.rowStep_frame {b : Body} {g : GroupId} {r : NestRun} {w : PassWrite} {now : Nat} (hrun : b.groups[g].tile.run = some r)
    (hwrites : b.groups[g].tile.writes = [w]) (hdue : w.due ≤ now) : ∃ (t : Tile) (tileLines : List (GroupId × Nat)) (commands : List Command),
    (b.passWrite g now).finishDrained g = { b.modTile g (fun _ => t) with
      tileLines, commands
      pend := b.pend ++ [⟨now, r.issued + 2, r.v1, g, .bytes .acc (b.rowBytes w), r.src⟩]
      posts := b.posts ++ rowPosts g r (b.rowFull w) } ∧
    t.writes = [] ∧ t.passes = b.groups[g].tile.passes + 1 ∧ (r.phase = .drain → t.run = none) := by
  obtain ⟨t, lines, commands, hfinish, hkept, hpasses, hidle⟩ := (b.passWrite g now).finishDrained_frame g
  rw [Body.passWrite_of_due hrun hwrites hdue] at hfinish hkept hpasses hidle
  have htile (f : Tile → Tile) (pend : List Pending) (posts : List (Nat × StatRec)) :
      ({ b.modTile g f with pend, posts } : Body).groups[g].tile = f b.groups[g].tile := b.modTile_tile g f
  rw [htile] at hkept hpasses hidle
  refine ⟨t, lines, commands, ?_, hkept, hpasses, fun hdrain => hidle _ rfl hdrain rfl⟩
  rw [Body.passWrite_of_due hrun hwrites hdue, hfinish, Body.modTile_withRow, Body.modTile_modTile]
  rfl

/-! Boundaries (R290, R296) -/

/-- A request of `mxswap` is met at the boundary before the next pass (R304). -/
def Tile.asksAt (t : Tile) (r : NestRun) : Bool :=
  t.swapPending && !r.nest.compare &&
    ((r.nest.boundaries r.pass).any (fun l => r.split.getLsbD l) || (r.split == 0 && !(r.nest.boundaries r.pass).isEmpty))
/-- The boundary before the next pass exchanges the stores (R285, R290). -/
def Tile.swapsAt (t : Tile) (r : NestRun) (now : Nat) : Bool :=
  t.asksAt r || ((r.nest.boundaries r.pass).any (fun l => levelSwaps (r.nest.level l)) && t.swappedAt != some now)

/-- A tile whose stores a boundary has exchanged, with the nest that goes on. -/
def Tile.exchanged (t : Tile) (pending : Bool) (r : NestRun) : Tile :=
  { t with active := t.shadow, shadow := t.active, swapPending := pending, swapAtLoad := false, run := some r }

theorem Tile.asksAt_iff (t : Tile) (r : NestRun) : t.asksAt r = true ↔ t.swapPending = true ∧ r.nest.compare = false ∧
    ((∃ l ∈ r.nest.boundaries r.pass, r.split.getLsbD l = true) ∨ r.split = 0 ∧ r.nest.boundaries r.pass ≠ []) := by
  simp [Tile.asksAt, and_assoc]

theorem Tile.swapsAt_iff (t : Tile) (r : NestRun) (now : Nat) : t.swapsAt r now = true ↔ t.asksAt r = true ∨
    (∃ l ∈ r.nest.boundaries r.pass, levelSwaps (r.nest.level l) = true) ∧ t.swappedAt ≠ some now := by
  simp [Tile.swapsAt]

section
variable {b : Body} {g : GroupId} {r : NestRun} {n now : Nat} (hrun : b.groups[g].tile.run = some r) (hphase : r.phase = .boundary n)
include hrun hphase

theorem Body.boundaryStep_of_stop (hstop : r.stopReq = true ∧ ((∃ l ∈ r.nest.boundaries r.pass, r.split.getLsbD l = true) ∨ r.split = 0)) :
    b.boundaryStep g now = some (b.modTile g fun k => { k with run := some { r with phase := .drain } }) := by
  simp only [Body.boundaryStep, hrun, hphase, List.any_eq_true, if_pos hstop]

variable (hgoes : ¬(r.stopReq = true ∧ ((∃ l ∈ r.nest.boundaries r.pass, r.split.getLsbD l = true) ∨ r.split = 0)))
include hgoes

theorem Body.boundaryStep_of_pause (hpause : b.stopping = true ∧ ∃ l ∈ r.nest.boundaries r.pass, r.split.getLsbD l = true) :
    b.boundaryStep g now = some (b.modTile g fun k => { k with run := some { r with phase := .stopped n } }) := by
  simp only [Body.boundaryStep, hrun, hphase, List.any_eq_true, if_neg hgoes, if_pos hpause]

variable (hstays : ¬(b.stopping = true ∧ ∃ l ∈ r.nest.boundaries r.pass, r.split.getLsbD l = true))
  (hwaited : (r.nest.boundaries r.pass).length ≤ n)
include hstays hwaited

/-- Where every wait is over, the nest goes on, but that an exchange waits for a load. -/
theorem Body.boundaryStep_of_waited : let swaps := b.groups[g].tile.swapsAt r now
    b.boundaryStep g now = if swaps = true ∧ b.groups[g].tile.load.isSome = true then none else some (b.swapTile g swaps fun k =>
      { (if swaps then k.swap else k) with
        swapPending := k.swapPending && !b.groups[g].tile.asksAt r, run := some { r with phase := .start (now + 1) } }) := by
  have hdrop : (r.nest.boundaries r.pass).drop n = [] := List.drop_eq_nil_of_le hwaited
  unfold Body.boundaryStep
  simp only [hrun, hphase]
  rw [if_neg (by simpa only [List.any_eq_true] using hgoes), if_neg (by simpa only [List.any_eq_true] using hstays), hdrop]
  simp only [waitLevels, Bool.true_eq_false, false_or]
  rfl

theorem Body.boundaryStep_of_plain (hplain : b.groups[g].tile.swapsAt r now = false) :
    b.boundaryStep g now = some (b.modTile g fun k => { k with run := some { r with phase := .start (now + 1) } }) := by
  have hunasked : b.groups[g].tile.asksAt r = false := (Bool.or_eq_false_iff.mp hplain).1
  rw [Body.boundaryStep_of_waited hrun hphase hgoes hstays hwaited, hplain, hunasked]
  simp only [Bool.false_eq_true, false_and, if_false, Body.swapTile, Bool.not_false, Bool.and_true]

theorem Body.boundaryStep_of_load (hswaps : b.groups[g].tile.swapsAt r now = true) (hload : b.groups[g].tile.load.isSome = true) :
    b.boundaryStep g now = none :=
  (Body.boundaryStep_of_waited hrun hphase hgoes hstays hwaited).trans (if_pos ⟨hswaps, hload⟩)

theorem Body.boundaryStep_of_swap (hswaps : b.groups[g].tile.swapsAt r now = true) (hload : b.groups[g].tile.load = none) : ∃ tileLines,
    b.boundaryStep g now = some { b.modTile g (fun k => k.exchanged (b.groups[g].tile.swapPending && !b.groups[g].tile.asksAt r) { r with
      phase := .start (now + 1) }) with tileLines } := by
  have hfree : ¬(b.groups[g].tile.swapsAt r now = true ∧ b.groups[g].tile.load.isSome = true) := fun ⟨_, hsome⟩ =>
    Option.isSome_iff_ne_none.mp hsome hload
  obtain ⟨lines, hswap⟩ := b.swapTile_frame g (b.groups[g].tile.swapsAt r now) fun k =>
    { (if b.groups[g].tile.swapsAt r now then k.swap else k) with
      swapPending := k.swapPending && !b.groups[g].tile.asksAt r, run := some { r with phase := .start (now + 1) } }
  refine ⟨lines, ?_⟩
  rw [Body.boundaryStep_of_waited hrun hphase hgoes hstays hwaited, if_neg hfree, hswap, hswaps,
    Body.modTile_congr (h := fun k => k.exchanged (b.groups[g].tile.swapPending && !b.groups[g].tile.asksAt r)
      { r with phase := .start (now + 1) }) rfl]

end

/-! Shadow loads (R284, R285) -/

/-- The line that a load reads next. -/
def Body.loadLine (b : Body) (l : ShadowLoad) : List (BitVec 8) :=
  let i := l.lines.length
  b.read .wb (if i = 0 then l.base else l.base + 128 + 1024 * (if l.ph then 4 else 0) + 128 * (i - 1)) 128

theorem Tile.swapsLoaded_iff (t : Tile) : t.swapsLoaded = true ↔
    t.swapPending = true ∧ (t.run = none ∨ t.swapAtLoad = true ∧ ∀ r, t.run = some r → r.nest.compare = false) := by
  unfold Tile.swapsLoaded Tile.comparing
  cases t.run with
  | none => simp
  | some r => simp

/-- A tile whose load has made a store, with the swap that waited for it or not. -/
def Tile.loaded (t : Tile) (w : Stationary) (swaps : Bool) (now : Nat) : Tile :=
  let t := { t with load := none, shadow := w }
  if swaps then { t.swap with swappedAt := some now } else { t with swapAtLoad := false }

theorem Tile.loaded_frame (t : Tile) (w : Stationary) (swaps : Bool) (now : Nat) : (t.loaded w swaps now).load = none ∧
    (swaps = false → (t.loaded w swaps now).shadow = w ∧ (t.loaded w swaps now).active = t.active) ∧
    (swaps = true → (t.loaded w swaps now).active = w ∧ (t.loaded w swaps now).shadow = t.active) := by
  cases swaps
  · exact ⟨rfl, fun _ => ⟨rfl, rfl⟩, nofun⟩
  · exact ⟨rfl, nofun, fun _ => ⟨rfl, rfl⟩⟩

section
variable {b : Body} {g : GroupId} {l : ShadowLoad} {now : Nat} (hload : b.groups[g].tile.load = some l) (hdue : l.issued + l.lines.length < now)
include hload hdue

theorem Body.loadCycle_of_more (hmore : (l.lines ++ [b.loadLine l]).length ≤ 8 * (l.kw.val + 1)) :
    b.loadCycle g now = b.modTile g fun k => { k with load := some { l with lines := l.lines ++ [b.loadLine l] } } := by
  unfold Body.loadLine at hmore ⊢
  simp only [Body.loadCycle, hload, if_neg hdue.not_ge, if_pos hmore]

/-- The last line completes the load, and a swap that waited for it is made. -/
theorem Body.loadCycle_of_last (hlast : ¬(l.lines ++ [b.loadLine l]).length ≤ 8 * (l.kw.val + 1)) : ∃ tileLines commands,
    b.loadCycle g now = { b.modTile g (fun k => k.loaded (loadedStore l.kw (l.lines ++ [b.loadLine l])) b.groups[g].tile.swapsLoaded now) with
      tileLines, commands } := by
  obtain ⟨lines, commands, hend⟩ := Body.swapTile_tileDone ((b.modTile g fun k =>
    { k with load := none, shadow := loadedStore l.kw (l.lines ++ [b.loadLine l]) }).journalTile g shadowLines) g b.groups[g].tile.swapsLoaded
    (fun k => if b.groups[g].tile.swapsLoaded then { k.swap with swappedAt := some now } else { k with swapAtLoad := false }) l.command
  refine ⟨lines, commands, Eq.trans ?_ (hend.trans ?_)⟩
  · unfold Body.loadLine at hlast ⊢
    simp only [Body.loadCycle, hload, if_neg hdue.not_ge, if_neg hlast]
  · rw [Body.journalTile_frame]
    rw [Body.modTile_withLines, Body.modTile_modTile]
    rfl

end

/-! The events as steps of the instructions -/

/-- `matrixPass` and `comparePass` take the step of the stream (R283, R299). -/
theorem completes_pass {s : State} {c : CoreId} {g : GroupId} {i : Instr} {x : Body} (hi : i ∈ [Instr.matrixPass c g, Instr.comparePass c g])
    (hx : (s.body c).streamCycle g s.cycle = x)
    (hspaces : x.wb = (s.body c).wb ∧ x.ab = (s.body c).ab ∧ x.acc = (s.body c).acc ∧ x.gal = (s.body c).gal) :
    Completes (exec i s) fun t => OnlyBody s t c ∧ SameBytes s t ∧ t.body c = x := by
  have hexec : exec i s = .next (s.modBody c (·.streamCycle g s.cycle)) := by
    obtain rfl | rfl := List.mem_pair.mp hi
    · rfl
    · rfl
  rw [hexec]
  exact completes_modBody hx hspaces

/-- A boundary that has a step to take takes it. -/
theorem completes_boundary {s : State} {c : CoreId} {g : GroupId} {x : Body} (hx : (s.body c).boundaryStep g s.cycle = some x)
    (hspaces : x.wb = (s.body c).wb ∧ x.ab = (s.body c).ab ∧ x.acc = (s.body c).acc ∧ x.gal = (s.body c).gal) :
    Completes (exec (.levelBoundary c g) s) fun t => OnlyBody s t c ∧ SameBytes s t ∧ t.body c = x :=
  completes_modBody (f := fun b => (b.boundaryStep g s.cycle).getD b) (congrArg (·.getD (s.body c)) hx) hspaces

/-- Settles O48: each event is one step of its tile, by what stands there: the phase of the nest, the row that waits, the line of the load. -/
theorem matrixEvents : Obligations.MatrixEvents := by
  intro s c g b k
  refine ⟨fun i hi r hrun => ?pass, fun r w hrun hwrites hdue hrow => ?row, fun r n hrun hphase => ?boundary, fun l hload hdue => ?load⟩
  case pass =>
    intro ended
    refine ⟨fun at_ cause addr hphase hat hfault => ⟨fun hpark => ?fault, fun hpark => ?full⟩, fun at_ hphase hat hgood => ?start,
      fun st hphase hstart hlast => ?stream⟩
    case fault =>
      obtain ⟨reports, hx, hreports⟩ := Body.streamCycle_of_fault hrun hphase hat hfault hpark
      refine (completes_pass hi hx ⟨rfl, rfl, rfl, rfl⟩).imp fun t ⟨honly, _, hbody⟩ => ⟨honly, ?_⟩
      rw [hbody]
      exact ⟨congrArg Tile.run (b.modTile_tile g fun k => { k with run := some { r with phase := .drain } }),
        fun x => b.modTile_other fun k => { k with run := some { r with phase := .drain } },
        fun x hcommand => ⟨_, hreports x hcommand, rfl, rfl, rfl⟩⟩
    case full =>
      exact (completes_pass hi (Body.streamCycle_of_full hrun hphase hat hfault hpark) ⟨rfl, rfl, rfl, rfl⟩).imp
        fun t ⟨honly, _, hbody⟩ => ⟨honly, hbody⟩
    case start =>
      have hstart := Body.streamCycle_of_start hrun hphase hat hgood
      by_cases hone : r.nest.planes = 1
      · refine (completes_pass hi (hstart.trans (Body.passCycle_of_last hone.symm)) (Body.endPass_spaces ..)).imp fun t ⟨honly, hbytes, hbody⟩ =>
          ⟨honly, hbytes, ?_⟩
        rw [if_pos hone]
        exact hbody
      · have hmore : 1 < r.nest.planes := lt_of_le_of_ne r.nest.planes_pos (Ne.symm hone)
        refine (completes_pass hi (hstart.trans (Body.passCycle_of_more hmore)) (Body.modTile_spaces ..)).imp fun t ⟨honly, hbytes, hbody⟩ =>
          ⟨honly, hbytes, ?_⟩
        rw [if_neg hone]
        exact hbody
    case stream =>
      exact completes_pass hi ((Body.streamCycle_of_stream hrun hphase hstart).trans (Body.passCycle_of_last hlast)) (Body.endPass_spaces ..)
  case row =>
    obtain ⟨tile, lines, commands, hrowStep, hkept, hpasses, hidle⟩ := Body.rowStep_frame hrun hwrites hdue
    have htile : (b.modTile g fun _ => tile).groups[g].tile = tile := b.modTile_tile g fun _ => tile
    refine (completes_modBody (f := fun b => (b.passWrite g s.cycle).finishDrained g) hrowStep ⟨rfl, rfl, rfl, rfl⟩).imp
      fun t ⟨honly, hbytes, hbody⟩ => ⟨honly, hbytes, ?_⟩
    rw [hbody]
    refine ⟨(congrArg Tile.writes htile).trans hkept, (congrArg Tile.passes htile).trans hpasses,
      fun hdrain => (congrArg Tile.run htile).trans (hidle hdrain), by rw [Body.rowBytes_eq hrow],
      fun hnone => ?_, fun l hl hfirst hfull hleast => ?_⟩
    · rw [rowPosts_eq_nil (hnone.imp_right (Body.rowFull_eq_none hrow)), List.append_nil]
    · rw [Body.rowFull_eq_some hrow hl hfull hleast, rowPosts, hfirst]
      rfl
  case boundary =>
    intro ls granule asked swaps stops goes
    have hasks : k.asksAt r = true ↔ asked := Tile.asksAt_iff k r
    have hswaps : k.swapsAt r s.cycle = true ↔ swaps := (Tile.swapsAt_iff k r s.cycle).trans (or_congr_left hasks)
    refine ⟨fun hstop => completes_boundary (Body.boundaryStep_of_stop hrun hphase hstop) ⟨rfl, rfl, rfl, rfl⟩, fun hgo =>
      ⟨fun hpause => completes_boundary (Body.boundaryStep_of_pause hrun hphase hgo hpause) ⟨rfl, rfl, rfl, rfl⟩, fun hstays hwaited =>
        ⟨fun hnone => ?plain, fun hswap hload => ?waits, fun hswap hload => ?swap⟩⟩⟩
    case plain =>
      have hplain : k.swapsAt r s.cycle = false := Bool.eq_false_iff.mpr (mt hswaps.mp hnone)
      exact completes_boundary (Body.boundaryStep_of_plain hrun hphase hgo hstays hwaited hplain) ⟨rfl, rfl, rfl, rfl⟩
    case waits =>
      have hwaits := Body.boundaryStep_of_load hrun hphase hgo hstays hwaited (hswaps.mpr hswap) hload
      exact completes_modBody (f := fun b => (b.boundaryStep g s.cycle).getD b) (congrArg (·.getD b) hwaits) ⟨rfl, rfl, rfl, rfl⟩
    case swap =>
      obtain ⟨lines, hx⟩ := Body.boundaryStep_of_swap hrun hphase hgo hstays hwaited (hswaps.mpr hswap) hload
      have htile := b.modTile_tile g fun x => x.exchanged (k.swapPending && !k.asksAt r) { r with phase := .start (s.cycle + 1) }
      refine (completes_boundary hx ⟨rfl, rfl, rfl, rfl⟩).imp fun t ⟨honly, hbytes, hbody⟩ => ⟨honly, hbytes, ?_⟩
      have hpending : (t.body c).groups[g].tile.swapPending = (k.swapPending && !k.asksAt r) := by
        rw [hbody]
        exact congrArg Tile.swapPending htile
      have hlines : (t.body c).tileLines = lines := by rw [hbody]
      beta_reduce
      rw [hpending, hlines]
      refine ⟨hbody, fun hasked => ?_, fun hunasked => ?_⟩
      · rw [hasks.mpr hasked, Bool.not_true, Bool.and_false]
      · rw [Bool.eq_false_iff.mpr (mt hasks.mp hunasked), Bool.not_false, Bool.and_true]
  case load =>
    intro i off lines
    split
    next hmore => exact completes_modBody (Body.loadCycle_of_more hload hdue hmore) ⟨rfl, rfl, rfl, rfl⟩
    next hlast =>
      obtain ⟨tileLines, commands, hx⟩ := Body.loadCycle_of_last hload hdue hlast
      obtain ⟨hdone, hstays, hswapped⟩ := k.loaded_frame (loadedStore l.kw lines) k.swapsLoaded s.cycle
      have htile := b.modTile_tile g fun x => x.loaded (loadedStore l.kw lines) k.swapsLoaded s.cycle
      refine (completes_modBody (f := fun b => b.loadCycle g s.cycle) hx ⟨rfl, rfl, rfl, rfl⟩).imp
        fun t ⟨honly, hbytes, hbody⟩ => ⟨honly, hbytes, ?_⟩
      rw [hbody]
      refine ⟨(congrArg Tile.load htile).trans hdone, fun x => b.modTile_other fun x => x.loaded (loadedStore l.kw lines) k.swapsLoaded s.cycle,
        fun hstay => ?_, fun hswap => ?_⟩
      · obtain ⟨hshadow, hactive⟩ := hstays (Bool.eq_false_iff.mpr (mt k.swapsLoaded_iff.mp hstay))
        exact ⟨(congrArg Tile.shadow htile).trans hshadow, (congrArg Tile.active htile).trans hactive⟩
      · obtain ⟨hactive, hshadow⟩ := hswapped (k.swapsLoaded_iff.mpr hswap)
        exact ⟨(congrArg Tile.active htile).trans hactive, (congrArg Tile.shadow htile).trans hshadow⟩

end Sys2Proof.Machine
end

section
/-!
Proofs for the statements on the C slots: descriptors, status words and cancellations, and copies that start.
-/
namespace Sys2Proof.Machine

/-! Descriptors, status words and cancellations (R314, R330, R331) -/

theorem execCpcfg_of_inside {s : State} {q : Qual} {a : Reg} (hacts : s.acts q = true) (haligned : (s.rg a).toNat % 64 = 0)
    (hinside : (s.rg a).toNat ≤ 0x1FFFC0) (cd : Fin 16) :
    execCpcfg q a cd s = .next (if cdOk (.ofNat 512 (s.descriptor a)) then
      s.modMe fun b => { b with cds := b.cds.set cd (some (.ofNat 512 (s.descriptor a))) } else s.raise .illegalOp (s.rg a)) := by
  rw [execCpcfg, if_pos hacts, withDescriptor_of_inside haligned hinside]

theorem execCpcan_of_idle {s : State} {q : Qual} {u : Fin 2} (hidle : (s.pre.copies[u]).cmd = none) : execCpcan q u s = .next s := by
  simp only [execCpcan, hidle, ite_self]

theorem execCpcan_of_copy {s : State} {q : Qual} {u : Fin 2} {y : CopyCmd} (hacts : s.acts q = true) (hpre : (s.pre.copies[u]).cmd = some y) :
    execCpcan q u s = .next (s.setUnit u fun k => { k with cmd := k.cmd.map fun x => if x.id = y.id then { x with cancel := true } else x }) := by
  simp only [execCpcan, if_pos hacts, hpre]

/-- A copy unit changed by a function. -/
def Body.modCopy (b : Body) (u : Fin 2) (f : CopyUnit → CopyUnit) : Body := { b with copies := Vec.modify b.copies u f }

theorem Body.modCopy_congr {b : Body} {u : Fin 2} {f g : CopyUnit → CopyUnit} (h : f b.copies[u] = g b.copies[u]) : b.modCopy u f = b.modCopy u g :=
  congrArg (fun v => ({ b with copies := v } : Body)) (Vec.modify_congr h)

theorem State.modBody_modCopy_congr {s : State} {c : CoreId} {u : Fin 2} {f g : CopyUnit → CopyUnit}
    (h : f (s.body c).copies[u] = g (s.body c).copies[u]) : s.modBody c (·.modCopy u f) = s.modBody c (·.modCopy u g) :=
  State.modBody_congr (Body.modCopy_congr h)

/-- The command of a unit that a cancellation names is marked. -/
theorem State.setUnit_cancel {s : State} {u : Fin 2} {y : CopyCmd} (hcmd : (s.me.copies[u]).cmd = some y) :
    (s.setUnit u fun k => { k with cmd := k.cmd.map fun x => if x.id = y.id then { x with cancel := true } else x }) =
      s.modMe (·.modCopy u fun k => { k with cmd := some { y with cancel := true } }) := by
  refine State.modBody_modCopy_congr (s := s) (c := s.cur.core) ?_
  have hcmd : ((s.body s.cur.core).copies[u]).cmd = some y := hcmd
  simp only [hcmd, Option.map_some, if_pos]

/-- Settles O27: a descriptor by its checks, a cancellation by what its unit holds. -/
theorem copyDescriptorsAndStatus : Obligations.CopyDescriptorsAndStatus := by
  intro s q a u cd hacts
  refine ⟨fun haligned hinside => ?config, completes_of_acts hacts (writesG_wg ..), execCpcan_of_idle, fun y hpre hcmd => ?cancel⟩
  case config =>
    have hexec : exec (.cpcfg q a cd) s = _ := execCpcfg_of_inside hacts haligned hinside cd
    refine ⟨fun hgood => ⟨_, hexec.trans (congrArg _ (if_pos hgood)), State.modMe_becomes ⟨rfl, rfl, rfl, rfl⟩⟩, fun hbad htrap hslot => ?_⟩
    exact ⟨_, hexec.trans (congrArg _ (if_neg (Bool.eq_false_iff.mp hbad))), State.raise_of_control htrap hslot _ _⟩
  case cancel =>
    have hexec : exec (.cpcan q u) s = _ := execCpcan_of_copy hacts hpre
    rw [hexec, State.setUnit_cancel hcmd, completes_next]
    exact State.modMe_becomes ⟨rfl, rfl, rfl, rfl⟩

/-! Copies that start (R312, R318, R142) -/

/-- A copy as the instruction under way captures it. -/
def State.captured (s : State) (kind : Fin 4) (d : BitVec 512) (a b : Reg) (tok : Option (Fin 16)) (id : Nat) : CopyCmd :=
  { id, kind, d, a := s.rg a, b := s.rg b, views := s.pre.vts, tok, baddr := s.cur.hdr, issued := s.issueNo, src := s.src true, nextAt := 0 }

/-- The command of a copy in the hazard unit. -/
def State.copyCommand (s : State) (u : Fin 2) (x : CopyCmd) (fp : Range × Range) : Command :=
  ⟨s.me.nextCommand, if u = 0 then 1 else 2, x.tok, s.cur.hdr, [fp.1], [fp.2], if x.ring = 0 then [] else [x.cb], true, x.heldDest fp.2,
    s.issueNo, s.src true⟩

theorem State.startCopy_of_good {s : State} {u : Fin 2} {x : CopyCmd} (hgood : x.parked = none) (fp : Range × Range) :
    s.startCopy u x fp = State.modMe { s with fresh := s.fresh + 1 } fun b => { b.track (s.copyCommand u x fp) with
      copies := Vec.modify b.copies u fun k => { k with
        cmd := some { x with id := s.me.nextCommand, nextAt := s.cycle + 1 + Config.engineWait s.fresh }, faulted := false, cancelled := false } } := by
  simp only [State.startCopy, hgood]
  exact State.modMe_modMe { s with fresh := s.fresh + 1 } (·.track (s.copyCommand u x fp)) _

/-- What is recorded of a command, and what else of the core changes, stands in the body that results. -/
theorem issues_of_body {s : State} {c : Command} {f : Body → Body} {keeps : Body → Body → Prop}
    (hspaces : (f s.me).wb = s.me.wb ∧ (f s.me).ab = s.me.ab ∧ (f s.me).acc = s.me.acc ∧ (f s.me).gal = s.me.gal)
    (hcommands : (f s.me).commands = s.me.commands ++ [c]) (hnext : (f s.me).nextCommand = s.me.nextCommand + 1)
    (hkeeps : keeps { s.me with commands := (f s.me).commands, nextCommand := (f s.me).nextCommand } (f s.me)) : Issues s (s.modMe f) c keeps := by
  obtain ⟨hbytes, honly, hme⟩ := State.modMe_becomes hspaces
  unfold Issues
  rw [hme]
  exact ⟨hbytes, honly, hcommands, hnext, hkeeps⟩

theorem copyInstr_of_free {s : State} {q : Qual} {a b : Reg} {cd : Fin 16} {tok : Option (Fin 16)} {kind : Fin 4} {d : BitVec 512}
    {x : CopyCmd} {cb : Option CbCfg} (hacts : s.acts q = true) (hcd : s.pre.cds[cd] = some d) (hx : x = s.captured kind d a b tok 0)
    (hcb : cb = (s.pre.cbs[x.cb]).cfg) (hidle : (s.pre.copies[s.copyUnit]).cmd = none)
    (hfault : s.pre.holdsFault (if s.copyUnit = 0 then 1 else 2) = false) (haccepts : x.accepts cb = true)
    (hapart : (x.footprint cb).1.overlaps (x.footprint cb).2 = false)
    (hbundle : s.bundleConflict [(x.footprint cb).1] [(x.footprint cb).2] = false) (htok : ∀ t, tok = some t → s.pre.tokenBusy t = false)
    (hhazard : s.hazardFree [(x.footprint cb).1] [(x.footprint cb).2] = true) :
    copyInstr kind q a b cd tok s = s.startCopy s.copyUnit x (x.footprint cb) := by
  have hfree : (tok.any fun t => s.pre.tokenBusy t) = false := by
    cases tok with
    | none => rfl
    | some t => exact htok t rfl
  subst hcb hx
  unfold State.captured at *
  simp only [copyInstr, if_pos hacts, hidle, Option.isSome_none, hfault, Bool.false_eq_true, or_self, if_false, hcd, hhazard, haccepts, hapart,
    hbundle, hfree, Bool.true_eq_false]

/-- Settles O28: a copy that nothing keeps back is started by `startCopy`, which records its command and gives it to its unit. -/
theorem copiesStart : Obligations.CopiesStart := by
  have hexec : ∀ x ∈ ([(.cp, 1), (.cpt, 2), (.cptab, 3)] : List ((Qual → Reg → Reg → Fin 16 → Option (Fin 16) → Instr) × Fin 4)),
      ∀ s q a b cd tok, exec (x.1 q a b cd tok) s = .next (copyInstr x.2 q a b cd tok s) := by
    simp only [List.forall_mem_cons]
    exact ⟨fun _ _ _ _ _ _ => rfl, fun _ _ _ _ _ _ => rfl, fun _ _ _ _ _ _ => rfl, List.forall_mem_nil _⟩
  intro x hx s q a b cd tok d hacts hcd u c fp hidle hfault haccepts hapart hbundle htok hhazard hgood
  rw [hexec x hx, copyInstr_of_free (x := s.captured x.2 d a b tok 0) hacts hcd rfl rfl hidle hfault haccepts hapart hbundle htok hhazard,
    State.startCopy_of_good (x := s.captured x.2 d a b tok 0) hgood, completes_next]
  refine ⟨rfl, issues_of_body ⟨rfl, rfl, rfl, rfl⟩ rfl rfl ⟨_, ?_, rfl⟩⟩
  omega

end Sys2Proof.Machine
end

section
/-!
Proofs for O50, on what the copy units do on their own: rows, tiles and table entries that move, rings, signals and faults.
-/
namespace Sys2Proof.Machine

/-! Changes of a core -/

theorem State.modBody_modBody (s : State) (c : CoreId) (f g : Body → Body) : (s.modBody c f).modBody c g = s.modBody c (g ∘ f) := by
  have hcores : Vec.modify (Vec.modify s.cores c fun k => { k with b := f k.b }) c (fun k => { k with b := g k.b }) =
      Vec.modify s.cores c fun k => { k with b := (g ∘ f) k.b } := by
    simp [Vec.modify]
  exact congrArg (fun v => { s with cores := v }) hcores

/-- A core of a state with the bytes of an earlier one is changed, its local spaces are not. -/
theorem sameBytes_modBody_of {s u : State} {c : CoreId} {f : Body → Body} (hbase : SameBytes s u)
    (h : (f (u.body c)).wb = (u.body c).wb ∧ (f (u.body c)).ab = (u.body c).ab ∧ (f (u.body c)).acc = (u.body c).acc ∧
      (f (u.body c)).gal = (u.body c).gal) : SameBytes s (u.modBody c f) :=
  hbase.trans (modBody_frame h).2

theorem State.forgetAways_sameBytes (s : State) (who : AwayFor) : SameBytes s (s.forgetAways who) := ⟨fun _ => rfl, fun _ _ _ => rfl⟩

/-! Lines of a range -/

theorem linePieces_head {a len v n : Nat} {more : List (Nat × Nat)} (h : linePieces a len = (v, n) :: more) : v = a ∧ n ≤ len := by
  unfold linePieces at h
  split at h
  · cases h
  · rw [List.range_succ_eq_map, List.map_cons] at h
    obtain ⟨rfl, rfl⟩ := Prod.mk.inj (List.cons.inj h).1
    omega

theorem linePieces_sum (v n : Nat) : ((linePieces v n).map (·.2)).sum = n := by
  have hsum (k : Nat) : ((List.range k).map fun i => min (v + n) (128 * (v / 128 + i + 1)) - max v (128 * (v / 128 + i))).sum =
      min (v + n) (max v (128 * (v / 128 + k))) - v := by
    induction k with
    | zero => simp; omega
    | succ k ih => 
      rw [List.range_succ, List.map_append, List.sum_append, ih]
      simp only [List.map_cons, List.map_nil, List.sum_cons, List.sum_nil]
      omega
  unfold linePieces
  split
  next hnone => simp [hnone]
  next =>
    rw [List.map_map]
    refine (hsum _).trans ?_
    omega

/-- Pieces that no view holds are what global memory gave for them. -/
theorem Body.joinPieces_of_unheld (b : Body) {views : Vector ViewEntry 8} {ps : List (Nat × Nat)} {bs : List (BitVec 8)}
    (hfree : ∀ p ∈ ps, findHeld views false p.1 p.2 = none) (hlength : bs.length ≤ (ps.map (·.2)).sum) : b.joinPieces views ps bs = bs := by
  induction ps generalizing bs with
  | nil => exact (List.eq_nil_of_length_eq_zero (Nat.le_zero.mp hlength)).symm
  | cons p ps ih =>
    have hrest : (bs.drop p.2).length ≤ (ps.map (·.2)).sum := by
      rw [List.map_cons, List.sum_cons] at hlength
      rw [List.length_drop]
      omega
    simp only [Body.joinPieces, hfree p (List.mem_cons_self ..), ih (fun q hq => hfree q (List.mem_cons_of_mem _ hq)) hrest, List.take_append_drop]

/-! Reads of global memory -/

/-- Lines that have all answered send nothing further. -/
theorem State.sendNext_of_gathered {s : State} {who : AwayFor} {asn : BitVec 12} {round : Nat} {ps : List (Nat × Nat)} {bs : List (BitVec 8)}
    (h : s.gather who asn round ps = .ok bs) (serial : Bool) : s.sendNext who asn round serial ps = s := by
  induction ps generalizing bs with
  | nil => rfl
  | cons p ps ih =>
    simp only [State.gather] at h
    cases ha : s.access? who asn (.ofNat 56 p.1) p.2 none round with
    | none => simp [ha] at h
    | some x =>
      cases hx : x.answer with
      | none => simp [ha, hx] at h
      | some y =>
        obtain ⟨found, _ | _⟩ := y
        · cases hrest : s.gather who asn round ps with
          | ok more => simp only [State.sendNext, ha, hx, Option.isNone_some, Bool.and_false, Bool.false_eq_true, if_false, ih hrest]
          | fault _ _ => simp [ha, hx, hrest] at h
          | waits => simp [ha, hx, hrest] at h
        · simp [ha, hx] at h

theorem State.glbLines_of_gathered {s : State} {who : AwayFor} {asn : BitVec 12} {round : Nat} {ps : List (Nat × Nat)} {bs : List (BitVec 8)}
    (h : s.gather who asn round ps = .ok bs) (free serial : Bool) : s.glbLines who asn ps round free serial = (.ok bs, s) := by
  simp only [State.glbLines, State.sendNext_of_gathered h, ite_self, h]

/-- The journal of an engine's rows may have changed, nothing else. -/
def OnlyCopyLog (s t : State) : Prop := t = { s with cores := t.cores } ∧ ∀ d, t.body d = s.body d

theorem State.engineRead_of_fresh {s : State} {c : CoreId} {j : Fin 3} {read : State → Glb × State} {bs : List (BitVec 8)}
    (hlog : (s.cores[c].copyLog[j]).length ≤ s.cores[c].copyNext[j]) (hread : read s = (.ok bs, s)) :
    ∃ t, s.engineRead c j read = (.ok bs, t) ∧ OnlyCopyLog s t := by
  unfold State.engineRead
  simp only [List.getElem?_eq_none hlog, hread]
  refine ⟨_, rfl, ?_⟩
  split
  · exact ⟨rfl, fun _ => rfl⟩
  · refine ⟨rfl, fun d => ?_⟩
    simp only [State.body]
    by_cases hd : d = c
    · subst hd
      rw [Vec.getElem_modify_same]
    · rw [Vec.getElem_modify_ne _ _ hd]

theorem OnlyCopyLog.refl (s : State) : OnlyCopyLog s s := ⟨rfl, fun _ => rfl⟩

/-! What a copy has read (R313, R319, R328) -/

theorem State.copyPieces_of_local {s : State} {x : CopyCmd} (hlocal : x.ssp ≠ .glb) (c : CoreId) (u : Fin 2) (ps : List (Nat × Nat)) (round : Nat) :
    s.copyPieces c u x ps round = (.ok (ps.flatMap fun p => (s.body c).read x.ssp p.1 p.2), s) := if_pos hlocal

/-- The read of global memory that a copy makes for its pieces. -/
def CopyCmd.readLines (x : CopyCmd) (c : CoreId) (u : Fin 2) (asn : BitVec 12) (ps : List (Nat × Nat)) (round : Nat) (s : State) : Glb × State :=
  s.glbLines (.copy c u) asn ps round (decide (s.copyLines c u < 2048)) (decide (x.kind = 2))

/-- The pieces of a global source that no view holds are read of global memory. -/
theorem State.copyPieces_of_unheld {s : State} {x : CopyCmd} {ps : List (Nat × Nat)} (hglb : x.ssp = .glb) (hsome : ps ≠ [])
    (hfree : ∀ p ∈ ps, findHeld x.views false p.1 p.2 = none) (c : CoreId) (u : Fin 2) (round : Nat) :
    s.copyPieces c u x ps round = match s.engineRead c ⟨u.val, by omega⟩ (x.readLines c u (s.body c).sys.asn ps round) with
      | (.ok bs, t) => (.ok ((s.body c).joinPieces x.views ps bs), t)
      | r => r := by
  have hout : (ps.filter fun p => (findHeld x.views false p.1 p.2).isNone) = ps :=
    List.filter_eq_self.mpr fun p hp => by rw [hfree p hp, Option.isNone_none]
  simp only [State.copyPieces, hglb, ne_eq, not_true_eq_false, if_false, hout, if_neg hsome]
  rfl

theorem State.copyPieces_of_found {s : State} {c : CoreId} {u : Fin 2} {x : CopyCmd} {round a n : Nat} {bs : List (BitVec 8)}
    (hfound : Found s c u x round a n bs) (hsome : bs ≠ []) :
    ∃ t, s.copyPieces c u x (linePieces a n) round = (.ok bs, t) ∧ OnlyCopyLog s t := by
  obtain ⟨hlocal, rfl⟩ | ⟨hglb, hlength, hfree, hlog, hgather⟩ := hfound
  · exact ⟨s, State.copyPieces_of_local hlocal .., .refl s⟩
  · have hpieces : linePieces a n ≠ [] := fun hnone => by
      rw [hnone] at hgather
      exact hsome (Glb.ok.inj hgather).symm
    have hlines : x.readLines c u (s.body c).sys.asn (linePieces a n) round s = (.ok bs, s) := State.glbLines_of_gathered hgather ..
    obtain ⟨t, hread, ht⟩ := State.engineRead_of_fresh (j := ⟨u.val, by omega⟩) hlog hlines
    refine ⟨t, ?_, ht⟩
    rw [State.copyPieces_of_unheld hglb hpieces hfree, hread]
    dsimp only
    rw [Body.joinPieces_of_unheld _ hfree ((linePieces_sum a n).symm ▸ hlength.le)]

/-! Effects of an engine (R42) -/

theorem State.effect_of_held {s : State} {c : CoreId} {r : Request} (hholds : (s.body c).sendsDirectly = false)
    (hroom : (s.body c).overfull r = false) : s.effect c r =
      State.modBody { s with nextId := s.nextId + 1 } c fun b => { b with held := b.held ++ [{ r with id := s.nextId, core := c }] } := by
  have hnumbered : (s.body c).overfull { r with id := s.nextId, core := c } = false :=
    ((s.body c).overfull_congr (r := { r with id := s.nextId, core := c }) (x := r) rfl rfl rfl).trans hroom
  exact (if_neg (Bool.eq_false_iff.mp hholds)).trans (if_neg (Bool.eq_false_iff.mp hnumbered))

/-- The writes that wait for the end of the cycle, the effects that are held and the write records made given ones. -/
def Body.queue (b : Body) (locals : List LocalWrite) (held : List Request) (writes : List WriteRec) : Body := { b with locals, held, writes }

/-! A line that is handed out (R313, R319) -/

/-- The request of a line of a global destination. -/
def CopyCmd.lineRequest (x : CopyCmd) (c : CoreId) (u : Fin 2) (asn : BitVec 12) (v : Nat) (bs : List (BitVec 8)) : Request :=
  { id := 0, core := c, baddr := x.baddr, issued := x.issued, asn, va := BitVec.ofNat 56 v, op := .copyWrite bs, gslot := false
    engine := if u = 0 then 1 else 2, tok := x.tok, command := some x.id }

/-- The request by which room for a line is judged. -/
def CopyCmd.lineProbe (x : CopyCmd) (c : CoreId) (asn : BitVec 12) (v : Nat) (bs : List (BitVec 8)) : Request :=
  { id := 0, core := c, baddr := x.baddr, issued := 0, asn, va := BitVec.ofNat 56 v, op := .copyWrite bs }

theorem Body.overfull_lineProbe (b : Body) (x : CopyCmd) (c : CoreId) (u : Fin 2) (asn : BitVec 12) (v : Nat) (bs : List (BitVec 8)) :
    b.overfull (x.lineProbe c asn v bs) = b.overfull (x.lineRequest c u asn v bs) := b.overfull_congr rfl rfl rfl

/-- What a line leaves: a write of the local space, or an effect that is held. -/
def LineTaken (b : Body) (u : Fin 2) (x : CopyCmd) (v : Nat) (bs : List (BitVec 8)) (locals : List LocalWrite) (held : List Request) : Prop :=
  if x.dsp = .glb then
    locals = b.locals ∧ ∃ r, held = b.held ++ [r] ∧ r.va = BitVec.ofNat 56 v ∧ r.op = .copyWrite bs ∧ r.asn = b.sys.asn ∧ r.tok = x.tok ∧
      r.command = some x.id
  else held = b.held ∧ locals = b.locals ++ [⟨u.val, x.dsp, v, bs, x.src, [], false⟩]

/-- A line is written into its local space, or into global memory. -/
def State.copyLineOut (s : State) (c : CoreId) (u : Fin 2) (x : CopyCmd) (v : Nat) (bs : List (BitVec 8)) : State :=
  if x.dsp = .glb then s.copyLine1 c u x v bs else s.copyLocal c u x v bs

theorem State.copyLineOut_taken {s : State} {c : CoreId} {u : Fin 2} {x : CopyCmd} {v : Nat} {bs : List (BitVec 8)}
    (hroom : x.dsp = .glb → findHeld x.views false v bs.length = none ∧ (s.body c).sendsDirectly = false ∧
      (s.body c).overfull (x.lineRequest c u (s.body c).sys.asn v bs) = false) :
    ∃ id locals held writes, s.copyLineOut c u x v bs = State.modBody { s with nextId := id } c (·.queue locals held writes) ∧
      LineTaken (s.body c) u x v bs locals held := by
  let r := x.lineRequest c u (s.body c).sys.asn v bs
  let records := byteRecords x.src 5 (bs.zipIdx.map fun (y, i) => (v + i, y))
  unfold State.copyLineOut LineTaken
  split
  next hglb =>
    obtain ⟨hfree, hholds, hfits⟩ := hroom hglb
    refine ⟨s.nextId + 1, (s.body c).locals, (s.body c).held ++ [{ r with id := s.nextId, core := c }], (s.body c).writes ++ records, ?_, rfl, _, rfl,
      rfl, rfl, rfl, rfl, rfl⟩
    have hline : s.copyLine1 c u x v bs = (s.effect c r).modBody c (·.logWrites records) := by
      simp only [State.copyLine1, hfree]
      rfl
    rw [hline, State.effect_of_held hholds hfits, State.modBody_modBody]
    exact State.modBody_congr rfl
  next =>
    refine ⟨s.nextId, (s.body c).locals ++ [⟨u.val, x.dsp, v, bs, x.src, [], false⟩], (s.body c).held, (s.body c).writes, ?_, rfl, rfl⟩
    exact State.modBody_congr rfl

/-! The end of a row and of a copy (R313, R326, R330) -/

/-- The command leaves its unit; a whole one owes its signals. -/
def Body.endCopy (b : Body) (u : Fin 2) (x : CopyCmd) (faulted cancelled : Bool) : Body :=
  { b with
    copies := Vec.modify b.copies u fun k => { k with cmd := none, last := some { x with buf := none }, faulted, cancelled }
    commands := (b.endCommand x.id).commands
    signals := if !faulted && !cancelled && (cdf x.d 15 1 == 1 || cdf x.d 16 1 == 1) then b.signals ++ [⟨u, x, false⟩] else b.signals }

theorem State.endCopy_eq (s : State) (c : CoreId) (u : Fin 2) (x : CopyCmd) (faulted cancelled : Bool) :
    s.endCopy c u x faulted cancelled = (s.forgetAways (.copy c u)).modBody c (·.endCopy u x faulted cancelled) := by
  unfold State.endCopy State.modCopy
  rw [State.modBody_modBody]
  rfl

theorem State.endCopy_modBody (s : State) (c : CoreId) (f : Body → Body) (u : Fin 2) (x : CopyCmd) (faulted cancelled : Bool) :
    (s.modBody c f).endCopy c u x faulted cancelled = (s.forgetAways (.copy c u)).modBody c fun b => (f b).endCopy u x faulted cancelled :=
  (State.endCopy_eq ..).trans (State.modBody_modBody (s.forgetAways (.copy c u)) c f (·.endCopy u x faulted cancelled))

theorem State.setCmd_modBody (s : State) (c : CoreId) (f : Body → Body) (u : Fin 2) (x : CopyCmd) :
    (s.modBody c f).setCmd c u x = s.modBody c fun b => (f b).modCopy u fun k => { k with cmd := some x } :=
  State.modBody_modBody s c f (·.modCopy u fun k => { k with cmd := some x })

theorem Body.modCopy_unit (b : Body) (u : Fin 2) (f : CopyUnit → CopyUnit) : (b.modCopy u f).copies[u] = f b.copies[u] :=
  Vec.getElem_modify_same ..

theorem Body.endCopy_unit (b : Body) (u : Fin 2) (x : CopyCmd) (faulted cancelled : Bool) : (b.endCopy u x faulted cancelled).copies[u] =
    { b.copies[u] with cmd := none, last := some { x with buf := none }, faulted, cancelled } := b.modCopy_unit ..

/-- The point before the next row. -/
def CopyCmd.nextRow (x : CopyCmd) (nextAt : Nat) : CopyCmd := { x with row := x.row + 1, off := 0, buf := none, attempts := 0, nextAt }

/-- A row is over on a core that has changed: the next one comes later, or the copy ends. -/
theorem State.rowDone_of_plain {s : State} {x : CopyCmd} (hring : x.ring = 0) (c : CoreId) (u : Fin 2) (f : Body → Body) :
    ∃ nextAt fresh, s.cycle < nextAt ∧ (s.modBody c f).rowDone c u x = if x.row + 1 < x.rows then
        State.modBody { s with fresh } c fun b => (f b).modCopy u fun k => { k with cmd := some (x.nextRow nextAt) }
      else (State.forgetAways { s with fresh } (.copy c u)).modBody c fun b => (f b).endCopy u (x.nextRow nextAt) false x.cancel := by
  refine ⟨s.cycle + s.lineCycles 1 + Config.engineWait s.fresh, s.fresh + 1, ?_, ?_⟩
  · unfold State.lineCycles
    split <;> omega
  · have hplain : ¬x.ring = 1 := by omega
    simp only [State.rowDone, State.nextFree_eq, if_neg hplain]
    have hfresh : ({ s.modBody c f with fresh := (s.modBody c f).fresh + 1 } : State) = State.modBody { s with fresh := s.fresh + 1 } c f := rfl
    rw [hfresh, State.setCmd_modBody, State.endCopy_modBody]
    rfl

/-! A row that is handed out (R313, R319) -/

theorem State.handOut_of_room {s : State} {c : CoreId} {u : Fin 2} {x : CopyCmd} {bs : List (BitVec 8)} {v n : Nat} {more : List (Nat × Nat)}
    (hoff : x.off = 0) (hring : x.ring = 0) (hpieces : linePieces (x.dstAt x.row).toNat bs.length = (v, n) :: more)
    (hroom : x.dsp = .glb → (s.body c).overfull (x.lineRequest c u (s.body c).sys.asn v (bs.take n)) = false ∧ s.copyLines c u < 2048) :
    s.handOut c u x bs = let t := s.copyLineOut c u x v (bs.take n)
      if n < bs.length then t.setCmd c u { x with buf := some bs, off := n, nextAt := t.cycle + t.lineCycles 1 } else t.rowDone c u x := by
  have hplace : (s.copyPlace c x).2 = x.dstAt x.row := if_neg (by omega)
  have hsend : ¬((x.dsp == .glb && (findHeld x.views false v n).isNone) = true ∧ (s.body c).sendsDirectly = false ∧
      (s.body c).overfull (x.lineProbe c (s.body c).sys.asn v (bs.take n)) = true) ∧
      ¬((x.dsp == .glb && (findHeld x.views false v n).isNone) = true ∧ 2048 ≤ s.copyLines c u) := by
    by_cases hglb : x.dsp = .glb
    · obtain ⟨hfits, hfew⟩ := hroom hglb
      rw [← Body.overfull_lineProbe] at hfits
      exact ⟨fun ⟨_, _, hfull⟩ => Bool.false_ne_true (hfits.symm.trans hfull), fun ⟨_, hmany⟩ => hfew.not_ge hmany⟩
    · simp [hglb]
  obtain ⟨hfits, hfew⟩ := hsend
  simp only [State.handOut, hplace, hoff, Nat.add_zero, Nat.sub_zero, hpieces, List.drop_zero, Nat.zero_add]
  exact (if_neg hfits).trans (if_neg hfew)

/-- A row has been read: its accesses are forgotten, its bytes may stand in the journal, and records may have been posted. -/
structure RowRead (s t : State) (c : CoreId) (u : Fin 2) : Prop where
  rest : t = { s.forgetAways (.copy c u) with cores := t.cores }
  bytes : SameBytes s t
  body : ∃ posts, t.body c = { s.body c with posts }

theorem RowRead.copyLines_eq {s t : State} {c : CoreId} {u : Fin 2} (h : RowRead s t c u) :
    t.copyLines c u = (s.forgetAways (.copy c u)).copyLines c u := by
  rw [h.rest]
  rfl

theorem RowRead.cycle_eq {s t : State} {c : CoreId} {u : Fin 2} (h : RowRead s t c u) : t.cycle = s.cycle := (congrArg State.cycle h.rest).trans rfl

theorem RowRead.lineCycles_eq {s t : State} {c : CoreId} {u : Fin 2} (h : RowRead s t c u) (n : Nat) : t.lineCycles n = s.lineCycles n :=
  (congrArg (State.lineCycles · n) h.rest).trans rfl

/-- What a first line leaves stands in the body that results. -/
theorem firstLine_of_body {s t : State} {c : CoreId} {u : Fin 2} {x : CopyCmd} {bs : List (BitVec 8)} {v n : Nat} {f : Body → Body}
    (hbytes : SameBytes s t) (hspaces : (f (t.body c)).wb = (t.body c).wb ∧ (f (t.body c)).ab = (t.body c).ab ∧
      (f (t.body c)).acc = (t.body c).acc ∧ (f (t.body c)).gal = (t.body c).gal)
    (htaken : LineTaken (s.body c) u x v (bs.take n) (f (t.body c)).locals (f (t.body c)).held)
    (hunit : let k := (f (t.body c)).copies[u]
      if n < bs.length then k.cmd = some { x with buf := some bs, off := n, attempts := 0, nextAt := s.cycle + s.lineCycles 1 }
      else if x.row + 1 < x.rows then ∃ y, k.cmd = some y ∧ y.id = x.id ∧ y.row = x.row + 1 ∧ y.off = 0 ∧ y.buf = none ∧ s.cycle < y.nextAt
      else k.cmd = none ∧ k.faulted = false ∧ k.cancelled = x.cancel) : FirstLine s (t.modBody c f) c u x bs v n := by
  unfold FirstLine
  rw [State.body_modBody_same]
  exact ⟨sameBytes_modBody_of hbytes hspaces, htaken, hunit⟩

/-- The row that has been read moves its first line. -/
theorem firstLine_of_handOut {s t : State} {c : CoreId} {u : Fin 2} {x : CopyCmd} {bs : List (BitVec 8)} {v n : Nat} {more : List (Nat × Nat)}
    (hread : RowRead s t c u) (hoff : x.off = 0) (hring : x.ring = 0) (hpieces : linePieces (x.dstAt x.row).toNat bs.length = (v, n) :: more)
    (hmay : MayHand s c u x bs v n) : FirstLine s (t.handOut c u { x with attempts := 0 } bs) c u x bs v n := by
  obtain ⟨posts, hbody⟩ := hread.body
  have hlength : (bs.take n).length = n := by
    obtain ⟨_, hle⟩ := linePieces_head hpieces
    rw [List.length_take, Nat.min_eq_left hle]
  have hroom (hglb : x.dsp = .glb) : findHeld x.views false v n = none ∧ (t.body c).sendsDirectly = false ∧
      (t.body c).overfull (x.lineRequest c u (t.body c).sys.asn v (bs.take n)) = false ∧ t.copyLines c u < 2048 := by
    obtain ⟨hfree, hholds, hfew, hfits⟩ := hmay hglb
    rw [hbody, hread.copyLines_eq]
    exact ⟨hfree, hholds, hfits (x.lineRequest c u (s.body c).sys.asn v (bs.take n)) rfl rfl rfl, hfew⟩
  obtain ⟨id, locals, held, writes, hline, htaken⟩ := State.copyLineOut_taken (s := t) (c := c) (u := u) (x := { x with attempts := 0 }) (v := v)
    (bs := bs.take n) fun hglb => by
      obtain ⟨hfree, hholds, hfits, _⟩ := hroom hglb
      exact ⟨hlength.symm ▸ hfree, hholds, hfits⟩
  rw [State.handOut_of_room (x := { x with attempts := 0 }) hoff hring hpieces fun hglb => (hroom hglb).2.2, hline]
  rw [hbody] at htaken
  dsimp only
  split
  next hmore =>
    rw [State.setCmd_modBody]
    refine firstLine_of_body hread.bytes ⟨rfl, rfl, rfl, rfl⟩ htaken ?_
    dsimp only
    rw [if_pos hmore, Body.modCopy_unit, ← hread.cycle_eq, ← hread.lineCycles_eq]
    rfl
  next hlast =>
    obtain ⟨nextAt, fresh, hlater, hdone⟩ := State.rowDone_of_plain (s := { t with nextId := id }) (x := { x with attempts := 0 }) hring c u
      (·.queue locals held writes)
    rw [hdone]
    split
    next hrow =>
      have hrow : x.row + 1 < x.rows := hrow
      refine firstLine_of_body hread.bytes ⟨rfl, rfl, rfl, rfl⟩ htaken ?_
      dsimp only
      rw [if_neg hlast, if_pos hrow, Body.modCopy_unit, ← hread.cycle_eq]
      exact ⟨_, rfl, rfl, rfl, rfl, rfl, hlater⟩
    next hrow =>
      have hrow : ¬x.row + 1 < x.rows := hrow
      refine firstLine_of_body hread.bytes ⟨rfl, rfl, rfl, rfl⟩ htaken ?_
      dsimp only
      rw [if_neg hlast, if_neg hrow, Body.endCopy_unit]
      exact ⟨rfl, rfl, rfl⟩

end Sys2Proof.Machine
end

section
/-!
Proofs for O50, rows that a copy unit moves.
-/
namespace Sys2Proof.Machine

/-! Rows (R313, R330, R332) -/

section
variable {s : State} {c : CoreId} {u : Fin 2} {x : CopyCmd} (hdue : s.copyDue c u = some x)
include hdue

theorem State.moveRow_of_cancelled (hbetween : s.betweenRows c u x = true) (hcancel : x.cancel = true) :
    s.moveRow c u = s.endCopy c u x false true := by
  simp only [State.moveRow, hdue, if_pos (And.intro hbetween hcancel)]

/-- A row that is to be read, and that no ring keeps waiting. -/
theorem State.moveRow_of_unread (hgoes : s.betweenRows c u x = true → x.cancel = false ∧ (s.body c).stopping = false) (hbuf : x.buf = none)
    (hring : x.ring = 0) : s.moveRow c u = s.readRow c u x := by
  have hcancel : ¬(s.betweenRows c u x = true ∧ x.cancel = true) := fun ⟨hbetween, h⟩ => Bool.false_ne_true ((hgoes hbetween).1.symm.trans h)
  have hstop : ¬(s.betweenRows c u x = true ∧ (s.body c).stopping = true) := fun ⟨hbetween, h⟩ =>
    Bool.false_ne_true ((hgoes hbetween).2.symm.trans h)
  have hready : s.ringReady c x = true := by
    unfold State.ringReady
    rw [hring]
    rfl
  simp only [State.moveRow, hdue, if_neg hcancel, if_neg hstop, hbuf, if_pos hready]

end

/-- The first place of a row that no ring gives. -/
theorem State.copyPlace_source {s : State} {c : CoreId} {x : CopyCmd} (hring : x.ring = 0) : (s.copyPlace c x).1 = x.srcAt x.row :=
  if_neg (by omega)

theorem State.readRow_of_source {s t : State} {c : CoreId} {u : Fin 2} {x : CopyCmd} {bs again : List (BitVec 8)} (hring : x.ring = 0)
    (hkind : x.kind ≠ 3) (hsource : s.copySource c u x (x.srcAt x.row).toNat = (.ok bs, again, t)) :
    s.readRow c u x = (t.forgetAways (.copy c u)).acceptRow c u x bs again := by
  have hplain : ¬x.ring = 2 := by omega
  simp only [State.readRow, State.copyPlace_source hring, hsource, if_neg hplain, if_neg hkind]

/-- A row as it is found has been read. -/
theorem OnlyCopyLog.rowRead {s t : State} (h : OnlyCopyLog s t) (c : CoreId) (u : Fin 2) : RowRead s (t.forgetAways (.copy c u)) c u where
  rest := congrArg (State.forgetAways · (.copy c u)) h.1
  bytes := by
    obtain ⟨hrest, hbodies⟩ := h
    exact ⟨fun pa => (congrArg (State.physRead · pa 1) hrest :), fun d sp a => (congrArg (Body.read · sp a 1) (hbodies d) :)⟩
  body := ⟨_, h.2 c⟩

/-- A row is found, and its first line moves. -/
theorem firstLine_of_found {s : State} {c : CoreId} {u : Fin 2} {x : CopyCmd} {bs : List (BitVec 8)} {v n : Nat} {more : List (Nat × Nat)}
    (hoff : x.off = 0) (hkind : x.kind = 1) (hring : x.ring = 0) (hfound : Found s c u x 0 (x.srcAt x.row).toNat x.srcBytes bs)
    (hpieces : linePieces (x.dstAt x.row).toNat bs.length = (v, n) :: more) (hmay : MayHand s c u x bs v n) :
    FirstLine s (s.readRow c u x) c u x bs v n := by
  have hsome : bs ≠ [] := fun hnone => by
    rw [hnone] at hpieces
    cases hpieces
  obtain ⟨t, hread, ht⟩ := State.copyPieces_of_found hfound hsome
  have hrow : x.kind ≠ 2 := by rw [hkind]; decide
  have hsource : s.copySource c u x (x.srcAt x.row).toNat = (.ok bs, [], t) := by
    simp only [State.copySource, if_pos hrow, hread]
  rw [State.readRow_of_source hring (by rw [hkind]; decide) hsource]
  have haccept : (t.forgetAways (.copy c u)).acceptRow c u x bs [] = (t.forgetAways (.copy c u)).handOut c u { x with attempts := 0 } bs := by
    simp only [State.acceptRow, if_neg hrow]
  rw [haccept]
  exact firstLine_of_handOut (ht.rowRead c u) hoff hring hpieces hmay

/-! A line that sets out (R313) -/

theorem State.startAccess_frame {s : State} {who : AwayFor} {c : CoreId} (hwho : who.core = some c) (asn : BitVec 12) (v : VA) (n : Nat)
    (bytes : Option (List (BitVec 8))) (round : Nat) :
    let t := s.startAccess who asn v n bytes round
    t.cores = s.cores ∧ t.mem = s.mem ∧ t.accesses = s.accesses ++ [{ id := s.nextId, who, asn, va := v, n, bytes, round }] := by
  unfold State.startAccess
  simp only [hwho]
  rw [State.sendReady_frame]
  exact ⟨rfl, rfl, rfl⟩

theorem State.glbLines_of_new {s : State} {who : AwayFor} {c : CoreId} (hwho : who.core = some c) (hnew : ∀ a ∈ s.accesses, a.who ≠ who)
    (asn : BitVec 12) (p : Nat × Nat) (ps : List (Nat × Nat)) (round : Nat) (serial : Bool) :
    s.glbLines who asn (p :: ps) round true serial = (.waits, s.startAccess who asn (.ofNat 56 p.1) p.2 none round) := by
  have hnone (va : VA) (n : Nat) : (s.accesses.find? fun x => x.who == who && x.asn == asn && x.va == va && x.n == n && x.bytes == none && x.round == round) = none :=
    List.find?_eq_none.mpr fun a ha => by simp [hnew a ha]
  have hsend : s.sendNext who asn round serial (p :: ps) = s.startAccess who asn (.ofNat 56 p.1) p.2 none round := by
    simp only [State.sendNext, State.access?, hnone]
  have haccess : (s.startAccess who asn (.ofNat 56 p.1) p.2 none round).access? who asn (.ofNat 56 p.1) p.2 none round =
      some { id := s.nextId, who, asn, va := .ofNat 56 p.1, n := p.2, bytes := none, round } := by
    rw [State.access?, (State.startAccess_frame hwho ..).2.2, List.find?_append, hnone]
    simp
  simp only [State.glbLines, if_true, hsend, State.gather, haccess, Option.bind_some]

theorem State.readRow_of_new {s : State} {c : CoreId} {u : Fin 2} {x : CopyCmd} {v n : Nat} {more : List (Nat × Nat)} (hkind : x.kind = 1)
    (hring : x.ring = 0) (hglb : x.ssp = .glb) (hpieces : linePieces (x.srcAt x.row).toNat x.srcBytes = (v, n) :: more)
    (hfree : ∀ p ∈ (v, n) :: more, findHeld x.views false p.1 p.2 = none)
    (hlog : (s.cores[c].copyLog[(⟨u.val, by omega⟩ : Fin 3)]).length ≤ s.cores[c].copyNext[(⟨u.val, by omega⟩ : Fin 3)])
    (hfew : s.copyLines c u < 2048) (hnew : ∀ a ∈ s.accesses, a.who ≠ .copy c u) :
    s.readRow c u x = s.keepAways (s.startAccess (.copy c u) (s.body c).sys.asn (.ofNat 56 v) n none 0) := by
  have hlines : x.readLines c u (s.body c).sys.asn ((v, n) :: more) 0 s =
      (.waits, s.startAccess (.copy c u) (s.body c).sys.asn (.ofNat 56 v) n none 0) := by
    rw [CopyCmd.readLines, decide_eq_true hfew]
    exact State.glbLines_of_new (c := c) rfl hnew ..
  have hread : s.engineRead c ⟨u.val, by omega⟩ (x.readLines c u (s.body c).sys.asn ((v, n) :: more) 0) =
      (.waits, s.startAccess (.copy c u) (s.body c).sys.asn (.ofNat 56 v) n none 0) := by
    unfold State.engineRead
    simp only [List.getElem?_eq_none hlog, hlines]
  have hrow : x.kind ≠ 2 := by rw [hkind]; decide
  simp only [State.readRow, State.copyPlace_source hring, State.copySource, if_pos hrow, hpieces,
    State.copyPieces_of_unheld hglb (List.cons_ne_nil _ _) hfree, hread]

theorem rowsMove (s : State) (c : CoreId) : RowsMove s c := by
  intro u x hdue
  refine ⟨fun hbetween hcancel => ?cancelled, fun bs v n more hgoes hbuf hoff hkind hring hfound hpieces hmay => ⟨_, rfl, ?row⟩,
    fun v n more hcancel hstop hbuf hkind hring hglb hpieces hfree hlog hfew hnew => ⟨_, rfl, ?new⟩⟩
  case cancelled =>
    have hexec : exec (.copyRowMove c u) s = _ := congrArg Host.Outcome.next ((State.moveRow_of_cancelled hdue hbetween hcancel).trans (State.endCopy_eq ..))
    obtain ⟨honly, hbytes⟩ := modBody_frame (s := s.forgetAways (.copy c u)) (c := c) (f := (·.endCopy u x false true)) ⟨rfl, rfl, rfl, rfl⟩
    rw [hexec, completes_next, State.body_modBody_same, Body.endCopy_unit]
    exact ⟨honly, (s.forgetAways_sameBytes _).trans hbytes, rfl, rfl, rfl, rfl, rfl, rfl⟩
  case row =>
    rw [State.moveRow_of_unread hdue hgoes hbuf hring]
    exact firstLine_of_found hoff hkind hring hfound hpieces hmay
  case new =>
    obtain ⟨hcores, hmem, haccesses⟩ := State.startAccess_frame (s := s) (who := .copy c u) rfl (s.body c).sys.asn (.ofNat 56 v) n none 0
    rw [State.moveRow_of_unread hdue (fun _ => ⟨hcancel, hstop⟩) hbuf hring, State.readRow_of_new hkind hring hglb hpieces hfree hlog hfew hnew]
    exact ⟨rfl, rfl, _, haccesses, rfl, rfl, rfl, rfl, rfl, rfl⟩

end Sys2Proof.Machine
end

section
/-!
Proofs for O50, tiles that are tried again, table entries, faults of copies and rings.
-/
namespace Sys2Proof.Machine

/-! Tiles (R321, R166) -/

/-- A tile of a local space and its header once more. -/
theorem State.copySource_of_tile {s : State} {c : CoreId} {u : Fin 2} {x : CopyCmd} {a : Nat} {bs again : List (BitVec 8)} (hkind : x.kind = 2)
    (hexpand : cdf x.d 17 1 = 0) (hlocal : x.ssp ≠ .glb) (hfound : Found s c u x 0 a (128 + 1024 * cdf x.d 24 4) bs)
    (hagain : Found s c u x 1 a 128 again) : s.copySource c u x a = (.ok bs, again, s) := by
  obtain ⟨_, rfl⟩ | ⟨hglb, _⟩ := hfound
  · obtain ⟨_, rfl⟩ | ⟨hglb, _⟩ := hagain
    · have htile : ¬x.kind ≠ 2 := not_not.mpr hkind
      simp only [State.copySource, if_neg htile, State.copyTile, if_pos hexpand, State.copyPieces_of_local hlocal]
    · exact absurd hglb hlocal
  · exact absurd hglb hlocal

section
variable {s : State} {c : CoreId} {u : Fin 2} {x : CopyCmd} {bs again : List (BitVec 8)} (hkind : x.kind = 2)
include hkind

theorem State.acceptRow_of_good (hgood : badHeader bs again = none) :
    s.acceptRow c u x bs again = s.handOut c u { x with attempts := 0 } bs := by
  simp only [State.acceptRow, if_pos hkind, hgood]

theorem State.acceptRow_of_bad (hbad : badHeader bs again ≠ none) (hfew : x.attempts + 1 < 256) :
    s.acceptRow c u x bs again = s.setCmd c u { x with attempts := x.attempts + 1, nextAt := s.cycle + 64 } := by
  obtain ⟨r, hr⟩ := Option.ne_none_iff_exists'.mp hbad
  simp only [State.acceptRow, if_pos hkind, hr, if_pos hfew]

/-- A tile that has been read 256 times is handed out as it is, with a record. -/
theorem State.acceptRow_of_spent (hbad : badHeader bs again ≠ none) (hmany : 256 ≤ x.attempts + 1) :
    ∃ r, s.acceptRow c u x bs again = (s.modBody c (·.postAt (1 + u.val) r)).handOut c u { x with attempts := 0 } bs := by
  obtain ⟨r, hr⟩ := Option.ne_none_iff_exists'.mp hbad
  simp only [State.acceptRow, if_pos hkind, hr, if_neg hmany.not_gt]
  exact ⟨_, rfl⟩

end

theorem RowRead.post {s t : State} {c : CoreId} {u : Fin 2} (h : RowRead s t c u) (rank : Nat) (r : StatRec) :
    RowRead s (t.modBody c (·.postAt rank r)) c u where
  rest := (congrArg (fun t' => t'.modBody c (·.postAt rank r)) h.rest).trans rfl
  bytes := sameBytes_modBody_of h.bytes ⟨rfl, rfl, rfl, rfl⟩
  body := by
    obtain ⟨posts, hbody⟩ := h.body
    exact ⟨posts ++ [(rank, r)], by rw [State.body_modBody_same, hbody]; rfl⟩

theorem tilesMove (s : State) (c : CoreId) : TilesMove s c := by
  intro u x bs again hdue htried hoff hkind hexpand hring hlocal hfound hagain
  have hread := (OnlyCopyLog.refl s).rowRead c u
  have hexec : exec (.cptTileRetry c u) s = .next ((s.forgetAways (.copy c u)).acceptRow c u x bs again) := by
    have hretry : exec (.cptTileRetry c u) s = .next (s.readRow c u x) := by
      show execCptTileRetry c u s = _
      simp only [execCptTileRetry, hdue, if_pos htried]
    rw [hretry, State.readRow_of_source hring (by rw [hkind]; decide) (State.copySource_of_tile hkind hexpand hlocal hfound hagain)]
  refine ⟨fun hbad hfew => ?again, fun v n more hready hpieces hmay => ?ready⟩
  case again =>
    rw [hexec, State.acceptRow_of_bad hkind hbad hfew, completes_next, State.setCmd, State.modCopy, State.body_modBody_same]
    exact ⟨(s.forgetAways_sameBytes (.copy c u)).trans (modBody_frame ⟨rfl, rfl, rfl, rfl⟩).2, rfl, rfl, _,
      congrArg CopyUnit.cmd (Body.modCopy_unit ..), rfl, rfl, rfl⟩
  case ready =>
    by_cases hgood : badHeader bs again = none
    · rw [hexec, State.acceptRow_of_good hkind hgood, completes_next]
      exact firstLine_of_handOut hread hoff hring hpieces hmay
    · obtain ⟨r, haccept⟩ := State.acceptRow_of_spent (s := s.forgetAways (.copy c u)) (c := c) (u := u) hkind hgood (hready.resolve_left hgood)
      rw [hexec, haccept, completes_next]
      exact firstLine_of_handOut (hread.post ..) hoff hring hpieces hmay

/-! A copy that a fault ends (R326, R329) -/

/-- A reported fault ends a copy. -/
def Body.failCopy (b : Body) (u : Fin 2) (x : CopyCmd) (k : Command) (cause : Cause) (addr : Int) (aux : BitVec 10) : Body :=
  { b with
    copies := Vec.modify b.copies u fun y => { y with cmd := none, last := some { x with buf := none }, faulted := true, cancelled := false }
    commands := (b.endCommand x.id).commands
    reports := b.reports ++ [⟨cause, k.engine, k.tok, k.baddr, .ofInt 56 addr, aux, k.issued, none, false⟩] }

theorem Body.report_endCopy (b : Body) (u : Fin 2) (x : CopyCmd) (k : Command) (cause : Cause) (addr : Int) (aux : BitVec 10) :
    (b.report k cause addr aux).endCopy u x true false = b.failCopy u x k cause addr aux := rfl

/-- Everything that a fault leaves of a copy. -/
theorem failCopy_leaves (s : State) (c : CoreId) (u : Fin 2) (x : CopyCmd) (k : Command) (cause : Cause) (addr : Int) (aux : BitVec 10) :
    let t := (s.forgetAways (.copy c u)).modBody c (·.failCopy u x k cause addr aux)
    OnlyBody (s.forgetAways (.copy c u)) t c ∧ SameBytes s t ∧ (t.body c).back = (s.body c).back ∧ (t.body c).signals = (s.body c).signals ∧
      ((t.body c).copies[u]).cmd = none ∧ ((t.body c).copies[u]).faulted = true ∧
      (t.body c).reports = (s.body c).reports ++ [⟨cause, k.engine, k.tok, k.baddr, .ofInt 56 addr, aux, k.issued, none, false⟩] := by
  obtain ⟨honly, hbytes⟩ := modBody_frame (s := s.forgetAways (.copy c u)) (c := c) (f := (·.failCopy u x k cause addr aux)) ⟨rfl, rfl, rfl, rfl⟩
  have hunit : ((s.body c).failCopy u x k cause addr aux).copies[u] =
      { (s.body c).copies[u] with cmd := none, last := some { x with buf := none }, faulted := true, cancelled := false } :=
    Vec.getElem_modify_same ..
  dsimp only
  rw [State.body_modBody_same]
  exact ⟨honly, (s.forgetAways_sameBytes _).trans hbytes, rfl, rfl, congrArg CopyUnit.cmd hunit, congrArg CopyUnit.faulted hunit, rfl⟩

/-! Table entries (R323) -/

/-- An entry of a row of a table, its group and its index. -/
def rowEntry (x : CopyCmd) (bs : List (BitVec 8)) : BitVec 64 := .ofNat 64 (natLE ((bs.drop x.off).take 8))
def CopyCmd.entryAt (x : CopyCmd) : Nat := (x.dstAt x.row).toNat + x.off / 8
def CopyCmd.entryGroup (x : CopyCmd) : GroupId := Fin.ofNat 24 (x.entryAt / 1024)
def CopyCmd.entryIndex (x : CopyCmd) : Fin 1024 := Fin.ofNat 1024 x.entryAt

/-- An entry stored, with its record. -/
def Body.storeEntry (b : Body) (x : CopyCmd) (bs : List (BitVec 8)) : Body :=
  let k := b.back.store [x.entryGroup] x.entryIndex (rowEntry x bs)
  { b with back := k, writes := b.writes ++ [tableRecord x.src x.entryGroup x.entryIndex (k.get x.entryGroup x.entryIndex)] }

theorem execCptabEntryWrite_of_due {s : State} {c : CoreId} {u : Fin 2} {x : CopyCmd} {bs : List (BitVec 8)} (hdue : s.copyDue c u = some x)
    (hkind : x.kind = 3) (hbuf : x.buf = some bs) : exec (.cptabEntryWrite c u) s = .next (s.writeEntry c u x bs) := by
  show execCptabEntryWrite c u s = _
  simp only [execCptabEntryWrite, hdue, hbuf, if_pos hkind]

theorem State.writeEntry_of_accepted {s : State} {c : CoreId} {u : Fin 2} {x : CopyCmd} {bs : List (BitVec 8)}
    (haccepted : (s.body c).back.reason x.entryIndex (rowEntry x bs) = none) (hmore : x.off + 8 < bs.length) :
    s.writeEntry c u x bs = s.modBody c fun b => (b.storeEntry x bs).modCopy u fun k => { k with
      cmd := some { x with off := x.off + 8, nextAt := s.cycle + 1 } } := by
  unfold CopyCmd.entryIndex CopyCmd.entryAt rowEntry at haccepted
  simp only [State.writeEntry, haccepted, if_pos hmore]
  exact State.setCmd_modBody s c (·.storeEntry x bs) u { x with off := x.off + 8, nextAt := s.cycle + 1 }

/-- A refused entry with ARM bit 0 set ends its copy with a report. -/
theorem State.writeEntry_of_refused {s : State} {c : CoreId} {u : Fin 2} {x : CopyCmd} {bs : List (BitVec 8)} {why : Nat} {k : Command}
    (hrefused : (s.body c).back.reason x.entryIndex (rowEntry x bs) = some why) (harm : (s.body c).sys.arm.getLsbD 0 = true)
    (hpark : (s.body c).canPark = true) (hcommand : (s.body c).command x.id = some k) :
    s.writeEntry c u x bs = (s.forgetAways (.copy c u)).modBody c (·.failCopy u x k .tableRefused x.entryAt (.ofNat 10 why)) := by
  unfold CopyCmd.entryIndex CopyCmd.entryAt rowEntry at hrefused
  simp only [State.writeEntry, hrefused, harm, hpark, if_true, Bool.true_eq_false, if_false]
  rw [State.endCopy_modBody]
  refine State.modBody_congr ?_
  have hcommand : ((s.forgetAways (.copy c u)).body c).command x.id = some k := hcommand
  rw [hcommand]
  rfl

theorem Bank.store_one (k : Bank) (g h : GroupId) (i j : Fin 1024) (x : BitVec 64) (haccepted : k.reason i x = none) (hne : (h, j) ≠ (g, i)) :
    (k.store [g] i x).get h j = k.get h j := by
  rw [Bank.store_of_accepted _ haccepted, Bank.setClass_frame]
  refine (Bank.get_putAll ..).trans (if_neg fun ⟨hgroup, hindex⟩ => hne ?_)
  rw [List.mem_singleton.mp hgroup, hindex]

theorem entriesMove (s : State) (c : CoreId) : EntriesMove s c := by
  intro u x bs hdue hkind hbuf e pos g i
  have hexec := execCptabEntryWrite_of_due hdue hkind hbuf
  refine ⟨fun haccepted hmore => ?accepted, fun k why hrefused harm hpark hcommand => ?refused⟩
  case accepted =>
    rw [hexec, State.writeEntry_of_accepted haccepted hmore, completes_next, State.body_modBody_same]
    obtain ⟨honly, hbytes⟩ := modBody_frame (s := s) (c := c) (f := fun b => (b.storeEntry x bs).modCopy u fun k => { k with
      cmd := some { x with off := x.off + 8, nextAt := s.cycle + 1 } }) (by simp only [Body.storeEntry, Body.modCopy, and_self])
    exact ⟨honly, hbytes, rfl, fun g' i' hne => Bank.store_one (s.body c).back g g' i i' e haccepted hne, congrArg CopyUnit.cmd (Body.modCopy_unit ..)⟩
  case refused =>
    obtain ⟨honly, hbytes, hback, _, hcmd, hfaulted, hreports⟩ := failCopy_leaves s c u x k .tableRefused pos (.ofNat 10 why)
    rw [hexec, State.writeEntry_of_refused hrefused harm hpark hcommand, completes_next]
    exact ⟨honly, hbytes, hback, hcmd, hfaulted, _, hreports, rfl, BitVec.ofInt_natCast .., rfl⟩

/-! Faults (R326, R329) -/

theorem Body.engineFault_of_command {b : Body} {id : Nat} {baddr : VA} {cause : Cause} {a : Nat} {k : Command} (hcause : cause ≠ .machineCheck)
    (hcommand : b.command id = some k) : b.engineFault id baddr cause a = b.report k cause a := by
  simp only [Body.engineFault, if_neg hcause, hcommand]

theorem State.copyFault_of_command {s : State} {c : CoreId} {u : Fin 2} {x : CopyCmd} {k : Command} {cause : Cause} {a : VA}
    (hcmd : ((s.body c).copies[u]).cmd = some x) (hfault : x.fault = some (cause, a)) (hcause : cause ≠ .machineCheck)
    (hpark : (s.body c).canPark = true) (hcommand : (s.body c).command x.id = some k) :
    s.copyFault c u = (s.forgetAways (.copy c u)).modBody c (·.failCopy u x k cause a.toNat 0) := by
  have hroom : ¬(cause ≠ .machineCheck ∧ (s.body c).canPark = false) := fun ⟨_, hfull⟩ => Bool.false_ne_true (hfull.symm.trans hpark)
  have hreport : ((s.forgetAways (.copy c u)).body c).engineFault x.id x.baddr cause a.toNat = (s.body c).report k cause a.toNat :=
    Body.engineFault_of_command hcause hcommand
  simp only [State.copyFault, State.copyOf, hcmd, hfault, if_neg hroom]
  rw [State.endCopy_modBody]
  exact State.modBody_congr ((congrArg (·.endCopy u x true false) hreport).trans (Body.report_endCopy ..))

theorem copiesFault (s : State) (c : CoreId) : CopiesFault s c := by
  intro u x k cause a hcmd hfault hcause hpark hcommand
  obtain ⟨honly, hbytes, _, hsignals, hnone, hfaulted, hreports⟩ := failCopy_leaves s c u x k cause a.toNat 0
  have hexec : exec (.copyFault c u) s = _ :=
    congrArg Host.Outcome.next (State.copyFault_of_command hcmd hfault hcause hpark hcommand)
  rw [hexec, completes_next]
  exact ⟨honly, hbytes, hnone, hfaulted, hsignals, _, hreports, rfl,
    (BitVec.ofInt_natCast ..).trans (BitVec.ofNat_toNat ..|>.trans (BitVec.setWidth_eq a)), rfl, rfl⟩

/-! Rings (R324) -/

/-- The pointer of a ring that a row of a destination, or of a source, has filled or emptied. -/
def Cb.advance (q : Cb) (prod : Bool) (n : Nat) : Cb :=
  if prod then { q with prod := (q.prod + 1) % (2 * n) } else { q with cons := (q.cons + 1) % (2 * n) }

theorem Body.advanceRing_of_row {b : Body} {u : Fin 2} {prod : Bool} {n : Fin 16} {k : CbCfg} (hadvance : (b.copies[u]).advance = some (prod, n))
    (hcfg : (b.cbs[n]).cfg = some k) : b.advanceRing u = { b with
      copies := Vec.modify b.copies u fun k => { k with advance := none }, cbs := b.cbs.set n ((b.cbs[n]).advance prod k.n) } := by
  simp only [Body.advanceRing, hadvance, hcfg, Cb.advance]

theorem ringsAdvance (s : State) (c : CoreId) : RingsAdvance s c := by
  intro u prod n k hadvance hcfg
  have hbody := Body.advanceRing_of_row hadvance hcfg
  refine (completes_modBody (f := (·.advanceRing u)) hbody ⟨rfl, rfl, rfl, rfl⟩).imp fun t ⟨honly, hbytes, hafter⟩ => ⟨honly, hbytes, ?_⟩
  have hring : (t.body c).cbs[n] = ((s.body c).cbs[n]).advance prod k.n := by
    rw [hafter]
    exact Vector.getElem_set_self ..
  rw [hring]
  refine ⟨?_, ?_, ?_, fun m hm => ?_⟩
  · rw [hafter]
    exact congrArg CopyUnit.advance (Vec.getElem_modify_same ..)
  · unfold Cb.advance
    split <;> rfl
  · unfold Cb.advance
    split <;> rfl
  · rw [hafter]
    exact Vector.getElem_set_ne n.isLt m.isLt fun h => hm (Fin.ext h.symm)

end Sys2Proof.Machine
end

section
/-!
Proofs for O50, the signals of a complete copy.
-/
namespace Sys2Proof.Machine

/-! Signals of a complete copy (R326) -/

/-- The arrival of a copy at its phaser. -/
def CopySignal.arrival (x : CopySignal) (c : CoreId) (b : Body) : Request :=
  { id := 0, core := c, baddr := x.cmd.baddr, issued := x.cmd.issued, asn := b.sys.asn, va := x.cmd.d.extractLsb' 256 56
    op := .arrive (b.sys.teamId.extractLsb' 0 16), gslot := false, engine := if x.unit = 0 then 1 else 2, tok := x.cmd.tok }

/-- The arrival of a signal is made. -/
def Body.markArrived (b : Body) (id : Nat) : Body :=
  { b with signals := b.signals.map fun y => if y.cmd.id = id then { y with arrived := true } else y }

/-- A signal is over. -/
def Body.dropSignal (b : Body) (id : Nat) : Body := { b with signals := b.signals.filter (·.cmd.id != id) }

theorem Body.markArrived_spaces (b : Body) (id : Nat) : (b.markArrived id).wb = b.wb ∧ (b.markArrived id).ab = b.ab ∧
    (b.markArrived id).acc = b.acc ∧ (b.markArrived id).gal = b.gal := ⟨rfl, rfl, rfl, rfl⟩

theorem Body.dropSignal_spaces (b : Body) (id : Nat) : (b.dropSignal id).wb = b.wb ∧ (b.dropSignal id).ab = b.ab ∧
    (b.dropSignal id).acc = b.acc ∧ (b.dropSignal id).gal = b.gal := ⟨rfl, rfl, rfl, rfl⟩

theorem Body.dropSignal_markArrived {b : Body} {x : CopySignal} (hsignals : b.signals = [x]) :
    ((b.markArrived x.cmd.id).dropSignal x.cmd.id).signals = [] := by
  simp [Body.markArrived, Body.dropSignal, hsignals]

section
variable {s : State} {c : CoreId} {u : Fin 2} {x : CopySignal} (hsignals : (s.body c).signals = [x]) (hunit : x.unit = u)
  (hcommand : (s.body c).command x.cmd.id = none)
include hsignals hunit hcommand

theorem State.find_signal : ((s.body c).signals.find? fun y => y.unit == u && s.signalReady c y) = some x := by
  have hready : s.signalReady c x = true := by rw [State.signalReady, hcommand, Option.isNone_none]
  simp [hsignals, hunit, hready]

theorem State.copyComplete_of_arrival (harrived : x.arrived = false) (harrive : cdf x.cmd.d 15 1 = 1) (hpost : cdf x.cmd.d 16 1 = 0)
    (hholds : (s.body c).sendsDirectly = false) (hroom : (s.body c).overfull (x.arrival c (s.body c)) = false) :
    s.copyComplete c u = ((State.modBody { s with nextId := s.nextId + 1 } c fun b =>
      { b with held := b.held ++ [{ x.arrival c (s.body c) with id := s.nextId, core := c }] }).modBody c (·.markArrived x.cmd.id)).modBody c
        (·.dropSignal x.cmd.id) := by
  have hdue : ¬(x.arrived = true ∨ cdf x.cmd.d 15 1 = 0) := by simp [harrived, harrive]
  simp only [State.copyComplete, State.find_signal hsignals hunit hcommand, if_neg hdue, if_pos hpost]
  rw [← State.effect_of_held hholds hroom]
  rfl

theorem State.copyComplete_of_post {t : State} (harrive : cdf x.cmd.d 15 1 = 0) (hpost : cdf x.cmd.d 16 1 = 1)
    (hposted : (s.modBody c (·.markArrived x.cmd.id)).copyPost c x = some t) : s.copyComplete c u = t.modBody c (·.dropSignal x.cmd.id) := by
  have hpost : ¬cdf x.cmd.d 16 1 = 0 := by omega
  unfold Body.markArrived at hposted
  simp only [State.copyComplete, State.find_signal hsignals hunit hcommand, harrive, or_true, if_true, if_neg hpost, hposted]
  rfl

end

/-- A post of the interval is counted. -/
def State.countPost (s : State) (c : CoreId) (posted : Nat) : State :=
  { s with cores := Vec.modify s.cores c fun k => { k with posted, postNext := k.postNext + 1 } }

theorem State.postOnce_of_new {s : State} {c : CoreId} (hnew : s.cores[c].posted ≤ s.cores[c].postNext) (post : State → State) :
    s.postOnce c post = (post s).countPost c (s.cores[c].posted + 1) := by
  unfold State.postOnce
  exact if_neg hnew.not_gt

theorem State.body_countPost (s : State) (c d : CoreId) (posted : Nat) : (s.countPost c posted).body d = s.body d := by
  simp only [State.body, State.countPost]
  by_cases hd : d = c
  · subst hd
    rw [Vec.getElem_modify_same]
  · rw [Vec.getElem_modify_ne _ _ hd]

theorem State.task_countPost (s : State) (c d : CoreId) (posted : Nat) : (s.countPost c posted).task d = s.task d := by
  simp only [State.task, State.countPost]
  by_cases hd : d = c
  · subst hd
    rw [Vec.getElem_modify_same]
  · rw [Vec.getElem_modify_ne _ _ hd]

/-- A state with the memory and the bodies of another one has its bytes. -/
theorem sameBytes_of_bodies {s t : State} (hmem : t.mem = s.mem) (hbodies : ∀ d, t.body d = s.body d) : SameBytes s t :=
  ⟨fun pa => (congrArg (fun m => readBytes m pa 1) hmem :), fun d sp a => (congrArg (Body.read · sp a 1) (hbodies d) :)⟩

/-- The range that a signal posts. -/
def CopySignal.entry (x : CopySignal) (block : BitVec 512) (views : Vector ViewEntry 8) (t : Task) : RangeEntry :=
  { rangeOf block (cdf x.cmd.d 320 32) (cdf x.cmd.d 352 32) views t with grain := cdf x.cmd.d 112 16 }

/-- A range that joins a team's queue as a child of a task. -/
def State.postEntry (s : State) (c : CoreId) (team : Nat) (e : RangeEntry) : State :=
  (s.modTeam team fun y => { y with ranges := y.ranges ++ [e] }).modTask c fun t => { t with children := t.children + 1 }

theorem grains_le {lo hi grain n : Nat} (h : hi - lo ≤ n * max 1 grain) : grains lo hi grain ≤ n := by
  unfold grains
  split
  · omega
  · rw [show max 1 grain = grain by omega] at h
    have hpos : 0 < grain := by omega
    exact Nat.lt_succ_iff.mp ((Nat.div_lt_iff_lt_mul hpos).mpr (by rw [Nat.succ_mul]; omega))

theorem State.copyPost_of_room {s : State} {c : CoreId} {x : CopySignal} {block : BitVec 512} {y : Team}
    (hsome : cdf x.cmd.d 320 32 < cdf x.cmd.d 352 32) (hissued : s.cores[c].issued = none) (hnew : s.cores[c].posted ≤ s.cores[c].postNext)
    (hopen : (s.task c).closed = false) (htemplate : (s.task c).template = some block) (hteam : s.teamOf c = some y)
    (hfrozen : s.rangeFrozen y = false) (hroom : y.ranges.length < 64) (hfew : (s.task c).children < 255)
    (hgrains : cdf x.cmd.d 352 32 - cdf x.cmd.d 320 32 ≤ 65536 * max 1 (cdf x.cmd.d 112 16)) :
    s.copyPost c x = some ((s.postEntry c y.id (x.entry block (s.body c).vts (s.task c))).countPost c (s.cores[c].posted + 1)) := by
  have hclosed : ¬((s.task c).closed = true ∨ s.cores[c].issued.isSome = true) := by
    rw [hopen, hissued]
    simp
  have hgood (fixed : Prop) : ¬(255 ≤ (s.task c).children ∨ fixed ∧ 65536 < grains (cdf x.cmd.d 320 32) (cdf x.cmd.d 352 32) (cdf x.cmd.d 112 16)) :=
    fun h => h.elim hfew.not_ge fun ⟨_, hmany⟩ => (grains_le hgrains).not_gt hmany
  simp only [State.copyPost, if_neg hsome.not_ge, if_neg hclosed, if_neg hnew.not_gt, htemplate, hteam, if_neg (hgood _), hfrozen,
    Bool.false_eq_true, if_false, if_neg hroom.not_ge]
  rw [State.postOnce_of_new hnew]
  rfl

theorem State.rangeFrozen_modBody (s : State) (c : CoreId) (f : Body → Body) (hf : (f (s.body c)).teamFault = (s.body c).teamFault) (y : Team) :
    (s.modBody c f).rangeFrozen y = s.rangeFrozen y := by
  unfold State.rangeFrozen
  refine congrArg (y.frozen || ·) (congrArg (y.cores.any ·) (funext fun d => ?_))
  rw [State.task_modBody]
  by_cases hd : d = c
  · subst hd
    rw [State.body_modBody_same, hf]
  · rw [State.body_modBody_ne _ _ hd]

theorem State.postEntry_leaves {s : State} {c : CoreId} {y : Team} (hteams : s.usher.teams = [y]) (e : RangeEntry) :
    let t := s.postEntry c y.id e
    t.mem = s.mem ∧ (∀ d, t.body d = s.body d) ∧ (t.task c).children = (s.task c).children + 1 ∧
      t.usher.teams = [{ y with ranges := y.ranges ++ [e] }] := by
  refine ⟨rfl, fun d => State.body_modTask .., congrArg Task.children (State.task_modTask_same ..), ?_⟩
  show s.usher.teams.map _ = _
  simp [hteams]

theorem signalsFollow (s : State) (c : CoreId) : SignalsFollow s c := by
  intro u x hsignals hunit hcommand harrived
  refine ⟨fun harrive hpost hholds hroom => ?arrival, fun block k y harrive hpost hsome hissued hnew hopen htemplate hmine hteams hid hfrozen hqueue
    hfew hgrains => ?post⟩
  case arrival =>
    have hexec : exec (.copyComplete c u) s = _ := congrArg Host.Outcome.next
      (State.copyComplete_of_arrival hsignals hunit hcommand harrived harrive hpost hholds (hroom _ rfl rfl))
    rw [hexec, completes_next, State.body_modBody_same, State.body_modBody_same, State.body_modBody_same]
    refine ⟨?_, Body.dropSignal_markArrived hsignals, _, rfl, congrArg ReqOp.arrive (extractLsb'_zero ..), rfl⟩
    have hheld : SameBytes s (State.modBody { s with nextId := s.nextId + 1 } c fun b =>
        { b with held := b.held ++ [{ x.arrival c (s.body c) with id := s.nextId, core := c }] }) :=
      sameBytes_modBody_of (sameBytes_of_bodies rfl fun _ => rfl) ⟨rfl, rfl, rfl, rfl⟩
    exact sameBytes_modBody_of (sameBytes_modBody_of hheld (Body.markArrived_spaces ..)) (Body.dropSignal_spaces ..)
  case post =>
    let t := s.modBody c (·.markArrived x.cmd.id)
    have hteam : t.teamOf c = some y := by
      rw [State.teamOf, State.task_modBody, hmine]
      show s.usher.teams.find? _ = _
      simp [hteams, hid]
    have htask : t.task c = s.task c := State.task_modBody ..
    have hcore : t.cores[c] = { s.cores[c] with b := (s.body c).markArrived x.cmd.id } := State.cores_modBody_same ..
    have hposted := State.copyPost_of_room (s := t) hsome (by rw [hcore]; exact hissued) (by rw [hcore]; exact hnew) (by rw [htask]; exact hopen)
      (by rw [htask]; exact htemplate) hteam ((s.rangeFrozen_modBody c _ rfl y).trans hfrozen) hqueue (by rw [htask]; exact hfew) hgrains
    have hexec : exec (.copyComplete c u) s = _ := congrArg Host.Outcome.next
      (State.copyComplete_of_post hsignals hunit hcommand harrive hpost hposted)
    obtain ⟨hmem, hbodies, hchildren, hranges⟩ := State.postEntry_leaves (s := t) (c := c) hteams (x.entry block (t.body c).vts (t.task c))
    have hbytes : SameBytes s ((t.postEntry c y.id (x.entry block (t.body c).vts (t.task c))).countPost c (t.cores[c].posted + 1)) :=
      (sameBytes_modBody_of (sameBytes_of_bodies rfl fun _ => rfl) (Body.markArrived_spaces ..)).trans
        (sameBytes_of_bodies hmem fun d => (State.body_countPost ..).trans (hbodies d))
    rw [hexec, completes_next]
    refine ⟨sameBytes_modBody_of hbytes (Body.dropSignal_spaces ..), ?_, ?_, _, _, hranges, rfl, rfl, rfl, rfl⟩
    · rw [State.body_modBody_same, State.body_countPost, hbodies, State.body_modBody_same]
      exact Body.dropSignal_markArrived hsignals
    · rw [State.task_modBody, State.task_countPost, hchildren, htask]

end Sys2Proof.Machine
end

section
/-!
Proofs for O50, on what the transform units do on their own: splits, joins, packs, transpositions, rows of LAYOUT, faults.
-/
namespace Sys2Proof.Machine

/-! What an operation leaves (R338) -/

/-- Local bytes and records that wait for the end of the cycle. -/
def Body.leave (b : Body) (locals : List LocalWrite) (posts : List (Nat × StatRec)) : Body :=
  { b with locals := b.locals ++ locals, posts := b.posts ++ posts }

/-- The operation has left local bytes on its core, and perhaps records. -/
def UnitLeaves (s t : State) (c : CoreId) (locals : List LocalWrite) : Prop := ∃ posts, t = s.modBody c (·.leave locals posts)

theorem UnitLeaves.refl (s : State) (c : CoreId) : UnitLeaves s s c [] :=
  ⟨[], (State.modBody_id s c (·.leave [] []) (by simp only [Body.leave, List.append_nil])).symm⟩

theorem UnitLeaves.trans {s t u : State} {c : CoreId} {l m : List LocalWrite} (h : UnitLeaves s t c l) (h' : UnitLeaves t u c m) :
    UnitLeaves s u c (l ++ m) := by
  obtain ⟨posts, rfl⟩ := h
  obtain ⟨more, rfl⟩ := h'
  refine ⟨posts ++ more, (State.modBody_modBody ..).trans (State.modBody_congr ?_)⟩
  simp only [Function.comp_apply, Body.leave, List.append_assoc]

/-- A step that leaves no bytes, such as a record. -/
theorem UnitLeaves.noted {s t t' : State} {c : CoreId} {l : List LocalWrite} (h : UnitLeaves s t c l) (hnote : UnitLeaves t t' c []) : UnitLeaves s t' c l :=
  l.append_nil ▸ h.trans hnote

/-- What waits for the end of the cycle is not read. -/
theorem UnitLeaves.read_eq {s t : State} {c : CoreId} {l : List LocalWrite} (h : UnitLeaves s t c l) (sp : Space) (a n : Nat) :
    (t.body c).read sp a n = (s.body c).read sp a n := by
  obtain ⟨posts, rfl⟩ := h
  rw [State.body_modBody_same]
  cases sp <;> rfl

theorem UnitLeaves.foldl {α : Type} {s : State} {c : CoreId} {f : State → α → State} {w : α → LocalWrite}
    (hstep : ∀ t l a, UnitLeaves s t c l → UnitLeaves t (f t a) c [w a]) (as : List α) : UnitLeaves s (as.foldl f s) c (as.map w) := by
  have hfrom (as : List α) : ∀ t l, UnitLeaves s t c l → UnitLeaves s (as.foldl f t) c (l ++ as.map w) := by
    induction as with
    | nil => exact fun t l h => (List.append_nil l).symm ▸ h
    | cons a as ih =>
      intro t l h
      have hrest := ih (f t a) _ (h.trans (hstep t l a h))
      rwa [List.append_assoc, List.singleton_append] at hrest
  exact hfrom as s [] (.refl s c)

theorem State.unitWrite_leaves (s : State) (c : CoreId) (x : TransformOp) (sp : Space) (off : Nat) (bs : List (BitVec 8)) :
    UnitLeaves s (s.unitWrite c x sp off bs) c [⟨2, sp, off, bs, x.src, [], false⟩] :=
  ⟨[], State.modBody_congr (by simp only [Body.leave, List.append_nil])⟩

theorem State.unitPost_leaves (s : State) (c : CoreId) (x : TransformOp) (kind : BitVec 8) (lane : Nat) (space : BitVec 4) (detail : BitVec 48) :
    UnitLeaves s (s.unitPost c x kind lane space detail) c [] :=
  ⟨_, State.modBody_congr (by simp only [Body.leave, List.append_nil]; rfl)⟩

/-- The operation has left its unit, with its result. -/
def OpLeft (s t : State) (c : CoreId) (u : Fin 4) (truncated done : Nat) : Prop :=
  OnlyBody s t c ∧ SameBytes s t ∧ ((t.body c).transforms[u]).op = none ∧ ((t.body c).transforms[u]).faulted = false ∧
    ((t.body c).transforms[u]).res = BitVec.ofNat 32 truncated ++ BitVec.ofNat 32 done

/-- A transform unit whose operation is over, by a fault or not. -/
def Body.endOp (b : Body) (u : Fin 4) (x : TransformOp) (faulted : Bool) : Body :=
  { b with
    transforms := Vec.modify b.transforms u fun k => { k with
      op := none, last := some x, faulted
      res := if faulted then k.res else BitVec.ofNat 32 x.truncated ++ BitVec.ofNat 32 x.done }
    commands := (b.endCommand x.id).commands }

theorem State.endTransform_eq (s : State) (c : CoreId) (u : Fin 4) (x : TransformOp) (faulted : Bool) :
    s.endTransform c u x faulted = s.modBody c (·.endOp u x faulted) := by
  unfold State.endTransform State.modOp
  rw [State.modBody_modBody]
  rfl

theorem Body.endOp_unit (b : Body) (u : Fin 4) (x : TransformOp) (faulted : Bool) : (b.endOp u x faulted).transforms[u] = { b.transforms[u] with
    op := none, last := some x, faulted
    res := if faulted then b.transforms[u].res else BitVec.ofNat 32 x.truncated ++ BitVec.ofNat 32 x.done } := Vec.getElem_modify_same ..

theorem UnitLeaves.ended {s t : State} {c : CoreId} {l : List LocalWrite} (h : UnitLeaves s t c l) (u : Fin 4) (x : TransformOp) :
    OpLeft s (t.endTransform c u x false) c u x.truncated x.done ∧ ((t.endTransform c u x false).body c).locals = (s.body c).locals ++ l := by
  obtain ⟨posts, rfl⟩ := h
  have hmod : (s.modBody c (·.leave l posts)).endTransform c u x false = s.modBody c fun b => (b.leave l posts).endOp u x false :=
    (State.endTransform_eq ..).trans (State.modBody_modBody s c (·.leave l posts) (·.endOp u x false))
  obtain ⟨honly, hbytes⟩ := modBody_frame (s := s) (c := c) (f := fun b => (b.leave l posts).endOp u x false)
    (by simp only [Body.leave, Body.endOp, and_self])
  unfold OpLeft
  rw [hmod, State.body_modBody_same, Body.endOp_unit]
  exact ⟨⟨honly, hbytes, rfl, rfl, rfl⟩, rfl⟩

section
variable {s : State} {c : CoreId} {u : Fin 4} {x : TransformOp}

/-! Which operation is performed -/

theorem exec_transformComplete_of_due (hdue : s.transformDue c u = some x) :
    exec (.transformComplete c u) s = .next (s.performTransform c u x) := by
  show execTransformComplete c u s = _
  simp only [execTransformComplete, hdue]

theorem State.performTransform_split (hkind : x.kind = 1) (hcnt : x.cnt = 1) :
    s.performTransform c u x = (s.splitRow c x 0).endTransform c u { x with done := 1 } false := by
  rw [State.performTransform, hkind, hcnt]
  rfl

theorem State.performTransform_join (hkind : x.kind = 2) (hcnt : x.cnt = x.done + 1) :
    s.performTransform c u x = s.joinFrom c u x 1 := by
  rw [State.performTransform, hkind, hcnt, Nat.add_sub_cancel_left]
  rfl

theorem State.performTransform_pack {k : CBuf} (hkind : x.kind = 3) (hbuf : x.buf = some k) (hcnt : x.cnt = 1) :
    s.performTransform c u x = (s.packOne c x k 0).1.endTransform c u
      { x with done := 1, truncated := if (s.packOne c x k 0).2 then 1 else 0 } false := by
  rw [State.performTransform, hkind, hcnt, hbuf]
  rfl

theorem State.performTransform_transpose (hkind : x.kind = 4 ∨ x.kind = 5) (hcnt : x.cnt = 1) :
    s.performTransform c u x = (s.transposeOne c x 0).endTransform c u { x with done := 1 } false := by
  have hall : s.performTransform c u x =
      ((List.range x.cnt).foldl (fun s t => s.transposeOne c x t) s).endTransform c u { x with done := x.cnt } false := by
    have hval : x.kind.val = 4 ∨ x.kind.val = 5 := hkind.imp (congrArg Fin.val) (congrArg Fin.val)
    obtain hval | hval := hval <;> simp only [State.performTransform, hval]
  rw [hall, hcnt, List.range_one, List.foldl_cons, List.foldl_nil]

theorem State.performTransform_layout (hkind : x.kind = 6) : s.performTransform c u x = s.layoutStep c u x := by
  rw [State.performTransform, hkind]
  rfl

/-! A row of a split (R341) -/

/-- The block of the first row of a split. -/
def TransformOp.splitBlock (x : TransformOp) (b : Body) : NpfBlock :=
  let f := afield x.arg 0 4
  npfEncode ((List.range 64).map fun e => cvtValue f (b.read ((portSpace x.inp).getD .gal) (portOff x.inp + e * cvtSize f) (cvtSize f)))
    x.planes (afield x.arg 12 2 == 1) (if afield x.arg 14 1 = 1 then some (afield x.arg 16 8) else none)

theorem State.note_leaves (s : State) (c : CoreId) (x : TransformOp) (kind : BitVec 8) (space : BitVec 4) (detail : BitVec 48) (lane : Option Nat) :
    UnitLeaves s (match lane with | some l => s.unitPost c x kind l space detail | none => s) c [] := by
  cases lane with
  | none => exact .refl s c
  | some l => exact s.unitPost_leaves ..

theorem State.splitRow_leaves (s : State) (c : CoreId) (x : TransformOp) :
    UnitLeaves s (s.splitRow c x 0) c (⟨2, (portSpace x.out).getD .gal, headerOff (portOff x.out) 0,
      bytesLE 2 (x.splitBlock (s.body c)).hdr.toNat, x.src, [], false⟩ :: (List.range x.planes).map fun j =>
        ⟨2, (portSpace x.out).getD .gal, planeRowOff (portOff x.out) 0 j, planeRow x.planes j (x.splitBlock (s.body c)).ms, x.src, [], false⟩) := by
  have hsource : (portOff x.inp + ((0 : Nat) : Int) * astride x.aux 0).toNat = portOff x.inp := by simp
  simp only [State.splitRow, TransformOp.splitBlock, hsource, Nat.zero_div, Nat.zero_mod, Nat.zero_mul, Nat.add_zero]
  obtain ⟨ms, hdr, nan, sat⟩ := npfEncode _ _ _ _
  have hheader := s.unitWrite_leaves c x ((portSpace x.out).getD .gal) (headerOff (portOff x.out) 0) (bytesLE 2 hdr.toNat)
  have hplanes := hheader.trans (.foldl (fun t _ j _ => t.unitWrite_leaves c x ((portSpace x.out).getD .gal) (planeRowOff (portOff x.out) 0 j)
    (planeRow x.planes j ms)) (List.range x.planes))
  have hnoted := (hplanes.noted (State.note_leaves _ c x 5 ((portSpace x.out).getD .gal).code (.ofNat 48 (headerOff (portOff x.out) 0)) nan)).noted
    (State.note_leaves _ c x 6 ((portSpace x.out).getD .gal).code (.ofNat 48 (headerOff (portOff x.out) 0)) sat)
  exact hnoted

/-! A row of a join (R342) -/

theorem npfRead_length (e : Nat) (rows : List (List (BitVec 8))) (next : Option (List (BitVec 8))) : (npfRead e rows next).length = 64 := by
  have hmantissas : (mantissas rows).length = 64 := by simp only [mantissas, List.length_map, List.length_range]
  unfold npfRead
  split
  · exact List.length_replicate
  · split
    · exact hmantissas
    · simp only [List.length_map, List.length_zipIdx, hmantissas]

theorem joinBytes_length (f : Nat) (v : BitVec 32) : (joinBytes f v).1.length = cvtSize f := by
  unfold joinBytes cvtSize
  split <;> exact length_bytesLE ..

/-- Elements of row i of a join in the destination format, and whether they overflowed. -/
def TransformOp.joinOut (x : TransformOp) (b : Body) (i : Nat) (spent : Bool) : List (List (BitVec 8) × Bool) :=
  let sp := (portSpace x.inp).getD .gal
  let t := portOff x.inp + i / 64 * tileBytes x.planes
  let k := afield x.arg 8 4
  (b.npfPrefix sp t (i % 64) x.planes k (afield x.arg 12 2 == 1)).map fun m =>
    joinBytes (afield x.arg 24 4) (if spent then 0 else npfValue (headerE (b.npfHeader sp t (i % 64))) k m)

theorem TransformOp.joinOut_length (x : TransformOp) (b : Body) (i : Nat) (spent : Bool) :
    ((x.joinOut b i spent).flatMap (·.1)).length = 64 * cvtSize (afield x.arg 24 4) := by
  simp only [TransformOp.joinOut, Body.npfPrefix, List.length_flatMap, List.map_map, Function.comp_def, joinBytes_length, List.map_const',
    List.sum_replicate, npfRead_length, smul_eq_mul]

theorem State.joinRow_leaves (s : State) (c : CoreId) (x : TransformOp) (i : Nat) (spent : Bool) :
    UnitLeaves s (s.joinRow c x i spent) c [⟨2, (portSpace x.out).getD .gal, (portOff x.out + i * astride x.aux 0).toNat,
      (x.joinOut (s.body c) i spent).flatMap (·.1), x.src, [], false⟩] := by
  have hnoted := (s.unitWrite_leaves c x ((portSpace x.out).getD .gal) (portOff x.out + i * astride x.aux 0).toNat
    ((x.joinOut (s.body c) i spent).flatMap (·.1))).noted
      (State.note_leaves _ c x 2 0 Config.transformDetail ((x.joinOut (s.body c) i spent).findIdx? (·.2)))
  cases spent with
  | false => exact hnoted
  | true => exact hnoted.noted (State.unitPost_leaves ..)

/-- The header of the row from which a join goes on. -/
def TransformOp.joinHeader (x : TransformOp) (b : Body) : Nat :=
  headerE (b.npfHeader ((portSpace x.inp).getD .gal) (portOff x.inp + x.done / 64 * tileBytes x.planes) (x.done % 64))

theorem State.joinFrom_of_ready (hready : x.joinHeader (s.body c) ≠ 255 ∨ 256 ≤ x.attempts + 1) : s.joinFrom c u x 1 =
    (s.joinRow c x x.done (decide (x.joinHeader (s.body c) = 255))).endTransform c u { x with done := x.done + 1, attempts := 0 } false := by
  refine if_neg fun ⟨hbad, hfew⟩ => ?_
  exact hready.elim (· hbad) hfew.not_ge

theorem State.joinFrom_of_bad (hbad : x.joinHeader (s.body c) = 255) (hfew : x.attempts + 1 < 256) :
    s.joinFrom c u x 1 = s.putOp c u { x with attempts := x.attempts + 1, nextAt := s.cycle + 64 } := if_pos ⟨hbad, hfew⟩

/-! A pack (R345) -/

theorem State.packOne_leaves (s : State) (c : CoreId) (x : TransformOp) (k : CBuf) :
    let r := packTile k ((s.body c).read ((portSpace x.inp).getD .gal) (portOff x.inp) (tileBytes k.p))
    UnitLeaves s (s.packOne c x k 0).1 c [⟨2, .ab, portOff x.out, r.1, x.src, [], false⟩] ∧ (s.packOne c x k 0).2 = r.2 := by
  intro r
  have hsource : (portOff x.inp + ((0 : Nat) : Int) * x.tileStride).toNat = portOff x.inp := by simp
  simp only [State.packOne, hsource, Nat.zero_mul, Nat.add_zero]
  have hwrite := s.unitWrite_leaves c x .ab (portOff x.out) r.1
  refine ⟨?_, rfl⟩
  split
  · exact hwrite.noted (State.unitPost_leaves ..)
  · exact hwrite

/-! A transposition (R343) -/

/-- Destination row `col` of the first matrix. -/
def TransformOp.transposedRow (x : TransformOp) (b : Body) (col : Nat) : LocalWrite :=
  ⟨2, (portSpace x.out).getD .gal, (portOff x.out + col * astride x.arg 32).toNat, (List.range 64).flatMap fun (r : Nat) =>
    b.read ((portSpace x.inp).getD .gal) (portOff x.inp + (transposed (astride x.arg 32) x.elem col r).1 * astride x.arg 0 +
      (transposed (astride x.arg 32) x.elem col r).2 * x.elem).toNat x.elem, x.src, [], false⟩

theorem State.transposeOne_leaves (s : State) (c : CoreId) (x : TransformOp) :
    UnitLeaves s (s.transposeOne c x 0) c ((List.range 64).map (x.transposedRow (s.body c))) := by
  simp only [State.transposeOne, Nat.cast_zero, Int.zero_mul, Int.add_zero]
  refine UnitLeaves.foldl (w := x.transposedRow (s.body c)) (fun t l col h => ?_) _
  simp only [h.read_eq]
  exact t.unitWrite_leaves ..

theorem TransformOp.elem_pos (x : TransformOp) : 0 < x.elem := by
  unfold TransformOp.elem
  split <;> decide

/-- Destination rows that do not overlap take their elements from one source column each. -/
theorem transposed_of_apart {drs : Int} {w r : Nat} (hw : 0 < w) (hapart : 64 * w ≤ drs.natAbs) (col : Nat) (hr : r < 64) :
    transposed drs w col r = (r, col) := by
  have hnear {a : Nat} (ha : a < 64) (hdvd : (col * drs + ((r : Int) - a) * w) % drs = 0) : a = r := by
    have hmul : drs ∣ ((r : Int) - a) * w := (Int.dvd_add_right (Int.dvd_mul_left ..)).mp (Int.dvd_of_emod_eq_zero hdvd)
    have hlt : (((r : Int) - a) * w).natAbs < drs.natAbs := by
      rw [Int.natAbs_mul, Int.natAbs_natCast]
      calc ((r : Int) - a).natAbs * w < 64 * w := Nat.mul_lt_mul_of_pos_right (by omega) hw
        _ ≤ _ := hapart
    have hzero := (Int.mul_eq_zero.mp (Int.eq_zero_of_dvd_of_natAbs_lt_natAbs hmul hlt)).resolve_right (by omega)
    omega
  have hdrs : drs ≠ 0 := by omega
  have hdiv : (col * drs + ((r : Int) - r) * w) / drs = col := by
    rw [Int.sub_self, Int.zero_mul, Int.add_zero, Int.mul_ediv_cancel _ hdrs]
  rw [transposed, if_neg hdrs]
  cases hfind : (List.range 64).reverse.findSome? _ with
  | none => rfl
  | some p =>
    obtain ⟨a, ha, hp⟩ := List.exists_of_findSome?_eq_some hfind
    obtain ⟨⟨hdvd, _⟩, hp⟩ := Option.ite_none_right_eq_some.mp hp
    obtain rfl := hnear (List.mem_range.mp (List.mem_reverse.mp ha)) hdvd
    rw [Option.getD_some, ← Option.some.inj hp, hdiv, Int.toNat_natCast]

/-! A line of LAYOUT (R348) -/

theorem State.putOp_leaves (s : State) (c : CoreId) (u : Fin 4) (x : TransformOp) :
    OnlyBody s (s.putOp c u x) c ∧ SameBytes s (s.putOp c u x) ∧ ((s.putOp c u x).body c).locals = (s.body c).locals ∧
      ((s.putOp c u x).body c).held = (s.body c).held ∧ (((s.putOp c u x).body c).transforms[u]).op = some x := by
  unfold State.putOp State.modOp
  obtain ⟨honly, hbytes⟩ := modBody_frame (s := s) (c := c)
    (f := fun b => { b with transforms := Vec.modify b.transforms u fun k => { k with op := some x } }) ⟨rfl, rfl, rfl, rfl⟩
  rw [State.body_modBody_same]
  exact ⟨honly, hbytes, rfl, rfl, congrArg TransformUnit.op (Vec.getElem_modify_same ..)⟩

theorem State.endTransform_held (s : State) (c : CoreId) (u : Fin 4) (x : TransformOp) (faulted : Bool) :
    ((s.endTransform c u x faulted).body c).held = (s.body c).held := by
  rw [State.endTransform_eq, State.body_modBody_same]
  rfl

/-- Where the line that is due lies. -/
def TransformOp.lineAt (x : TransformOp) : VA := .ofNat 56 (portOff x.out + x.done * (geometryOf x.arg x.aux).rowStride + x.off)

/-- The request of a line of a row. -/
def TransformOp.lineRequest (x : TransformOp) (c : CoreId) (asn : BitVec 12) (bs : List (BitVec 8)) : Request :=
  { id := 0, core := c, baddr := x.baddr, issued := x.issued, asn, va := x.lineAt, op := .copyWrite ((bs.drop x.off).take 128), gslot := false
    engine := 4, tok := x.tok, command := some x.id }

/-- A line for which there is room is held as an effect; its bytes are recorded. -/
theorem State.layoutLine_leaves {r : Request} (hholds : (s.body c).sendsDirectly = false) (hroom : (s.body c).overfull r = false) (src : Src)
    (piece : List (BitVec 8)) : SameBytes s (s.layoutLine c r src piece) ∧
      ((s.layoutLine c r src piece).body c).held = (s.body c).held ++ [{ r with id := s.nextId, core := c }] := by
  unfold State.layoutLine
  rw [State.effect_of_held hholds hroom, State.body_modBody_same, State.body_modBody_same]
  refine ⟨sameBytes_modBody_of (sameBytes_modBody_of ⟨fun _ => rfl, fun _ _ _ => rfl⟩ ⟨rfl, rfl, rfl, rfl⟩) ⟨rfl, rfl, rfl, rfl⟩, rfl⟩

theorem State.layoutStep_of_room {bs : List (BitVec 8)} (hrow : x.row = some bs)
    (hroom : (s.body c).overfull (x.lineRequest c (s.body c).sys.asn bs) = false) : s.layoutStep c u x =
      let t := s.layoutLine c (x.lineRequest c (s.body c).sys.asn bs) x.src ((bs.drop x.off).take 128)
      let next := s.cycle + s.lineCycles 1
      if x.off + 128 < (geometryOf x.arg x.aux).rowStride then t.putOp c u { x with off := x.off + 128, nextAt := next }
      else if x.done + 1 < x.cnt then t.putOp c u { x with row := none, off := 0, done := x.done + 1, nextAt := next }
      else t.endTransform c u { x with row := none, off := 0, done := x.done + 1, nextAt := next } false := by
  have hstep : s.layoutStep c u x = s.layoutHand c u x bs := by simp only [State.layoutStep, hrow]
  have hfits : ¬((s.body c).sendsDirectly = false ∧ (s.body c).overfull (x.lineRequest c (s.body c).sys.asn bs) = true) := fun ⟨_, hfull⟩ =>
    Bool.false_ne_true (hroom.symm.trans hfull)
  rw [hstep, hrow]
  exact if_neg hfits

end

/-! Operations that complete (R338) -/

theorem transformsComplete (s : State) (c : CoreId) : TransformsComplete s c := by
  intro u x hdue
  have hexec := exec_transformComplete_of_due hdue
  refine ⟨fun hkind hcnt => ?split, fun k hkind hbuf hcnt => ?pack, fun hkind hcnt => ⟨fun hapart col _ r hr => ?apart, ?transpose⟩,
    fun hkind hcnt => ⟨fun hready => ?join, fun hbad hfew => ?again⟩, fun bs hkind hrow hholds hroom => ?layout⟩
  case split =>
    obtain ⟨hleft, hlocals⟩ := (s.splitRow_leaves c x).ended u { x with done := 1 }
    rw [hexec, State.performTransform_split hkind hcnt, completes_next]
    refine ⟨hleft, hlocals.trans ?_⟩
    rw [List.append_assoc]
    rfl
  case pack =>
    obtain ⟨hleaves, hdropped⟩ := s.packOne_leaves c x k
    rw [hexec, State.performTransform_pack hkind hbuf hcnt, completes_next, hdropped]
    exact hleaves.ended u _
  case apart => exact transposed_of_apart x.elem_pos hapart col hr
  case transpose =>
    rw [hexec, State.performTransform_transpose hkind hcnt, completes_next]
    exact (s.transposeOne_leaves c x).ended u _
  case join =>
    obtain ⟨hleft, hlocals⟩ := (s.joinRow_leaves c x x.done (decide (x.joinHeader (s.body c) = 255))).ended u
      { x with done := x.done + 1, attempts := 0 }
    rw [hexec, State.performTransform_join hkind hcnt, State.joinFrom_of_ready hready, completes_next]
    exact ⟨hleft, _, hlocals, x.joinOut_length ..⟩
  case again =>
    obtain ⟨honly, hbytes, hlocals, _, hop⟩ := s.putOp_leaves c u { x with attempts := x.attempts + 1, nextAt := s.cycle + 64 }
    rw [hexec, State.performTransform_join hkind hcnt, State.joinFrom_of_bad hbad hfew, completes_next]
    exact ⟨honly, hbytes, hlocals, hop⟩
  case layout =>
    have hfits := hroom (x.lineRequest c (s.body c).sys.asn bs) rfl
    obtain ⟨hline, hheld⟩ := State.layoutLine_leaves hholds hfits x.src ((bs.drop x.off).take 128)
    rw [hexec, State.performTransform_layout hkind, State.layoutStep_of_room hrow hfits, completes_next]
    dsimp only
    generalize s.layoutLine c _ x.src _ = t at hline hheld ⊢
    split
    next hmore =>
      obtain ⟨_, hbytes, _, hkept, hop⟩ := t.putOp_leaves c u { x with off := x.off + 128, nextAt := s.cycle + s.lineCycles 1 }
      exact ⟨hline.trans hbytes, _, hkept.trans hheld, rfl, rfl, rfl, rfl, hop⟩
    next hlast =>
      split
      next hrows =>
        obtain ⟨_, hbytes, _, hkept, hop⟩ := t.putOp_leaves c u
          { x with row := none, off := 0, done := x.done + 1, nextAt := s.cycle + s.lineCycles 1 }
        exact ⟨hline.trans hbytes, _, hkept.trans hheld, rfl, rfl, rfl, rfl, hop⟩
      next hend =>
        obtain ⟨⟨_, hbytes, hop, hfaulted, _⟩, _⟩ := (UnitLeaves.refl t c).ended u
          { x with row := none, off := 0, done := x.done + 1, nextAt := s.cycle + s.lineCycles 1 }
        exact ⟨hline.trans hbytes, _, (State.endTransform_held ..).trans hheld, rfl, rfl, rfl, rfl, hop, hfaulted⟩

/-! Faults (R338) -/

/-- A reported fault ends an operation. -/
def Body.failOp (b : Body) (u : Fin 4) (x : TransformOp) (k : Command) (cause : Cause) (a : Nat) : Body :=
  (b.report k cause a).endOp u x true

theorem State.transformFault_of_command {s : State} {c : CoreId} {u : Fin 4} {x : TransformOp} {k : Command} {cause : Cause} {a : VA}
    (hop : ((s.body c).transforms[u]).op = some x) (hfault : x.fault = some (cause, a)) (hcause : cause ≠ .machineCheck)
    (hpark : (s.body c).canPark = true) (hcommand : (s.body c).command x.id = some k) :
    s.transformFault c u = s.modBody c (·.failOp u x k cause a.toNat) := by
  have hroom : ¬(cause ≠ .machineCheck ∧ (s.body c).canPark = false) := fun ⟨_, hfull⟩ => Bool.false_ne_true (hfull.symm.trans hpark)
  simp only [State.transformFault, hop, hfault, if_neg hroom]
  rw [State.endTransform_eq, State.modBody_modBody]
  exact State.modBody_congr (congrArg (·.endOp u x true) (Body.engineFault_of_command hcause hcommand))

theorem transformsFault (s : State) (c : CoreId) : TransformsFault s c := by
  intro u x k cause a hop hfault hcause hpark hcommand
  have hexec : exec (.transformFault c u) s = _ :=
    congrArg Host.Outcome.next (State.transformFault_of_command hop hfault hcause hpark hcommand)
  obtain ⟨honly, hbytes⟩ := modBody_frame (s := s) (c := c) (f := (·.failOp u x k cause a.toNat))
    (by simp only [Body.failOp, Body.endOp, Body.report, and_self])
  have hunit : ((s.body c).failOp u x k cause a.toNat).transforms[u] = { (s.body c).transforms[u] with
      op := none, last := some x, faulted := true } := Body.endOp_unit ..
  rw [hexec, completes_next, State.body_modBody_same]
  exact ⟨honly, hbytes, congrArg TransformUnit.op hunit, congrArg TransformUnit.faulted hunit, (congrArg TransformUnit.res hunit).trans rfl, _, rfl, rfl,
    (BitVec.ofInt_natCast ..).trans (BitVec.ofNat_toNat ..|>.trans (BitVec.setWidth_eq a)), rfl⟩

/-- Settles O50: each of its parts is a case of what a copy or transform unit does on its own. -/
theorem copyTransformEvents : Obligations.CopyTransformEvents := fun s c =>
  ⟨rowsMove s c, tilesMove s c, entriesMove s c, ringsAdvance s c, signalsFollow s c, copiesFault s c, transformsComplete s c, transformsFault s c⟩

end Sys2Proof.Machine
end

section
/-!
Proof of the statement that every step keeps the invariant: one lemma for each function of the model that answers a state, in the order of
the model's files. Memory changes in `physWrite` and `moduleReset` alone and the log in `logEvent` alone; every other function keeps the
invariant because those that it calls do.
-/
namespace Sys2Proof.Machine

variable {s : State}

/-- Of an instruction's or a turn's answer: a next state meets the invariant. -/
def InvNext (r : Result) : Prop := ∀ ⦃t⦄, r = .next t → Inv t
/-- Of a state that there may be: it meets the invariant. -/
def InvSome (o : Option State) : Prop := ∀ ⦃t⦄, o = some t → Inv t
/-- Of an operation of the usher, over or waiting: the state that it leaves meets the invariant. -/
def InvServed (r : Served) : Prop := ∀ ⦃t⦄, r = .done t ∨ r = .waits t → Inv t

/-! The shapes of the model's definitions: updates of other fields, case splits, pairs, loops -/

/-- Fields other than memory and the log play no part. -/
theorem Inv.update {cycle epoch powered inputs turn cur pre fresh cores nextId requests delivered hall atrium mtlb fabcfg poison
    routers sent period aways accesses places migrations wires logCount nodes host newel usher} (h : Inv s) :
    Inv { cycle, epoch, powered, inputs, turn, cur, pre, fresh, cores, nextId, requests, delivered, hall, atrium, mtlb, fabcfg, poison, routers,
          sent, period, aways, accesses, places, migrations, wires, logCount, nodes, host, newel, usher, mem := s.mem, log := s.log } := h
theorem Inv.ite {t : State} {p : Prop} [Decidable p] (hs : Inv s) (ht : Inv t) : Inv (if p then s else t) := by split <;> assumption
theorem Inv.of_eq {α : Type} {r : α × State} {a : α} {t : State} (e : r = (a, t)) (h : Inv r.2) : Inv t := by rw [e] at h; exact h
theorem Inv.ite_snd {α : Type} {p : Prop} [Decidable p] {r q : α × State} (hr : Inv r.2) (hq : Inv q.2) : Inv (if p then r else q).2 := by
  split <;> assumption
theorem Inv.next (h : Inv s) : InvNext (.next s) := fun _ e => by cases e; exact h
theorem InvNext.fault {x : Fault} : InvNext (.fault x) := fun _ e => by cases e
theorem InvNext.refused {x : Refusal} : InvNext (.refused x) := fun _ e => by cases e
theorem InvNext.ite {r q : Result} {p : Prop} [Decidable p] (hr : InvNext r) (hq : InvNext q) : InvNext (if p then r else q) := by
  split <;> assumption
theorem Inv.ofSome (h : Inv s) : InvSome (some s) := fun _ e => by cases e; exact h
theorem InvSome.ofNone : InvSome none := fun _ e => by cases e
theorem InvSome.ite {r q : Option State} {p : Prop} [Decidable p] (hr : InvSome r) (hq : InvSome q) : InvSome (if p then r else q) := by
  split <;> assumption
theorem Inv.done (h : Inv s) : InvServed (.done s) := fun _ e => by rcases e with e | e <;> cases e; exact h
theorem Inv.waits (h : Inv s) : InvServed (.waits s) := fun _ e => by rcases e with e | e <;> cases e; exact h
theorem InvServed.ite {r q : Served} {p : Prop} [Decidable p] (hr : InvServed r) (hq : InvServed q) : InvServed (if p then r else q) := by
  split <;> assumption
theorem Inv.foldl {α : Type} {f : State → α → State} {l : List α} (hf : ∀ s x, Inv s → Inv (f s x)) (h : Inv s) : Inv (l.foldl f s) := by
  induction l generalizing s with
  | nil => exact h
  | cons x l ih => exact ih (hf s x h)
theorem Inv.foldl_fst {α β : Type} {f : State × β → α → State × β} {l : List α} (hf : ∀ r x, Inv r.1 → Inv (f r x).1) {r : State × β}
    (h : Inv r.1) : Inv (l.foldl f r).1 := by
  induction l generalizing r with
  | nil => exact h
  | cons x l ih => exact ih (hf r x h)

/-! Memory and the log -/

theorem canonFrom_filter {α : Type} [DecidableEq α] (d : α) (p : Nat × α → Bool) (m : Sparse α) (lo : Nat) (h : canonFrom d lo m) :
    canonFrom d lo (m.filter p) := by
  induction m generalizing lo with
  | nil => exact h
  | cons e m ih =>
    simp only [canonFrom, Bool.and_eq_true, decide_eq_true_eq] at h
    obtain ⟨⟨hlo, hne⟩, hm⟩ := h
    rw [List.filter_cons]
    split
    · simp only [canonFrom, Bool.and_eq_true, decide_eq_true_eq]
      exact ⟨⟨hlo, hne⟩, ih _ hm⟩
    · exact canonFrom_mono d (by omega) (ih _ hm)

/-! What Machine/Ops.lean defines -/

theorem Inv.modBody {c f} (h : Inv s) : Inv (s.modBody c f) := h.update
theorem Inv.modMe {f} (h : Inv s) : Inv (s.modMe f) := h.modBody
theorem Inv.modGroup {g f} (h : Inv s) : Inv (s.modGroup g f) := h.modMe
theorem Inv.wg {r v lat} (h : Inv s) : Inv (s.wg r v lat) := h.modMe
theorem Inv.wp {r v lat} (h : Inv s) : Inv (s.wp r v lat) := Inv.ite h h.modMe
theorem Inv.raise {cause taddr aux} (h : Inv s) : Inv (s.raise cause taddr aux) := by
  unfold State.raise
  extract_lets
  split
  · exact h
  · exact h.update
theorem Inv.holdFor {h} (hs : Inv s) : Inv (s.holdFor h) := by
  unfold State.holdFor
  extract_lets
  split
  · exact hs
  · exact hs.update
theorem Inv.askFor {h a} (hs : Inv s) : Inv (s.askFor h a) := hs.update
theorem Inv.goto {t} (h : Inv s) : Inv (s.goto t) := h.update
theorem Inv.nextFree (h : Inv s) : Inv (s.nextFree).2 := h.update
theorem Inv.later {rank sp off bs} (h : Inv s) : Inv (s.later rank sp off bs) := h.modMe
theorem Inv.post {r} (h : Inv s) : Inv (s.post r) := h.modMe
theorem Inv.flagAt {n set due} (h : Inv s) : Inv (s.flagAt n set due) := h.modMe
theorem Inv.wantLine {a} (h : Inv s) : Inv (s.wantLine a) := h.holdFor.update
theorem Inv.journalled {v} (h : Inv s) : Inv (s.journalled v).2 := by
  unfold State.journalled
  extract_lets
  split
  · exact h.update
  · exact h.update

/-! What Machine/XSlot.lean defines -/

theorem inv_jumpTo {t k} (hk : ∀ u, Inv u → Inv (k u)) (h : Inv s) : Inv (jumpTo t k s) := Inv.ite h.raise (Inv.ite h.raise (hk _ h.goto))
theorem inv_execLoop {lc count last} (h : Inv s) : InvNext (execLoop lc count last s) := by
  unfold execLoop
  extract_lets
  split
  · exact h.raise.next
  · split
    · split
      · exact h.wantLine.next
      · split
        · exact h.raise.next
        · exact h.modMe.goto.next
    · exact h.modMe.next
theorem inv_waitFlags {m} (h : Inv s) : Inv (waitFlags m s) := Inv.ite h h.holdFor
theorem inv_waitTokens {m} (h : Inv s) : Inv (waitTokens m s) := Inv.ite h.holdFor h
theorem inv_changeFlags {set m} (h : Inv s) : Inv (changeFlags set m s) := Inv.foldl (fun _ _ h1 => h1.flagAt) h
theorem inv_execPopq {q a} (h : Inv s) : InvNext (execPopq q a s) := by
  unfold execPopq
  split
  · split
    · exact (Inv.ite h.modMe.wg h.holdFor).next
    · exact h.holdFor.next
  · exact h.next
theorem inv_execMfsr {q a sr} (h : Inv s) : InvNext (execMfsr q a sr s) := by
  unfold execMfsr
  extract_lets
  split
  · split
    · exact h.raise.next
    · exact (Inv.ite h.journalled.wg h.wg).next
  · exact h.next
theorem Inv.writeSr {n v} (h : Inv s) : Inv (s.writeSr n v) := Inv.ite h.modMe.modMe h.modMe
theorem inv_execMtsr {q a sr} (h : Inv s) : InvNext (execMtsr q a sr s) := by
  unfold execMtsr
  split
  · split
    · exact h.raise.next
    · exact h.raise.next
    · exact (Inv.ite h.writeSr h.raise).next
    · exact h.writeSr.next
  · exact h.next
theorem inv_execStqrd {q a b} (h : Inv s) : InvNext (execStqrd q a b s) := by
  unfold execStqrd
  split
  · split
    · exact h.raise.next
    · split
      · exact h.modMe.wg.wg.next
      · exact h.wg.wg.next
  · exact h.next

/-! What Machine/Engines.lean defines -/

theorem Inv.addCommand {engine tok reads writes cbs glbDest running} (h : Inv s) :
    Inv (s.addCommand engine tok reads writes cbs glbDest running).2 :=
  h.modMe
theorem Inv.dropFinished {c} (h : Inv s) : Inv (s.dropFinished c) := h.modBody

/-! What Machine/Memory.lean defines -/

theorem Inv.physWrite {pa bs} (h : Inv s) : Inv (s.physWrite pa bs) := ⟨Memory.wf_physWrite s pa bs h.1, h.2⟩
theorem Inv.translate {asn v} (h : Inv s) : Inv (s.translate asn v).2 := by
  unfold State.translate
  extract_lets
  split
  · exact h
  · split
    · exact h
    · exact h.update
theorem Inv.modHall {asn v f} (h : Inv s) : Inv (s.modHall asn v f) := h.update
theorem Inv.placeTag {asn v} (h : Inv s) : Inv (s.placeTag asn v).2 := by
  unfold State.placeTag
  split
  · exact h.modHall
  · exact h
theorem Inv.placePhysical {pa} (h : Inv s) : Inv (s.placePhysical pa) := by
  unfold State.placePhysical
  split
  · exact h.placeTag
  · exact h
theorem Inv.cacheLine {c asn v f} (h : Inv s) : Inv (s.cacheLine c asn v f) := by
  dsimp only [State.cacheLine]
  split
  · exact h.modHall
  · split
    · exact h.update.modHall
    · exact h.modHall
theorem Inv.noteMigration {pa n} (h : Inv s) : Inv (s.noteMigration pa n) := h.update
theorem Inv.placeWrite {pa bs} (h : Inv s) : Inv (s.placeWrite pa bs) := h.noteMigration.physWrite
theorem Inv.copyLine {m x} (h : Inv s) : Inv (s.copyLine m x) := Inv.ite h.physWrite.update h.physWrite
theorem Inv.viaPeer {s t : State} {slice p l} (h : Inv s) (hvia : s.viaPeer slice p = some (l, t)) : Inv t := by
  unfold State.viaPeer at hvia
  split at hvia
  · cases hvia
  · split at hvia
    · cases hvia; exact h
    · obtain ⟨k, -, hk⟩ := Option.map_eq_some_iff.mp hvia
      cases hk; exact h.update

/-! What Machine/Scalar.lean defines -/

theorem inv_aluRR {f lat q d a b} (h : Inv s) : Inv (aluRR f lat q d a b s) := Inv.ite h.wg h
theorem inv_cmpRR {f q pd a b} (h : Inv s) : Inv (cmpRR f q pd a b s) := Inv.ite h.wp h
theorem inv_aluR {f q d a} (h : Inv s) : Inv (aluR f q d a s) := Inv.ite h.wg h
theorem inv_aluI {f p d a} (h : Inv s) : Inv (aluI f p d a s) := Inv.ite h.wg h
theorem inv_scalarRecords {op invalid overflow divzero intSat} (h : Inv s) : Inv (scalarRecords op invalid overflow divzero intSat s) :=
  Inv.ite ((Inv.ite ((Inv.ite ((Inv.ite h.post h).post) (Inv.ite h.post h)).post) (Inv.ite ((Inv.ite h.post h).post)
      (Inv.ite h.post h))).post) (Inv.ite ((Inv.ite ((Inv.ite h.post h).post) (Inv.ite h.post h)).post) (Inv.ite ((Inv.ite h.post h).post)
      (Inv.ite h.post h)))
theorem inv_fpScalar {op f q d a b} (h : Inv s) : Inv (fpScalar op f q d a b s) := Inv.ite (inv_scalarRecords h.wg) h

/-! What Machine/Views.lean defines -/

theorem Inv.laterWrite {w} (h : Inv s) : Inv (s.laterWrite w) := h.modMe
theorem Inv.writeGal {rank a bs} (h : Inv s) : Inv (s.writeGal rank a bs) := by
  unfold State.writeGal
  split
  · exact h.laterWrite
  · exact h.later

/-! What Machine/Fabric.lean defines -/

theorem Inv.putRequest {r} (h : Inv s) : Inv (s.putRequest r) := h.update
theorem Inv.dropRequest {id} (h : Inv s) : Inv (s.dropRequest id) := h.update
theorem Inv.wait (h : Inv s) : Inv (s.wait).2 := h.update
theorem Inv.sendReady {c} (h : Inv s) : Inv (s.sendReady c) := Inv.foldl (fun _ _ h1 => Inv.ite h1.putRequest h1) h
theorem Inv.newRequest {r} (h : Inv s) : Inv (s.newRequest r).2 := h.update
theorem Inv.wakeRouter {d} (h : Inv s) : Inv (s.wakeRouter d) := h.update
theorem Inv.enterRouter {r d from_} (h : Inv s) : Inv (s.enterRouter r d from_) := h.wait.putRequest
theorem Inv.sendPacket {r a b stage counted} (h : Inv s) : Inv (s.sendPacket r a b stage counted) := h.update.enterRouter
theorem Inv.leaveRouter {r} (h : Inv s) : Inv (s.leaveRouter r) := h.update
theorem Inv.hop {r} (h : Inv s) : Inv (s.hop r) := by
  unfold State.hop
  split
  · exact h.wakeRouter
  · split
    · exact h
    · exact Inv.ite h.leaveRouter.enterRouter h.wakeRouter
theorem Inv.hopTurn (h : Inv s) : Inv (s.hopTurn) := Inv.foldl (fun _ _ h1 => h1.hop) h
theorem inv_execEscape {id} (h : Inv s) : InvNext (execEscape id s) := by
  unfold execEscape
  split
  · exact (Inv.ite h.enterRouter h).next
  · exact h.next
theorem inv_execRouterWake {die} (h : Inv s) : InvNext (execRouterWake die s) := by
  unfold execRouterWake
  split
  · exact (Inv.ite h.update h).next
  · exact h.next
theorem Inv.carryLine {cl asn line a b} (h : Inv s) : Inv (s.carryLine cl asn line a b) := Inv.ite h h.update.sendPacket
theorem Inv.writeBack {h} (hs : Inv s) : Inv (s.writeBack h) := Inv.ite hs.carryLine hs
theorem Inv.evict {h} (hs : Inv s) : Inv (s.evict h) := hs.writeBack.update
theorem Inv.dropAliases {asn line pline} (h : Inv s) : Inv (s.dropAliases asn line pline) :=
  (Inv.foldl (fun _ _ h1 => h1.writeBack) h).update
theorem Inv.atriumRoom {d} (h : Inv s) : Inv (s.atriumRoom d) := by
  unfold State.atriumRoom
  extract_lets
  split
  · exact h
  · split
    · exact (Inv.foldl (fun _ _ h1 => h1.writeBack) h).update
    · exact h
theorem Inv.fillLine {asn v t} (h : Inv s) : Inv (s.fillLine asn v t) := by
  dsimp only [State.fillLine]
  split
  · split
    · exact h.dropAliases.update
    · split
      · exact h.dropAliases.evict.update.update
      · exact h.dropAliases.update
  · split
    · exact h.dropAliases.atriumRoom.update
    · split
      · exact h.dropAliases.atriumRoom.evict.update.update
      · exact h.dropAliases.atriumRoom.update
theorem Inv.memoryErrors {pline} (h : Inv s) : Inv (s.memoryErrors pline) := Inv.ite h.update.update (Inv.ite h.update.update h.update)
theorem Inv.purgePage {asn page size} (h : Inv s) : Inv (s.purgePage asn page size) := (Inv.foldl (fun _ _ h1 => h1.evict) h).update
theorem Inv.pinRegion {asn base len} (h : Inv s) : Inv (s.pinRegion asn base len) :=
  Inv.foldl (fun _ _ h1 => by
      extract_lets
      split
      · exact h1
      · split
        · rename_i heq
          exact Inv.ite (((Inv.of_eq heq h1.translate).fillLine).memoryErrors) (Inv.of_eq heq h1.translate)
        · rename_i heq
          exact Inv.of_eq heq h1.translate) (Inv.foldl (fun _ _ h1 => h1.evict) h)
theorem Inv.answer {r} (h : Inv s) : Inv (s.answer r) := Inv.ite h.sendPacket (Inv.ite h.putRequest h.sendPacket)
theorem Inv.refuse {r c} (h : Inv s) : Inv (s.refuse r c) := h.answer
theorem Inv.cacheFor {r t f} (h : Inv s) : Inv (s.cacheFor r t f) := Inv.ite h h.cacheLine
theorem Inv.sendAway {r exit_ bytes} (h : Inv s) : Inv (s.sendAway r exit_ bytes) := h.sendPacket
theorem Inv.exit {r} (h : Inv s) : Inv (s.exit r) := h.putRequest.update
theorem Inv.comeBack {r} (h : Inv s) : Inv (s.comeBack r) := h.sendPacket
theorem Inv.serveHbm {r t pa} (h : Inv s) : Inv (s.serveHbm r t pa) := by
  unfold State.serveHbm
  extract_lets
  split
  · exact Inv.ite h.modHall.refuse h.modHall.cacheFor.answer
  · exact Inv.ite h.modHall.refuse h.modHall.answer
  · exact h.modHall.cacheFor.answer
  · exact Inv.ite h.modHall.refuse h.modHall.answer
  · exact Inv.ite h.modHall.putRequest ((Inv.ite h.modHall.placeTag.placeWrite.cacheFor h.modHall.placeTag.placeWrite).answer)
  · exact Inv.ite h.modHall.putRequest ((Inv.ite h.modHall.placeTag.placeWrite.cacheFor h.modHall.placeTag.placeWrite).answer)
  · exact Inv.ite h.modHall.putRequest ((Inv.ite h.modHall.placeTag.placeWrite.cacheFor h.modHall.placeTag.placeWrite).answer)
  · exact h.modHall.modHall.putRequest
  · exact h.modHall.modHall.putRequest
  · exact h.modHall.modHall.putRequest
  · exact h.modHall.refuse
  · exact h.modHall.refuse
  · exact h.modHall.answer
  · exact h.modHall.answer
  · exact h.modHall.answer
  · exact h.modHall.answer
theorem Inv.serveAway {r t exit_} (h : Inv s) : Inv (s.serveAway r t exit_) := by
  unfold State.serveAway
  extract_lets y
  cases y.op with
  | phaser => exact h.refuse
  | arrive => exact h.refuse
  | prefetch => exact h.answer
  | _ => exact Inv.ite h.putRequest h.sendAway
theorem Inv.serve {r t} (h : Inv s) : Inv (s.serve r t) := by
  unfold State.serve
  extract_lets pa
  split
  · exact Inv.ite h.refuse h.serveHbm
  · split
    · exact h.answer
    · exact h.answer
    · exact h.answer
    · exact h.answer
    · exact Inv.ite h.putRequest h.refuse
    · exact Inv.ite h.putRequest h.refuse
    · exact h.refuse
  · split
    · exact h.answer
    · exact h.answer
    · exact h.refuse
  · split
    · rename_i heq
      exact (h.viaPeer heq).serveAway
    · exact h.refuse
  · exact h.serveAway
  · exact h.refuse
theorem Inv.serveSibling {r c d vt n bytes} (h : Inv s) : Inv (s.serveSibling r c d vt n bytes) := by
  unfold State.serveSibling
  extract_lets
  split
  · exact h.answer
  · exact h.modBody.modBody.answer
theorem Inv.atHome {r} (h : Inv s) : Inv (s.atHome r) := by
  unfold State.atHome
  extract_lets
  split
  · exact h.update.putRequest
  · exact h.update.dropRequest
  · exact h.update.serveSibling
  · exact h.update.wait.putRequest
  · exact h.update.wait.putRequest
  · split
    · exact h.update.serve
    · exact h.update.wait.putRequest
theorem Inv.accept {r} (h : Inv s) : Inv (s.accept r) := by
  unfold State.accept
  extract_lets
  split
  · exact h.atHome
  · split
    · split
      · exact h.update.putRequest
      · exact h.update.sendPacket
    · exact h.update.sendPacket
theorem inv_execBankPortRequest {c slice} (h : Inv s) : InvNext (execBankPortRequest c slice s) := by
  unfold execBankPortRequest
  split
  · exact h.accept.next
  · exact h.next
theorem Inv.fetchFrame {r t} (h : Inv s) : Inv (s.fetchFrame r t) := Inv.ite h.wait.putRequest h.sendPacket
theorem Inv.walkFault {r c} (h : Inv s) : Inv (s.walkFault r c) :=
  (Inv.foldl (fun _ _ h1 => by
      split
      · exact h1.refuse
      · exact h1) h.update).refuse
theorem Inv.translated {r} (h : Inv s) : Inv (s.translated r) := by
  unfold State.translated
  extract_lets
  split
  · rename_i heq
    exact (Inv.of_eq heq h.translate).walkFault
  · rename_i heq
    exact Inv.ite ((Inv.of_eq heq h.translate).refuse) (Inv.ite (Inv.ite (((Inv.of_eq heq h.translate).modHall).serve)
        ((Inv.of_eq heq h.translate).fetchFrame)) ((Inv.of_eq heq h.translate).serve))
theorem Inv.walkRequest {r} (h : Inv s) : Inv (s.walkRequest r) := by
  unfold State.walkRequest
  split
  · exact h.serve
  · split
    · exact h.translated
    · split
      · exact h.translated
      · exact h.sendPacket
theorem Inv.controllerArrival {r} (h : Inv s) : Inv (s.controllerArrival r) := by
  unfold State.controllerArrival
  split
  · exact h.sendPacket
  · exact h.sendPacket
  · exact h.putRequest
  · exact h.putRequest
theorem Inv.purgeRequest {r} (h : Inv s) : Inv (s.purgeRequest r) := Inv.ite h h.purgePage.answer
theorem Inv.dropMigration {id} (h : Inv s) : Inv (s.dropMigration id) := h.update
theorem Inv.beginMigration {r frame} (h : Inv s) : Inv (s.beginMigration r frame) := by
  unfold State.beginMigration
  split
  · rename_i heq
    exact (Inv.of_eq heq h.translate).refuse
  · rename_i heq
    exact Inv.ite ((Inv.of_eq heq h.translate).answer) (Inv.ite ((Inv.of_eq heq h.translate).answer) (Inv.ite
        ((Inv.of_eq heq h.translate).answer) (Inv.ite ((Inv.of_eq heq h.translate).answer) (Inv.ite ((Inv.of_eq heq h.translate).answer)
        ((Inv.of_eq heq h.translate).update)))))
theorem Inv.modMigration {id f} (h : Inv s) : Inv (s.modMigration id f) := h.update
theorem Inv.migrateLine {m x} (h : Inv s) : Inv (s.migrateLine m x) := h.carryLine.copyLine
theorem Inv.stepMigration {r m} (h : Inv s) : Inv (s.stepMigration r m) := by
  unfold State.stepMigration
  extract_lets
  split
  · exact h.migrateLine.modMigration
  · split
    · exact h
    · split
      · exact h.dropMigration.refuse
      · exact Inv.ite h ((((((Inv.foldl (fun _ _ h1 => h1.migrateLine) h).dropMigration).placePhysical).placeWrite).purgePage).answer)
theorem Inv.workRequest {r} (h : Inv s) : Inv (s.workRequest r) := by
  unfold State.workRequest
  split
  · exact h.purgeRequest
  · split
    · exact h.stepMigration
    · exact h.beginMigration
  · exact h
theorem inv_execPageWalk {id} (h : Inv s) : InvNext (execPageWalk id s) := by
  unfold execPageWalk
  split
  · exact (Inv.ite h.walkRequest (Inv.ite h.workRequest h)).next
  · exact h.next
theorem inv_execLineFill {id} (h : Inv s) : InvNext (execLineFill id s) := by
  unfold execLineFill
  split
  · split
    · exact h.next
    · split
      · exact ((Inv.ite h h.fillLine.memoryErrors).serve).next
      · exact h.putRequest.next
  · exact h.next

/-! What Machine/Sync.lean defines -/

theorem Inv.performWrite {r bs} (h : Inv s) : Inv (s.performWrite r bs) := (Inv.ite h.placeTag h.placeTag.placeWrite).answer
theorem Inv.performAtomic {r} (h : Inv s) : Inv (s.performAtomic r) := by
  unfold State.performAtomic
  extract_lets
  split
  · exact Inv.ite h.refuse h.performWrite
  · exact Inv.ite h.refuse h.performWrite
  · exact h
theorem inv_execAtomicPerform {id} (h : Inv s) : InvNext (execAtomicPerform id s) := by
  unfold execAtomicPerform
  split
  · exact (Inv.ite h.performAtomic h).next
  · exact h.next
theorem Inv.performReduce {r} (h : Inv s) : Inv (s.performReduce r) := by
  unfold State.performReduce
  extract_lets
  split
  · exact Inv.ite h.refuse (Inv.ite h.refuse h.performWrite)
  · exact h
theorem inv_execReductionPerform {id} (h : Inv s) : InvNext (execReductionPerform id s) := by
  unfold execReductionPerform
  split
  · exact (Inv.ite h.performReduce h).next
  · exact h.next
theorem Inv.hostCombine {r} (h : Inv s) : Inv (s.hostCombine r) := by
  unfold State.hostCombine
  extract_lets
  split
  · exact h.sendAway
  · extract_lets
    split
    · exact h.refuse
    · split
      · exact h.sendAway
      · exact h.answer
  · exact h.answer
theorem Inv.awayDecrement {r} (h : Inv s) : Inv (s.awayDecrement r) := Inv.ite h.answer h.sendAway
theorem Inv.comesHome {r} (h : Inv s) : Inv (s.comesHome r) := by
  unfold State.comesHome
  split
  · exact h.answer
  · exact Inv.ite h.answer h.awayDecrement
  · exact Inv.ite h.answer (Inv.ite h.hostCombine h.answer)
  · exact Inv.ite h.answer (Inv.ite h.hostCombine h.answer)
  · exact h.answer
theorem inv_execPacketArrival {id} (h : Inv s) : InvNext (execPacketArrival id s) := by
  unfold execPacketArrival
  split
  · extract_lets
    split
    · split
      · exact h.leaveRouter.atHome.next
      · exact h.leaveRouter.exit.next
      · exact h.leaveRouter.comesHome.next
      · exact h.leaveRouter.putRequest.next
      · exact h.leaveRouter.controllerArrival.next
    · exact h.next
  · exact h.next
theorem Inv.writePhaser {pa p} (h : Inv s) : Inv (s.writePhaser pa p) :=
  Inv.foldl (fun _ _ h1 => by
      split
      · split
        · split
          · exact h1.answer
          · exact h1.answer
          · exact h1
        · exact h1
      · exact h1) h.placeWrite
theorem Inv.holdWait {r p gen phase} (h : Inv s) : Inv (s.holdWait r p gen phase) := Inv.ite h.answer (Inv.ite h.putRequest h.answer)
theorem Inv.performPhaser {r} (h : Inv s) : Inv (s.performPhaser r) := by
  unfold State.performPhaser
  extract_lets
  split
  · split
    · exact h.refuse
    · split
      · exact h.refuse
      · extract_lets
        split
        · exact (Inv.ite h.placeTag h.placeTag.writePhaser).answer
        · split
          · exact (Inv.ite h.placeTag h.placeTag.writePhaser).answer
          · exact (Inv.ite h.placeTag h.placeTag.writePhaser).holdWait
  · exact h
theorem inv_execPhaserPerform {id} (h : Inv s) : InvNext (execPhaserPerform id s) := by
  unfold execPhaserPerform
  split
  · exact (Inv.ite h.performPhaser h).next
  · exact h.next
theorem Inv.performArrival {r team} (h : Inv s) : Inv (s.performArrival r team) :=
  Inv.ite h.refuse (Inv.ite h.refuse h.placeTag.writePhaser.answer)
theorem inv_execCopyArrival {id} (h : Inv s) : InvNext (execCopyArrival id s) := by
  unfold execCopyArrival
  split
  · split
    · exact (Inv.ite h.performArrival h).next
    · exact h.next
  · exact h.next
theorem Inv.deliverCore {r} (h : Inv s) : Inv (s.deliverCore r) := by
  unfold State.deliverCore
  extract_lets
  split
  · exact Inv.ite h.update.update h.update.update.update
  · exact h.update.update.update
  · exact h.update.update
theorem Inv.deliver {r} (h : Inv s) : Inv (s.deliver r) := by
  unfold State.deliver
  extract_lets
  split
  · exact (Inv.ite h.dropRequest h.dropRequest.update).update
  · exact (Inv.ite h.dropRequest h.dropRequest.update).update
  · exact h.dropRequest.update
  · exact h.dropRequest.deliverCore
theorem inv_execAnswerReturn {id} (h : Inv s) : InvNext (execAnswerReturn id s) := by
  unfold execAnswerReturn
  split
  · exact (Inv.ite h.deliver h).next
  · exact h.next
theorem inv_execAcknowledgementArrival {id} (h : Inv s) : InvNext (execAcknowledgementArrival id s) := by
  unfold execAcknowledgementArrival
  split
  · exact (Inv.ite h.deliver h).next
  · exact h.next
theorem Inv.pollAgain {c p} (h : Inv s) : Inv (s.pollAgain c p) := h.modBody.update.sendReady
theorem inv_execPhaserPoll {c} (h : Inv s) : InvNext (execPhaserPoll c s) := by
  unfold execPhaserPoll
  split
  · exact (Inv.ite h.pollAgain h).next
  · exact h.next

/-! What Machine/Access.lean defines -/

theorem Inv.startAccess {who asn v n bytes round} (h : Inv s) : Inv (s.startAccess who asn v n bytes round) := by
  unfold State.startAccess
  extract_lets
  split
  · exact h.update.sendReady
  · exact h.update.sendPacket
theorem Inv.forgetAways {who} (h : Inv s) : Inv (s.forgetAways who) := h.update
theorem Inv.forgetMerge {c} (h : Inv s) : Inv (s.forgetMerge c) := h.update
theorem Inv.keepAways {s' : State} (hs : Inv s) (_hs' : Inv s') : Inv (s.keepAways s') := hs.update
theorem Inv.glbLine {who asn v n bytes round} (h : Inv s) : Inv (s.glbLine who asn v n bytes round).2 := by
  unfold State.glbLine
  split
  · exact h
  · exact h.startAccess
theorem Inv.glbDecrement {who asn v} (h : Inv s) : Inv (s.glbDecrement who asn v).2 := by
  unfold State.glbDecrement
  extract_lets
  split
  · exact h
  · exact h.update.sendPacket
theorem Inv.sendNext {who : AwayFor} {asn : BitVec 12} {round : Nat} {serial : Bool} {ps : List (Nat × Nat)} (h : Inv s) :
    Inv (s.sendNext who asn round serial ps) := by
  induction ps with
  | nil => exact h
  | cons p ps ih =>
    unfold State.sendNext
    split
    · exact Inv.ite h ih
    · exact h.startAccess
theorem Inv.glbLines {who asn ps round free serial} (h : Inv s) : Inv (s.glbLines who asn ps round free serial).2 := Inv.ite h.sendNext h
theorem Inv.glbRead {who asn v n round serial} (h : Inv s) : Inv (s.glbRead who asn v n round serial).2 := h.glbLines
theorem Inv.writeLines {who : AwayFor} {asn : BitVec 12} {round : Nat} {ps : List (Nat × Nat)} {bs : List (BitVec 8)} (h : Inv s) :
    Inv (s.writeLines who asn round ps bs).2 := by
  induction ps generalizing s bs with
  | nil => exact h
  | cons p ps ih =>
    unfold State.writeLines
    split
    · rename_i heq
      exact ih (Inv.of_eq heq h.glbLine)
    · exact h.glbLine
theorem Inv.glbWrite {who asn v bs round} (h : Inv s) : Inv (s.glbWrite who asn v bs round).2 := h.writeLines

/-! What Machine/Operands.lean defines -/

theorem Inv.pendAt {due w} (h : Inv s) : Inv (s.pendAt due w) := h.modMe
theorem Inv.pendW {cls w} (h : Inv s) : Inv (s.pendW cls w) := h.pendAt
theorem Inv.modPort {n f} (h : Inv s) : Inv (s.modPort n f) := h.modGroup
theorem Inv.popPorts {ops} (h : Inv s) : Inv (s.popPorts ops) := Inv.foldl (fun _ _ h1 => h1.modPort) h
theorem Inv.writeDst {cls rot d v mask} (h : Inv s) : Inv (s.writeDst cls rot d v mask).1 := by
  unfold State.writeDst
  extract_lets
  split
  · exact h.pendW
  · exact h.pendW
  · exact h.pendW
  · extract_lets
    split
    · exact h
    · split
      · exact h
      · exact h.modPort.pendW
  · split
    · exact h
    · exact h.pendW
  · exact h
theorem Inv.entry {holds rewrites faults act} (h : Inv s) (hact : ∀ u, Inv u → Inv (act u)) : InvNext (s.entry holds rewrites faults act) := by
  unfold State.entry
  extract_lets
  split
  · exact (hact _ h).next
  · split
    · exact (((hact _ h).holdFor).update).next
    · split
      · exact h.raise.next
      · exact (hact _ h).next

/-! What Machine/Interval.lean defines -/

theorem Inv.release {c} (h : Inv s) : Inv (s.release c) := h.modBody.update.sendReady
theorem Inv.checkpoint {c} (h : Inv s) : Inv (s.checkpoint c) := h.release.update
theorem Inv.redeliver {r} (h : Inv s) : Inv (s.redeliver r) := h.modBody
theorem Inv.rollBack {c rerun} (h : Inv s) : Inv (s.rollBack c rerun) := Inv.foldl (fun _ _ h1 => h1.redeliver) h.update
theorem Inv.endInterval {c} (h : Inv s) : Inv (s.endInterval c).2 := by
  unfold State.endInterval
  extract_lets
  split
  · exact h.checkpoint
  · exact h.rollBack
  · exact Inv.ite_snd h.checkpoint h.update
theorem Inv.implicitCheckpoint {c} (h : Inv s) : Inv (s.implicitCheckpoint c).2 := by
  unfold State.implicitCheckpoint
  split
  · rename_i heq
    exact (Inv.of_eq heq h.endInterval).modBody
  · exact h.endInterval
theorem Inv.effect {c r} (h : Inv s) : Inv (s.effect c r) := by
  unfold State.effect
  extract_lets
  split
  · exact h.update.update
  · split
    · split
      · rename_i heq
        exact (Inv.of_eq heq h.update.implicitCheckpoint).modBody
      · rename_i heq
        exact Inv.of_eq heq h.update.implicitCheckpoint
    · exact h.update.modBody

/-! What Machine/LSlot.lean defines -/

theorem inv_galAccess {n q base off k} (hk : ∀ y0 u, Inv u → Inv (k y0 u)) (h : Inv s) : InvNext (galAccess n q base off k s) :=
  (Inv.ite (Inv.ite h.raise (Inv.ite (hk _ _ h) h.raise)) h).next
theorem inv_galLoad {n q r base off} (h : Inv s) : InvNext (galLoad n q r base off s) := inv_galAccess (fun _ _ h1 => h1.wg) h
theorem inv_galStore {n q r base off} (h : Inv s) : InvNext (galStore n q r base off s) := inv_galAccess (fun _ _ h1 => h1.writeGal) h
theorem inv_execSgw {q r base off} (h : Inv s) : InvNext (execSgw q r base off s) := by
  unfold execSgw
  extract_lets
  split
  · split
    · exact h.raise.next
    · split
      · exact h.modMe.next
      · exact h.raise.next
  · exact h.next
theorem Inv.tableOp {o} (h : Inv s) : Inv (s.tableOp o) := h.modMe
theorem inv_execTwrite {q a b i} (h : Inv s) : InvNext (execTwrite q a b i s) := by
  dsimp only [execTwrite]
  split
  · split
    · exact h.next
    · split
      · exact h.tableOp.next
      · exact (Inv.ite h.raise h.tableOp.post).next
  · exact h.next
theorem inv_withDescriptor {d k} (hk : ∀ y0 u, Inv u → Inv (k y0 u)) (h : Inv s) : Inv (withDescriptor d k s) :=
  Inv.ite h.raise (Inv.ite h.raise (hk _ _ h))
theorem inv_execQcfg {q a b n} (h : Inv s) : InvNext (execQcfg q a b n s) :=
  (Inv.ite (inv_withDescriptor (fun _ _ h1 => by
      split
      · exact h1.raise
      · exact (Inv.foldl (fun _ _ h2 => h2.modGroup) h1).modMe) h) h).next
theorem inv_execCbcfg {q a n} (h : Inv s) : InvNext (execCbcfg q a n s) :=
  (Inv.ite (Inv.ite h.holdFor (inv_withDescriptor (fun _ _ h1 => by
      extract_lets
      split
      · exact h1.raise
      · exact Inv.ite h1.raise (Inv.ite h1.raise (Inv.ite h1.raise h1.modMe))) h)) h).next

/-! What Machine/GSlot.lean defines -/

theorem inv_glbAccess {a n k} (hk : ∀ y0 u, Inv u → Inv (k y0 u)) (h : Inv s) : Inv (glbAccess a n k s) :=
  Inv.ite h.raise (Inv.ite h.raise (hk _ _ h))
theorem inv_whenFree {k} (hk : ∀ u, Inv u → Inv (k u)) (h : Inv s) : Inv (whenFree k s) := Inv.ite h.askFor (Inv.ite h.holdFor (hk _ h))
theorem Inv.sendNow {r} (h : Inv s) : Inv (s.sendNow r).2 := h.newRequest.sendReady
theorem Inv.post1 {r} (h : Inv s) : Inv (s.post1 r) := Inv.ite h.askFor (Inv.ite h.effect.sendReady h.effect)
theorem inv_loadGlb {n signed r va} (h : Inv s) : Inv (loadGlb n signed r va s) := by
  unfold loadGlb
  extract_lets
  split
  · exact h.wg
  · split
    · exact h.update.wg
    · split
      · exact h.update.update.wg
      · exact h.update.sendNow.modMe
theorem inv_gLoad {n signed q r base off} (h : Inv s) : InvNext (gLoad n signed q r base off s) :=
  (Inv.ite (inv_glbAccess (fun _ _ h1 => inv_whenFree (fun _ h2 => inv_loadGlb h2) h1) h) h).next
theorem inv_storeGlb {bs va} (h : Inv s) : Inv (storeGlb bs va s) := by
  unfold storeGlb
  split
  · exact h.laterWrite
  · exact h.post1.modMe
theorem inv_gStore {n q r base off} (h : Inv s) : InvNext (gStore n q r base off s) :=
  (Inv.ite (inv_glbAccess (fun _ _ h1 => inv_whenFree (fun _ h2 => inv_storeGlb h2) h1) h) h).next
theorem inv_execDrain {q sc} (h : Inv s) : InvNext (execDrain q sc s) := by
  unfold execDrain
  split
  · split
    · exact (Inv.ite h h.holdFor).next
    · exact h.askFor.next
  · exact h.next
theorem inv_purgeFree {k} (hk : ∀ u, Inv u → Inv (k u)) (h : Inv s) : Inv (purgeFree k s) :=
  Inv.ite (hk _ h) (inv_whenFree (fun _ h2 => hk _ h2) h)
theorem inv_purgeAt {q base off k} (hk : ∀ y0 u, Inv u → Inv (k y0 u)) (h : Inv s) : InvNext (purgeAt q base off k s) :=
  (Inv.ite (Inv.ite h.raise (inv_glbAccess (fun _ _ h2 => inv_purgeFree (fun _ h3 => hk _ _ h3) h2) h)) h).next
theorem inv_execPurgeTlb {q base off} (h : Inv s) : InvNext (execPurgeTlb q base off s) :=
  inv_purgeAt (fun _ _ h1 => by
      extract_lets
      split
      · exact h1.askFor
      · exact h1.holdFor
      · exact h1) h
theorem Inv.launchAs {r} (h : Inv s) : Inv (s.launchAs r) := Inv.ite h.modMe h.update.sendReady
theorem Inv.launch {r} (h : Inv s) : Inv (s.launch r) := h.update.launchAs
theorem Inv.postOperation {r} (h : Inv s) : Inv (s.postOperation r) := Inv.ite h.modMe.update h.post1
theorem Inv.raiseParked {cause taddr aux replay} (h : Inv s) : Inv (s.raiseParked cause taddr aux replay) := by
  unfold State.raiseParked
  extract_lets
  split
  · exact h
  · exact h.update
theorem Inv.raiseReturned {id cause} (h : Inv s) : Inv (s.raiseReturned id cause) := h.raiseParked
theorem inv_awaitAnswer {h r d} (hs : Inv s) : Inv (awaitAnswer h r d s) := by
  unfold awaitAnswer
  split
  · exact hs.holdFor
  · exact hs.wg
  · exact hs.raiseReturned
  · exact inv_whenFree (fun _ h1 => h1.askFor) hs
theorem inv_gOperation {n q d base ord sc op} (h : Inv s) : InvNext (gOperation n q d base ord sc op s) :=
  (Inv.ite (inv_glbAccess (fun _ _ h1 => Inv.ite (inv_whenFree (fun _ h2 => h2.postOperation) h1) (inv_awaitAnswer h1)) h) h).next
theorem inv_gAtomic {op n q d base src ord sc} (h : Inv s) : InvNext (gAtomic op n q d base src ord sc s) := inv_gOperation h
theorem inv_gReduce {op q d base src ord sc} (h : Inv s) : InvNext (gReduce op q d base src ord sc s) := inv_gOperation h
theorem inv_gPhaser {h op v q d base ord sc} (hs : Inv s) : InvNext (gPhaser h op v q d base ord sc s) :=
  (Inv.ite (inv_glbAccess (fun _ _ h1 => inv_awaitAnswer h1) hs) hs).next
theorem Inv.replayKept {tret} (h : Inv s) : Inv (s.replayKept tret) := by
  unfold State.replayKept
  split
  · exact h
  · extract_lets
    split
    · exact h.modMe.update.sendReady
    · exact Inv.ite h.modMe.launchAs.modMe h.modMe.launchAs.modMe.update

/-! What Machine/Control.lean defines -/

theorem Inv.modTask {c f} (h : Inv s) : Inv (s.modTask c f) := h.update
theorem Inv.modTeam {t f} (h : Inv s) : Inv (s.modTeam t f) := h.update
theorem Inv.logEvent {kind unit detail} (h : Inv s) : Inv (s.logEvent kind unit detail) := by
  refine ⟨h.1, ?_⟩
  have hlen : s.log.length ≤ 4096 := h.2
  simp only [State.logEvent, List.length_append, List.length_singleton]
  split
  · omega
  · rw [List.length_drop]; omega
theorem Inv.leavePhase {c reason port} (h : Inv s) : Inv (s.leavePhase c reason port) := h.update
theorem Inv.breakPhase {c reason port} (h : Inv s) : Inv (s.breakPhase c reason port) := by
  unfold State.breakPhase
  extract_lets
  split
  · exact h.leavePhase.modTeam
  · exact h.leavePhase
theorem Inv.forget {c} (h : Inv s) : Inv (s.forget c) := Inv.ite h h.update
theorem Inv.abandon {c} (h : Inv s) : Inv (s.abandon c) := by
  dsimp only [State.abandon]
  split
  · exact Inv.ite h.forget.dropRequest.modBody.modTask h.forget.dropRequest.modBody.modTask.update
  · exact Inv.ite h.forget.modBody.modTask h.forget.modBody.modTask.update
theorem Inv.unbracket {c} (h : Inv s) : Inv (s.unbracket c) := Inv.ite h.modBody.checkpoint h
theorem Inv.bunbracket {c} (h : Inv s) : Inv (s.bunbracket c) := Inv.ite h.modBody.checkpoint h
theorem Inv.trapCore {c t baddr tret replay bres stream parked} (h : Inv s) : Inv (s.trapCore c t baddr tret replay bres stream parked) :=
  (((Inv.ite h.breakPhase h).abandon).modBody).unbracket
theorem Inv.deliverParked {c f tret bcast} (h : Inv s) : Inv (s.deliverParked c f tret bcast) := h.modBody.trapCore
theorem Inv.bcastTrap {c t} (h : Inv s) : Inv (s.bcastTrap c t) := h.modBody
theorem Inv.streamTrap {c bcast t} (h : Inv s) : Inv (s.streamTrap c bcast t) := Inv.ite h.bcastTrap h.trapCore
theorem inv_execIllegalBundle {c bcast} (h : Inv s) : InvNext (execIllegalBundle c bcast s) := h.streamTrap.next
theorem inv_execReservedOpcode {c bcast slot} (h : Inv s) : InvNext (execReservedOpcode c bcast slot s) := h.streamTrap.next
theorem inv_execFetchFault {c bcast} (h : Inv s) : InvNext (execFetchFault c bcast s) := by
  unfold execFetchFault
  split
  · exact h.modBody.streamTrap.next
  · exact h.next
theorem inv_execEmptyBundle {landing fold} (h : Inv s) : InvNext (execEmptyBundle landing fold s) := h.modMe.next
theorem Inv.halt {c} (h : Inv s) : Inv (s.halt c) := h.abandon.unbracket.modBody.modTask
theorem inv_execStopRequest {c} (h : Inv s) : InvNext (execStopRequest c s) :=
  (Inv.foldl (fun _ _ h1 => by
      split
      · exact Inv.ite h1.answer h1
      · exact h1) h.modTask).next
theorem inv_execFlipatReached {t} (h : Inv s) : InvNext (execFlipatReached t s) := by
  unfold execFlipatReached
  split
  · exact (Inv.foldl (fun _ _ h1 => Inv.ite h1.halt h1) h).next
  · exact h.next
theorem Inv.deliverDue {c k} (h : Inv s) (hk : ∀ u, Inv u → Inv (k u)) : Inv (s.deliverDue c k) := by
  dsimp only [State.deliverDue]
  split
  · exact h.modBody.deliverParked
  · exact hk _ h.modBody
theorem Inv.landing {c} (h : Inv s) : Inv (s.landing c) := by
  unfold State.landing
  extract_lets
  split
  · exact h.modBody
  · split
    · rename_i heq
      exact Inv.of_eq heq h.modBody.endInterval
    · rename_i heq
      exact (Inv.of_eq heq h.modBody.endInterval).deliverDue (fun _ h1 => Inv.ite h1.halt h1)
theorem Inv.countError {c} (h : Inv s) : Inv (s.countError c) := Inv.ite h.update.logEvent.update h.update.logEvent
theorem Inv.uncorrectable {c} (h : Inv s) : Inv (s.uncorrectable c) := by
  unfold State.uncorrectable
  extract_lets
  split
  · split
    · exact h.logEvent.modBody.modTeam
    · exact h.logEvent.modBody
  · split
    · split
      · exact Inv.foldl (fun _ _ h1 => h1.modBody) h.logEvent.modBody
      · exact h.logEvent.modBody
    · split
      · exact h.logEvent.modBody
      · split
        · exact h.update
        · exact Inv.ite h.logEvent.modBody h.countError.rollBack

/-! What Machine/Tasks.lean defines -/

theorem Inv.startTask {c x index entry args views node piece} (h : Inv s) : Inv (s.startTask c x index entry args views node piece) :=
  h.modTeam.update
theorem inv_whenDrained {h k} (hk : ∀ u, Inv u → Inv (k u)) (hs : Inv s) : Inv (whenDrained h k s) := by
  unfold whenDrained
  split
  · exact hs.askFor
  · exact Inv.ite (hk _ hs) hs.holdFor
theorem inv_entryChecks {entry k} (hk : ∀ u, Inv u → Inv (k u)) (h : Inv s) : Inv (entryChecks entry k s) :=
  Inv.ite h.raise (Inv.ite h.raise (Inv.ite h.raise (hk _ h)))
theorem Inv.addChild (h : Inv s) : Inv (s.addChild) := h.modTask
theorem inv_spawnOn {x c index entry blk} (h : Inv s) : Inv (spawnOn x c index entry blk s) := h.update.startTask.addChild
theorem inv_execSpawn {q a b blk} (h : Inv s) : InvNext (execSpawn q a b blk s) := by
  unfold execSpawn
  extract_lets
  split
  · split
    · exact h.raise.next
    · split
      · exact h.raise.next
      · exact (Inv.ite h.raise (inv_entryChecks (fun _ h1 => inv_whenDrained (fun _ h2 => by
              split
              · exact Inv.ite (inv_spawnOn h2) h2.raise
              · exact h2.raise) h1) h)).next
  · exact h.next
theorem inv_postRange {x e block} (h : Inv s) : Inv (postRange x e block s) := Inv.ite h (Inv.ite h.holdFor h.modTeam.modTask.addChild)
theorem inv_execSpawnr {q a blk} (h : Inv s) : InvNext (execSpawnr q a blk s) := by
  unfold execSpawnr
  extract_lets
  split
  · split
    · exact h.raise.next
    · split
      · exact h.raise.next
      · exact (inv_entryChecks (fun _ h1 => Inv.ite h1.raise (Inv.ite h1 (inv_whenDrained (fun _ h2 => inv_postRange h2) h1))) h).next
  · exact h.next
theorem Inv.startPiece {c x e lo hi leaf splitFrom} (h : Inv s) : Inv (s.startPiece c x e lo hi leaf splitFrom) := h.update.startTask
theorem Inv.takeRange {c x} (h : Inv s) : Inv (s.takeRange c x) := by
  unfold State.takeRange
  split
  · exact Inv.ite h.modTeam.startPiece h.modTeam.startPiece
  · split
    · exact h.modTask.startPiece
    · exact h
theorem inv_execRangeTake {c} (h : Inv s) : InvNext (execRangeTake c s) := by
  unfold execRangeTake
  split
  · exact (Inv.ite h.takeRange h).next
  · exact h.next
theorem inv_execRnext {q a} (h : Inv s) : InvNext (execRnext q a s) := by
  unfold execRnext
  extract_lets
  split
  · split
    · exact h.raise.next
    · exact (((Inv.ite h.journalled h.journalled.modTask).wait).wg).next
  · exact h.next
theorem inv_execVdecl {q a b vt op gal} (h : Inv s) : InvNext (execVdecl q a b vt op gal s) := by
  unfold execVdecl
  extract_lets
  split
  · split
    · exact h.raise.next
    · split
      · exact h.raise.next
      · exact h.modMe.next
  · exact h.next
theorem Inv.modNode {id f} (h : Inv s) : Inv (s.modNode id f) := h.update
theorem Inv.endTask {c} (h : Inv s) : Inv (s.endTask c) := by
  dsimp only [State.endTask]
  split
  · exact h.modNode.modBody.modTask
  · exact h.modBody.modTask
theorem Inv.beginMerge {c} (h : Inv s) : Inv (s.beginMerge c) := by
  dsimp only [State.beginMerge]
  split
  · exact h.modNode.modBody.modTask
  · exact h.modBody.modTask
theorem inv_execEndt {q} (h : Inv s) : InvNext (execEndt q s) := by
  unfold execEndt
  extract_lets
  split
  · split
    · exact h.raise.next
    · split
      · split
        · exact h.raiseParked.next
        · exact h.askFor.next
      · split
        · exact (Inv.ite h.endTask h.holdFor).next
        · exact h.endTask.next
      · exact (inv_whenDrained (fun _ h1 => Inv.ite h1.holdFor (Inv.ite h1.askFor h1.endTask)) h).next
  · exact h.next
theorem Inv.readEngine {a v} (h : Inv s) : Inv (s.readEngine a v) := h.journalled.wait.wg
theorem inv_execTinfoState {q a b} (h : Inv s) : InvNext (execTinfoState q a b s) := by
  unfold execTinfoState
  extract_lets
  split
  · split
    · exact h.raise.next
    · split
      · exact h.readEngine.next
      · exact h.raise.next
  · exact h.next
theorem Inv.freeCores {x} (h : Inv s) : Inv (s.freeCores x) := Inv.foldl (fun _ _ h1 => h1.modTask) h.modTeam
theorem inv_execTeamEnd {t} (h : Inv s) : InvNext (execTeamEnd t s) := by
  unfold execTeamEnd
  split
  · exact (Inv.ite h.freeCores.modTeam.update h).next
  · exact h.next

/-! What Machine/Copy.lean defines -/

theorem Inv.setUnit {u f} (h : Inv s) : Inv (s.setUnit u f) := h.modMe
theorem Inv.startCopy {u x fp} (h : Inv s) : Inv (s.startCopy u x fp) := by
  unfold State.startCopy
  extract_lets
  split
  · exact Inv.ite h.addCommand.modMe.setUnit h.addCommand.setUnit
  · exact h.addCommand.nextFree.setUnit
theorem inv_copyInstr {kind q a b cd tok} (h : Inv s) : Inv (copyInstr kind q a b cd tok s) := by
  unfold copyInstr
  extract_lets
  split
  · split
    · split
      · exact h.holdFor
      · split
        · exact h.raise
        · exact Inv.ite h.holdFor (Inv.ite h.raise (Inv.ite h.raise h.startCopy))
    · split
      · exact h.holdFor
      · split
        · exact h.raise
        · exact Inv.ite h.holdFor (Inv.ite h.raise (Inv.ite h.raise h.startCopy))
  · exact h
theorem inv_execCpcan {q u} (h : Inv s) : InvNext (execCpcan q u s) := by
  unfold execCpcan
  split
  · split
    · exact h.next
    · exact h.setUnit.next
  · exact h.next
theorem Inv.modCopy {c u f} (h : Inv s) : Inv (s.modCopy c u f) := h.modBody
theorem Inv.setCmd {c u x} (h : Inv s) : Inv (s.setCmd c u x) := h.modCopy
theorem Inv.endCopy {c u x faulted cancelled} (h : Inv s) : Inv (s.endCopy c u x faulted cancelled) := h.forgetAways.modCopy.modBody
theorem Inv.engineRead {c j read} (h : Inv s) (hread : ∀ u, Inv u → Inv (read u).2) : Inv (s.engineRead c j read).2 := by
  unfold State.engineRead
  extract_lets
  split
  · exact Inv.ite h h.update
  · split
    · rename_i heq
      exact Inv.ite (Inv.of_eq heq (hread _ h)) ((Inv.of_eq heq (hread _ h)).update)
    · exact hread _ h
theorem Inv.copyPieces {c u x ps round} (h : Inv s) : Inv (s.copyPieces c u x ps round).2 := by
  have hread : Inv (s.engineRead c ⟨u.val, by omega⟩ fun s => s.glbLines (.copy c u) (s.body c).sys.asn
      (ps.filter fun p => (findHeld x.views false p.1 p.2).isNone) round (decide (s.copyLines c u < 2048)) (decide (x.kind = 2))).2 :=
    h.engineRead fun _ h1 => h1.glbLines
  unfold State.copyPieces
  dsimp only
  split
  · exact h
  · split
    · exact h
    · split
      · rename_i heq
        exact Inv.of_eq heq (h.engineRead fun _ h1 => h1.glbLines)
      · exact h.engineRead fun _ h1 => h1.glbLines
theorem Inv.copyTile {c u x a} (h : Inv s) : Inv (s.copyTile c u x a).2 := by
  unfold State.copyTile
  extract_lets
  split
  · exact h.copyPieces
  · split
    · extract_lets
      split
      · rename_i heq _ _ _ _ heq1
        exact Inv.of_eq heq1 ((Inv.of_eq heq h.copyPieces).copyPieces)
      · rename_i heq _ _ _
        exact (Inv.of_eq heq h.copyPieces).copyPieces
    · exact h.copyPieces
theorem Inv.copySource {c u x a} (h : Inv s) : Inv (s.copySource c u x a).2.2 := by
  unfold State.copySource
  split
  · exact h.copyPieces
  · split
    · rename_i heq
      have ht := Inv.of_eq heq h.copyTile
      split
      · rename_i heq
        exact Inv.of_eq heq ht.copyPieces
      · rename_i heq
        exact Inv.of_eq heq ht.copyPieces
    · rename_i heq
      exact Inv.of_eq heq h.copyTile
theorem Inv.copyLocal {c u x d bs} (h : Inv s) : Inv (s.copyLocal c u x d bs) := h.modBody
theorem Inv.copyLine1 {c u x v bs} (h : Inv s) : Inv (s.copyLine1 c u x v bs) := by
  unfold State.copyLine1
  extract_lets
  split
  · exact h.modBody
  · exact h.effect.modBody
theorem Inv.rowDone {c u x} (h : Inv s) : Inv (s.rowDone c u x) :=
  Inv.ite ((Inv.ite h.nextFree.modCopy h.nextFree).setCmd) ((Inv.ite h.nextFree.modCopy h.nextFree).endCopy)
theorem Inv.handOut {c u x bs} (h : Inv s) : Inv (s.handOut c u x bs) := by
  unfold State.handOut
  split
  · exact h.rowDone
  · exact Inv.ite h.setCmd.implicitCheckpoint (Inv.ite h.setCmd (Inv.ite ((Inv.ite h.copyLine1 h.copyLocal).setCmd)
      ((Inv.ite h.copyLine1 h.copyLocal).rowDone)))
theorem Inv.acceptRow {c u x bs again} (h : Inv s) : Inv (s.acceptRow c u x bs again) := by
  unfold State.acceptRow
  split
  · exact h.handOut
  · exact Inv.ite h.setCmd h.modBody.handOut
theorem Inv.readRow {c u x} (h : Inv s) : Inv (s.readRow c u x) := by
  unfold State.readRow
  have hsource : Inv (s.copySource c u x (s.copyPlace c x).1.toNat).2.2 := h.copySource
  generalize s.copySource c u x (s.copyPlace c x).1.toNat = r at hsource
  obtain ⟨g, again, t⟩ := r
  cases g with
  | ok bs =>
    exact Inv.ite (Inv.ite hsource.forgetAways.modCopy hsource.forgetAways).setCmd
      (Inv.ite hsource.forgetAways.modCopy hsource.forgetAways).acceptRow
  | fault cause a => exact (h.keepAways hsource).forgetAways.setCmd
  | waits => exact h.keepAways hsource
theorem Inv.moveRow {c u} (h : Inv s) : Inv (s.moveRow c u) := by
  unfold State.moveRow
  split
  · exact h
  · split
    · exact h.endCopy
    · split
      · exact h
      · split
        · exact Inv.ite h h.handOut
        · exact Inv.ite h.readRow h
theorem inv_execCptTileRetry {c u} (h : Inv s) : InvNext (execCptTileRetry c u s) := by
  unfold execCptTileRetry
  split
  · exact (Inv.ite h.readRow h).next
  · exact h.next
theorem Inv.writeEntry {c u x bs} (h : Inv s) : Inv (s.writeEntry c u x bs) := by
  unfold State.writeEntry
  extract_lets
  split
  · exact Inv.ite h.modBody.setCmd h.modBody.rowDone
  · exact Inv.ite (Inv.ite h h.modBody.endCopy) (Inv.ite h.modBody.setCmd h.modBody.rowDone)
theorem inv_execCptabEntryWrite {c u} (h : Inv s) : InvNext (execCptabEntryWrite c u s) := by
  unfold execCptabEntryWrite
  split
  · split
    · exact (Inv.ite h.writeEntry h).next
    · exact h.next
  · exact h.next
theorem Inv.copyFault {c u} (h : Inv s) : Inv (s.copyFault c u) := by
  unfold State.copyFault
  split
  · exact h
  · split
    · exact h
    · exact Inv.ite h h.modBody.endCopy
theorem Inv.copyArrive {c x} (h : Inv s) : Inv (s.copyArrive c x) := h.effect
theorem Inv.postOnce {c post} (h : Inv s) (hpost : ∀ u, Inv u → Inv (post u)) : Inv (s.postOnce c post) :=
  Inv.ite h.update ((hpost _ h).update)
theorem Inv.copyPost {c x} (h : Inv s) : InvSome (s.copyPost c x) := by
  unfold State.copyPost
  extract_lets
  split
  · exact h.ofSome
  · split
    · exact InvSome.ofNone
    · split
      · exact (h.postOnce (fun _ h1 => h1)).ofSome
      · split
        · exact InvSome.ite h.modBody.ofSome (InvSome.ite h.ofSome (InvSome.ite InvSome.ofNone ((h.postOnce
            (fun _ h1 => h1.modTeam.modTask)).ofSome)))
        · exact h.modBody.ofSome
theorem Inv.copyComplete {c u} (h : Inv s) : Inv (s.copyComplete c u) := by
  unfold State.copyComplete
  split
  · exact h
  · extract_lets
    split
    · exact ((Inv.ite h h.copyArrive).modBody).modBody
    · split
      · rename_i heq
        exact (((Inv.ite h h.copyArrive).modBody).copyPost heq).modBody
      · exact (Inv.ite h h.copyArrive).modBody

/-! What Machine/Entries.lean defines -/

theorem inv_execEntryWriteback {c} (h : Inv s) : InvNext (execEntryWriteback c s) := h.modBody.next

/-! What Machine/Flight.lean defines -/

theorem inv_execFlbar {q a n} (h : Inv s) : InvNext (execFlbar q a n s) := by
  unfold execFlbar
  extract_lets
  split
  · split
    · exact h.raise.next
    · split
      · exact h.raise.next
      · split
        · exact h.askFor.next
        · split
          · exact h.askFor.next
          · exact h.holdFor.next
          · exact (Inv.ite h.holdFor h.wg.modMe).next
  · exact h.next
theorem inv_execFlightBarrierComplete {t} (h : Inv s) : InvNext (execFlightBarrierComplete t s) := by
  unfold execFlightBarrierComplete
  split
  · exact (Inv.ite h.modTeam h).next
  · exact h.next
theorem inv_execFlightPhaseStart {t} (h : Inv s) : InvNext (execFlightPhaseStart t s) := by
  unfold execFlightPhaseStart
  split
  · exact (Inv.ite (Inv.foldl (fun _ _ h1 => h1.modBody.modTask) h.modTeam) h).next
  · exact h.next
theorem Inv.raiseFlight {rank cause taddr} (h : Inv s) : Inv (s.raiseFlight rank cause taddr) := h.update
theorem Inv.sendVector {p data} (h : Inv s) : Inv (s.sendVector p data) := by
  unfold State.sendVector
  extract_lets
  split
  · exact h.update
  · exact h.raiseFlight
theorem Inv.take {p k} (h : Inv s) (hk : ∀ y0 u, Inv u → Inv (k y0 u)) : Inv (s.take p k) := by
  unfold State.take
  extract_lets
  split
  · exact hk _ _ h.update
  · exact h.update.update
theorem inv_vectorAddr {a k} (hk : ∀ y0 u, Inv u → Inv (k y0 u)) (h : Inv s) : Inv (vectorAddr a k s) :=
  Inv.ite h.raiseFlight (Inv.ite (hk _ _ h) h.raiseFlight)
theorem Inv.loseVectors {c mine} (h : Inv s) : Inv (s.loseVectors c mine) := h.modBody.update
theorem inv_execFlightBreakSignal {t} (h : Inv s) : InvNext (execFlightBreakSignal t s) := by
  unfold execFlightBreakSignal
  split
  · exact (Inv.ite (Inv.foldl (fun _ _ h1 => Inv.ite h1.modBody h1) h.modTeam) h).next
  · exact h.next

/-! What Machine/Merge.lean defines -/

theorem Inv.readTarget {c g vt e l n round} (h : Inv s) : Inv (s.readTarget c g vt e l n round).2 := h.glbRead
theorem Inv.writeTarget {c g vt e l bs} (h : Inv s) : Inv (s.writeTarget c g vt e l bs).2 := by
  unfold State.writeTarget
  extract_lets
  split
  · rename_i heq
    exact Inv.ite ((Inv.of_eq heq h.glbWrite).modBody) (Inv.of_eq heq h.glbWrite)
  · exact h.glbWrite
theorem Inv.mergePost {c kind e lane detail} (h : Inv s) : Inv (s.mergePost c kind e lane detail) := h.modBody
theorem Inv.postOverflow {c e l lane} (h : Inv s) : Inv (s.postOverflow c e l lane) := h.mergePost
theorem Inv.postMergeRetry {c e l} (h : Inv s) : Inv (s.postMergeRetry c e l) := h.mergePost
theorem Inv.modProgress {c f} (h : Inv s) : Inv (s.modProgress c f) := h.modTask
theorem Inv.mergeLater {c n} (h : Inv s) : Inv (s.mergeLater c n) := h.nextFree.modTask
theorem Inv.mergeStops {c g} {t : State} (hs : Inv s) (ht : Inv t) : Inv (s.mergeStops c g t) := by
  unfold State.mergeStops
  split
  · exact ((hs.keepAways ht).forgetMerge).modTask
  · exact hs.keepAways ht
theorem Inv.entryMerged {c n vt} (h : Inv s) : Inv (s.entryMerged c n vt) := by
  unfold State.entryMerged
  split
  · exact h.modProgress
  · exact h.modNode
theorem Inv.linesMerged {c n vt e l} (h : Inv s) : Inv (s.linesMerged c n vt e l) := by
  unfold State.linesMerged
  split
  · exact h.entryMerged
  · exact h.modProgress
theorem Inv.mergeLine {c n g vt e l} (h : Inv s) : Inv (s.mergeLine c n g vt e l) := by
  dsimp only [State.mergeLine]
  split
  · split
    · split
      · rename_i heq _ _ _ heq1 _ _ _
        exact ((((Inv.of_eq heq1 ((Inv.of_eq heq h.readTarget).writeTarget)).forgetMerge).postOverflow).linesMerged).mergeLater
      · rename_i heq _ _ _ heq1 _ _
        exact (((Inv.of_eq heq1 ((Inv.of_eq heq h.readTarget).writeTarget)).forgetMerge).linesMerged).mergeLater
    · rename_i heq _ _ _ _ heq1
      exact h.mergeStops (Inv.of_eq heq1 ((Inv.of_eq heq h.readTarget).writeTarget))
  · rename_i heq
    exact h.mergeStops (Inv.of_eq heq h.readTarget)
theorem Inv.readTargetTile {c g vt e l n} (h : Inv s) : Inv (s.readTargetTile c g vt e l n).2.2 := by
  unfold State.readTargetTile
  split
  · rename_i heq
    exact (Inv.of_eq heq h.readTarget).readTarget
  · rename_i heq
    exact Inv.of_eq heq h.readTarget
theorem Inv.mergeTile {c node g vt e l} (h : Inv s) : Inv (s.mergeTile c node g vt e l) := by
  unfold State.mergeTile
  have h1 : Inv (s.modProgress c fun x => { x with line := l }) := h.modProgress
  extract_lets p n s'
  have hread : Inv (s'.readTargetTile c g vt e l n).2.2 := h1.readTargetTile
  generalize s'.readTargetTile c g vt e l n = r at hread
  obtain ⟨a, b, t⟩ := r
  rcases a with bs | _ | _
  · rcases b with again | _ | _
    · dsimp only at hread ⊢
      refine Inv.ite hread.forgetMerge.modTask (Inv.mergeLater (Inv.ite (Inv.linesMerged (Inv.modTask ?_)) (Inv.modProgress (Inv.modTask ?_))))
      all_goals
        split
        · exact (Inv.ite hread.forgetMerge.postMergeRetry hread.forgetMerge).postOverflow
        · exact Inv.ite hread.forgetMerge.postMergeRetry hread.forgetMerge
    · exact h1.mergeStops hread
    · exact h1.mergeStops hread
  · exact h1.mergeStops hread
  · exact h1.mergeStops hread
theorem Inv.mergeBuffered {c node g vt e} (h : Inv s) : Inv (s.mergeBuffered c node g vt e) := by
  unfold State.mergeBuffered
  extract_lets
  split
  · exact h.linesMerged
  · split
    · rename_i heq
      exact (Inv.ite (((Inv.of_eq heq h.writeTarget).forgetMerge).modProgress) (((Inv.of_eq heq h.writeTarget).forgetMerge).linesMerged)).mergeLater
    · rename_i heq
      exact h.mergeStops (Inv.of_eq heq h.writeTarget)
theorem Inv.pushStep {c n g} (h : Inv s) : Inv (s.pushStep c n g) := by
  unfold State.pushStep
  extract_lets
  split
  · exact h.modProgress.modNode
  · extract_lets
    split
    · exact (Inv.ite h.modProgress h.modProgress.modProgress).mergeBuffered
    · split
      · exact (Inv.ite h.modProgress h.modProgress.modProgress).entryMerged
      · exact Inv.ite ((Inv.ite h.modProgress h.modProgress.modProgress).mergeTile) ((Inv.ite h.modProgress h.modProgress.modProgress).mergeLine)
theorem inv_execMergePush {c} (h : Inv s) : InvNext (execMergePush c s) := by
  unfold execMergePush
  split
  · exact h.pushStep.next
  · exact h.next
theorem inv_execMergeTileRetry {c} (h : Inv s) : InvNext (execMergeTileRetry c s) := by
  unfold execMergeTileRetry
  split
  · exact (Inv.ite h.pushStep h).next
  · exact h.next
theorem inv_execMergeTranslationFault {c} (h : Inv s) : InvNext (execMergeTranslationFault c s) := by
  unfold execMergeTranslationFault
  extract_lets
  split
  · exact (Inv.ite h (Inv.ite h.modBody.modTask h.modTask)).next
  · exact h.next

/-! What Machine/Vector.lean defines -/

theorem inv_vectorEntry {op h d srcs faults res at_} (hs : Inv s) : InvNext (vectorEntry op h d srcs faults res s at_) :=
  hs.entry (fun _ h1 => Inv.foldl (fun _ _ h2 => h2.pendW) h1.popPorts.writeDst)
theorem inv_elementwise {op h d srcs f} (hs : Inv s) : InvNext (elementwise op h d srcs f s) := inv_vectorEntry hs
theorem inv_allLanes {op h d srcs faults f} (hs : Inv s) : InvNext (allLanes op h d srcs faults f s) := inv_vectorEntry hs
theorem inv_across {op h d a f} (hs : Inv s) : InvNext (across op h d a f s) := inv_vectorEntry hs
theorem inv_predEntry {h pd srcs res} (hs : Inv s) : InvNext (predEntry h pd srcs res s) :=
  hs.entry (fun _ h1 => Inv.ite h1.popPorts h1.popPorts.pendW)
theorem inv_execFcmp {h pd a b} (hs : Inv s) : InvNext (execFcmp h pd a b s) := inv_predEntry hs
theorem inv_execFround {h d a} (hs : Inv s) : InvNext (execFround h d a s) := inv_elementwise hs
theorem inv_execFcvt {h d a b} (hs : Inv s) : InvNext (execFcvt h d a b s) := inv_elementwise hs
theorem inv_execScacc {h d a b c} (hs : Inv s) : InvNext (execScacc h d a b c s) := by
  unfold execScacc
  split <;> exact inv_vectorEntry hs
theorem inv_execFsum {h d a} (hs : Inv s) : InvNext (execFsum h d a s) := inv_across hs
theorem inv_execFmaxr {h d a} (hs : Inv s) : InvNext (execFmaxr h d a s) := inv_across hs
theorem inv_execFscan {h d a} (hs : Inv s) : InvNext (execFscan h d a s) := inv_across hs
theorem inv_execIadd {h d a b} (hs : Inv s) : InvNext (execIadd h d a b s) := inv_elementwise hs
theorem inv_execIsub {h d a b} (hs : Inv s) : InvNext (execIsub h d a b s) := inv_elementwise hs
theorem inv_execImul {h d a b} (hs : Inv s) : InvNext (execImul h d a b s) := inv_elementwise hs
theorem inv_execImad {h d a b c} (hs : Inv s) : InvNext (execImad h d a b c s) := inv_elementwise hs
theorem inv_execImin {h d a b} (hs : Inv s) : InvNext (execImin h d a b s) := inv_elementwise hs
theorem inv_execIabs {h d a} (hs : Inv s) : InvNext (execIabs h d a s) := inv_elementwise hs
theorem inv_execVecSll {h d a b} (hs : Inv s) : InvNext (execVecSll h d a b s) := inv_elementwise hs
theorem inv_execIcmp {h pd a b} (hs : Inv s) : InvNext (execIcmp h pd a b s) := inv_predEntry hs
theorem inv_execDot8 {h d a b c} (hs : Inv s) : InvNext (execDot8 h d a b c s) := inv_elementwise hs
theorem inv_execIsum {h d a} (hs : Inv s) : InvNext (execIsum h d a s) := inv_across hs
theorem inv_execIscan {h d a} (hs : Inv s) : InvNext (execIscan h d a s) := inv_across hs
theorem inv_execMov {h d a} (hs : Inv s) : InvNext (execMov h d a s) := inv_elementwise hs
theorem inv_execVsel {h d a b} (hs : Inv s) : InvNext (execVsel h d a b s) := inv_allLanes hs
theorem inv_laneMove {op h d a b f} (hs : Inv s) : InvNext (laneMove op h d a b f s) := inv_vectorEntry hs
theorem inv_execPerm {h d a b} (hs : Inv s) : InvNext (execPerm h d a b s) := inv_laneMove hs
theorem inv_execBcast {h d a b} (hs : Inv s) : InvNext (execBcast h d a b s) := inv_laneMove hs
theorem inv_vpBoth {f h pd pa pb} (hs : Inv s) : InvNext (vpBoth f h pd pa pb s) := inv_predEntry hs
theorem inv_execVpand {h pd pa pb} (hs : Inv s) : InvNext (execVpand h pd pa pb s) := inv_vpBoth hs
theorem inv_execVpnot {h pd pa} (hs : Inv s) : InvNext (execVpnot h pd pa s) := inv_vpBoth hs
theorem inv_execVpcount {h d pa} (hs : Inv s) : InvNext (execVpcount h d pa s) := inv_allLanes hs
theorem inv_execTos {h d a b} (hs : Inv s) : InvNext (execTos h d a b s) := by
  unfold execTos
  exact inv_allLanes hs
theorem inv_execNop {e} (h : Inv s) : InvNext (execNop e s) := h.next

/-! What Machine/Matrix.lean defines -/

theorem Inv.modTile {g f} (h : Inv s) : Inv (s.modTile g f) := h.modGroup
theorem Inv.setNest {g f} (h : Inv s) : Inv (s.setNest g f) := h.modTile.modMe
theorem inv_execMxrd {q a b sel} (h : Inv s) : InvNext (execMxrd q a b sel s) := by
  unfold execMxrd
  split
  · split
    · exact h.raise.next
    · split
      · exact h.wg.next
      · exact h.raise.next
  · exact h.next
theorem Inv.startLoad {g id base kw ph} (h : Inv s) : Inv (s.startLoad g id base kw ph) := h.modTile
theorem Inv.startNest {g id n split entry} (h : Inv s) : Inv (s.startNest g id n split entry) := h.modTile.modMe
theorem inv_execMxgo {q a tok split} (h : Inv s) : InvNext (execMxgo q a tok split s) := by
  unfold execMxgo
  extract_lets
  split
  · split
    · exact h.raise.next
    · split
      · exact h.raise.next
      · exact (Inv.ite h (Inv.ite h.holdFor (Inv.foldl (fun _ _ h1 => h1.startNest) h.addCommand))).next
  · exact h.next
theorem Inv.entryCommand {tok reads writes} (h : Inv s) : Inv (s.entryCommand tok reads writes).2 := by
  unfold State.entryCommand
  split
  · exact h.modMe
  · exact h.addCommand
theorem inv_execMxgoG {e split tv tok} (h : Inv s) : InvNext (execMxgoG e split tv tok s) := by
  unfold execMxgoG
  extract_lets
  split
  · exact h.raise.next
  · split
    · exact h.raise.next
    · split
      · exact h.raise.next
      · exact h.entryCommand.startNest.next
theorem inv_execMxqG {e d} (h : Inv s) : InvNext (execMxqG e d s) := inv_vectorEntry h

/-! What Machine/Transform.lean defines -/

theorem Inv.modUnit {u f} (h : Inv s) : Inv (s.modUnit u f) := h.modMe
theorem inv_setPort {u port v} (h : Inv s) : Inv (setPort u port v s) := h.modUnit
theorem inv_execTmovPort {q su src u port} (h : Inv s) : InvNext (execTmovPort q su src u port s) := by
  unfold execTmovPort
  split
  · split
    · exact (inv_setPort h).next
    · exact (Inv.ite h.holdFor (inv_setPort h)).next
  · exact h.next
theorem Inv.startTransform {u x} (h : Inv s) : Inv (s.startTransform u x) := by
  unfold State.startTransform
  extract_lets
  split
  · exact Inv.ite h.modUnit.addCommand.modUnit h.modUnit.addCommand.modMe.modUnit
  · exact h.modUnit.addCommand.nextFree.modUnit
theorem inv_trigger {u kind q a tok} (h : Inv s) : Inv (trigger u kind q a tok s) :=
  Inv.ite (Inv.ite h.holdFor (Inv.ite h.raise (Inv.ite h.raise h.startTransform))) h
theorem inv_execTcfg {q a e} (h : Inv s) : InvNext (execTcfg q a e s) := by
  dsimp only [execTcfg]
  exact (Inv.ite (inv_withDescriptor (fun _ _ h1 => by
        split
        · exact h1.holdFor
        · split
          · exact h1.raise
          · exact Inv.ite h1.raise h1.modMe) h) h).next
theorem inv_execTcfgPinned {q a} (h : Inv s) : InvNext (execTcfgPinned q a s) := by
  dsimp only [execTcfgPinned]
  exact (Inv.ite (inv_withDescriptor (fun _ _ h1 => by
        split
        · exact h1.holdFor
        · split
          · exact h1.raise
          · exact h1.modMe.pinRegion) h) h).next
theorem Inv.modOp {c u f} (h : Inv s) : Inv (s.modOp c u f) := h.modBody
theorem Inv.unitWrite {c x sp off bs} (h : Inv s) : Inv (s.unitWrite c x sp off bs) := h.modBody
theorem Inv.unitPost {c x kind lane space detail} (h : Inv s) : Inv (s.unitPost c x kind lane space detail) := h.modBody
theorem Inv.splitRow {c x i} (h : Inv s) : Inv (s.splitRow c x i) := by
  dsimp only [State.splitRow]
  split
  · split
    · exact ((Inv.foldl (fun _ _ h1 => h1.unitWrite) h.unitWrite).unitPost).unitPost
    · exact (Inv.foldl (fun _ _ h1 => h1.unitWrite) h.unitWrite).unitPost
  · split
    · exact (Inv.foldl (fun _ _ h1 => h1.unitWrite) h.unitWrite).unitPost
    · exact Inv.foldl (fun _ _ h1 => h1.unitWrite) h.unitWrite
theorem Inv.joinRow {c x i spent} (h : Inv s) : Inv (s.joinRow c x i spent) := by
  dsimp only [State.joinRow]
  split
  · split
    · exact h.unitWrite.unitPost.unitPost
    · exact h.unitWrite.unitPost
  · split
    · exact h.unitWrite.unitPost
    · exact h.unitWrite
theorem Inv.packOne {c x k i} (h : Inv s) : Inv (s.packOne c x k i).1 := Inv.ite h.unitWrite.unitPost h.unitWrite
theorem Inv.transposeOne {c x t} (h : Inv s) : Inv (s.transposeOne c x t) := Inv.foldl (fun _ _ h1 => h1.unitWrite) h
theorem Inv.layoutRead {c g ps} (h : Inv s) : Inv (s.layoutRead c g ps).2 := by
  unfold State.layoutRead
  split
  · rename_i heq
    exact Inv.of_eq heq (h.engineRead (fun _ h1 => h1.glbLines))
  · exact h.engineRead (fun _ h1 => h1.glbLines)
theorem Inv.layoutLine {c r src piece} (h : Inv s) : Inv (s.layoutLine c r src piece) := h.effect.modBody
theorem Inv.endTransform {c u x faulted} (h : Inv s) : Inv (s.endTransform c u x faulted) := h.modOp.modBody
theorem Inv.putOp {c u x} (h : Inv s) : Inv (s.putOp c u x) := h.modOp
theorem Inv.joinFrom {c : CoreId} {u : Fin 4} {x : TransformOp} {n : Nat} (h : Inv s) : Inv (s.joinFrom c u x n) := by
  induction n generalizing s x with
  | zero => exact h.endTransform
  | succ n ih => exact Inv.ite h.putOp (ih h.joinRow)
theorem Inv.layoutHand {c u x bs} (h : Inv s) : Inv (s.layoutHand c u x bs) :=
  Inv.ite h.putOp.implicitCheckpoint (Inv.ite h.layoutLine.putOp (Inv.ite h.layoutLine.putOp h.layoutLine.endTransform))
theorem Inv.layoutStep {c u x} (h : Inv s) : Inv (s.layoutStep c u x) := by
  unfold State.layoutStep
  extract_lets
  split
  · exact h.layoutHand
  · split
    · rename_i heq
      exact ((Inv.of_eq heq h.layoutRead).forgetAways).layoutHand
    · rename_i heq
      exact ((h.keepAways (Inv.of_eq heq h.layoutRead)).forgetAways).putOp
    · rename_i heq
      exact h.keepAways (Inv.of_eq heq h.layoutRead)
theorem Inv.performTransform {c u x} (h : Inv s) : Inv (s.performTransform c u x) := by
  unfold State.performTransform
  extract_lets all
  have hall : ∀ f : State → Nat → State, (∀ u n, Inv u → Inv (f u n)) → Inv (all f) := fun f hf => (Inv.foldl hf h).endTransform
  split
  · exact hall _ fun _ _ h1 => h1.splitRow
  · exact h.joinFrom
  · split
    · refine Inv.endTransform (Inv.foldl_fst (fun _ _ h1 => ?_) h)
      exact h1.packOne
    · exact h
  · exact hall _ fun _ _ h1 => h1.transposeOne
  · exact hall _ fun _ _ h1 => h1.transposeOne
  · exact h.layoutStep
theorem inv_execTransformComplete {c u} (h : Inv s) : InvNext (execTransformComplete c u s) := by
  unfold execTransformComplete
  split
  · exact h.performTransform.next
  · exact h.next
theorem Inv.transformFault {c u} (h : Inv s) : Inv (s.transformFault c u) := by
  unfold State.transformFault
  split
  · exact h
  · split
    · exact h
    · exact Inv.ite h h.modBody.endTransform

/-! What Machine/SaveArea.lean defines -/

theorem Inv.usherRead {who asn a n} (h : Inv s) : Inv (s.usherRead who asn a n).2 := Inv.ite_snd h h.glbRead
theorem Inv.usherWrite {who asn a bs round} (h : Inv s) : Inv (s.usherWrite who asn a bs round).2 := Inv.ite_snd h h.glbWrite
theorem Inv.serve1 {r} (h : Inv s) (hr : InvServed r) : Inv (s.serve1 r) := by
  cases r with
  | done t => exact hr (.inl rfl)
  | waits t => exact h.keepAways (hr (.inr rfl))
theorem Inv.usherFails {t : State} {unit} (hs : Inv s) (ht : Inv t) : Inv (s.usherFails t unit) := (hs.keepAways ht).logEvent
theorem Inv.usherPost {who asn a bs unit k} (h : Inv s) (hk : ∀ u, Inv u → InvServed (k u)) : InvServed (s.usherPost who asn a bs unit k) := by
  unfold State.usherPost
  split
  · exact hk _ h.logEvent
  · split
    · rename_i heq
      exact hk _ (Inv.of_eq heq h.usherWrite)
    · rename_i heq
      exact hk _ (h.usherFails (Inv.of_eq heq h.usherWrite))
    · rename_i heq
      exact (Inv.of_eq heq h.usherWrite).waits
theorem Inv.writePieces {who : AwayFor} {asn : BitVec 12} {ps : List Piece8} (h : Inv s) : Inv (s.writePieces who asn ps).2 := by
  induction ps generalizing s with
  | nil => exact h
  | cons p ps ih =>
    unfold State.writePieces
    split
    · rename_i heq
      exact ih (Inv.of_eq heq h.usherWrite)
    · rename_i heq
      exact ih (h.usherFails (Inv.of_eq heq h.usherWrite))
    · rename_i heq
      exact Inv.of_eq heq h.usherWrite

/-! What Machine/Loader.lean defines -/

theorem Inv.loadWrites {who : AwayFor} {asn : BitVec 12} {round : Nat} {ws : List (Nat × List (BitVec 8))} (h : Inv s) :
    Inv (s.loadWrites who asn round ws).2 := by
  induction ws generalizing s round with
  | nil => exact h
  | cons w ws ih =>
    unfold State.loadWrites
    split
    · rename_i heq
      exact ih (Inv.of_eq heq h.usherWrite)
    · exact h.usherWrite
theorem Inv.loadStatus {who unit asn e code index k} (h : Inv s) (hk : ∀ u, Inv u → InvServed (k u)) :
    InvServed (s.loadStatus who unit asn e code index k) :=
  h.usherPost (fun _ h2 => hk _ h2)
theorem Inv.loadEntry {who unit asn e k} (h : Inv s) (hk : ∀ u, Inv u → InvServed (k u)) : InvServed (s.loadEntry who unit asn e k) := by
  unfold State.loadEntry
  extract_lets
  split
  · rename_i heq
    exact (Inv.of_eq heq h.usherRead).waits
  · rename_i heq
    exact (h.usherFails (Inv.of_eq heq h.usherRead)).loadStatus (fun _ h2 => hk _ h2)
  · split
    · rename_i heq _ _ _ _
      exact (Inv.of_eq heq h.usherRead).loadStatus (fun _ h2 => hk _ h2)
    · split
      · rename_i heq _ _ _ _ _ _ heq1
        exact (Inv.of_eq heq1 ((Inv.of_eq heq h.usherRead).usherRead)).waits
      · rename_i heq _ _ _ _ _ _ _ _ heq1
        exact ((Inv.of_eq heq h.usherRead).usherFails (Inv.of_eq heq1 ((Inv.of_eq heq h.usherRead).usherRead))).loadStatus (fun _ h2 => hk _ h2)
      · split
        · rename_i heq _ _ _ _ _ _ _ heq1 _ _ heq2
          exact (Inv.of_eq heq2 ((Inv.of_eq heq1 ((Inv.of_eq heq h.usherRead).usherRead)).loadWrites)).waits
        · rename_i heq _ _ _ _ _ _ _ heq1 _ _ _ _ heq2
          exact ((Inv.of_eq heq1 ((Inv.of_eq heq h.usherRead).usherRead)).usherFails (Inv.of_eq heq2 ((Inv.of_eq heq1
              ((Inv.of_eq heq h.usherRead).usherRead)).loadWrites))).loadStatus (fun _ h2 => hk _ h2)
        · rename_i heq _ _ _ _ _ _ _ heq1 _ _ _ heq2
          exact (Inv.of_eq heq2 ((Inv.of_eq heq1 ((Inv.of_eq heq h.usherRead).usherRead)).loadWrites)).loadStatus (fun _ h2 => hk _ h2)

/-! What Machine/Usher.lean defines -/

theorem Inv.modUsher {f} (h : Inv s) : Inv (s.modUsher f) := h.update
theorem Inv.modHost {f} (h : Inv s) : Inv (s.modHost f) := h.update
theorem Inv.hostWaits {i} (h : Inv s) : Inv (s.hostWaits i) := h.modHost
theorem Inv.raiseVector {v} (h : Inv s) : Inv (s.raiseVector v) := h.update
theorem inv_execUsherConfigCommit {off bytes} (h : Inv s) : InvNext (execUsherConfigCommit off bytes s) :=
  (Inv.ite h.modUsher h.update).next
theorem inv_execFabricConfigCommit {off bytes} (h : Inv s) : InvNext (execFabricConfigCommit off bytes s) :=
  (Inv.ite h.update h.update).next
theorem Inv.setDesc {q d} (h : Inv s) : Inv (s.setDesc q d) := h.modUsher
theorem Inv.writeDesc {who q off bs k} (h : Inv s) (hk : ∀ u, Inv u → InvServed (k u)) : InvServed (s.writeDesc who q off bs k) :=
  h.usherPost (fun _ h2 => hk _ h2.forgetAways.forgetAways.setDesc)
theorem Inv.setReady {q ready} (h : Inv s) : Inv (s.setReady q ready) := Inv.ite h h.modUsher
theorem Inv.freeze {who q code entry index f k} (h : Inv s) (hk : ∀ u, Inv u → InvServed (k u)) : InvServed (s.freeze who q code entry index f k) :=
  h.writeDesc (fun _ h2 => h2.usherPost (fun _ h3 => hk _ h3.setReady.raiseVector))
theorem Inv.entryAt {who q} (h : Inv s) : Inv (s.entryAt who q).2 := h.usherRead
theorem Inv.nodeWord {who q a} (h : Inv s) : Inv (s.nodeWord who q a).2 := h.usherRead
theorem Inv.examined {q ready retest} (h : Inv s) : InvServed (s.examined q ready retest) :=
  h.forgetAways.forgetAways.setReady.modUsher.done
theorem Inv.testHead {q} (h : Inv s) : InvServed (s.testHead q) := by
  unfold State.testHead
  split
  · exact h.examined
  · split
    · rename_i heq
      exact (Inv.of_eq heq h.entryAt).waits
    · rename_i heq
      exact (h.keepAways (Inv.of_eq heq h.entryAt)).examined
    · extract_lets
      split
      · split
        · rename_i heq _ _ _ _ heq1
          exact (Inv.of_eq heq1 ((Inv.of_eq heq h.entryAt).nodeWord)).waits
        · rename_i heq _ _ _ _ _ _ heq1
          exact ((Inv.of_eq heq h.entryAt).keepAways (Inv.of_eq heq1 ((Inv.of_eq heq h.entryAt).nodeWord))).examined
        · rename_i heq _ _ _ _ _ heq1
          exact InvServed.ite ((Inv.of_eq heq1 ((Inv.of_eq heq h.entryAt).nodeWord)).examined) (((Inv.of_eq heq1
              ((Inv.of_eq heq h.entryAt).nodeWord)).nextFree).examined)
      · rename_i heq _ _
        exact InvServed.ite ((Inv.of_eq heq h.entryAt).examined) ((Inv.of_eq heq h.entryAt).examined)
theorem Inv.readDesc {who q k} (h : Inv s) (hk : ∀ u, Inv u → InvServed (k u)) : InvServed (s.readDesc who q k) := by
  unfold State.readDesc
  split
  · rename_i heq
    exact hk _ ((Inv.of_eq heq h.usherRead).setDesc)
  · rename_i heq
    exact hk _ ((h.usherFails (Inv.of_eq heq h.usherRead)).setDesc)
  · rename_i heq
    exact (Inv.of_eq heq h.usherRead).waits
theorem Inv.examine {q} (h : Inv s) : Inv (s.examine q) := h.serve1 (h.readDesc (fun _ h1 => h1.testHead))
theorem Inv.beginServing {q} (h : Inv s) : Inv (s.beginServing q) := h.modUsher
theorem Inv.markServed {q level} (h : Inv s) : Inv (s.markServed q level) := h.nextFree.forgetAways.modUsher
theorem Inv.moveHead {q head k} (h : Inv s) (hk : ∀ u, Inv u → InvServed (k u)) : InvServed (s.moveHead q head k) :=
  h.writeDesc (fun _ h2 => hk _ h2)
theorem Inv.advance {q} (h : Inv s) : InvServed (s.advance q) := h.moveHead (fun _ h1 => h1.done)
theorem Inv.jump {q n} (h : Inv s) : InvServed (s.jump q n) := h.moveHead (fun _ h1 => h1.modUsher.done)
theorem Inv.reject {q code e} (h : Inv s) : InvServed (s.reject q code e) := h.freeze (fun _ h1 => h1.done)
theorem Inv.processHead {q kinds act} (h : Inv s) (hact : ∀ u y1, Inv u → InvServed (act u y1)) : Inv (s.processHead q kinds act) := by
  dsimp only [State.processHead]
  split
  · exact h
  · split
    · rename_i heq
      exact h.keepAways (Inv.of_eq heq h.entryAt)
    · split
      · split
        · rename_i heq _ _ _ heq1
          exact ((h.usherFails (Inv.of_eq heq h.entryAt)).reject (.inl heq1)).markServed
        · rename_i heq _ _ _ heq1
          exact h.keepAways ((h.usherFails (Inv.of_eq heq h.entryAt)).reject (.inr heq1))
      · exact h
    · split
      · split
        · rename_i heq _ _ _ heq1
          exact (hact _ _ (Inv.of_eq heq h.entryAt) (.inl heq1)).markServed
        · rename_i heq _ _ _ heq1
          exact h.keepAways (hact _ _ (Inv.of_eq heq h.entryAt) (.inr heq1))
      · exact h
theorem Inv.withWord {q e a k} (h : Inv s) (hk : ∀ y0 u, Inv u → InvServed (k y0 u)) : InvServed (s.withWord q e a k) := by
  unfold State.withWord
  split
  · rename_i heq
    exact (Inv.of_eq heq h.nodeWord).waits
  · rename_i heq
    exact (h.usherFails (Inv.of_eq heq h.nodeWord)).reject
  · rename_i heq
    exact hk _ _ (Inv.of_eq heq h.nodeWord)
theorem Inv.writeWord {q e a v k} (h : Inv s) (hk : ∀ u, Inv u → InvServed (k u)) : InvServed (s.writeWord q e a v k) := by
  unfold State.writeWord
  split
  · rename_i heq
    exact (Inv.of_eq heq h.usherWrite).waits
  · rename_i heq
    exact (h.usherFails (Inv.of_eq heq h.usherWrite)).reject
  · rename_i heq
    exact hk _ (Inv.of_eq heq h.usherWrite)
theorem Inv.privileged {q e ok k} (h : Inv s) (hk : InvServed k) : InvServed (s.privileged q e ok k) := InvServed.ite h.reject hk
theorem Inv.decrementWord {q e a k} (h : Inv s) (hk : ∀ y0 u, Inv u → InvServed (k y0 u)) : InvServed (s.decrementWord q e a k) := by
  unfold State.decrementWord
  split
  · exact (h.usherFails h).reject
  · split
    · rename_i heq
      exact (Inv.of_eq heq h.glbDecrement).waits
    · rename_i heq
      exact (h.usherFails (Inv.of_eq heq h.glbDecrement)).reject
    · rename_i heq
      exact hk _ _ (Inv.of_eq heq h.glbDecrement)
theorem Inv.storeTail {q value} (h : Inv s) : InvServed (s.storeTail q value) :=
  h.readDesc (fun _ h1 => h1.writeDesc (fun _ h2 => InvServed.ite (InvServed.ite h2.modUsher.waits (h2.modUsher.freeze
      (fun _ h3 => h3.done))) h2.modUsher.done))
theorem inv_execTailRegisterWrite {q value} (h : Inv s) : InvNext (execTailRegisterWrite q value s) := by
  unfold execTailRegisterWrite
  split
  · exact h.hostWaits.next
  · split
    · rename_i heq
      exact ((h.keepAways (h.storeTail (.inr heq))).hostWaits).next
    · rename_i heq
      exact (((h.storeTail (.inl heq)).forgetAways).examine).next
theorem Inv.createJob {q e k args} (h : Inv s) : Inv (s.createJob q e k args) := h.update
theorem Inv.launchEntry {q e} (h : Inv s) : InvServed (s.launchEntry q e) := by
  unfold State.launchEntry
  extract_lets
  split
  · exact h.reject
  · split
    · rename_i heq
      exact (Inv.of_eq heq h.usherRead).waits
    · rename_i heq
      exact (h.usherFails (Inv.of_eq heq h.usherRead)).reject
    · extract_lets
      split
      · rename_i heq _ _
        exact (Inv.of_eq heq h.usherRead).reject
      · split
        · rename_i heq _ _ _ _ heq1
          exact (Inv.of_eq heq1 ((Inv.of_eq heq h.usherRead).usherRead)).waits
        · rename_i heq _ _ _ _ _ _ heq1
          exact (h.usherFails (Inv.of_eq heq1 ((Inv.of_eq heq h.usherRead).usherRead))).reject
        · extract_lets
          split
          · rename_i heq _ _ _ _ _ heq1 _ _ _ _ _ heq2
            exact (Inv.of_eq heq2 ((Inv.of_eq heq1 ((Inv.of_eq heq h.usherRead).usherRead)).usherRead)).waits
          · rename_i heq _ _ _ _ _ heq1 _ _ _ _ _ _ _ heq2
            exact (h.usherFails (Inv.of_eq heq2 ((Inv.of_eq heq1 ((Inv.of_eq heq h.usherRead).usherRead)).usherRead))).reject
          · extract_lets
            split
            · rename_i heq _ _ _ _ _ heq1 _ _ _ _ _ _ heq2 _ _ _ heq3
              exact (Inv.of_eq heq3 ((Inv.of_eq heq2 ((Inv.of_eq heq1 ((Inv.of_eq heq h.usherRead).usherRead)).usherRead)).usherRead)).waits
            · rename_i heq _ _ _ _ _ heq1 _ _ _ _ _ _ heq2 _ _ _ _ _ heq3
              exact (h.usherFails (Inv.of_eq heq3 ((Inv.of_eq heq2 ((Inv.of_eq heq1
                  ((Inv.of_eq heq h.usherRead).usherRead)).usherRead)).usherRead))).reject
            · rename_i heq _ _ _ _ _ heq1 _ _ _ _ _ _ heq2 _ _ _ _ heq3
              exact InvServed.ite ((Inv.of_eq heq3 ((Inv.of_eq heq2 ((Inv.of_eq heq1
                  ((Inv.of_eq heq h.usherRead).usherRead)).usherRead)).usherRead)).reject) (((Inv.of_eq heq3 ((Inv.of_eq heq2
                  ((Inv.of_eq heq1 ((Inv.of_eq heq h.usherRead).usherRead)).usherRead)).usherRead)).createJob).advance)
theorem Inv.startTeam {x cs o} (h : Inv s) : Inv (s.startTeam x cs o) := by
  unfold State.startTeam
  extract_lets
  split
  · rename_i heq
    exact h.keepAways (Inv.of_eq heq h.usherRead)
  · rename_i heq
    exact (((h.usherFails (Inv.of_eq heq h.usherRead)).forgetAways).modTeam).update
  · rename_i heq
    exact (((Inv.of_eq heq h.usherRead).forgetAways).modTeam).update
theorem Inv.readRecords {x : Team} {is : List Nat} {acc : List (Option (List (BitVec 8)))} (h : Inv s) : Inv (s.readRecords x is acc).2 := by
  induction is generalizing s acc with
  | nil => exact h
  | cons i is ih =>
    unfold State.readRecords
    split
    · rename_i heq
      exact Inv.of_eq heq h.usherRead
    · rename_i heq
      exact ih (h.usherFails (Inv.of_eq heq h.usherRead))
    · rename_i heq
      exact ih (Inv.of_eq heq h.usherRead)
theorem Inv.restoreTeam {x cs o} (h : Inv s) : Inv (s.restoreTeam x cs o) := by
  unfold State.restoreTeam
  extract_lets put
  have hput : ∀ u header records, Inv u → Inv (put u header records) := fun u header records hu =>
    Inv.foldl (fun _ _ h1 => by
      split
      · exact h1.pinRegion
      · exact h1) hu.modTeam.update
  generalize hread : s.usherRead (whoTeam x.id) x.asn x.area 0x10000 = r
  obtain ⟨g, t⟩ := r
  have ht : Inv t := Inv.of_eq hread h.usherRead
  cases g with
  | waits => exact h.keepAways ht
  | ok bs =>
    dsimp only
    split
    · rename_i heq
      exact h.keepAways (Inv.of_eq heq ht.readRecords)
    · rename_i heq
      exact hput _ _ _ (Inv.of_eq heq ht.readRecords).forgetAways
  | fault =>
    dsimp only
    split
    · rename_i heq
      exact h.keepAways (Inv.of_eq heq (h.usherFails ht).readRecords)
    · rename_i heq
      exact hput _ _ _ (Inv.of_eq heq (h.usherFails ht).readRecords).forgetAways
theorem Inv.stopTeam {x} (h : Inv s) : Inv (s.stopTeam x) :=
  Inv.foldl (fun _ _ h1 => Inv.foldl (fun _ _ h2 => by
      split
      · exact Inv.ite h2.answer h2
      · exact h2) h1.modTask) h.modTeam
theorem Inv.displace (h : Inv s) : Inv (s.displace) := Inv.ite h (Inv.foldl (fun _ _ h1 => h1.stopTeam) h)
theorem inv_execTeamPlace {t} (h : Inv s) : InvNext (execTeamPlace t s) := by
  unfold execTeamPlace
  split
  · exact (Inv.ite (Inv.ite h.startTeam h.restoreTeam) h.displace).next
  · exact h.displace.next
theorem inv_execQuantumExpiry {t} (h : Inv s) : InvNext (execQuantumExpiry t s) := by
  unfold execQuantumExpiry
  split
  · exact (Inv.ite h.modTeam.displace h).next
  · exact h.next
theorem inv_execCoreStop {c} (h : Inv s) : InvNext (execCoreStop c s) := by
  unfold execCoreStop
  extract_lets
  split
  · split
    · exact h.modBody.modTask.next
    · split
      · exact (Inv.ite h.modBody.modTask.modBody.modTask h.modBody.modTask).next
      · split
        · split
          · rename_i heq
            exact (Inv.of_eq heq h.modBody.modTask.endInterval).next
          · rename_i heq
            exact (((Inv.of_eq heq h.modBody.modTask.endInterval).modBody).modTask).next
        · exact (Inv.ite h.modBody.modTask.checkpoint.modTask h.modBody.modTask).next
  · exact h.next
theorem Inv.leaveCores {x state inArea} (h : Inv s) : Inv (s.leaveCores x state inArea) := h.freeCores.modTeam
theorem inv_execTeamSave {t} (h : Inv s) : InvNext (execTeamSave t s) := by
  unfold execTeamSave
  split
  · extract_lets
    split
    · split
      · rename_i heq
        exact (h.keepAways (Inv.of_eq heq h.writePieces)).next
      · rename_i heq
        exact (((Inv.of_eq heq h.writePieces).forgetAways).leaveCores).next
    · exact h.next
  · exact h.next
theorem Inv.completeJob {k} (h : Inv s) : InvServed (s.completeJob k) :=
  InvServed.ite h.modUsher.done (h.usherPost (fun _ h1 => h1.modUsher.done))
theorem inv_execJobComplete {j} (h : Inv s) : InvNext (execJobComplete j s) := by
  unfold execJobComplete
  split
  · split
    · split
      · rename_i heq
        exact ((h.completeJob (.inl heq)).forgetAways).next
      · rename_i heq
        exact (h.keepAways (h.completeJob (.inr heq))).next
    · exact h.next
  · exact h.next
theorem Inv.modJob {j f} (h : Inv s) : Inv (s.modJob j f) := h.modUsher
theorem Inv.beginFault {x c f} (h : Inv s) : Inv (s.beginFault x c f) :=
  Inv.foldl (fun _ _ h1 => (Inv.ite h1.stopTeam h1).modTeam) h.modJob.modTeam
theorem Inv.saveFaulted {who : AwayFor} {ys : List Team} {k : State → Served} (h : Inv s) (hk : ∀ u, Inv u → InvServed (k u)) :
    InvServed (s.saveFaulted who ys k) := by
  induction ys generalizing s with
  | nil => exact hk _ h
  | cons y ys ih =>
    unfold State.saveFaulted
    extract_lets
    split
    · rename_i heq
      exact (Inv.of_eq heq h.writePieces).waits
    · rename_i heq
      exact ih (Inv.of_eq heq h.writePieces)
theorem Inv.endFault {x j} (h : Inv s) : InvServed (s.endFault x j) :=
  h.saveFaulted (fun _ h1 => h1.readDesc (fun _ h2 => by
      extract_lets
      split
      · exact h2.modUsher.modJob.freeze (fun _ h3 => h3.forgetAways.done)
      · exact h2.modUsher.modJob.done))
theorem inv_execTeamFault {t} (h : Inv s) : InvNext (execTeamFault t s) := by
  unfold execTeamFault
  split
  · split
    · split
      · split
        · exact (h.serve1 h.endFault).next
        · split
          · exact h.beginFault.next
          · exact h.next
      · exact h.next
    · exact h.next
  · exact h.next
theorem Inv.migrateTeam {x cs o} (h : Inv s) : Inv (s.migrateTeam x cs o) :=
  ((((Inv.foldl (fun _ _ h1 => h1.rollBack.forgetMerge.update) h).update).freeCores).modTeam).update
theorem Inv.retireCore {c} (h : Inv s) : Inv (s.retireCore c) := h.update.logEvent
theorem inv_execCoreRetire {c} (h : Inv s) : InvNext (execCoreRetire c s) := by
  unfold execCoreRetire
  split
  · exact h.next
  · split
    · exact h.retireCore.next
    · split
      · split
        · exact h.migrateTeam.retireCore.next
        · exact h.retireCore.next
      · exact h.next

/-! What Machine/Host.lean defines -/

theorem Inv.modNewel {f} (h : Inv s) : Inv (s.modNewel f) := h.update
theorem Inv.reply {d} (h : Inv s) : Inv (s.reply d) := h.modHost
theorem Inv.moduleReset (h : Inv s) : Inv (s.moduleReset) := ⟨canonFrom_filter 0 _ _ 0 h.1, h.2⟩
theorem inv_execModuleReset (h : Inv s) : InvNext (execModuleReset s) := h.moduleReset.next
theorem Inv.writeMailbox {off bs} (h : Inv s) : Inv (s.writeMailbox off bs) := Inv.ite h (Inv.ite h.nextFree.modHost.modNewel h.modHost)
theorem Inv.registerEffect {off bs} (h : Inv s) : InvNext (State.registerEffect off bs s) :=
  InvNext.ite (InvNext.ite (inv_execModuleReset h) h.next) (InvNext.ite (InvNext.ite (inv_execUsherConfigCommit h) h.modUsher.next)
      (InvNext.ite (InvNext.ite (inv_execFabricConfigCommit h) h.update.next) ((Inv.ite h.modHost (Inv.ite h.modHost
      (Inv.ite h.writeMailbox (Inv.ite h.modHost h)))).next)))
theorem inv_execRegisterRead {off n} (h : Inv s) : InvNext (execRegisterRead off n s) := by
  unfold execRegisterRead
  extract_lets
  split
  · exact h.reply.next
  · split
    · exact h.reply.next
    · split
      · exact h.hostWaits.next
      · split
        · rename_i heq
          exact (((Inv.of_eq heq h.usherRead).forgetAways).reply).next
        · rename_i heq
          exact (((h.keepAways (Inv.of_eq heq h.usherRead)).forgetAways).reply).next
        · rename_i heq
          exact ((h.keepAways (Inv.of_eq heq h.usherRead)).hostWaits).next
theorem inv_execWindowRead {off n} (h : Inv s) : InvNext (execWindowRead off n s) := by
  unfold execWindowRead
  split
  · exact h.reply.next
  · split
    · exact h.hostWaits.next
    · split
      · rename_i heq
        exact (((Inv.of_eq heq h.glbRead).forgetAways).reply).next
      · rename_i heq
        exact ((((h.keepAways (Inv.of_eq heq h.glbRead)).forgetAways).logEvent).reply).next
      · rename_i heq
        exact ((h.keepAways (Inv.of_eq heq h.glbRead)).hostWaits).next
theorem inv_execWindowWrite {off bytes} (h : Inv s) : InvNext (execWindowWrite off bytes s) := by
  unfold execWindowWrite
  split
  · exact h.reply.next
  · split
    · exact h.hostWaits.next
    · split
      · rename_i heq
        exact ((Inv.of_eq heq h.glbWrite).forgetAways).next
      · rename_i heq
        exact (((h.keepAways (Inv.of_eq heq h.glbWrite)).forgetAways).logEvent).next
      · rename_i heq
        exact ((h.keepAways (Inv.of_eq heq h.glbWrite)).hostWaits).next
theorem Inv.completeRequest {r a data} (h : Inv s) : Inv (s.completeRequest r a data) := by
  unfold State.completeRequest
  split
  · split
    · exact h.update
    · exact h.logEvent.comeBack
    · exact h.comeBack
  · split
    · exact h.comeBack
    · exact h.comeBack
theorem Inv.complete {a data} (h : Inv s) : Inv (s.complete a data) := by
  unfold State.complete
  extract_lets
  split
  · split
    · exact h.update.completeRequest
    · exact h.update
  · exact (Inv.ite h.logEvent h).update
theorem inv_execHostCompletion {id data} (h : Inv s) : InvNext (execHostCompletion id data s) := by
  unfold execHostCompletion
  split
  · exact (Inv.ite h.complete h).next
  · exact h.next
theorem inv_execHostReadTimeout {id} (h : Inv s) : InvNext (execHostReadTimeout id s) := by
  unfold execHostReadTimeout
  split
  · exact (Inv.ite h.complete h).next
  · exact h.next
theorem inv_execPeerResponse {id data} (h : Inv s) : InvNext (execPeerResponse id data s) := by
  unfold execPeerResponse
  split
  · exact h.complete.next
  · exact h.next
theorem Inv.respond {r d} (h : Inv s) : Inv (s.respond r d) := h.modHost
theorem Inv.peerCombine {q op v c} (h : Inv s) : Inv (s.peerCombine q op v c).2 := by
  unfold State.peerCombine
  extract_lets
  split
  · exact h.placePhysical.placeWrite
  · extract_lets
    split
    · exact h.placePhysical.placeWrite
    · exact h
  · exact h
theorem Inv.peerAct {q lines} (h : Inv s) : Inv (s.peerAct q lines).2 := by
  unfold State.peerAct
  split
  · exact h
  · exact (Inv.foldl (fun _ _ h1 => h1.placePhysical) h).placeWrite
  · exact Inv.ite_snd h h.peerCombine
theorem Inv.performPeer {r q} (h : Inv s) : Inv (s.performPeer r q) := by
  unfold State.performPeer
  extract_lets
  split
  · exact h
  · split
    · rename_i heq
      exact (Inv.of_eq heq h.update.peerAct).answer
    · rename_i heq
      exact (Inv.of_eq heq h.update.peerAct).refuse
theorem inv_execPeerRequest {q} (h : Inv s) : InvNext (execPeerRequest q s) := by
  unfold execPeerRequest
  extract_lets
  split
  · exact h.performPeer.next
  · exact (Inv.ite h.respond h.update.sendPacket).next
theorem Inv.linkDown {l} (h : Inv s) : Inv (s.linkDown l) := h.modHost.logEvent
theorem inv_execFlitRetry {link} (h : Inv s) : InvNext (execFlitRetry link s) := (Inv.ite h (Inv.ite h.modHost h.linkDown)).next
theorem Inv.awayAccess {who pa n bytes} (h : Inv s) : Inv (s.awayAccess who pa n bytes).2 := by
  unfold State.awayAccess
  split
  · exact h
  · exact Inv.ite_snd h h.update
theorem Inv.newelReads {ps : List (Nat × Nat)} (h : Inv s) : Inv (s.newelReads ps).2 := by
  induction ps generalizing s with
  | nil => exact h
  | cons p ps ih =>
    unfold State.newelReads
    split
    · rename_i heq
      have ht := ih (Inv.of_eq heq h.awayAccess)
      split
      · rename_i heq
        exact Inv.of_eq heq ht
      · exact ht
    · rename_i heq
      exact Inv.of_eq heq h.awayAccess
    · rename_i heq
      exact ih (Inv.of_eq heq h.awayAccess)
theorem Inv.newelWrites {ps : List (Nat × Nat)} {bs : List (BitVec 8)} (h : Inv s) : Inv (s.newelWrites ps bs).2 := by
  induction ps generalizing s bs with
  | nil => exact h
  | cons p ps ih => exact ih h.awayAccess
theorem Inv.acted {status out} (h : Inv s) : Inv (s.acted status out) := h.forgetAways.modNewel
theorem Inv.command {code f} (h : Inv s) (hf : ∀ u, Inv u → Inv (f u)) : InvNext (s.command code f) :=
  (Inv.ite (Inv.ite (hf _ h) h.acted) h).next
theorem Inv.withArg {n f} (h : Inv s) (hf : ∀ u y1, Inv u → Inv (f u y1)) : Inv (s.withArg n f) := by
  unfold State.withArg
  split
  · rename_i heq
    exact Inv.of_eq heq h.newelReads
  · rename_i heq
    exact (Inv.of_eq heq h.newelReads).acted
  · rename_i heq
    exact hf _ _ (Inv.of_eq heq h.newelReads)
theorem inv_execLog (h : Inv s) : InvNext (execLog s) := h.command (fun _ h1 => h1.withArg (fun _ _ h2 => h2.acted))
theorem inv_execCap (h : Inv s) : InvNext (execCap s) :=
  h.command (fun _ h1 => h1.withArg (fun _ _ h2 => Inv.ite h2.modNewel.acted h2.acted))
theorem inv_execUpdate (h : Inv s) : InvNext (execUpdate s) :=
  h.command (fun _ h1 => h1.withArg (fun _ _ h2 => Inv.ite h2.modNewel.acted (Inv.ite h2.modNewel.acted h2.modNewel.modNewel.logEvent.acted)))
theorem inv_execAttest (h : Inv s) : InvNext (execAttest s) :=
  h.command (fun _ h1 => Inv.ite h1.acted (h1.withArg (fun _ _ h2 => h2.nextFree.acted)))
theorem inv_execErrcnt (h : Inv s) : InvNext (execErrcnt s) := h.command (fun _ h1 => h1.acted)
theorem inv_execUnretire (h : Inv s) : InvNext (execUnretire s) :=
  h.command (fun _ h1 => h1.withArg (fun _ _ h2 => by
      split
      · exact h2.modNewel.acted
      · exact h2.acted))
theorem Inv.endCommand (h : Inv s) : Inv (s.endCommand) := (Inv.ite h.forgetAways.modHost.raiseVector h.forgetAways.modHost).modNewel
theorem inv_execMailboxCompletion (h : Inv s) : InvNext (execMailboxCompletion s) := by
  unfold execMailboxCompletion
  split
  · exact h.next
  · split
    · exact h.endCommand.next
    · split
      · exact h.endCommand.next
      · split
        · rename_i heq
          exact (Inv.of_eq heq h.newelWrites).next
        · split
          · rename_i heq _ _ heq1
            exact (Inv.of_eq heq1 ((Inv.of_eq heq h.newelWrites).awayAccess)).next
          · rename_i heq _ _ _ heq1
            exact ((Inv.of_eq heq1 ((Inv.of_eq heq h.newelWrites).awayAccess)).endCommand).next
theorem inv_newelAlerts (h : Inv s) : InvNext (newelAlerts s) := (Inv.foldl (fun _ _ h1 => Inv.ite h1.raiseVector h1) h.modNewel).next

/-! What Machine/Plane.lean defines -/

theorem inv_postAll {cls rs} (h : Inv s) : Inv (postAll cls rs s) := Inv.foldl (fun _ _ h1 => h1.pendW) h
theorem inv_planeLoad {sp op h data addr imm f} (hs : Inv s) : InvNext (planeLoad sp op h data addr imm f s) := by
  unfold planeLoad
  exact hs.entry fun _ h1 => inv_postAll h1.popPorts.writeDst
theorem inv_planeStore {sp op h data addr imm f} (hs : Inv s) : InvNext (planeStore sp op h data addr imm f s) := by
  unfold planeStore
  exact hs.entry (fun _ h1 => by
      extract_lets
      split
      · exact h1.popPorts
      · exact inv_postAll h1.popPorts.pendW)
theorem inv_planePrefixLoad {sp op h data addr imm k rne f} (hs : Inv s) : InvNext (planePrefixLoad sp op h data addr imm k rne f s) := by
  unfold planePrefixLoad
  exact hs.entry (fun _ h1 => by
      extract_lets
      split
      · exact Inv.ite ((inv_postAll h1.popPorts.writeDst).pendW) (inv_postAll h1.popPorts.writeDst)
      · exact Inv.ite ((inv_postAll h1.popPorts.writeDst).pendW) (inv_postAll h1.popPorts.writeDst))
theorem inv_planeBlockStore {sp h data addr imm k rne f} (hs : Inv s) : InvNext (planeBlockStore sp h data addr imm k rne f s) := by
  unfold planeBlockStore
  exact hs.entry (fun _ h1 => by
      extract_lets
      split
      · exact h1.popPorts
      · exact inv_postAll h1.popPorts.pendW)
theorem inv_planeUpdate {h data addr imm k rne faults srcs prep also} (halso : ∀ u, Inv u → Inv (also u)) (hs : Inv s) :
    InvNext (planeUpdate h data addr imm k rne faults srcs prep also s) := by
  unfold planeUpdate
  exact hs.entry (fun _ h2 => by
      extract_lets
      split
      · exact h2.popPorts
      · exact halso _ (inv_postAll (Inv.foldl (fun _ _ h3 => h3.pendAt) h2.popPorts)))
theorem inv_execPupdAdd {e data addr imm k rne} (h : Inv s) : InvNext (execPupdAdd e data addr imm k rne s) :=
  inv_planeUpdate (fun _ h1 => h1) h
theorem inv_execPupdAxpy {e data addr imm k rne} (h : Inv s) : InvNext (execPupdAxpy e data addr imm k rne s) :=
  inv_planeUpdate (fun _ h1 => h1) h
theorem inv_execPupdMom {e data addr imm k rne} (h : Inv s) : InvNext (execPupdMom e data addr imm k rne s) := by
  unfold execPupdMom
  extract_lets
  split
  · exact inv_planeUpdate (fun _ h1 => inv_postAll h1.pendW) h
  · exact inv_planeUpdate (fun _ h1 => h1) h
theorem Inv.setGsp {v} (h : Inv s) : Inv (s.setGsp v) := h.modGroup.modMe
theorem inv_execPushm {e data imm} (h : Inv s) : InvNext (execPushm e data imm s) := by
  unfold execPushm
  extract_lets
  split
  · exact h.entry (fun _ h1 => h1.setGsp.pendW)
  · exact h.entry (fun _ h1 => h1)
theorem inv_execPopm {e data imm} (h : Inv s) : InvNext (execPopm e data imm s) := by
  unfold execPopm
  extract_lets
  split
  · exact h.entry (fun _ h1 => (Inv.foldl (fun _ _ h2 => h2.pendW) h1).setGsp)
  · exact h.entry (fun _ h1 => h1)
theorem Inv.movePointer {x} (h : Inv s) : Inv (s.movePointer x) := h.pendAt
theorem inv_execCbadv {e data addr imm} (h : Inv s) : InvNext (execCbadv e data addr imm s) := by
  unfold execCbadv
  exact h.entry (fun _ h1 => Inv.foldl (fun _ _ h2 => h2.movePointer) h1.update)
theorem inv_seekPorts {data addr step} (h : Inv s) : InvNext (seekPorts data addr step s) :=
  h.entry (fun _ h1 => Inv.foldl (fun _ _ h2 => by
      split
      · exact h2.pendAt
      · exact h2) h1)

/-! What Machine/QSlot.lean defines -/

theorem inv_openBLoop {bl rt n last} (h : Inv s) : Inv (openBLoop bl rt n last s) := by
  unfold openBLoop
  extract_lets
  split
  · split
    · exact h.wantLine
    · split
      · exact h.raise
      · exact h.modMe.goto
  · exact h.modMe.goto
theorem inv_popCtq {k} (hk : ∀ y0 u, Inv u → Inv (k y0 u)) (h : Inv s) : Inv (popCtq k s) := by
  unfold popCtq
  split
  · exact h.holdFor
  · exact hk _ _ h.modMe
theorem inv_execBret (h : Inv s) : InvNext (execBret s) := by
  unfold execBret
  split
  · exact h.raise.next
  · exact h.modMe.goto.next
theorem inv_haltBroadcast (h : Inv s) : Inv (haltBroadcast s) := h.modMe
theorem Inv.bcastScalar {n v g} (h : Inv s) : Inv (s.bcastScalar n v g) := h.modMe
theorem Inv.setRots {gs f} (h : Inv s) : Inv (s.setRots gs f) := h.modMe
theorem inv_popTo {dst v} (h : Inv s) : Inv (popTo dst v s) := by
  unfold popTo
  split
  · exact h.modMe
  · exact h.modMe
  · exact h.modMe
  · exact h.setRots
  · exact Inv.foldl (fun _ _ h1 => h1.bcastScalar) h
  · exact h

/-! What Machine/IX.lean defines -/

/-- Every instruction but `ix`, which runs group table entries. -/
theorem inv_exec_of_ne_ix {i} (hix : ∀ index gm sp imm, i ≠ .ix index gm sp imm) (h : Inv s) : InvNext (exec i s) := by
  cases i with
  | emptyBundle => exact inv_execEmptyBundle h
  | emptyBroadcastBundle => exact (Inv.ite h.holdFor h.modMe).next
  | add => exact (inv_aluRR h).next
  | sub => exact (inv_aluRR h).next
  | and => exact (inv_aluRR h).next
  | or => exact (inv_aluRR h).next
  | xor => exact (inv_aluRR h).next
  | andn => exact (inv_aluRR h).next
  | min => exact (inv_aluRR h).next
  | max => exact (inv_aluRR h).next
  | minu => exact (inv_aluRR h).next
  | maxu => exact (inv_aluRR h).next
  | sll => exact (inv_aluRR h).next
  | srl => exact (inv_aluRR h).next
  | sra => exact (inv_aluRR h).next
  | rol => exact (inv_aluRR h).next
  | mul => exact (inv_aluRR h).next
  | mulh => exact (inv_aluRR h).next
  | mulhu => exact (inv_aluRR h).next
  | div => exact (inv_aluRR h).next
  | divu => exact (inv_aluRR h).next
  | rem => exact (inv_aluRR h).next
  | remu => exact (inv_aluRR h).next
  | cmpeq => exact (inv_cmpRR h).next
  | cmpne => exact (inv_cmpRR h).next
  | cmplt => exact (inv_cmpRR h).next
  | cmpltu => exact (inv_cmpRR h).next
  | cmple => exact (inv_cmpRR h).next
  | cmpleu => exact (inv_cmpRR h).next
  | sel => exact (inv_aluRR h).next
  | clz => exact (inv_aluR h).next
  | ctz => exact (inv_aluR h).next
  | popc => exact (inv_aluR h).next
  | sext => exact (inv_aluR h).next
  | zext => exact (inv_aluR h).next
  | addi => exact (inv_aluI h).next
  | andi => exact (inv_aluI h).next
  | ori => exact (inv_aluI h).next
  | xori => exact (inv_aluI h).next
  | slli => exact (inv_aluI h).next
  | srli => exact (inv_aluI h).next
  | srai => exact (inv_aluI h).next
  | cmpi => exact (Inv.ite h.wp h).next
  | lui => exact h.wg.next
  | addpc => exact h.wg.next
  | faddS => exact (inv_fpScalar h).next
  | fsubS => exact (inv_fpScalar h).next
  | fmulS => exact (inv_fpScalar h).next
  | fminS => exact (inv_fpScalar h).next
  | fmaxS => exact (inv_fpScalar h).next
  | fcvtS => exact (Inv.ite (inv_scalarRecords h.wg) h).next
  | fcmpS => exact (Inv.ite h.wp h).next
  | plog => exact (Inv.ite h.wp h).next
  | ldb => exact inv_gLoad h
  | ldbu => exact inv_gLoad h
  | ldh => exact inv_gLoad h
  | ldhu => exact inv_gLoad h
  | ldw => exact inv_gLoad h
  | ldwu => exact inv_gLoad h
  | ldd => exact inv_gLoad h
  | stb => exact inv_gStore h
  | sth => exact inv_gStore h
  | stw => exact inv_gStore h
  | std => exact inv_gStore h
  | pfg => exact (Inv.ite (Inv.ite h (inv_whenFree (fun _ h1 => h1.sendNow) h)) h).next
  | drain => exact inv_execDrain h
  | purgeDc => exact inv_purgeAt (fun _ _ h1 => Inv.ite h1.askFor (Inv.ite h1.holdFor h1.modHall)) h
  | purgeIc => exact inv_purgeAt (fun _ _ h1 => h1.update) h
  | purgeTlb => exact inv_execPurgeTlb h
  | aadd => exact inv_gAtomic h
  | aand => exact inv_gAtomic h
  | aor => exact inv_gAtomic h
  | axor => exact inv_gAtomic h
  | amin => exact inv_gAtomic h
  | amax => exact inv_gAtomic h
  | aminu => exact inv_gAtomic h
  | amaxu => exact inv_gAtomic h
  | axchg => exact inv_gAtomic h
  | acas => exact inv_gAtomic h
  | afadd => exact inv_gAtomic h
  | radd => exact inv_gReduce h
  | rmax => exact inv_gReduce h
  | rmin => exact inv_gReduce h
  | phinit => exact inv_gPhaser h
  | phreg => exact inv_gPhaser h
  | phdrop => exact inv_gPhaser h
  | pharr => exact inv_gPhaser h
  | phwait => exact inv_gPhaser h
  | pharw => exact inv_gPhaser h
  | phq => exact inv_gPhaser h
  | migr => exact (Inv.ite (Inv.ite h.raise (Inv.ite h.raise (Inv.ite h.raise (Inv.ite h.raise (Inv.ite h.raise (inv_awaitAnswer h)))))) h).next
  | lyb => exact inv_galLoad h
  | lyh => exact inv_galLoad h
  | lyw => exact inv_galLoad h
  | lyd => exact inv_galLoad h
  | syb => exact inv_galStore h
  | syh => exact inv_galStore h
  | syw => exact inv_galStore h
  | syd => exact inv_galStore h
  | sgw => exact inv_execSgw h
  | twrite => exact inv_execTwrite h
  | tclr => exact (Inv.ite h.tableOp h).next
  | qcfg => exact inv_execQcfg h
  | qcfgStk => exact (Inv.ite (inv_withDescriptor (fun _ _ h1 => Inv.ite h1.raise (Inv.ite h1.raise (Inv.ite (Inv.foldl
      (fun _ _ h2 => h2.modGroup.modMe) h1) h1.raise))) h) h).next
  | cbcfg => exact inv_execCbcfg h
  | mxtab => exact (Inv.ite (inv_withDescriptor (fun _ _ h1 => Inv.ite (Inv.foldl (fun _ _ h2 => h2.setNest) h1) h1.raise) h) h).next
  | br => exact (Inv.ite h.goto h).next
  | call => exact (Inv.ite h.goto.wg h).next
  | jr => exact (Inv.ite (inv_jumpTo (fun _ h1 => h1) h) h).next
  | jalr => exact (Inv.ite (inv_jumpTo (fun _ h1 => h1.wg) h) h).next
  | loop => exact inv_execLoop h
  | lpstep => exact (Inv.ite (Inv.ite h.raise h.modMe) h).next
  | waitk => exact (Inv.ite (inv_waitTokens h) h).next
  | waitkMask => exact (Inv.ite (inv_waitTokens h) h).next
  | waitf => exact (Inv.ite (inv_waitFlags h) h).next
  | waitfMask => exact (Inv.ite (inv_waitFlags h) h).next
  | setf => exact (Inv.ite (inv_changeFlags h) h).next
  | setfMask => exact (Inv.ite (inv_changeFlags h) h).next
  | clrf => exact (Inv.ite (inv_changeFlags h) h).next
  | clrfMask => exact (Inv.ite (inv_changeFlags h) h).next
  | bstart => exact (Inv.ite (Inv.ite h (Inv.ite (Inv.ite h.raise h.modMe) (Inv.ite h.raise h.modMe))) h).next
  | bstop => exact (Inv.ite h.modMe h).next
  | pushq => exact (Inv.ite (Inv.ite h.holdFor h.modMe) h).next
  | popq => exact inv_execPopq h
  | mfsr => exact inv_execMfsr h
  | mtsr => exact inv_execMtsr h
  | trap => exact (Inv.ite h.raise h).next
  | eret => exact (Inv.ite (Inv.ite h.raise (Inv.ite ((((Inv.ite h.replayKept h.modMe).modMe).goto).modMe)
      (((Inv.ite h.replayKept h.modMe).modMe).goto))) h).next
  | brk => exact (Inv.ite h.raise h).next
  | stqrd => exact inv_execStqrd h
  | flbar => exact inv_execFlbar h
  | flend => exact (Inv.ite ((Inv.ite h.leavePhase h).wg) h).next
  | mxcfg => exact (Inv.ite (Inv.ite (Inv.foldl (fun _ _ h1 => h1.setNest) h) h.raise) h).next
  | mxlds => exact (Inv.ite (Inv.ite h.raise (Inv.ite h.raise (Inv.ite h.raise (Inv.ite h (Inv.ite (Inv.ite h.holdFor h.addCommand.modMe)
      (Inv.ite h.holdFor (Inv.foldl (fun _ _ h1 => h1.startLoad) h.addCommand))))))) h).next
  | mxswap => exact (Inv.ite (Inv.foldl (fun _ _ h1 => h1.modTile.modMe) h) h).next
  | mxgo => exact inv_execMxgo h
  | mxmode => exact (Inv.ite (Inv.foldl (fun _ _ h1 => h1.setNest) h) h).next
  | mxrd => exact inv_execMxrd h
  | mxstop => exact (Inv.ite (Inv.foldl (fun _ _ h1 => h1.modTile) h) h).next
  | tmov => exact (Inv.ite (inv_setPort h) h).next
  | tmovPort => exact inv_execTmovPort h
  | cvtSplit => exact (inv_trigger h).next
  | cvtJoin => exact (inv_trigger h).next
  | cmpPack => exact (inv_trigger h).next
  | xposeW32 => exact (inv_trigger h).next
  | xposeW16 => exact (inv_trigger h).next
  | layoutIm2col => exact (inv_trigger h).next
  | tcfg => exact inv_execTcfg h
  | tcfgPinned => exact inv_execTcfgPinned h
  | tstat => exact (Inv.ite h.wg h).next
  | cp => exact (inv_copyInstr h).next
  | cpt => exact (inv_copyInstr h).next
  | cptab => exact (inv_copyInstr h).next
  | cpcfg => exact (Inv.ite (inv_withDescriptor (fun _ _ h1 => Inv.ite h1.modMe h1.raise) h) h).next
  | cpstat => exact (Inv.ite h.wg h).next
  | cpcan => exact inv_execCpcan h
  | xmit => exact (Inv.ite (inv_vectorAddr (fun _ _ h1 => h1.sendVector) h) h).next
  | xsel => exact (Inv.ite (inv_vectorAddr (fun _ _ h1 => h1.take (fun _ _ h2 => h2.later)) h) h).next
  | xfwd => exact (Inv.ite (Inv.ite h.raiseFlight (h.take (fun _ _ h1 => h1.sendVector))) h).next
  | xidle => exact (Inv.ite h.update h).next
  | spawn => exact inv_execSpawn h
  | spawnr => exact inv_execSpawnr h
  | vdecl => exact inv_execVdecl h
  | vdrop => exact (Inv.ite (Inv.ite h.raise (Inv.ite h (Inv.ite h.holdFor h.modMe))) h).next
  | join => exact (Inv.ite (Inv.ite h.raise (Inv.ite h (Inv.ite h.askFor (Inv.ite h.modTask.update h.holdFor)))) h).next
  | endt => exact inv_execEndt h
  | rnext => exact inv_execRnext h
  | tinfoSelf => exact (Inv.ite h.wg h).next
  | tinfoState => exact inv_execTinfoState h
  | tinfoQueue => exact (Inv.ite h.readEngine h).next
  | tinfoMerge => exact (Inv.ite h.wg h).next
  | ix => exact absurd rfl (hix _ _ _ _)
  | bloop => exact (inv_openBLoop h).next
  | bloopCtq => exact (inv_popCtq (fun _ _ h1 => inv_openBLoop h1) h).next
  | bbr => exact (Inv.ite h.goto h).next
  | bsetf => exact h.flagAt.next
  | bclrf => exact h.flagAt.next
  | bwaitf => exact (Inv.ite h h.holdFor).next
  | bpopq => exact (inv_popCtq (fun _ _ h1 => inv_popTo h1) h).next
  | bpushq => exact (Inv.ite h.holdFor h.modMe).next
  | bsetsp => exact h.modMe.next
  | brot => exact h.setRots.next
  | brotA => exact h.setRots.next
  | flip => exact (Inv.ite h.raise (Inv.ite h.holdFor (Inv.ite h.raise h.modMe.update))).next
  | bhalt => exact (inv_haltBroadcast h).next
  | bhaltFlag => exact (inv_haltBroadcast h.flagAt).next
  | bcall => exact (Inv.ite (Inv.ite h.raise h.modMe.goto) h).next
  | bret => exact inv_execBret h
  | nop => exact h.next
  | fadd => exact inv_elementwise h
  | fsub => exact inv_elementwise h
  | fmul => exact inv_elementwise h
  | fma => exact inv_elementwise h
  | fms => exact inv_elementwise h
  | fnma => exact inv_elementwise h
  | fmin => exact inv_elementwise h
  | fmax => exact inv_elementwise h
  | fabs => exact inv_elementwise h
  | fneg => exact inv_elementwise h
  | frcp => exact inv_elementwise h
  | frsq => exact inv_elementwise h
  | fsqrt => exact inv_elementwise h
  | fexp2 => exact inv_elementwise h
  | flog2 => exact inv_elementwise h
  | fsig => exact inv_elementwise h
  | fcmp => exact inv_execFcmp h
  | fround => exact inv_execFround h
  | fcvt => exact inv_execFcvt h
  | scacc => exact inv_execScacc h
  | qnt => exact inv_elementwise h
  | fsum => exact inv_execFsum h
  | fmaxr => exact inv_execFmaxr h
  | fscan => exact inv_execFscan h
  | iadd => exact inv_execIadd h
  | isub => exact inv_execIsub h
  | imul => exact inv_execImul h
  | imad => exact inv_execImad h
  | imin => exact inv_execImin h
  | imax => exact inv_elementwise h
  | iminu => exact inv_elementwise h
  | imaxu => exact inv_elementwise h
  | iabs => exact inv_execIabs h
  | vecSll => exact inv_execVecSll h
  | vecSrl => exact inv_elementwise h
  | vecSra => exact inv_elementwise h
  | vecAnd => exact inv_elementwise h
  | vecOr => exact inv_elementwise h
  | vecXor => exact inv_elementwise h
  | vecAndn => exact inv_elementwise h
  | not => exact inv_elementwise h
  | vecPopc => exact inv_elementwise h
  | vecClz => exact inv_elementwise h
  | icmp => exact inv_execIcmp h
  | dot8 => exact inv_execDot8 h
  | isum => exact inv_execIsum h
  | iscan => exact inv_execIscan h
  | mov => exact inv_execMov h
  | vsel => exact inv_execVsel h
  | perm => exact inv_execPerm h
  | bcast => exact inv_execBcast h
  | vpand => exact inv_execVpand h
  | vpor => exact inv_vpBoth h
  | vpxor => exact inv_vpBoth h
  | vpnot => exact inv_execVpnot h
  | vpcount => exact inv_execVpcount h
  | tos => exact inv_execTos h
  | ldW => exact inv_planeLoad h
  | ldA => exact inv_planeLoad h
  | ldC => exact inv_planeLoad h
  | ldY => exact inv_planeLoad h
  | stW => exact inv_planeStore h
  | stA => exact inv_planeStore h
  | stC => exact inv_planeStore h
  | stY => exact inv_planeStore h
  | pldW => exact inv_planePrefixLoad h
  | pldA => exact inv_planePrefixLoad h
  | pldY => exact inv_planePrefixLoad h
  | pstW => exact inv_planeBlockStore h
  | pstA => exact inv_planeBlockStore h
  | pstY => exact inv_planeBlockStore h
  | pupdAdd => exact inv_execPupdAdd h
  | pupdAxpy => exact inv_execPupdAxpy h
  | pupdMom => exact inv_execPupdMom h
  | pushm => exact inv_execPushm h
  | popm => exact inv_execPopm h
  | cbadv e => exact inv_execCbadv (e := e) h
  | qrst => exact inv_seekPorts h
  | qadv => exact inv_seekPorts h
  | mxgoG e => exact inv_execMxgoG (e := e) h
  | mxldsG => exact (Inv.ite h.raise (Inv.ite h.raise (Inv.ite h.raise (Inv.ite h.raise h.entryCommand.startLoad)))).next
  | mxqG => exact inv_execMxqG h
  | entryWriteback => exact inv_execEntryWriteback h
  | npfLineWrite => exact h.modBody.next
  | landing => exact h.landing.next
  | engineFaultReport => exact h.modBody.next
  | stopRequest => exact inv_execStopRequest h
  | coreStop => exact inv_execCoreStop h
  | uncorrectableError => exact h.uncorrectable.next
  | coreRetire => exact inv_execCoreRetire h
  | flagRelease => exact h.modBody.next
  | portFetch => exact h.modBody.next
  | cbStage => exact h.modBody.next
  | planeRetry => exact h.modBody.next
  | matrixPass => exact h.modBody.next
  | comparePass => exact h.modBody.next
  | passAccWrite => exact h.modBody.next
  | levelBoundary => exact h.modBody.next
  | shadowLoadDone => exact h.modBody.next
  | tokenIdle => exact h.modBody.next
  | copyRowMove => exact h.moveRow.next
  | cptTileRetry => exact inv_execCptTileRetry h
  | cptabEntryWrite => exact inv_execCptabEntryWrite h
  | ringAdvance => exact h.modBody.next
  | copyComplete => exact h.copyComplete.next
  | copyFault => exact h.copyFault.next
  | transformComplete => exact inv_execTransformComplete h
  | transformFault => exact h.transformFault.next
  | atomicPerform => exact inv_execAtomicPerform h
  | reductionPerform => exact inv_execReductionPerform h
  | phaserPerform => exact inv_execPhaserPerform h
  | copyArrival => exact inv_execCopyArrival h
  | phaserPoll => exact inv_execPhaserPoll h
  | acknowledgementArrival => exact inv_execAcknowledgementArrival h
  | answerReturn => exact inv_execAnswerReturn h
  | rangeTake => exact inv_execRangeTake h
  | mergePush => exact inv_execMergePush h
  | mergeTileRetry => exact inv_execMergeTileRetry h
  | mergeTranslationFault => exact inv_execMergeTranslationFault h
  | teamEnd => exact inv_execTeamEnd h
  | flightBarrierComplete => exact inv_execFlightBarrierComplete h
  | flightPhaseStart => exact inv_execFlightPhaseStart h
  | vectorArrival => exact (Inv.ite h h.loseVectors).next
  | flightBreakSignal => exact inv_execFlightBreakSignal h
  | tailRegisterWrite => exact inv_execTailRegisterWrite h
  | launch => exact (h.processHead (fun _ _ h1 => InvServed.ite h1.launchEntry h1.reject)).next
  | wait => exact (h.processHead (fun _ _ h1 => InvServed.ite h1.reject (h1.withWord (fun _ _ h2 => h2.advance)))).next
  | waitRetest => exact (Inv.ite h.examine h).next
  | signal => exact (h.processHead (fun _ _ h1 => InvServed.ite h1.reject (h1.writeWord (fun _ h2 => h2.advance)))).next
  | cond => exact (h.processHead (fun _ _ h1 => h1.privileged (h1.withWord (fun _ _ h2 => h2.jump)))).next
  | loopNode => exact (h.processHead (fun _ _ h1 => h1.privileged (h1.decrementWord (fun _ _ h2 => InvServed.ite h2.advance (h2.moveHead
      (fun _ h3 => h3.done)))))).next
  | switch => exact (h.processHead (fun _ _ h1 => h1.privileged (h1.withWord (fun _ _ h2 => h2.jump)))).next
  | load => exact (h.processHead (fun _ _ h1 => InvServed.ite h1.reject (h1.loadEntry (fun _ h2 => h2.advance)))).next
  | teamPlace => exact inv_execTeamPlace h
  | quantumExpiry => exact inv_execQuantumExpiry h
  | teamSave => exact inv_execTeamSave h
  | jobComplete => exact inv_execJobComplete h
  | teamFault => exact inv_execTeamFault h
  | ageing => exact (Inv.ite h.modUsher h).next
  | usherConfigCommit => exact inv_execUsherConfigCommit h
  | fabricConfigCommit => exact inv_execFabricConfigCommit h
  | registerWrite => exact InvNext.ite h.reply.next (InvNext.ite (InvNext.ite h.next (inv_execTailRegisterWrite h)) h.registerEffect)
  | moduleReset => exact inv_execModuleReset h
  | windowRead => exact inv_execWindowRead h
  | windowWrite => exact inv_execWindowWrite h
  | sensors => exact h.command (fun _ h1 => h1.acted)
  | log => exact inv_execLog h
  | cap => exact inv_execCap h
  | update => exact inv_execUpdate h
  | attest => exact inv_execAttest h
  | errcnt => exact inv_execErrcnt h
  | unretire => exact inv_execUnretire h
  | mailboxCompletion => exact inv_execMailboxCompletion h
  | hostReadTimeout => exact inv_execHostReadTimeout h
  | peerRequest => exact inv_execPeerRequest h
  | flitRetry => exact inv_execFlitRetry h
  | sensorRefresh => exact h.update.next
  | powerBudgetCheck => exact (Inv.ite h.logEvent.moduleReset (Inv.ite (Inv.foldl (fun _ _ h1 => h1.stopTeam)
      ((Inv.ite h.logEvent h).modNewel)) ((Inv.ite h.logEvent h).modNewel))).next
  | coolantLoss => exact h.logEvent.moduleReset.next
  | eccSummary => exact ((Inv.foldl (fun _ _ h1 => h1.logEvent) h).modNewel).next
  | lineFill => exact inv_execLineFill h
  | pageWalk => exact inv_execPageWalk h
  | packetArrival => exact inv_execPacketArrival h
  | regionalCount => exact (Inv.ite h.update h).next
  | escape => exact inv_execEscape h
  | routerSleep => exact (Inv.ite h.update h).next
  | routerWake => exact inv_execRouterWake h
  | trafficPeriod => exact (Inv.ite h.update h).next
  | hotLineRecompress => exact h.update.next
  | illegalBundle => exact inv_execIllegalBundle h
  | reservedOpcode => exact inv_execReservedOpcode h
  | fetchFault => exact inv_execFetchFault h
  | bankPortRequest => exact inv_execBankPortRequest h
  | hostCompletion => exact inv_execHostCompletion h
  | peerResponse => exact inv_execPeerResponse h
  | linkUp => exact h.modHost.next
  | powerLoss => exact h.update.next
  | flipatReached => exact inv_execFlipatReached h
  | badCommand => exact (Inv.ite h.acted h).next
theorem inv_runEntry {e} (h : Inv s) : InvNext (runEntry e s) := by
  rw [runEntry_eq_exec]
  exact inv_exec_of_ne_ix (by cases e <;> exact fun _ _ _ _ => Instr.noConfusion) h
theorem Inv.enterGroup {g imm rot} (h : Inv s) : Inv (s.enterGroup g imm rot) := h.update
theorem inv_runGroup {index imm g} (h : Inv s) : InvNext (runGroup index imm g s) := by
  unfold runGroup
  extract_lets
  split
  · exact inv_runEntry h.enterGroup
  · exact h.enterGroup.raise.next
theorem inv_runAll {α : Type} {f : α → State → Result} {xs : List α} (hf : ∀ x u, Inv u → InvNext (f x u)) (h : Inv s) :
    InvNext (runAll f xs s) := by
  induction xs generalizing s with
  | nil => exact h.next
  | cons x xs ih =>
    unfold runAll
    split
    · rename_i heq
      exact ih (hf _ _ h heq)
    · exact hf _ _ h
theorem inv_deferSecond {index imm gs} {s' : State} (hs : Inv s) (_ : Inv s') : Inv (deferSecond index imm gs s s') := hs.update.modMe
theorem inv_execIx {index gm sp imm} (h : Inv s) : InvNext (execIx index gm sp imm s) := by
  unfold execIx
  extract_lets
  split
  · rename_i heq
    exact (Inv.ite (inv_deferSecond h (inv_runAll (fun _ _ h1 => inv_runGroup h1) h heq)) (inv_runAll (fun _ _ h1 => inv_runGroup h1) h heq)).next
  · exact inv_runAll (fun _ _ h1 => inv_runGroup h1) h
theorem inv_runSecond {x} (h : Inv s) : InvNext (runSecond x s) := by
  unfold runSecond
  extract_lets
  split
  · exact inv_runEntry h.enterGroup
  · exact h.enterGroup.next

/-! What Machine/Dispatch.lean defines -/

theorem inv_exec {i} (h : Inv s) : InvNext (exec i s) := by
  by_cases hix : ∃ index gm sp imm, i = .ix index gm sp imm
  · obtain ⟨index, gm, sp, imm, rfl⟩ := hix
    exact inv_execIx h
  · exact inv_exec_of_ne_ix (fun index gm sp imm e => hix ⟨index, gm, sp, imm, e⟩) h

/-! What Machine/Issue.lean defines -/

theorem Inv.needLine {c bcast a} (h : Inv s) : InvNext (s.needLine c bcast a) := by
  unfold State.needLine
  extract_lets
  split
  · exact inv_execFetchFault h.modBody
  · exact InvNext.ite h.next h.newRequest.sendReady.next
theorem Inv.tick {c} (h : Inv s) : Inv (s.tick c) := Inv.ite h.modBody h
theorem Inv.setState {c x} (h : Inv s) : Inv (s.setState c x) := h.modTask
theorem Inv.trapHere {c t hdr tret} (h : Inv s) : Inv (s.trapHere c t hdr tret) := (((Inv.ite h.modBody h).setState).trapCore).tick
theorem Inv.faultHere {c f} (h : Inv s) : Inv (s.faultHere c f) := h.setState.deliverParked.tick
theorem Inv.deliverHere {c k} (h : Inv s) (hk : ∀ u, Inv u → Inv (k u)) : Inv (s.deliverHere c k) := by
  unfold State.deliverHere
  split
  · exact (h.setState.deliverDue (fun _ h2 => h2)).tick
  · exact hk _ h.modBody
theorem Inv.atPort {c} (h : Inv s) : Inv (s.atPort c) := h.loseVectors
theorem Inv.slip {c reason port} (h : Inv s) : Inv (s.slip c reason port) := h.atPort.breakPhase.trapHere
theorem Inv.clearPorts {c} (h : Inv s) : Inv (s.clearPorts c) := h.update
theorem Inv.stalled {c} (h : Inv s) : Inv (s.stalled c) := Inv.ite h.slip h.setState.tick
theorem Inv.heldBack {c} (h : Inv s) : Inv (s.heldBack c) := Inv.ite (Inv.ite h.halt h) h.stalled
theorem Inv.finish {c hdr landing} (h : Inv s) : Inv (s.finish c hdr landing) :=
  Inv.ite ((Inv.ite h.forget.modBody.checkpoint h.forget.modBody).landing) (Inv.ite h.forget.modBody.checkpoint h.forget.modBody)
theorem Inv.retire {c x} (h : Inv s) : Inv (s.retire c x) :=
  Inv.ite (Inv.ite h.setState.modBody.finish.modBody
      (Inv.ite h.setState.modBody.finish h.setState.modBody.tick.finish)) h.setState.modBody.modBody.tick
theorem Inv.settleBusy {c y} (h : Inv s) : InvSome (s.settleBusy c y) := by
  unfold State.settleBusy
  extract_lets
  split
  · split
    · exact h.modBody.finish.ofSome
    · exact h.finish.modBody.trapCore.ofSome
  · exact InvSome.ofNone
theorem Inv.stand {c h} (hs : Inv s) : Inv (s.stand c h) := by
  dsimp only [State.stand]
  split
  · exact hs.modBody.stalled
  · exact Inv.ite hs.modBody.slip (Inv.ite hs.modBody.setState.halt hs.modBody.setState)
theorem Inv.askRequest {r} (h : Inv s) : Inv (s.askRequest r) := by
  unfold State.askRequest
  split
  · exact h.sendNow
  · exact h.sendNow
  · exact h.launch
theorem Inv.keepIssued {c} (h : Inv s) : Inv (s.keepIssued c) := h.update
theorem Inv.reserve {t : State} {c} (hs : Inv s) (_ : Inv t) : Inv (s.reserve t c) := Inv.ite hs.modBody.update hs.modBody
theorem Inv.note {c x h f} (hs : Inv s) : Inv (s.note c x h f) := hs.modBody
theorem Inv.awaitLine {c a} (h : Inv s) : InvNext (s.awaitLine c a) := by
  unfold State.awaitLine
  extract_lets
  split
  · rename_i heq
    exact (Inv.ite ((h.needLine heq).stalled) ((h.needLine heq).tick)).next
  · exact h.needLine
theorem Inv.ask {t : State} {c x h a} (hs : Inv s) (ht : Inv t) : InvNext (s.ask t c x h a) := by
  unfold State.ask
  extract_lets
  split
  · exact hs.awaitLine
  · exact hs.update.awaitLine
  · split
    · rename_i heq
      exact ((Inv.of_eq heq hs.endInterval).deliverHere (fun _ h2 => h2.stalled)).next
    · rename_i heq
      exact (Inv.of_eq heq hs.endInterval).next
  · split
    · rename_i heq
      exact (((((Inv.of_eq heq hs.endInterval).keepIssued).note).update).stand).next
    · rename_i heq
      exact (Inv.of_eq heq hs.endInterval).next
  · exact ((hs.keepIssued.askRequest.note.reserve ht).stand).next
  · exact hs.modTask.note.stand.next
  · exact hs.beginMerge.modBody.stand.next
  · exact hs.update.modTask.note.stand.next
theorem Inv.slotTrap {c x t} (h : Inv s) : Inv (s.slotTrap c x t) := (Inv.ite ((Inv.ite h.modTask h).atPort) (Inv.ite h.modTask h)).trapHere
theorem Inv.trapOverdue {c hdr} (h : Inv s) : Inv (s.trapOverdue c hdr) := (Inv.ite h.atPort h).trapHere
theorem Inv.slipOr {t : State} {c x} (hs : Inv s) (_ : Inv t) : Inv (s.slipOr t c x) := by
  unfold State.slipOr
  split
  · exact hs.slotTrap
  · split
    · exact hs.trapOverdue
    · split
      · exact hs.slotTrap
      · exact hs.slip
theorem Inv.retireDue {t : State} {c x} (hs : Inv s) (ht : Inv t) : Inv (s.retireDue t c x) := by
  unfold State.retireDue
  split
  · exact hs.slip
  · exact ht.clearPorts.retire
theorem Inv.conclude {t : State} {c x} (hs : Inv s) (ht : Inv t) : InvNext (s.conclude t c x) := by
  unfold State.conclude
  extract_lets
  split
  · split
    · exact (hs.slipOr ht).next
    · split
      · exact hs.ask ht
      · exact (Inv.ite hs.trapOverdue hs.stand).next
  · split
    · exact hs.slotTrap.next
    · split
      · exact hs.trapOverdue.next
      · split
        · exact hs.slotTrap.next
        · exact InvNext.ite hs.slip.next (hs.ask ht)
        · exact (Inv.ite (hs.retireDue ht) ht.retire).next
theorem inv_runSlots {is} (h : Inv s) : InvNext (runSlots is s) := inv_runAll (fun _ _ h1 => inv_exec h1.update) h
theorem Inv.openFold {x} (h : Inv s) : InvNext (s.openFold x) := inv_execEmptyBundle h
theorem Inv.foldStep {c} (h : Inv s) : Inv (s.foldStep c) := by
  unfold State.foldStep
  extract_lets
  split
  · exact h.slip
  · exact Inv.ite h.modBody.tick h.modBody.update.retire
theorem Inv.issueBracketed {c x is} (h : Inv s) : InvNext (s.issueBracketed c x is) := by
  unfold State.issueBracketed
  extract_lets
  split
  · split
    · split
      · rename_i heq
        exact (Inv.of_eq heq h.endInterval).next
      · extract_lets
        split
        · rename_i heq _ _ _ _ heq1
          exact (((Inv.of_eq heq h.endInterval).modBody).update).conclude (inv_runSlots (((Inv.of_eq heq h.endInterval).modBody).update) heq1)
        · rename_i heq _ _ _ _
          exact inv_runSlots (((Inv.of_eq heq h.endInterval).modBody).update)
    · rename_i heq _
      exact h.conclude (inv_runSlots h heq)
  · exact inv_runSlots h
  · exact inv_runSlots h
theorem Inv.enterBundle {c x} (h : Inv s) : Inv (s.enterBundle c x) := by
  unfold State.enterBundle
  extract_lets
  split
  · split
    · exact h.keepIssued.update
    · exact h.keepIssued
  · exact h
theorem Inv.issueBundle {c x} (h : Inv s) : InvNext (s.issueBundle c x) := by
  unfold State.issueBundle
  extract_lets
  split
  · exact h.update.enterBundle.faultHere.next
  · split
    · split
      · split
        · rename_i heq
          exact (h.update.enterBundle.slipOr (inv_runSlots h.update.enterBundle heq)).next
        · exact inv_runSlots h.update.enterBundle
      · exact h.update.enterBundle.stalled.next
    · split
      · exact InvNext.ite h.update.enterBundle.trapOverdue.next h.update.enterBundle.modMe.foldStep.next
      · split
        · exact h.update.enterBundle.issueBracketed
        · split
          · rename_i heq
            exact h.update.enterBundle.conclude (inv_runSlots h.update.enterBundle heq)
          · exact inv_runSlots h.update.enterBundle
theorem Inv.attempt {c} (h : Inv s) : InvNext (s.attempt c) := by
  unfold State.attempt
  extract_lets
  split
  · exact InvNext.ite h.slip.next h.awaitLine
  · exact ((((Inv.ite h.atPort h).streamTrap).setState).tick).next
  · split
    · exact ((Inv.ite h.atPort h).trapHere).next
    · split
      · exact ((((Inv.ite h.atPort h).streamTrap).setState).tick).next
      · exact ((Inv.ite h.atPort h).trapHere).next
      · exact InvNext.ite (((Inv.ite h.atPort h).trapHere).next) h.issueBundle
theorem Inv.takesBroadcast {c} (h : Inv s) : InvSome (s.takesBroadcast c) := by
  unfold State.takesBroadcast
  extract_lets
  split
  · exact InvSome.ofNone
  · split
    · exact (((((Inv.ite h.atPort h).modBody).setState).trapCore).tick).ofSome
    · split
      · exact (((((Inv.ite h.atPort h).modBody).setState).deliverParked).tick).ofSome
      · exact InvSome.ofNone
    · exact InvSome.ofNone
theorem Inv.tidy {c} (h : Inv s) : Inv (s.tidy c) := h.sendReady.dropFinished.bunbracket
theorem Inv.proceed {c} (h : Inv s) : InvNext (s.proceed c) := by
  unfold State.proceed
  split
  · exact h.next
  · split
    · exact h.heldBack.next
    · split
      · exact h.foldStep.next
      · split
        · rename_i heq
          exact (h.takesBroadcast heq).next
        · exact h.attempt
theorem Inv.recount {c n} (h : Inv s) : Inv (s.recount c n) := h.modBody
theorem Inv.answerTurn {c} (h : Inv s) : InvNext (s.answerTurn c) := by
  unfold State.answerTurn
  extract_lets
  split
  · split
    · rename_i heq
      exact ((h.attempt heq).recount).next
    · exact h.attempt
  · exact h.next
theorem Inv.controlTurn {c} (h : Inv s) : InvNext (s.controlTurn c) := by
  unfold State.controlTurn
  extract_lets
  split
  · exact h.tidy.next
  · split
    · exact h.tidy.proceed
    · split
      · exact h.tidy.stalled.next
      · rename_i heq
        exact (h.tidy.settleBusy heq).proceed
theorem inv_runBroadcast {is} (h : Inv s) : InvNext (runBroadcast is s) := inv_runAll (fun _ _ h1 => inv_exec h1.update) h
theorem Inv.postRetries {c} (h : Inv s) : Inv (s.postRetries c) := h.modBody
theorem Inv.bcastRetired {c} (h : Inv s) : Inv (s.bcastRetired c) := Inv.ite h.modBody.checkpoint h
theorem Inv.commitBroadcast {c x} (h : Inv s) : Inv (s.commitBroadcast c x) := h.postRetries.modBody.bcastRetired
theorem Inv.holdRewrite {c rs} (h : Inv s) : Inv (s.holdRewrite c rs) := by
  unfold State.holdRewrite
  extract_lets
  split
  · exact Inv.ite h.bcastTrap h.modBody
  · exact h
theorem Inv.concludeBroadcast {t : State} {c x} (hs : Inv s) (ht : Inv t) : Inv (s.concludeBroadcast t c x) := by
  unfold State.concludeBroadcast
  split
  · exact hs.holdRewrite
  · split
    · exact hs
    · exact hs.bcastTrap
    · exact ht.commitBroadcast
theorem Inv.waitMask {c m} (h : Inv s) : InvSome (s.waitMask c m) := by
  unfold State.waitMask
  extract_lets
  split
  · exact h.modBody.ofSome
  · split
    · split
      · split
        · rename_i heq
          exact ((Inv.of_eq heq h.endInterval).modBody).ofSome
        · rename_i heq
          exact (Inv.of_eq heq h.endInterval).ofSome
      · exact h.ofSome
    · exact InvSome.ofNone
theorem Inv.runBundle {c x is} (h : Inv s) : InvNext (s.runBundle c x is) := by
  unfold State.runBundle
  split
  · split
    · exact h.needLine
    · exact h.next
    · rename_i heq _ _ _
      exact (h.concludeBroadcast (inv_runBroadcast h heq)).next
  · exact inv_runBroadcast h
  · exact inv_runBroadcast h
theorem inv_enterBroadcast {b c x} (h : Inv s) : Inv (Body.enterBroadcast b s c x) := h.update
theorem Inv.attemptBroadcast {c b late} (h : Inv s) : InvNext (s.attemptBroadcast c b late) := by
  unfold State.attemptBroadcast
  extract_lets
  split
  · exact h.needLine
  · exact inv_execIllegalBundle h
  · extract_lets
    split
    · exact inv_execReservedOpcode h
    · exact h.bcastTrap.next
    · extract_lets
      split
      · exact (((inv_enterBroadcast h).update).bcastTrap).next
      · split
        · rename_i heq
          exact (InvSome.ite InvSome.ofNone (((inv_enterBroadcast h).update).waitMask) heq).next
        · exact InvNext.ite (inv_exec ((inv_enterBroadcast h).update)) (InvNext.ite ((((inv_enterBroadcast h).update).update).next)
            (((inv_enterBroadcast h).update).runBundle))
theorem Inv.bfoldTurn {c} (h : Inv s) : Inv (s.bfoldTurn c) := h.modBody.bcastRetired
theorem Inv.runDeferred {c b} (h : Inv s) : InvNext (s.runDeferred c b) := by
  unfold State.runDeferred
  extract_lets
  split
  · rename_i heq
    exact ((inv_runAll (fun _ _ h1 => inv_runSecond h1) h.modBody.update heq).modBody).next
  · exact inv_runAll (fun _ _ h1 => inv_runSecond h1) h.modBody.update
theorem Inv.lateTurn {c} (h : Inv s) : InvNext (s.lateTurn c) := by
  unfold State.lateTurn
  extract_lets
  split
  · exact h.next
  · extract_lets
    split
    · rename_i heq
      exact ((InvNext.ite h.update.runDeferred h.update.attemptBroadcast heq).modBody).next
    · exact InvNext.ite h.update.runDeferred h.update.attemptBroadcast
theorem Inv.flipAhead {c b} (h : Inv s) : Inv (s.flipAhead c b) := by
  unfold State.flipAhead
  extract_lets
  split
  · split
    · exact Inv.ite h.modBody h.update
    · exact h.update
  · exact h.update
theorem Inv.flipsLate {c b} (h : Inv s) : Inv (s.flipsLate c b) := by
  unfold State.flipsLate
  split
  · exact h
  · split
    · exact h.bcastTrap
    · exact h
theorem Inv.broadcastTurn {c} (h : Inv s) : InvNext (s.broadcastTurn c) := by
  unfold State.broadcastTurn
  extract_lets
  split
  · exact InvNext.ite h.flipsLate.next (InvNext.ite h.flipsLate.update.next h.flipsLate.runDeferred)
  · split
    · exact h.next
    · split
      · exact h.flipsLate.next
      · split
        · exact h.bfoldTurn.next
        · split
          · rename_i heq
            exact (Inv.ite ((h.attemptBroadcast heq).bfoldTurn) (Inv.ite ((h.attemptBroadcast heq).flipAhead) (h.attemptBroadcast heq))).next
          · exact h.attemptBroadcast

/-! What Machine/Events.lean defines -/

theorem inv_runEvent {e} (h : Inv s) : InvNext (runEvent e s) := by
  rw [runEvent_eq_exec]
  exact inv_exec h

/-! What Machine/Schedule.lean defines -/

theorem inv_runEvents {es} (h : Inv s) : InvNext (runEvents es s) := inv_runAll (fun _ _ h1 => inv_runEvent h1) h
theorem inv_stages {fs : List (State → Result)} (hfs : ∀ f ∈ fs, ∀ u, Inv u → InvNext (f u)) (h : Inv s) : InvNext (stages fs s) := by
  induction fs generalizing s with
  | nil => exact h.next
  | cons f fs ih =>
    unfold stages
    split
    · rename_i heq
      exact ih (fun g hg => hfs g (List.mem_cons_of_mem _ hg)) (hfs f (List.mem_cons_self ..) s h heq)
    · exact hfs f (List.mem_cons_self ..) s h
theorem inv_runInput {i} (h : Inv s) : InvNext (runInput i s) := by
  unfold runInput
  split
  · exact inv_runEvent h
  · exact inv_execRegisterRead h
  · exact inv_execFlitRetry h.modHost
theorem inv_hostQueue (h : Inv s) : InvNext (hostQueue s) := by
  unfold hostQueue
  split
  · exact h.next
  · split
    · rename_i heq
      exact ((inv_runInput h.modHost heq).modHost).next
    · exact inv_runInput h.modHost
theorem inv_dueInputs (h : Inv s) : InvNext (dueInputs s) := inv_runAll (fun _ _ h1 => inv_runInput h1) h
theorem inv_arrivalsTurn (h : Inv s) : InvNext (arrivalsTurn s) := by
  have hevents : ∀ {es : State → List Event}, ∀ u, Inv u → InvNext (runEvents es u) := fun _ => inv_runEvents
  refine inv_stages ?_ h
  simp only [List.forall_mem_cons]
  exact ⟨fun _ => inv_hostQueue, fun _ => inv_dueInputs, fun _ h1 => h1.update.next, hevents, hevents, hevents, hevents, hevents, hevents,
    fun _ => inv_newelAlerts, List.forall_mem_nil _⟩
theorem inv_enginesTurn (h : Inv s) : InvNext (enginesTurn s) := by
  have hevents : ∀ {es : State → List Event}, ∀ u, Inv u → InvNext (runEvents es u) := fun _ => inv_runEvents
  refine inv_stages ?_ h
  simp only [List.forall_mem_cons]
  exact ⟨hevents, hevents, hevents, hevents, hevents, hevents, hevents, List.forall_mem_nil _⟩
theorem inv_answerTurns (h : Inv s) : InvNext (answerTurns s) := inv_runAll (fun _ _ h1 => h1.answerTurn) h
theorem inv_usherDecision (h : Inv s) : InvNext (usherDecision s) := by
  unfold usherDecision
  split
  · exact h.next
  · split
    · split
      · exact inv_runEvent h
      · exact h.forgetAways.modUsher.next
    · extract_lets u
      have hu : Inv u := Inv.foldl (fun _ _ h1 => Inv.ite h1 h1.examine) h
      refine .ite hu.next ?_
      split
      · exact .ite hu.next (inv_runEvent hu.beginServing)
      · exact hu.nextFree.modUsher.next
theorem inv_usherAction (h : Inv s) : InvNext (usherAction s) := by
  unfold usherAction
  extract_lets
  split
  · exact h.next
  · split
    · exact h.next
    · exact inv_runEvent h.nextFree.modUsher
theorem inv_fabricTurn (h : Inv s) : InvNext (fabricTurn s) := by
  have hevents : ∀ {es : State → List Event}, ∀ u, Inv u → InvNext (runEvents es u) := fun _ => inv_runEvents
  refine inv_stages ?_ h
  simp only [List.forall_mem_cons]
  exact ⟨hevents, fun _ => inv_answerTurns, hevents, fun _ h1 => h1.hopTurn.next, hevents, hevents, hevents, hevents, hevents, hevents,
      hevents, hevents, hevents,
    hevents, hevents, hevents, hevents, hevents, fun _ => inv_usherDecision, fun _ => inv_usherAction, List.forall_mem_nil _⟩
theorem inv_nextCycle (h : Inv s) : InvNext (nextCycle s) := h.update.next
theorem inv_closeTurn (h : Inv s) : InvNext (closeTurn s) := by
  have hevents : ∀ {es : State → List Event}, ∀ u, Inv u → InvNext (runEvents es u) := fun _ => inv_runEvents
  refine inv_stages ?_ h
  simp only [List.forall_mem_cons]
  exact ⟨hevents, hevents, hevents, hevents, hevents, hevents, hevents, hevents, fun _ => inv_nextCycle, List.forall_mem_nil _⟩
theorem inv_turnStep {t} (h : Inv s) : InvNext (turnStep t s) := by
  unfold turnStep
  split
  · exact inv_arrivalsTurn h
  · exact h.broadcastTurn
  · exact inv_enginesTurn h
  · exact h.controlTurn
  · exact h.lateTurn
  · exact inv_fabricTurn h
  · exact inv_closeTurn h

/-! What Machine/Step.lean defines -/

theorem inv_step (h : Inv s) : InvNext (step s) := by
  unfold step
  split
  · split
    · rename_i heq
      exact ((inv_turnStep h heq).update).next
    · exact inv_turnStep h
  · exact InvNext.fault

/-- Settles O60: a step is one turn, and every turn keeps the invariant. -/
theorem stepKeepsInv : Obligations.StepKeepsInv := fun _ _ h hstep => inv_step h hstep

end Sys2Proof.Machine
end

section
/-!
Proofs for O25: ports, configuration and status words of the transform units; what steps of the fabric alone leave.
-/
namespace Sys2Proof.Machine

/-! Steps of the fabric alone -/

/-- Cores and memory are as before. -/
def State.CoresMem (s t : State) : Prop := t.cores = s.cores ∧ t.mem = s.mem

theorem State.CoresMem.refl (s : State) : s.CoresMem s := ⟨rfl, rfl⟩

theorem State.CoresMem.trans {s t u : State} (hst : s.CoresMem t) (htu : t.CoresMem u) : s.CoresMem u :=
  ⟨htu.1.trans hst.1, htu.2.trans hst.2⟩

theorem State.CoresMem.ite {s t u : State} {p : Prop} [Decidable p] (ht : s.CoresMem t) (hu : s.CoresMem u) :
    s.CoresMem (if p then t else u) := by
  split
  · exact ht
  · exact hu

theorem State.CoresMem.foldl {s : State} {α : Type} {f : State → α → State} (hf : ∀ u x, State.CoresMem u (f u x)) (xs : List α) :
    s.CoresMem (xs.foldl f s) := by
  induction xs generalizing s with
  | nil => exact .refl s
  | cons x xs ih => exact (hf s x).trans ih

theorem State.CoresMem.sameBytes {s t : State} (h : s.CoresMem t) : SameBytes s t :=
  sameBytes_of_bodies h.2 fun d => congrArg (fun v => v[d].b) h.1

theorem State.writeBack_coresMem (s : State) (h : HallLine) : s.CoresMem (s.writeBack h) := by
  rw [State.writeBack_frame]
  exact ⟨rfl, rfl⟩

theorem State.evict_coresMem (s : State) (h : HallLine) : s.CoresMem (s.evict h) := s.writeBack_coresMem h

theorem State.dropAliases_coresMem (s : State) (asn : BitVec 12) (line pline : Nat) : s.CoresMem (s.dropAliases asn line pline) :=
  State.CoresMem.foldl (fun u x => u.writeBack_coresMem x) _

theorem State.atriumRoom_coresMem (s : State) (d : Nat) : s.CoresMem (s.atriumRoom d) := by
  unfold State.atriumRoom
  refine .ite (.refl s) ?_
  dsimp only
  split
  · exact State.CoresMem.foldl (fun u x => u.writeBack_coresMem x) _
  · exact .refl s

theorem State.fillLine_coresMem (s : State) (asn : BitVec 12) (v : VA) (x : Trans) : s.CoresMem (s.fillLine asn v x) := by
  have hroom (u : State) : u.CoresMem (if u.atrium.any (·.pline == x.pa v / 128) then u else u.atriumRoom (stackDie (x.pa v / 128))) :=
    .ite (.refl u) (u.atriumRoom_coresMem _)
  have hway (u : State) : u.CoresMem (if u.wayFree asn (lineOf v) then u else
      match (u.evictable (lineOf v))[Config.victim u.fresh % (u.evictable (lineOf v)).length]? with
      | some h => { (u.evict h) with fresh := u.fresh + 1 }
      | none => u) := by
    refine .ite (.refl u) ?_
    split
    · next h _ => exact u.evict_coresMem h
    · exact .refl u
  exact ((s.dropAliases_coresMem asn (lineOf v) (x.pa v / 128)).trans (hroom _)).trans (hway _)

theorem State.memoryErrors_coresMem (s : State) (pline : Nat) : s.CoresMem (s.memoryErrors pline) :=
  .ite (.refl s) (.ite (.refl s) (.refl s))

theorem State.translate_coresMem (s : State) (asn : BitVec 12) (v : VA) : s.CoresMem (s.translate asn v).2 := by
  unfold State.translate
  dsimp only
  split
  · exact .refl s
  · split <;> exact .refl s

theorem State.pinRegion_coresMem (s : State) (asn : BitVec 12) (base len : Nat) : s.CoresMem (s.pinRegion asn base len) := by
  refine (State.CoresMem.foldl (fun u x => u.evict_coresMem x) _).trans (State.CoresMem.foldl (fun u i => ?_) _)
  refine .ite (.refl u) ?_
  have htranslate := u.translate_coresMem asn (BitVec.ofNat 56 (base + 128 * i))
  split
  · next t u' heq =>
    rw [heq] at htranslate
    refine .ite (htranslate.trans ?_) htranslate
    exact (u'.fillLine_coresMem _ _ _).trans (State.memoryErrors_coresMem _ _)
  · next heq => rwa [heq] at htranslate

/-! Ports, configuration and the status word (R335, R336, R339, R340, R344, R347) -/

theorem setPort_becomes (s : State) (u : Fin 4) (port : Fin 5) (v : BitVec 64) : SameBytes s (setPort u port v s) ∧ Becomes s (setPort u port v s)
    fun b => { b with transforms := Vec.modify b.transforms u fun k => { k with ports := k.ports.set port v } } :=
  State.modMe_becomes ⟨rfl, rfl, rfl, rfl⟩

theorem execTcfg_of_good {s : State} {q : Qual} {a : Reg} {e : Fin 8} {k : Option CBuf} (hacts : s.acts q = true)
    (haligned : (s.rg a).toNat % 64 = 0) (hinside : (s.rg a).toNat ≤ 0x1FFFC0) (hk : cbufOf (s.descriptor a) = some k)
    (hold : s.rangeBusy ((s.pre.cbufs[e]).map CBuf.range) = false) (hnew : s.rangeBusy (k.map CBuf.range) = false)
    (hclash : ∀ j y, j ≠ e → s.pre.cbufs[j] = some y → ∀ x, k = some x → x.range.overlaps y.range = false) :
    execTcfg q a e s = .next (s.modMe fun b => { b with cbufs := b.cbufs.set e k }) := by
  rw [execTcfg, if_pos hacts, withDescriptor_of_inside haligned hinside]
  simp only [hk, Option.bind_some, id, List.any_cons, List.any_nil, hold, hnew, Bool.or_self, Bool.false_eq_true, if_false]
  cases k with
  | none => rfl
  | some x =>
    refine congrArg Host.Outcome.next (if_neg (Bool.eq_false_iff.mp (List.any_eq_false.mpr fun j _ => ?_)))
    cases hj : s.pre.cbufs[j] with
    | none => simp
    | some y => 
      by_cases hje : j = e
      · simp [hje]
      · simp [hclash j y hje hj x rfl]

theorem execTcfgPinned_of_good {s : State} {q : Qual} {a : Reg} {k : Option (Nat × Nat)} (hacts : s.acts q = true)
    (haligned : (s.rg a).toNat % 64 = 0) (hinside : (s.rg a).toNat ≤ 0x1FFFC0) (hk : pinnedOf (s.descriptor a) = some k)
    (hold : s.rangeBusy (s.pre.pinned.map pinnedRange) = false) (hnew : s.rangeBusy (k.map pinnedRange) = false) :
    execTcfgPinned q a s = .next ((s.modMe fun b => { b with pinned := k }).pinRegion s.pre.sys.asn (k.getD (0, 0)).1 (k.getD (0, 0)).2) := by
  rw [execTcfgPinned, if_pos hacts, withDescriptor_of_inside haligned hinside]
  simp only [hk, Option.bind_some, id, List.any_cons, List.any_nil, hold, hnew, Bool.or_self, Bool.false_eq_true, if_false]

theorem execTmovPort_of_idle {s : State} {q : Qual} {su : Fin 4} (hacts : s.acts q = true) (hidle : (s.pre.transforms[su]).op = none) (u : Fin 4)
    (port : Fin 5) : execTmovPort q su none u port s = .next (setPort u port (s.pre.transforms[su]).res s) := by
  simp only [execTmovPort, if_pos hacts, State.unit, hidle, Option.isSome_none, Bool.false_eq_true, if_false]

/-- Settles O25: each form by what it leaves; the lines of a pinned region touch no core and no byte. -/
theorem transformPortsAndSetup : Obligations.TransformPortsAndSetup := by
  intro s q a u su port hacts sets
  refine ⟨completes_of_acts hacts (setPort_becomes ..), fun p => completes_of_acts hacts (setPort_becomes ..), fun hidle => ?result,
    completes_of_acts hacts (writesG_wg ..), fun haligned hinside => ⟨fun e k hk hold hnew hclash => ?buffer, fun k hk hold hnew => ?pinned⟩⟩
  case result => exact ⟨_, execTmovPort_of_idle hacts hidle u port, setPort_becomes ..⟩
  case buffer => exact ⟨_, execTcfg_of_good hacts haligned hinside hk hold hnew hclash, State.modMe_becomes ⟨rfl, rfl, rfl, rfl⟩⟩
  case pinned =>
    have hpinned := (s.modMe fun b => { b with pinned := k }).pinRegion_coresMem s.pre.sys.asn (k.getD (0, 0)).1 (k.getD (0, 0)).2
    obtain ⟨hbytes, hbecomes⟩ := State.modMe_becomes (s := s) (f := fun b => { b with pinned := k }) ⟨rfl, rfl, rfl, rfl⟩
    exact ⟨_, execTcfgPinned_of_good hacts haligned hinside hk hold hnew, hbytes.trans hpinned.sameBytes, _, hbecomes, rfl, hpinned.1⟩

end Sys2Proof.Machine
end

section
/-!
Proofs for O26: operations of the transform units that start.
-/
namespace Sys2Proof.Machine

/-! Operations that start (R336, R337, R142) -/

/-- An operation as the instruction under way captures it. -/
def State.capturedOp (s : State) (u : Fin 4) (kind : Fin 8) (a : Reg) (tok : Option (Fin 16)) (id : Nat) : TransformOp :=
  let k := s.pre.transforms[u]
  { id, kind, inp := k.ports[0], out := k.ports[1], cnt := (s.rg a).toNat, arg := k.ports[3], aux := k.ports[4]
    buf := if kind = 3 then s.pre.cbufs[fin3 (k.ports[3].extractLsb' 0 3)] else none
    tok, baddr := s.cur.hdr, issued := s.issueNo, src := s.src true, nextAt := 0 }

/-- The command of an operation in the hazard unit. -/
def State.opCommand (s : State) (x : TransformOp) : Command :=
  ⟨s.me.nextCommand, 4, x.tok, s.cur.hdr, [x.footprint.1], [x.footprint.2], [], true, x.kind == 6, s.issueNo, s.src true⟩

/-- Port 2 of a unit after a trigger: the count. -/
def TransformUnit.counted (n : Nat) (k : TransformUnit) : TransformUnit := { k with ports := k.ports.set 2 (.ofNat 64 n) }

/-- A unit that is given an operation. -/
def TransformUnit.started (x : TransformOp) (k : TransformUnit) : TransformUnit := { k with op := some x, faulted := false }

theorem State.startTransform_of_good {s : State} {u : Fin 4} {x : TransformOp} (hgood : x.parked s.pre.pinned = none) :
    s.startTransform u x = State.modMe { s with fresh := s.fresh + 1 } fun b => { b.track (s.opCommand x) with
      transforms := Vec.modify b.transforms u fun k => { k with
        ports := k.ports.set 2 (.ofNat 64 x.cnt)
        op := some { x with id := s.me.nextCommand, nextAt := s.cycle + s.lineCycles x.cycles + Config.engineWait s.fresh }, faulted := false } } := by
  obtain ⟨y, hy⟩ : ∃ y, y = { x with id := s.me.nextCommand, nextAt := s.cycle + s.lineCycles x.cycles + Config.engineWait s.fresh } := ⟨_, rfl⟩
  have hsteps : s.startTransform u x = (((State.modUnit { s with fresh := s.fresh + 1 } u (.counted x.cnt)).modMe
      (·.track (s.opCommand x))).modUnit u (.started y)) := by
    simp only [State.startTransform, State.modUnit, State.modMe_pre, hgood, State.addCommand, State.me_modMe, hy]
    rfl
  have hunits (b : Body) : Vec.modify (Vec.modify b.transforms u (.counted x.cnt)) u (.started y) =
      Vec.modify b.transforms u (.started y ∘ .counted x.cnt) := by simp [Vec.modify]
  rw [hsteps, State.modUnit, State.modUnit, State.modMe_modMe, State.modMe_modMe, ← hy]
  exact congrArg (State.modMe _) (funext fun b => congrArg (fun v => ({ b.track (s.opCommand x) with transforms := v } : Body)) (hunits b))

theorem trigger_of_free {s : State} {q : Qual} {u : Fin 4} {kind : Fin 8} {a : Reg} {tok : Option (Fin 16)} {x : TransformOp}
    (hacts : s.acts q = true) (hx : x = s.capturedOp u kind a tok 0) (hidle : (s.pre.transforms[u]).op = none) (hfields : x.fieldsOk = true)
    (hapart : x.footprint.1.overlaps x.footprint.2 = false) (htok : ∀ t, tok = some t → s.pre.tokenBusy t = false)
    (hfault : u = 3 → s.pre.holdsFault 4 = false) (hhazard : s.hazardFree [x.footprint.1] [x.footprint.2] = true) :
    trigger u kind q a tok s = s.startTransform u x := by
  have hfree : (tok.any fun t => s.pre.tokenBusy t) = false := by
    cases tok with
    | none => rfl
    | some t => exact htok t rfl
  subst hx
  unfold State.capturedOp at *
  have hstall : ¬ (u = 3 ∧ s.pre.holdsFault 4 = true) := fun ⟨hu, h⟩ => Bool.false_ne_true ((hfault hu).symm.trans h)
  simp only [trigger, if_pos hacts, State.unit, hidle, Option.isSome_none, Bool.false_eq_true, hstall, hhazard, Bool.true_eq_false, or_self, if_false,
    hfields, hapart, hfree]

/-- Settles O26: a trigger that nothing keeps back is started by `startTransform`, which records its command and gives it to its unit. -/
theorem transformOperationsStart : Obligations.TransformOperationsStart := by
  have hexec : ∀ x ∈ ([(.cvtSplit, 0, 1), (.cvtJoin, 0, 2), (.cmpPack, 1, 3), (.xposeW32, 2, 4), (.xposeW16, 2, 5), (.layoutIm2col, 3, 6)] :
      List ((Qual → Reg → Option (Fin 16) → Instr) × Fin 4 × Fin 8)), ∀ s q a tok, exec (x.1 q a tok) s = .next (trigger x.2.1 x.2.2 q a tok s) := by
    simp only [List.forall_mem_cons]
    exact ⟨fun _ _ _ _ => rfl, fun _ _ _ _ => rfl, fun _ _ _ _ => rfl, fun _ _ _ _ => rfl, fun _ _ _ _ => rfl, fun _ _ _ _ => rfl,
      List.forall_mem_nil _⟩
  intro x hx s q a tok hacts u k op hidle hfields hapart htok hfault hhazard hgood
  rw [hexec x hx, trigger_of_free (x := s.capturedOp u x.2.2 a tok 0) hacts rfl hidle hfields hapart htok hfault hhazard,
    State.startTransform_of_good (x := s.capturedOp u x.2.2 a tok 0) hgood, completes_next]
  exact ⟨rfl, issues_of_body ⟨rfl, rfl, rfl, rfl⟩ rfl rfl ⟨_, Nat.le_add_right .., rfl⟩⟩

end Sys2Proof.Machine
end

section
/-!
Proofs for O9 and O10: operations on global memory that return or are posted, phaser instructions and migrations.
-/
namespace Sys2Proof.Machine

/-! Returning operations (R351-R353, R361, R465) -/

section
variable {s : State} {h : Hold} {r : Request} {d : Reg}

theorem awaitAnswer_of_unsent (hfree : MayIssue s) (hunsent : s.sentHere = none) : awaitAnswer h r d s = s.askFor h (.request r true) := by
  simp only [awaitAnswer, hunsent]
  exact whenFree_of_mayIssue hfree _

theorem awaitAnswer_of_value {id : Nat} {v : BitVec 64} (hsent : s.sentHere = some id) (hanswer : s.answerHere = some (v, none)) :
    awaitAnswer h r d s = s.wg d v 0 := by
  simp only [awaitAnswer, hsent, hanswer]

theorem awaitAnswer_of_fault {id : Nat} {v : BitVec 64} {c : Cause} (hsent : s.sentHere = some id) (hanswer : s.answerHere = some (v, some c)) :
    awaitAnswer h r d s = s.raiseReturned id c := by
  simp only [awaitAnswer, hsent, hanswer]

end

/-- An operation that returns is sent, or its value written once it has come. -/
def AnswersWith (i : Instr) (s : State) (d : Reg) (h : Hold) (r : Request) : Prop :=
  (MayIssue s → s.sentHere = none → Completes (exec i s) fun t => Asks s t h (.request r true)) ∧
  ∀ id v, s.sentHere = some id → s.answerHere = some (v, none) → Completes (exec i s) fun t => WritesG s t d v s.cycle

theorem answersWith_of_exec {i : Instr} {s : State} {d : Reg} {h : Hold} {r : Request} (hexec : exec i s = .next (awaitAnswer h r d s)) :
    AnswersWith i s d h r := by
  unfold AnswersWith
  simp only [hexec, completes_next]
  refine ⟨fun hfree hunsent => ?_, fun id v hsent hanswer => ?_⟩
  · rw [awaitAnswer_of_unsent hfree hunsent]
    exact State.askFor_asks ..
  · rw [awaitAnswer_of_value hsent hanswer]
    exact writesG_wg ..

/-! Posted operations (R352, R383) -/

theorem State.post1_request_of_room {s : State} {r : Request} (hholds : s.me.sendsDirectly = false) (hroom : s.me.overfull r = false) :
    s.post1 r = State.modMe { s with nextId := s.nextId + 1 } fun b => { b with held := b.held ++ [{ r with id := s.nextId, core := s.cur.core }] } := by
  have hnumbered : s.me.overfull { r with id := s.nextId, core := s.cur.core } = false :=
    (s.me.overfull_congr (r := { r with id := s.nextId, core := s.cur.core }) (x := r) rfl rfl rfl).trans hroom
  have heffect : s.effect s.cur.core r =
      State.modMe { s with nextId := s.nextId + 1 } fun b => { b with held := b.held ++ [{ r with id := s.nextId, core := s.cur.core }] } :=
    (if_neg (Bool.eq_false_iff.mp hholds)).trans (if_neg (Bool.eq_false_iff.mp hnumbered))
  have hstill : (s.effect s.cur.core r).me.sendsDirectly = false := by
    rw [heffect, State.me_modMe]
    exact hholds
  rw [State.post1, hroom, if_neg fun h => Bool.false_ne_true h.2]
  exact (if_neg (Bool.eq_false_iff.mp hstill)).trans heffect

theorem State.post1_request_of_direct {s : State} {r : Request} (hdirect : s.me.sendsDirectly = true) :
    s.post1 r = State.sendReady { s with nextId := s.nextId + 1, requests := s.requests ++ [{ r with id := s.nextId, core := s.cur.core }] } s.cur.core := by
  have heffect : s.effect s.cur.core r = { s with nextId := s.nextId + 1, requests := s.requests ++ [{ r with id := s.nextId, core := s.cur.core }] } := if_pos hdirect
  rw [State.post1, heffect, hdirect, if_neg fun h => Bool.false_ne_true h.1.symm]
  exact if_pos hdirect

theorem State.postOperation_of_unheld {s : State} {r : Request} (hunheld : findHeld s.pre.vts false r.va.toNat 1 = none) :
    s.postOperation r = s.post1 r := by
  rw [State.postOperation, hunheld]
  rfl

theorem State.postOperation_of_held {s : State} {r : Request} (hheld : (findHeld s.pre.vts false r.va.toNat 1).isSome = true) :
    s.postOperation r = State.modMe { s with nextId := s.nextId + 1 } fun b => b.reportAccess { r with id := s.nextId } .protection :=
  if_pos hheld

/-! Atomics and reductions (R351-R353, R356) -/

/-- The request of an operation on global memory, with the number that it gets. -/
def State.operationRequest (s : State) (base : Reg) (op : ReqOp) (ord : Order) (sc : Scope) : Request :=
  { id := s.nextId, core := s.cur.core, baddr := s.cur.hdr, issued := s.issueNo, asn := s.pre.sys.asn
    va := (s.rg base).extractLsb' 0 56, op, order := ord, scope := sc }

section
variable {s : State} {n : Nat} {q : Qual} {d base : Reg} {ord : Order} {sc : Scope} {op : State → ReqOp}
  (hacts : s.acts q = true) (ha : Accessible (s.rg base) n)
include hacts ha

theorem gOperation_of_returning (hd : d ≠ 0) : gOperation n q d base ord sc op s =
    .next (awaitAnswer .stall { s.operationRequest base (op s) ord sc with id := 0 } d s) := by
  have hval : d.val ≠ 0 := fun h => hd (Fin.ext h)
  rw [gOperation, if_pos hacts, glbAccess_of_accessible ha, if_neg hval]
  rfl

theorem gOperation_of_posted (hfree : MayIssue s) (hd : d = 0) : gOperation n q d base ord sc op s =
    .next (s.postOperation { s.operationRequest base (op s) ord sc with id := 0, engine := 6 }) := by
  have hval : d.val = 0 := congrArg Fin.val hd
  rw [gOperation, if_pos hacts, glbAccess_of_accessible ha, if_pos hval, whenFree_of_mayIssue hfree]
  rfl

end

/-- An atomic or reduction as the statement has it. -/
def OperationSent (i : Instr) (s : State) (d : Reg) (r : Request) : Prop :=
  (d ≠ 0 → s.sentHere = none → Completes (exec i s) fun t => Asks s t .stall (.request { r with id := 0 } true)) ∧
  (d ≠ 0 → ∀ id v, s.sentHere = some id → s.answerHere = some (v, none) → Completes (exec i s) fun t => WritesG s t d v s.cycle) ∧
  (d ≠ 0 → ∀ id v c k, s.sentHere = some id → s.answerHere = some (v, some c) → s.pre.keptRequest id = some k → s.cur.trap = none →
    Completes (exec i s) fun t => t = { s with cur := { s.cur with trap := some {
      cause := c, taddr := k.va.zeroExtend 64, slot := slotCode s.cur.slot, parked := true, replay := some id } } }) ∧
  (d = 0 → findHeld s.pre.vts false r.va.toNat 1 = none → s.me.sendsDirectly = false → s.me.overfull r = false →
    Completes (exec i s) fun t => ∃ u, u = { s with nextId := s.nextId + 1 } ∧
      Becomes u t fun b => { b with held := b.held ++ [{ r with engine := 6 }] }) ∧
  (d = 0 → findHeld s.pre.vts false r.va.toNat 1 = none → s.me.sendsDirectly = true → Completes (exec i s) fun t =>
    t = State.sendReady { s with nextId := s.nextId + 1, requests := s.requests ++ [{ r with engine := 6 }] } s.cur.core) ∧
  (d = 0 → (findHeld s.pre.vts false r.va.toNat 1).isSome = true →
    Completes (exec i s) fun t => ∃ u, u = { s with nextId := s.nextId + 1 } ∧ Becomes u t fun b => b.reportAccess { r with engine := 6 } .protection)

theorem operationSent_of_gOperation {s : State} {n : Nat} {q : Qual} {d base : Reg} {ord : Order} {sc : Scope} {op : State → ReqOp} {i : Instr}
    (hexec : exec i s = gOperation n q d base ord sc op s) (hacts : s.acts q = true) (ha : Accessible (s.rg base) n) (hfree : MayIssue s) :
    OperationSent i s d (s.operationRequest base (op s) ord sc) := by
  have hreturns (hd : d ≠ 0) := hexec.trans (gOperation_of_returning hacts ha hd)
  have hposted (hd : d = 0) := hexec.trans (gOperation_of_posted hacts ha hfree hd)
  have hunheldPost := State.postOperation_of_unheld (s := s) (r := { s.operationRequest base (op s) ord sc with id := 0, engine := 6 })
  refine ⟨fun hd => (answersWith_of_exec (hreturns hd)).1 hfree, fun hd => (answersWith_of_exec (hreturns hd)).2,
    fun hd id v c k hsent hanswer hkept htrap => ?fault, fun hd hunheld hholds hroom => ?room, fun hd hunheld hdirect => ?direct,
    fun hd hheld => ?held⟩
  case fault =>
    rw [hreturns hd, completes_next, awaitAnswer_of_fault hsent hanswer]
    simp only [State.raiseReturned, State.raiseParked, htrap, hkept]
    rfl
  case room =>
    rw [hposted hd, completes_next, hunheldPost hunheld, State.post1_request_of_room hholds ?_]
    · exact ⟨_, rfl, becomes_modMe ..⟩
    · rw [← hroom]
      exact s.me.overfull_congr rfl rfl rfl
  case direct =>
    rw [hposted hd, completes_next, hunheldPost hunheld, State.post1_request_of_direct hdirect]
    rfl
  case held =>
    exact ⟨_, (hposted hd).trans (congrArg _ (State.postOperation_of_held hheld)), _, rfl, becomes_modMe ..⟩

theorem gAtomic_sent {i : Qual → Reg → Reg → Reg → Order → Scope → Instr} {op : AtomicOp} {n : Nat}
    (hexec : ∀ q d base src ord sc s, exec (i q d base src ord sc) s = gAtomic op n q d base src ord sc s) (s : State) (q : Qual) (d base src : Reg)
    (ord : Order) (sc : Scope) (hacts : s.acts q = true) (ha : Accessible (s.rg base) n) (hfree : MayIssue s) :
    OperationSent (i q d base src ord sc) s d (s.operationRequest base (.atomic op (s.rg src) (s.rg d) d) ord sc) :=
  operationSent_of_gOperation (op := fun s => .atomic op (s.rg src) (s.rg d) d) (hexec q d base src ord sc s) hacts ha hfree

theorem gReduce_sent {i : Qual → Reg → Reg → Reg → Order → Scope → Instr} {op : ReduceOp}
    (hexec : ∀ q d base src ord sc s, exec (i q d base src ord sc) s = gReduce op q d base src ord sc s) (s : State) (q : Qual) (d base src : Reg)
    (ord : Order) (sc : Scope) (hacts : s.acts q = true) (ha : Accessible (s.rg base) 32) (hfree : MayIssue s) :
    OperationSent (i q d base src ord sc) s d
      (s.operationRequest base (.reduce op (s.rg src) (s.pre.sys.arm.getLsbD 1) s.pre.sys.teamCores.toNat d) ord sc) :=
  operationSent_of_gOperation (op := fun s => .reduce op (s.rg src) (s.pre.sys.arm.getLsbD 1) s.pre.sys.teamCores.toNat d)
    (hexec q d base src ord sc s) hacts ha hfree

/-- Settles O9: each instruction is `gOperation` of its size and operation, which is sent and answered, or posted. -/
theorem atomicsAreSent : Obligations.AtomicsAreSent := by
  unfold Obligations.AtomicsAreSent
  simp only [List.forall_mem_cons]
  exact ⟨gAtomic_sent fun _ _ _ _ _ _ _ => rfl, gAtomic_sent fun _ _ _ _ _ _ _ => rfl, gAtomic_sent fun _ _ _ _ _ _ _ => rfl,
    gAtomic_sent fun _ _ _ _ _ _ _ => rfl, gAtomic_sent fun _ _ _ _ _ _ _ => rfl, gAtomic_sent fun _ _ _ _ _ _ _ => rfl,
    gAtomic_sent fun _ _ _ _ _ _ _ => rfl, gAtomic_sent fun _ _ _ _ _ _ _ => rfl, gAtomic_sent fun _ _ _ _ _ _ _ => rfl,
    gAtomic_sent fun _ _ _ _ _ _ _ => rfl, gAtomic_sent fun _ _ _ _ _ _ _ => rfl, gReduce_sent fun _ _ _ _ _ _ _ => rfl,
    gReduce_sent fun _ _ _ _ _ _ _ => rfl, gReduce_sent fun _ _ _ _ _ _ _ => rfl, List.forall_mem_nil _⟩

/-! Phaser instructions and migrations (R361, R363, R465) -/

theorem gPhaser_of_accessible {s : State} {h : Hold} {op : PhaserOp} {v : BitVec 64} {q : Qual} {d base : Reg} {ord : Order} {sc : Scope}
    (hacts : s.acts q = true) (ha : Accessible (s.rg base) 64) : gPhaser h op v q d base ord sc s =
      .next (awaitAnswer h { s.operationRequest base (s.phaserOp op v d) ord sc with id := 0 } d s) := by
  rw [gPhaser, if_pos hacts, glbAccess_of_accessible ha]
  rfl

theorem execMigr_of_good {s : State} {q : Qual} {d base src : Reg} {ord : Order} (hacts : s.acts q = true) (hasn : s.pre.sys.asn = 0)
    (hdst : (s.rg d).extractLsb' 12 52 = 0#52) (hnarrow : (s.rg base).extractLsb' 56 8 = 0#8) (hframe : (s.rg src).extractLsb' 0 16 = 0#16)
    (hmem : (s.rg src).toNat + 0x10000 ≤ 0x9000000000) : execMigr q d base src ord s =
      .next (awaitAnswer .stall { s.operationRequest base (.migrate (s.rg src).toNat d) ord .p with id := 0, asn := (s.rg d).extractLsb' 0 12 } d s) := by
  rw [execMigr, if_pos hacts, if_neg (not_not.mpr hasn), if_neg (not_not.mpr hdst), if_neg (not_not.mpr hnarrow), if_neg (not_not.mpr hframe),
    if_neg hmem.not_gt]
  rfl

/-- Settles O10: each instruction sends its request and waits for the answer. -/
theorem phasersAndMigrationsAnswer : Obligations.PhasersAndMigrationsAnswer := by
  intro s q d base src ord sc hacts va request answers
  refine ⟨fun ha => ?phaser, fun hasn hdst hnarrow hframe hmem => answersWith_of_exec (execMigr_of_good hacts hasn hdst hnarrow hframe hmem)⟩
  have answered (h : Hold) (op : PhaserOp) (v : BitVec 64) (i : Instr) (hexec : exec i s = gPhaser h op v q d base ord sc s) :=
    answersWith_of_exec (hexec.trans (gPhaser_of_accessible hacts ha))
  exact ⟨answered .stall .init _ _ rfl, answered .stall .reg _ _ rfl, answered .stall .drop 0 _ rfl, answered .stall .arr 0 _ rfl,
    answered .stall .arw 0 _ rfl, answered .stall .q 0 _ rfl, answered .wait .wait _ _ rfl⟩

end Sys2Proof.Machine
end

section
/-!
Facts on tasks and teams, and the checks of a spawn.
-/
namespace Sys2Proof.Machine

/-! Tasks and teams -/

theorem State.cores_modTask_ne (s : State) {c d : CoreId} (f : Task → Task) (h : d ≠ c) : (s.modTask c f).cores[d] = s.cores[d] :=
  Vec.getElem_modify_ne _ _ h

theorem State.task_modTask_ne (s : State) {c d : CoreId} (f : Task → Task) (h : d ≠ c) : (s.modTask c f).task d = s.task d :=
  congrArg Core.task (s.cores_modTask_ne f h)

theorem State.id_of_team? {s : State} {k : Nat} {x : Team} (h : s.team? k = some x) : x.id = k := by
  simpa using List.find?_some h

/-- The team of a number after a change of it. -/
theorem State.team?_modTeam {s : State} {k : Nat} {x : Team} {f : Team → Team} (h : s.team? k = some x) (hf : (f x).id = x.id) :
    (s.modTeam k f).team? k = some (f x) := by
  have hid := State.id_of_team? h
  unfold State.team? at h
  show (s.usher.teams.map fun y => if y.id = k then f y else y).find? (·.id == k) = some (f x)
  generalize s.usher.teams = ys at h
  induction ys with
  | nil => cases h
  | cons y ys ih =>
    rw [List.map_cons]
    by_cases hy : y.id = k
    · rw [List.find?_cons_of_pos (by simp [hy])] at h
      cases h
      rw [if_pos hid, List.find?_cons_of_pos (by simp [hf, hid])]
    · rw [List.find?_cons_of_neg (by simp [hy])] at h
      rw [if_neg hy, List.find?_cons_of_neg (by simp [hy])]
      exact ih h

/-- The team of a core is the first of its number. -/
theorem State.team?_of_teamOf {s : State} {c : CoreId} {x : Team} (h : s.teamOf c = some x) : s.team? x.id = some x := by
  obtain ⟨k, -, hk⟩ := Option.bind_eq_some_iff.mp h
  rwa [State.id_of_team? hk]

section
variable (s : State) (c : CoreId) (x : Team) (index : Fin 128) (entry : VA) (args : Vector (BitVec 64) 8) (views : Vector ViewEntry 8) (node : Node)
  (piece : Option Piece)

theorem State.body_startTask : (s.startTask c x index entry args views node piece).body c =
    (s.body c).startTask x index.val entry args x.nextTask views := by
  simp [State.body, State.startTask]

theorem State.task_startTask : (s.startTask c x index entry args views node piece).task c = { s.task c with
    state := some .running, node := some node.id, childIndex := Fin.ofNat 256 node.child, children := 0, closed := false, piece
    progress := {}, buffer := [], attempts := 0, fault := none, startAt := s.cycle + 1, halted := false, stopped := false, reserved := none } := by
  simp [State.task, State.startTask]

theorem State.cores_startTask_ne {d : CoreId} (h : d ≠ c) : (s.startTask c x index entry args views node piece).cores[d] = s.cores[d] :=
  Vec.getElem_modify_ne _ _ h

end

/-- The arguments of a task stand from g4 on. -/
theorem startRegs_arg (top got : BitVec 64) (args : Vector (BitVec 64) 8) (i : Fin 8) : (startRegs top got args)[i.val + 4] = args[i] := by
  have harg : 4 ≤ i.val + 4 ∧ i.val + 4 < 12 := by omega
  have hstack : i.val + 4 ≠ 2 := by omega
  have hglobals : i.val + 4 ≠ 3 := by omega
  simp [startRegs, harg, hstack, hglobals]

theorem startRegs_zero (top got : BitVec 64) (args : Vector (BitVec 64) 8) : (startRegs top got args)[0] = 0 := by simp [startRegs]

theorem startRegs_globals (top got : BitVec 64) (args : Vector (BitVec 64) 8) : (startRegs top got args)[3] = got := by simp [startRegs]

/-! The checks of a spawn (R371, R373) -/

/-- An entry address of 56 bits that is a multiple of 4. -/
theorem entryChecks_of_good {s : State} {a : BitVec 64} (haligned : a.toNat % 4 = 0) (hnarrow : a.toNat < 2 ^ 56) (k : State → State) :
    entryChecks a k s = if 255 ≤ (s.task s.cur.core).children then s.raise .illegalOp else k s := by
  have hlow : a.extractLsb' 0 2 = 0#2 := BitVec.eq_of_toNat_eq (by simpa [BitVec.extractLsb'_toNat] using haligned)
  have hhigh : a.extractLsb' 56 8 = 0#8 := BitVec.eq_of_toNat_eq (by
    rw [BitVec.extractLsb'_toNat, Nat.shiftRight_eq_div_pow, Nat.div_eq_of_lt hnarrow]
    rfl)
  rw [entryChecks, if_neg (not_not.mpr hlow), if_neg (not_not.mpr hhigh)]

theorem whenDrained_of_performed {s : State} {h : Hold} {id : Nat} (hdrain : s.drainHere = some id) (hdone : s.unperformed s.cur.core id .t = [])
    (k : State → State) : whenDrained h k s = k s := by
  simp only [whenDrained, hdrain, hdone, List.isEmpty_nil, if_true]

end Sys2Proof.Machine
end

section
/-!
Proofs for O30: spawned tasks and posted ranges.
-/
namespace Sys2Proof.Machine

/-! Spawned tasks (R371, R373) -/

section
variable {s : State} {q : Qual} {a b : Reg} {blk : BitVec 10} {x : Team} (hacts : s.acts q = true)
include hacts

theorem execSpawn_of_handler (hmode : s.pre.handler = true) : execSpawn q a b blk s = .next (s.raise .illegalOp) := by
  simp only [execSpawn, if_pos hacts, hmode, if_true]

theorem execSpawnr_of_handler (hmode : s.pre.handler = true) : execSpawnr q a blk s = .next (s.raise .illegalOp) := by
  simp only [execSpawnr, if_pos hacts, hmode, if_true]

variable (hmode : s.pre.handler = false) (hteam : s.teamOf s.cur.core = some x)
include hmode hteam

theorem execSpawn_of_outside (hcore : s.pre.sys.teamCores.toNat ≤ (s.rg a).toNat) : execSpawn q a b blk s = .next (s.raise .illegalOp) := by
  simp only [execSpawn, if_pos hacts, hmode, Bool.false_eq_true, if_false, hteam, if_pos hcore]

variable (hcore : (s.rg a).toNat < s.pre.sys.teamCores.toNat) (haligned : (s.rg b).toNat % 4 = 0) (hnarrow : (s.rg b).toNat < 2 ^ 56)
include hcore haligned hnarrow

theorem execSpawn_of_full (hfull : 255 ≤ (s.task s.cur.core).children) : execSpawn q a b blk s = .next (s.raise .illegalOp) := by
  simp only [execSpawn, if_pos hacts, hmode, Bool.false_eq_true, if_false, hteam, if_neg hcore.not_ge, entryChecks_of_good haligned hnarrow,
    if_pos hfull]

/-- A core that takes a task of the one that spawns. -/
def State.freeFor (s : State) (c : CoreId) : Prop :=
  c ≠ s.cur.core ∧ (s.task c).state = some .ended ∧ ((s.task c).reserved = none ∨ (s.task c).reserved = some s.cur.core)

omit hacts hmode hteam hcore haligned hnarrow in
theorem State.freeFor_iff (c : CoreId) :
    (c ≠ s.cur.core ∧ (s.task c).state = some .ended ∧ (s.task c).reserved.all (· == s.cur.core) = true) ↔ s.freeFor c := by
  unfold State.freeFor
  cases (s.task c).reserved <;> simp

variable {id : Nat} {c : CoreId} (hroom : (s.task s.cur.core).children < 255) (hdrain : s.drainHere = some id)
  (hdone : s.unperformed s.cur.core id .t = []) (hc : x.cores[(s.rg a).toNat]? = some c)
include hroom hdrain hdone hc

theorem execSpawn_of_free (hfree : s.freeFor c) :
    execSpawn q a b blk s = .next (spawnOn x c (Fin.ofNat 128 (s.rg a).toNat) ((s.rg b).extractLsb' 0 56) blk s) := by
  simp only [execSpawn, if_pos hacts, hmode, Bool.false_eq_true, if_false, hteam, if_neg hcore.not_ge, entryChecks_of_good haligned hnarrow,
    if_neg hroom.not_ge, whenDrained_of_performed hdrain hdone, hc, if_pos ((State.freeFor_iff c).mpr hfree)]

theorem execSpawn_of_busy (hbusy : ¬s.freeFor c) : execSpawn q a b blk s = .next (s.raise .spawnBusy) := by
  simp only [execSpawn, if_pos hacts, hmode, Bool.false_eq_true, if_false, hteam, if_neg hcore.not_ge, entryChecks_of_good haligned hnarrow,
    if_neg hroom.not_ge, whenDrained_of_performed hdrain hdone, hc, if_neg (mt (State.freeFor_iff c).mp hbusy)]

end

/-- The task of a spawn, as a node of its parent. -/
def State.spawnNode (s : State) (x : Team) (index : Fin 128) : Node :=
  { id := s.nextId, team := x.id, index, parent := (s.task s.cur.core).node, child := (s.task s.cur.core).children }

/-- A core that has taken the task of a spawn. -/
def State.spawned (s : State) (x : Team) (c : CoreId) (index : Fin 128) (entry : VA) (blk : BitVec 10) : State :=
  State.startTask { s with nextId := s.nextId + 1 } c x index entry (Vec.ofFn fun i => blockWord (s.galBlock blk) i.val) (childViews s.pre.vts)
    (s.spawnNode x index) none

section
variable {s : State} {x : Team} {c : CoreId} (index : Fin 128) (entry : VA) (blk : BitVec 10)

theorem spawnOn_eq : spawnOn x c index entry blk s =
    (s.spawned x c index entry blk).modTask s.cur.core fun t => { t with children := t.children + 1 } := rfl

theorem State.body_spawned : (s.spawned x c index entry blk).body c = (s.body c).startTask x index.val entry
    (Vec.ofFn fun i => blockWord (s.galBlock blk) i.val) x.nextTask (childViews s.pre.vts) := State.body_startTask ..

theorem State.cores_spawned_ne {d : CoreId} (hd : d ≠ c) : (s.spawned x c index entry blk).cores[d] = s.cores[d] :=
  State.cores_startTask_ne _ _ _ _ _ _ _ _ _ hd

/-- What a spawn leaves: its core counts a child, the other one runs the task. -/
theorem spawnOn_leaves (hc : c ≠ s.cur.core) :
    let t := spawnOn x c index entry blk s
    (s.task s.cur.core).children + 1 = (t.task s.cur.core).children ∧ (t.task c).state = some .running ∧ (t.task c).startAt = s.cycle + 1 ∧
      (t.body c).pc = entry ∧ (∀ i : Fin 8, (t.body c).g[i.val + 4] = (s.galBlock blk).extractLsb' (64 * i) 64) ∧ (t.body c).g[0] = 0 ∧
      (t.body c).g[3] = x.kernel.got ∧ t.mem = s.mem ∧ ∀ d, d ≠ c → d ≠ s.cur.core → t.cores[d] = s.cores[d] := by
  have htask : (s.spawned x c index entry blk).task c = _ := State.task_startTask ..
  have hmine : (s.spawned x c index entry blk).task s.cur.core = s.task s.cur.core :=
    congrArg Core.task (State.cores_spawned_ne index entry blk hc.symm)
  simp only [spawnOn_eq, State.body_modTask, State.body_spawned, State.task_modTask_same, State.task_modTask_ne _ _ hc, hmine, htask]
  refine ⟨trivial, trivial, trivial, rfl, fun i => (startRegs_arg _ _ _ i).trans ?_, startRegs_zero .., startRegs_globals .., rfl, fun d hd hcur => ?_⟩
  · simp [blockWord]
  · rw [State.cores_modTask_ne _ _ hcur, State.cores_spawned_ne _ _ _ hd]

end

/-! Posted ranges (R378) -/

section
variable {s : State} {q : Qual} {a : Reg} {blk : BitVec 10} {x : Team} {block : BitVec 512} {lo hi : Nat} (hacts : s.acts q = true)
  (hmode : s.pre.handler = false) (hteam : s.teamOf s.cur.core = some x) (hblock : s.galBlock blk = block)
  (hlo : ((s.rg a).extractLsb' 0 32).toNat = lo) (hhi : ((s.rg a).extractLsb' 32 32).toNat = hi)
  (haligned : (block.extractLsb' 0 64).toNat % 4 = 0) (hnarrow : (block.extractLsb' 0 64).toNat < 2 ^ 56)
  (hroom : (s.task s.cur.core).children < 255)

/-- A block that a range may be posted with. -/
def goodBlock (block : BitVec 512) (lo hi : Nat) : Prop :=
  block.extractLsb' 81 47 = 0 ∧ 0 < (block.extractLsb' 64 16).toNat ∧
    (block.getLsbD 80 = true → grains lo hi (block.extractLsb' 64 16).toNat ≤ 65536)

theorem not_goodBlock_iff : block.extractLsb' 81 47 ≠ 0#47 ∨ (block.extractLsb' 64 16).toNat = 0 ∨
    (block.getLsbD 80 = true ∧ 65536 < grains lo hi (block.extractLsb' 64 16).toNat) ↔ ¬goodBlock block lo hi := by
  unfold goodBlock
  simp only [not_and_or, Classical.not_imp, not_lt, Nat.le_zero, not_le, ne_eq, BitVec.ofNat_eq_ofNat]

include hacts hmode hteam hblock hlo hhi haligned hnarrow hroom

theorem execSpawnr_of_bad (hbad : ¬goodBlock block lo hi) : execSpawnr q a blk s = .next (s.raise .illegalOp) := by
  have hentry : blockWord block 0 = block.extractLsb' 0 64 := rfl
  simp only [execSpawnr, if_pos hacts, hmode, Bool.false_eq_true, if_false, hteam, hblock, hlo, hhi, hentry, entryChecks_of_good haligned hnarrow,
    if_neg hroom.not_ge]
  exact congrArg Host.Outcome.next (if_pos (not_goodBlock_iff.mpr hbad))

variable (hgood : goodBlock block lo hi)
include hgood

theorem execSpawnr_of_good : execSpawnr q a blk s = .next (if hi ≤ lo then s
    else whenDrained .stall (postRange x (rangeOf block lo hi s.pre.vts (s.task s.cur.core)) block) s) := by
  have hentry : blockWord block 0 = block.extractLsb' 0 64 := rfl
  simp only [execSpawnr, if_pos hacts, hmode, Bool.false_eq_true, if_false, hteam, hblock, hlo, hhi, hentry, entryChecks_of_good haligned hnarrow,
    if_neg hroom.not_ge]
  exact congrArg Host.Outcome.next (if_neg (mt not_goodBlock_iff.mp (not_not.mpr hgood)))

theorem execSpawnr_of_empty (hempty : hi ≤ lo) : execSpawnr q a blk s = .next s := by
  rw [execSpawnr_of_good hacts hmode hteam hblock hlo hhi haligned hnarrow hroom hgood, if_pos hempty]

variable {id : Nat} (hsome : lo < hi) (hdrain : s.drainHere = some id) (hdone : s.unperformed s.cur.core id .t = [])
include hsome hdrain hdone

theorem execSpawnr_of_drained : execSpawnr q a blk s = .next (postRange x (rangeOf block lo hi s.pre.vts (s.task s.cur.core)) block s) := by
  rw [execSpawnr_of_good hacts hmode hteam hblock hlo hhi haligned hnarrow hroom hgood, if_neg hsome.not_ge,
    whenDrained_of_performed hdrain hdone]

end

section
variable {s : State} {x : Team} {e : RangeEntry} {block : BitVec 512}

theorem postRange_of_frozen (hfrozen : s.rangeFrozen x = true) : postRange x e block s = s := if_pos hfrozen

theorem postRange_of_full (hfrozen : s.rangeFrozen x = false) (hfull : 64 ≤ x.ranges.length) : postRange x e block s = s.holdFor .stall :=
  (if_neg (Bool.eq_false_iff.mp hfrozen)).trans (if_pos hfull)

theorem postRange_of_room (hteam : s.team? x.id = some x) (hfrozen : s.rangeFrozen x = false) (hroom : x.ranges.length < 64) :
    let t := postRange x e block s
    (t.team? x.id).map (·.ranges) = some (x.ranges ++ [e]) ∧ (t.task s.cur.core).children = (s.task s.cur.core).children + 1 ∧
      (t.task s.cur.core).template = some block ∧ t.mem = s.mem ∧ ∀ d, t.body d = s.body d := by
  obtain ⟨u, hu⟩ : ∃ u, u = s.modTeam x.id fun x => { x with ranges := x.ranges ++ [e] } := ⟨_, rfl⟩
  have hpost : postRange x e block s = (u.modTask s.cur.core fun t => { t with template := some block }).modTask s.cur.core
      fun t => { t with children := t.children + 1 } := by
    rw [hu]
    exact (if_neg (Bool.eq_false_iff.mp hfrozen)).trans (if_neg hroom.not_ge)
  have hranges : u.team? x.id = some { x with ranges := x.ranges ++ [e] } := by
    rw [hu]
    exact State.team?_modTeam hteam rfl
  have htask (d : CoreId) : u.task d = s.task d := by rw [hu]; rfl
  intro t
  refine ⟨?_, ?_, ?_, ?_, fun d => ?_⟩
  · show ((postRange x e block s).team? x.id).map _ = _
    rw [hpost]
    exact congrArg (Option.map _) hranges
  · show ((postRange x e block s).task s.cur.core).children = _
    rw [hpost, State.task_modTask_same, State.task_modTask_same, htask]
  · show ((postRange x e block s).task s.cur.core).template = _
    rw [hpost, State.task_modTask_same, State.task_modTask_same]
  · show (postRange x e block s).mem = _
    rw [hpost, hu]
    rfl
  · show (postRange x e block s).body d = _
    rw [hpost, State.body_modTask, State.body_modTask, hu]
    rfl

end

/-- Settles O30: a spawn by the checks that it passes and its core, a posted range by its block and the team's queue. -/
theorem spawnsStartTasks : Obligations.SpawnsStartTasks := by
  refine ⟨fun s q a b blk hacts hmode htrap hslot => ?_, ?_⟩
  · exact ⟨⟨_, execSpawn_of_handler hacts hmode, State.raise_of_control htrap hslot _ _⟩,
      ⟨_, execSpawnr_of_handler hacts hmode, State.raise_of_control htrap hslot _ _⟩⟩
  intro s q a b blk x hacts hmode hteam block room drained
  refine ⟨fun c hroom hdrained hcore hc hother hended hreserved haligned hnarrow => ?spawn, ?range,
    fun htrap hslot => ⟨fun hcore => ?outside, fun hcore haligned hnarrow hfull => ?full,
      fun c hroom hdrained hcore hc hbusy haligned hnarrow => ?busy⟩⟩
  case spawn =>
    obtain ⟨id, hdrain, hdone⟩ := hdrained
    rw [← extractLsb'_zero]
    exact ⟨_, execSpawn_of_free hacts hmode hteam hcore haligned hnarrow hroom hdrain hdone hc ⟨hother, hended, hreserved⟩,
      spawnOn_leaves _ _ _ hother⟩
  case range =>
    intro lo hi grain good haligned hnarrow hroom
    refine ⟨fun hbad htrap hslot => ?bad, fun hgood hempty => ?empty, fun hgood hsome ⟨id, hdrain, hdone⟩ hfrozen => ?frozen,
      fun hgood hsome ⟨id, hdrain, hdone⟩ hfrozen hfull hhold => ?holds, fun hgood hsome ⟨id, hdrain, hdone⟩ hfrozen hqueue => ?posted⟩
    case bad =>
      exact ⟨_, execSpawnr_of_bad hacts hmode hteam rfl rfl rfl haligned hnarrow hroom hbad, State.raise_of_control htrap hslot _ _⟩
    case empty => exact execSpawnr_of_empty hacts hmode hteam rfl rfl rfl haligned hnarrow hroom hgood hempty
    case frozen =>
      exact (execSpawnr_of_drained hacts hmode hteam rfl rfl rfl haligned hnarrow hroom hgood hsome hdrain hdone).trans
        (congrArg _ (postRange_of_frozen hfrozen))
    case holds =>
      refine (execSpawnr_of_drained hacts hmode hteam rfl rfl rfl haligned hnarrow hroom hgood hsome hdrain hdone).trans (congrArg _ ?_)
      rw [postRange_of_full hfrozen hfull, State.holdFor_eq, hhold]
      rfl
    case posted =>
      exact ⟨_, execSpawnr_of_drained hacts hmode hteam rfl rfl rfl haligned hnarrow hroom hgood hsome hdrain hdone,
        postRange_of_room (State.team?_of_teamOf hteam) hfrozen hqueue⟩
  case outside => exact ⟨_, execSpawn_of_outside hacts hmode hteam hcore, State.raise_of_control htrap hslot _ _⟩
  case full => exact ⟨_, execSpawn_of_full hacts hmode hteam hcore haligned hnarrow hfull, State.raise_of_control htrap hslot _ _⟩
  case busy =>
    obtain ⟨id, hdrain, hdone⟩ := hdrained
    refine ⟨_, execSpawn_of_busy hacts hmode hteam hcore haligned hnarrow hroom hdrain hdone hc fun ⟨hother, hended, hreserved⟩ => ?_,
      State.raise_of_control htrap hslot _ _⟩
    rcases hbusy with hself | hrunning | ⟨d, hd, hdcur⟩
    · exact hother hself
    · exact hrunning hended
    · rw [hd] at hreserved
      exact hreserved.elim nofun fun h => hdcur (Option.some.inj h)

end Sys2Proof.Machine
end

section
/-!
Proofs for O31: grains, joins, ends of tasks and the words of `tinfo`.
-/
namespace Sys2Proof.Machine

/-! Values that are journalled (R45, R377, R392) -/

theorem State.journalled_of_afresh {s : State} (hafresh : ReadsAfresh s) (v : BitVec 64) :
    ∃ u, s.journalled v = (v, u) ∧ OnlyJournal s u s.cur.core := by
  have hnone : s.cores[s.cur.core].journalRead.2.1 = none := hafresh
  exact ⟨_, by simp only [State.journalled, hnone], onlyJournal_readSet s _ v⟩

section
variable {s u : State} {c : CoreId} (hjournal : OnlyJournal s u c)
include hjournal

theorem OnlyJournal.body_eq (d : CoreId) : u.body d = s.body d := by
  obtain ⟨-, hothers, hmine⟩ := hjournal
  by_cases hd : d = c
  · subst hd
    exact (congrArg Core.b hmine :)
  · exact congrArg Core.b (hothers d hd)

theorem OnlyJournal.task_eq (d : CoreId) : u.task d = s.task d := by
  obtain ⟨-, hothers, hmine⟩ := hjournal
  by_cases hd : d = c
  · subst hd
    exact (congrArg Core.task hmine :)
  · exact congrArg Core.task (hothers d hd)

theorem OnlyJournal.cycle_eq : u.cycle = s.cycle := by rw [hjournal.1]

theorem OnlyJournal.cur_eq : u.cur = s.cur := by rw [hjournal.1]

end

theorem State.readEngine_leaves {s : State} (hafresh : ReadsAfresh s) (a : Reg) (v : BitVec 64) :
    ∃ u n, n ≥ s.cycle + 2 ∧ u.me = s.me ∧ WritesG u (s.readEngine a v) a v n := by
  obtain ⟨u, hread, hjournal⟩ := State.journalled_of_afresh hafresh v
  have hengine : s.readEngine a v = u.wait.2.wg a v (2 + u.wait.1) := by simp only [State.readEngine, hread]
  have hme : u.wait.2.me = s.me := by
    show u.body u.cur.core = s.body s.cur.core
    rw [hjournal.cur_eq, hjournal.body_eq]
  refine ⟨u.wait.2, u.cycle + (2 + u.wait.1), ?_, hme, ?_⟩
  · rw [hjournal.cycle_eq]
    omega
  · rw [hengine]
    exact writesG_wg ..

/-! The instructions of the K slot (R377, R390-R392) -/

theorem State.task_wg (s : State) (r : Reg) (v : BitVec 64) (lat : Nat) (d : CoreId) : (s.wg r v lat).task d = s.task d := State.task_modBody ..

section
variable {s : State} {q : Qual} {a b : Reg} (hacts : s.acts q = true)
include hacts

theorem execRnext_of_some {p : Piece} (hpiece : (s.task s.cur.core).piece = some p) (hafresh : ReadsAfresh s) (hsome : p.cursor < p.hi) :
    Completes (execRnext q a s) fun t => ∃ u n, n ≥ s.cycle + 2 ∧
      (t.task s.cur.core).piece = some { p with cursor := min (p.cursor + p.entry.grain) p.hi } ∧
      WritesG u t a (BitVec.ofNat 32 (min (p.cursor + p.entry.grain) p.hi) ++ BitVec.ofNat 32 p.cursor) n ∧ u.me = s.me := by
  obtain ⟨u, hread, hjournal⟩ := State.journalled_of_afresh hafresh
    (BitVec.ofNat 32 (min (p.cursor + p.entry.grain) p.hi) ++ BitVec.ofNat 32 p.cursor)
  obtain ⟨w, hw⟩ : ∃ w, w = u.modTask s.cur.core fun t => { t with piece := some { p with cursor := min (p.cursor + p.entry.grain) p.hi } } := ⟨_, rfl⟩
  have hnone : s.cores[s.cur.core].journalRead.2.1.isSome = false := by rw [show _ = none from hafresh]; rfl
  have hexec : execRnext q a s = .next (w.wait.2.wg a (BitVec.ofNat 32 (min (p.cursor + p.entry.grain) p.hi) ++ BitVec.ofNat 32 p.cursor)
      (2 + w.wait.1)) := by
    simp only [execRnext, if_pos hacts, hpiece, hsome, if_true, hread, hnone, hsome.not_ge, Bool.false_eq_true, or_self, if_false, hw]
  have hcycle : w.cycle = s.cycle := by rw [hw]; exact hjournal.cycle_eq
  have hme : w.me = s.me := by
    rw [hw, State.me, State.body_modTask]
    show u.body u.cur.core = s.body s.cur.core
    rw [hjournal.cur_eq, hjournal.body_eq]
  refine ⟨_, hexec, w.wait.2, w.cycle + (2 + w.wait.1), ?_, ?_, writesG_wg .., hme⟩
  · rw [hcycle]
    omega
  · rw [State.task_wg]
    show (w.task s.cur.core).piece = _
    rw [hw, State.task_modTask_same]

theorem execJoin_of_childless (hmode : s.pre.handler = false) (hnone : (s.task s.cur.core).children = 0) : execJoin q s = .next s := by
  simp only [execJoin, if_pos hacts, hmode, Bool.false_eq_true, if_false, hnone, if_true]

/-- A task whose join period is over. -/
def Task.openPeriod (t : Task) : Task := { t with children := 0, closed := false }

theorem execJoin_of_joined (hmode : s.pre.handler = false) (hsome : (s.task s.cur.core).children ≠ 0) (hclosed : (s.task s.cur.core).closed = true)
    (hjoined : s.joined (s.task s.cur.core) (s.teamOf s.cur.core) = true) :
    execJoin q s = .next { s.modTask s.cur.core Task.openPeriod with
      nodes := s.nodes.filter fun n => !(n.parent.isSome && n.parent == (s.task s.cur.core).node) } := by
  simp only [execJoin, if_pos hacts, hmode, Bool.false_eq_true, if_false, if_neg hsome, hclosed, Bool.true_eq_false, hjoined, if_true]
  rfl

theorem execEndt_of_idle {id : Nat} (hmode : s.pre.handler = false) (hnone : (s.task s.cur.core).children = 0)
    (hrunning : (s.task s.cur.core).state = some .running) (hdrain : s.drainHere = some id) (hdone : s.unperformed s.cur.core id .t = [])
    (hcommands : s.me.commands = []) (hreports : s.me.reports = []) (hsignals : s.me.signals = []) (harriving : s.arriving s.cur.core = false)
    (hviews : s.pre.holdsViews = false) : execEndt q s = .next (s.endTask s.cur.core) := by
  simp only [execEndt, if_pos hacts, hmode, hnone, Nat.lt_irrefl, Bool.false_eq_true, or_self, if_false, hrunning, whenDrained_of_performed hdrain hdone,
    hcommands, hreports, hsignals, harriving, hviews, ne_eq, not_true_eq_false]

theorem execTinfoState_of_core {x : Team} {c : CoreId} {st : TaskState} (hteam : s.teamOf s.cur.core = some x)
    (hcore : (s.rg b).toNat < s.pre.sys.teamCores.toNat) (hc : x.cores[(s.rg b).toNat]? = some c) (hstate : (s.task c).state = some st) :
    execTinfoState q a b s = .next (s.readEngine a st.code) := by
  simp only [execTinfoState, if_pos hacts, if_neg hcore.not_ge, hteam, Option.bind_some, hc, hstate, Option.map_some, Option.getD_some]

theorem execTinfoQueue_of_team {x : Team} (hteam : s.teamOf s.cur.core = some x) : execTinfoQueue q a s =
    .next (s.readEngine a (.ofNat 64 (x.ranges.length + if s.rangeFrozen x then 128 else 0))) := by
  simp only [execTinfoQueue, if_pos hacts, hteam]

end

/-- The node of a core's task is over. -/
def State.closeNode (s : State) (c : CoreId) : State :=
  match (s.task c).node with
  | some n => s.modNode n fun n => { n with ended := true, merged := true }
  | none => s

/-- The registers of a core whose task is over: no declared view stays. -/
def Body.endTask (b : Body) : Body :=
  { b.stopBroadcast with vts := Vec.map (fun e => if e.held then e else { e with valid := false }) b.vts }

theorem State.closeNode_coresMem (s : State) (c : CoreId) : s.CoresMem (s.closeNode c) := by
  unfold State.closeNode
  split <;> exact .refl s

theorem State.endTask_eq (s : State) (c : CoreId) : s.endTask c = ((s.closeNode c).modBody c Body.endTask).modTask c fun t =>
    { t with state := some .ended, endedAt := s.cycle, piece := none, fault := none } := by
  unfold State.endTask State.closeNode
  cases (s.task c).node <;> rfl

theorem Body.held_of_endTask (b : Body) (v : Fin 8) (hvalid : (b.endTask.vts[v]).valid = true) : (b.endTask.vts[v]).held = true := by
  have hview : b.endTask.vts[v] = if b.vts[v].held then b.vts[v] else { b.vts[v] with valid := false } := Vec.getElem_map ..
  rw [hview] at hvalid ⊢
  split at hvalid
  next hheld => rwa [if_pos hheld]
  next => cases hvalid

/-- What the end of a task leaves. -/
theorem State.endTask_leaves (s : State) (c : CoreId) :
    let t := s.endTask c
    (t.task c).state = some .ended ∧ (t.task c).endedAt = s.cycle ∧ (t.body c).brun = false ∧
      (∀ v : Fin 8, ((t.body c).vts[v]).valid = true → ((t.body c).vts[v]).held = true) ∧ (t.body c).g = (s.body c).g ∧ t.mem = s.mem := by
  have hbody : (s.closeNode c).body c = s.body c := congrArg (fun v => v[c].b) (s.closeNode_coresMem c).1
  simp only [State.endTask_eq, State.task_modTask_same, State.body_modTask, State.body_modBody_same, hbody]
  exact ⟨trivial, trivial, rfl, Body.held_of_endTask _, rfl, (s.closeNode_coresMem c).2⟩

/-- Settles O31: each form by the checks that it passes and what it leaves. -/
theorem tasksJoinAndEnd : Obligations.TasksJoinAndEnd := by
  intro s q a b hacts t0
  refine ⟨fun p hpiece hafresh hsome => execRnext_of_some hacts hpiece hafresh hsome, fun hmode hnone => execJoin_of_childless hacts hmode hnone,
    fun hmode hsome hclosed hjoined => ⟨_, execJoin_of_joined hacts hmode hsome hclosed hjoined, ?joined⟩,
    fun id hmode hnone hrunning hdrain hdone hcommands hreports hsignals harriving hviews => ⟨_, execEndt_of_idle hacts hmode hnone hrunning hdrain
      hdone hcommands hreports hsignals harriving hviews, ?ended⟩,
    completes_of_acts hacts (writesG_wg ..), completes_of_acts hacts (writesG_wg ..),
    fun x c st hafresh hteam hcore hc hstate => ?state, fun x hafresh hteam => ?queue⟩
  case joined =>
    have htask : (s.modTask s.cur.core Task.openPeriod).task s.cur.core = t0.openPeriod := State.task_modTask_same ..
    exact ⟨congrArg Task.children htask, congrArg Task.closed htask, fun d => s.body_modTask s.cur.core d Task.openPeriod, rfl, rfl⟩
  case ended =>
    have hcur : (s.endTask s.cur.core).cur = s.cur := by
      rw [State.endTask_eq]
      unfold State.closeNode
      split <;> rfl
    have hme : (s.endTask s.cur.core).me = (s.endTask s.cur.core).body s.cur.core := congrArg (s.endTask s.cur.core).body (congrArg Cur.core hcur)
    dsimp only
    rw [hme]
    exact s.endTask_leaves s.cur.core
  case state =>
    obtain ⟨u, n, hn, hme, hwrites⟩ := State.readEngine_leaves hafresh a st.code
    exact ⟨_, execTinfoState_of_core hacts hteam hcore hc hstate, u, n, hn, hme, hwrites⟩
  case queue =>
    obtain ⟨u, n, hn, hme, hwrites⟩ := State.readEngine_leaves hafresh a (.ofNat 64 (x.ranges.length + if s.rangeFrozen x then 128 else 0))
    exact ⟨_, execTinfoQueue_of_team hacts hteam, u, n, hn, hme, hwrites⟩

end Sys2Proof.Machine
end

section
/-!
Proofs for O32: views that are declared and dropped.
-/
namespace Sys2Proof.Machine

/-! Views (R380, R381) -/

/-- The entry of a view that the instruction under way declares. -/
def State.declaredView (s : State) (a b : Reg) (op : Fin 8) (gal : Bool) : ViewEntry :=
  { valid := true, held := false, gal, op, planes := (s.rg b).extractLsb' 60 4, linesM1 := .ofNat 14 (((s.rg b).extractLsb' 0 32).toNat / 128 - 1)
    home := (s.rg b).extractLsb' 32 21, base := (s.rg a).extractLsb' 0 56, touched := [], serial := s.issueNo }

section
variable {s : State} {q : Qual} {a b : Reg} {vt op : Fin 8} {gal : Bool} (hacts : s.acts q = true)
include hacts

theorem execVdecl_of_good (hfree : (s.pre.vts[vt]).valid = false) (hnone : (s.task s.cur.core).children = 0) (hmode : s.pre.handler = false)
    (hzero : (s.rg b).extractLsb' 53 7 = 0#7) (hgood : vdeclFault s.pre.vts (s.rg a).toNat ((s.rg b).extractLsb' 0 32).toNat
      ((s.rg b).extractLsb' 32 21).toNat ((s.rg b).extractLsb' 60 4).toNat op gal = none) :
    execVdecl q a b vt op gal s = .next (s.modMe fun m => { m with vts := m.vts.set vt (s.declaredView a b op gal) }) := by
  simp only [execVdecl, if_pos hacts, hfree, hnone, hmode, hzero, hgood, Nat.lt_irrefl, ne_eq, not_true_eq_false, Bool.false_eq_true, or_self, if_false]
  rfl

theorem execVdecl_of_parent (hsome : 0 < (s.task s.cur.core).children) : execVdecl q a b vt op gal s = .next (s.raise .illegalOp) := by
  simp only [execVdecl, if_pos hacts, hsome, true_or, or_true, if_true]

theorem execVdrop_of_parent (hsome : 0 < (s.task s.cur.core).children) : execVdrop q vt s = .next (s.raise .illegalOp) := by
  simp only [execVdrop, if_pos hacts, hsome, true_or, if_true]

theorem execVdrop_of_invalid (hnone : (s.task s.cur.core).children = 0) (hfree : (s.pre.vts[vt]).valid = false) : execVdrop q vt s = .next s := by
  simp only [execVdrop, if_pos hacts, hnone, hfree, Nat.lt_irrefl, Bool.false_eq_true, false_and, or_self, if_false, if_true]

theorem execVdrop_of_declared (hnone : (s.task s.cur.core).children = 0) (hvalid : (s.pre.vts[vt]).valid = true)
    (hdeclared : (s.pre.vts[vt]).held = false) (hidle : s.pre.copyUnder s.pre.vts[vt] = false) :
    execVdrop q vt s = .next (s.modMe fun m => { m with vts := m.vts.set vt {} }) := by
  simp only [execVdrop, if_pos hacts, hnone, hvalid, hdeclared, hidle, Nat.lt_irrefl, Bool.false_eq_true, Bool.true_eq_false, and_false, or_self,
    if_false]

end

/-- Settles O32: each form by the checks that it passes. -/
theorem viewsDeclareAndDrop : Obligations.ViewsDeclareAndDrop := by
  intro s q a b vt op gal hacts v len
  have hlen : ((s.rg b).extractLsb' 0 32).toNat = len := by simp [len, v]
  refine ⟨fun hfree hnone hmode hzero hgood => ?declared, fun hnone => ⟨fun hfree => execVdrop_of_invalid hacts hnone hfree,
      fun hvalid hdeclared hidle => ⟨_, execVdrop_of_declared hacts hnone hvalid hdeclared hidle, State.modMe_becomes ⟨rfl, rfl, rfl, rfl⟩⟩⟩,
    fun htrap hslot hsome => ⟨⟨_, execVdecl_of_parent hacts hsome, State.raise_of_control htrap hslot _ _⟩,
      ⟨_, execVdrop_of_parent hacts hsome, State.raise_of_control htrap hslot _ _⟩⟩⟩
  case declared =>
    intro view
    have hview : s.declaredView a b op gal = view := by rw [State.declaredView, hlen, extractLsb'_zero]
    refine ⟨_, execVdecl_of_good hacts hfree hnone hmode hzero (by rw [hlen]; exact hgood), ?_⟩
    rw [hview]
    exact State.modMe_becomes ⟨rfl, rfl, rfl, rfl⟩

end Sys2Proof.Machine
end

section
/-!
Proofs for O29: the instructions of flight mode.
-/
namespace Sys2Proof.Machine

/-! Flight instructions (R397, R402-R404, R408, R411) -/

/-- A vector that is taken from a port. -/
def State.taking (s : State) (port : Fin 4) : State := { s with cur := { s.cur with taken := s.cur.taken ++ [port] } }

theorem State.take_of_present {s : State} {port : Fin 4} {v : List (BitVec 8)} (hpresent : s.present s.cur.core port = some v)
    (k : List (BitVec 8) → State → State) : s.take port k = k v (s.taking port) := by
  have htaken : (s.taking port).present s.cur.core port = some v := hpresent
  unfold State.taking at *
  simp only [State.take, htaken]

theorem vectorAddr_of_good {s : State} {a : BitVec 64} (haligned : a.toNat % 256 = 0) (hinside : a.toNat + 256 ≤ 0x200000)
    (k : Nat → State → State) : vectorAddr a k s = k a.toNat s := by
  have hspace : inSpace .gal a.toNat 256 = true := decide_eq_true hinside
  rw [vectorAddr, if_neg (not_not.mpr haligned), if_pos hspace]

theorem State.sendVector_of_neighbour {s : State} {x : Team} {d : CoreId} {port : Fin 4} (hteam : s.teamOf s.cur.core = some x)
    (hd : x.neighbour s.cur.core port = some d) (bs : List (BitVec 8)) :
    s.sendVector port bs = { s with wires := s.wires ++ [⟨d, facing port, s.cycle + hopDelay s.cur.core d, bs⟩] } := by
  simp only [State.sendVector, hteam, Option.bind_some, hd]

section
variable {s : State} {q : Qual} {a : Reg} {port po : Fin 4} (hacts : s.acts q = true)
include hacts

theorem execFlbar_of_start {x : Team} {at_ : Nat} {n : BitVec 9} (hteam : s.teamOf s.cur.core = some x) (hrect : x.kernel.rect ≠ none)
    (hmode : s.pre.handler = false) (hphase : s.pre.inPhase = false) (hloaded : ∀ l ∈ s.preload n.toNat, lookup s.cores[s.cur.core].icache l ≠ none)
    (harrived : (s.task s.cur.core).arrived = true) (hstart : x.start = some at_) (hnear : at_ ≤ s.cycle + 1) :
    execFlbar q a n s = .next ((s.wg a (.ofNat 64 at_)).modMe fun b => { b with flight := { b.flight with lost := 0 } }) := by
  have hnone : (s.preload n.toNat).find? (fun l => (lookup s.cores[s.cur.core].icache l).isNone) = none := by
    refine List.find?_eq_none.mpr fun l hl => ?_
    rw [Option.isNone_iff_eq_none]
    exact hloaded l hl
  simp only [execFlbar, if_pos hacts, hteam, hmode, hrect, hphase, Bool.false_eq_true, or_self, if_false, hnone, harrived, hstart,
    if_neg hnear.not_gt]

theorem execFlend_outside (hphase : s.pre.inPhase = false) : execFlend q a s = .next (s.wg a s.me.flight.word) := by
  simp only [execFlend, if_pos hacts, hphase, Bool.false_eq_true, if_false]

theorem execFlend_inside (hphase : s.pre.inPhase = true) :
    execFlend q a s = .next ((s.leavePhase s.cur.core 0 0).wg a (s.leavePhase s.cur.core 0 0).me.flight.word) := by
  simp only [execFlend, if_pos hacts, hphase, if_true]

theorem execXmit_of_neighbour {x : Team} {d : CoreId} (hteam : s.teamOf s.cur.core = some x) (hd : x.neighbour s.cur.core port = some d)
    (haligned : (s.rg a).toNat % 256 = 0) (hinside : (s.rg a).toNat + 256 ≤ 0x200000) : execXmit q a port s =
      .next { s with wires := s.wires ++ [⟨d, facing port, s.cycle + hopDelay s.cur.core d, s.pre.read .gal (s.rg a).toNat 256⟩] } := by
  rw [execXmit, if_pos hacts, vectorAddr_of_good haligned hinside, State.sendVector_of_neighbour hteam hd]

variable {v : List (BitVec 8)} (hpresent : s.present s.cur.core port = some v)
include hpresent

theorem execXsel_of_present (haligned : (s.rg a).toNat % 256 = 0) (hinside : (s.rg a).toNat + 256 ≤ 0x200000) :
    execXsel q a port s = .next ((s.taking port).later 5 .gal (s.rg a).toNat v) := by
  rw [execXsel, if_pos hacts, vectorAddr_of_good haligned hinside, State.take_of_present hpresent]

theorem execXfwd_of_present {x : Team} {d : CoreId} (hteam : s.teamOf s.cur.core = some x) (hd : x.neighbour s.cur.core po = some d) :
    execXfwd q port po s = .next { s.taking port with wires := s.wires ++ [⟨d, facing po, s.cycle + hopDelay s.cur.core d, v⟩] } := by
  have hteam' : (s.taking port).teamOf (s.taking port).cur.core = some x := hteam
  have hsome : ((s.teamOf s.cur.core).bind (·.neighbour s.cur.core po)).isNone = false := by rw [hteam, Option.bind_some, hd]; rfl
  rw [execXfwd, if_pos hacts, hsome, if_neg Bool.false_ne_true, State.take_of_present hpresent, State.sendVector_of_neighbour hteam' hd]
  rfl

end

theorem State.inPhase_leavePhase (s : State) (c : CoreId) (reason : Fin 16) (port : Fin 4) : ((s.leavePhase c reason port).body c).inPhase = false := by
  simp [State.body, State.leavePhase]

/-- Settles O29: each form by the checks that it passes and what it writes, sends or takes. -/
theorem flightInstructions : Obligations.FlightInstructions := by
  intro s q a port po n hacts
  refine ⟨fun x at_ hteam hrect hmode hphase hloaded harrived hstart hnear => ?start, fun hphase => ⟨_, execFlend_outside hacts hphase, writesG_wg ..⟩,
    fun hphase => ⟨_, execFlend_inside hacts hphase, _, rfl, State.inPhase_leavePhase .., writesG_wg ..⟩,
    fun x d hteam hd haligned hinside => ⟨_, execXmit_of_neighbour hacts hteam hd haligned hinside, rfl⟩,
    fun v hpresent => ⟨fun haligned hinside => ?taken, fun x d hteam hd => ⟨_, execXfwd_of_present hacts hpresent hteam hd, rfl⟩⟩,
    completes_of_acts hacts rfl⟩
  case start =>
    obtain ⟨hbytes, hbecomes⟩ := State.modMe_becomes (s := s.wg a (.ofNat 64 at_)) (f := fun b => { b with flight := { b.flight with lost := 0 } })
      ⟨rfl, rfl, rfl, rfl⟩
    exact ⟨_, execFlbar_of_start hacts hteam hrect hmode hphase hloaded harrived hstart hnear, _, writesG_wg .., hbytes, hbecomes⟩
  case taken =>
    obtain ⟨hbytes, hbecomes⟩ := (s.taking port).later_becomes 5 .gal (s.rg a).toNat v
    exact ⟨_, execXsel_of_present hacts hpresent haligned hinside, _, rfl, hbytes, hbecomes⟩

end Sys2Proof.Machine
end

section
/-!
Requests that move on: what a change of a request, a packet and an answer leave; places in memory.
-/
namespace Sys2Proof.Machine

/-! Requests that move on -/

theorem State.request?_putRequest {s : State} {x y : Request} (h : s.request? y.id = some x) : (s.putRequest y).request? y.id = some y := by
  unfold State.request? at h
  show (s.requests.map fun x => if x.id = y.id then y else x).find? (·.id == y.id) = some y
  generalize s.requests = rs at h
  induction rs with
  | nil => cases h
  | cons r rs ih =>
    rw [List.map_cons]
    by_cases hr : r.id = y.id
    · rw [if_pos hr, List.find?_cons_of_pos (by simp)]
    · rw [List.find?_cons_of_neg (by simp [hr])] at h
      rw [if_neg hr, List.find?_cons_of_neg (by simp [hr])]
      exact ih h

theorem State.request?_dropRequest (s : State) (id : Nat) : (s.dropRequest id).request? id = none := by
  refine List.find?_eq_none.mpr fun x hx => ?_
  simpa using (List.mem_filter.mp hx).2

theorem State.id_of_request? {s : State} {id : Nat} {r : Request} (h : s.request? id = some r) : r.id = id := by
  simpa using List.find?_some h

theorem State.mem_of_request? {s : State} {id : Nat} {r : Request} (h : s.request? id = some r) : r ∈ s.requests := List.mem_of_find?_eq_some h

theorem movesOn_imp {s t : State} {id : Nat} {P Q : Request → Prop} (h : MovesOn s t id P) (hPQ : ∀ x, P x → Q x) : MovesOn s t id Q := by
  obtain ⟨⟨x, hx, hP⟩, hrest⟩ := h
  exact ⟨⟨x, hx, hPQ x hP⟩, hrest⟩

/-- What does not touch cores and memory may come before. -/
theorem movesOn_of_coresMem {s u t : State} {id : Nat} {P : Request → Prop} (h : MovesOn u t id P) (hsu : s.CoresMem u) : MovesOn s t id P :=
  ⟨h.1, h.2.1.trans hsu.2, h.2.2.trans hsu.1⟩

theorem State.putRequest_moves {s : State} {x y : Request} (h : s.request? y.id = some x) : MovesOn s (s.putRequest y) y.id (· = y) :=
  ⟨⟨y, State.request?_putRequest h, rfl⟩, rfl, rfl⟩

/-- A request that is the same but for its way: its stage, its routers and its times. -/
def Request.Along (r x : Request) : Prop :=
  x = { r with stage := x.stage, due := x.due, sentAt := x.sentAt, last := x.last, escaped := x.escaped, at_ := x.at_, since := x.since }

/-- A request that has set out as a packet. -/
theorem State.sendPacket_moves {s : State} {r y : Request} (h : s.request? r.id = some y) (a b : Fin 8) (stage : Stage) (counted : Bool) :
    MovesOn s (s.sendPacket r a b stage counted) r.id fun x =>
      r.Along x ∧ x.stage = stage ∧ x.at_ = a ∧ x.last = b ∧ s.cycle + 8 < x.due ∧ s.cycle < x.sentAt ∧ x.escaped = false := by
  refine ⟨⟨_, State.request?_putRequest (s := { s with fresh := _, sent := _ }) h, rfl, rfl, rfl, rfl, ?_, ?_, rfl⟩, rfl, rfl⟩
  · show s.cycle + 8 < s.cycle + 1 + s.budgetWait a { r with stage } + 8 + _
    omega
  · show s.cycle < s.cycle + 1 + s.budgetWait a { r with stage }
    omega

/-- An answer sets out through the core's own slice or over the concourse. -/
theorem State.answer_moves {s : State} {r y : Request} (h : s.request? r.id = some y) :
    MovesOn s (s.answer r) r.id fun x => r.Along x ∧ (x.stage = .back ∨ x.stage = .packetBack) := by
  have hback (b : Fin 8) (counted : Bool) : MovesOn s (s.sendPacket r (s.servedAt r) b .packetBack counted) r.id fun x =>
      r.Along x ∧ (x.stage = .back ∨ x.stage = .packetBack) :=
    movesOn_imp (State.sendPacket_moves h _ b .packetBack counted) fun x hx => ⟨hx.1, .inr hx.2.1⟩
  unfold State.answer
  split
  · exact hback _ _
  · split
    · refine movesOn_imp (State.putRequest_moves (y := { r with stage := .back, due := _ }) h) fun x hx => ?_
      rw [hx]
      exact ⟨rfl, .inl rfl⟩
    · exact hback _ _

theorem State.refuse_moves {s : State} {r y : Request} (h : s.request? r.id = some y) (c : Cause) :
    MovesOn s (s.refuse r c) r.id fun x => Request.Along { r with fault := some c } x ∧ (x.stage = .back ∨ x.stage = .packetBack) :=
  State.answer_moves (r := { r with fault := some c }) h

/-! Places (R463) -/

theorem State.placeTag_frame (s : State) (asn : BitVec 12) (v : VA) : (s.placeTag asn v).2 = { s with hall := (s.placeTag asn v).2.hall } := by
  unfold State.placeTag
  split <;> rfl

theorem State.placeTag_coresMem (s : State) (asn : BitVec 12) (v : VA) : s.CoresMem (s.placeTag asn v).2 := by
  rw [State.placeTag_frame]
  exact ⟨rfl, rfl⟩

theorem State.request?_placeTag (s : State) (asn : BitVec 12) (v : VA) (id : Nat) : (s.placeTag asn v).2.request? id = s.request? id := by
  rw [State.placeTag_frame]
  rfl

theorem State.places_placeWrite (s : State) (pa : Nat) (bs : List (BitVec 8)) : Places s (s.placeWrite pa bs) pa bs :=
  ⟨(s.noteMigration pa bs.length).physRead_physWrite_same pa bs, fun a ha => (s.noteMigration pa bs.length).physRead_physWrite_outside pa a bs ha⟩

theorem places_of_mem {s t u v : State} {pa : Nat} {bs : List (BitVec 8)} (h : Places u v pa bs) (hu : u.mem = s.mem) (ht : t.mem = v.mem) :
    Places s t pa bs := by
  have hreads (x y : State) (hxy : x.mem = y.mem) (a n : Nat) : x.physRead a n = y.physRead a n := congrArg (readBytes · a n) hxy
  refine ⟨(hreads t v ht _ _).trans h.1, fun a ha => ?_⟩
  rw [hreads t v ht, h.2 a ha, hreads u s hu]

end Sys2Proof.Machine
end

section
/-!
Proofs for O51, on atomics and reductions at their engine.
-/
namespace Sys2Proof.Machine

/-! Bytes of words side by side -/

theorem bytesLE_add (n m v : Nat) : bytesLE (n + m) v = bytesLE n v ++ bytesLE m (v / 256 ^ n) := by
  induction n generalizing v with
  | zero => simp [bytesLE]
  | succ n ih =>
    rw [Nat.add_right_comm, bytesLE, bytesLE, ih, List.cons_append, Nat.div_div_eq_div_mul, Nat.pow_succ']

theorem bytesLE_mod (n v : Nat) : bytesLE n (v % 256 ^ n) = bytesLE n v := by
  induction n generalizing v with
  | zero => rfl
  | succ n ih =>
    rw [bytesLE, bytesLE, Nat.pow_succ', Nat.mod_mul_right_div_self, ih]
    refine congrArg (· :: _) (BitVec.eq_of_toNat_eq ?_)
    rw [BitVec.toNat_ofNat, BitVec.toNat_ofNat, Nat.mod_mod_of_dvd _ ⟨_, rfl⟩]

/-- The bytes of two words side by side, the low one first. -/
theorem bytesLE_append {w v : Nat} (n m : Nat) (hi : BitVec v) (lo : BitVec w) (hw : 2 ^ w = 256 ^ n) :
    bytesLE (n + m) (hi ++ lo).toNat = bytesLE n lo.toNat ++ bytesLE m hi.toNat := by
  have hval : (hi ++ lo).toNat = 256 ^ n * hi.toNat + lo.toNat := by
    rw [BitVec.toNat_append, ← Nat.shiftLeft_add_eq_or_of_lt lo.isLt, Nat.shiftLeft_eq, hw, Nat.mul_comm]
  have hlt : lo.toNat < 256 ^ n := hw ▸ lo.isLt
  have hlow : (hi ++ lo).toNat % 256 ^ n = lo.toNat := by rw [hval, Nat.mul_add_mod, Nat.mod_eq_of_lt hlt]
  have hhigh : (hi ++ lo).toNat / 256 ^ n = hi.toNat := by rw [hval, Nat.mul_add_div (Nat.zero_lt_of_lt hlt), Nat.div_eq_of_lt hlt, Nat.add_zero]
  rw [bytesLE_add, hhigh, ← bytesLE_mod, hlow]


/-! Operations at the engines (R350-R356) -/

theorem answered_of_moves {s t : State} {r y : Request} {v : BitVec 64} {f : Option Cause}
    (h : MovesOn s t y.id fun x => y.Along x ∧ (x.stage = .back ∨ x.stage = .packetBack)) (hid : y.id = r.id) (hcore : y.core = r.core)
    (hvalue : y.value = v) (hfault : y.fault = f) : Answered t r v f := by
  obtain ⟨⟨x, hx, halong, hstage⟩, -, -⟩ := h
  refine ⟨x, hid ▸ hx, ?_, ?_, ?_, hstage⟩
  · rw [halong]; exact hcore
  · rw [halong]; exact hvalue
  · rw [halong]; exact hfault

/-- A refused request has its cause. -/
theorem refused_of_moves {s t : State} {r : Request} {c : Cause}
    (h : MovesOn s t r.id fun x => Request.Along { r with fault := some c } x ∧ (x.stage = .back ∨ x.stage = .packetBack)) :
    t.mem = s.mem ∧ ∃ y, t.request? r.id = some y ∧ y.fault = some c := by
  obtain ⟨⟨x, hx, halong, -⟩, hmem, -⟩ := h
  exact ⟨hmem, x, hx, by rw [halong]⟩

/-- A write at its place, then the answer with the line's new tag. -/
theorem State.performWrite_leaves {s : State} {r y : Request} (h : s.request? r.id = some y) (bs : List (BitVec 8)) :
    Places s (s.performWrite r bs) r.pa bs ∧ Answered (s.performWrite r bs) r r.value r.fault ∧ (bs = [] → (s.performWrite r bs).mem = s.mem) := by
  obtain ⟨p, hp⟩ : ∃ p, p = s.placeTag r.asn r.va := ⟨_, rfl⟩
  have hmem : p.2.mem = s.mem := hp ▸ (s.placeTag_coresMem r.asn r.va).2
  have hrequest : p.2.request? r.id = some y := by rw [hp, State.request?_placeTag, h]
  by_cases hbs : bs = []
  · subst hbs
    have hperform : s.performWrite r [] = p.2.answer { r with tag := p.1 } := by rw [hp]; rfl
    have hmoves := State.answer_moves (r := { r with tag := p.1 }) hrequest
    rw [hperform]
    refine ⟨places_of_mem (u := s) (v := s) ⟨rfl, fun _ _ => rfl⟩ rfl (hmoves.2.1.trans hmem), answered_of_moves hmoves rfl rfl rfl rfl,
      fun _ => hmoves.2.1.trans hmem⟩
  · have hperform : s.performWrite r bs = (p.2.placeWrite r.pa bs).answer { r with tag := p.1 } := by
      rw [hp]
      exact congrArg (State.answer · _) (if_neg (by simpa using hbs))
    have hmoves := State.answer_moves (s := p.2.placeWrite r.pa bs) (r := { r with tag := p.1 }) hrequest
    rw [hperform]
    exact ⟨places_of_mem (p.2.places_placeWrite r.pa bs) hmem hmoves.2.1, answered_of_moves hmoves rfl rfl rfl rfl, fun h => absurd h hbs⟩

/-- The record of a reduction after one more value, as bytes. -/
theorem bytesLE_record (hi : BitVec 64) (count : BitVec 32) (arrived n : BitVec 16) (last acc : BitVec 64) :
    bytesLE 32 (hi ++ count ++ arrived ++ n ++ last ++ acc).toNat =
      bytesLE 8 acc.toNat ++ bytesLE 8 last.toNat ++ bytesLE 2 n.toNat ++ bytesLE 2 arrived.toNat ++ bytesLE 4 count.toNat ++ bytesLE 8 hi.toNat := by
  rw [bytesLE_append 8 24 _ acc rfl, bytesLE_append 8 16 _ last rfl, bytesLE_append 2 14 _ n rfl, bytesLE_append 2 12 _ arrived rfl,
    bytesLE_append 4 8 hi count rfl]
  simp only [List.append_assoc]

theorem reduceRecord_of_some {op : ReduceOp} {v acc : BitVec 64} {x : BitVec 256} {arrived : BitVec 16} (hsome : x.extractLsb' 128 16 ≠ 0)
    (harrived : arrived = if x.extractLsb' 128 16 ≤ x.extractLsb' 144 16 then 0 else x.extractLsb' 144 16)
    (hacc : acc = if arrived = 0 then v else op.combine (x.extractLsb' 0 64) v) :
    reduceRecord op v x = (acc, some (x.extractLsb' 192 64 ++ (x.extractLsb' 160 32 + if arrived + 1 = x.extractLsb' 128 16 then 1 else 0) ++
      (if arrived + 1 = x.extractLsb' 128 16 then 0 else arrived + 1) ++ x.extractLsb' 128 16 ++
      (if arrived + 1 = x.extractLsb' 128 16 then acc else x.extractLsb' 64 64) ++ acc)) := by
  subst hacc harrived
  exact if_neg hsome

section
variable {s : State} {r : Request} (hr : s.request? r.id = some r) (hready : s.engineReady r = true) (hclean : s.poison.contains (r.pa / 128) = false)
include hr hready hclean

theorem execAtomicPerform_of_ready {op : AtomicOp} {v k : BitVec 64} {d : Reg} (hop : r.op = .atomic op v k d) :
    Completes (execAtomicPerform r.id s) fun t =>
      let old := BitVec.ofNat 64 (natLE (s.physRead r.pa r.size))
      Places s t r.pa (bytesLE r.size (op.new old v k).1.toNat) ∧ Answered t r old r.fault := by
  have hexec : execAtomicPerform r.id s = .next (s.performWrite { r with
      value := BitVec.ofNat 64 (natLE (s.physRead r.pa r.size)), notes := (op.new (BitVec.ofNat 64 (natLE (s.physRead r.pa r.size))) v k).2 }
      (bytesLE r.size (op.new (BitVec.ofNat 64 (natLE (s.physRead r.pa r.size))) v k).1.toNat)) := by
    simp only [execAtomicPerform, hr, hready, if_true, State.performAtomic, hop, hclean, Bool.false_eq_true, if_false]
  obtain ⟨hplaces, hanswered, -⟩ := State.performWrite_leaves (s := s) (r := { r with
      value := BitVec.ofNat 64 (natLE (s.physRead r.pa r.size)), notes := (op.new (BitVec.ofNat 64 (natLE (s.physRead r.pa r.size))) v k).2 }) hr
    (bytesLE r.size (op.new (BitVec.ofNat 64 (natLE (s.physRead r.pa r.size))) v k).1.toNat)
  exact ⟨_, hexec, hplaces, hanswered⟩

section
variable {op : ReduceOp} {v : BitVec 64} {armed : Bool} {cores : Nat} {d : Reg} (hop : r.op = .reduce op v armed cores d) {x : BitVec 256}
  (hx : x = BitVec.ofNat 256 (natLE (s.physRead r.pa 32)))
include hop hx

theorem execReductionPerform_of_range (harmed : armed = true) (hmany : cores < (x.extractLsb' 128 16).toNat) :
    execReductionPerform r.id s = .next (s.refuse r .participantRange) := by
  simp only [execReductionPerform, hr, hready, if_true, State.performReduce, hop, hclean, Bool.false_eq_true, if_false, ← hx, harmed, hmany, and_self]

theorem execReductionPerform_of_idle (hgood : ¬(armed = true ∧ cores < (x.extractLsb' 128 16).toNat)) {w : BitVec 64}
    (hrecord : reduceRecord op v x = (w, none)) : execReductionPerform r.id s = .next (s.performWrite { r with value := w } []) := by
  simp only [execReductionPerform, hr, hready, if_true, State.performReduce, hop, hclean, Bool.false_eq_true, if_false, ← hx, if_neg hgood, hrecord]

theorem execReductionPerform_of_record (hgood : ¬(armed = true ∧ cores < (x.extractLsb' 128 16).toNat)) {w : BitVec 64} {y : BitVec 256}
    (hrecord : reduceRecord op v x = (w, some y)) :
    Completes (execReductionPerform r.id s) fun t => Answered t r w r.fault ∧ Places s t r.pa (bytesLE 32 y.toNat) := by
  have hexec : execReductionPerform r.id s = .next (s.performWrite { r with value := w } (bytesLE 32 y.toNat)) := by
    simp only [execReductionPerform, hr, hready, if_true, State.performReduce, hop, hclean, Bool.false_eq_true, if_false, ← hx, if_neg hgood, hrecord]
  obtain ⟨hplaces, hanswered, -⟩ := State.performWrite_leaves (s := s) (r := { r with value := w }) hr (bytesLE 32 y.toNat)
  exact ⟨_, hexec, hanswered, hplaces⟩

end

end

/-- Atomics and reductions of O51. -/
theorem atomicsPerform {s : State} {r : Request} (hr : s.request? r.id = some r) : AtomicsPerform s r := by
  intro hready hclean
  refine ⟨fun op v k d hop => execAtomicPerform_of_ready hr hready hclean hop, ?_⟩
  intro op v armed cores d hop x n
  refine ⟨fun harmed hmany => ?range, fun hgood hnone => ?idle, fun hgood hsome => ?record⟩
  case range =>
    exact ⟨_, execReductionPerform_of_range hr hready hclean hop rfl harmed hmany, refused_of_moves (State.refuse_moves hr _)⟩
  case idle =>
    have hrecord : reduceRecord op v x = (op.identity, none) := if_pos hnone
    obtain ⟨-, hanswered, hmem⟩ := State.performWrite_leaves (s := s) (r := { r with value := op.identity }) hr []
    exact ⟨_, execReductionPerform_of_idle hr hready hclean hop rfl hgood hrecord, hmem rfl, hanswered⟩
  case record =>
    refine (execReductionPerform_of_record hr hready hclean hop rfl hgood (reduceRecord_of_some hsome rfl rfl)).imp fun t ⟨hanswered, hplaces⟩ => ?_
    rw [bytesLE_record, apply_ite BitVec.toNat (_ = _) (0 : BitVec 16)] at hplaces
    exact ⟨hanswered, hplaces⟩

end Sys2Proof.Machine
end

section
/-!
Proofs for O51, on phaser records, their waits and the arrivals of copies.
-/
namespace Sys2Proof.Machine

/-! Phaser records (R361-R365) -/

/-- No wait is held on the record. -/
def State.Unwaited (s : State) (pa : Nat) : Prop := ∀ x ∈ s.requests, ∀ g p, x.stage = .waiter g p → x.pa ≠ pa

theorem List.foldl_eq_self {α β : Type} {f : α → β → α} {a : α} {xs : List β} (h : ∀ x ∈ xs, f a x = a) : xs.foldl f a = a := by
  induction xs with
  | nil => rfl
  | cons x xs ih =>
    rw [List.foldl_cons, h x (List.mem_cons_self ..)]
    exact ih fun y hy => h y (List.mem_cons_of_mem _ hy)

theorem State.writePhaser_of_unwaited {s : State} {pa : Nat} (h : s.Unwaited pa) (p : Phaser) :
    s.writePhaser pa p = s.placeWrite pa (bytesLE 64 (phaserBits p.check).toNat) := by
  refine List.foldl_eq_self fun x hx => ?_
  split
  next g phase hstage => exact if_neg (h x hx g phase hstage)
  next => rfl

/-- A record with one copy's arrival more, which 65 535 bound. -/
def Phaser.withArrival (p : Phaser) : Phaser := { p with carr := if p.carr = BitVec.allOnes 16 then p.carr else p.carr + 1 }

/-- The record of an operation written after its phase check; a polling wait writes none. -/
def State.recorded (s : State) (r : Request) (q : Phaser) : State :=
  if r.awaiting.isSome then (s.placeTag r.asn r.va).2 else (s.placeTag r.asn r.va).2.writePhaser r.pa q

theorem State.recorded_leaves {s : State} {r : Request} (hwaits : s.Unwaited r.pa) (q : Phaser) :
    (s.recorded r q).requests = s.requests ∧ (s.recorded r q).cores = s.cores ∧
      if r.awaiting = none then Places s (s.recorded r q) r.pa (bytesLE 64 (phaserBits q.check).toNat) else (s.recorded r q).mem = s.mem := by
  have htag := State.placeTag_frame s r.asn r.va
  have hwaits' : (s.placeTag r.asn r.va).2.Unwaited r.pa := by
    rw [htag]
    exact hwaits
  unfold State.recorded
  cases r.awaiting with
  | none =>
    rw [Option.isSome_none, if_neg Bool.false_ne_true, State.writePhaser_of_unwaited hwaits', if_pos rfl]
    refine ⟨?_, ?_, places_of_mem ((s.placeTag r.asn r.va).2.places_placeWrite _ _) (s.placeTag_coresMem r.asn r.va).2 rfl⟩
    · rw [htag]
      rfl
    · rw [htag]
      rfl
  | some w =>
    rw [Option.isSome_some, if_pos rfl, if_neg (by simp), htag]
    exact ⟨rfl, rfl, rfl⟩

section
variable {s : State} {r : Request} (hr : s.request? r.id = some r) (hready : s.engineReady r = true) (hclean : s.poison.contains (r.pa / 128) = false)
include hr hready hclean

section
variable {op : PhaserOp} {v : BitVec 64} {team : BitVec 16} {member : Nat} {d : Reg} (hop : r.op = .phaser op v team member d)
include hop

theorem execPhaserPerform_of_bad (hnew : r.awaiting = none) (hbad : (s.readPhaser r.pa).perform op v team member = none) :
    execPhaserPerform r.id s = .next (s.refuse r .phaserState) := by
  simp only [execPhaserPerform, hr, hready, if_true, State.performPhaser, hop, hclean, Bool.false_eq_true, if_false, hnew, hbad]

theorem execPhaserPerform_of_done {q : Phaser} (hnew : r.awaiting = none)
    (hdone : (s.readPhaser r.pa).perform op v team member = some (q, none)) : execPhaserPerform r.id s =
      .next ((s.recorded r q).answer { r with tag := (s.placeTag r.asn r.va).1, value := phaserValue op q }) := by
  simp only [execPhaserPerform, hr, hready, if_true, State.performPhaser, hop, hclean, Bool.false_eq_true, if_false, hnew, hdone, Option.isSome_none,
    State.recorded]
  rw [← hop]
  rfl

/-- An operation that waits, or a polling wait that looks at the record again. -/
def State.WaitsFor (s : State) (r : Request) (op : PhaserOp) (v : BitVec 64) (team : BitVec 16) (member : Nat) (q : Phaser) (gen : BitVec 16)
    (phase : BitVec 32) : Prop :=
  r.awaiting = none ∧ (s.readPhaser r.pa).perform op v team member = some (q, some (gen, phase)) ∨
    r.awaiting = some (gen, phase) ∧ q = s.readPhaser r.pa

variable {q : Phaser} {gen : BitVec 16} {phase : BitVec 32} (hwait : s.WaitsFor r op v team member q gen phase)
include hwait

theorem execPhaserPerform_of_ended {st : BitVec 2} (hend : q.check.waitEnd gen phase = some st) : execPhaserPerform r.id s =
    .next ((s.recorded r q).answer { r with tag := (s.placeTag r.asn r.va).1, value := q.check.status st }) := by
  obtain ⟨hnew, hdone⟩ | ⟨hnew, rfl⟩ := hwait
  · simp only [execPhaserPerform, hr, hready, if_true, State.performPhaser, hop, hclean, Bool.false_eq_true, if_false, hnew, hdone, hend,
      Option.isSome_none, State.recorded]
    rw [← hop]
    rfl
  · simp only [execPhaserPerform, hr, hready, if_true, State.performPhaser, hop, hclean, Bool.false_eq_true, if_false, hnew, hend,
      Option.isSome_some, State.recorded]

theorem execPhaserPerform_of_waiting (hend : q.check.waitEnd gen phase = none) : execPhaserPerform r.id s =
    .next ((s.recorded r q).holdWait { r with tag := (s.placeTag r.asn r.va).1 } q.check gen phase) := by
  obtain ⟨hnew, hdone⟩ | ⟨hnew, rfl⟩ := hwait
  · simp only [execPhaserPerform, hr, hready, if_true, State.performPhaser, hop, hclean, Bool.false_eq_true, if_false, hnew, hdone, hend,
      Option.isSome_none, State.recorded]
    rw [← hop]
    rfl
  · simp only [execPhaserPerform, hr, hready, if_true, State.performPhaser, hop, hclean, Bool.false_eq_true, if_false, hnew, hend,
      Option.isSome_some, State.recorded]

end

theorem execCopyArrival_of_bad {team : BitVec 16} (hop : r.op = .arrive team)
    (hbad : (s.readPhaser r.pa).state = 0 ∨ (s.readPhaser r.pa).team ≠ team) : execCopyArrival r.id s = .next (s.refuse r .phaserState) := by
  simp only [execCopyArrival, hr, hop, hready, if_true, State.performArrival, hclean, Bool.false_eq_true, if_false]
  exact congrArg Host.Outcome.next (if_pos hbad)

theorem execCopyArrival_of_good {team : BitVec 16} (hop : r.op = .arrive team) (hstate : (s.readPhaser r.pa).state ≠ 0)
    (hteam : (s.readPhaser r.pa).team = team) : execCopyArrival r.id s =
      .next (((s.placeTag r.asn r.va).2.writePhaser r.pa (s.readPhaser r.pa).withArrival).answer { r with tag := (s.placeTag r.asn r.va).1 }) := by
  simp only [execCopyArrival, hr, hop, hready, if_true, State.performArrival, hclean, Bool.false_eq_true, if_false]
  exact congrArg Host.Outcome.next (if_neg fun h => h.elim hstate fun h => h hteam)

end

/-- The operation is `pharw`. -/
def ReqOp.isArw : ReqOp → Bool
  | .phaser .arw .. => true
  | _ => false

section
variable {u : State} {r : Request} {p : Phaser} {gen : BitVec 16} {phase : BitVec 32}

theorem State.holdWait_of_stop (harw : r.op.isArw = true) (hstop : u.cores[r.core].task.stopReq = true) :
    u.holdWait r p gen phase = u.answer { r with value := p.status 1 } := if_pos ⟨harw, hstop⟩

theorem State.holdWait_of_room (hgoes : ¬(r.op.isArw = true ∧ u.cores[r.core].task.stopReq = true)) (hroom : u.waiters (homeDie r.va) < 8192) :
    u.holdWait r p gen phase = u.putRequest { r with value := p.status 1, stage := .waiter gen phase, awaiting := none } :=
  (if_neg hgoes).trans (if_pos hroom)

theorem State.holdWait_of_full (hgoes : ¬(r.op.isArw = true ∧ u.cores[r.core].task.stopReq = true)) (hfull : 8192 ≤ u.waiters (homeDie r.va)) :
    u.holdWait r p gen phase = u.answer { r with value := p.status 1, awaiting := some (gen, phase), again := true } :=
  (if_neg hgoes).trans (if_neg hfull.not_gt)

end

/-- What a wait that goes on leaves. -/
theorem State.holdWait_leaves {u : State} {r y : Request} (hr : u.request? r.id = some y) (p : Phaser) (gen : BitVec 16) (phase : BitVec 32) :
    let t := u.holdWait r p gen phase
    t.mem = u.mem ∧
      (r.op.isArw = true ∧ u.cores[r.core].task.stopReq = true → Answered t r (p.status 1) r.fault) ∧
      (¬(r.op.isArw = true ∧ u.cores[r.core].task.stopReq = true) → u.waiters (homeDie r.va) < 8192 →
        ∃ y, t.request? r.id = some y ∧ y.stage = .waiter gen phase) ∧
      (¬(r.op.isArw = true ∧ u.cores[r.core].task.stopReq = true) → 8192 ≤ u.waiters (homeDie r.va) →
        ∃ y, t.request? r.id = some y ∧ y.again = true ∧ y.awaiting = some (gen, phase)) := by
  have hstopped := State.answer_moves (s := u) (r := { r with value := p.status 1 }) hr
  have hput := State.putRequest_moves (s := u) (y := { r with value := p.status 1, stage := .waiter gen phase, awaiting := none }) hr
  have hpolls := State.answer_moves (s := u) (r := { r with value := p.status 1, awaiting := some (gen, phase), again := true }) hr
  refine ⟨?_, fun ⟨harw, hstop⟩ => ?_, fun hgoes hroom => ?_, fun hgoes hfull => ?_⟩
  · by_cases hgoes : r.op.isArw = true ∧ u.cores[r.core].task.stopReq = true
    · rw [State.holdWait_of_stop hgoes.1 hgoes.2]
      exact hstopped.2.1
    · rcases Nat.lt_or_ge (u.waiters (homeDie r.va)) 8192 with hroom | hfull
      · rw [State.holdWait_of_room hgoes hroom]
        rfl
      · rw [State.holdWait_of_full hgoes hfull]
        exact hpolls.2.1
  · rw [State.holdWait_of_stop harw hstop]
    exact answered_of_moves hstopped rfl rfl rfl rfl
  · rw [State.holdWait_of_room hgoes hroom]
    obtain ⟨⟨x, hx, rfl⟩, -⟩ := hput
    exact ⟨_, hx, rfl⟩
  · rw [State.holdWait_of_full hgoes hfull]
    obtain ⟨⟨x, hx, halong, -⟩, -⟩ := hpolls
    exact ⟨x, hx, by rw [halong], by rw [halong]⟩

theorem phaserValue_eq (op : PhaserOp) (q : Phaser) : phaserValue op q = if op = .q then q.query else q.status 0 := by cases op <;> rfl

/-- Phaser operations and copy arrivals of O51. -/
theorem phasersPerform {s : State} {r : Request} (hr : s.request? r.id = some r) : PhasersPerform s r := by
  refine ⟨fun op v team member d hop hready hclean hwaits => ?_, fun team hop hready hclean hwaits => ?_⟩
  · intro p arw
    have harw : r.op.isArw = arw := by
      rw [hop]
      cases op <;> rfl
    refine ⟨fun hnew hbad => ?bad, fun q hnew hdone => ?done, fun q gen phase hwait => ?waits⟩
    case bad => exact ⟨_, execPhaserPerform_of_bad hr hready hclean hop hnew hbad, refused_of_moves (State.refuse_moves hr _)⟩
    case done =>
      obtain ⟨hrequests, hcores, hplaces⟩ := State.recorded_leaves (r := r) hwaits q
      rw [if_pos hnew] at hplaces
      have hmoves := State.answer_moves (s := s.recorded r q) (r := { r with tag := (s.placeTag r.asn r.va).1, value := phaserValue op q })
        ((congrArg (List.find? _) hrequests).trans hr)
      exact ⟨_, execPhaserPerform_of_done hr hready hclean hop hnew hdone, places_of_mem hplaces rfl hmoves.2.1,
        answered_of_moves hmoves rfl rfl (phaserValue_eq op q) rfl⟩
    case waits =>
      obtain ⟨hrequests, hcores, hplaces⟩ := State.recorded_leaves (r := r) hwaits q
      have hrequest : (s.recorded r q).request? r.id = some r := (congrArg (List.find? _) hrequests).trans hr
      have hwritten {t : State} (hmem : t.mem = (s.recorded r q).mem) :
          if r.awaiting = none then Places s t r.pa (bytesLE 64 (phaserBits q.check).toNat) else t.mem = s.mem := by
        split
        next hnew =>
          rw [if_pos hnew] at hplaces
          exact places_of_mem hplaces rfl hmem
        next hnew =>
          rw [if_neg hnew] at hplaces
          exact hmem.trans hplaces
      cases hend : q.check.waitEnd gen phase with
      | some st =>
        have hmoves := State.answer_moves (s := s.recorded r q) (r := { r with tag := (s.placeTag r.asn r.va).1, value := q.check.status st }) hrequest
        exact ⟨_, execPhaserPerform_of_ended hr hready hclean hop hwait hend, hwritten hmoves.2.1, answered_of_moves hmoves rfl rfl rfl rfl⟩
      | none =>
        obtain ⟨hmem, hstop, hroom, hfull⟩ := State.holdWait_leaves (r := { r with tag := (s.placeTag r.asn r.va).1 }) hrequest q.check gen phase
        have hwaiters : (s.recorded r q).waiters (homeDie r.va) = s.waiters (homeDie r.va) := congrArg (fun l => (List.filter _ l).length) hrequests
        dsimp only at hstop hroom hfull
        rw [harw, hcores] at hstop hroom hfull
        rw [hwaiters] at hroom hfull
        exact ⟨_, execPhaserPerform_of_waiting hr hready hclean hop hwait hend, hwritten hmem, hstop, hroom, hfull⟩
  · intro p
    refine ⟨fun hbad => ?bad, fun hstate hteam => ?good⟩
    case bad => exact ⟨_, execCopyArrival_of_bad hr hready hclean hop hbad, refused_of_moves (State.refuse_moves hr _)⟩
    case good =>
      have htag := State.placeTag_frame s r.asn r.va
      have hwaits' : (s.placeTag r.asn r.va).2.Unwaited r.pa := by
        rw [htag]
        exact hwaits
      have hexec := execCopyArrival_of_good hr hready hclean hop hstate hteam
      rw [State.writePhaser_of_unwaited hwaits'] at hexec
      have hrequest : (s.placeTag r.asn r.va).2.request? r.id = some r := (State.request?_placeTag s r.asn r.va r.id).trans hr
      have hmoves := State.answer_moves (s := (s.placeTag r.asn r.va).2.placeWrite r.pa (bytesLE 64 (phaserBits p.withArrival.check).toNat))
        (r := { r with tag := (s.placeTag r.asn r.va).1 }) hrequest
      obtain ⟨⟨x, hx, -, hstage⟩, hmem, -⟩ := hmoves
      exact ⟨_, hexec, places_of_mem ((s.placeTag r.asn r.va).2.places_placeWrite _ _) (s.placeTag_coresMem r.asn r.va).2 hmem, x, hx, hstage⟩

end Sys2Proof.Machine
end

section
/-!
Proofs for O51, on answers and acknowledgements at their core, and on waits that poll.
-/
namespace Sys2Proof.Machine

/-! Answers and acknowledgements at their core (R151, R188, R464) -/

section
variable {s : State} {r : Request} (hr : s.request? r.id = some r) (harrives : s.arrives r = true)
include hr harrives

theorem execAnswerReturn_of_arrival (hreturns : r.returns = true) : execAnswerReturn r.id s = .next (s.deliver r) := by
  simp only [execAnswerReturn, hr, hreturns, harrives, and_self, if_true]

theorem execAcknowledgementArrival_of_arrival (hreturns : r.returns = false) : execAcknowledgementArrival r.id s = .next (s.deliver r) := by
  simp only [execAcknowledgementArrival, hr, hreturns, harrives, and_self, if_true]

end

theorem Core.b_acknowledge (k : Core) (r : Request) : (k.acknowledge r).b = k.b := by
  unfold Core.acknowledge
  split <;> rfl

/-- A core after an answer or an acknowledgement, but for the journal and the instruction caches. -/
def State.handOver (s : State) (r : Request) : State :=
  { s with
    delivered := s.delivered ++ [(r.core, homeSlice r.va)]
    cores := Vec.modify s.cores r.core fun k => { k.acknowledge r with
      b := (k.acknowledge r).b.deliver r s.cycle
      arrived := if decide (r.id < s.cores[r.core].chkId) then (k.acknowledge r).arrived ++ [r] else (k.acknowledge r).arrived } }

/-- The journal of returned values changes at most. -/
theorem State.deliverCore_eq (s : State) (r : Request) (hfetch : ∀ bcast, r.op ≠ .fetch bcast) :
    ∃ f : Core → Core, (∀ k, (f k).b = k.b ∧ (f k).acks = k.acks ∧ (f k).ackCount = k.ackCount) ∧
      s.deliverCore r = { s.handOver r with cores := Vec.modify (s.handOver r).cores r.core f } := by
  have hid (t : State) : t = { t with cores := Vec.modify t.cores r.core id } := by simp [Vec.modify]
  have hself : ∀ k : Core, (id k).b = k.b ∧ (id k).acks = k.acks ∧ (id k).ackCount = k.ackCount := fun _ => ⟨rfl, rfl, rfl⟩
  cases hop : r.op with
  | fetch bcast => exact absurd hop (hfetch bcast)
  | load n signed d own entry =>
    cases hfault : r.fault with
    | none =>
      by_cases hearly : decide (r.id < s.cores[r.core].chkId) = true
      · refine ⟨id, hself, ?_⟩
        rw [← hid]
        simp only [State.deliverCore, hop, hfault, hearly, if_true]
        rw [State.handOver, hearly]
        rfl
      · refine ⟨(·.journalSet entry (loadValue n signed own r.data)), fun _ => ⟨rfl, rfl, rfl⟩, ?_⟩
        simp only [State.deliverCore, hop, hfault, hearly]
        rw [State.handOver, Bool.eq_false_iff.mpr hearly]
        rfl
    | some c => 
      refine ⟨id, hself, ?_⟩
      rw [← hid]
      simp only [State.deliverCore, hop, hfault]
      rfl
  | _ =>
    refine ⟨id, hself, ?_⟩
    rw [← hid]
    simp only [State.deliverCore, hop]
    rfl

/-- What comes to a core by `deliverCore`: its body by `Body.deliver`, its acknowledgement record by `Core.acknowledge`. -/
theorem State.deliverCore_leaves (s : State) (r : Request) (hfetch : ∀ bcast, r.op ≠ .fetch bcast) :
    let t := s.deliverCore r
    t.mem = s.mem ∧ t.requests = s.requests ∧ t.body r.core = (s.body r.core).deliver r s.cycle ∧
      t.cores[r.core].acks = (s.cores[r.core].acknowledge r).acks ∧ t.cores[r.core].ackCount = (s.cores[r.core].acknowledge r).ackCount := by
  obtain ⟨f, hf, heq⟩ := s.deliverCore_eq r hfetch
  rw [heq]
  simp [State.body, hf, State.handOver, Core.b_acknowledge]

section
variable {s : State} {r : Request}

/-- A request of a core other than a line of instructions reaches the core. -/
theorem State.deliver_leaves (hdeliver : s.deliver r = (s.dropRequest r.id).deliverCore r) (hfetch : ∀ bcast, r.op ≠ .fetch bcast) :
    let t := s.deliver r
    t.mem = s.mem ∧ t.request? r.id = none ∧ t.body r.core = (s.body r.core).deliver r s.cycle ∧
      t.cores[r.core].acks = (s.cores[r.core].acknowledge r).acks ∧ t.cores[r.core].ackCount = (s.cores[r.core].acknowledge r).ackCount := by
  rw [hdeliver]
  obtain ⟨hmem, hrequests, hrest⟩ := (s.dropRequest r.id).deliverCore_leaves r hfetch
  exact ⟨hmem, (congrArg (List.find? _) hrequests).trans (s.request?_dropRequest r.id), hrest⟩

theorem Core.acknowledge_of_good {k : Core} {kind : BitVec 3} (hkind : r.ackKind = some kind) (hfault : r.fault = none) :
    k.acknowledge r = { k with acks := sset 0 k.acks (k.ackCount.toNat % 256) (ackEntry r kind), ackCount := k.ackCount + 1 } := by
  simp only [Core.acknowledge, hkind, hfault]

variable {b : Body} {now : Nat}

theorem Body.deliver_store {bs : List (BitVec 8)} (hop : r.op = .store bs) (hfault : r.fault = none) : b.deliver r now = b := by
  simp only [Body.deliver, hop, hfault]

theorem Body.deliver_load {n : Nat} {signed : Bool} {d : Reg} {own : List (Nat × BitVec 8)} {entry : Nat} (hop : r.op = .load n signed d own entry)
    (hfault : r.fault = none) : b.deliver r now = b.receive r.id d (loadValue n signed own r.data) now := by
  simp only [Body.deliver, hop, hfault, Option.isSome_none, Bool.false_eq_true, if_false]

theorem Body.deliver_load_fault {n : Nat} {signed : Bool} {d : Reg} {own : List (Nat × BitVec 8)} {entry : Nat} {c : Cause}
    (hop : r.op = .load n signed d own entry) (hfault : r.fault = some c) (hc : c ≠ .machineCheck) : b.deliver r now = b.reportAccess r c := by
  simp only [Body.deliver, hop, hfault, Option.isSome_some, if_true, Body.faulted, if_neg hc]

theorem Body.deliver_polling {op : PhaserOp} {v : BitVec 64} {team : BitVec 16} {member : Nat} {d : Reg} (hop : r.op = .phaser op v team member d)
    (hagain : r.again = true) : b.deliver r now = b.pollOn r now := by
  simp only [Body.deliver, hop, hagain, if_true]

theorem Body.pollOn_of_last {p : Poll} (hpoll : b.poll = some p) (hlast : 65536 ≤ p.interval) :
    b.pollOn r now = { b.answered r with poll := none } := by
  simp only [Body.pollOn, hpoll, if_pos hlast]

theorem Body.pollOn_of_more {p : Poll} (hpoll : b.poll = some p) (hmore : p.interval < 65536) : b.pollOn r now =
    { b with poll := some ⟨{ r with again := false }, some (now + min (2 * p.interval) 65536), min (2 * p.interval) 65536⟩ } := by
  simp only [Body.pollOn, hpoll, if_neg hmore.not_ge]

/-- The register of a load gets its value. -/
theorem Body.receive_leaves {id : Nat} {d : Reg} {v : BitVec 64} (hd : d ≠ 0) (hawaited : b.awaited.any (fun a => a.access == id) = true) :
    let c := b.receive id d v now
    c.g[d] = v ∧ c.gReady[d] = now + 1 ∧ (∀ x, x ≠ d → c.g[x] = b.g[x]) ∧ c.groups = b.groups := by
  have hreceive : b.receive id d v now = { b.setG d v (now + 1) with awaited := b.awaited.filter (·.access != id) } := by
    simp only [Body.receive, hawaited, if_true]
  obtain ⟨hvalue, hready⟩ := b.setG_same v (now + 1) hd
  rw [hreceive]
  refine ⟨hvalue, hready, fun x hx => (b.setG_ne v (now + 1) hx).1, ?_⟩
  rw [Body.setG_frame]

end

/-- Answers and acknowledgements of O51. -/
theorem answersArrive {s : State} {r : Request} (hr : s.request? r.id = some r) : AnswersArrive s r := by
  refine ⟨fun bs kind hop hfault hkind harrives => ?store, fun n signed d own entry hop hfault harrives hd hawaited => ?load,
    fun n signed d own entry cause hop hfault hcause harrives => ?fault, fun who round n hop harrives => ?access,
    fun op v team member d p hop hagain hpoll harrives => ?poll⟩
  case store =>
    obtain ⟨hmem, hgone, hbody, hacks, hcount⟩ := State.deliver_leaves (s := s) (r := r) (by simp only [State.deliver, hop]) (by simp [hop])
    rw [Body.deliver_store hop hfault] at hbody
    rw [Core.acknowledge_of_good hkind hfault] at hacks hcount
    refine ⟨_, execAcknowledgementArrival_of_arrival hr harrives (by simp [Request.returns, hop]), hmem, hgone, hbody, hcount, ?_⟩
    rw [hacks, sget_sset_same]
  case load =>
    obtain ⟨hmem, hgone, hbody, -, -⟩ := State.deliver_leaves (s := s) (r := r) (by simp only [State.deliver, hop]) (by simp [hop])
    rw [Body.deliver_load hop hfault] at hbody
    refine ⟨_, execAnswerReturn_of_arrival hr harrives (by simp [Request.returns, hop]), hmem, hgone, ?_⟩
    rw [hbody]
    exact Body.receive_leaves hd hawaited
  case fault =>
    obtain ⟨-, hgone, hbody, -, -⟩ := State.deliver_leaves (s := s) (r := r) (by simp only [State.deliver, hop]) (by simp [hop])
    rw [Body.deliver_load_fault hop hfault hcause] at hbody
    refine ⟨_, execAnswerReturn_of_arrival hr harrives (by simp [Request.returns, hop]), hgone, ?_⟩
    rw [hbody]
    exact ⟨rfl, _, rfl, rfl, rfl, rfl⟩
  case access =>
    refine ⟨_, execAnswerReturn_of_arrival hr harrives (by simp [Request.returns, hop]), ?_⟩
    obtain ⟨u, hu⟩ : ∃ u, u = if r.outer then s.dropRequest r.id else { s.dropRequest r.id with
        delivered := s.delivered ++ [(r.core, homeSlice r.va)] } := ⟨_, rfl⟩
    have hdeliver : s.deliver r = { u with accesses := u.accesses.map fun x => if x.id = r.id then { x with answer := some (r.data, r.fault) } else x } := by
      simp only [State.deliver, hop, hu]
      rfl
    have hframe : u.cores = s.cores ∧ u.mem = s.mem ∧ u.requests = (s.dropRequest r.id).requests ∧ u.accesses = s.accesses := by
      rw [hu]
      split <;> exact ⟨rfl, rfl, rfl, rfl⟩
    obtain ⟨hcores, hmem, hrequests, haccesses⟩ := hframe
    rw [hdeliver, haccesses]
    exact ⟨hcores, hmem, (congrArg (List.find? _) hrequests).trans (s.request?_dropRequest r.id), rfl⟩
  case poll =>
    obtain ⟨hmem, hgone, hbody, -, -⟩ := State.deliver_leaves (s := s) (r := r) (by simp only [State.deliver, hop]) (by simp [hop])
    rw [Body.deliver_polling hop hagain] at hbody
    refine ⟨_, execAnswerReturn_of_arrival hr harrives (by simp [Request.returns, hop]), hmem, hgone, ?_⟩
    rw [hbody]
    rcases Nat.lt_or_ge p.interval 65536 with hmore | hlast
    · rw [Body.pollOn_of_more hpoll hmore]
      exact ⟨rfl, fun hlast => absurd hmore hlast.not_gt, fun _ => ⟨rfl, _, rfl, rfl, rfl⟩⟩
    · rw [Body.pollOn_of_last hpoll hlast]
      exact ⟨rfl, fun _ => ⟨rfl, rfl⟩, fun hmore => absurd hmore hlast.not_gt⟩

/-! Polling waits (R363) -/

/-- A request stands in the state, waiting or at its port. -/
def State.Asking (s : State) (r : Request) : Prop := ∃ x ∈ s.requests, x = r ∨ ∃ due, x = { r with stage := .port, due }

/-- What may be sent goes to its port; every request stays. -/
theorem State.sendReady_asking {s : State} {r : Request} (hr : r ∈ s.requests) (hunique : ∀ y ∈ s.requests, y.id = r.id → y = r) (c : CoreId) :
    (s.sendReady c).Asking r := by
  have hwaiting : ∀ y ∈ s.requests.filter (fun r => r.from c && r.stage == .queued), y.id = r.id → y = r :=
    fun y hy => hunique y (List.mem_filter.mp hy).1
  refine List.foldlRecOn (motive := fun (t : State) => t.Asking r) _ _ ⟨r, hr, .inl rfl⟩ fun t ⟨x, hx, hform⟩ y hy => ?_
  split
  · by_cases hid : y.id = r.id
    · obtain rfl := hwaiting y hy hid
      have hxid : x.id = y.id := by
        obtain rfl | ⟨due, rfl⟩ := hform <;> rfl
      exact ⟨_, List.mem_map.mpr ⟨x, hx, if_pos hxid⟩, .inr ⟨_, rfl⟩⟩
    · have hxid : x.id ≠ y.id := by
        obtain rfl | ⟨due, rfl⟩ := hform <;> exact fun h => hid h.symm
      exact ⟨x, List.mem_map.mpr ⟨x, hx, if_neg hxid⟩, hform⟩
  · exact ⟨x, hx, hform⟩

/-- The next query of a polling wait. -/
def Poll.query (p : Poll) : Request := { p.request.fresh with order := .rlx }

/-- A polling wait whose query is on its way. -/
def Body.asksAgain (p : Poll) (b : Body) : Body := { b with poll := some { p with at_ := none } }

/-- Polling waits of O51. -/
theorem pollsGoOn (s : State) (r : Request) : PollsGoOn s r := by
  intro c p at_ hpoll hat hdue hnew hfrom
  have hpollDue : s.cores[c].pollDue s.cycle = true := by
    show (s.body c).poll.any _ = true
    rw [hpoll, Option.any_some, Poll.isDue, hat, Option.any_some, decide_eq_true hdue, Bool.true_or]
  have hexec : execPhaserPoll c s = .next (s.pollAgain c p) := by simp only [execPhaserPoll, hpoll, hpollDue, if_true]
  obtain ⟨u, hu⟩ : ∃ u, u = { s.modBody c (·.asksAgain p) with
      requests := s.requests ++ [p.query] } := ⟨_, rfl⟩
  have hpolls : s.pollAgain c p = u.sendReady c := by rw [hu]; rfl
  have hunique : ∀ y ∈ u.requests, y.id = p.request.id → y = p.query := by
    rw [hu]
    intro y hy hid
    rcases List.mem_append.mp hy with hy | hy
    · exact absurd hid (hnew y hy)
    · exact List.mem_singleton.mp hy
  obtain ⟨x, hx, hform⟩ := State.sendReady_asking (s := u) (r := p.query)
    (by rw [hu]; exact List.mem_append_right _ (List.mem_singleton_self _)) hunique c
  refine ⟨_, hexec, ?_⟩
  rw [hpolls]
  refine ⟨?_, ?_, x, hx, ?_⟩
  · rw [State.sendReady_frame, hu]
    rfl
  · rw [State.sendReady_frame, hu]
    exact congrArg Body.poll (s.body_modBody_same c (·.asksAgain p))
  · obtain rfl | ⟨due, rfl⟩ := hform
    · exact ⟨rfl, rfl, rfl, rfl, .inl rfl⟩
    · exact ⟨rfl, rfl, rfl, rfl, .inr rfl⟩

/-- Settles O51: what the engines perform, what reaches the cores, and waits that poll. -/
theorem syncEvents : Obligations.SyncEvents :=
  fun s r hr => ⟨atomicsPerform hr, phasersPerform hr, answersArrive hr, pollsGoOn s r⟩

end Sys2Proof.Machine
end

section
/-!
Proofs for O55, on lines of the hall slices and requests at their home slice.
-/
namespace Sys2Proof.Machine

/-! Lines of the hall slices -/

/-- Lines of the hall and the counter of free values change at most. -/
def State.HallOnly (s t : State) : Prop := t = { s with hall := t.hall, fresh := t.fresh }

theorem State.HallOnly.refl (s : State) : s.HallOnly s := rfl

theorem State.HallOnly.trans {s t u : State} (hst : s.HallOnly t) (htu : t.HallOnly u) : s.HallOnly u := by
  unfold State.HallOnly at hst htu ⊢
  rw [htu, hst]

theorem State.HallOnly.coresMem {s t : State} (h : s.HallOnly t) : s.CoresMem t := by
  rw [h]
  exact ⟨rfl, rfl⟩

theorem State.HallOnly.request? {s t : State} (h : s.HallOnly t) (id : Nat) : t.request? id = s.request? id := by
  rw [h]
  rfl

theorem State.HallOnly.cycle {s t : State} (h : s.HallOnly t) : t.cycle = s.cycle := by rw [h]

theorem State.HallOnly.migrations {s t : State} (h : s.HallOnly t) : t.migrations = s.migrations := by rw [h]

theorem State.HallOnly.physRead {s t : State} (h : s.HallOnly t) (a n : Nat) : t.physRead a n = s.physRead a n := congrArg (readBytes · a n) h.coresMem.2

theorem State.modHall_hallOnly (s : State) (asn : BitVec 12) (v : VA) (f : HallLine → HallLine) : s.HallOnly (s.modHall asn v f) := rfl

theorem State.placeTag_hallOnly (s : State) (asn : BitVec 12) (v : VA) : s.HallOnly (s.placeTag asn v).2 := by
  unfold State.placeTag
  split <;> rfl

theorem State.cacheLine_hallOnly (s : State) (c : CoreId) (asn : BitVec 12) (v : VA) (f : Directory → Directory) : s.HallOnly (s.cacheLine c asn v f) := by
  unfold State.cacheLine
  dsimp only
  split
  · rfl
  · split <;> rfl

theorem State.cacheFor_hallOnly (s : State) (r : Request) (t : Trans) (f : Directory → Directory) : s.HallOnly (s.cacheFor r t f) := by
  unfold State.cacheFor
  split
  · rfl
  · exact s.cacheLine_hallOnly ..

theorem State.hitFor_of_none {s : State} {r : Request} (h : s.hallLine r.asn r.va = none) : s.hitFor r = none := by
  simp only [State.hitFor, h]

/-- The translation that a line of the hall stands for. -/
def HallLine.trans (h : HallLine) : Trans := ⟨128 * h.pline, 128, h.w, h.x, h.stream, false, h.comp⟩

theorem State.hitFor_of_line {s : State} {r : Request} {h : HallLine} (hline : s.hallLine r.asn r.va = some h) (hw : r.writes = true → h.w = true)
    (hx : r.fetches = true → h.x = true) : s.hitFor r = some h.trans := by
  have hpermits : ((!r.writes || h.w) && (!r.fetches || h.x)) = true := by
    cases hwrites : r.writes <;> cases hfetches : r.fetches <;> simp_all
  simp only [State.hitFor, hline, hpermits, if_true]
  rfl

/-! Requests at their home slice (R446, R148) -/

/-- A request of the kinds that are placed or served in the line's order. -/
def Request.Ordered (r : Request) : Prop :=
  (∀ q, r.op ≠ .peer q) ∧ (∀ cl, r.op ≠ .carry cl) ∧ (∀ w rd n bs, r.op = .access w rd n bs → ∀ x d v, w ≠ .sibling x d v) ∧ r.op ≠ .purgeTlb ∧
    ∀ f d, r.op ≠ .migrate f d

theorem State.atHome_of_miss {s : State} {r y : Request} (hr : s.request? r.id = some y) (hordered : r.Ordered) (hmiss : s.hallLine r.asn r.va = none) :
    MovesOn s (s.atHome r) r.id fun x => x.stage = .walk ∧ s.cycle < x.due := by
  obtain ⟨hpeer, hcarry, hsibling, hpurge, hmigrate⟩ := hordered
  have hnone : State.hitFor { s with places := s.places + 1 } { r with place := s.places } = none := State.hitFor_of_none hmiss
  have hwalk : s.atHome r = State.putRequest { s with places := s.places + 1, fresh := s.fresh + 1 }
      { r with place := s.places, stage := .walk, due := s.cycle + 1 + Config.fabricWait s.fresh } := by
    unfold State.atHome
    dsimp only
    split
    next q hop => exact absurd hop (hpeer q)
    next cl hop => exact absurd hop (hcarry cl)
    next c d vt rd n bytes hop => exact absurd rfl (hsibling _ _ _ _ hop c d vt)
    next hop => exact absurd hop hpurge
    next f d hop => exact absurd hop (hmigrate f d)
    next => 
      rw [hnone]
      rfl
  rw [hwalk]
  refine movesOn_imp (State.putRequest_moves (s := { s with places := s.places + 1, fresh := s.fresh + 1 }) 
    (y := { r with place := s.places, stage := .walk, due := s.cycle + 1 + Config.fabricWait s.fresh }) hr) fun x hx => ?_
  rw [hx]
  exact ⟨rfl, by dsimp only; omega⟩

theorem State.atHome_of_hit {s : State} {r : Request} {h : HallLine} (hop : (∃ n sg d o e, r.op = .load n sg d o e) ∨ ∃ bs, r.op = .store bs)
    (hline : s.hallLine r.asn r.va = some h) (hw : r.writes = true → h.w = true) (hfree : s.blocked { r with place := s.places } = false) :
    s.atHome r = State.serve { s with places := s.places + 1 } { r with place := s.places } h.trans := by
  have hfetches : r.fetches = true → h.x = true := by
    obtain ⟨n, sg, d, o, e, hop⟩ | ⟨bs, hop⟩ := hop <;> simp [Request.fetches, hop]
  have hhit : State.hitFor { s with places := s.places + 1 } { r with place := s.places } = some h.trans := State.hitFor_of_line hline hw hfetches
  have hfree : State.blocked { s with places := s.places + 1 } { r with place := s.places } = false := hfree
  unfold State.atHome
  obtain ⟨n, sg, d, o, e, hop⟩ | ⟨bs, hop⟩ := hop
  · simp only [hop] at hhit hfree ⊢
    rw [hhit, hfree]
  · simp only [hop] at hhit hfree ⊢
    rw [hhit, hfree]

end Sys2Proof.Machine
end

section
/-!
Proofs for O55, on hits and bank ports.
-/
namespace Sys2Proof.Machine

/-! Hits (R350, R446, R455) -/

theorem HallLine.trans_pa (h : HallLine) (v : VA) : h.trans.pa v = 128 * h.pline + v.toNat % 128 := rfl

/-- An access to a line of HBM that is no fetch. -/
theorem State.serve_of_hbm {s : State} {r : Request} {x : Trans} {pa : Nat} (hfetches : r.fetches = false) (hpa : x.pa r.va = pa)
    (hregion : regionOf pa = .hbm) (hphaser : x.phaser = false) : s.serve r x = s.serveHbm r x pa := by
  simp only [State.serve, hfetches, Bool.false_eq_true, if_false, hpa, hregion, hphaser]

/-- The answer of the core's own slice. -/
theorem State.answer_of_own {s : State} {r y : Request} (hr : s.request? r.id = some y) (houter : r.outer = false) (hhome : s.servedAt r = dieOf r.core) :
    MovesOn s (s.answer r) r.id fun x => r.Along x ∧ x.stage = .back ∧ (r.accepted = s.cycle → x.due = s.cycle + 8) := by
  have hanswer : s.answer r = s.putRequest { r with
      stage := .back, due := if r.accepted = s.cycle then s.cycle + 8 else max (r.accepted + 8) (s.cycle + 1) } := by
    simp only [State.answer, houter, Bool.false_eq_true, if_false, if_pos hhome]
  rw [hanswer]
  refine movesOn_imp (State.putRequest_moves (y := { r with
      stage := .back, due := if r.accepted = s.cycle then s.cycle + 8 else max (r.accepted + 8) (s.cycle + 1) }) hr) fun x hx => ?_
  rw [hx]
  exact ⟨rfl, rfl, fun h => if_pos h⟩

section
variable {s : State} {r : Request} {x : Trans} {pa : Nat}

/-- The state after a hit has touched its line. -/
def State.touched (s : State) (r : Request) : State := s.modHall r.asn r.va fun h => { h with touched := s.cycle }

theorem State.hallLine_touched (s : State) (r : Request) :
    (s.touched r).hallLine r.asn r.va = (s.hallLine r.asn r.va).map fun h => { h with touched := s.cycle } := by
  have hkey : ((fun h : HallLine => h.asn == r.asn && h.line == lineOf r.va) ∘ fun h =>
      if h.asn == r.asn && h.line == lineOf r.va then { h with touched := s.cycle } else h) = fun h => h.asn == r.asn && h.line == lineOf r.va := by
    funext h
    dsimp only [Function.comp_apply]
    split <;> rfl
  show (s.hall.map _).find? _ = (s.hall.find? _).map _
  rw [List.find?_map, hkey]
  refine Option.map_congr fun h hh => ?_
  exact if_pos (List.find?_some hh)

theorem State.placedNow_touched (s : State) (r : Request) : (s.touched r).placedNow r.asn r.va = s.placedNow r.asn r.va := by
  simp only [State.placedNow, State.hallLine_touched]
  cases s.hallLine r.asn r.va <;> rfl

theorem State.placeTag_touched {h : HallLine} (hline : s.hallLine r.asn r.va = some h) : ((s.touched r).placeTag r.asn r.va).1 = h.tag + 1 := by
  simp only [State.placeTag, State.hallLine_touched, hline, Option.map_some]

/-- A load that hits reads its bytes. -/
theorem State.serveHbm_load {n : Nat} {sg : Bool} {d : Reg} {o : List (Nat × BitVec 8)} {e : Nat} (hop : r.op = .load n sg d o e)
    (hclean : s.poison.contains (pa / 128) = false) : ∃ u, s.HallOnly u ∧ s.serveHbm r x pa = u.answer { r with data := s.physRead pa n } := by
  have hcache := (s.touched r).cacheFor_hallOnly r x (·.take r.core false)
  refine ⟨(s.touched r).cacheFor r x (·.take r.core false), (s.modHall_hallOnly ..).trans hcache, ?_⟩
  have hclean' : (s.touched r).poison.contains (pa / 128) = false := hclean
  unfold State.touched at hclean' ⊢
  simp only [State.serveHbm, hop, hclean', Bool.false_eq_true, if_false]
  rfl

/-- A store that hits is placed. -/
theorem State.serveHbm_store {bs : List (BitVec 8)} (hop : r.op = .store bs) (hplaced : s.placedNow r.asn r.va = false) :
    ∃ u, State.HallOnly (((s.touched r).placeTag r.asn r.va).2.placeWrite pa bs) u ∧
      s.serveHbm r x pa = u.answer { r with tag := ((s.touched r).placeTag r.asn r.va).1 } := by
  refine ⟨_, State.cacheFor_hallOnly _ r x (·.take r.core true), ?_⟩
  have hplaced' := (s.placedNow_touched r).trans hplaced
  unfold State.touched at hplaced' ⊢
  simp only [State.serveHbm, hop, hplaced', Bool.false_eq_true, if_false, if_true]

end

/-! Bank ports (R444, R445) -/

section
variable {s : State} {c : CoreId} {sl : Fin 16} {r : Request}

theorem execBankPortRequest_of_next (hnext : s.portNext c sl = some r) : execBankPortRequest c sl s = .next (s.accept r) := by
  simp only [execBankPortRequest, hnext]

/-- A bank port takes requests of its core alone. -/
theorem State.outer_of_portNext (hnext : s.portNext c sl = some r) : r.outer = false := by
  unfold State.portNext at hnext
  split at hnext
  · cases hnext
  split at hnext
  · cases hnext
  have hfound := List.find?_some hnext
  simp only [Request.atSlice, Request.from, Bool.and_eq_true, Bool.not_eq_true'] at hfound
  exact hfound.1.1.1.2

theorem State.accept_of_own (hhome : s.servedAt r = dieOf r.core) : s.accept r = s.atHome { r with accepted := s.cycle } := if_pos hhome

theorem State.accept_of_other (hhome : s.servedAt r ≠ dieOf r.core) (hload : ∀ n sg d o e, r.op ≠ .load n sg d o e) :
    s.accept r = State.sendPacket { s with places := s.places + 1 }
      { r with accepted := s.cycle, dieAck := some (s.cycle + 10), place := s.places } (dieOf r.core) (s.servedAt r) .packet true := by
  unfold State.accept
  dsimp only
  rw [if_neg hhome]
  split
  next n sg d o e hop => exact absurd hop (hload n sg d o e)
  next => rfl

end

/-- A request as its home slice accepts it. -/
def State.placing (s : State) (r : Request) : Request := { r with accepted := s.cycle, place := s.places }

/-- The next place in the order of arrivals. -/
def State.nextPlace (s : State) : State := { s with places := s.places + 1 }

/-- A request that hits at the slice of its core's die. -/
theorem State.accept_of_hit {s : State} {r : Request} {h : HallLine} {pa : Nat} (hhome : s.servedAt r = dieOf r.core)
    (hop : (∃ n sg d o e, r.op = .load n sg d o e) ∨ ∃ bs, r.op = .store bs) (hline : s.hallLine r.asn r.va = some h)
    (hw : r.writes = true → h.w = true) (hfree : s.blocked (s.placing r) = false) (hpa : 128 * h.pline + r.va.toNat % 128 = pa)
    (hregion : regionOf pa = .hbm) : s.accept r = s.nextPlace.serveHbm (s.placing r) h.trans pa := by
  have hfetches : (s.placing r).fetches = false := by
    obtain ⟨n, sg, d, o, e, hop⟩ | ⟨bs, hop⟩ := hop <;> simp [State.placing, Request.fetches, hop]
  calc s.accept r = s.atHome { r with accepted := s.cycle } := State.accept_of_own hhome
    _ = s.nextPlace.serve (s.placing r) h.trans := State.atHome_of_hit (r := { r with accepted := s.cycle }) hop hline hw hfree
    _ = _ := State.serve_of_hbm hfetches hpa hregion rfl

/-- A local write that comes later. -/
def Body.later (w : LocalWrite) (b : Body) : Body := { b with locals := b.locals ++ [w] }

/-- The requests that a bank port accepts. -/
theorem portsAccept (s : State) : PortsAccept s := by
  intro c sl r hnext hr
  have hexec : exec (.bankPortRequest c sl) s = .next (s.accept r) := execBankPortRequest_of_next hnext
  have houter := State.outer_of_portNext hnext
  refine ⟨fun x d vt round n bs hop hdie hother => ?sibling, fun hhome hload => ?forward, fun hhome hsibling hmiss hmigrate hpurge => ?miss,
    fun n sg d o e h hhome hop hline hfree => ?load, fun bs h hhome hop hline hw hfree hplaced hmigrations => ?store⟩
  case sibling =>
    have hhome : s.servedAt r = dieOf r.core := by simp only [State.servedAt, hop, hdie]
    obtain ⟨u, hu⟩ : ∃ u, u = (s.modBody d (·.later { heldWrite (s.body d).vts 3 (s.task x).endtSrc vt r.va.toNat bs with foreign := true })).modBody x
        (·.logWrites (heldWrite (s.body d).vts 3 (s.task x).endtSrc vt r.va.toNat bs).records) := ⟨_, rfl⟩
    have hserve : s.accept r = State.answer { u with places := s.places + 1 } { r with accepted := s.cycle, place := s.places } := by
      rw [State.accept_of_own hhome, hu]
      simp only [State.atHome, hop]
      rfl
    have hserved : State.servedAt { u with places := s.places + 1 } { r with accepted := s.cycle, place := s.places } = dieOf r.core := by
      simp only [State.servedAt, hop, hdie]
    have hrequest : State.request? { u with places := s.places + 1 } r.id = some r := by rw [hu]; exact hr
    obtain ⟨⟨y, hy, -, hstage, -⟩, hmem, hcores⟩ := State.answer_of_own (r := { r with accepted := s.cycle, place := s.places }) hrequest houter hserved
    have hbody : u.body d = (s.body d).later { heldWrite (s.body d).vts 3 (s.task x).endtSrc vt r.va.toNat bs with foreign := true } := by
      rw [hu, State.body_modBody_ne _ _ hother.symm, State.body_modBody_same]
    rw [hexec, completes_next, hserve]
    refine ⟨hmem.trans (by rw [hu]; rfl), ⟨y, hy, hstage⟩, ?_⟩
    have hsame := congrArg (fun v => (v[d].b).locals) hcores
    exact hsame.trans (congrArg Body.locals hbody)
  case forward =>
    rw [hexec, completes_next, State.accept_of_other hhome hload]
    refine movesOn_imp (State.sendPacket_moves (s := { s with places := s.places + 1 })
      (r := { r with accepted := s.cycle, dieAck := some (s.cycle + 10), place := s.places }) hr (dieOf r.core) (s.servedAt r) .packet true) ?_
    rintro x ⟨halong, hstage, hat, hlast, hdue, -, -⟩
    exact ⟨hstage, by rw [halong], by rw [halong], hdue, hat, hlast⟩
  case miss =>
    have hordered : Request.Ordered { r with accepted := s.cycle } := by
      refine ⟨fun q hop => ?_, fun cl hop => ?_, hsibling, hpurge, hmigrate⟩ <;> simp_all [Request.outer]
    rw [hexec, completes_next, State.accept_of_own hhome]
    exact State.atHome_of_miss (r := { r with accepted := s.cycle }) hr hordered hmiss
  case load =>
    intro pa hregion hclean
    have hserved (u : State) (y : Request) (hva : y.va = r.va) (hy : y.op = r.op) : u.servedAt y = dieOf r.core := by
      simpa only [State.servedAt, hy, hop, hva] using hhome
    obtain ⟨u, hu, hserve⟩ := State.serveHbm_load (s := s.nextPlace) (r := s.placing r) (x := h.trans) hop hclean
    have haccept := (State.accept_of_hit (hserved s r rfl rfl) (.inl ⟨n, sg, d, o, e, hop⟩) hline (by simp [Request.writes, hop]) hfree rfl
      hregion).trans hserve
    have hanswer := State.answer_of_own (s := u) (r := { s.placing r with data := s.nextPlace.physRead pa n }) ((hu.request? r.id).trans hr) houter
      (hserved _ _ rfl rfl)
    rw [hexec, completes_next, haccept]
    refine movesOn_of_coresMem (movesOn_imp hanswer fun x ⟨halong, hstage, hdue⟩ => ?_) hu.coresMem
    refine ⟨hstage, ?_, ?_, (hdue hu.cycle.symm).trans (congrArg (· + 8) hu.cycle)⟩
    · rw [halong]
      rfl
    · rw [halong]
      rfl
  case store =>
    intro pa hregion
    have hserved (u : State) (y : Request) (hva : y.va = r.va) (hy : y.op = r.op) : u.servedAt y = dieOf r.core := by
      simpa only [State.servedAt, hy, hop, hva] using hhome
    obtain ⟨u, hu, hserve⟩ := State.serveHbm_store (s := s.nextPlace) (r := s.placing r) (x := h.trans) (pa := pa) hop hplaced
    obtain ⟨v, hv⟩ : ∃ v, v = ((s.nextPlace.touched (s.placing r)).placeTag (s.placing r).asn (s.placing r).va) := ⟨_, rfl⟩
    have htag : v.1 = h.tag + 1 := hv ▸ State.placeTag_touched (s := s.nextPlace) (r := s.placing r) hline
    have hhall : s.nextPlace.HallOnly v.2 := hv ▸ (State.modHall_hallOnly ..).trans (State.placeTag_hallOnly ..)
    rw [← hv] at hu hserve
    have haccept := (State.accept_of_hit (hserved s r rfl rfl) (.inr ⟨bs, hop⟩) hline (fun _ => hw) hfree rfl hregion).trans hserve
    have hanswer := State.answer_of_own (s := u) (r := { s.placing r with tag := v.1 }) ((hu.request? r.id).trans ((hhall.request? r.id).trans hr)) houter
      (hserved _ _ rfl rfl)
    obtain ⟨⟨x, hx, halong, hstage, -⟩, hmem, hcores⟩ := hanswer
    have hplaces : Places s (u.answer { s.placing r with tag := v.1 }) pa bs :=
      places_of_mem (v.2.places_placeWrite pa bs) hhall.coresMem.2 (hmem.trans hu.coresMem.2)
    rw [hexec, completes_next, haccept]
    refine ⟨hcores.trans (hu.coresMem.1.trans hhall.coresMem.1), hplaces.1, hplaces.2, x, hx, hstage, ?_⟩
    rw [halong, ← htag]

end Sys2Proof.Machine
end

section
/-!
Proofs for O55, on packets that arrive and walks.
-/
namespace Sys2Proof.Machine

/-! Packets that arrive (R446, R453, R460) -/

theorem State.leaveRouter_coresMem (s : State) (r : Request) : s.CoresMem (s.leaveRouter r) := ⟨rfl, rfl⟩

theorem State.translate_frame (s : State) (asn : BitVec 12) (v : VA) :
    (s.translate asn v).2 = { s with mtlb := (s.translate asn v).2.mtlb, fresh := (s.translate asn v).2.fresh } := by
  unfold State.translate
  dsimp only
  split
  · rfl
  · split <;> rfl

/-- The state after a translation. -/
theorem State.translate_leaves {s u : State} {asn : BitVec 12} {v : VA} {x : Except Cause Trans} (h : s.translate asn v = (x, u)) :
    s.CoresMem u ∧ u.requests = s.requests ∧ u.hall = s.hall ∧ u.migrations = s.migrations ∧ u.cycle = s.cycle := by
  have hu : u = (s.translate asn v).2 := by rw [h]
  rw [hu, State.translate_frame]
  exact ⟨⟨rfl, rfl⟩, rfl, rfl, rfl, rfl⟩

section
variable {s : State} {r : Request} (hr : s.request? r.id = some r) (hready : s.packetReady r = true)
include hr hready

theorem execPacketArrival_packet (hstage : r.stage = .packet) : execPacketArrival r.id s = .next ((s.leaveRouter r).atHome r) := by
  simp only [execPacketArrival, hr, hready, if_true, hstage]

theorem execPacketArrival_packetOut (hstage : r.stage = .packetOut) : execPacketArrival r.id s = .next ((s.leaveRouter r).exit r) := by
  simp only [execPacketArrival, hr, hready, if_true, hstage]

theorem execPacketArrival_packetBack (hstage : r.stage = .packetBack) :
    execPacketArrival r.id s = .next ((s.leaveRouter r).putRequest { r with stage := .back, due := s.cycle }) := by
  simp only [execPacketArrival, hr, hready, if_true, hstage]
  rfl

theorem execPacketArrival_walkOut (hstage : r.stage = .walkOut) :
    execPacketArrival r.id s = .next ((s.leaveRouter r).sendPacket r r.at_ (homeDie r.va) .walkBack true) := by
  simp only [execPacketArrival, hr, hready, if_true, hstage, State.controllerArrival]

theorem execPacketArrival_walkBack (hstage : r.stage = .walkBack) : execPacketArrival r.id s =
    .next ((s.leaveRouter r).putRequest { r with stage := .walk, due := s.cycle, trail := r.trail.map (·.drop 1) }) := by
  simp only [execPacketArrival, hr, hready, if_true, hstage, State.controllerArrival]
  rfl

theorem execPacketArrival_fillBack (hstage : r.stage = .fillBack) :
    execPacketArrival r.id s = .next ((s.leaveRouter r).putRequest { r with stage := .fill, due := s.cycle }) := by
  simp only [execPacketArrival, hr, hready, if_true, hstage, State.controllerArrival]
  rfl

end

/-! Walks (R446, R452, R453) -/

section
variable {s : State} {r : Request} (hr : s.request? r.id = some r) (hready : s.walkReady r = true) (hmiss : s.hitFor r = none)
include hr hready hmiss

theorem execPageWalk_away {d : Fin 8} {ds : List (Fin 8)} (huncovered : s.covered r = false) (htrail : r.trail = some (d :: ds)) :
    execPageWalk r.id s = .next (s.sendPacket { r with trail := some (d :: ds) } (homeDie r.va) d .walkOut true) := by
  simp only [execPageWalk, hr, hready, if_true, State.walkRequest, hmiss, huncovered, Bool.false_eq_true, if_false, htrail, Option.getD_some]

theorem execPageWalk_translated (hread : s.covered r = true ∨ r.trail = some []) : execPageWalk r.id s = .next (s.translated r) := by
  have hwalk : s.walkRequest r = s.translated r := by
    simp only [State.walkRequest, hmiss]
    by_cases hcovered : s.covered r = true
    · rw [if_pos hcovered]
    · rw [if_neg hcovered, hread.resolve_left hcovered, Option.getD_some]
  simp only [execPageWalk, hr, hready, if_true, hwalk]

end

/-- A request whose walk has ended. -/
def Request.walked (r : Request) : Request := { r with trail := none }

section
variable {s u : State} {r : Request}

theorem State.translated_of_error {c : Cause} (hwalk : s.translate r.asn r.va = (.error c, u)) : s.translated r = u.walkFault r.walked c := by
  have hwalk : s.translate r.walked.asn r.walked.va = (.error c, u) := hwalk
  unfold Request.walked at *
  simp only [State.translated, hwalk]

variable {x : Trans} (hwalk : s.translate r.asn r.va = (.ok x, u))
include hwalk

theorem State.translated_of_forbidden (hperm : x.permits r.writes r.fetches = false) : s.translated r = u.refuse r.walked .protection := by
  have hwalk : s.translate r.walked.asn r.walked.va = (.ok x, u) := hwalk
  have hperm : x.permits r.walked.writes r.walked.fetches = false := hperm
  unfold Request.walked at *
  simp only [State.translated, hwalk, hperm, if_true]

theorem State.translated_of_absent (hperm : x.permits r.writes r.fetches = true) (hregion : regionOf (x.pa r.va) = .hbm)
    (hmiss : u.hallLine r.asn r.va = none) : s.translated r = u.fetchFrame r.walked x := by
  have hwalk : s.translate r.walked.asn r.walked.va = (.ok x, u) := hwalk
  have hperm : x.permits r.walked.writes r.walked.fetches = true := hperm
  have hmiss : u.hallLine r.walked.asn r.walked.va = none := hmiss
  have hregion : regionOf (x.pa r.walked.va) = .hbm := hregion
  unfold Request.walked at *
  simp only [State.translated, hwalk, hperm, Bool.true_eq_false, if_false, hregion, if_true, hmiss, Option.isSome_none, Bool.false_eq_true]

end

/-- A request of a number stands in the state. -/
def State.Holds (s : State) (id : Nat) : Prop := (s.request? id).isSome = true

theorem State.holds_putRequest {s : State} {id : Nat} (h : s.Holds id) (y : Request) : (s.putRequest y).Holds id := by
  unfold State.Holds State.request? at *
  rw [List.find?_isSome] at h ⊢
  obtain ⟨x, hx, hid⟩ := h
  by_cases hy : x.id = y.id
  · exact ⟨y, List.mem_map.mpr ⟨x, hx, if_pos hy⟩, by rw [← hy]; exact hid⟩
  · exact ⟨x, List.mem_map.mpr ⟨x, hx, if_neg hy⟩, hid⟩

theorem State.holds_sendPacket {s : State} {id : Nat} (h : s.Holds id) (y : Request) (a b : Fin 8) (stage : Stage) (counted : Bool) :
    (s.sendPacket y a b stage counted).Holds id := State.holds_putRequest (s := { s with sent := _, fresh := _ }) h _

theorem State.holds_answer {s : State} {id : Nat} (h : s.Holds id) (y : Request) : (s.answer y).Holds id := by
  unfold State.answer
  split
  · exact State.holds_sendPacket h ..
  · split
    · exact State.holds_putRequest h _
    · exact State.holds_sendPacket h ..

theorem State.answer_coresMem (s : State) (y : Request) : s.CoresMem (s.answer y) := by
  unfold State.answer
  split
  · exact ⟨rfl, rfl⟩
  · split <;> exact ⟨rfl, rfl⟩

/-- A migration whose page has no translation ends. -/
def State.endMigration (s : State) (m : Migration) : State :=
  match s.request? m.request with
  | some x => s.refuse x .translation
  | none => s

theorem State.endMigration_holds (s : State) (m : Migration) {id : Nat} (h : s.Holds id) : (s.endMigration m).Holds id := by
  unfold State.endMigration
  split
  · exact State.holds_answer h _
  · exact h

theorem State.endMigration_coresMem (s : State) (m : Migration) : s.CoresMem (s.endMigration m) := by
  unfold State.endMigration
  split
  · exact State.answer_coresMem ..
  · exact .refl s

/-- A walk that has failed refuses the request, after the migrations of its page. -/
theorem State.walkFault_moves {s : State} {r y : Request} (hr : s.request? r.id = some y) (c : Cause) : MovesOn s (s.walkFault r c) r.id fun x =>
    Request.Along { r with fault := some c } x ∧ (x.stage = .back ∨ x.stage = .packetBack) := by
  have hfold (ms : List Migration) (u : State) (hu : u.Holds r.id) : (ms.foldl State.endMigration u).Holds r.id ∧ u.CoresMem (ms.foldl State.endMigration u) := by
    induction ms generalizing u with
    | nil => exact ⟨hu, .refl u⟩
    | cons m ms ih =>
      obtain ⟨hholds, hsame⟩ := ih (u.endMigration m) (u.endMigration_holds m hu)
      exact ⟨hholds, (u.endMigration_coresMem m).trans hsame⟩
  obtain ⟨ms, others, hpart⟩ : ∃ ms others, s.migrations.partition
      (fun m => c == .translation && !m.switching && m.inPage r.asn (128 * lineOf r.va) 128) = (ms, others) := ⟨_, _, rfl⟩
  have heq : s.walkFault r c = (ms.foldl State.endMigration { s with migrations := others }).refuse r c := by
    unfold State.walkFault
    rw [hpart]
    rfl
  obtain ⟨hholds, hsame⟩ := hfold ms { s with migrations := others } (Option.isSome_of_eq_some hr)
  obtain ⟨z, hz⟩ := Option.isSome_iff_exists.mp hholds
  rw [heq]
  exact movesOn_of_coresMem (State.refuse_moves hz c) (State.CoresMem.trans ⟨rfl, rfl⟩ hsame)

end Sys2Proof.Machine
end

section
/-!
Proofs for O55, on fills, fetched frames and the escape way.
-/
namespace Sys2Proof.Machine

/-! Fills (R446, R453, R454) -/

/-- Requests that stand stay, with cores and memory. -/
def State.Keeps (s t : State) : Prop := (∀ id, s.Holds id → t.Holds id) ∧ s.CoresMem t

theorem State.Keeps.refl (s : State) : s.Keeps s := ⟨fun _ h => h, .refl s⟩

theorem State.Keeps.trans {s t u : State} (hst : s.Keeps t) (htu : t.Keeps u) : s.Keeps u :=
  ⟨fun id h => htu.1 id (hst.1 id h), hst.2.trans htu.2⟩

theorem State.Keeps.ite {s t u : State} {p : Prop} [Decidable p] (ht : s.Keeps t) (hu : s.Keeps u) : s.Keeps (if p then t else u) := by
  split
  · exact ht
  · exact hu

theorem State.Keeps.foldl {s : State} {α : Type} {f : State → α → State} (hf : ∀ u x, State.Keeps u (f u x)) (xs : List α) :
    s.Keeps (xs.foldl f s) := by
  induction xs generalizing s with
  | nil => exact .refl s
  | cons x xs ih => exact (hf s x).trans ih

theorem State.keeps_of_requests {s t : State} (hrequests : t.requests = s.requests) (h : s.CoresMem t) : s.Keeps t := by
  refine ⟨fun id hid => ?_, h⟩
  unfold State.Holds State.request? at *
  rwa [hrequests]

theorem State.carryLine_keeps (s : State) (cl : Fin 8) (asn : BitVec 12) (line : Nat) (a b : Fin 8) : s.Keeps (s.carryLine cl asn line a b) := by
  unfold State.carryLine
  refine .ite (.refl s) ⟨fun id hid => State.holds_sendPacket ?_ .., rfl, rfl⟩
  unfold State.Holds State.request? at *
  rw [List.find?_append]
  obtain ⟨x, hx⟩ := Option.isSome_iff_exists.mp hid
  rw [hx]
  rfl

theorem State.writeBack_keeps (s : State) (h : HallLine) : s.Keeps (s.writeBack h) := .ite (s.carryLine_keeps ..) (.refl s)

theorem State.evict_keeps (s : State) (h : HallLine) : s.Keeps (s.evict h) := s.writeBack_keeps h

theorem State.dropAliases_keeps (s : State) (asn : BitVec 12) (line pline : Nat) : s.Keeps (s.dropAliases asn line pline) :=
  State.Keeps.foldl (fun u x => u.writeBack_keeps x) _

theorem State.atriumRoom_keeps (s : State) (d : Nat) : s.Keeps (s.atriumRoom d) := by
  unfold State.atriumRoom
  refine .ite (.refl s) ?_
  dsimp only
  split
  · exact State.Keeps.foldl (fun u x => u.writeBack_keeps x) _
  · exact .refl s

theorem State.fillLine_keeps (s : State) (asn : BitVec 12) (v : VA) (x : Trans) : s.Keeps (s.fillLine asn v x) := by
  have hroom (u : State) : u.Keeps (if u.atrium.any (·.pline == x.pa v / 128) then u else u.atriumRoom (stackDie (x.pa v / 128))) :=
    .ite (.refl u) (u.atriumRoom_keeps _)
  have hway (u : State) : u.Keeps (if u.wayFree asn (lineOf v) then u else
      match (u.evictable (lineOf v))[Config.victim u.fresh % (u.evictable (lineOf v)).length]? with
      | some h => { (u.evict h) with fresh := u.fresh + 1 }
      | none => u) := by
    refine .ite (.refl u) ?_
    split
    · next h _ => exact u.evict_keeps h
    · exact .refl u
  exact ((s.dropAliases_keeps asn (lineOf v) (x.pa v / 128)).trans (hroom _)).trans (hway _)

theorem State.memoryErrors_keeps (s : State) (pline : Nat) : s.Keeps (s.memoryErrors pline) := .ite (.refl s) (.ite (.refl s) (.refl s))

/-- A line of the hall, of an address and at a frame. -/
def State.Lined (s : State) (asn : BitVec 12) (line pline : Nat) : Prop := ∃ h ∈ s.hall, h.asn = asn ∧ h.line = line ∧ h.pline = pline

theorem State.lined_fillLine (s : State) (asn : BitVec 12) (v : VA) (x : Trans) : (s.fillLine asn v x).Lined asn (lineOf v) (x.pa v / 128) :=
  ⟨_, List.mem_append_right _ (List.mem_singleton.mpr rfl), rfl, rfl, rfl⟩

theorem State.lined_memoryErrors {s : State} {asn : BitVec 12} {line pline : Nat} (h : s.Lined asn line pline) (e : Nat) :
    (s.memoryErrors e).Lined asn line pline := by
  unfold State.memoryErrors
  dsimp only
  split
  · exact h
  · split <;> exact h

/-- Lines whose entries change, but not what they are of, stay. -/
theorem State.lined_of_map {s t : State} {f : HallLine → HallLine} {asn : BitVec 12} {line pline : Nat} (h : s.Lined asn line pline)
    (hall : t.hall = s.hall.map f) (hf : ∀ x, (f x).asn = x.asn ∧ (f x).line = x.line ∧ (f x).pline = x.pline) : t.Lined asn line pline := by
  obtain ⟨x, hx, rfl, rfl, rfl⟩ := h
  exact ⟨f x, by rw [hall]; exact List.mem_map_of_mem hx, hf x⟩

theorem State.lined_modHall {s : State} {asn : BitVec 12} {line pline : Nat} (h : s.Lined asn line pline) (asn' : BitVec 12) (v : VA)
    {f : HallLine → HallLine} (hf : ∀ x, (f x).asn = x.asn ∧ (f x).line = x.line ∧ (f x).pline = x.pline) :
    (s.modHall asn' v f).Lined asn line pline := by
  refine State.lined_of_map h rfl fun x => ?_
  split
  · exact hf x
  · exact ⟨rfl, rfl, rfl⟩

theorem State.lined_cacheFor {s : State} {asn : BitVec 12} {line pline : Nat} (h : s.Lined asn line pline) (r : Request) (x : Trans)
    (f : Directory → Directory) : (s.cacheFor r x f).Lined asn line pline := by
  have hentry (x : HallLine) : let y := if x.stream then x else { x with dir := f x.dir, touched := s.cycle }
      y.asn = x.asn ∧ y.line = x.line ∧ y.pline = x.pline := by
    split <;> exact ⟨rfl, rfl, rfl⟩
  unfold State.cacheFor State.cacheLine
  dsimp only
  split
  · exact h
  split
  · exact State.lined_modHall h _ _ hentry
  · split
    · refine State.lined_modHall (State.lined_of_map (s := s) h rfl fun x => ?_) _ _ fun x => ?_
      · split <;> exact ⟨rfl, rfl, rfl⟩
      · split <;> exact ⟨rfl, rfl, rfl⟩
    · exact State.lined_modHall h _ _ hentry

theorem State.lined_answer {s : State} {asn : BitVec 12} {line pline : Nat} (h : s.Lined asn line pline) (r : Request) :
    (s.answer r).Lined asn line pline := by
  unfold State.answer
  split
  · exact h
  · split <;> exact h

/-- A prefetch of a line of HBM is answered once the line is cached. -/
theorem State.serve_prefetch {s : State} {r : Request} {x : Trans} (hop : r.op = .prefetch) (hregion : regionOf (x.pa r.va) = .hbm)
    (hphaser : x.phaser = false) : s.serve r x = ((s.touched r).cacheFor r x (·.share r.core)).answer r := by
  rw [State.serve_of_hbm (by simp [Request.fetches, hop]) rfl hregion hphaser]
  simp only [State.serveHbm, hop]
  rfl

theorem State.serve_prefetch_moves {s : State} {r y : Request} {x : Trans} (hr : s.request? r.id = some y) (hop : r.op = .prefetch)
    (hregion : regionOf (x.pa r.va) = .hbm) (hphaser : x.phaser = false) :
    MovesOn s (s.serve r x) r.id fun x => x.stage = .back ∨ x.stage = .packetBack := by
  have hcache : s.HallOnly ((s.touched r).cacheFor r x (·.share r.core)) := (s.modHall_hallOnly ..).trans ((s.touched r).cacheFor_hallOnly ..)
  rw [State.serve_prefetch hop hregion hphaser]
  exact movesOn_of_coresMem (movesOn_imp (State.answer_moves ((hcache.request? r.id).trans hr)) fun _ => And.right) hcache.coresMem

theorem State.lined_serve_prefetch {s : State} {r : Request} {x : Trans} {asn : BitVec 12} {line pline : Nat} (h : s.Lined asn line pline)
    (hop : r.op = .prefetch) (hregion : regionOf (x.pa r.va) = .hbm) (hphaser : x.phaser = false) : (s.serve r x).Lined asn line pline := by
  rw [State.serve_prefetch hop hregion hphaser]
  have htouched : (s.touched r).Lined asn line pline := State.lined_modHall (f := fun h => { h with touched := s.cycle }) h _ _ fun _ => ⟨rfl, rfl, rfl⟩
  exact State.lined_answer (State.lined_cacheFor htouched r x _) r

theorem execLineFill_of_ready {s : State} {r : Request} {x : Trans} (hr : s.request? r.id = some r) (htrans : r.trans = some x) (hready : s.fillReady r = true) :
    execLineFill r.id s = .next ((if (s.hallLine r.asn r.va).isSome then s else (s.fillLine r.asn r.va x).memoryErrors (x.pa r.va / 128)).serve
      { r with stage := .walk } x) := by
  simp only [execLineFill, hr, hready, htrans, Bool.true_eq_false, if_false]

/-- A frame is fetched at its stack, over the concourse where it lies elsewhere. -/
theorem State.fetchFrame_moves {s : State} {r y : Request} (hr : s.request? r.id = some y) (x : Trans) :
    MovesOn s (s.fetchFrame r x) r.id fun y => (y.stage = .fill ∨ y.stage = .fillOut) ∧ y.trans = some x := by
  unfold State.fetchFrame
  dsimp only
  split
  · refine movesOn_of_coresMem (movesOn_imp (State.putRequest_moves (s := s.wait.2)
      (y := { r with trans := some x, stage := .fill, due := s.cycle + 1 + s.wait.1 }) hr) fun y hy => ?_) ⟨rfl, rfl⟩
    rw [hy]
    exact ⟨.inl rfl, rfl⟩
  · refine movesOn_imp (State.sendPacket_moves (r := { r with trans := some x }) hr _ _ .fillOut true) fun y hy => ?_
    obtain ⟨halong, hstage, -⟩ := hy
    exact ⟨.inr hstage, by rw [halong]⟩

theorem execEscape_of_escapes {s : State} {r : Request} (hr : s.request? r.id = some r) (hescapes : s.escapes r = true) :
    execEscape r.id s = .next (s.enterRouter { r with escaped := true } r.at_ s.cycle) := by
  simp only [execEscape, hr, hescapes, if_true]

theorem State.enterRouter_moves {s : State} {r y : Request} (hr : s.request? r.id = some y) (d : Fin 8) (entry : Nat) :
    MovesOn s (s.enterRouter r d entry) r.id fun x => x = { r with at_ := d, since := entry, due := x.due } ∧ entry ≤ x.due := by
  refine movesOn_of_coresMem (movesOn_imp (State.putRequest_moves (s := s.wait.2)
    (y := { r with at_ := d, since := entry, due := entry + s.wait.1 }) hr) fun x hx => ?_) ⟨rfl, rfl⟩
  rw [hx]
  exact ⟨rfl, Nat.le_add_right ..⟩

end Sys2Proof.Machine
end

section
/-!
Proofs for O55, on requests that move on, routers and hot lines.
-/
namespace Sys2Proof.Machine

/-- The requests that move on. -/
theorem requestsMoveOn (s : State) : RequestsMoveOn s := by
  intro r hr
  have hleave : (s.leaveRouter r).request? r.id = some r := hr
  refine ⟨fun hstage hready hmiss hmigrate hpurge hpeer hcarry hsibling => ?packet, fun hstage hready => ?walkOut, fun hstage hready => ?walkBack,
    fun hstage hready => ?fillBack, fun d ds hready hmiss huncovered htrail => ?away, fun hstage hready => ?packetBack, fun hstage hready => ?packetOut,
    fun cause u hready hmiss hread hwalk => ?fault, fun x u hready hmiss hread hwalk hperm hregion hline => ?absent,
    fun x u hready hmiss hread hwalk hperm => ?forbidden, fun x htrans hready hop hregion hphaser => ?fill, fun hescapes => ?escape⟩
  case packet =>
    have hmoves := State.atHome_of_miss hleave ⟨hpeer, hcarry, hsibling, hpurge, hmigrate⟩ hmiss
    exact ⟨_, execPacketArrival_packet hr hready hstage, movesOn_of_coresMem (movesOn_imp hmoves fun x hx => hx.1) (s.leaveRouter_coresMem r)⟩
  case walkOut =>
    refine ⟨_, execPacketArrival_walkOut hr hready hstage, movesOn_of_coresMem (movesOn_imp (State.sendPacket_moves hleave ..) fun x hx => ?_)
      (s.leaveRouter_coresMem r)⟩
    obtain ⟨-, hstage, hat, hlast, -⟩ := hx
    exact ⟨hstage, hat, hlast⟩
  case walkBack =>
    refine ⟨_, execPacketArrival_walkBack hr hready hstage, movesOn_of_coresMem (movesOn_imp (State.putRequest_moves
      (y := { r with stage := .walk, due := s.cycle, trail := r.trail.map (·.drop 1) }) hleave) fun x hx => ?_) (s.leaveRouter_coresMem r)⟩
    rw [hx]
    exact ⟨rfl, rfl⟩
  case fillBack =>
    refine ⟨_, execPacketArrival_fillBack hr hready hstage, movesOn_of_coresMem (movesOn_imp (State.putRequest_moves
      (y := { r with stage := .fill, due := s.cycle }) hleave) fun x hx => ?_) (s.leaveRouter_coresMem r)⟩
    rw [hx]
    exact ⟨rfl, rfl⟩
  case away =>
    refine ⟨_, execPageWalk_away hr hready hmiss huncovered htrail, movesOn_imp (State.sendPacket_moves (r := { r with trail := some (d :: ds) }) hr ..)
      fun x hx => ?_⟩
    obtain ⟨halong, hstage, -, hlast, -⟩ := hx
    exact ⟨hstage, hlast, by rw [halong, htrail]⟩
  case packetBack =>
    refine ⟨_, execPacketArrival_packetBack hr hready hstage, movesOn_of_coresMem (movesOn_imp (State.putRequest_moves
      (y := { r with stage := .back, due := s.cycle }) hleave) fun x hx => ?_) (s.leaveRouter_coresMem r)⟩
    rw [hx]
    exact ⟨rfl, rfl, rfl, rfl, rfl⟩
  case packetOut =>
    obtain ⟨⟨x, hx, hstage'⟩, hmem, hcores⟩ := State.putRequest_moves (y := { r with stage := .away }) hleave
    exact ⟨_, execPacketArrival_packetOut hr hready hstage, ⟨⟨x, hx, by rw [hstage']⟩, hmem, hcores⟩, rfl⟩
  case fault =>
    obtain ⟨hsame, hrequests, -⟩ := State.translate_leaves hwalk
    have hu : u.request? r.walked.id = some r := by
      unfold State.request?
      rw [hrequests]
      exact hr
    refine ⟨_, (execPageWalk_translated hr hready hmiss hread).trans (congrArg _ (State.translated_of_error hwalk)),
      movesOn_of_coresMem (movesOn_imp (State.walkFault_moves hu cause) fun x hx => ⟨?_, hx.2⟩) hsame⟩
    rw [hx.1]
  case absent =>
    obtain ⟨hsame, hrequests, hhall, -⟩ := State.translate_leaves hwalk
    have hu : u.request? r.walked.id = some r := by
      unfold State.request?
      rw [hrequests]
      exact hr
    have hline' : u.hallLine r.asn r.va = none := by
      unfold State.hallLine at hline ⊢
      rw [hhall]
      exact hline
    exact ⟨_, (execPageWalk_translated hr hready hmiss hread).trans (congrArg _ (State.translated_of_absent hwalk hperm hregion hline')),
      movesOn_of_coresMem (State.fetchFrame_moves hu x) hsame⟩
  case forbidden =>
    obtain ⟨hsame, hrequests, -⟩ := State.translate_leaves hwalk
    have hu : u.request? r.walked.id = some r := by
      unfold State.request?
      rw [hrequests]
      exact hr
    refine ⟨_, (execPageWalk_translated hr hready hmiss hread).trans (congrArg _ (State.translated_of_forbidden hwalk hperm)),
      movesOn_of_coresMem (movesOn_imp (State.refuse_moves hu .protection) fun x hx => ?_) hsame⟩
    rw [hx.1]
  case fill =>
    refine ⟨_, execLineFill_of_ready hr htrans hready, ?_, fun hline => ?_⟩
    · obtain ⟨u, hu⟩ : ∃ u, u = if (s.hallLine r.asn r.va).isSome then s else (s.fillLine r.asn r.va x).memoryErrors (x.pa r.va / 128) := ⟨_, rfl⟩
      have hkeeps : s.Keeps u := hu ▸ .ite (.refl s) ((s.fillLine_keeps ..).trans (State.memoryErrors_keeps ..))
      obtain ⟨y, hy⟩ := Option.isSome_iff_exists.mp (hkeeps.1 r.id (Option.isSome_of_eq_some hr))
      rw [← hu]
      exact movesOn_of_coresMem (State.serve_prefetch_moves (r := { r with stage := .walk }) hy hop hregion hphaser) hkeeps.2
    · rw [if_neg (by simp [hline])]
      exact State.lined_serve_prefetch (State.lined_memoryErrors (s.lined_fillLine r.asn r.va x) _) hop hregion hphaser
  case escape =>
    refine ⟨_, execEscape_of_escapes hr hescapes, State.enterRouter_moves (r := { r with escaped := true }) hr r.at_ s.cycle⟩

/-! Routers and hot lines (R449, R451, R455, R461) -/

/-- A step that changes the router of one die. -/
theorem routers_of_modify {s : State} {d : Fin 8} {f : Router → Router} {x : Router} (hx : f s.routers[d] = x) :
    let t : State := { s with routers := Vec.modify s.routers d f }
    t = { s with routers := t.routers } ∧ (∀ e, e ≠ d → t.routers[e] = s.routers[e]) ∧ t.routers[d] = x :=
  ⟨rfl, fun _ he => Vec.getElem_modify_ne _ _ he, (Vec.getElem_modify_same ..).trans hx⟩

theorem routersSleep (s : State) : RoutersSleep s := by
  intro d
  refine ⟨fun hcycle => ?count, fun hidle hused => ?stayUp, fun hidle hunused => ?sleep, fun due hwake hdue => ?wake⟩
  case count => exact ⟨_, congrArg Host.Outcome.next (if_pos hcycle), routers_of_modify rfl⟩
  case stayUp => exact ⟨_, congrArg Host.Outcome.next (if_pos hidle), routers_of_modify (if_pos (List.any_eq_true.mpr hused))⟩
  case sleep =>
    have hany : ¬ (s.requests.any fun x => s.usesRouter x d) = true := by simpa using hunused
    exact ⟨_, congrArg Host.Outcome.next (if_pos hidle), routers_of_modify (if_neg hany)⟩
  case wake =>
    refine ⟨_, ?_, routers_of_modify (f := fun r => { r with up := true, wakeAt := none, idleFrom := s.cycle }) rfl⟩
    show execRouterWake d s = _
    simp only [execRouterWake, hwake, if_pos hdue]

theorem trafficAndHotLines (s : State) : TrafficAndHotLines s := by
  refine ⟨fun hcycle => ⟨_, congrArg Host.Outcome.next (if_pos hcycle), rfl, fun d c => ?_⟩, fun line => ⟨_, rfl, rfl, fun h => ?_⟩⟩
  · show (Vector.replicate 8 (Vector.replicate 8 0) : Vector (Vector Nat 8) 8)[d][c] = 0
    simp
  · exact List.mem_map.trans (exists_congr fun g => and_congr_right fun _ => eq_comm)

/-- Settles O55: bank ports, requests on their way, routers, and hot lines. -/
theorem fabricEvents : Obligations.FabricEvents := fun s => ⟨portsAccept s, requestsMoveOn s, routersSleep s, trafficAndHotLines s⟩

end Sys2Proof.Machine
end

section
/-!
Proofs for O52, on ranges, leaves and pieces that ended cores take.
-/
namespace Sys2Proof.Machine

/-! Ranges, leaves and pieces (R374-R376) -/

/-- The arguments of a task of a range: the bounds, then those of its entry. -/
def RangeEntry.taskArgs (e : RangeEntry) (lo hi : Nat) : Vector (BitVec 64) 8 := Vec.ofFn fun i =>
  if i.val = 0 then BitVec.ofNat 64 lo else if i.val = 1 then BitVec.ofNat 64 hi
  else if h : 2 ≤ i.val then e.args[i.val - 2]'(by omega) else 0

theorem RangeEntry.taskArgs_rest (e : RangeEntry) (lo hi : Nat) (i : Fin 6) : (e.taskArgs lo hi)[i.val + 2] = e.args[i] := by
  simp [RangeEntry.taskArgs]

/-- A task of a range has started. -/
theorem State.startPiece_starts (s : State) (c : CoreId) (x : Team) (e : RangeEntry) (lo hi : Nat) (leaf : Option (Nat × Nat)) (splitFrom : Option Nat) :
    StartsPiece s (s.startPiece c x e lo hi leaf splitFrom) c e lo hi := by
  obtain ⟨node, hnode⟩ : ∃ node : Node, node =
      { id := s.nextId, team := x.id, index := (s.task c).index, parent := e.poster, child := e.child, leaf, splitFrom, lo } := ⟨_, rfl⟩
  obtain ⟨u, hu⟩ : ∃ u : State, u = { s with nextId := s.nextId + 1 } := ⟨_, rfl⟩
  have hpiece : s.startPiece c x e lo hi leaf splitFrom =
      u.startTask c x (s.task c).index e.entry (e.taskArgs lo hi) e.views node (some ⟨lo, hi, e⟩) := by rw [hu, hnode]; rfl
  have htask := u.task_startTask c x (s.task c).index e.entry (e.taskArgs lo hi) e.views node (some ⟨lo, hi, e⟩)
  have hbody := u.body_startTask c x (s.task c).index e.entry (e.taskArgs lo hi) e.views node (some ⟨lo, hi, e⟩)
  have hcycle : u.cycle = s.cycle := by rw [hu]
  rw [hpiece]
  refine ⟨by rw [htask], by rw [htask, ← hcycle], by rw [htask], by rw [hbody]; rfl, ?_, ?_, fun i => ?_, by rw [hu]; rfl, fun d hd => ?_⟩
  · rw [hbody]
    exact (startRegs_arg _ _ _ 0).trans (by simp [RangeEntry.taskArgs])
  · rw [hbody]
    exact (startRegs_arg _ _ _ 1).trans (by simp [RangeEntry.taskArgs])
  · rw [hbody]
    exact (startRegs_arg _ _ _ ⟨i.val + 2, by omega⟩).trans (e.taskArgs_rest lo hi i)
  · exact (congrArg Core.b (u.cores_startTask_ne c x _ e.entry _ e.views node _ hd)).trans (by rw [hu]; rfl)

/-- Changes of other parts of the state may come before. -/
theorem startsPiece_of {s u t : State} {c : CoreId} {e : RangeEntry} {lo hi : Nat} (h : StartsPiece u t c e lo hi) (hcycle : u.cycle = s.cycle)
    (hmem : u.mem = s.mem) (hbody : ∀ d, u.body d = s.body d) : StartsPiece s t c e lo hi := by
  obtain ⟨hstate, hstart, hpiece, hpc, hlo, hhi, hargs, hbytes, hothers⟩ := h
  exact ⟨hstate, hcycle ▸ hstart, hpiece, hpc, hlo, hhi, hargs, hbytes.trans hmem, fun d hd => (hothers d hd).trans (hbody d)⟩

theorem State.ranges_startPiece {s : State} {x y : Team} (hy : s.team? x.id = some y) (c : CoreId) (e : RangeEntry) (lo hi : Nat)
    (leaf : Option (Nat × Nat)) (splitFrom : Option Nat) : ((s.startPiece c x e lo hi leaf splitFrom).team? x.id).map (·.ranges) = some y.ranges := by
  have hteam : (s.startPiece c x e lo hi leaf splitFrom).team? x.id = some { y with nextTask := y.nextTask + 1 } :=
    State.team?_modTeam (f := fun y => { y with nextTask := y.nextTask + 1 }) hy rfl
  rw [hteam]
  rfl

section
variable {s : State} {c : CoreId} {x : Team} (hteam : s.teamOf c = some x)
include hteam

/-- The team's queue is left with what remains, and the task has started. -/
theorem takeRange_leaves (ranges : List RangeEntry) (e : RangeEntry) (lo hi : Nat) (leaf : Option (Nat × Nat)) :
    let t := (s.modTeam x.id fun x => { x with ranges }).startPiece c x e lo hi leaf none
    StartsPiece s t c e lo hi ∧ (t.team? x.id).map (·.ranges) = some ranges := by
  have hmod : (s.modTeam x.id fun x => { x with ranges }).team? x.id = some { x with ranges } :=
    State.team?_modTeam (f := fun x => { x with ranges }) (State.team?_of_teamOf hteam) rfl
  exact ⟨startsPiece_of (State.startPiece_starts ..) rfl rfl fun _ => rfl, State.ranges_startPiece hmod c e lo hi leaf none⟩

theorem execRangeTake_of_takes (htakes : s.takes c x = true) : execRangeTake c s = .next (s.takeRange c x) := by
  simp only [execRangeTake, hteam, htakes, if_true]

end

theorem rangesAreTaken (s : State) (c : CoreId) : RangesAreTaken s c := by
  intro x hteam htakes
  have hexec : exec (.rangeTake c) s = .next (s.takeRange c x) := execRangeTake_of_takes hteam htakes
  refine ⟨fun e rest hranges hfixed => ?range, fun e rest hranges hfixed => ?leaf, fun o p n hranges hwidest hother => ?split⟩
  case range =>
    have htake : s.takeRange c x = (s.modTeam x.id fun x => { x with ranges := rest }).startPiece c x e e.lo e.hi none none := by
      simp only [State.takeRange, hranges, hfixed, Bool.false_eq_true, if_false]
    rw [hexec, completes_next, htake]
    exact takeRange_leaves hteam rest e e.lo e.hi none
  case leaf =>
    have htake : s.takeRange c x = (s.modTeam x.id fun x => { x with
        ranges := if e.leaf + 1 < grains e.lo e.hi e.grain then { e with leaf := e.leaf + 1 } :: rest else rest }).startPiece c x e
        (e.lo + e.leaf * e.grain) (min (e.lo + e.leaf * e.grain + e.grain) e.hi) (some (e.leaf, grains e.lo e.hi e.grain)) none := by
      simp only [State.takeRange, hranges, hfixed, if_true]
    rw [hexec, completes_next, htake]
    exact takeRange_leaves hteam _ e _ _ _
  case split =>
    obtain ⟨u, hu⟩ : ∃ u, u = s.modTask o fun t => { t with piece := some { p with hi := p.cursor + p.entry.grain * (n / 2) } } := ⟨_, rfl⟩
    have htake : s.takeRange c x = u.startPiece c x p.entry (p.cursor + p.entry.grain * (n / 2)) p.hi none (s.task o).node := by
      rw [hu]
      simp only [State.takeRange, hranges, hwidest]
    rw [hexec, completes_next, htake]
    refine ⟨startsPiece_of (State.startPiece_starts ..) (by rw [hu]; rfl) (by rw [hu]; rfl) fun d => by rw [hu, State.body_modTask], ?_⟩
    have hkept : (u.startPiece c x p.entry (p.cursor + p.entry.grain * (n / 2)) p.hi none (s.task o).node).task o = u.task o :=
      congrArg Core.task (State.cores_startTask_ne _ c x _ _ _ _ _ _ hother)
    rw [hkept, hu, State.task_modTask_same]

end Sys2Proof.Machine
end

section
/-!
Proofs for O52, on the lines that a merge unit reads and writes.
-/
namespace Sys2Proof.Machine

/-! Lines of a target (R385, R386) -/

theorem linePieces_of_lines (l n : Nat) : linePieces (128 * l) (128 * n) = (List.range n).map fun i => (128 * (l + i), 128) := by
  unfold linePieces
  split
  next hnone =>
    obtain rfl : n = 0 := by omega
    rfl
  next hsome =>
    have hcount : (128 * l + 128 * n - 1) / 128 - 128 * l / 128 + 1 = n := by omega
    rw [hcount]
    refine List.map_congr_left fun i hi => ?_
    have hi := List.mem_range.mp hi
    refine Prod.ext ?_ ?_ <;> dsimp only <;> omega

theorem linePieces_of_line (l : Nat) : linePieces (128 * l) 128 = [(128 * l, 128)] := linePieces_of_lines l 1

/-- The bytes of lines, each with its 128. -/
theorem flatMap_lines {n : Nat} {bs : List (BitVec 8)} (h : bs.length = 128 * n) : ((List.range n).flatMap fun i => (bs.drop (128 * i)).take 128) = bs := by
  induction n generalizing bs with
  | zero => exact (List.eq_nil_of_length_eq_zero h).symm
  | succ n ih =>
    have hrest : (bs.drop 128).length = 128 * n := by rw [List.length_drop]; omega
    have hshift : ((List.range n).flatMap fun i => (bs.drop (128 * (i + 1))).take 128) = (List.range n).flatMap fun i => ((bs.drop 128).drop (128 * i)).take 128 := by
      refine List.flatMap_congr fun i _ => ?_
      rw [List.drop_drop, Nat.mul_succ, Nat.add_comm 128]
    rw [List.range_succ_eq_map, List.flatMap_cons, List.flatMap_map]
    simp only [Nat.mul_zero, List.drop_zero]
    rw [hshift, ih hrest, List.take_append_drop]

/-! Combined lines (R382) -/

theorem length_joinWords {ws : List Nat} {n : Nat} (h : ws.length = n) : (joinWords ws).length = 4 * n := by
  unfold joinWords
  rw [List.length_flatMap]
  simp [length_bytesLE, h, Nat.mul_comm]

theorem length_combineLine {op : Fin 8} {intoView touched : Bool} {a b : List (BitVec 8)} (ha : a.length = 128) (hb : b.length = 128) :
    (combineLine op intoView touched a b).1.length = 128 := by
  have hwords (x : List (BitVec 8)) : (words x).length = 32 := by simp [words]
  have heach (f : Nat → Nat → Nat) : (joinWords (List.zipWith f (words a) (words b))).length = 128 :=
    length_joinWords (n := 32) (by simp [hwords])
  unfold combineLine
  dsimp only
  split
  case h_1 => exact length_joinWords (n := 32) (by simp [hwords])
  case h_2 => exact heach _
  case h_3 => exact heach _
  case h_4 => exact heach _
  case h_5 => simp [ha, hb]
  case h_6 => split <;> assumption
  case h_7 => exact hb

theorem Body.length_readHeld (b : Body) (e : ViewEntry) (x n : Nat) : (b.readHeld e x n).length = n := by simp [Body.readHeld]

/-! Views -/

theorem nextTouched_lt {e : ViewEntry} {j l : Nat} (h : nextTouched e j = some l) : l < 2 ^ 14 := by
  have hmem := List.mem_range.mp (List.mem_of_find?_eq_some h)
  have := e.linesM1.isLt
  omega

theorem nextTile_lt {e : ViewEntry} {j l : Nat} (h : nextTile e j = some l) : l < 2 ^ 14 := by
  unfold nextTile at h
  obtain ⟨m, hm, rfl⟩ := Option.map_eq_some_iff.mp h
  exact (Nat.div_mul_le_self ..).trans_lt (nextTouched_lt hm)

theorem toNat_line {l : Nat} (h : l < 2 ^ 14 + 2 ^ 7) : (BitVec.ofNat 56 (128 * l)).toNat = 128 * l := by
  rw [BitVec.toNat_ofNat]
  omega

/-! Accesses to a line (R385) -/

section
variable {s : State} {c d : CoreId} {vt : Fin 8} {l round : Nat}

/-- A line of a view, as the merge unit names it. -/
def siblingLine (c d : CoreId) (vt : Fin 8) : AwayFor := .sibling c d (some vt)

theorem State.readTarget_view (e : ViewEntry) (hl : l < 2 ^ 14) (n : Nat) : s.readTarget c (.view d) vt e l n round =
    s.glbLines (siblingLine c d vt) 0 ((List.range n).map fun i => (128 * (l + i), 128)) round true true := by
  show s.glbLines _ _ (linePieces (BitVec.ofNat 56 (128 * l)).toNat (128 * n)) round true true = _
  rw [toNat_line (by omega), linePieces_of_lines]
  rfl

/-- Lines that have all answered give their bytes, in order. -/
theorem State.gather_of_answered {ns : List Nat} {found : Nat → List (BitVec 8)} (h : ∀ i ∈ ns, LineAnswered s c d vt (l + i) round none (found i)) :
    s.gather (siblingLine c d vt) 0 round (ns.map fun i => (128 * (l + i), 128)) = .ok (ns.flatMap found) := by
  induction ns with
  | nil => rfl
  | cons i ns ih =>
    obtain ⟨a, ha, hanswer⟩ := h i (List.mem_cons_self ..)
    have hrest := ih fun j hj => h j (List.mem_cons_of_mem _ hj)
    have ha : s.access? (siblingLine c d vt) 0 (BitVec.ofNat 56 (128 * (l + i))) 128 none round = some a := ha
    simp only [List.map_cons, State.gather, ha, Option.bind_some, hanswer, hrest, List.flatMap_cons]

theorem State.readTarget_of_answered {n : Nat} {found : Nat → List (BitVec 8)} (e : ViewEntry) (hl : l < 2 ^ 14)
    (h : ∀ i < n, LineAnswered s c d vt (l + i) round none (found i)) :
    s.readTarget c (.view d) vt e l n round = (.ok ((List.range n).flatMap found), s) := by
  rw [State.readTarget_view e hl]
  exact State.glbLines_of_gathered (State.gather_of_answered fun i hi => h i (List.mem_range.mp hi)) true true

theorem State.readTarget_line_of_answered {found : List (BitVec 8)} (e : ViewEntry) (hl : l < 2 ^ 14) (h : LineAnswered s c d vt l round none found) :
    s.readTarget c (.view d) vt e l 1 round = (.ok found, s) := by
  have hread := State.readTarget_of_answered (n := 1) (found := fun _ => found) e hl fun i hi => by
    obtain rfl : i = 0 := by omega
    exact h
  simpa using hread

/-- A read of a line that has not been asked for. -/
theorem State.readTarget_of_new (e : ViewEntry) (hl : l < 2 ^ 14) (hnew : ∀ a ∈ s.accesses, a.who.mergeOf ≠ some c) :
    s.readTarget c (.view d) vt e l 1 = (.waits, s.startAccess (siblingLine c d vt) 0 (.ofNat 56 (128 * l)) 128 none 0) := by
  rw [State.readTarget_view e hl]
  exact State.glbLines_of_new (c := c) rfl (fun a ha heq => hnew a ha (by rw [heq]; rfl)) ..

theorem State.writeTarget_of_answered (e : ViewEntry) (hl : l < 2 ^ 14) {bs found : List (BitVec 8)} (hbs : bs.length = 128)
    (h : LineAnswered s c d vt l 0 (some bs) found) : s.writeTarget c (.view d) vt e l bs = (.ok [], s) := by
  obtain ⟨a, ha, hanswer⟩ := h
  have hline : s.glbLine (siblingLine c d vt) 0 (.ofNat 56 (128 * l)) 128 (some bs) 0 = (.ok found, s) := by
    have ha : s.access? (siblingLine c d vt) 0 (BitVec.ofNat 56 (128 * l)) 128 (some bs) 0 = some a := ha
    simp only [State.glbLine, ha, hanswer]
  have hwrite : s.glbWrite (siblingLine c d vt) 0 (.ofNat 56 (128 * l)) bs = (.ok [], s) := by
    simp only [State.glbWrite, toNat_line (show l < 2 ^ 14 + 2 ^ 7 by omega), hbs, linePieces_of_line, State.writeLines,
      List.take_of_length_le hbs.le, hline]
  unfold siblingLine at hwrite
  simp only [State.writeTarget, State.targetPlace, hwrite, reduceCtorEq, if_false]

theorem State.writeTarget_of_new (e : ViewEntry) (hl : l < 2 ^ 14) {bs : List (BitVec 8)} (hbs : bs.length = 128)
    (hnew : ∀ a ∈ s.accesses, a.who.mergeOf = some c → a.bytes = none) :
    s.writeTarget c (.view d) vt e l bs = (.waits, s.startAccess (siblingLine c d vt) 0 (.ofNat 56 (128 * l)) 128 (some bs) 0) := by
  have hnone : s.access? (siblingLine c d vt) 0 (.ofNat 56 (128 * l)) 128 (some bs) 0 = none := by
    refine List.find?_eq_none.mpr fun a ha hmatch => ?_
    simp only [Bool.and_eq_true, beq_iff_eq] at hmatch
    obtain ⟨⟨⟨⟨⟨hwho, -⟩, -⟩, -⟩, hbytes⟩, -⟩ := hmatch
    have hread := hnew a ha (by rw [hwho]; rfl)
    rw [hread] at hbytes
    cases hbytes
  have hline : s.glbLine (siblingLine c d vt) 0 (.ofNat 56 (128 * l)) 128 (some bs) 0 =
      (.waits, s.startAccess (siblingLine c d vt) 0 (.ofNat 56 (128 * l)) 128 (some bs) 0) := by
    simp only [State.glbLine, hnone]
  have hwrite : s.glbWrite (siblingLine c d vt) 0 (.ofNat 56 (128 * l)) bs =
      (.waits, s.startAccess (siblingLine c d vt) 0 (.ofNat 56 (128 * l)) 128 (some bs) 0) := by
    simp only [State.glbWrite, toNat_line (show l < 2 ^ 14 + 2 ^ 7 by omega), hbs, linePieces_of_line, State.writeLines,
      List.take_of_length_le hbs.le, hline]
  unfold siblingLine at hwrite ⊢
  simp only [State.writeTarget, State.targetPlace, hwrite]

end

end Sys2Proof.Machine
end

section
/-!
Proofs for O52, on one action of a merge unit and what it leaves.
-/
namespace Sys2Proof.Machine

/-! Entries of lists with a number -/

/-- The first entry of a number, after those of that number have changed. -/
theorem find?_map_of_key {α : Type} {key : α → Nat} {k : Nat} {f : α → α} {xs : List α} {x : α} (h : xs.find? (key · == k) = some x)
    (hf : key (f x) = k) : (xs.map fun y => if key y = k then f y else y).find? (key · == k) = some (f x) := by
  induction xs with
  | nil => cases h
  | cons y ys ih =>
    rw [List.map_cons]
    by_cases hy : key y = k
    · rw [List.find?_cons_of_pos (by simp [hy])] at h
      cases h
      rw [if_pos hy, List.find?_cons_of_pos (by simp [hf])]
    · rw [List.find?_cons_of_neg (by simp [hy])] at h
      rw [if_neg hy, List.find?_cons_of_neg (by simp [hy])]
      exact ih h

theorem State.node?_modNode {s : State} {k : Nat} {n : Node} {f : Node → Node} (h : s.node? k = some n) (hf : (f n).id = n.id) :
    (s.modNode k f).node? k = some (f n) := by
  have hid : n.id = k := by simpa using List.find?_some h
  exact find?_map_of_key h (hf.trans hid)

/-! What a merge unit leaves between its lines (R386, R387) -/

/-- The progress of one merge unit, nodes and the counter of free values change at most. -/
def State.OnlyProgress (s t : State) (c : CoreId) : Prop :=
  t = { s with cores := t.cores, nodes := t.nodes, fresh := t.fresh } ∧ (∀ x, t.body x = s.body x) ∧
    t.task c = { s.task c with progress := (t.task c).progress, tryAt := (t.task c).tryAt }

section
variable {s t u : State} {c : CoreId}

theorem State.OnlyProgress.refl : s.OnlyProgress s c := ⟨rfl, fun _ => rfl, rfl⟩

theorem State.OnlyProgress.trans (hst : s.OnlyProgress t c) (htu : t.OnlyProgress u c) : s.OnlyProgress u c := by
  obtain ⟨hframe, hbody, htask⟩ := hst
  obtain ⟨hframe', hbody', htask'⟩ := htu
  refine ⟨?_, fun x => (hbody' x).trans (hbody x), ?_⟩
  · rw [hframe', hframe]
  · rw [htask', htask]

theorem State.OnlyProgress.mem (h : s.OnlyProgress t c) : t.mem = s.mem := by rw [h.1]

theorem State.OnlyProgress.accesses (h : s.OnlyProgress t c) : t.accesses = s.accesses := by rw [h.1]

theorem State.OnlyProgress.sameBytes (h : s.OnlyProgress t c) : SameBytes s t := sameBytes_of_bodies h.mem h.2.1

theorem State.OnlyProgress.attempts (h : s.OnlyProgress t c) : (t.task c).attempts = (s.task c).attempts := by rw [h.2.2]

theorem State.OnlyProgress.buffer (h : s.OnlyProgress t c) : (t.task c).buffer = (s.task c).buffer := by rw [h.2.2]

end

section
variable (s : State) (c : CoreId)

theorem State.progress_modProgress (f : Progress → Progress) : ((s.modProgress c f).task c).progress = f (s.task c).progress := by
  rw [State.modProgress, State.task_modTask_same]

theorem State.modProgress_only (f : Progress → Progress) : s.OnlyProgress (s.modProgress c f) c :=
  ⟨rfl, fun x => by rw [State.modProgress, State.body_modTask], by rw [State.progress_modProgress, State.modProgress, State.task_modTask_same]⟩

theorem State.mergeLater_only (n : Nat) : s.OnlyProgress (s.mergeLater c n) c := by
  have heq : s.mergeLater c n = State.modTask { s with fresh := s.fresh + 1 } c fun t => { t with
      tryAt := s.cycle + s.lineCycles n + Config.engineWait s.fresh } := rfl
  rw [heq]
  refine ⟨rfl, fun x => by rw [State.body_modTask]; rfl, ?_⟩
  rw [State.task_modTask_same]
  rfl

theorem State.progress_mergeLater (n : Nat) : ((s.mergeLater c n).task c).progress = (s.task c).progress := by
  have heq : s.mergeLater c n = State.modTask { s with fresh := s.fresh + 1 } c fun t => { t with
      tryAt := s.cycle + s.lineCycles n + Config.engineWait s.fresh } := rfl
  rw [heq, State.task_modTask_same]
  rfl

end

section
variable {s u t : State} {c : CoreId} {n : Node} {vt : Fin 8} {more : Bool} {l : Nat}

/-- The delay before the next action changes nothing of it. -/
theorem mergedUpTo_mergeLater (h : MergedUpTo s t c n vt more l) (k : Nat) : MergedUpTo s (t.mergeLater c k) c n vt more l := by
  unfold MergedUpTo at h ⊢
  rw [State.progress_mergeLater]
  exact h

theorem mergedUpTo_of (h : MergedUpTo u t c n vt more l) (hnodes : u.nodes = s.nodes) (hvts : (u.body c).vts = (s.body c).vts) :
    MergedUpTo s t c n vt more l := by
  unfold MergedUpTo State.node? at h ⊢
  rwa [hnodes, hvts] at h

theorem State.entryMerged_leaves (s : State) (c : CoreId) (n : Node) (vt : Fin 8) (l : Nat) :
    s.OnlyProgress (s.entryMerged c n vt) c ∧ MergedUpTo s (s.entryMerged c n vt) c n vt false l := by
  unfold State.entryMerged
  split
  next i hi =>
    refine ⟨s.modProgress_only c _, nofun, fun _ j hj => ?_, fun _ hnone => ?_⟩
    · obtain rfl : i = j := Option.some.inj (hi.symm.trans hj)
      rw [State.progress_modProgress]
      exact ⟨rfl, rfl, rfl⟩
    · rw [hi] at hnone
      cases hnone
  next hnone =>
    refine ⟨⟨rfl, fun _ => rfl, rfl⟩, nofun, fun _ j hj => ?_, fun _ _ hn => State.node?_modNode (f := fun n => { n with merged := true }) hn rfl⟩
    rw [hnone] at hj
    cases hj

/-- The next line of an entry that the merge unit takes. -/
def ViewEntry.nextLine (e : ViewEntry) (j : Nat) : Option Nat := if e.op = 2 then nextTile e j else nextTouched e j

theorem State.linesMerged_leaves (s : State) {c : CoreId} {n : Node} {vt : Fin 8} (hvt : (s.task c).progress.vt = vt.val) (e : ViewEntry) (l : Nat) :
    s.OnlyProgress (s.linesMerged c n vt e l) c ∧ MergedUpTo s (s.linesMerged c n vt e l) c n vt (e.nextLine l).isSome l := by
  unfold State.linesMerged
  cases hnext : e.nextLine l with
  | none => 
    unfold ViewEntry.nextLine at hnext
    rw [hnext]
    exact s.entryMerged_leaves c n vt l
  | some m =>
    unfold ViewEntry.nextLine at hnext
    rw [hnext]
    refine ⟨s.modProgress_only c _, fun _ => ?_, nofun, nofun⟩
    dsimp only
    rw [State.progress_modProgress]
    exact ⟨hvt, rfl, rfl⟩

end

/-! One action of a merge unit (R386) -/

/-- The merge unit has taken up its action. -/
def State.pushing (s : State) (c : CoreId) (n : Node) : State := s.modProgress c fun p => { p with region := n.toRegion }

section
variable {s : State} {c : CoreId} {n : Node} {g : MergeTarget} {vt : Fin 8}

theorem State.pushing_only (s : State) (c : CoreId) (n : Node) : s.OnlyProgress (s.pushing c n) c := s.modProgress_only c _

theorem State.progress_pushing (s : State) (c : CoreId) (n : Node) : ((s.pushing c n).task c).progress = { (s.task c).progress with region := n.toRegion } :=
  s.progress_modProgress c _

/-- The action on an entry whose tile buffer is empty. -/
theorem State.pushStep_eq (hvt : (s.task c).progress.vt = vt.val) (hbuf : (s.task c).progress.buf = false)
    (hentry : nextEntry (s.body c).vts vt.val = some vt) : s.pushStep c n g =
      match (s.body c).vts[vt].nextLine (s.task c).progress.line with
      | none => (s.pushing c n).entryMerged c n vt
      | some l => if (s.body c).vts[vt].op = 2 then (s.pushing c n).mergeTile c n g vt (s.body c).vts[vt] l
        else (s.pushing c n).mergeLine c n g vt (s.body c).vts[vt] l := by
  have hbody : (s.pushing c n).body c = s.body c := (s.pushing_only c n).2.1 c
  have hprogress := s.progress_pushing c n
  unfold State.pushing at hbody hprogress ⊢
  simp only [State.pushStep, hbody, hprogress, hvt, hentry, if_true, hbuf, Bool.false_eq_true, if_false]
  rfl

theorem execMergePush_of_due (hdue : s.pushDue c = some (n, g)) : execMergePush c s = .next (s.pushStep c n g) := by
  simp only [execMergePush, hdue]

theorem execMergeTileRetry_of_due (hdue : s.pushDue c = some (n, g)) (hagain : 0 < (s.task c).attempts) :
    execMergeTileRetry c s = .next (s.pushStep c n g) := by
  simp only [execMergeTileRetry, hdue, if_pos hagain]

end

section
variable {s : State} {c d : CoreId} {n : Node} {vt : Fin 8} {e : ViewEntry} {l : Nat}

/-- The line of the target, combined with what the merge unit's own view holds. -/
def State.combined (s : State) (c d : CoreId) (vt : Fin 8) (e : ViewEntry) (l : Nat) (there : List (BitVec 8)) : List (BitVec 8) × Option Nat :=
  combineLine e.op true ((s.body d).vts[vt].touched.contains l) there ((s.body c).readHeld e (128 * l) 128)

theorem State.length_combined {there : List (BitVec 8)} (hlength : there.length = 128) : (s.combined c d vt e l there).1.length = 128 :=
  length_combineLine hlength (Body.length_readHeld ..)

theorem State.mergeLine_of_new (hl : l < 2 ^ 14) (hnew : ∀ a ∈ s.accesses, a.who.mergeOf ≠ some c) :
    s.mergeLine c n (.view d) vt e l = s.keepAways (s.startAccess (siblingLine c d vt) 0 (.ofNat 56 (128 * l)) 128 none 0) := by
  simp only [State.mergeLine, State.readTarget_of_new e hl hnew, State.mergeStops]

theorem State.mergeLine_of_read (hl : l < 2 ^ 14) {there : List (BitVec 8)} (hread : LineAnswered s c d vt l 0 none there) (hlength : there.length = 128)
    (hnew : ∀ a ∈ s.accesses, a.who.mergeOf = some c → a.bytes = none) : s.mergeLine c n (.view d) vt e l =
      s.keepAways (s.startAccess (siblingLine c d vt) 0 (.ofNat 56 (128 * l)) 128 (some (s.combined c d vt e l there).1) 0) := by
  have hwrite := State.writeTarget_of_new (vt := vt) (d := d) e hl (State.length_combined (s := s) (c := c) (d := d) (vt := vt) (e := e) (l := l) hlength) hnew
  unfold State.combined at hwrite ⊢
  simp only [State.mergeLine, State.readTarget_line_of_answered e hl hread, State.targetTouched, hwrite, State.mergeStops]

/-- Word w of a line that overflows is reported. -/
def State.reportOverflow (s : State) (c : CoreId) (e : ViewEntry) (l : Nat) : Option Nat → State
  | some w => s.postOverflow c e l w
  | none => s

theorem State.mergeLine_of_written (hl : l < 2 ^ 14) {there : List (BitVec 8)} (hread : LineAnswered s c d vt l 0 none there) (hlength : there.length = 128)
    (hwritten : LineAnswered s c d vt l 0 (some (s.combined c d vt e l there).1) []) : s.mergeLine c n (.view d) vt e l =
      (((s.forgetMerge c).reportOverflow c e l (s.combined c d vt e l there).2).linesMerged c n vt e (l + 1)).mergeLater c 1 := by
  have hwrite := State.writeTarget_of_answered e hl (State.length_combined (s := s) (c := c) (d := d) (vt := vt) (e := e) (l := l) hlength) hwritten
  unfold State.combined at hwrite ⊢
  simp only [State.mergeLine, State.readTarget_line_of_answered e hl hread, State.targetTouched, hwrite]
  rfl

end

end Sys2Proof.Machine
end

section
/-!
Proofs for O52, on reports of a merge and tiles.
-/
namespace Sys2Proof.Machine

/-! Reports of a merge (R209, R386) -/

/-- Core c may have reports more, nothing else changes. -/
def State.OnlyPosts (s t : State) (c : CoreId) : Prop := ∃ posts, t = s.modBody c fun b => { b with posts := b.posts ++ posts }

section
variable {s t : State} {c : CoreId}

theorem State.OnlyPosts.refl : s.OnlyPosts s c := ⟨[], (s.modBody_id c (fun b => { b with posts := b.posts ++ [] }) (by rw [List.append_nil])).symm⟩

theorem State.OnlyPosts.trans {u : State} (hst : s.OnlyPosts t c) (htu : t.OnlyPosts u c) : s.OnlyPosts u c := by
  obtain ⟨posts, rfl⟩ := hst
  obtain ⟨more, rfl⟩ := htu
  refine ⟨posts ++ more, ?_⟩
  rw [State.modBody_modBody]
  simp only [Function.comp_def, List.append_assoc]

theorem State.reportOverflow_posts (s : State) (c : CoreId) (e : ViewEntry) (l : Nat) (w : Option Nat) : s.OnlyPosts (s.reportOverflow c e l w) c := by
  cases w with
  | none => exact .refl
  | some w => exact ⟨[_], rfl⟩

theorem State.OnlyPosts.body_ne (h : s.OnlyPosts t c) {x : CoreId} (hx : x ≠ c) : t.body x = s.body x := by
  obtain ⟨posts, rfl⟩ := h
  exact State.body_modBody_ne _ _ hx

theorem State.OnlyPosts.body_same (h : s.OnlyPosts t c) : (t.body c).g = (s.body c).g ∧ (t.body c).vts = (s.body c).vts := by
  obtain ⟨posts, rfl⟩ := h
  rw [State.body_modBody_same]
  exact ⟨rfl, rfl⟩

theorem State.OnlyPosts.task (h : s.OnlyPosts t c) (x : CoreId) : t.task x = s.task x := by
  obtain ⟨posts, rfl⟩ := h
  exact State.task_modBody ..

theorem State.OnlyPosts.sameBytes (h : s.OnlyPosts t c) : SameBytes s t := by
  obtain ⟨posts, rfl⟩ := h
  exact sameBytes_modBody_of (f := fun b => { b with posts := b.posts ++ posts }) (sameBytes_of_bodies rfl fun _ => rfl) ⟨rfl, rfl, rfl, rfl⟩

theorem State.OnlyPosts.rest (h : s.OnlyPosts t c) : t.nodes = s.nodes ∧ t.accesses = s.accesses := by
  obtain ⟨posts, rfl⟩ := h
  exact ⟨rfl, rfl⟩

end

/-! Tiles (R166, R386) -/

section
variable {s : State} {c d : CoreId} {n : Node} {vt : Fin 8} {e : ViewEntry} {l : Nat} {old again : List (BitVec 8)}

/-- An attempt at a tile has failed: blocks under rewrite, or a header that has changed. -/
def tileBad (old again : List (BitVec 8)) : Bool := again != old.take 128 || (List.range 64).any fun r => headerE (tileHeader old r) == 255

theorem tileBad_iff : tileBad old again = true ↔ again ≠ old.take 128 ∨ ∃ r ∈ List.range 64, headerE (tileHeader old r) = 255 := by
  simp only [tileBad, Bool.or_eq_true, bne_iff_ne, List.any_eq_true, beq_iff_eq]

/-- The merge unit takes up a tile. -/
def State.atTile (s : State) (c : CoreId) (l : Nat) : State := s.modProgress c fun p => { p with line := l }

/-- The reports of a tile that was combined. -/
def State.tileReports (s : State) (c : CoreId) (e : ViewEntry) (l : Nat) (bad : Bool) (w : Option Nat) : State :=
  (if bad then s.postMergeRetry c e l else s).reportOverflow c e l w

theorem State.tileReports_posts (s : State) (c : CoreId) (e : ViewEntry) (l : Nat) (bad : Bool) (w : Option Nat) :
    s.OnlyPosts (s.tileReports c e l bad w) c := by
  refine .trans ?_ (State.reportOverflow_posts _ c e l w)
  split
  · exact ⟨[_], rfl⟩
  · exact .refl

section
variable (hl : l < 2 ^ 14) (hlength : old.length = 128 * (1 + 8 * e.planes.toNat))
  (hold : ∀ i < 1 + 8 * e.planes.toNat, LineAnswered s c d vt (l + i) 0 none ((old.drop (128 * i)).take 128)) (hagain : LineAnswered s c d vt l 1 none again)
include hl hlength hold hagain

theorem State.readTargetTile_of_answered : s.readTargetTile c (.view d) vt e l (1 + 8 * e.planes.toNat) = (.ok old, .ok again, s) := by
  have hread := State.readTarget_of_answered e hl hold
  rw [flatMap_lines hlength] at hread
  simp only [State.readTargetTile, hread, State.readTarget_line_of_answered e hl hagain]

end

section
variable (hread : (s.atTile c l).readTargetTile c (.view d) vt e l (1 + 8 * e.planes.toNat) = (.ok old, .ok again, s.atTile c l))
include hread

theorem State.mergeTile_of_bad (hbad : tileBad old again = true) (hfew : (s.task c).attempts + 1 < 256) : s.mergeTile c n (.view d) vt e l =
    ((s.atTile c l).forgetMerge c).modTask c fun k => { k with attempts := (s.task c).attempts + 1, tryAt := s.cycle + 64 } := by
  have hattempts : ((s.atTile c l).task c).attempts = (s.task c).attempts := (s.modProgress_only c _).attempts
  unfold tileBad at hbad
  unfold State.atTile at hread hattempts ⊢
  simp only [State.mergeTile, hread, hbad, hattempts, hfew, and_self, if_true]
  rfl

theorem State.mergeTile_of_last (hlast : tileBad old again = false ∨ 256 ≤ (s.task c).attempts + 1) :
    let r := combineTile e.planes.toNat old ((s.body c).readHeld e (128 * l) (128 * (1 + 8 * e.planes.toNat)))
    let lines := linesChanged e.planes.toNat old r.1
    let u := (((s.atTile c l).forgetMerge c).tileReports c e l (tileBad old again) r.2).modTask c fun k => { k with attempts := 0, buffer := lines }
    s.mergeTile c n (.view d) vt e l = (if lines = [] then u.linesMerged c n vt e (l + (1 + 8 * e.planes.toNat))
      else u.modProgress c fun p => { p with done := 0, buf := true }).mergeLater c 1 := by
  have hattempts : ((s.atTile c l).task c).attempts = (s.task c).attempts := (s.modProgress_only c _).attempts
  have hbody : (s.atTile c l).body c = s.body c := (s.modProgress_only c _).2.1 c
  have hgo : ¬(tileBad old again = true ∧ (s.task c).attempts + 1 < 256) := by
    rintro ⟨hbad, hfew⟩
    rcases hlast with hgood | hmany
    · rw [hgood] at hbad
      cases hbad
    · omega
  unfold tileBad at hgo ⊢
  unfold State.atTile at hread hattempts hbody ⊢
  simp only [State.mergeTile, hread, hattempts, if_neg hgo, hbody]
  rfl

end

end

end Sys2Proof.Machine
end

section
/-!
Proofs for O52, on pushes.
-/
namespace Sys2Proof.Machine

/-! Pushes (R385-R388) -/

section
variable {s : State} {c d : CoreId} {n : Node} {vt : Fin 8} {l : Nat}

theorem lineAnswered_of_accesses {u : State} {round : Nat} {bytes : Option (List (BitVec 8))} {found : List (BitVec 8)}
    (h : LineAnswered s c d vt l round bytes found) (hu : u.accesses = s.accesses) : LineAnswered u c d vt l round bytes found := by
  unfold LineAnswered State.access? at *
  rwa [hu]

/-- An access of the merge unit has set out, and it waits. -/
theorem pushing_asks (s : State) (c d : CoreId) (n : Node) (vt : Fin 8) (l : Nat) (bytes : Option (List (BitVec 8))) :
    let u := s.pushing c n
    let t := u.keepAways (u.startAccess (siblingLine c d vt) 0 (.ofNat 56 (128 * l)) 128 bytes 0)
    t.mem = s.mem ∧ (∀ x, t.body x = s.body x) ∧ (t.task c).progress.line = (s.task c).progress.line ∧ ∃ a, t.accesses = s.accesses ++ [a] ∧
      a.who = .sibling c d (some vt) ∧ a.va = BitVec.ofNat 56 (128 * l) ∧ a.n = 128 ∧ a.bytes = bytes ∧ a.answer = none := by
  obtain ⟨-, hbody, -⟩ := s.pushing_only c n
  obtain ⟨-, -, haccesses⟩ := (s.pushing c n).startAccess_frame (who := siblingLine c d vt) (c := c) rfl 0 (.ofNat 56 (128 * l)) 128 bytes 0
  refine ⟨(s.pushing_only c n).mem, hbody, ?_, _, haccesses.trans (congrArg (· ++ _) (s.pushing_only c n).accesses), rfl, rfl, rfl, rfl, rfl⟩
  show ((s.pushing c n).task c).progress.line = _
  rw [State.progress_pushing]

/-- What the end of an action leaves, once its accesses are forgotten and its reports are made. -/
theorem pushing_ends {u t : State} (hpushing : s.OnlyProgress u c) (hposts : (u.forgetMerge c).OnlyPosts t c) :
    SameBytes s t ∧ t.accesses = s.accesses.filter (·.who.mergeOf != some c) ∧ (t.body c).g = (s.body c).g ∧ (t.body c).vts = (s.body c).vts ∧
      (∀ x, x ≠ c → t.body x = s.body x) ∧ (t.task c) = u.task c ∧ t.nodes = u.nodes := by
  obtain ⟨hg, hvts⟩ := hposts.body_same
  obtain ⟨hnodes, haccesses⟩ := hposts.rest
  have hbody (x : CoreId) : (u.forgetMerge c).body x = s.body x := hpushing.2.1 x
  have hforget : (u.forgetMerge c).accesses = s.accesses.filter (·.who.mergeOf != some c) := congrArg _ hpushing.accesses
  refine ⟨?_, haccesses.trans hforget, by rw [hg, hbody], by rw [hvts, hbody], fun x hx => (hposts.body_ne hx).trans (hbody x), hposts.task c, hnodes⟩
  exact (sameBytes_of_bodies (t := u.forgetMerge c) hpushing.mem hbody).trans hposts.sameBytes

/-- An entry of which no line is left. -/
theorem entryMerged_leaves : let t := (s.pushing c n).entryMerged c n vt
    SameBytes s t ∧ MergedUpTo s t c n vt false 0 := by
  obtain ⟨honly, hmerged⟩ := (s.pushing c n).entryMerged_leaves c n vt 0
  exact ⟨((s.pushing_only c n).trans honly).sameBytes, mergedUpTo_of hmerged rfl (congrArg Body.vts ((s.pushing_only c n).2.1 c))⟩

end

section
variable {s : State} {c d : CoreId} {n : Node} {vt : Fin 8} {l : Nat} (hvt : (s.task c).progress.vt = vt.val)
include hvt

theorem State.vt_pushing : ((s.pushing c n).task c).progress.vt = vt.val := by rw [State.progress_pushing, hvt]

/-- A line of an entry other than ADD.NPF has been combined and written. -/
theorem mergeLine_leaves {e : ViewEntry} (hop : e.op ≠ 2) (hl : l < 2 ^ 14) {there : List (BitVec 8)} (hread : LineAnswered s c d vt l 0 none there)
    (hlength : there.length = 128) (hwritten : LineAnswered s c d vt l 0 (some (s.combined c d vt e l there).1) []) :
    let t := (s.pushing c n).mergeLine c n (.view d) vt e l
    SameBytes s t ∧ t.accesses = s.accesses.filter (·.who.mergeOf != some c) ∧ (t.body c).g = (s.body c).g ∧ (∀ x, x ≠ c → t.body x = s.body x) ∧
      ((s.combined c d vt e l there).2 = none → t.body c = s.body c) ∧ MergedUpTo s t c n vt (nextTouched e (l + 1)).isSome (l + 1) := by
  have hpushing := s.pushing_only c n
  have hcombined : (s.pushing c n).combined c d vt e l there = s.combined c d vt e l there := by
    unfold State.combined
    rw [hpushing.2.1, hpushing.2.1]
  obtain ⟨u, hu⟩ : ∃ u, u = ((s.pushing c n).forgetMerge c).reportOverflow c e l (s.combined c d vt e l there).2 := ⟨_, rfl⟩
  obtain ⟨hbytes, haccesses, hg, hvts, hothers, htask, hnodes⟩ :=
    pushing_ends hpushing (hu ▸ ((s.pushing c n).forgetMerge c).reportOverflow_posts c e l (s.combined c d vt e l there).2)
  have hmerge : (s.pushing c n).mergeLine c n (.view d) vt e l = (u.linesMerged c n vt e (l + 1)).mergeLater c 1 := by
    rw [State.mergeLine_of_written hl (lineAnswered_of_accesses hread hpushing.accesses) hlength
      (by rw [hcombined]; exact lineAnswered_of_accesses hwritten hpushing.accesses), hcombined, hu]
  obtain ⟨honly, hmerged⟩ := u.linesMerged_leaves (n := n) (by rw [htask, State.vt_pushing hvt]) e (l + 1)
  have hall := honly.trans ((u.linesMerged c n vt e (l + 1)).mergeLater_only c 1)
  have hnext : e.nextLine (l + 1) = nextTouched e (l + 1) := if_neg hop
  rw [hmerge]
  refine ⟨hbytes.trans hall.sameBytes, hall.accesses.trans haccesses, by rw [hall.2.1, hg], fun x hx => (hall.2.1 x).trans (hothers x hx), fun hnone => ?_,
    mergedUpTo_mergeLater (mergedUpTo_of (hnext ▸ hmerged) ?_ hvts) 1⟩
  · rw [hall.2.1, hu, hnone]
    exact hpushing.2.1 c
  · exact hnodes

end

section
variable {s : State} {c d : CoreId} {n : Node} {vt : Fin 8} {e : ViewEntry} {l : Nat} {old again : List (BitVec 8)} (hl : l < 2 ^ 14)
  (hlength : old.length = 128 * (1 + 8 * e.planes.toNat))
  (hold : ∀ i < 1 + 8 * e.planes.toNat, LineAnswered s c d vt (l + i) 0 none ((old.drop (128 * i)).take 128)) (hagain : LineAnswered s c d vt l 1 none again)
include hl hlength hold hagain

theorem readTargetTile_pushing : (((s.pushing c n).atTile c l).readTargetTile c (.view d) vt e l (1 + 8 * e.planes.toNat)) =
    (.ok old, .ok again, (s.pushing c n).atTile c l) := by
  have haccesses : ((s.pushing c n).atTile c l).accesses = s.accesses := rfl
  exact State.readTargetTile_of_answered hl hlength (fun i hi => lineAnswered_of_accesses (hold i hi) haccesses) (lineAnswered_of_accesses hagain haccesses)

theorem mergeTile_bad_leaves (hbad : tileBad old again = true) (hfew : (s.task c).attempts + 1 < 256) (hbuf : (s.task c).progress.buf = false) :
    let t := (s.pushing c n).mergeTile c n (.view d) vt e l
    SameBytes s t ∧ t.accesses = s.accesses.filter (·.who.mergeOf != some c) ∧ (t.task c).attempts = (s.task c).attempts + 1 ∧
      (t.task c).tryAt = s.cycle + 64 ∧ (t.task c).progress.buf = false := by
  have hpushing := (s.pushing_only c n).trans ((s.pushing c n).modProgress_only c fun p => { p with line := l })
  have hattempts : ((s.pushing c n).task c).attempts = (s.task c).attempts := (s.pushing_only c n).attempts
  have hprogress : (((s.pushing c n).atTile c l).task c).progress.buf = false := by
    rw [State.atTile, State.progress_modProgress, State.progress_pushing]
    exact hbuf
  have htile := State.mergeTile_of_bad (n := n) (readTargetTile_pushing (n := n) hl hlength hold hagain) hbad (by rwa [hattempts])
  rw [htile, hattempts]
  refine ⟨sameBytes_of_bodies hpushing.mem fun x => ?_, congrArg _ hpushing.accesses, ?_, ?_, ?_⟩
  · rw [State.body_modTask]
    exact hpushing.2.1 x
  · rw [State.task_modTask_same]
  · rw [State.task_modTask_same]
    rfl
  · rw [State.task_modTask_same]
    exact hprogress

theorem mergeTile_last_leaves (hlast : tileBad old again = false ∨ 256 ≤ (s.task c).attempts + 1) (hvt : (s.task c).progress.vt = vt.val) :
    let t := (s.pushing c n).mergeTile c n (.view d) vt e l
    SameBytes s t ∧ t.accesses = s.accesses.filter (·.who.mergeOf != some c) ∧ (t.task c).attempts = 0 ∧ (t.task c).buffer =
      linesChanged e.planes.toNat old (combineTile e.planes.toNat old ((s.body c).readHeld e (128 * l) (128 * (1 + 8 * e.planes.toNat)))).1 := by
  have hpushing := (s.pushing_only c n).trans ((s.pushing c n).modProgress_only c fun p => { p with line := l })
  have hattempts : ((s.pushing c n).task c).attempts = (s.task c).attempts := (s.pushing_only c n).attempts
  have htile := State.mergeTile_of_last (n := n) (readTargetTile_pushing (n := n) hl hlength hold hagain) (by rwa [hattempts])
  have hbody : (s.pushing c n).body c = s.body c := (s.pushing_only c n).2.1 c
  rw [hbody] at htile
  obtain ⟨r, hr⟩ : ∃ r, r = combineTile e.planes.toNat old ((s.body c).readHeld e (128 * l) (128 * (1 + 8 * e.planes.toNat))) := ⟨_, rfl⟩
  rw [← hr] at htile ⊢
  obtain ⟨v, hv⟩ : ∃ v, v = (((s.pushing c n).atTile c l).forgetMerge c).tileReports c e l (tileBad old again) r.2 := ⟨_, rfl⟩
  obtain ⟨hbytes, haccesses, -, -, -, htask, -⟩ :=
    pushing_ends hpushing (hv ▸ State.tileReports_posts (((s.pushing c n).atTile c l).forgetMerge c) c e l (tileBad old again) r.2)
  obtain ⟨u, hu⟩ : ∃ u, u = v.modTask c fun k => { k with attempts := 0, buffer := linesChanged e.planes.toNat old r.1 } := ⟨_, rfl⟩
  have hutask : u.task c = { v.task c with attempts := 0, buffer := linesChanged e.planes.toNat old r.1 } := by rw [hu, State.task_modTask_same]
  have hubytes : SameBytes s u := hbytes.trans (hu ▸ sameBytes_of_bodies rfl fun x => by rw [State.body_modTask])
  have huvt : (u.task c).progress.vt = vt.val := by
    rw [hutask, htask]
    show ((State.modProgress _ c _).task c).progress.vt = _
    rw [State.progress_modProgress, State.progress_pushing, hvt]
  have honly : u.OnlyProgress (if linesChanged e.planes.toNat old r.1 = [] then u.linesMerged c n vt e (l + (1 + 8 * e.planes.toNat))
      else u.modProgress c fun p => { p with done := 0, buf := true }) c := by
    split
    · exact (u.linesMerged_leaves huvt e _).1
    · exact u.modProgress_only c _
  have hall := honly.trans (State.mergeLater_only _ c 1)
  rw [htile, ← hv, ← hu]
  refine ⟨hubytes.trans hall.sameBytes, hall.accesses.trans ?_, ?_, ?_⟩
  · rw [hu]
    exact haccesses
  · rw [hall.attempts, hutask]
  · rw [hall.buffer, hutask]

end

/-- The pushes of a merge unit. -/
theorem pushesMove (s : State) (c : CoreId) : PushesMove s c := by
  refine ⟨fun n d vt l hdue hvt hbuf => ?push, fun cause a hfault hstate hcause => ?fault⟩
  case fault =>
    have hexec : exec (.mergeTranslationFault c) s = .next (s.modTask c fun k => { k with state := some .mergeFaulted }) := by
      show execMergeTranslationFault c s = _
      simp only [execMergeTranslationFault, hfault, hstate, ne_eq, not_true_eq_false, if_false, if_neg hcause]
    rw [hexec, completes_next]
    refine ⟨rfl, by rw [State.task_modTask_same], by rw [State.task_modTask_same]; exact hfault, fun d => State.body_modTask .., fun d hd => ?_⟩
    exact State.task_modTask_ne _ _ hd
  case push =>
    intro b e me asks hentry
    have hstep := State.pushStep_eq (n := n) (g := .view d) hvt hbuf hentry
    have hexec : exec (.mergePush c) s = .next (s.pushStep c n (.view d)) := execMergePush_of_due hdue
    have haccesses : (s.pushing c n).accesses = s.accesses := rfl
    refine ⟨fun hop hnext => ?line, fun hop hnone => ?none, fun hop hnext hattempts => ?tile⟩
    case line =>
      have hl := nextTouched_lt hnext
      have hline : e.nextLine (s.task c).progress.line = some l := (if_neg hop).trans hnext
      have hmerge : s.pushStep c n (.view d) = (s.pushing c n).mergeLine c n (.view d) vt e l := by
        rw [hstep]
        simp only [e, b] at hline hop ⊢
        rw [hline]
        exact if_neg hop
      have hcombined (there : List (BitVec 8)) : (s.pushing c n).combined c d vt e l there = s.combined c d vt e l there := by
        unfold State.combined
        rw [(s.pushing_only c n).2.1, (s.pushing_only c n).2.1]
      rw [hexec, hmerge]
      refine ⟨fun hnew => ?_, fun there hread hlength => ⟨fun hnew => ?_, fun hwritten => ?_⟩⟩
      · rw [completes_next, State.mergeLine_of_new (s := s.pushing c n) hl hnew]
        exact pushing_asks s c d n vt l none
      · rw [completes_next, State.mergeLine_of_read (s := s.pushing c n) hl (lineAnswered_of_accesses hread haccesses) hlength hnew, hcombined]
        exact pushing_asks s c d n vt l _
      · rw [completes_next]
        exact mergeLine_leaves hvt hop hl hread hlength hwritten
    case none =>
      have hline : e.nextLine (s.task c).progress.line = none := (if_neg hop).trans hnone
      have hmerge : s.pushStep c n (.view d) = (s.pushing c n).entryMerged c n vt := by
        rw [hstep]
        simp only [e, b] at hline ⊢
        rw [hline]
      rw [hexec, completes_next, hmerge]
      exact entryMerged_leaves
    case tile =>
      intro size old again hlength hold hagain bad
      have hl := nextTile_lt hnext
      have hline : e.nextLine (s.task c).progress.line = some l := (if_pos hop).trans hnext
      have hmerge : s.pushStep c n (.view d) = (s.pushing c n).mergeTile c n (.view d) vt e l := by
        rw [hstep]
        simp only [e, b] at hline hop ⊢
        rw [hline]
        exact if_pos hop
      have hretry : exec (.mergeTileRetry c) s = .next (s.pushStep c n (.view d)) := execMergeTileRetry_of_due hdue hattempts
      have hbad : bad ↔ tileBad old again = true := tileBad_iff.symm
      rw [hretry, hmerge]
      refine ⟨fun hagain' hfew => (completes_next ..).mpr (mergeTile_bad_leaves hl hlength hold hagain (hbad.mp hagain') hfew hbuf), fun hlast => ?_⟩
      exact (completes_next ..).mpr (mergeTile_last_leaves hl hlength hold hagain (hlast.imp_left fun h => by simpa using mt hbad.mpr h) hvt)

end Sys2Proof.Machine
end

section
/-!
Proofs for O52, on teams, flight barriers, phases and vectors that are lost.
-/
namespace Sys2Proof.Machine

/-! Steps of every core of a team (R370, R397, R407) -/

/-- Each of the cores named is changed in the same way. -/
def State.eachCore (s : State) (cs : List CoreId) (f : Core → Core) : State := cs.foldl (fun u c => { u with cores := Vec.modify u.cores c f }) s

theorem State.eachCore_frame (s : State) (cs : List CoreId) (f : Core → Core) : s.eachCore cs f = { s with cores := (s.eachCore cs f).cores } := by
  induction cs generalizing s with
  | nil => rfl
  | cons c cs ih => exact ih { s with cores := Vec.modify s.cores c f }

theorem State.cores_eachCore_of_not_mem (s : State) {cs : List CoreId} {d : CoreId} (hd : d ∉ cs) (f : Core → Core) :
    (s.eachCore cs f).cores[d] = s.cores[d] := by
  induction cs generalizing s with
  | nil => rfl
  | cons c cs ih =>
    obtain ⟨hc, hcs⟩ := not_or.mp (mt List.mem_cons.mpr hd)
    exact (ih { s with cores := Vec.modify s.cores c f } hcs).trans (Vec.getElem_modify_ne _ _ hc)

/-- A core named twice is as one named once. -/
theorem State.cores_eachCore_of_mem (s : State) {cs : List CoreId} {d : CoreId} (hd : d ∈ cs) {f : Core → Core} (hf : ∀ k, f (f k) = f k) :
    (s.eachCore cs f).cores[d] = f s.cores[d] := by
  induction cs generalizing s with
  | nil => cases hd
  | cons c cs ih =>
    by_cases hcs : d ∈ cs
    · refine (ih { s with cores := Vec.modify s.cores c f } hcs).trans ?_
      by_cases hc : d = c
      · subst hc
        exact (congrArg f (Vec.getElem_modify_same ..)).trans (hf _)
      · exact congrArg f (Vec.getElem_modify_ne _ _ hc)
    · obtain rfl := (List.mem_cons.mp hd).resolve_right hcs
      exact (State.cores_eachCore_of_not_mem { s with cores := Vec.modify s.cores d f } hcs f).trans (Vec.getElem_modify_same ..)

/-- A core of a phase. -/
def Core.enterPhase (k : Core) : Core := { k with b := { k.b with inPhase := true }, task := { k.task with arrived := false } }

/-- A core of a phase is told of its break. -/
def Core.breakPhase (k : Core) : Core := if k.b.inPhase then { k with b := { k.b with breakDue := true } } else k

/-- A core that no team has. -/
def Core.free (k : Core) : Core := { k with task := {} }

theorem Core.breakPhase_idem (k : Core) : k.breakPhase.breakPhase = k.breakPhase := by
  cases hphase : k.b.inPhase
  · simp only [Core.breakPhase, hphase, Bool.false_eq_true, if_false]
  · simp only [Core.breakPhase, hphase, if_true]

theorem State.eachCore_enterPhase (s : State) (cs : List CoreId) :
    cs.foldl (fun s c => (s.modBody c fun b => { b with inPhase := true }).modTask c fun t => { t with arrived := false }) s =
      s.eachCore cs Core.enterPhase := by
  refine congrArg (cs.foldl · s) (funext₂ fun u c => ?_)
  have hcores := Vec.modify_modify u.cores c (fun k => { k with b := { k.b with inPhase := true } }) fun k => { k with task := { k.task with arrived := false } }
  exact congrArg (fun v => { u with cores := v }) hcores

theorem State.eachCore_breakPhase (s : State) (cs : List CoreId) :
    cs.foldl (fun s c => if (s.body c).inPhase then s.modBody c fun b => { b with breakDue := true } else s) s = s.eachCore cs Core.breakPhase := by
  refine congrArg (cs.foldl · s) (funext₂ fun u c => ?_)
  by_cases hphase : (u.body c).inPhase = true
  · rw [if_pos hphase]
    exact congrArg (fun v => { u with cores := v }) (Vec.modify_congr (if_pos hphase).symm)
  · rw [if_neg hphase]
    have hkept : Core.breakPhase u.cores[c] = id u.cores[c] := if_neg hphase
    have hself : Vec.modify u.cores c Core.breakPhase = u.cores := (Vec.modify_congr hkept).trans (Vector.set_getElem_self _)
    exact (congrArg (fun v => { u with cores := v }) hself).symm

section
variable {s : State} {k : Nat} {x : Team} (hteam : s.team? k = some x)
include hteam

theorem teamEnd_leaves (hover : s.teamOver x = true) : Completes (exec (.teamEnd k) s) fun t => t.mem = s.mem ∧
    (t.team? k).map (fun y => (y.state, y.cores)) = some (.ended, []) ∧ (∀ d ∈ x.cores, t.task d = {}) ∧ (∀ d, d ∉ x.cores → t.task d = s.task d) ∧
      (∀ d, t.body d = s.body d) ∧ ∀ n, n ∈ t.nodes ↔ n ∈ s.nodes ∧ n.team ≠ k := by
  obtain rfl := State.id_of_team? hteam
  obtain ⟨u, hu⟩ : ∃ u, u = (s.modTeam x.id fun x => { x with cores := [] }).eachCore x.cores Core.free := ⟨_, rfl⟩
  have hexec : exec (.teamEnd x.id) s = .next
      { u.modTeam x.id (fun y => { y with state := .ended, lastCores := x.cores, endId := s.nextId }) with nodes := s.nodes.filter (·.team != x.id) } := by
    show execTeamEnd x.id s = _
    simp only [execTeamEnd, hteam, hover, if_true]
    rw [hu]
    rfl
  have hframe : u = { s.modTeam x.id fun x => { x with cores := [] } with cores := u.cores } := hu ▸ State.eachCore_frame ..
  have husher : u.usher = (s.modTeam x.id fun x => { x with cores := [] }).usher := by rw [hframe]
  have hcleared := State.team?_modTeam (f := fun x => { x with cores := [] }) hteam rfl
  have hu? : u.team? x.id = some { x with cores := [] } := by
    unfold State.team? at hcleared ⊢
    rw [husher]
    exact hcleared
  have hended := State.team?_modTeam (f := fun y => { y with state := .ended, lastCores := x.cores, endId := s.nextId }) hu? rfl
  have hmem (d : CoreId) (hd : d ∈ x.cores) : u.cores[d] = Core.free s.cores[d] := hu ▸ State.cores_eachCore_of_mem _ hd fun _ => rfl
  have hother (d : CoreId) (hd : d ∉ x.cores) : u.cores[d] = s.cores[d] := hu ▸ State.cores_eachCore_of_not_mem _ hd _
  rw [hexec, completes_next]
  refine ⟨by rw [hframe]; rfl, (congrArg (Option.map _) hended).trans rfl, fun d hd => congrArg Core.task (hmem d hd),
    fun d hd => congrArg Core.task (hother d hd), fun d => ?_, fun n => ?_⟩
  · by_cases hd : d ∈ x.cores
    · have hkept : u.cores[d].b = s.cores[d].b := by rw [hmem d hd]; rfl
      exact hkept
    · exact congrArg Core.b (hother d hd)
  · exact List.mem_filter.trans (and_congr_right fun _ => bne_iff_ne)

theorem flightPhaseStart_leaves (hstart : x.start = some s.cycle) : Completes (exec (.flightPhaseStart k) s) fun t => t.mem = s.mem ∧
    (t.team? k).map (·.start) = some none ∧ (∀ d ∈ x.cores, t.body d = { s.body d with inPhase := true } ∧ (t.task d).arrived = false) ∧
      ∀ d, d ∉ x.cores → t.cores[d] = s.cores[d] := by
  obtain ⟨u, hu⟩ : ∃ u, u = (s.modTeam k fun x => { x with start := none }).eachCore x.cores Core.enterPhase := ⟨_, rfl⟩
  have hexec : exec (.flightPhaseStart k) s = .next u := by
    show execFlightPhaseStart k s = _
    simp only [execFlightPhaseStart, hteam, hstart, if_true]
    rw [hu, ← State.eachCore_enterPhase]
  have hframe : u = { s.modTeam k fun x => { x with start := none } with cores := u.cores } := hu ▸ State.eachCore_frame ..
  have hstarted := State.team?_modTeam (f := fun x => { x with start := none }) hteam rfl
  have hmem (d : CoreId) (hd : d ∈ x.cores) : u.cores[d] = Core.enterPhase s.cores[d] := hu ▸ State.cores_eachCore_of_mem _ hd fun _ => rfl
  rw [hexec, completes_next]
  refine ⟨by rw [hframe]; rfl, ?_, fun d hd => ⟨congrArg Core.b (hmem d hd), congrArg (fun k => k.task.arrived) (hmem d hd)⟩,
    fun d hd => hu ▸ State.cores_eachCore_of_not_mem _ hd _⟩
  have husher : u.team? k = (s.modTeam k fun x => { x with start := none }).team? k := by
    rw [hframe]
    rfl
  rw [husher, hstarted]
  rfl

theorem flightBreakSignal_leaves (hbroken : x.broken = some (s.cycle - 16)) (hlate : 16 ≤ s.cycle) :
    Completes (exec (.flightBreakSignal k) s) fun t => t.mem = s.mem ∧ (t.team? k).map (·.broken) = some none ∧
      (∀ d ∈ x.cores, (s.body d).inPhase = true → t.body d = { s.body d with breakDue := true }) ∧
        ∀ d, (d ∉ x.cores ∨ (s.body d).inPhase = false) → t.cores[d] = s.cores[d] := by
  obtain ⟨u, hu⟩ : ∃ u, u = (s.modTeam k fun x => { x with broken := none }).eachCore x.cores Core.breakPhase := ⟨_, rfl⟩
  have hexec : exec (.flightBreakSignal k) s = .next u := by
    show execFlightBreakSignal k s = _
    simp only [execFlightBreakSignal, hteam, hbroken, hlate, and_self, if_true]
    rw [hu, ← State.eachCore_breakPhase]
  have hframe : u = { s.modTeam k fun x => { x with broken := none } with cores := u.cores } := hu ▸ State.eachCore_frame ..
  have hsignalled := State.team?_modTeam (f := fun x => { x with broken := none }) hteam rfl
  have hmem (d : CoreId) (hd : d ∈ x.cores) : u.cores[d] = Core.breakPhase s.cores[d] := hu ▸ State.cores_eachCore_of_mem _ hd Core.breakPhase_idem
  have hother (d : CoreId) (hd : d ∉ x.cores) : u.cores[d] = s.cores[d] := hu ▸ State.cores_eachCore_of_not_mem _ hd _
  rw [hexec, completes_next]
  refine ⟨by rw [hframe]; rfl, ?_, fun d hd hphase => ?_, fun d hd => ?_⟩
  · have husher : u.team? k = (s.modTeam k fun x => { x with broken := none }).team? k := by
      rw [hframe]
      rfl
    rw [husher, hsignalled]
    rfl
  · exact (congrArg Core.b (hmem d hd)).trans (congrArg Core.b (if_pos hphase))
  · by_cases hin : d ∈ x.cores
    · have hphase := hd.resolve_left (not_not.mpr hin)
      exact (hmem d hin).trans (if_neg (ne_true_of_eq_false hphase))
    · exact hother d hin

end

/-- A core that has lost a vector. -/
def Body.loseVector (b : Body) : Body := { b with flight := { b.flight with lost := b.flight.lost + 1 } }

/-- A vector that no phase takes is lost. -/
theorem vectorArrival_leaves {s : State} {c : CoreId} {p : Fin 4} {w : Wire} (hphase : (s.body c).inPhase = false) (hwires : s.wires = [w])
    (hcore : w.core = c) (hport : w.port = p) (hnow : w.at_ = s.cycle) : Completes (exec (.vectorArrival c p) s) fun t => SameBytes s t ∧ t.wires = [] ∧
      t.body c = { s.body c with flight := { (s.body c).flight with lost := (s.body c).flight.lost + 1 } } := by
  have hmine : (w.core == c && (w.port == p && w.at_ == s.cycle)) = true := by simp [hcore, hport, hnow]
  have hexec : exec (.vectorArrival c p) s = .next { s.modBody c Body.loseVector with wires := [] } := by
    show execVectorArrival c p s = _
    simp only [execVectorArrival, hphase, Bool.false_eq_true, if_false, State.loseVectors, hwires, List.filter_cons, hmine, if_true, Bool.not_true,
      List.filter_nil, List.length_singleton]
    rfl
  rw [hexec, completes_next]
  have hbytes : SameBytes s (s.modBody c Body.loseVector) := sameBytes_modBody_of (sameBytes_of_bodies rfl fun _ => rfl) ⟨rfl, rfl, rfl, rfl⟩
  exact ⟨hbytes.trans (sameBytes_of_bodies rfl fun _ => rfl), rfl,
    s.body_modBody_same c Body.loseVector⟩

theorem teamsAndBarriers (s : State) (c : CoreId) : TeamsAndBarriers s c := by
  refine ⟨fun k x hteam => ⟨fun hover _ => teamEnd_leaves hteam hover, fun hfull => ?_, flightPhaseStart_leaves hteam, flightBreakSignal_leaves hteam⟩,
    fun p w => vectorArrival_leaves⟩
  have hexec : exec (.flightBarrierComplete k) s = .next (s.modTeam k fun x => { x with start := some (s.cycle + 64), broken := none }) := by
    show execFlightBarrierComplete k s = _
    simp only [execFlightBarrierComplete, hteam, hfull, if_true]
  rw [hexec, completes_next]
  exact ⟨State.team?_modTeam (f := fun x => { x with start := some (s.cycle + 64), broken := none }) hteam rfl, rfl, rfl⟩

/-- Settles O52: ranges, pushes, and teams with their barriers. -/
theorem teamEventsHold : Obligations.TeamEvents := fun s c => ⟨rangesAreTaken s c, pushesMove s c, teamsAndBarriers s c⟩

end Sys2Proof.Machine
end

section
/-!
Proofs for O53, on bytes of descriptors and accesses of the usher.
-/
namespace Sys2Proof.Machine

/-! Bytes of a block replaced (R412, R413) -/

theorem natLE_append (a b : List (BitVec 8)) : natLE (a ++ b) = natLE a + 256 ^ a.length * natLE b := by
  induction a with
  | nil => simp [natLE]
  | cons x a ih =>
    simp only [List.cons_append, natLE, ih, List.length_cons, Nat.pow_succ]
    ring

theorem pow_blockBytes : 256 ^ 64 = 2 ^ 512 := by rw [show 256 = 2 ^ 8 from rfl, ← Nat.pow_mul]

theorem toNat_stageBytes (b : BitVec 512) {off n : Nat} {bs : List (BitVec 8)} (hbs : bs.length = n) (hinside : off + n ≤ 64) :
    (stageBytes b off bs).toNat = b.toNat % 256 ^ off + 256 ^ off * (natLE bs + 256 ^ n * (b.toNat / 256 ^ (off + n))) := by
  have hbefore : (bytesLE 64 b.toNat).take off = bytesLE off b.toNat := by
    rw [← Nat.add_sub_cancel' (show off ≤ 64 by omega), bytesLE_add, List.take_left' (length_bytesLE ..)]
  have hafter : (bytesLE 64 b.toNat).drop (off + n) = bytesLE (64 - (off + n)) (b.toNat / 256 ^ (off + n)) := by
    rw [← Nat.add_sub_cancel' hinside, bytesLE_add, List.drop_left' (length_bytesLE ..), Nat.add_sub_cancel_left]
  have hhigh : b.toNat / 256 ^ (off + n) < 256 ^ (64 - (off + n)) := by
    refine Nat.div_lt_of_lt_mul ?_
    rw [← Nat.pow_add, Nat.add_sub_cancel' hinside, pow_blockBytes]
    exact b.isLt
  have hvalue : natLE ((bytesLE 64 b.toNat).take off ++ bs ++ (bytesLE 64 b.toNat).drop (off + n)) =
      b.toNat % 256 ^ off + 256 ^ off * (natLE bs + 256 ^ n * (b.toNat / 256 ^ (off + n))) := by
    rw [hbefore, hafter, List.append_assoc, natLE_append, natLE_append, length_bytesLE, natLE_bytesLE, natLE_bytesLE, Nat.mod_eq_of_lt hhigh, hbs]
  have hlength : ((bytesLE 64 b.toNat).take off ++ bs ++ (bytesLE 64 b.toNat).drop (off + n)).length = 64 := by
    simp only [List.length_append, List.length_take, List.length_drop, length_bytesLE, hbs]
    omega
  have hlt := natLE_lt ((bytesLE 64 b.toNat).take off ++ bs ++ (bytesLE 64 b.toNat).drop (off + n))
  rw [hlength, hvalue, pow_blockBytes] at hlt
  unfold stageBytes
  rw [hbs, BitVec.toNat_ofNat, hvalue]
  exact Nat.mod_eq_of_lt hlt

theorem natLE_bytesLE_toNat (v : BitVec 32) : natLE (bytesLE 4 v.toNat) = v.toNat := by
  rw [natLE_bytesLE]
  exact Nat.mod_eq_of_lt v.isLt

/-- A descriptor whose tail is written. -/
theorem tail_stageTail (d : Desc) (v : BitVec 32) : Desc.tail (stageBytes d 0 (bytesLE 4 v.toNat)) = v := by
  refine BitVec.eq_of_toNat_eq ?_
  rw [Desc.tail, BitVec.extractLsb'_toNat, toNat_stageBytes d (length_bytesLE 4 _) (by omega), natLE_bytesLE_toNat]
  have := v.isLt
  simp only [Nat.shiftRight_zero]
  omega

/-- Bytes after the tail do not change it. -/
theorem tail_stageBytes_of_later (d : Desc) {off : Nat} {bs : List (BitVec 8)} (hlater : 4 ≤ off) (hinside : off + bs.length ≤ 64) :
    Desc.tail (stageBytes d off bs) = d.tail := by
  obtain ⟨k, rfl⟩ := Nat.exists_eq_add_of_le hlater
  refine BitVec.eq_of_toNat_eq ?_
  rw [Desc.tail, Desc.tail, BitVec.extractLsb'_toNat, BitVec.extractLsb'_toNat, toNat_stageBytes d rfl hinside, Nat.shiftRight_zero, Nat.shiftRight_zero, Nat.pow_add,
    Nat.mul_assoc, Nat.add_mul_mod_self_left]
  exact Nat.mod_mul_right_mod ..

/-- A descriptor whose head is written. -/
theorem head_stageHead (d : Desc) (v : BitVec 32) : Desc.head (stageBytes d 4 (bytesLE 4 v.toNat)) = v := by
  refine BitVec.eq_of_toNat_eq ?_
  rw [Desc.head, BitVec.extractLsb'_toNat, toNat_stageBytes d (length_bytesLE 4 _) (by omega), natLE_bytesLE_toNat, Nat.shiftRight_eq_div_pow]
  have := v.isLt
  omega

/-! Accesses of the usher (R486) -/

/-- Accesses, requests, what the fabric counts and the log change at most. -/
def State.OnlyAccess (s t : State) : Prop := t = { s with
  aways := t.aways, accesses := t.accesses, requests := t.requests, nextId := t.nextId, fresh := t.fresh, routers := t.routers, sent := t.sent
  log := t.log, logCount := t.logCount }

section
variable {s t u : State}

theorem State.OnlyAccess.refl : s.OnlyAccess s := rfl

theorem State.OnlyAccess.trans (hst : s.OnlyAccess t) (htu : t.OnlyAccess u) : s.OnlyAccess u := by
  unfold State.OnlyAccess at hst htu ⊢
  rw [htu, hst]

theorem State.OnlyAccess.usher (h : s.OnlyAccess t) : t.usher = s.usher := by rw [h]
theorem State.OnlyAccess.cores (h : s.OnlyAccess t) : t.cores = s.cores := by rw [h]
theorem State.OnlyAccess.mem (h : s.OnlyAccess t) : t.mem = s.mem := by rw [h]
theorem State.OnlyAccess.cycle (h : s.OnlyAccess t) : t.cycle = s.cycle := by rw [h]
theorem State.OnlyAccess.desc (h : s.OnlyAccess t) (q : QueueId) : t.desc q = s.desc q := by rw [State.desc, State.desc, h.usher]

theorem State.keepAways_only (s t : State) : s.OnlyAccess (s.keepAways t) := rfl
theorem State.forgetAways_only (s : State) (who : AwayFor) : s.OnlyAccess (s.forgetAways who) := rfl
theorem State.logEvent_only (s : State) (kind : LogKind) (unit : Nat) : s.OnlyAccess (s.logEvent kind unit) := rfl
theorem State.usherFails_only (s t : State) (unit : Nat) : s.OnlyAccess (s.usherFails t unit) := rfl

/-- Accesses of the unit named may be new, no others. -/
def State.Asks (s t : State) (who : AwayFor) : Prop := s.OnlyAccess t ∧ ∀ a ∈ t.accesses, a ∈ s.accesses ∨ a.who = who

variable {who : AwayFor}

theorem State.Asks.refl : s.Asks s who := ⟨.refl, fun _ => .inl⟩

theorem State.Asks.trans (hst : s.Asks t who) (htu : t.Asks u who) : s.Asks u who :=
  ⟨hst.1.trans htu.1, fun a ha => (htu.2 a ha).elim (hst.2 a) .inr⟩

theorem State.logEvent_asks (s : State) (kind : LogKind) (unit : Nat) : s.Asks (s.logEvent kind unit) who := ⟨rfl, fun _ => .inl⟩

theorem State.usherFails_asks (h : s.Asks t who) (unit : Nat) : s.Asks (s.usherFails t unit) who := ⟨rfl, h.2⟩

section
variable (hwho : who.core = none)
include hwho

theorem State.startAccess_asks (s : State) (asn : BitVec 12) (v : VA) (n : Nat) (bytes : Option (List (BitVec 8))) (round : Nat) :
    s.Asks (s.startAccess who asn v n bytes round) who := by
  have haccesses : (s.startAccess who asn v n bytes round).accesses = s.accesses ++ [{ id := s.nextId, who, asn, va := v, n, bytes, round }] := by
    unfold State.startAccess
    rw [hwho]
    rfl
  refine ⟨?_, fun a ha => ?_⟩
  · unfold State.startAccess
    rw [hwho]
    rfl
  · rw [haccesses] at ha
    exact (List.mem_append.mp ha).imp_right fun h => by rw [List.mem_singleton.mp h]

theorem State.glbLine_asks (s : State) (asn : BitVec 12) (v : VA) (n : Nat) (bytes : Option (List (BitVec 8))) (round : Nat) :
    s.Asks (s.glbLine who asn v n bytes round).2 who := by
  unfold State.glbLine
  split
  · exact .refl
  · exact State.startAccess_asks hwho ..

theorem State.sendNext_asks (s : State) (asn : BitVec 12) (round : Nat) (serial : Bool) (ps : List (Nat × Nat)) :
    s.Asks (s.sendNext who asn round serial ps) who := by
  induction ps with
  | nil => exact .refl
  | cons p ps ih =>
    unfold State.sendNext
    split
    · split
      · exact .refl
      · exact ih
    · exact State.startAccess_asks hwho ..

theorem State.writeLines_asks (s : State) (asn : BitVec 12) (round : Nat) (ps : List (Nat × Nat)) (bs : List (BitVec 8)) :
    s.Asks (s.writeLines who asn round ps bs).2 who := by
  induction ps generalizing s bs with
  | nil => exact .refl
  | cons p ps ih =>
    have hline := State.glbLine_asks hwho s asn (BitVec.ofNat 56 p.1) p.2 (some (bs.take p.2)) round
    unfold State.writeLines
    split
    · next x u heq =>
      rw [heq] at hline
      exact hline.trans (ih u _)
    · exact hline

theorem State.usherRead_asks {asn : BitVec 12} {a n : Nat} {g : Glb} (h : s.usherRead who asn a n = (g, t)) : s.Asks t who := by
  have hread : s.Asks (s.usherRead who asn a n).2 who := by
    unfold State.usherRead
    split
    · exact .refl
    · exact State.sendNext_asks hwho ..
  rwa [h] at hread

theorem State.usherWrite_asks {asn : BitVec 12} {a : Nat} {bs : List (BitVec 8)} {round : Nat} {g : Glb} (h : s.usherWrite who asn a bs round = (g, t)) :
    s.Asks t who := by
  have hwrite : s.Asks (s.usherWrite who asn a bs round).2 who := by
    unfold State.usherWrite
    split
    · exact .refl
    · exact State.writeLines_asks hwho ..
  rwa [h] at hwrite

/-- A write that is over. -/
theorem State.usherPost_done {asn : BitVec 12} {a : Nat} {bs : List (BitVec 8)} {unit : Nat} {k : State → Served} {v : State}
    (h : s.usherPost who asn a bs unit k = .done v) : ∃ u, s.Asks u who ∧ k u = .done v := by
  unfold State.usherPost at h
  split at h
  · exact ⟨_, State.logEvent_asks .., h⟩
  · split at h
    next u heq => exact ⟨_, State.usherWrite_asks hwho heq, h⟩
    next u heq => exact ⟨_, State.usherFails_asks (State.usherWrite_asks hwho heq) _, h⟩
    next => cases h

/-- Pieces that have been written, or left out. -/
theorem State.writePieces_asks {asn : BitVec 12} {ps : List Piece8} {g : Glb} (h : s.writePieces who asn ps = (g, t)) : s.Asks t who := by
  induction ps generalizing s with
  | nil =>
    cases h
    exact .refl
  | cons p ps ih =>
    unfold State.writePieces at h
    split at h
    next u heq => exact (State.usherWrite_asks hwho heq).trans (ih h)
    next u heq => exact (State.usherFails_asks (State.usherWrite_asks hwho heq) 0).trans (ih h)
    next u heq =>
      cases h
      exact State.usherWrite_asks hwho heq

end

theorem State.usherPost_of_written {asn : BitVec 12} {a : Nat} {bs : List (BitVec 8)} (h : Written s who asn a bs) (unit : Nat) (k : State → Served) :
    ∃ u, s.Asks u who ∧ s.usherPost who asn a bs unit k = k u := by
  unfold State.usherPost
  split
  next => exact ⟨_, State.logEvent_asks .., rfl⟩
  next hmay =>
    rw [h (Bool.eq_true_of_not_eq_false hmay)]
    exact ⟨s, .refl, rfl⟩

end

/-! Descriptors that are written (R413) -/

/-- What is being read of a queue is read again. -/
def State.rereads (s : State) (q : QueueId) : State := (s.forgetAways (whoDesc q)).forgetAways (whoExam q)

theorem State.rereads_asks (s : State) (q : QueueId) (who : AwayFor) : s.Asks (s.rereads q) who :=
  ⟨rfl, fun _ ha => .inl (List.mem_filter.mp (List.mem_filter.mp ha).1).1⟩

theorem State.unread_rereads (s : State) (q : QueueId) : ∀ a ∈ (s.rereads q).accesses, a.who ≠ whoDesc q := fun _ ha =>
  bne_iff_ne.mp (List.mem_filter.mp (List.mem_filter.mp ha).1).2

/-- A descriptor some of whose bytes are written. -/
def State.stageDesc (s : State) (q : QueueId) (off : Nat) (bs : List (BitVec 8)) : State :=
  (s.rereads q).setDesc q (stageBytes (s.desc q) off bs)

theorem State.desc_setDesc_same (s : State) (q : QueueId) (d : Desc) : (s.setDesc q d).desc q = d := by
  simp [State.desc, State.setDesc, State.modUsher]

theorem State.desc_setDesc_ne (s : State) {p q : QueueId} (h : p ≠ q) (d : Desc) : (s.setDesc q d).desc p = s.desc p := by
  have hval : q.val ≠ p.val := fun he => h (Fin.ext he.symm)
  simp [State.desc, State.setDesc, State.modUsher, Vector.getElem_set_ne, hval]

section
variable {s v : State} {who : AwayFor} {q : QueueId} {off : Nat} {bs : List (BitVec 8)} {k : State → Served}

theorem State.writeDesc_eq : s.writeDesc who q off bs k = s.usherPost who 0 (s.descAddr q + off) bs q.val fun s => k (s.stageDesc q off bs) := rfl

theorem State.writeDesc_done (hwho : who.core = none) (h : s.writeDesc who q off bs k = .done v) : ∃ u, s.Asks u who ∧ k (u.stageDesc q off bs) = .done v :=
  State.usherPost_done hwho h

theorem State.readDesc_done (hwho : who.core = none) (h : s.readDesc who q k = .done v) : ∃ u d, s.Asks u who ∧ k (u.setDesc q d) = .done v := by
  unfold State.readDesc at h
  split at h
  next bs t heq => exact ⟨t, _, State.usherRead_asks hwho heq, h⟩
  next t heq => exact ⟨_, _, State.usherFails_asks (State.usherRead_asks hwho heq) q.val, h⟩
  next => cases h

end

end Sys2Proof.Machine
end

section
/-!
Proofs for O53, on tails that are stored.
-/
namespace Sys2Proof.Machine

/-! Queues that are examined (R413, R419) -/

theorem linePieces_cons {v n : Nat} (h : 0 < n) : ∃ p ps, linePieces v n = p :: ps := by
  unfold linePieces
  rw [if_neg (by omega), List.range_succ_eq_map, List.map_cons]
  exact ⟨_, _, rfl⟩

section
variable {s : State} {who : AwayFor} (hwho : who.core = none) (hnone : ∀ a ∈ s.accesses, a.who ≠ who)
include hwho hnone

/-- A read that has not been asked for waits. -/
theorem State.usherRead_of_unasked {a n : Nat} (hn : 0 < n) (hinside : a + n ≤ 2 ^ 56) (asn : BitVec 12) : ∃ t, s.usherRead who asn a n = (.waits, t) := by
  obtain ⟨p, ps, hpieces⟩ := linePieces_cons (v := (BitVec.ofNat 56 a).toNat) hn
  have hmiss (va : VA) (n : Nat) : (s.accesses.find? fun x => x.who == who && x.asn == asn && x.va == va && x.n == n && x.bytes == none && x.round == 0) = none :=
    List.find?_eq_none.mpr fun a ha => by simp [hnone a ha]
  have hsend : s.sendNext who asn 0 false (p :: ps) = s.startAccess who asn (.ofNat 56 p.1) p.2 none 0 := by
    simp only [State.sendNext, State.access?, hmiss]
  have hstarted : (s.startAccess who asn (.ofNat 56 p.1) p.2 none 0).accesses =
      s.accesses ++ [{ id := s.nextId, who, asn, va := .ofNat 56 p.1, n := p.2, bytes := none, round := 0 }] := by
    unfold State.startAccess
    rw [hwho]
    rfl
  have haccess : (s.startAccess who asn (.ofNat 56 p.1) p.2 none 0).access? who asn (.ofNat 56 p.1) p.2 none 0 =
      some { id := s.nextId, who, asn, va := .ofNat 56 p.1, n := p.2, bytes := none, round := 0 } := by
    rw [State.access?, hstarted, List.find?_append, hmiss]
    simp
  refine ⟨s.startAccess who asn (.ofNat 56 p.1) p.2 none 0, (if_neg (by omega)).trans ?_⟩
  simp only [State.glbRead, hpieces, State.glbLines, if_true, hsend, State.gather, haccess, Option.bind_some]

end

/-- A queue whose descriptor is to be read again is not examined before memory has answered. -/
theorem State.examine_of_unread {s : State} {q : QueueId} (hunread : ∀ a ∈ s.accesses, a.who ≠ whoDesc q) (hinside : s.descAddr q + 64 ≤ 2 ^ 56) :
    s.OnlyAccess (s.examine q) := by
  obtain ⟨t, hread⟩ := State.usherRead_of_unasked (who := whoDesc q) rfl hunread (by omega) hinside 0
  have heq : s.examine q = s.keepAways t := by simp only [State.examine, State.readDesc, hread, State.serve1]
  rw [heq]
  exact s.keepAways_only t

/-! Tails (R160, R413, R471) -/

/-- The tail of a queue has been stored, and its descriptor is to be read again. -/
def Tailed (s t : State) (q : QueueId) (v : BitVec 32) : Prop :=
  (t.desc q).tail = v ∧ (∀ p, p ≠ q → t.desc p = s.desc p) ∧ t.cores = s.cores ∧ t.mem = s.mem ∧ t.descAddr q = s.descAddr q ∧
    ∀ a ∈ t.accesses, a.who ≠ whoDesc q

section
variable {s t u : State} {q : QueueId} {v : BitVec 32}

theorem State.OnlyAccess.descAddr (h : s.OnlyAccess t) (q : QueueId) : t.descAddr q = s.descAddr q := by rw [State.descAddr, State.descAddr, h.usher]

theorem whoTail_ne_whoDesc (q : QueueId) : whoTail q ≠ whoDesc q := fun h => by
  have := AwayFor.usher.inj h
  omega

theorem tailed_of_asks (h : Tailed s t q v) (hu : t.Asks u (whoTail q)) : Tailed s u q v := by
  obtain ⟨htail, hothers, hcores, hmem, haddr, hunread⟩ := h
  refine ⟨(congrArg Desc.tail (hu.1.desc q)).trans htail, fun p hp => (hu.1.desc p).trans (hothers p hp), hu.1.cores.trans hcores, hu.1.mem.trans hmem,
    (hu.1.descAddr q).trans haddr, fun a ha => ?_⟩
  rcases hu.2 a ha with hold | hnew
  · exact hunread a hold
  · rw [hnew]
    exact whoTail_ne_whoDesc q

theorem tailed_stageDesc (h : Tailed s t q v) {off : Nat} {bs : List (BitVec 8)} (hlater : 4 ≤ off) (hinside : off + bs.length ≤ 64) :
    Tailed s (t.stageDesc q off bs) q v := by
  obtain ⟨htail, hothers, hcores, hmem, haddr, -⟩ := h
  refine ⟨?_, fun p hp => ?_, hcores, hmem, haddr, t.unread_rereads q⟩
  · rw [State.stageDesc, State.desc_setDesc_same, tail_stageBytes_of_later _ hlater hinside, htail]
  · rw [State.stageDesc, State.desc_setDesc_ne _ hp]
    exact hothers p hp

/-- A queue that freezes keeps its tail. -/
theorem tailed_freeze (h : Tailed s t q v) {code : Nat} {e : BitVec 512} {index : BitVec 32} (hdone : t.freeze (whoTail q) q code e index none .done = .done u) :
    Tailed s u q v := by
  unfold State.freeze at hdone
  obtain ⟨x, hx, hdone⟩ := State.writeDesc_done (who := whoTail q) rfl hdone
  obtain ⟨y, hy, hdone⟩ := State.usherPost_done (who := whoTail q) rfl hdone
  have hfrozen := tailed_of_asks (tailed_stageDesc (off := 43) (bs := [(t.desc q).extractLsb' 344 8 &&& 0xFC#8 ||| 2#8]) (tailed_of_asks h hx) (by decide)
    (by simp)) hy
  obtain rfl := Served.done.inj hdone
  have hready : Tailed s (y.setReady q false) q v := by
    unfold State.setReady
    split
    · exact hfrozen
    · exact hfrozen
  exact hready

theorem tailed_storeTail (hdone : s.storeTail q v = .done t) : Tailed s t q v := by
  unfold State.storeTail at hdone
  obtain ⟨u, d, hu, hdone⟩ := State.readDesc_done (who := whoTail q) rfl hdone
  obtain ⟨w, hw, hdone⟩ := State.writeDesc_done (who := whoTail q) rfl hdone
  have hstored : Tailed s (w.stageDesc q 0 (bytesLE 4 v.toNat)) q v := by
    have hdesc (p : QueueId) (hp : p ≠ q) : w.desc p = s.desc p := by
      rw [hw.1.desc, State.desc_setDesc_ne _ hp, hu.1.desc]
    refine ⟨?_, fun p hp => ?_, hw.1.cores.trans hu.1.cores, hw.1.mem.trans hu.1.mem, (hw.1.descAddr q).trans (hu.1.descAddr q), w.unread_rereads q⟩
    · rw [State.stageDesc, State.desc_setDesc_same, tail_stageTail]
    · rw [State.stageDesc, State.desc_setDesc_ne _ hp]
      exact hdesc p hp
  dsimp only at hdone
  split at hdone
  · split at hdone
    · cases hdone
    · refine tailed_freeze ?_ hdone
      exact hstored
  · obtain rfl := Served.done.inj hdone
    exact hstored

end

theorem execTailRegisterWrite_of_done {s u : State} {q : QueueId} {v : BitVec 32} (hqueue : s.host.queue = []) (hdone : s.storeTail q v = .done u) :
    execTailRegisterWrite q v s = .next ((u.forgetAways (whoTail q)).examine q) := by
  simp only [execTailRegisterWrite, hqueue, ne_eq, not_true_eq_false, if_false, hdone]

theorem execTailRegisterWrite_of_waits {s u : State} {q : QueueId} {v : BitVec 32} (hqueue : s.host.queue = []) (hwaits : s.storeTail q v = .waits u) :
    execTailRegisterWrite q v s = .next ((s.keepAways u).hostWaits (.event (.tailRegisterWrite q v))) := by
  simp only [execTailRegisterWrite, hqueue, ne_eq, not_true_eq_false, if_false, hwaits]

theorem tailsAreStored (s : State) (q : QueueId) : TailsAreStored s q := by
  refine ⟨fun v u hqueue hinside hdone => ?done, fun v u hqueue hwaits => ?waits, fun v hqueue => ⟨_, ?_, s.hostWaits_eq _⟩⟩
  case done =>
    obtain ⟨htail, hothers, hcores, hmem, haddr, hunread⟩ := tailed_storeTail hdone
    have hforget : ∀ a ∈ (u.forgetAways (whoTail q)).accesses, a.who ≠ whoDesc q := fun a ha => hunread a (List.mem_filter.mp ha).1
    have haddr' : (u.forgetAways (whoTail q)).descAddr q + 64 ≤ 2 ^ 56 := by
      have : (u.forgetAways (whoTail q)).descAddr q = s.descAddr q := haddr
      rw [this]
      exact hinside
    have hexamined := State.examine_of_unread hforget haddr'
    refine ⟨_, execTailRegisterWrite_of_done hqueue hdone, ?_, hexamined.cores.trans hcores, hexamined.mem.trans hmem, fun p hp => ?_⟩
    · rw [hexamined.desc]
      exact htail
    · rw [hexamined.desc]
      exact hothers p hp
  case waits =>
    refine ⟨_, execTailRegisterWrite_of_waits hqueue hwaits, ?_, rfl, rfl, rfl⟩
    show s.host.queue ++ _ = _
    rw [hqueue]
    rfl
  · show execTailRegisterWrite q v s = _
    simp only [execTailRegisterWrite, ne_eq, hqueue, not_false_eq_true, if_true]

end Sys2Proof.Machine
end

section
/-!
Proofs for O53, on head entries and the words that they name.
-/
namespace Sys2Proof.Machine

/-! The head entry of a queue (R417, R418) -/

theorem ofNat_natLE_bytesLE (e : BitVec 512) : BitVec.ofNat 512 (natLE (bytesLE 64 e.toNat)) = e := by
  have hlt : e.toNat < 256 ^ 64 := by
    rw [pow_blockBytes]
    exact e.isLt
  rw [natLE_bytesLE, Nat.mod_eq_of_lt hlt, BitVec.ofNat_toNat, BitVec.setWidth_eq]

/-- A queue whose descriptor has the head count given. -/
def State.headed (s : State) (q : QueueId) (head : BitVec 32) : State := s.stageDesc q 4 (bytesLE 4 head.toNat)

section
variable {s u v : State} {q : QueueId} {e : BitVec 512}

theorem State.processHead_of_done {kinds : Nat → Bool} {act : State → BitVec 512 → Served} (hhead : HeadIs s q e) (hkind : kinds (entryKind e) = true)
    (hact : act s e = .done v) : s.processHead q kinds act = v.markServed q (s.levelOf q) := by
  obtain ⟨hready, henable, hentry⟩ := hhead
  have hgo : ¬(s.usher.readySince[q].isNone = true ∨ s.usher.enable = false) := by
    rw [henable]
    simpa [Option.isSome_iff_ne_none] using hready
  unfold State.processHead
  dsimp only
  rw [if_neg hgo, hentry]
  dsimp only
  rw [ofNat_natLE_bytesLE, if_pos hkind, hact]

/-- An entry that leaves its queue with another head has moved it. -/
theorem headMoves_of_headed {head : BitVec 32} (hu : s.OnlyAccess u) (husher : v.usher.desc = (u.headed q head).usher.desc) (hcores : v.cores = u.cores)
    (hmem : v.mem = u.mem) (level : Nat) : HeadMoves s (v.markServed q level) q head := by
  have hdesc (p : QueueId) : (v.markServed q level).desc p = (u.headed q head).desc p := congrArg (fun x => x[p]) husher
  refine ⟨?_, ?_, ?_, fun p hp => ?_, hcores.trans hu.cores, hmem.trans hu.mem⟩
  · rw [hdesc, State.headed, State.stageDesc, State.desc_setDesc_same, head_stageHead]
  · rw [hdesc, State.headed, State.stageDesc, State.desc_setDesc_same, tail_stageBytes_of_later _ (le_refl 4) (by rw [length_bytesLE]; decide), hu.desc]
  · show (v.usher.readySince.set q none)[q] = none
    simp
  · rw [hdesc, State.headed, State.stageDesc, State.desc_setDesc_ne _ hp]
    exact hu.desc p

theorem State.moveHead_of_written {head : BitVec 32} (h : HeadWritten s q head) (k : State → Served) :
    ∃ u, s.OnlyAccess u ∧ s.moveHead q head k = k (u.headed q head) := by
  obtain ⟨u, hu, hpost⟩ := State.usherPost_of_written h q.val fun s => k (s.stageDesc q 4 (bytesLE 4 head.toNat))
  exact ⟨u, hu.1, hpost⟩

/-- The head moves by one. -/
theorem State.advance_of_written (h : HeadWritten s q ((s.desc q).head + 1)) :
    ∃ v, s.advance q = .done v ∧ ∀ level, HeadMoves s (v.markServed q level) q ((s.desc q).head + 1) := by
  obtain ⟨u, hu, hmove⟩ := State.moveHead_of_written h .done
  exact ⟨_, hmove, headMoves_of_headed hu rfl rfl rfl⟩

/-- The head jumps. -/
theorem State.jump_of_written {n : Nat} {head : BitVec 32} (hhead : (s.desc q).head + BitVec.ofNat 32 n = head) (h : HeadWritten s q head) :
    ∃ v, s.jump q n = .done v ∧ ∀ level, HeadMoves s (v.markServed q level) q head := by
  subst hhead
  obtain ⟨u, hu, hmove⟩ := State.moveHead_of_written h fun t => .done (t.modUsher fun x => { x with ahead := x.ahead.set q (decide ((s.desc q).count < n)) })
  exact ⟨_, hmove, headMoves_of_headed hu rfl rfl rfl⟩

/-- An entry's action that is done moves the head of its queue. -/
theorem completes_of_entry {x : Instr} {kinds : Nat → Bool} {act : State → BitVec 512 → Served} {P : State → Prop}
    (hexec : exec x s = .next (s.processHead q kinds act)) (hhead : HeadIs s q e) (hkind : kinds (entryKind e) = true)
    (hact : ∃ v, act s e = .done v ∧ ∀ level, P (v.markServed q level)) : Completes (exec x s) P := by
  obtain ⟨v, hdone, hP⟩ := hact
  rw [hexec, completes_next, State.processHead_of_done hhead hkind hdone]
  exact hP _

/-! Nodes (R417, R418) -/

theorem State.withWord_of_read {a : BitVec 64} {bs : List (BitVec 8)} (hread : s.nodeWord (whoHead q) q a = (.ok bs, s)) (k : Nat → State → Served) :
    s.withWord q e a k = k (natLE bs) s := by
  simp only [State.withWord, hread]

theorem State.writeWord_of_written {a x : BitVec 64} (hwritten : s.usherWrite (whoHead q) (s.desc q).asn a.toNat (bytesLE 8 x.toNat) = (.ok [], s))
    (k : State → Served) : s.writeWord q e a x k = k s := by
  simp only [State.writeWord, hwritten]

theorem State.privileged_of_ok {ok : Bool} (hpriv : (s.desc q).priv = true) (hok : ok = true) (k : Served) : s.privileged q e ok k = k := by
  simp [State.privileged, hpriv, hok]

theorem State.decrementWord_of_read {a : BitVec 64} {bs : List (BitVec 8)} (hnarrow : a.toNat < 2 ^ 56)
    (hread : s.glbDecrement (whoHead q) (s.desc q).asn (a.extractLsb' 0 56) = (.ok bs, s)) (k : Nat → State → Served) :
    s.decrementWord q e a k = k (natLE bs) s := by
  simp only [State.decrementWord, if_neg hnarrow.not_ge, hread]

/-- The low bits of the address of a word of an entry. -/
theorem wordAddress_low (e : BitVec 512) : (e.extractLsb' 448 64).extractLsb' 0 3 = e.extractLsb' 448 3 := by
  ext i hi
  simp [show i < 64 by omega]

end

end Sys2Proof.Machine
end

section
/-!
Proofs for O53, on nodes that move the head of their queue.
-/
namespace Sys2Proof.Machine

/-! Entries that move their queue's head (R417, R418) -/

section
variable {s : State} {q : QueueId} {e : BitVec 512}

theorem ofNat_succ_toNat {n : Nat} (x : BitVec n) : BitVec.ofNat 32 (1 + x.toNat) = 1 + x.setWidth 32 := by
  rw [BitVec.ofNat_add, BitVec.ofNat_toNat]
  rfl

theorem wait_moves (hhead : HeadIs s q e) (hkind : entryKind e = 2) (hok : waitOk e = true) {bs : List (BitVec 8)}
    (hread : s.nodeWord (whoHead q) q (e.extractLsb' 448 64) = (.ok bs, s)) (hwritten : HeadWritten s q ((s.desc q).head + 1)) :
    Completes (exec (.wait q) s) fun t => HeadMoves s t q ((s.desc q).head + 1) := by
  obtain ⟨v, hdone, hmoves⟩ := State.advance_of_written hwritten
  refine completes_of_entry rfl hhead (by simp [hkind]) ⟨v, ?_, hmoves⟩
  simp only [hok, Bool.true_eq_false, if_false]
  rw [State.withWord_of_read hread, hdone]

theorem signal_moves (hhead : HeadIs s q e) (hkind : entryKind e = 3) (hok : waitOk e = true)
    (hword : s.usherWrite (whoHead q) (s.desc q).asn (e.extractLsb' 448 64).toNat (bytesLE 8 (e.extractLsb' 384 64).toNat) = (.ok [], s))
    (hwritten : HeadWritten s q ((s.desc q).head + 1)) : Completes (exec (.signal q) s) fun t => HeadMoves s t q ((s.desc q).head + 1) := by
  obtain ⟨v, hdone, hmoves⟩ := State.advance_of_written hwritten
  refine completes_of_entry rfl hhead (by simp [hkind]) ⟨v, ?_, hmoves⟩
  simp only [hok, Bool.true_eq_false, if_false]
  rw [State.writeWord_of_written hword, hdone]

/-- The count that a COND moves to. -/
theorem head_of_cond (head : BitVec 32) (x : BitVec 16) (cond : Bool) :
    head + BitVec.ofNat 32 (if cond then 1 else 1 + x.toNat) = if cond then head + 1 else head + 1 + x.setWidth 32 := by
  cases cond
  · simp only [Bool.false_eq_true, if_false]
    rw [ofNat_succ_toNat, BitVec.add_assoc]
  · rfl

theorem cond_moves (hhead : HeadIs s q e) (hkind : entryKind e = 4) (hpriv : (s.desc q).priv = true) (hzero : e.extractLsb' 8 356 = 0)
    (haligned : (e.extractLsb' 448 64).extractLsb' 0 3 = 0#3) (htest : (e.extractLsb' 364 4).toNat < 4) {bs : List (BitVec 8)}
    (hread : s.nodeWord (whoHead q) q (e.extractLsb' 448 64) = (.ok bs, s)) {head : BitVec 32}
    (hnext : head = if condHolds (e.extractLsb' 364 4).toNat (natLE bs) (e.extractLsb' 384 64).toNat then (s.desc q).head + 1
      else (s.desc q).head + 1 + (e.extractLsb' 368 16).setWidth 32) (hwritten : HeadWritten s q head) :
    Completes (exec (.cond q) s) fun t => HeadMoves s t q head := by
  obtain ⟨v, hdone, hmoves⟩ := State.jump_of_written
    (n := if condHolds (e.extractLsb' 364 4).toNat (natLE bs) (e.extractLsb' 384 64).toNat then 1 else 1 + (e.extractLsb' 368 16).toNat)
    ((head_of_cond ..).trans hnext.symm) hwritten
  rw [wordAddress_low] at haligned
  have hok : (e.extractLsb' 8 356 == 0#356 && e.extractLsb' 448 3 == 0#3 && decide ((e.extractLsb' 364 4).toNat < 4)) = true := by
    simp only [Bool.and_eq_true, beq_iff_eq, decide_eq_true_eq]
    exact ⟨⟨hzero, haligned⟩, htest⟩
  refine completes_of_entry rfl hhead (by simp [hkind]) ⟨v, ?_, hmoves⟩
  rw [State.privileged_of_ok hpriv hok, State.withWord_of_read hread, hdone]

theorem loop_moves (hhead : HeadIs s q e) (hkind : entryKind e = 5) (hpriv : (s.desc q).priv = true) (hzero : e.extractLsb' 8 360 = 0)
    (hzero' : e.extractLsb' 384 64 = 0) (haligned : (e.extractLsb' 448 64).extractLsb' 0 3 = 0#3) (hnarrow : (e.extractLsb' 448 64).toNat < 2 ^ 56)
    (hback : 1 ≤ (e.extractLsb' 368 16).toNat) (hring : (e.extractLsb' 368 16).toNat < 2 ^ (s.desc q).size) {bs : List (BitVec 8)}
    (hread : s.glbDecrement (whoHead q) (s.desc q).asn ((e.extractLsb' 448 64).extractLsb' 0 56) = (.ok bs, s)) {head : BitVec 32}
    (hnext : head = if natLE bs = 0 then (s.desc q).head + 1 else (s.desc q).head - (e.extractLsb' 368 16).setWidth 32)
    (hwritten : HeadWritten s q head) : Completes (exec (.loopNode q) s) fun t => HeadMoves s t q head := by
  have hact : ∃ v, (if natLE bs = 0 then s.advance q else s.moveHead q ((s.desc q).head - BitVec.ofNat 32 (e.extractLsb' 368 16).toNat) .done) = .done v ∧
      ∀ level, HeadMoves s (v.markServed q level) q head := by
    split
    next hlast =>
      rw [if_pos hlast] at hnext
      subst hnext
      exact State.advance_of_written hwritten
    next hmore =>
      rw [if_neg hmore, ← BitVec.ofNat_toNat] at hnext
      subst hnext
      obtain ⟨u, hu, hmove⟩ := State.moveHead_of_written hwritten .done
      exact ⟨_, hmove, headMoves_of_headed hu rfl rfl rfl⟩
  obtain ⟨v, hdone, hmoves⟩ := hact
  have hok : (e.extractLsb' 8 360 == 0#360 && e.extractLsb' 384 64 == 0#64 && (e.extractLsb' 448 64).extractLsb' 0 3 == 0#3 &&
      decide (1 ≤ (e.extractLsb' 368 16).toNat ∧ (e.extractLsb' 368 16).toNat < 2 ^ (s.desc q).size)) = true := by
    simp only [Bool.and_eq_true, beq_iff_eq, decide_eq_true_eq]
    exact ⟨⟨⟨hzero, hzero'⟩, haligned⟩, hback, hring⟩
  refine completes_of_entry rfl hhead (by simp [hkind]) ⟨v, ?_, hmoves⟩
  rw [State.privileged_of_ok hpriv hok, State.decrementWord_of_read hnarrow hread, hdone]

theorem switch_moves (hhead : HeadIs s q e) (hkind : entryKind e = 6) (hpriv : (s.desc q).priv = true) (hzero : e.extractLsb' 8 184 = 0)
    (hzero' : e.extractLsb' 384 40 = 0) (haligned : (e.extractLsb' 448 64).extractLsb' 0 3 = 0#3) (hsome : 1 ≤ (e.extractLsb' 440 8).toNat)
    (hfew : (e.extractLsb' 440 8).toNat ≤ 12) (hother : e.extractLsb' 424 16 ≠ 0) (hcases : ∀ i, i < (e.extractLsb' 440 8).toNat → switchCase e i ≠ 0)
    {bs : List (BitVec 8)} (hread : s.nodeWord (whoHead q) q (e.extractLsb' 448 64) = (.ok bs, s)) {head : BitVec 32}
    (hnext : (s.desc q).head + BitVec.ofNat 32 (if natLE bs < (e.extractLsb' 440 8).toNat then switchCase e (natLE bs) else (e.extractLsb' 424 16).toNat) = head)
    (hwritten : HeadWritten s q head) : Completes (exec (.switch q) s) fun t => HeadMoves s t q head := by
  obtain ⟨v, hdone, hmoves⟩ := State.jump_of_written hnext hwritten
  rw [wordAddress_low] at haligned
  have hother' : (e.extractLsb' 424 16).toNat ≠ 0 := fun h => hother (BitVec.eq_of_toNat_eq h)
  have hok : (e.extractLsb' 8 184 == 0#184 && e.extractLsb' 384 40 == 0#40 && e.extractLsb' 448 3 == 0#3 &&
      decide (1 ≤ (e.extractLsb' 440 8).toNat ∧ (e.extractLsb' 440 8).toNat ≤ 12 ∧ (e.extractLsb' 424 16).toNat ≠ 0) &&
      (List.range (e.extractLsb' 440 8).toNat).all fun i => switchCase e i != 0) = true := by
    simp only [Bool.and_eq_true, beq_iff_eq, decide_eq_true_eq, List.all_eq_true, bne_iff_ne, List.mem_range]
    exact ⟨⟨⟨⟨hzero, hzero'⟩, haligned⟩, hsome, hfew, hother'⟩, hcases⟩
  refine completes_of_entry rfl hhead (by simp [hkind]) ⟨v, ?_, hmoves⟩
  rw [State.privileged_of_ok hpriv hok, State.withWord_of_read hread, hdone]

end

end Sys2Proof.Machine
end

section
/-!
Proofs for O53, on loads and launches.
-/
namespace Sys2Proof.Machine

/-! Loads (R437-R439) -/

section
variable {s t v : State} {who : AwayFor} (hwho : who.core = none)
include hwho

theorem State.loadWrites_asks {asn : BitVec 12} {round : Nat} {ws : List (Nat × List (BitVec 8))} {g : Glb} (h : s.loadWrites who asn round ws = (g, t)) :
    s.Asks t who := by
  induction ws generalizing s round with
  | nil =>
    cases h
    exact .refl
  | cons w ws ih =>
    unfold State.loadWrites at h
    split at h
    next u heq => exact (State.usherWrite_asks hwho heq).trans (ih h)
    next => exact State.usherWrite_asks hwho h

/-- A LOAD entry that is over goes on from its status word. -/
theorem State.loadEntry_done {unit : Nat} {asn : BitVec 12} {e : BitVec 512} {k : State → Served} (h : s.loadEntry who unit asn e k = .done v) :
    ∃ u, s.Asks u who ∧ k u = .done v := by
  have hstatus {x : State} (hx : s.Asks x who) {code index : Nat} (hdone : x.loadStatus who unit asn e code index k = .done v) :
      ∃ u, s.Asks u who ∧ k u = .done v := by
    obtain ⟨u, hu, hdone⟩ := State.usherPost_done hwho hdone
    exact ⟨u, hx.trans hu, hdone⟩
  unfold State.loadEntry at h
  dsimp only at h
  split at h
  next => cases h
  next heq => exact hstatus (State.usherFails_asks (State.usherRead_asks hwho heq) _) h
  next x heq =>
    have hfile := State.usherRead_asks hwho heq
    split at h
    next => exact hstatus hfile h
    next =>
      split at h
      next => cases h
      next heq => exact hstatus (hfile.trans (State.usherFails_asks (State.usherRead_asks hwho heq) _)) h
      next y heq =>
        have hrecord := hfile.trans (State.usherRead_asks hwho heq)
        split at h
        next => cases h
        next heq => exact hstatus (hrecord.trans (State.usherFails_asks (State.loadWrites_asks hwho heq) _)) h
        next heq => exact hstatus (hrecord.trans (State.loadWrites_asks hwho heq)) h

end

section
variable {s : State} {q : QueueId} {e : BitVec 512}

theorem State.advance_done {u v : State} (hu : s.OnlyAccess u) (hdone : u.advance q = .done v) (level : Nat) :
    HeadMoves s (v.markServed q level) q ((s.desc q).head + 1) := by
  obtain ⟨w, hw, hmoved⟩ := State.writeDesc_done (who := whoHead q) rfl hdone
  have hv : w.headed q ((u.desc q).head + 1) = v := Served.done.inj hmoved
  rw [hu.desc] at hv
  subst hv
  exact headMoves_of_headed (hu.trans hw.1) rfl rfl rfl level

theorem load_moves (hhead : HeadIs s q e) (hkind : entryKind e = 7) (hzero : e.extractLsb' 8 88 = 0) (hzero' : e.extractLsb' 192 6 = 0) {v : State}
    (hload : s.loadEntry (whoHead q) q.val (s.desc q).asn e (·.advance q) = .done v) :
    Completes (exec (.load q) s) fun t => HeadMoves s t q ((s.desc q).head + 1) := by
  obtain ⟨u, hu, hdone⟩ := State.loadEntry_done (who := whoHead q) rfl hload
  have hgood : ¬(e.extractLsb' 8 88 ≠ 0#88 ∨ e.extractLsb' 192 6 ≠ 0#6) := by
    rintro (h | h)
    · exact h hzero
    · exact h hzero'
  exact completes_of_entry rfl hhead (by simp [hkind]) ⟨v, (if_neg hgood).trans hload, State.advance_done hu.1 hdone⟩

/-! Launches (R415, R416) -/

theorem State.createJob_leaves (s : State) (q : QueueId) (e : BitVec 512) (k : Kernel) (args : List (BitVec 8)) :
    let t := s.createJob q e k args
    t.usher.desc = s.usher.desc ∧ t.cores = s.cores ∧ t.mem = s.mem := ⟨rfl, rfl, rfl⟩

theorem State.advance_createJob {k : Kernel} {args : List (BitVec 8)} (hwritten : HeadWritten (s.createJob q e k args) q ((s.desc q).head + 1)) :
    ∃ v, (s.createJob q e k args).advance q = .done v ∧ ∀ level, let t := v.markServed q level
      HeadMoves s t q ((s.desc q).head + 1) ∧ t.usher.jobs = (s.createJob q e k args).usher.jobs ∧ t.usher.teams = (s.createJob q e k args).usher.teams := by
  obtain ⟨u, hu, hmove⟩ := State.moveHead_of_written hwritten .done
  refine ⟨_, hmove, fun level => ⟨?_, ?_, ?_⟩⟩
  · obtain ⟨hhead, htail, hready, hothers, hcores, hmem⟩ := headMoves_of_headed (v := u.headed q ((s.desc q).head + 1)) hu rfl rfl rfl level
    exact ⟨hhead, htail, hready, hothers, hcores, hmem⟩
  · show u.usher.jobs = _
    rw [hu.usher]
  · show u.usher.teams = _
    rw [hu.usher]

section
variable {hb rb xb args : List (BitVec 8)} {lrec kn : Nat} {h r : BitVec 512} {k : Kernel}
  (hfields : e.extractLsb' 12 52 = 0 ∧ e.extractLsb' 8 3 = 0 ∧ e.extractLsb' 448 3 = 0 ∧ e.extractLsb' 320 7 = 0 ∧ e.extractLsb' 224 6 = 0)
  (hlrec : (e.extractLsb' 64 64).toNat = lrec) (hkn : (e.extractLsb' 192 16).toNat = kn) (hh : BitVec.ofNat 512 (natLE hb) = h)
  (hr : BitVec.ofNat 512 (natLE rb) = r) (hk : kernelOf h r ((List.range (r.extractLsb' 144 16).toNat).map fun i => byteAt xb (16 * i) 16) = k)
  (hheader : s.usherRead (whoHead q) (s.desc q).asn lrec 64 = (.ok hb, s)) (hvalid : h.getLsbD 0 = true) (hnumber : kn < (h.extractLsb' 288 32).toNat)
  (hrecord : s.usherRead (whoHead q) (s.desc q).asn (lrec + 64 + 64 * kn) 64 = (.ok rb, s))
  (hextents : s.usherRead (whoHead q) (s.desc q).asn (lrec + 64 + 64 * (h.extractLsb' 288 32).toNat + 16 * (r.extractLsb' 160 32).toNat)
    (16 * (r.extractLsb' 144 16).toNat) = (.ok xb, s))
  (hargs : s.usherRead (whoHead q) (s.desc q).asn (e.extractLsb' 128 64).toNat 64 = (.ok args, s))
  (hfit : (k.fit none fun c => !s.cores[c].retired).isSome = true)
include hfields hlrec hkn hh hr hk hheader hvalid hnumber hrecord hextents hargs hfit

theorem State.launchEntry_of_good : s.launchEntry q e = (s.createJob q e k args).advance q := by
  obtain ⟨hsys, hflags, hevent, hsave, hstack⟩ := hfields
  have hgood : ¬(e.extractLsb' 12 52 ≠ 0#52 ∨ e.extractLsb' 8 3 ≠ 0#3 ∨ e.extractLsb' 448 3 ≠ 0#3 ∨ e.extractLsb' 320 7 ≠ 0#7 ∨ e.extractLsb' 224 6 ≠ 0#6) := by
    rintro (h | h | h | h | h)
    · exact h hsys
    · exact h hflags
    · exact h hevent
    · exact h hsave
    · exact h hstack
  have hhead : ¬(h.getLsbD 0 = false ∨ (h.extractLsb' 288 32).toNat ≤ kn) := by
    rintro (h | h)
    · rw [hvalid] at h
      cases h
    · omega
  have hplaced : (k.fit none fun c => !s.cores[c].retired).isNone = false := by
    rwa [← Option.not_isSome, Bool.not_eq_false']
  unfold State.launchEntry
  simp only [if_neg hgood, hlrec, hkn, hheader, hh, if_neg hhead, hrecord, hr, hextents, hargs, hk, hplaced, Bool.false_eq_true, if_false]

theorem launch_moves (hhead : HeadIs s q e) (hkind : entryKind e = 1) (hwritten : HeadWritten (s.createJob q e k args) q ((s.desc q).head + 1)) :
    Completes (exec (.launch q) s) fun t => HeadMoves s t q ((s.desc q).head + 1) ∧ t.usher.jobs = (s.createJob q e k args).usher.jobs ∧
      t.usher.teams = (s.createJob q e k args).usher.teams := by
  obtain ⟨v, hdone, hmoves⟩ := State.advance_createJob hwritten
  have hlaunch := State.launchEntry_of_good hfields hlrec hkn hh hr hk hheader hvalid hnumber hrecord hextents hargs hfit
  exact completes_of_entry rfl hhead (by simp [hkind]) ⟨v, (if_pos hkind).trans (hlaunch.trans hdone), hmoves⟩

end

end

theorem nodesMoveHead (s : State) (q : QueueId) : NodesMoveHead s q := by
  intro e hhead head word asn jumped
  refine ⟨fun hkind hok bs hread => wait_moves hhead hkind hok hread, fun hkind hok hword => signal_moves hhead hkind hok hword,
    fun hkind hpriv hzero haligned htest bs hread => cond_moves hhead hkind hpriv hzero haligned htest hread rfl,
    fun hkind hpriv hzero hzero' haligned hnarrow hback hring bs hread => ?loop,
    fun hkind hpriv hzero hzero' haligned hsome hfew hother hcases bs hread => ?switch,
    fun hkind hzero hzero' v hload => load_moves hhead hkind hzero hzero' hload, ?launch⟩
  case loop =>
    intro next hwritten
    exact loop_moves hhead hkind hpriv hzero hzero' haligned hnarrow hback hring hread rfl hwritten
  case switch =>
    intro next hwritten
    exact switch_moves hhead hkind hpriv hzero hzero' haligned hsome hfew hother hcases hread rfl hwritten
  intro hkind hsys hflags hevent hsave hstack hb rb xb args lrec kn h r n k made hheader hvalid hnumber hrecord hextents hargs hfit hwritten
  have hevent' : e.extractLsb' 448 3 = 0 := (wordAddress_low e).symm.trans hevent
  exact launch_moves ⟨hsys, hflags, hevent', hsave, hstack⟩ rfl rfl rfl rfl rfl hheader hvalid hnumber hrecord hextents hargs hfit hhead hkind hwritten

end Sys2Proof.Machine
end

section
/-!
Proofs for O53, on jobs and configuration blocks.
-/
namespace Sys2Proof.Machine

/-! Jobs and their teams (R416) -/

/-- The job tag of the next job. -/
def State.nextTag (s : State) : BitVec 16 := freeTag (s.usher.jobs.map (·.tag)) s.usher.tag 65536

theorem State.createJob_teams (s : State) (q : QueueId) (e : BitVec 512) (k : Kernel) (args : List (BitVec 8)) :
    ∃ team : Nat → Team, (s.createJob q e k args).usher.teams = s.usher.teams ++ (List.range ((e.extractLsb' 208 16).toNat + 1)).map team ∧
      ∀ i, (team i).state = .pending ∧ (team i).teamId = BitVec.ofNat 16 (team i).t ++ s.nextTag ∧ (team i).kernel = k ∧ (team i).cores = [] :=
  ⟨_, rfl, fun _ => ⟨rfl, rfl, rfl, rfl⟩⟩

theorem State.setReady_of_free {s : State} {q : QueueId} (hserving : s.usher.serving ≠ some q) (ready : Bool) :
    s.setReady q ready = s.modUsher fun u => { u with
      readySince := u.readySince.set q (if ready then some (u.readySince[q].getD s.cycle) else none)
      aged := u.aged.set q (if ready then u.aged[q] else 0) } := if_neg hserving

/-- What the examination of a queue leaves. -/
theorem State.examined_leaves {s : State} {q : QueueId} (hserving : s.usher.serving ≠ some q) (ready : Bool) (retest : Option Nat) :
    ∃ t, s.examined q ready retest = .done t ∧ t.usher.readySince[q] = (if ready then some (s.usher.readySince[q].getD s.cycle) else none) ∧
      t.usher.retest[q] = retest ∧ t.cores = s.cores ∧ t.mem = s.mem := by
  obtain ⟨u, hu⟩ : ∃ u, u = (s.forgetAways (whoDesc q)).forgetAways (whoExam q) := ⟨_, rfl⟩
  have hready : (u.setReady q ready).usher.readySince[q] = (if ready then some (s.usher.readySince[q].getD s.cycle) else none) := by
    rw [State.setReady_of_free (by rw [hu]; exact hserving), hu]
    exact Vector.getElem_set_self ..
  have hrest : (u.setReady q ready).cores = s.cores ∧ (u.setReady q ready).mem = s.mem := by
    rw [State.setReady_of_free (by rw [hu]; exact hserving), hu]
    exact ⟨rfl, rfl⟩
  refine ⟨(u.setReady q ready).modUsher fun u => { u with examined := u.examined.set q true, retest := u.retest.set q retest }, by rw [hu]; rfl, hready, ?_,
    hrest.1, hrest.2⟩
  exact Vector.getElem_set_self ..

/-- A WAIT entry that has been read for an examination. -/
structure State.WaitRead (s : State) (q : QueueId) (d e : BitVec 512) (w : List (BitVec 8)) : Prop where
  desc : s.usherRead (whoDesc q) 0 (s.descAddr q) 64 = (.ok (bytesLE 64 d.toNat), s)
  holds : (s.setDesc q d).holdsEntries q = true
  entry : (s.setDesc q d).entryAt (whoExam q) q = (.ok (bytesLE 64 e.toNat), s.setDesc q d)
  kind : entryKind e = 2
  ok : waitOk e = true
  word : (s.setDesc q d).nodeWord (whoExam q) q (e.extractLsb' 448 64) = (.ok w, s.setDesc q d)

section
variable {s : State} {q : QueueId} {d e : BitVec 512} {w : List (BitVec 8)} (h : s.WaitRead q d e w)
include h

theorem State.examine_of_wait : s.examine q = s.serve1 (if (e.extractLsb' 384 64).toNat ≤ natLE w then (s.setDesc q d).examined q true
    else ({ s.setDesc q d with fresh := s.fresh + 1 } : State).examined q false (some (s.cycle + 1 + Config.usherWait s.fresh % 1600))) := by
  have htest : (s.setDesc q d).testHead q = if (e.extractLsb' 384 64).toNat ≤ natLE w then (s.setDesc q d).examined q true
      else ({ s.setDesc q d with fresh := s.fresh + 1 } : State).examined q false (some (s.cycle + 1 + Config.usherWait s.fresh % 1600)) := by
    simp only [State.testHead, h.holds, Bool.true_eq_false, if_false, h.entry, ofNat_natLE_bytesLE, h.kind, h.ok, and_self, if_true, h.word]
    rfl
  simp only [State.examine, State.readDesc, h.desc, ofNat_natLE_bytesLE, htest]

variable (hserving : s.usher.serving ≠ some q)
include hserving

theorem State.examine_of_met (hmet : (e.extractLsb' 384 64).toNat ≤ natLE w) : let t := s.examine q
    t.usher.readySince[q].isSome = true ∧ t.usher.retest[q] = none ∧ t.cores = s.cores ∧ t.mem = s.mem := by
  obtain ⟨t, hdone, hready, hretest, hcores, hmem⟩ := State.examined_leaves (s := s.setDesc q d) hserving true none
  have heq : s.examine q = t := by rw [State.examine_of_wait h, if_pos hmet, hdone, State.serve1]
  rw [heq]
  exact ⟨by rw [hready]; rfl, hretest, hcores, hmem⟩

theorem State.examine_of_unmet (hunmet : natLE w < (e.extractLsb' 384 64).toNat) : let t := s.examine q
    t.usher.readySince[q] = none ∧ (∃ n, t.usher.retest[q] = some n ∧ s.cycle < n ∧ n ≤ s.cycle + 1600) ∧ t.cores = s.cores ∧ t.mem = s.mem := by
  obtain ⟨t, hdone, hready, hretest, hcores, hmem⟩ := State.examined_leaves (s := { s.setDesc q d with fresh := s.fresh + 1 }) hserving false
    (some (s.cycle + 1 + Config.usherWait s.fresh % 1600))
  have heq : s.examine q = t := by rw [State.examine_of_wait h, if_neg hunmet.not_ge, hdone, State.serve1]
  rw [heq]
  exact ⟨hready, ⟨_, hretest, by omega, by omega⟩, hcores, hmem⟩

end

theorem execWaitRetest_of_due {s : State} {q : QueueId} {due : Nat} (henable : s.usher.enable = true) (hretest : s.usher.retest[q] = some due)
    (hdue : due ≤ s.cycle) : execWaitRetest q s = .next (s.examine q) := by
  have hgo : s.usher.enable = true ∧ (s.usher.retest[q].any (· ≤ s.cycle)) = true := ⟨henable, by simp [hretest, hdue]⟩
  exact congrArg Host.Outcome.next (if_pos hgo)

theorem jobsAreMade (s : State) (q : QueueId) : JobsAreMade s q := by
  refine ⟨fun e k args => ?made, fun due d e w henable hretest hdue hserving hdesc => ?retest, fun since hready hserving hage hdue => ?ages⟩
  case made =>
    obtain ⟨team, hteams, hteam⟩ := s.createJob_teams q e k args
    refine ⟨rfl, rfl, ?_, ?_, fun x hx => ?_⟩
    · show (s.usher.jobs ++ [_]).length = _
      rw [List.length_append]
      rfl
    · rw [hteams, List.length_append, List.length_map, List.length_range, Nat.add_assoc]
    · rw [hteams, List.drop_left] at hx
      obtain ⟨i, -, rfl⟩ := List.mem_map.mp hx
      exact hteam i
  case retest =>
    intro u hholds hentry hkind hok hword
    have hread : s.WaitRead q d e w := ⟨hdesc, hholds, hentry, hkind, hok, hword⟩
    exact ⟨fun hmet => ⟨_, execWaitRetest_of_due henable hretest hdue, State.examine_of_met hread hserving hmet⟩,
      fun hunmet => ⟨_, execWaitRetest_of_due henable hretest hdue, State.examine_of_unmet hread hserving hunmet⟩⟩
  case ages =>
    have hages : s.agesNow q = true := by
      simp only [State.agesNow, hready, Bool.and_eq_true, bne_iff_ne, decide_eq_true_eq]
      exact ⟨⟨hserving, by omega⟩, hdue⟩
    exact congrArg Host.Outcome.next (if_pos hages)

/-! Completed jobs (R164, R416) -/

/-- A job that is over is gone, with its teams. -/
def State.withoutJob (s : State) (j : Nat) : State :=
  s.modUsher fun u => { u with jobs := u.jobs.filter (·.id != j), teams := u.teams.filter (·.job != j) }

theorem State.completeJob_of_written {s : State} {j : Job}
    (h : j.event = 0 ∨ Written s (whoJob j.id) j.asn j.event.toNat (bytesLE 8 j.evalue.toNat)) :
    ∃ u, s.OnlyAccess u ∧ s.completeJob j = .done (u.withoutJob j.id) := by
  unfold State.completeJob
  by_cases hnone : j.event = 0
  · exact ⟨s, .refl, if_pos hnone⟩
  · obtain ⟨u, hu, hpost⟩ := State.usherPost_of_written (h.resolve_left hnone) j.queue.val fun s => .done (s.withoutJob j.id)
    exact ⟨u, hu.1, (if_neg hnone).trans hpost⟩

theorem jobsComplete (s : State) (q : QueueId) : JobsComplete s q := by
  intro j _ hj hover hevent
  obtain ⟨u, hu, hdone⟩ := State.completeJob_of_written hevent
  have hexec : exec (.jobComplete j.id) s = .next ((u.withoutJob j.id).forgetAways (whoJob j.id)) := by
    show execJobComplete j.id s = _
    simp only [execJobComplete, hj, hover, if_true, hdone]
  rw [hexec, completes_next]
  refine ⟨fun i => ?_, fun x => ?_, hu.cores, hu.mem⟩
  · rw [← hu.usher]
    exact List.mem_filter.trans (and_congr_right fun _ => bne_iff_ne)
  · rw [← hu.usher]
    exact List.mem_filter.trans (and_congr_right fun _ => bne_iff_ne)

/-! Configuration blocks (R412, R441) -/

theorem accessOk_of_aligned {off n : Nat} (hn : n = 4 ∨ n = 8) (haligned : off % n = 0) : accessOk off n = true := by
  rcases hn with rfl | rfl <;> simpa [accessOk] using haligned

theorem blocksCommit (s : State) (q : QueueId) : BlocksCommit s q := by
  intro off bs hlength haligned
  have hok := accessOk_of_aligned hlength haligned
  refine ⟨⟨_, congrArg Host.Outcome.next (if_pos hok), rfl, rfl, rfl, rfl, rfl, rfl, rfl⟩,
    ⟨_, congrArg Host.Outcome.next (if_pos hok), rfl, rfl, rfl, rfl, fun j => ?_, rfl⟩⟩
  exact Vec.getElem_ofFn ..

end Sys2Proof.Machine
end

section
/-!
Proofs for O53, on teams that start.
-/
namespace Sys2Proof.Machine

/-! Teams that start (R421, R424) -/

theorem linePieces_zero (v : Nat) : linePieces v 0 = [] := rfl

theorem State.usherRead_nothing (s : State) (who : AwayFor) (asn : BitVec 12) : s.usherRead who asn 0 0 = (.ok [], s) := rfl

section
variable {ps : List (CoreId × Nat)} {f : CoreId × Nat → Core → Core} {d : CoreId}

theorem getElem_foldl_modify_of_not_mem (hd : ∀ p ∈ ps, p.1 ≠ d) (v : Vector Core 128) : (ps.foldl (fun v p => Vec.modify v p.1 (f p)) v)[d] = v[d] := by
  induction ps generalizing v with
  | nil => rfl
  | cons p ps ih =>
    exact (ih (fun r hr => hd r (List.mem_cons_of_mem _ hr)) _).trans (Vec.getElem_modify_ne _ _ (hd p (List.mem_cons_self ..)).symm)

/-- What each change makes of a core holds of the core that several change. -/
theorem getElem_foldl_modify_of_mem {P : Core → Prop} (hP : ∀ p k, P (f p k)) (hd : ∃ p ∈ ps, p.1 = d) (v : Vector Core 128) :
    P (ps.foldl (fun v p => Vec.modify v p.1 (f p)) v)[d] := by
  induction ps generalizing v with
  | nil =>
    obtain ⟨p, hp, -⟩ := hd
    cases hp
  | cons p ps ih =>
    by_cases hrest : ∃ r ∈ ps, r.1 = d
    · exact ih hrest _
    · have hlast : p.1 = d := by
        obtain ⟨r, hr, hrd⟩ := hd
        rcases List.mem_cons.mp hr with rfl | hr
        · exact hrd
        · exact absurd ⟨r, hr, hrd⟩ hrest
      subst hlast
      have hkept := getElem_foldl_modify_of_not_mem (f := f) (d := p.1) (ps := ps) (fun r hr hrd => hrest ⟨r, hr, hrd⟩) (Vec.modify v p.1 (f p))
      rw [List.foldl_cons, hkept, Vec.getElem_modify_same]
      exact hP p _

end

/-- A core on which an initial task of a team has started. -/
def StartedFor (x : Team) (now : Nat) (k : Core) : Prop :=
  k.task.state = some .running ∧ k.task.team = some x.id ∧ k.task.startAt = now + 1 ∧ k.b.pc = x.kernel.centry ∧ k.b.sys.asn = x.asn ∧
    k.b.handler = false ∧ k.b.noHandler = x.kernel.handler.isNone

/-- The core of number i in a team that starts. -/
def State.seatCore (s : State) (x : Team) (cs : List CoreId) (p : CoreId × Nat) (k : Core) : Core :=
  k.assign (x.firstBody p.2 (frontBank [] 0))
    { state := some .running, team := some x.id, index := Fin.ofNat 128 p.2, node := some (s.nextId + p.2), startAt := s.cycle + 1 } s.cycle (s.nextId + cs.length)

theorem State.startedFor_seatCore (s : State) (x : Team) (cs : List CoreId) (p : CoreId × Nat) (k : Core) : StartedFor x s.cycle (s.seatCore x cs p k) :=
  ⟨rfl, rfl, rfl, rfl, rfl, rfl, rfl⟩

section
variable {s : State} {x : Team} {cs : List CoreId} {o : Option (Nat × Nat)}

theorem State.startTeam_leaves (hteam : s.team? x.id = some x) (himage : x.kernel.image = 0) : let t := s.startTeam x cs o
    t.mem = s.mem ∧ t.team? x.id = some (x.seat (s.forgetAways (whoTeam x.id)) cs o) ∧
      t.cores = cs.zipIdx.foldl (fun v p => Vec.modify v p.1 ((s.forgetAways (whoTeam x.id)).seatCore x cs p)) s.cores := by
  have hseat := State.team?_modTeam (s := s.forgetAways (whoTeam x.id)) (f := fun x => x.seat (s.forgetAways (whoTeam x.id)) cs o) hteam rfl
  unfold State.startTeam
  simp only [himage, if_true, Nat.mul_zero]
  exact ⟨rfl, hseat, rfl⟩

theorem execTeamPlace_of_pending (hplacement : s.placement = some (x, cs, o)) (hstate : x.state = .pending) :
    execTeamPlace x.id s = .next (s.startTeam x cs o) := by
  simp only [execTeamPlace, hplacement, if_true, hstate]

theorem teamPlace_leaves (hplacement : s.placement = some (x, cs, o)) (hstate : x.state = .pending) (himage : x.kernel.image = 0)
    (hteam : s.team? x.id = some x) : Completes (exec (.teamPlace x.id) s) fun t => t.mem = s.mem ∧
      (t.team? x.id).map (fun y => (y.state, y.cores, y.origin)) = some (.resident, cs, o) ∧
      (∀ c ∈ cs, (t.task c).state = some .running ∧ (t.task c).team = some x.id ∧ (t.task c).startAt = s.cycle + 1 ∧ (t.body c).pc = x.kernel.centry ∧
        (t.body c).sys.asn = x.asn ∧ (t.body c).handler = false ∧ (t.body c).noHandler = x.kernel.handler.isNone) ∧
      ∀ c, c ∉ cs → t.cores[c] = s.cores[c] := by
  obtain ⟨hmem, hseat, hcores⟩ := State.startTeam_leaves (cs := cs) (o := o) hteam himage
  refine ⟨_, execTeamPlace_of_pending hplacement hstate, hmem, by rw [hseat]; rfl, fun c hc => ?_, fun c hc => ?_⟩
  · obtain ⟨i, hi, rfl⟩ := List.mem_iff_getElem.mp hc
    have hstarted := getElem_foldl_modify_of_mem (P := StartedFor x s.cycle) (State.startedFor_seatCore (s.forgetAways (whoTeam x.id)) x cs)
      ⟨(cs[i], i), List.mk_mem_zipIdx_iff_getElem?.mpr (List.getElem?_eq_getElem hi), rfl⟩ s.cores
    rw [← hcores] at hstarted
    exact hstarted
  · rw [hcores]
    refine getElem_foldl_modify_of_not_mem (fun p hp hpc => hc ?_) s.cores
    rw [← hpc]
    exact List.fst_mem_of_mem_zipIdx hp

end

end Sys2Proof.Machine
end

section
/-!
Proofs for O53, on displacement, saves and faults of teams.
-/
namespace Sys2Proof.Machine

/-! Displacement (R422, R423) -/

theorem State.answer_usher (s : State) (r : Request) : (s.answer r).usher = s.usher := by
  unfold State.answer
  split
  · rfl
  · split <;> rfl

/-- Teams change in what does not tell whether their quantum is over; bodies, bytes and jobs are as before. -/
def State.Stops (s t : State) : Prop :=
  t.mem = s.mem ∧ (∀ d, t.body d = s.body d) ∧ t.usher.jobs = s.usher.jobs ∧
    ∀ k, (t.team? k).map (·.quantumOver) = (s.team? k).map (·.quantumOver)

section
variable {s t u : State}

theorem State.Stops.refl : s.Stops s := ⟨rfl, fun _ => rfl, rfl, fun _ => rfl⟩

theorem State.Stops.trans (hst : s.Stops t) (htu : t.Stops u) : s.Stops u := by
  obtain ⟨hmem, hbody, hjobs, hteams⟩ := hst
  obtain ⟨hmem', hbody', hjobs', hteams'⟩ := htu
  exact ⟨hmem'.trans hmem, fun d => (hbody' d).trans (hbody d), hjobs'.trans hjobs, fun k => (hteams' k).trans (hteams k)⟩

theorem State.Stops.foldl {α : Type} {f : State → α → State} (hf : ∀ u x, State.Stops u (f u x)) (xs : List α) : s.Stops (xs.foldl f s) := by
  induction xs generalizing s with
  | nil => exact .refl
  | cons x xs ih => exact (hf s x).trans ih

theorem State.stops_of_coresMem (h : s.CoresMem t) (husher : t.usher = s.usher) : s.Stops t := by
  refine ⟨h.2, fun d => congrArg (fun v => v[d].b) h.1, by rw [husher], fun k => ?_⟩
  rw [State.team?, State.team?, husher]

theorem State.modTask_stops (s : State) (c : CoreId) (f : Task → Task) : s.Stops (s.modTask c f) := ⟨rfl, fun _ => State.body_modTask .., rfl, fun _ => rfl⟩

theorem State.modTeam_stops (s : State) (k : Nat) {f : Team → Team} (hid : ∀ x, (f x).id = x.id) (hquantum : ∀ x, (f x).quantumOver = x.quantumOver) :
    s.Stops (s.modTeam k f) := by
  refine ⟨rfl, fun _ => rfl, rfl, fun j => ?_⟩
  have hkey (x : Team) : (if x.id = k then f x else x).id = x.id ∧ (if x.id = k then f x else x).quantumOver = x.quantumOver := by
    split
    · exact ⟨hid x, hquantum x⟩
    · exact ⟨rfl, rfl⟩
  have hfind : ((·.id == j) ∘ fun x : Team => if x.id = k then f x else x) = (·.id == j) := funext fun x => by
    show ((if x.id = k then f x else x).id == j) = (x.id == j)
    rw [(hkey x).1]
  show ((s.usher.teams.map _).find? _).map _ = (s.usher.teams.find? _).map _
  rw [List.find?_map, hfind, Option.map_map]
  exact congrArg (Option.map · _) (funext fun x => (hkey x).2)

/-- A `pharw` of core c whose arrival is performed ends. -/
def State.endsWait (c : CoreId) (s : State) (r : Request) : State :=
  match r.stage, r.op with
  | .waiter _ _, .phaser .arw .. => if r.core = c then s.answer { r with value := (s.readPhaser r.pa).status 1 } else s
  | _, _ => s

theorem State.endsWait_stops (c : CoreId) (s : State) (r : Request) : s.Stops (s.endsWait c r) := by
  unfold State.endsWait
  split
  · split
    · exact State.stops_of_coresMem (State.answer_coresMem ..) (State.answer_usher ..)
    · exact .refl
  · exact .refl

theorem execStopRequest_stops (c : CoreId) (s : State) : ∃ t, execStopRequest c s = .next t ∧ s.Stops t := by
  refine ⟨_, rfl, ?_⟩
  exact (s.modTask_stops c _).trans (State.Stops.foldl (State.endsWait_stops c) _)

theorem State.stopTeam_stops (s : State) (x : Team) : s.Stops (s.stopTeam x) := by
  unfold State.stopTeam
  refine (s.modTeam_stops x.id ?_ ?_).trans (State.Stops.foldl (fun u c => ?_) _)
  · exact fun _ => rfl
  · exact fun _ => rfl
  · obtain ⟨t, ht, hstops⟩ := execStopRequest_stops c u
    rw [ht]
    exact hstops

theorem State.displace_stops (s : State) : s.Stops s.displace := by
  unfold State.displace
  split
  · exact .refl
  · exact State.Stops.foldl State.stopTeam_stops _

end

section
variable {s : State} {k : Nat} {x : Team} (hteam : s.team? k = some x)
include hteam

theorem quantumExpiry_leaves (hstate : x.state = .resident) (hquantum : x.quantumOver = false) (hdue : x.residentAt + s.usher.quantumCycles ≤ s.cycle) :
    Completes (exec (.quantumExpiry k) s) fun t => t = State.displace (s.modTeam k fun y => { y with quantumOver := true }) ∧ t.mem = s.mem ∧
      (t.team? k).map (·.quantumOver) = some true := by
  have hexec : exec (.quantumExpiry k) s = .next (s.modTeam k fun y => { y with quantumOver := true }).displace := by
    show execQuantumExpiry k s = _
    simp only [execQuantumExpiry, hteam, hstate, hquantum, hdue, and_self, if_true]
  obtain ⟨hmem, -, -, hteams⟩ := (s.modTeam k fun y => { y with quantumOver := true }).displace_stops
  have hover := State.team?_modTeam (f := fun y => { y with quantumOver := true }) hteam rfl
  rw [hexec, completes_next]
  exact ⟨rfl, hmem, by rw [hteams, hover]; rfl⟩

/-! Saves (R38, R426) -/

theorem freeCores_leaves : let t := s.freeCores x
    t.mem = s.mem ∧ t.team? k = some { x with cores := [] } ∧ ∀ d ∈ x.cores, t.task d = {} := by
  obtain rfl := State.id_of_team? hteam
  have hfree : s.freeCores x = (s.modTeam x.id fun x => { x with cores := [] }).eachCore x.cores Core.free := rfl
  have hframe := (s.modTeam x.id fun x => { x with cores := [] }).eachCore_frame x.cores Core.free
  have hcleared := State.team?_modTeam (f := fun x => { x with cores := [] }) hteam rfl
  rw [hfree]
  refine ⟨by rw [hframe]; rfl, ?_, fun d hd => ?_⟩
  · have husher : ((s.modTeam x.id fun x => { x with cores := [] }).eachCore x.cores Core.free).team? x.id =
        (s.modTeam x.id fun x => { x with cores := [] }).team? x.id := by
      rw [hframe]
      rfl
    exact husher.trans hcleared
  · exact congrArg Core.task (State.cores_eachCore_of_mem _ hd (f := Core.free) fun _ => rfl)

theorem teamSave_leaves (hsaves : s.savesNow x = true) {g : List (BitVec 8)} {u : State}
    (hpieces : s.writePieces (whoTeam k) x.asn ({ x with frozen := s.rangeFrozen x }.image x.faulting (x.cores.map fun c => s.cores[c])) = (.ok g, u)) :
    Completes (exec (.teamSave k) s) fun t => t.mem = s.mem ∧
      (t.team? k).map (fun y => (y.state, y.cores, y.inArea)) = some (if x.faulting then .faulted else .saved, [], true) ∧ ∀ c ∈ x.cores, t.task c = {} := by
  obtain rfl := State.id_of_team? hteam
  have honly : s.OnlyAccess (u.forgetAways (whoTeam x.id)) := (State.writePieces_asks (who := whoTeam x.id) rfl hpieces).1.trans (State.forgetAways_only ..)
  obtain ⟨v, hv⟩ : ∃ v, v = u.forgetAways (whoTeam x.id) := ⟨_, rfl⟩
  rw [← hv] at honly
  have hexec : exec (.teamSave x.id) s = .next (v.leaveCores { x with frozen := s.rangeFrozen x } (if x.faulting then .faulted else .saved) true) := by
    show execTeamSave x.id s = _
    simp only [execTeamSave, hteam, hsaves, if_true, hpieces]
    rw [hv]
  have hteam' : v.team? x.id = some x := by
    unfold State.team? at hteam ⊢
    rwa [honly.usher]
  obtain ⟨hmem, hcleared, htasks⟩ := freeCores_leaves hteam'
  have hsaved := State.team?_modTeam (f := fun y => { y with
    state := if x.faulting then .faulted else .saved, kept := x.cores.map fun c => v.cores[c], inArea := true, frozen := s.rangeFrozen x, waitsFrom := v.cycle })
    hcleared rfl
  rw [hexec, completes_next]
  refine ⟨hmem.trans honly.mem, ?_, htasks⟩
  exact (congrArg (Option.map _) hsaved).trans rfl

/-! Faults of jobs (R430) -/

omit hteam in
theorem State.beginFault_leaves {j : Job} (hjob : s.jobOf x = some j) (c : CoreId) (f : TeamFault) : let t := s.beginFault x c f
    SameBytes s t ∧ ∃ i ∈ t.usher.jobs, i.id = j.id ∧ i.faulted = true ∧ i.fault = some (x.id, c, f) := by
  have hid : j.id = x.job := by simpa using List.find?_some hjob
  obtain ⟨u, hu⟩ : ∃ u, u = s.modJob x.job fun j => { j with faulted := true, fault := some (x.id, c, f) } := ⟨_, rfl⟩
  have hfreeze := u.modTeam_stops x.id (f := fun y => { y with frozen := u.rangeFrozen x }) (fun _ => rfl) fun _ => rfl
  have hmark (v : State) (y : Team) : v.Stops ((if y.state = .resident then v.stopTeam y else v).modTeam y.id fun y => { y with faulting := true }) := by
    refine State.Stops.trans ?_ (State.modTeam_stops _ y.id (f := fun y => { y with faulting := true }) (fun _ => rfl) fun _ => rfl)
    split
    · exact v.stopTeam_stops y
    · exact .refl
  have hstops : u.Stops (s.beginFault x c f) := by
    rw [hu] at hfreeze ⊢
    exact hfreeze.trans (State.Stops.foldl hmark _)
  obtain ⟨hmem, hbody, hjobs, -⟩ := hstops
  refine ⟨sameBytes_of_bodies (hmem.trans (by rw [hu]; rfl)) fun d => (hbody d).trans (by rw [hu]; rfl), ?_⟩
  rw [hjobs, hu]
  exact ⟨_, List.mem_map.mpr ⟨j, List.mem_of_find?_eq_some hjob, if_pos hid⟩, rfl, rfl, rfl⟩

theorem teamFault_leaves {j : Job} {c : CoreId} {f : TeamFault} (hjob : s.jobOf x = some j) (hfaulted : j.faulted = false)
    (hcore : s.faultedCore x = some (c, f)) : Completes (exec (.teamFault k) s) fun t => SameBytes s t ∧
      ∃ i ∈ t.usher.jobs, i.id = j.id ∧ i.faulted = true ∧ i.fault = some (x.id, c, f) := by
  have hdue : s.faultDue x = true := by simp only [State.faultDue, hjob, hfaulted, Bool.false_eq_true, if_false, hcore, Option.isSome_some]
  have hexec : exec (.teamFault k) s = .next (s.beginFault x c f) := by
    show execTeamFault k s = _
    simp only [execTeamFault, hteam, hdue, if_true, hjob, hfaulted, Bool.false_eq_true, if_false, hcore]
  rw [hexec, completes_next]
  exact State.beginFault_leaves hjob c f

end

theorem teamsArePlaced (s : State) (q : QueueId) : TeamsArePlaced s q := by
  refine ⟨fun x cs o hplacement hstate himage hteam _ => teamPlace_leaves hplacement hstate himage hteam, fun k x hteam => ?_⟩
  exact ⟨quantumExpiry_leaves hteam, fun hsaves g u hpieces => teamSave_leaves hteam hsaves hpieces,
    fun j c f hjob hfaulted hcore => teamFault_leaves hteam hjob hfaulted hcore⟩

/-- Settles O53: tails, nodes, jobs, teams, and configuration blocks. -/
theorem usherEvents : Obligations.UsherEvents := fun s q =>
  ⟨tailsAreStored s q, nodesMoveHead s q, jobsAreMade s q, teamsArePlaced s q, jobsComplete s q, blocksCommit s q⟩

end Sys2Proof.Machine
end

section
/-!
Proofs for O54, on the mailbox.
-/
namespace Sys2Proof.Machine

/-! The mailbox (R477) -/

/-- The bits of the mailbox that a write leaves: its status and what is reserved. -/
def mailboxFixed : BitVec 512 := (BitVec.allOnes 392).zeroExtend 512 <<< 8

/-- The mailbox after bytes of it are written. -/
def State.mailboxWith (s : State) (off : Nat) (bs : List (BitVec 8)) : BitVec 512 :=
  (patch s.host.mailbox 64 off bs &&& ~~~mailboxFixed) ||| (s.host.mailbox &&& mailboxFixed)

/-- The bits of the command of the mailbox. -/
def cmdBits : BitVec 512 := 0xFF#512

/-- A status at its place in the mailbox. -/
def placeStatus (x : BitVec 512) : BitVec 512 := x <<< 392

/-- The bits of its status. -/
def statusBits : BitVec 512 := placeStatus cmdBits

/-- A mailbox whose status says that a command is under way. -/
def mailboxStarted (m : BitVec 512) : BitVec 512 := (m &&& ~~~statusBits) ||| placeStatus 1#512

/-- A mailbox whose command is over, with its status. -/
def mailboxEnded (m : BitVec 512) (status : BitVec 8) : BitVec 512 := (m &&& ~~~statusBits &&& ~~~cmdBits) ||| placeStatus (status.zeroExtend 512)

theorem getLsbD_cmdBits (i : Nat) : cmdBits.getLsbD i = decide (i < 8) := by
  rw [cmdBits, BitVec.getLsbD_ofNat, show 0xFF = 2 ^ 8 - 1 from rfl, Nat.testBit_two_pow_sub_one]
  by_cases h : i < 8
  · simp [h, show i < 512 by omega]
  · simp [h]

theorem getLsbD_placeStatus (x : BitVec 512) (i : Nat) : (placeStatus x).getLsbD i = (decide (i < 512) && !decide (i < 392) && x.getLsbD (i - 392)) := by
  rw [placeStatus, BitVec.getLsbD_shiftLeft]

theorem getLsbD_statusBits (i : Nat) : statusBits.getLsbD i = decide (392 ≤ i ∧ i < 400) := by
  simp only [statusBits, getLsbD_placeStatus, getLsbD_cmdBits]
  by_cases h : i < 392
  · simp [h, show ¬(392 ≤ i ∧ i < 400) by omega]
  · by_cases h' : i < 400
    · simp [h, h', show i < 512 by omega, show 392 ≤ i by omega, show i - 392 < 8 by omega]
    · simp [h', show ¬(i - 392 < 8) by omega]

theorem getLsbD_mailboxFixed (i : Nat) : mailboxFixed.getLsbD i = decide (8 ≤ i ∧ i < 400) := by
  unfold mailboxFixed
  simp only [BitVec.getLsbD_shiftLeft, BitVec.truncate_eq_setWidth, BitVec.getLsbD_setWidth, BitVec.getLsbD_allOnes]
  by_cases h8 : i < 8
  · simp [h8, show ¬(8 ≤ i ∧ i < 400) by omega]
  · by_cases h : i < 400
    · simp [show i < 512 by omega, h8, show i - 8 < 512 by omega, show i - 8 < 392 by omega, show 8 ≤ i ∧ i < 400 by omega]
    · simp [show ¬(i - 8 < 392) by omega, show ¬(8 ≤ i ∧ i < 400) by omega]

theorem State.mailboxWith_fixed (s : State) (off : Nat) (bs : List (BitVec 8)) :
    (s.mailboxWith off bs).extractLsb' 8 392 = s.host.mailbox.extractLsb' 8 392 := by
  refine BitVec.eq_of_getLsbD_eq fun i hi => ?_
  have hfixed : mailboxFixed.getLsbD (8 + i) = true := by
    rw [getLsbD_mailboxFixed]
    simp
    omega
  simp [State.mailboxWith, hi, hfixed]

theorem natLE_cons_mod (b : BitVec 8) (bs : List (BitVec 8)) : natLE (b :: bs) % 256 = b.toNat := by
  rw [natLE]
  have := b.isLt
  omega

/-- The command of the mailbox after its first bytes are written. -/
theorem State.mailboxWith_cmd (s : State) {bs : List (BitVec 8)} (hbs : bs ≠ []) : (s.mailboxWith 0 bs).extractLsb' 0 8 = bs.headD 0 := by
  obtain ⟨b, rest, rfl⟩ := List.exists_cons_of_ne_nil hbs
  have hpatch : (patch s.host.mailbox 64 0 (b :: rest)).extractLsb' 0 8 = b := by
    refine BitVec.eq_of_toNat_eq ?_
    unfold patch
    rw [BitVec.extractLsb'_toNat, BitVec.toNat_ofNat, Nat.shiftRight_zero, Nat.mod_mod_of_dvd _ (Nat.pow_dvd_pow 2 (by decide : 8 ≤ 512))]
    exact natLE_cons_mod b _
  refine (BitVec.eq_of_getLsbD_eq fun i hi => ?_).trans hpatch
  have hfixed : mailboxFixed.getLsbD i = false := by
    rw [getLsbD_mailboxFixed]
    simp
    omega
  simp [State.mailboxWith, hi, hfixed]
  omega

theorem mailboxStarted_cmd (m : BitVec 512) : (mailboxStarted m).extractLsb' 0 8 = m.extractLsb' 0 8 := by
  refine BitVec.eq_of_getLsbD_eq fun i hi => ?_
  have hlow : i < 392 := by omega
  have hfree : ¬(392 ≤ i ∧ i < 400) := by omega
  simp [mailboxStarted, hi, hlow, hfree, getLsbD_statusBits, getLsbD_placeStatus]
  omega

theorem mailboxStarted_status (m : BitVec 512) : (mailboxStarted m).extractLsb' 392 8 = 1#8 := by
  refine BitVec.eq_of_getLsbD_eq fun i hi => ?_
  have hinside : 392 + i < 512 := by omega
  have hstatus : 392 + i < 400 := by omega
  rw [BitVec.getLsbD_extractLsb', mailboxStarted, BitVec.getLsbD_or, BitVec.getLsbD_and, BitVec.getLsbD_not, getLsbD_statusBits, getLsbD_placeStatus]
  simp [hi, hinside, hstatus]

theorem mailboxEnded_cmd (m : BitVec 512) (status : BitVec 8) : (mailboxEnded m status).extractLsb' 0 8 = 0#8 := by
  refine BitVec.eq_of_getLsbD_eq fun i hi => ?_
  have hlow : i < 392 := by omega
  simp [mailboxEnded, hi, hlow, getLsbD_cmdBits, getLsbD_placeStatus]

theorem mailboxEnded_status (m : BitVec 512) (status : BitVec 8) : (mailboxEnded m status).extractLsb' 392 8 = status := by
  refine BitVec.eq_of_getLsbD_eq fun i hi => ?_
  have hinside : 392 + i < 512 := by omega
  have hstatus : 392 + i < 400 := by omega
  have hwide : i < 512 := by omega
  rw [BitVec.getLsbD_extractLsb', mailboxEnded, BitVec.getLsbD_or, BitVec.getLsbD_and, BitVec.getLsbD_and, BitVec.getLsbD_not, getLsbD_statusBits,
    getLsbD_placeStatus]
  simp [hi, hinside, hstatus, hwide]

end Sys2Proof.Machine
end

section
/-!
Proofs for O54, on registers of the host port and resets.
-/
namespace Sys2Proof.Machine

/-! Registers of the host port (R469-R471, R477) -/

section
variable {s : State} {off : Nat} {bs : List (BitVec 8)}

theorem execRegisterWrite_of_bad (hbad : accessOk off bs.length = false) : execRegisterWrite off bs s = .next (s.reply none) := if_pos hbad

theorem execRegisterWrite_of_effect (hok : accessOk off bs.length = true) (htail : ¬(0x1000 ≤ off ∧ off < 0x1200)) :
    execRegisterWrite off bs s = s.registerEffect off bs := by
  rw [execRegisterWrite, if_neg (by rw [hok]; decide), if_neg htail]

theorem execRegisterWrite_of_tail (hok : accessOk off bs.length = true) (hlow : 0x1000 ≤ off) (hhigh : off < 0x1200) (haligned : off % 8 = 0) :
    execRegisterWrite off bs s = execTailRegisterWrite (Fin.ofNat 64 ((off - 0x1000) / 8)) (BitVec.ofNat 32 (natLE (bs.take 4))) s := by
  rw [execRegisterWrite, if_neg (by rw [hok]; decide), if_pos ⟨hlow, hhigh⟩, if_neg (not_not.mpr haligned)]

/-- The effect of a write of a register above the configuration blocks. -/
theorem State.registerEffect_of_high (hhigh : 0x180 ≤ off) : s.registerEffect off bs = .next (
    if 0x180 ≤ off ∧ off < 0x188 then
      s.modHost fun h => { h with winctl := patch h.winctl 8 (off - 0x180) bs &&& 0x00FFFFF000000FFF#64 }
    else if 0x200 ≤ off ∧ off < 0x280 then
      s.modHost fun h => { h with routes := Vec.modify h.routes (Fin.ofNat 16 ((off - 0x200) / 8)) fun r => patch r 8 (off % 8) bs }
    else if 0x2000 ≤ off ∧ off < 0x2040 then s.writeMailbox (off - 0x2000) bs
    else if 0x10000 ≤ off ∧ off < 0x11000 then s.modHost (·.writeVector (Fin.ofNat 256 ((off - 0x10000) / 16)) (off % 16) bs)
    else s) := by
  rw [State.registerEffect, if_neg (by omega), if_neg (by omega), if_neg (by omega)]

theorem State.registerEffect_of_mailbox (hlow : 0x2000 ≤ off) (hhigh : off < 0x2040) :
    s.registerEffect off bs = .next (s.writeMailbox (off - 0x2000) bs) := by
  rw [State.registerEffect_of_high (by omega), if_neg (by omega), if_neg (by omega), if_pos ⟨hlow, hhigh⟩]

theorem State.writeMailbox_of_later (hlater : off ≠ 0) : s.writeMailbox off bs = s.modHost fun h => { h with mailbox := s.mailboxWith off bs } := by
  have hcmd (p : Prop) : ¬(off = 0 ∧ p) := fun h => hlater h.1
  unfold State.writeMailbox
  dsimp only
  rw [if_neg fun h => hcmd _ h.1, if_neg (hcmd _)]
  rfl

/-- A state whose mailbox holds a command that has just started. -/
def State.startsCommand (s : State) (m : BitVec 512) : State :=
  { s with
    fresh := s.fresh + 1, host := { s.host with mailbox := m }
    newel := { s.newel with cmd := m, doneAt := some (s.cycle + 1 + Config.newelWait s.fresh), status := 0, acted := false, out := none } }

theorem State.writeMailbox_of_cmd (hidle : s.newel.doneAt = none) (hcmd : (s.mailboxWith 0 bs).extractLsb' 0 8 ≠ 0#8) :
    s.writeMailbox 0 bs = s.startsCommand (mailboxStarted (s.mailboxWith 0 bs)) := by
  have hgo : (0 : Nat) = 0 ∧ (s.mailboxWith 0 bs).extractLsb' 0 8 ≠ 0#8 := ⟨rfl, hcmd⟩
  have hbusy (p : Prop) : ¬(p ∧ s.newel.doneAt.isSome = true) := fun h => by
    rw [hidle] at h
    cases h.2
  unfold State.writeMailbox
  dsimp only
  rw [if_neg (hbusy _)]
  exact if_pos hgo

end

theorem ne_nil_of_accessOk {off n : Nat} (h : accessOk off n = true) : n ≠ 0 := by
  rintro rfl
  simp [accessOk] at h

theorem registersAreWritten (s : State) : RegistersAreWritten s := by
  refine ⟨fun off bs hok => ⟨fun hlow hhigh => ?winctl, fun hlow hhigh => ?routes, fun hlow hhigh haligned => ?tail, fun hlow hhigh => ?mailbox,
    fun hoff hidle hcmd => ?command⟩, fun off bs hbad => ⟨_, execRegisterWrite_of_bad hbad, rfl⟩⟩
  case winctl =>
    exact ⟨_, (execRegisterWrite_of_effect hok (by omega)).trans ((State.registerEffect_of_high hlow).trans (congrArg _ (if_pos ⟨hlow, hhigh⟩))), rfl⟩
  case routes =>
    refine ⟨_, (execRegisterWrite_of_effect hok (by omega)).trans ((State.registerEffect_of_high (by omega)).trans (congrArg _ ((if_neg (by omega)).trans
      (if_pos ⟨hlow, hhigh⟩)))), rfl⟩
  case tail => exact execRegisterWrite_of_tail hok hlow hhigh haligned
  case mailbox =>
    have hexec : exec (.registerWrite off bs) s = .next (s.modHost fun h => { h with mailbox := s.mailboxWith (off - 0x2000) bs }) := by
      show execRegisterWrite off bs s = _
      rw [execRegisterWrite_of_effect hok (by omega), State.registerEffect_of_mailbox (by omega) hhigh, State.writeMailbox_of_later (by omega)]
    rw [hexec, completes_next]
    exact ⟨rfl, s.mailboxWith_fixed (off - 0x2000) bs⟩
  case command =>
    subst hoff
    have hbs : bs ≠ [] := fun h => ne_nil_of_accessOk hok (by rw [h]; rfl)
    have hfirst := s.mailboxWith_cmd hbs
    have hexec : exec (.registerWrite 0x2000 bs) s = .next (s.startsCommand (mailboxStarted (s.mailboxWith 0 bs))) := by
      show execRegisterWrite 0x2000 bs s = _
      rw [execRegisterWrite_of_effect hok (by omega), State.registerEffect_of_mailbox (by omega) (by omega), Nat.sub_self,
        State.writeMailbox_of_cmd hidle (by rw [hfirst]; exact hcmd)]
    rw [hexec, completes_next]
    refine ⟨?_, rfl, ?_, mailboxStarted_status _⟩
    · show decide (s.cycle < s.cycle + 1 + Config.newelWait s.fresh) = true
      exact decide_eq_true (by omega)
    · show ((mailboxStarted (s.mailboxWith 0 bs)).extractLsb' 0 8).toNat = _
      rw [mailboxStarted_cmd, hfirst]

theorem registersAreRead (s : State) : RegistersAreRead s := by
  intro off n
  refine ⟨fun hbad => ⟨_, congrArg Host.Outcome.next (if_pos hbad), rfl⟩, fun hok hplain => ?plain, fun q bs u hok hoff hqueue hread => ?tail⟩
  case plain =>
    have hok' : ¬accessOk off n = false := by rw [hok]; decide
    exact ⟨_, congrArg Host.Outcome.next ((if_neg hok').trans (if_pos hplain)), rfl⟩
  case tail =>
    have hok' : ¬accessOk off n = false := by rw [hok]; decide
    have hplain : ¬(off < 0x1000 ∨ 0x1200 ≤ off) := by omega
    have hq : Fin.ofNat 64 ((off - 0x1000) / 8) = q := by
      refine Fin.ext ?_
      simp only [Fin.val_ofNat]
      omega
    have hexec : execRegisterRead off n s = .next ((u.forgetAways (whoTail q)).reply (some ((bs.drop (off % 8)).take n))) := by
      simp only [execRegisterRead, if_neg hok', if_neg hplain, hqueue, ne_eq, not_true_eq_false, if_false, hq, hread]
    exact ⟨_, hexec, rfl, rfl, rfl⟩

/-! Resets (R358, R481, R482) -/

theorem lookup_filter {α : Type} (m : Sparse α) (p : Nat → Bool) (a : Nat) : lookup (m.filter fun x => p x.1) a = if p a then lookup m a else none := by
  induction m with
  | nil => simp [lookup]
  | cons x m ih =>
    obtain ⟨k, v⟩ := x
    by_cases hk : p k = true
    · rw [List.filter_cons_of_pos (p := fun x : Nat × α => p x.1) hk, lookup, lookup, ih]
      by_cases ha : k = a
      · subst ha
        rw [if_pos rfl, if_pos rfl, if_pos hk]
      · rw [if_neg ha, if_neg ha]
    · rw [List.filter_cons_of_neg (p := fun x : Nat × α => p x.1) hk, ih, lookup]
      by_cases ha : k = a
      · subst ha
        rw [if_neg hk, if_neg hk]
      · rw [if_neg ha]

/-- Memory after a module reset, byte by byte. -/
theorem State.physRead_moduleReset (s : State) (pa : Nat) :
    s.moduleReset.physRead pa 1 = if phaserBase ≤ pa ∧ pa < phaserBase + 0x2000000 then [0] else s.physRead pa 1 := by
  have hsget : sget (0 : BitVec 8) (s.mem.filter fun x => !(decide (phaserBase ≤ x.1) && decide (x.1 < phaserBase + 0x2000000))) pa =
      if phaserBase ≤ pa ∧ pa < phaserBase + 0x2000000 then 0 else sget 0 s.mem pa := by
    rw [sget, lookup_filter s.mem fun a => !(decide (phaserBase ≤ a) && decide (a < phaserBase + 0x2000000))]
    by_cases h : phaserBase ≤ pa ∧ pa < phaserBase + 0x2000000
    · rw [if_pos h]
      simp [h.1, h.2]
    · have hkept : (!(decide (phaserBase ≤ pa) && decide (pa < phaserBase + 0x2000000))) = true := by
        simp only [Bool.not_eq_true', Bool.and_eq_false_iff, decide_eq_false_iff_not]
        omega
      rw [if_neg h, if_pos hkept]
      rfl
  have hmem : s.moduleReset.mem = s.mem.filter fun x => !(decide (phaserBase ≤ x.1) && decide (x.1 < phaserBase + 0x2000000)) := rfl
  show [sget (0 : BitVec 8) s.moduleReset.mem pa] = _
  rw [hmem, hsget]
  split <;> rfl

theorem State.body_moduleReset (s : State) (c : CoreId) :
    s.moduleReset.body c = {} ∧ s.moduleReset.cores[c].retired = (s.cores[c].retired && !s.newel.unretire.contains c) := by
  have hcore : s.moduleReset.cores[c] = s.cores[c].afterReset (s.newel.unretire.contains c) := Vec.getElem_ofFn ..
  rw [State.body, hcore]
  exact ⟨rfl, rfl⟩

theorem moduleResets (s : State) : ModuleResets s := by
  refine ⟨_, rfl, rfl, rfl, rfl, rfl, rfl, rfl, rfl, s.body_moduleReset, ?_, ?_, fun pa hlow hhigh => ?_, fun pa hpa => ?_⟩
  · unfold State.moduleReset
    dsimp only
    split <;> rfl
  · unfold State.moduleReset
    dsimp only
    split <;> rfl
  · rw [State.physRead_moduleReset, if_pos ⟨hlow, hhigh⟩]
  · rw [State.physRead_moduleReset, if_neg (by omega)]

end Sys2Proof.Machine
end

section
/-!
Proofs for O54, on the window and commands of the newel controller.
-/
namespace Sys2Proof.Machine

/-! The window (R160, R470) -/

section
variable {s t u : State} {off : Nat}

theorem State.OnlyAccess.host (h : s.OnlyAccess t) : t.host = s.host := by rw [h]

section
variable {n : Nat} (hinside : off + n ≤ 2 ^ 36) (hqueue : s.host.queue = [])
include hinside hqueue

theorem execWindowRead_of_read {bs : List (BitVec 8)} (hread : s.glbRead .host s.windowAsn (s.windowVA off) n = (.ok bs, u)) :
    execWindowRead off n s = .next ((u.forgetAways .host).reply (some bs)) := by
  simp only [execWindowRead, inWindow, decide_eq_true hinside, Bool.true_eq_false, if_false, hqueue, ne_eq, not_true_eq_false, hread]

theorem execWindowRead_of_waits (hread : s.glbRead .host s.windowAsn (s.windowVA off) n = (.waits, u)) :
    execWindowRead off n s = .next ((s.keepAways u).hostWaits (.event (.windowRead off n))) := by
  simp only [execWindowRead, inWindow, decide_eq_true hinside, Bool.true_eq_false, if_false, hqueue, ne_eq, not_true_eq_false, hread]

end

section
variable {bs : List (BitVec 8)} (hinside : off + bs.length ≤ 2 ^ 36) (hqueue : s.host.queue = [])
include hinside hqueue

theorem execWindowWrite_of_written {g : List (BitVec 8)} (hwrite : s.glbWrite .host s.windowAsn (s.windowVA off) bs = (.ok g, u)) :
    execWindowWrite off bs s = .next (u.forgetAways .host) := by
  simp only [execWindowWrite, inWindow, decide_eq_true hinside, Bool.true_eq_false, if_false, hqueue, ne_eq, not_true_eq_false, hwrite]

theorem execWindowWrite_of_waits (hwrite : s.glbWrite .host s.windowAsn (s.windowVA off) bs = (.waits, u)) :
    execWindowWrite off bs s = .next ((s.keepAways u).hostWaits (.event (.windowWrite off bs))) := by
  simp only [execWindowWrite, inWindow, decide_eq_true hinside, Bool.true_eq_false, if_false, hqueue, ne_eq, not_true_eq_false, hwrite]

end

/-- An access of the host to a line has set out, and the host access waits first in the port. -/
theorem hostWaits_leaves (hqueue : s.host.queue = []) (asn : BitVec 12) (v : VA) (n : Nat) (bytes : Option (List (BitVec 8))) (i : Input) :
    let t := (s.keepAways (s.startAccess .host asn v n bytes 0)).hostWaits i
    t.host.queue = [(s.host.inForce, i)] ∧ t.host.replies = s.host.replies ∧ t.mem = s.mem ∧ t.cores = s.cores ∧
      ∃ a, t.accesses = s.accesses ++ [a] ∧ a.who = .host ∧ a.asn = asn ∧ a.va = v ∧ a.n = n ∧ a.bytes = bytes ∧ a.answer = none := by
  refine ⟨?_, rfl, rfl, rfl, _, rfl, rfl, rfl, rfl, rfl, rfl, rfl⟩
  show s.host.queue ++ _ = _
  rw [hqueue]
  rfl

section
variable (hnone : ∀ a ∈ s.accesses, a.who ≠ .host)
include hnone

theorem State.access?_host_of_none (asn : BitVec 12) (v : VA) (n : Nat) (bytes : Option (List (BitVec 8))) (round : Nat) :
    s.access? .host asn v n bytes round = none :=
  List.find?_eq_none.mpr fun a ha => by simp [hnone a ha]

theorem State.glbRead_of_unasked {asn : BitVec 12} {v : VA} {n a k : Nat} {more : List (Nat × Nat)} (hpieces : linePieces v.toNat n = (a, k) :: more) :
    s.glbRead .host asn v n = (.waits, s.startAccess .host asn (.ofNat 56 a) k none 0) := by
  have hsend : s.sendNext .host asn 0 false ((a, k) :: more) = s.startAccess .host asn (.ofNat 56 a) k none 0 := by
    simp only [State.sendNext, State.access?_host_of_none hnone]
  have haccess : (s.startAccess .host asn (.ofNat 56 a) k none 0).access? .host asn (.ofNat 56 a) k none 0 =
      some { id := s.nextId, who := .host, asn, va := .ofNat 56 a, n := k, bytes := none, round := 0 } := by
    have haccesses : (s.startAccess .host asn (.ofNat 56 a) k none 0).accesses =
        s.accesses ++ [{ id := s.nextId, who := .host, asn, va := .ofNat 56 a, n := k, bytes := none, round := 0 }] := rfl
    have hold := State.access?_host_of_none hnone asn (.ofNat 56 a) k none 0
    unfold State.access? at hold ⊢
    rw [haccesses, List.find?_append, hold]
    simp
  simp only [State.glbRead, hpieces, State.glbLines, if_true, hsend, State.gather, haccess, Option.bind_some]

theorem State.glbWrite_of_unasked {asn : BitVec 12} {v : VA} {bs : List (BitVec 8)} {a k : Nat} {more : List (Nat × Nat)}
    (hpieces : linePieces v.toNat bs.length = (a, k) :: more) :
    s.glbWrite .host asn v bs = (.waits, s.startAccess .host asn (.ofNat 56 a) k (some (bs.take k)) 0) := by
  simp only [State.glbWrite, hpieces, State.writeLines, State.glbLine, State.access?_host_of_none hnone]

end

end

theorem windowAccessesComplete (s : State) : WindowAccessesComplete s := by
  refine ⟨fun off n hinside hqueue => ⟨fun bs u hread => ?read, fun v k more hpieces hnone => ?asks⟩,
    fun off bs hinside hqueue => ⟨fun g u hwrite => ?written, fun v k more hpieces hnone => ?writes⟩⟩
  case read =>
    have hu : s.OnlyAccess u := by
      have hlines := (State.sendNext_asks (who := .host) rfl s s.windowAsn 0 false (linePieces (s.windowVA off).toNat n)).1
      have heq : u = s.sendNext .host s.windowAsn 0 false (linePieces (s.windowVA off).toNat n) := (congrArg Prod.snd hread).symm
      rwa [heq]
    refine ⟨_, execWindowRead_of_read hinside hqueue hread, ?_, hu.mem, hu.cores⟩
    show u.host.replies ++ [some bs] = _
    rw [hu.host]
  case asks =>
    exact ⟨_, execWindowRead_of_waits hinside hqueue (State.glbRead_of_unasked hnone hpieces), hostWaits_leaves hqueue ..⟩
  case written =>
    have hu : s.OnlyAccess u := by
      have hlines := (State.writeLines_asks (who := .host) rfl s s.windowAsn 0 (linePieces (s.windowVA off).toNat bs.length) bs).1
      have heq : u = (s.writeLines .host s.windowAsn 0 (linePieces (s.windowVA off).toNat bs.length) bs).2 := (congrArg Prod.snd hwrite).symm
      rwa [heq]
    refine ⟨_, execWindowWrite_of_written hinside hqueue hwrite, hu.mem, ?_, ?_, hu.cores⟩
    · exact congrArg HostPort.replies hu.host
    · exact (congrArg HostPort.queue hu.host).trans hqueue
  case writes =>
    exact ⟨_, execWindowWrite_of_waits hinside hqueue (State.glbWrite_of_unasked hnone hpieces), hostWaits_leaves hqueue ..⟩

/-! Commands of the newel controller (R477-R483) -/

section
variable {s : State}

theorem State.command_of_due {code : Nat} (hdue : s.commandDue = true) (harg : s.newel.argOk = true) (hcode : s.newel.code = code) (f : State → State) :
    s.command code f = .next (f s) := by
  rw [State.command, if_pos ⟨hdue, hcode⟩, if_pos harg]

theorem State.withArg_of_read {n : Nat} {bs : List (BitVec 8)} (h : ArgIs s n bs) (f : State → List (BitVec 8) → State) : s.withArg n f = f s bs := by
  unfold ArgIs at h
  simp only [State.withArg, h]

/-- What an acting command leaves. -/
theorem State.acted_acts {t : State} (hcmd : t.newel.cmd = s.newel.cmd) (hmem : t.mem = s.mem) (hcores : t.cores = s.cores) (status : BitVec 8)
    (out : Option (Nat × List (BitVec 8))) : Acted s (t.acted status out) status out := by
  refine ⟨rfl, rfl, ?_, hmem, hcores⟩
  have harg : t.newel.arg = s.newel.arg := by rw [Newel.arg, Newel.arg, hcmd]
  show out.map (fun o => (t.newel.arg + o.1, o.2)) = _
  rw [harg]

/-- The cap that a command sets. -/
def State.capped (s : State) (n : Nat) : State := s.modNewel fun k => { k with power := { k.power with cap := n } }

/-- An image that fills the inactive slot. -/
def State.imaged (s : State) (bs : List (BitVec 8)) : State := s.modNewel fun k => { k with next := none, inactive := bs.take (signedLen bs + 384) }

variable (hdue : s.commandDue = true) (harg : s.newel.argOk = true)
include hdue harg

theorem cap_acts {bs : List (BitVec 8)} (hcode : s.newel.code = 3) (hread : ArgIs s 2 bs) :
    (800 ≤ natLE bs → natLE bs ≤ 2800 → Completes (exec .cap s) fun t => Acted s t 0 none ∧ t.newel.power.cap = natLE bs) ∧
      (natLE bs < 800 ∨ 2800 < natLE bs → Completes (exec .cap s) fun t => Acted s t 3 none ∧ t.newel.power = s.newel.power) := by
  have hexec : exec .cap s = .next (if 800 ≤ natLE bs ∧ natLE bs ≤ 2800 then (s.capped (natLE bs)).acted 0 else s.acted 3) := by
    show execCap s = _
    rw [execCap, State.command_of_due hdue harg hcode, State.withArg_of_read hread]
    rfl
  rw [hexec]
  refine ⟨fun hlow hhigh => ?_, fun hbad => ?_⟩
  · rw [if_pos ⟨hlow, hhigh⟩, completes_next]
    exact ⟨State.acted_acts rfl rfl rfl .., rfl⟩
  · rw [if_neg (by omega), completes_next]
    exact ⟨State.acted_acts rfl rfl rfl .., rfl⟩

theorem update_acts {bs : List (BitVec 8)} (hcode : s.newel.code = 4) (hread : ArgIs s s.newel.alen bs) {version : BitVec 64}
    (hversion : BitVec.ofNat 64 (natLE ((bs.drop 8).take 8)) = version) :
    (updateOk bs = false → Completes (exec .update s) fun t => Acted s t 4 none ∧ t.newel.next = none ∧ t.newel.version = s.newel.version ∧
      t.newel.active = s.newel.active) ∧
    (updateOk bs = true → version < s.newel.counter → Completes (exec .update s) fun t => Acted s t 5 none ∧ t.newel.next = none) ∧
    (updateOk bs = true → s.newel.counter ≤ version → Completes (exec .update s) fun t => Acted s t 0 none ∧ t.newel.next = some version ∧
      t.newel.version = s.newel.version ∧ t.newel.active = s.newel.active ∧ t.newel.inactive = bs.take (signedLen bs + 384) ∧ ∃ r ∈ t.log, r.kind = .update) := by
  have hexec : exec .update s = .next (if updateOk bs = false then (s.imaged bs).acted 4 else if version < s.newel.counter then (s.imaged bs).acted 5
      else (((s.imaged bs).modNewel fun k => { k with next := some version }).logEvent .update 0 (version.zeroExtend 384)).acted 0) := by
    show execUpdate s = _
    rw [execUpdate, State.command_of_due hdue harg hcode, State.withArg_of_read hread, ← hversion]
    rfl
  rw [hexec]
  refine ⟨fun hbad => ?_, fun hok hold => ?_, fun hok hnew => ?_⟩
  · rw [if_pos hbad, completes_next]
    exact ⟨State.acted_acts rfl rfl rfl .., rfl, rfl, rfl⟩
  · rw [if_neg (by rw [hok]; decide), if_pos hold, completes_next]
    exact ⟨State.acted_acts rfl rfl rfl .., rfl⟩
  · rw [if_neg (by rw [hok]; decide), if_neg (BitVec.not_lt.mpr hnew), completes_next]
    obtain ⟨u, hu⟩ : ∃ u, u = (s.imaged bs).modNewel fun k => { k with next := some version } := ⟨_, rfl⟩
    obtain ⟨w, hw⟩ : ∃ w, w = u.logEvent .update 0 (version.zeroExtend 384) := ⟨_, rfl⟩
    have hnewel : w.newel = { s.newel with next := some version, inactive := bs.take (signedLen bs + 384) } := by
      rw [hw, hu]
      rfl
    have hacts : Acted s (w.acted 0) 0 none := State.acted_acts (by rw [hnewel]) (by rw [hw, hu]; rfl) (by rw [hw, hu]; rfl) 0 none
    have hlog : ∃ r ∈ w.log, r.kind = .update := by
      rw [hw]
      exact ⟨_, List.mem_append_right _ (List.mem_singleton.mpr rfl), rfl⟩
    rw [← hu, ← hw]
    refine ⟨hacts, ?_, ?_, ?_, ?_, hlog⟩
    · show w.newel.next = _
      rw [hnewel]
    · show w.newel.version = _
      rw [hnewel]
    · show w.newel.active = _
      rw [hnewel]
    · show w.newel.inactive = _
      rw [hnewel]

theorem attest_acts {bs : List (BitVec 8)} (hcode : s.newel.code = 5) (hlong : 288 ≤ s.newel.alen) (hread : ArgIs s 32 bs) :
    Completes (exec .attest s) fun t => t.newel.acted = true ∧ t.newel.status = 0 ∧
      ∃ sig : List (BitVec 8), sig.length = 96 ∧ t.newel.out = some (s.newel.arg + 64, s.attestBody bs ++ sig) := by
  have hexec : exec .attest s = .next (State.acted { s with fresh := s.fresh + 1 } 0
      (some (64, s.attestBody bs ++ bytesLE 96 (Config.attestSignature s.fresh (s.attestBody bs)).toNat))) := by
    show execAttest s = _
    rw [execAttest, State.command_of_due hdue harg hcode, if_neg (by omega), State.withArg_of_read hread]
    rfl
  rw [hexec, completes_next]
  exact ⟨rfl, rfl, _, length_bytesLE 96 _, rfl⟩

theorem unretire_acts {bs : List (BitVec 8)} {c : CoreId} (hcode : s.newel.code = 7) (hread : ArgIs s 1 bs) (hcore : natLE bs = c.val) :
    Completes (exec .unretire s) fun t => Acted s t 0 none ∧ t.newel.unretire = s.newel.unretire ++ [c] := by
  have hinside : natLE bs < 128 := by omega
  have hc : (⟨natLE bs, hinside⟩ : CoreId) = c := Fin.ext hcore
  have hexec : exec .unretire s = .next ((s.modNewel fun k => { k with unretire := k.unretire ++ [⟨natLE bs, hinside⟩] }).acted 0) := by
    show execUnretire s = _
    rw [execUnretire, State.command_of_due hdue harg hcode, State.withArg_of_read hread, dif_pos hinside]
  rw [hexec, completes_next, hc]
  exact ⟨State.acted_acts rfl rfl rfl .., rfl⟩

end

theorem commandsAct (s : State) : CommandsAct s := by
  intro hdue harg
  refine ⟨fun hcode => ?sensors, fun bs hcode hread => ?log, fun bs hcode hread => cap_acts hdue harg hcode hread,
    fun bs hcode hread => update_acts hdue harg hcode hread rfl, fun bs hcode hlong hread => attest_acts hdue harg hcode hlong hread,
    fun hcode => ?errcnt, fun bs c hcode hread hcore => unretire_acts hdue harg hcode hread hcore,
    fun hcode => ⟨_, congrArg Host.Outcome.next (if_pos ⟨hdue, hcode⟩), State.acted_acts rfl rfl rfl ..⟩⟩
  case sensors =>
    show Completes (execSensors s) _
    rw [execSensors, State.command_of_due hdue harg hcode, completes_next]
    exact State.acted_acts rfl rfl rfl ..
  case log =>
    show Completes (execLog s) _
    rw [execLog, State.command_of_due hdue harg hcode, completes_next, State.withArg_of_read hread]
    exact State.acted_acts rfl rfl rfl ..
  case errcnt =>
    show Completes (execErrcnt s) _
    rw [execErrcnt, State.command_of_due hdue harg hcode, completes_next]
    exact State.acted_acts rfl rfl rfl ..

end Sys2Proof.Machine
end

section
/-!
Proofs for O54, on the end of a command and completions.
-/
namespace Sys2Proof.Machine

/-! The end of a command (R472, R477) -/

theorem HostPort.mailbox_raise (h : HostPort) (v : Nat) : (h.raise v).mailbox = h.mailbox := by
  unfold HostPort.raise
  split
  · dsimp only
    split <;> rfl
  · rfl

/-- A message of a vector that is not masked is sent. -/
theorem HostPort.raise_of_unmasked {h : HostPort} {v : Nat} (hv : v < 256) (hmask : h.table[v].getLsbD 96 = false) :
    h.raise v = { h with messages := h.messages ++ [(⟨v, hv⟩, h.table[v].extractLsb' 0 64, h.table[v].extractLsb' 64 32)] } := by
  unfold HostPort.raise
  rw [dif_pos hv]
  dsimp only
  rw [hmask]
  exact if_neg Bool.false_ne_true

section
variable {s : State}

/-- A state whose mailbox says that the command is over. -/
def State.answersCommand (s : State) : State := (s.forgetAways .newel).modHost fun h => { h with mailbox := mailboxEnded s.host.mailbox s.newel.status }

theorem State.endCommand_eq (s : State) : s.endCommand = State.modNewel (if s.newel.vector < 255 then s.answersCommand.raiseVector s.newel.vector else s.answersCommand)
    fun k => { k with doneAt := none, acted := false, out := none } := rfl

theorem State.endCommand_leaves (s : State) : let t := s.endCommand
    t.newel.doneAt = none ∧ t.host.mailbox.extractLsb' 0 8 = 0#8 ∧ t.host.mailbox.extractLsb' 392 8 = s.newel.status ∧ t.mem = s.mem ∧ t.cores = s.cores := by
  have hmailbox : s.endCommand.host.mailbox = mailboxEnded s.host.mailbox s.newel.status := by
    rw [State.endCommand_eq]
    split
    · exact HostPort.mailbox_raise ..
    · rfl
  refine ⟨rfl, by rw [hmailbox, mailboxEnded_cmd], by rw [hmailbox, mailboxEnded_status], ?_⟩
  rw [State.endCommand_eq]
  split <;> exact ⟨rfl, rfl⟩

theorem State.messages_endCommand {v : Fin 255} (hvector : s.newel.vector = v.val) (hmask : s.host.table[v.val].getLsbD 96 = false) :
    s.endCommand.host.messages = s.host.messages ++
      [(⟨v.val, Nat.lt_trans v.isLt (by decide)⟩, s.host.table[v.val].extractLsb' 0 64, s.host.table[v.val].extractLsb' 64 32)] := by
  have hraise := HostPort.raise_of_unmasked (h := s.answersCommand.host) (Nat.lt_trans v.isLt (by decide)) hmask
  rw [State.endCommand_eq, if_pos (by rw [hvector]; exact v.isLt), hvector]
  exact congrArg HostPort.messages hraise

theorem execMailboxCompletion_of_done (hdone : s.newel.doneAt.isSome = true) (hacted : s.newel.acted = true)
    (hout : s.newel.out = none ∨ ∃ a bs, s.newel.out = some (a, bs) ∧ s.newelWrites (chunks 512 (hostBase + a) bs.length) bs = (true, s) ∧
      ∃ x, s.awayAccess .newel (hostBase + a) (min 64 bs.length) none = (some x, s)) : execMailboxCompletion s = .next s.endCommand := by
  have hgo : ¬(s.newel.doneAt.isNone = true ∨ s.newel.acted = false) := by
    rw [hacted, ← Option.not_isSome, hdone]
    decide
  unfold execMailboxCompletion
  rw [if_neg hgo]
  rcases hout with hnone | ⟨a, bs, hsome, hwritten, x, hread⟩
  · rw [hnone]
  · rw [hsome]
    dsimp only
    split
    · rfl
    · rw [hwritten]
      dsimp only
      rw [hread]

end

theorem commandsComplete (s : State) : CommandsComplete s := by
  intro hdone hacted hout
  obtain ⟨hend, hcmd, hstatus, hmem, hcores⟩ := s.endCommand_leaves
  refine ⟨_, execMailboxCompletion_of_done hdone hacted hout, hend, hcmd, hstatus, hmem, hcores, fun v hvector hmask => ?_⟩
  exact ⟨_, _, State.messages_endCommand hvector hmask, rfl⟩

/-! Completions of host and peer memory (R135, R354, R473-R475) -/

section
variable {s : State} {id : Nat} {a : Away} {host : Bool}

theorem State.away_of_away? (h : s.away? id host = some a) : a.id = id ∧ isHost a.pa = host ∧ a ∈ s.aways := by
  have hfound := List.find?_some h
  simp only [Bool.and_eq_true, beq_iff_eq] at hfound
  exact ⟨hfound.1.1, hfound.2, List.mem_of_find?_eq_some h⟩

/-- An access of the newel controller that was sent has an answer. -/
theorem State.complete_newel (hwho : a.who = .newel) {data : Option (List (BitVec 8))} (hgood : (data.isNone && a.bytes.isSome && isHost a.pa) = false) :
    let t := s.complete a data
    t = { s with aways := t.aways } ∧ ∀ x ∈ t.aways, x.id = a.id → x.answer = some data := by
  have heq : s.complete a data = { s with aways := s.aways.map fun x => if x.id = a.id then { x with answer := some data } else x } := by
    simp only [State.complete, hwho, hgood, Bool.false_eq_true, if_false]
  rw [heq]
  refine ⟨rfl, fun x hx hid => ?_⟩
  obtain ⟨y, -, rfl⟩ := List.mem_map.mp hx
  by_cases hy : y.id = a.id
  · rw [if_pos hy]
  · rw [if_neg hy] at hid
    exact absurd hid hy

/-- The state without an access that was sent. -/
def State.withoutAway (s : State) (id : Nat) : State := { s with aways := s.aways.filter (·.id != id) }

theorem State.complete_request {k : Nat} {r : Request} (hwho : a.who = .request k) (hr : s.request? k = some r) (data : Option (List (BitVec 8))) :
    s.complete a data = (s.withoutAway a.id).completeRequest r a data := by
  have hr' : State.request? { s with aways := s.aways.filter (·.id != a.id) } k = some r := hr
  simp only [State.complete, hwho, hr']
  rfl

/-- A request that comes back from outside. -/
theorem State.comeBack_leaves {k : Nat} {r y : Request} (hr : s.request? k = some y) (hid : r.id = k) (id : Nat) : let t := (s.withoutAway id).comeBack r
    t.mem = s.mem ∧ t.cores = s.cores ∧ t.aways = s.aways.filter (·.id != id) ∧ ∃ x, t.request? k = some x ∧ x.stage = .packetIn ∧ r.Along x := by
  subst hid
  obtain ⟨⟨x, hx, halong, hstage, -⟩, hmem, hcores⟩ := State.sendPacket_moves (s := s.withoutAway id) (r := r) hr r.exit_ (homeDie r.va) .packetIn r.out.isNone
  exact ⟨hmem, hcores, rfl, x, hx, hstage, halong⟩

section
variable {k : Nat} {r : Request} (haway : s.away? id host = some a) (hwho : a.who = .request k) (hr : s.request? k = some r)
include haway hwho hr

/-- A completion that is not of an atomic on host memory gives the data to the request. -/
theorem State.complete_data (houtside : r.out = none ∨ host = false) (bs : List (BitVec 8)) : let t := s.complete a (some bs)
    t.mem = s.mem ∧ t.cores = s.cores ∧ t.aways = s.aways.filter (·.id != id) ∧
      ∃ x, t.request? k = some x ∧ x.stage = .packetIn ∧ x.data = bs ∧ x.fault = r.fault := by
  obtain ⟨rfl, hhost, -⟩ := State.away_of_away? haway
  have hplain : ¬(isHost a.pa = true ∧ r.out.isSome = true) := by
    rintro ⟨h, hout⟩
    rcases houtside with hnone | hfalse
    · rw [hnone] at hout
      cases hout
    · rw [hhost, hfalse] at h
      cases h
  have heq : s.complete a (some bs) = (s.withoutAway a.id).comeBack { r with data := bs } := by
    rw [State.complete_request hwho hr]
    unfold State.completeRequest
    rw [if_neg hplain]
  have hid := State.id_of_request? hr
  obtain ⟨hmem, hcores, haways, x, hx, hstage, halong⟩ := State.comeBack_leaves (r := { r with data := bs }) hr hid a.id
  rw [heq]
  exact ⟨hmem, hcores, haways, x, hx, hstage, by rw [halong], by rw [halong]⟩

theorem State.complete_fault (hhost : host = true) (hread : a.bytes = none) : let t := s.complete a none
    t.mem = s.mem ∧ t.cores = s.cores ∧ t.aways = s.aways.filter (·.id != id) ∧
      ∃ x, t.request? k = some x ∧ x.stage = .packetIn ∧ x.fault = (if r.out = none then some .protection else r.fault) := by
  obtain ⟨rfl, hpa, -⟩ := State.away_of_away? haway
  have hid := State.id_of_request? hr
  by_cases hout : r.out = none
  · have hplain : ¬(isHost a.pa = true ∧ r.out.isSome = true) := by simp [hout]
    have heq : s.complete a none = (s.withoutAway a.id).comeBack { r with fault := some .protection } := by
      rw [State.complete_request hwho hr]
      unfold State.completeRequest
      rw [if_neg hplain]
    obtain ⟨hmem, hcores, haways, x, hx, hstage, halong⟩ := State.comeBack_leaves (r := { r with fault := some .protection }) hr hid a.id
    rw [heq, if_pos hout]
    exact ⟨hmem, hcores, haways, x, hx, hstage, by rw [halong]⟩
  · have hhosted : isHost a.pa = true ∧ r.out.isSome = true := ⟨hpa.trans hhost, Option.isSome_iff_ne_none.mpr hout⟩
    have heq : s.complete a none = (s.withoutAway a.id).comeBack r := by
      rw [State.complete_request hwho hr]
      unfold State.completeRequest
      rw [if_pos hhosted, hread]
    obtain ⟨hmem, hcores, haways, x, hx, hstage, halong⟩ := State.comeBack_leaves (r := r) hr hid a.id
    rw [heq, if_neg hout]
    exact ⟨hmem, hcores, haways, x, hx, hstage, by rw [halong]⟩

/-- An atomic on host memory: its read comes back, its write is followed by a read. -/
theorem State.complete_performed (hhost : host = true) (hout : r.out ≠ none) (bs : List (BitVec 8)) :
    (a.bytes = none → s.complete a (some bs) = (s.withoutAway id).comeBack r) ∧
      (a.bytes ≠ none → s.complete a (some bs) = { s.withoutAway id with
        aways := s.aways.filter (·.id != id) ++ [⟨s.nextId, .request r.id, a.pa, a.n, none, s.cycle, none⟩], nextId := s.nextId + 1 }) := by
  obtain ⟨rfl, hpa, -⟩ := State.away_of_away? haway
  have hhosted : isHost a.pa = true ∧ r.out.isSome = true := ⟨hpa.trans hhost, Option.isSome_iff_ne_none.mpr hout⟩
  refine ⟨fun hread => ?_, fun hwrite => ?_⟩
  · rw [State.complete_request hwho hr]
    unfold State.completeRequest
    rw [if_pos hhosted, hread]
  · obtain ⟨w, hw⟩ := Option.ne_none_iff_exists'.mp hwrite
    rw [State.complete_request hwho hr]
    unfold State.completeRequest
    rw [if_pos hhosted, hw]
    rfl

end

theorem execHostCompletion_of_fits {bs : List (BitVec 8)} (haway : s.away? id true = some a) (hfits : a.fits bs = true) :
    execHostCompletion id (some bs) s = .next (s.complete a (some bs)) := by
  simp only [execHostCompletion, haway, hfits, if_true]

theorem execHostReadTimeout_of_late (haway : s.away? id true = some a) (hlate : a.late s.cycle = true) :
    execHostReadTimeout id s = .next (s.complete a none) := by
  simp only [execHostReadTimeout, haway, hlate, if_true]

theorem execPeerResponse_of_away {bs : List (BitVec 8)} (haway : s.away? id false = some a) :
    execPeerResponse id (some bs) s = .next (s.complete a (some bs)) := by
  simp only [execPeerResponse, haway]

theorem Away.bytes_of_late {now : Nat} (h : a.late now = true) : a.bytes = none := by
  simp only [Away.late, Bool.and_eq_true, Option.isNone_iff_eq_none] at h
  exact h.1.2

end

theorem portsComplete (s : State) : PortsComplete s := by
  refine ⟨fun id a haway => ⟨fun bs hfits => ⟨fun hwho => ?newel, fun k r hwho hr hout => ?data, fun k r hwho hr hout hbytes => ?performed⟩, fun hlate => ?late⟩,
    fun id a k r bs haway hwho hr => ?peer⟩
  case newel =>
    obtain ⟨rfl, -, -⟩ := State.away_of_away? haway
    exact ⟨_, execHostCompletion_of_fits haway hfits, State.complete_newel hwho rfl⟩
  case data =>
    refine ⟨_, execHostCompletion_of_fits haway hfits, ?_⟩
    by_cases hnone : r.out = none
    · rw [if_pos hnone]
      exact State.complete_data haway hwho hr (.inl hnone) bs
    · rw [if_neg hnone, (State.complete_performed haway hwho hr rfl hnone bs).1 (hout.resolve_left hnone)]
      obtain ⟨hmem, hcores, haways, x, hx, hstage, halong⟩ := State.comeBack_leaves (r := r) hr (State.id_of_request? hr) id
      exact ⟨hmem, hcores, haways, x, hx, hstage, by rw [halong], by rw [halong]⟩
  case performed =>
    refine ⟨_, execHostCompletion_of_fits haway hfits, ?_⟩
    rw [(State.complete_performed haway hwho hr rfl hout bs).2 hbytes]
    exact ⟨rfl, rfl, rfl, rfl⟩
  case late =>
    have hexec := execHostReadTimeout_of_late haway hlate
    have hread := Away.bytes_of_late hlate
    refine ⟨fun hwho => ⟨_, hexec, ?_⟩, fun k r hwho hr => ⟨_, hexec, State.complete_fault haway hwho hr rfl hread⟩⟩
    obtain ⟨rfl, -, -⟩ := State.away_of_away? haway
    exact State.complete_newel hwho (by rw [hread]; rfl)
  case peer => exact ⟨_, execPeerResponse_of_away haway, State.complete_data haway hwho hr (.inr rfl) bs⟩

end Sys2Proof.Machine
end

section
/-!
Proofs for O54, on peers and links.
-/
namespace Sys2Proof.Machine

/-! Peers (R474, R475) -/

theorem State.HallOnly.foldl {s : State} {α : Type} {f : State → α → State} (hf : ∀ u x, State.HallOnly u (f u x)) (xs : List α) :
    s.HallOnly (xs.foldl f s) := by
  induction xs generalizing s with
  | nil => exact .refl s
  | cons x xs ih => exact (hf s x).trans ih

theorem State.placePhysical_hallOnly (s : State) (pa : Nat) : s.HallOnly (s.placePhysical pa) := by
  unfold State.placePhysical
  split
  · exact State.placeTag_hallOnly ..
  · exact .refl s

section
variable {s : State} {q : PeerReq} {r : Request}

theorem Request.outer_of_peer (hop : r.op = .peer q) : r.outer = true := by simp [Request.outer, hop]

/-- The answer to a peer sets out over the concourse. -/
theorem State.answer_of_peer {y : Request} (hr : s.request? r.id = some y) (hop : r.op = .peer q) :
    MovesOn s (s.answer r) r.id fun x => r.Along x ∧ x.stage = .packetBack := by
  rw [State.answer, if_pos (Request.outer_of_peer hop)]
  exact movesOn_imp (State.sendPacket_moves hr ..) fun x hx => ⟨hx.1, hx.2.1⟩

/-- The lines of a peer's request are touched. -/
def State.touchedBy (s : State) (q : PeerReq) : State :=
  { s with hall := s.hall.map fun h => if (physLines q.pa (peerSize q.op)).contains h.pline then { h with touched := s.cycle } else h }

theorem State.touchedBy_hallOnly (s : State) (q : PeerReq) : s.HallOnly (s.touchedBy q) := rfl

variable (hfind : s.requests.find? (fun r => r.op == .peer q && s.workReady r) = some r)
  (hfree : s.peerWaits r (physLines q.pa (peerSize q.op)) = false)
include hfind

theorem op_of_find : r.op = .peer q := by
  have hfound := List.find?_some hfind
  simp only [Bool.and_eq_true, beq_iff_eq] at hfound
  exact hfound.1

theorem holds_of_find : s.Holds r.id := List.find?_isSome.mpr ⟨r, List.mem_of_find?_eq_some hfind, by simp⟩

theorem execPeerRequest_of_found : execPeerRequest q s = .next (s.performPeer r q) := by
  simp only [execPeerRequest, hfind]

include hfree

theorem peerRead_leaves {n : Nat} (hread : q.op = .read n) (hclean : ∀ l ∈ physLines q.pa n, l ∉ s.poison) :
    Completes (exec (.peerRequest q) s) fun t => t.mem = s.mem ∧ t.cores = s.cores ∧
      ∃ x, t.request? r.id = some x ∧ x.stage = .packetBack ∧ x.data = s.physRead q.pa n ∧ x.fault = r.fault := by
  have hsize : peerSize q.op = n := by rw [hread]; rfl
  have hnone : (physLines q.pa n).any (s.touchedBy q).poison.contains = false :=
    List.any_eq_false.mpr fun l hl => by simpa [State.touchedBy] using hclean l hl
  have hact : (s.touchedBy q).peerAct q (physLines q.pa n) = (some (s.physRead q.pa n), s.touchedBy q) := by
    simp only [State.peerAct, hread, hnone, Bool.false_eq_true, if_false]
    rfl
  have hperform : s.performPeer r q = (s.touchedBy q).answer { r with data := s.physRead q.pa n } := by
    unfold State.touchedBy at hact ⊢
    rw [hsize] at hact hfree ⊢
    simp only [State.performPeer, hsize, hfree, Bool.false_eq_true, if_false, hact]
  obtain ⟨y, hy⟩ := Option.isSome_iff_exists.mp (holds_of_find hfind)
  have hop := op_of_find hfind
  obtain ⟨⟨x, hx, halong, hstage⟩, hmem, hcores⟩ := State.answer_of_peer (s := s.touchedBy q) (r := { r with data := s.physRead q.pa n })
    (((s.touchedBy_hallOnly q).request? r.id).trans hy) hop
  refine ⟨_, (execPeerRequest_of_found hfind).trans (congrArg _ hperform), hmem, hcores, x, hx, hstage, ?_, ?_⟩
  · rw [halong]
  · rw [halong]

theorem peerWrite_leaves {bs : List (BitVec 8)} (hwrite : q.op = .write bs) :
    Completes (exec (.peerRequest q) s) fun t => t.cores = s.cores ∧ t.physRead q.pa bs.length = bs ∧
      (∀ a, (a < q.pa ∨ q.pa + bs.length ≤ a) → t.physRead a 1 = s.physRead a 1) ∧
        ∃ x, t.request? r.id = some x ∧ x.stage = .packetBack ∧ x.fault = r.fault := by
  obtain ⟨u, hu⟩ : ∃ u, u = (physLines q.pa (peerSize q.op)).foldl (fun s l => s.placePhysical (128 * l)) (s.touchedBy q) := ⟨_, rfl⟩
  have hhall : s.HallOnly u := hu ▸ (s.touchedBy_hallOnly q).trans (.foldl (fun v l => v.placePhysical_hallOnly (128 * l)) _)
  have hperform : s.performPeer r q = (u.placeWrite q.pa bs).answer { r with data := [] } := by
    have hact : (s.touchedBy q).peerAct q (physLines q.pa (peerSize q.op)) = (some [], u.placeWrite q.pa bs) := by
      rw [hu]
      simp only [State.peerAct, hwrite]
    unfold State.touchedBy at hact
    simp only [State.performPeer, hfree, Bool.false_eq_true, if_false, hact]
  obtain ⟨y, hy⟩ := Option.isSome_iff_exists.mp (holds_of_find hfind)
  have hop := op_of_find hfind
  obtain ⟨⟨x, hx, halong, hstage⟩, hmem, hcores⟩ := State.answer_of_peer (s := u.placeWrite q.pa bs) (r := { r with data := [] })
    ((hhall.request? r.id).trans hy) hop
  have hplaces : Places s ((u.placeWrite q.pa bs).answer { r with data := [] }) q.pa bs :=
    places_of_mem (u.places_placeWrite q.pa bs) hhall.coresMem.2 hmem
  refine ⟨_, (execPeerRequest_of_found hfind).trans (congrArg _ hperform), hcores.trans hhall.coresMem.1, hplaces.1, hplaces.2, x, hx, hstage, ?_⟩
  rw [halong]

end

section
variable {s : State} {q : PeerReq}

theorem find?_peer_of_none (hnone : ∀ x ∈ s.requests, x.op ≠ .peer q) : (s.requests.find? fun r => r.op == .peer q && s.workReady r) = none :=
  List.find?_eq_none.mpr fun x hx => by simp [hnone x hx]

theorem execPeerRequest_of_bad (hnone : ∀ x ∈ s.requests, x.op ≠ .peer q) (hbad : 0x9000000000 < q.pa + peerSize q.op ∨ badOp q = true) :
    execPeerRequest q s = .next (s.respond q none) := by
  simp only [execPeerRequest, find?_peer_of_none hnone, if_pos hbad]

theorem peerSent_leaves (hnone : ∀ x ∈ s.requests, x.op ≠ .peer q) (hinside : q.pa + peerSize q.op ≤ 0x9000000000) (hgood : badOp q = false)
    (hnew : ∀ x ∈ s.requests, x.id ≠ s.nextId) : Completes (exec (.peerRequest q) s) fun t => t.mem = s.mem ∧ t.cores = s.cores ∧
      t.host.answers = s.host.answers ∧ ∃ x, t.request? s.nextId = some x ∧ x.op = .peer q ∧ x.stage = .packet := by
  have hserved : ¬(0x9000000000 < q.pa + peerSize q.op ∨ badOp q = true) := by
    rintro (h | h)
    · omega
    · rw [hgood] at h
      cases h
  obtain ⟨die, hdie⟩ : ∃ die : Fin 8, die = match s.host.linkFor q.peer with
    | some l => Fin.ofNat 8 (l.val / 2)
    | none => 0 := ⟨_, rfl⟩
  obtain ⟨r, hr⟩ : ∃ r : Request, r = { id := s.nextId, core := 0, baddr := 0, issued := 0, asn := 0, va := 0, op := .peer q, gslot := false, exit_ := die } :=
    ⟨_, rfl⟩
  obtain ⟨u, hu⟩ : ∃ u : State, u = { s with nextId := s.nextId + 1, requests := s.requests ++ [r] } := ⟨_, rfl⟩
  have hexec : exec (.peerRequest q) s = .next (u.sendPacket r die (u.servedAt r) .packet true) := by
    show execPeerRequest q s = _
    simp only [execPeerRequest, find?_peer_of_none hnone, if_neg hserved]
    (rw [hu, hr, hdie]) <;> rfl
  have hid : r.id = s.nextId := by rw [hr]
  have hrequest : u.request? r.id = some r := by
    have hold : s.requests.find? (·.id == r.id) = none := List.find?_eq_none.mpr fun x hx => by simpa [hid] using hnew x hx
    rw [State.request?, hu, List.find?_append, hold]
    simp
  obtain ⟨⟨x, hx, halong, hstage, -⟩, hmem, hcores⟩ := State.sendPacket_moves hrequest die (u.servedAt r) .packet true
  rw [hexec, completes_next, ← hid]
  refine ⟨hmem.trans (by rw [hu]), hcores.trans (by rw [hu]), by rw [hu]; rfl, x, hx, ?_, hstage⟩
  rw [halong, hr]

/-- An answer to a peer leaves the module. -/
theorem peerAnswered_leaves {r : Request} (hr : s.request? r.id = some r) (hop : r.op = .peer q) (harrives : s.arrives r = true) :
    Completes (exec (.answerReturn r.id) s) fun t => t.host.answers = s.host.answers ++ [(q.peer, q.tag, if r.fault.isSome then none else some r.data)] ∧
      t.mem = s.mem ∧ t.cores = s.cores ∧ t.request? r.id = none := by
  have hreturns : r.returns = true ∧ s.arrives r = true := ⟨by simp [Request.returns, hop], harrives⟩
  have hdeliver : s.deliver r = { s.dropRequest r.id with
      host := { s.host with answers := s.host.answers ++ [(q.peer, q.tag, if r.fault.isSome then none else some r.data)] } } := by
    simp only [State.deliver, hop]
    rfl
  have hexec : exec (.answerReturn r.id) s = .next (s.deliver r) := by
    show execAnswerReturn r.id s = _
    simp only [execAnswerReturn, hr, if_pos hreturns]
  rw [hexec, completes_next, hdeliver]
  exact ⟨rfl, rfl, rfl, s.request?_dropRequest r.id⟩

end

theorem peersAreServed (s : State) : PeersAreServed s := by
  intro q
  refine ⟨fun hnone => ⟨fun hbad => ⟨_, execPeerRequest_of_bad hnone hbad, rfl⟩, fun hinside hgood hnew => peerSent_leaves hnone hinside hgood hnew⟩,
    fun r hfind hfree => ⟨fun n hread hclean => peerRead_leaves hfind hfree hread hclean, fun bs hwrite => peerWrite_leaves hfind hfree hwrite⟩,
    fun r hr hop harrives => peerAnswered_leaves hr hop harrives⟩

/-! Links (R476) -/

theorem execFlitRetry_of_up {s : State} {l : Fin 16} (hup : 2 ≤ s.host.links[l].val) : execFlitRetry l s = .next (
    if sget 0 s.host.retries[l] s.host.flit[l] < 16 then
      s.modHost fun h => { h with retries := h.retries.set l (sset 0 h.retries[l] s.host.flit[l] (sget 0 s.host.retries[l] s.host.flit[l] + 1)) }
    else s.linkDown l) := congrArg Host.Outcome.next (if_neg hup.not_gt)

theorem linksRetry (s : State) : LinksRetry s := by
  intro l
  refine ⟨fun hup => ?_, fun degraded => ⟨_, rfl, rfl⟩⟩
  intro f n
  have hexec : exec (.flitRetry l) s = _ := execFlitRetry_of_up hup
  refine ⟨fun hfew => ?again, fun hmany => ?down⟩
  case again => exact ⟨_, hexec.trans (congrArg Host.Outcome.next (if_pos hfew)), rfl⟩
  case down =>
    refine ⟨_, hexec.trans (congrArg Host.Outcome.next (if_neg hmany.not_gt)), Vector.getElem_set_self .., fun x hx => ?_, ?_, rfl, rfl⟩
    · exact bne_iff_ne.mp (List.mem_filter.mp hx).2
    · exact ⟨_, List.mem_append_right _ (List.mem_singleton.mpr rfl), rfl, rfl⟩

end Sys2Proof.Machine
end

section
/-!
Proofs for O54, on power and memory errors.
-/
namespace Sys2Proof.Machine

/-! Sensors, the power budget, the loss of coolant or power, and the summary of corrected errors (R478-R484) -/

section
variable (s : State)

/-- Just after the log of a critical temperature, the module is reset (R480, R484). -/
theorem thermalReset_leaves : Completes (.next (s.logEvent .thermal 0).moduleReset) fun t =>
    t.cycle = 0 ∧ t.requests = [] ∧ (∀ c, t.body c = {}) ∧ ∃ r ∈ t.log, r.kind = .thermal :=
  ⟨_, rfl, rfl, rfl, fun c => ((s.logEvent .thermal 0).body_moduleReset c).1, _, List.mem_append_right _ (List.mem_singleton.mpr rfl), rfl⟩

theorem execPowerBudgetCheck_of_critical (hot : 920 ≤ s.newel.hottest) :
    execPowerBudgetCheck s = .next (s.logEvent .thermal 0).moduleReset := congrArg Host.Outcome.next (if_pos hot)

/-- A state that has taken a power stage and recorded that it changed. -/
def State.powerChecked (s : State) (p : Power) : State :=
  (if p.throttled ≠ s.newel.power.throttled ∨ p.stopped ≠ s.newel.power.stopped then
    s.logEvent .throttle 0 (BitVec.ofNat 384 s.newel.watts) else s).modNewel fun k => { k with power := p }

theorem State.powerChecked_leaves (p : Power) :
    (s.powerChecked p).newel.power = p ∧ (s.powerChecked p).mem = s.mem ∧ (s.powerChecked p).cores = s.cores := by
  unfold State.powerChecked
  split <;> exact ⟨rfl, rfl, rfl⟩

theorem execPowerBudgetCheck_of_running (cool : s.newel.hottest < 920) (hgo : (s.newel.stage s.cycle).stopped = false) :
    execPowerBudgetCheck s = .next (s.powerChecked (s.newel.stage s.cycle)) := by
  rw [execPowerBudgetCheck, if_neg (by omega)]
  exact congrArg Host.Outcome.next (if_neg (by rw [hgo]; decide))

end

section
variable {k : Newel} {now : Nat}

theorem Newel.stage_above_of_low (hlow : 10 * k.watts ≤ 11 * k.power.cap) : (k.stage now).above = none := if_neg (by omega)

theorem Newel.stage_running (cool : k.hottest < 840) (hlow : 10 * k.watts ≤ 11 * k.power.cap) (hgo : k.power.stopped = false) :
    (k.stage now).stopped = false := by
  have habove : (if 11 * k.power.cap < 10 * k.watts then some (k.power.above.getD now) else none) = none := if_neg (by omega)
  have hnone (p : Nat → Bool) : ¬((none : Option Nat).any p = true ∨ 840 ≤ k.hottest) := by
    rintro (h | h)
    · cases h
    · omega
  simp only [Newel.stage, habove, if_neg (hnone _), hgo, Bool.false_and]

end

/-- Below every limit of temperature and of power plus 10 %, a check takes the stage of its watts. -/
theorem execPowerBudgetCheck_leaves {s : State} (cool : s.newel.hottest < 840) (hlow : 10 * s.newel.watts ≤ 11 * s.newel.power.cap)
    (hgo : s.newel.power.stopped = false) : Completes (execPowerBudgetCheck s) fun t =>
      t.newel.power.throttled = decide (s.newel.power.cap < s.newel.watts) ∧ t.newel.power.stopped = false ∧ t.newel.power.above = none ∧
        t.mem = s.mem ∧ t.cores = s.cores := by
  have hrun := Newel.stage_running (now := s.cycle) cool hlow hgo
  obtain ⟨hpower, hmem, hcores⟩ := s.powerChecked_leaves (s.newel.stage s.cycle)
  refine ⟨_, execPowerBudgetCheck_of_running s (by omega) hrun, ?_, ?_, ?_, hmem, hcores⟩ <;> rw [hpower]
  · rfl
  · exact hrun
  · exact Newel.stage_above_of_low hlow

/-! The summary of corrected memory errors (R479, R480) -/

/-- The record of the errors of one die. -/
def State.eccRecord (s : State) (i : Fin 16) : LogRecord := ⟨s.epoch + s.cycle, .eccSummary, i.val, BitVec.ofNat 384 s.newel.corrected[i]⟩

def State.logEcc (s : State) (i : Fin 16) : State := s.logEvent .eccSummary i.val (BitVec.ofNat 384 s.newel.corrected[i])

/-- The newest records stay while the log has room for them. -/
theorem State.suffix_logEcc {s : State} {recent : List LogRecord} (i : Fin 16) (hroom : recent.length < 4096) (hsuffix : recent <:+ s.log) :
    recent ++ [s.eccRecord i] <:+ (s.logEcc i).log := by
  obtain ⟨older, hlog⟩ := hsuffix
  show recent ++ [s.eccRecord i] <:+ (if s.log.length < 4096 then s.log else s.log.drop 1) ++ [s.eccRecord i]
  split
  case isTrue => exact ⟨older, by rw [← hlog, List.append_assoc]⟩
  case isFalse hfull =>
    have holder : 1 ≤ older.length := by
      rw [← hlog, List.length_append] at hfull
      omega
    exact ⟨older.drop 1, by rw [← hlog, List.drop_append_of_le_length holder, List.append_assoc]⟩

theorem State.foldl_logEcc (s : State) (dies : List (Fin 16)) (recent : List LogRecord) (hroom : recent.length + dies.length ≤ 4096)
    (hsuffix : recent <:+ s.log) :
    recent ++ dies.map s.eccRecord <:+ (dies.foldl State.logEcc s).log ∧ (dies.foldl State.logEcc s).newel = s.newel ∧
      (dies.foldl State.logEcc s).mem = s.mem ∧ (dies.foldl State.logEcc s).cores = s.cores := by
  induction dies generalizing s recent with
  | nil => exact ⟨by rwa [List.map_nil, List.append_nil], rfl, rfl, rfl⟩
  | cons i dies ih =>
    rw [List.length_cons] at hroom
    obtain ⟨hlog, hframe⟩ := ih (s.logEcc i) (recent ++ [s.eccRecord i]) (by rw [List.length_append, List.length_singleton]; omega)
      (State.suffix_logEcc i (by omega) hsuffix)
    rw [List.append_assoc] at hlog
    exact ⟨hlog, hframe⟩

theorem execEccSummary_eq (s : State) : execEccSummary s =
    .next (((List.finRange 16).foldl State.logEcc s).modNewel fun k => { k with corrected := Vector.replicate 16 0 }) := by
  unfold State.logEcc
  rfl

theorem eccSummary_leaves (s : State) : Completes (exec .eccSummary s) fun t =>
    t.newel = { s.newel with corrected := Vector.replicate 16 0 } ∧ t.mem = s.mem ∧ t.cores = s.cores ∧
      ∀ i : Fin 16, ∃ r ∈ t.log, r.kind = .eccSummary ∧ r.unit = i.val ∧ r.detail = BitVec.ofNat 384 s.newel.corrected[i] := by
  show Completes (execEccSummary s) _
  have hroom : ([] : List LogRecord).length + (List.finRange 16).length ≤ 4096 := by rw [List.length_finRange]; decide
  obtain ⟨hlog, hnewel, hmem, hcores⟩ := s.foldl_logEcc (List.finRange 16) [] hroom List.nil_suffix
  rw [execEccSummary_eq]
  generalize (List.finRange 16).foldl State.logEcc s = u at *
  refine ⟨_, rfl, congrArg (fun k : Newel => { k with corrected := Vector.replicate 16 0 }) hnewel, hmem, hcores, fun i => ⟨s.eccRecord i, ?_, rfl, rfl, rfl⟩⟩
  exact hlog.subset (List.mem_map_of_mem (List.mem_finRange i))

theorem powerIsKept (s : State) : PowerIsKept s := by
  refine ⟨⟨_, rfl, rfl⟩, fun hot => ?_, fun cool hlow hgo => ?_, fun cool hhigh hlow hgo => ?_, thermalReset_leaves s, ⟨_, rfl, rfl⟩, eccSummary_leaves s⟩
  · show Completes (execPowerBudgetCheck s) _
    rw [execPowerBudgetCheck_of_critical s hot]
    exact thermalReset_leaves s
  · obtain ⟨t, hexec, hthrottled, hstopped, habove, hmem, hcores⟩ := execPowerBudgetCheck_leaves cool (by omega) hgo
    exact ⟨t, hexec, hthrottled.trans (decide_eq_false hlow.not_gt), hstopped, habove, hmem, hcores⟩
  · obtain ⟨t, hexec, hthrottled, hstopped, -, hmem, hcores⟩ := execPowerBudgetCheck_leaves cool hlow hgo
    exact ⟨t, hexec, hthrottled.trans (decide_eq_true hhigh), hstopped, hmem, hcores⟩

/-- Settles O54: each clause by the lemma that says what its event leaves. -/
theorem hostEvents : Obligations.HostEvents := fun s =>
  ⟨registersAreWritten s, registersAreRead s, moduleResets s, windowAccessesComplete s, commandsAct s, commandsComplete s, portsComplete s,
    peersAreServed s, linksRetry s, powerIsKept s⟩

end Sys2Proof.Machine
end
